-- ==== Sys2Proof/Word.lean ====
section
/-! DEFINITION. Sys2Proof/Word.lean: the word types of the YW-3, their plainest arithmetic, and sixteen-lane vectors (00 R12, 03 R80, 06 R180). -/

namespace Sys2Proof

/-- A scalar register, a system register, an identifier counter. -/
abbrev Word := BitVec 64
/-- One lane of a v register (12 R338). -/
abbrev Lane := BitVec 32
/-- One byte of memory. -/
abbrev Byte := BitVec 8

/-- Sixteen lanes from a function of the lane number. -/
def lanes {α : Type} (f : Fin 16 → α) : Vector α 16 :=
  #v[f 0, f 1, f 2, f 3, f 4, f 5, f 6, f 7, f 8, f 9, f 10, f 11, f 12, f 13, f 14, f 15]

/-- A token: sixteen 32-bit elements and one valid bit each (03 R80, 06 R180). -/
structure Token where
  elem  : Vector Lane 16
  valid : BitVec 16
  deriving DecidableEq, Repr

/-- The token whose elements are +0 and whose valid bits are 0 (06 Table 6-6). -/
def Token.empty : Token := { elem := Vector.replicate 16 0, valid := 0 }

/-- A moment triple: count, mean and centred second moment, FP32 bits (09 R274). -/
structure Triple where
  n    : Lane
  mean : Lane
  m2   : Lane
  deriving DecidableEq, Repr

/-- The empty triple (09 R274). -/
def Triple.empty : Triple := { n := 0, mean := 0, m2 := 0 }

/-- A w register: one triple a lane (06 R180). -/
abbrev Moments := Vector Triple 16

/-- A w register whose every lane is the empty triple (06 Table 6-6). -/
def Moments.empty : Moments := Vector.replicate 16 Triple.empty

/-- The 1-bit word of a truth value. -/
def boolBit (b : Bool) : Nat := if b then 1 else 0

end Sys2Proof
end

