-- ==== Sys2Proof/Config.lean ====
section
/-! DEFINITION. Sys2Proof/Config.lean: what is fixed for a module, and the free values: constants without a body, for values the manual leaves open. -/

namespace Sys2Proof.Config

/-- Columns and rows of the logical grid (01 R22). -/
def cols : Nat := 135
def rows : Nat := 96
/-- Logical cores (00 Table 0-3). -/
def cores : Nat := 12960

/-- SHA-384 of a byte string (04 R122, R136). Cryptography is not computed: log 13. -/
opaque sha384 : List Byte → BitVec 384
/-- The 48 bytes of a digest, the first the most significant (log 13). -/
def digestBytes (x : BitVec 384) : List Byte := (List.range 48).map fun k => x.extractLsb' (8 * (47 - k)) 8
/-- The measurement a stage extends into MEAS j: SHA-384 of the old value and the stage's digest (04 R136). -/
def measure (old digest : BitVec 384) : BitVec 384 := sha384 (digestBytes old ++ digestBytes digest)
/-- The digest of firmware stage j (04 R136), log 13. -/
opaque stageDigest : Nat → BitVec 384
/-- The module identity key that the key unit derives at boot from the SRAM PUF and the helper data in flash (04 R135), log 13. -/
opaque identityKey : BitVec 384
/-- A key derived from the identity key with a label: 0 for attestation, 1 for the health record (04 R135), log 13. -/
opaque derivedKey : BitVec 384 → Nat → BitVec 384
/-- The identity certificate in flash, signed at manufacture for the identity key's public key (04 R135), log 13. -/
opaque identityCert : BitVec 768
/-- The authentication of a record in flash under a key (01 R40, 04 R135), log 13. -/
opaque authenticate : BitVec 384 → List Nat → BitVec 384
/-- An ECDSA signature by a key over a digest (04 R137), log 13. -/
opaque sign : BitVec 384 → BitVec 384 → BitVec 768
/-- Byte i of a 128-byte line that home memory holds under one key, or none, and that comes back through another (02 R66), applied to both, the line
and what it holds: log 14. -/
opaque garbled : Option (BitVec 512) → Option (BitVec 512) → Nat → List Byte → Nat → Byte
/-- The contents left by a march or a self-test holding copy are not seen; this is the value the manual does not state
for the error history and for other fields of reports it names without layout (04 R137, R138), applied to the ticket: log 17. -/
opaque freeWord : Nat → BitVec 64
/-- The FP32 result of a special function where the model's two enclosing bounds round apart, applied to the function
number and the operand: log 21. -/
opaque freeSpecial : Nat → BitVec 32 → BitVec 32

end Sys2Proof.Config
end

