-- ==== Sys2Proof/Syntax.lean ====
section
/-! DEFINITION. Sys2Proof/Syntax.lean: the instructions of the YW-3 as data. One constructor for every row of the opcode
table: the slot words of bundles (10 Tables 10-7 to 10-15) with the operands each uses, and the steps of the module
(95_what_each_step_holds) with what names them: the core, router, slice, gate or port they happen at, and the data that
comes from outside the module. A slot word does not say its slot (R310), so the slot is no part of it. -/

namespace Sys2Proof

/-! ## Codes that recur across the formats -/

/-- TY: an integer type (10 R290, Table 10-5). -/
inductive Ty where
  | i8 | i16 | i32 | i64 | n8 | n16 | n32 | n64
  deriving DecidableEq, Repr

/-- RMS: a rounding selection (10 R290, Table 10-6). -/
inductive Rms where
  | fpcr | rne | rtz | rup | rdn | rsto
  deriving DecidableEq, Repr

/-- An element format code (03 Table 3-4). -/
inductive Fmt where
  | f32 | f16 | bf16 | i32 | i16 | i8 | t8 | t6 | e4m3 | e5m2 | triple
  deriving DecidableEq, Repr

/-- COND of `brc` (11 R323). -/
inductive Cond where
  | z | nz | ltz | gez | lez | gtz
  deriving DecidableEq, Repr

/-- A system register by its name (06 R207, Table 6-7). -/
inductive SysReg where
  | coreCaps | waferCaps | partHop | wcc | fpcr
  | key (k : Fin 4) | xdone (k : Fin 4) | xnext (k : Fin 4)
  | pbdone | pbnext | accMap | accOwn | rsbStat | bankMode | strmCtl
  | trapRec (k : Fin 4)
  deriving DecidableEq, Repr

/-- PRED and PSENSE of a slot word (10 R285): the slot executes when the register's value differs from `sense`. -/
structure Pred where
  reg   : Fin 8
  sense : Bool
  deriving DecidableEq, Repr

/-! ## Operand formats (10 Tables 10-7 to 10-9): each holds the fields its instructions use -/

namespace Form

/-- RRR and VRRR with SUB zero. -/
structure R3 where
  (d a : Fin 32)
  ta : Bool
  b : Fin 32
  tb : Bool
  deriving DecidableEq, Repr

/-- RRR and VRRR whose SUB is a number: the predicate of `sel`, the shift of `lea`, the selector mask of `vsel`. -/
structure R3K where
  (d a : Fin 32)
  ta : Bool
  b : Fin 32
  tb : Bool
  k : Fin 8
  deriving DecidableEq, Repr

/-- RRR and VRRR whose SUB is TY. -/
structure R3Y where
  (d a : Fin 32)
  ta : Bool
  b : Fin 32
  tb : Bool
  ty : Ty
  deriving DecidableEq, Repr

/-- RRR of `mulh`, `div`, `rem`: SUB is TY 3 or TY 7 (Table 11-1). -/
structure R3U where
  (d a : Fin 32)
  ta : Bool
  b : Fin 32
  (tb uns : Bool)
  deriving DecidableEq, Repr

/-- VRRR whose SUB is RMS. -/
structure R3R where
  (d a : Fin 32)
  ta : Bool
  b : Fin 32
  tb : Bool
  rms : Rms
  deriving DecidableEq, Repr

/-- RRR and VRRR with B, TB and SUB zero. -/
structure R2 where
  (d a : Fin 32)
  ta : Bool
  deriving DecidableEq, Repr

/-- VRRR with B and TB zero whose SUB is RMS. -/
structure R2R where
  (d a : Fin 32)
  ta : Bool
  rms : Rms
  deriving DecidableEq, Repr

/-- VRRR of `vext` and `vins`: B holds the lane k (R339). -/
structure R2K where
  (d a : Fin 32)
  ta : Bool
  k : Fin 16
  deriving DecidableEq, Repr

/-- RRRR: `madd`. -/
structure R4 where
  (d a : Fin 32)
  ta : Bool
  b : Fin 32
  tb : Bool
  c : Fin 32
  tc : Bool
  deriving DecidableEq, Repr

/-- RRRR: `clamp`. -/
structure R4Y where
  (d a : Fin 32)
  ta : Bool
  b : Fin 32
  tb : Bool
  ty : Ty
  c : Fin 32
  tc : Bool
  deriving DecidableEq, Repr

/-- VRRRR: `vclamp`. -/
structure V4 where
  (d a : Fin 32)
  ta : Bool
  b : Fin 32
  tb : Bool
  c : Fin 32
  tc : Bool
  msk : Fin 8
  deriving DecidableEq, Repr

/-- VRRRR: `vfma`, `vfms`, `vfnma`. -/
structure V4R where
  (d a : Fin 32)
  ta : Bool
  b : Fin 32
  tb : Bool
  rms : Rms
  c : Fin 32
  tc : Bool
  msk : Fin 8
  deriving DecidableEq, Repr

/-- RRI with a 9-bit immediate. -/
structure Ri where
  (d a : Fin 32)
  ta : Bool
  imm : BitVec 9
  deriving DecidableEq, Repr

/-- RRI extended: a 41-bit immediate, X above I9. -/
structure RiX where
  (d a : Fin 32)
  ta : Bool
  imm : BitVec 41
  deriving DecidableEq, Repr

/-- RRI of the immediate shifts: the amount is 0 to 63 (R312). -/
structure Rn where
  (d a : Fin 32)
  ta : Bool
  n : Fin 64
  deriving DecidableEq, Repr

/-- RI with a 15-bit immediate. -/
structure Li where
  d : Fin 32
  imm : BitVec 15
  deriving DecidableEq, Repr

/-- RI extended: a 47-bit immediate, X above I15. -/
structure LiX where
  d : Fin 32
  imm : BitVec 47
  deriving DecidableEq, Repr

/-- BF: POS and LENM1 (R317). -/
structure Bf where
  (d a : Fin 32)
  ta : Bool
  (pos lenm1 : Fin 64)
  deriving DecidableEq, Repr

/-- CMP; `uns` is SGN. -/
structure Cmp where
  pd : Fin 8
  a : Fin 32
  ta : Bool
  b : Fin 32
  (tb uns : Bool)
  deriving DecidableEq, Repr

/-- CMPI with a 10-bit immediate. -/
structure Cmpi where
  pd : Fin 8
  a : Fin 32
  (ta uns : Bool)
  imm : BitVec 10
  deriving DecidableEq, Repr

/-- CMPI extended: a 42-bit immediate, X above I10. -/
structure CmpiX where
  pd : Fin 8
  a : Fin 32
  (ta uns : Bool)
  imm : BitVec 42
  deriving DecidableEq, Repr

/-- PPP. -/
structure P3 where
  (pd pa pb : Fin 8)
  deriving DecidableEq, Repr

/-- PPP with PB zero. -/
structure P2 where
  (pd pa : Fin 8)
  deriving DecidableEq, Repr

/-- J: OFF20, signed, in halfwords. -/
structure Jmp where
  off : BitVec 20
  deriving DecidableEq, Repr

/-- BRC with OFF11. -/
structure Brc where
  a : Fin 32
  ta : Bool
  cond : Cond
  off : BitVec 11
  deriving DecidableEq, Repr

/-- BRC extended: a 32-bit offset, OFF11 zero. -/
structure BrcX where
  a : Fin 32
  ta : Bool
  cond : Cond
  off : BitVec 32
  deriving DecidableEq, Repr

/-- SYS with A and TA only. -/
structure Ra where
  a : Fin 32
  ta : Bool
  deriving DecidableEq, Repr

/-- LP: END14 in halfwords. -/
structure Lp where
  a : Fin 32
  ta : Bool
  stop : BitVec 14
  deriving DecidableEq, Repr

/-- LPI: CNTM1 and END10. -/
structure Lpx where
  (cntm1 stop : BitVec 10)
  deriving DecidableEq, Repr

/-- XW: channel and identifier register. -/
structure Xw where
  ch : Fin 4
  a : Fin 32
  ta : Bool
  deriving DecidableEq, Repr

/-- N: I16. -/
structure N16 where
  imm : BitVec 16
  deriving DecidableEq, Repr

/-- SYS of `srd`: D and SYSNUM. -/
structure Srd where
  d : Fin 32
  reg : SysReg
  deriving DecidableEq, Repr

/-- SYS of `swr`: A, TA and SYSNUM. -/
structure Swr where
  a : Fin 32
  ta : Bool
  reg : SysReg
  deriving DecidableEq, Repr

/-- SYS of `cfgq`: D and an item 0 to 4. -/
structure Cfgq where
  d : Fin 32
  item : Fin 5
  deriving DecidableEq, Repr

/-- SYS with D only. -/
structure Rd where
  d : Fin 32
  deriving DecidableEq, Repr

/-- VRRR with an m destination. -/
structure Mc where
  d : Fin 8
  a : Fin 32
  ta : Bool
  b : Fin 32
  tb : Bool
  deriving DecidableEq, Repr

/-- VRRR with an m destination and TY. -/
structure McY where
  d : Fin 8
  a : Fin 32
  ta : Bool
  b : Fin 32
  tb : Bool
  ty : Ty
  deriving DecidableEq, Repr

/-- VRRR over three m registers. -/
structure M3 where
  (d a b : Fin 8)
  deriving DecidableEq, Repr

/-- VRRR over two m registers. -/
structure M2 where
  (d a : Fin 8)
  deriving DecidableEq, Repr

/-- VRRR of `mpop` and `mfirst`: an s destination and an m source. -/
structure Sm where
  d : Fin 32
  a : Fin 8
  deriving DecidableEq, Repr

/-- VRRR of `vvalid`: an m destination and a v source. -/
structure Mv where
  d : Fin 8
  a : Fin 32
  ta : Bool
  deriving DecidableEq, Repr

/-- VCV of `vcvt`. -/
structure Vcv where
  (d a : Fin 32)
  ta : Bool
  v : Fin 32
  tv : Bool
  rms : Rms
  msk : Fin 8
  (sfmt dfmt : Fmt)
  deriving DecidableEq, Repr

/-- VCV of `vpack` and `vunpack`: MSK is zero (R351). -/
structure Vpk where
  (d a : Fin 32)
  ta : Bool
  v : Fin 32
  tv : Bool
  rms : Rms
  (sfmt dfmt : Fmt)
  deriving DecidableEq, Repr

/-- LSL of `ld` with I5. -/
structure Ld where
  (d a : Fin 32)
  ta : Bool
  ty : Ty
  off : BitVec 5
  deriving DecidableEq, Repr

/-- LSL of `ld` extended: a 32-bit byte offset, I5 zero. -/
structure LdX where
  (d a : Fin 32)
  ta : Bool
  ty : Ty
  off : BitVec 32
  deriving DecidableEq, Repr

/-- LSL of `st` with I5. -/
structure St where
  (d a : Fin 32)
  (ta td : Bool)
  ty : Ty
  off : BitVec 5
  deriving DecidableEq, Repr

/-- LSL of `st` extended: a 32-bit byte offset, I5 zero. -/
structure StX where
  (d a : Fin 32)
  (ta td : Bool)
  ty : Ty
  off : BitVec 32
  deriving DecidableEq, Repr

/-- LSL of `vld` with I5. -/
structure Vld where
  (d a : Fin 32)
  ta : Bool
  off : BitVec 5
  deriving DecidableEq, Repr

/-- LSL of `vld` extended: a 32-bit byte offset, I5 zero. -/
structure VldX where
  (d a : Fin 32)
  ta : Bool
  off : BitVec 32
  deriving DecidableEq, Repr

/-- LSL of `vst` with I5. -/
structure Vst where
  (d a : Fin 32)
  (ta td : Bool)
  off : BitVec 5
  deriving DecidableEq, Repr

/-- LSL of `vst` extended: a 32-bit byte offset, I5 zero. -/
structure VstX where
  (d a : Fin 32)
  (ta td : Bool)
  off : BitVec 32
  deriving DecidableEq, Repr

/-- LSL of `vldm` with I5. -/
structure Vldm where
  (d a : Fin 32)
  ta : Bool
  msk : Fin 8
  off : BitVec 5
  deriving DecidableEq, Repr

/-- LSL of `vldm` extended: a 32-bit byte offset, I5 zero. -/
structure VldmX where
  (d a : Fin 32)
  ta : Bool
  msk : Fin 8
  off : BitVec 32
  deriving DecidableEq, Repr

/-- LSL of `vstm` with I5. -/
structure Vstm where
  (d a : Fin 32)
  (ta td : Bool)
  msk : Fin 8
  off : BitVec 5
  deriving DecidableEq, Repr

/-- LSL of `vstm` extended: a 32-bit byte offset, I5 zero. -/
structure VstmX where
  (d a : Fin 32)
  (ta td : Bool)
  msk : Fin 8
  off : BitVec 32
  deriving DecidableEq, Repr

/-- LSG of `gld`. -/
structure Gld where
  d : Fin 32
  h : Fin 16
  th : Bool
  a : Fin 32
  ta : Bool
  ty : Ty
  deriving DecidableEq, Repr

/-- LSG of `gst`. -/
structure Gst where
  d : Fin 32
  h : Fin 16
  th : Bool
  a : Fin 32
  ta : Bool
  ty : Ty
  td : Bool
  deriving DecidableEq, Repr

/-- LSG of the AMOs but `amo.cas`. -/
structure Amo where
  d : Fin 32
  h : Fin 16
  th : Bool
  a : Fin 32
  ta : Bool
  ty : Ty
  b : Fin 32
  tb : Bool
  deriving DecidableEq, Repr

/-- LSG of `amo.fadd`: TY is 2 (Table 14-1). -/
structure AmoF where
  d : Fin 32
  h : Fin 16
  th : Bool
  a : Fin 32
  ta : Bool
  b : Fin 32
  tb : Bool
  deriving DecidableEq, Repr

/-- LSG of `amo.cas`. -/
structure AmoC where
  d : Fin 32
  h : Fin 16
  th : Bool
  a : Fin 32
  ta : Bool
  ty : Ty
  b : Fin 32
  tb : Bool
  c : Fin 32
  tc : Bool
  deriving DecidableEq, Repr

/-- LSX: handle and offset register. -/
structure Hx where
  h : Fin 16
  a : Fin 32
  ta : Bool
  deriving DecidableEq, Repr

/-- LSX with a handle only. -/
structure H1 where
  h : Fin 16
  deriving DecidableEq, Repr

/-- LST with TM zero. -/
structure Tl where
  (q h : Fin 16)
  th : Bool
  a : Fin 32
  ta : Bool
  deriving DecidableEq, Repr

/-- LST with TM one and the issue-time register. -/
structure TlT where
  (q h : Fin 16)
  th : Bool
  a : Fin 32
  ta : Bool
  e : Fin 32
  te : Bool
  deriving DecidableEq, Repr

/-- LSB. -/
structure Bm where
  bank : Fin 16
  mode : Fin 4
  deriving DecidableEq, Repr

/-- EQ of `qset`. -/
structure Qset where
  q : Fin 16
  a : Fin 32
  ta : Bool
  b : Fin 32
  tb : Bool
  deriving DecidableEq, Repr

/-- EQ of `qget`; `hi` is OPT[0]. -/
structure Qget where
  q : Fin 16
  hi : Bool
  d : Fin 32
  deriving DecidableEq, Repr

/-- EA of `mma`. -/
structure Mma where
  (f l : Fin 64)
  qa : Fin 16
  ovw : Bool
  qb : Fin 16
  deriving DecidableEq, Repr

/-- EA of `mmag`. -/
structure Mmag where
  (f l : Fin 64)
  qa : Fin 16
  ovw : Bool
  qb : Fin 16
  i : Fin 32
  ti : Bool
  deriving DecidableEq, Repr

/-- EA: a bank range. -/
structure Fl where
  (f l : Fin 64)
  deriving DecidableEq, Repr

/-- EA of `aown`. -/
structure Aown where
  (f l : Fin 64)
  g : Fin 4
  deriving DecidableEq, Repr

/-- EA of `aown.rel`: OPT[2] is one. -/
structure AownRel where
  g : Fin 4
  deriving DecidableEq, Repr

/-- EA of `adrain`. -/
structure Adrain where
  (f l : Fin 64)
  q : Fin 16
  clr : Bool
  g : Fin 4
  deriving DecidableEq, Repr

/-- EA of `aread`: ACC2 is the row, 0 to 15. -/
structure Aread where
  k : Fin 64
  row : Fin 16
  d : Fin 32
  deriving DecidableEq, Repr

/-- EQ of a scan without X2 and INIT. -/
structure Scan where
  (y x : Fin 16)
  herd : Bool
  deriving DecidableEq, Repr

/-- EQ of a single-component scan with INIT. -/
structure ScanI where
  (y x : Fin 16)
  herd : Bool
  vi : Fin 32
  tvi : Bool
  deriving DecidableEq, Repr

/-- EQ of `scan.moment` with INIT: VI names a w register (R367). -/
structure ScanM where
  (y x : Fin 16)
  herd : Bool
  vi : Fin 8
  tvi : Bool
  deriving DecidableEq, Repr

/-- EQ of `scan.affine` and `scan.lse`, always pair forms. -/
structure Scan2 where
  (y x x2 : Fin 16)
  (herd init : Bool)
  y2 : Fin 16
  vi : Fin 32
  tvi : Bool
  vj : Fin 32
  tvj : Bool
  deriving DecidableEq, Repr

/-- EQ of `scan.user` with PAIR or INIT. -/
structure ScanU where
  (y x x2 : Fin 16)
  (herd init pair : Bool)
  y2 : Fin 16
  vi : Fin 32
  tvi : Bool
  vj : Fin 32
  tvj : Bool
  deriving DecidableEq, Repr

/-- EQ of `scdef`: n minus one and the vector of micro-operations. -/
structure Scdef where
  n : Fin 8
  a : Fin 32
  ta : Bool
  deriving DecidableEq, Repr

/-- EW of `mupd`. -/
structure Mupd where
  w : Fin 8
  q : Fin 16
  deriving DecidableEq, Repr

/-- EW of `mupdw` with a scalar weight: OPT[0] is one. -/
structure Mupdw where
  w : Fin 8
  q : Fin 16
  s : Fin 32
  ts : Bool
  deriving DecidableEq, Repr

/-- EW of `mupdw` with a weight stream. -/
structure MupdwQ where
  w : Fin 8
  (q qv : Fin 16)
  deriving DecidableEq, Repr

/-- EW of `mmerge`. -/
structure Mw2 where
  (w v : Fin 8)
  deriving DecidableEq, Repr

/-- EW of `mmerge.lanes`: OPT[0] is one. -/
structure Mw2L where
  (w v : Fin 8)
  deriving DecidableEq, Repr

/-- EW with W only. -/
structure W1 where
  w : Fin 8
  deriving DecidableEq, Repr

/-- EW of `mdrain` to a register: kind 0 mean, 1 pvar, 2 svar, 3 rstd. -/
structure Mdrain where
  w : Fin 8
  s : Fin 32
  ts : Bool
  kind : Fin 4
  d : Fin 32
  deriving DecidableEq, Repr

/-- EW of `mdrain.norm`: OPT is 4. -/
structure MdrainN where
  w : Fin 8
  q : Fin 16
  s : Fin 32
  ts : Bool
  qy : Fin 16
  g : Fin 32
  tg : Bool
  b : Fin 32
  tb : Bool
  deriving DecidableEq, Repr

/-- EW of `mld` and `mst`. -/
structure Mls where
  w : Fin 8
  s : Fin 32
  ts : Bool
  deriving DecidableEq, Repr

/-- EQ of `cpy`. -/
structure Cpy where
  d : Fin 32
  td : Bool
  a : Fin 32
  ta : Bool
  n : Fin 32
  tn : Bool
  deriving DecidableEq, Repr

/-- EQ of `cpy2d`. -/
structure Cpy2d where
  (q s : Fin 16)
  deriving DecidableEq, Repr

/-- EQ of `fill`. -/
structure Fill where
  q : Fin 16
  a : Fin 32
  ta : Bool
  deriving DecidableEq, Repr

/-- FN of `pub`. -/
structure Pub where
  q : Fin 16
  k : Fin 8
  a : Fin 32
  (ta tagx nolive live noback : Bool)
  deriving DecidableEq, Repr

/-- FN of `pub` with an index register: OPT[4] is one. -/
structure PubX where
  q : Fin 16
  k : Fin 8
  a : Fin 32
  (ta tagx nolive live noback : Bool)
  b : Fin 32
  tb : Bool
  deriving DecidableEq, Repr

/-- FN of `pubeos`. -/
structure Pubeos where
  k : Fin 8
  deriving DecidableEq, Repr

/-- FN of `fetch`. -/
structure Fetch where
  q : Fin 16
  k : Fin 8
  a : Fin 32
  (ta tagx : Bool)
  deriving DecidableEq, Repr

/-- FN of `fetch` with an index register: OPT[4] is one. -/
structure FetchX where
  q : Fin 16
  k : Fin 8
  a : Fin 32
  (ta tagx : Bool)
  b : Fin 32
  tb : Bool
  deriving DecidableEq, Repr

/-- FN of `subq`. -/
structure Subq where
  k : Fin 8
  a : Fin 32
  (ta tagx idxx : Bool)
  b : Fin 32
  tb : Bool
  d : Fin 32
  deriving DecidableEq, Repr

/-- FV with a stream. -/
structure Coll where
  vsn : Fin 256
  q : Fin 16
  deriving DecidableEq, Repr

/-- FV of `coll.recv`: OPT[0] is one. -/
structure CollR where
  vsn : Fin 256
  q : Fin 16
  deriving DecidableEq, Repr

/-- FV of `coll.w`: OPT[1] is one. -/
structure CollW where
  vsn : Fin 256
  a : Fin 8
  ta : Bool
  deriving DecidableEq, Repr

/-- FV of `coll.recv.w`: OPT is 3. -/
structure CollRW where
  vsn : Fin 256
  a : Fin 8
  deriving DecidableEq, Repr

/-- FV of `cmark`. -/
structure Cmark where
  vsn : Fin 256
  deriving DecidableEq, Repr

/-- FV of `cmark.end`: OPT[0] is one. -/
structure CmarkE where
  vsn : Fin 256
  deriving DecidableEq, Repr

/-- FC of `csend`; `dn` is DIR. -/
structure Csend where
  v : Fin 32
  (tv dn : Bool)
  deriving DecidableEq, Repr

/-- FC of `crecv`; `dn` is DIR. -/
structure Crecv where
  v : Fin 32
  dn : Bool
  deriving DecidableEq, Repr

/-- VRRR of `vmov.and`: SUB is 1 and B is an m register. -/
structure VmmA where
  (d a : Fin 32)
  ta : Bool
  mb : Fin 8
  deriving DecidableEq, Repr

/-- VRRR of `vmov.set`: SUB is 2 and B is an m register. -/
structure VmmS where
  (d a : Fin 32)
  ta : Bool
  mb : Fin 8
  deriving DecidableEq, Repr

end Form

/-! ## What the steps of the module name and carry -/

/-- A gate: the task it serves in the context it belongs to (05 R147). -/
structure GateId where
  ctx  : Fin 8
  task : Nat
  deriving DecidableEq, Repr

/-- Who asked for a tile (03 Table 3-5 SX, SY): a core's `fetch` by its channel-3 identifier, a gate, a rim agent (SX = 0xFF), or one of them
on a peer module (02 R73). -/
inductive Requester where
  | core (core : Nat) (xid : Word)
  | gate (g : GateId)
  | rim (a : Fin 24)
  | peer (p : Fin 4096) (r : Requester)
  deriving DecidableEq, Repr

/-- A channel on which a router receives: its input port, one of the two lanes, and VC 1, the detour channel, or VC 0 (03 R75, R78). -/
structure Chan where
  port   : Fin 6
  lane   : Fin 2 := 0
  detour : Bool := false
  deriving DecidableEq, Repr

/-- One packed token on the fabric: its element-valid bits and its bits in the packed form of Table 3-3 (03 R80); a TRIPLE
token holds three of them in its three flits. -/
structure FlitToken where
  ev   : BitVec 16
  bits : BitVec 512
  deriving DecidableEq, Repr

/-- A burst: its header word's fields and its tokens (03 R83, Table 3-7). -/
structure Burst where
  scale  : Byte
  fmt    : Fmt
  eos    : Bool
  tokens : List FlitToken
  deriving DecidableEq, Repr

/-- A published tile: its name flit's fields and its bursts (03 R82, Table 3-5). -/
structure Tile where
  name   : BitVec 64
  tag    : BitVec 16
  back   : Bool
  live   : Bool
  bursts : List Burst
  deriving DecidableEq, Repr

/-- What a core or a gate's request carries to a gate in a control message of class 1 (14 R395, R397, R398, 11 R332). -/
inductive Control where
  | trigger (tag : BitVec 16) (rank : Nat)
  | eosRequest (tensor : BitVec 20)
  | arrive (tag : BitVec 16) (rank : Nat) (phase : Nat)
  | subq (core : Nat) (reg : Fin 32) (name : BitVec 64) (tag : BitVec 16) (void : Bool)
  deriving DecidableEq, Repr

/-- A carry message of the carry line (13 R369): the sending rank, an operand of W lanes of C components with one valid bit a
lane, the initial value that travels with it in group 0, the herd iteration's tag, and the `cbar`s its sender had passed. -/
structure Carry where
  from_ : Nat
  rows  : List (List Lane × Bool)
  extra : List (List Lane × Bool)
  tag   : BitVec 16
  epoch : Nat
  deriving DecidableEq, Repr

/-- What a message of the memory plane is about, by its request (03 Table 3-2 classes 4 and 5): the request on its way to a slice, its acceptance, a
slice's answer to a tile's prepare, its completion with what it read. -/
inductive MemTok where
  | request (id : Nat)
  | accepted (id : Nat)
  | prepared (id : Nat)
  | completed (id : Nat)
  deriving DecidableEq, Repr

/-- What a message carries (03 Tables 3-2, 3-5, 3-11). -/
inductive Body where
  /-- a publication (KIND 0), its default-route target (DX, DY) once it has taken the default route -/
  | publication (t : Tile) (target : Option Nat)
  /-- a request (KIND 1) for a name and tag -/
  | request (name : BitVec 64) (tag : BitVec 16) (to_ : Requester) (target : Option Nat)
  /-- a tile served to a request (KIND 2) -/
  | reply (t : Tile) (to_ : Requester)
  /-- a miss reply (KIND 3) with its trap code -/
  | miss (name : BitVec 64) (tag : BitVec 16) (code : Byte) (to_ : Requester)
  /-- a configuration write (KIND 4) for a router, of the plane its CPL names -/
  | configWrite (plane : Bool) (router : Nat)
  /-- a collective chunk: one data flit, or three for TRIPLE -/
  | chunk (vsn : Fin 256) (tag : BitVec 16) (fmt : Fmt) (index : BitVec 16) (data : List FlitToken)
  /-- a marker, or an end mark -/
  | mark (vsn : Fin 256) (tag : BitVec 16) (last : Bool)
  /-- a carry to the core of a rank -/
  | carry (c : Carry) (to_ : Nat) (down : Bool)
  /-- a control message to a gate -/
  | control (g : GateId) (c : Control)
  /-- a message of the memory plane to a router, there by its edge port or to its core, of so many flits -/
  | mem (tok : MemTok) (to_ : Nat) (edge : Bool) (flits : Nat)
  deriving DecidableEq, Repr

/-- A message whole: the class, plane (CPL) and logical source it carries (03 R76, R85), and its body (log 15). -/
structure Msg where
  cls    : Fin 6
  cpl    : Bool
  source : Nat
  body   : Body
  deriving DecidableEq, Repr

/-- An Ethernet frame of the fabric protocol (02 R71, Table 2-6): its header's fields, and the flits it carries: NFLIT of one message, behind those
that earlier frames have carried. -/
structure Frame where
  src    : Fin 4096
  dst    : Fin 4096
  cls    : Fin 6
  nflit  : Nat
  psn    : BitVec 32
  ack    : BitVec 32
  msg    : Msg
  behind : Nat
  deriving DecidableEq, Repr

/-- A register with a full/empty bit (06 R180). -/
inductive FullReg where
  | s (r : Fin 32) | v (r : Fin 32) | h (r : Fin 16) | w (r : Fin 8)
  deriving DecidableEq, Repr

/-- The queues of Table 6-4 that run in a core, and the mode clears of `bankmode`, which complete beside them (06 R192, R193);
the copy queue is the streamer's. -/
inductive Queue where
  | matrix | scan | stats | bank
  deriving DecidableEq, Repr

/-- An entry of a configuration plane, by its place in the match table or its VSN (03 R98, R103). -/
inductive CfgEntry where
  | name (index : Nat)
  | vsn (v : Fin 256)
  deriving DecidableEq, Repr

/-- What the scrubber or a consumer finds at fault, and where (01 R38, R39, 08 R250): a local address; a 64-bit word of the accumulator
memory, two lanes of a bank; a register; a tile of a mirror; an entry of the active plane; a physical address. -/
inductive ScrubSite where
  | scratchpad (core : Nat) (addr : Nat)
  | accumulator (core : Nat) (word : Fin 8192)
  | register (core : Nat) (reg : FullReg)
  | mirror (router : Nat) (index : Nat)
  | configEntry (router : Nat) (entry : CfgEntry)
  | memory (addr : Nat)
  deriving DecidableEq, Repr

/-- What counts corrected errors: a core with its router, or a rim agent with its stack and its slices (01 R37). -/
inductive ErrUnit where
  | core (n : Nat)
  | agent (a : Fin 24)
  deriving DecidableEq, Repr

/-- An entry of the region table (02 R66): base and length in 2 MiB units, the tenant interface, the key slot. -/
structure RegionEntry where
  base : Nat
  len  : Nat
  itf  : Fin 16
  slot : Fin 1024
  deriving DecidableEq, Repr

/-- A key delivered in the secured session, and the place of the region it is for in the region table (02 R66, 04 R139). -/
structure KeyMessage where
  entry : Nat
  key   : BitVec 512
  deriving DecidableEq, Repr

/-- The core map (01 R21 to R25): what each borrower borrows from which row's spare, how many banks; the shifted rows, each with its dead
column; the holes. -/
structure CoreMap where
  loans  : List (Nat × Nat × Nat)
  shifts : List (Nat × Nat)
  holes  : List Nat
  deriving DecidableEq, Repr

/-- The vendor-signed defect map (01 R40): the cores, banks and links found at fault before the module shipped. -/
structure DefectMap where
  dead      : List Nat
  lost      : List (Nat × List (Fin 16))
  deadLinks : List (Nat × Fin 6)
  deriving DecidableEq, Repr

/-- The health record (01 R40): physical cores by number 192 f + 16 r + c, dead or with lost banks; the map of the last restart, which gives each
core its state and its borrowed banks; what else is out of service; the history of corrected errors and of throttling, by WCC, and what the last
writing of the record judged of them. -/
structure HealthRecord where
  dead      : List Nat
  lost      : List (Nat × List (Fin 16))
  map       : CoreMap
  stacksOut : List (Fin 24)
  slicesOut : List (Fin 96)
  cxlOut    : List (Fin 8)
  ethOut    : List (Fin 32)
  deadLinks : List (Nat × Fin 6)
  errors    : List (BitVec 64 × ErrUnit)
  throttles : List (BitVec 64)
  thermal   : Bool
  ceRate    : Bool
  ceHour    : BitVec 16
  deriving DecidableEq, Repr

/-- An IEEE 1588 time as it comes by a port, where it comes by one (01 R28, 02 R74). -/
structure SyncTime where
  port : Option (Fin 32)
  time : BitVec 64
  deriving DecidableEq, Repr

/-- How bring-up goes (01 R32, Table 1-3, 04 R136): the firmware stages 0 to 5 and the mapper's, each with its security version and whether
its signature verifies; the floor record found; the early step that fails otherwise, if one does (0 to 2 for steps 1 to 3); the units that fail
the tests of steps 4 and 5; the IEEE 1588 time of step 7, or none when there is no lock. -/
structure BringUpOutcome where
  stages : Vector (Nat × Bool) 7
  floor  : Nat
  failed : Option (Fin 3)
  found  : Option HealthRecord
  time   : Option SyncTime
  deriving DecidableEq, Repr

/-- A frame the steward has filled for a page it held (08 R247): the frame's base, its permissions, its bytes. -/
structure FrameFill where
  base  : Nat
  rd    : Bool
  wr    : Bool
  bytes : List (Nat × Byte)
  deriving DecidableEq, Repr

/-! ## The instructions: every row of spec/opcode_table.json, in its order -/

inductive Instr where
  /-- POWER_GOOD (R32): Power-good starts bring-up: signed firmware boots, records are read, links are trained, the core map is built and the ingress ports open. -/
  | powerGood (o : BringUpOutcome)
  /-- ENTER_P0 (R29): The steward selects power state P0, with full-rate clocks. -/
  | enterP0
  /-- ENTER_P1 (R29): The steward selects P1: cores and fabric advance on every second reference cycle. -/
  | enterP1
  /-- ENTER_S1 (R29): The steward gates the clocks into S1, only when no firing runs, and every debug session ends. -/
  | enterS1
  /-- EXIT_S1 (R29): The module leaves S1 and returns to a running state. -/
  | exitS1
  /-- ENTER_S3 (R29): The module enters S3: the WCC stops, HBM self-refreshes and keys are kept on auxiliary power. -/
  | enterS3
  /-- EXIT_S3 (R29): The module leaves S3 and the WCC is reloaded from IEEE 1588 time. -/
  | exitS3 (time : Option SyncTime)
  /-- POWER_REMOVED (R29): Power is removed, giving S5: keys are lost and LIVE interfaces become ERROR at the next bring-up. -/
  | powerRemoved
  /-- AUX_POWER_FAIL (R143): Auxiliary power fails in S3, so the module passes to S5. -/
  | auxPowerFail
  /-- THERMAL_THROTTLE (R30): A sensor reads 105 °C or more for 1 ms, so the module enters P1 and the steward receives a thermal event. -/
  | thermalThrottle
  /-- THERMAL_RECOVER (R30): Every sensor reads 95 °C or less for 10 ms, so the module returns to P0. -/
  | thermalRecover
  /-- WCC_SLEW (R28): The steward suppresses or doubles one WCC increment to correct the offset. -/
  | wccSlew (time : SyncTime)
  /-- SYNC_UNLOCKED (R28): Synchronisation loses lock, so a management event is raised and slewing stops. -/
  | syncUnlocked
  /-- PEER_DELAY_MEASURE (R74): Once per second a port timestamps IEEE 1588 peer-delay messages and measures the link delay. -/
  | peerDelayMeasure (port : Fin 32) (delay : BitVec 64)
  /-- LTS_FLOOR (R215): In a cycle in which WCC div 128 exceeds an agent's LTS, LTS takes that value. -/
  | ltsFloor
  /-- BLOOM_ALTERNATE (R55): When WCC mod 65,536 = 0, the older second-touch filter is cleared and becomes the current one. -/
  | bloomAlternate
  /-- SCRUB_LINE (R38): On an idle bank cycle the scrubber reads and corrects one 64-byte line. -/
  | scrubLine (at_ : ScrubSite) (bad : Bool)
  /-- CONFIG_ENTRY_REWRITTEN (R39): The loader finishes rewriting a configuration-plane entry that had an uncorrectable error; held traffic resumes and a steward event is raised. -/
  | configEntryRewritten (router : Nat)
  /-- SELFTEST_WITHDRAW (R34): The steward withdraws a core for roving self-test, and its gate dispatches no new firing to it. -/
  | selftestWithdraw (core : Nat)
  /-- SELFTEST_START (R33): A withdrawn core is idle, so its contents are copied to the holding copy and the test begins. -/
  | selftestStart (core : Nat)
  /-- SELFTEST_SKIP (R34): A withdrawn core is not idle within 100 ms, so the test skips it; three consecutive skips raise a steward event. -/
  | selftestSkip (core : Nat)
  /-- SELFTEST_DONE (R33): A core's self-test ends, its contents are written back and the core returns to service. -/
  | selftestDone (core : Nat) (pass : Bool)
  /-- FAILED_IN_SERVICE (R250): A core is found failed in service, so it is marked out of service and sent a freeze request. -/
  | failedInService (core : Nat)
  /-- FREEZE_TIMEOUT (R250): A failed core does not freeze within 64 cycles, so its firings are lost and ended. -/
  | freezeTimeout (core : Nat)
  /-- RETRY_REQUEST (R79): A receiver finds a CRC or LSEQ error, discards the flit and asks for a go-back-N resend. -/
  | retryRequest (router : Nat) (port : Fin 6)
  /-- LINK_DEAD (R108): A flit fails 16 retries, or 10,000 cycles pass without acknowledgement, so the link is declared dead. -/
  | linkDead (router : Nat) (port : Fin 6)
  /-- PUBLICATION_ARRIVAL (R88): A publication name flit is matched at a router and the tile is replicated to the entry's ports. -/
  | publicationArrival (router : Nat) (ch : Chan)
  /-- REQUEST_ARRIVAL (R92): A KIND 1 request probes the router's mirror; it is served, made to wait or moved on by FETCHPORT or the default route. -/
  | requestArrival (router : Nat) (ch : Chan)
  /-- REQUEST_RESUME (R92): A request waiting at a router for a tile still arriving is served once the tile becomes servable. -/
  | requestResume (router : Nat)
  /-- GATE_TILE_ARRIVAL (R154): A tile reaches a gate and is accepted into the pen store, bound, or held under back-pressure. -/
  | gateTileArrival (gate : GateId)
  /-- HELD_TILE_ACCEPT (R154): A tile held in the gate's input channel is accepted once an iteration needs it or blocks free. -/
  | heldTileAccept (gate : GateId)
  /-- MISS_REPLY_ARRIVAL (R92): A KIND 3 miss reply marks the subscription failed with its trap code. -/
  | missReplyArrival (to_ : Requester)
  /-- AGENT_REQUEST (R63): A subscription reaching a rim agent by default route is resolved against the tensor directory. -/
  | agentRequest (agent : Fin 24)
  /-- AGENT_FETCH_DONE (R62): A rim agent finishes reading a tile and publishes it to the requester with the subscription's tag. -/
  | agentFetchDone (agent : Fin 24) (uncorrectable : Bool)
  /-- SEGMENT_VERIFY (R65): A SIGNED segment's digest check completes; a mismatch sets BAD in every agent and raises a steward event. -/
  | segmentVerify (agent : Fin 24)
  /-- BACK_WRITE (R64): A backed publication reaches its rim agent, which writes the tile to memory as one tile store. -/
  | backWrite (agent : Fin 24)
  /-- BACK_COMPLETION (R228): A backing write's completion returns to the publisher, raising LTS and advancing PBDONE. -/
  | backCompletion (core : Nat)
  /-- CONFIG_WRITE (R103): A KIND 4 configuration write updates the shadow plane; one that names the active plane is discarded as stray. -/
  | configWrite (router : Nat)
  /-- COLLECTIVE_CHUNK_ARRIVAL (R100): A collective chunk reaches a router and is forwarded, or combined once all inputs have arrived. -/
  | collectiveChunkArrival (router : Nat) (ch : Chan)
  /-- CHUNK_REFETCH (R101): Spilled chunks are fetched back in order as chunk slots free. -/
  | chunkRefetch (router : Nat)
  /-- MARKER_ARRIVAL (R99): A marker or end mark arrives; once every input has one, the router forwards it and steps the facet. -/
  | markerArrival (router : Nat) (ch : Chan)
  /-- CARRY_MESSAGE_ARRIVAL (R369): A carry-line or class 3 carry message reaches a rank's FIFO. -/
  | carryMessageArrival (core : Nat) (down : Bool)
  /-- DRAIN_WAVE (R105): A drain wave checks the old plane; two consecutive clean waves complete the drain and tell the steward. -/
  | drainWave (part : Fin 16)
  /-- CFGSWAP (R106): A CFGSWAP command spreads a plane-swap wave through the partition after drain. -/
  | cfgswap (part : Fin 16)
  /-- CFGSWAP_FORCE (R106): A CFGSWAP marked FORCE swaps planes without waiting for drain. -/
  | cfgswapForce (part : Fin 16)
  /-- PLANE_SWAP (R106): The swap wave reaches a router and its core, which swap active and shadow planes. -/
  | planeSwap (router : Nat)
  /-- CONGESTION_TIMEOUT (R112): An output's congestion timer reaches 2^CONG_EXP cycles and requests a probe. -/
  | congestionTimeout (router : Nat) (port : Fin 6)
  /-- PROBE (R113): A write of PROBE to QD_CTL starts a quiescence probe of a partition, sending its first wave. -/
  | probe (part : Fin 16)
  /-- PROBE_WAVE (R113): The probe's second wave, 65,536 cycles after the first, decides the verdict. -/
  | probeWave (part : Fin 16)
  /-- VERDICT_READ (R114): A read of QD_CTL returns VERDICT and clears it. -/
  | verdictRead
  /-- MEMORY_REQUEST_ARRIVAL (R52): A memory request reaches a slice and enters the request queue or the spill queue, or back-pressure applies. -/
  | memoryRequestArrival (req : Nat)
  /-- SPILL_RETURN (R52): Spilled requests return to the request queue, in arrival order, as entries free. -/
  | spillReturn (slice : Fin 96)
  /-- REQUEST_SERVE (R216): A slice performs a load, store, AMO or lease renewal, stamping the line. -/
  | requestServe (req : Nat)
  /-- LINE_FILL (R48): A line returns from home memory and is allocated in a victim way, or passed through without allocation. -/
  | lineFill (req : Nat) (uncorrectable : Bool)
  /-- ACCEPTANCE_TOKEN (R57): An acceptance token returns to the issuing core, allowing dependent requests to be injected. -/
  | acceptanceToken (req : Nat)
  /-- COMPLETION_TOKEN (R58): A completion token is forwarded to the channel ports and releases the requests held on it. -/
  | completionToken (req : Nat)
  /-- CANCELLATION (R60): A core cancels requests that depend on a faulted request; channel ports discard them and return cancellation tokens. -/
  | cancellation (req : Nat)
  /-- TILE_PREPARE (R220): A tile prepare reserves the tile's lines at a slice and returns a stamp bound. -/
  | tilePrepare (req : Nat)
  /-- TILE_COMMIT (R220): A tile commit performs the tile's lines at one ts and releases the reservations. -/
  | tileCommit (req : Nat)
  /-- WALK_REQUEST (R212): A translation agent walks the page tables for a virtual address. -/
  | walkRequest (walk : Nat)
  /-- WALK_COMPLETE (R205): A walk returns and the handle is filled full and the translation cache filled. -/
  | walkComplete (walk : Nat)
  /-- PAGER_FAULT_TOKEN (R246): The pager receives a fault token and resolves it from the SW field, or refuses it. -/
  | pagerFaultToken (walk : Nat)
  /-- PAGER_RESOLVE (R247): A resolve token reaches the translation agent, which restarts every parked walk of the page. -/
  | pagerResolve (walk : Nat)
  /-- SHOOTDOWN (R213): A shootdown request makes translation caches drop entries and clears matching handles. -/
  | shootdown (ns : BitVec 8) (lo : Nat) (hi : Nat)
  /-- SHOOTDOWN_COMPLETE (R213): A shootdown completes once every access issued through the cleared handles has completed. -/
  | shootdownComplete
  /-- FRAME_RECEIVE (R72): An Ethernet frame is accepted when its PSN is the one expected, and discarded otherwise. -/
  | frameReceive (port : Fin 32) (frame : Frame)
  /-- FRAME_RESEND_TIMEOUT (R72): 20 µs pass without progress, so the sender resends from its oldest unacknowledged frame. -/
  | frameResendTimeout (port : Fin 32) (peer : Fin 4096) (cls : Fin 6)
  /-- PEER_LOST (R72): A peer is silent for 100 ms, so it is declared lost and the steward receives an event. -/
  | peerLost (peer : Fin 4096)
  /-- INSTRUCTION_FETCH (R435): A requested 64-byte code row arrives in the fetch buffer. -/
  | instructionFetch (core : Nat)
  /-- FIXED_RESULT_LAND (R178): A fixed-latency result lands in the n-th advancing cycle after its issue. -/
  | fixedResultLand (core : Nat)
  /-- REGISTER_FILL (R181): A long-latency result lands and marks its destination full. -/
  | registerFill (core : Nat) (reg : FullReg)
  /-- QUEUE_OP_START (R193): A queued engine operation starts once its predecessor has completed and the RSB clears it. -/
  | queueOpStart (core : Nat) (q : Queue)
  /-- ENGINE_OP_COMPLETE (R360): An engine operation completes, releasing its RSB entry, filling w registers and ORing its flags. -/
  | engineOpComplete (core : Nat) (q : Queue) (uncorrectable : Bool)
  /-- STREAMER_START (R198): The streamer starts an eligible command by weighted round robin. -/
  | streamerStart (core : Nat)
  /-- STREAMER_COMPLETE (R199): A streamer transfer completes and XDONE advances on its channel. -/
  | streamerComplete (core : Nat) (rsb : Nat)
  /-- LANDING_START (R156): A firing's landing begins once its slot is free of earlier firings. -/
  | landingStart (core : Nat)
  /-- LANDING_COMPLETE (R157): A landing writes its last byte and releases its RSB entry. -/
  | landingComplete (core : Nat)
  /-- RETIRE_COMPLETE (R331): A retire completes once every outstanding operation of the firing has finished; the firing is RETIRED. -/
  | retireComplete (core : Nat)
  /-- WALKER_OPEN (R150): The walker opens the next ordinal once the window and the AFTER tasks permit, and its subscriptions are resolved. -/
  | walkerOpen (gate : GateId)
  /-- DISPATCH (R161): A core accepts one gate offer by priority and credit, and the firing is staged or started. -/
  | dispatch (core : Nat)
  /-- HERD_DISPATCH (R164): A herd iteration is dispatched, rank k to member k, once every core is free. -/
  | herdDispatch (gate : GateId)
  /-- TRIGGER_COUNT (R167): The gate counts a trigger message toward the task's triggered state. -/
  | triggerCount (gate : GateId)
  /-- EOS_REQUEST (R395): The gate records a pubeos request for a record. -/
  | eosRequest (gate : GateId)
  /-- EOS_EMIT (R395): After the walker is exhausted and all firings have retired, every pen member injects one EOS tile. -/
  | eosEmit (gate : GateId)
  /-- BARRIER_ARRIVAL (R398): The gate receives a rank's barrier arrival, and releases the phase once all have arrived. -/
  | barrierArrival (gate : GateId)
  /-- BARRIER_TIMEOUT (R165): A rank waits at hbar longer than 2^BTMO cycles. -/
  | barrierTimeout (core : Nat)
  /-- NPS_OVERRUN (R257): A non-pre-emptible section is still open at its 16,384th cycle, so an A trap is raised. -/
  | npsOverrun (core : Nat)
  /-- DEFERRED_FAULT (R243): A fault message about an issued operation arrives, and the core traps at the next boundary and rolls back. -/
  | deferredFault (core : Nat)
  /-- RESUME (R249): A handler's RESUME reply makes the core re-inject its pending list and re-execute from MARK. -/
  | resume (core : Nat)
  /-- RETRANSLATE (R248): A RETRANSLATE reply makes the core re-walk the named handle, then resume. -/
  | retranslate (core : Nat)
  /-- END (R249): An END reply discards the pending list and faulted operations and retires the firing. -/
  | endFiring (core : Nat)
  /-- FREEZE_REQUEST (R251): A freeze request stops issue at a bundle boundary within 64 cycles and saves the core's state. -/
  | freezeRequest (core : Nat)
  /-- ARM (R131): ARM in PREEMPT_CTL sets STATUS to ARMED, LATE or NOT_READY. -/
  | arm (part : Fin 16)
  /-- CANCEL (R131): CANCEL in PREEMPT_CTL returns an ARMED switch to IDLE. -/
  | cancel (part : Fin 16)
  /-- SWITCH_COMMIT (R131): At WCC = T − 20,000 an ARMED switch becomes COMMITTED. -/
  | switchCommit (part : Fin 16)
  /-- SWITCH_START (R174): At WCC = T the switch becomes SWITCHING: gates stop, cores freeze and the save begins. -/
  | switchStart (part : Fin 16)
  /-- SAVE_DONE (R131): The outgoing context's save ends, it becomes PARKED and the restore begins. -/
  | saveDone (part : Fin 16)
  /-- RESTORE_DONE (R255): The restore ends: messages are re-injected, cores resume, gates dispatch and STATUS becomes DONE. -/
  | restoreDone (part : Fin 16)
  /-- SWITCH_OVERDUE (R132): A switch not DONE by T + 4,000,000 raises event 0x48. -/
  | switchOverdue (part : Fin 16)
  /-- OPEN (R122): The OPEN command finds a resident configuration or loads one through the loader's steps. -/
  | openCfg (port : Fin 16)
  /-- ARG (R121): The ARG command writes words of the context's argument block. -/
  | arg (port : Fin 16)
  /-- INJECT (R121): The INJECT command publishes one tile from the port's edge router, or is held or discarded according to the context state. -/
  | inject (port : Fin 16)
  /-- GO (R431): The GO command marks graphs runnable, binds arguments and publishes seeds. -/
  | go (port : Fin 16)
  /-- CLOSE (R119): The CLOSE command ends a command stream. -/
  | close (port : Fin 16)
  /-- INVALID_ENTRY (R120): A malformed or out-of-stream entry stops the port with ERR and CODE 0x0D. -/
  | invalidEntry (port : Fin 16)
  /-- HELD_ENTRY_RESUME (R431): A held INJECT or GO proceeds once its context is RUNNING or PARKED. -/
  | heldEntryResume (port : Fin 16)
  /-- TAIL_WRITE (R118): A write of TAIL in ING_PTR adds entries, or is discarded with CODE 0x0E when it overfills the ring. -/
  | tailWrite (port : Fin 16) (tail : BitVec 32)
  /-- RING_WRITE (R118): A write of BASE or LOG2SZ in ING_RING, which is discarded with CODE 0x0C while the ring is busy. -/
  | ringWrite (port : Fin 16) (value : BitVec 64)
  /-- ERR_CLEAR (R120): Writing 1 to ERR in ING_STAT clears it and resumes a stopped port. -/
  | errClear (port : Fin 16)
  /-- REGISTER_WRITE (R13): A write to a window register without behaviour of its own updates its RW fields. -/
  | registerWrite (offset : BitVec 16) (value : BitVec 64)
  /-- LOCK_INTERFACE (R139): LOCK_INTERFACE snapshots the interface, records CONSENT and sets LIVE. -/
  | lockInterface (itf : Fin 16) (consent : Fin 3)
  /-- KEY_DELIVERY (R139): A key delivered in the secured session is loaded into every rim agent's key table. -/
  | keyDelivery (itf : Fin 16) (region : KeyMessage)
  /-- START_INTERFACE (R139): START_INTERFACE moves a fully keyed interface to RUN. -/
  | startInterface (itf : Fin 16)
  /-- STOP_INTERFACE (R139): STOP_INTERFACE makes the bound contexts EMPTY, destroys the keys and unlocks the interface. -/
  | stopInterface (itf : Fin 16)
  /-- GET_DEVICE_INTERFACE_REPORT (R138): Returns the tenant interface report. -/
  | getDeviceInterfaceReport (itf : Fin 16)
  /-- TDISP_UNSUPPORTED (R138): Any other TDISP message receives an unsupported-request error response. -/
  | tdispUnsupported (itf : Fin 16)
  /-- SNAPSHOT_CHANGE (R139): A change to a locked snapshot sends the interface to ERROR, destroying keys and faulting contexts. -/
  | snapshotChange (region : Nat) (entry : Option RegionEntry)
  /-- KEY_TABLE_ERROR (R139): A key-table uncorrectable error sends the interface to ERROR. -/
  | keyTableError (itf : Fin 16)
  /-- DEBUG_ATTACH_TRACE (R143): A trace session attaches; the outcome follows the tenant, debug and power table. -/
  | debugAttachTrace (core : Nat)
  /-- DEBUG_ATTACH_HALT (R143): A halt session attaches, freezing cores or sending an unconsented tenant to ERROR. -/
  | debugAttachHalt (core : Nat)
  /-- DEBUG_SESSION_END (R142): A debug session ends or releases, so frozen cores resume. -/
  | debugSessionEnd (core : Nat)
  /-- ATTESTATION_REQUEST (R137): A verifier nonce is answered with a signed attestation report. -/
  | attestationRequest (nonce : BitVec 384)
  /-- ADD (R312): D ← A + B. -/
  | add (p : Pred) (f : Form.R3)
  /-- SUB (R312): D ← A − B. -/
  | sub (p : Pred) (f : Form.R3)
  /-- ADDI (R312): D ← A + a 9-bit signed immediate. -/
  | addi (p : Pred) (f : Form.Ri)
  /-- ADDI_EXT (R312): addi with a 41-bit immediate taken from the extension word. -/
  | addiExt (p : Pred) (f : Form.RiX)
  /-- AND (R312): D ← A AND B. -/
  | and (p : Pred) (f : Form.R3)
  /-- OR (R312): D ← A OR B. -/
  | or (p : Pred) (f : Form.R3)
  /-- XOR (R312): D ← A XOR B. -/
  | xor (p : Pred) (f : Form.R3)
  /-- ANDN (R312): D ← A AND NOT B. -/
  | andn (p : Pred) (f : Form.R3)
  /-- SHL (R312): D ← A << B[5:0]. -/
  | shl (p : Pred) (f : Form.R3)
  /-- SHR (R312): Logical right shift by B[5:0]. -/
  | shr (p : Pred) (f : Form.R3)
  /-- SRA (R312): Arithmetic right shift by B[5:0]. -/
  | sra (p : Pred) (f : Form.R3)
  /-- SHLI (R312): Left shift by an immediate of 0–63. -/
  | shli (p : Pred) (f : Form.Rn)
  /-- SHRI (R312): Logical right shift by an immediate. -/
  | shri (p : Pred) (f : Form.Rn)
  /-- SRAI (R312): Arithmetic right shift by an immediate. -/
  | srai (p : Pred) (f : Form.Rn)
  /-- MUL (R313): D ← the low 64 bits of A × B. -/
  | mul (p : Pred) (f : Form.R3)
  /-- MULH (R313): D ← the high 64 bits of the 128-bit product. -/
  | mulh (p : Pred) (f : Form.R3U)
  /-- DIV (R314): Truncating division with defined edge cases. -/
  | div (p : Pred) (f : Form.R3U)
  /-- REM (R314): Remainder, taking the sign of A. -/
  | rem (p : Pred) (f : Form.R3U)
  /-- MIN (R315): Minimum at the width and signedness of TY. -/
  | min (p : Pred) (f : Form.R3Y)
  /-- MAX (R315): Maximum at the width and signedness of TY. -/
  | max (p : Pred) (f : Form.R3Y)
  /-- CLZ (R316): Count of leading zero bits. -/
  | clz (p : Pred) (f : Form.R2)
  /-- CTZ (R316): Count of trailing zero bits. -/
  | ctz (p : Pred) (f : Form.R2)
  /-- POPC (R316): Population count. -/
  | popc (p : Pred) (f : Form.R2)
  /-- BSWAP (R316): Byte reversal. -/
  | bswap (p : Pred) (f : Form.R2)
  /-- EXT (R317): Bit-field extract. -/
  | ext (p : Pred) (f : Form.Bf)
  /-- INS (R317): Bit-field insert. -/
  | ins (p : Pred) (f : Form.Bf)
  /-- LI (R318): Load a sign-extended immediate. -/
  | li (p : Pred) (f : Form.Li)
  /-- LI_EXT (R318): li with a 47-bit immediate. -/
  | liExt (p : Pred) (f : Form.LiX)
  /-- LIH (R318): Load the high 32 bits, keeping the low bits. -/
  | lih (p : Pred) (f : Form.Li)
  /-- LIH_EXT (R318): lih with its immediate extended. -/
  | lihExt (p : Pred) (f : Form.LiX)
  /-- MOV (R318): D ← A. -/
  | mov (p : Pred) (f : Form.R2)
  /-- SEL (R318): D ← A if pK, else B. -/
  | sel (p : Pred) (f : Form.R3K)
  /-- LEA (R318): D ← A + (B << k). -/
  | lea (p : Pred) (f : Form.R3K)
  /-- MADD (R313): D ← A × B + C. -/
  | madd (p : Pred) (f : Form.R4)
  /-- CLAMP (R315): D ← A saturated to the range B..C. -/
  | clamp (p : Pred) (f : Form.R4Y)
  /-- CMP_EQ (R319): Predicate ← (A = B). -/
  | cmpEq (p : Pred) (f : Form.Cmp)
  /-- CMP_NE (R319): Predicate ← (A ≠ B). -/
  | cmpNe (p : Pred) (f : Form.Cmp)
  /-- CMP_LT (R319): Predicate ← (A < B). -/
  | cmpLt (p : Pred) (f : Form.Cmp)
  /-- CMP_LE (R319): Predicate ← (A ≤ B). -/
  | cmpLe (p : Pred) (f : Form.Cmp)
  /-- CMPI_EQ (R319): Predicate ← (A = immediate). -/
  | cmpiEq (p : Pred) (f : Form.Cmpi)
  /-- CMPI_EQ_EXT (R319): cmpi.eq with a 42-bit immediate. -/
  | cmpiEqExt (p : Pred) (f : Form.CmpiX)
  /-- CMPI_NE (R319): Predicate ← (A ≠ immediate). -/
  | cmpiNe (p : Pred) (f : Form.Cmpi)
  /-- CMPI_NE_EXT (R319): cmpi.ne with an extended immediate. -/
  | cmpiNeExt (p : Pred) (f : Form.CmpiX)
  /-- CMPI_LT (R319): Predicate ← (A < immediate). -/
  | cmpiLt (p : Pred) (f : Form.Cmpi)
  /-- CMPI_LT_EXT (R319): cmpi.lt with an extended immediate. -/
  | cmpiLtExt (p : Pred) (f : Form.CmpiX)
  /-- CMPI_LE (R319): Predicate ← (A ≤ immediate). -/
  | cmpiLe (p : Pred) (f : Form.Cmpi)
  /-- CMPI_LE_EXT (R319): cmpi.le with an extended immediate. -/
  | cmpiLeExt (p : Pred) (f : Form.CmpiX)
  /-- PAND (R320): Predicate AND. -/
  | pand (p : Pred) (f : Form.P3)
  /-- POR (R320): Predicate OR. -/
  | por (p : Pred) (f : Form.P3)
  /-- PXOR (R320): Predicate XOR. -/
  | pxor (p : Pred) (f : Form.P3)
  /-- PNOT (R320): Predicate NOT. -/
  | pnot (p : Pred) (f : Form.P2)
  /-- PMOV (R320): Predicate move. -/
  | pmov (p : Pred) (f : Form.P2)
  /-- BR (R323): Unconditional relative branch. -/
  | br (p : Pred) (f : Form.Jmp)
  /-- BRC (R323): Branch when A satisfies COND. -/
  | brc (p : Pred) (f : Form.Brc)
  /-- BRC_EXT (R323): brc with a 32-bit offset in the extension word. -/
  | brcExt (p : Pred) (f : Form.BrcX)
  /-- JR (R324): Jump to the address in A. -/
  | jr (p : Pred) (f : Form.Ra)
  /-- CALL (R324): Branch and write the return address to s31. -/
  | call (p : Pred) (f : Form.Jmp)
  /-- RET (R324): Jump to s31. -/
  | ret (p : Pred)
  /-- LP (R326): Push a hardware loop counted by A. -/
  | lp (p : Pred) (f : Form.Lp)
  /-- LPX (R326): Push a hardware loop with an immediate count. -/
  | lpx (p : Pred) (f : Form.Lpx)
  /-- XWAIT (R329): Hold issue until XDONE on the channel exceeds A. -/
  | xwait (p : Pred) (f : Form.Xw)
  /-- TWAIT (R330): Hold issue until WCC ≥ A. -/
  | twait (p : Pred) (f : Form.Ra)
  /-- RETIRE (R331): End the firing once everything outstanding has completed. -/
  | retire (p : Pred)
  /-- TRIGGER (R332): Move the firing to TRIGGERED and notify the gate. -/
  | trigger (p : Pred)
  /-- TRAP (R333): Raise SOFT_TRAP after the bundle. -/
  | trap (p : Pred) (f : Form.N16)
  /-- BRK (R333): Raise BREAK after the bundle. -/
  | brk (p : Pred) (f : Form.N16)
  /-- NPS_BEGIN (R334): Open a non-pre-emptible section. -/
  | npsBegin (p : Pred)
  /-- NPS_END (R334): Close a non-pre-emptible section. -/
  | npsEnd (p : Pred)
  /-- SRD (R335): Read a system register. -/
  | srd (p : Pred) (f : Form.Srd)
  /-- SWR (R336): Write FPCR or a KEY register. -/
  | swr (p : Pred) (f : Form.Swr)
  /-- CFGQ (R402): Read a configuration status item. -/
  | cfgq (p : Pred) (f : Form.Cfgq)
  /-- WCCR (R403): Read the WCC with a latency of 1. -/
  | wccr (p : Pred) (f : Form.Rd)
  /-- VADD (R340): FP32 add per lane. -/
  | vadd (p : Pred) (f : Form.R3R)
  /-- VADD_MSK (R340): vadd with a lane mask in the extension word. -/
  | vaddMsk (p : Pred) (f : Form.R3R) (msk : Fin 8)
  /-- VSUB (R340): FP32 subtract per lane. -/
  | vsub (p : Pred) (f : Form.R3R)
  /-- VSUB_MSK (R340): Masked vsub. -/
  | vsubMsk (p : Pred) (f : Form.R3R) (msk : Fin 8)
  /-- VMUL (R340): FP32 multiply per lane. -/
  | vmul (p : Pred) (f : Form.R3R)
  /-- VMUL_MSK (R340): Masked vmul. -/
  | vmulMsk (p : Pred) (f : Form.R3R) (msk : Fin 8)
  /-- VFMA (R340): Fused A × B + C. -/
  | vfma (p : Pred) (f : Form.V4R)
  /-- VFMS (R340): Fused A × B − C. -/
  | vfms (p : Pred) (f : Form.V4R)
  /-- VFNMA (R340): Fused C − A × B. -/
  | vfnma (p : Pred) (f : Form.V4R)
  /-- VMIN (R341): Per-lane minimum. -/
  | vmin (p : Pred) (f : Form.R3)
  /-- VMIN_MSK (R341): Masked vmin. -/
  | vminMsk (p : Pred) (f : Form.R3) (msk : Fin 8)
  /-- VMAX (R341): Per-lane maximum. -/
  | vmax (p : Pred) (f : Form.R3)
  /-- VMAX_MSK (R341): Masked vmax. -/
  | vmaxMsk (p : Pred) (f : Form.R3) (msk : Fin 8)
  /-- VABS (R341): Clear the sign bit. -/
  | vabs (p : Pred) (f : Form.R2)
  /-- VABS_MSK (R341): Masked vabs. -/
  | vabsMsk (p : Pred) (f : Form.R2) (msk : Fin 8)
  /-- VNEG (R341): Invert the sign bit. -/
  | vneg (p : Pred) (f : Form.R2)
  /-- VNEG_MSK (R341): Masked vneg. -/
  | vnegMsk (p : Pred) (f : Form.R2) (msk : Fin 8)
  /-- VCMP_EQ (R341): Mask ← A = B. -/
  | vcmpEq (p : Pred) (f : Form.Mc)
  /-- VCMP_EQ_MSK (R341): Masked vcmp.eq. -/
  | vcmpEqMsk (p : Pred) (f : Form.Mc) (msk : Fin 8)
  /-- VCMP_LT (R341): Mask ← A < B. -/
  | vcmpLt (p : Pred) (f : Form.Mc)
  /-- VCMP_LT_MSK (R341): Masked vcmp.lt. -/
  | vcmpLtMsk (p : Pred) (f : Form.Mc) (msk : Fin 8)
  /-- VCMP_LE (R341): Mask ← A ≤ B. -/
  | vcmpLe (p : Pred) (f : Form.Mc)
  /-- VCMP_LE_MSK (R341): Masked vcmp.le. -/
  | vcmpLeMsk (p : Pred) (f : Form.Mc) (msk : Fin 8)
  /-- VCMP_UN (R341): Mask ← either operand is NaN. -/
  | vcmpUn (p : Pred) (f : Form.Mc)
  /-- VCMP_UN_MSK (R341): Masked vcmp.un. -/
  | vcmpUnMsk (p : Pred) (f : Form.Mc) (msk : Fin 8)
  /-- VSEL (R341): Per-lane select by mS. -/
  | vsel (p : Pred) (f : Form.R3K)
  /-- VSEL_MSK (R341): Masked vsel. -/
  | vselMsk (p : Pred) (f : Form.R3K) (msk : Fin 8)
  /-- VCLAMP (R341): Per-lane clamp to B..C. -/
  | vclamp (p : Pred) (f : Form.V4)
  /-- VIADD (R342): Integer add per lane. -/
  | viadd (p : Pred) (f : Form.R3Y)
  /-- VIADD_MSK (R342): Masked viadd. -/
  | viaddMsk (p : Pred) (f : Form.R3Y) (msk : Fin 8)
  /-- VISUB (R342): Integer subtract per lane. -/
  | visub (p : Pred) (f : Form.R3Y)
  /-- VISUB_MSK (R342): Masked visub. -/
  | visubMsk (p : Pred) (f : Form.R3Y) (msk : Fin 8)
  /-- VIMUL (R342): Integer multiply per lane. -/
  | vimul (p : Pred) (f : Form.R3Y)
  /-- VIMUL_MSK (R342): Masked vimul. -/
  | vimulMsk (p : Pred) (f : Form.R3Y) (msk : Fin 8)
  /-- VIMIN (R342): Integer minimum per lane. -/
  | vimin (p : Pred) (f : Form.R3Y)
  /-- VIMIN_MSK (R342): Masked vimin. -/
  | viminMsk (p : Pred) (f : Form.R3Y) (msk : Fin 8)
  /-- VIMAX (R342): Integer maximum per lane. -/
  | vimax (p : Pred) (f : Form.R3Y)
  /-- VIMAX_MSK (R342): Masked vimax. -/
  | vimaxMsk (p : Pred) (f : Form.R3Y) (msk : Fin 8)
  /-- VAND (R342): Bitwise AND. -/
  | vand (p : Pred) (f : Form.R3)
  /-- VAND_MSK (R342): Masked vand. -/
  | vandMsk (p : Pred) (f : Form.R3) (msk : Fin 8)
  /-- VOR (R342): Bitwise OR. -/
  | vor (p : Pred) (f : Form.R3)
  /-- VOR_MSK (R342): Masked vor. -/
  | vorMsk (p : Pred) (f : Form.R3) (msk : Fin 8)
  /-- VXOR (R342): Bitwise XOR. -/
  | vxor (p : Pred) (f : Form.R3)
  /-- VXOR_MSK (R342): Masked vxor. -/
  | vxorMsk (p : Pred) (f : Form.R3) (msk : Fin 8)
  /-- VANDN (R342): A AND NOT B. -/
  | vandn (p : Pred) (f : Form.R3)
  /-- VANDN_MSK (R342): Masked vandn. -/
  | vandnMsk (p : Pred) (f : Form.R3) (msk : Fin 8)
  /-- VSHL (R342): Per-lane left shift. -/
  | vshl (p : Pred) (f : Form.R3)
  /-- VSHL_MSK (R342): Masked vshl. -/
  | vshlMsk (p : Pred) (f : Form.R3) (msk : Fin 8)
  /-- VSHR (R342): Per-lane logical right shift. -/
  | vshr (p : Pred) (f : Form.R3)
  /-- VSHR_MSK (R342): Masked vshr. -/
  | vshrMsk (p : Pred) (f : Form.R3) (msk : Fin 8)
  /-- VSRA (R342): Per-lane arithmetic right shift. -/
  | vsra (p : Pred) (f : Form.R3)
  /-- VSRA_MSK (R342): Masked vsra. -/
  | vsraMsk (p : Pred) (f : Form.R3) (msk : Fin 8)
  /-- VICMP_EQ (R342): Integer compare for equality into a mask. -/
  | vicmpEq (p : Pred) (f : Form.McY)
  /-- VICMP_EQ_MSK (R342): Masked vicmp.eq. -/
  | vicmpEqMsk (p : Pred) (f : Form.McY) (msk : Fin 8)
  /-- VICMP_LT (R342): Integer less-than into a mask. -/
  | vicmpLt (p : Pred) (f : Form.McY)
  /-- VICMP_LT_MSK (R342): Masked vicmp.lt. -/
  | vicmpLtMsk (p : Pred) (f : Form.McY) (msk : Fin 8)
  /-- VICMP_LE (R342): Integer less-or-equal into a mask. -/
  | vicmpLe (p : Pred) (f : Form.McY)
  /-- VICMP_LE_MSK (R342): Masked vicmp.le. -/
  | vicmpLeMsk (p : Pred) (f : Form.McY) (msk : Fin 8)
  /-- VBCAST (R343): Broadcast a scalar to every lane. -/
  | vbcast (p : Pred) (f : Form.R2)
  /-- VBCAST_MSK (R343): Masked vbcast. -/
  | vbcastMsk (p : Pred) (f : Form.R2) (msk : Fin 8)
  /-- VEXT (R343): Extract lane k to a scalar. -/
  | vext (p : Pred) (f : Form.R2K)
  /-- VINS (R343): Insert a scalar into lane k. -/
  | vins (p : Pred) (f : Form.R2K)
  /-- VPERM (R343): Permute lanes by index. -/
  | vperm (p : Pred) (f : Form.R3)
  /-- VPERM_MSK (R343): Masked vperm. -/
  | vpermMsk (p : Pred) (f : Form.R3) (msk : Fin 8)
  /-- VSHIFT (R343): Shift lanes by a signed count. -/
  | vshift (p : Pred) (f : Form.R3)
  /-- VSHIFT_MSK (R343): Masked vshift. -/
  | vshiftMsk (p : Pred) (f : Form.R3) (msk : Fin 8)
  /-- VROT (R343): Rotate lanes. -/
  | vrot (p : Pred) (f : Form.R3)
  /-- VROT_MSK (R343): Masked vrot. -/
  | vrotMsk (p : Pred) (f : Form.R3) (msk : Fin 8)
  /-- VSUM (R344): Tree sum into every lane. -/
  | vsum (p : Pred) (f : Form.R2R)
  /-- VSUM_MSK (R344): Masked vsum. -/
  | vsumMsk (p : Pred) (f : Form.R2R) (msk : Fin 8)
  /-- VMAXR (R344): Tree maximum. -/
  | vmaxr (p : Pred) (f : Form.R2)
  /-- VMAXR_MSK (R344): Masked vmaxr. -/
  | vmaxrMsk (p : Pred) (f : Form.R2) (msk : Fin 8)
  /-- VMINR (R344): Tree minimum. -/
  | vminr (p : Pred) (f : Form.R2)
  /-- VMINR_MSK (R344): Masked vminr. -/
  | vminrMsk (p : Pred) (f : Form.R2) (msk : Fin 8)
  /-- MAND (R345): Mask AND. -/
  | mand (p : Pred) (f : Form.M3)
  /-- MOR (R345): Mask OR. -/
  | mor (p : Pred) (f : Form.M3)
  /-- MXOR (R345): Mask XOR. -/
  | mxor (p : Pred) (f : Form.M3)
  /-- MNOT (R345): Mask NOT. -/
  | mnot (p : Pred) (f : Form.M2)
  /-- MPOP (R345): Count the one bits of a mask. -/
  | mpop (p : Pred) (f : Form.Sm)
  /-- MFIRST (R345): Index of the lowest set bit of a mask. -/
  | mfirst (p : Pred) (f : Form.Sm)
  /-- VVALID (R345): Mask ← the valid bits of vA. -/
  | vvalid (p : Pred) (f : Form.Mv)
  /-- VMOV (R346): Copy vA with its valid bits. -/
  | vmov (p : Pred) (f : Form.R2)
  /-- VMOV_MSK (R346): Masked vmov. -/
  | vmovMsk (p : Pred) (f : Form.R2) (msk : Fin 8)
  /-- VMOV_AND (R346): Copy with valid ← V AND mB. -/
  | vmovAnd (p : Pred) (f : Form.VmmA)
  /-- VMOV_AND_MSK (R346): Masked vmov.and. -/
  | vmovAndMsk (p : Pred) (f : Form.VmmA) (msk : Fin 8)
  /-- VMOV_SET (R346): Copy with valid ← mB. -/
  | vmovSet (p : Pred) (f : Form.VmmS)
  /-- VMOV_SET_MSK (R346): Masked vmov.set. -/
  | vmovSetMsk (p : Pred) (f : Form.VmmS) (msk : Fin 8)
  /-- VRCP (R347): Correctly rounded reciprocal. -/
  | vrcp (p : Pred) (f : Form.R2R)
  /-- VRCP_MSK (R347): Masked vrcp. -/
  | vrcpMsk (p : Pred) (f : Form.R2R) (msk : Fin 8)
  /-- VRSQRT (R347): Reciprocal square root. -/
  | vrsqrt (p : Pred) (f : Form.R2R)
  /-- VRSQRT_MSK (R347): Masked vrsqrt. -/
  | vrsqrtMsk (p : Pred) (f : Form.R2R) (msk : Fin 8)
  /-- VSQRT (R347): Square root. -/
  | vsqrt (p : Pred) (f : Form.R2R)
  /-- VSQRT_MSK (R347): Masked vsqrt. -/
  | vsqrtMsk (p : Pred) (f : Form.R2R) (msk : Fin 8)
  /-- VEXP2 (R347): 2^x. -/
  | vexp2 (p : Pred) (f : Form.R2R)
  /-- VEXP2_MSK (R347): Masked vexp2. -/
  | vexp2Msk (p : Pred) (f : Form.R2R) (msk : Fin 8)
  /-- VLOG2 (R347): log2 x. -/
  | vlog2 (p : Pred) (f : Form.R2R)
  /-- VLOG2_MSK (R347): Masked vlog2. -/
  | vlog2Msk (p : Pred) (f : Form.R2R) (msk : Fin 8)
  /-- VTANH (R347): tanh x. -/
  | vtanh (p : Pred) (f : Form.R2R)
  /-- VTANH_MSK (R347): Masked vtanh. -/
  | vtanhMsk (p : Pred) (f : Form.R2R) (msk : Fin 8)
  /-- VSIGM (R347): Logistic sigmoid. -/
  | vsigm (p : Pred) (f : Form.R2R)
  /-- VSIGM_MSK (R347): Masked vsigm. -/
  | vsigmMsk (p : Pred) (f : Form.R2R) (msk : Fin 8)
  /-- VRAND (R348): Keyed counter-based random token. -/
  | vrand (p : Pred) (f : Form.R3)
  /-- VRAND_MSK (R348): Masked vrand. -/
  | vrandMsk (p : Pred) (f : Form.R3) (msk : Fin 8)
  /-- VCVT (R350): Convert lanes between formats. -/
  | vcvt (p : Pred) (f : Form.Vcv)
  /-- VPACK (R351): Pack 32-bit lanes into a narrow token. -/
  | vpack (p : Pred) (f : Form.Vpk)
  /-- VUNPACK (R351): Unpack a narrow token into 32-bit lanes. -/
  | vunpack (p : Pred) (f : Form.Vpk)
  /-- VSCALE (R352): Apply E8M0 scales. -/
  | vscale (p : Pred) (f : Form.R3R)
  /-- VSCALE_MSK (R352): Masked vscale. -/
  | vscaleMsk (p : Pred) (f : Form.R3R) (msk : Fin 8)
  /-- LD (R383): Scalar scratchpad load. -/
  | ld (p : Pred) (f : Form.Ld)
  /-- LD_EXT (R383): ld with a 32-bit byte offset. -/
  | ldExt (p : Pred) (f : Form.LdX)
  /-- ST (R383): Scalar scratchpad store, gated. -/
  | st (p : Pred) (f : Form.St)
  /-- ST_EXT (R383): st with a 32-bit offset. -/
  | stExt (p : Pred) (f : Form.StX)
  /-- VLD (R384): Vector scratchpad load. -/
  | vld (p : Pred) (f : Form.Vld)
  /-- VLD_EXT (R384): vld with a 32-bit offset. -/
  | vldExt (p : Pred) (f : Form.VldX)
  /-- VST (R384): Vector scratchpad store. -/
  | vst (p : Pred) (f : Form.Vst)
  /-- VST_EXT (R384): vst with a 32-bit offset. -/
  | vstExt (p : Pred) (f : Form.VstX)
  /-- VLDM (R384): Masked vector load. -/
  | vldm (p : Pred) (f : Form.Vldm)
  /-- VLDM_EXT (R384): vldm with a 32-bit offset. -/
  | vldmExt (p : Pred) (f : Form.VldmX)
  /-- VSTM (R384): Masked vector store. -/
  | vstm (p : Pred) (f : Form.Vstm)
  /-- VSTM_EXT (R384): vstm with a 32-bit offset. -/
  | vstmExt (p : Pred) (f : Form.VstmX)
  /-- GLD (R385): Global load through a handle. -/
  | gld (p : Pred) (f : Form.Gld)
  /-- GST (R385): Global store through a handle, gated. -/
  | gst (p : Pred) (f : Form.Gst)
  /-- AMO_ADD (R386): Atomic add at the slice. -/
  | amoAdd (p : Pred) (f : Form.Amo)
  /-- AMO_MIN (R386): Atomic minimum. -/
  | amoMin (p : Pred) (f : Form.Amo)
  /-- AMO_MAX (R386): Atomic maximum. -/
  | amoMax (p : Pred) (f : Form.Amo)
  /-- AMO_SWAP (R386): Atomic swap. -/
  | amoSwap (p : Pred) (f : Form.Amo)
  /-- AMO_CAS (R386): Atomic compare and swap. -/
  | amoCas (p : Pred) (f : Form.AmoC)
  /-- AMO_FADD (R386): Atomic FP32 add. -/
  | amoFadd (p : Pred) (f : Form.AmoF)
  /-- XLAT (R387): Translate a page into a handle. -/
  | xlat (p : Pred) (f : Form.Hx)
  /-- HINV (R388): Invalidate a handle. -/
  | hinv (p : Pred) (f : Form.H1)
  /-- TLD (R389): Tile load from global memory into a stream. -/
  | tld (p : Pred) (f : Form.Tl)
  /-- TLD_TIMED (R390): tld issued at a WCC time E. -/
  | tldTimed (p : Pred) (f : Form.TlT)
  /-- TST (R389): Tile store from a stream to global memory. -/
  | tst (p : Pred) (f : Form.Tl)
  /-- TST_TIMED (R390): tst issued at a WCC time E. -/
  | tstTimed (p : Pred) (f : Form.TlT)
  /-- PF (R388): Prefetch hint to the line's slice. -/
  | pf (p : Pred) (f : Form.Hx)
  /-- FENCE_G (R229): Wait for every earlier global event and end CACHE leases. -/
  | fenceG (p : Pred)
  /-- FENCE_E (R229): Wait for every earlier engine, copy and bankmode operation. -/
  | fenceE (p : Pred)
  /-- FENCE_N (R229): Wait for earlier publications and sends to be accepted. -/
  | fenceN (p : Pred)
  /-- FENCE_A (R229): All three fence conditions. -/
  | fenceA (p : Pred)
  /-- BANKMODE (R392): Change a bank's issued mode and clear it. -/
  | bankmode (p : Pred) (f : Form.Bm)
  /-- CINV (R388): Drop one CACHE line. -/
  | cinv (p : Pred) (f : Form.Hx)
  /-- CINVA (R388): Drop every CACHE line. -/
  | cinva (p : Pred)
  /-- QSET (R356): Write a stream descriptor after checks. -/
  | qset (p : Pred) (f : Form.Qset)
  /-- QGET (R357): Read half of a stream descriptor. -/
  | qget (p : Pred) (f : Form.Qget)
  /-- MMA (R365): Matrix multiply-accumulate into accumulator banks. -/
  | mma (p : Pred) (f : Form.Mma)
  /-- MMAG (R366): Matrix multiply with loupe-gathered rows. -/
  | mmag (p : Pred) (f : Form.Mmag)
  /-- AALLOC (R362): Allocate accumulator banks. -/
  | aalloc (p : Pred) (f : Form.Fl)
  /-- AFREE (R362): Free accumulator banks. -/
  | afree (p : Pred) (f : Form.Fl)
  /-- AOWN (R362): Give a drain group a band of banks. -/
  | aown (p : Pred) (f : Form.Aown)
  /-- AOWN_REL (R362): Release a drain group's band. -/
  | aownRel (p : Pred) (f : Form.AownRel)
  /-- ACLR (R362): Clear banks to +0. -/
  | aclr (p : Pred) (f : Form.Fl)
  /-- ADRAIN (R363): Drain banks through a stream, optionally clearing them. -/
  | adrain (p : Pred) (f : Form.Adrain)
  /-- AREAD (R364): Read one bank row into a v register. -/
  | aread (p : Pred) (f : Form.Aread)
  /-- SCAN_ADD (R368): Additive scan, with no init. -/
  | scanAdd (p : Pred) (f : Form.Scan)
  /-- SCAN_ADD_INIT (R367): scan.add with an init value. -/
  | scanAddInit (p : Pred) (f : Form.ScanI)
  /-- SCAN_MUL (R368): Multiplicative scan. -/
  | scanMul (p : Pred) (f : Form.Scan)
  /-- SCAN_MUL_INIT (R367): scan.mul with init. -/
  | scanMulInit (p : Pred) (f : Form.ScanI)
  /-- SCAN_MAX (R368): Maximum scan. -/
  | scanMax (p : Pred) (f : Form.Scan)
  /-- SCAN_MAX_INIT (R367): scan.max with init. -/
  | scanMaxInit (p : Pred) (f : Form.ScanI)
  /-- SCAN_MIN (R368): Minimum scan. -/
  | scanMin (p : Pred) (f : Form.Scan)
  /-- SCAN_MIN_INIT (R367): scan.min with init. -/
  | scanMinInit (p : Pred) (f : Form.ScanI)
  /-- SCAN_AFFINE (R368): Affine pair scan. -/
  | scanAffine (p : Pred) (f : Form.Scan2)
  /-- SCAN_LSE (R368): Log-sum-exp pair scan. -/
  | scanLse (p : Pred) (f : Form.Scan2)
  /-- SCAN_MOMENT (R368): Moment-triple scan. -/
  | scanMoment (p : Pred) (f : Form.Scan)
  /-- SCAN_MOMENT_INIT (R367): scan.moment with its init from a w register. -/
  | scanMomentInit (p : Pred) (f : Form.ScanM)
  /-- SCAN_USER (R368): Single-component scan with the user operator. -/
  | scanUser (p : Pred) (f : Form.Scan)
  /-- SCAN_USER_EXT (R367): scan.user in pair form or with init. -/
  | scanUserExt (p : Pred) (f : Form.ScanU)
  /-- SCDEF (R370): Define the user scan operator. -/
  | scdef (p : Pred) (f : Form.Scdef)
  /-- MUPD (R373): Update moment triples from a stream. -/
  | mupd (p : Pred) (f : Form.Mupd)
  /-- MUPDW (R373): Weighted update with a scalar weight. -/
  | mupdw (p : Pred) (f : Form.Mupdw)
  /-- MUPDW_STREAM (R373): Weighted update with weights from a stream. -/
  | mupdwStream (p : Pred) (f : Form.MupdwQ)
  /-- MMERGE (R374): Lane-wise merge of two w registers. -/
  | mmerge (p : Pred) (f : Form.Mw2)
  /-- MMERGE_LANES (R374): Tree-merge the lanes of wA. -/
  | mmergeLanes (p : Pred) (f : Form.Mw2L)
  /-- MCLR (R374): Set the w register to empty triples. -/
  | mclr (p : Pred) (f : Form.W1)
  /-- MDRAIN (R375): Drain the mean, a variance or rstd to a v register. -/
  | mdrain (p : Pred) (f : Form.Mdrain)
  /-- MDRAIN_NORM (R375): Normalise a stream by a moment register. -/
  | mdrainNorm (p : Pred) (f : Form.MdrainN)
  /-- MLD (R376): Load a w register from scratchpad. -/
  | mld (p : Pred) (f : Form.Mls)
  /-- MST (R376): Store a w register to scratchpad. -/
  | mst (p : Pred) (f : Form.Mls)
  /-- CPY (R377): Local byte copy, memmove semantics. -/
  | cpy (p : Pred) (f : Form.Cpy)
  /-- CPY2D (R378): Stream-to-stream copy with conversion. -/
  | cpy2d (p : Pred) (f : Form.Cpy2d)
  /-- FILL (R379): Fill a stream with a value. -/
  | fill (p : Pred) (f : Form.Fill)
  /-- PUB (R394): Publish a stream as one tile from a record. -/
  | pub (p : Pred) (f : Form.Pub)
  /-- PUB_INDEXED (R393): pub with the index taken from a register. -/
  | pubIndexed (p : Pred) (f : Form.PubX)
  /-- PUBEOS (R395): Request the end of a record's stream. -/
  | pubeos (p : Pred) (f : Form.Pubeos)
  /-- FETCH (R396): Late-fetch a subscription's tile into a stream. -/
  | fetch (p : Pred) (f : Form.Fetch)
  /-- FETCH_INDEXED (R393): fetch with the index from a register. -/
  | fetchIndexed (p : Pred) (f : Form.FetchX)
  /-- SUBQ (R397): Query the gate's pen store for a subscription. -/
  | subq (p : Pred) (f : Form.Subq)
  /-- HBAR (R398): Herd barrier: arrive, then wait. -/
  | hbar (p : Pred)
  /-- HBAR_ARRIVE (R398): Send this rank's barrier arrival. -/
  | hbarArrive (p : Pred)
  /-- HBAR_WAIT (R398): Wait for the barrier phase to complete. -/
  | hbarWait (p : Pred)
  /-- COLL (R400): Send a stream's tokens as chunks on a VSN. -/
  | coll (p : Pred) (f : Form.Coll)
  /-- COLL_RECV (R400): Receive chunks into a stream. -/
  | collRecv (p : Pred) (f : Form.CollR)
  /-- COLL_W (R400): Send a w register as one TRIPLE chunk. -/
  | collW (p : Pred) (f : Form.CollW)
  /-- COLL_RECV_W (R400): Receive one chunk into a w register. -/
  | collRecvW (p : Pred) (f : Form.CollRW)
  /-- CMARK (R400): Send a marker on a VSN. -/
  | cmark (p : Pred) (f : Form.Cmark)
  /-- CMARK_END (R400): Send an end mark on a VSN. -/
  | cmarkEnd (p : Pred) (f : Form.CmarkE)
  /-- CSEND (R371): Send a vector to the next or previous rank on the carry line. -/
  | csend (p : Pred) (f : Form.Csend)
  /-- CRECV (R371): Receive a carry-line message into a v register. -/
  | crecv (p : Pred) (f : Form.Crecv)
  /-- CBAR (R372): Carry-line barrier across the herd. -/
  | cbar (p : Pred)
  /-- CONFIGURATION_RESTART (R4): The steward records a loss of service and restarts the module's configuration, reloading WAFER_CAPS, applying shifts and resetting per-configuration counters. -/
  | configurationRestart
  /-- DEEP_TIER_LOSS (R69): A CXL deep-tier link is lost in service, and requests to its granules trap ECC_UNCORR until the next configuration restart. -/
  | deepTierLoss (link : Fin 8)
  /-- SYNC_LOCKED (R28): IEEE 1588 synchronisation regains lock and slewing of the WCC resumes. -/
  | syncLocked
  /-- EMPTY_BUNDLE (R282): A bundle with MASK = 0 issues nothing, but takes its restart mark when RMARK = 1 and owes its NOPC cycles. -/
  | emptyBundle (core : Nat)
  /-- UNASSIGNED_OPCODE (R294): A bundle holding a slot word with an unassigned opcode, including all zeros, traps ILLEGAL_OP at decode. -/
  | unassignedOpcode (core : Nat) (slot : Fin 8)
  /-- RE_PLACEMENT (R134): System software names cores to be avoided, and the mapper re-places the affected pens while the loader writes the changed relocations into the image before T. -/
  | rePlacement (part : Fin 16) (avoid : List Nat) (placed : Option Nat)
  /-- NEW_HEALTH_RECORD (R42): Vendor service writes a new health record or replaces the module, which clears REPLACE_REQUEST. -/
  | newHealthRecord (rec_ : HealthRecord)
  /-- STEWARD_FRAME_FILL (R247): The steward finishes filling a frame for an SW[7:6] = 1 page, and the pager stores the page entry and resolves the fault. -/
  | stewardFrameFill (walk : Nat) (fill : Option FrameFill)
  deriving DecidableEq, Repr

end Sys2Proof
end

