-- ==== Sys2Proof/WellFormed.lean ====
section
/-! DEFINITION. Sys2Proof/WellFormed.lean: which instructions of the syntax are instructions of the manual: the checks of 10 R286,
R289, R290, R294 and of the definitions of single instructions that no field's type already makes. Checks on a whole bundle
(two slots with one destination, a loop's END) are in Decode.lean. -/

namespace Sys2Proof

/-- PRED = 0 with PSENSE = 1 is no encoding (10 R286). -/
def Pred.wf (p : Pred) : Bool := !(p.reg == 0 && p.sense)

/-- RMS 5 is accepted by conversions only (10 Table 10-6, 12 R339). -/
def Rms.arithmetic : Rms → Bool
  | .rsto => false
  | _ => true

/-- TY of a vector integer instruction: 3 and 7 trap (12 R342). -/
def Ty.narrow : Ty → Bool
  | .i64 | .n64 => false
  | _ => true

/-- TY of an AMO: 2, 3, 6 or 7 (14 Table 14-1). -/
def Ty.atomic : Ty → Bool
  | .i32 | .i64 | .n32 | .n64 => true
  | _ => false

/-- The registers Table 6-7 marks RW (06 R207). -/
def SysReg.writable : SysReg → Bool
  | .fpcr | .key _ => true
  | _ => false

/-- Width of an element of a format in bits (03 Table 3-4). -/
def Fmt.width : Fmt → Nat
  | .f32 | .i32 => 32
  | .f16 | .bf16 | .i16 => 16
  | .i8 | .t8 | .e4m3 | .e5m2 => 8
  | .t6 => 6
  | .triple => 96

/-- With RMS 1 to 4 the V field and TV are zero (12 R349). -/
def uSourceWf (rms : Rms) (v : Fin 32) (tv : Bool) : Bool :=
  match rms with
  | .fpcr | .rsto => true
  | _ => v == 0 && !tv

/-- Formats of `vcvt`: different, and no TRIPLE (12 R349). -/
def vcvtWf (f : Form.Vcv) : Bool :=
  f.sfmt != f.dfmt && f.sfmt != .triple && f.dfmt != .triple && uSourceWf f.rms f.v f.tv

/-- Formats of `vpack`: from FP32 or INT32 to a width of 16, 8 or 6 (12 R351). -/
def vpackWf (f : Form.Vpk) : Bool :=
  (f.sfmt == .f32 || f.sfmt == .i32) && decide (f.dfmt.width ≤ 16) && uSourceWf f.rms f.v f.tv

/-- Formats of `vunpack`: from a width of 16, 8 or 6 to FP32 or INT32 (12 R351). -/
def vunpackWf (f : Form.Vpk) : Bool :=
  (f.dfmt == .f32 || f.dfmt == .i32) && decide (f.sfmt.width ≤ 16) && uSourceWf f.rms f.v f.tv

/-- Init registers of a pair scan are zero fields without INIT (13 R359, R367). -/
def scan2Wf (f : Form.Scan2) : Bool :=
  f.init || (f.vi == 0 && !f.tvi && f.vj == 0 && !f.tvj)

/-- The extended `scan.user`: PAIR or INIT; X2, Y2 and VJ only with PAIR, init registers only with INIT (13 R359). -/
def scanUserWf (f : Form.ScanU) : Bool :=
  (f.pair || f.init) && (f.pair || (f.x2 == 0 && f.y2 == 0 && f.vj == 0 && !f.tvj)) &&
  (f.init || (f.vi == 0 && !f.tvi && f.vj == 0 && !f.tvj))

/-- An operand register that its option does not use is a zero field (10 R291, 14 Table 14-1). -/
def tagWf (used : Bool) (r : Fin 32) (t : Bool) : Bool := used || (r == 0 && !t)

/-- The instruction is one the manual has: every encoding of it decodes (10 R294, R295). -/
def Instr.wf : Instr → Bool
  | .powerGood _ => true
  | .enterP0 => true
  | .enterP1 => true
  | .enterS1 => true
  | .exitS1 => true
  | .enterS3 => true
  | .exitS3 _ => true
  | .powerRemoved => true
  | .auxPowerFail => true
  | .thermalThrottle => true
  | .thermalRecover => true
  | .wccSlew _ => true
  | .syncUnlocked => true
  | .peerDelayMeasure _ _ => true
  | .ltsFloor => true
  | .bloomAlternate => true
  | .scrubLine _ _ => true
  | .configEntryRewritten router => decide (router < Config.cores)
  | .selftestWithdraw core => decide (core < Config.cores)
  | .selftestStart core => decide (core < Config.cores)
  | .selftestSkip core => decide (core < Config.cores)
  | .selftestDone core _ => decide (core < Config.cores)
  | .failedInService core => decide (core < Config.cores)
  | .freezeTimeout core => decide (core < Config.cores)
  | .retryRequest router _ => decide (router < Config.cores)
  | .linkDead router _ => decide (router < Config.cores)
  | .publicationArrival router _ => decide (router < Config.cores)
  | .requestArrival router _ => decide (router < Config.cores)
  | .requestResume router => decide (router < Config.cores)
  | .gateTileArrival _ => true
  | .heldTileAccept _ => true
  | .missReplyArrival _ => true
  | .agentRequest _ => true
  | .agentFetchDone _ _ => true
  | .segmentVerify _ => true
  | .backWrite _ => true
  | .backCompletion core => decide (core < Config.cores)
  | .configWrite router => decide (router < Config.cores)
  | .collectiveChunkArrival router _ => decide (router < Config.cores)
  | .chunkRefetch router => decide (router < Config.cores)
  | .markerArrival router _ => decide (router < Config.cores)
  | .carryMessageArrival core _ => decide (core < Config.cores)
  | .drainWave _ => true
  | .cfgswap _ => true
  | .cfgswapForce _ => true
  | .planeSwap router => decide (router < Config.cores)
  | .congestionTimeout router _ => decide (router < Config.cores)
  | .probe _ => true
  | .probeWave _ => true
  | .verdictRead => true
  | .memoryRequestArrival _ => true
  | .spillReturn _ => true
  | .requestServe _ => true
  | .lineFill _ _ => true
  | .acceptanceToken _ => true
  | .completionToken _ => true
  | .cancellation _ => true
  | .tilePrepare _ => true
  | .tileCommit _ => true
  | .walkRequest _ => true
  | .walkComplete _ => true
  | .pagerFaultToken _ => true
  | .pagerResolve _ => true
  | .shootdown _ _ _ => true
  | .shootdownComplete => true
  | .frameReceive _ _ => true
  | .frameResendTimeout _ _ _ => true
  | .peerLost _ => true
  | .instructionFetch core => decide (core < Config.cores)
  | .fixedResultLand core => decide (core < Config.cores)
  | .registerFill core _ => decide (core < Config.cores)
  | .queueOpStart core _ => decide (core < Config.cores)
  | .engineOpComplete core _ _ => decide (core < Config.cores)
  | .streamerStart core => decide (core < Config.cores)
  | .streamerComplete core _ => decide (core < Config.cores)
  | .landingStart core => decide (core < Config.cores)
  | .landingComplete core => decide (core < Config.cores)
  | .retireComplete core => decide (core < Config.cores)
  | .walkerOpen _ => true
  | .dispatch core => decide (core < Config.cores)
  | .herdDispatch _ => true
  | .triggerCount _ => true
  | .eosRequest _ => true
  | .eosEmit _ => true
  | .barrierArrival _ => true
  | .barrierTimeout core => decide (core < Config.cores)
  | .npsOverrun core => decide (core < Config.cores)
  | .deferredFault core => decide (core < Config.cores)
  | .resume core => decide (core < Config.cores)
  | .retranslate core => decide (core < Config.cores)
  | .endFiring core => decide (core < Config.cores)
  | .freezeRequest core => decide (core < Config.cores)
  | .arm _ => true
  | .cancel _ => true
  | .switchCommit _ => true
  | .switchStart _ => true
  | .saveDone _ => true
  | .restoreDone _ => true
  | .switchOverdue _ => true
  | .openCfg _ => true
  | .arg _ => true
  | .inject _ => true
  | .go _ => true
  | .close _ => true
  | .invalidEntry _ => true
  | .heldEntryResume _ => true
  | .tailWrite _ _ => true
  | .ringWrite _ _ => true
  | .errClear _ => true
  | .registerWrite _ _ => true
  | .lockInterface _ _ => true
  | .keyDelivery _ _ => true
  | .startInterface _ => true
  | .stopInterface _ => true
  | .getDeviceInterfaceReport _ => true
  | .tdispUnsupported _ => true
  | .snapshotChange _ _ => true
  | .keyTableError _ => true
  | .debugAttachTrace core => decide (core < Config.cores)
  | .debugAttachHalt core => decide (core < Config.cores)
  | .debugSessionEnd core => decide (core < Config.cores)
  | .attestationRequest _ => true
  | .add p _ => p.wf
  | .sub p _ => p.wf
  | .addi p _ => p.wf
  | .addiExt p _ => p.wf
  | .and p _ => p.wf
  | .or p _ => p.wf
  | .xor p _ => p.wf
  | .andn p _ => p.wf
  | .shl p _ => p.wf
  | .shr p _ => p.wf
  | .sra p _ => p.wf
  | .shli p _ => p.wf
  | .shri p _ => p.wf
  | .srai p _ => p.wf
  | .mul p _ => p.wf
  | .mulh p _ => p.wf
  | .div p _ => p.wf
  | .rem p _ => p.wf
  | .min p _ => p.wf
  | .max p _ => p.wf
  | .clz p _ => p.wf
  | .ctz p _ => p.wf
  | .popc p _ => p.wf
  | .bswap p _ => p.wf
  | .ext p f => p.wf && decide (f.pos.val + f.lenm1.val ≤ 63)
  | .ins p f => p.wf && decide (f.pos.val + f.lenm1.val ≤ 63)
  | .li p _ => p.wf
  | .liExt p _ => p.wf
  | .lih p _ => p.wf
  | .lihExt p _ => p.wf
  | .mov p _ => p.wf
  | .sel p _ => p.wf
  | .lea p _ => p.wf
  | .madd p _ => p.wf
  | .clamp p _ => p.wf
  | .cmpEq p _ => p.wf
  | .cmpNe p _ => p.wf
  | .cmpLt p _ => p.wf
  | .cmpLe p _ => p.wf
  | .cmpiEq p _ => p.wf
  | .cmpiEqExt p _ => p.wf
  | .cmpiNe p _ => p.wf
  | .cmpiNeExt p _ => p.wf
  | .cmpiLt p _ => p.wf
  | .cmpiLtExt p _ => p.wf
  | .cmpiLe p _ => p.wf
  | .cmpiLeExt p _ => p.wf
  | .pand p _ => p.wf
  | .por p _ => p.wf
  | .pxor p _ => p.wf
  | .pnot p _ => p.wf
  | .pmov p _ => p.wf
  | .br p _ => p.wf
  | .brc p _ => p.wf
  | .brcExt p _ => p.wf
  | .jr p _ => p.wf
  | .call p _ => p.wf
  | .ret p => p.wf
  | .lp p _ => p.wf
  | .lpx p _ => p.wf
  | .xwait p _ => p.wf
  | .twait p _ => p.wf
  | .retire p => p.wf
  | .trigger p => p.wf
  | .trap p _ => p.wf
  | .brk p _ => p.wf
  | .npsBegin p => p.wf
  | .npsEnd p => p.wf
  | .srd p _ => p.wf
  | .swr p f => p.wf && f.reg.writable
  | .cfgq p _ => p.wf
  | .wccr p _ => p.wf
  | .vadd p f => p.wf && f.rms.arithmetic
  | .vaddMsk p f _ => p.wf && f.rms.arithmetic
  | .vsub p f => p.wf && f.rms.arithmetic
  | .vsubMsk p f _ => p.wf && f.rms.arithmetic
  | .vmul p f => p.wf && f.rms.arithmetic
  | .vmulMsk p f _ => p.wf && f.rms.arithmetic
  | .vfma p f => p.wf && f.rms.arithmetic
  | .vfms p f => p.wf && f.rms.arithmetic
  | .vfnma p f => p.wf && f.rms.arithmetic
  | .vmin p _ => p.wf
  | .vminMsk p _ _ => p.wf
  | .vmax p _ => p.wf
  | .vmaxMsk p _ _ => p.wf
  | .vabs p _ => p.wf
  | .vabsMsk p _ _ => p.wf
  | .vneg p _ => p.wf
  | .vnegMsk p _ _ => p.wf
  | .vcmpEq p _ => p.wf
  | .vcmpEqMsk p _ _ => p.wf
  | .vcmpLt p _ => p.wf
  | .vcmpLtMsk p _ _ => p.wf
  | .vcmpLe p _ => p.wf
  | .vcmpLeMsk p _ _ => p.wf
  | .vcmpUn p _ => p.wf
  | .vcmpUnMsk p _ _ => p.wf
  | .vsel p _ => p.wf
  | .vselMsk p _ _ => p.wf
  | .vclamp p _ => p.wf
  | .viadd p f => p.wf && f.ty.narrow
  | .viaddMsk p f _ => p.wf && f.ty.narrow
  | .visub p f => p.wf && f.ty.narrow
  | .visubMsk p f _ => p.wf && f.ty.narrow
  | .vimul p f => p.wf && f.ty.narrow
  | .vimulMsk p f _ => p.wf && f.ty.narrow
  | .vimin p f => p.wf && f.ty.narrow
  | .viminMsk p f _ => p.wf && f.ty.narrow
  | .vimax p f => p.wf && f.ty.narrow
  | .vimaxMsk p f _ => p.wf && f.ty.narrow
  | .vand p _ => p.wf
  | .vandMsk p _ _ => p.wf
  | .vor p _ => p.wf
  | .vorMsk p _ _ => p.wf
  | .vxor p _ => p.wf
  | .vxorMsk p _ _ => p.wf
  | .vandn p _ => p.wf
  | .vandnMsk p _ _ => p.wf
  | .vshl p _ => p.wf
  | .vshlMsk p _ _ => p.wf
  | .vshr p _ => p.wf
  | .vshrMsk p _ _ => p.wf
  | .vsra p _ => p.wf
  | .vsraMsk p _ _ => p.wf
  | .vicmpEq p f => p.wf && f.ty.narrow
  | .vicmpEqMsk p f _ => p.wf && f.ty.narrow
  | .vicmpLt p f => p.wf && f.ty.narrow
  | .vicmpLtMsk p f _ => p.wf && f.ty.narrow
  | .vicmpLe p f => p.wf && f.ty.narrow
  | .vicmpLeMsk p f _ => p.wf && f.ty.narrow
  | .vbcast p _ => p.wf
  | .vbcastMsk p _ _ => p.wf
  | .vext p _ => p.wf
  | .vins p _ => p.wf
  | .vperm p _ => p.wf
  | .vpermMsk p _ _ => p.wf
  | .vshift p _ => p.wf
  | .vshiftMsk p _ _ => p.wf
  | .vrot p _ => p.wf
  | .vrotMsk p _ _ => p.wf
  | .vsum p f => p.wf && f.rms.arithmetic
  | .vsumMsk p f _ => p.wf && f.rms.arithmetic
  | .vmaxr p _ => p.wf
  | .vmaxrMsk p _ _ => p.wf
  | .vminr p _ => p.wf
  | .vminrMsk p _ _ => p.wf
  | .mand p _ => p.wf
  | .mor p _ => p.wf
  | .mxor p _ => p.wf
  | .mnot p _ => p.wf
  | .mpop p _ => p.wf
  | .mfirst p _ => p.wf
  | .vvalid p _ => p.wf
  | .vmov p _ => p.wf
  | .vmovMsk p _ _ => p.wf
  | .vmovAnd p _ => p.wf
  | .vmovAndMsk p _ _ => p.wf
  | .vmovSet p _ => p.wf
  | .vmovSetMsk p _ _ => p.wf
  | .vrcp p f => p.wf && f.rms.arithmetic
  | .vrcpMsk p f _ => p.wf && f.rms.arithmetic
  | .vrsqrt p f => p.wf && f.rms.arithmetic
  | .vrsqrtMsk p f _ => p.wf && f.rms.arithmetic
  | .vsqrt p f => p.wf && f.rms.arithmetic
  | .vsqrtMsk p f _ => p.wf && f.rms.arithmetic
  | .vexp2 p f => p.wf && f.rms.arithmetic
  | .vexp2Msk p f _ => p.wf && f.rms.arithmetic
  | .vlog2 p f => p.wf && f.rms.arithmetic
  | .vlog2Msk p f _ => p.wf && f.rms.arithmetic
  | .vtanh p f => p.wf && f.rms.arithmetic
  | .vtanhMsk p f _ => p.wf && f.rms.arithmetic
  | .vsigm p f => p.wf && f.rms.arithmetic
  | .vsigmMsk p f _ => p.wf && f.rms.arithmetic
  | .vrand p _ => p.wf
  | .vrandMsk p _ _ => p.wf
  | .vcvt p f => p.wf && vcvtWf f
  | .vpack p f => p.wf && vpackWf f
  | .vunpack p f => p.wf && vunpackWf f
  | .vscale p f => p.wf && f.rms.arithmetic
  | .vscaleMsk p f _ => p.wf && f.rms.arithmetic
  | .ld p _ => p.wf
  | .ldExt p _ => p.wf
  | .st p _ => p.wf
  | .stExt p _ => p.wf
  | .vld p _ => p.wf
  | .vldExt p _ => p.wf
  | .vst p _ => p.wf
  | .vstExt p _ => p.wf
  | .vldm p _ => p.wf
  | .vldmExt p _ => p.wf
  | .vstm p _ => p.wf
  | .vstmExt p _ => p.wf
  | .gld p _ => p.wf
  | .gst p _ => p.wf
  | .amoAdd p f => p.wf && f.ty.atomic
  | .amoMin p f => p.wf && f.ty.atomic
  | .amoMax p f => p.wf && f.ty.atomic
  | .amoSwap p f => p.wf && f.ty.atomic
  | .amoCas p f => p.wf && f.ty.atomic
  | .amoFadd p _ => p.wf
  | .xlat p _ => p.wf
  | .hinv p _ => p.wf
  | .tld p _ => p.wf
  | .tldTimed p _ => p.wf
  | .tst p _ => p.wf
  | .tstTimed p _ => p.wf
  | .pf p _ => p.wf
  | .fenceG p => p.wf
  | .fenceE p => p.wf
  | .fenceN p => p.wf
  | .fenceA p => p.wf
  | .bankmode p _ => p.wf
  | .cinv p _ => p.wf
  | .cinva p => p.wf
  | .qset p _ => p.wf
  | .qget p _ => p.wf
  | .mma p f => p.wf && decide (f.f ≤ f.l)
  | .mmag p f => p.wf && decide (f.f ≤ f.l)
  | .aalloc p f => p.wf && decide (f.f ≤ f.l)
  | .afree p f => p.wf && decide (f.f ≤ f.l)
  | .aown p f => p.wf && decide (f.f ≤ f.l)
  | .aownRel p _ => p.wf
  | .aclr p f => p.wf && decide (f.f ≤ f.l)
  | .adrain p f => p.wf && decide (f.f ≤ f.l)
  | .aread p _ => p.wf
  | .scanAdd p _ => p.wf
  | .scanAddInit p _ => p.wf
  | .scanMul p _ => p.wf
  | .scanMulInit p _ => p.wf
  | .scanMax p _ => p.wf
  | .scanMaxInit p _ => p.wf
  | .scanMin p _ => p.wf
  | .scanMinInit p _ => p.wf
  | .scanAffine p f => p.wf && scan2Wf f
  | .scanLse p f => p.wf && scan2Wf f
  | .scanMoment p _ => p.wf
  | .scanMomentInit p _ => p.wf
  | .scanUser p _ => p.wf
  | .scanUserExt p f => p.wf && scanUserWf f
  | .scdef p _ => p.wf
  | .mupd p _ => p.wf
  | .mupdw p _ => p.wf
  | .mupdwStream p _ => p.wf
  | .mmerge p _ => p.wf
  | .mmergeLanes p _ => p.wf
  | .mclr p _ => p.wf
  | .mdrain p f => p.wf && (f.kind == 3 || (f.s == 0 && !f.ts))
  | .mdrainNorm p _ => p.wf
  | .mld p _ => p.wf
  | .mst p _ => p.wf
  | .cpy p _ => p.wf
  | .cpy2d p _ => p.wf
  | .fill p _ => p.wf
  | .pub p f => p.wf && !(f.live && f.nolive) && tagWf f.tagx f.a f.ta
  | .pubIndexed p f => p.wf && !(f.live && f.nolive) && tagWf f.tagx f.a f.ta
  | .pubeos p _ => p.wf
  | .fetch p f => p.wf && tagWf f.tagx f.a f.ta
  | .fetchIndexed p f => p.wf && tagWf f.tagx f.a f.ta
  | .subq p f => p.wf && tagWf f.tagx f.a f.ta && tagWf f.idxx f.b f.tb
  | .hbar p => p.wf
  | .hbarArrive p => p.wf
  | .hbarWait p => p.wf
  | .coll p _ => p.wf
  | .collRecv p _ => p.wf
  | .collW p _ => p.wf
  | .collRecvW p _ => p.wf
  | .cmark p _ => p.wf
  | .cmarkEnd p _ => p.wf
  | .csend p _ => p.wf
  | .crecv p _ => p.wf
  | .cbar p => p.wf
  | .configurationRestart => true
  | .deepTierLoss _ => true
  | .syncLocked => true
  | .emptyBundle core => decide (core < Config.cores)
  | .unassignedOpcode core _ => decide (core < Config.cores)
  | .rePlacement _ _ _ => true
  | .newHealthRecord _ => true
  | .stewardFrameFill _ _ => true

end Sys2Proof
end

