-- ==== Sys2Proof/Decode.lean ====
section
/-! DEFINITION. Sys2Proof/Decode.lean: from words to instructions and back (10 R280 to R294). `decodeSlot` is total: every word at every
slot position gives an instruction or a reason why it is none. `encode` lays an instruction out from the same tables.
The section is noncomputable because Lean's runtime has no tag for a constructor as late as the last of Instr; the kernel
evaluates every definition here. -/

namespace Sys2Proof

noncomputable section

/-- Why a slot word is no instruction. Each is an ILLEGAL_OP of the bundle that holds it (10 R294). -/
inductive DecodeError where
  /-- the opcode is not in the slot's map (R292) -/
  | unassigned
  /-- PRED = 0 with PSENSE = 1 (R286) -/
  | predNever
  /-- an extension word its format forbids, or one its format needs and that is missing (R288) -/
  | extension
  /-- a register beyond its file, a reserved field that is not zero, a code the format has not (R289 to R291) -/
  | field
  /-- fields that each exist but that the instruction does not accept together (R294) -/
  | illFormed
  deriving DecidableEq, Repr

/-! ## Codes -/

def Ty.code : Ty → Nat
  | .i8 => 0 | .i16 => 1 | .i32 => 2 | .i64 => 3 | .n8 => 4 | .n16 => 5 | .n32 => 6 | .n64 => 7
def Ty.ofCode : Nat → Ty
  | 0 => .i8 | 1 => .i16 | 2 => .i32 | 3 => .i64 | 4 => .n8 | 5 => .n16 | 6 => .n32 | _ => .n64
def Rms.code : Rms → Nat
  | .fpcr => 0 | .rne => 1 | .rtz => 2 | .rup => 3 | .rdn => 4 | .rsto => 5
def Rms.ofCode : Nat → Rms
  | 0 => .fpcr | 1 => .rne | 2 => .rtz | 3 => .rup | 4 => .rdn | _ => .rsto
def Fmt.code : Fmt → Nat
  | .f32 => 0 | .f16 => 1 | .bf16 => 2 | .i32 => 3 | .i16 => 4 | .i8 => 5 | .t8 => 6 | .t6 => 7 | .e4m3 => 8 | .e5m2 => 9
  | .triple => 10
def Fmt.ofCode : Nat → Fmt
  | 0 => .f32 | 1 => .f16 | 2 => .bf16 | 3 => .i32 | 4 => .i16 | 5 => .i8 | 6 => .t8 | 7 => .t6 | 8 => .e4m3 | 9 => .e5m2
  | _ => .triple
def Cond.code : Cond → Nat
  | .z => 0 | .nz => 1 | .ltz => 2 | .gez => 3 | .lez => 4 | .gtz => 5
def Cond.ofCode : Nat → Cond
  | 0 => .z | 1 => .nz | 2 => .ltz | 3 => .gez | 4 => .lez | _ => .gtz
/-- The number of a system register (06 Table 6-7). -/
def SysReg.number : SysReg → Nat
  | .coreCaps => 0x000 | .waferCaps => 0x001 | .partHop => 0x002 | .wcc => 0x003 | .fpcr => 0x008
  | .key k => 0x010 + k.val | .xdone k => 0x020 + k.val | .xnext k => 0x024 + k.val
  | .pbdone => 0x028 | .pbnext => 0x029 | .accMap => 0x030 | .accOwn => 0x031
  | .rsbStat => 0x038 | .bankMode => 0x039 | .strmCtl => 0x03A | .trapRec k => 0x040 + k.val
/-- A number Table 6-7 lists. -/
def SysReg.listed (n : Nat) : Bool :=
  decide (n ≤ 0x003 ∨ n = 0x008 ∨ (0x010 ≤ n ∧ n ≤ 0x013) ∨ (0x020 ≤ n ∧ n ≤ 0x029) ∨ n = 0x030 ∨ n = 0x031 ∨
    (0x038 ≤ n ∧ n ≤ 0x03A) ∨ (0x040 ≤ n ∧ n ≤ 0x043))
/-- The register of a listed number; the last for a number that is not listed. -/
def SysReg.ofNumber (n : Nat) : SysReg :=
  if n = 0x000 then .coreCaps else if n = 0x001 then .waferCaps else if n = 0x002 then .partHop
  else if n = 0x003 then .wcc else if n = 0x008 then .fpcr
  else if n < 0x014 then .key ⟨(n - 0x010) % 4, by omega⟩
  else if n < 0x024 then .xdone ⟨(n - 0x020) % 4, by omega⟩
  else if n < 0x028 then .xnext ⟨(n - 0x024) % 4, by omega⟩
  else if n = 0x028 then .pbdone else if n = 0x029 then .pbnext else if n = 0x030 then .accMap
  else if n = 0x031 then .accOwn else if n = 0x038 then .rsbStat else if n = 0x039 then .bankMode
  else if n = 0x03A then .strmCtl else .trapRec ⟨(n - 0x040) % 4, by omega⟩

/-! ## Operand words of each format, both ways (10 Tables 10-7 to 10-9) -/

/-- The operand word of a `Form.R3`. -/
def Form.R3.ofWord (w : Nat) : Option Form.R3 :=
  if w % 8 = 0 then
    some { d := ⟨w / 32768 % 32, by omega⟩, a := ⟨w / 1024 % 32, by omega⟩, ta := decide (w / 512 % 2 = 1), b := ⟨w / 16 % 32, by omega⟩, tb := decide (w / 8 % 2 = 1) }
  else none
def Form.R3.word (f : Form.R3) : Nat := f.d.val * 32768 + f.a.val * 1024 + boolBit f.ta * 512 + f.b.val * 16 + boolBit f.tb * 8

/-- The operand word of a `Form.R3K`. -/
def Form.R3K.ofWord (w : Nat) : Option Form.R3K :=
  some { d := ⟨w / 32768 % 32, by omega⟩, a := ⟨w / 1024 % 32, by omega⟩, ta := decide (w / 512 % 2 = 1), b := ⟨w / 16 % 32, by omega⟩, tb := decide (w / 8 % 2 = 1), k := ⟨w % 8, by omega⟩ }
def Form.R3K.word (f : Form.R3K) : Nat := f.d.val * 32768 + f.a.val * 1024 + boolBit f.ta * 512 + f.b.val * 16 + boolBit f.tb * 8 + f.k.val

/-- The operand word of a `Form.R3Y`. -/
def Form.R3Y.ofWord (w : Nat) : Option Form.R3Y :=
  some { d := ⟨w / 32768 % 32, by omega⟩, a := ⟨w / 1024 % 32, by omega⟩, ta := decide (w / 512 % 2 = 1), b := ⟨w / 16 % 32, by omega⟩, tb := decide (w / 8 % 2 = 1), ty := Ty.ofCode (w % 8) }
def Form.R3Y.word (f : Form.R3Y) : Nat := f.d.val * 32768 + f.a.val * 1024 + boolBit f.ta * 512 + f.b.val * 16 + boolBit f.tb * 8 + f.ty.code

/-- The operand word of a `Form.R3U`. -/
def Form.R3U.ofWord (w : Nat) : Option Form.R3U :=
  if w % 4 = 3 then
    some { d := ⟨w / 32768 % 32, by omega⟩, a := ⟨w / 1024 % 32, by omega⟩, ta := decide (w / 512 % 2 = 1), b := ⟨w / 16 % 32, by omega⟩, tb := decide (w / 8 % 2 = 1), uns := decide (w / 4 % 2 = 1) }
  else none
def Form.R3U.word (f : Form.R3U) : Nat := f.d.val * 32768 + f.a.val * 1024 + boolBit f.ta * 512 + f.b.val * 16 + boolBit f.tb * 8 + boolBit f.uns * 4 + 3

/-- The operand word of a `Form.R3R`. -/
def Form.R3R.ofWord (w : Nat) : Option Form.R3R :=
  if w % 8 < 6 then
    some { d := ⟨w / 32768 % 32, by omega⟩, a := ⟨w / 1024 % 32, by omega⟩, ta := decide (w / 512 % 2 = 1), b := ⟨w / 16 % 32, by omega⟩, tb := decide (w / 8 % 2 = 1), rms := Rms.ofCode (w % 8) }
  else none
def Form.R3R.word (f : Form.R3R) : Nat := f.d.val * 32768 + f.a.val * 1024 + boolBit f.ta * 512 + f.b.val * 16 + boolBit f.tb * 8 + f.rms.code

/-- The operand word of a `Form.R2`. -/
def Form.R2.ofWord (w : Nat) : Option Form.R2 :=
  if w % 512 = 0 then
    some { d := ⟨w / 32768 % 32, by omega⟩, a := ⟨w / 1024 % 32, by omega⟩, ta := decide (w / 512 % 2 = 1) }
  else none
def Form.R2.word (f : Form.R2) : Nat := f.d.val * 32768 + f.a.val * 1024 + boolBit f.ta * 512

/-- The operand word of a `Form.R2R`. -/
def Form.R2R.ofWord (w : Nat) : Option Form.R2R :=
  if w % 8 < 6 ∧ w / 8 % 64 = 0 then
    some { d := ⟨w / 32768 % 32, by omega⟩, a := ⟨w / 1024 % 32, by omega⟩, ta := decide (w / 512 % 2 = 1), rms := Rms.ofCode (w % 8) }
  else none
def Form.R2R.word (f : Form.R2R) : Nat := f.d.val * 32768 + f.a.val * 1024 + boolBit f.ta * 512 + f.rms.code

/-- The operand word of a `Form.R2K`. -/
def Form.R2K.ofWord (w : Nat) : Option Form.R2K :=
  if w % 16 = 0 ∧ w / 256 % 2 = 0 then
    some { d := ⟨w / 32768 % 32, by omega⟩, a := ⟨w / 1024 % 32, by omega⟩, ta := decide (w / 512 % 2 = 1), k := ⟨w / 16 % 16, by omega⟩ }
  else none
def Form.R2K.word (f : Form.R2K) : Nat := f.d.val * 32768 + f.a.val * 1024 + boolBit f.ta * 512 + f.k.val * 16

/-- The operand word and extension of a `Form.R4`. -/
def Form.R4.ofWord (w x : Nat) : Option Form.R4 :=
  if w % 8 = 0 ∧ x % 67108864 = 0 then
    some { d := ⟨w / 32768 % 32, by omega⟩, a := ⟨w / 1024 % 32, by omega⟩, ta := decide (w / 512 % 2 = 1), b := ⟨w / 16 % 32, by omega⟩, tb := decide (w / 8 % 2 = 1), c := ⟨x / 134217728 % 32, by omega⟩, tc := decide (x / 67108864 % 2 = 1) }
  else none
def Form.R4.word (f : Form.R4) : Nat := f.d.val * 32768 + f.a.val * 1024 + boolBit f.ta * 512 + f.b.val * 16 + boolBit f.tb * 8
def Form.R4.ext (f : Form.R4) : Nat := f.c.val * 134217728 + boolBit f.tc * 67108864

/-- The operand word and extension of a `Form.R4Y`. -/
def Form.R4Y.ofWord (w x : Nat) : Option Form.R4Y :=
  if x % 67108864 = 0 then
    some { d := ⟨w / 32768 % 32, by omega⟩, a := ⟨w / 1024 % 32, by omega⟩, ta := decide (w / 512 % 2 = 1), b := ⟨w / 16 % 32, by omega⟩, tb := decide (w / 8 % 2 = 1), ty := Ty.ofCode (w % 8), c := ⟨x / 134217728 % 32, by omega⟩, tc := decide (x / 67108864 % 2 = 1) }
  else none
def Form.R4Y.word (f : Form.R4Y) : Nat := f.d.val * 32768 + f.a.val * 1024 + boolBit f.ta * 512 + f.b.val * 16 + boolBit f.tb * 8 + f.ty.code
def Form.R4Y.ext (f : Form.R4Y) : Nat := f.c.val * 134217728 + boolBit f.tc * 67108864

/-- The operand word and extension of a `Form.V4`. -/
def Form.V4.ofWord (w x : Nat) : Option Form.V4 :=
  if w % 8 = 0 ∧ x / 8 % 8388608 = 0 then
    some { d := ⟨w / 32768 % 32, by omega⟩, a := ⟨w / 1024 % 32, by omega⟩, ta := decide (w / 512 % 2 = 1), b := ⟨w / 16 % 32, by omega⟩, tb := decide (w / 8 % 2 = 1), c := ⟨x / 134217728 % 32, by omega⟩, tc := decide (x / 67108864 % 2 = 1), msk := ⟨x % 8, by omega⟩ }
  else none
def Form.V4.word (f : Form.V4) : Nat := f.d.val * 32768 + f.a.val * 1024 + boolBit f.ta * 512 + f.b.val * 16 + boolBit f.tb * 8
def Form.V4.ext (f : Form.V4) : Nat := f.c.val * 134217728 + boolBit f.tc * 67108864 + f.msk.val

/-- The operand word and extension of a `Form.V4R`. -/
def Form.V4R.ofWord (w x : Nat) : Option Form.V4R :=
  if w % 8 < 6 ∧ x / 8 % 8388608 = 0 then
    some { d := ⟨w / 32768 % 32, by omega⟩, a := ⟨w / 1024 % 32, by omega⟩, ta := decide (w / 512 % 2 = 1), b := ⟨w / 16 % 32, by omega⟩, tb := decide (w / 8 % 2 = 1), rms := Rms.ofCode (w % 8), c := ⟨x / 134217728 % 32, by omega⟩, tc := decide (x / 67108864 % 2 = 1), msk := ⟨x % 8, by omega⟩ }
  else none
def Form.V4R.word (f : Form.V4R) : Nat := f.d.val * 32768 + f.a.val * 1024 + boolBit f.ta * 512 + f.b.val * 16 + boolBit f.tb * 8 + f.rms.code
def Form.V4R.ext (f : Form.V4R) : Nat := f.c.val * 134217728 + boolBit f.tc * 67108864 + f.msk.val

/-- The operand word of a `Form.Ri`. -/
def Form.Ri.ofWord (w : Nat) : Option Form.Ri :=
  some { d := ⟨w / 32768 % 32, by omega⟩, a := ⟨w / 1024 % 32, by omega⟩, ta := decide (w / 512 % 2 = 1), imm := BitVec.ofNat 9 (w) }
def Form.Ri.word (f : Form.Ri) : Nat := f.d.val * 32768 + f.a.val * 1024 + boolBit f.ta * 512 + f.imm.toNat

/-- The operand word and extension of a `Form.RiX`. -/
def Form.RiX.ofWord (w x : Nat) : Option Form.RiX :=
  some { d := ⟨w / 32768 % 32, by omega⟩, a := ⟨w / 1024 % 32, by omega⟩, ta := decide (w / 512 % 2 = 1), imm := BitVec.ofNat 41 (w % 512 + x * 512) }
def Form.RiX.word (f : Form.RiX) : Nat := f.d.val * 32768 + f.a.val * 1024 + boolBit f.ta * 512 + f.imm.toNat % 512
def Form.RiX.ext (f : Form.RiX) : Nat := f.imm.toNat / 512

/-- The operand word of a `Form.Rn`. -/
def Form.Rn.ofWord (w : Nat) : Option Form.Rn :=
  if w / 64 % 8 = 0 then
    some { d := ⟨w / 32768 % 32, by omega⟩, a := ⟨w / 1024 % 32, by omega⟩, ta := decide (w / 512 % 2 = 1), n := ⟨w % 64, by omega⟩ }
  else none
def Form.Rn.word (f : Form.Rn) : Nat := f.d.val * 32768 + f.a.val * 1024 + boolBit f.ta * 512 + f.n.val

/-- The operand word of a `Form.Li`. -/
def Form.Li.ofWord (w : Nat) : Option Form.Li :=
  some { d := ⟨w / 32768 % 32, by omega⟩, imm := BitVec.ofNat 15 (w) }
def Form.Li.word (f : Form.Li) : Nat := f.d.val * 32768 + f.imm.toNat

/-- The operand word and extension of a `Form.LiX`. -/
def Form.LiX.ofWord (w x : Nat) : Option Form.LiX :=
  some { d := ⟨w / 32768 % 32, by omega⟩, imm := BitVec.ofNat 47 (w % 32768 + x * 32768) }
def Form.LiX.word (f : Form.LiX) : Nat := f.d.val * 32768 + f.imm.toNat % 32768
def Form.LiX.ext (f : Form.LiX) : Nat := f.imm.toNat / 32768

/-- The operand word and extension of a `Form.Bf`. -/
def Form.Bf.ofWord (w x : Nat) : Option Form.Bf :=
  if w % 8 = 0 ∧ x / 64 % 67108864 = 0 then
    some { d := ⟨w / 32768 % 32, by omega⟩, a := ⟨w / 1024 % 32, by omega⟩, ta := decide (w / 512 % 2 = 1), pos := ⟨w / 8 % 64, by omega⟩, lenm1 := ⟨x % 64, by omega⟩ }
  else none
def Form.Bf.word (f : Form.Bf) : Nat := f.d.val * 32768 + f.a.val * 1024 + boolBit f.ta * 512 + f.pos.val * 8
def Form.Bf.ext (f : Form.Bf) : Nat := f.lenm1.val

/-- The operand word of a `Form.Cmp`. -/
def Form.Cmp.ofWord (w : Nat) : Option Form.Cmp :=
  if w % 16 = 0 then
    some { pd := ⟨w / 131072 % 8, by omega⟩, a := ⟨w / 4096 % 32, by omega⟩, ta := decide (w / 2048 % 2 = 1), b := ⟨w / 64 % 32, by omega⟩, tb := decide (w / 32 % 2 = 1), uns := decide (w / 16 % 2 = 1) }
  else none
def Form.Cmp.word (f : Form.Cmp) : Nat := f.pd.val * 131072 + f.a.val * 4096 + boolBit f.ta * 2048 + f.b.val * 64 + boolBit f.tb * 32 + boolBit f.uns * 16

/-- The operand word of a `Form.Cmpi`. -/
def Form.Cmpi.ofWord (w : Nat) : Option Form.Cmpi :=
  some { pd := ⟨w / 131072 % 8, by omega⟩, a := ⟨w / 4096 % 32, by omega⟩, ta := decide (w / 2048 % 2 = 1), uns := decide (w / 1024 % 2 = 1), imm := BitVec.ofNat 10 (w) }
def Form.Cmpi.word (f : Form.Cmpi) : Nat := f.pd.val * 131072 + f.a.val * 4096 + boolBit f.ta * 2048 + boolBit f.uns * 1024 + f.imm.toNat

/-- The operand word and extension of a `Form.CmpiX`. -/
def Form.CmpiX.ofWord (w x : Nat) : Option Form.CmpiX :=
  some { pd := ⟨w / 131072 % 8, by omega⟩, a := ⟨w / 4096 % 32, by omega⟩, ta := decide (w / 2048 % 2 = 1), uns := decide (w / 1024 % 2 = 1), imm := BitVec.ofNat 42 (w % 1024 + x * 1024) }
def Form.CmpiX.word (f : Form.CmpiX) : Nat := f.pd.val * 131072 + f.a.val * 4096 + boolBit f.ta * 2048 + boolBit f.uns * 1024 + f.imm.toNat % 1024
def Form.CmpiX.ext (f : Form.CmpiX) : Nat := f.imm.toNat / 1024

/-- The operand word of a `Form.P3`. -/
def Form.P3.ofWord (w : Nat) : Option Form.P3 :=
  if w % 2048 = 0 then
    some { pd := ⟨w / 131072 % 8, by omega⟩, pa := ⟨w / 16384 % 8, by omega⟩, pb := ⟨w / 2048 % 8, by omega⟩ }
  else none
def Form.P3.word (f : Form.P3) : Nat := f.pd.val * 131072 + f.pa.val * 16384 + f.pb.val * 2048

/-- The operand word of a `Form.P2`. -/
def Form.P2.ofWord (w : Nat) : Option Form.P2 :=
  if w % 16384 = 0 then
    some { pd := ⟨w / 131072 % 8, by omega⟩, pa := ⟨w / 16384 % 8, by omega⟩ }
  else none
def Form.P2.word (f : Form.P2) : Nat := f.pd.val * 131072 + f.pa.val * 16384

/-- The operand word of a `Form.Jmp`. -/
def Form.Jmp.ofWord (w : Nat) : Option Form.Jmp :=
  some { off := BitVec.ofNat 20 (w) }
def Form.Jmp.word (f : Form.Jmp) : Nat := f.off.toNat

/-- The operand word of a `Form.Brc`. -/
def Form.Brc.ofWord (w : Nat) : Option Form.Brc :=
  if w / 2048 % 8 < 6 then
    some { a := ⟨w / 32768 % 32, by omega⟩, ta := decide (w / 16384 % 2 = 1), cond := Cond.ofCode (w / 2048 % 8), off := BitVec.ofNat 11 (w) }
  else none
def Form.Brc.word (f : Form.Brc) : Nat := f.a.val * 32768 + boolBit f.ta * 16384 + f.cond.code * 2048 + f.off.toNat

/-- The operand word and extension of a `Form.BrcX`. -/
def Form.BrcX.ofWord (w x : Nat) : Option Form.BrcX :=
  if w / 2048 % 8 < 6 ∧ w % 2048 = 0 then
    some { a := ⟨w / 32768 % 32, by omega⟩, ta := decide (w / 16384 % 2 = 1), cond := Cond.ofCode (w / 2048 % 8), off := BitVec.ofNat 32 (x) }
  else none
def Form.BrcX.word (f : Form.BrcX) : Nat := f.a.val * 32768 + boolBit f.ta * 16384 + f.cond.code * 2048
def Form.BrcX.ext (f : Form.BrcX) : Nat := f.off.toNat

/-- The operand word of a `Form.Ra`. -/
def Form.Ra.ofWord (w : Nat) : Option Form.Ra :=
  if w % 16384 = 0 then
    some { a := ⟨w / 32768 % 32, by omega⟩, ta := decide (w / 16384 % 2 = 1) }
  else none
def Form.Ra.word (f : Form.Ra) : Nat := f.a.val * 32768 + boolBit f.ta * 16384

/-- The operand word of a `Form.Lp`. -/
def Form.Lp.ofWord (w : Nat) : Option Form.Lp :=
  some { a := ⟨w / 32768 % 32, by omega⟩, ta := decide (w / 16384 % 2 = 1), stop := BitVec.ofNat 14 (w) }
def Form.Lp.word (f : Form.Lp) : Nat := f.a.val * 32768 + boolBit f.ta * 16384 + f.stop.toNat

/-- The operand word of a `Form.Lpx`. -/
def Form.Lpx.ofWord (w : Nat) : Option Form.Lpx :=
  some { cntm1 := BitVec.ofNat 10 (w / 1024), stop := BitVec.ofNat 10 (w) }
def Form.Lpx.word (f : Form.Lpx) : Nat := f.cntm1.toNat * 1024 + f.stop.toNat

/-- The operand word of a `Form.Xw`. -/
def Form.Xw.ofWord (w : Nat) : Option Form.Xw :=
  if w % 4096 = 0 then
    some { ch := ⟨w / 262144 % 4, by omega⟩, a := ⟨w / 8192 % 32, by omega⟩, ta := decide (w / 4096 % 2 = 1) }
  else none
def Form.Xw.word (f : Form.Xw) : Nat := f.ch.val * 262144 + f.a.val * 8192 + boolBit f.ta * 4096

/-- The operand word of a `Form.N16`. -/
def Form.N16.ofWord (w : Nat) : Option Form.N16 :=
  if w / 65536 % 16 = 0 then
    some { imm := BitVec.ofNat 16 (w) }
  else none
def Form.N16.word (f : Form.N16) : Nat := f.imm.toNat

/-- The operand word of a `Form.Srd`. -/
def Form.Srd.ofWord (w : Nat) : Option Form.Srd :=
  if SysReg.listed (w % 1024) = true ∧ w / 1024 % 32 = 0 then
    some { d := ⟨w / 32768 % 32, by omega⟩, reg := SysReg.ofNumber (w % 1024) }
  else none
def Form.Srd.word (f : Form.Srd) : Nat := f.d.val * 32768 + f.reg.number

/-- The operand word of a `Form.Swr`. -/
def Form.Swr.ofWord (w : Nat) : Option Form.Swr :=
  if SysReg.listed (w % 1024) = true ∧ w / 1024 % 16 = 0 then
    some { a := ⟨w / 32768 % 32, by omega⟩, ta := decide (w / 16384 % 2 = 1), reg := SysReg.ofNumber (w % 1024) }
  else none
def Form.Swr.word (f : Form.Swr) : Nat := f.a.val * 32768 + boolBit f.ta * 16384 + f.reg.number

/-- The operand word of a `Form.Cfgq`. -/
def Form.Cfgq.ofWord (w : Nat) : Option Form.Cfgq :=
  if w % 1024 < 5 ∧ w / 1024 % 32 = 0 then
    some { d := ⟨w / 32768 % 32, by omega⟩, item := ⟨w % 1024 % 5, by omega⟩ }
  else none
def Form.Cfgq.word (f : Form.Cfgq) : Nat := f.d.val * 32768 + f.item.val

/-- The operand word of a `Form.Rd`. -/
def Form.Rd.ofWord (w : Nat) : Option Form.Rd :=
  if w % 32768 = 0 then
    some { d := ⟨w / 32768 % 32, by omega⟩ }
  else none
def Form.Rd.word (f : Form.Rd) : Nat := f.d.val * 32768

/-- The operand word of a `Form.Mc`. -/
def Form.Mc.ofWord (w : Nat) : Option Form.Mc :=
  if w / 32768 % 32 < 8 ∧ w % 8 = 0 then
    some { d := ⟨w / 32768 % 8, by omega⟩, a := ⟨w / 1024 % 32, by omega⟩, ta := decide (w / 512 % 2 = 1), b := ⟨w / 16 % 32, by omega⟩, tb := decide (w / 8 % 2 = 1) }
  else none
def Form.Mc.word (f : Form.Mc) : Nat := f.d.val * 32768 + f.a.val * 1024 + boolBit f.ta * 512 + f.b.val * 16 + boolBit f.tb * 8

/-- The operand word of a `Form.McY`. -/
def Form.McY.ofWord (w : Nat) : Option Form.McY :=
  if w / 32768 % 32 < 8 then
    some { d := ⟨w / 32768 % 8, by omega⟩, a := ⟨w / 1024 % 32, by omega⟩, ta := decide (w / 512 % 2 = 1), b := ⟨w / 16 % 32, by omega⟩, tb := decide (w / 8 % 2 = 1), ty := Ty.ofCode (w % 8) }
  else none
def Form.McY.word (f : Form.McY) : Nat := f.d.val * 32768 + f.a.val * 1024 + boolBit f.ta * 512 + f.b.val * 16 + boolBit f.tb * 8 + f.ty.code

/-- The operand word of a `Form.M3`. -/
def Form.M3.ofWord (w : Nat) : Option Form.M3 :=
  if w / 32768 % 32 < 8 ∧ w / 1024 % 32 < 8 ∧ w / 16 % 32 < 8 ∧ w % 16 = 0 ∧ w / 512 % 2 = 0 then
    some { d := ⟨w / 32768 % 8, by omega⟩, a := ⟨w / 1024 % 8, by omega⟩, b := ⟨w / 16 % 8, by omega⟩ }
  else none
def Form.M3.word (f : Form.M3) : Nat := f.d.val * 32768 + f.a.val * 1024 + f.b.val * 16

/-- The operand word of a `Form.M2`. -/
def Form.M2.ofWord (w : Nat) : Option Form.M2 :=
  if w / 32768 % 32 < 8 ∧ w / 1024 % 32 < 8 ∧ w % 1024 = 0 then
    some { d := ⟨w / 32768 % 8, by omega⟩, a := ⟨w / 1024 % 8, by omega⟩ }
  else none
def Form.M2.word (f : Form.M2) : Nat := f.d.val * 32768 + f.a.val * 1024

/-- The operand word of a `Form.Sm`. -/
def Form.Sm.ofWord (w : Nat) : Option Form.Sm :=
  if w / 1024 % 32 < 8 ∧ w % 1024 = 0 then
    some { d := ⟨w / 32768 % 32, by omega⟩, a := ⟨w / 1024 % 8, by omega⟩ }
  else none
def Form.Sm.word (f : Form.Sm) : Nat := f.d.val * 32768 + f.a.val * 1024

/-- The operand word of a `Form.Mv`. -/
def Form.Mv.ofWord (w : Nat) : Option Form.Mv :=
  if w / 32768 % 32 < 8 ∧ w % 512 = 0 then
    some { d := ⟨w / 32768 % 8, by omega⟩, a := ⟨w / 1024 % 32, by omega⟩, ta := decide (w / 512 % 2 = 1) }
  else none
def Form.Mv.word (f : Form.Mv) : Nat := f.d.val * 32768 + f.a.val * 1024 + boolBit f.ta * 512

/-- The operand word and extension of a `Form.Vcv`. -/
def Form.Vcv.ofWord (w x : Nat) : Option Form.Vcv :=
  if w % 8 < 6 ∧ x / 16 % 16 < 11 ∧ x % 16 < 11 ∧ x / 2048 % 2097152 = 0 then
    some { d := ⟨w / 32768 % 32, by omega⟩, a := ⟨w / 1024 % 32, by omega⟩, ta := decide (w / 512 % 2 = 1), v := ⟨w / 16 % 32, by omega⟩, tv := decide (w / 8 % 2 = 1), rms := Rms.ofCode (w % 8), msk := ⟨x / 256 % 8, by omega⟩, sfmt := Fmt.ofCode (x / 16 % 16), dfmt := Fmt.ofCode (x % 16) }
  else none
def Form.Vcv.word (f : Form.Vcv) : Nat := f.d.val * 32768 + f.a.val * 1024 + boolBit f.ta * 512 + f.v.val * 16 + boolBit f.tv * 8 + f.rms.code
def Form.Vcv.ext (f : Form.Vcv) : Nat := f.msk.val * 256 + f.sfmt.code * 16 + f.dfmt.code

/-- The operand word and extension of a `Form.Vpk`. -/
def Form.Vpk.ofWord (w x : Nat) : Option Form.Vpk :=
  if w % 8 < 6 ∧ x / 16 % 16 < 11 ∧ x % 16 < 11 ∧ x / 256 % 16777216 = 0 then
    some { d := ⟨w / 32768 % 32, by omega⟩, a := ⟨w / 1024 % 32, by omega⟩, ta := decide (w / 512 % 2 = 1), v := ⟨w / 16 % 32, by omega⟩, tv := decide (w / 8 % 2 = 1), rms := Rms.ofCode (w % 8), sfmt := Fmt.ofCode (x / 16 % 16), dfmt := Fmt.ofCode (x % 16) }
  else none
def Form.Vpk.word (f : Form.Vpk) : Nat := f.d.val * 32768 + f.a.val * 1024 + boolBit f.ta * 512 + f.v.val * 16 + boolBit f.tv * 8 + f.rms.code
def Form.Vpk.ext (f : Form.Vpk) : Nat := f.sfmt.code * 16 + f.dfmt.code

/-- The operand word of a `Form.Ld`. -/
def Form.Ld.ofWord (w : Nat) : Option Form.Ld :=
  if w / 256 % 2 = 0 then
    some { d := ⟨w / 32768 % 32, by omega⟩, a := ⟨w / 1024 % 32, by omega⟩, ta := decide (w / 512 % 2 = 1), ty := Ty.ofCode (w / 32 % 8), off := BitVec.ofNat 5 (w) }
  else none
def Form.Ld.word (f : Form.Ld) : Nat := f.d.val * 32768 + f.a.val * 1024 + boolBit f.ta * 512 + f.ty.code * 32 + f.off.toNat

/-- The operand word and extension of a `Form.LdX`. -/
def Form.LdX.ofWord (w x : Nat) : Option Form.LdX :=
  if w % 32 = 0 ∧ w / 256 % 2 = 0 then
    some { d := ⟨w / 32768 % 32, by omega⟩, a := ⟨w / 1024 % 32, by omega⟩, ta := decide (w / 512 % 2 = 1), ty := Ty.ofCode (w / 32 % 8), off := BitVec.ofNat 32 (x) }
  else none
def Form.LdX.word (f : Form.LdX) : Nat := f.d.val * 32768 + f.a.val * 1024 + boolBit f.ta * 512 + f.ty.code * 32
def Form.LdX.ext (f : Form.LdX) : Nat := f.off.toNat

/-- The operand word of a `Form.St`. -/
def Form.St.ofWord (w : Nat) : Option Form.St :=
  some { d := ⟨w / 32768 % 32, by omega⟩, a := ⟨w / 1024 % 32, by omega⟩, ta := decide (w / 512 % 2 = 1), td := decide (w / 256 % 2 = 1), ty := Ty.ofCode (w / 32 % 8), off := BitVec.ofNat 5 (w) }
def Form.St.word (f : Form.St) : Nat := f.d.val * 32768 + f.a.val * 1024 + boolBit f.ta * 512 + boolBit f.td * 256 + f.ty.code * 32 + f.off.toNat

/-- The operand word and extension of a `Form.StX`. -/
def Form.StX.ofWord (w x : Nat) : Option Form.StX :=
  if w % 32 = 0 then
    some { d := ⟨w / 32768 % 32, by omega⟩, a := ⟨w / 1024 % 32, by omega⟩, ta := decide (w / 512 % 2 = 1), td := decide (w / 256 % 2 = 1), ty := Ty.ofCode (w / 32 % 8), off := BitVec.ofNat 32 (x) }
  else none
def Form.StX.word (f : Form.StX) : Nat := f.d.val * 32768 + f.a.val * 1024 + boolBit f.ta * 512 + boolBit f.td * 256 + f.ty.code * 32
def Form.StX.ext (f : Form.StX) : Nat := f.off.toNat

/-- The operand word of a `Form.Vld`. -/
def Form.Vld.ofWord (w : Nat) : Option Form.Vld :=
  if w / 32 % 16 = 0 then
    some { d := ⟨w / 32768 % 32, by omega⟩, a := ⟨w / 1024 % 32, by omega⟩, ta := decide (w / 512 % 2 = 1), off := BitVec.ofNat 5 (w) }
  else none
def Form.Vld.word (f : Form.Vld) : Nat := f.d.val * 32768 + f.a.val * 1024 + boolBit f.ta * 512 + f.off.toNat

/-- The operand word and extension of a `Form.VldX`. -/
def Form.VldX.ofWord (w x : Nat) : Option Form.VldX :=
  if w % 512 = 0 then
    some { d := ⟨w / 32768 % 32, by omega⟩, a := ⟨w / 1024 % 32, by omega⟩, ta := decide (w / 512 % 2 = 1), off := BitVec.ofNat 32 (x) }
  else none
def Form.VldX.word (f : Form.VldX) : Nat := f.d.val * 32768 + f.a.val * 1024 + boolBit f.ta * 512
def Form.VldX.ext (f : Form.VldX) : Nat := f.off.toNat

/-- The operand word of a `Form.Vst`. -/
def Form.Vst.ofWord (w : Nat) : Option Form.Vst :=
  if w / 32 % 8 = 0 then
    some { d := ⟨w / 32768 % 32, by omega⟩, a := ⟨w / 1024 % 32, by omega⟩, ta := decide (w / 512 % 2 = 1), td := decide (w / 256 % 2 = 1), off := BitVec.ofNat 5 (w) }
  else none
def Form.Vst.word (f : Form.Vst) : Nat := f.d.val * 32768 + f.a.val * 1024 + boolBit f.ta * 512 + boolBit f.td * 256 + f.off.toNat

/-- The operand word and extension of a `Form.VstX`. -/
def Form.VstX.ofWord (w x : Nat) : Option Form.VstX :=
  if w % 256 = 0 then
    some { d := ⟨w / 32768 % 32, by omega⟩, a := ⟨w / 1024 % 32, by omega⟩, ta := decide (w / 512 % 2 = 1), td := decide (w / 256 % 2 = 1), off := BitVec.ofNat 32 (x) }
  else none
def Form.VstX.word (f : Form.VstX) : Nat := f.d.val * 32768 + f.a.val * 1024 + boolBit f.ta * 512 + boolBit f.td * 256
def Form.VstX.ext (f : Form.VstX) : Nat := f.off.toNat

/-- The operand word of a `Form.Vldm`. -/
def Form.Vldm.ofWord (w : Nat) : Option Form.Vldm :=
  if w / 256 % 2 = 0 then
    some { d := ⟨w / 32768 % 32, by omega⟩, a := ⟨w / 1024 % 32, by omega⟩, ta := decide (w / 512 % 2 = 1), msk := ⟨w / 32 % 8, by omega⟩, off := BitVec.ofNat 5 (w) }
  else none
def Form.Vldm.word (f : Form.Vldm) : Nat := f.d.val * 32768 + f.a.val * 1024 + boolBit f.ta * 512 + f.msk.val * 32 + f.off.toNat

/-- The operand word and extension of a `Form.VldmX`. -/
def Form.VldmX.ofWord (w x : Nat) : Option Form.VldmX :=
  if w % 32 = 0 ∧ w / 256 % 2 = 0 then
    some { d := ⟨w / 32768 % 32, by omega⟩, a := ⟨w / 1024 % 32, by omega⟩, ta := decide (w / 512 % 2 = 1), msk := ⟨w / 32 % 8, by omega⟩, off := BitVec.ofNat 32 (x) }
  else none
def Form.VldmX.word (f : Form.VldmX) : Nat := f.d.val * 32768 + f.a.val * 1024 + boolBit f.ta * 512 + f.msk.val * 32
def Form.VldmX.ext (f : Form.VldmX) : Nat := f.off.toNat

/-- The operand word of a `Form.Vstm`. -/
def Form.Vstm.ofWord (w : Nat) : Option Form.Vstm :=
  some { d := ⟨w / 32768 % 32, by omega⟩, a := ⟨w / 1024 % 32, by omega⟩, ta := decide (w / 512 % 2 = 1), td := decide (w / 256 % 2 = 1), msk := ⟨w / 32 % 8, by omega⟩, off := BitVec.ofNat 5 (w) }
def Form.Vstm.word (f : Form.Vstm) : Nat := f.d.val * 32768 + f.a.val * 1024 + boolBit f.ta * 512 + boolBit f.td * 256 + f.msk.val * 32 + f.off.toNat

/-- The operand word and extension of a `Form.VstmX`. -/
def Form.VstmX.ofWord (w x : Nat) : Option Form.VstmX :=
  if w % 32 = 0 then
    some { d := ⟨w / 32768 % 32, by omega⟩, a := ⟨w / 1024 % 32, by omega⟩, ta := decide (w / 512 % 2 = 1), td := decide (w / 256 % 2 = 1), msk := ⟨w / 32 % 8, by omega⟩, off := BitVec.ofNat 32 (x) }
  else none
def Form.VstmX.word (f : Form.VstmX) : Nat := f.d.val * 32768 + f.a.val * 1024 + boolBit f.ta * 512 + boolBit f.td * 256 + f.msk.val * 32
def Form.VstmX.ext (f : Form.VstmX) : Nat := f.off.toNat

/-- The operand word of a `Form.Gld`. -/
def Form.Gld.ofWord (w : Nat) : Option Form.Gld :=
  if w % 2 = 0 then
    some { d := ⟨w / 32768 % 32, by omega⟩, h := ⟨w / 2048 % 16, by omega⟩, th := decide (w / 1024 % 2 = 1), a := ⟨w / 32 % 32, by omega⟩, ta := decide (w / 16 % 2 = 1), ty := Ty.ofCode (w / 2 % 8) }
  else none
def Form.Gld.word (f : Form.Gld) : Nat := f.d.val * 32768 + f.h.val * 2048 + boolBit f.th * 1024 + f.a.val * 32 + boolBit f.ta * 16 + f.ty.code * 2

/-- The operand word of a `Form.Gst`. -/
def Form.Gst.ofWord (w : Nat) : Option Form.Gst :=
  some { d := ⟨w / 32768 % 32, by omega⟩, h := ⟨w / 2048 % 16, by omega⟩, th := decide (w / 1024 % 2 = 1), a := ⟨w / 32 % 32, by omega⟩, ta := decide (w / 16 % 2 = 1), ty := Ty.ofCode (w / 2 % 8), td := decide (w % 2 = 1) }
def Form.Gst.word (f : Form.Gst) : Nat := f.d.val * 32768 + f.h.val * 2048 + boolBit f.th * 1024 + f.a.val * 32 + boolBit f.ta * 16 + f.ty.code * 2 + boolBit f.td

/-- The operand word and extension of a `Form.Amo`. -/
def Form.Amo.ofWord (w x : Nat) : Option Form.Amo :=
  if w % 2 = 0 ∧ x % 67108864 = 0 then
    some { d := ⟨w / 32768 % 32, by omega⟩, h := ⟨w / 2048 % 16, by omega⟩, th := decide (w / 1024 % 2 = 1), a := ⟨w / 32 % 32, by omega⟩, ta := decide (w / 16 % 2 = 1), ty := Ty.ofCode (w / 2 % 8), b := ⟨x / 134217728 % 32, by omega⟩, tb := decide (x / 67108864 % 2 = 1) }
  else none
def Form.Amo.word (f : Form.Amo) : Nat := f.d.val * 32768 + f.h.val * 2048 + boolBit f.th * 1024 + f.a.val * 32 + boolBit f.ta * 16 + f.ty.code * 2
def Form.Amo.ext (f : Form.Amo) : Nat := f.b.val * 134217728 + boolBit f.tb * 67108864

/-- The operand word and extension of a `Form.AmoF`. -/
def Form.AmoF.ofWord (w x : Nat) : Option Form.AmoF :=
  if w / 2 % 8 = 2 ∧ w % 2 = 0 ∧ x % 67108864 = 0 then
    some { d := ⟨w / 32768 % 32, by omega⟩, h := ⟨w / 2048 % 16, by omega⟩, th := decide (w / 1024 % 2 = 1), a := ⟨w / 32 % 32, by omega⟩, ta := decide (w / 16 % 2 = 1), b := ⟨x / 134217728 % 32, by omega⟩, tb := decide (x / 67108864 % 2 = 1) }
  else none
def Form.AmoF.word (f : Form.AmoF) : Nat := f.d.val * 32768 + f.h.val * 2048 + boolBit f.th * 1024 + f.a.val * 32 + boolBit f.ta * 16 + 4
def Form.AmoF.ext (f : Form.AmoF) : Nat := f.b.val * 134217728 + boolBit f.tb * 67108864

/-- The operand word and extension of a `Form.AmoC`. -/
def Form.AmoC.ofWord (w x : Nat) : Option Form.AmoC :=
  if w % 2 = 0 ∧ x % 1048576 = 0 then
    some { d := ⟨w / 32768 % 32, by omega⟩, h := ⟨w / 2048 % 16, by omega⟩, th := decide (w / 1024 % 2 = 1), a := ⟨w / 32 % 32, by omega⟩, ta := decide (w / 16 % 2 = 1), ty := Ty.ofCode (w / 2 % 8), b := ⟨x / 134217728 % 32, by omega⟩, tb := decide (x / 67108864 % 2 = 1), c := ⟨x / 2097152 % 32, by omega⟩, tc := decide (x / 1048576 % 2 = 1) }
  else none
def Form.AmoC.word (f : Form.AmoC) : Nat := f.d.val * 32768 + f.h.val * 2048 + boolBit f.th * 1024 + f.a.val * 32 + boolBit f.ta * 16 + f.ty.code * 2
def Form.AmoC.ext (f : Form.AmoC) : Nat := f.b.val * 134217728 + boolBit f.tb * 67108864 + f.c.val * 2097152 + boolBit f.tc * 1048576

/-- The operand word of a `Form.Hx`. -/
def Form.Hx.ofWord (w : Nat) : Option Form.Hx :=
  if w % 1024 = 0 then
    some { h := ⟨w / 65536 % 16, by omega⟩, a := ⟨w / 2048 % 32, by omega⟩, ta := decide (w / 1024 % 2 = 1) }
  else none
def Form.Hx.word (f : Form.Hx) : Nat := f.h.val * 65536 + f.a.val * 2048 + boolBit f.ta * 1024

/-- The operand word of a `Form.H1`. -/
def Form.H1.ofWord (w : Nat) : Option Form.H1 :=
  if w % 65536 = 0 then
    some { h := ⟨w / 65536 % 16, by omega⟩ }
  else none
def Form.H1.word (f : Form.H1) : Nat := f.h.val * 65536

/-- The operand word of a `Form.Tl`. -/
def Form.Tl.ofWord (w : Nat) : Option Form.Tl :=
  if w % 32 = 0 then
    some { q := ⟨w / 65536 % 16, by omega⟩, h := ⟨w / 4096 % 16, by omega⟩, th := decide (w / 2048 % 2 = 1), a := ⟨w / 64 % 32, by omega⟩, ta := decide (w / 32 % 2 = 1) }
  else none
def Form.Tl.word (f : Form.Tl) : Nat := f.q.val * 65536 + f.h.val * 4096 + boolBit f.th * 2048 + f.a.val * 64 + boolBit f.ta * 32

/-- The operand word and extension of a `Form.TlT`. -/
def Form.TlT.ofWord (w x : Nat) : Option Form.TlT :=
  if w / 16 % 2 = 1 ∧ w % 16 = 0 ∧ x % 67108864 = 0 then
    some { q := ⟨w / 65536 % 16, by omega⟩, h := ⟨w / 4096 % 16, by omega⟩, th := decide (w / 2048 % 2 = 1), a := ⟨w / 64 % 32, by omega⟩, ta := decide (w / 32 % 2 = 1), e := ⟨x / 134217728 % 32, by omega⟩, te := decide (x / 67108864 % 2 = 1) }
  else none
def Form.TlT.word (f : Form.TlT) : Nat := f.q.val * 65536 + f.h.val * 4096 + boolBit f.th * 2048 + f.a.val * 64 + boolBit f.ta * 32 + 16
def Form.TlT.ext (f : Form.TlT) : Nat := f.e.val * 134217728 + boolBit f.te * 67108864

/-- The operand word of a `Form.Bm`. -/
def Form.Bm.ofWord (w : Nat) : Option Form.Bm :=
  if w % 16384 = 0 then
    some { bank := ⟨w / 65536 % 16, by omega⟩, mode := ⟨w / 16384 % 4, by omega⟩ }
  else none
def Form.Bm.word (f : Form.Bm) : Nat := f.bank.val * 65536 + f.mode.val * 16384

/-- The operand word and extension of a `Form.Qset`. -/
def Form.Qset.ofWord (w x : Nat) : Option Form.Qset :=
  if w % 65536 = 0 ∧ x % 1048576 = 0 then
    some { q := ⟨w / 65536 % 16, by omega⟩, a := ⟨x / 134217728 % 32, by omega⟩, ta := decide (x / 67108864 % 2 = 1), b := ⟨x / 2097152 % 32, by omega⟩, tb := decide (x / 1048576 % 2 = 1) }
  else none
def Form.Qset.word (f : Form.Qset) : Nat := f.q.val * 65536
def Form.Qset.ext (f : Form.Qset) : Nat := f.a.val * 134217728 + boolBit f.ta * 67108864 + f.b.val * 2097152 + boolBit f.tb * 1048576

/-- The operand word and extension of a `Form.Qget`. -/
def Form.Qget.ofWord (w x : Nat) : Option Form.Qget :=
  if w / 2 % 32768 = 0 ∧ x % 134217728 = 0 then
    some { q := ⟨w / 65536 % 16, by omega⟩, hi := decide (w % 2 = 1), d := ⟨x / 134217728 % 32, by omega⟩ }
  else none
def Form.Qget.word (f : Form.Qget) : Nat := f.q.val * 65536 + boolBit f.hi
def Form.Qget.ext (f : Form.Qget) : Nat := f.d.val * 134217728

/-- The operand word and extension of a `Form.Mma`. -/
def Form.Mma.ofWord (w x : Nat) : Option Form.Mma :=
  if w / 2 % 8 = 0 ∧ x % 268435456 = 0 then
    some { f := ⟨w / 16384 % 64, by omega⟩, l := ⟨w / 256 % 64, by omega⟩, qa := ⟨w / 16 % 16, by omega⟩, ovw := decide (w % 2 = 1), qb := ⟨x / 268435456 % 16, by omega⟩ }
  else none
def Form.Mma.word (f : Form.Mma) : Nat := f.f.val * 16384 + f.l.val * 256 + f.qa.val * 16 + boolBit f.ovw
def Form.Mma.ext (f : Form.Mma) : Nat := f.qb.val * 268435456

/-- The operand word and extension of a `Form.Mmag`. -/
def Form.Mmag.ofWord (w x : Nat) : Option Form.Mmag :=
  if w / 2 % 8 = 0 ∧ x % 4194304 = 0 then
    some { f := ⟨w / 16384 % 64, by omega⟩, l := ⟨w / 256 % 64, by omega⟩, qa := ⟨w / 16 % 16, by omega⟩, ovw := decide (w % 2 = 1), qb := ⟨x / 268435456 % 16, by omega⟩, i := ⟨x / 8388608 % 32, by omega⟩, ti := decide (x / 4194304 % 2 = 1) }
  else none
def Form.Mmag.word (f : Form.Mmag) : Nat := f.f.val * 16384 + f.l.val * 256 + f.qa.val * 16 + boolBit f.ovw
def Form.Mmag.ext (f : Form.Mmag) : Nat := f.qb.val * 268435456 + f.i.val * 8388608 + boolBit f.ti * 4194304

/-- The operand word of a `Form.Fl`. -/
def Form.Fl.ofWord (w : Nat) : Option Form.Fl :=
  if w % 256 = 0 then
    some { f := ⟨w / 16384 % 64, by omega⟩, l := ⟨w / 256 % 64, by omega⟩ }
  else none
def Form.Fl.word (f : Form.Fl) : Nat := f.f.val * 16384 + f.l.val * 256

/-- The operand word of a `Form.Aown`. -/
def Form.Aown.ofWord (w : Nat) : Option Form.Aown :=
  if w / 4 % 64 = 0 then
    some { f := ⟨w / 16384 % 64, by omega⟩, l := ⟨w / 256 % 64, by omega⟩, g := ⟨w % 4, by omega⟩ }
  else none
def Form.Aown.word (f : Form.Aown) : Nat := f.f.val * 16384 + f.l.val * 256 + f.g.val

/-- The operand word of a `Form.AownRel`. -/
def Form.AownRel.ofWord (w : Nat) : Option Form.AownRel :=
  if w / 4 % 2 = 1 ∧ w / 8 % 131072 = 0 then
    some { g := ⟨w % 4, by omega⟩ }
  else none
def Form.AownRel.word (f : Form.AownRel) : Nat := f.g.val + 4

/-- The operand word of a `Form.Adrain`. -/
def Form.Adrain.ofWord (w : Nat) : Option Form.Adrain :=
  if w / 8 % 2 = 0 then
    some { f := ⟨w / 16384 % 64, by omega⟩, l := ⟨w / 256 % 64, by omega⟩, q := ⟨w / 16 % 16, by omega⟩, clr := decide (w / 4 % 2 = 1), g := ⟨w % 4, by omega⟩ }
  else none
def Form.Adrain.word (f : Form.Adrain) : Nat := f.f.val * 16384 + f.l.val * 256 + f.q.val * 16 + boolBit f.clr * 4 + f.g.val

/-- The operand word and extension of a `Form.Aread`. -/
def Form.Aread.ofWord (w x : Nat) : Option Form.Aread :=
  if w / 256 % 64 < 16 ∧ w % 256 = 0 ∧ x % 134217728 = 0 then
    some { k := ⟨w / 16384 % 64, by omega⟩, row := ⟨w / 256 % 16, by omega⟩, d := ⟨x / 134217728 % 32, by omega⟩ }
  else none
def Form.Aread.word (f : Form.Aread) : Nat := f.k.val * 16384 + f.row.val * 256
def Form.Aread.ext (f : Form.Aread) : Nat := f.d.val * 134217728

/-- The operand word of a `Form.Scan`. -/
def Form.Scan.ofWord (w : Nat) : Option Form.Scan :=
  if w / 2 % 2048 = 0 then
    some { y := ⟨w / 65536 % 16, by omega⟩, x := ⟨w / 4096 % 16, by omega⟩, herd := decide (w % 2 = 1) }
  else none
def Form.Scan.word (f : Form.Scan) : Nat := f.y.val * 65536 + f.x.val * 4096 + boolBit f.herd

/-- The operand word and extension of a `Form.ScanI`. -/
def Form.ScanI.ofWord (w x : Nat) : Option Form.ScanI :=
  if w / 2 % 2 = 1 ∧ w / 4 % 1024 = 0 ∧ x % 4194304 = 0 ∧ x / 268435456 % 16 = 0 then
    some { y := ⟨w / 65536 % 16, by omega⟩, x := ⟨w / 4096 % 16, by omega⟩, herd := decide (w % 2 = 1), vi := ⟨x / 8388608 % 32, by omega⟩, tvi := decide (x / 4194304 % 2 = 1) }
  else none
def Form.ScanI.word (f : Form.ScanI) : Nat := f.y.val * 65536 + f.x.val * 4096 + boolBit f.herd + 2
def Form.ScanI.ext (f : Form.ScanI) : Nat := f.vi.val * 8388608 + boolBit f.tvi * 4194304

/-- The operand word and extension of a `Form.ScanM`. -/
def Form.ScanM.ofWord (w x : Nat) : Option Form.ScanM :=
  if w / 2 % 2 = 1 ∧ w / 4 % 1024 = 0 ∧ x / 8388608 % 32 < 8 ∧ x % 4194304 = 0 ∧ x / 268435456 % 16 = 0 then
    some { y := ⟨w / 65536 % 16, by omega⟩, x := ⟨w / 4096 % 16, by omega⟩, herd := decide (w % 2 = 1), vi := ⟨x / 8388608 % 8, by omega⟩, tvi := decide (x / 4194304 % 2 = 1) }
  else none
def Form.ScanM.word (f : Form.ScanM) : Nat := f.y.val * 65536 + f.x.val * 4096 + boolBit f.herd + 2
def Form.ScanM.ext (f : Form.ScanM) : Nat := f.vi.val * 8388608 + boolBit f.tvi * 4194304

/-- The operand word and extension of a `Form.Scan2`. -/
def Form.Scan2.ofWord (w x : Nat) : Option Form.Scan2 :=
  if w / 4 % 64 = 0 ∧ x % 65536 = 0 then
    some { y := ⟨w / 65536 % 16, by omega⟩, x := ⟨w / 4096 % 16, by omega⟩, x2 := ⟨w / 256 % 16, by omega⟩, herd := decide (w % 2 = 1), init := decide (w / 2 % 2 = 1), y2 := ⟨x / 268435456 % 16, by omega⟩, vi := ⟨x / 8388608 % 32, by omega⟩, tvi := decide (x / 4194304 % 2 = 1), vj := ⟨x / 131072 % 32, by omega⟩, tvj := decide (x / 65536 % 2 = 1) }
  else none
def Form.Scan2.word (f : Form.Scan2) : Nat := f.y.val * 65536 + f.x.val * 4096 + f.x2.val * 256 + boolBit f.herd + boolBit f.init * 2
def Form.Scan2.ext (f : Form.Scan2) : Nat := f.y2.val * 268435456 + f.vi.val * 8388608 + boolBit f.tvi * 4194304 + f.vj.val * 131072 + boolBit f.tvj * 65536

/-- The operand word and extension of a `Form.ScanU`. -/
def Form.ScanU.ofWord (w x : Nat) : Option Form.ScanU :=
  if w / 8 % 32 = 0 ∧ x % 65536 = 0 then
    some { y := ⟨w / 65536 % 16, by omega⟩, x := ⟨w / 4096 % 16, by omega⟩, x2 := ⟨w / 256 % 16, by omega⟩, herd := decide (w % 2 = 1), init := decide (w / 2 % 2 = 1), pair := decide (w / 4 % 2 = 1), y2 := ⟨x / 268435456 % 16, by omega⟩, vi := ⟨x / 8388608 % 32, by omega⟩, tvi := decide (x / 4194304 % 2 = 1), vj := ⟨x / 131072 % 32, by omega⟩, tvj := decide (x / 65536 % 2 = 1) }
  else none
def Form.ScanU.word (f : Form.ScanU) : Nat := f.y.val * 65536 + f.x.val * 4096 + f.x2.val * 256 + boolBit f.herd + boolBit f.init * 2 + boolBit f.pair * 4
def Form.ScanU.ext (f : Form.ScanU) : Nat := f.y2.val * 268435456 + f.vi.val * 8388608 + boolBit f.tvi * 4194304 + f.vj.val * 131072 + boolBit f.tvj * 65536

/-- The operand word and extension of a `Form.Scdef`. -/
def Form.Scdef.ofWord (w x : Nat) : Option Form.Scdef :=
  if w / 8 % 131072 = 0 ∧ x % 67108864 = 0 then
    some { n := ⟨w % 8, by omega⟩, a := ⟨x / 134217728 % 32, by omega⟩, ta := decide (x / 67108864 % 2 = 1) }
  else none
def Form.Scdef.word (f : Form.Scdef) : Nat := f.n.val
def Form.Scdef.ext (f : Form.Scdef) : Nat := f.a.val * 134217728 + boolBit f.ta * 67108864

/-- The operand word of a `Form.Mupd`. -/
def Form.Mupd.ofWord (w : Nat) : Option Form.Mupd :=
  if w % 1024 = 0 ∧ w / 16384 % 8 = 0 then
    some { w := ⟨w / 131072 % 8, by omega⟩, q := ⟨w / 1024 % 16, by omega⟩ }
  else none
def Form.Mupd.word (f : Form.Mupd) : Nat := f.w.val * 131072 + f.q.val * 1024

/-- The operand word of a `Form.Mupdw`. -/
def Form.Mupdw.ofWord (w : Nat) : Option Form.Mupdw :=
  if w % 16 = 1 ∧ w / 16384 % 8 = 0 then
    some { w := ⟨w / 131072 % 8, by omega⟩, q := ⟨w / 1024 % 16, by omega⟩, s := ⟨w / 32 % 32, by omega⟩, ts := decide (w / 16 % 2 = 1) }
  else none
def Form.Mupdw.word (f : Form.Mupdw) : Nat := f.w.val * 131072 + f.q.val * 1024 + f.s.val * 32 + boolBit f.ts * 16 + 1

/-- The operand word and extension of a `Form.MupdwQ`. -/
def Form.MupdwQ.ofWord (w x : Nat) : Option Form.MupdwQ :=
  if w % 1024 = 0 ∧ w / 16384 % 8 = 0 ∧ x % 268435456 = 0 then
    some { w := ⟨w / 131072 % 8, by omega⟩, q := ⟨w / 1024 % 16, by omega⟩, qv := ⟨x / 268435456 % 16, by omega⟩ }
  else none
def Form.MupdwQ.word (f : Form.MupdwQ) : Nat := f.w.val * 131072 + f.q.val * 1024
def Form.MupdwQ.ext (f : Form.MupdwQ) : Nat := f.qv.val * 268435456

/-- The operand word of a `Form.Mw2`. -/
def Form.Mw2.ofWord (w : Nat) : Option Form.Mw2 :=
  if w % 16384 = 0 then
    some { w := ⟨w / 131072 % 8, by omega⟩, v := ⟨w / 16384 % 8, by omega⟩ }
  else none
def Form.Mw2.word (f : Form.Mw2) : Nat := f.w.val * 131072 + f.v.val * 16384

/-- The operand word of a `Form.Mw2L`. -/
def Form.Mw2L.ofWord (w : Nat) : Option Form.Mw2L :=
  if w % 16 = 1 ∧ w / 16 % 1024 = 0 then
    some { w := ⟨w / 131072 % 8, by omega⟩, v := ⟨w / 16384 % 8, by omega⟩ }
  else none
def Form.Mw2L.word (f : Form.Mw2L) : Nat := f.w.val * 131072 + f.v.val * 16384 + 1

/-- The operand word of a `Form.W1`. -/
def Form.W1.ofWord (w : Nat) : Option Form.W1 :=
  if w % 131072 = 0 then
    some { w := ⟨w / 131072 % 8, by omega⟩ }
  else none
def Form.W1.word (f : Form.W1) : Nat := f.w.val * 131072

/-- The operand word and extension of a `Form.Mdrain`. -/
def Form.Mdrain.ofWord (w x : Nat) : Option Form.Mdrain :=
  if w % 16 < 4 ∧ w / 1024 % 128 = 0 ∧ x % 134217728 = 0 then
    some { w := ⟨w / 131072 % 8, by omega⟩, s := ⟨w / 32 % 32, by omega⟩, ts := decide (w / 16 % 2 = 1), kind := ⟨w % 4, by omega⟩, d := ⟨x / 134217728 % 32, by omega⟩ }
  else none
def Form.Mdrain.word (f : Form.Mdrain) : Nat := f.w.val * 131072 + f.s.val * 32 + boolBit f.ts * 16 + f.kind.val
def Form.Mdrain.ext (f : Form.Mdrain) : Nat := f.d.val * 134217728

/-- The operand word and extension of a `Form.MdrainN`. -/
def Form.MdrainN.ofWord (w x : Nat) : Option Form.MdrainN :=
  if w % 16 = 4 ∧ w / 16384 % 8 = 0 ∧ x % 65536 = 0 then
    some { w := ⟨w / 131072 % 8, by omega⟩, q := ⟨w / 1024 % 16, by omega⟩, s := ⟨w / 32 % 32, by omega⟩, ts := decide (w / 16 % 2 = 1), qy := ⟨x / 268435456 % 16, by omega⟩, g := ⟨x / 8388608 % 32, by omega⟩, tg := decide (x / 4194304 % 2 = 1), b := ⟨x / 131072 % 32, by omega⟩, tb := decide (x / 65536 % 2 = 1) }
  else none
def Form.MdrainN.word (f : Form.MdrainN) : Nat := f.w.val * 131072 + f.q.val * 1024 + f.s.val * 32 + boolBit f.ts * 16 + 4
def Form.MdrainN.ext (f : Form.MdrainN) : Nat := f.qy.val * 268435456 + f.g.val * 8388608 + boolBit f.tg * 4194304 + f.b.val * 131072 + boolBit f.tb * 65536

/-- The operand word of a `Form.Mls`. -/
def Form.Mls.ofWord (w : Nat) : Option Form.Mls :=
  if w % 16 = 0 ∧ w / 1024 % 128 = 0 then
    some { w := ⟨w / 131072 % 8, by omega⟩, s := ⟨w / 32 % 32, by omega⟩, ts := decide (w / 16 % 2 = 1) }
  else none
def Form.Mls.word (f : Form.Mls) : Nat := f.w.val * 131072 + f.s.val * 32 + boolBit f.ts * 16

/-- The operand word and extension of a `Form.Cpy`. -/
def Form.Cpy.ofWord (w x : Nat) : Option Form.Cpy :=
  if w % 1048576 = 0 ∧ x % 16384 = 0 then
    some { d := ⟨x / 134217728 % 32, by omega⟩, td := decide (x / 67108864 % 2 = 1), a := ⟨x / 2097152 % 32, by omega⟩, ta := decide (x / 1048576 % 2 = 1), n := ⟨x / 32768 % 32, by omega⟩, tn := decide (x / 16384 % 2 = 1) }
  else none
def Form.Cpy.word (_ : Form.Cpy) : Nat := 0
def Form.Cpy.ext (f : Form.Cpy) : Nat := f.d.val * 134217728 + boolBit f.td * 67108864 + f.a.val * 2097152 + boolBit f.ta * 1048576 + f.n.val * 32768 + boolBit f.tn * 16384

/-- The operand word of a `Form.Cpy2d`. -/
def Form.Cpy2d.ofWord (w : Nat) : Option Form.Cpy2d :=
  if w % 4096 = 0 then
    some { q := ⟨w / 65536 % 16, by omega⟩, s := ⟨w / 4096 % 16, by omega⟩ }
  else none
def Form.Cpy2d.word (f : Form.Cpy2d) : Nat := f.q.val * 65536 + f.s.val * 4096

/-- The operand word and extension of a `Form.Fill`. -/
def Form.Fill.ofWord (w x : Nat) : Option Form.Fill :=
  if w % 65536 = 0 ∧ x % 67108864 = 0 then
    some { q := ⟨w / 65536 % 16, by omega⟩, a := ⟨x / 134217728 % 32, by omega⟩, ta := decide (x / 67108864 % 2 = 1) }
  else none
def Form.Fill.word (f : Form.Fill) : Nat := f.q.val * 65536
def Form.Fill.ext (f : Form.Fill) : Nat := f.a.val * 134217728 + boolBit f.ta * 67108864

/-- The operand word of a `Form.Pub`. -/
def Form.Pub.ofWord (w : Nat) : Option Form.Pub :=
  if w / 4096 % 16 < 8 ∧ w / 16 % 4 = 0 then
    some { q := ⟨w / 65536 % 16, by omega⟩, k := ⟨w / 4096 % 8, by omega⟩, a := ⟨w / 128 % 32, by omega⟩, ta := decide (w / 64 % 2 = 1), tagx := decide (w / 8 % 2 = 1), nolive := decide (w / 4 % 2 = 1), live := decide (w / 2 % 2 = 1), noback := decide (w % 2 = 1) }
  else none
def Form.Pub.word (f : Form.Pub) : Nat := f.q.val * 65536 + f.k.val * 4096 + f.a.val * 128 + boolBit f.ta * 64 + boolBit f.tagx * 8 + boolBit f.nolive * 4 + boolBit f.live * 2 + boolBit f.noback

/-- The operand word and extension of a `Form.PubX`. -/
def Form.PubX.ofWord (w x : Nat) : Option Form.PubX :=
  if w / 4096 % 16 < 8 ∧ w / 16 % 2 = 1 ∧ w / 32 % 2 = 0 ∧ x % 67108864 = 0 then
    some { q := ⟨w / 65536 % 16, by omega⟩, k := ⟨w / 4096 % 8, by omega⟩, a := ⟨w / 128 % 32, by omega⟩, ta := decide (w / 64 % 2 = 1), tagx := decide (w / 8 % 2 = 1), nolive := decide (w / 4 % 2 = 1), live := decide (w / 2 % 2 = 1), noback := decide (w % 2 = 1), b := ⟨x / 134217728 % 32, by omega⟩, tb := decide (x / 67108864 % 2 = 1) }
  else none
def Form.PubX.word (f : Form.PubX) : Nat := f.q.val * 65536 + f.k.val * 4096 + f.a.val * 128 + boolBit f.ta * 64 + boolBit f.tagx * 8 + boolBit f.nolive * 4 + boolBit f.live * 2 + boolBit f.noback + 16
def Form.PubX.ext (f : Form.PubX) : Nat := f.b.val * 134217728 + boolBit f.tb * 67108864

/-- The operand word of a `Form.Pubeos`. -/
def Form.Pubeos.ofWord (w : Nat) : Option Form.Pubeos :=
  if w / 4096 % 16 < 8 ∧ w % 4096 = 0 ∧ w / 65536 % 16 = 0 then
    some { k := ⟨w / 4096 % 8, by omega⟩ }
  else none
def Form.Pubeos.word (f : Form.Pubeos) : Nat := f.k.val * 4096

/-- The operand word of a `Form.Fetch`. -/
def Form.Fetch.ofWord (w : Nat) : Option Form.Fetch :=
  if w / 4096 % 16 < 8 ∧ w % 8 = 0 ∧ w / 16 % 4 = 0 then
    some { q := ⟨w / 65536 % 16, by omega⟩, k := ⟨w / 4096 % 8, by omega⟩, a := ⟨w / 128 % 32, by omega⟩, ta := decide (w / 64 % 2 = 1), tagx := decide (w / 8 % 2 = 1) }
  else none
def Form.Fetch.word (f : Form.Fetch) : Nat := f.q.val * 65536 + f.k.val * 4096 + f.a.val * 128 + boolBit f.ta * 64 + boolBit f.tagx * 8

/-- The operand word and extension of a `Form.FetchX`. -/
def Form.FetchX.ofWord (w x : Nat) : Option Form.FetchX :=
  if w / 4096 % 16 < 8 ∧ w / 16 % 2 = 1 ∧ w % 8 = 0 ∧ w / 32 % 2 = 0 ∧ x % 67108864 = 0 then
    some { q := ⟨w / 65536 % 16, by omega⟩, k := ⟨w / 4096 % 8, by omega⟩, a := ⟨w / 128 % 32, by omega⟩, ta := decide (w / 64 % 2 = 1), tagx := decide (w / 8 % 2 = 1), b := ⟨x / 134217728 % 32, by omega⟩, tb := decide (x / 67108864 % 2 = 1) }
  else none
def Form.FetchX.word (f : Form.FetchX) : Nat := f.q.val * 65536 + f.k.val * 4096 + f.a.val * 128 + boolBit f.ta * 64 + boolBit f.tagx * 8 + 16
def Form.FetchX.ext (f : Form.FetchX) : Nat := f.b.val * 134217728 + boolBit f.tb * 67108864

/-- The operand word and extension of a `Form.Subq`. -/
def Form.Subq.ofWord (w x : Nat) : Option Form.Subq :=
  if w / 4096 % 16 < 8 ∧ w % 8 = 0 ∧ w / 32 % 2 = 0 ∧ w / 65536 % 16 = 0 ∧ x % 2097152 = 0 then
    some { k := ⟨w / 4096 % 8, by omega⟩, a := ⟨w / 128 % 32, by omega⟩, ta := decide (w / 64 % 2 = 1), tagx := decide (w / 8 % 2 = 1), idxx := decide (w / 16 % 2 = 1), b := ⟨x / 134217728 % 32, by omega⟩, tb := decide (x / 67108864 % 2 = 1), d := ⟨x / 2097152 % 32, by omega⟩ }
  else none
def Form.Subq.word (f : Form.Subq) : Nat := f.k.val * 4096 + f.a.val * 128 + boolBit f.ta * 64 + boolBit f.tagx * 8 + boolBit f.idxx * 16
def Form.Subq.ext (f : Form.Subq) : Nat := f.b.val * 134217728 + boolBit f.tb * 67108864 + f.d.val * 2097152

/-- The operand word of a `Form.Coll`. -/
def Form.Coll.ofWord (w : Nat) : Option Form.Coll :=
  if w % 256 = 0 then
    some { vsn := ⟨w / 4096 % 256, by omega⟩, q := ⟨w / 256 % 16, by omega⟩ }
  else none
def Form.Coll.word (f : Form.Coll) : Nat := f.vsn.val * 4096 + f.q.val * 256

/-- The operand word of a `Form.CollR`. -/
def Form.CollR.ofWord (w : Nat) : Option Form.CollR :=
  if w % 4 = 1 ∧ w / 4 % 64 = 0 then
    some { vsn := ⟨w / 4096 % 256, by omega⟩, q := ⟨w / 256 % 16, by omega⟩ }
  else none
def Form.CollR.word (f : Form.CollR) : Nat := f.vsn.val * 4096 + f.q.val * 256 + 1

/-- The operand word of a `Form.CollW`. -/
def Form.CollW.ofWord (w : Nat) : Option Form.CollW :=
  if w / 8 % 32 < 8 ∧ w % 4 = 2 ∧ w / 256 % 16 = 0 then
    some { vsn := ⟨w / 4096 % 256, by omega⟩, a := ⟨w / 8 % 8, by omega⟩, ta := decide (w / 4 % 2 = 1) }
  else none
def Form.CollW.word (f : Form.CollW) : Nat := f.vsn.val * 4096 + f.a.val * 8 + boolBit f.ta * 4 + 2

/-- The operand word of a `Form.CollRW`. -/
def Form.CollRW.ofWord (w : Nat) : Option Form.CollRW :=
  if w / 8 % 32 < 8 ∧ w % 4 = 3 ∧ w / 4 % 2 = 0 ∧ w / 256 % 16 = 0 then
    some { vsn := ⟨w / 4096 % 256, by omega⟩, a := ⟨w / 8 % 8, by omega⟩ }
  else none
def Form.CollRW.word (f : Form.CollRW) : Nat := f.vsn.val * 4096 + f.a.val * 8 + 3

/-- The operand word of a `Form.Cmark`. -/
def Form.Cmark.ofWord (w : Nat) : Option Form.Cmark :=
  if w % 4096 = 0 then
    some { vsn := ⟨w / 4096 % 256, by omega⟩ }
  else none
def Form.Cmark.word (f : Form.Cmark) : Nat := f.vsn.val * 4096

/-- The operand word of a `Form.CmarkE`. -/
def Form.CmarkE.ofWord (w : Nat) : Option Form.CmarkE :=
  if w % 4 = 1 ∧ w / 4 % 1024 = 0 then
    some { vsn := ⟨w / 4096 % 256, by omega⟩ }
  else none
def Form.CmarkE.word (f : Form.CmarkE) : Nat := f.vsn.val * 4096 + 1

/-- The operand word of a `Form.Csend`. -/
def Form.Csend.ofWord (w : Nat) : Option Form.Csend :=
  if w / 2 % 8192 = 0 then
    some { v := ⟨w / 32768 % 32, by omega⟩, tv := decide (w / 16384 % 2 = 1), dn := decide (w % 2 = 1) }
  else none
def Form.Csend.word (f : Form.Csend) : Nat := f.v.val * 32768 + boolBit f.tv * 16384 + boolBit f.dn

/-- The operand word of a `Form.Crecv`. -/
def Form.Crecv.ofWord (w : Nat) : Option Form.Crecv :=
  if w / 2 % 16384 = 0 then
    some { v := ⟨w / 32768 % 32, by omega⟩, dn := decide (w % 2 = 1) }
  else none
def Form.Crecv.word (f : Form.Crecv) : Nat := f.v.val * 32768 + boolBit f.dn

/-- The operand word of a `Form.VmmA`. -/
def Form.VmmA.ofWord (w : Nat) : Option Form.VmmA :=
  if w / 16 % 32 < 8 ∧ w % 8 = 1 ∧ w / 8 % 2 = 0 then
    some { d := ⟨w / 32768 % 32, by omega⟩, a := ⟨w / 1024 % 32, by omega⟩, ta := decide (w / 512 % 2 = 1), mb := ⟨w / 16 % 8, by omega⟩ }
  else none
def Form.VmmA.word (f : Form.VmmA) : Nat := f.d.val * 32768 + f.a.val * 1024 + boolBit f.ta * 512 + f.mb.val * 16 + 1

/-- The operand word of a `Form.VmmS`. -/
def Form.VmmS.ofWord (w : Nat) : Option Form.VmmS :=
  if w / 16 % 32 < 8 ∧ w % 8 = 2 ∧ w / 8 % 2 = 0 then
    some { d := ⟨w / 32768 % 32, by omega⟩, a := ⟨w / 1024 % 32, by omega⟩, ta := decide (w / 512 % 2 = 1), mb := ⟨w / 16 % 8, by omega⟩ }
  else none
def Form.VmmS.word (f : Form.VmmS) : Nat := f.d.val * 32768 + f.a.val * 1024 + boolBit f.ta * 512 + f.mb.val * 16 + 2

/-! ## Opcode maps (10 Tables 10-10 to 10-15) -/

/-- The operands of an instruction that takes none: every field is zero (10 R291). -/
def none_ {α : Type} (w : Nat) (i : α) : Option α := if w % 1048576 = 0 then some i else none

/-- MSK of an optional extension word (10 Table 10-7): the rest of the word is reserved. -/
def maskOf (x : Nat) : Option (Fin 8) := if x / 8 = 0 then some ⟨x % 8, by omega⟩ else none

/-- Fields that fit give the instruction. -/
def fits (i : Option Instr) : Except DecodeError Instr :=
  match i with
  | some i => .ok i
  | none => .error .field

/-- A format without an extension word (10 R288). -/
def noExt (x : Option Nat) (i : Option Instr) : Except DecodeError Instr :=
  match x with
  | none => fits i
  | some _ => .error .extension

/-- A format that needs its extension word (10 R288). -/
def requiredExt (x : Option Nat) (i : Nat → Option Instr) : Except DecodeError Instr :=
  match x with
  | none => .error .extension
  | some x => fits (i x)

/-- A format with a narrow and an extended form (10 R288). -/
def optionalExt (x : Option Nat) (i : Option Instr) (e : Nat → Option Instr) : Except DecodeError Instr :=
  match x with
  | none => fits i
  | some x => fits (e x)

/-- The instructions of the scalar map by opcode (10 R292). -/
def decodeScalar (op w : Nat) (x : Option Nat) (p : Pred) : Except DecodeError Instr :=
  match op with
  | 1 => noExt x ((Form.R3.ofWord w).map (Instr.add p))
  | 2 => noExt x ((Form.R3.ofWord w).map (Instr.sub p))
  | 3 => optionalExt x ((Form.Ri.ofWord w).map (Instr.addi p))
      fun x => (Form.RiX.ofWord w x).map (Instr.addiExt p)
  | 4 => noExt x ((Form.R3.ofWord w).map (Instr.and p))
  | 5 => noExt x ((Form.R3.ofWord w).map (Instr.or p))
  | 6 => noExt x ((Form.R3.ofWord w).map (Instr.xor p))
  | 7 => noExt x ((Form.R3.ofWord w).map (Instr.andn p))
  | 8 => noExt x ((Form.R3.ofWord w).map (Instr.shl p))
  | 9 => noExt x ((Form.R3.ofWord w).map (Instr.shr p))
  | 10 => noExt x ((Form.R3.ofWord w).map (Instr.sra p))
  | 11 => noExt x ((Form.Rn.ofWord w).map (Instr.shli p))
  | 12 => noExt x ((Form.Rn.ofWord w).map (Instr.shri p))
  | 13 => noExt x ((Form.Rn.ofWord w).map (Instr.srai p))
  | 14 => noExt x ((Form.R3.ofWord w).map (Instr.mul p))
  | 15 => noExt x ((Form.R3U.ofWord w).map (Instr.mulh p))
  | 16 => noExt x ((Form.R3U.ofWord w).map (Instr.div p))
  | 17 => noExt x ((Form.R3U.ofWord w).map (Instr.rem p))
  | 18 => noExt x ((Form.R3Y.ofWord w).map (Instr.min p))
  | 19 => noExt x ((Form.R3Y.ofWord w).map (Instr.max p))
  | 20 => noExt x ((Form.R2.ofWord w).map (Instr.clz p))
  | 21 => noExt x ((Form.R2.ofWord w).map (Instr.ctz p))
  | 22 => noExt x ((Form.R2.ofWord w).map (Instr.popc p))
  | 23 => noExt x ((Form.R2.ofWord w).map (Instr.bswap p))
  | 24 => requiredExt x fun x => (Form.Bf.ofWord w x).map (Instr.ext p)
  | 25 => requiredExt x fun x => (Form.Bf.ofWord w x).map (Instr.ins p)
  | 26 => optionalExt x ((Form.Li.ofWord w).map (Instr.li p))
      fun x => (Form.LiX.ofWord w x).map (Instr.liExt p)
  | 27 => optionalExt x ((Form.Li.ofWord w).map (Instr.lih p))
      fun x => (Form.LiX.ofWord w x).map (Instr.lihExt p)
  | 28 => noExt x ((Form.R2.ofWord w).map (Instr.mov p))
  | 29 => noExt x ((Form.R3K.ofWord w).map (Instr.sel p))
  | 30 => noExt x ((Form.R3K.ofWord w).map (Instr.lea p))
  | 31 => requiredExt x fun x => (Form.R4.ofWord w x).map (Instr.madd p)
  | 32 => requiredExt x fun x => (Form.R4Y.ofWord w x).map (Instr.clamp p)
  | 33 => noExt x ((Form.Cmp.ofWord w).map (Instr.cmpEq p))
  | 34 => noExt x ((Form.Cmp.ofWord w).map (Instr.cmpNe p))
  | 35 => noExt x ((Form.Cmp.ofWord w).map (Instr.cmpLt p))
  | 36 => noExt x ((Form.Cmp.ofWord w).map (Instr.cmpLe p))
  | 37 => optionalExt x ((Form.Cmpi.ofWord w).map (Instr.cmpiEq p))
      fun x => (Form.CmpiX.ofWord w x).map (Instr.cmpiEqExt p)
  | 38 => optionalExt x ((Form.Cmpi.ofWord w).map (Instr.cmpiNe p))
      fun x => (Form.CmpiX.ofWord w x).map (Instr.cmpiNeExt p)
  | 39 => optionalExt x ((Form.Cmpi.ofWord w).map (Instr.cmpiLt p))
      fun x => (Form.CmpiX.ofWord w x).map (Instr.cmpiLtExt p)
  | 40 => optionalExt x ((Form.Cmpi.ofWord w).map (Instr.cmpiLe p))
      fun x => (Form.CmpiX.ofWord w x).map (Instr.cmpiLeExt p)
  | 41 => noExt x ((Form.P3.ofWord w).map (Instr.pand p))
  | 42 => noExt x ((Form.P3.ofWord w).map (Instr.por p))
  | 43 => noExt x ((Form.P3.ofWord w).map (Instr.pxor p))
  | 44 => noExt x ((Form.P2.ofWord w).map (Instr.pnot p))
  | 45 => noExt x ((Form.P2.ofWord w).map (Instr.pmov p))
  | _ => .error .unassigned

/-- The instructions of the branch map by opcode (10 R292). -/
def decodeBranch (op w : Nat) (x : Option Nat) (p : Pred) : Except DecodeError Instr :=
  match op with
  | 1 => noExt x ((Form.Jmp.ofWord w).map (Instr.br p))
  | 2 => optionalExt x ((Form.Brc.ofWord w).map (Instr.brc p))
      fun x => (Form.BrcX.ofWord w x).map (Instr.brcExt p)
  | 3 => noExt x ((Form.Ra.ofWord w).map (Instr.jr p))
  | 4 => noExt x ((Form.Jmp.ofWord w).map (Instr.call p))
  | 5 => noExt x (none_ w (Instr.ret p))
  | 6 => noExt x ((Form.Lp.ofWord w).map (Instr.lp p))
  | 7 => noExt x ((Form.Lpx.ofWord w).map (Instr.lpx p))
  | 8 => noExt x ((Form.Xw.ofWord w).map (Instr.xwait p))
  | 9 => noExt x ((Form.Ra.ofWord w).map (Instr.twait p))
  | 10 => noExt x (none_ w (Instr.retire p))
  | 11 => noExt x (none_ w (Instr.trigger p))
  | 12 => noExt x ((Form.N16.ofWord w).map (Instr.trap p))
  | 13 => noExt x ((Form.N16.ofWord w).map (Instr.brk p))
  | 14 => noExt x (none_ w (Instr.npsBegin p))
  | 15 => noExt x (none_ w (Instr.npsEnd p))
  | 16 => noExt x ((Form.Srd.ofWord w).map (Instr.srd p))
  | 17 => noExt x ((Form.Swr.ofWord w).map (Instr.swr p))
  | 18 => noExt x ((Form.Cfgq.ofWord w).map (Instr.cfgq p))
  | 19 => noExt x ((Form.Rd.ofWord w).map (Instr.wccr p))
  | _ => .error .unassigned

/-- The instructions of the vector map by opcode (10 R292). -/
def decodeVector (op w : Nat) (x : Option Nat) (p : Pred) : Except DecodeError Instr :=
  match op with
  | 1 => optionalExt x ((Form.R3R.ofWord w).map (Instr.vadd p))
      fun x => (Form.R3R.ofWord w).bind fun f => (maskOf x).map (Instr.vaddMsk p f)
  | 2 => optionalExt x ((Form.R3R.ofWord w).map (Instr.vsub p))
      fun x => (Form.R3R.ofWord w).bind fun f => (maskOf x).map (Instr.vsubMsk p f)
  | 3 => optionalExt x ((Form.R3R.ofWord w).map (Instr.vmul p))
      fun x => (Form.R3R.ofWord w).bind fun f => (maskOf x).map (Instr.vmulMsk p f)
  | 4 => requiredExt x fun x => (Form.V4R.ofWord w x).map (Instr.vfma p)
  | 5 => requiredExt x fun x => (Form.V4R.ofWord w x).map (Instr.vfms p)
  | 6 => requiredExt x fun x => (Form.V4R.ofWord w x).map (Instr.vfnma p)
  | 7 => optionalExt x ((Form.R3.ofWord w).map (Instr.vmin p))
      fun x => (Form.R3.ofWord w).bind fun f => (maskOf x).map (Instr.vminMsk p f)
  | 8 => optionalExt x ((Form.R3.ofWord w).map (Instr.vmax p))
      fun x => (Form.R3.ofWord w).bind fun f => (maskOf x).map (Instr.vmaxMsk p f)
  | 9 => optionalExt x ((Form.R2.ofWord w).map (Instr.vabs p))
      fun x => (Form.R2.ofWord w).bind fun f => (maskOf x).map (Instr.vabsMsk p f)
  | 10 => optionalExt x ((Form.R2.ofWord w).map (Instr.vneg p))
      fun x => (Form.R2.ofWord w).bind fun f => (maskOf x).map (Instr.vnegMsk p f)
  | 11 => optionalExt x ((Form.Mc.ofWord w).map (Instr.vcmpEq p))
      fun x => (Form.Mc.ofWord w).bind fun f => (maskOf x).map (Instr.vcmpEqMsk p f)
  | 12 => optionalExt x ((Form.Mc.ofWord w).map (Instr.vcmpLt p))
      fun x => (Form.Mc.ofWord w).bind fun f => (maskOf x).map (Instr.vcmpLtMsk p f)
  | 13 => optionalExt x ((Form.Mc.ofWord w).map (Instr.vcmpLe p))
      fun x => (Form.Mc.ofWord w).bind fun f => (maskOf x).map (Instr.vcmpLeMsk p f)
  | 14 => optionalExt x ((Form.Mc.ofWord w).map (Instr.vcmpUn p))
      fun x => (Form.Mc.ofWord w).bind fun f => (maskOf x).map (Instr.vcmpUnMsk p f)
  | 15 => optionalExt x ((Form.R3K.ofWord w).map (Instr.vsel p))
      fun x => (Form.R3K.ofWord w).bind fun f => (maskOf x).map (Instr.vselMsk p f)
  | 16 => requiredExt x fun x => (Form.V4.ofWord w x).map (Instr.vclamp p)
  | 17 => optionalExt x ((Form.R3Y.ofWord w).map (Instr.viadd p))
      fun x => (Form.R3Y.ofWord w).bind fun f => (maskOf x).map (Instr.viaddMsk p f)
  | 18 => optionalExt x ((Form.R3Y.ofWord w).map (Instr.visub p))
      fun x => (Form.R3Y.ofWord w).bind fun f => (maskOf x).map (Instr.visubMsk p f)
  | 19 => optionalExt x ((Form.R3Y.ofWord w).map (Instr.vimul p))
      fun x => (Form.R3Y.ofWord w).bind fun f => (maskOf x).map (Instr.vimulMsk p f)
  | 20 => optionalExt x ((Form.R3Y.ofWord w).map (Instr.vimin p))
      fun x => (Form.R3Y.ofWord w).bind fun f => (maskOf x).map (Instr.viminMsk p f)
  | 21 => optionalExt x ((Form.R3Y.ofWord w).map (Instr.vimax p))
      fun x => (Form.R3Y.ofWord w).bind fun f => (maskOf x).map (Instr.vimaxMsk p f)
  | 22 => optionalExt x ((Form.R3.ofWord w).map (Instr.vand p))
      fun x => (Form.R3.ofWord w).bind fun f => (maskOf x).map (Instr.vandMsk p f)
  | 23 => optionalExt x ((Form.R3.ofWord w).map (Instr.vor p))
      fun x => (Form.R3.ofWord w).bind fun f => (maskOf x).map (Instr.vorMsk p f)
  | 24 => optionalExt x ((Form.R3.ofWord w).map (Instr.vxor p))
      fun x => (Form.R3.ofWord w).bind fun f => (maskOf x).map (Instr.vxorMsk p f)
  | 25 => optionalExt x ((Form.R3.ofWord w).map (Instr.vandn p))
      fun x => (Form.R3.ofWord w).bind fun f => (maskOf x).map (Instr.vandnMsk p f)
  | 26 => optionalExt x ((Form.R3.ofWord w).map (Instr.vshl p))
      fun x => (Form.R3.ofWord w).bind fun f => (maskOf x).map (Instr.vshlMsk p f)
  | 27 => optionalExt x ((Form.R3.ofWord w).map (Instr.vshr p))
      fun x => (Form.R3.ofWord w).bind fun f => (maskOf x).map (Instr.vshrMsk p f)
  | 28 => optionalExt x ((Form.R3.ofWord w).map (Instr.vsra p))
      fun x => (Form.R3.ofWord w).bind fun f => (maskOf x).map (Instr.vsraMsk p f)
  | 29 => optionalExt x ((Form.McY.ofWord w).map (Instr.vicmpEq p))
      fun x => (Form.McY.ofWord w).bind fun f => (maskOf x).map (Instr.vicmpEqMsk p f)
  | 30 => optionalExt x ((Form.McY.ofWord w).map (Instr.vicmpLt p))
      fun x => (Form.McY.ofWord w).bind fun f => (maskOf x).map (Instr.vicmpLtMsk p f)
  | 31 => optionalExt x ((Form.McY.ofWord w).map (Instr.vicmpLe p))
      fun x => (Form.McY.ofWord w).bind fun f => (maskOf x).map (Instr.vicmpLeMsk p f)
  | 32 => optionalExt x ((Form.R2.ofWord w).map (Instr.vbcast p))
      fun x => (Form.R2.ofWord w).bind fun f => (maskOf x).map (Instr.vbcastMsk p f)
  | 33 => noExt x ((Form.R2K.ofWord w).map (Instr.vext p))
  | 34 => noExt x ((Form.R2K.ofWord w).map (Instr.vins p))
  | 35 => optionalExt x ((Form.R3.ofWord w).map (Instr.vperm p))
      fun x => (Form.R3.ofWord w).bind fun f => (maskOf x).map (Instr.vpermMsk p f)
  | 36 => optionalExt x ((Form.R3.ofWord w).map (Instr.vshift p))
      fun x => (Form.R3.ofWord w).bind fun f => (maskOf x).map (Instr.vshiftMsk p f)
  | 37 => optionalExt x ((Form.R3.ofWord w).map (Instr.vrot p))
      fun x => (Form.R3.ofWord w).bind fun f => (maskOf x).map (Instr.vrotMsk p f)
  | 38 => optionalExt x ((Form.R2R.ofWord w).map (Instr.vsum p))
      fun x => (Form.R2R.ofWord w).bind fun f => (maskOf x).map (Instr.vsumMsk p f)
  | 39 => optionalExt x ((Form.R2.ofWord w).map (Instr.vmaxr p))
      fun x => (Form.R2.ofWord w).bind fun f => (maskOf x).map (Instr.vmaxrMsk p f)
  | 40 => optionalExt x ((Form.R2.ofWord w).map (Instr.vminr p))
      fun x => (Form.R2.ofWord w).bind fun f => (maskOf x).map (Instr.vminrMsk p f)
  | 41 => noExt x ((Form.M3.ofWord w).map (Instr.mand p))
  | 42 => noExt x ((Form.M3.ofWord w).map (Instr.mor p))
  | 43 => noExt x ((Form.M3.ofWord w).map (Instr.mxor p))
  | 44 => noExt x ((Form.M2.ofWord w).map (Instr.mnot p))
  | 45 => noExt x ((Form.Sm.ofWord w).map (Instr.mpop p))
  | 46 => noExt x ((Form.Sm.ofWord w).map (Instr.mfirst p))
  | 47 => noExt x ((Form.Mv.ofWord w).map (Instr.vvalid p))
  | 48 => optionalExt x (((Form.R2.ofWord w).map (Instr.vmov p)) <|> ((Form.VmmA.ofWord w).map (Instr.vmovAnd p)) <|> ((Form.VmmS.ofWord w).map (Instr.vmovSet p)))
      fun x => ((Form.R2.ofWord w).bind fun f => (maskOf x).map (Instr.vmovMsk p f)) <|> ((Form.VmmA.ofWord w).bind fun f => (maskOf x).map (Instr.vmovAndMsk p f)) <|> ((Form.VmmS.ofWord w).bind fun f => (maskOf x).map (Instr.vmovSetMsk p f))
  | 64 => optionalExt x ((Form.R2R.ofWord w).map (Instr.vrcp p))
      fun x => (Form.R2R.ofWord w).bind fun f => (maskOf x).map (Instr.vrcpMsk p f)
  | 65 => optionalExt x ((Form.R2R.ofWord w).map (Instr.vrsqrt p))
      fun x => (Form.R2R.ofWord w).bind fun f => (maskOf x).map (Instr.vrsqrtMsk p f)
  | 66 => optionalExt x ((Form.R2R.ofWord w).map (Instr.vsqrt p))
      fun x => (Form.R2R.ofWord w).bind fun f => (maskOf x).map (Instr.vsqrtMsk p f)
  | 67 => optionalExt x ((Form.R2R.ofWord w).map (Instr.vexp2 p))
      fun x => (Form.R2R.ofWord w).bind fun f => (maskOf x).map (Instr.vexp2Msk p f)
  | 68 => optionalExt x ((Form.R2R.ofWord w).map (Instr.vlog2 p))
      fun x => (Form.R2R.ofWord w).bind fun f => (maskOf x).map (Instr.vlog2Msk p f)
  | 69 => optionalExt x ((Form.R2R.ofWord w).map (Instr.vtanh p))
      fun x => (Form.R2R.ofWord w).bind fun f => (maskOf x).map (Instr.vtanhMsk p f)
  | 70 => optionalExt x ((Form.R2R.ofWord w).map (Instr.vsigm p))
      fun x => (Form.R2R.ofWord w).bind fun f => (maskOf x).map (Instr.vsigmMsk p f)
  | 71 => optionalExt x ((Form.R3.ofWord w).map (Instr.vrand p))
      fun x => (Form.R3.ofWord w).bind fun f => (maskOf x).map (Instr.vrandMsk p f)
  | 72 => requiredExt x fun x => (Form.Vcv.ofWord w x).map (Instr.vcvt p)
  | 73 => requiredExt x fun x => (Form.Vpk.ofWord w x).map (Instr.vpack p)
  | 74 => requiredExt x fun x => (Form.Vpk.ofWord w x).map (Instr.vunpack p)
  | 75 => optionalExt x ((Form.R3R.ofWord w).map (Instr.vscale p))
      fun x => (Form.R3R.ofWord w).bind fun f => (maskOf x).map (Instr.vscaleMsk p f)
  | _ => .error .unassigned

/-- The instructions of the ls map by opcode (10 R292). -/
def decodeLs (op w : Nat) (x : Option Nat) (p : Pred) : Except DecodeError Instr :=
  match op with
  | 1 => optionalExt x ((Form.Ld.ofWord w).map (Instr.ld p))
      fun x => (Form.LdX.ofWord w x).map (Instr.ldExt p)
  | 2 => optionalExt x ((Form.St.ofWord w).map (Instr.st p))
      fun x => (Form.StX.ofWord w x).map (Instr.stExt p)
  | 3 => optionalExt x ((Form.Vld.ofWord w).map (Instr.vld p))
      fun x => (Form.VldX.ofWord w x).map (Instr.vldExt p)
  | 4 => optionalExt x ((Form.Vst.ofWord w).map (Instr.vst p))
      fun x => (Form.VstX.ofWord w x).map (Instr.vstExt p)
  | 5 => optionalExt x ((Form.Vldm.ofWord w).map (Instr.vldm p))
      fun x => (Form.VldmX.ofWord w x).map (Instr.vldmExt p)
  | 6 => optionalExt x ((Form.Vstm.ofWord w).map (Instr.vstm p))
      fun x => (Form.VstmX.ofWord w x).map (Instr.vstmExt p)
  | 16 => noExt x ((Form.Gld.ofWord w).map (Instr.gld p))
  | 17 => noExt x ((Form.Gst.ofWord w).map (Instr.gst p))
  | 18 => requiredExt x fun x => (Form.Amo.ofWord w x).map (Instr.amoAdd p)
  | 19 => requiredExt x fun x => (Form.Amo.ofWord w x).map (Instr.amoMin p)
  | 20 => requiredExt x fun x => (Form.Amo.ofWord w x).map (Instr.amoMax p)
  | 21 => requiredExt x fun x => (Form.Amo.ofWord w x).map (Instr.amoSwap p)
  | 22 => requiredExt x fun x => (Form.AmoC.ofWord w x).map (Instr.amoCas p)
  | 23 => requiredExt x fun x => (Form.AmoF.ofWord w x).map (Instr.amoFadd p)
  | 24 => noExt x ((Form.Hx.ofWord w).map (Instr.xlat p))
  | 25 => noExt x ((Form.H1.ofWord w).map (Instr.hinv p))
  | 26 => optionalExt x ((Form.Tl.ofWord w).map (Instr.tld p))
      fun x => (Form.TlT.ofWord w x).map (Instr.tldTimed p)
  | 27 => optionalExt x ((Form.Tl.ofWord w).map (Instr.tst p))
      fun x => (Form.TlT.ofWord w x).map (Instr.tstTimed p)
  | 28 => noExt x ((Form.Hx.ofWord w).map (Instr.pf p))
  | 32 => noExt x (none_ w (Instr.fenceG p))
  | 33 => noExt x (none_ w (Instr.fenceE p))
  | 34 => noExt x (none_ w (Instr.fenceN p))
  | 35 => noExt x (none_ w (Instr.fenceA p))
  | 36 => noExt x ((Form.Bm.ofWord w).map (Instr.bankmode p))
  | 37 => noExt x ((Form.Hx.ofWord w).map (Instr.cinv p))
  | 38 => noExt x (none_ w (Instr.cinva p))
  | _ => .error .unassigned

/-- The instructions of the engine map by opcode (10 R292). -/
def decodeEngine (op w : Nat) (x : Option Nat) (p : Pred) : Except DecodeError Instr :=
  match op with
  | 1 => requiredExt x fun x => (Form.Mma.ofWord w x).map (Instr.mma p)
  | 2 => requiredExt x fun x => (Form.Mmag.ofWord w x).map (Instr.mmag p)
  | 8 => noExt x ((Form.Fl.ofWord w).map (Instr.aalloc p))
  | 9 => noExt x ((Form.Fl.ofWord w).map (Instr.afree p))
  | 10 => noExt x (((Form.Aown.ofWord w).map (Instr.aown p)) <|> ((Form.AownRel.ofWord w).map (Instr.aownRel p)))
  | 11 => noExt x ((Form.Fl.ofWord w).map (Instr.aclr p))
  | 12 => noExt x ((Form.Adrain.ofWord w).map (Instr.adrain p))
  | 13 => requiredExt x fun x => (Form.Aread.ofWord w x).map (Instr.aread p)
  | 16 => optionalExt x ((Form.Scan.ofWord w).map (Instr.scanAdd p))
      fun x => (Form.ScanI.ofWord w x).map (Instr.scanAddInit p)
  | 17 => optionalExt x ((Form.Scan.ofWord w).map (Instr.scanMul p))
      fun x => (Form.ScanI.ofWord w x).map (Instr.scanMulInit p)
  | 18 => optionalExt x ((Form.Scan.ofWord w).map (Instr.scanMax p))
      fun x => (Form.ScanI.ofWord w x).map (Instr.scanMaxInit p)
  | 19 => optionalExt x ((Form.Scan.ofWord w).map (Instr.scanMin p))
      fun x => (Form.ScanI.ofWord w x).map (Instr.scanMinInit p)
  | 20 => requiredExt x fun x => (Form.Scan2.ofWord w x).map (Instr.scanAffine p)
  | 21 => requiredExt x fun x => (Form.Scan2.ofWord w x).map (Instr.scanLse p)
  | 22 => optionalExt x ((Form.Scan.ofWord w).map (Instr.scanMoment p))
      fun x => (Form.ScanM.ofWord w x).map (Instr.scanMomentInit p)
  | 23 => optionalExt x ((Form.Scan.ofWord w).map (Instr.scanUser p))
      fun x => (Form.ScanU.ofWord w x).map (Instr.scanUserExt p)
  | 24 => requiredExt x fun x => (Form.Scdef.ofWord w x).map (Instr.scdef p)
  | 32 => noExt x ((Form.Mupd.ofWord w).map (Instr.mupd p))
  | 33 => optionalExt x ((Form.Mupdw.ofWord w).map (Instr.mupdw p))
      fun x => (Form.MupdwQ.ofWord w x).map (Instr.mupdwStream p)
  | 34 => noExt x (((Form.Mw2.ofWord w).map (Instr.mmerge p)) <|> ((Form.Mw2L.ofWord w).map (Instr.mmergeLanes p)))
  | 35 => noExt x ((Form.W1.ofWord w).map (Instr.mclr p))
  | 36 => requiredExt x fun x => ((Form.Mdrain.ofWord w x).map (Instr.mdrain p)) <|> ((Form.MdrainN.ofWord w x).map (Instr.mdrainNorm p))
  | 37 => noExt x ((Form.Mls.ofWord w).map (Instr.mld p))
  | 38 => noExt x ((Form.Mls.ofWord w).map (Instr.mst p))
  | 48 => requiredExt x fun x => (Form.Cpy.ofWord w x).map (Instr.cpy p)
  | 49 => noExt x ((Form.Cpy2d.ofWord w).map (Instr.cpy2d p))
  | 50 => requiredExt x fun x => (Form.Fill.ofWord w x).map (Instr.fill p)
  | 56 => requiredExt x fun x => (Form.Qset.ofWord w x).map (Instr.qset p)
  | 57 => requiredExt x fun x => (Form.Qget.ofWord w x).map (Instr.qget p)
  | _ => .error .unassigned

/-- The instructions of the fabric map by opcode (10 R292). -/
def decodeFabric (op w : Nat) (x : Option Nat) (p : Pred) : Except DecodeError Instr :=
  match op with
  | 1 => optionalExt x ((Form.Pub.ofWord w).map (Instr.pub p))
      fun x => (Form.PubX.ofWord w x).map (Instr.pubIndexed p)
  | 2 => noExt x ((Form.Pubeos.ofWord w).map (Instr.pubeos p))
  | 3 => optionalExt x ((Form.Fetch.ofWord w).map (Instr.fetch p))
      fun x => (Form.FetchX.ofWord w x).map (Instr.fetchIndexed p)
  | 4 => requiredExt x fun x => (Form.Subq.ofWord w x).map (Instr.subq p)
  | 5 => noExt x (none_ w (Instr.hbar p))
  | 6 => noExt x (none_ w (Instr.hbarArrive p))
  | 7 => noExt x (none_ w (Instr.hbarWait p))
  | 8 => noExt x (((Form.Coll.ofWord w).map (Instr.coll p)) <|> ((Form.CollR.ofWord w).map (Instr.collRecv p)) <|> ((Form.CollW.ofWord w).map (Instr.collW p)) <|> ((Form.CollRW.ofWord w).map (Instr.collRecvW p)))
  | 9 => noExt x (((Form.Cmark.ofWord w).map (Instr.cmark p)) <|> ((Form.CmarkE.ofWord w).map (Instr.cmarkEnd p)))
  | 10 => noExt x ((Form.Csend.ofWord w).map (Instr.csend p))
  | 11 => noExt x ((Form.Crecv.ofWord w).map (Instr.crecv p))
  | 12 => noExt x (none_ w (Instr.cbar p))
  | _ => .error .unassigned
/-! ## A slot word -/

/-- The kinds of slot: SA and SB take the scalar map, VA and VB the vector map, the others one each (10 Table 10-2). -/
inductive SlotClass where
  | scalar | vector | ls | engine | fabric | branch
  deriving DecidableEq, Repr

/-- The slot map of a position. -/
def slotClass (pos : Fin 8) : SlotClass :=
  if pos.val ≤ 1 then .scalar else if pos.val ≤ 3 then .vector else if pos.val = 4 then .ls
  else if pos.val = 5 then .engine else if pos.val = 6 then .fabric else .branch

/-- Whether a position has an opcode: `div` and `rem` are SA only, 0x40 to 0x4B are VB only (10 Tables 10-10, 10-11). -/
def slotHas (pos : Fin 8) (op : Nat) : Bool :=
  !(pos == 1 && (op == 0x10 || op == 0x11)) && !(pos == 2 && decide (0x40 ≤ op))

/-- The instruction by class, opcode, operand field and extension word. -/
def decodeClass (c : SlotClass) (op w : Nat) (x : Option Nat) (p : Pred) : Except DecodeError Instr :=
  match c with
  | .scalar => decodeScalar op w x p
  | .vector => decodeVector op w x p
  | .ls => decodeLs op w x p
  | .engine => decodeEngine op w x p
  | .fabric => decodeFabric op w x p
  | .branch => decodeBranch op w x p

/-- PRED and PSENSE of a slot word (10 Table 10-3). -/
def predOf (w : Nat) : Pred := { reg := ⟨w / 268435456 % 8, by omega⟩, sense := decide (w / 134217728 % 2 = 1) }

/-- The instruction of a slot word and its extension word at a position (10 R285, R294). -/
def decodeSlot (pos : Fin 8) (w : Nat) (x : Option Nat) : Except DecodeError Instr :=
  let op := w / 1048576 % 128
  let p := predOf w
  if !slotHas pos op then .error .unassigned
  else if !p.wf then .error .predNever
  else
    match decodeClass (slotClass pos) op (w % 1048576) x p with
    | .error e => .error e
    | .ok i => if i.wf then .ok i else .error .illFormed

/-! ## The encoder -/

/-- A slot word in its fields (10 Table 10-3), with its extension word. -/
structure SlotWord where
  cls  : SlotClass
  pred : Pred
  op   : Nat
  opnd : Nat
  ext  : Option Nat
  deriving DecidableEq, Repr

/-- The 32-bit slot word. -/
def SlotWord.word (s : SlotWord) : Nat :=
  boolBit s.ext.isSome * 2147483648 + s.pred.reg.val * 268435456 + boolBit s.pred.sense * 134217728 + s.op * 1048576 + s.opnd

/-- The words of an instruction; a step of the module has none. -/
def encode : Instr → Option SlotWord
  | .powerGood _ => none
  | .enterP0 => none
  | .enterP1 => none
  | .enterS1 => none
  | .exitS1 => none
  | .enterS3 => none
  | .exitS3 _ => none
  | .powerRemoved => none
  | .auxPowerFail => none
  | .thermalThrottle => none
  | .thermalRecover => none
  | .wccSlew _ => none
  | .syncUnlocked => none
  | .peerDelayMeasure _ _ => none
  | .ltsFloor => none
  | .bloomAlternate => none
  | .scrubLine _ _ => none
  | .configEntryRewritten _ => none
  | .selftestWithdraw _ => none
  | .selftestStart _ => none
  | .selftestSkip _ => none
  | .selftestDone _ _ => none
  | .failedInService _ => none
  | .freezeTimeout _ => none
  | .retryRequest _ _ => none
  | .linkDead _ _ => none
  | .publicationArrival _ _ => none
  | .requestArrival _ _ => none
  | .requestResume _ => none
  | .gateTileArrival _ => none
  | .heldTileAccept _ => none
  | .missReplyArrival _ => none
  | .agentRequest _ => none
  | .agentFetchDone _ _ => none
  | .segmentVerify _ => none
  | .backWrite _ => none
  | .backCompletion _ => none
  | .configWrite _ => none
  | .collectiveChunkArrival _ _ => none
  | .chunkRefetch _ => none
  | .markerArrival _ _ => none
  | .carryMessageArrival _ _ => none
  | .drainWave _ => none
  | .cfgswap _ => none
  | .cfgswapForce _ => none
  | .planeSwap _ => none
  | .congestionTimeout _ _ => none
  | .probe _ => none
  | .probeWave _ => none
  | .verdictRead => none
  | .memoryRequestArrival _ => none
  | .spillReturn _ => none
  | .requestServe _ => none
  | .lineFill _ _ => none
  | .acceptanceToken _ => none
  | .completionToken _ => none
  | .cancellation _ => none
  | .tilePrepare _ => none
  | .tileCommit _ => none
  | .walkRequest _ => none
  | .walkComplete _ => none
  | .pagerFaultToken _ => none
  | .pagerResolve _ => none
  | .shootdown _ _ _ => none
  | .shootdownComplete => none
  | .frameReceive _ _ => none
  | .frameResendTimeout _ _ _ => none
  | .peerLost _ => none
  | .instructionFetch _ => none
  | .fixedResultLand _ => none
  | .registerFill _ _ => none
  | .queueOpStart _ _ => none
  | .engineOpComplete _ _ _ => none
  | .streamerStart _ => none
  | .streamerComplete _ _ => none
  | .landingStart _ => none
  | .landingComplete _ => none
  | .retireComplete _ => none
  | .walkerOpen _ => none
  | .dispatch _ => none
  | .herdDispatch _ => none
  | .triggerCount _ => none
  | .eosRequest _ => none
  | .eosEmit _ => none
  | .barrierArrival _ => none
  | .barrierTimeout _ => none
  | .npsOverrun _ => none
  | .deferredFault _ => none
  | .resume _ => none
  | .retranslate _ => none
  | .endFiring _ => none
  | .freezeRequest _ => none
  | .arm _ => none
  | .cancel _ => none
  | .switchCommit _ => none
  | .switchStart _ => none
  | .saveDone _ => none
  | .restoreDone _ => none
  | .switchOverdue _ => none
  | .openCfg _ => none
  | .arg _ => none
  | .inject _ => none
  | .go _ => none
  | .close _ => none
  | .invalidEntry _ => none
  | .heldEntryResume _ => none
  | .tailWrite _ _ => none
  | .ringWrite _ _ => none
  | .errClear _ => none
  | .registerWrite _ _ => none
  | .lockInterface _ _ => none
  | .keyDelivery _ _ => none
  | .startInterface _ => none
  | .stopInterface _ => none
  | .getDeviceInterfaceReport _ => none
  | .tdispUnsupported _ => none
  | .snapshotChange _ _ => none
  | .keyTableError _ => none
  | .debugAttachTrace _ => none
  | .debugAttachHalt _ => none
  | .debugSessionEnd _ => none
  | .attestationRequest _ => none
  | .add p f => some ⟨.scalar, p, 1, f.word, none⟩
  | .sub p f => some ⟨.scalar, p, 2, f.word, none⟩
  | .addi p f => some ⟨.scalar, p, 3, f.word, none⟩
  | .addiExt p f => some ⟨.scalar, p, 3, f.word, some f.ext⟩
  | .and p f => some ⟨.scalar, p, 4, f.word, none⟩
  | .or p f => some ⟨.scalar, p, 5, f.word, none⟩
  | .xor p f => some ⟨.scalar, p, 6, f.word, none⟩
  | .andn p f => some ⟨.scalar, p, 7, f.word, none⟩
  | .shl p f => some ⟨.scalar, p, 8, f.word, none⟩
  | .shr p f => some ⟨.scalar, p, 9, f.word, none⟩
  | .sra p f => some ⟨.scalar, p, 10, f.word, none⟩
  | .shli p f => some ⟨.scalar, p, 11, f.word, none⟩
  | .shri p f => some ⟨.scalar, p, 12, f.word, none⟩
  | .srai p f => some ⟨.scalar, p, 13, f.word, none⟩
  | .mul p f => some ⟨.scalar, p, 14, f.word, none⟩
  | .mulh p f => some ⟨.scalar, p, 15, f.word, none⟩
  | .div p f => some ⟨.scalar, p, 16, f.word, none⟩
  | .rem p f => some ⟨.scalar, p, 17, f.word, none⟩
  | .min p f => some ⟨.scalar, p, 18, f.word, none⟩
  | .max p f => some ⟨.scalar, p, 19, f.word, none⟩
  | .clz p f => some ⟨.scalar, p, 20, f.word, none⟩
  | .ctz p f => some ⟨.scalar, p, 21, f.word, none⟩
  | .popc p f => some ⟨.scalar, p, 22, f.word, none⟩
  | .bswap p f => some ⟨.scalar, p, 23, f.word, none⟩
  | .ext p f => some ⟨.scalar, p, 24, f.word, some f.ext⟩
  | .ins p f => some ⟨.scalar, p, 25, f.word, some f.ext⟩
  | .li p f => some ⟨.scalar, p, 26, f.word, none⟩
  | .liExt p f => some ⟨.scalar, p, 26, f.word, some f.ext⟩
  | .lih p f => some ⟨.scalar, p, 27, f.word, none⟩
  | .lihExt p f => some ⟨.scalar, p, 27, f.word, some f.ext⟩
  | .mov p f => some ⟨.scalar, p, 28, f.word, none⟩
  | .sel p f => some ⟨.scalar, p, 29, f.word, none⟩
  | .lea p f => some ⟨.scalar, p, 30, f.word, none⟩
  | .madd p f => some ⟨.scalar, p, 31, f.word, some f.ext⟩
  | .clamp p f => some ⟨.scalar, p, 32, f.word, some f.ext⟩
  | .cmpEq p f => some ⟨.scalar, p, 33, f.word, none⟩
  | .cmpNe p f => some ⟨.scalar, p, 34, f.word, none⟩
  | .cmpLt p f => some ⟨.scalar, p, 35, f.word, none⟩
  | .cmpLe p f => some ⟨.scalar, p, 36, f.word, none⟩
  | .cmpiEq p f => some ⟨.scalar, p, 37, f.word, none⟩
  | .cmpiEqExt p f => some ⟨.scalar, p, 37, f.word, some f.ext⟩
  | .cmpiNe p f => some ⟨.scalar, p, 38, f.word, none⟩
  | .cmpiNeExt p f => some ⟨.scalar, p, 38, f.word, some f.ext⟩
  | .cmpiLt p f => some ⟨.scalar, p, 39, f.word, none⟩
  | .cmpiLtExt p f => some ⟨.scalar, p, 39, f.word, some f.ext⟩
  | .cmpiLe p f => some ⟨.scalar, p, 40, f.word, none⟩
  | .cmpiLeExt p f => some ⟨.scalar, p, 40, f.word, some f.ext⟩
  | .pand p f => some ⟨.scalar, p, 41, f.word, none⟩
  | .por p f => some ⟨.scalar, p, 42, f.word, none⟩
  | .pxor p f => some ⟨.scalar, p, 43, f.word, none⟩
  | .pnot p f => some ⟨.scalar, p, 44, f.word, none⟩
  | .pmov p f => some ⟨.scalar, p, 45, f.word, none⟩
  | .br p f => some ⟨.branch, p, 1, f.word, none⟩
  | .brc p f => some ⟨.branch, p, 2, f.word, none⟩
  | .brcExt p f => some ⟨.branch, p, 2, f.word, some f.ext⟩
  | .jr p f => some ⟨.branch, p, 3, f.word, none⟩
  | .call p f => some ⟨.branch, p, 4, f.word, none⟩
  | .ret p => some ⟨.branch, p, 5, 0, none⟩
  | .lp p f => some ⟨.branch, p, 6, f.word, none⟩
  | .lpx p f => some ⟨.branch, p, 7, f.word, none⟩
  | .xwait p f => some ⟨.branch, p, 8, f.word, none⟩
  | .twait p f => some ⟨.branch, p, 9, f.word, none⟩
  | .retire p => some ⟨.branch, p, 10, 0, none⟩
  | .trigger p => some ⟨.branch, p, 11, 0, none⟩
  | .trap p f => some ⟨.branch, p, 12, f.word, none⟩
  | .brk p f => some ⟨.branch, p, 13, f.word, none⟩
  | .npsBegin p => some ⟨.branch, p, 14, 0, none⟩
  | .npsEnd p => some ⟨.branch, p, 15, 0, none⟩
  | .srd p f => some ⟨.branch, p, 16, f.word, none⟩
  | .swr p f => some ⟨.branch, p, 17, f.word, none⟩
  | .cfgq p f => some ⟨.branch, p, 18, f.word, none⟩
  | .wccr p f => some ⟨.branch, p, 19, f.word, none⟩
  | .vadd p f => some ⟨.vector, p, 1, f.word, none⟩
  | .vaddMsk p f msk => some ⟨.vector, p, 1, f.word, some msk.val⟩
  | .vsub p f => some ⟨.vector, p, 2, f.word, none⟩
  | .vsubMsk p f msk => some ⟨.vector, p, 2, f.word, some msk.val⟩
  | .vmul p f => some ⟨.vector, p, 3, f.word, none⟩
  | .vmulMsk p f msk => some ⟨.vector, p, 3, f.word, some msk.val⟩
  | .vfma p f => some ⟨.vector, p, 4, f.word, some f.ext⟩
  | .vfms p f => some ⟨.vector, p, 5, f.word, some f.ext⟩
  | .vfnma p f => some ⟨.vector, p, 6, f.word, some f.ext⟩
  | .vmin p f => some ⟨.vector, p, 7, f.word, none⟩
  | .vminMsk p f msk => some ⟨.vector, p, 7, f.word, some msk.val⟩
  | .vmax p f => some ⟨.vector, p, 8, f.word, none⟩
  | .vmaxMsk p f msk => some ⟨.vector, p, 8, f.word, some msk.val⟩
  | .vabs p f => some ⟨.vector, p, 9, f.word, none⟩
  | .vabsMsk p f msk => some ⟨.vector, p, 9, f.word, some msk.val⟩
  | .vneg p f => some ⟨.vector, p, 10, f.word, none⟩
  | .vnegMsk p f msk => some ⟨.vector, p, 10, f.word, some msk.val⟩
  | .vcmpEq p f => some ⟨.vector, p, 11, f.word, none⟩
  | .vcmpEqMsk p f msk => some ⟨.vector, p, 11, f.word, some msk.val⟩
  | .vcmpLt p f => some ⟨.vector, p, 12, f.word, none⟩
  | .vcmpLtMsk p f msk => some ⟨.vector, p, 12, f.word, some msk.val⟩
  | .vcmpLe p f => some ⟨.vector, p, 13, f.word, none⟩
  | .vcmpLeMsk p f msk => some ⟨.vector, p, 13, f.word, some msk.val⟩
  | .vcmpUn p f => some ⟨.vector, p, 14, f.word, none⟩
  | .vcmpUnMsk p f msk => some ⟨.vector, p, 14, f.word, some msk.val⟩
  | .vsel p f => some ⟨.vector, p, 15, f.word, none⟩
  | .vselMsk p f msk => some ⟨.vector, p, 15, f.word, some msk.val⟩
  | .vclamp p f => some ⟨.vector, p, 16, f.word, some f.ext⟩
  | .viadd p f => some ⟨.vector, p, 17, f.word, none⟩
  | .viaddMsk p f msk => some ⟨.vector, p, 17, f.word, some msk.val⟩
  | .visub p f => some ⟨.vector, p, 18, f.word, none⟩
  | .visubMsk p f msk => some ⟨.vector, p, 18, f.word, some msk.val⟩
  | .vimul p f => some ⟨.vector, p, 19, f.word, none⟩
  | .vimulMsk p f msk => some ⟨.vector, p, 19, f.word, some msk.val⟩
  | .vimin p f => some ⟨.vector, p, 20, f.word, none⟩
  | .viminMsk p f msk => some ⟨.vector, p, 20, f.word, some msk.val⟩
  | .vimax p f => some ⟨.vector, p, 21, f.word, none⟩
  | .vimaxMsk p f msk => some ⟨.vector, p, 21, f.word, some msk.val⟩
  | .vand p f => some ⟨.vector, p, 22, f.word, none⟩
  | .vandMsk p f msk => some ⟨.vector, p, 22, f.word, some msk.val⟩
  | .vor p f => some ⟨.vector, p, 23, f.word, none⟩
  | .vorMsk p f msk => some ⟨.vector, p, 23, f.word, some msk.val⟩
  | .vxor p f => some ⟨.vector, p, 24, f.word, none⟩
  | .vxorMsk p f msk => some ⟨.vector, p, 24, f.word, some msk.val⟩
  | .vandn p f => some ⟨.vector, p, 25, f.word, none⟩
  | .vandnMsk p f msk => some ⟨.vector, p, 25, f.word, some msk.val⟩
  | .vshl p f => some ⟨.vector, p, 26, f.word, none⟩
  | .vshlMsk p f msk => some ⟨.vector, p, 26, f.word, some msk.val⟩
  | .vshr p f => some ⟨.vector, p, 27, f.word, none⟩
  | .vshrMsk p f msk => some ⟨.vector, p, 27, f.word, some msk.val⟩
  | .vsra p f => some ⟨.vector, p, 28, f.word, none⟩
  | .vsraMsk p f msk => some ⟨.vector, p, 28, f.word, some msk.val⟩
  | .vicmpEq p f => some ⟨.vector, p, 29, f.word, none⟩
  | .vicmpEqMsk p f msk => some ⟨.vector, p, 29, f.word, some msk.val⟩
  | .vicmpLt p f => some ⟨.vector, p, 30, f.word, none⟩
  | .vicmpLtMsk p f msk => some ⟨.vector, p, 30, f.word, some msk.val⟩
  | .vicmpLe p f => some ⟨.vector, p, 31, f.word, none⟩
  | .vicmpLeMsk p f msk => some ⟨.vector, p, 31, f.word, some msk.val⟩
  | .vbcast p f => some ⟨.vector, p, 32, f.word, none⟩
  | .vbcastMsk p f msk => some ⟨.vector, p, 32, f.word, some msk.val⟩
  | .vext p f => some ⟨.vector, p, 33, f.word, none⟩
  | .vins p f => some ⟨.vector, p, 34, f.word, none⟩
  | .vperm p f => some ⟨.vector, p, 35, f.word, none⟩
  | .vpermMsk p f msk => some ⟨.vector, p, 35, f.word, some msk.val⟩
  | .vshift p f => some ⟨.vector, p, 36, f.word, none⟩
  | .vshiftMsk p f msk => some ⟨.vector, p, 36, f.word, some msk.val⟩
  | .vrot p f => some ⟨.vector, p, 37, f.word, none⟩
  | .vrotMsk p f msk => some ⟨.vector, p, 37, f.word, some msk.val⟩
  | .vsum p f => some ⟨.vector, p, 38, f.word, none⟩
  | .vsumMsk p f msk => some ⟨.vector, p, 38, f.word, some msk.val⟩
  | .vmaxr p f => some ⟨.vector, p, 39, f.word, none⟩
  | .vmaxrMsk p f msk => some ⟨.vector, p, 39, f.word, some msk.val⟩
  | .vminr p f => some ⟨.vector, p, 40, f.word, none⟩
  | .vminrMsk p f msk => some ⟨.vector, p, 40, f.word, some msk.val⟩
  | .mand p f => some ⟨.vector, p, 41, f.word, none⟩
  | .mor p f => some ⟨.vector, p, 42, f.word, none⟩
  | .mxor p f => some ⟨.vector, p, 43, f.word, none⟩
  | .mnot p f => some ⟨.vector, p, 44, f.word, none⟩
  | .mpop p f => some ⟨.vector, p, 45, f.word, none⟩
  | .mfirst p f => some ⟨.vector, p, 46, f.word, none⟩
  | .vvalid p f => some ⟨.vector, p, 47, f.word, none⟩
  | .vmov p f => some ⟨.vector, p, 48, f.word, none⟩
  | .vmovMsk p f msk => some ⟨.vector, p, 48, f.word, some msk.val⟩
  | .vmovAnd p f => some ⟨.vector, p, 48, f.word, none⟩
  | .vmovAndMsk p f msk => some ⟨.vector, p, 48, f.word, some msk.val⟩
  | .vmovSet p f => some ⟨.vector, p, 48, f.word, none⟩
  | .vmovSetMsk p f msk => some ⟨.vector, p, 48, f.word, some msk.val⟩
  | .vrcp p f => some ⟨.vector, p, 64, f.word, none⟩
  | .vrcpMsk p f msk => some ⟨.vector, p, 64, f.word, some msk.val⟩
  | .vrsqrt p f => some ⟨.vector, p, 65, f.word, none⟩
  | .vrsqrtMsk p f msk => some ⟨.vector, p, 65, f.word, some msk.val⟩
  | .vsqrt p f => some ⟨.vector, p, 66, f.word, none⟩
  | .vsqrtMsk p f msk => some ⟨.vector, p, 66, f.word, some msk.val⟩
  | .vexp2 p f => some ⟨.vector, p, 67, f.word, none⟩
  | .vexp2Msk p f msk => some ⟨.vector, p, 67, f.word, some msk.val⟩
  | .vlog2 p f => some ⟨.vector, p, 68, f.word, none⟩
  | .vlog2Msk p f msk => some ⟨.vector, p, 68, f.word, some msk.val⟩
  | .vtanh p f => some ⟨.vector, p, 69, f.word, none⟩
  | .vtanhMsk p f msk => some ⟨.vector, p, 69, f.word, some msk.val⟩
  | .vsigm p f => some ⟨.vector, p, 70, f.word, none⟩
  | .vsigmMsk p f msk => some ⟨.vector, p, 70, f.word, some msk.val⟩
  | .vrand p f => some ⟨.vector, p, 71, f.word, none⟩
  | .vrandMsk p f msk => some ⟨.vector, p, 71, f.word, some msk.val⟩
  | .vcvt p f => some ⟨.vector, p, 72, f.word, some f.ext⟩
  | .vpack p f => some ⟨.vector, p, 73, f.word, some f.ext⟩
  | .vunpack p f => some ⟨.vector, p, 74, f.word, some f.ext⟩
  | .vscale p f => some ⟨.vector, p, 75, f.word, none⟩
  | .vscaleMsk p f msk => some ⟨.vector, p, 75, f.word, some msk.val⟩
  | .ld p f => some ⟨.ls, p, 1, f.word, none⟩
  | .ldExt p f => some ⟨.ls, p, 1, f.word, some f.ext⟩
  | .st p f => some ⟨.ls, p, 2, f.word, none⟩
  | .stExt p f => some ⟨.ls, p, 2, f.word, some f.ext⟩
  | .vld p f => some ⟨.ls, p, 3, f.word, none⟩
  | .vldExt p f => some ⟨.ls, p, 3, f.word, some f.ext⟩
  | .vst p f => some ⟨.ls, p, 4, f.word, none⟩
  | .vstExt p f => some ⟨.ls, p, 4, f.word, some f.ext⟩
  | .vldm p f => some ⟨.ls, p, 5, f.word, none⟩
  | .vldmExt p f => some ⟨.ls, p, 5, f.word, some f.ext⟩
  | .vstm p f => some ⟨.ls, p, 6, f.word, none⟩
  | .vstmExt p f => some ⟨.ls, p, 6, f.word, some f.ext⟩
  | .gld p f => some ⟨.ls, p, 16, f.word, none⟩
  | .gst p f => some ⟨.ls, p, 17, f.word, none⟩
  | .amoAdd p f => some ⟨.ls, p, 18, f.word, some f.ext⟩
  | .amoMin p f => some ⟨.ls, p, 19, f.word, some f.ext⟩
  | .amoMax p f => some ⟨.ls, p, 20, f.word, some f.ext⟩
  | .amoSwap p f => some ⟨.ls, p, 21, f.word, some f.ext⟩
  | .amoCas p f => some ⟨.ls, p, 22, f.word, some f.ext⟩
  | .amoFadd p f => some ⟨.ls, p, 23, f.word, some f.ext⟩
  | .xlat p f => some ⟨.ls, p, 24, f.word, none⟩
  | .hinv p f => some ⟨.ls, p, 25, f.word, none⟩
  | .tld p f => some ⟨.ls, p, 26, f.word, none⟩
  | .tldTimed p f => some ⟨.ls, p, 26, f.word, some f.ext⟩
  | .tst p f => some ⟨.ls, p, 27, f.word, none⟩
  | .tstTimed p f => some ⟨.ls, p, 27, f.word, some f.ext⟩
  | .pf p f => some ⟨.ls, p, 28, f.word, none⟩
  | .fenceG p => some ⟨.ls, p, 32, 0, none⟩
  | .fenceE p => some ⟨.ls, p, 33, 0, none⟩
  | .fenceN p => some ⟨.ls, p, 34, 0, none⟩
  | .fenceA p => some ⟨.ls, p, 35, 0, none⟩
  | .bankmode p f => some ⟨.ls, p, 36, f.word, none⟩
  | .cinv p f => some ⟨.ls, p, 37, f.word, none⟩
  | .cinva p => some ⟨.ls, p, 38, 0, none⟩
  | .qset p f => some ⟨.engine, p, 56, f.word, some f.ext⟩
  | .qget p f => some ⟨.engine, p, 57, f.word, some f.ext⟩
  | .mma p f => some ⟨.engine, p, 1, f.word, some f.ext⟩
  | .mmag p f => some ⟨.engine, p, 2, f.word, some f.ext⟩
  | .aalloc p f => some ⟨.engine, p, 8, f.word, none⟩
  | .afree p f => some ⟨.engine, p, 9, f.word, none⟩
  | .aown p f => some ⟨.engine, p, 10, f.word, none⟩
  | .aownRel p f => some ⟨.engine, p, 10, f.word, none⟩
  | .aclr p f => some ⟨.engine, p, 11, f.word, none⟩
  | .adrain p f => some ⟨.engine, p, 12, f.word, none⟩
  | .aread p f => some ⟨.engine, p, 13, f.word, some f.ext⟩
  | .scanAdd p f => some ⟨.engine, p, 16, f.word, none⟩
  | .scanAddInit p f => some ⟨.engine, p, 16, f.word, some f.ext⟩
  | .scanMul p f => some ⟨.engine, p, 17, f.word, none⟩
  | .scanMulInit p f => some ⟨.engine, p, 17, f.word, some f.ext⟩
  | .scanMax p f => some ⟨.engine, p, 18, f.word, none⟩
  | .scanMaxInit p f => some ⟨.engine, p, 18, f.word, some f.ext⟩
  | .scanMin p f => some ⟨.engine, p, 19, f.word, none⟩
  | .scanMinInit p f => some ⟨.engine, p, 19, f.word, some f.ext⟩
  | .scanAffine p f => some ⟨.engine, p, 20, f.word, some f.ext⟩
  | .scanLse p f => some ⟨.engine, p, 21, f.word, some f.ext⟩
  | .scanMoment p f => some ⟨.engine, p, 22, f.word, none⟩
  | .scanMomentInit p f => some ⟨.engine, p, 22, f.word, some f.ext⟩
  | .scanUser p f => some ⟨.engine, p, 23, f.word, none⟩
  | .scanUserExt p f => some ⟨.engine, p, 23, f.word, some f.ext⟩
  | .scdef p f => some ⟨.engine, p, 24, f.word, some f.ext⟩
  | .mupd p f => some ⟨.engine, p, 32, f.word, none⟩
  | .mupdw p f => some ⟨.engine, p, 33, f.word, none⟩
  | .mupdwStream p f => some ⟨.engine, p, 33, f.word, some f.ext⟩
  | .mmerge p f => some ⟨.engine, p, 34, f.word, none⟩
  | .mmergeLanes p f => some ⟨.engine, p, 34, f.word, none⟩
  | .mclr p f => some ⟨.engine, p, 35, f.word, none⟩
  | .mdrain p f => some ⟨.engine, p, 36, f.word, some f.ext⟩
  | .mdrainNorm p f => some ⟨.engine, p, 36, f.word, some f.ext⟩
  | .mld p f => some ⟨.engine, p, 37, f.word, none⟩
  | .mst p f => some ⟨.engine, p, 38, f.word, none⟩
  | .cpy p f => some ⟨.engine, p, 48, f.word, some f.ext⟩
  | .cpy2d p f => some ⟨.engine, p, 49, f.word, none⟩
  | .fill p f => some ⟨.engine, p, 50, f.word, some f.ext⟩
  | .pub p f => some ⟨.fabric, p, 1, f.word, none⟩
  | .pubIndexed p f => some ⟨.fabric, p, 1, f.word, some f.ext⟩
  | .pubeos p f => some ⟨.fabric, p, 2, f.word, none⟩
  | .fetch p f => some ⟨.fabric, p, 3, f.word, none⟩
  | .fetchIndexed p f => some ⟨.fabric, p, 3, f.word, some f.ext⟩
  | .subq p f => some ⟨.fabric, p, 4, f.word, some f.ext⟩
  | .hbar p => some ⟨.fabric, p, 5, 0, none⟩
  | .hbarArrive p => some ⟨.fabric, p, 6, 0, none⟩
  | .hbarWait p => some ⟨.fabric, p, 7, 0, none⟩
  | .coll p f => some ⟨.fabric, p, 8, f.word, none⟩
  | .collRecv p f => some ⟨.fabric, p, 8, f.word, none⟩
  | .collW p f => some ⟨.fabric, p, 8, f.word, none⟩
  | .collRecvW p f => some ⟨.fabric, p, 8, f.word, none⟩
  | .cmark p f => some ⟨.fabric, p, 9, f.word, none⟩
  | .cmarkEnd p f => some ⟨.fabric, p, 9, f.word, none⟩
  | .csend p f => some ⟨.fabric, p, 10, f.word, none⟩
  | .crecv p f => some ⟨.fabric, p, 11, f.word, none⟩
  | .cbar p => some ⟨.fabric, p, 12, 0, none⟩
  | .configurationRestart => none
  | .deepTierLoss _ => none
  | .syncLocked => none
  | .emptyBundle _ => none
  | .unassignedOpcode _ _ => none
  | .rePlacement _ _ _ => none
  | .newHealthRecord _ => none
  | .stewardFrameFill _ _ => none

/-! ## Bundles -/

/-- A register a slot can name as its destination (10 R289, 06 R177). -/
inductive DestReg where
  | s (r : Fin 32) | v (r : Fin 32) | m (r : Fin 8) | p (r : Fin 8) | h (r : Fin 16) | q (r : Fin 16) | w (r : Fin 8)
  deriving DecidableEq, Repr

/-- The destination register an instruction names (06 R177, 10 R294); each names at most one. -/
def Instr.dest : Instr → Option DestReg
  | .powerGood _ => none
  | .enterP0 => none
  | .enterP1 => none
  | .enterS1 => none
  | .exitS1 => none
  | .enterS3 => none
  | .exitS3 _ => none
  | .powerRemoved => none
  | .auxPowerFail => none
  | .thermalThrottle => none
  | .thermalRecover => none
  | .wccSlew _ => none
  | .syncUnlocked => none
  | .peerDelayMeasure _ _ => none
  | .ltsFloor => none
  | .bloomAlternate => none
  | .scrubLine _ _ => none
  | .configEntryRewritten _ => none
  | .selftestWithdraw _ => none
  | .selftestStart _ => none
  | .selftestSkip _ => none
  | .selftestDone _ _ => none
  | .failedInService _ => none
  | .freezeTimeout _ => none
  | .retryRequest _ _ => none
  | .linkDead _ _ => none
  | .publicationArrival _ _ => none
  | .requestArrival _ _ => none
  | .requestResume _ => none
  | .gateTileArrival _ => none
  | .heldTileAccept _ => none
  | .missReplyArrival _ => none
  | .agentRequest _ => none
  | .agentFetchDone _ _ => none
  | .segmentVerify _ => none
  | .backWrite _ => none
  | .backCompletion _ => none
  | .configWrite _ => none
  | .collectiveChunkArrival _ _ => none
  | .chunkRefetch _ => none
  | .markerArrival _ _ => none
  | .carryMessageArrival _ _ => none
  | .drainWave _ => none
  | .cfgswap _ => none
  | .cfgswapForce _ => none
  | .planeSwap _ => none
  | .congestionTimeout _ _ => none
  | .probe _ => none
  | .probeWave _ => none
  | .verdictRead => none
  | .memoryRequestArrival _ => none
  | .spillReturn _ => none
  | .requestServe _ => none
  | .lineFill _ _ => none
  | .acceptanceToken _ => none
  | .completionToken _ => none
  | .cancellation _ => none
  | .tilePrepare _ => none
  | .tileCommit _ => none
  | .walkRequest _ => none
  | .walkComplete _ => none
  | .pagerFaultToken _ => none
  | .pagerResolve _ => none
  | .shootdown _ _ _ => none
  | .shootdownComplete => none
  | .frameReceive _ _ => none
  | .frameResendTimeout _ _ _ => none
  | .peerLost _ => none
  | .instructionFetch _ => none
  | .fixedResultLand _ => none
  | .registerFill _ _ => none
  | .queueOpStart _ _ => none
  | .engineOpComplete _ _ _ => none
  | .streamerStart _ => none
  | .streamerComplete _ _ => none
  | .landingStart _ => none
  | .landingComplete _ => none
  | .retireComplete _ => none
  | .walkerOpen _ => none
  | .dispatch _ => none
  | .herdDispatch _ => none
  | .triggerCount _ => none
  | .eosRequest _ => none
  | .eosEmit _ => none
  | .barrierArrival _ => none
  | .barrierTimeout _ => none
  | .npsOverrun _ => none
  | .deferredFault _ => none
  | .resume _ => none
  | .retranslate _ => none
  | .endFiring _ => none
  | .freezeRequest _ => none
  | .arm _ => none
  | .cancel _ => none
  | .switchCommit _ => none
  | .switchStart _ => none
  | .saveDone _ => none
  | .restoreDone _ => none
  | .switchOverdue _ => none
  | .openCfg _ => none
  | .arg _ => none
  | .inject _ => none
  | .go _ => none
  | .close _ => none
  | .invalidEntry _ => none
  | .heldEntryResume _ => none
  | .tailWrite _ _ => none
  | .ringWrite _ _ => none
  | .errClear _ => none
  | .registerWrite _ _ => none
  | .lockInterface _ _ => none
  | .keyDelivery _ _ => none
  | .startInterface _ => none
  | .stopInterface _ => none
  | .getDeviceInterfaceReport _ => none
  | .tdispUnsupported _ => none
  | .snapshotChange _ _ => none
  | .keyTableError _ => none
  | .debugAttachTrace _ => none
  | .debugAttachHalt _ => none
  | .debugSessionEnd _ => none
  | .attestationRequest _ => none
  | .add _ f => some (.s f.d)
  | .sub _ f => some (.s f.d)
  | .addi _ f => some (.s f.d)
  | .addiExt _ f => some (.s f.d)
  | .and _ f => some (.s f.d)
  | .or _ f => some (.s f.d)
  | .xor _ f => some (.s f.d)
  | .andn _ f => some (.s f.d)
  | .shl _ f => some (.s f.d)
  | .shr _ f => some (.s f.d)
  | .sra _ f => some (.s f.d)
  | .shli _ f => some (.s f.d)
  | .shri _ f => some (.s f.d)
  | .srai _ f => some (.s f.d)
  | .mul _ f => some (.s f.d)
  | .mulh _ f => some (.s f.d)
  | .div _ f => some (.s f.d)
  | .rem _ f => some (.s f.d)
  | .min _ f => some (.s f.d)
  | .max _ f => some (.s f.d)
  | .clz _ f => some (.s f.d)
  | .ctz _ f => some (.s f.d)
  | .popc _ f => some (.s f.d)
  | .bswap _ f => some (.s f.d)
  | .ext _ f => some (.s f.d)
  | .ins _ f => some (.s f.d)
  | .li _ f => some (.s f.d)
  | .liExt _ f => some (.s f.d)
  | .lih _ f => some (.s f.d)
  | .lihExt _ f => some (.s f.d)
  | .mov _ f => some (.s f.d)
  | .sel _ f => some (.s f.d)
  | .lea _ f => some (.s f.d)
  | .madd _ f => some (.s f.d)
  | .clamp _ f => some (.s f.d)
  | .cmpEq _ f => some (.p f.pd)
  | .cmpNe _ f => some (.p f.pd)
  | .cmpLt _ f => some (.p f.pd)
  | .cmpLe _ f => some (.p f.pd)
  | .cmpiEq _ f => some (.p f.pd)
  | .cmpiEqExt _ f => some (.p f.pd)
  | .cmpiNe _ f => some (.p f.pd)
  | .cmpiNeExt _ f => some (.p f.pd)
  | .cmpiLt _ f => some (.p f.pd)
  | .cmpiLtExt _ f => some (.p f.pd)
  | .cmpiLe _ f => some (.p f.pd)
  | .cmpiLeExt _ f => some (.p f.pd)
  | .pand _ f => some (.p f.pd)
  | .por _ f => some (.p f.pd)
  | .pxor _ f => some (.p f.pd)
  | .pnot _ f => some (.p f.pd)
  | .pmov _ f => some (.p f.pd)
  | .br _ _ => none
  | .brc _ _ => none
  | .brcExt _ _ => none
  | .jr _ _ => none
  | .call _ _ => some (.s 31)
  | .ret _ => none
  | .lp _ _ => none
  | .lpx _ _ => none
  | .xwait _ _ => none
  | .twait _ _ => none
  | .retire _ => none
  | .trigger _ => none
  | .trap _ _ => none
  | .brk _ _ => none
  | .npsBegin _ => none
  | .npsEnd _ => none
  | .srd _ f => some (.s f.d)
  | .swr _ _ => none
  | .cfgq _ f => some (.s f.d)
  | .wccr _ f => some (.s f.d)
  | .vadd _ f => some (.v f.d)
  | .vaddMsk _ f _ => some (.v f.d)
  | .vsub _ f => some (.v f.d)
  | .vsubMsk _ f _ => some (.v f.d)
  | .vmul _ f => some (.v f.d)
  | .vmulMsk _ f _ => some (.v f.d)
  | .vfma _ f => some (.v f.d)
  | .vfms _ f => some (.v f.d)
  | .vfnma _ f => some (.v f.d)
  | .vmin _ f => some (.v f.d)
  | .vminMsk _ f _ => some (.v f.d)
  | .vmax _ f => some (.v f.d)
  | .vmaxMsk _ f _ => some (.v f.d)
  | .vabs _ f => some (.v f.d)
  | .vabsMsk _ f _ => some (.v f.d)
  | .vneg _ f => some (.v f.d)
  | .vnegMsk _ f _ => some (.v f.d)
  | .vcmpEq _ f => some (.m f.d)
  | .vcmpEqMsk _ f _ => some (.m f.d)
  | .vcmpLt _ f => some (.m f.d)
  | .vcmpLtMsk _ f _ => some (.m f.d)
  | .vcmpLe _ f => some (.m f.d)
  | .vcmpLeMsk _ f _ => some (.m f.d)
  | .vcmpUn _ f => some (.m f.d)
  | .vcmpUnMsk _ f _ => some (.m f.d)
  | .vsel _ f => some (.v f.d)
  | .vselMsk _ f _ => some (.v f.d)
  | .vclamp _ f => some (.v f.d)
  | .viadd _ f => some (.v f.d)
  | .viaddMsk _ f _ => some (.v f.d)
  | .visub _ f => some (.v f.d)
  | .visubMsk _ f _ => some (.v f.d)
  | .vimul _ f => some (.v f.d)
  | .vimulMsk _ f _ => some (.v f.d)
  | .vimin _ f => some (.v f.d)
  | .viminMsk _ f _ => some (.v f.d)
  | .vimax _ f => some (.v f.d)
  | .vimaxMsk _ f _ => some (.v f.d)
  | .vand _ f => some (.v f.d)
  | .vandMsk _ f _ => some (.v f.d)
  | .vor _ f => some (.v f.d)
  | .vorMsk _ f _ => some (.v f.d)
  | .vxor _ f => some (.v f.d)
  | .vxorMsk _ f _ => some (.v f.d)
  | .vandn _ f => some (.v f.d)
  | .vandnMsk _ f _ => some (.v f.d)
  | .vshl _ f => some (.v f.d)
  | .vshlMsk _ f _ => some (.v f.d)
  | .vshr _ f => some (.v f.d)
  | .vshrMsk _ f _ => some (.v f.d)
  | .vsra _ f => some (.v f.d)
  | .vsraMsk _ f _ => some (.v f.d)
  | .vicmpEq _ f => some (.m f.d)
  | .vicmpEqMsk _ f _ => some (.m f.d)
  | .vicmpLt _ f => some (.m f.d)
  | .vicmpLtMsk _ f _ => some (.m f.d)
  | .vicmpLe _ f => some (.m f.d)
  | .vicmpLeMsk _ f _ => some (.m f.d)
  | .vbcast _ f => some (.v f.d)
  | .vbcastMsk _ f _ => some (.v f.d)
  | .vext _ f => some (.s f.d)
  | .vins _ f => some (.v f.d)
  | .vperm _ f => some (.v f.d)
  | .vpermMsk _ f _ => some (.v f.d)
  | .vshift _ f => some (.v f.d)
  | .vshiftMsk _ f _ => some (.v f.d)
  | .vrot _ f => some (.v f.d)
  | .vrotMsk _ f _ => some (.v f.d)
  | .vsum _ f => some (.v f.d)
  | .vsumMsk _ f _ => some (.v f.d)
  | .vmaxr _ f => some (.v f.d)
  | .vmaxrMsk _ f _ => some (.v f.d)
  | .vminr _ f => some (.v f.d)
  | .vminrMsk _ f _ => some (.v f.d)
  | .mand _ f => some (.m f.d)
  | .mor _ f => some (.m f.d)
  | .mxor _ f => some (.m f.d)
  | .mnot _ f => some (.m f.d)
  | .mpop _ f => some (.s f.d)
  | .mfirst _ f => some (.s f.d)
  | .vvalid _ f => some (.m f.d)
  | .vmov _ f => some (.v f.d)
  | .vmovMsk _ f _ => some (.v f.d)
  | .vmovAnd _ f => some (.v f.d)
  | .vmovAndMsk _ f _ => some (.v f.d)
  | .vmovSet _ f => some (.v f.d)
  | .vmovSetMsk _ f _ => some (.v f.d)
  | .vrcp _ f => some (.v f.d)
  | .vrcpMsk _ f _ => some (.v f.d)
  | .vrsqrt _ f => some (.v f.d)
  | .vrsqrtMsk _ f _ => some (.v f.d)
  | .vsqrt _ f => some (.v f.d)
  | .vsqrtMsk _ f _ => some (.v f.d)
  | .vexp2 _ f => some (.v f.d)
  | .vexp2Msk _ f _ => some (.v f.d)
  | .vlog2 _ f => some (.v f.d)
  | .vlog2Msk _ f _ => some (.v f.d)
  | .vtanh _ f => some (.v f.d)
  | .vtanhMsk _ f _ => some (.v f.d)
  | .vsigm _ f => some (.v f.d)
  | .vsigmMsk _ f _ => some (.v f.d)
  | .vrand _ f => some (.v f.d)
  | .vrandMsk _ f _ => some (.v f.d)
  | .vcvt _ f => some (.v f.d)
  | .vpack _ f => some (.v f.d)
  | .vunpack _ f => some (.v f.d)
  | .vscale _ f => some (.v f.d)
  | .vscaleMsk _ f _ => some (.v f.d)
  | .ld _ f => some (.s f.d)
  | .ldExt _ f => some (.s f.d)
  | .st _ _ => none
  | .stExt _ _ => none
  | .vld _ f => some (.v f.d)
  | .vldExt _ f => some (.v f.d)
  | .vst _ _ => none
  | .vstExt _ _ => none
  | .vldm _ f => some (.v f.d)
  | .vldmExt _ f => some (.v f.d)
  | .vstm _ _ => none
  | .vstmExt _ _ => none
  | .gld _ f => some (.s f.d)
  | .gst _ _ => none
  | .amoAdd _ f => some (.s f.d)
  | .amoMin _ f => some (.s f.d)
  | .amoMax _ f => some (.s f.d)
  | .amoSwap _ f => some (.s f.d)
  | .amoCas _ f => some (.s f.d)
  | .amoFadd _ f => some (.s f.d)
  | .xlat _ f => some (.h f.h)
  | .hinv _ f => some (.h f.h)
  | .tld _ _ => none
  | .tldTimed _ _ => none
  | .tst _ _ => none
  | .tstTimed _ _ => none
  | .pf _ _ => none
  | .fenceG _ => none
  | .fenceE _ => none
  | .fenceN _ => none
  | .fenceA _ => none
  | .bankmode _ _ => none
  | .cinv _ _ => none
  | .cinva _ => none
  | .qset _ f => some (.q f.q)
  | .qget _ f => some (.s f.d)
  | .mma _ _ => none
  | .mmag _ _ => none
  | .aalloc _ _ => none
  | .afree _ _ => none
  | .aown _ _ => none
  | .aownRel _ _ => none
  | .aclr _ _ => none
  | .adrain _ _ => none
  | .aread _ f => some (.v f.d)
  | .scanAdd _ _ => none
  | .scanAddInit _ _ => none
  | .scanMul _ _ => none
  | .scanMulInit _ _ => none
  | .scanMax _ _ => none
  | .scanMaxInit _ _ => none
  | .scanMin _ _ => none
  | .scanMinInit _ _ => none
  | .scanAffine _ _ => none
  | .scanLse _ _ => none
  | .scanMoment _ _ => none
  | .scanMomentInit _ _ => none
  | .scanUser _ _ => none
  | .scanUserExt _ _ => none
  | .scdef _ _ => none
  | .mupd _ f => some (.w f.w)
  | .mupdw _ f => some (.w f.w)
  | .mupdwStream _ f => some (.w f.w)
  | .mmerge _ f => some (.w f.w)
  | .mmergeLanes _ f => some (.w f.w)
  | .mclr _ f => some (.w f.w)
  | .mdrain _ f => some (.v f.d)
  | .mdrainNorm _ _ => none
  | .mld _ f => some (.w f.w)
  | .mst _ _ => none
  | .cpy _ _ => none
  | .cpy2d _ _ => none
  | .fill _ _ => none
  | .pub _ _ => none
  | .pubIndexed _ _ => none
  | .pubeos _ _ => none
  | .fetch _ _ => none
  | .fetchIndexed _ _ => none
  | .subq _ f => some (.s f.d)
  | .hbar _ => none
  | .hbarArrive _ => none
  | .hbarWait _ => none
  | .coll _ _ => none
  | .collRecv _ _ => none
  | .collW _ _ => none
  | .collRecvW _ f => some (.w f.a)
  | .cmark _ _ => none
  | .cmarkEnd _ _ => none
  | .csend _ _ => none
  | .crecv _ f => some (.v f.v)
  | .cbar _ => none
  | .configurationRestart => none
  | .deepTierLoss _ => none
  | .syncLocked => none
  | .emptyBundle _ => none
  | .unassignedOpcode _ _ => none
  | .rePlacement _ _ _ => none
  | .newHealthRecord _ => none
  | .stewardFrameFill _ _ => none

/-- A decoded bundle: the header's fields (10 Table 10-1), its length in bytes and its instructions by position. -/
structure Bundle where
  nopc  : Fin 16
  rmark : Bool
  split : Fin 8
  len   : Nat
  slots : List (Fin 8 × Instr)
  deriving DecidableEq, Repr

/-- A little-endian number of bytes (00 R12). -/
def leNat : List Byte → Nat
  | [] => 0
  | b :: bs => b.toNat + 256 * leNat bs

/-- What cannot be a bundle: bytes that end before it does, or a slot with a fault (10 R281, R294). -/
inductive BundleError where
  | short
  | slot (pos : Fin 8) (e : DecodeError)
  /-- two slots of one group name one destination; `pos` is the higher (06 R177) -/
  | duplicate (pos : Fin 8)
  /-- a loop's END does not lie beyond its start (11 R326) -/
  | loopEnd
  deriving DecidableEq, Repr

/-- The slot words of the positions of a MASK, low to high, from the bytes after the header (10 R280, R288). -/
def slotWords : List (Fin 8) → List Byte → Option (List (Fin 8 × Nat × Option Nat) × Nat)
  | [], _ => some ([], 0)
  | pos :: ps, bs =>
    if bs.length < 4 then none
    else
      let w := leNat (bs.take 4)
      if w / 2147483648 % 2 = 1 then
        if bs.length < 8 then none
        else
          match slotWords ps (bs.drop 8) with
          | none => none
          | some (ws, n) => some ((pos, w, some (leNat ((bs.drop 4).take 4))) :: ws, n + 8)
      else
        match slotWords ps (bs.drop 4) with
        | none => none
        | some (ws, n) => some ((pos, w, none) :: ws, n + 4)

/-- The positions of a MASK, low to high (10 Table 10-1). -/
def maskSlots (mask : Nat) : List (Fin 8) :=
  [(0 : Fin 8), 1, 2, 3, 4, 5, 6, 7].filter fun k => mask / 2 ^ k.val % 2 = 1

/-- The position belongs to the first issue group (10 R282). -/
def inFirst (split : Fin 8) (pos : Fin 8) : Bool := split == 0 || decide (pos < split)

/-- A loop instruction's END as an offset in bytes from its bundle (11 R326). -/
def loopOffset : Instr → Option Nat
  | .lp _ f => some (2 * f.stop.toNat)
  | .lpx _ f => some (2 * f.stop.toNat)
  | _ => none

/-- The instruction's END, if it is a loop, lies within its bundle of `len` bytes (11 R326). -/
def badLoop (len : Nat) (i : Instr) : Bool :=
  match loopOffset i with
  | some e => decide (e ≤ len)
  | none => false

/-- The destination of an instruction with its group. -/
def groupDest (split : Fin 8) (pos : Fin 8) (i : Instr) : Option (Bool × DestReg) :=
  match i.dest with
  | some d => some (inFirst split pos, d)
  | none => none

/-- Some slot of `seen` is this destination of this group. -/
def alreadyNamed (seen : List (Bool × DestReg)) : Option (Bool × DestReg) → Bool
  | some d => seen.contains d
  | none => false

/-- Decode every slot word, low to high: the lowest position with a fault of R294 stops. `seen` are the destinations that lower
slots name, with their groups; a second one faults the higher slot (06 R177, log 22). -/
def decodeSlots (split : Fin 8) (len : Nat) :
    List (Bool × DestReg) → List (Fin 8 × Nat × Option Nat) → Except BundleError (List (Fin 8 × Instr))
  | _, [] => .ok []
  | seen, (pos, w, x) :: ws =>
    match decodeSlot pos w x with
    | .error e => .error (.slot pos e)
    | .ok i =>
      if alreadyNamed seen (groupDest split pos i) then .error (.duplicate pos)
      else if badLoop len i then .error .loopEnd
      else
        match decodeSlots split len ((groupDest split pos i).toList ++ seen) ws with
        | .error e => .error e
        | .ok is_ => .ok ((pos, i) :: is_)

/-- The header's half-word: MASK, SPLIT, RMARK and NOPC (10 Table 10-1). -/
def decodeBundle (bs : List Byte) : Except BundleError Bundle :=
  if bs.length < 2 then .error .short
  else
    let h := leNat (bs.take 2)
    let split : Fin 8 := ⟨h / 256 % 8, by omega⟩
    match slotWords (maskSlots (h % 256)) (bs.drop 2) with
    | none => .error .short
    | some (ws, n) =>
      match decodeSlots split (n + 2) [] ws with
      | .error e => .error e
      | .ok is_ =>
        .ok { nopc := ⟨h / 4096 % 16, by omega⟩, rmark := decide (h / 2048 % 2 = 1), split, len := n + 2, slots := is_ }

/-- The slot a bundle's fault names (10 R294, 11 R326): a loop's is BR. -/
def BundleError.pos : BundleError → Fin 8
  | .short => 0
  | .slot p _ => p
  | .duplicate p => p
  | .loopEnd => 7

/-- The bytes of a 32-bit word (00 R12). -/
def wordBytes (w : Nat) : List Byte := [BitVec.ofNat 8 w, BitVec.ofNat 8 (w / 256), BitVec.ofNat 8 (w / 65536), BitVec.ofNat 8 (w / 16777216)]

/-- The bytes of a bundle with one slot word, given its header's other fields (10 R280). -/
def oneSlotBytes (pos : Fin 8) (w : Nat) (x : Option Nat) : List Byte :=
  [BitVec.ofNat 8 (2 ^ pos.val), 0] ++ wordBytes w ++ (match x with | some x => wordBytes x | none => [])

/-! ## The opcode table's words -/

/-- The slot positions tried, in order, for a word that does not say its slot (log 9). -/
def tableOrder : List (Fin 8) := [3, 0, 4, 7, 5, 6]

/-- The extension word of a table word of `nbits` bits: zero where EXT is set and the word gives none. -/
def tableExt (nbits w : Nat) : Option Nat :=
  if w / 2147483648 % 2 = 1 then some (if nbits ≤ 32 then 0 else w / 4294967296 % 4294967296) else none

/-- The first position of a list at which a word is an instruction. -/
def firstSlot (w : Nat) (x : Option Nat) : List (Fin 8) → Option (Fin 8 × Instr)
  | [] => none
  | p :: ps =>
    match decodeSlot p w x with
    | .ok i => some (p, i)
    | .error _ => firstSlot w x ps

/-- The position and the instruction of a table word (log 9). -/
def tableSlot (nbits w : Nat) : Option (Fin 8 × Instr) := firstSlot (w % 4294967296) (tableExt nbits w) tableOrder

/-- The instruction this decoder reads from a table word. -/
def decodeTableWord (nbits w : Nat) : Option Instr := (tableSlot nbits w).map (·.2)

end

end Sys2Proof
end

