-- ==== Sys2Proof/Machine/State.lean ====
section
/-! DEFINITION. Sys2Proof/Machine/State.lean: the state of one YW-3 module as plain data: every register, memory, queue and record the
manual names, the faults and refusals, and the state after reset. -/

namespace Sys2Proof.Machine

/-! ## Memory -/

/-- A byte memory: (address, byte) pairs, addresses strictly rising, no byte equal to 0, which is what an unlisted address
reads as (log 2). -/
abbrev Memory := List Host.Cell

/-- Addresses strictly rise above `lo` and no entry is 0. -/
def Memory.wfFrom : Nat → Memory → Bool
  | _, [] => true
  | lo, (a, b) :: m => decide (lo ≤ a) && b != 0 && wfFrom (a + 1) m

/-- The canonical form of a memory (log 2). -/
def Memory.wf (m : Memory) : Bool := m.wfFrom 0

/-! ## Streams, handles and operands -/

/-- The size of a page (06 R204). -/
inductive PageSize where
  | k64 | m2 | g2
  deriving DecidableEq, Repr

/-- A handle register (06 R204): page base addresses, physical and virtual. -/
structure Handle where
  valid : Bool
  size  : PageSize
  rd    : Bool
  wr    : Bool
  pbase : Nat
  vpage : Nat
  deriving DecidableEq, Repr

/-- A handle that names nothing (06 Table 6-6). -/
def Handle.none_ : Handle := { valid := false, size := .k64, rd := false, wr := false, pbase := 0, vpage := 0 }

/-- A stream descriptor in its two words (13 Table 13-1). -/
structure Desc where
  lo : Word
  hi : Word
  deriving DecidableEq, Repr

/-- An interval of local addresses, both ends included; 32-byte granules in the RSB (06 R200). -/
structure Span where
  lo : Nat
  hi : Nat
  deriving DecidableEq, Repr

/-! ## What a slot does when its group commits: every effect is data -/

/-- A write of a register: the lanes or bits it covers are part of it (12 R338). -/
inductive RegWrite where
  | s (r : Fin 32) (x : Word)
  | v (r : Fin 32) (mask : BitVec 16) (x : Token)
  | m (r : Fin 8) (mask : BitVec 16) (x : BitVec 16)
  | p (r : Fin 8) (x : Bool)
  | h (r : Fin 16) (x : Handle)
  | q (r : Fin 16) (x : Desc)
  | w (r : Fin 8) (x : Moments)
  deriving DecidableEq, Repr

/-- A fixed-latency result in flight (06 R178) and in the replay buffer at a freeze (08 R252): advancing cycles to run, and
whether it was issued before the current mark (08 R240). -/
structure InFlight where
  write : RegWrite
  left  : Nat
  old   : Bool
  deriving DecidableEq, Repr

/-- A long-latency fill that has not landed (06 R181): the value once it has returned. -/
structure Fill where
  reg   : FullReg
  value : Option RegWrite
  old   : Bool
  deriving DecidableEq, Repr

/-- A stream operand copied at issue (13 R358). -/
abbrev StreamArg := Desc

/-- Operator of a scan (13 Table 13-2, 09 Table 9-7). -/
inductive ScanKind where
  | add | mul | max | min | affine | lse | moment | user
  deriving DecidableEq, Repr

/-- A micro-operation of the user operator (13 R370). -/
structure MicroOp where
  op : Nat
  dst : Nat
  sa : Nat
  sb : Nat
  sc : Nat
  deriving DecidableEq, Repr

/-- The init value of a scan, read at issue (13 R367): its components as tokens. -/
abbrev ScanInit := Option (List Token)

/-- A queued engine operation with the operands it read at issue (13 R360, R358). -/
inductive EngOp where
  | mma (a b : Desc) (first : Nat) (nblocks : Nat) (ovw : Bool) (rows : Option Token)
  | accNote
  | aclr (first last : Nat)
  | adrain (d : Desc) (first last : Nat) (clr : Bool)
  | aread (bank row : Nat) (reg : Fin 32)
  | scan (kind : ScanKind) (x y : Desc) (x2 y2 : Option Desc) (herd : Bool) (init : ScanInit)
  | scdef (ops : List MicroOp)
  | csend (t : Token) (down : Bool)
  | crecv (reg : Fin 32) (down : Bool)
  | cbar
  | mupd (w : Fin 8) (from_ : Moments) (x : Desc) (weights : Option Desc) (weight : Lane)
  | mmerge (w : Fin 8) (a b : Moments)
  | mmergeLanes (w : Fin 8) (a : Moments)
  | mclr (w : Fin 8)
  | mdrain (reg : Fin 32) (kind : Nat) (a : Moments) (eps : Lane)
  | mdrainNorm (y x : Desc) (a : Moments) (eps : Lane) (g b : Token)
  | mld (w : Fin 8) (addr : Nat)
  | mst (a : Moments) (addr : Nat)
  | bankmode (bank : Nat) (mode : Nat)
  deriving DecidableEq, Repr

/-- A command of the quad streamer (06 R196). -/
inductive CopyOp where
  | tld (d : Desc) (va : Nat) (h : Fin 16) (page : Handle)
  | tst (d : Desc) (va : Nat) (h : Fin 16) (page : Handle)
  | cpy (dst src len : Nat)
  | cpy2d (d s : Desc)
  | fill (d : Desc) (x : Word)
  deriving DecidableEq, Repr

/-- The identifier channel of a streamer command (06 Table 6-5). -/
def CopyOp.channel : CopyOp → Fin 4
  | .tld .. => 0 | .tst .. => 1 | .cpy .. | .cpy2d .. | .fill .. => 2

/-- What an RSB entry stands for (06 R200). -/
inductive RsbOwner where
  | engine (q : Queue) | copy | landing | bankmode | fabric | receive
  deriving DecidableEq, Repr

/-- An entry of the range scoreboard (06 R200, R202): its intervals as recorded; a released interval is none. -/
structure RsbEntry where
  id    : Nat
  owner : RsbOwner
  read0 : Option Span
  read1 : Option Span
  write : Option Span
  deriving DecidableEq, Repr

/-- A row operand of a scan (09 R278): each lane's components, or none. -/
abbrev ScanRow := List (Option (List Lane))

/-- An engine operation in its queue (06 R193): its RSB entry, whether it runs, whether it holds a reported fault; for a herd
scan how far its exchange is (13 R369): the stage, Q[g][j] and G[g]. -/
structure EngJob where
  op      : EngOp
  rsb     : Option Nat
  started : Bool
  faulted : Bool
  stage   : Nat
  q       : ScanRow
  g       : ScanRow
  deriving DecidableEq, Repr

/-- A streamer command (06 R196 to R199): identifier, effective time, RSB entry, start order; the request it performs. -/
structure CopyJob where
  op      : CopyOp
  rsb     : Option Nat
  xid     : Word
  time    : Word
  started : Bool
  done    : Bool
  req     : Option Nat
  deriving DecidableEq, Repr

/-- An operation that waits in the fabric port (14 R393). -/
inductive FxOp where
  | pub (name : BitVec 64) (tag : BitVec 16) (d : Desc) (back live : Bool) (pb : Option Word)
  | eosRequest (tensor : BitVec 20)
  | fetch (name : BitVec 64) (tag : BitVec 16) (xid : Word)
  | subq (reg : Fin 32) (name : BitVec 64) (tag : BitVec 16) (void : Bool)
  | arrive (phase : Nat)
  | coll (vsn : Fin 256) (d : Desc) (first : BitVec 16) (next : Nat)
  | collW (vsn : Fin 256) (x : Moments) (index : BitVec 16)
  | cmark (vsn : Fin 256) (last : Bool)
  | trigger
  deriving DecidableEq, Repr

/-- An operation in the fabric port with its RSB entry. -/
structure FxJob where
  op  : FxOp
  rsb : Option Nat
  deriving DecidableEq, Repr

/-- A receive that waits for chunks (14 R400). -/
structure Recv where
  vsn    : Fin 256
  tag    : BitVec 16
  into   : Sum (Desc × Word × Nat) (Fin 8)
  landed : Nat
  deriving DecidableEq, Repr

/-- A `fetch` in progress (14 R396); `missed`: a miss reply has come, and a handler's reply is awaited. -/
structure FetchJob where
  xid   : Word
  name  : BitVec 64
  tag   : BitVec 16
  desc  : Desc
  rsb   : Option Nat
  missed : Bool
  deriving DecidableEq, Repr

/-- A gated store (07 R224): its bytes by local address, or the request of a `gst`. -/
inductive Gated where
  | scratch (bytes : List (Nat × Byte))
  | global (va pa : Nat) (size : Nat) (value : Word) (via : Handle)
  deriving DecidableEq, Repr

/-- An entry group of the store gate: the store and the rows it takes (08 R239). -/
structure GateEntry where
  store : Gated
  rows  : Nat
  deriving DecidableEq, Repr

/-- A condition that holds the next issue group (07 R229, 11 R329, R330, 14 R398). -/
inductive Wait where
  | globals | engines | fabric
  | xdone (ch : Fin 4) (id : Word)
  | wcc (t : Word)
  | arrived
  | phase
  /-- ends the leases of the CACHE-mode banks once the others hold -/
  | leases
  deriving DecidableEq, Repr

/-- The record of a trap as its fields (08 Table 8-2). -/
structure TrapInfo where
  code   : Byte
  kind   : Fin 4
  slot   : Fin 8
  addr   : Word
  space  : Fin 4
  access : Fin 8
  xch    : Fin 8
  seq    : BitVec 16
  xid    : Word
  subidx : Fin 16
  deriving DecidableEq, Repr

/-- One effect of a slot that issues; committed with its group (06 R177). -/
inductive Effect where
  /-- a result of fixed latency -/
  | result (w : RegWrite) (lat : Nat)
  /-- a long-latency destination becomes empty -/
  | empty (reg : FullReg)
  /-- a fill whose value is known at issue (a slow `srd`) -/
  | fill (reg : FullReg) (w : RegWrite)
  | flags (f : BitVec 5)
  | gate (e : GateEntry)
  /-- control goes to `target` at the boundary; `pops` where R328 applies -/
  | jump (target : Nat) (pops : Bool)
  | loopPush (start stop : Nat) (count : Word)
  | setFpcr (x : Word)
  | setKey (k : Fin 4) (x : Word)
  | wait (w : Wait)
  | retire
  | trigger
  | soft (code : Byte) (imm : BitVec 16)
  | nps (open_ : Bool)
  | accMap (x : BitVec 64)
  | accOwn (x : BitVec 64)
  | bankmode (bank mode : Nat)
  | engine (q : Queue) (op : EngOp) (r0 r1 w : Option Span)
  | copy (op : CopyOp) (time : Word) (r w : Option Span)
  | fabric (op : FxOp) (r : Option Span)
  | fetch (name : BitVec 64) (tag : BitVec 16) (d : Desc) (void : Bool) (w : Option Span)
  | recv (vsn : Fin 256) (d : Desc) (n : Nat) (w : Option Span)
  | recvW (vsn : Fin 256) (w : Fin 8)
  /-- a scalar load or AMO through a handle -/
  | load (reg : Fin 32) (ty : Ty) (va pa : Nat) (h : Handle)
  | amo (op : Nat) (reg : Fin 32) (ty : Ty) (va pa : Nat) (h : Handle) (b c : Word)
  | prefetch (va pa : Nat) (h : Handle)
  | xlat (h : Fin 16) (va : Nat)
  | drop (line : Nat)
  | dropAll
  | pubTokens (k : Nat) (n : Nat)
  | herdArrive
  deriving DecidableEq, Repr

/-! ## Tasks and configurations (05, 10): the records as the loader installs them -/

/-- A coordinate field of a subscription or publication record (05 R151). -/
structure Coord where
  sel : Fin 8
  mul : Int
  off : Int
  deriving DecidableEq, Repr

/-- A subscription or publication record (05 Table 5-5, R152); `ends` is the loader's own: the record's stream is one that ends, and
EXPECT counts it (03 R104, log 12). -/
structure NameRec where
  tensor  : BitVec 20
  pull    : Bool
  tagrule : Fin 4
  tagoff  : BitVec 16
  rate    : Nat
  scales  : Bool
  coords  : List Coord
  widths  : List Nat
  lbase   : Nat
  lsize   : Nat
  sbase   : Nat
  back    : Bool
  live    : Bool
  ends    : Bool
  deriving DecidableEq, Repr

/-- A level of a loop nest (05 Table 5-4). -/
structure Level where
  lo    : Int
  step  : Int
  count : Nat
  blk   : Nat
  deriving DecidableEq, Repr

/-- An entry of a live-range table (08 R253): addresses covered, ranges saved. -/
structure LiveRange where
  pclo   : Nat
  pchi   : Nat
  ranges : List (Nat × Nat)
  deriving DecidableEq, Repr

/-- A task: descriptor, pen, loop nest, records, code and data as placed (05 Tables 5-2 to 5-5); `rated`: every task of its graph is under strict
admission (05 R170). -/
structure Task where
  num      : Nat
  prio     : Nat
  weight   : Nat
  herd     : Bool
  hsize    : Nat
  graph    : Nat
  strict   : Bool
  codeBase : Nat
  codeEnd  : Nat
  entry    : Nat
  levels   : List Level
  order    : Nat
  subs     : List NameRec
  pubs     : List NameRec
  window   : Nat
  slots    : Nat
  lstride  : Nat
  after    : List Nat
  tagbase  : BitVec 16
  btmo     : Nat
  live     : Option (List LiveRange)
  members  : List Nat
  gate     : Nat
  psblk    : Nat
  preblk   : Nat
  modes    : List Nat
  sweight  : Nat
  carry    : Bool
  vsns     : List (Fin 256)
  rated    : Bool := false
  code     : List (Nat × Byte)
  data     : List (Nat × Byte)
  deriving DecidableEq, Repr

/-- A name-match entry (03 Table 3-9). -/
structure MatchEntry where
  value : BitVec 64
  mask  : BitVec 64
  ports : List (Fin 6)
  keep  : Bool
  fetch : Option (Fin 6)
  deriving DecidableEq, Repr

/-- A facet of a VSN entry (03 R98): `combine` is the operator of a COMBINE facet. -/
structure Facet where
  combine : Option (Fin 4)
  inputs  : List (Fin 6)
  out     : List (Fin 6)
  deriving DecidableEq, Repr

/-- One router's part of a configuration plane (03 R103): match table, default port and target, VSN entries, EXPECT, and the FIFO
banks that extend an input queue for a tensor's stream (05 R169, R434). -/
structure RouterCfg where
  table    : List MatchEntry
  dport    : Fin 6
  target   : Nat
  vsns     : List (Fin 256 × List Facet)
  expect   : Nat
  buffer   : List (BitVec 20 × Fin 6 × Nat)
  deriving DecidableEq, Repr

/-- A tensor directory entry (02 Table 2-4), in use where VALID, with the manifest of a SIGNED tensor (02 R65). -/
structure DirEntry where
  ns       : BitVec 8
  tensor   : BitVec 20
  deep     : Bool
  signed   : Bool
  bad      : Bool
  valid    : Bool
  fmt      : Fmt
  tokm1    : Nat
  base     : Nat
  tstride  : Nat
  widths   : List Nat
  strides  : List Nat
  scale    : Nat
  manifest : List (BitVec 384)
  verified : List Nat
  deriving DecidableEq, Repr

/-- Where an argument word goes (10 R301): a level's field, a record's offset, a directory entry's field. -/
inductive ArgTarget where
  | lo (task level : Nat) | step (task level : Nat) | count (task level : Nat)
  | subOff (task sub coord : Nat) | pubOff (task pub coord : Nat)
  | dirBase (dir : Nat) | dirScale (dir : Nat)
  deriving DecidableEq, Repr

/-- A partition's slice list (02 Table 2-2): N, and LIST's 64 entries. -/
structure SliceList where
  n    : Fin 8
  list : Vector (Fin 128) 64
  deriving DecidableEq, Repr

/-- The slices a list names, each once: its first 2^N entries. -/
def SliceList.owned (x : SliceList) : List (Fin 128) := (x.list.toList.take (2 ^ x.n.val)).eraseDups

/-- The record with every field zero. -/
def SliceList.none_ : SliceList := { n := 0, list := Vector.replicate 64 0 }

/-- A configuration as placed on a partition (04 R124 to R126, log 12), with the namespace it is bound to; seed tiles (05 R433); tasks
and graphs that a fallback replaces, with what replaces them (10 R305). -/
structure Config where
  pfx      : BitVec 128
  ns       : BitVec 8
  uniform  : Bool
  hop      : Nat
  tasks    : List Task
  routers  : List (Nat × RouterCfg)
  dirs     : List DirEntry
  seeds    : List Tile
  args     : List (Nat × ArgTarget)
  globals  : List (Nat × Byte)
  remotes  : List (BitVec 64 × BitVec 64 × Fin 4096)
  cores    : List Nat
  replaces : List (Nat × Nat)
  graphs   : List (Nat × Nat)
  slices   : SliceList
  deriving DecidableEq, Repr

/-- An end of a facet in a facet program (10 R302): a port number as the record has it, or a rank, whose port relocation type 3 writes. -/
inductive FacetEnd where
  | port (p : Fin 8) | rank (n : Nat)
  deriving DecidableEq, Repr

/-- One rank's facet of a VSN as its record gives it (03 Table 3-12, 10 R302): MODE, OP, NIN, the five positions of INORD, OUT. -/
structure RankFacet where
  vsn     : Fin 256
  facet   : Fin 4
  task    : Nat
  rank    : Nat
  combine : Bool
  op      : Fin 4
  nin     : Fin 8
  ins     : List FacetEnd
  outs    : List FacetEnd
  deriving DecidableEq, Repr

/-- A seed as its record gives it (05 R433): tensor, index and tag, the type of its data (that of `i64` is 8), its bytes. -/
structure Seed where
  tensor : BitVec 20
  index  : BitVec 36
  tag    : BitVec 16
  type   : Fin 9
  bytes  : List Byte
  deriving DecidableEq, Repr

/-- Where a placement puts the members of each pen record's pen, and its gate (04 R124). -/
structure Placement where
  pens  : List (Nat × List Nat)
  gates : List (Nat × Nat)
  deriving DecidableEq, Repr

/-- A configuration binary in the steward's store (04 R122, 10 R306, log 12): its bytes; a record malformed among those whose layout the manual does
not state (`odd`), the manifest signature at fault; its declared fallbacks, facet programs, buffers (tensor, task, banks) and seeds; placements the
mapper comes to, in the order it tries them; and what else records of no stated layout give. -/
structure Binary where
  bytes   : List Byte
  odd     : Option Nat
  sigBad  : Option Nat
  fbDeep  : Bool
  fbEth   : Option Nat
  fbTaper : List (Nat × Nat)
  streams : List RankFacet
  buffers : List (BitVec 20 × Nat × Nat)
  seeds   : List Seed
  places  : List Placement
  cfg     : Config
  deriving DecidableEq, Repr

/-! ## Firings (05) -/

/-- States of a firing (05 Table 5-7). -/
inductive FState where
  | staged | running | triggered | faulted | retired
  deriving DecidableEq, Repr

/-- A landing of a firing (05 R156, R157): the tile's bytes and the scale bytes with their addresses; `copy` is the tile's copy in the pen store (05 R154). -/
structure Landing where
  sub     : Nat
  copy    : Nat
  bytes   : List (Nat × Byte)
  span    : Option Span
  rsb     : Option Nat
  started : Bool
  done    : Bool
  deriving DecidableEq, Repr

/-- A firing (05 R156 to R160): its task record, iteration and landing slot; `trig`: it has executed `trigger` (05 R167). -/
structure Firing where
  ctx      : Fin 8
  task     : Task
  ns       : BitVec 8
  ordinal  : Nat
  indices  : List Int
  tag      : BitVec 16
  rank     : Nat
  member   : Nat
  slot     : Nat
  voids    : List Nat
  failed   : Option (Byte × Fin 16)
  landings : List Landing
  state    : FState
  trig     : Bool
  pubs     : List (Nat × Nat)
  deriving DecidableEq, Repr

/-! ## A core (06) -/

/-- The registers a mark copies (08 R238); `bad` are those with an uncorrectable error, until they are written (01 R37, R39). -/
structure Regs where
  s     : Vector Word 32
  v     : Vector Token 32
  m     : Vector (BitVec 16) 8
  p     : BitVec 8
  h     : Vector Handle 16
  w     : Vector Moments 8
  sFull : BitVec 32
  vFull : BitVec 32
  hFull : BitVec 16
  wFull : BitVec 8
  bad   : List FullReg
  deriving DecidableEq, Repr

/-- An entry of the loop stack (11 R325). -/
structure LoopEntry where
  start : Nat
  stop  : Nat
  count : Word
  deriving DecidableEq, Repr

/-- The shadow: what a mark holds (08 R237, R238, 11 R325). -/
structure Shadow where
  regs  : Regs
  flags : BitVec 5
  nps   : Bool
  loops : List LoopEntry
  pc    : Nat
  group : Bool
  deriving DecidableEq, Repr

/-- The state of issue (06 R176, 10 R281 to R283): the bundle's address, the bundle once decoded, which group is in issue,
the slots of the group still to evaluate and what those evaluated have gathered, the cycles owed, a transfer taken; `fault`: the
lowest slot at fault in the bundle decoded (10 R294). -/
structure Issue where
  pc       : Nat
  bundle   : Option Bundle
  fault    : Option (Fin 8)
  second   : Bool
  todo     : List (Fin 8 × Instr)
  effects  : List Effect
  hold     : Bool
  trap     : Option TrapInfo
  closing  : Bool
  release  : Bool
  owed     : Nat
  transfer : Option (Nat × Bool)
  soft     : Option (Byte × BitVec 16)
  waits    : List Wait
  retiring : Bool
  markNext : Bool
  deriving DecidableEq, Repr

/-- Nothing in issue at an address. -/
def Issue.at_ (pc : Nat) : Issue :=
  { pc, bundle := none, fault := none, second := false, todo := [], effects := [], hold := false, trap := none, closing := false, release := false,
    owed := 0, transfer := none, soft := none, waits := [], retiring := false, markNext := false }

/-- A line of the CACHE-mode banks (06 R190, 07 R215), in the way of its bank: least recent first in the list that holds it;
`ended`: a fence has ended its lease (07 R229). -/
structure CLine where
  line  : Nat
  bank  : Fin 16
  wts   : Nat
  rts   : Nat
  ended : Bool
  bytes : List Byte
  deriving DecidableEq, Repr

/-- An entry of a translation cache (06 R205, 07 R212). -/
structure TlbEntry where
  ns   : BitVec 8
  page : Handle
  deriving DecidableEq, Repr

/-- A deferred fault that waits in the core (08 R243). -/
structure DFault where
  code   : Byte
  addr   : Word
  space  : Fin 4
  access : Fin 8
  xch    : Fin 8
  seq    : BitVec 16
  xid    : Word
  deriving DecidableEq, Repr

/-- One core and its router's core-side state (06). -/
structure Core where
  regs      : Regs
  q         : Vector Desc 16
  fpcr      : Word
  keys      : Vector Lane 4
  xnext     : Vector Word 4
  xdone     : Vector Word 4
  xopen     : List (Fin 4 × Word)
  pbnext    : Word
  pbdone    : Word
  pbopen    : List Word
  accMap    : BitVec 64
  accOwn    : BitVec 64
  acc       : List (Nat × Lane)
  spad      : Memory
  rsb       : List RsbEntry
  rsbNext   : Nat
  cfgModes  : Vector (Fin 4) 16
  modes     : Vector (Fin 4) 16
  strm      : Word
  caps      : Word
  trapRec   : Vector Word 4
  loops     : List LoopEntry
  issue     : Issue
  fetched   : List Nat
  flight    : List InFlight
  fills     : List Fill
  gate      : List GateEntry
  shadow    : Shadow
  dfaults   : List DFault
  nps       : Option Nat
  tlb       : List TlbEntry
  cache     : List CLine
  lts       : Nat
  seq       : BitVec 16
  matQ      : List EngJob
  scanQ     : List EngJob
  statQ     : List EngJob
  bankQ     : List EngJob
  copies    : List CopyJob
  userOp    : Option (List MicroOp)
  userNext  : Bool
  sendCnt   : List (Fin 256 × BitVec 16)
  recvCnt   : List (Fin 256 × BitVec 16)
  recvs     : List Recv
  fetches   : List FetchJob
  fifoUp    : List Carry
  fifoDown  : List Carry
  barArr    : Nat
  barRel    : Nat
  barWait   : Nat
  cbars     : Nat
  port      : List FxJob
  firing    : Option Firing
  stagedF   : List Firing
  credits   : List (Nat × Int)
  picked    : Option Word
  slotCnt   : List (Nat × Nat)
  frozen    : Bool
  freezeReq : Bool
  halted    : Bool
  traced    : Bool
  reply     : Option (Fin 3)
  withdrawn : Bool
  testing   : Bool
  holding   : Option (Memory × List (Nat × Lane))
  skips     : Nat
  bundles   : Nat
  out       : Bool
  badWords  : List Nat
  swaps     : Byte
  failed    : Bool
  deriving DecidableEq, Repr

/-! ## The fabric (03) -/

/-- A tile in a mirror, least recently used first in the list that holds it: the blocks it has taken, and whether its last burst is stored
(03 R91). -/
structure MirrorTile where
  tile   : Tile
  stored : Bool
  got    : Nat
  deriving DecidableEq, Repr

/-- A chunk in a chunk slot or the spill pool of a router (03 R100, R101), with its input port. -/
structure HeldChunk where
  vsn   : Fin 256
  tag   : BitVec 16
  index : BitVec 16
  fmt   : Fmt
  data  : List FlitToken
  from_ : Fin 6
  deriving DecidableEq, Repr

/-- A router (03): of `spilled` each chunk with whether its pool is in the deep tier (R101); `boxed` are the dead links it bypasses, over the
router north or west, or, where true, south or east (R109); `timers` count the cycles an output has had a message waiting without credit, by
port and plane, the memory plane's true (R112); `retried` counts the resends in a row that a link's receiver has asked for, and `acked` is when a
flit last got over the link (R79, R108). -/
structure Router where
  plane     : Bool
  mirror    : List MirrorTile
  waiting   : List Msg
  cur       : List (Fin 256 × Nat)
  marks     : List (Fin 256 × Fin 6 × Bool)
  slots     : List HeldChunk
  spilled   : List (HeldChunk × Bool)
  dead      : List (Fin 6)
  boxed     : List (Fin 6 × Bool)
  held      : List (Fin 6)
  moved     : Nat
  ends      : Nat
  timers    : List ((Fin 6 × Bool) × Nat)
  retried   : List (Fin 6 × Nat)
  acked     : List (Fin 6 × Word)
  badEntries : List CfgEntry
  deriving DecidableEq, Repr

/-- Where a message is: in the input queue of a router's port, its lane and class those of the message; on the detour channel of the box round the
link of a port of a router, over the neighbour at `side`, in the queue of the box's first, second or last router (03 R109); at its source, ready to
enter a router by a port: a router that serves it from its mirror, a gate, an agent, the steward; at an Ethernet port, from a peer (04 R133); at
a gate, come through a port of its router, and a tile the gate holds there (05 R154); at a rim agent; at a core, come through a port of its router (03 R78, R87). -/
inductive Place where
  | input (router : Nat) (port : Fin 6)
  | detour (router : Nat) (port side : Fin 6) (leg : Fin 3)
  | source (router : Nat) (port : Fin 6)
  | peer (port : Fin 32) (from_ : Fin 4096)
  | gate (g : GateId) (port : Fin 6)
  | held (g : GateId) (port : Fin 6)
  | agent (a : Fin 24)
  | core (c : Nat) (port : Fin 6)
  deriving DecidableEq, Repr

/-- A message in flight, or the part of one that stands in one place (03 R78): the flits still to come there, those that have gone
on, the outputs its head took, and whether it is discarded as its flits come (03 R107). -/
structure Flying where
  place : Place
  msg   : Msg
  lacks : Nat := 0
  gone  : Nat := 0
  outs  : List (Fin 6) := []
  drop  : Bool := false
  deriving DecidableEq, Repr

/-! ## Gates (05) -/

/-- What an open iteration's subscription stands on (05 R153). -/
inductive SubState where
  | void | waiting | bound | failed (code : Byte)
  deriving DecidableEq, Repr

/-- An open iteration (05 R150, R153): `ready` is its age in the order of becoming ready. -/
structure Iter where
  ordinal : Nat
  subs    : List (BitVec 64 × BitVec 16 × SubState)
  ready   : Option Nat
  deriving DecidableEq, Repr

/-- A tile of a pen store, least recently bound first (05 R148, R155): `copy` numbers the copies its gate has taken; `replaced`: a later copy stands
for it, and it is held for the landings that read it (05 R154). -/
structure PenTile where
  tile     : Tile
  servable : Bool
  copy     : Nat := 0
  replaced : Bool := false
  deriving DecidableEq, Repr

/-- The gate of a task (05 R147 to R168). `promoted` is the WCC at which its head offer was promoted; `copies` counts the tiles its store has taken;
`closed` are ranks of herd iterations that count as retired before they have, with whether they had triggered then (05 R166). -/
structure Gate where
  id        : GateId
  runnable  : Bool
  nextOrd   : Nat
  nextReady : Nat
  iters     : List Iter
  store     : List PenTile
  copies    : Nat
  released  : List (BitVec 64 × BitVec 16)
  asked     : List (BitVec 64 × BitVec 16)
  passed    : Nat
  promoted  : Option Nat
  live      : List (BitVec 16 × Nat × Bool)
  closed    : List (BitVec 16 × Nat × Bool)
  retired   : Nat
  triggered : Nat
  eos       : List (BitVec 20)
  eosDone   : List (BitVec 20)
  ended     : List (BitVec 20 × Nat)
  arrived   : List (BitVec 16 × Nat × Nat)
  holdTags  : List (BitVec 16)
  cbar      : List (BitVec 16 × Nat × Nat)
  completed : Bool
  deriving DecidableEq, Repr

/-! ## Memory system (02, 07) -/

/-- Agents of global memory (07 R214). -/
inductive Agent where
  | core (c : Nat) | rim (a : Fin 24) | walker (field : Fin 72) | steward
  deriving DecidableEq, Repr

/-- What a memory request does (07 Table 7-3). -/
inductive ReqKind where
  | load (reg : Fin 32) (ty : Ty) (lease : Bool)
  | store (size : Nat) (value : Word)
  | amo (op : Nat) (reg : Fin 32) (ty : Ty) (b c : Word)
  | prefetch (lease : Bool)
  | tileLoad | tileStore
  deriving DecidableEq, Repr

/-- Where a request stands (02 R52 to R60, 07 R220); `sent`: it has been injected, and is on its way to its slice. -/
inductive Stage where
  | fresh | sent | queued | spilled | filling (alloc : Bool) | prepared (next : Nat) | served | done | faulted | cancelled
  deriving DecidableEq, Repr

/-- A memory request (02 Table 2-3, 07 R216, R217): `arr` numbers its arrival at its slice; `data` are the bytes it reads: of its
line by physical address, of a tile by local address; `spots` are a tile's bytes once translated: local, virtual and physical
address; `at_` is the slice a tile's prepare is at; `via` the page of the handle it was issued through; `wts` and `rts` the stamps
its line had once it was performed. -/
structure MemReq where
  id       : Nat
  agent    : Agent
  kind     : ReqKind
  ns       : BitVec 8
  part     : Fin 16
  va       : Nat
  pa       : Nat
  size     : Nat
  seq      : BitVec 16
  pred     : Option (BitVec 16)
  lts      : Nat
  ts       : Nat
  accepted : Bool
  stage    : Stage
  arr      : Nat
  data     : List (Nat × Byte)
  spots    : List (Nat × Nat × Nat)
  at_      : Nat
  via      : Option Handle
  wts      : Nat
  rts      : Nat
  old      : Bool
  deriving DecidableEq, Repr

/-- Reservation of a line (07 R220). -/
inductive Resv where
  | none_ | read (req : Nat) | write (req : Nat)
  deriving DecidableEq, Repr

/-- A line of a slice (02 R48, 07 R215); `home`: what its home memory holds, where that is not what the line holds. -/
structure SLine where
  line  : Nat
  set_  : Nat
  way   : Nat
  dirty : Bool
  wts   : Nat
  rts   : Nat
  home  : Option (List Byte)
  deriving DecidableEq, Repr

/-- A slice (02 R48 to R55); `fills` are the lines on their way from home memory, each with its way. -/
structure Slice where
  lines   : List SLine
  tree    : List (Nat × BitVec 15)
  filterA : List Nat
  filterB : List Nat
  current : Bool
  mts     : Nat
  resv    : List (Nat × Resv)
  fills   : List (Nat × Nat)
  deriving DecidableEq, Repr

/-- Where a walk stands (08 Table 8-4). -/
inductive WalkStage where
  | asked | found (page : Handle) | parked (entry : Nat) (level : Nat) | pager (entry : Nat) (level : Nat)
  | steward (entry : Nat) (level : Nat) | refused
  deriving DecidableEq, Repr

/-- A walk (06 R205, 07 R212, 08 R247): for a handle, for a tile request, or for a rim agent's job. -/
structure Walk where
  id     : Nat
  core   : Nat
  ns     : BitVec 8
  va     : Nat
  handle : Option (Fin 16)
  req    : Option Nat
  rim    : Option (Fin 24)
  stage  : WalkStage
  old    : Bool
  deriving DecidableEq, Repr

/-- A job of a rim agent (02 R62 to R64): a fetch, or a BACK write. -/
inductive AgentJob where
  | fetch (name : BitVec 64) (tag : BitVec 16) (to_ : Requester) (cpl : Bool)
  | back (t : Tile) (source : Nat)
  deriving DecidableEq, Repr

/-! ## The steward (04) -/

/-- States of a context (04 Table 4-6). -/
inductive CtxState where
  | empty | loading | parked | running | saving | restoring | faulted
  deriving DecidableEq, Repr

/-- A saved image (08 Table 8-5, R432): the cores, the routers, the captured messages, requests not yet injected or pending, and
walks that go on; its size in MiB. -/
structure Image where
  cores   : List (Nat × Core)
  routers : List (Nat × Router)
  msgs    : List Flying
  reqs    : List MemReq
  walks   : List Walk
  mib     : BitVec 16
  deriving DecidableEq, Repr

/-- A job context (04 R127); `next` is the configuration on its way to it through the shadow plane (16 R419); `frames` are the 2 MiB frames its image
lies in (R128); `wanted`: a GO has asked for its restore while another context left the wafer (R131). -/
structure Ctx where
  state    : CtxState
  part     : Fin 16
  ns       : BitVec 8
  tdi      : Fin 17
  cfg      : Option Config
  next     : Option Config
  args     : List (Nat × BitVec 32)
  runnable : List (Fin 16)
  doneG    : List (Fin 16)
  gates    : List Gate
  image    : Option Image
  frames   : List Nat
  wanted   : Bool
  deriving DecidableEq, Repr

/-- STATUS of a switch (04 Table 4-7). -/
inductive SwStatus where
  | idle | armed | committed | switching | done | late | notReady
  deriving DecidableEq, Repr

/-- PREEMPT_AT, PREEMPT_CTL and the re-placement named before T (04 R130, R134). -/
structure Preempt where
  at_     : Word
  next    : Fin 8
  status  : SwStatus
  out     : Option (Fin 8)
  saved   : Bool
  overdue : Bool
  avoid   : Option (List Nat × Option Nat)
  deriving DecidableEq, Repr

/-- An ingress port (04 Table 4-2) and its stream; `report` is that of an OPEN whose configuration writes are on their way, with its context and
partition (04 R122). -/
structure Ingress where
  base    : BitVec 52
  log2sz  : BitVec 4
  head    : BitVec 32
  tail    : BitVec 32
  code    : Byte
  loading : Bool
  err     : Bool
  stopped : Bool
  stream  : Option (Fin 8)
  skipping : Bool
  holding : Bool
  report  : Option (Fin 8 × Fin 16 × List Byte)
  deriving DecidableEq, Repr

/-- States of a tenant interface (04 Table 4-8). -/
inductive TdiState where
  | unlocked | locked | run | error
  deriving DecidableEq, Repr

/-- A tenant interface (04 Table 4-8). -/
structure Tdi where
  state   : TdiState
  live    : Bool
  consent : Fin 3
  cause   : Fin 5
  debug   : Fin 3
  deriving DecidableEq, Repr

/-- What LOCK_INTERFACE snapshots of an interface: its region table entries, and the contexts bound to it (04 Table 4-9). -/
structure Snapshot where
  itf     : Fin 16
  regions : List RegionEntry
  ctxs    : List (Fin 8)
  deriving DecidableEq, Repr

/-- A probe's first wave (03 R113): the movement counters, when it was, whether QD_CTL asked for it, whether all was done then; and the queues
blocked since, each by router, channel and class. -/
structure ProbeRec where
  moved   : Nat
  at_     : Word
  asked   : Bool
  done    : Bool
  blocked : List (Nat × Chan × Fin 6)
  deriving DecidableEq, Repr

/-- A partition (02 R49, R51, 03 R94, R103 to R106, R113): its slices, the configurations of its planes; the routers whose configuration write is
still to come; `complete`: the shadow plane holds one to swap to; the time of the last clean drain wave, whether drained, the routers a swap wave has still to reach, whether
one is under way; a probe's first wave; its 2 MiB frames, those of them that are its pager's, the free ones the pager keeps, and the frame it cuts
tables from with the bytes cut (08 R246). -/
structure Part where
  x0       : Nat
  y0       : Nat
  w        : Nat
  h        : Nat
  slices   : SliceList
  planeA   : Option Config
  planeB   : Option Config
  writes   : List Nat
  complete : Bool
  clean    : Option Word
  drained  : Bool
  swap     : List Nat
  swapped  : Bool
  probe    : Option ProbeRec
  frames   : List Nat
  pager    : List Nat
  free     : List (PageSize × Nat)
  tables   : Option (Nat × Nat)
  deriving DecidableEq, Repr

/-- An Ethernet link to a peer in one class (02 R71, R72). -/
structure PeerLink where
  peer     : Fin 4096
  cls      : Fin 6
  expected : BitVec 32
  next     : BitVec 32
  unacked  : List Frame
  deriving DecidableEq, Repr

/-- Power states (01 Table 1-2). -/
inductive Power where
  | p0 | p1 | s1 | s3 | s5
  deriving DecidableEq, Repr

/-- Where bring-up stands (01 R32). -/
inductive BringUp where
  | notStarted | heldInReset (step : Fin 3) | up
  deriving DecidableEq, Repr

/-- A management event of the steward that has no code of Table 3-15 (01 R28, R30, R34, R39, 02 R65, R72, 03 R105). -/
inductive Mgmt where
  | unlocked | thermal | skipped (core : Nat) | configEntry (router : Nat) | segment (agent : Fin 24)
  | peerLost (peer : Fin 4096) | drained (part : Fin 16) | debugRefused (core : Nat)
  deriving DecidableEq, Repr

/-- A record of the steward event queue (03 Table 3-15), four words. -/
abbrev EventRec := Vector Word 4

/-- What the module answers to the outside: error responses, reports, attestation (04 R137 to R139). -/
inductive Answer where
  | error (itf : Fin 16) | report (itf : Fin 16) (state : TdiState) (keys : Nat) | unsupported (itf : Fin 16)
  | attestation (nonce : BitVec 384) (fields : List Nat) (sig cert : BitVec 768)
  | verdict (v : Fin 8)
  deriving DecidableEq, Repr

/-- A fault token on its way to its handler, or waiting there (08 R245): the pager's or the steward's. -/
structure FaultToken where
  core  : Nat
  ns    : BitVec 8
  pen   : Nat
  rec_  : Vector Word 4
  pager : Bool
  deriving DecidableEq, Repr

/-- A shootdown in progress (07 R213). -/
structure Shootdown where
  ns    : BitVec 8
  lo    : Nat
  hi    : Nat
  waits : List Nat
  deriving DecidableEq, Repr

/-! ## The whole module -/

/-- The module: what the manual gives it, and three fields of the model's own, `agenda` (log 3), `focus` (log 6) and `ticket` (log 17).
`inForce` is the health record the core map was last built from (01 R43); `spareTest` holds for the spare of a row whether it is in
service (0), withdrawn (1) or under test (2), and its skips in a row, and `withdrawals` when each core that waits for its test was withdrawn
(01 R34). `asked`: REPLACE_REQUEST stands until a new record (01 R42); `errors` and `throttles` are the steward's history (01 R40, R41). `pmem` is
memory as the slices' lines and home memory together hold it, in plain; `sealed` gives the key that a line of home memory is encrypted
under, where it is (02 R66, log 14). -/
structure State where
  agenda    : List Instr
  focus     : Nat
  ticket    : Nat
  power     : Power
  throttled : Bool
  bringUp   : BringUp
  wcc       : Word
  locked    : Bool
  lastSlew  : Option Word
  slew      : Option Bool
  economy   : Bool
  caps      : Word
  healthReg : Word
  health    : HealthRecord
  inForce   : HealthRecord
  healthGen : BitVec 32
  healthSeal : BitVec 384
  defects   : DefectMap
  identity  : Option (BitVec 384)
  asked     : Bool
  errCounts : List (ErrUnit × Nat)
  errors    : List (BitVec 64 × ErrUnit)
  throttles : List (BitVec 64)
  pager     : Option Nat
  lostCxl   : List (Fin 8)
  holes     : List Nat
  spareTest : List (Nat × Fin 3 × Nat)
  withdrawals : List (Nat × Word)
  events    : List EventRec
  mgmt      : List Mgmt
  answers   : List Answer
  regions   : List RegionEntry
  keyTable  : List (Fin 1024 × BitVec 512)
  sealed    : List (Nat × BitVec 512)
  snapshots : List Snapshot
  pmem      : Memory
  smem      : Memory
  slices    : List (Nat × Slice)
  reqs      : List MemReq
  nextReq   : Nat
  agentLts  : List (Agent × Nat)
  roots     : List (BitVec 8 × Nat)
  agentTlb  : List (Fin 72 × TlbEntry)
  walks     : List Walk
  shoot     : Option Shootdown
  tokens    : List FaultToken
  jobs      : List (Fin 24 × AgentJob)
  backDone  : List (Nat × Word × Nat)
  eccBad    : List Nat
  parts     : List (Fin 16 × Part)
  routers   : List (Nat × Router)
  msgs      : List Flying
  qdBase    : BitVec 52
  qdCount   : BitVec 7
  qdPart    : Byte
  congExp   : BitVec 5
  verdict   : Fin 8
  ing       : Vector Ingress 16
  store     : List (BitVec 128 × Binary)
  mapCache  : List ((BitVec 128 × Nat × BitVec 32 × Bool) × Placement)
  ctxs      : Vector Ctx 8
  preempt   : Vector Preempt 16
  tdis      : Vector Tdi 16
  stops     : List (Fin 16)
  meas      : Vector (BitVec 384) 8
  bootFloor : Nat
  peers     : List PeerLink
  lostPeers : List (Fin 4096)
  delays    : List (Fin 32 × Word)
  bloomAt   : Nat
  modNum    : Fin 4096
  started   : List (Nat × List Nat)
  cores     : List (Nat × Core)
  deriving DecidableEq, Repr

/-- The machine stops. No rule of the manual stops the whole module, and no step of the model answers with a fault. -/
inductive Fault where
  /-- bring-up is held in reset (01 R32): never raised; a module held in reset stays in its state. Safe. -/
  | heldInReset
  deriving DecidableEq, Repr

/-- No meaning for an instruction. -/
inductive Refusal where
  /-- an instruction of the table that has no meaning yet; the dispatcher raises it. Safe: nothing is claimed of it. -/
  | notModelled (mnemonic : String)
  deriving DecidableEq, Repr

/-! ## Reset -/

/-- Registers at firing start but for s1 to s9 (05 Table 5-6, 06 Table 6-6); also their values at reset (log 1). -/
def Regs.start : Regs :=
  { s := Vector.replicate 32 0, v := Vector.replicate 32 Token.empty, m := Vector.replicate 8 0, p := 0,
    h := Vector.replicate 16 Handle.none_, w := Vector.replicate 8 Moments.empty,
    sFull := BitVec.allOnes 32, vFull := BitVec.allOnes 32, hFull := BitVec.allOnes 16, wFull := BitVec.allOnes 8, bad := [] }

/-- CORE_CAPS of a whole core of OCY-W3-F: CAPVER 3, TAPERED 1 (06 Table 6-8, log 19). -/
def coreCapsReset : Word := 0x0302

/-- A core after reset (06, logs 1, 2, 19, 20). -/
def Core.reset : Core :=
  { regs := Regs.start, q := Vector.replicate 16 { lo := 0, hi := 0 }, fpcr := 0, keys := Vector.replicate 4 0,
    xnext := Vector.replicate 4 0, xdone := Vector.replicate 4 0, xopen := [], pbnext := 0, pbdone := 0, pbopen := [],
    accMap := 0, accOwn := 0, acc := [], spad := [], rsb := [], rsbNext := 0,
    cfgModes := Vector.replicate 16 0, modes := Vector.replicate 16 0, strm := 1, caps := coreCapsReset,
    trapRec := Vector.replicate 4 0, loops := [], issue := Issue.at_ 0, fetched := [], flight := [], fills := [], gate := [],
    shadow := { regs := Regs.start, flags := 0, nps := false, loops := [], pc := 0, group := false },
    dfaults := [], nps := none, tlb := [], cache := [], lts := 0, seq := 0,
    matQ := [], scanQ := [], statQ := [], bankQ := [], copies := [], userOp := none, userNext := false,
    sendCnt := [], recvCnt := [], recvs := [], fetches := [], fifoUp := [], fifoDown := [],
    barArr := 0, barRel := 0, barWait := 0, cbars := 0, port := [], firing := none, stagedF := [], credits := [], slotCnt := [],
    picked := none, frozen := false, freezeReq := false, halted := false, traced := false, reply := none,
    withdrawn := false, testing := false, holding := none, skips := 0, bundles := 0,
    out := false, badWords := [], swaps := 0, failed := false }

/-- A router after reset: plane A active, an empty mirror (03, Table 3-12). -/
def Router.reset : Router :=
  { plane := false, mirror := [], waiting := [], cur := [], marks := [], slots := [], spilled := [], dead := [], boxed := [],
    held := [], moved := 0, ends := 0, timers := [], retried := [], acked := [], badEntries := [] }

/-- A slice after reset (02 R48, R55). -/
def Slice.reset : Slice :=
  { lines := [], tree := [], filterA := [], filterB := [], current := false, mts := 0, resv := [], fills := [] }

/-- An EMPTY context (04 Table 4-6). -/
def Ctx.reset : Ctx :=
  { state := .empty, part := 0, ns := 0, tdi := 0, cfg := none, next := none, args := [], runnable := [], doneG := [], gates := [], image := none,
    frames := [], wanted := false }

/-- The health record of a whole module (log 19). -/
def HealthRecord.whole : HealthRecord :=
  { dead := [], lost := [], map := { loans := [], shifts := [], holes := [] }, stacksOut := [], slicesOut := [], cxlOut := [], ethOut := [],
    deadLinks := [], errors := [], throttles := [], thermal := false, ceRate := false, ceHour := 0 }

/-- The module right after reset: power state P0, bring-up not started, a whole OCY-W3-F (logs 8, 12, 18, 19). -/
def State.reset : State :=
  { agenda := [], focus := 0, ticket := 0, power := .p0, throttled := false, bringUp := .notStarted, wcc := 0, locked := true,
    lastSlew := none, slew := none, economy := false,
    caps := 0x0032A01860880002, healthReg := 0x000D800000000000,
    health := HealthRecord.whole, inForce := HealthRecord.whole, healthGen := 0, healthSeal := 0,
    defects := { dead := [], lost := [], deadLinks := [] }, identity := none, asked := false, errCounts := [], errors := [], throttles := [],
    pager := none, lostCxl := [], holes := [], spareTest := [], withdrawals := [], events := [], mgmt := [], answers := [], regions := [],
    keyTable := [], sealed := [], snapshots := [],
    pmem := [], smem := [], slices := [], reqs := [], nextReq := 0, agentLts := [], roots := [], agentTlb := [], walks := [],
    shoot := none, tokens := [], jobs := [], backDone := [], eccBad := [], parts := [], routers := [], msgs := [],
    qdBase := 0, qdCount := 0, qdPart := 0, congExp := 20, verdict := 0,
    ing := Vector.replicate 16 { base := 0, log2sz := 0, head := 0, tail := 0, code := 0, loading := false, err := false,
                                 stopped := false, stream := none, skipping := false, holding := false, report := none },
    store := [], mapCache := [], ctxs := Vector.replicate 8 Ctx.reset,
    preempt := Vector.replicate 16 { at_ := 0, next := 0, status := .idle, out := none, saved := false, overdue := false,
                                     avoid := none },
    tdis := Vector.replicate 16 { state := .unlocked, live := false, consent := 0, cause := 0, debug := 0 },
    stops := [], meas := Vector.replicate 8 0, bootFloor := 0, peers := [], lostPeers := [], delays := [], bloomAt := 0, modNum := 0, started := [], cores := [] }

end Sys2Proof.Machine
end

