-- ==== Sys2Proof/Machine/Flags.lean ====
section
/-! DEFINITION. Sys2Proof/Machine/Flags.lean: the sticky flags of FPCR and its rounding mode (06 Table 6-9, 09 R264, R269), and the bit-field and
extension helpers the other files share (00 Table 0-6). -/

namespace Sys2Proof.Machine

/-! ## Flags: NV, DZ, OF, UF, NX in FPCR[12:8], bit 4 to bit 0 here -/

abbrev FpFlags := BitVec 5

def FpFlags.none_ : FpFlags := 0
def FpFlags.nv : FpFlags := 16
def FpFlags.dz : FpFlags := 8
def FpFlags.of_ : FpFlags := 4
def FpFlags.uf : FpFlags := 2
def FpFlags.nx : FpFlags := 1

/-- A flag when a condition holds. -/
def flagIf (f : FpFlags) (b : Bool) : FpFlags := if b then f else 0

/-- FPCR's flags (06 Table 6-9). -/
def fpcrFlags (x : Word) : FpFlags := x.extractLsb' 8 5

/-- FPCR with flags ORed in: they are sticky (09 R264). -/
def orFlags (x : Word) (f : FpFlags) : Word := x ||| (f.setWidth 64 <<< (8 : Nat))

/-- FPCR with its flags replaced: a rollback takes the shadow's (08 R238, R240). -/
def putFlags (x : Word) (f : FpFlags) : Word := (x &&& ~~~(0x1F00 : Word)) ||| (f.setWidth 64 <<< (8 : Nat))

/-- The bits of FPCR that are not reserved (06 Table 6-9, 11 R336). -/
def fpcrMask : Word := 0x1F07

/-- A rounding mode; `sto` carries the lane's random word (09 R269). -/
inductive Rounding where
  | rne | rtz | rup | rdn | sto (u : Nat)
  deriving DecidableEq, Repr

/-- FPCR.RM in an operation that is no conversion: RSTO and the codes 5 to 7 act as RNE (06 Table 6-9). -/
def rmMode (x : Word) : Rounding :=
  match (x.extractLsb' 0 3).toNat with
  | 1 => .rtz | 2 => .rup | 3 => .rdn | _ => .rne

/-- The mode of an arithmetic instruction by its RMS (10 Table 10-6, 12 R339). -/
def arithMode (rms : Rms) (fpcr : Word) : Rounding :=
  match rms with
  | .rne => .rne | .rtz => .rtz | .rup => .rup | .rdn => .rdn
  | .fpcr | .rsto => rmMode fpcr

/-- RSTO is in effect in a conversion (12 R349). -/
def stoInEffect (rms : Rms) (fpcr : Word) : Bool :=
  match rms with
  | .rsto => true
  | .fpcr => (fpcr.extractLsb' 0 3) == 4
  | _ => false

/-- The mode of a conversion in a lane whose random word is `u` (12 R349). -/
def convMode (rms : Rms) (fpcr : Word) (u : Lane) : Rounding :=
  if stoInEffect rms fpcr then .sto u.toNat else arithMode rms fpcr

/-! ## Bits -/

/-- Bits hi down to lo of a number (00 R12), by its low end and width. -/
def bits (x lo n : Nat) : Nat := x / 2 ^ lo % 2 ^ n

/-- The signed value of the low n bits (00 Table 0-6 sext). -/
def sextNat (x n : Nat) : Int :=
  let v := x % 2 ^ n
  if v < 2 ^ (n - 1) then (v : Int) else (v : Int) - (2 ^ n : Nat)

/-- XOR of the n-bit chunks of a number, low to high (00 Table 0-6 fold_xor); `k` chunks at most. -/
def foldXorGo (n : Nat) : Nat → Nat → Nat → Nat
  | 0, _, acc => acc
  | k + 1, x, acc => foldXorGo n k (x / 2 ^ n) (acc ^^^ (x % 2 ^ n))

/-- fold_xor(a, n) of a number below 2^64. -/
def foldXor (a n : Nat) : Nat := if n = 0 then 0 else foldXorGo n 64 a 0

/-- TY as a width in bytes (10 Table 10-5). -/
def tySize : Ty → Nat
  | .i8 | .n8 => 1
  | .i16 | .n16 => 2
  | .i32 | .n32 => 4
  | .i64 | .n64 => 8

/-- TY as signed. -/
def tySigned : Ty → Bool
  | .i8 | .i16 | .i32 | .i64 => true
  | _ => false

/-- ext_w of 11 R315: the low w bits as a number, signed or not. -/
def tyVal (ty : Ty) (x : Nat) : Int :=
  if tySigned ty then sextNat x (8 * tySize ty) else ((x % 2 ^ (8 * tySize ty) : Nat) : Int)

/-- The 64-bit word of a value of type TY: sign- or zero-extended. -/
def tyWord (ty : Ty) (x : Nat) : Word := BitVec.ofInt 64 (tyVal ty x)

/-- A set bit of a mask. -/
def setBit {n : Nat} (x : BitVec n) (k : Nat) (b : Bool) : BitVec n :=
  if b then x ||| (BitVec.ofNat n (2 ^ k)) else x &&& ~~~(BitVec.ofNat n (2 ^ k))

/-! ## Association lists, sorted by a natural key -/

/-- The value of a key. -/
def assoc {α : Type} : List (Nat × α) → Nat → Option α
  | [], _ => none
  | (k, x) :: l, j => if k = j then some x else assoc l j

/-- The list with a key's value set, in its place in the order. -/
def assocSet {α : Type} : List (Nat × α) → Nat → α → List (Nat × α)
  | [], j, y => [(j, y)]
  | (k, x) :: l, j, y =>
    if k = j then (j, y) :: l else if j < k then (j, y) :: (k, x) :: l else (k, x) :: assocSet l j y

/-- The value of a key of any type. -/
def lookupD {κ α : Type} [DecidableEq κ] (d : α) : List (κ × α) → κ → α
  | [], _ => d
  | (k, x) :: l, j => if k = j then x else lookupD d l j

/-- The list with a key's value set, new keys last. -/
def putKey {κ α : Type} [DecidableEq κ] : List (κ × α) → κ → α → List (κ × α)
  | [], j, y => [(j, y)]
  | (k, x) :: l, j, y => if k = j then (j, y) :: l else (k, x) :: putKey l j y

/-- The list without a key. -/
def dropKey {κ α : Type} [DecidableEq κ] (l : List (κ × α)) (j : κ) : List (κ × α) := l.filter fun e => e.1 ≠ j

end Sys2Proof.Machine
end

