-- ==== Sys2Proof/Machine/Fp.lean ====
section
/-! DEFINITION. Sys2Proof/Machine/Fp.lean: the number formats and their arithmetic (09): values are exact, `neg`, m and e standing for
(-1)^neg m 2^e, and each operation rounds once. -/

namespace Sys2Proof.Machine

/-- A decoded value: NaN (with its being signalling; NaR is one), an infinity, or a finite number m 2^e, zero where m is 0. -/
inductive Val where
  | nan (signalling : Bool)
  | inf (neg : Bool)
  | fin (neg : Bool) (m : Nat) (e : Int)
  deriving DecidableEq, Repr

/-- An IEEE or OCP format (09 Table 9-1): exponent and fraction widths, bias, and whether it has infinities. -/
structure IeeeFmt where
  ebits : Nat
  fbits : Nat
  bias  : Nat
  hasInf : Bool
  deriving DecidableEq, Repr

def fp32 : IeeeFmt := { ebits := 8, fbits := 23, bias := 127, hasInf := true }
def fp16 : IeeeFmt := { ebits := 5, fbits := 10, bias := 15, hasInf := true }
def bf16 : IeeeFmt := { ebits := 8, fbits := 7, bias := 127, hasInf := true }
def e5m2 : IeeeFmt := { ebits := 5, fbits := 2, bias := 15, hasInf := true }
def e4m3 : IeeeFmt := { ebits := 4, fbits := 3, bias := 7, hasInf := false }

/-- The code of the sign bit. -/
def IeeeFmt.signCode (f : IeeeFmt) : Nat := 2 ^ (f.ebits + f.fbits)
/-- The code of infinity, or in E4M3 of the NaN, which lies above every finite magnitude. -/
def IeeeFmt.topCode (f : IeeeFmt) : Nat :=
  if f.hasInf then (2 ^ f.ebits - 1) * 2 ^ f.fbits else 2 ^ (f.ebits + f.fbits) - 1
/-- The canonical NaN (09 Table 9-1). -/
def IeeeFmt.nanCode (f : IeeeFmt) : Nat :=
  if f.hasInf then f.topCode + 2 ^ (f.fbits - 1) else f.topCode
/-- The exponent of the least significant bit of a subnormal. -/
def IeeeFmt.qmin (f : IeeeFmt) : Int := 1 - (f.bias : Int) - f.fbits

/-- The value of an IEEE or OCP code (09 R262). -/
def IeeeFmt.decode (f : IeeeFmt) (x : Nat) : Val :=
  let neg := decide (x / f.signCode % 2 = 1)
  let mag := x % f.signCode
  let ex := mag / 2 ^ f.fbits
  let fr := mag % 2 ^ f.fbits
  if f.hasInf && ex == 2 ^ f.ebits - 1 then
    if fr = 0 then .inf neg else .nan (decide (fr < 2 ^ (f.fbits - 1)))
  else if !f.hasInf && mag == f.topCode then .nan false
  else if ex = 0 then .fin neg fr f.qmin
  else .fin neg (2 ^ f.fbits + fr) (f.qmin + (ex : Int) - 1)

/-- m 2^e against n 2^f: m 2^e ≤ n 2^f. -/
def leDyadic (m : Nat) (e : Int) (n : Nat) (f : Int) : Bool :=
  if e ≤ f then decide (m ≤ n * 2 ^ (f - e).toNat) else decide (m * 2 ^ (e - f).toNat ≤ n)

/-- Whether the kept part `k` is raised when the part cut off is rem / 2^sh of a unit (09 R269). -/
def roundUp (mode : Rounding) (neg : Bool) (k rem sh : Nat) : Bool :=
  if rem = 0 then false
  else
    match mode with
    | .rne => decide (2 ^ sh < 2 * rem) || (decide (2 * rem = 2 ^ sh) && decide (k % 2 = 1))
    | .rtz => false
    | .rup => !neg
    | .rdn => neg
    | .sto u => decide (4294967296 ≤ 4294967296 * rem / 2 ^ sh + u)

/-- m 2^e in units of 2^q: the rounded integer, and whether it is inexact (09 R269). -/
def roundInt (mode : Rounding) (neg : Bool) (m : Nat) (e q : Int) : Nat × Bool :=
  if q ≤ e then (m * 2 ^ (e - q).toNat, false)
  else
    let sh := (q - e).toNat
    let k := m / 2 ^ sh
    let rem := m % 2 ^ sh
    (if roundUp mode neg k rem sh then k + 1 else k, rem != 0)

/-- Overflow gives the largest finite value, not infinity (09 R269). -/
def overflowsToMax (mode : Rounding) (neg : Bool) : Bool :=
  match mode with
  | .rne | .sto _ => false
  | .rtz => true
  | .rup => neg
  | .rdn => !neg

/-- Round a finite magnitude m 2^e, m not 0, to a format: the code without sign, and the flags (09 R264, R269). -/
def IeeeFmt.roundMag (f : IeeeFmt) (mode : Rounding) (neg : Bool) (m : Nat) (e : Int) : Nat × FpFlags :=
  let q := max (e + (Nat.log2 m : Int) - f.fbits) f.qmin
  let r := roundInt mode neg m e q
  let code := (q - f.qmin).toNat * 2 ^ f.fbits + r.1
  let maxQ : Int := f.qmin + ((f.topCode - 1) / 2 ^ f.fbits : Nat) - 1
  let maxM : Nat := 2 ^ f.fbits + (f.topCode - 1) % 2 ^ f.fbits
  let beyond := f.topCode ≤ code || (match mode with
    | .sto _ => !leDyadic m e maxM maxQ
    | _ => false)
  if beyond then
    (if !f.hasInf || overflowsToMax mode neg then f.topCode - 1 else f.topCode, FpFlags.of_ ||| FpFlags.nx)
  else
    let tiny := !leDyadic (2 ^ f.fbits) f.qmin m e
    (code, flagIf FpFlags.nx r.2 ||| flagIf FpFlags.uf (tiny && r.2))

/-- The code with its sign. -/
def IeeeFmt.signed (f : IeeeFmt) (neg : Bool) (code : Nat) : Nat := if neg then f.signCode + code else code

/-- A value to an IEEE or OCP format: code and flags (09 Table 9-5). -/
def IeeeFmt.encode (f : IeeeFmt) (mode : Rounding) : Val → Nat × FpFlags
  | .nan s => (f.nanCode, flagIf FpFlags.nv s)
  | .inf neg =>
    if f.hasInf then (f.signed neg f.topCode, 0) else (f.signed neg (f.topCode - 1), FpFlags.of_ ||| FpFlags.nx)
  | .fin neg 0 _ => (f.signed neg 0, 0)
  | .fin neg m e =>
    let r := f.roundMag mode neg m e
    (f.signed neg r.1, r.2)

/-! ## Tapered formats (09 R266 to R268) -/

/-- Length of the run of bits equal to `x` from bit i of M down (09 R266); i counts bits still to read. -/
def regimeRun (x m : Nat) : Nat → Nat
  | 0 => 0
  | i + 1 => if m / 2 ^ i % 2 = x then 1 + regimeRun x m i else 0

/-- The magnitude of a code M of n bits, not 0: m and e of m 2^e (09 R266). -/
def tapMag (n m : Nat) : Nat × Int :=
  let x := m / 2 ^ (n - 1) % 2
  let r := regimeRun x m n
  let k : Int := if x = 1 then (r : Int) - 1 else -(r : Int)
  let rest := n - r - 1
  let e := if 1 ≤ rest then m / 2 ^ (rest - 1) % 2 else 0
  let fb := rest - 1
  let fr := m % 2 ^ fb
  (2 ^ fb + fr, 2 * k + (e : Int) - (fb : Int))

/-- decode_tap (09 R266): M of 0 is +0, or NaR with the sign bit. -/
def tapDecode (n x : Nat) : Val :=
  let neg := decide (x / 2 ^ n % 2 = 1)
  let m := x % 2 ^ n
  if m = 0 then (if neg then .nan true else .fin false 0 0)
  else .fin neg (tapMag n m).1 (tapMag n m).2

/-- The largest code at most k whose magnitude is at most m 2^e; 0 when none is. -/
def tapFloor (n m : Nat) (e : Int) : Nat → Nat
  | 0 => 0
  | k + 1 => if leDyadic (tapMag n (k + 1)).1 (tapMag n (k + 1)).2 m e then k + 1 else tapFloor n m e k

/-- A magnitude a 2^-24 of a dyadic value, exact for tapered magnitudes and cut for others; used to compare distances on one scale. -/
def onScale (m : Nat) (e : Int) (s : Nat) : Nat := m * 2 ^ (e + s).toNat

/-- encode_tap for a finite value that is not zero (09 R268). -/
def tapRound (n : Nat) (mode : Rounding) (neg : Bool) (m : Nat) (e : Int) : Nat × FpFlags :=
  let top := 2 ^ n - 1
  let mx := tapMag n top
  let mn := tapMag n 1
  if !leDyadic m e mx.1 mx.2 then (top + (if neg then 2 ^ n else 0), FpFlags.of_ ||| FpFlags.nx)
  else if !leDyadic mn.1 mn.2 m e then (0, FpFlags.uf ||| FpFlags.nx)
  else
    let a := tapFloor n m e top
    let am := tapMag n a
    if leDyadic m e am.1 am.2 then (a + (if neg then 2 ^ n else 0), 0)
    else
      let bm := tapMag n (a + 1)
      -- one scale fine enough for the three magnitudes
      let s := (max (max (-e) (-am.2)) (max (-bm.2) 0)).toNat
      let x := onScale m e s
      let av := onScale am.1 am.2 s
      let bv := onScale bm.1 bm.2 s
      let up := match mode with
        | .rne => decide (bv - x < x - av) || (decide (bv - x = x - av) && decide (a % 2 = 1))
        | .rtz => false
        | .rup => !neg
        | .rdn => neg
        | .sto u => decide (4294967296 ≤ 4294967296 * (x - av) / (bv - av) + u)
      ((if up then a + 1 else a) + (if neg then 2 ^ n else 0), FpFlags.nx)

/-- A value to T8 or T6 (09 R268, Table 9-5). -/
def tapEncode (n : Nat) (mode : Rounding) : Val → Nat × FpFlags
  | .nan s => (2 ^ n, flagIf FpFlags.nv s)
  | .inf neg => (2 ^ n - 1 + (if neg then 2 ^ n else 0), FpFlags.of_ ||| FpFlags.nx)
  | .fin _ 0 _ => (0, 0)
  | .fin neg m e => tapRound n mode neg m e

/-! ## Integers (09 R270, R272) -/

/-- A value to an integer type of w bits, saturated (09 R270, Table 9-5). -/
def intEncode (w : Nat) (sgn : Bool) (mode : Rounding) : Val → Int × FpFlags
  | .nan _ => (0, FpFlags.nv)
  | .inf neg =>
    (if neg then (if sgn then -((2 ^ (w - 1) : Nat) : Int) else 0)
     else if sgn then ((2 ^ (w - 1) - 1 : Nat) : Int) else ((2 ^ w - 1 : Nat) : Int), FpFlags.nv)
  | .fin neg m e =>
    let r := roundInt mode neg m e 0
    let x : Int := if neg then -(r.1 : Int) else r.1
    let lo : Int := if sgn then -((2 ^ (w - 1) : Nat) : Int) else 0
    let hi : Int := if sgn then ((2 ^ (w - 1) - 1 : Nat) : Int) else ((2 ^ w - 1 : Nat) : Int)
    if x < lo then (lo, FpFlags.nv) else if hi < x then (hi, FpFlags.nv) else (x, flagIf FpFlags.nx r.2)

/-- An integer as a value. -/
def intVal (x : Int) : Val := .fin (decide (x < 0)) x.natAbs 0

/-! ## Elements by format code (03 Table 3-4) -/

/-- The value of an element's low bits in a format; TRIPLE elements are FP32 (09 R261). -/
def elemDecode (f : Fmt) (x : Nat) : Val :=
  match f with
  | .f32 | .triple => fp32.decode (x % 2 ^ 32)
  | .f16 => fp16.decode (x % 2 ^ 16)
  | .bf16 => bf16.decode (x % 2 ^ 16)
  | .i32 => intVal (sextNat x 32)
  | .i16 => intVal (sextNat x 16)
  | .i8 => intVal (sextNat x 8)
  | .t8 => tapDecode 7 (x % 2 ^ 8)
  | .t6 => tapDecode 5 (x % 2 ^ 6)
  | .e4m3 => e4m3.decode (x % 2 ^ 8)
  | .e5m2 => e5m2.decode (x % 2 ^ 8)

/-- A value to an element's code, of the format's width, and the flags (09 R270). -/
def elemEncode (f : Fmt) (mode : Rounding) (v : Val) : Nat × FpFlags :=
  match f with
  | .f32 | .triple => fp32.encode mode v
  | .f16 => fp16.encode mode v
  | .bf16 => bf16.encode mode v
  | .i32 => let r := intEncode 32 true mode v; ((r.1 % (2 ^ 32 : Nat)).toNat, r.2)
  | .i16 => let r := intEncode 16 true mode v; ((r.1 % (2 ^ 16 : Nat)).toNat, r.2)
  | .i8 => let r := intEncode 8 true mode v; ((r.1 % (2 ^ 8 : Nat)).toNat, r.2)
  | .t8 => tapEncode 7 mode v
  | .t6 => tapEncode 5 mode v
  | .e4m3 => e4m3.encode mode v
  | .e5m2 => e5m2.encode mode v

/-- The lane of an element's code: INT16 and INT8 are sign-extended, the others zero-extended (12 R338). -/
def elemLane (f : Fmt) (x : Nat) : Lane :=
  match f with
  | .i16 => BitVec.ofInt 32 (sextNat x 16)
  | .i8 => BitVec.ofInt 32 (sextNat x 8)
  | _ => BitVec.ofNat 32 x

/-- A value times 2^k. -/
def Val.scale (v : Val) (k : Int) : Val :=
  match v with
  | .fin n m e => .fin n m (e + k)
  | v => v

/-- An element under an E8M0 scale: 0xFF makes it a signalling NaN (09 R271). -/
def Val.scaled (v : Val) (s : Nat) : Val :=
  if s = 255 then .nan true else v.scale ((s : Int) - 127)

/-! ## Arithmetic, exact until one rounding (09 R263) -/

/-- The sum's or product's negation. -/
def Val.neg : Val → Val
  | .nan s => .nan s
  | .inf n => .inf (!n)
  | .fin n m e => .fin (!n) m e

/-- The exact product; ∞ × 0 is an invalid operation, which a signalling NaN stands for (09 R263). -/
def Val.mul : Val → Val → Val
  | .nan s, .nan t => .nan (s || t)
  | .nan s, _ => .nan s
  | _, .nan t => .nan t
  | .inf a, .inf b => .inf (a != b)
  | .inf a, .fin b m _ => if m = 0 then .nan true else .inf (a != b)
  | .fin a m _, .inf b => if m = 0 then .nan true else .inf (a != b)
  | .fin a m e, .fin b n f => .fin (a != b) (m * n) (e + f)

/-- The signed integer of a finite value in units of 2^q, q at most its exponent. -/
def dyInt (neg : Bool) (m : Nat) (e q : Int) : Int :=
  let x : Int := ((m * 2 ^ (e - q).toNat : Nat) : Int)
  if neg then -x else x

/-- The exact sum of two values; ∞ − ∞ is invalid. `rdn` gives the sign of a sum that cancels (09 R263). -/
def Val.add (rdn : Bool) : Val → Val → Val
  | .nan s, .nan t => .nan (s || t)
  | .nan s, _ => .nan s
  | _, .nan t => .nan t
  | .inf a, .inf b => if a = b then .inf a else .nan true
  | .inf a, .fin .. => .inf a
  | .fin .., .inf b => .inf b
  | .fin a m e, .fin b n f =>
    if m = 0 ∧ n = 0 then (if a = b then .fin a 0 0 else .fin rdn 0 0)
    else
      let q := min e f
      let x := dyInt a m e q + dyInt b n f q
      if x = 0 then .fin rdn 0 0 else .fin (decide (x < 0)) x.natAbs q

/-- The exact sum of several terms, the zero's sign decided at the end (09 R263, R273). -/
def sumVals (rdn : Bool) : List Val → Val
  | [] => .fin false 0 0
  | [v] => v
  | v :: vs =>
    let t := sumVals rdn vs
    match v, t with
    | .fin a m e, .fin b n f =>
      if m = 0 ∧ n = 0 then (if a = b then .fin a 0 0 else .fin rdn 0 0) else Val.add rdn (.fin a m e) (.fin b n f)
    | v, t => Val.add rdn v t

/-- Whether the mode rounds down (for the sign of a cancelling sum). -/
def isRdn : Rounding → Bool
  | .rdn => true
  | _ => false

/-- An FP32 value of bits. -/
def f32 (x : Lane) : Val := fp32.decode x.toNat

/-- A value rounded to FP32. -/
def toF32 (mode : Rounding) (v : Val) : Lane × FpFlags :=
  let r := fp32.encode mode v
  (BitVec.ofNat 32 r.1, r.2)

def fpAdd (mode : Rounding) (a b : Lane) : Lane × FpFlags := toF32 mode (Val.add (isRdn mode) (f32 a) (f32 b))
def fpSub (mode : Rounding) (a b : Lane) : Lane × FpFlags := toF32 mode (Val.add (isRdn mode) (f32 a) (f32 b).neg)
def fpMul (mode : Rounding) (a b : Lane) : Lane × FpFlags := toF32 mode ((f32 a).mul (f32 b))

/-- The fused a × b + c, rounded once; the product's sign negated with `np`, c's with `nc` (12 R340). -/
def fpFma (mode : Rounding) (np nc : Bool) (a b c : Lane) : Lane × FpFlags :=
  let p := (f32 a).mul (f32 b)
  let p := if np then p.neg else p
  let c := if nc then (f32 c).neg else f32 c
  toF32 mode (Val.add (isRdn mode) p c)

/-- n / m with a sticky bit below `k` quotient bits: a number that rounds as the exact quotient does. -/
def stickyDiv (n m k : Nat) : Nat :=
  let q := n * 2 ^ k / m
  2 * q + (if n * 2 ^ k % m = 0 then 0 else 1)

/-- The quotient (09 R263): 0/0 and ∞/∞ are invalid, a finite value over zero is an infinity with DZ. -/
def fpDiv (mode : Rounding) (a b : Lane) : Lane × FpFlags :=
  match f32 a, f32 b with
  | .nan s, .nan t => toF32 mode (.nan (s || t))
  | .nan s, _ => toF32 mode (.nan s)
  | _, .nan t => toF32 mode (.nan t)
  | .inf _, .inf _ => toF32 mode (.nan true)
  | .inf x, .fin y _ _ => toF32 mode (.inf (x != y))
  | .fin x _ _, .inf y => toF32 mode (.fin (x != y) 0 0)
  | .fin x m e, .fin y n f =>
    if n = 0 then
      if m = 0 then toF32 mode (.nan true) else ((toF32 mode (.inf (x != y))).1, FpFlags.dz)
    else if m = 0 then toF32 mode (.fin (x != y) 0 0)
    else toF32 mode (.fin (x != y) (stickyDiv m n 64) (e - f - 65))

/-- The integer square root by bits from 2^k down. -/
def isqrtGo (n : Nat) : Nat → Nat → Nat
  | 0, r => r
  | k + 1, r => let t := r + 2 ^ k; if t * t ≤ n then isqrtGo n k t else isqrtGo n k r

/-- The integer square root of a number below 2^512. -/
def isqrt (n : Nat) : Nat := isqrtGo n 256 0

/-- √(m 2^e) with a sticky bit: the number and its exponent. -/
def stickySqrt (m : Nat) (e : Int) : Nat × Int :=
  let odd := decide (e % 2 = 1)
  let m2 := (if odd then 2 * m else m) * 2 ^ 80
  let e2 := (if odd then e - 1 else e) - 80
  let r := isqrt m2
  (2 * r + (if r * r = m2 then 0 else 1), e2 / 2 - 1)

/-- 1 / √(m 2^e) with a sticky bit. -/
def stickyRsqrt (m : Nat) (e : Int) : Nat × Int :=
  let odd := decide (e % 2 = 1)
  let m2 := if odd then 2 * m else m
  let e2 := if odd then e - 1 else e
  let n := 2 ^ 160
  let r := isqrt (n / m2)
  (2 * r + (if r * r * m2 = n then 0 else 1), -(e2 / 2) - 81)

/-! ## min, max and compares (12 R341, 03 R100) -/

/-- Some operand is a signalling NaN. -/
def Val.sig : Val → Bool
  | .nan s => s
  | _ => false
/-- The value is NaN. -/
def Val.isNan : Val → Bool
  | .nan _ => true
  | _ => false

/-- An order key: a < b of values that are not NaN, with -0 = +0. -/
def Val.lt : Val → Val → Bool
  | .nan _, _ => false
  | _, .nan _ => false
  | .inf a, .inf b => a && !b
  | .inf a, .fin .. => a
  | .fin .., .inf b => !b
  | .fin a m e, .fin b n f => let q := min e f; decide (dyInt a m e q < dyInt b n f q)

/-- Equal values of operands that are not NaN, with -0 = +0. -/
def Val.eq_ (a b : Val) : Bool := !a.isNan && !b.isNan && !a.lt b && !b.lt a

/-- The canonical NaN of FP32. -/
def nan32 : Lane := 0x7FC00000

/-- Sign bit of FP32. -/
def sign32 (x : Lane) : Bool := x.getLsbD 31

/-- The lesser of two FP32 values: +0 above -0, the canonical NaN with a NaN operand, NV for a signalling one. -/
def fpMin (a b : Lane) : Lane × FpFlags :=
  let x := f32 a
  let y := f32 b
  if x.isNan || y.isNan then (nan32, flagIf FpFlags.nv (x.sig || y.sig))
  else if x.lt y then (a, 0) else if y.lt x then (b, 0) else (if sign32 a then a else b, 0)

/-- The greater of two FP32 values. -/
def fpMax (a b : Lane) : Lane × FpFlags :=
  let x := f32 a
  let y := f32 b
  if x.isNan || y.isNan then (nan32, flagIf FpFlags.nv (x.sig || y.sig))
  else if x.lt y then (b, 0) else if y.lt x then (a, 0) else (if sign32 a then b else a, 0)

end Sys2Proof.Machine
end

