-- ==== Sys2Proof/Machine/Ops.lean ====
section
/-! DEFINITION. Sys2Proof/Machine/Ops.lean: the named operations over memory and over one core: registers, results in flight, the scoreboard, the
store gate, marks, taking a trap and resuming after one, and committing an issue group (06, 07, 08). -/

namespace Sys2Proof.Machine

/-! ## Byte memory (00 R12, log 2) -/

/-- The byte at an address; an unlisted address reads 0 (log 2). -/
def Memory.get : Memory → Nat → Byte
  | [], _ => 0
  | (a, b) :: m, x => if a = x then b else Memory.get m x

/-- Memory with one byte written, in canonical form. -/
def Memory.set : Memory → Nat → Byte → Memory
  | [], x, v => if v = 0 then [] else [(x, v)]
  | (a, b) :: m, x, v =>
    if x < a then (if v = 0 then (a, b) :: m else (x, v) :: (a, b) :: m)
    else if x = a then (if v = 0 then m else (x, v) :: m)
    else (a, b) :: Memory.set m x v

/-- The n bytes from an address. -/
def Memory.bytes (m : Memory) : Nat → Nat → List Byte
  | _, 0 => []
  | a, n + 1 => m.get a :: Memory.bytes m (a + 1) n

/-- Little-endian bytes of a number (00 R12). -/
def leBytes : Nat → Nat → List Byte
  | 0, _ => []
  | n + 1, x => BitVec.ofNat 8 x :: leBytes n (x / 256)

/-- Bytes with their addresses, from `a` up. -/
def cellsAt : Nat → List Byte → List (Nat × Byte)
  | _, [] => []
  | a, b :: bs => (a, b) :: cellsAt (a + 1) bs

/-- Write bytes at their addresses, in order. -/
def Memory.put : Memory → List (Nat × Byte) → Memory
  | m, [] => m
  | m, (a, b) :: l => Memory.put (m.set a b) l

/-- Memory with every byte of [lo, lo + n) zero. -/
def Memory.clear (m : Memory) (lo n : Nat) : Memory := m.filter fun c => decide (c.1 < lo) || decide (lo + n ≤ c.1)

/-- Memory with every byte outside the ranges (base, length) zero. -/
def Memory.keep (m : Memory) (rs : List (Nat × Nat)) : Memory :=
  m.filter fun c => rs.any fun r => decide (r.1 ≤ c.1) && decide (c.1 < r.1 + r.2)

/-! ## Registers (06 R180) -/

/-- A scalar register: s0 reads zero. -/
def Regs.gets (g : Regs) (r : Fin 32) : Word := if r = 0 then 0 else g.s[r]

/-- A predicate: p0 reads true. -/
def Regs.getp (g : Regs) (r : Fin 8) : Bool := if r = 0 then true else g.p.getLsbD r.val

/-- A token with the lanes of a mask taken from another (12 R338). -/
def Token.merge (old new : Token) (mask : BitVec 16) : Token :=
  { elem := lanes fun l => if mask.getLsbD l.val then new.elem[l] else old.elem[l]
    valid := (old.valid &&& ~~~mask) ||| (new.valid &&& mask) }

/-- A register written whole is no longer in error (01 R37). -/
def Regs.mend (g : Regs) (r : FullReg) : Regs := { g with bad := g.bad.filter (· ≠ r) }

/-- A write of a register lands: s0 and p0 discard it (06 R180). -/
def Regs.write (g : Regs) : RegWrite → Regs
  | .s r x => if r = 0 then g else { g.mend (.s r) with s := g.s.set r x }
  | .v r mask x =>
    if mask = BitVec.allOnes 16 then { g.mend (.v r) with v := g.v.set r x } else { g with v := g.v.set r (Token.merge g.v[r] x mask) }
  | .m r mask x => { g with m := g.m.set r ((g.m[r] &&& ~~~mask) ||| (x &&& mask)) }
  | .p r x => if r = 0 then g else { g with p := setBit g.p r.val x }
  | .h r x => { g.mend (.h r) with h := g.h.set r x }
  | .q _ _ => g
  | .w r x => { g.mend (.w r) with w := g.w.set r x }

/-- A full/empty bit; s0 is always full (06 R180, 10 R287). -/
def Regs.full (g : Regs) : FullReg → Bool
  | .s r => r == 0 || g.sFull.getLsbD r.val
  | .v r => g.vFull.getLsbD r.val
  | .h r => g.hFull.getLsbD r.val
  | .w r => g.wFull.getLsbD r.val

/-- A full/empty bit written. -/
def Regs.setFull (g : Regs) (r : FullReg) (b : Bool) : Regs :=
  match r with
  | .s r => { g with sFull := setBit g.sFull r.val b }
  | .v r => { g with vFull := setBit g.vFull r.val b }
  | .h r => { g with hFull := setBit g.hFull r.val b }
  | .w r => { g with wFull := setBit g.wFull r.val b }

/-- The register a write names. -/
def RegWrite.dest : RegWrite → DestReg
  | .s r _ => .s r
  | .v r _ _ => .v r
  | .m r _ _ => .m r
  | .p r _ => .p r
  | .h r _ => .h r
  | .q r _ => .q r
  | .w r _ => .w r

/-- The destination a register with a full/empty bit is. -/
def fullDest : FullReg → DestReg
  | .s r => .s r
  | .v r => .v r
  | .h r => .h r
  | .w r => .w r

/-- A write lands in the core: the register, and the shadow's copy where the result was issued before the mark (08 R240). -/
def Core.land (c : Core) (w : RegWrite) (old : Bool) : Core :=
  let c := match w with
    | .q r x => { c with q := c.q.set r x }
    | _ => { c with regs := c.regs.write w }
  if old then { c with shadow := { c.shadow with regs := c.shadow.regs.write w } } else c

/-! ## Results in flight (06 R178) -/

/-- Advancing cycles the last result in flight to a register still runs. -/
def lastLeft (l : List InFlight) (d : DestReg) : Nat :=
  l.foldl (fun n f => if f.write.dest = d then max n f.left else n) 0

/-- A result of latency `lat` joins those in flight: after any earlier one to its register (06 R178). -/
def Core.send (c : Core) (w : RegWrite) (lat : Nat) : Core :=
  { c with flight := c.flight ++ [{ write := w, left := max lat (lastLeft c.flight w.dest + 1), old := false }] }

/-- One advancing cycle passes: the results whose cycle this is land, in issue order (06 R178). -/
def Core.advance (c : Core) : Core :=
  let fl := c.flight.map fun f => { f with left := f.left - 1 }
  let c := (fl.filter fun f => f.left = 0).foldl (fun c f => c.land f.write f.old) c
  { c with flight := fl.filter fun f => f.left ≠ 0 }

/-! ## Long-latency fills (06 R181 to R183) -/

/-- A long-latency fill of the register is pending; s0 has none to wait for (06 R180, R183). -/
def Core.pending (c : Core) (r : FullReg) : Bool := r != .s 0 && c.fills.any fun f => f.reg = r

/-- A long-latency destination becomes empty (06 R181). -/
def Core.markEmpty (c : Core) (r : FullReg) (v : Option RegWrite) : Core :=
  { c with regs := c.regs.setFull r false, fills := c.fills ++ [{ reg := r, value := v, old := false }] }

/-- The first of a list's fills of a register that has no value gets one. -/
def giveFill (r : FullReg) (w : RegWrite) : List Fill → List Fill
  | [] => []
  | f :: fs => if f.reg = r ∧ f.value = none then { f with value := some w } :: fs else f :: giveFill r w fs

/-- A long-latency value returns to the core; it lands at REGISTER_FILL. -/
def Core.give (c : Core) (r : FullReg) (w : RegWrite) : Core := { c with fills := giveFill r w c.fills }

/-- The first fill of a register whose value has returned, and the others. -/
def takeFill (r : FullReg) : List Fill → Option (RegWrite × Bool × List Fill)
  | [] => none
  | f :: fs =>
    match f.value with
    | some w => if f.reg = r then some (w, f.old, fs)
                else (takeFill r fs).map fun (w, o, l) => (w, o, f :: l)
    | none => (takeFill r fs).map fun (w, o, l) => (w, o, f :: l)

/-- A fill lands and marks its register full (06 R181), in program order after older results in flight to it (log 7). -/
def Core.landFill (c : Core) (r : FullReg) : Option Core :=
  match takeFill r c.fills with
  | none => none
  | some (w, old, fs) =>
    let c := { c with fills := fs, flight := c.flight.filter fun f => f.write.dest ≠ fullDest r }
    let c := c.land w old
    let c := { c with regs := c.regs.setFull r true }
    some (if old then { c with shadow := { c.shadow with regs := c.shadow.regs.setFull r true } } else c)

/-! ## Sources and their T bits (06 R182, 10 R287) -/

/-- A source with its T bit. -/
abbrev Src := FullReg × Bool

/-- Some source with T = 0 is empty: the group stalls. -/
def Core.stalls (c : Core) (l : List Src) : Bool := l.any fun x => !x.2 && !c.regs.full x.1

/-- Some source has an uncorrectable error (01 R39). -/
def Core.badSource (c : Core) (l : List Src) : Bool := l.any fun x => c.regs.bad.contains x.1

/-- Some source with T = 1 is empty: the group traps. -/
def Core.emptyRead (c : Core) (l : List Src) : Bool := l.any fun x => x.2 && !c.regs.full x.1

/-! ## Intervals and the range scoreboard (06 R200 to R202) -/

/-- The interval rounded outward to 32-byte granules. -/
def Span.round (x : Span) : Span := { lo := x.lo / 32 * 32, hi := x.hi / 32 * 32 + 31 }

/-- Two intervals share a byte. -/
def Span.meets (a b : Span) : Bool := decide (a.lo ≤ b.hi) && decide (b.lo ≤ a.hi)

/-- Two intervals that may be absent share a byte. -/
def meets : Option Span → Option Span → Bool
  | some a, some b => a.meets b
  | _, _ => false

/-- The smallest interval over two. -/
def Span.hull (a b : Span) : Span := { lo := min a.lo b.lo, hi := max a.hi b.hi }

/-- The interval of n bytes from an address; none of no bytes. -/
def spanOf (a n : Nat) : Option Span := if n = 0 then none else some { lo := a, hi := a + n - 1 }

/-- An operation with these intervals waits for an older entry (06 R201). -/
def RsbEntry.blocks (e : RsbEntry) (r0 r1 w : Option Span) : Bool :=
  meets r0 e.write || meets r1 e.write || meets w e.read0 || meets w e.read1 || meets w e.write

/-- The entry with an identifier. -/
def Core.entry (c : Core) (id : Nat) : Option RsbEntry := c.rsb.find? fun e => e.id = id

/-- The operation of an entry waits for an older one (06 R201). -/
def Core.rsbHeld (c : Core) (id : Nat) : Bool :=
  match c.entry id with
  | none => false
  | some e => c.rsb.any fun o => decide (o.id < id) && o.blocks e.read0 e.read1 e.write

/-- The operation may start as far as the scoreboard goes; one without an entry always may. -/
def Core.rsbClear (c : Core) : Option Nat → Bool
  | none => true
  | some id => !c.rsbHeld id

/-- A new entry at the end of the scoreboard, its intervals in granules; none where there is no interval. -/
def Core.takeEntry (c : Core) (o : RsbOwner) (r0 r1 w : Option Span) : Core × Option Nat :=
  if r0 = none ∧ r1 = none ∧ w = none then (c, none)
  else
    ({ c with rsb := c.rsb ++ [{ id := c.rsbNext, owner := o, read0 := r0.map Span.round, read1 := r1.map Span.round,
                                 write := w.map Span.round }], rsbNext := c.rsbNext + 1 },
     some c.rsbNext)

/-- An entry frees. -/
def Core.freeEntry (c : Core) : Option Nat → Core
  | none => c
  | some id => { c with rsb := c.rsb.filter fun e => e.id ≠ id }

/-- An entry releases its read intervals, and frees when it has no other (06 R202). -/
def Core.freeReads (c : Core) : Option Nat → Core
  | none => c
  | some id =>
    { c with rsb := (c.rsb.map fun e => if e.id = id then { e with read0 := none, read1 := none } else e).filter
                      fun e => e.id ≠ id || e.write != none }

/-- An LS access of an interval conflicts with an entry (06 R201). -/
def Core.lsConflict (c : Core) (r w : Option Span) : Bool :=
  c.rsb.any fun e => e.blocks (r.map Span.round) none (w.map Span.round)

/-- The entries there are: 32. Landings that the full scoreboard holds stand behind them in order of dispatch, and take the next that free (05 R157). -/
def Core.entriesHeld (c : Core) : List RsbEntry := c.rsb.take 32

/-- An operation has its entry. -/
def Core.hasEntry (c : Core) (id : Nat) : Bool := c.entriesHeld.any fun e => e.id == id

/-- Entries whose operation waits. -/
def Core.rsbWaiting (c : Core) : Nat := (c.entriesHeld.filter fun e => c.rsbHeld e.id).length

/-! ## Banks and the local window (06 R184, R188, R189, 07 R209) -/

/-- The first address past the local window. -/
def windowEnd : Nat := 0xC0000

/-- The mode code of SCRATCH, CACHE and FIFO (06 R188). -/
def scratchMode : Fin 4 := 0
def cacheMode : Fin 4 := 1
def fifoMode : Fin 4 := 2

/-- The bank of a local address. -/
def bankOf (a : Nat) : Fin 16 := ⟨a / 0xC000 % 16, by omega⟩

/-- Every bank that an interval inside the window touches is in issued mode SCRATCH. -/
def Core.scratchOnly (c : Core) (x : Span) : Bool :=
  (List.range 16).all fun b =>
    decide (x.hi / 0xC000 < b) || decide (b < x.lo / 0xC000) || c.modes[bankOf (b * 0xC000)] == scratchMode

/-- The interval of a bank. -/
def bankSpan (b : Fin 16) : Span := { lo := b.val * 0xC000, hi := b.val * 0xC000 + 0xBFFF }

/-- The CODE region of the running firing (06 R187). -/
def Core.codeSpan (c : Core) : Option Span :=
  match c.firing with
  | some f => spanOf f.task.codeBase (f.task.codeEnd - f.task.codeBase)
  | none => none

/-- An interval meets the CODE region. -/
def Core.meetsCode (c : Core) (x : Span) : Bool := meets (some x) c.codeSpan

/-- The core has a bank in CACHE mode (06 R190). -/
def Core.hasCache (c : Core) : Bool := (List.range 16).any fun b => c.modes[bankOf (b * 0xC000)] == cacheMode

/-! ## The store gate (07 R224, 08 R239) -/

/-- The byte a list of cells leaves at an address: its last there. -/
def cellAt : List (Nat × Byte) → Nat → Option Byte
  | [], _ => none
  | (a, b) :: l, x =>
    match cellAt l x with
    | some v => some v
    | none => if a = x then some b else none

/-- The newest gated byte at a local address. -/
def gatedByte : List GateEntry → Nat → Option Byte
  | [], _ => none
  | e :: es, x =>
    match gatedByte es x with
    | some b => some b
    | none =>
      match e.store with
      | .scratch l => cellAt l x
      | .global .. => none

/-- A local byte as the LS slot reads it: the newest gated byte, else the scratchpad's (07 R224). -/
def Core.localByte (c : Core) (a : Nat) : Byte :=
  match gatedByte c.gate a with
  | some b => b
  | none => c.spad.get a

/-- The n local bytes from an address, as the LS slot reads them. -/
def Core.localBytes (c : Core) : Nat → Nat → List Byte
  | _, 0 => []
  | a, n + 1 => c.localByte a :: Core.localBytes c (a + 1) n

/-- Entries the gate holds. -/
def gateRows (l : List GateEntry) : Nat := l.foldl (fun n e => n + e.rows) 0

/-- The gate holds scratchpad bytes of an interval. -/
def Core.gatedMeets (c : Core) (x : Option Span) : Bool :=
  x.any fun w => c.gate.any fun e => match e.store with
    | .scratch l => l.any fun b => decide (w.lo ≤ b.1) && decide (b.1 ≤ w.hi)
    | .global .. => false

/-- An entry of the gate holds a `gst`. -/
def GateEntry.isGlobal (e : GateEntry) : Bool :=
  match e.store with
  | .global .. => true
  | .scratch _ => false

/-- The gate holds a `gst`; how many it holds, each a request to come (02 R56). -/
def Core.gatedGlobal (c : Core) : Bool := c.gate.any GateEntry.isGlobal
def Core.gatedGlobals (c : Core) : Nat := (c.gate.filter GateEntry.isGlobal).length

/-- The 64-byte rows an interval touches. -/
def rowsOf (x : Span) : Nat := x.hi / 64 - x.lo / 64 + 1

/-! ## What a core hands to the rest of the module -/

/-- What leaves a core when a group commits. -/
inductive Out where
  /-- a global request, in program order (07 R217) -/
  | request (kind : ReqKind) (va pa size : Nat) (via : Handle) (chained : Bool)
  /-- an `xlat` that missed (06 R205) -/
  | walk (h : Fin 16) (va : Nat)
  /-- a mark is taken: what was issued before it is no longer discarded by a rollback (08 R237) -/
  | marked
  /-- a trap is taken (08 R240), its handler the pager or the steward -/
  | trapped (t : TrapInfo)
  /-- a trigger's message (11 R332) -/
  | triggered
  deriving DecidableEq, Repr

/-- Every byte of an 8-byte word is among the cells. -/
def coversWord (l : List (Nat × Byte)) (w : Nat) : Bool := (List.range 8).all fun k => (cellAt l (w / 8 * 8 + k)).isSome

/-- Bytes reach the scratchpad; a word they rewrite is no longer in error (01 R39, 08 R249). -/
def Core.putSpad (c : Core) (l : List (Nat × Byte)) : Core :=
  { c with spad := c.spad.put l, badWords := c.badWords.filter fun w => !coversWord l w }

/-- One gated store is released: its bytes to the scratchpad, or a request. -/
def Core.releaseOne (c : Core) (e : GateEntry) : Core × List Out :=
  match e.store with
  | .scratch l => (c.putSpad l, [])
  | .global va pa size x h => (c, [.request (.store size x) va pa size h true])

/-- The gate releases its stores in program order (07 R224). -/
def Core.release (c : Core) : Core × List Out :=
  let r := c.gate.foldl (fun r e => let q := r.1.releaseOne e; (q.1, r.2 ++ q.2)) ((c, []) : Core × List Out)
  ({ r.1 with gate := [] }, r.2)

/-! ## Marks (08 R237, R238) -/

/-- A mark: the shadow takes the registers, the flags, the section, the loops, and where execution restarts. -/
def Core.mark (c : Core) : Core :=
  { c with
    shadow := { regs := c.regs, flags := fpcrFlags c.fpcr, nps := c.nps.isSome, loops := c.loops, pc := c.issue.pc,
                group := c.issue.second }
    flight := c.flight.map fun f => { f with old := true }
    fills := c.fills.map fun f => { f with old := true } }

/-- The gate releases and a mark is taken. -/
def Core.releaseMark (c : Core) : Core × List Out :=
  let r := c.release
  (r.1.mark, r.2 ++ [.marked])

/-! ## Taking a trap (08 R236, R240) -/

/-- A trap of a code in a slot with no other field. -/
def trapOf (code : Byte) (slot : Fin 8) : TrapInfo :=
  { code, kind := 0, slot, addr := 0, space := 0, access := 0, xch := 0, seq := 0, xid := 0, subidx := 0 }

/-- A deferred fault as a trap of KIND 2, or of KIND 3 for NPS_OVERRUN and HERD_ABORT (08 R243, R244). -/
def DFault.info (d : DFault) : TrapInfo :=
  { code := d.code, kind := if d.code = 0x0E ∨ d.code = 0x17 then 3 else 2, slot := 0, addr := d.addr, space := d.space, access := d.access, xch := d.xch, seq := d.seq,
    xid := d.xid, subidx := 0 }

/-- The codes of Table 8-1. -/
def trapIllegalOp : Byte := 0x01
def trapUnitAbsent : Byte := 0x02
def trapEmptyRead : Byte := 0x03
def trapSpadBounds : Byte := 0x04
def trapCodeBounds : Byte := 0x05
def trapHandleInvalid : Byte := 0x06
def trapHandleBounds : Byte := 0x07
def trapPageFault : Byte := 0x08
def trapProtFault : Byte := 0x09
def trapAccUnalloc : Byte := 0x0A
def trapAccOwner : Byte := 0x0B
def trapAccExhausted : Byte := 0x0C
def trapEccUncorr : Byte := 0x0D
def trapNpsOverrun : Byte := 0x0E
def trapLateMiss : Byte := 0x0F
def trapLoadIntegrity : Byte := 0x10
def trapStoreGateFull : Byte := 0x11
def trapAlign : Byte := 0x12
def trapBankMode : Byte := 0x13
def trapStreamCfg : Byte := 0x14
def trapSoft : Byte := 0x15
def trapBreak : Byte := 0x16
def trapHerdAbort : Byte := 0x17

/-- TRAP_REC0 (08 Table 8-2). -/
def trapRec0 (t : TrapInfo) (nps : Bool) (f : Option Firing) : Word :=
  let tag := match f with | some f => f.tag.toNat | none => 0
  let rank := match f with | some f => f.rank | none => 0
  let task := match f with | some f => f.task.num | none => 0
  BitVec.ofNat 64 (tag * 2 ^ 48 + rank % 4096 * 2 ^ 36 + task % 65536 * 2 ^ 20 + t.subidx.val * 2 ^ 16 + t.slot.val * 2 ^ 13
    + t.kind.val * 2 ^ 10 + boolBit nps * 2 ^ 9 + t.code.toNat)

/-- TRAP_REC1 (08 Table 8-2). -/
def trapRec1 (bpc mark : Nat) : Word := BitVec.ofNat 64 (bpc % 2 ^ 20 * 2 ^ 44 + mark % 2 ^ 20 * 2 ^ 24)

/-- TRAP_REC3 (08 Table 8-2). -/
def trapRec3 (t : TrapInfo) : Word :=
  BitVec.ofNat 64 (t.space.val * 2 ^ 62 + t.access.val * 2 ^ 59 + t.xch.val * 2 ^ 56 + t.seq.toNat * 2 ^ 40
    + t.xid.toNat % 2 ^ 40)

/-- A hold that an instruction of 08 Table 8-3 made, which the mark after it stands behind. -/
def Wait.closes : Wait → Bool
  | .xdone _ _ => false
  | .wcc _ => false
  | _ => true

/-- The rollback of 08 R240: the shadow comes back, the gate and what was issued since the mark are discarded, PC is MARK. -/
def Core.rollback (c : Core) : Core :=
  { c with
    regs := c.shadow.regs
    fpcr := putFlags c.fpcr c.shadow.flags
    loops := c.shadow.loops
    gate := []
    flight := c.flight.filter (·.old)
    fills := c.fills.filter (·.old)
    issue := { Issue.at_ c.shadow.pc with second := c.shadow.group, waits := c.issue.waits.filter Wait.closes }
    fetched := [] }

/-- The trap's record, written (08 Table 8-2); `bpc` is the bundle of the cause. -/
def Core.writeRecord (c : Core) (t : TrapInfo) (bpc : Nat) : Core :=
  { c with trapRec := #v[trapRec0 t c.nps.isSome c.firing, trapRec1 bpc c.shadow.pc, t.addr, trapRec3 t] }

/-- Taking a trap (08 R240, R243, R244): the record, the rollback, the section closed, the firing FAULTED. -/
def Core.takeTrap (c : Core) (t : TrapInfo) (bpc : Nat) : Core × List Out :=
  let c := (c.writeRecord t bpc).rollback
  ({ c with nps := none, firing := c.firing.map fun f => { f with state := .faulted } }, [.trapped t])

/-- Return from a trap (08 R241, R249, R257): the section the shadow records open opens afresh, and the firing runs again. -/
def Core.resume (c : Core) : Core :=
  { c with
    nps := if c.shadow.nps then some 0 else none
    firing := c.firing.map fun f => { f with state := if f.trig then .triggered else .running, failed := none } }

/-! ## Identifiers (06 R199) -/

/-- XDONE of a channel: below it every transfer has completed. -/
def doneBelow (next : Word) (open_ : List Word) : Word := open_.foldl (fun d x => if x < d then x else d) next

/-- The identifiers of a channel still open. -/
def Core.openOn (c : Core) (ch : Fin 4) : List Word := (c.xopen.filter fun x => x.1 = ch).map (·.2)

/-- XDONE registers as the open transfers leave them. -/
def Core.setDone (c : Core) (ch : Fin 4) : Core := { c with xdone := c.xdone.set ch (doneBelow c.xnext[ch] (c.openOn ch)) }

/-- A transfer takes the next identifier of its channel. -/
def Core.takeXid (c : Core) (ch : Fin 4) : Core × Word :=
  let id := c.xnext[ch]
  (({ c with xnext := c.xnext.set ch (id + 1), xopen := c.xopen ++ [(ch, id)] } : Core).setDone ch, id)

/-- A transfer of a channel completes. -/
def Core.doneXid (c : Core) (ch : Fin 4) (id : Word) : Core :=
  ({ c with xopen := c.xopen.filter fun x => x ≠ (ch, id) } : Core).setDone ch

/-- A backed publication takes the next identifier (07 R228). -/
def Core.takePb (c : Core) : Core × Word :=
  ({ c with pbnext := c.pbnext + 1, pbopen := c.pbopen ++ [c.pbnext], pbdone := doneBelow (c.pbnext + 1) (c.pbopen ++ [c.pbnext]) },
   c.pbnext)

/-- A backed publication completes. -/
def Core.donePb (c : Core) (id : Word) : Core :=
  let l := c.pbopen.filter fun x => x ≠ id
  { c with pbopen := l, pbdone := doneBelow c.pbnext l }

/-! ## Engine queues (06 Table 6-4) -/

/-- A queue's operations. -/
def Core.queue (c : Core) : Queue → List EngJob
  | .matrix => c.matQ
  | .scan => c.scanQ
  | .stats => c.statQ
  | .bank => c.bankQ

/-- A queue written. -/
def Core.setQueue (c : Core) (q : Queue) (l : List EngJob) : Core :=
  match q with
  | .matrix => { c with matQ := l }
  | .scan => { c with scanQ := l }
  | .stats => { c with statQ := l }
  | .bank => { c with bankQ := l }

/-- Entries of a queue; mode clears have one a bank. -/
def queueSize : Queue → Nat
  | .matrix => 8
  | .scan => 4
  | .stats => 4
  | .bank => 16

/-- Operations a group has added to a queue so far. -/
def addedTo (q : Queue) (l : List Effect) : Nat :=
  (l.filter fun e => match e with
    | .engine q' .. => q' == q
    | .bankmode .. => q == .bank
    | _ => false).length

/-- The queue is full (06 R193). -/
def Core.queueFull (c : Core) (q : Queue) : Bool :=
  decide (queueSize q ≤ (c.queue q).length + addedTo q c.issue.effects)

/-- Entries of the scoreboard a group has taken so far. -/
def entriesTaken (l : List Effect) : Nat :=
  (l.filter fun e => match e with
    | .bankmode .. => true
    | .engine _ _ r0 r1 w => r0 != none || r1 != none || w != none
    | .copy _ _ r w => r != none || w != none
    | .fabric _ r => r != none
    | .fetch _ _ _ _ w => w != none
    | .recv _ _ _ w => w != none
    | _ => false).length

/-- No entry of the scoreboard is free for one more operation (06 R201). -/
def Core.rsbFull (c : Core) : Bool := decide (32 ≤ c.rsb.length + entriesTaken c.issue.effects)

/-- The fabric port holds its eight operations (14 R393). -/
def Core.portFull (c : Core) : Bool := decide (8 ≤ c.port.length)

/-- Streamer commands a group has taken so far. -/
def commandsTaken (l : List Effect) : Nat :=
  (l.filter fun e => match e with
    | .copy .. => true
    | _ => false).length

/-- Commands beyond a core's eight reserved places (06 R196). -/
def beyondShare (n : Nat) : Nat := n - 8

/-! ## Accumulators (06 R193) -/

/-- An element of a bank. -/
def Core.accGet (c : Core) (bank row col : Nat) : Lane := (assoc c.acc (bank * 256 + row * 16 + col)).getD 0

/-- An element of a bank written; +0 is not listed. -/
def accSet (l : List (Nat × Lane)) (bank row col : Nat) (x : Lane) : List (Nat × Lane) :=
  if x = 0 then dropKey l (bank * 256 + row * 16 + col) else assocSet l (bank * 256 + row * 16 + col) x

/-! ## The loop stack (11 R325 to R328) -/

/-- The pops of a transfer to `t` (11 R328). -/
def popLoops (t : Nat) : List LoopEntry → List LoopEntry
  | [] => []
  | e :: es => if e.start ≤ t ∧ t < e.stop then e :: es else popLoops t es

/-- The boundary at address `a` with no transfer: the stack, and the loop start if control goes back (11 R327). -/
def loopBack (a : Nat) : List LoopEntry → List LoopEntry × Option Nat
  | [] => ([], none)
  | e :: es =>
    if e.stop = a then
      if 1 < e.count.toNat then ({ e with count := e.count - 1 } :: es, some e.start) else loopBack a es
    else (e :: es, none)

/-! ## Committing a group (06 R177, 11 R337) -/

/-- A firing's token count under a record (05 R170). -/
def addPub : List (Nat × Nat) → Nat → Nat → List (Nat × Nat) := fun l k n => assocSet l k ((assoc l k).getD 0 + n)

/-- The page of a size holding an address. -/
def PageSize.log : PageSize → Nat
  | .k64 => 16
  | .m2 => 21
  | .g2 => 31

/-- A cached translation of an address in a namespace; 2 GiB, 2 MiB and 64 KiB pages alike (06 R205). -/
def TlbEntry.maps (e : TlbEntry) (ns : BitVec 8) (va : Nat) : Bool :=
  e.ns == ns && decide (va / 2 ^ e.page.size.log = e.page.vpage / 2 ^ e.page.size.log)

/-- The entry that maps an address, and the cache with it most recent. -/
def tlbHit (l : List TlbEntry) (ns : BitVec 8) (va : Nat) : Option (Handle × List TlbEntry) :=
  match l.find? fun e => e.maps ns va with
  | none => none
  | some e => some (e.page, (l.filter fun x => x ≠ e) ++ [e])

/-- The namespace of the running firing. -/
def Core.ns (c : Core) : BitVec 8 :=
  match c.firing with
  | some f => f.ns
  | none => 0

/-- A job joins its queue. -/
def Core.pushJob (c : Core) (q : Queue) (op : EngOp) (rsb : Option Nat) : Core :=
  c.setQueue q (c.queue q ++ [{ op, rsb, started := false, faulted := false, stage := 0, q := [], g := [] }])

/-- The tile request a streamer command performs: a load or a store; its pages are found when it is prepared. -/
def copyRequest : CopyOp → List Out
  | .tld _ va _ h => [.request .tileLoad va 0 0 h true]
  | .tst _ va _ h => [.request .tileStore va 0 0 h true]
  | .cpy .. => []
  | .cpy2d .. => []
  | .fill .. => []

/-- The VSN and the number of chunks an operation of the port sends (14 R400). -/
def sendsOf : FxOp → Fin 256 × Nat
  | .coll n d _ _ => (n, (bits d.lo.toNat 12 12 + 1) * (bits d.lo.toNat 4 8 + 1))
  | .collW n _ _ => (n, 1)
  | _ => (0, 0)

/-- One effect of a committing group. -/
def Core.commit (c : Core) : Effect → Core × List Out
  | .result w lat => (c.send w lat, [])
  | .empty r => (c.markEmpty r none, [])
  | .fill r w => (c.markEmpty r (some w), [])
  | .flags f => ({ c with fpcr := orFlags c.fpcr f }, [])
  | .gate e => ({ c with gate := c.gate ++ [e] }, [])
  | .jump t pops => ({ c with issue := { c.issue with transfer := some (t, pops) } }, [])
  | .loopPush a b n => ({ c with loops := { start := a, stop := b, count := n } :: c.loops }, [])
  | .setFpcr x => ({ c with fpcr := x }, [])
  | .setKey k x => ({ c with keys := c.keys.set k (x.setWidth 32) }, [])
  | .wait w =>
    ({ c with issue := { c.issue with waits := c.issue.waits ++ [w] }, barWait := if w = .phase then 0 else c.barWait }, [])
  | .retire => ({ c with issue := { c.issue with retiring := true } }, [])
  | .trigger =>
    match c.firing with
    | some f => if f.state = .running then ({ c with firing := some { f with state := .triggered, trig := true } }, [.triggered]) else (c, [])
    | none => (c, [])
  | .soft code imm => ({ c with issue := { c.issue with soft := some (code, imm) } }, [])
  | .nps true => ({ c with nps := some (c.nps.getD 0) }, [])
  | .nps false => ({ c with nps := none }, [])
  | .accMap x => ({ c with accMap := x }, [])
  | .accOwn x => ({ c with accOwn := x }, [])
  | .bankmode b m =>
    let r := c.takeEntry .bankmode none none (some (bankSpan (bankOf (b * 0xC000))))
    (({ r.1 with modes := r.1.modes.set (bankOf (b * 0xC000)) ⟨m % 4, by omega⟩,
                 cache := r.1.cache.filter fun k => k.bank ≠ bankOf (b * 0xC000) } : Core).pushJob .bank (.bankmode b m) r.2, [])
  | .engine q op r0 r1 w =>
    let r := c.takeEntry (.engine q) r0 r1 w
    let d := r.1.pushJob q op r.2
    (match op with
     | .scdef _ => { d with userNext := true }
     | _ => d, [])
  | .copy (.cpy _ _ 0) _ _ _ =>
    let x := c.takeXid 2
    (x.1.doneXid 2 x.2, [])
  | .copy op t r w =>
    let e := c.takeEntry .copy r none w
    let x := e.1.takeXid op.channel
    ({ x.1 with copies := x.1.copies ++ [{ op, rsb := e.2, xid := x.2, time := t, started := false, done := false, req := none }] },
     copyRequest op)
  | .fabric op r =>
    let e := c.takeEntry .fabric r none none
    match op with
    | .pub n t d true live _ =>
      let p := e.1.takePb
      ({ p.1 with port := p.1.port ++ [{ op := .pub n t d true live (some p.2), rsb := e.2 }] }, [])
    | op =>
      let k := sendsOf op
      ({ e.1 with port := e.1.port ++ [{ op, rsb := e.2 }],
                  sendCnt := if k.2 = 0 then e.1.sendCnt
                             else putKey e.1.sendCnt k.1 (lookupD 0 e.1.sendCnt k.1 + BitVec.ofNat 16 k.2) }, [])
  | .fetch n t d void w =>
    if void then
      let x := c.takeXid 3
      (x.1.doneXid 3 x.2, [])
    else
      let e := c.takeEntry .receive none none w
      let x := e.1.takeXid 3
      ({ x.1 with fetches := x.1.fetches ++ [{ xid := x.2, name := n, tag := t, desc := d, rsb := e.2, missed := false }],
                  port := x.1.port ++ [{ op := .fetch n t x.2, rsb := none }] }, [])
  | .recv n d k w =>
    let e := c.takeEntry .receive none none w
    let x := e.1.takeXid 3
    let tag := match x.1.firing with | some f => f.tag | none => 0
    ({ x.1 with recvs := x.1.recvs ++ [{ vsn := n, tag, into := .inl (d, x.2, e.2.getD 0), landed := 0 }],
                recvCnt := putKey x.1.recvCnt n (lookupD 0 x.1.recvCnt n + BitVec.ofNat 16 k) }, [])
  | .recvW n w =>
    let tag := match c.firing with | some f => f.tag | none => 0
    let c := c.markEmpty (.w w) none
    ({ c with recvs := c.recvs ++ [{ vsn := n, tag, into := .inr w, landed := 0 }],
              recvCnt := putKey c.recvCnt n (lookupD 0 c.recvCnt n + 1) }, [])
  | .load r ty va pa h => (c.markEmpty (.s r) none, [.request (.load r ty c.hasCache) va pa (tySize ty) h true])
  | .amo op r ty va pa h x y =>
    let c := c.markEmpty (.s r) none
    ({ c with cache := c.cache.filter fun k => k.line ≠ pa / 128 },
     [.request (.amo op r ty x y) va pa (tySize ty) h true])
  | .prefetch va pa h => (c, [.request (.prefetch c.hasCache) va pa 1 h false])
  | .xlat h va =>
    match tlbHit c.tlb c.ns va with
    | some (p, l) => (({ c with tlb := l } : Core).send (.h h p) 4, [])
    | none => (c.markEmpty (.h h) none, [.walk h va])
  | .drop line => ({ c with cache := c.cache.filter fun k => k.line ≠ line }, [])
  | .dropAll => ({ c with cache := [] }, [])
  | .pubTokens k n => ({ c with firing := c.firing.map fun f => { f with pubs := addPub f.pubs k n } }, [])
  | .herdArrive =>
    let herd := match c.firing with | some f => f.task.herd | none => false
    ({ c with barArr := c.barArr + 1, barRel := if herd then c.barRel else c.barArr + 1 }, [])

/-- Flags are ORed in last: into a value the group's `swr` writes too (11 R337). -/
def Effect.isFlags : Effect → Bool
  | .flags _ => true
  | _ => false

/-- A list of effects, in order. -/
def Core.commitAll (c : Core) : List Effect → Core × List Out
  | [] => (c, [])
  | e :: es =>
    let r := c.commit e
    let q := r.1.commitAll es
    (q.1, r.2 ++ q.2)

/-- A group's effects: the slots' in order, their flags last. -/
def Core.commitGroup (c : Core) (l : List Effect) : Core × List Out :=
  c.commitAll ((l.filter fun e => !e.isFlags) ++ l.filter Effect.isFlags)

end Sys2Proof.Machine
end

