-- ==== Sys2Proof/Machine/Issue.lean ====
section
/-! DEFINITION. Sys2Proof/Machine/Issue.lean: how a slot issues with its group (06 R176 to R183, 08 R237 to R240, 10 R280 to R286, 11 R321 to R333):
the slot's evaluation, the group's commit, the bundle boundary, and what the rest of the module receives. -/

namespace Sys2Proof.Machine

/-- What a slot sees beside its core: the core's number, the counter, the module's and the partition's registers, whether
its requests stand, the shared places of its streamer's buffer and those its neighbours take (06 R196), the landing ranges of its
pens' tasks (06 R192). -/
structure Env where
  core        : Nat
  wcc         : Word
  caps        : Word
  hop         : Word
  plane       : Bool
  shadow      : Bool
  draining    : Bool
  part        : Fin 16
  outstanding : Nat
  globalsDone : Bool
  shared      : Nat
  taken       : Nat
  landings    : List Span
  deriving DecidableEq, Repr

/-- The streamer has no place for one more command of the core (06 R196). -/
def Core.streamerFull (c : Core) (e : Env) : Bool :=
  let n := c.copies.length + commandsTaken c.issue.effects
  decide (8 ≤ n) && decide (e.shared ≤ e.taken + beyondShare n)

/-- What a slot that executes would do. -/
inductive SlotResult where
  /-- a structural stall holds the group (06 R178) -/
  | hold
  /-- a trap of its own (06 R182) -/
  | trap (t : TrapInfo)
  | go (es : List Effect)
  /-- as `go`, the gate released before the group: a `gld` behind a gated `gst` (07 R224) -/
  | goRelease (es : List Effect)
  deriving DecidableEq, Repr

/-- A slot's demands: its sources with their T bits, its destinations with full/empty bits, a stall its operands have no part
in, and what it does once they allow it. -/
structure SlotReq where
  srcs   : List Src
  dests  : List FullReg
  busy   : Bool
  result : SlotResult

/-- A slot form's meaning: what it asks and does, from what it sees, its core and its position. -/
abbrev Sem := Env → Core → Fin 8 → SlotReq

/-- The predicate lets the slot execute (10 R286). -/
def Core.executes (c : Core) (p : Pred) : Bool := c.regs.getp p.reg != p.sense

/-- The position of the slot whose turn it is. -/
def Core.slotPos (c : Core) : Fin 8 :=
  match c.issue.todo with
  | [] => 0
  | (k, _) :: _ => k

/-- A slot that executes, judged in the order of 06 R182: stalls, then EMPTY_READ, then an error in a source (01 R39, log 31), then the
instruction's own traps. -/
def SlotReq.judge (r : SlotReq) (c : Core) (pos : Fin 8) : SlotResult :=
  if c.stalls r.srcs || r.dests.any c.pending || r.busy then .hold
  else if c.emptyRead r.srcs then .trap (trapOf trapEmptyRead pos)
  else if c.badSource r.srcs then .trap (trapOf trapEccUncorr pos)
  else r.result

/-- The slot's part joins its group's. -/
def Issue.gather (i : Issue) (closing : Bool) (r : SlotResult) : Issue :=
  let i := { i with todo := i.todo.tail, closing := i.closing || closing }
  match r with
  | .hold => { i with hold := true }
  | .trap t => { i with trap := (match i.trap with | some u => some u | none => some t) }
  | .go es => { i with effects := i.effects ++ es }
  | .goRelease es => { i with effects := i.effects ++ es, release := true }

/-- The slots of a bundle's first or second group (10 R282). -/
def groupSlots (b : Bundle) (second : Bool) : List (Fin 8 × Instr) := b.slots.filter fun x => inFirst b.split x.1 != second

/-- The group stands at its first slot again. -/
def Issue.restart (i : Issue) : Issue :=
  { i with
    todo := (match i.bundle with | some b => groupSlots b i.second | none => [])
    effects := [], hold := false, trap := none, closing := false, release := false }

/-! ## What holds the next group (07 R229, 11 R329, R330, 14 R398) -/

/-- A copy-queue operation. -/
def CopyJob.isCopy (j : CopyJob) : Bool := j.op.channel == 2

/-- A carry send in the scan queue. -/
def EngJob.isSend (j : EngJob) : Bool :=
  match j.op with
  | .csend .. => true
  | _ => false

/-- A publication, a stream's end or a collective send in the fabric port. -/
def FxJob.isSend (j : FxJob) : Bool :=
  match j.op with
  | .pub .. => true
  | .eosRequest .. => true
  | .coll .. => true
  | .collW .. => true
  | .cmark .. => true
  | .fetch .. => false
  | .subq .. => false
  | .arrive .. => false
  | .trigger => false

/-- The condition holds. -/
def Core.waitOk (c : Core) (env : Env) : Wait → Bool
  | .globals => env.globalsDone
  | .engines => c.matQ.isEmpty && c.scanQ.isEmpty && c.statQ.isEmpty && c.bankQ.isEmpty && !c.copies.any CopyJob.isCopy
  | .fabric => !c.port.any FxJob.isSend && !c.scanQ.any EngJob.isSend
  | .xdone ch id => decide (id < c.xdone[ch])
  | .wcc t => decide (t ≤ env.wcc)
  | .arrived => !c.port.any fun j => match j.op with
    | .arrive .. => true
    | _ => false
  | .phase => decide (c.barArr ≤ c.barRel)
  | .leases => true

/-- Nothing holds the next group. -/
def Core.waitsOk (c : Core) (env : Env) : Bool := c.issue.waits.all (c.waitOk env)

/-! ## The group issues (06 R177, 08 R239, R240) -/

/-- Gate entries a group's stores take. -/
def rowsTaken (l : List Effect) : Nat :=
  l.foldl (fun n e => match e with
    | .gate g => n + g.rows
    | _ => n) 0

/-- The trap of the group: the lowest slot's; a gate that would overflow is the LS slot's (08 R236, R239). -/
def Core.groupTrap (c : Core) (i : Issue) : Option TrapInfo :=
  if 32 < gateRows c.gate + rowsTaken i.effects then
    match i.trap with
    | some t => if t.slot < 4 then some t else some (trapOf trapStoreGateFull 4)
    | none => some (trapOf trapStoreGateFull 4)
  else i.trap

/-- Where control goes at the boundary after a bundle, the stack then, and whether the fetch buffer empties (06 R435, 11 R321,
R327, R328). -/
def nextBundle (a : Nat) (t : Option (Nat × Bool)) (loops : List LoopEntry) : Nat × List LoopEntry × Bool :=
  match t with
  | some (x, pops) => (x, if pops then popLoops x loops else loops, true)
  | none =>
    match loopBack a loops with
    | (ls, some x) => (x, ls, true)
    | (ls, none) => (a, ls, false)

/-- The boundary after a bundle: the next bundle stands at its address with the NOPC cycles owed; a mark where one is due; a
software trap where one was made (10 R283, 11 R333). -/
def Core.boundary (c : Core) (b : Bundle) (marking : Bool) : Core × List Out :=
  let n := nextBundle (c.issue.pc + b.len) c.issue.transfer c.loops
  let d := { c with
    loops := n.2.1
    bundles := c.bundles + 1
    fetched := if n.2.2 then [] else c.fetched
    issue := { Issue.at_ n.1 with owed := b.nopc.val, waits := c.issue.waits, retiring := c.issue.retiring } }
  match c.issue.soft with
  | some (code, imm) =>
    let m := d.releaseMark
    let t := m.1.takeTrap { trapOf code 7 with addr := imm.setWidth 64 } c.issue.pc
    (t.1, m.2 ++ t.2)
  | none => if marking && !c.issue.retiring then d.releaseMark else (d, [])

/-- After a group: the bundle's second group, or the boundary. -/
def Core.afterGroup (c : Core) (marking : Bool) : Core × List Out :=
  match c.issue.bundle with
  | none => ({ c with issue := { c.issue with effects := [], closing := false, release := false, markNext := false } }, [])
  | some b =>
    if !c.issue.second && !(groupSlots b true).isEmpty then
      let d := { c with issue := { ({ c.issue with second := true } : Issue).restart with markNext := false } }
      if marking then d.releaseMark else (d, [])
    else c.boundary b marking

/-- What held the group is past: a fence that ends leases has ended them (07 R229). -/
def Core.waited (c : Core) : Core :=
  { c with cache := if c.issue.waits.contains .leases then c.cache.map fun k => { k with ended := true } else c.cache
           issue := { c.issue with waits := [] } }

/-- The group issues: the gate releases and a mark is taken first where the group closes its region; then its effects, the advance of
a cycle, and what comes after the group (06 R177, 08 R238, R239). -/
def Core.issueGroup (c : Core) : Core × List Out :=
  let b := if c.issue.closing || c.issue.release then c.releaseMark else (c, [])
  let m := b.1.waited.commitGroup c.issue.effects
  let f := m.1.advance.afterGroup (c.issue.closing || c.issue.markNext)
  (f.1, b.2 ++ m.2 ++ f.2)

/-- The group's last slot has been evaluated: the group is held, traps, or issues. -/
def Core.closeGroup (c : Core) (env : Env) : Core × List Out :=
  if c.issue.hold || !c.waitsOk env then ({ c with issue := c.issue.restart }, [])
  else
    let b := if c.issue.closing || c.issue.release then c.releaseMark else (c, [])
    match b.1.groupTrap c.issue with
    | some t =>
      let q := b.1.takeTrap t c.issue.pc
      (q.1, b.2 ++ q.2)
    | none => c.issueGroup

/-- One slot of the group in issue: evaluated, and with the last one the group closes. -/
def Core.runSlot (c : Core) (env : Env) (closing : Bool) (p : Pred) (f : Sem) : Core × List Out :=
  let r := if c.executes p then (f env c c.slotPos).judge c c.slotPos else .go []
  let d := { c with issue := c.issue.gather closing r }
  match d.issue.todo with
  | [] => d.closeGroup env
  | _ :: _ => (d, [])

/-! ## The core in the module -/

/-- A core of the module. -/
def State.core (s : State) (n : Nat) : Option Core := assoc s.cores n

/-- A core written. -/
def State.setCore (s : State) (n : Nat) (c : Core) : State := { s with cores := assocSet s.cores n c }

/-- A core's number from its coordinates, and back (01 R22). -/
def coreNum (x y : Nat) : Nat := Config.cols * y + x
def coreX (n : Nat) : Nat := n % Config.cols
def coreY (n : Nat) : Nat := n / Config.cols

/-- The core lies in the partition. -/
def Part.has (p : Part) (n : Nat) : Bool :=
  decide (p.x0 ≤ coreX n) && decide (coreX n < p.x0 + p.w) && decide (p.y0 ≤ coreY n) && decide (coreY n < p.y0 + p.h)

/-- A record of a list by its number. -/
def findFin {n : Nat} {α : Type} : List (Fin n × α) → Fin n → Option α
  | [], _ => none
  | (k, x) :: l, j => if k = j then some x else findFin l j

/-- A partition in use. -/
def State.part (s : State) (p : Fin 16) : Option Part := findFin s.parts p

/-- The requests of a core that are not complete, prefetches apart (07 R217, R229). -/
def MemReq.isEvent (r : MemReq) : Bool :=
  match r.kind with
  | .prefetch _ => false
  | _ => true

/-- The request has completed. -/
def MemReq.isDone (r : MemReq) : Bool := r.stage == .done

/-- PART_HOP of a partition under a configuration (03 Table 3-10). -/
def State.partHop (s : State) (part : Fin 16) (cfg : Option Config) : Word :=
  let det := match s.part part with
    | some p => s.routers.any fun r => p.has r.1 && !r.2.boxed.isEmpty
    | none => false
  match cfg with
  | some g => BitVec.ofNat 64 (boolBit det * 256 + boolBit g.uniform * 128 + g.hop % 16)
  | none => BitVec.ofNat 64 (boolBit det * 256)

/-- The north-west core of a core's quad, and how many its streamer serves (06 R196). -/
def quadOf (n : Nat) : Nat × Nat := (coreNum (coreX n / 2 * 2) (coreY n / 2 * 2), if coreX n = Config.cols - 1 then 2 else 4)

/-- The cores of a core's quad. -/
def quadCores (n : Nat) : List Nat :=
  let q := (quadOf n).1
  if (quadOf n).2 = 2 then [q, q + Config.cols] else [q, q + 1, q + Config.cols, q + Config.cols + 1]

/-- Streamer commands of a core. -/
def State.commands (s : State) (n : Nat) : Nat :=
  match s.core n with
  | some c => c.copies.length
  | none => 0

/-- The range one landing of a record may write, over all its slots (05 R151, 14 R392). -/
def landingSpan (t : Task) (r : NameRec) : Option Span := spanOf r.lbase ((t.slots - 1) * t.lstride + r.lsize)

/-- The landing ranges of the tasks whose pens hold a core. -/
def Config.landings (g : Config) (n : Nat) : List Span :=
  (g.tasks.filter fun t => t.members.contains n).flatMap fun t => t.subs.filterMap (landingSpan t)

/-- The active plane of a router and its core: B where true (03 R103). -/
def State.planeOf (s : State) (n : Nat) : Bool :=
  match assoc s.routers n with
  | some r => r.plane
  | none => false

/-- What the slots of a core see. -/
def State.env (s : State) (n : Nat) : Env :=
  let ctx := match s.core n with
    | some c => (match c.firing with | some f => f.ctx | none => 0)
    | none => 0
  let k := s.ctxs[ctx]
  let part := s.part k.part
  let mine := s.reqs.filter fun r => r.agent == .core n && !r.isDone
  { core := n, wcc := s.wcc, caps := s.caps, hop := s.partHop k.part k.cfg
    plane := s.planeOf n
    shadow := (match part with | some p => ((if s.planeOf n then p.planeA else p.planeB)).isSome | none => false)
    draining := (match part with | some p => p.complete && (!p.swapped || p.swap.contains n) | none => false)
    part := k.part
    outstanding := mine.length + (match s.core n with | some c => c.gatedGlobals | none => 0)
    globalsDone := !mine.any MemReq.isEvent
    shared := 64 - 8 * (quadOf n).2
    taken := ((quadCores n).filter (· ≠ n)).foldl (fun x m => x + beyondShare (s.commands m)) 0
    landings := (match k.cfg with | some g => g.landings n | none => []) }

/-- The requests and walks a core has made are old: its mark has passed them. -/
def State.ageOf (s : State) (n : Nat) : State :=
  { s with
    reqs := s.reqs.map fun r => if r.agent = .core n then { r with old := true } else r
    walks := s.walks.map fun w => if w.core = n then { w with old := true } else w }

/-- A rollback discards the results of loads and walks issued since the mark: they go on without a register (08 R240). -/
def State.dropYoung (s : State) (n : Nat) : State :=
  { s with
    reqs := s.reqs.map fun r =>
      if r.agent = .core n ∧ r.old = false then
        { r with kind := (match r.kind with
          | .load _ _ l => .prefetch l
          | k => k) }
      else r
    walks := s.walks.map fun w => if w.core = n ∧ w.old = false then { w with handle := none } else w }

/-- The first tile command without a request gets one. -/
def linkCopy (id : Nat) : List CopyJob → List CopyJob
  | [] => []
  | j :: js => if j.req = none ∧ j.op.channel ≠ 2 then { j with req := some id } :: js else j :: linkCopy id js

/-- The SEQ of a core's last event that is not complete: the predecessor of its next (07 R217). -/
def State.lastEvent (s : State) (n : Nat) : Option (BitVec 16) :=
  s.reqs.foldl (fun x r => if r.agent = .core n ∧ r.isEvent ∧ !r.isDone then some r.seq else x) none

/-- A new request of a core: the next SEQ, its predecessor the core's last event if that is not complete (02 R56, 07 R217). -/
def State.newRequest (s : State) (n : Nat) (c : Core) (kind : ReqKind) (va pa size : Nat) (via : Handle) (chained : Bool) : State :=
  let part := match c.firing with | some f => s.ctxs[f.ctx].part | none => 0
  let r : MemReq :=
    { id := s.nextReq, agent := .core n, kind, ns := c.ns, part, va, pa, size, seq := c.seq
      pred := if chained then s.lastEvent n else none
      lts := c.lts, ts := 0, accepted := false, stage := .fresh, arr := 0, data := [], spots := [], at_ := 0, via := some via, wts := 0, rts := 0, old := false }
  { s with
    reqs := s.reqs ++ [r], nextReq := s.nextReq + 1
    cores := assocSet s.cores n { c with copies := if kind = .tileLoad ∨ kind = .tileStore then linkCopy s.nextReq c.copies else c.copies
                                         seq := c.seq + 1 } }

/-- A gate of a context changed. -/
def State.onGate (s : State) (g : GateId) (f : Gate → Gate) : State :=
  let k := s.ctxs[g.ctx]
  { s with ctxs := s.ctxs.set g.ctx { k with gates := k.gates.map fun x => if x.id = g then f x else x } }

/-- A message placed at the end of those in flight. -/
def State.post (s : State) (p : Place) (m : Msg) : State := { s with msgs := s.msgs ++ [{ place := p, msg := m }] }

/-- A control message from a core to a gate, class 1, which travels by coordinates (03 Table 3-2, R87, log 16). -/
def State.postControl (s : State) (n : Nat) (g : GateId) (c : Control) : State :=
  let cpl := match assoc s.routers n with | some r => r.plane | none => false
  s.post (.source n 0) { cls := 1, cpl, source := n, body := .control g c }

/-- The gate of a firing. -/
def Firing.gate (f : Firing) : GateId := { ctx := f.ctx, task := f.task.num }

/-- The firing is a rank that counts as retired already (05 R166). -/
def State.closedRank (s : State) (f : Firing) : Bool :=
  s.ctxs[f.ctx].gates.any fun g => g.id == f.gate && g.closed.any fun x => x.1 == f.tag && x.2.1 == f.rank

/-- A trap leaves the core: the rollback of its requests, the fault token to the handler, the herd held (08 R240, R245, R259). -/
def State.trapped (s : State) (n : Nat) (t : TrapInfo) : State :=
  let s := s.dropYoung n
  match s.core n with
  | none => s
  | some c =>
    let s := if t.code = trapBreak ∧ c.halted then s else
      { s with tokens := s.tokens ++ [{ core := n, ns := c.ns, pen := (match c.firing with | some f => f.task.num | none => 0),
                                        rec_ := c.trapRec, pager := t.code == trapHandleInvalid }] }
    match c.firing with
    | some f =>
      if f.task.herd && t.code != trapHerdAbort then
        s.onGate f.gate fun g => { g with holdTags := if g.holdTags.contains f.tag then g.holdTags else f.tag :: g.holdTags }
      else s
    | none => s

/-- What a core hands over reaches the rest of the module. -/
def State.apply (s : State) (n : Nat) : Out → State
  | .request kind va pa size via chained =>
    match s.core n with
    | some c => s.newRequest n c kind va pa size via chained
    | none => s
  | .walk h va =>
    let ns := match s.core n with | some c => c.ns | none => 0
    { s with walks := s.walks ++ [{ id := s.nextReq, core := n, ns, va, handle := some h, req := none, rim := none, stage := .asked, old := false }]
             nextReq := s.nextReq + 1 }
  | .marked => s.ageOf n
  | .trapped t => s.trapped n t
  | .triggered =>
    match s.core n with
    | some c => (match c.firing with
      | some f => if s.closedRank f then s else s.postControl n f.gate (.trigger f.tag f.rank)
      | none => s)
    | none => s

/-- All a core hands over, in order. -/
def State.applyAll (s : State) (n : Nat) : List Out → State
  | [] => s
  | o :: os => (s.apply n o).applyAll n os

/-- A core's own change and what it hands over. -/
def State.onCore (s : State) (n : Nat) (f : Env → Core → Core × List Out) : State :=
  match s.core n with
  | none => s
  | some c =>
    let r := f (s.env n) c
    (s.setCore n r.1).applyAll n r.2

/-- The meaning of a slot form: its slot of the group in issue at the core whose turn it is. `closing`: the form is one of
08 Table 8-3, which closes its region whether or not it executes (10 R286). -/
def slot (closing : Bool) (p : Pred) (f : Sem) (s : State) : Host.Outcome State Fault Refusal :=
  .next (s.onCore s.focus fun env c => c.runSlot env closing p f)

end Sys2Proof.Machine
end

