-- ==== Sys2Proof/Machine/Operands.lean ====
section
/-! DEFINITION. Sys2Proof/Machine/Operands.lean: the operand forms: lane masks, scratchpad addresses, handles, stream descriptors, names from records,
each with the checks the manual makes at issue (07 R209, R210, 10 Tables 10-7 to 10-9, 12 R338, 13 R354 to R358, 14 R382, R385, R393). -/

namespace Sys2Proof.Machine

/-! ## Immediates and predicates (10 Table 10-7) -/

/-- A signed immediate as a word. -/
def immWord {n : Nat} (x : BitVec n) : Word := x.signExtend 64

/-- A scalar source with its T bit. -/
def srcS (r : Fin 32) (t : Bool) : Src := (.s r, t)
/-- A vector source with its T bit. -/
def srcV (r : Fin 32) (t : Bool) : Src := (.v r, t)
/-- A handle source with its T bit. -/
def srcH (r : Fin 16) (t : Bool) : Src := (.h r, t)
/-- A moment source, which acts as T = 0 (13 R360). -/
def srcW (r : Fin 8) : Src := (.w r, false)

/-! ## Lane masks and lane results (12 R338) -/

/-- The lanes MSK selects: all for 0. -/
def Regs.selected (g : Regs) (msk : Fin 8) : BitVec 16 := if msk = 0 then BitVec.allOnes 16 else g.m[msk]

/-- One lane's result: element, valid bit and flags. -/
structure LaneOut where
  x     : Lane
  valid : Bool
  flags : FpFlags
  deriving DecidableEq, Repr

/-- An invalid lane: +0. -/
def LaneOut.invalid : LaneOut := { x := 0, valid := false, flags := 0 }

/-- Sixteen bits from a function of the lane number. -/
def laneBits (f : Fin 16 → Bool) : BitVec 16 :=
  BitVec.ofNat 16 (boolBit (f 0) + 2 * boolBit (f 1) + 4 * boolBit (f 2) + 8 * boolBit (f 3) + 16 * boolBit (f 4) + 32 * boolBit (f 5)
    + 64 * boolBit (f 6) + 128 * boolBit (f 7) + 256 * boolBit (f 8) + 512 * boolBit (f 9) + 1024 * boolBit (f 10)
    + 2048 * boolBit (f 11) + 4096 * boolBit (f 12) + 8192 * boolBit (f 13) + 16384 * boolBit (f 14) + 32768 * boolBit (f 15))

/-- The token of sixteen lane results. -/
def tokenOf (f : Fin 16 → LaneOut) : Token := { elem := lanes fun l => (f l).x, valid := laneBits fun l => (f l).valid }

/-- The flags of the selected lanes, together. -/
def laneFlags (sel : BitVec 16) (f : Fin 16 → LaneOut) : FpFlags :=
  let g := fun l : Fin 16 => if sel.getLsbD l.val then (f l).flags else (0 : FpFlags)
  g 0 ||| g 1 ||| g 2 ||| g 3 ||| g 4 ||| g 5 ||| g 6 ||| g 7 ||| g 8 ||| g 9 ||| g 10 ||| g 11 ||| g 12 ||| g 13 ||| g 14 ||| g 15

/-- The valid bit of a lane. -/
def laneOk (t : Token) (l : Fin 16) : Bool := t.valid.getLsbD l.val

/-- A vector result in the selected lanes, with its flags. -/
def vectorEffects (d : Fin 32) (sel : BitVec 16) (lat : Nat) (f : Fin 16 → LaneOut) : List Effect :=
  [.result (.v d sel (tokenOf f)) lat, .flags (laneFlags sel f)]

/-! ## Interval checks in the local window (06 R187, R189, 07 R209, 13 R358, 14 R382) -/

/-- A fault of a local access at an address (08 Table 8-2, log 24). -/
def localTrap (code : Byte) (slot : Fin 8) (addr : Nat) (write : Bool) : TrapInfo :=
  { trapOf code slot with addr := BitVec.ofNat 64 addr, space := 1, access := if write then 1 else 0, xch := 7 }

/-- The first trap of a list of checks. -/
def firstTrap : List (Option TrapInfo) → Option TrapInfo
  | [] => none
  | some t :: _ => some t
  | none :: l => firstTrap l

/-- A trap when a condition holds. -/
def trapIf (b : Bool) (t : TrapInfo) : Option TrapInfo := if b then some t else none

/-- The effects, unless a check traps. -/
def checked (t : Option TrapInfo) (r : SlotResult) : SlotResult :=
  match t with
  | some t => .trap t
  | none => r

/-- The checks of an interval that instructions reach through the local window: its bounds, its banks' modes, and the CODE region
when it is written. -/
def Core.windowTrap (c : Core) (slot : Fin 8) (addr : Nat) (x : Span) (write : Bool) : Option TrapInfo :=
  firstTrap [trapIf (decide (windowEnd ≤ x.hi)) (localTrap trapSpadBounds slot addr write),
             trapIf (!c.scratchOnly x) (localTrap trapBankMode slot addr write),
             trapIf (write && c.meetsCode x) (localTrap trapSpadBounds slot addr write)]

/-- The word has an uncorrectable error that an instruction meets when it reads it (01 R39). -/
def Core.badIn (c : Core) (x : Span) : Bool := c.badWords.any fun w => (Span.mk (w / 8 * 8) (w / 8 * 8 + 7)).meets x

/-! ## LS addresses (10 Table 10-8, 14 R382) -/

/-- The effective address of the narrow form: I5 times the access size. -/
def narrowAddr (a : Word) (off : BitVec 5) (size : Nat) : Word := a + immWord off * BitVec.ofNat 64 size

/-- The effective address of the extended form. -/
def extAddr (a : Word) (off : BitVec 32) : Word := a + immWord off

/-- The bytes an LS access covers. -/
def lsSpan (ea : Word) (size : Nat) : Span := { lo := ea.toNat, hi := ea.toNat + size - 1 }

/-- The checks of an LS scratchpad access in the order of 14 R382; `vec` forms must be 4-byte aligned. -/
def Core.lsTrap (c : Core) (slot : Fin 8) (ea : Word) (size : Nat) (vec write : Bool) : Option TrapInfo :=
  firstTrap [trapIf (vec && ea.toNat % 4 != 0) (localTrap trapAlign slot ea.toNat write),
             c.windowTrap slot ea.toNat (lsSpan ea size) write]

/-- An LS access waits for an entry of the scoreboard (06 R201). -/
def Core.lsHeld (c : Core) (ea : Word) (size : Nat) (write : Bool) : Bool :=
  if write then c.lsConflict none (some (lsSpan ea size)) else c.lsConflict (some (lsSpan ea size)) none

/-! ## Handles (07 R210, 14 R385) -/

/-- Bytes of a page. -/
def PageSize.bytes (z : PageSize) : Nat := 2 ^ z.log

/-- The virtual address an offset reaches through a handle; the page base's bits below the page size play no part. -/
def handleVa (h : Handle) (off : Word) : Nat := h.vpage / h.size.bytes * h.size.bytes + off.toNat

/-- The physical address. -/
def handlePa (h : Handle) (off : Word) : Nat := h.pbase / h.size.bytes * h.size.bytes + off.toNat

/-- A fault of a global access: ACCESS 0 read, 1 write, 2 AMO. -/
def globalTrap (code : Byte) (slot : Fin 8) (va : Nat) (access xch : Fin 8) (seq : BitVec 16) : TrapInfo :=
  { trapOf code slot with addr := BitVec.ofNat 64 va, space := 2, access, xch, seq }

/-- Steps 1 and 2 of 07 R210: VALID, then the access's first `size` bytes in the page. -/
def pageTrap (h : Handle) (off : Word) (size : Nat) (t : Byte → TrapInfo) : Option TrapInfo :=
  firstTrap [trapIf (!h.valid) (t trapHandleInvalid), trapIf (decide (h.size.bytes < off.toNat + size)) (t trapHandleBounds)]

/-- The permissions an access needs (07 R210 step 4). -/
def Handle.permits (h : Handle) (access : Fin 8) : Bool :=
  if access = 0 then h.rd else if access = 1 then h.wr else h.rd && h.wr

/-- The checks of a scalar global access in the order of 07 R210. -/
def Core.globalTrap (c : Core) (slot : Fin 8) (h : Handle) (off : Word) (size : Nat) (access : Fin 8) : Option TrapInfo :=
  let t := fun code => Machine.globalTrap code slot (handleVa h off) access 4 c.seq
  firstTrap [pageTrap h off size t, trapIf (handleVa h off % size != 0) (t trapAlign), trapIf (!h.permits access) (t trapProtFault)]

/-- A core holds at most 256 requests, the gated ones among them (02 R56). -/
def Env.requestsFull (e : Env) : Bool := decide (256 ≤ e.outstanding)

/-! ## Streams (13 R354 to R358) -/

/-- The fields of Table 13-1. -/
def Desc.base (d : Desc) : Nat := bits d.lo.toNat 44 20
def Desc.pitch (d : Desc) : Nat := bits d.lo.toNat 24 20
def Desc.rows (d : Desc) : Nat := bits d.lo.toNat 12 12 + 1
def Desc.cols (d : Desc) : Nat := bits d.lo.toNat 4 8 + 1
def Desc.code (d : Desc) : Nat := bits d.lo.toNat 0 4
def Desc.sbase (d : Desc) : Nat := bits d.hi.toNat 44 20
def Desc.slog (d : Desc) : Nat := bits d.hi.toNat 40 4
def Desc.layout (d : Desc) : Nat := bits d.hi.toNat 38 2
def Desc.en (d : Desc) : Bool := bits d.hi.toNat 37 1 == 1
def Desc.reserved (d : Desc) : Nat := bits d.hi.toNat 0 37
def Desc.trans (d : Desc) : Bool := d.layout == 1
def Desc.fmt (d : Desc) : Fmt := Fmt.ofCode d.code
def Desc.tokens (d : Desc) : Nat := d.rows * d.cols
/-- Elements of a row. -/
def Desc.width (d : Desc) : Nat := 16 * d.cols

/-- tok_bytes: bytes of a token (02 R62, 13 R355). -/
def tokBytes (f : Fmt) : Nat := if f = .triple then 192 else 2 * f.width

/-- Bytes of an element of a whole number of bytes. -/
def elemBytes (f : Fmt) : Nat := f.width / 8

/-- The data extent: BASE to the last byte (13 R355). -/
def Desc.dataSpan (d : Desc) : Span :=
  { lo := d.base
    hi := if d.trans then d.base + (d.width - 1) * d.pitch + d.rows * elemBytes d.fmt - 1
          else d.base + (d.rows - 1) * d.pitch + d.cols * tokBytes d.fmt - 1 }

/-- Tokens one scale byte covers. -/
def Desc.scaleRun (d : Desc) : Nat := 2 ^ (d.slog - 1)

/-- The scale extent, when there are scales. -/
def Desc.scaleSpan (d : Desc) : Option Span :=
  if d.slog = 0 then none else spanOf d.sbase ((d.tokens + d.scaleRun - 1) / d.scaleRun)

/-- The hull of both extents. -/
def Desc.hull (d : Desc) : Span :=
  match d.scaleSpan with
  | none => d.dataSpan
  | some x => d.dataSpan.hull x

/-- The checks of `qset` in their order (13 R356). -/
def Core.qsetTrap (env : Env) (slot : Fin 8) (d : Desc) : Option TrapInfo :=
  if !d.en then none
  else
    let bad := decide (11 ≤ d.code) || decide (10 ≤ d.slog) || decide (2 ≤ d.layout) || d.reserved != 0
      || (d.trans && (d.fmt == .t6 || d.fmt == .triple || d.slog != 0))
      || (d.fmt == .triple && d.slog != 0)
      || (!d.trans && decide (1 < d.rows) && decide (d.pitch < d.cols * tokBytes d.fmt))
      || (d.trans && decide (d.pitch < d.rows * elemBytes d.fmt))
    firstTrap [trapIf bad (trapOf trapStreamCfg slot),
               trapIf ((d.fmt == .t8 || d.fmt == .t6) && bits env.caps.toNat 1 1 == 0) (trapOf trapUnitAbsent slot),
               trapIf (decide (windowEnd ≤ d.hull.hi))
                 { trapOf trapSpadBounds slot with addr := BitVec.ofNat 64 d.base, space := 1 }]

/-- Checks 1 to 3 of every instruction that names a stream (13 R358). -/
def Core.streamTrap (c : Core) (slot : Fin 8) (d : Desc) (write : Bool) : Option TrapInfo :=
  firstTrap [trapIf (!d.en) (trapOf trapStreamCfg slot),
             trapIf (!c.scratchOnly d.hull) (localTrap trapBankMode slot d.hull.lo write),
             trapIf (write && c.meetsCode d.hull) (localTrap trapSpadBounds slot d.hull.lo write)]

/-- The first of a list's streams with a property. -/
def firstStream (l : List (Desc × Bool)) (q : Desc × Bool → Bool) : Option (Desc × Bool) := l.find? q

/-- Checks 1 to 3 of an instruction that names several streams, check by check over all of them; `true` marks one it writes
(13 R358, log 25). -/
def Core.streamsTrap (c : Core) (slot : Fin 8) (l : List (Desc × Bool)) : Option TrapInfo :=
  firstTrap [trapIf (l.any fun x => !x.1.en) (trapOf trapStreamCfg slot),
             (firstStream l fun x => !c.scratchOnly x.1.hull).map fun x => localTrap trapBankMode slot x.1.hull.lo x.2,
             (firstStream l fun x => x.2 && c.meetsCode x.1.hull).map fun x => localTrap trapSpadBounds slot x.1.hull.lo true]

/-- Check 4: a TRIPLE stream in an instruction that does not handle one (13 R358). -/
def tripleTrap (slot : Fin 8) (d : Desc) : Option TrapInfo := trapIf (d.fmt == .triple) (trapOf trapStreamCfg slot)

/-- STREAM_CFG when a condition holds. -/
def streamCfgIf (slot : Fin 8) (b : Bool) : Option TrapInfo := trapIf b (trapOf trapStreamCfg slot)

/-- The address of the first byte of token t in ROW layout. -/
def Desc.tokenAddr (d : Desc) (t : Nat) : Nat := d.base + t / d.cols * d.pitch + t % d.cols * tokBytes d.fmt

/-- The address of element e of row r in TRANS layout. -/
def Desc.transAddr (d : Desc) (r e : Nat) : Nat := d.base + e * d.pitch + r * elemBytes d.fmt

/-- A number of n little-endian bytes of memory. -/
def Memory.nat (m : Memory) (a n : Nat) : Nat := leNat (m.bytes a n)

/-- The packed bits of token t: 16 elements side by side (03 Table 3-3), in TRANS layout gathered; a TRIPLE token's 192 bytes. -/
def Desc.tokenBits (d : Desc) (m : Memory) (t : Nat) : Nat :=
  if d.trans then
    (List.range 16).foldl (fun x l => x + m.nat (d.transAddr (t / d.cols) (16 * (t % d.cols) + l)) (elemBytes d.fmt) * 2 ^ (d.fmt.width * l)) 0
  else m.nat (d.tokenAddr t) (tokBytes d.fmt)

/-- Element l of a packed token. -/
def packedElem (f : Fmt) (x l : Nat) : Nat := x / 2 ^ (f.width * l) % 2 ^ f.width

/-- Element l of token t, its code. -/
def Desc.elem (d : Desc) (m : Memory) (t l : Nat) : Nat := packedElem d.fmt (d.tokenBits m t) l

/-- The scale of token t; 0x7F with no scales (13 R355). -/
def Desc.scale (d : Desc) (m : Memory) (t : Nat) : Nat :=
  if d.slog = 0 then 127 else (m.get (d.sbase + t / d.scaleRun)).toNat

/-- The scaled value of element l of token t (09 R271). -/
def Desc.value (d : Desc) (m : Memory) (t l : Nat) : Val := (elemDecode d.fmt (d.elem m t l)).scaled (d.scale m t)

/-- The bytes a packed token writes at token t. -/
def Desc.tokenCells (d : Desc) (t x : Nat) : List (Nat × Byte) :=
  if d.trans then
    (List.range 16).flatMap fun l =>
      cellsAt (d.transAddr (t / d.cols) (16 * (t % d.cols) + l)) (leBytes (elemBytes d.fmt) (packedElem d.fmt x l))
  else cellsAt (d.tokenAddr t) (leBytes (tokBytes d.fmt) x)

/-- A packed token of sixteen element codes. -/
def packToken (f : Fmt) (e : Fin 16 → Nat) : Nat :=
  (List.range 16).foldl (fun x l => x + e ⟨l % 16, by omega⟩ % 2 ^ f.width * 2 ^ (f.width * l)) 0

/-! ## Names from records (05 R151, R152, 14 R393) -/

/-- The value a coordinate's SEL names. -/
def Coord.value (k : Coord) (f : Firing) : Int :=
  match k.sel.val with
  | 0 | 1 | 2 | 3 => k.off + k.mul * f.indices.getD k.sel.val 0
  | 4 => k.off + k.mul * (f.rank : Int)
  | _ => k.off

/-- The INDEX of a record's coordinates, from a running shift; none where one lies outside its width. -/
def indexOf (f : Firing) : Nat → List Coord → List Nat → Option Nat
  | sh, k :: ks, w :: ws =>
    let v := k.value f
    if v < 0 ∨ (2 ^ w : Int) ≤ v then none
    else (indexOf f (sh + w) ks ws).map fun x => v.toNat * 2 ^ sh + x
  | _, _, _ => some 0

/-- A name of a namespace, a tensor and an INDEX (03 Table 3-6). -/
def nameOf (ns : BitVec 8) (tensor : BitVec 20) (index : Nat) : BitVec 64 :=
  BitVec.ofNat 64 (ns.toNat * 2 ^ 56 + tensor.toNat * 2 ^ 36 + index % 2 ^ 36)

/-- The tag of a record for an iteration's tag (05 R151). -/
def NameRec.tag (r : NameRec) (tag : BitVec 16) : BitVec 16 :=
  match r.tagrule.val with
  | 1 => tag - r.tagoff
  | 2 => r.tagoff
  | _ => tag

/-- The INDEX of a stream's end (14 R395). -/
def eosIndex : Nat := 0xFFFFFFFFF

/-- What an instruction names through a record: the INDEX with its overrides, none where void, and the tag (14 R393). -/
def NameRec.resolve (r : NameRec) (f : Firing) (tagx : Option Word) (idx : Option Word) : Option Nat × BitVec 16 :=
  ((match idx with
    | some x => some (x.toNat % 2 ^ 36)
    | none => indexOf f 0 r.coords r.widths),
   match tagx with
   | some x => x.setWidth 16
   | none => r.tag f.tag)

/-- An index register above 36 bits traps STREAM_CFG (14 R393). -/
def indexTrap (slot : Fin 8) : Option Word → Option TrapInfo
  | some x => streamCfgIf slot (decide (2 ^ 36 ≤ x.toNat))
  | none => none

end Sys2Proof.Machine
end

