-- ==== Sys2Proof/Machine/Fetch.lean ====
section
/-! DEFINITION. Sys2Proof/Machine/Fetch.lean: where a core stands between bundles: the fetch buffer, decoding a bundle whole, the faults of decoding,
empty bundles and idle cycles (06 R187, R435, 10 R280 to R284, R294). -/

namespace Sys2Proof.Machine

/-- A landing is issued: it holds its RSB entry, has started, or needs no entry (05 R157, 06 R203). -/
def Landing.issued (l : Landing) : Bool := l.done || l.started || l.rsb.isSome

/-- A core whose firing runs: running or triggered. -/
def Core.running (c : Core) : Bool :=
  match c.firing with
  | some f => f.state == .running || f.state == .triggered
  | none => false

/-- A core whose operations go on: one in service that is not frozen. -/
def Core.works (c : Core) : Bool := !c.frozen && !c.out && !c.testing

/-- A core that issues: its firing runs with every landing issued, and it is neither frozen nor out of service. -/
def Core.issues (c : Core) : Bool :=
  c.running && c.works && (match c.firing with
    | some f => f.landings.all Landing.issued
    | none => false)

/-- The core stands between groups: no group is in evaluation. -/
def Core.between (c : Core) : Bool := c.issue.todo.isEmpty || decide (c.issue.todo = c.issue.restart.todo ∧ c.issue.effects = [])

/-- A freeze request stands that no section defers (08 R251, R257). -/
def Core.stopping (c : Core) : Bool := c.freezeReq && c.nps.isNone

/-- Bytes of the CODE region from an address, at most a bundle's 66. -/
def Core.codeBytes (c : Core) (f : Firing) (pc : Nat) : List Byte :=
  if pc < f.task.codeBase then [] else c.spad.bytes pc (min 66 (f.task.codeEnd - pc))

/-- The length of the bundle at the head of a list of bytes, if it is whole (10 R281, R288). -/
def bundleLen (bs : List Byte) : Option Nat :=
  if bs.length < 2 then none else (slotWords (maskSlots (leNat (bs.take 1))) (bs.drop 2)).map fun x => x.2 + 2

/-- What the fetch of the next bundle still needs. -/
inductive Fetched where
  /-- a 64-byte row is not in the fetch buffer -/
  | row (r : Nat)
  /-- some byte of the bundle lies outside the CODE region (10 R281) -/
  | outside
  /-- a word of the bundle has an uncorrectable error (01 R39) -/
  | bad (addr : Nat)
  /-- every byte of the bundle is in the buffer -/
  | ready
  deriving DecidableEq, Repr

/-- How far the fetch of a firing's next bundle is. -/
def Core.fetchState (c : Core) (f : Firing) : Fetched :=
  let pc := c.issue.pc
  let bs := c.codeBytes f pc
  if bs.length < 2 then .outside
  else if !c.fetched.contains (pc / 64) then .row (pc / 64)
  else if c.badIn { lo := pc, hi := pc + 1 } then .bad pc
  else
    match bundleLen bs with
    | none => .outside
    | some n =>
      if !c.fetched.contains ((pc + n - 1) / 64) then .row ((pc + n - 1) / 64)
      else if c.badIn { lo := pc, hi := pc + n - 1 } then .bad pc
      else .ready

/-- The bundle stands in issue: its first group, or its second after a rollback or where the first is empty; a mark before it
where RMARK asks for one (10 R282, R284). -/
def Core.beginBundle (c : Core) (b : Bundle) : Core × List Out :=
  let second := c.issue.second || (groupSlots b false).isEmpty
  let m := if b.rmark && !c.issue.second then c.releaseMark else (c, [])
  ({ m.1 with issue := ({ m.1.issue with bundle := some b, fault := none, second } : Issue).restart }, m.2)

/-- The rows the two-row fetch buffer holds once one more arrives: a row that issue has passed goes (06 R435). -/
def fetchRow (rows : List Nat) (pc r : Nat) : List Nat := (rows.filter fun x => decide (pc / 64 ≤ x) && x != r) ++ [r]

/-! ## INSTRUCTION_FETCH, EMPTY_BUNDLE, UNASSIGNED_OPCODE, FIXED_RESULT_LAND -/

/-- A trap of decoding, before either group issues (10 R294). -/
def Core.decodeTrap (c : Core) (t : TrapInfo) : Core × List Out := c.takeTrap t c.issue.pc

/-- A change of one core that an event of the core makes, none where it cannot happen. -/
def State.coreEvent (s : State) (n : Nat) (f : Core → Option (Core × List Out)) : Option State :=
  match s.core n with
  | none => none
  | some c =>
    match f c with
    | none => none
    | some r => some ((s.setCore n r.1).applyAll n r.2)

/-- A requested row arrives; a bundle that would lie outside the CODE region traps CODE_BOUNDS, one with a word in error ECC_UNCORR (01 R39, 06 R435,
10 R281, log 31). -/
def Core.fetchEvent (c : Core) : Option (Core × List Out) :=
  match c.firing with
  | none => none
  | some f =>
    if !c.issues || !c.issue.todo.isEmpty then none
    else
      match c.fetchState f with
      | .row r => some ({ c with fetched := fetchRow c.fetched c.issue.pc r }, [])
      | .outside =>
        some (c.decodeTrap { trapOf trapCodeBounds 0 with addr := BitVec.ofNat 64 c.issue.pc, space := 1, access := 5 })
      | .bad a => some (c.decodeTrap { trapOf trapEccUncorr 0 with addr := BitVec.ofNat 64 a, space := 1, access := 5 })
      | .ready => none

/-- A bundle with MASK = 0 that stands in issue issues nothing and owes its idle cycles (10 R282). -/
def Core.emptyEvent (c : Core) : Option (Core × List Out) :=
  match c.issue.bundle with
  | none => none
  | some b => if c.issues && b.slots.isEmpty then some (c.boundary b false) else none

/-- A bundle found at fault when it was decoded traps ILLEGAL_OP, naming the lowest slot at fault (10 R294). -/
def Core.illegalEvent (c : Core) (slot : Fin 8) : Option (Core × List Out) :=
  if c.issues && c.issue.fault == some slot then some (c.decodeTrap (trapOf trapIllegalOp slot)) else none

/-- An advancing cycle in which no group issues: one of those NOPC owes, or one after `retire` (06 R178). -/
def Core.landEvent (c : Core) : Option Core :=
  if c.issue.todo.isEmpty && decide (0 < c.issue.owed) then
    some { c.advance with issue := { c.issue with owed := c.issue.owed - 1 } }
  else if c.issue.todo.isEmpty && c.issue.retiring && !c.flight.isEmpty then some c.advance
  else none

/-- Bring-up has stopped at a step (01 R32). -/
def State.heldInReset (s : State) : Bool :=
  match s.bringUp with
  | .heldInReset _ => true
  | _ => false

/-- The core and fabric clock runs, and the module is not held in reset (01 R32, Table 1-2). -/
def State.clocked (s : State) : Bool := (s.power == .p0 || s.power == .p1) && !s.heldInReset

/-- An event of the steward or of the outside as a meaning: one offered where it cannot happen changes nothing (log 4). -/
def outside (r : Option State) (s : State) : Host.Outcome State Fault Refusal :=
  match r with
  | some t => .next t
  | none => .next s

/-- An event of the wafer as a meaning: it can happen only while the clock runs (01 Table 1-2, log 4). -/
def event (r : Option State) (s : State) : Host.Outcome State Fault Refusal := if s.clocked then outside r s else .next s

/-- INSTRUCTION_FETCH (06 R435). -/
def evInstructionFetch (core : Nat) (s : State) : Option State := s.coreEvent core Core.fetchEvent
/-- FIXED_RESULT_LAND (06 R178). -/
def evFixedResultLand (core : Nat) (s : State) : Option State := s.coreEvent core fun c => c.landEvent.map fun d => (d, [])
/-- EMPTY_BUNDLE (10 R282). -/
def evEmptyBundle (core : Nat) (s : State) : Option State := s.coreEvent core Core.emptyEvent
/-- UNASSIGNED_OPCODE (10 R294). -/
def evUnassignedOpcode (core : Nat) (slot : Fin 8) (s : State) : Option State := s.coreEvent core fun c => c.illegalEvent slot

def execInstructionFetch (core : Nat) (s : State) : Host.Outcome State Fault Refusal := event (evInstructionFetch core s) s
def execFixedResultLand (core : Nat) (s : State) : Host.Outcome State Fault Refusal := event (evFixedResultLand core s) s
def execEmptyBundle (core : Nat) (s : State) : Host.Outcome State Fault Refusal := event (evEmptyBundle core s) s
def execUnassignedOpcode (core : Nat) (slot : Fin 8) (s : State) : Host.Outcome State Fault Refusal :=
  event (evUnassignedOpcode core slot s) s

/-! ## The turn (06 R176, log 6) -/

/-- The next core with a firing, after a number; none when the round ends. -/
def nextTurn : List (Nat × Core) → Nat → Option Nat
  | [], _ => none
  | (k, c) :: l, n => if n < k ∧ c.firing.isSome then some k else nextTurn l n

/-- The module's own turn comes after the last core's. -/
def moduleTurn : Nat := Sys2Proof.Config.cores

/-- The turn passes to the next core, or to the module (log 6). -/
def State.pass (s : State) : State := { s with focus := (nextTurn s.cores s.focus).getD moduleTurn }

/-- The first turn of a round. -/
def State.firstTurn (s : State) : Nat :=
  match s.cores with
  | [] => moduleTurn
  | (k, c) :: l => if c.firing.isSome then k else (nextTurn l k).getD moduleTurn

/-- A core's cycle counters of one cycle: the section's length, the wait at a barrier while its timer runs (05 R165, 08 R257). -/
def Core.tick (c : Core) (timer : Bool) : Core :=
  { c with nps := c.nps.map (· + 1)
           barWait := if timer && c.issue.waits.contains .phase && decide (c.barRel < c.barArr) then c.barWait + 1 else c.barWait }

/-- The record of a gate. -/
def State.gate (s : State) (g : GateId) : Option Gate := s.ctxs[g.ctx].gates.find? fun x => x.id = g

/-- The herd of a firing is in FAULT_HOLD (08 R259). -/
def State.held (s : State) (f : Firing) : Bool :=
  match s.gate f.gate with
  | some g => f.task.herd && g.holdTags.contains f.tag
  | none => false

/-- The barrier timer of a core counts (05 R165). -/
def State.timerRuns (s : State) (c : Core) : Bool :=
  match c.firing with
  | some f => !c.frozen && !s.held f && s.ctxs[f.ctx].state == .running
  | none => false

/-- Reference cycles that one cycle of the module's turn stands for; one increment of the WCC suppressed or doubled (01 R27, R28). -/
def State.counted (s : State) (n : Word) : Word :=
  match s.slew with
  | some true => n + 1
  | some false => n - 1
  | none => n

/-- Every core's cycle counters of one cycle. -/
def State.tickCores (s : State) : List (Nat × Core) := s.cores.map fun x => (x.1, x.2.tick (s.timerRuns x.2))

/-- The clock moves: a core cycle is one reference cycle in P0 and two in P1; in S1 only the WCC counts, in S3 nothing (01 R27, R29). -/
def State.tick (s : State) : State :=
  match s.power with
  | .p0 => { s with wcc := s.wcc + s.counted 1, slew := none, cores := s.tickCores, focus := s.firstTurn }
  | .p1 => { s with wcc := s.wcc + s.counted 2, slew := none, cores := s.tickCores, focus := s.firstTurn }
  | .s1 => { s with wcc := s.wcc + s.counted 1, slew := none }
  | .s3 => s
  | .s5 => s

end Sys2Proof.Machine
end

