-- ==== Sys2Proof/Machine/Binary.lean ====
section
/-! DEFINITION. Sys2Proof/Machine/Binary.lean: a configuration binary as bytes: its header, its directory of records, what makes a record malformed, and
the tasks, seeds and directory entries that its records give under a placement (00 R428, 02 R61, 03 R81, 04 R126, 05 R145 to R152, R433, 08 R253, 10
R303, R306 to R308). -/

namespace Sys2Proof.Machine

/-! ## Header and directory (10 R306) -/

/-- A little-endian number of n bytes at an offset. -/
def fieldAt (b : List Byte) (off n : Nat) : Nat := leNat ((b.drop off).take n)

/-- Word k of a record. -/
def wordAt (b : List Byte) (k : Nat) : Nat := fieldAt b (8 * k) 8

/-- A record of the directory. -/
structure FileRec where
  kind : Nat
  off  : Nat
  len  : Nat
  deriving DecidableEq, Repr

/-- NREC, DIROFF. -/
def fileRecs (b : List Byte) : Nat := fieldAt b 8 4
def fileDir (b : List Byte) : Nat := fieldAt b 12 4

/-- The header does not keep Table 10-20, or the directory does not lie in the binary. -/
def headerBad (b : List Byte) : Bool :=
  decide (b.length < 64) || fieldAt b 0 4 != 0x5759434F || fieldAt b 4 2 != 3 || fileRecs b == 0 || decide (0x100000 < fileRecs b) ||
    fileDir b % 16 != 0 || fieldAt b 16 8 != b.length || decide (b.length < fileDir b + 16 * fileRecs b) || fieldAt b 26 2 == 0 ||
    decide (16 < fieldAt b 26 2) || decide (1 < fieldAt b 28 1)

/-- The records in directory order. -/
def records (b : List Byte) : List FileRec :=
  (List.range (fileRecs b)).map fun i =>
    let d := fileDir b + 16 * i
    { kind := fieldAt b d 2, off := fieldAt b (d + 4) 8, len := fieldAt b (d + 12) 4 }

/-- A record's bytes. -/
def FileRec.bytes (r : FileRec) (b : List Byte) : List Byte := (b.drop r.off).take r.len

/-- The records of a kind, in directory order. -/
def ofKind (b : List Byte) (kind : Nat) : List (List Byte) := ((records b).filter fun r => r.kind == kind).map fun r => r.bytes b

/-! ## Records (10 R307, R308) -/

/-- Members of a pen record. -/
def penMembers (x : List Byte) : Nat := bits (wordAt x 0) 52 12 + 1

/-- Entries of a live-range table. -/
def liveEntries (x : List Byte) : Nat := bits (wordAt x 0) 0 11

/-- The kind is listed, and the length is that of its kind (Table 10-21). -/
def FileRec.lengthOk (r : FileRec) (b : List Byte) : Bool :=
  let x := r.bytes b
  match r.kind with
  | 0x01 => r.len == 64
  | 0x02 => decide (8 ≤ r.len) && r.len == (8 + 2 * penMembers x + 4 + 7) / 8 * 8
  | 0x03 => r.len == 40
  | 0x04 => r.len == 40
  | 0x05 => r.len == 32
  | 0x07 => r.len == 64
  | 0x0B => decide (8 ≤ r.len) && r.len == 8 + 72 * liveEntries x
  | 0x0D => r.len == 16
  | 0x0E => r.len == 16
  | 0x0F => r.len == 16
  | 0x10 => r.len == 24
  | 0x12 => r.len == 16
  | k => decide (1 ≤ k) && decide (k ≤ 0x12)

/-- A relocation of a type can target a record of a kind (04 Table 4-5, 10 R308): no code and no data. -/
def relocKind (type kind : Nat) : Bool :=
  match type with
  | 0 => kind == 0x02
  | 3 => kind == 0x06
  | 5 => kind == 0x02
  | 8 => kind == 0x12
  | _ => kind != 0x08 && kind != 0x09 && kind != 0x0A

/-- A relocation record does not keep Table 10-22: its type, its width, its target, a member index beyond the pen. -/
def relocBad (b x : List Byte) : Bool :=
  let type := fieldAt x 0 1
  let width := fieldAt x 1 1
  decide (8 < type) || width == 0 || decide (64 < width) ||
    match (records b)[fieldAt x 4 4]? with
    | none => true
    | some t => !relocKind type t.kind || (type == 0 && decide (penMembers (t.bytes b) ≤ fieldAt x 8 4))

/-- A coordinate field of a record selects nothing there is (05 R151). -/
def selBad (x : List Byte) : Bool :=
  decide (5 < bits (wordAt x 1) 24 3) || decide (5 < bits (wordAt x 1) 51 3) || decide (5 < bits (wordAt x 2) 24 3) || decide (5 < bits (wordAt x 2) 51 3)

/-- An entry of a live-range table is refused (08 R253): its range, one of its ranges, or a word beyond them that is not zero. -/
def liveBad (x : List Byte) (k : Nat) : Bool :=
  let w := fun (j : Nat) => wordAt x (1 + 9 * k + j)
  let n := bits (w 0) 20 4 + 1
  decide (8 < n) || decide (bits (w 0) 24 20 ≤ bits (w 0) 44 20) ||
    (List.range 8).any fun j =>
      if j < n then bits (w (j + 1)) 24 20 == 0 || decide (windowEnd < bits (w (j + 1)) 44 20 + bits (w (j + 1)) 24 20) else w (j + 1) != 0

/-- Fields of a record that the loader refuses, where they are not refused of the task or entry as a whole (02 Table 2-4, 03 R81, 05 Tables
5-2, 5-4, 5-5, R152, 08 R253). -/
def FileRec.fieldBad (r : FileRec) (b : List Byte) : Bool :=
  let x := r.bytes b
  match r.kind with
  | 0x01 =>
    bits (wordAt x 0) 48 16 == 0xFFFF || bits (wordAt x 0) 32 16 == 0xFFFF || decide (1 < bits (wordAt x 0) 6 2) || decide (8 < bits (wordAt x 2) 44 4) ||
      decide (8 < bits (wordAt x 2) 40 4) || decide ((ofKind b 0x02).length ≤ bits (wordAt x 0) 32 16) ||
      decide ((ofKind b 0x03).length ≤ bits (wordAt x 2) 48 16) ||
      decide ((ofKind b 0x04).length < bits (wordAt x 4) 48 16 + bits (wordAt x 2) 44 4) ||
      decide ((ofKind b 0x05).length < bits (wordAt x 4) 32 16 + bits (wordAt x 2) 40 4) ||
      (bits (wordAt x 4) 16 16 != 0xFFFF && decide ((ofKind b 0x0B).length ≤ bits (wordAt x 4) 16 16))
  | 0x02 => decide (1536 < bits (wordAt x 0) 40 12)
  | 0x03 => bits (wordAt x 4) 0 2 == 3
  | 0x04 => decide (1 < bits (wordAt x 0) 34 2) || bits (wordAt x 0) 32 2 == 3 || decide (256 < bits (wordAt x 0) 7 9) || selBad x
  | 0x05 => bits (wordAt x 0) 34 2 != 0 || bits (wordAt x 0) 32 2 == 3 || decide (256 < bits (wordAt x 0) 7 9) || bits (wordAt x 0) 6 1 != 0 || selBad x
  | 0x07 => decide (1 < bits (wordAt x 0) 34 2) || decide (1 < bits (wordAt x 0) 32 2) || decide (9 < bits (wordAt x 0) 26 4)
  | 0x0B => liveEntries x == 0 || decide (1024 < liveEntries x) || (List.range (liveEntries x)).any (liveBad x)
  | 0x0D => relocBad b x
  | _ => false

/-- A record is malformed: it crosses SIZE, has a kind not listed or another length, or a field that is refused. -/
def FileRec.bad (r : FileRec) (b : List Byte) : Bool := decide (b.length < r.off + r.len) || !r.lengthOk b || r.fieldBad b

/-- No record is named. -/
def noRecord : Nat := 0xFFFFFFFF

/-- The records with their indexes. -/
def numbered (b : List Byte) : List (Nat × FileRec) := List.zip (List.range (fileRecs b)) (records b)

/-- The first malformed record of a binary; no record where the header is at fault, or tells another number of tasks. -/
def fileBad (b : List Byte) : Option Nat :=
  if headerBad b then some noRecord
  else
    match (numbered b).find? fun r => r.2.bad b with
    | some r => some r.1
    | none => if (ofKind b 0x01).length ≠ fieldAt b 24 2 then some noRecord else none

/-- The malformed record of a stored binary: of a stated layout, else one of another kind. -/
def Binary.malformed (b : Binary) : Option Nat := (fileBad b.bytes).orElse fun _ => b.odd

/-! ## What the records give (05 Tables 5-2 to 5-5, 08 R253, 10 R303) -/

/-- A coordinate field (05 Table 5-5). -/
def coordOf (x : Nat) : Coord := { sel := ⟨bits x 24 3, Nat.mod_lt _ (by decide)⟩, mul := sextNat (bits x 16 8) 8, off := sextNat (bits x 0 16) 16 }

/-- A subscription or a publication record; `ends` is the loader's. -/
def nameRecOf (x : List Byte) (pub ends : Bool) : NameRec :=
  let w := wordAt x
  { tensor := BitVec.ofNat 20 (bits (w 0) 36 20), pull := bits (w 0) 34 2 == 1, tagrule := ⟨bits (w 0) 32 2, Nat.mod_lt _ (by decide)⟩
    tagoff := BitVec.ofNat 16 (bits (w 0) 16 16), rate := bits (w 0) 7 9, scales := bits (w 0) 6 1 == 1
    coords := [coordOf (bits (w 1) 0 27), coordOf (bits (w 1) 27 27), coordOf (bits (w 2) 0 27), coordOf (bits (w 2) 27 27)]
    widths := (List.range 4).map fun j => bits (w 3) (6 * j) 6
    lbase := if pub then 0 else bits (w 3) 44 20
    lsize := if pub then 0 else bits (w 3) 24 20
    sbase := if pub then 0 else bits (w 4) 44 20
    back := pub && bits (w 3) 25 1 == 1
    live := pub && bits (w 3) 24 1 == 1
    ends }

/-- A level of a loop-nest record. -/
def levelOf (w : Nat) : Level := { lo := sextNat (bits w 48 16) 16, step := sextNat (bits w 32 16) 16, count := bits w 16 16, blk := bits w 0 16 }

/-- An entry of a live-range table. -/
def liveOf (x : List Byte) (k : Nat) : LiveRange :=
  let w := fun (j : Nat) => wordAt x (1 + 9 * k + j)
  { pclo := bits (w 0) 44 20, pchi := bits (w 0) 24 20
    ranges := (List.range (bits (w 0) 20 4 + 1)).map fun j => (bits (w (j + 1)) 44 20, bits (w (j + 1)) 24 20) }

/-- Records n to n + k - 1 of a kind; `ends` tells of each whether its stream ends. -/
def nameRecs (b : List Byte) (kind n k : Nat) (pub : Bool) (ends : Nat → Bool) : List NameRec :=
  (List.zip (List.range k) (((ofKind b kind).drop n).take k)).map fun r => nameRecOf r.2 pub (ends r.1)

/-- The modes of the sixteen banks in the word that follows the members (10 R303). -/
def modesOf (pen : List Byte) : List Nat := (List.range 16).map fun k => bits (fieldAt pen (8 + 2 * penMembers pen) 4) (2 * k) 2

/-- A task with nothing placed. -/
def Task.unplaced (num : Nat) : Task :=
  { num, prio := 0, weight := 0, herd := false, hsize := 1, graph := 0, strict := false, codeBase := 0, codeEnd := 0, entry := 0, levels := [], order := 0
    subs := [], pubs := [], window := 1, slots := 1, lstride := 0, after := [], tagbase := 0, btmo := 0, live := none, members := [], gate := 0
    psblk := 0, preblk := 0, modes := [], sweight := 1, carry := false, vsns := [], code := [], data := [] }

/-! ## Code (00 R428, 03 R104) -/

/-- The bytes of a task's CODE region. -/
def Task.codeImage (t : Task) : List Byte := Memory.bytes (Memory.put [] t.code) t.codeBase (t.codeEnd - t.codeBase)

/-- The slot words of a code section, bundle by bundle, each with its position and extension word. -/
def codeWords : Nat → List Byte → List (Fin 8 × Nat × Option Nat)
  | 0, _ => []
  | fuel + 1, bs =>
    if bs.length < 2 then []
    else match slotWords (maskSlots (leNat (bs.take 1))) (bs.drop 2) with
      | some (ws, n) => ws ++ codeWords fuel (bs.drop (n + 2))
      | none => []

/-- The slot words of a task's code section. -/
def Task.words (t : Task) : List (Fin 8 × Nat × Option Nat) := codeWords t.codeImage.length t.codeImage

/-- A slot word holds an opcode of a map (10 Table 10-3). -/
def isOp (x : Fin 8 × Nat × Option Nat) (c : SlotClass) (ops : List Nat) : Bool := slotClass x.1 == c && ops.contains (x.2.1 / 1048576 % 128)

/-- A format code is that of T8 or T6. -/
def tapered (code : Nat) : Bool := code == 6 || code == 7

/-- The task needs the tapered decoders: its code holds a `vcvt`, `vpack` or `vunpack` whose SFMT or DFMT is tapered (00 R428). -/
def Task.needsTaper (t : Task) : Bool :=
  t.words.any fun x => isOp x .vector [72, 73, 74] && x.2.2.any fun e => tapered (e / 16 % 16) || tapered (e % 16)

/-- Some code asks for the end of record k's stream with `pubeos` (14 R395). -/
def endsStream (l : List (Fin 8 × Nat × Option Nat)) (k : Nat) : Bool :=
  l.any fun x => isOp x .fabric [2] && (Form.Pubeos.ofWord (x.2.1 % 1048576)).any fun f => f.k.val == k

/-! ## Relocation (04 R126, Table 4-5, 10 R308) -/

/-- A field of a record written at a bit offset. -/
def patchField (x : List Byte) (off width v : Nat) : List Byte :=
  let n := leNat x
  leBytes x.length (n - bits n off width * 2 ^ off + v % 2 ^ width * 2 ^ off)

/-- Logical coordinates as a pen record holds them (05 Table 5-3). -/
def coords16 (n : Nat) : Nat := coreX n + coreY n * 256

/-- What a relocation of a pen record writes: the coordinates of a member, or of the gate. -/
def relocValue (pl : Placement) (pen : Nat) (x : List Byte) : Option Nat :=
  match fieldAt x 0 1 with
  | 0 => ((assoc pl.pens pen).bind fun l => l[fieldAt x 8 4]?).map coords16
  | 5 => (assoc pl.gates pen).map coords16
  | _ => none

/-- The index of the record of the k-th task, or directory entry. -/
def recordOf (b : List Byte) (kind k : Nat) : Nat := ((((numbered b).filter fun r => r.2.kind == kind)[k]?).map (·.1)).getD noRecord

/-- A pen record, its relocations written: a field that none names keeps what the binary has (04 R126). -/
def placedPen (b : List Byte) (pl : Placement) (k : Nat) : List Byte :=
  ((ofKind b 0x0D).filter fun x => fieldAt x 4 4 == recordOf b 0x02 k).foldl (fun pen x =>
    match relocValue pl k x with
    | some v => patchField pen (fieldAt x 2 2) (fieldAt x 1 1) v
    | none => pen) (((ofKind b 0x02)[k]?).getD [])

/-- Coordinates of a pen record: of its members, and of its gate. -/
def memberCoords (pen : List Byte) (k : Nat) : Nat × Nat := (fieldAt pen (8 + 2 * k) 1, fieldAt pen (9 + 2 * k) 1)
def gateCoords (pen : List Byte) : Nat × Nat := (bits (wordAt pen 0) 12 8, bits (wordAt pen 0) 20 8)

/-- Coordinates lie on the grid. -/
def onGrid (c : Nat × Nat) : Bool := decide (c.1 < Sys2Proof.Config.cols) && decide (c.2 < Sys2Proof.Config.rows)

/-- A pen record's coordinates lie on the grid. -/
def penOnGrid (pen : List Byte) : Bool := onGrid (gateCoords pen) && (List.range (penMembers pen)).all fun k => onGrid (memberCoords pen k)

/-- The core at coordinates. -/
def coreAt (c : Nat × Nat) : Nat := coreNum c.1 c.2

/-- The task of a descriptor: what records of no stated layout give, with the descriptor's fields, those of the records it names, and the members and
gate of its pen as placed. -/
def taskOf (b x : List Byte) (pl : Placement) (given : List Task) : Task :=
  let w := wordAt x
  let num := bits (w 0) 48 16
  let pen := placedPen b pl (bits (w 0) 32 16)
  let nest := ((ofKind b 0x03)[bits (w 2) 48 16]?).getD []
  let t : Task := { ((given.find? fun t => t.num = num).getD (Task.unplaced num)) with codeBase := bits (w 1) 44 20, codeEnd := bits (w 1) 24 20 }
  let code := t.words
  { t with
    prio := bits (w 0) 30 2, weight := bits (w 0) 26 4, herd := bits (w 0) 25 1 == 1, hsize := bits (w 0) 12 13, graph := bits (w 0) 8 4
    strict := bits (w 0) 6 2 == 1, entry := bits (w 1) 4 20
    levels := (List.range (bits (wordAt nest 4) 2 2 + 1)).map fun k => levelOf (wordAt nest k)
    order := bits (wordAt nest 4) 0 2
    subs := nameRecs b 0x04 (bits (w 4) 48 16) (bits (w 2) 44 4) false fun _ => false
    pubs := nameRecs b 0x05 (bits (w 4) 32 16) (bits (w 2) 40 4) true (endsStream code)
    window := bits (w 2) 34 6 + 1, slots := bits (w 2) 32 2 + 1, lstride := bits (w 3) 22 20
    after := [bits (w 2) 16 16, bits (w 2) 0 16].filter fun n => n ≠ 0xFFFF
    tagbase := BitVec.ofNat 16 (bits (w 3) 48 16), btmo := bits (w 3) 42 6
    live := if bits (w 4) 16 16 = 0xFFFF then none else ((ofKind b 0x0B)[bits (w 4) 16 16]?).map fun y => (List.range (liveEntries y)).map (liveOf y)
    members := (List.range (penMembers pen)).map fun k => coreAt (memberCoords pen k), gate := coreAt (gateCoords pen)
    psblk := bits (wordAt pen 0) 40 12, preblk := bits (wordAt pen 0) 28 12, modes := modesOf pen }

/-- A tensor directory entry (02 Table 2-4); the manifest of a SIGNED tensor is given with the store. -/
def dirOf (x : List Byte) (given : List DirEntry) : DirEntry :=
  let w := wordAt x
  let tensor := BitVec.ofNat 20 (bits (w 0) 36 20)
  { ns := BitVec.ofNat 8 (bits (w 0) 56 8), tensor, deep := bits (w 0) 34 2 == 1, signed := bits (w 0) 32 2 == 1, bad := false, valid := bits (w 0) 30 1 == 1
    fmt := Fmt.ofCode (bits (w 0) 26 4), tokm1 := bits (w 0) 18 8, base := bits (w 1) 0 52, tstride := bits (w 2) 24 24
    widths := (List.range 4).map fun j => bits (w 2) (6 * j) 6
    strides := (List.range 4).map fun j => bits (w (3 + j)) 0 48
    scale := bits (w 7) 0 52
    manifest := ((given.find? fun e => e.tensor = tensor).map fun e => e.manifest).getD []
    verified := [] }

/-! ## Seeds (05 R433) -/

/-- The format of a seed: its tensor's, else that of its data; none for `i64`. -/
def Seed.fmt (x : Seed) (dirs : List DirEntry) : Option Fmt :=
  match dirs.find? fun e => e.tensor = x.tensor with
  | some e => some e.fmt
  | none => if x.type.val < 8 then some (Fmt.ofCode x.type.val) else none

/-- The tokens a seed's data is cut into. -/
def Seed.tokens (x : Seed) (f : Fmt) : List FlitToken :=
  (List.range (x.bytes.length / tokBytes f)).map fun j =>
    { ev := BitVec.allOnes 16, bits := BitVec.ofNat 512 (leNat ((x.bytes.drop (j * tokBytes f)).take (tokBytes f))) }

/-- A seed's tile: one burst, every element valid, SCALE 0x7F, neither BACK nor LIVE. -/
def Seed.tile (x : Seed) (dirs : List DirEntry) : Option Tile :=
  (x.fmt dirs).map fun f => { name := nameOf 0 x.tensor x.index.toNat, tag := x.tag, back := false, live := false
                              bursts := [{ scale := 0x7F, fmt := f, eos := false, tokens := x.tokens f }] }

/-- A seed is refused: no format, a part of a token, no token or more than 256, or a tensor that no task publishes. -/
def Seed.refused (x : Seed) (g : Config) : Bool :=
  (match x.fmt g.dirs with
   | none => true
   | some f => x.bytes.length % tokBytes f != 0 || decide (x.bytes.length / tokBytes f = 0) || decide (256 < x.bytes.length / tokBytes f)) ||
    !g.tasks.any fun u => u.pubs.any fun r => r.tensor == x.tensor

/-! ## The configuration (04 R122) -/

/-- Tasks of graphs whose every task is under strict admission are rated (05 R170). -/
def rateTasks (l : List Task) : List Task := l.map fun t => { t with rated := l.all fun u => u.graph != t.graph || u.strict }

/-- The configuration of a stored binary under a placement: what its bytes give, with what records of no stated layout do. -/
def Binary.config (b : Binary) (pl : Placement) : Config :=
  let dirs := (ofKind b.bytes 0x07).map fun x => dirOf x b.cfg.dirs
  { b.cfg with
    uniform := fieldAt b.bytes 28 1 == 1
    tasks := rateTasks ((ofKind b.bytes 0x01).map fun x => taskOf b.bytes x pl b.cfg.tasks)
    dirs
    seeds := b.seeds.filterMap fun x => x.tile dirs }

/-- Nothing placed. -/
def Placement.none_ : Placement := { pens := [], gates := [] }

/-- The descriptor of a task, with its index. -/
def descriptorOf (b : List Byte) (num : Nat) : Option (Nat × List Byte) :=
  ((numbered b).find? fun r => r.2.kind == 0x01 && bits (wordAt (r.2.bytes b) 0) 48 16 == num).map fun r => (r.1, r.2.bytes b)

/-- The index of a task's descriptor, of its i-th subscription record, of its i-th publication record. -/
def taskIndex (b : List Byte) (num : Nat) : Nat := ((descriptorOf b num).map (·.1)).getD noRecord
def subIndex (b : List Byte) (num i : Nat) : Nat := ((descriptorOf b num).map fun d => recordOf b 0x04 (bits (wordAt d.2 4) 48 16 + i)).getD noRecord
def pubIndex (b : List Byte) (num i : Nat) : Nat := ((descriptorOf b num).map fun d => recordOf b 0x05 (bits (wordAt d.2 4) 32 16 + i)).getD noRecord

end Sys2Proof.Machine
end

