-- ==== Sys2Proof/Machine/Engine.lean ====
section
/-! DEFINITION. Sys2Proof/Machine/Engine.lean: stream registers, accumulator banks and matrix products: the EN forms at issue, and what their queued
operations do (13 R354 to R366, 09 R270 to R273). -/

namespace Sys2Proof.Machine

/-! ## Stream registers (13 R356, R357) -/

/-- `qset` (13 R356). -/
def execQset (p : Pred) (f : Form.Qset) (s : State) : Host.Outcome State Fault Refusal :=
  slot true p (fun env c k =>
    let d : Desc := { lo := c.regs.gets f.a, hi := c.regs.gets f.b }
    { srcs := [srcS f.a f.ta, srcS f.b f.tb], dests := [], busy := false
      result := checked (Core.qsetTrap env k d) (.go [.result (.q f.q d) 1]) }) s

/-- `qget` (13 R357). -/
def execQget (p : Pred) (f : Form.Qget) (s : State) : Host.Outcome State Fault Refusal :=
  slot true p (fun _ c _ =>
    { srcs := [], dests := [.s f.d], busy := false
      result := .go [.result (.s f.d (if f.hi then c.q[f.q].hi else c.q[f.q].lo)) 1] }) s

/-! ## Banks and bands (06 Tables 6-8, 6-10, 13 R362) -/

/-- Bits F to L of ACC_MAP. -/
def bankMask (f l : Fin 64) : Word := BitVec.ofNat 64 (2 ^ (l.val + 1) - 2 ^ f.val)

/-- Some bank of F to L is allocated. -/
def Core.someAlloc (c : Core) (f l : Fin 64) : Bool := c.accMap &&& bankMask f l != 0

/-- Every bank of F to L is allocated. -/
def Core.allAlloc (c : Core) (f l : Fin 64) : Bool := c.accMap &&& bankMask f l == bankMask f l

/-- The band of a drain group: its first and last bank, while VALID (06 Table 6-10). -/
def Core.band (c : Core) (g : Fin 4) : Option (Nat × Nat) :=
  let x := bits c.accOwn.toNat (16 * g.val) 16
  if bits x 15 1 = 1 then some (bits x 6 6, bits x 0 6) else none

/-- ACC_OWN with a group's sixteen bits replaced. -/
def ownSet (x : BitVec 64) (g : Fin 4) (b : Nat) : BitVec 64 :=
  BitVec.ofNat 64 (x.toNat - bits x.toNat (16 * g.val) 16 * 2 ^ (16 * g.val) + b * 2 ^ (16 * g.val))

/-- Banks F to L meet the VALID band of some group but `skip`. -/
def Core.bandMeets (c : Core) (skip : Option (Fin 4)) (f l : Fin 64) : Bool :=
  [(0 : Fin 4), 1, 2, 3].any fun g =>
    skip != some g && (match c.band g with
      | some (a, b) => decide (a ≤ l.val) && decide (f.val ≤ b)
      | none => false)

/-- The trap ACC_UNALLOC of a bank range. -/
def Core.unallocTrap (c : Core) (k : Fin 8) (f l : Fin 64) : Option TrapInfo := trapIf (!c.allAlloc f l) (trapOf trapAccUnalloc k)

/-- An accumulator form with no register operands. -/
def bankReq (c : Core) (t : Option TrapInfo) (es : List Effect) : SlotReq :=
  { srcs := [], dests := [], busy := c.queueFull .matrix, result := checked t (.go es) }

/-- `aalloc` (13 R362). -/
def execAalloc (p : Pred) (f : Form.Fl) (s : State) : Host.Outcome State Fault Refusal :=
  slot true p (fun _ c k =>
    bankReq c (trapIf (c.someAlloc f.f f.l) (trapOf trapAccExhausted k))
      [.accMap (c.accMap ||| bankMask f.f f.l), .engine .matrix .accNote none none none]) s

/-- `afree` (13 R362). -/
def execAfree (p : Pred) (f : Form.Fl) (s : State) : Host.Outcome State Fault Refusal :=
  slot true p (fun _ c k =>
    bankReq c (firstTrap [c.unallocTrap k f.f f.l, trapIf (c.bandMeets none f.f f.l) (trapOf trapAccOwner k)])
      [.accMap (c.accMap &&& ~~~bankMask f.f f.l), .engine .matrix .accNote none none none]) s

/-- `aown` (13 R362). -/
def execAown (p : Pred) (f : Form.Aown) (s : State) : Host.Outcome State Fault Refusal :=
  slot true p (fun _ c k =>
    bankReq c (firstTrap [c.unallocTrap k f.f f.l, trapIf (c.bandMeets (some f.g) f.f f.l) (trapOf trapAccOwner k)])
      [.accOwn (ownSet c.accOwn f.g (2 ^ 15 + f.f.val * 64 + f.l.val)), .engine .matrix .accNote none none none]) s

/-- `aown.rel` (13 R362): VALID 0. -/
def execAownRel (p : Pred) (f : Form.AownRel) (s : State) : Host.Outcome State Fault Refusal :=
  slot true p (fun _ c _ =>
    bankReq c none [.accOwn (ownSet c.accOwn f.g (bits c.accOwn.toNat (16 * f.g.val) 15)), .engine .matrix .accNote none none none]) s

/-- `aclr` (13 R362). -/
def execAclr (p : Pred) (f : Form.Fl) (s : State) : Host.Outcome State Fault Refusal :=
  slot true p (fun _ c k => bankReq c (c.unallocTrap k f.f f.l) [.engine .matrix (.aclr f.f.val f.l.val) none none none]) s

/-- `adrain` (13 R363). -/
def execAdrain (p : Pred) (f : Form.Adrain) (s : State) : Host.Outcome State Fault Refusal :=
  slot true p (fun _ c k =>
    let d := c.q[f.q]
    let own := match c.band f.g with
      | some (a, b) => decide (f.f.val < a) || decide (b < f.l.val)
      | none => true
    { srcs := [], dests := [], busy := c.rsbFull || c.queueFull .matrix
      result := checked
        (firstTrap [c.streamsTrap k [(d, true)], tripleTrap k d,
                    streamCfgIf k (d.rows % 16 != 0 || d.rows / 16 * d.cols != f.l.val + 1 - f.f.val || d.slog != 0),
                    c.unallocTrap k f.f f.l, trapIf own (trapOf trapAccOwner k)])
        (.go [.engine .matrix (.adrain d f.f.val f.l.val f.clr) none none (some d.hull)]) }) s

/-- `aread` (13 R364). -/
def execAread (p : Pred) (f : Form.Aread) (s : State) : Host.Outcome State Fault Refusal :=
  slot true p (fun _ c k =>
    { srcs := [], dests := [.v f.d], busy := c.queueFull .matrix
      result := checked (c.unallocTrap k f.k f.k)
        (.go [.empty (.v f.d), .engine .matrix (.aread f.k.val f.row.val f.d) none none none]) }) s

/-! ## Matrix products at issue (13 R365, R366) -/

/-- kw of a pair of formats, none when the pair is refused (13 R365). -/
def kstep (a b : Fmt) : Option Nat :=
  let half := fun f : Fmt => f == .f16 || f == .bf16
  let byte := fun f : Fmt => f == .t8 || f == .t6 || f == .i8
  if half a && half b then some 4 else if byte a && byte b then some 8 else if a == .f32 && b == .f32 then some 1 else none

/-- The checks of `mma`, and of `mmag`, whose one band of rows the lanes of `rows` name. -/
def Core.mmaTrap (c : Core) (env : Env) (k : Fin 8) (a b : Desc) (f l : Fin 64) (rows : Option Token) : Option TrapInfo :=
  let tapered := fun x : Fmt => x == .t8 || x == .t6
  let mb := if rows = none then a.rows / 16 else 1
  let bad := (rows == none && a.rows % 16 != 0) || b.rows != a.width || mb * b.cols != l.val + 1 - f.val || kstep a.fmt b.fmt == none
    || (match rows with
        | some t => (List.finRange 16).any fun i => laneOk t i && decide (a.rows ≤ t.elem[i].toNat)
        | none => false)
  firstTrap [c.streamsTrap k [(a, false), (b, false)],
             firstTrap [tripleTrap k a, tripleTrap k b],
             trapIf ((tapered a.fmt || tapered b.fmt) && bits env.caps.toNat 1 1 == 0) (trapOf trapUnitAbsent k),
             streamCfgIf k bad, c.unallocTrap k f l]

/-- `mma` (13 R365). -/
def execMma (p : Pred) (f : Form.Mma) (s : State) : Host.Outcome State Fault Refusal :=
  slot true p (fun env c k =>
    let a := c.q[f.qa]
    let b := c.q[f.qb]
    { srcs := [], dests := [], busy := c.rsbFull || c.queueFull .matrix
      result := checked (c.mmaTrap env k a b f.f f.l none)
        (.go [.engine .matrix (.mma a b f.f.val (f.l.val + 1 - f.f.val) f.ovw none) (some a.hull) (some b.hull) none]) }) s

/-- `mmag` (13 R366). -/
def execMmag (p : Pred) (f : Form.Mmag) (s : State) : Host.Outcome State Fault Refusal :=
  slot true p (fun env c k =>
    let a := c.q[f.qa]
    let b := c.q[f.qb]
    let t := c.regs.v[f.i]
    { srcs := [srcV f.i f.ti], dests := [], busy := c.rsbFull || c.queueFull .matrix
      result := checked (c.mmaTrap env k a b f.f f.l (some t))
        (.go [.engine .matrix (.mma a b f.f.val (f.l.val + 1 - f.f.val) f.ovw (some t)) (some a.hull) (some b.hull) none]) }) s

/-! ## What the queued operations do (13 R363 to R366, 09 R273) -/

/-- One K-step: the accumulator and the exact products, rounded once (09 R273). -/
def kSum (old : Lane) (ps : List (Val × Val)) : Lane × FpFlags :=
  toF32 .rne (sumVals false (f32 old :: ps.map fun p => p.1.mul p.2))

/-- The K-steps of one output element, kw products at a time. -/
def kSteps (kw : Nat) (term : Nat → Val × Val) : Nat → Nat → Lane × FpFlags → Lane × FpFlags
  | 0, _, acc => acc
  | n + 1, k, acc =>
    let r := kSum acc.1 ((List.range kw).map fun q => term (k + q))
    kSteps kw term n (k + kw) (r.1, acc.2 ||| r.2)

/-- The element of a stream seen as a matrix: row r, column e. -/
def Desc.at_ (d : Desc) (m : Memory) (r e : Nat) : Val := d.value m (r * d.cols + e / 16) (e % 16)

/-- The row of A that feeds output row i of a band: as it lies, or as the loupe gathers it; none leaves the row unchanged. -/
def sourceRow (rows : Option Token) (bi i : Nat) : Option Nat :=
  match rows with
  | none => some (16 * bi + i)
  | some t => if t.valid.getLsbD i then some (t.elem[i % 16]'(by omega)).toNat else none

/-- `mma` and `mmag` as queued: every output element's K-steps in ascending k (13 R365, R366). -/
def mmaRun (m : Memory) (a b : Desc) (first n : Nat) (ovw : Bool) (rows : Option Token) (acc : List (Nat × Lane)) :
    List (Nat × Lane) × FpFlags :=
  let kw := (kstep a.fmt b.fmt).getD 1
  (List.range (n * 256)).foldl (fun (st : List (Nat × Lane) × FpFlags) x =>
    let blk := x / 256
    let i := x / 16 % 16
    let j := x % 16
    match sourceRow rows (blk / b.cols) i with
    | none => st
    | some r =>
      let old := if ovw then 0 else (assoc st.1 ((first + blk) * 256 + i * 16 + j)).getD 0
      let v := kSteps kw (fun k => (a.at_ m r k, b.at_ m k (16 * (blk % b.cols) + j))) (a.width / kw) 0 (old, 0)
      (accSet st.1 (first + blk) i j v.1, st.2 ||| v.2)) (acc, 0)

/-- Banks zeroed. -/
def accClear (acc : List (Nat × Lane)) (first last : Nat) : List (Nat × Lane) :=
  acc.filter fun e => decide (e.1 / 256 < first) || decide (last < e.1 / 256)

/-- A token's worth of results written through a stream at token t. -/
def Desc.writeToken (d : Desc) (m : Memory) (t : Nat) (e : Fin 16 → Nat) : Memory := m.put (d.tokenCells t (packToken d.fmt e))

/-- `adrain` as queued: each row of each bank is one token of D (13 R363). -/
def drainRun (m : Memory) (d : Desc) (first : Nat) (acc : List (Nat × Lane)) (n : Nat) : Memory × FpFlags :=
  (List.range (n * 16)).foldl (fun (st : Memory × FpFlags) x =>
    let blk := x / 16
    let i := x % 16
    let el := fun j : Fin 16 => elemEncode d.fmt .rne (f32 ((assoc acc ((first + blk) * 256 + i * 16 + j.val)).getD 0))
    let t := (16 * (blk / d.cols) + i) * d.cols + blk % d.cols
    (d.writeToken st.1 t fun j => (el j).1, (List.finRange 16).foldl (fun fl j => fl ||| (el j).2) st.2)) (m, 0)

/-- Flags of an engine operation: into FPCR and the shadow (09 R264, 13 R360). -/
def Core.engineFlags (c : Core) (f : FpFlags) : Core :=
  { c with fpcr := orFlags c.fpcr f, shadow := { c.shadow with flags := c.shadow.flags ||| f } }

/-- A completed matrix-queue operation. -/
def Core.runMatrix (c : Core) : EngOp → Core
  | .mma a b f n ovw rows =>
    let r := mmaRun c.spad a b f n ovw rows c.acc
    ({ c with acc := r.1 } : Core).engineFlags r.2
  | .aclr f l => { c with acc := accClear c.acc f l }
  | .adrain d f l clr =>
    let r := drainRun c.spad d f c.acc (l + 1 - f)
    ({ c with spad := r.1, acc := if clr then accClear c.acc f l else c.acc } : Core).engineFlags r.2
  | .aread bank row d =>
    c.give (.v d) (.v d (BitVec.allOnes 16) { elem := lanes fun j => c.accGet bank row j.val, valid := BitVec.allOnes 16 })
  | _ => c

end Sys2Proof.Machine
end

