-- ==== Sys2Proof/Machine/Vector.lean ====
section
/-! DEFINITION. Sys2Proof/Machine/Vector.lean: the VA and VB instructions on FP32, integers, lanes and masks (12 R338 to R346): one meaning each, over
shared forms. -/

namespace Sys2Proof.Machine

/-! ## Shared forms (12 R338) -/

/-- An element of a computed lane. -/
def LaneOut.of (r : Lane × FpFlags) : LaneOut := { x := r.1, valid := true, flags := r.2 }

/-- A slot that writes a v register in the selected lanes. -/
def vecReq (c : Core) (srcs : List Src) (d : Fin 32) (msk : Fin 8) (lat : Nat) (f : Fin 16 → LaneOut) : SlotReq :=
  { srcs, dests := [.v d], busy := false, result := .go (vectorEffects d (c.regs.selected msk) lat f) }

/-- An element-wise lane of one source. -/
def lane1 (x : Token) (g : Lane → Lane × FpFlags) (l : Fin 16) : LaneOut := if laneOk x l then .of (g x.elem[l]) else .invalid

/-- An element-wise lane of two sources. -/
def lane2 (x y : Token) (g : Lane → Lane → Lane × FpFlags) (l : Fin 16) : LaneOut :=
  if laneOk x l && laneOk y l then .of (g x.elem[l] y.elem[l]) else .invalid

/-- An element-wise lane of three sources. -/
def lane3 (x y z : Token) (g : Lane → Lane → Lane → Lane × FpFlags) (l : Fin 16) : LaneOut :=
  if laneOk x l && laneOk y l && laneOk z l then .of (g x.elem[l] y.elem[l] z.elem[l]) else .invalid

/-- A form of one v source. -/
def vec1 (lat : Nat) (g : Lane → Lane × FpFlags) (d a : Fin 32) (ta : Bool) (msk : Fin 8) : Sem := fun _ c _ =>
  vecReq c [srcV a ta] d msk lat (lane1 c.regs.v[a] g)

/-- A form of two v sources. -/
def vec2 (lat : Nat) (g : Lane → Lane → Lane × FpFlags) (d a : Fin 32) (ta : Bool) (b : Fin 32) (tb : Bool) (msk : Fin 8) : Sem :=
  fun _ c _ => vecReq c [srcV a ta, srcV b tb] d msk lat (lane2 c.regs.v[a] c.regs.v[b] g)

/-- A form of two v sources that rounds (12 R340). -/
def vecR (lat : Nat) (g : Rounding → Lane → Lane → Lane × FpFlags) (f : Form.R3R) (msk : Fin 8) : Sem := fun env c =>
  vec2 lat (g (arithMode f.rms c.fpcr)) f.d f.a f.ta f.b f.tb msk env c

/-- The fused forms: the product's and C's signs (12 R340). -/
def vecFma (np nc : Bool) (f : Form.V4R) : Sem := fun _ c _ =>
  vecReq c [srcV f.a f.ta, srcV f.b f.tb, srcV f.c f.tc] f.d f.msk 4
    (lane3 c.regs.v[f.a] c.regs.v[f.b] c.regs.v[f.c] (fpFma (arithMode f.rms c.fpcr) np nc))

/-- No flags. -/
def pure1 (g : Lane → Lane) (x : Lane) : Lane × FpFlags := (g x, 0)
def pure2 (g : Lane → Lane → Lane) (x y : Lane) : Lane × FpFlags := (g x y, 0)

/-- A compare into an m register: an invalid lane writes 0 (12 R338, R341). -/
def cmpVec (lat : Nat) (g : Lane → Lane → Bool × FpFlags) (d : Fin 8) (a : Fin 32) (ta : Bool) (b : Fin 32) (tb : Bool) (msk : Fin 8) :
    Sem := fun _ c _ =>
  let x := c.regs.v[a]
  let y := c.regs.v[b]
  let f : Fin 16 → LaneOut := lane2 x y fun u v => (BitVec.ofNat 32 (boolBit (g u v).1), (g u v).2)
  { srcs := [srcV a ta, srcV b tb], dests := [], busy := false
    result := .go [.result (.m d (c.regs.selected msk) (laneBits fun l => (f l).x == 1)) lat, .flags (laneFlags (c.regs.selected msk) f)] }

/-! ## Floating-point functions (12 R341) -/

/-- Bit 31 cleared or inverted; a NaN gives the canonical NaN. -/
def fpAbs (x : Lane) : Lane × FpFlags :=
  if (f32 x).isNan then (nan32, flagIf FpFlags.nv (f32 x).sig) else (x &&& 0x7FFFFFFF, 0)
def fpNeg (x : Lane) : Lane × FpFlags :=
  if (f32 x).isNan then (nan32, flagIf FpFlags.nv (f32 x).sig) else (x ^^^ 0x80000000, 0)

/-- vmin(vmax(a, b), c). -/
def fpClamp (a b c : Lane) : Lane × FpFlags :=
  let x := fpMax a b
  let y := fpMin x.1 c
  (y.1, x.2 ||| y.2)

/-- The compares: NV for a signalling NaN, and in lt and le for a quiet one. -/
def fpCmpEq (a b : Lane) : Bool × FpFlags := ((f32 a).eq_ (f32 b), flagIf FpFlags.nv ((f32 a).sig || (f32 b).sig))
def fpCmpLt (a b : Lane) : Bool × FpFlags := ((f32 a).lt (f32 b), flagIf FpFlags.nv ((f32 a).isNan || (f32 b).isNan))
def fpCmpLe (a b : Lane) : Bool × FpFlags :=
  ((f32 a).lt (f32 b) || (f32 a).eq_ (f32 b), flagIf FpFlags.nv ((f32 a).isNan || (f32 b).isNan))
def fpCmpUn (a b : Lane) : Bool × FpFlags :=
  ((f32 a).isNan || (f32 b).isNan, flagIf FpFlags.nv ((f32 a).sig || (f32 b).sig))

/-! ## Integer functions (12 R342) -/

/-- ext_w of a lane. -/
def laneVal (ty : Ty) (x : Lane) : Int := tyVal ty x.toNat

/-- A result wrapped to w bits and extended to 32. -/
def laneInt (ty : Ty) (r : Int) : Lane := BitVec.ofInt 32 (tyVal ty (r % (2 ^ (8 * tySize ty) : Nat)).toNat)

def viAdd (ty : Ty) (a b : Lane) : Lane := laneInt ty (laneVal ty a + laneVal ty b)
def viSub (ty : Ty) (a b : Lane) : Lane := laneInt ty (laneVal ty a - laneVal ty b)
def viMul (ty : Ty) (a b : Lane) : Lane := laneInt ty (laneVal ty a * laneVal ty b)
def viMin (ty : Ty) (a b : Lane) : Lane := laneInt ty (if laneVal ty a ≤ laneVal ty b then laneVal ty a else laneVal ty b)
def viMax (ty : Ty) (a b : Lane) : Lane := laneInt ty (if laneVal ty b ≤ laneVal ty a then laneVal ty a else laneVal ty b)
def viEq (ty : Ty) (a b : Lane) : Bool × FpFlags := (laneVal ty a == laneVal ty b, 0)
def viLt (ty : Ty) (a b : Lane) : Bool × FpFlags := (decide (laneVal ty a < laneVal ty b), 0)
def viLe (ty : Ty) (a b : Lane) : Bool × FpFlags := (decide (laneVal ty a ≤ laneVal ty b), 0)

/-- Shifts by B[4:0]. -/
def vShl (a b : Lane) : Lane := a <<< (b.toNat % 32)
def vShr (a b : Lane) : Lane := a >>> (b.toNat % 32)
def vSra (a b : Lane) : Lane := a.sshiftRight (b.toNat % 32)

/-! ## Lane moves (12 R343, R346) -/

/-- A lane copied with its valid bit. -/
def laneOf (t : Token) (l : Fin 16) : LaneOut := { x := t.elem[l], valid := laneOk t l, flags := 0 }

/-- A lane number. -/
def laneNum (n : Nat) : Fin 16 := ⟨n % 16, by omega⟩

def permLane (x y : Token) (l : Fin 16) : LaneOut :=
  let j := laneNum y.elem[l].toNat
  { x := x.elem[j], valid := laneOk x j && laneOk y l, flags := 0 }

def shiftLane (x : Token) (b : Word) (l : Fin 16) : LaneOut :=
  let t : Int := (l.val : Int) - b.toInt
  if 0 ≤ t ∧ t ≤ 15 then laneOf x (laneNum t.toNat) else .invalid

def rotLane (x : Token) (b : Word) (l : Fin 16) : LaneOut := laneOf x (laneNum (l.val + 16 - b.toNat % 16))

def selLane (x y : Token) (m : BitVec 16) (l : Fin 16) : LaneOut := if m.getLsbD l.val then laneOf x l else laneOf y l

/-- `vmov.and` and `vmov.set`: the valid bit given, the element kept where it is 1. -/
def validLane (x : Token) (v : Bool) (l : Fin 16) : LaneOut := if v then { x := x.elem[l], valid := true, flags := 0 } else .invalid

/-! ## Reductions in the fixed tree (12 R344) -/

/-- An operand of a reduction: none, or a value. -/
def redOp (g : Lane → Lane → Lane × FpFlags) (a b : Option Lane × FpFlags) : Option Lane × FpFlags :=
  match a.1, b.1 with
  | none, _ => (b.1, a.2 ||| b.2)
  | some x, none => (some x, a.2 ||| b.2)
  | some x, some y => (some (g x y).1, a.2 ||| b.2 ||| (g x y).2)

/-- One level of the tree. -/
def redLevel {α : Type} (g : α → α → α) : List α → List α
  | a :: b :: l => g a b :: redLevel g l
  | l => l

/-- Four levels: sixteen operands to one. -/
def redTree {α : Type} (g : α → α → α) (l : List α) : List α := redLevel g (redLevel g (redLevel g (redLevel g l)))

/-- The sixteen lane numbers. -/
def laneList : List (Fin 16) := [0, 1, 2, 3, 4, 5, 6, 7, 8, 9, 10, 11, 12, 13, 14, 15]

/-- A reduction of the selected valid lanes to every lane. -/
def reduceReq (g : Core → Lane → Lane → Lane × FpFlags) (d a : Fin 32) (ta : Bool) (msk : Fin 8) : Sem := fun _ c _ =>
  let x := c.regs.v[a]
  let sel := c.regs.selected msk
  let ops := laneList.map fun l => if sel.getLsbD l.val && laneOk x l then (some x.elem[l], (0 : FpFlags)) else (none, 0)
  let r := (redTree (redOp (g c)) ops).headD (none, 0)
  let o : LaneOut := match r.1 with
    | some v => { x := v, valid := true, flags := 0 }
    | none => .invalid
  { srcs := [srcV a ta], dests := [.v d], busy := false
    result := .go [.result (.v d (BitVec.allOnes 16) (tokenOf fun _ => o)) 6, .flags r.2] }

/-! ## Mask forms (12 R345) -/

/-- A whole m register written. -/
def maskReq (srcs : List Src) (d : Fin 8) (x : BitVec 16) : SlotReq :=
  { srcs, dests := [], busy := false, result := .go [.result (.m d (BitVec.allOnes 16) x) 1] }

/-- A scalar written by a vector instruction. -/
def scalarReq (srcs : List Src) (d : Fin 32) (lat : Nat) (x : Word) : SlotReq :=
  { srcs, dests := [.s d], busy := false, result := .go [.result (.s d x) lat] }

/-- The lowest one bit of a mask; 16 of none. -/
def firstBit (x : BitVec 16) : List (Fin 16) → Nat
  | [] => 16
  | l :: ls => if x.getLsbD l.val then l.val else firstBit x ls

/-! ## The instructions -/


/-- `vadd` (12 R340). -/
def execVadd (p : Pred) (f : Form.R3R) (s : State) : Host.Outcome State Fault Refusal :=
  slot false p (vecR 4 fpAdd f 0) s

/-- `vadd` under a lane mask (12 R340). -/
def execVaddMsk (p : Pred) (f : Form.R3R) (m : Fin 8) (s : State) : Host.Outcome State Fault Refusal :=
  slot false p (vecR 4 fpAdd f m) s

/-- `vsub` (12 R340). -/
def execVsub (p : Pred) (f : Form.R3R) (s : State) : Host.Outcome State Fault Refusal :=
  slot false p (vecR 4 fpSub f 0) s

/-- `vsub` under a lane mask (12 R340). -/
def execVsubMsk (p : Pred) (f : Form.R3R) (m : Fin 8) (s : State) : Host.Outcome State Fault Refusal :=
  slot false p (vecR 4 fpSub f m) s

/-- `vmul` (12 R340). -/
def execVmul (p : Pred) (f : Form.R3R) (s : State) : Host.Outcome State Fault Refusal :=
  slot false p (vecR 4 fpMul f 0) s

/-- `vmul` under a lane mask (12 R340). -/
def execVmulMsk (p : Pred) (f : Form.R3R) (m : Fin 8) (s : State) : Host.Outcome State Fault Refusal :=
  slot false p (vecR 4 fpMul f m) s

/-- `vfma` (12 R340). -/
def execVfma (p : Pred) (f : Form.V4R) (s : State) : Host.Outcome State Fault Refusal :=
  slot false p (vecFma false false f) s

/-- `vfms` (12 R340). -/
def execVfms (p : Pred) (f : Form.V4R) (s : State) : Host.Outcome State Fault Refusal :=
  slot false p (vecFma false true f) s

/-- `vfnma` (12 R340). -/
def execVfnma (p : Pred) (f : Form.V4R) (s : State) : Host.Outcome State Fault Refusal :=
  slot false p (vecFma true false f) s

/-- `vmin` (12 R341). -/
def execVmin (p : Pred) (f : Form.R3) (s : State) : Host.Outcome State Fault Refusal :=
  slot false p (vec2 4 fpMin f.d f.a f.ta f.b f.tb 0) s

/-- `vmin` under a lane mask (12 R341). -/
def execVminMsk (p : Pred) (f : Form.R3) (m : Fin 8) (s : State) : Host.Outcome State Fault Refusal :=
  slot false p (vec2 4 fpMin f.d f.a f.ta f.b f.tb m) s

/-- `vmax` (12 R341). -/
def execVmax (p : Pred) (f : Form.R3) (s : State) : Host.Outcome State Fault Refusal :=
  slot false p (vec2 4 fpMax f.d f.a f.ta f.b f.tb 0) s

/-- `vmax` under a lane mask (12 R341). -/
def execVmaxMsk (p : Pred) (f : Form.R3) (m : Fin 8) (s : State) : Host.Outcome State Fault Refusal :=
  slot false p (vec2 4 fpMax f.d f.a f.ta f.b f.tb m) s

/-- `vabs` (12 R341). -/
def execVabs (p : Pred) (f : Form.R2) (s : State) : Host.Outcome State Fault Refusal :=
  slot false p (vec1 4 fpAbs f.d f.a f.ta 0) s

/-- `vabs` under a lane mask (12 R341). -/
def execVabsMsk (p : Pred) (f : Form.R2) (m : Fin 8) (s : State) : Host.Outcome State Fault Refusal :=
  slot false p (vec1 4 fpAbs f.d f.a f.ta m) s

/-- `vneg` (12 R341). -/
def execVneg (p : Pred) (f : Form.R2) (s : State) : Host.Outcome State Fault Refusal :=
  slot false p (vec1 4 fpNeg f.d f.a f.ta 0) s

/-- `vneg` under a lane mask (12 R341). -/
def execVnegMsk (p : Pred) (f : Form.R2) (m : Fin 8) (s : State) : Host.Outcome State Fault Refusal :=
  slot false p (vec1 4 fpNeg f.d f.a f.ta m) s

/-- `vcmp.eq` (12 R341). -/
def execVcmpEq (p : Pred) (f : Form.Mc) (s : State) : Host.Outcome State Fault Refusal :=
  slot false p (cmpVec 4 fpCmpEq f.d f.a f.ta f.b f.tb 0) s

/-- `vcmp.eq` under a lane mask (12 R341). -/
def execVcmpEqMsk (p : Pred) (f : Form.Mc) (m : Fin 8) (s : State) : Host.Outcome State Fault Refusal :=
  slot false p (cmpVec 4 fpCmpEq f.d f.a f.ta f.b f.tb m) s

/-- `vcmp.lt` (12 R341). -/
def execVcmpLt (p : Pred) (f : Form.Mc) (s : State) : Host.Outcome State Fault Refusal :=
  slot false p (cmpVec 4 fpCmpLt f.d f.a f.ta f.b f.tb 0) s

/-- `vcmp.lt` under a lane mask (12 R341). -/
def execVcmpLtMsk (p : Pred) (f : Form.Mc) (m : Fin 8) (s : State) : Host.Outcome State Fault Refusal :=
  slot false p (cmpVec 4 fpCmpLt f.d f.a f.ta f.b f.tb m) s

/-- `vcmp.le` (12 R341). -/
def execVcmpLe (p : Pred) (f : Form.Mc) (s : State) : Host.Outcome State Fault Refusal :=
  slot false p (cmpVec 4 fpCmpLe f.d f.a f.ta f.b f.tb 0) s

/-- `vcmp.le` under a lane mask (12 R341). -/
def execVcmpLeMsk (p : Pred) (f : Form.Mc) (m : Fin 8) (s : State) : Host.Outcome State Fault Refusal :=
  slot false p (cmpVec 4 fpCmpLe f.d f.a f.ta f.b f.tb m) s

/-- `vcmp.un` (12 R341). -/
def execVcmpUn (p : Pred) (f : Form.Mc) (s : State) : Host.Outcome State Fault Refusal :=
  slot false p (cmpVec 4 fpCmpUn f.d f.a f.ta f.b f.tb 0) s

/-- `vcmp.un` under a lane mask (12 R341). -/
def execVcmpUnMsk (p : Pred) (f : Form.Mc) (m : Fin 8) (s : State) : Host.Outcome State Fault Refusal :=
  slot false p (cmpVec 4 fpCmpUn f.d f.a f.ta f.b f.tb m) s

/-- `vsel` (12 R341). -/
def execVsel (p : Pred) (f : Form.R3K) (s : State) : Host.Outcome State Fault Refusal :=
  slot false p (fun _ c _ => vecReq c [srcV f.a f.ta, srcV f.b f.tb] f.d 0 1 (selLane c.regs.v[f.a] c.regs.v[f.b] c.regs.m[f.k])) s

/-- `vsel` under a lane mask (12 R341). -/
def execVselMsk (p : Pred) (f : Form.R3K) (m : Fin 8) (s : State) : Host.Outcome State Fault Refusal :=
  slot false p (fun _ c _ => vecReq c [srcV f.a f.ta, srcV f.b f.tb] f.d m 1 (selLane c.regs.v[f.a] c.regs.v[f.b] c.regs.m[f.k])) s

/-- `vclamp` (12 R341). -/
def execVclamp (p : Pred) (f : Form.V4) (s : State) : Host.Outcome State Fault Refusal :=
  slot false p (fun _ c _ => vecReq c [srcV f.a f.ta, srcV f.b f.tb, srcV f.c f.tc] f.d f.msk 4 (lane3 c.regs.v[f.a] c.regs.v[f.b] c.regs.v[f.c] fpClamp)) s

/-- `viadd` (12 R342). -/
def execViadd (p : Pred) (f : Form.R3Y) (s : State) : Host.Outcome State Fault Refusal :=
  slot false p (vec2 1 (pure2 (viAdd f.ty)) f.d f.a f.ta f.b f.tb 0) s

/-- `viadd` under a lane mask (12 R342). -/
def execViaddMsk (p : Pred) (f : Form.R3Y) (m : Fin 8) (s : State) : Host.Outcome State Fault Refusal :=
  slot false p (vec2 1 (pure2 (viAdd f.ty)) f.d f.a f.ta f.b f.tb m) s

/-- `visub` (12 R342). -/
def execVisub (p : Pred) (f : Form.R3Y) (s : State) : Host.Outcome State Fault Refusal :=
  slot false p (vec2 1 (pure2 (viSub f.ty)) f.d f.a f.ta f.b f.tb 0) s

/-- `visub` under a lane mask (12 R342). -/
def execVisubMsk (p : Pred) (f : Form.R3Y) (m : Fin 8) (s : State) : Host.Outcome State Fault Refusal :=
  slot false p (vec2 1 (pure2 (viSub f.ty)) f.d f.a f.ta f.b f.tb m) s

/-- `vimul` (12 R342). -/
def execVimul (p : Pred) (f : Form.R3Y) (s : State) : Host.Outcome State Fault Refusal :=
  slot false p (vec2 1 (pure2 (viMul f.ty)) f.d f.a f.ta f.b f.tb 0) s

/-- `vimul` under a lane mask (12 R342). -/
def execVimulMsk (p : Pred) (f : Form.R3Y) (m : Fin 8) (s : State) : Host.Outcome State Fault Refusal :=
  slot false p (vec2 1 (pure2 (viMul f.ty)) f.d f.a f.ta f.b f.tb m) s

/-- `vimin` (12 R342). -/
def execVimin (p : Pred) (f : Form.R3Y) (s : State) : Host.Outcome State Fault Refusal :=
  slot false p (vec2 1 (pure2 (viMin f.ty)) f.d f.a f.ta f.b f.tb 0) s

/-- `vimin` under a lane mask (12 R342). -/
def execViminMsk (p : Pred) (f : Form.R3Y) (m : Fin 8) (s : State) : Host.Outcome State Fault Refusal :=
  slot false p (vec2 1 (pure2 (viMin f.ty)) f.d f.a f.ta f.b f.tb m) s

/-- `vimax` (12 R342). -/
def execVimax (p : Pred) (f : Form.R3Y) (s : State) : Host.Outcome State Fault Refusal :=
  slot false p (vec2 1 (pure2 (viMax f.ty)) f.d f.a f.ta f.b f.tb 0) s

/-- `vimax` under a lane mask (12 R342). -/
def execVimaxMsk (p : Pred) (f : Form.R3Y) (m : Fin 8) (s : State) : Host.Outcome State Fault Refusal :=
  slot false p (vec2 1 (pure2 (viMax f.ty)) f.d f.a f.ta f.b f.tb m) s

/-- `vand` (12 R342). -/
def execVand (p : Pred) (f : Form.R3) (s : State) : Host.Outcome State Fault Refusal :=
  slot false p (vec2 1 (pure2 (· &&& ·)) f.d f.a f.ta f.b f.tb 0) s

/-- `vand` under a lane mask (12 R342). -/
def execVandMsk (p : Pred) (f : Form.R3) (m : Fin 8) (s : State) : Host.Outcome State Fault Refusal :=
  slot false p (vec2 1 (pure2 (· &&& ·)) f.d f.a f.ta f.b f.tb m) s

/-- `vor` (12 R342). -/
def execVor (p : Pred) (f : Form.R3) (s : State) : Host.Outcome State Fault Refusal :=
  slot false p (vec2 1 (pure2 (· ||| ·)) f.d f.a f.ta f.b f.tb 0) s

/-- `vor` under a lane mask (12 R342). -/
def execVorMsk (p : Pred) (f : Form.R3) (m : Fin 8) (s : State) : Host.Outcome State Fault Refusal :=
  slot false p (vec2 1 (pure2 (· ||| ·)) f.d f.a f.ta f.b f.tb m) s

/-- `vxor` (12 R342). -/
def execVxor (p : Pred) (f : Form.R3) (s : State) : Host.Outcome State Fault Refusal :=
  slot false p (vec2 1 (pure2 (· ^^^ ·)) f.d f.a f.ta f.b f.tb 0) s

/-- `vxor` under a lane mask (12 R342). -/
def execVxorMsk (p : Pred) (f : Form.R3) (m : Fin 8) (s : State) : Host.Outcome State Fault Refusal :=
  slot false p (vec2 1 (pure2 (· ^^^ ·)) f.d f.a f.ta f.b f.tb m) s

/-- `vandn` (12 R342). -/
def execVandn (p : Pred) (f : Form.R3) (s : State) : Host.Outcome State Fault Refusal :=
  slot false p (vec2 1 (pure2 (fun a b => a &&& ~~~b)) f.d f.a f.ta f.b f.tb 0) s

/-- `vandn` under a lane mask (12 R342). -/
def execVandnMsk (p : Pred) (f : Form.R3) (m : Fin 8) (s : State) : Host.Outcome State Fault Refusal :=
  slot false p (vec2 1 (pure2 (fun a b => a &&& ~~~b)) f.d f.a f.ta f.b f.tb m) s

/-- `vshl` (12 R342). -/
def execVshl (p : Pred) (f : Form.R3) (s : State) : Host.Outcome State Fault Refusal :=
  slot false p (vec2 1 (pure2 vShl) f.d f.a f.ta f.b f.tb 0) s

/-- `vshl` under a lane mask (12 R342). -/
def execVshlMsk (p : Pred) (f : Form.R3) (m : Fin 8) (s : State) : Host.Outcome State Fault Refusal :=
  slot false p (vec2 1 (pure2 vShl) f.d f.a f.ta f.b f.tb m) s

/-- `vshr` (12 R342). -/
def execVshr (p : Pred) (f : Form.R3) (s : State) : Host.Outcome State Fault Refusal :=
  slot false p (vec2 1 (pure2 vShr) f.d f.a f.ta f.b f.tb 0) s

/-- `vshr` under a lane mask (12 R342). -/
def execVshrMsk (p : Pred) (f : Form.R3) (m : Fin 8) (s : State) : Host.Outcome State Fault Refusal :=
  slot false p (vec2 1 (pure2 vShr) f.d f.a f.ta f.b f.tb m) s

/-- `vsra` (12 R342). -/
def execVsra (p : Pred) (f : Form.R3) (s : State) : Host.Outcome State Fault Refusal :=
  slot false p (vec2 1 (pure2 vSra) f.d f.a f.ta f.b f.tb 0) s

/-- `vsra` under a lane mask (12 R342). -/
def execVsraMsk (p : Pred) (f : Form.R3) (m : Fin 8) (s : State) : Host.Outcome State Fault Refusal :=
  slot false p (vec2 1 (pure2 vSra) f.d f.a f.ta f.b f.tb m) s

/-- `vicmp.eq` (12 R342). -/
def execVicmpEq (p : Pred) (f : Form.McY) (s : State) : Host.Outcome State Fault Refusal :=
  slot false p (cmpVec 1 (viEq f.ty) f.d f.a f.ta f.b f.tb 0) s

/-- `vicmp.eq` under a lane mask (12 R342). -/
def execVicmpEqMsk (p : Pred) (f : Form.McY) (m : Fin 8) (s : State) : Host.Outcome State Fault Refusal :=
  slot false p (cmpVec 1 (viEq f.ty) f.d f.a f.ta f.b f.tb m) s

/-- `vicmp.lt` (12 R342). -/
def execVicmpLt (p : Pred) (f : Form.McY) (s : State) : Host.Outcome State Fault Refusal :=
  slot false p (cmpVec 1 (viLt f.ty) f.d f.a f.ta f.b f.tb 0) s

/-- `vicmp.lt` under a lane mask (12 R342). -/
def execVicmpLtMsk (p : Pred) (f : Form.McY) (m : Fin 8) (s : State) : Host.Outcome State Fault Refusal :=
  slot false p (cmpVec 1 (viLt f.ty) f.d f.a f.ta f.b f.tb m) s

/-- `vicmp.le` (12 R342). -/
def execVicmpLe (p : Pred) (f : Form.McY) (s : State) : Host.Outcome State Fault Refusal :=
  slot false p (cmpVec 1 (viLe f.ty) f.d f.a f.ta f.b f.tb 0) s

/-- `vicmp.le` under a lane mask (12 R342). -/
def execVicmpLeMsk (p : Pred) (f : Form.McY) (m : Fin 8) (s : State) : Host.Outcome State Fault Refusal :=
  slot false p (cmpVec 1 (viLe f.ty) f.d f.a f.ta f.b f.tb m) s

/-- `vbcast` (12 R343). -/
def execVbcast (p : Pred) (f : Form.R2) (s : State) : Host.Outcome State Fault Refusal :=
  slot false p (fun _ c _ => vecReq c [srcS f.a f.ta] f.d 0 2 (fun _ => .of ((c.regs.gets f.a).setWidth 32, 0))) s

/-- `vbcast` under a lane mask (12 R343). -/
def execVbcastMsk (p : Pred) (f : Form.R2) (m : Fin 8) (s : State) : Host.Outcome State Fault Refusal :=
  slot false p (fun _ c _ => vecReq c [srcS f.a f.ta] f.d m 2 (fun _ => .of ((c.regs.gets f.a).setWidth 32, 0))) s

/-- `vext` (12 R343). -/
def execVext (p : Pred) (f : Form.R2K) (s : State) : Host.Outcome State Fault Refusal :=
  slot false p (fun _ c _ => scalarReq [srcV f.a f.ta] f.d 2 (c.regs.v[f.a].elem[f.k].setWidth 64)) s

/-- `vins` (12 R343). -/
def execVins (p : Pred) (f : Form.R2K) (s : State) : Host.Outcome State Fault Refusal :=
  slot false p (fun _ c _ => { srcs := [srcS f.a f.ta], dests := [.v f.d], busy := false, result := .go [.result (.v f.d (BitVec.ofNat 16 (2 ^ f.k.val)) (tokenOf fun _ => .of ((c.regs.gets f.a).setWidth 32, 0))) 2] }) s

/-- `vperm` (12 R343). -/
def execVperm (p : Pred) (f : Form.R3) (s : State) : Host.Outcome State Fault Refusal :=
  slot false p (fun _ c _ => vecReq c [srcV f.a f.ta, srcV f.b f.tb] f.d 0 2 (permLane c.regs.v[f.a] c.regs.v[f.b])) s

/-- `vperm` under a lane mask (12 R343). -/
def execVpermMsk (p : Pred) (f : Form.R3) (m : Fin 8) (s : State) : Host.Outcome State Fault Refusal :=
  slot false p (fun _ c _ => vecReq c [srcV f.a f.ta, srcV f.b f.tb] f.d m 2 (permLane c.regs.v[f.a] c.regs.v[f.b])) s

/-- `vshift` (12 R343). -/
def execVshift (p : Pred) (f : Form.R3) (s : State) : Host.Outcome State Fault Refusal :=
  slot false p (fun _ c _ => vecReq c [srcV f.a f.ta, srcS f.b f.tb] f.d 0 2 (shiftLane c.regs.v[f.a] (c.regs.gets f.b))) s

/-- `vshift` under a lane mask (12 R343). -/
def execVshiftMsk (p : Pred) (f : Form.R3) (m : Fin 8) (s : State) : Host.Outcome State Fault Refusal :=
  slot false p (fun _ c _ => vecReq c [srcV f.a f.ta, srcS f.b f.tb] f.d m 2 (shiftLane c.regs.v[f.a] (c.regs.gets f.b))) s

/-- `vrot` (12 R343). -/
def execVrot (p : Pred) (f : Form.R3) (s : State) : Host.Outcome State Fault Refusal :=
  slot false p (fun _ c _ => vecReq c [srcV f.a f.ta, srcS f.b f.tb] f.d 0 2 (rotLane c.regs.v[f.a] (c.regs.gets f.b))) s

/-- `vrot` under a lane mask (12 R343). -/
def execVrotMsk (p : Pred) (f : Form.R3) (m : Fin 8) (s : State) : Host.Outcome State Fault Refusal :=
  slot false p (fun _ c _ => vecReq c [srcV f.a f.ta, srcS f.b f.tb] f.d m 2 (rotLane c.regs.v[f.a] (c.regs.gets f.b))) s

/-- `vsum` (12 R344). -/
def execVsum (p : Pred) (f : Form.R2R) (s : State) : Host.Outcome State Fault Refusal :=
  slot false p (reduceReq (fun c => fpAdd (arithMode f.rms c.fpcr)) f.d f.a f.ta 0) s

/-- `vsum` under a lane mask (12 R344). -/
def execVsumMsk (p : Pred) (f : Form.R2R) (m : Fin 8) (s : State) : Host.Outcome State Fault Refusal :=
  slot false p (reduceReq (fun c => fpAdd (arithMode f.rms c.fpcr)) f.d f.a f.ta m) s

/-- `vmaxr` (12 R344). -/
def execVmaxr (p : Pred) (f : Form.R2) (s : State) : Host.Outcome State Fault Refusal :=
  slot false p (reduceReq (fun _ => fpMax) f.d f.a f.ta 0) s

/-- `vmaxr` under a lane mask (12 R344). -/
def execVmaxrMsk (p : Pred) (f : Form.R2) (m : Fin 8) (s : State) : Host.Outcome State Fault Refusal :=
  slot false p (reduceReq (fun _ => fpMax) f.d f.a f.ta m) s

/-- `vminr` (12 R344). -/
def execVminr (p : Pred) (f : Form.R2) (s : State) : Host.Outcome State Fault Refusal :=
  slot false p (reduceReq (fun _ => fpMin) f.d f.a f.ta 0) s

/-- `vminr` under a lane mask (12 R344). -/
def execVminrMsk (p : Pred) (f : Form.R2) (m : Fin 8) (s : State) : Host.Outcome State Fault Refusal :=
  slot false p (reduceReq (fun _ => fpMin) f.d f.a f.ta m) s

/-- `mand` (12 R345). -/
def execMand (p : Pred) (f : Form.M3) (s : State) : Host.Outcome State Fault Refusal :=
  slot false p (fun _ c _ => maskReq [] f.d (c.regs.m[f.a] &&& c.regs.m[f.b])) s

/-- `mor` (12 R345). -/
def execMor (p : Pred) (f : Form.M3) (s : State) : Host.Outcome State Fault Refusal :=
  slot false p (fun _ c _ => maskReq [] f.d (c.regs.m[f.a] ||| c.regs.m[f.b])) s

/-- `mxor` (12 R345). -/
def execMxor (p : Pred) (f : Form.M3) (s : State) : Host.Outcome State Fault Refusal :=
  slot false p (fun _ c _ => maskReq [] f.d (c.regs.m[f.a] ^^^ c.regs.m[f.b])) s

/-- `mnot` (12 R345). -/
def execMnot (p : Pred) (f : Form.M2) (s : State) : Host.Outcome State Fault Refusal :=
  slot false p (fun _ c _ => maskReq [] f.d (~~~c.regs.m[f.a])) s

/-- `mpop` (12 R345). -/
def execMpop (p : Pred) (f : Form.Sm) (s : State) : Host.Outcome State Fault Refusal :=
  slot false p (fun _ c _ => scalarReq [] f.d 1 (BitVec.ofNat 64 ((laneList.filter fun l => c.regs.m[f.a].getLsbD l.val).length))) s

/-- `mfirst` (12 R345). -/
def execMfirst (p : Pred) (f : Form.Sm) (s : State) : Host.Outcome State Fault Refusal :=
  slot false p (fun _ c _ => scalarReq [] f.d 1 (BitVec.ofNat 64 (firstBit c.regs.m[f.a] laneList))) s

/-- `vvalid` (12 R345). -/
def execVvalid (p : Pred) (f : Form.Mv) (s : State) : Host.Outcome State Fault Refusal :=
  slot false p (fun _ c _ => maskReq [srcV f.a f.ta] f.d c.regs.v[f.a].valid) s

/-- `vmov` (12 R346). -/
def execVmov (p : Pred) (f : Form.R2) (s : State) : Host.Outcome State Fault Refusal :=
  slot false p (fun _ c _ => vecReq c [srcV f.a f.ta] f.d 0 1 (laneOf c.regs.v[f.a])) s

/-- `vmov` under a lane mask (12 R346). -/
def execVmovMsk (p : Pred) (f : Form.R2) (m : Fin 8) (s : State) : Host.Outcome State Fault Refusal :=
  slot false p (fun _ c _ => vecReq c [srcV f.a f.ta] f.d m 1 (laneOf c.regs.v[f.a])) s

/-- `vmov.and` (12 R346). -/
def execVmovAnd (p : Pred) (f : Form.VmmA) (s : State) : Host.Outcome State Fault Refusal :=
  slot false p (fun _ c _ => vecReq c [srcV f.a f.ta] f.d 0 1 (fun l => validLane c.regs.v[f.a] (laneOk c.regs.v[f.a] l && c.regs.m[f.mb].getLsbD l.val) l)) s

/-- `vmov.and` under a lane mask (12 R346). -/
def execVmovAndMsk (p : Pred) (f : Form.VmmA) (m : Fin 8) (s : State) : Host.Outcome State Fault Refusal :=
  slot false p (fun _ c _ => vecReq c [srcV f.a f.ta] f.d m 1 (fun l => validLane c.regs.v[f.a] (laneOk c.regs.v[f.a] l && c.regs.m[f.mb].getLsbD l.val) l)) s

/-- `vmov.set` (12 R346). -/
def execVmovSet (p : Pred) (f : Form.VmmS) (s : State) : Host.Outcome State Fault Refusal :=
  slot false p (fun _ c _ => vecReq c [srcV f.a f.ta] f.d 0 1 (fun l => validLane c.regs.v[f.a] (c.regs.m[f.mb].getLsbD l.val) l)) s

/-- `vmov.set` under a lane mask (12 R346). -/
def execVmovSetMsk (p : Pred) (f : Form.VmmS) (m : Fin 8) (s : State) : Host.Outcome State Fault Refusal :=
  slot false p (fun _ c _ => vecReq c [srcV f.a f.ta] f.d m 1 (fun l => validLane c.regs.v[f.a] (c.regs.m[f.mb].getLsbD l.val) l)) s

end Sys2Proof.Machine
end

