-- ==== Sys2Proof/Machine/Sfu.lean ====
section
/-! DEFINITION. Sys2Proof/Machine/Sfu.lean: the VB-only units: special functions, the random generator, the converter (12 R347 to R352). A function with
irrational values is rounded from an interval that encloses it: where both ends round alike, so does the function (log 21). -/

namespace Sys2Proof.Machine

/-! ## Enclosures in units of 2^-192 (log 21) -/

/-- Fraction bits of the enclosures. -/
def encBits : Nat := 192
def encOne : Nat := 2 ^ encBits

/-- ln 2, rounded down. -/
def ln2Lo : Nat := 4350955369971217654477563090224794165364344896676135745069
/-- ln 2, rounded up. -/
def ln2Hi : Nat := ln2Lo + 1

/-- A product in these units, rounded down or up. -/
def encMul (a b : Nat) : Nat := a * b / encOne
def encMulUp (a b : Nat) : Nat := a * b / encOne + 1

/-- The sum of a series whose next term is the last times r over its number: e^r from below. -/
def expLoGo (r : Nat) : Nat → Nat → Nat → Nat → Nat
  | 0, _, _, acc => acc
  | n + 1, i, term, acc => expLoGo r n (i + 1) (encMul term r / (i + 1)) (acc + term)

/-- e^r from above; the terms cut off add less than 2 units. -/
def expHiGo (r : Nat) : Nat → Nat → Nat → Nat → Nat
  | 0, _, _, acc => acc + 2
  | n + 1, i, term, acc => expHiGo r n (i + 1) (encMulUp term r / (i + 1) + 1) (acc + term)

/-- e^r for r from 0 to 1, between two bounds. -/
def expLo (r : Nat) : Nat := expLoGo r 60 0 encOne 0
def expHi (r : Nat) : Nat := expHiGo r 60 0 encOne 0

/-- e^-t: halvings, then bounds of a number from 1/2 to 1. -/
def expNeg (t : Nat) : Nat × Nat × Nat :=
  let n := t / ln2Hi
  let a := expLo (t - n * ln2Hi)
  let b := expHi (t - n * ln2Lo)
  (n, encOne * encOne / b, encOne * encOne / a + 1)

/-- The FP32 value of a number strictly between lo 2^e and hi 2^e, when both ends round alike. -/
def roundBetween (mode : Rounding) (neg : Bool) (lo hi : Nat) (e : Int) : Option (Lane × FpFlags) :=
  let a := toF32 mode (.fin neg (2 * lo + 1) (e - 1))
  let b := toF32 mode (.fin neg (2 * hi - 1) (e - 1))
  if a = b then some a else none

/-- The rounded value, or a free value of function k at x where the enclosure is too wide (log 21). -/
def roundOr (k : Nat) (x : Lane) (mode : Rounding) (neg : Bool) (lo hi : Nat) (e : Int) : Lane × FpFlags :=
  match roundBetween mode neg lo hi e with
  | some r => r
  | none => (Config.freeSpecial k x, FpFlags.nx)

/-- A magnitude m 2^e in units of 2^-192, exact for e at least -192. -/
def encOf (m : Nat) (e : Int) : Nat := m * 2 ^ (e + 192).toNat

/-- m 2^e is below 2^k. -/
def below (m : Nat) (e : Int) (k : Int) : Bool := !leDyadic 1 k m e

/-! ## The functions (12 Table 12-2) -/

/-- 1 / x; below 2^-126 the result is a zero with UF and NX. -/
def sfRcp (mode : Rounding) (x : Lane) : Lane × FpFlags :=
  match f32 x with
  | .nan s => toF32 mode (.nan s)
  | .inf n => toF32 mode (.fin n 0 0)
  | .fin n m e =>
    if m = 0 then ((toF32 mode (.inf n)).1, FpFlags.dz)
    else if !leDyadic m e 1 126 then ((toF32 mode (.fin n 0 0)).1, FpFlags.uf ||| FpFlags.nx)
    else toF32 mode (.fin n (stickyDiv 1 m 64) (-e - 65))

/-- 1 / √x. -/
def sfRsqrt (mode : Rounding) (x : Lane) : Lane × FpFlags :=
  match f32 x with
  | .nan s => toF32 mode (.nan s)
  | .inf n => if n then toF32 mode (.nan true) else toF32 mode (.fin false 0 0)
  | .fin n m e =>
    if m = 0 then ((toF32 mode (.inf n)).1, FpFlags.dz)
    else if n then toF32 mode (.nan true)
    else toF32 mode (.fin false (stickyRsqrt m e).1 (stickyRsqrt m e).2)

/-- √x. -/
def sfSqrt (mode : Rounding) (x : Lane) : Lane × FpFlags :=
  match f32 x with
  | .nan s => toF32 mode (.nan s)
  | .inf n => if n then toF32 mode (.nan true) else toF32 mode (.inf false)
  | .fin n m e =>
    if m = 0 then toF32 mode (.fin n 0 0)
    else if n then toF32 mode (.nan true)
    else toF32 mode (.fin false (stickySqrt m e).1 (stickySqrt m e).2)

/-- 2^f for a fraction f in units of 2^-192, between two bounds. -/
def exp2Frac (f : Nat) : Nat × Nat := (expLo (encMul f ln2Lo), expHi (encMulUp f ln2Hi))

/-- 2^x. -/
def sfExp2 (mode : Rounding) (x : Lane) : Lane × FpFlags :=
  match f32 x with
  | .nan s => toF32 mode (.nan s)
  | .inf n => if n then toF32 mode (.fin false 0 0) else toF32 mode (.inf false)
  | .fin n m e =>
    if m = 0 then toF32 mode (.fin false 1 0)
    else if below m e (-30) then toF32 mode (.fin false (if n then 2 ^ 60 - 1 else 2 ^ 60 + 1) (-60))
    else if !below m e 8 then (if n then toF32 mode (.fin false 1 (-400)) else toF32 mode (.fin false 1 400))
    else
      let t := encOf m e
      let k : Int := if n then -(((t + encOne - 1) / encOne : Nat) : Int) else ((t / encOne : Nat) : Int)
      let f := if n then (t + encOne - 1) / encOne * encOne - t else t % encOne
      if f = 0 then toF32 mode (.fin false 1 k)
      else roundOr 3 x mode false (exp2Frac f).1 (exp2Frac f).2 (k - 192)

/-- atanh's series s + s^3/3 + ...: n terms from odd number i, term the power of s. -/
def atanhLoGo (s2 : Nat) : Nat → Nat → Nat → Nat → Nat
  | 0, _, _, acc => acc
  | n + 1, i, p, acc => atanhLoGo s2 n (i + 2) (encMul p s2) (acc + p / i)
def atanhHiGo (s2 : Nat) : Nat → Nat → Nat → Nat → Nat
  | 0, _, _, acc => acc + 2
  | n + 1, i, p, acc => atanhHiGo s2 n (i + 2) (encMulUp p s2) (acc + p / i + 1)

/-- Bounds of log2 of a ratio num / den between 2/3 and 3/2, its magnitude, den not num. -/
def log2Bounds (num den : Nat) : Nat × Nat :=
  let d := if num < den then den - num else num - den
  let lo := d * encOne / (num + den)
  let hi := lo + 1
  let a := atanhLoGo (encMul lo lo) 50 1 lo 0
  let b := atanhHiGo (encMulUp hi hi) 50 1 hi 0
  (2 * a * encOne / ln2Hi, 2 * b * encOne / ln2Lo + 1)

/-- log2 x. -/
def sfLog2 (mode : Rounding) (x : Lane) : Lane × FpFlags :=
  match f32 x with
  | .nan s => toF32 mode (.nan s)
  | .inf n => if n then toF32 mode (.nan true) else toF32 mode (.inf false)
  | .fin n m e =>
    if m = 0 then ((toF32 mode (.inf true)).1, FpFlags.dz)
    else if n then toF32 mode (.nan true)
    else
      let h := Nat.log2 m
      let k : Int := e + h
      if m = 2 ^ h then toF32 mode (intVal k)
      else
        -- x = 2^j num / den with num / den from 3/4 to 3/2
        let up := decide (3 * 2 ^ h ≤ 2 * m)
        let j : Int := if up then k + 1 else k
        let b := log2Bounds m (if up then 2 ^ (h + 1) else 2 ^ h)
        let one : Int := (encOne : Nat)
        let lo : Int := if up then j * one - b.2 else j * one + b.1
        let hi : Int := if up then j * one - b.1 else j * one + b.2
        if 0 ≤ lo then roundOr 4 x mode false lo.toNat hi.toNat (-192) else roundOr 4 x mode true (-hi).toNat (-lo).toNat (-192)

/-- tanh x. -/
def sfTanh (mode : Rounding) (x : Lane) : Lane × FpFlags :=
  match f32 x with
  | .nan s => toF32 mode (.nan s)
  | .inf n => toF32 mode (.fin n 1 0)
  | .fin n m e =>
    if m = 0 then toF32 mode (.fin n 0 0)
    else if below m e (-13) then toF32 mode (.fin n (m * 2 ^ 60 - 1) (e - 60))
    else if !below m e 6 then toF32 mode (.fin n (2 ^ 90 - 1) (-90))
    else
      let q := expNeg (2 * encOf m e)
      let lo := q.2.1 / 2 ^ q.1
      let hi := q.2.2 / 2 ^ q.1 + 1
      roundOr 5 x mode n ((encOne - hi) * encOne / (encOne + hi)) ((encOne - lo) * encOne / (encOne + lo) + 1) (-192)

/-- 1 / (1 + e^-x). -/
def sfSigm (mode : Rounding) (x : Lane) : Lane × FpFlags :=
  match f32 x with
  | .nan s => toF32 mode (.nan s)
  | .inf n => if n then toF32 mode (.fin false 0 0) else toF32 mode (.fin false 1 0)
  | .fin n m e =>
    if m = 0 then toF32 mode (.fin false 1 (-1))
    else if below m e (-26) then toF32 mode (.fin false (if n then 2 ^ 60 - 1 else 2 ^ 60 + 1) (-61))
    else if !below m e 8 then (if n then toF32 mode (.fin false 1 (-300)) else toF32 mode (.fin false (2 ^ 90 - 1) (-90)))
    else
      let q := expNeg (encOf m e)
      let lo := q.2.1 / 2 ^ q.1
      let hi := q.2.2 / 2 ^ q.1 + 1
      if n then
        roundOr 6 x mode false (q.2.1 * encOne / (encOne + hi)) (q.2.2 * encOne / (encOne + lo) + 1) (-192 - (q.1 : Int))
      else roundOr 6 x mode false (encOne * encOne / (encOne + hi)) (encOne * encOne / (encOne + lo) + 1) (-192)

/-- A special function as a slot (12 R347). -/
def specialReq (g : Rounding → Lane → Lane × FpFlags) (f : Form.R2R) (msk : Fin 8) : Sem := fun env c =>
  vec1 12 (g (arithMode f.rms c.fpcr)) f.d f.a f.ta msk env c

/-! ## The random generator (12 R348) -/

/-- The rounds: r counts up, left down. -/
def randGo (key : Vector Lane 4) : Nat → Nat → Lane → Lane → Lane
  | 0, _, x, y => x ^^^ y
  | n + 1, r, x, y =>
    let k : Lane := key[(⟨r % 4, by omega⟩ : Fin 4)] + BitVec.ofNat 32 (r * 0x9E3779B9)
    let x' := (x.rotateRight 8 + y) ^^^ k
    randGo key n (r + 1) x' (y.rotateLeft 3 ^^^ x')

/-- The random word of an index (12 R348). -/
def randWord (key : Vector Lane 4) (idx : Word) : Lane := randGo key 8 0 (idx.setWidth 32) ((idx >>> (32 : Nat)).setWidth 32)

/-- A random token. -/
def randReq (f : Form.R3) (msk : Fin 8) : Sem := fun _ c _ =>
  vecReq c [srcV f.a f.ta, srcS f.b f.tb] f.d msk 8
    (lane1 c.regs.v[f.a] fun x => (randWord c.keys (c.regs.gets f.b + x.setWidth 64), 0))

/-! ## The converter (12 R349 to R352) -/

/-- A tapered format (09 R266). -/
def isTapered (f : Fmt) : Bool := f == .t8 || f == .t6

/-- A tapered format on a module without the decoders traps (00 R5). -/
def taperTrap (env : Env) (slot : Fin 8) (a b : Fmt) : Option TrapInfo :=
  trapIf ((isTapered a || isTapered b) && bits env.caps.toNat 1 1 == 0) (trapOf trapUnitAbsent slot)

/-- A conversion of one element's code: the new code and the flags (12 R350). -/
def convert (sf df : Fmt) (mode : Rounding) (x : Nat) : Nat × FpFlags := elemEncode df mode (elemDecode sf x)

/-- The sources of a conversion: V only while RSTO is in effect (12 R349). -/
def convSrcs (c : Core) (a : Fin 32) (ta : Bool) (v : Fin 32) (tv : Bool) (rms : Rms) : List Src :=
  if stoInEffect rms c.fpcr then [srcV a ta, srcV v tv] else [srcV a ta]

/-- `vcvt` of a lane. -/
def cvtLane (c : Core) (f : Form.Vcv) (l : Fin 16) : LaneOut :=
  lane1 c.regs.v[f.a] (fun x =>
    let r := convert f.sfmt f.dfmt (convMode f.rms c.fpcr c.regs.v[f.v].elem[l]) x.toNat
    (elemLane f.dfmt r.1, r.2)) l

/-- The element codes `vpack` makes, with their flags. -/
def packElem (c : Core) (f : Form.Vpk) (l : Fin 16) : Nat × FpFlags :=
  let x := c.regs.v[f.a]
  if laneOk x l then convert f.sfmt f.dfmt (convMode f.rms c.fpcr c.regs.v[f.v].elem[l]) x.elem[l].toNat else (0, 0)

/-- The 512 bits of a register. -/
def tokenWord (t : Token) : Nat := (List.range 16).foldl (fun x l => x + t.elem[laneNum l].toNat * 2 ^ (32 * l)) 0

/-- `vunpack` of an element. -/
def unpackLane (c : Core) (f : Form.Vpk) (l : Fin 16) : LaneOut :=
  let x := c.regs.v[f.a]
  let w := f.sfmt.width
  if laneOk x (laneNum (w * l.val / 32)) then
    let r := convert f.sfmt f.dfmt (convMode f.rms c.fpcr c.regs.v[f.v].elem[l]) (packedElem f.sfmt (tokenWord x) l.val)
    .of (elemLane f.dfmt r.1, r.2)
  else .invalid

/-- `vscale` of a lane's element under a scale byte (12 R352). -/
def scaleLane (mode : Rounding) (x s : Lane) : Lane × FpFlags := toF32 mode ((f32 x).scaled (s.toNat % 256))

/-! ## The instructions -/


/-- `vrcp` (12 R347). -/
def execVrcp (p : Pred) (f : Form.R2R) (s : State) : Host.Outcome State Fault Refusal :=
  slot false p (specialReq sfRcp f 0) s

/-- `vrcp` under a lane mask (12 R347). -/
def execVrcpMsk (p : Pred) (f : Form.R2R) (m : Fin 8) (s : State) : Host.Outcome State Fault Refusal :=
  slot false p (specialReq sfRcp f m) s

/-- `vrsqrt` (12 R347). -/
def execVrsqrt (p : Pred) (f : Form.R2R) (s : State) : Host.Outcome State Fault Refusal :=
  slot false p (specialReq sfRsqrt f 0) s

/-- `vrsqrt` under a lane mask (12 R347). -/
def execVrsqrtMsk (p : Pred) (f : Form.R2R) (m : Fin 8) (s : State) : Host.Outcome State Fault Refusal :=
  slot false p (specialReq sfRsqrt f m) s

/-- `vsqrt` (12 R347). -/
def execVsqrt (p : Pred) (f : Form.R2R) (s : State) : Host.Outcome State Fault Refusal :=
  slot false p (specialReq sfSqrt f 0) s

/-- `vsqrt` under a lane mask (12 R347). -/
def execVsqrtMsk (p : Pred) (f : Form.R2R) (m : Fin 8) (s : State) : Host.Outcome State Fault Refusal :=
  slot false p (specialReq sfSqrt f m) s

/-- `vexp2` (12 R347). -/
def execVexp2 (p : Pred) (f : Form.R2R) (s : State) : Host.Outcome State Fault Refusal :=
  slot false p (specialReq sfExp2 f 0) s

/-- `vexp2` under a lane mask (12 R347). -/
def execVexp2Msk (p : Pred) (f : Form.R2R) (m : Fin 8) (s : State) : Host.Outcome State Fault Refusal :=
  slot false p (specialReq sfExp2 f m) s

/-- `vlog2` (12 R347). -/
def execVlog2 (p : Pred) (f : Form.R2R) (s : State) : Host.Outcome State Fault Refusal :=
  slot false p (specialReq sfLog2 f 0) s

/-- `vlog2` under a lane mask (12 R347). -/
def execVlog2Msk (p : Pred) (f : Form.R2R) (m : Fin 8) (s : State) : Host.Outcome State Fault Refusal :=
  slot false p (specialReq sfLog2 f m) s

/-- `vtanh` (12 R347). -/
def execVtanh (p : Pred) (f : Form.R2R) (s : State) : Host.Outcome State Fault Refusal :=
  slot false p (specialReq sfTanh f 0) s

/-- `vtanh` under a lane mask (12 R347). -/
def execVtanhMsk (p : Pred) (f : Form.R2R) (m : Fin 8) (s : State) : Host.Outcome State Fault Refusal :=
  slot false p (specialReq sfTanh f m) s

/-- `vsigm` (12 R347). -/
def execVsigm (p : Pred) (f : Form.R2R) (s : State) : Host.Outcome State Fault Refusal :=
  slot false p (specialReq sfSigm f 0) s

/-- `vsigm` under a lane mask (12 R347). -/
def execVsigmMsk (p : Pred) (f : Form.R2R) (m : Fin 8) (s : State) : Host.Outcome State Fault Refusal :=
  slot false p (specialReq sfSigm f m) s

/-- `vrand` (12 R348). -/
def execVrand (p : Pred) (f : Form.R3) (s : State) : Host.Outcome State Fault Refusal :=
  slot false p (randReq f 0) s

/-- `vrand` under a lane mask (12 R348). -/
def execVrandMsk (p : Pred) (f : Form.R3) (m : Fin 8) (s : State) : Host.Outcome State Fault Refusal :=
  slot false p (randReq f m) s

/-- `vcvt` (12 R350). -/
def execVcvt (p : Pred) (f : Form.Vcv) (s : State) : Host.Outcome State Fault Refusal :=
  slot false p (fun env c pos =>
    { srcs := convSrcs c f.a f.ta f.v f.tv f.rms, dests := [.v f.d], busy := false
      result := checked (taperTrap env pos f.sfmt f.dfmt) (.go (vectorEffects f.d (c.regs.selected f.msk) 3 (cvtLane c f))) }) s

/-- `vpack` (12 R351): the lanes of the packed token are written, valid. -/
def execVpack (p : Pred) (f : Form.Vpk) (s : State) : Host.Outcome State Fault Refusal :=
  slot false p (fun env c pos =>
    let x := packToken f.dfmt fun l => (packElem c f l).1
    let t : Token := { elem := lanes fun l => BitVec.ofNat 32 (x / 2 ^ (32 * l.val)), valid := BitVec.allOnes 16 }
    { srcs := convSrcs c f.a f.ta f.v f.tv f.rms, dests := [.v f.d], busy := false
      result := checked (taperTrap env pos f.sfmt f.dfmt)
        (.go [.result (.v f.d (BitVec.ofNat 16 (2 ^ (f.dfmt.width / 2) - 1)) t) 3,
              .flags (laneFlags (BitVec.allOnes 16) fun l => { x := 0, valid := true, flags := (packElem c f l).2 })]) }) s

/-- `vunpack` (12 R351). -/
def execVunpack (p : Pred) (f : Form.Vpk) (s : State) : Host.Outcome State Fault Refusal :=
  slot false p (fun env c pos =>
    { srcs := convSrcs c f.a f.ta f.v f.tv f.rms, dests := [.v f.d], busy := false
      result := checked (taperTrap env pos f.sfmt f.dfmt) (.go (vectorEffects f.d (BitVec.allOnes 16) 3 (unpackLane c f))) }) s

/-- `vscale` (12 R352). -/
def execVscale (p : Pred) (f : Form.R3R) (s : State) : Host.Outcome State Fault Refusal :=
  slot false p (fun _ c _ => vecReq c [srcV f.a f.ta, srcV f.b f.tb] f.d 0 3 (lane2 c.regs.v[f.a] c.regs.v[f.b] (scaleLane (arithMode f.rms c.fpcr)))) s

/-- `vscale` under a lane mask (12 R352). -/
def execVscaleMsk (p : Pred) (f : Form.R3R) (m : Fin 8) (s : State) : Host.Outcome State Fault Refusal :=
  slot false p (fun _ c _ => vecReq c [srcV f.a f.ta, srcV f.b f.tb] f.d m 3 (lane2 c.regs.v[f.a] c.regs.v[f.b] (scaleLane (arithMode f.rms c.fpcr)))) s

end Sys2Proof.Machine
end

