-- ==== Sys2Proof/Machine/Moments.lean ====
section
/-! DEFINITION. Sys2Proof/Machine/Moments.lean: the arithmetic of moment triples: updates, merges and drains (09 R274 to R277). -/

namespace Sys2Proof.Machine

/-- A lane is empty: n is +0 or -0 (09 R274). -/
def Triple.isEmpty (t : Sys2Proof.Triple) : Bool := t.n == 0 || t.n == 0x80000000

/-- 1.0 in FP32. -/
def one32 : Lane := 0x3F800000

/-- A weighted update of a lane (09 R275). -/
def momentUpdate (t : Sys2Proof.Triple) (x w : Lane) : Sys2Proof.Triple × FpFlags :=
  match f32 w with
  | .nan _ => ({ n := nan32, mean := nan32, m2 := nan32 }, FpFlags.nv)
  | .inf _ => ({ n := nan32, mean := nan32, m2 := nan32 }, FpFlags.nv)
  | .fin neg m _ =>
    if m = 0 then (t, 0)
    else if neg then ({ n := nan32, mean := nan32, m2 := nan32 }, FpFlags.nv)
    else
      let n := fpAdd .rne t.n w
      let d := fpSub .rne x t.mean
      let q := fpDiv .rne w n.1
      let mu := fpFma .rne false false d.1 q.1 t.mean
      let wd := fpMul .rne w d.1
      let e := fpSub .rne x mu.1
      let m2 := fpFma .rne false false wd.1 e.1 t.m2
      ({ n := n.1, mean := mu.1, m2 := m2.1 }, n.2 ||| d.2 ||| q.2 ||| mu.2 ||| wd.2 ||| e.2 ||| m2.2)

/-- A merge of an earlier triple a and a later b (09 R276). -/
def momentMerge (a b : Sys2Proof.Triple) : Sys2Proof.Triple × FpFlags :=
  if Triple.isEmpty a then (b, 0)
  else if Triple.isEmpty b then (a, 0)
  else
    let n := fpAdd .rne a.n b.n
    let d := fpSub .rne b.mean a.mean
    let q := fpDiv .rne b.n n.1
    let mu := fpFma .rne false false d.1 q.1 a.mean
    let t1 := fpAdd .rne a.m2 b.m2
    let d2 := fpMul .rne d.1 d.1
    let p := fpMul .rne a.n b.n
    let k := fpDiv .rne p.1 n.1
    let y := fpMul .rne d2.1 k.1
    let m2 := fpAdd .rne t1.1 y.1
    ({ n := n.1, mean := mu.1, m2 := m2.1 },
     n.2 ||| d.2 ||| q.2 ||| mu.2 ||| t1.2 ||| d2.2 ||| p.2 ||| k.2 ||| y.2 ||| m2.2)

/-- A drain of a lane that is not empty: kind 0 mean, 1 population variance, 2 sample variance, 3 rstd (09 Table 9-6). -/
def drainLane (kind : Nat) (t : Sys2Proof.Triple) (eps : Lane) : Lane × FpFlags :=
  match kind with
  | 0 => (t.mean, 0)
  | 1 => fpDiv .rne t.m2 t.n
  | 2 =>
    let d := fpSub .rne t.n one32
    let r := fpDiv .rne t.m2 d.1
    (r.1, d.2 ||| r.2)
  | _ =>
    let p := fpDiv .rne t.m2 t.n
    let v := fpAdd .rne p.1 eps
    let r := sfRsqrt .rne v.1
    (r.1, p.2 ||| v.2 ||| r.2)

/-- A normalised element (09 Table 9-6). -/
def normLane (t : Sys2Proof.Triple) (eps x g b : Lane) : Lane × FpFlags :=
  let r := drainLane 3 t eps
  let d := fpSub .rne x t.mean
  let m := fpMul .rne d.1 r.1
  let y := fpFma .rne false false m.1 g b
  (y.1, r.2 ||| d.2 ||| m.2 ||| y.2)

end Sys2Proof.Machine
end

