-- ==== Sys2Proof/Machine/Scan.lean ====
section
/-! DEFINITION. Sys2Proof/Machine/Scan.lean: scans, the user operator and the carry line: the forms at issue, the operators, the exchange of a herd scan
and what the queued operations do (13 R367 to R372, 09 R278, R279). -/

namespace Sys2Proof.Machine

/-! ## Operators (09 R279, 13 R370) -/

/-- The opcodes a micro-operation may name, and how many sources each uses (13 R370). -/
def microArity (op : Nat) : Option Nat :=
  if op = 4 ∨ op = 5 ∨ op = 6 then some 3
  else if op = 1 ∨ op = 2 ∨ op = 3 ∨ op = 7 ∨ op = 8 then some 2
  else if op = 9 ∨ op = 10 ∨ op = 0x40 ∨ op = 0x43 ∨ op = 0x44 then some 1
  else none

/-- One micro-operation on its operands, each as its vector instruction rounding RNE. -/
def microApply (op : Nat) (a b c : Lane) : Lane × FpFlags :=
  match op with
  | 1 => fpAdd .rne a b
  | 2 => fpSub .rne a b
  | 3 => fpMul .rne a b
  | 4 => fpFma .rne false false a b c
  | 5 => fpFma .rne false true a b c
  | 6 => fpFma .rne true false a b c
  | 7 => fpMin a b
  | 8 => fpMax a b
  | 9 => fpAbs a
  | 10 => fpNeg a
  | 0x40 => sfRcp .rne a
  | 0x43 => sfExp2 .rne a
  | _ => sfLog2 .rne a

/-- A lane of `scdef`'s vector as a micro-operation; none where it is refused (13 R370). -/
def microOf (x : Lane) : Option MicroOp :=
  let n := x.toNat
  let m : MicroOp := { op := bits n 25 7, dst := bits n 21 4, sa := bits n 17 4, sb := bits n 13 4, sc := bits n 9 4 }
  match microArity m.op with
  | none => none
  | some k =>
    if m.dst < 4 ∨ 9 < m.dst ∨ 12 ≤ m.sa ∨ 12 ≤ m.sb ∨ 12 ≤ m.sc ∨ bits n 0 9 ≠ 0 ∨ (k < 2 ∧ m.sb ≠ 0) ∨ (k < 3 ∧ m.sc ≠ 0) then none
    else some m

/-- The first n lanes as micro-operations; none where one is refused or invalid. -/
def microList (t : Token) : Nat → Option (List MicroOp)
  | 0 => some []
  | n + 1 =>
    match microList t n with
    | none => none
    | some l => if t.valid.getLsbD n then (microOf (t.elem[n % 16]'(by omega))).map fun m => l ++ [m] else none

/-- The user operator: e0, e1, l0, l1, t0 to t3, o0, o1, +0 and 1 by selector (13 R370). -/
def userGo : List MicroOp → List Lane → FpFlags → List Lane × FpFlags
  | [], v, f => (v, f)
  | m :: ms, v, f =>
    let r := microApply m.op (v.getD m.sa 0) (v.getD m.sb 0) (v.getD m.sc 0)
    userGo ms (v.set m.dst r.1) (f ||| r.2)

/-- E combined with L by the micro-operations. -/
def userOp (ms : List MicroOp) (e l : List Lane) : List Lane × FpFlags :=
  let r := userGo ms [e.getD 0 0, e.getD 1 0, l.getD 0 0, l.getD 1 0, 0, 0, 0, 0, 0, 0, 0, one32] 0
  ([r.1.getD 8 0, r.1.getD 9 0], r.2)

/-- -∞ in FP32. -/
def negInf32 : Lane := 0xFF800000

/-- log-sum-exp of pairs (09 Table 9-7). -/
def lseOp (me se ml sl : Lane) : List Lane × FpFlags :=
  let m := fpMax me ml
  if m.1 = negInf32 then ([negInf32, 0], m.2)
  else
    let d := fpSub .rne me m.1
    let x := sfExp2 .rne d.1
    let p := fpMul .rne se x.1
    let d' := fpSub .rne ml m.1
    let x' := sfExp2 .rne d'.1
    let p' := fpMul .rne sl x'.1
    let s := fpAdd .rne p.1 p'.1
    ([m.1, s.1], m.2 ||| d.2 ||| x.2 ||| p.2 ||| d'.2 ||| x'.2 ||| p'.2 ||| s.2)

/-- op(E, L) of a lane (09 Table 9-7). -/
def scanOp (kind : ScanKind) (user : List MicroOp) (e l : List Lane) : List Lane × FpFlags :=
  let one := fun (r : Lane × FpFlags) => ([r.1], r.2)
  match kind with
  | .add => one (fpAdd .rne (e.getD 0 0) (l.getD 0 0))
  | .mul => one (fpMul .rne (e.getD 0 0) (l.getD 0 0))
  | .max => one (fpMax (e.getD 0 0) (l.getD 0 0))
  | .min => one (fpMin (e.getD 0 0) (l.getD 0 0))
  | .affine =>
    let a := fpMul .rne (l.getD 0 0) (e.getD 0 0)
    let b := fpFma .rne false false (l.getD 0 0) (e.getD 1 0) (l.getD 1 0)
    ([a.1, b.1], a.2 ||| b.2)
  | .lse => lseOp (e.getD 0 0) (e.getD 1 0) (l.getD 0 0) (l.getD 1 0)
  | .moment =>
    let r := momentMerge { n := e.getD 0 0, mean := e.getD 1 0, m2 := e.getD 2 0 } { n := l.getD 0 0, mean := l.getD 1 0, m2 := l.getD 2 0 }
    ([r.1.n, r.1.mean, r.1.m2], r.2)
  | .user => userOp user e l

/-- op of row operands, lane by lane; none is no operand (09 R278, R279). -/
def rowOp (f : List Lane → List Lane → List Lane × FpFlags) : ScanRow → ScanRow → ScanRow × FpFlags
  | some e :: es, some l :: ls =>
    let r := f e l
    let q := rowOp f es ls
    (some r.1 :: q.1, r.2 ||| q.2)
  | some e :: es, none :: ls => let q := rowOp f es ls; (some e :: q.1, q.2)
  | none :: es, l :: ls => let q := rowOp f es ls; (l :: q.1, q.2)
  | [], ls => (ls, 0)
  | es, [] => (es, 0)

/-! ## The rows of a scan (13 R367) -/

/-- A scan as queued. -/
structure ScanArgs where
  kind : ScanKind
  x : Desc
  y : Desc
  x2 : Option Desc
  y2 : Option Desc
  init : ScanInit
  user : List MicroOp

/-- Components a message of the scan carries (13 R369). -/
def ScanArgs.comps (a : ScanArgs) : Nat :=
  match a.kind with
  | .moment => 3
  | .affine => 2
  | .lse => 2
  | _ => if a.x2.isSome then 2 else 1

/-- op of the scan; a scan of one component carries one (13 R367). -/
def ScanArgs.op (a : ScanArgs) (e l : List Lane) : List Lane × FpFlags :=
  let r := scanOp a.kind a.user e l
  (r.1.take a.comps, r.2)

/-- An element of row r converted to FP32 (09 R271). -/
def Desc.f32At (d : Desc) (m : Memory) (r e : Nat) : Lane × FpFlags := toF32 .rne (d.at_ m r e)

/-- Component k of element e of row r of a TRIPLE stream, bit for bit (13 R355). -/
def Desc.tripleAt (d : Desc) (m : Memory) (r e k : Nat) : Lane :=
  BitVec.ofNat 32 (m.nat (d.tokenAddr (r * d.cols + e / 16) + 64 * k + 4 * (e % 16)) 4)

/-- Element e of row r as an operand. -/
def ScanArgs.elem (a : ScanArgs) (m : Memory) (r e : Nat) : List Lane × FpFlags :=
  if a.kind = .moment then ([a.x.tripleAt m r e 0, a.x.tripleAt m r e 1, a.x.tripleAt m r e 2], 0)
  else
    let u := a.x.f32At m r e
    match a.x2 with
    | none => ([u.1], u.2)
    | some d => let v := d.f32At m r e; ([u.1, v.1], u.2 ||| v.2)

/-- Row r of X. -/
def ScanArgs.row (a : ScanArgs) (m : Memory) (r : Nat) : ScanRow × FpFlags :=
  let l := (List.range a.x.width).map fun e => a.elem m r e
  (l.map fun x => some x.1, l.foldl (fun f x => f ||| x.2) 0)

/-- A row of no operands. -/
def ScanArgs.nones (a : ScanArgs) : ScanRow := (List.range a.x.width).map fun _ => none

/-- G[0]: lane e mod 16 of the init operands, a lane valid in all of them (13 R367). -/
def ScanArgs.initRow (a : ScanArgs) : ScanRow :=
  match a.init with
  | none => a.nones
  | some ts =>
    (List.range a.x.width).map fun e =>
      if ts.all fun t => t.valid.getLsbD (e % 16) then some (ts.map fun t => t.elem[e % 16]'(by omega)) else none

/-- The sequential prefixes of X, and their flags (09 R278 phase 1). -/
def ScanArgs.prefixGo (a : ScanArgs) (m : Memory) : Nat → List ScanRow × ScanRow × FpFlags
  | 0 => ([], a.nones, 0)
  | r + 1 =>
    let q := a.prefixGo m r
    let x := a.row m r
    let p := rowOp a.op q.2.1 x.1
    (q.1 ++ [p.1], p.1, q.2.2 ||| x.2 ||| p.2)

/-- T[k], with the flags of the first pass. -/
def ScanArgs.total (a : ScanArgs) (m : Memory) : ScanRow × FpFlags := (a.prefixGo m a.x.rows).2

/-- Component k of a lane's result; none is +0 (13 R367). -/
def laneComp (x : Option (List Lane)) (k : Nat) : Lane :=
  match x with
  | some l => l.getD k 0
  | none => 0

/-- A row of FP32 results written to a stream (09 R270). -/
def Desc.writeRow (d : Desc) (m : Memory) (r : Nat) (row : List Lane) : Memory × FpFlags :=
  (List.range d.cols).foldl (fun (st : Memory × FpFlags) c =>
    let el := fun l : Fin 16 => elemEncode d.fmt .rne (f32 (row.getD (16 * c + l.val) 0))
    (d.writeToken st.1 (r * d.cols + c) fun l => (el l).1, (List.finRange 16).foldl (fun f l => f ||| (el l).2) st.2)) (m, 0)

/-- A row of triples written to a TRIPLE stream, bit for bit. -/
def Desc.writeTriples (d : Desc) (m : Memory) (r : Nat) (row : ScanRow) : Memory :=
  (List.range d.width).foldl (fun m e =>
    [0, 1, 2].foldl (fun m k =>
      m.put (cellsAt (d.tokenAddr (r * d.cols + e / 16) + 64 * k + 4 * (e % 16)) (leBytes 4 (laneComp (row.getD e none) k).toNat))) m) m

/-- A row of results written. -/
def ScanArgs.write (a : ScanArgs) (m : Memory) (r : Nat) (row : ScanRow) : Memory × FpFlags :=
  if a.kind = .moment then (a.y.writeTriples m r row, 0)
  else
    let u := a.y.writeRow m r (row.map fun x => laneComp x 0)
    match a.y2 with
    | none => u
    | some d => let v := d.writeRow u.1 r (row.map fun x => laneComp x 1); (v.1, u.2 ||| v.2)

/-- The second pass: y[i] = op(carry, P[i]) for every row (09 R278 phase 3). -/
def ScanArgs.finish (a : ScanArgs) (m : Memory) (carry : ScanRow) : Memory × FpFlags :=
  let p := a.prefixGo m a.x.rows
  p.1.zipIdx.foldl (fun (st : Memory × FpFlags) x =>
    let y := rowOp a.op carry x.1
    let w := a.write st.1 x.2 y.1
    (w.1, st.2 ||| y.2 ||| w.2)) (m, p.2.2)

/-- The arguments of a scan in the queue. -/
def scanArgs (c : Core) : EngOp → Option (ScanArgs × Bool)
  | .scan kind x y x2 y2 herd init => some ({ kind, x, y, x2, y2, init, user := c.userOp.getD [] }, herd)
  | _ => none

/-! ## The exchange of a herd scan (13 R369) -/

/-- A row as a message carries it. -/
def rowMsg (n : Nat) (r : ScanRow) : List (List Lane × Bool) :=
  r.map fun x => match x with
    | some l => (l, true)
    | none => (List.replicate n 0, false)

/-- A message as a receiver of w lanes and n components takes it (13 R369). -/
def msgRow (w n : Nat) (l : List (List Lane × Bool)) : ScanRow :=
  (List.range w).map fun i =>
    match l[i]? with
    | some (x, true) => some ((List.range n).map fun k => x.getD k 0)
    | _ => none

/-- The first message of a FIFO from a rank, and the FIFO without it. -/
def takeFrom (r : Nat) : List Carry → Option (Carry × List Carry)
  | [] => none
  | m :: ms => if m.from_ = r then some (m, ms) else (takeFrom r ms).map fun x => (x.1, m :: x.2)

/-- A carry to send: the rank it goes to, its direction, the message. -/
structure CarryOut where
  to_  : Nat
  down : Bool
  msg  : Carry

/-- The last rank of the group of rank k in a herd of n. -/
def groupEnd (n k : Nat) : Nat := min (16 * (k / 16) + 15) (n - 1)

/-- One stage of the exchange at a rank, where it can go on (13 R369): stage 0 waits for Q, 1 sends it on, 2 waits for G, 3 sends it
on, 4 is the end. `f` is the running firing. -/
def scanStage (c : Core) (f : Firing) (a : ScanArgs) (j : EngJob) : Option (Core × EngJob × List CarryOut) :=
  let k := f.rank
  let n := f.task.hsize
  let g := k / 16
  let w := a.x.width
  let msg := fun (q : ScanRow) (x : List (List Lane × Bool)) =>
    ({ from_ := k, rows := rowMsg a.comps q, extra := x, tag := f.tag, epoch := c.cbars } : Carry)
  match j.stage with
  | 0 =>
    if k % 16 = 0 then some (c, { j with stage := 1, q := a.nones, g := if g = 0 then a.initRow else a.nones }, [])
    else
      match takeFrom (k - 1) c.fifoUp with
      | none => none
      | some (m, rest) =>
        some ({ c with fifoUp := rest },
              { j with stage := 1, q := msgRow w a.comps m.rows, g := if g = 0 then msgRow w a.comps m.extra else a.nones }, [])
  | 1 =>
    let q := rowOp a.op j.q (a.total c.spad).1
    some (c, { j with stage := 2 },
          if k = groupEnd n k then []
          else [{ to_ := k + 1, down := false, msg := msg q.1 (if g = 0 then rowMsg a.comps j.g else []) }])
  | 2 =>
    if g = 0 then some (c, { j with stage := 3 }, [])
    else if k = groupEnd n k then
      match takeFrom (16 * (g - 1) + 15) c.fifoUp with
      | none => none
      | some (m, rest) => some ({ c with fifoUp := rest }, { j with stage := 3, g := msgRow w a.comps m.rows }, [])
    else
      match takeFrom (k + 1) c.fifoDown with
      | none => none
      | some (m, rest) => some ({ c with fifoDown := rest }, { j with stage := 3, g := msgRow w a.comps m.rows }, [])
  | 3 =>
    let s := rowOp a.op j.q (a.total c.spad).1
    let up := if k = groupEnd n k ∧ k ≠ n - 1 then
        [({ to_ := groupEnd n (k + 1), down := false, msg := msg (rowOp a.op j.g s.1).1 [] } : CarryOut)] else []
    let dn := if g ≠ 0 ∧ k % 16 ≠ 0 then [({ to_ := k - 1, down := true, msg := msg j.g [] } : CarryOut)] else []
    some (c, { j with stage := 4 }, up ++ dn)
  | _ => none

/-- The exchange as far as it goes with what has arrived. -/
def scanExchange (f : Firing) (a : ScanArgs) : Nat → Core → EngJob → List CarryOut → Core × EngJob × List CarryOut
  | 0, c, j, o => (c, j, o)
  | n + 1, c, j, o =>
    match scanStage c f a j with
    | none => (c, j, o)
    | some (c, j, x) => scanExchange f a n c j (o ++ x)

/-- The scan runs over the herd: it asks to, and the firing is a herd of more than one rank (13 R368). -/
def overHerd (f : Firing) (herd : Bool) : Bool := herd && f.task.herd && decide (1 < f.task.hsize)

/-- The head of the scan queue goes on with its exchange, where it is a herd scan that has started (13 R369). -/
def Core.scanOn (c : Core) : Core × List CarryOut :=
  match c.scanQ, c.firing with
  | j :: js, some f =>
    match scanArgs c j.op with
    | some (a, herd) =>
      if j.started && overHerd f herd then
        let r := scanExchange f a 5 c j []
        ({ r.1 with scanQ := r.2.1 :: js }, r.2.2)
      else (c, [])
    | none => (c, [])
  | _, _ => (c, [])

/-- The carry of a rank once its exchange has ended, and the flags of what it computed in it. -/
def scanCarry (c : Core) (f : Firing) (a : ScanArgs) (j : EngJob) : ScanRow × FpFlags :=
  let q := rowOp a.op j.q (a.total c.spad).1
  let s := if f.rank = groupEnd f.task.hsize f.rank then (rowOp a.op j.g q.1).2 else 0
  let r := rowOp a.op j.g j.q
  (r.1, q.2 ||| s ||| r.2)

/-- A completed scan (13 R368). -/
def Core.runScan (c : Core) (f : Firing) (j : EngJob) : Core :=
  match scanArgs c j.op with
  | none => c
  | some (a, herd) =>
    let k := if overHerd f herd then scanCarry c f a j else (a.initRow, 0)
    let r := a.finish c.spad k.1
    ({ c with spad := r.1 } : Core).engineFlags (k.2 ||| r.2)

/-! ## The forms at issue (13 R367, R370 to R372) -/

/-- Two streams have the same rows and tokens a row. -/
def sameShape (a b : Desc) : Bool := a.rows == b.rows && a.cols == b.cols

/-- The checks of a scan (13 R358, R367). -/
def Core.scanTrap (c : Core) (k : Fin 8) (kind : ScanKind) (x y : Desc) (x2 y2 : Option Desc) : Option TrapInfo :=
  let rd := x :: x2.toList
  let wr := y :: y2.toList
  firstTrap [c.streamsTrap k ((rd.map fun d => (d, false)) ++ wr.map fun d => (d, true)),
             (if kind = .moment then none else firstTrap ((rd ++ wr).map (tripleTrap k))),
             streamCfgIf k ((rd ++ wr).any fun d => !sameShape d x),
             streamCfgIf k (kind == .moment && (x.fmt != .triple || y.fmt != .triple)),
             streamCfgIf k (kind == .user && !c.userNext)]

/-- The hull of the streams a scan writes. -/
def hullOf (a : Desc) (b : Option Desc) : Span :=
  match b with
  | none => a.hull
  | some d => a.hull.hull d.hull

/-- A scan form: its streams, its init operands. -/
def scanReq (c : Core) (k : Fin 8) (kind : ScanKind) (y x : Fin 16) (x2 y2 : Option (Fin 16)) (herd : Bool) (srcs : List Src)
    (init : ScanInit) : SlotReq :=
  let dx := c.q[x]
  let dy := c.q[y]
  let dx2 := x2.map fun q => c.q[q]
  let dy2 := y2.map fun q => c.q[q]
  { srcs, dests := [], busy := c.rsbFull || c.queueFull .scan
    result := checked (c.scanTrap k kind dx dy dx2 dy2)
      (.go [.engine .scan (.scan kind dx dy dx2 dy2 herd init) (some dx.hull) (dx2.map Desc.hull) (some (hullOf dy dy2))]) }

/-- A scan without X2 and init. -/
def scanPlain (kind : ScanKind) (p : Pred) (f : Form.Scan) (s : State) : Host.Outcome State Fault Refusal :=
  slot true p (fun _ c k => scanReq c k kind f.y f.x none none f.herd [] none) s

/-- A scan of one component with init. -/
def scanInit (kind : ScanKind) (p : Pred) (f : Form.ScanI) (s : State) : Host.Outcome State Fault Refusal :=
  slot true p (fun _ c k => scanReq c k kind f.y f.x none none f.herd [srcV f.vi f.tvi] (some [c.regs.v[f.vi]])) s

/-- A scan of pairs. -/
def scanPair (kind : ScanKind) (p : Pred) (f : Form.Scan2) (s : State) : Host.Outcome State Fault Refusal :=
  slot true p (fun _ c k =>
    scanReq c k kind f.y f.x (some f.x2) (some f.y2) f.herd (if f.init then [srcV f.vi f.tvi, srcV f.vj f.tvj] else [])
      (if f.init then some [c.regs.v[f.vi], c.regs.v[f.vj]] else none)) s

/-- `scan.add` (13 R367). -/
def execScanAdd (p : Pred) (f : Form.Scan) (s : State) : Host.Outcome State Fault Refusal := scanPlain .add p f s
/-- `scan.add` with init. -/
def execScanAddInit (p : Pred) (f : Form.ScanI) (s : State) : Host.Outcome State Fault Refusal := scanInit .add p f s
/-- `scan.mul` (13 R367). -/
def execScanMul (p : Pred) (f : Form.Scan) (s : State) : Host.Outcome State Fault Refusal := scanPlain .mul p f s
/-- `scan.mul` with init. -/
def execScanMulInit (p : Pred) (f : Form.ScanI) (s : State) : Host.Outcome State Fault Refusal := scanInit .mul p f s
/-- `scan.max` (13 R367). -/
def execScanMax (p : Pred) (f : Form.Scan) (s : State) : Host.Outcome State Fault Refusal := scanPlain .max p f s
/-- `scan.max` with init. -/
def execScanMaxInit (p : Pred) (f : Form.ScanI) (s : State) : Host.Outcome State Fault Refusal := scanInit .max p f s
/-- `scan.min` (13 R367). -/
def execScanMin (p : Pred) (f : Form.Scan) (s : State) : Host.Outcome State Fault Refusal := scanPlain .min p f s
/-- `scan.min` with init. -/
def execScanMinInit (p : Pred) (f : Form.ScanI) (s : State) : Host.Outcome State Fault Refusal := scanInit .min p f s
/-- `scan.affine` (13 R367). -/
def execScanAffine (p : Pred) (f : Form.Scan2) (s : State) : Host.Outcome State Fault Refusal := scanPair .affine p f s
/-- `scan.lse` (13 R367). -/
def execScanLse (p : Pred) (f : Form.Scan2) (s : State) : Host.Outcome State Fault Refusal := scanPair .lse p f s
/-- `scan.moment` (13 R367). -/
def execScanMoment (p : Pred) (f : Form.Scan) (s : State) : Host.Outcome State Fault Refusal := scanPlain .moment p f s

/-- The three components of a w register as tokens, every lane valid. -/
def momentTokens (w : Moments) : List Token :=
  [{ elem := lanes fun l => w[l].n, valid := BitVec.allOnes 16 }, { elem := lanes fun l => w[l].mean, valid := BitVec.allOnes 16 },
   { elem := lanes fun l => w[l].m2, valid := BitVec.allOnes 16 }]

/-- `scan.moment` with init, the triples of a w register (13 R367). -/
def execScanMomentInit (p : Pred) (f : Form.ScanM) (s : State) : Host.Outcome State Fault Refusal :=
  slot true p (fun _ c k => scanReq c k .moment f.y f.x none none f.herd [(.w f.vi, f.tvi)] (some (momentTokens c.regs.w[f.vi]))) s

/-- `scan.user` of one component without init (13 R367). -/
def execScanUser (p : Pred) (f : Form.Scan) (s : State) : Host.Outcome State Fault Refusal := scanPlain .user p f s

/-- `scan.user` with PAIR or init (13 R367). -/
def execScanUserExt (p : Pred) (f : Form.ScanU) (s : State) : Host.Outcome State Fault Refusal :=
  slot true p (fun _ c k =>
    scanReq c k .user f.y f.x (if f.pair then some f.x2 else none) (if f.pair then some f.y2 else none) f.herd
      (if f.init then srcV f.vi f.tvi :: (if f.pair then [srcV f.vj f.tvj] else []) else [])
      (if f.init then some (c.regs.v[f.vi] :: (if f.pair then [c.regs.v[f.vj]] else [])) else none)) s

/-- `scdef` (13 R370). -/
def execScdef (p : Pred) (f : Form.Scdef) (s : State) : Host.Outcome State Fault Refusal :=
  slot true p (fun _ c k =>
    { srcs := [srcV f.a f.ta], dests := [], busy := c.queueFull .scan
      result := match microList c.regs.v[f.a] (f.n.val + 1) with
        | none => .trap (trapOf trapStreamCfg k)
        | some l => .go [.engine .scan (.scdef l) none none none] }) s

/-- `csend` (13 R371). -/
def execCsend (p : Pred) (f : Form.Csend) (s : State) : Host.Outcome State Fault Refusal :=
  slot true p (fun _ c _ =>
    { srcs := [srcV f.v f.tv], dests := [], busy := c.queueFull .scan
      result := .go [.engine .scan (.csend c.regs.v[f.v] f.dn) none none none] }) s

/-- `crecv` (13 R371). -/
def execCrecv (p : Pred) (f : Form.Crecv) (s : State) : Host.Outcome State Fault Refusal :=
  slot true p (fun _ c _ =>
    { srcs := [], dests := [.v f.v], busy := c.queueFull .scan
      result := .go [.empty (.v f.v), .engine .scan (.crecv f.v f.dn) none none none] }) s

/-- `cbar` (13 R372). -/
def execCbar (p : Pred) (s : State) : Host.Outcome State Fault Refusal :=
  slot true p (fun _ c _ =>
    { srcs := [], dests := [], busy := c.queueFull .scan, result := .go [.engine .scan .cbar none none none] }) s

end Sys2Proof.Machine
end

