-- ==== Sys2Proof/Machine/Copy.lean ====
section
/-! DEFINITION. Sys2Proof/Machine/Copy.lean: local copies at issue, and what they do when they complete (13 R377 to R379). -/

namespace Sys2Proof.Machine

/-- The first of a copy's two ranges that passes the window: the lowest byte at or beyond it (13 R377). -/
def cpyBounds (slot : Fin 8) (d a n : Nat) : Option TrapInfo :=
  firstTrap [trapIf (decide (windowEnd < a + n)) (localTrap trapSpadBounds slot (max a windowEnd) false),
             trapIf (decide (windowEnd < d + n)) (localTrap trapSpadBounds slot (max d windowEnd) true)]

/-- The checks of `cpy`. -/
def Core.cpyTrap (c : Core) (slot : Fin 8) (d a n : Nat) : Option TrapInfo :=
  firstTrap [cpyBounds slot d a n,
             (match spanOf a n with
              | some x => trapIf (!c.scratchOnly x) (localTrap trapBankMode slot a false)
              | none => none),
             (match spanOf d n with
              | some x => firstTrap [trapIf (!c.scratchOnly x) (localTrap trapBankMode slot d true),
                                     trapIf (c.meetsCode x) (localTrap trapSpadBounds slot d true)]
              | none => none)]

/-- `cpy` (13 R377). -/
def execCpy (p : Pred) (f : Form.Cpy) (s : State) : Host.Outcome State Fault Refusal :=
  slot true p (fun env c k =>
    let d := (c.regs.gets f.d).toNat
    let a := (c.regs.gets f.a).toNat
    let n := (c.regs.gets f.n).toNat
    { srcs := [srcS f.d f.td, srcS f.a f.ta, srcS f.n f.tn], dests := [], busy := n != 0 && (c.rsbFull || c.streamerFull env)
      result := checked (c.cpyTrap k d a n) (.go [.copy (.cpy d a n) env.wcc (spanOf a n) (spanOf d n)]) }) s

/-- `cpy2d` (13 R378). -/
def execCpy2d (p : Pred) (f : Form.Cpy2d) (s : State) : Host.Outcome State Fault Refusal :=
  slot true p (fun env c k =>
    let d := c.q[f.q]
    let x := c.q[f.s]
    { srcs := [], dests := [], busy := c.rsbFull || c.streamerFull env
      result := checked
        (firstTrap [c.streamsTrap k [(x, false), (d, true)],
                    streamCfgIf k (!sameShape x d || (d.fmt == .triple) != (x.fmt == .triple)),
                    streamCfgIf k ((d.fmt != x.fmt || d.slog != x.slog) && d.slog != 0)])
        (.go [.copy (.cpy2d d x) env.wcc (some x.hull) (some d.hull)]) }) s

/-- `fill` (13 R379). -/
def execFill (p : Pred) (f : Form.Fill) (s : State) : Host.Outcome State Fault Refusal :=
  slot true p (fun env c k =>
    let d := c.q[f.q]
    { srcs := [srcS f.a f.ta], dests := [], busy := c.rsbFull || c.streamerFull env
      result := checked (c.streamsTrap k [(d, true)]) (.go [.copy (.fill d (c.regs.gets f.a)) env.wcc none (some d.hull)]) }) s

/-! ## What a copy does -/

/-- Scale bytes of a stream. -/
def Desc.scaleCount (d : Desc) : Nat := if d.slog = 0 then 0 else (d.tokens + d.scaleRun - 1) / d.scaleRun

/-- `cpy2d`: the cells to write, read whole from the memory before it (13 R378). -/
def cpy2dCells (m : Memory) (d x : Desc) : List (Nat × Byte) × FpFlags :=
  if d.fmt = x.fmt ∧ d.slog = x.slog then
    ((List.range x.tokens).flatMap (fun t => d.tokenCells t (x.tokenBits m t)) ++ cellsAt d.sbase (m.bytes x.sbase x.scaleCount), 0)
  else
    (List.range x.tokens).foldl (fun (st : List (Nat × Byte) × FpFlags) t =>
      let el := fun l : Fin 16 => elemEncode d.fmt .rne (x.value m t l.val)
      (st.1 ++ d.tokenCells t (packToken d.fmt fun l => (el l).1), (List.finRange 16).foldl (fun f l => f ||| (el l).2) st.2)) ([], 0)

/-- The bits of a token that `fill` writes: the low bits of A in every element, or in every word of a TRIPLE (13 R379). -/
def fillBits (f : Fmt) (x : Word) : Nat :=
  if f = .triple then (List.range 48).foldl (fun n l => n + x.toNat % 2 ^ 32 * 2 ^ (32 * l)) 0 else packToken f fun _ => x.toNat

/-- The cells `fill` writes. -/
def fillCells (d : Desc) (x : Word) : List (Nat × Byte) :=
  (List.range d.tokens).flatMap (fun t => d.tokenCells t (fillBits d.fmt x))
    ++ cellsAt d.sbase (List.replicate d.scaleCount (0x7F : Byte))

/-- A completed local copy; a converting `cpy2d` records its flags (09 R271). -/
def Core.runCopy (c : Core) : CopyOp → Core
  | .cpy d a n => { c with spad := c.spad.put (cellsAt d (c.spad.bytes a n)) }
  | .cpy2d d x => let r := cpy2dCells c.spad d x; ({ c with spad := c.spad.put r.1 } : Core).engineFlags r.2
  | .fill d x => { c with spad := c.spad.put (fillCells d x) }
  | .tld .. => c
  | .tst .. => c

end Sys2Proof.Machine
end

