-- ==== Sys2Proof/Machine/Fabric.lean ====
section
/-! DEFINITION. Sys2Proof/Machine/Fabric.lean: the FX forms at issue: publications, fetches, queries, herd barriers and collectives (14 R393 to R400). -/

namespace Sys2Proof.Machine

/-! ## Names (14 R393) -/

/-- An operand that overrides a record's field: its source and its value. -/
def override (c : Core) (on : Bool) (r : Fin 32) (t : Bool) : List Src × Option Word :=
  if on then ([srcS r t], some (c.regs.gets r)) else ([], none)

/-- The tag register of a form, and its index register. -/
def tagOver (c : Core) (on : Bool) (a : Fin 32) (ta : Bool) : List Src × Option Word := override c on a ta

/-- The running firing's publication record K. -/
def Core.pubRec (c : Core) (k : Fin 8) : Option (Firing × NameRec) := c.firing.bind fun f => (f.task.pubs[k.val]?).map fun r => (f, r)

/-- The running firing's subscription record K. -/
def Core.subRec (c : Core) (k : Fin 8) : Option (Firing × NameRec) := c.firing.bind fun f => (f.task.subs[k.val]?).map fun r => (f, r)

/-- STREAM_CFG in a slot. -/
def cfgTrap (slot : Fin 8) : SlotResult := .trap (trapOf trapStreamCfg slot)

/-! ## Publication (14 R394, R395) -/

/-- What `pub` does with record K, overrides and options (14 R394, 05 R152, R170). -/
def pubResult (c : Core) (slot : Fin 8) (q : Fin 16) (k : Fin 8) (tagx idx : Option Word) (noback live nolive : Bool) : SlotResult :=
  match c.pubRec k with
  | none => cfgTrap slot
  | some (f, r) =>
    let d := c.q[q]
    let n := r.resolve f tagx idx
    let above := f.task.rated && r.rate != 0 && decide (r.rate < (assoc f.pubs k.val).getD 0 + d.tokens)
    checked (firstTrap [indexTrap slot idx, c.streamTrap slot d false,
                        streamCfgIf slot (d.fmt == .triple || decide (256 < d.tokens) || above || n.1 == none || n.1 == some eosIndex)])
      (.go [.fabric (.pub (nameOf f.ns r.tensor (n.1.getD 0)) n.2 d (r.back && !noback) (live || (r.live && !nolive)) none) (some d.hull),
            .pubTokens k.val d.tokens])

/-- `pub` (14 R394). -/
def execPub (p : Pred) (f : Form.Pub) (s : State) : Host.Outcome State Fault Refusal :=
  slot true p (fun _ c k =>
    let t := tagOver c f.tagx f.a f.ta
    { srcs := t.1, dests := [], busy := c.portFull || c.rsbFull, result := pubResult c k f.q f.k t.2 none f.noback f.live f.nolive }) s

/-- `pub` with an index register (14 R393). -/
def execPubIndexed (p : Pred) (f : Form.PubX) (s : State) : Host.Outcome State Fault Refusal :=
  slot true p (fun _ c k =>
    let t := tagOver c f.tagx f.a f.ta
    { srcs := t.1 ++ [srcS f.b f.tb], dests := [], busy := c.portFull || c.rsbFull
      result := pubResult c k f.q f.k t.2 (some (c.regs.gets f.b)) f.noback f.live f.nolive }) s

/-- `pubeos` (14 R395). -/
def execPubeos (p : Pred) (f : Form.Pubeos) (s : State) : Host.Outcome State Fault Refusal :=
  slot true p (fun _ c k =>
    { srcs := [], dests := [], busy := c.portFull
      result := match c.pubRec f.k with
        | none => cfgTrap k
        | some (_, r) => .go [.fabric (.eosRequest r.tensor) none] }) s

/-! ## Fetches and queries (14 R396, R397) -/

/-- The name, tag and voidness of a subscription with its overrides (14 R393). -/
def subName (f : Firing) (r : NameRec) (tagx idx : Option Word) : BitVec 64 × BitVec 16 × Bool :=
  let n := r.resolve f tagx idx
  (nameOf f.ns r.tensor (n.1.getD 0), n.2, n.1 == none || n.1 == some eosIndex)

/-- What `fetch` does with record K and overrides (14 R396). -/
def fetchResult (c : Core) (slot : Fin 8) (q : Fin 16) (k : Fin 8) (tagx idx : Option Word) : SlotResult :=
  match c.subRec k with
  | none => cfgTrap slot
  | some (f, r) =>
    let d := c.q[q]
    let n := subName f r tagx idx
    checked (firstTrap [indexTrap slot idx, c.streamTrap slot d true, tripleTrap slot d])
      (.go [.fetch n.1 n.2.1 d n.2.2 (if n.2.2 then none else some d.hull)])

/-- `fetch` (14 R396). -/
def execFetch (p : Pred) (f : Form.Fetch) (s : State) : Host.Outcome State Fault Refusal :=
  slot true p (fun _ c k =>
    let t := tagOver c f.tagx f.a f.ta
    { srcs := t.1, dests := [], busy := c.portFull || c.rsbFull, result := fetchResult c k f.q f.k t.2 none }) s

/-- `fetch` with an index register (14 R393). -/
def execFetchIndexed (p : Pred) (f : Form.FetchX) (s : State) : Host.Outcome State Fault Refusal :=
  slot true p (fun _ c k =>
    let t := tagOver c f.tagx f.a f.ta
    { srcs := t.1 ++ [srcS f.b f.tb], dests := [], busy := c.portFull || c.rsbFull
      result := fetchResult c k f.q f.k t.2 (some (c.regs.gets f.b)) }) s

/-- `subq` (14 R397). -/
def execSubq (p : Pred) (f : Form.Subq) (s : State) : Host.Outcome State Fault Refusal :=
  slot true p (fun _ c k =>
    let t := tagOver c f.tagx f.a f.ta
    let x := override c f.idxx f.b f.tb
    { srcs := t.1 ++ x.1, dests := [.s f.d], busy := c.portFull
      result := match c.subRec f.k with
        | none => cfgTrap k
        | some (g, r) =>
          let n := subName g r t.2 x.2
          checked (indexTrap k x.2) (.go [.empty (.s f.d), .fabric (.subq f.d n.1 n.2.1 n.2.2) none]) }) s

/-! ## Herd barriers (14 R398) -/

/-- What an arrival does: the rank's next phase, the holds, and in a herd a message to the gate. -/
def arriveEffects (c : Core) : List Effect :=
  let herd := match c.firing with | some f => f.task.herd | none => false
  [.herdArrive, .wait .globals, .wait .fabric] ++ (if herd then [.fabric (.arrive (c.barArr + 1)) none] else [])

/-- `hbar.arrive` (14 R398). -/
def execHbarArrive (p : Pred) (s : State) : Host.Outcome State Fault Refusal :=
  slot true p (fun _ c _ => { srcs := [], dests := [], busy := c.portFull, result := .go (arriveEffects c) }) s

/-- `hbar.wait` (14 R398). -/
def execHbarWait (p : Pred) (s : State) : Host.Outcome State Fault Refusal :=
  slot true p (fun _ _ _ => { srcs := [], dests := [], busy := false, result := .go [.wait .phase] }) s

/-- `hbar` (14 R398). -/
def execHbar (p : Pred) (s : State) : Host.Outcome State Fault Refusal :=
  slot true p (fun _ c _ => { srcs := [], dests := [], busy := c.portFull, result := .go (arriveEffects c ++ [.wait .phase]) }) s

/-! ## Collectives (14 R400) -/

/-- The send counter of a VSN. -/
def Core.sends (c : Core) (n : Fin 256) : BitVec 16 := lookupD 0 c.sendCnt n

/-- `coll` (14 R400). -/
def execColl (p : Pred) (f : Form.Coll) (s : State) : Host.Outcome State Fault Refusal :=
  slot true p (fun _ c k =>
    let d := c.q[f.q]
    { srcs := [], dests := [], busy := c.portFull || c.rsbFull
      result := checked (firstTrap [c.streamTrap k d false, streamCfgIf k (d.slog != 0 || d.fmt == .triple)])
        (.go [.fabric (.coll f.vsn d (c.sends f.vsn) 0) (some d.hull)]) }) s

/-- `coll.recv` (14 R400). -/
def execCollRecv (p : Pred) (f : Form.CollR) (s : State) : Host.Outcome State Fault Refusal :=
  slot true p (fun _ c k =>
    let d := c.q[f.q]
    { srcs := [], dests := [], busy := c.rsbFull
      result := checked (firstTrap [c.streamTrap k d true, tripleTrap k d]) (.go [.recv f.vsn d d.tokens (some d.hull)]) }) s

/-- `coll.w` (14 R400). -/
def execCollW (p : Pred) (f : Form.CollW) (s : State) : Host.Outcome State Fault Refusal :=
  slot true p (fun _ c _ =>
    { srcs := [(.w f.a, f.ta)], dests := [], busy := c.portFull
      result := .go [.fabric (.collW f.vsn c.regs.w[f.a] (c.sends f.vsn)) none] }) s

/-- `coll.recv.w` (14 R400). -/
def execCollRecvW (p : Pred) (f : Form.CollRW) (s : State) : Host.Outcome State Fault Refusal :=
  slot true p (fun _ _ _ => { srcs := [], dests := [.w f.a], busy := false, result := .go [.recvW f.vsn f.a] }) s

/-- `cmark` (14 R400). -/
def execCmark (p : Pred) (f : Form.Cmark) (s : State) : Host.Outcome State Fault Refusal :=
  slot true p (fun _ c _ => { srcs := [], dests := [], busy := c.portFull, result := .go [.fabric (.cmark f.vsn false) none] }) s

/-- `cmark.end` (14 R400). -/
def execCmarkEnd (p : Pred) (f : Form.CmarkE) (s : State) : Host.Outcome State Fault Refusal :=
  slot true p (fun _ c _ => { srcs := [], dests := [], busy := c.portFull, result := .go [.fabric (.cmark f.vsn true) none] }) s

end Sys2Proof.Machine
end

