-- ==== Sys2Proof/Machine/Net.lean ====
section
/-! DEFINITION. Sys2Proof/Machine/Net.lean: the ground the fabric's events stand on: ports and hops, rim agents on the edge, configurations in
force, queues and room, the steward's event records (02 R47, 03 R75 to R90, R103, R116, R430, 16 R413). -/

namespace Sys2Proof

/-! ## Tiles and messages (03 R80 to R83) -/

/-- Data flits of a burst's tokens: consecutive tokens of one valid mask, at most `n` a flit (03 R80); `k` fit in the last. -/
def dataFlits (n : Nat) : Nat → BitVec 16 → List FlitToken → Nat
  | _, _, [] => 0
  | 0, _, t :: ts => 1 + dataFlits n (n - 1) t.ev ts
  | k + 1, e, t :: ts => if t.ev = e then dataFlits n k e ts else 1 + dataFlits n (n - 1) t.ev ts

/-- Tokens of a format in one flit (03 Table 3-3). -/
def tokensPerFlit (f : Fmt) : Nat :=
  match f.width with
  | 32 => 1 | 16 => 2 | 8 => 4 | 6 => 5 | _ => 1

/-- Flits of a burst: its header flit and its data flits. -/
def Burst.flits (b : Burst) : Nat := if b.eos then 1 else 1 + dataFlits (tokensPerFlit b.fmt) 0 0 b.tokens

/-- Flits of a tile: its name flit and its bursts; the blocks it takes in a mirror or a pen store (03 R91). -/
def Tile.flits (t : Tile) : Nat := t.bursts.foldl (fun n b => n + b.flits) 1

/-- Tokens of a tile. -/
def Tile.tokens (t : Tile) : Nat := t.bursts.foldl (fun n b => n + b.tokens.length) 0

/-- The tile ends its stream (03 R83). -/
def Tile.eos (t : Tile) : Bool := t.bursts.any (·.eos)

/-- The tile is the one of a name and tag (03 R84). -/
def Tile.is (t : Tile) (name : BitVec 64) (tag : BitVec 16) : Bool := t.name == name && t.tag == tag

/-- The tensor of a name (03 Table 3-6). -/
def tensorOf (name : BitVec 64) : BitVec 20 := name.extractLsb' 36 20

/-- The namespace of a name. -/
def nsOf (name : BitVec 64) : BitVec 8 := name.extractLsb' 56 8

/-- Flits of a message. -/
def Body.flits : Body → Nat
  | .publication t _ => t.flits
  | .reply t _ => t.flits
  | .chunk _ _ _ _ d => 1 + d.length
  | .mem _ _ _ n => n
  | _ => 1

/-- The tensor of a message's name. -/
def Body.tensor : Body → Option (BitVec 20)
  | .publication t _ => some (tensorOf t.name)
  | .request n _ _ _ => some (tensorOf n)
  | .reply t _ => some (tensorOf t.name)
  | .miss n _ _ _ => some (tensorOf n)
  | _ => none

/-- The name and tag, or VSN and tag, that an event gives of a message (03 Table 3-15). -/
def Body.label : Body → BitVec 64 × BitVec 16
  | .publication t _ => (t.name, t.tag)
  | .request n g _ _ => (n, g)
  | .reply t _ => (t.name, t.tag)
  | .miss n g _ _ => (n, g)
  | .chunk v g _ _ _ => (BitVec.ofNat 64 v.val, g)
  | .mark v g _ => (BitVec.ofNat 64 v.val, g)
  | .carry c _ _ => (0, c.tag)
  | .configWrite _ _ => (0, 0)
  | .control _ _ => (0, 0)
  | .mem _ _ _ _ => (0, 0)

/-- The router that injected a message: its source, which for an ingress port is a number past every core's (03 R85, 04 R121). -/
def Msg.origin (m : Msg) : Nat := m.source % Config.cores

/-- The lane a message keeps: (x + y) mod 2 of the router that injected it; the memory plane has one (03 R75, R78). -/
def Msg.lane (m : Msg) : Fin 2 :=
  if 4 ≤ m.cls.val then 0 else ⟨(m.origin % Config.cols + m.origin / Config.cols) % 2, by omega⟩

end Sys2Proof

namespace Sys2Proof.Machine

/-! ## Ports and hops (16 R413, 03 R87) -/

/-- The port toward the link a flit sent by port p arrives on. -/
def opposite : Fin 6 → Fin 6
  | 1 => 3 | 2 => 4 | 3 => 1 | 4 => 2 | p => p

/-- The router beyond a port of a router. -/
def neighbour (n : Nat) (p : Fin 6) : Option Nat :=
  match p.val with
  | 1 => if 0 < coreY n then some (n - Config.cols) else none
  | 2 => if coreX n + 1 < Config.cols then some (n + 1) else none
  | 3 => if coreY n + 1 < Config.rows then some (n + Config.cols) else none
  | 4 => if 0 < coreX n then some (n - 1) else none
  | _ => none

/-- The port of the dimension-order path from a router to another: first along x, then along y (03 R87). -/
def portTo (n t : Nat) : Fin 6 :=
  if coreX n < coreX t then 2 else if coreX t < coreX n then 4
  else if coreY n < coreY t then 3 else if coreY t < coreY n then 1 else 0

/-- Hops between two routers. -/
def hops (a b : Nat) : Nat := (coreX a - coreX b) + (coreX b - coreX a) + (coreY a - coreY b) + (coreY b - coreY a)

/-! ## The rim (02 R47) -/

/-- The router at position p of an edge: 0 north, 1 east, 2 south, 3 west. -/
def edgeRouter (edge p : Nat) : Nat :=
  match edge with
  | 0 => coreNum p 0
  | 1 => coreNum 134 (1 + p)
  | 2 => coreNum (134 - p) 95
  | _ => coreNum 0 (94 - p)

/-- An agent's edge, its place among that edge's agents, how many they are, and the edge's routers. -/
def agentEdge (a : Nat) : Nat × Nat × Nat × Nat :=
  if a < 7 then (0, a, 7, 135) else if a < 12 then (1, a - 7, 5, 94) else if a < 19 then (2, a - 12, 7, 135) else (3, a - 19, 5, 94)

/-- The edge routers of an agent (02 Table 2-7). -/
def agentRouters (a : Fin 24) : List Nat :=
  let (e, i, n, len) := agentEdge a.val
  let lo := i * len / n
  (List.range ((i + 1) * len / n - lo)).map fun k => edgeRouter e (lo + k)

/-- The agent attached to an edge router. -/
def agentAt (n : Nat) : Option (Fin 24) := (List.finRange 24).find? fun a => (agentRouters a).contains n

/-! ## Routers, partitions and configurations in force -/

/-- A router of the module. -/
def State.router (s : State) (n : Nat) : Router := (assoc s.routers n).getD Router.reset

/-- A router written. -/
def State.setRouter (s : State) (n : Nat) (r : Router) : State := { s with routers := assocSet s.routers n r }

/-- A router changed. -/
def State.onRouter (s : State) (n : Nat) (f : Router → Router) : State := s.setRouter n (f (s.router n))

/-- A router has moved something: its movement counter (03 R113). -/
def State.moved (s : State) (n : Nat) : State := s.onRouter n fun r => { r with moved := r.moved + 1 }

/-- The partition a router lies in. -/
def State.partOf (s : State) (n : Nat) : Option (Fin 16 × Part) := s.parts.find? fun p => p.2.has n

/-- A partition changed. -/
def State.onPart (s : State) (p : Fin 16) (f : Part → Part) : State :=
  { s with parts := s.parts.map fun x => if x.1 = p then (x.1, f x.2) else x }

/-- The configuration of a plane of a partition. -/
def Part.plane (p : Part) (b : Bool) : Option Config := if b then p.planeB else p.planeA

/-- The configuration active at a router. -/
def State.cfgAt (s : State) (n : Nat) : Option Config := (s.partOf n).bind fun p => p.2.plane (s.router n).plane

/-- A router's own part of the configuration active there. -/
def State.routerCfg (s : State) (n : Nat) : Option RouterCfg := (s.cfgAt n).bind fun g => assoc g.routers n

/-- The task a gate serves. -/
def State.taskOf (s : State) (g : GateId) : Option Task := (s.ctxs[g.ctx].cfg).bind fun k => k.tasks.find? fun t => t.num = g.task

/-- The router of a gate. -/
def State.gateRouter (s : State) (g : GateId) : Nat :=
  match s.taskOf g with
  | some t => t.gate
  | none => 0

/-- Every gate of every context. -/
def State.gates (s : State) : List Gate := (List.finRange 8).flatMap fun k => s.ctxs[k].gates

/-! ## Peers (02 R70 to R73, 04 R133, logs 16, 27) -/

/-- An Ethernet port is there and in service (00 R2, 01 R40). -/
def State.portUp (s : State) (p : Fin 32) : Bool := !s.economy && !s.health.ethOut.contains p

/-- Routers along an edge. -/
def edgeLength (edge : Nat) : Nat := if edge % 2 = 0 then 135 else 94

/-- The eight edge routers that a group of four ports attaches to, two groups on each edge (02 R70, log 27). -/
def groupRouters (g : Fin 8) : List Nat :=
  (List.range 8).map fun k => edgeRouter (g.val / 2) ((2 * (g.val % 2) + 1) * edgeLength (g.val / 2) / 4 - 4 + k)

/-- The edge router by which a port's messages enter: one of its group's eight (02 R70, log 27). -/
def portRouter (p : Fin 32) : Nat := ((groupRouters ⟨p.val / 4, by omega⟩)[2 * (p.val % 4)]?).getD 0

/-- Groups with a port in service. -/
def State.groupsUp (s : State) : List (Fin 8) := (List.finRange 8).filter fun g => (List.finRange 32).any fun p => p.val / 4 == g.val && s.portUp p

/-- Routers by whose edge port a message can leave for a peer. -/
def State.exits (s : State) : List Nat := s.groupsUp.flatMap groupRouters

/-- The nearest of them to a router, the first in order of group and place where some are as near (02 R73, log 27). -/
def State.exitRouter (s : State) (n : Nat) : Option Nat :=
  s.exits.foldl (fun b k => match b with
    | none => some k
    | some j => if hops n k < hops n j then some k else some j) none

/-- The link to a peer in a class. Each end numbers its frames from 0, and before the first it acknowledges 0xFFFFFFFF: the manual gives no first
number (02 R72, log 16). -/
def State.peerLink (s : State) (peer : Fin 4096) (cls : Fin 6) : PeerLink :=
  (s.peers.find? fun l => l.peer = peer ∧ l.cls = cls).getD { peer, cls, expected := 0, next := 0, unacked := [] }

/-- A link to a peer written. -/
def State.setPeer (s : State) (l : PeerLink) : State :=
  { s with peers := (s.peers.filter fun x => !(x.peer = l.peer ∧ x.cls = l.cls)) ++ [l] }

/-- A reply's body as its requester's own module reads it. -/
def bodyFor : Body → Body
  | .reply t (.peer _ r) => .reply t r
  | .miss name tag code (.peer _ r) => .miss name tag code r
  | b => b

/-- Frames for the flits of a message from one on: 16 flits each at most (02 R71). -/
def framesOf (src dst : Fin 4096) (ack : BitVec 32) (m : Msg) (x : Nat) : Nat → Nat → BitVec 32 → List Frame
  | 0, _, _ => []
  | fuel + 1, behind, psn =>
    if x ≤ behind then []
    else { src, dst, cls := m.cls, nflit := min 16 (x - behind), psn, ack, msg := m, behind } ::
      framesOf src dst ack m x fuel (behind + 16) (psn + 1)

/-- Flits of a message, from one on, leave for a peer module in frames, which are kept until they are acknowledged (02 R71, R72, log 15). -/
def State.toPeer (s : State) (peer : Fin 4096) (m : Msg) (behind x : Nat) : State :=
  let l := s.peerLink peer m.cls
  let fs := framesOf s.modNum peer (l.expected - 1) m (behind + x) m.body.flits behind l.next
  s.setPeer { l with next := l.next + BitVec.ofNat 32 fs.length, unacked := l.unacked ++ fs }

/-- The namespace a message names, where it names one. -/
def bodyNs (b : Body) : Option (BitVec 8) :=
  match b with
  | .publication t _ => some (nsOf t.name)
  | .request n _ _ _ => some (nsOf n)
  | .reply t _ => some (nsOf t.name)
  | .miss n _ _ _ => some (nsOf n)
  | _ => none

/-- A context of a namespace is running (04 R133). -/
def State.nsRuns (s : State) (ns : BitVec 8) : Bool := (List.finRange 8).any fun k => s.ctxs[k].ns == ns && s.ctxs[k].state == .running

/-- A message from a peer can enter at a router: the context of its namespace runs; of one that names none, the context of the router's
partition (04 R133, log 16). -/
def State.admitted (s : State) (n : Nat) (m : Msg) : Bool :=
  match bodyNs m.body, s.partOf n with
  | some ns, _ => s.nsRuns ns
  | none, some (p, _) => (List.finRange 8).any fun k => s.ctxs[k].part == p && s.ctxs[k].state == .running
  | none, none => true

/-! ## Messages and queues (03 R78, log 15) -/

/-- The first message with a property, and the others. -/
def takeMsg (q : Flying → Bool) : List Flying → Option (Flying × List Flying)
  | [] => none
  | f :: fs => if q f then some (f, fs) else (takeMsg q fs).map fun x => (x.1, f :: x.2)

/-- The first message equal to one gives way to another, or to none. -/
def swapMsg (f : Flying) (g : Option Flying) : List Flying → List Flying
  | [] => []
  | y :: ys => if y = f then g.toList ++ ys else y :: swapMsg f g ys

/-- The router past which a detour runs after its first, its second and its third link, and the port by which it comes there (03 R109). -/
def detourSite (n : Nat) (p side : Fin 6) (leg : Fin 3) : Option (Nat × Fin 6) :=
  let a := (neighbour n side).map fun k => (k, opposite side)
  match leg with
  | 0 => a
  | 1 => a.bind fun x => (neighbour x.1 p).map fun k => (k, opposite p)
  | 2 => (neighbour n p).map fun k => (k, side)

/-- The neighbour over which a box goes round a link: north or west, or, `second`, south or east (03 R109). -/
def boxSide (p : Fin 6) (second : Bool) : Fin 6 :=
  if p = 2 ∨ p = 4 then (if second then 3 else 1) else (if second then 2 else 4)

/-- The detour that a router's port takes round its dead link. -/
def Router.sideOf (r : Router) (p : Fin 6) : Option (Fin 6) := (findFin r.boxed p).map (boxSide p)

/-- The router and port at which a message of a place stands in a queue: those of a gate are its router and the port it came by (05 R154). -/
def State.siteOf (s : State) : Place → Option (Nat × Fin 6)
  | .input n p => some (n, p)
  | .detour n p side leg => detourSite n p side leg
  | .gate g p => some (s.gateRouter g, p)
  | .held g p => some (s.gateRouter g, p)
  | _ => none

/-- The port by which a message came to where it stands. -/
def placePort : Place → Fin 6
  | .input _ p => p
  | .gate _ p => p
  | .held _ p => p
  | .core _ p => p
  | _ => 0

/-- A place is at a core. -/
def Place.atCore (q : Place) (n : Nat) : Bool :=
  match q with
  | .core c _ => c == n
  | _ => false

/-- The message stands in a queue: an input queue, with what a gate behind it has not taken, or a queue of a detour. -/
def State.stands (s : State) (q : Place) (m : Msg) (f : Flying) : Bool :=
  f.msg.cls == m.cls && f.msg.lane == m.lane &&
    match q, f.place with
    | .input n p, .gate g r => r == p && s.gateRouter g == n
    | .input n p, .held g r => r == p && s.gateRouter g == n
    | q, p => p == q

/-- Flits of a message that stand where it is. -/
def Flying.flits (f : Flying) : Nat := if f.drop then 0 else f.msg.body.flits - f.lacks - f.gone

/-- Flits in the queue of a place that a message's channel has. -/
def State.queued (s : State) (q : Place) (m : Msg) : Nat := (s.msgs.filter (s.stands q m)).foldl (fun k f => k + f.flits) 0

/-- The FIFO banks that extend an input queue for a tensor's stream (05 R169, R434). -/
def State.banksFor (s : State) (n : Nat) (p : Fin 6) (b : Body) : Nat :=
  match s.routerCfg n, b.tensor with
  | some r, some t => (r.buffer.find? fun x => x.1 = t ∧ x.2.1 = p).elim 0 (·.2.2)
  | _, _ => 0

/-- The message whose flits are still coming into a queue: it holds the channel (03 R78). -/
def State.coming (s : State) (q : Place) (m : Msg) : Option Flying :=
  s.msgs.find? fun f => f.place == q && f.msg.cls == m.cls && f.msg.lane == m.lane && f.lacks != 0

/-- Flits the queue of a place holds: 8 on VC 0, and for a stream with FIFO banks 682 more a bank, 4 on VC 1; elsewhere, as many as come
(03 R78, 05 R169). -/
def State.depth (s : State) (q : Place) (m : Msg) : Nat :=
  match q with
  | .input n p => 8 + (if m.cls = 0 then 682 * s.banksFor n p m.body else 0)
  | .detour .. => 4
  | _ => m.body.flits

/-- Flits of a message that a queue takes now: none while another message holds its channel, else as far as there is room (03 R78). -/
def State.space (s : State) (q : Place) (m : Msg) : Nat :=
  if (s.coming q m).any fun f => f.msg != m then 0 else s.depth q m - s.queued q m

/-- Flits of a message that have still to come into a queue. -/
def State.lacking (s : State) (q : Place) (m : Msg) : Nat :=
  match s.coming q m with
  | some f => if f.msg = m then f.lacks else m.body.flits
  | none => m.body.flits

/-- A queue takes all that has still to come of a message. -/
def State.room (s : State) (q : Place) (m : Msg) : Bool := decide (s.lacking q m ≤ s.space q m)

/-- The queue beyond an output: the detour's, where the link is bypassed, else the neighbour's (03 R109). -/
def State.beyond (s : State) (n : Nat) (o : Fin 6) : Option Place :=
  match (s.router n).sideOf o with
  | some d => some (.detour n o d 0)
  | none => (neighbour n o).map fun k => .input k (opposite o)

/-- Flits of a message's channel are still in a box that a router's port took before the one it takes now: what follows waits for them, so that the
order stays (03 R85, R110, log 26). -/
def State.inOldBox (s : State) (n : Nat) (o : Fin 6) (m : Msg) : Bool :=
  s.msgs.any fun f => f.msg.cls == m.cls && f.msg.lane == m.lane && match f.place with
    | .detour a p d _ => a == n && p == o && (s.router n).sideOf o != some d
    | _ => false

/-- Flits of a message that output o takes now: its credits; none while it is held (03 R78, R111). -/
def State.credit (s : State) (n : Nat) (m : Msg) (o : Fin 6) : Nat :=
  match s.beyond n o with
  | some q => if (s.router n).held.contains o || s.inOldBox n o m then 0 else s.space q m
  | none => m.body.flits

/-- Output o of a router takes all that has still to go of a message, of which `gone` flits have. -/
def State.outOk (s : State) (n : Nat) (m : Msg) (gone : Nat) (o : Fin 6) : Bool := decide (m.body.flits - gone ≤ s.credit n m o)

/-- Flits of a message come into a queue, `gone` having gone another way; of one that is discarded the last flit ends it (03 R107). -/
def State.flow (s : State) (q : Place) (m : Msg) (gone x : Nat) : State :=
  match s.coming q m with
  | some c =>
    { s with msgs := swapMsg c (if c.drop && decide (c.lacks ≤ x) then none else some { c with lacks := c.lacks - x }) s.msgs }
  | none => { s with msgs := s.msgs ++ [{ place := q, msg := m, lacks := m.body.flits - gone - x, gone }] }

/-- A flit has got over the link of a router's port, which is so acknowledged (03 R79, R108). -/
def Router.crossed (r : Router) (p : Fin 6) (now : Word) : Router :=
  { r with retried := r.retried.filter fun x => x.1 ≠ p, acked := r.acked.filter (fun x => x.1 ≠ p) ++ [(p, now)] }

/-- Flits of a message leave a router by an output. -/
def State.send (s : State) (n : Nat) (m : Msg) (gone x : Nat) (o : Fin 6) : State :=
  match s.beyond n o with
  | some q => (s.onRouter n fun r => r.crossed o s.wcc).flow q m gone x
  | none => s

/-- Flits of a message leave by several outputs in step (03 R90). -/
def State.sendAll (s : State) (n : Nat) (m : Msg) (gone x : Nat) (outs : List (Fin 6)) : State := outs.foldl (fun t o => t.send n m gone x o) s

/-- A message is discarded where it stands: what has come of it now, and the rest as it comes (03 R107). -/
def State.discard (s : State) (f : Flying) : State :=
  { s with msgs := swapMsg f (if f.lacks = 0 then none else some { f with drop := true }) s.msgs }

/-- A message that stands where it is goes on by the outputs its head takes: all that is left of it, or, in step, as many flits as each output has
credit for; flits that go to no other router leave as they come. Nothing happens where no flit can go. The number is that of the flits gone, with
whether they were the last (03 R78, R90). -/
def State.pour (s : State) (n : Nat) (f : Flying) (outs : List (Fin 6)) : Option (State × Nat × Bool) :=
  let x := outs.foldl (fun k o => min k (s.credit n f.msg o)) f.flits
  if x = 0 then none
  else
    let last := f.lacks == 0 && x == f.flits
    let t : State := { s with msgs := swapMsg f (if last then none else some { f with gone := f.gone + x, outs }) s.msgs }
    some (t.sendAll n f.msg f.gone x outs, x, last)

/-- The message that stands first in an input queue on a lane. -/
def State.firstIn (s : State) (n : Nat) (p : Fin 6) (cls : Fin 6) (lane : Fin 2) : Option Flying :=
  s.msgs.find? fun f => f.place == .input n p && f.msg.cls == cls && f.msg.lane == lane

/-- A gate holds a tile of an input queue, so nothing behind it moves (05 R154). -/
def State.blockedByGate (s : State) (n : Nat) (p : Fin 6) (cls : Fin 6) (lane : Fin 2) : Bool :=
  s.msgs.any fun f => f.msg.cls == cls && f.msg.lane == lane && match f.place with
    | .held g q => q == p && s.gateRouter g == n
    | _ => false

/-- A core's message enters its router's local queue: with its last flit the core is done with it (14 R394). -/
def State.inject (s : State) (n : Nat) (m : Msg) (d : Core) : Option (State × Bool) :=
  let x := min (s.space (.input n 0) m) (s.lacking (.input n 0) m)
  if x = 0 then none
  else
    let last := x == s.lacking (.input n 0) m
    let t := s.flow (.input n 0) m 0 x
    some (if last then t.setCore n d else t, last)

/-- A core that is replaced has no more flits for its router: what came of its messages is all of them. -/
def State.entered (s : State) (n : Nat) : State :=
  { s with msgs := s.msgs.filterMap fun f => if f.place = .input n 0 ∧ f.lacks ≠ 0 then (if f.drop then none else some { f with lacks := 0 }) else some f }

/-- The messages of a list, each whole again where its last flit stands (08 R432). -/
def unwound (l : List Flying) : List Flying := (l.filter fun f => f.lacks = 0).map fun f => { f with gone := 0, outs := [] }

/-! ## Detours (03 R109, R110) -/

/-- The queue a detour's flits go to next: the next router's, where the link to it is live, and from the last one that of the dead link, once it is
empty (03 R110). -/
def State.detourNext (s : State) (n : Nat) (p side : Fin 6) (leg : Fin 3) (m : Msg) : Option Place :=
  let live := fun (o : Fin 6) => (detourSite n p side leg).any fun x => !(s.router x.1).dead.contains o
  match leg with
  | 0 => if live p then some (.detour n p side 1) else none
  | 1 => if live (opposite side) then some (.detour n p side 2) else none
  | 2 => (neighbour n p).bind fun k => if s.queued (.input k (opposite p)) m = 0 then some (.input k (opposite p)) else none

/-- The first message on the detour channel of a router's port. -/
def State.firstOnDetour (s : State) (n : Nat) (p : Fin 6) (cls : Fin 6) (lane : Fin 2) : Option Flying :=
  s.msgs.find? fun f => f.msg.cls == cls && f.msg.lane == lane && match f.place with
    | .detour a o d l => detourSite a o d l == some (n, p)
    | _ => false

/-- Flits on the detour channel of a router's port go on. -/
def State.transit (s : State) (n : Nat) (p : Fin 6) (cls : Fin 6) (lane : Fin 2) : Option State :=
  (s.firstOnDetour n p cls lane).bind fun f =>
    match f.place with
    | .detour a o d l =>
      (s.detourNext a o d l f.msg).bind fun q =>
        let x := min (s.space q f.msg) f.flits
        if x = 0 then none
        else
          let t : State := { s with msgs := swapMsg f (if f.lacks = 0 ∧ x = f.flits then none else some { f with gone := f.gone + x }) s.msgs }
          some ((t.flow q f.msg f.gone x).moved n)
    | _ => none

/-! ## Messages routed by coordinates (03 R85, R87, log 16) -/

/-- A message at its source, ready to enter its router by a port. -/
def State.emit (s : State) (n : Nat) (p : Fin 6) (m : Msg) : State := s.post (.source n p) m

/-- A reply goes to its requester from a router, which is then its source (03 R85). -/
def State.deliver (s : State) (from_ : Nat) (m : Msg) : State := s.emit from_ 0 { m with source := from_ }

/-- The router that a requester's replies go to: its own; for a peer's, the nearest that leads to it (02 R73). -/
def State.homeOf (s : State) (n : Nat) : Requester → Option Nat
  | .core c _ => some c
  | .gate g => some (s.gateRouter g)
  | .rim a => (agentRouters a).head?
  | .peer _ _ => s.exitRouter n

/-- The router that a message routed by coordinates travels to from a router, and the port it leaves by there; none where it is not routed so. -/
def State.bound (s : State) (n : Nat) (b : Body) : Option (Option Nat × Fin 6) :=
  let edge := fun (r : Requester) => match r with
    | .core _ _ => 0
    | .gate _ => 0
    | .rim _ => 5
    | .peer _ _ => 5
  match b with
  | .publication _ (some t) => some (some t, 5)
  | .request _ _ _ (some t) => some (some t, 5)
  | .reply _ r => some (s.homeOf n r, edge r)
  | .miss _ _ _ r => some (s.homeOf n r, edge r)
  | .carry _ c _ => some (some c, 0)
  | .control g _ => some (some (s.gateRouter g), 0)
  | .configWrite _ r => some (some r, 0)
  | .mem _ r e _ => some (some r, if e then 5 else 0)
  | _ => none

/-- The output that a message routed by coordinates takes at a router (03 R87). -/
def State.wayOf (s : State) (n : Nat) (b : Body) : Option (Fin 6) :=
  (s.bound n b).bind fun x => x.1.map fun t => if t = n then x.2 else portTo n t

/-- Where a message stands once it has left its last router by port 0 or 5: at its core or gate, or at the router's agent. -/
def endPlace (n : Nat) (p : Fin 6) (b : Body) : Option Place :=
  let home := fun (r : Requester) => match r with
    | .core c _ => some (Place.core c p)
    | .gate g => some (Place.gate g p)
    | .rim a => some (Place.agent a)
    | .peer _ _ => none
  match b with
  | .publication _ (some _) => (agentAt n).map Place.agent
  | .request _ _ _ (some _) => (agentAt n).map Place.agent
  | .reply _ r => home r
  | .miss _ _ _ r => home r
  | .carry _ c _ => some (.core c p)
  | .control g _ => some (.gate g p)
  | _ => none

/-- The messages at a source of a router's port: its own, and those that have come from peers by an Ethernet port there. -/
def State.atSource (s : State) (n : Nat) (p : Fin 6) (f : Flying) : Bool :=
  match f.place with
  | .source m q => m == n && q == p
  | .peer e from_ => p == 5 && portRouter e == n && (s.lostPeers.contains from_ || s.admitted n f.msg)
  | _ => false

/-- Flits of the first message at a source flow into the input queue they are for. -/
def State.sourceIn (s : State) (n : Nat) (p : Fin 6) (cls : Fin 6) (lane : Fin 2) : Option State :=
  (s.msgs.find? fun f => f.msg.cls == cls && f.msg.lane == lane && s.atSource n p f).bind fun f =>
    let x := min (s.space (.input n p) f.msg) f.flits
    if x = 0 then none
    else
      let t : State := { s with msgs := swapMsg f (if f.lacks = 0 ∧ x = f.flits then none else some { f with gone := f.gone + x }) s.msgs }
      some ((t.flow (.input n p) f.msg f.gone x).moved n)

/-- The peer of a name in a remote range (02 R73). -/
def Config.remote (g : Config) (name : BitVec 64) : Option (Fin 4096) :=
  (g.remotes.find? fun x => name &&& x.2.1 = x.1 &&& x.2.1).map (·.2.2)

/-- The peer that a message leaves for by port 5 of a router, where it leaves for one. -/
def State.peerOf (s : State) (n : Nat) : Body → Option (Fin 4096)
  | .publication t none => (s.cfgAt n).bind fun g => g.remote t.name
  | .request name _ _ none => (s.cfgAt n).bind fun g => g.remote name
  | .reply _ (.peer p _) => some p
  | .miss _ _ _ (.peer p _) => some p
  | _ => none

/-- A message goes on by outputs (03 R78, R90): toward a peer in frames, at a router that leads there, and held while the peer is declared lost
(02 R72, R73). The number is that of the flits gone, with whether they were the last. -/
def State.goOn (s : State) (n : Nat) (f : Flying) (outs : List (Fin 6)) : Option (State × Nat × Bool) :=
  match if outs.contains 5 then s.peerOf n f.msg.body else none with
  | none => (s.pour n f outs).map fun r => (r.1.moved n, r.2)
  | some peer =>
    if s.lostPeers.contains peer || !s.exits.contains n then none
    else (s.pour n f outs).map fun r => ((r.1.moved n).toPeer peer { f.msg with body := bodyFor f.msg.body } f.gone r.2.1, r.2)

/-- A message routed by coordinates that stands first in an input queue goes on; with its last flit it is where it was bound (03 R87). -/
def State.byCoords (s : State) (n : Nat) (p : Fin 6) (f : Flying) : Option State :=
  (s.wayOf n f.msg.body).bind fun o => (s.goOn n f [o]).map fun r =>
    if r.2.2 && (o == 0 || o == 5) then
      match endPlace n (if o = 0 then p else 5) f.msg.body with
      | some q => r.1.post q f.msg
      | none => r.1
    else r.1

/-! ## Event records (03 R116, Table 3-15) -/

/-- Word 0 of a record. -/
def eventWord0 (code x y port cls : Nat) (cpl : Bool) (part : Nat) : Word :=
  BitVec.ofNat 64 (code * 2 ^ 56 + x * 2 ^ 48 + y * 2 ^ 40 + port * 2 ^ 37 + cls * 2 ^ 34 + boolBit cpl * 2 ^ 33 + part * 2 ^ 16)

/-- A record joins the steward's event queue. -/
def State.raise (s : State) (w0 : Word) (name : BitVec 64) (tag : BitVec 16) (detail : Nat) : State :=
  { s with events := s.events ++ [#v[w0, s.wcc, name, BitVec.ofNat 64 (tag.toNat * 2 ^ 48 + detail % 2 ^ 48)]] }

/-- The number of the partition a router lies in; 0 outside every one: the manual gives no value there (03 R116, log 26). -/
def State.partNum (s : State) (n : Nat) : Nat :=
  match s.partOf n with
  | some p => p.1.val
  | none => 0

/-- An event of a router. -/
def State.raiseAt (s : State) (code n : Nat) (port cls : Nat) (cpl : Bool) (name : BitVec 64) (tag : BitVec 16) (detail : Nat) : State :=
  s.raise (eventWord0 code (coreX n) (coreY n) port cls cpl (s.partNum n)) name tag detail

/-- An event of a partition: X = 0xFF. -/
def State.raisePart (s : State) (code : Nat) (part : Fin 16) (detail : Nat) : State :=
  s.raise (eventWord0 code 0xFF 0 0 0 false part.val) 0 0 detail

/-- STRAY_TOKEN of a message at a router's port (03 R107). -/
def State.stray (s : State) (n : Nat) (p : Fin 6) (m : Msg) : State :=
  s.raiseAt 0x41 n p.val m.cls.val m.cpl m.body.label.1 m.body.label.2 0

/-! ## Judging a message's plane (03 R106, R107, R430) -/

/-- What a router makes of a message's CPL. -/
inductive Judgement where
  | pass | hold | stray
  deriving DecidableEq, Repr

/-- A router judges a message's plane against its active plane: one of the plane to come is held until the router swaps. -/
def State.judge (s : State) (n : Nat) (cpl : Bool) : Judgement :=
  if cpl = (s.router n).plane then .pass
  else
    match s.partOf n with
    | some p => if p.2.swap.contains n then .hold else .stray
    | none => .stray

/-- A message that meets an entry of a router: held while that entry is in error and being rewritten (01 R39), else judged. -/
def State.judgeEntry (s : State) (n : Nat) (e : Option CfgEntry) (cpl : Bool) : Judgement :=
  if e.any (s.router n).badEntries.contains then .hold else s.judge n cpl

end Sys2Proof.Machine
end

