-- ==== Sys2Proof/Machine/Pens.lean ====
section
/-! DEFINITION. Sys2Proof/Machine/Pens.lean: the pen store and the open iterations of a gate (05 R147 to R155): what it holds and frees, what
it binds, what is ready, what it asks for; and the ends of streams a gate has counted (03 R104, 14 R395). -/

namespace Sys2Proof.Machine

/-- A name and a tag. -/
abbrev Pair := BitVec 64 × BitVec 16

/-- The pair of a firing's subscription; none where void (05 R151). -/
def Firing.pair (f : Firing) (r : NameRec) : Option Pair :=
  let n := r.resolve f none none
  n.1.map fun i => (nameOf f.ns r.tensor i, n.2)

/-! ## The store (05 R148, R154, R155) -/

/-- Blocks the store's tiles take. -/
def Gate.blocks (g : Gate) : Nat := g.store.foldl (fun n t => n + t.tile.flits) 0

/-- The blocks of a task's pen store, and the tiles it indexes at most. -/
def Task.capacity (t : Task) : Nat := t.members.length * t.psblk
def Task.tileLimit (t : Task) : Nat := 256 * t.members.length

/-- The copy of a tile that the store holds. -/
def Gate.find (g : Gate) (p : Pair) : Option PenTile := g.store.find? fun t => !t.replaced && t.tile.is p.1 p.2

/-- An open iteration waits for the pair. -/
def Gate.needs (g : Gate) (p : Pair) : Bool :=
  g.iters.any fun i => i.subs.any fun x => x.1 == p.1 && x.2.1 == p.2 && x.2.2 == .waiting

/-- An open iteration is bound to the pair. -/
def Gate.binds (g : Gate) (p : Pair) : Bool :=
  g.iters.any fun i => i.subs.any fun x => x.1 == p.1 && x.2.1 == p.2 && x.2.2 == .bound

/-- A landing of the gate's firings still reads a copy: it stays pinned (05 R154). -/
def State.pins (s : State) (g : GateId) (x : PenTile) : Bool :=
  s.cores.any fun k => (k.2.firing.toList ++ k.2.stagedF).any fun f => f.gate == g && f.landings.any fun l => !l.done && l.copy == x.copy

/-- Copies that are replaced and that nothing pins any more are gone. -/
def Gate.prune (g : Gate) (pinned : PenTile → Bool) : Gate := { g with store := g.store.filter fun t => !t.replaced || pinned t }

/-- Tiles released in least-recently-bound order until `need` blocks and an index entry are free: those kept, those released. -/
def releaseTiles (keep : PenTile → Bool) (need free entries : Nat) : List PenTile → List PenTile × List Pair
  | [] => ([], [])
  | t :: ts =>
    if need ≤ free ∧ 0 < entries then (t :: ts, [])
    else if keep t then let r := releaseTiles keep need free entries ts; (t :: r.1, r.2)
    else let r := releaseTiles keep need (free + t.tile.flits) (entries + 1) ts; (r.1, (t.tile.name, t.tile.tag) :: r.2)

/-- The gate with room made for a tile of `need` blocks, where it can be made (05 R155). -/
def Gate.makeRoom (g : Gate) (t : Task) (pinned : PenTile → Bool) (need : Nat) : Gate :=
  let r := releaseTiles (fun x => pinned x || (!x.replaced && g.binds (x.tile.name, x.tile.tag))) need
    (t.capacity - g.blocks) (t.tileLimit - g.store.length) g.store
  { g with store := r.1, released := g.released ++ r.2.filter fun p => !g.released.contains p }

/-- The gate has the blocks and the index entry a tile needs. -/
def Gate.fits (g : Gate) (t : Task) (need : Nat) : Bool := decide (g.blocks + need ≤ t.capacity) && decide (g.store.length < t.tileLimit)

/-! ## Iterations (05 R150, R153) -/

/-- A subscription of the pair that waits becomes another state. -/
def setSubs (p : Pair) (to_ : SubState) (l : List (BitVec 64 × BitVec 16 × SubState)) : List (BitVec 64 × BitVec 16 × SubState) :=
  l.map fun x => if x.1 = p.1 ∧ x.2.1 = p.2 ∧ x.2.2 = .waiting then (x.1, x.2.1, to_) else x

/-- Iterations that have become ready take their age, lower ordinals first (05 R161). -/
def settle : Nat → List Iter → Nat × List Iter
  | n, [] => (n, [])
  | n, i :: is =>
    if i.ready = none ∧ (i.subs.all fun x => x.2.2 != .waiting) then
      let r := settle (n + 1) is
      (r.1, { i with ready := some n } :: r.2)
    else
      let r := settle n is
      (r.1, i :: r.2)

/-- The gate with its ready iterations aged. -/
def Gate.settled (g : Gate) : Gate :=
  let r := settle g.nextReady g.iters
  { g with nextReady := r.1, iters := r.2 }

/-- Every waiting subscription of the pair becomes another state. -/
def Gate.resolve (g : Gate) (p : Pair) (to_ : SubState) : Gate :=
  ({ g with iters := g.iters.map fun i => { i with subs := setSubs p to_ i.subs } } : Gate).settled

/-- A held tile is the most recently bound. -/
def Gate.touch (g : Gate) (p : Pair) : Gate :=
  let r := g.store.partition fun t => !t.replaced && t.tile.is p.1 p.2
  { g with store := r.2 ++ r.1 }

/-- A tile joins the store and binds the iterations that wait for it (05 R154). -/
def Gate.store_ (g : Gate) (t : Tile) : Gate :=
  let p := (t.name, t.tag)
  ({ g with store := g.store ++ [{ tile := t, servable := true, copy := g.copies }], copies := g.copies + 1, asked := g.asked.filter (· ≠ p),
            released := g.released.filter (· ≠ p) } : Gate).resolve p .bound

/-- The held copy of a tile gives way to another: it stays while a landing reads it (05 R154). -/
def Gate.replaceCopy (g : Gate) (pinned : PenTile → Bool) (x : Tile) : Gate :=
  ({ g with store := g.store.map fun y => if y.tile.is x.name x.tag then { y with replaced := true } else y } : Gate).prune pinned

/-- The gate accepts a tile, in place of the copy it holds where it holds one; none where it holds it under back-pressure (05 R154). -/
def Gate.accept (g : Gate) (t : Task) (pinned : PenTile → Bool) (x : Tile) : Option Gate :=
  let h := g.prune pinned
  if h.needs (x.name, x.tag) || decide (t.preblk < t.capacity - h.blocks) then
    let d := (h.replaceCopy pinned x).makeRoom t pinned x.flits
    if d.fits t x.flits then some (d.store_ x) else none
  else none

/-! ## Requests of a gate -/

/-- A request leaves the gate's router, its name and tag the pair's (05 R153). -/
def State.gateRequest (s : State) (g : GateId) (p : Pair) : State :=
  let r := s.gateRouter g
  let s := s.onGate g fun x => { x with asked := if x.asked.contains p then x.asked else x.asked ++ [p] }
  s.emit r 0 { cls := 1, cpl := (s.router r).plane, source := r, body := .request p.1 p.2 (.gate g) none }

/-! ## Ends of streams (03 R104, 14 R395) -/

/-- Tasks of a configuration that publish a tensor. -/
def Config.publishers (k : Config) (tensor : BitVec 20) : List Task := k.tasks.filter fun t => t.pubs.any fun r => r.tensor = tensor

/-- The end of a task's stream has come from every member of its pen. -/
def Task.endedIn (t : Task) (tensor : BitVec 20) (l : List (BitVec 20 × Nat)) : Bool := t.members.all fun m => l.contains (tensor, m)

/-- Streams whose end a gate has counted. -/
def Gate.ends (g : Gate) (k : Config) : Nat :=
  let tensors := (g.ended.map (·.1)).eraseDups
  tensors.foldl (fun n x => n + ((k.publishers x).filter fun t => t.endedIn x g.ended).length) 0

/-- Ends the gate still takes from a member for a tensor: one a task that publishes it there. -/
def Config.endsFrom (k : Config) (tensor : BitVec 20) (member : Nat) : Nat :=
  ((k.publishers tensor).filter fun t => t.members.contains member).length

end Sys2Proof.Machine
end

