-- ==== Sys2Proof/Machine/Names.lean ====
section
/-! DEFINITION. Sys2Proof/Machine/Names.lean: publications, requests and their replies at routers, cores and gates (03 R82 to R92, R103 to R107,
05 R153 to R155, 14 R394 to R396). -/

namespace Sys2Proof.Machine

/-! ## What a core's fabric port holds first (14 R393) -/

/-- The bursts of a stream's tokens: runs of its scale groups (14 R394). -/
def Desc.bursts (d : Desc) (m : Memory) : List Burst :=
  let run := if d.slog = 0 then d.tokens else d.scaleRun
  (List.range ((d.tokens + run - 1) / run)).map fun b =>
    { scale := BitVec.ofNat 8 (d.scale m (b * run)), fmt := d.fmt, eos := false
      tokens := (List.range (min run (d.tokens - b * run))).map fun j =>
        { ev := BitVec.allOnes 16, bits := BitVec.ofNat 512 (d.tokenBits m (b * run + j)) } }

/-- A place of the fabric port empties, its RSB entry frees. -/
def Core.portDone (c : Core) (rsb : Option Nat) : Core := ({ c with port := c.port.tail } : Core).freeEntry rsb

/-- The publication at the head of a core's port, once the scoreboard lets it read, and the core after it. -/
def Core.pubHead (c : Core) : Option (Tile × Core) :=
  match c.port with
  | [] => none
  | j :: _ =>
    match j.op with
    | .pub name tag d back live _ =>
      if c.rsbClear j.rsb then some ({ name, tag, back, live, bursts := d.bursts c.spad }, c.portDone j.rsb) else none
    | _ => none

/-- The request of a `fetch` at the head of a core's port, and the core after it. -/
def Core.fetchHead (c : Core) : Option (Pair × Word × Core) :=
  match c.port with
  | [] => none
  | j :: _ =>
    match j.op with
    | .fetch name tag xid => some ((name, tag), xid, c.portDone j.rsb)
    | _ => none

/-- The first word in error that an operation's read intervals hold (01 R39). -/
def Core.badRead (c : Core) (rsb : Option Nat) : Option Nat :=
  match rsb.bind c.entry with
  | some e => c.badWords.find? fun w => meets (spanOf w 1) e.read0 || meets (spanOf w 1) e.read1
  | none => none

/-- A deferred ECC_UNCORR of an operation that read a word in error, unless one of that word waits or the firing does not run. -/
def Core.eccFault (c : Core) (addr : Nat) : Option Core :=
  if c.running && !c.dfaults.any fun d => d.code == trapEccUncorr && d.addr == BitVec.ofNat 64 addr then
    some { c with dfaults := c.dfaults ++ [{ code := trapEccUncorr, addr := BitVec.ofNat 64 addr, space := 1, access := 0, xch := 7,
                                             seq := 0, xid := 0 }] }
  else none

/-- The word in error that the operation at the head of a core's port would read. -/
def Core.portBad (c : Core) : Option Nat := (c.port.head?).bind fun j => c.badRead j.rsb

/-! ## Mirrors (03 R91) -/

/-- Blocks of a router's mirror that no pen store reserves (05 R148). -/
def State.mirrorBlocks (s : State) (n : Nat) : Nat :=
  match s.cfgAt n with
  | some g => 2048 - g.tasks.foldl (fun k t => if t.members.contains n then k + t.psblk else k) 0
  | none => 2048

/-- Blocks the tiles of a mirror have taken. -/
def mirrorUsed (l : List MirrorTile) : Nat := l.foldl (fun n t => n + t.got) 0

/-- Tiles that may go do so, least recently used first, until `need` blocks and an index entry are free. -/
def evict (keep : MirrorTile → Bool) (need free entries : Nat) : List MirrorTile → List MirrorTile
  | [] => []
  | t :: ts =>
    if need ≤ free ∧ 0 < entries then t :: ts
    else if keep t then t :: evict keep need free entries ts
    else evict keep need (free + t.got) (entries + 1) ts

/-- A router serves a tile to a request: the tile's last flit has not left its mirror (03 R92). -/
def State.serving (s : State) (n : Nat) (x : Tile) : Bool :=
  s.msgs.any fun f => f.msg.source == n && (f.place == .source n 0 || (f.place == .input n 0 && f.lacks != 0)) && match f.msg.body with
    | .reply t _ => t.is x.name x.tag
    | _ => false

/-- A tile stays in its mirror while another's flits take blocks: it is pinned, or still arriving, or the held copy of the same tile (03 R91). -/
def State.mirrorKeeps (s : State) (n : Nat) (x : Tile) (t : MirrorTile) : Bool := s.serving n t.tile || !t.stored || t.tile.is x.name x.tag

/-- An index entry for a tile whose head arrives, where there is one (03 R91). -/
def openMirror (keep : MirrorTile → Bool) (l : List MirrorTile) (x : Tile) : List MirrorTile :=
  let m := evict keep 0 0 (256 - l.length) l
  if m.length < 256 then m ++ [{ tile := x, stored := false, got := 0 }] else m

/-- Flits of a tile that is arriving take their blocks, or storing it is abandoned; with the last the tile takes the place of any copy held, as the
most recently used (03 R91). -/
def growMirror (keep : MirrorTile → Bool) (cap : Nat) (l : List MirrorTile) (x : Tile) (n : Nat) (last : Bool) : List MirrorTile :=
  match l.find? fun t => !t.stored && t.tile == x with
  | none => l
  | some t =>
    let m := evict keep n (cap - mirrorUsed l) 1 l
    let others := m.filter fun y => y ≠ t
    if cap < mirrorUsed m + n then others
    else if last then others.filter (fun y => !y.tile.is x.name x.tag) ++ [{ t with stored := true, got := t.got + n }]
    else m.map fun y => if y = t then { t with got := t.got + n } else y

/-- A router stores flits of a tile in its mirror, from its head on. -/
def State.keepFlits (s : State) (n : Nat) (x : Tile) (head : Bool) (k : Nat) (last : Bool) : State :=
  let cap := s.mirrorBlocks n
  let keep := s.mirrorKeeps n x
  s.onRouter n fun r => { r with mirror := growMirror keep cap (if head then openMirror keep r.mirror x else r.mirror) x k last }

/-! ## Publications (03 R88 to R90) -/

/-- The name-match entry that decides for a name: the first that matches (03 R88). -/
def RouterCfg.matchName (r : RouterCfg) (name : BitVec 64) : Option MatchEntry :=
  r.table.find? fun e => name &&& e.mask = e.value &&& e.mask

/-- The entry of a router that decides for a name, as an entry of its plane. -/
def State.entryFor (s : State) (n : Nat) (name : BitVec 64) : Option CfgEntry :=
  (s.routerCfg n).bind fun r => (r.table.findIdx? fun e => name &&& e.mask = e.value &&& e.mask).map CfgEntry.name

/-- Gates at a router with a PUSH subscription to a name's tensor (16 R414). -/
def State.gatesFor (s : State) (n : Nat) (name : BitVec 64) : List GateId :=
  (s.gates.filter fun g => (s.ctxs[g.id.ctx].cfg).any (fun k => k.ns == nsOf name) && s.gateRouter g.id == n &&
    match s.taskOf g.id with
    | some t => t.subs.any fun r => r.tensor == tensorOf name && !r.pull
    | none => false).map (·.id)

/-- A publication whose last flit leaves by port 0 reaches the gates here. -/
def State.toGates (s : State) (n : Nat) (p : Fin 6) (m : Msg) (name : BitVec 64) : State :=
  (s.gatesFor n name).foldl (fun t g => t.post (.gate g p) m) s

/-- The copy of a BACK publication leaves its first router along the default route, its DX and DY set (03 R89). -/
def State.backCopy (s : State) (n : Nat) (m : Msg) (t : Tile) : State :=
  match s.routerCfg n with
  | some r => s.emit n (if m.source = n then 0 else 5) { m with body := .publication t (some r.target) }
  | none => s

/-- The source that stands for the ingress port of a router (04 R121): a number past every core's. -/
def ingressSource (n : Nat) : Nat := Sys2Proof.Config.cores + n

/-- The outputs that a publication which stands first in an input queue takes. -/
def State.pubOuts (s : State) (n : Nat) (f : Flying) (t : Tile) : List (Fin 6) :=
  if f.gone ≠ 0 then f.outs else ((s.routerCfg n).bind fun r => r.matchName t.name).elim [] (·.ports)

/-- A publication is kept here: its entry keeps it, or, where no entry matches it, it is at its publisher's own router (03 R88, R89). -/
def State.keeps (s : State) (n : Nat) (p : Fin 6) (m : Msg) (t : Tile) : Bool :=
  match (s.routerCfg n).bind fun r => r.matchName t.name with
  | none => p == 0 || m.source == ingressSource n
  | some e => e.keep

/-- A publication that stands first in an input queue goes on by its outputs, and its flits are stored where it is kept (03 R88 to R91). -/
def State.pubStep (s : State) (n : Nat) (p : Fin 6) (f : Flying) (t : Tile) : Option State :=
  let outs := s.pubOuts n f t
  (s.goOn n f outs).map fun r =>
    let u := r.1.keepFlits n t (decide (f.gone = 0) && s.keeps n p f.msg t) r.2.1 r.2.2
    if r.2.2 && outs.contains 0 then u.toGates n p f.msg t.name else u

/-- The publication of the core of a router that stands first at its port, as a message. -/
def State.pubOfCore (s : State) (n : Nat) : Option (Msg × Tile × Core) :=
  match s.core n with
  | some c =>
    if c.works && c.portBad.isNone then
      (c.pubHead).map fun (t, d) => ({ cls := 0, cpl := (s.router n).plane, source := n, body := .publication t none }, t, d)
    else none
  | none => none

/-- The operation at the head of a core's port reads a word in error: it is withheld, and the core faults (01 R39, 08 R243). -/
def State.portFault (s : State) (n : Nat) : Option State :=
  s.coreEvent n fun c => (c.portBad).bind fun a => (c.eccFault a).map fun d => (d, [])

/-- A publication enters the fabric from the core of a router; a copy of one with BACK goes to the rim agent (03 R89, 14 R394). -/
def State.pubEnters (s : State) (n : Nat) : Option State :=
  match s.pubOfCore n with
  | some (m, t, d) => (s.inject n m d).map fun x => (if x.2 && t.back then x.1.backCopy n m t else x.1).moved n
  | none => s.portFault n

/-- The class 0 message that stands first in an input queue goes on: a publication is judged by its head, and matched; a reply or a BACK copy goes by its
coordinates (03 R87, R88, R107, R430). -/
def State.pubQueued (s : State) (n : Nat) (p : Fin 6) (lane : Fin 2) : Option State :=
  (s.firstIn n p 0 lane).bind fun f =>
    if f.drop then none
    else
      match f.msg.body with
      | .publication t none =>
        (match if f.gone = 0 then s.judgeEntry n (s.entryFor n t.name) f.msg.cpl else .pass with
         | .hold => none
         | .stray => some ((s.discard f).stray n p f.msg)
         | .pass => s.pubStep n p f t)
      | _ => s.byCoords n p f

/-- What a channel of a class does: the detour channel passes on; on VC 0 the first message goes on, else one at its source enters, else `enters`. -/
def State.channel (s : State) (n : Nat) (ch : Chan) (cls : Fin 6) (queued enters : Option State) : Option State :=
  if ch.detour then s.transit n ch.port cls ch.lane
  else
    match if s.blockedByGate n ch.port cls ch.lane then none else queued with
    | some x => some x
    | none => match s.sourceIn n ch.port cls ch.lane with
      | some x => some x
      | none => if ch.port = 0 then enters else none

/-- PUBLICATION_ARRIVAL (03 R88): a channel of class 0. -/
def evPublicationArrival (router : Nat) (ch : Chan) (s : State) : Option State :=
  s.channel router ch 0 (s.pubQueued router ch.port ch.lane) (s.pubEnters router)

/-! ## Requests (03 R89, R92) -/

/-- A tile a router serves: from its mirror, or from the pen store of a gate there (14 R396). -/
inductive Probe where
  | served (t : Tile) | arriving | absent

/-- The mirror and the pen-store blocks of a router, probed for a pair (03 R92, 14 R396). -/
def State.probe (s : State) (n : Nat) (p : Pair) : Probe :=
  let held := (s.router n).mirror.filter fun t => t.tile.is p.1 p.2
  match held.find? (·.stored) with
  | some t => .served t.tile
  | none =>
    match (s.gates.filter fun g => s.gateRouter g.id = n).findSome? fun g => g.find p with
    | some t => if t.servable then .served t.tile else .arriving
    | none => if held.isEmpty then .absent else .arriving

/-- A served tile is the mirror's most recently used. -/
def touchMirror (l : List MirrorTile) (p : Pair) : List MirrorTile :=
  let r := l.partition fun t => t.tile.is p.1 p.2
  r.2 ++ r.1

/-- The reply to a request leaves the router that serves it (03 R92). -/
def State.serve (s : State) (n : Nat) (p : Pair) (t : Tile) (to_ : Requester) : State :=
  ((s.onRouter n fun r => { r with mirror := touchMirror r.mirror p }).moved n).deliver n
    { cls := 0, cpl := (s.router n).plane, source := n, body := .reply t to_ }

/-- The port by which a request that is not on the default route leaves a router, its entry's FETCHPORT; none where it takes the default route. -/
def State.fetchPort (s : State) (n : Nat) (name : BitVec 64) : Option (Fin 6) :=
  ((s.routerCfg n).bind fun r => r.matchName name).bind (·.fetch)

/-- A request that leaves by port 5 for no peer stands at the router's agent. -/
def State.atEdge (s : State) (n : Nat) (f : Flying) (r : State × Nat × Bool) : State :=
  match s.peerOf n f.msg.body, agentAt n with
  | none, some a => r.1.post (.agent a) f.msg
  | _, _ => r.1

/-- A request moves on: toward its default-route target, or by its entry's port, or onto the default route (03 R87 to R89). -/
def State.forward (s : State) (n : Nat) (p : Fin 6) (f : Flying) (k : Pair) (to_ : Requester) (target : Option Nat) : Option State :=
  match target, s.fetchPort n k.1 with
  | some _, _ => s.byCoords n p f
  | none, some o =>
    if o = 0 ∨ (o ≠ 5 ∧ (neighbour n o).isNone) then none
    else (s.goOn n f [o]).map fun r => if o = 5 then s.atEdge n f r else r.1
  | none, none =>
    (s.routerCfg n).bind fun r =>
      let g : Flying := { f with msg := { f.msg with body := .request k.1 k.2 to_ (some r.target) } }
      ({ s with msgs := swapMsg f (some g) s.msgs } : State).byCoords n p g

/-- A request at a router: served from there, waiting for a tile still arriving, or moving on (03 R92). -/
def State.request (s : State) (n : Nat) (p : Fin 6) (f : Flying) (k : Pair) (to_ : Requester) (target : Option Nat) : Option State :=
  let gone : State := { s with msgs := swapMsg f none s.msgs }
  match s.probe n k with
  | .served t => some (gone.serve n k t to_)
  | .arriving => some ((gone.onRouter n fun r => { r with waiting := r.waiting ++ [f.msg] }).moved n)
  | .absent => s.forward n p f k to_ target

/-- The request of the `fetch` that stands first at the port of a router's core enters the fabric. -/
def State.requestEnters (s : State) (n : Nat) : Option State :=
  match s.core n with
  | some c =>
    if c.works then
      (c.fetchHead).bind fun (p, xid, d) =>
        (s.inject n { cls := 1, cpl := (s.router n).plane, source := n, body := .request p.1 p.2 (.core n xid) none } d).map fun x => x.1.moved n
    else none
  | none => none

/-- The class 1 message that stands first in an input queue: a request is judged where it is not on the default route; a configuration write waits
at its own router; the others go by their coordinates (03 R87, R92, R103, R430). -/
def State.requestQueued (s : State) (n : Nat) (p : Fin 6) (lane : Fin 2) : Option State :=
  (s.firstIn n p 1 lane).bind fun f =>
    match f.msg.body with
    | .request a b to_ t =>
      (match if t.isSome then .pass else s.judgeEntry n (s.entryFor n a) f.msg.cpl with
       | .hold => none
       | .stray => some ((s.discard f).stray n p f.msg)
       | .pass => s.request n p f (a, b) to_ t)
    | .configWrite _ r => if r = n then none else s.byCoords n p f
    | _ => s.byCoords n p f

/-- REQUEST_ARRIVAL (03 R92): a channel of class 1. -/
def evRequestArrival (router : Nat) (ch : Chan) (s : State) : Option State :=
  s.channel router ch 1 (s.requestQueued router ch.port ch.lane) (s.requestEnters router)

/-- The first waiting request whose tile has come or gone, and the others. -/
def takeWaiting (ready : Pair → Bool) : List Msg → Option (Msg × Pair × Requester × Option Nat × List Msg)
  | [] => none
  | m :: ms =>
    match m.body with
    | .request a b to_ t =>
      if ready (a, b) then some (m, (a, b), to_, t, ms)
      else (takeWaiting ready ms).map fun (x, p, q, t, l) => (x, p, q, t, m :: l)
    | _ => (takeWaiting ready ms).map fun (x, p, q, t, l) => (x, p, q, t, m :: l)

/-- REQUEST_RESUME (03 R92): the tile is served; a request whose tile has been abandoned goes on from its router's own queue. -/
def evRequestResume (router : Nat) (s : State) : Option State :=
  let ready := fun p => match s.probe router p with
    | .arriving => false
    | _ => true
  match takeWaiting ready (s.router router).waiting with
  | some (m, p, to_, _, l) =>
    let t := s.onRouter router fun r => { r with waiting := l }
    (match s.probe router p with
     | .served x => some (t.serve router p x to_)
     | _ => some ((t.emit router 0 m).moved router))
  | none => none

/-! ## Tiles at a gate (05 R153 to R155) -/

/-- The tile a message carries. -/
def bodyTile : Body → Option Tile
  | .publication t _ => some t
  | .reply t _ => some t
  | _ => none

/-- A tile of a stream whose end the gate has counted, while its plane drains (03 R104). -/
def State.lateTile (s : State) (g : Gate) (m : Msg) (t : Tile) : Bool :=
  match m.body, s.partOf (s.gateRouter g.id), s.ctxs[g.id.ctx].cfg with
  | .publication _ _, some (_, p), some k =>
    p.complete && !p.swapped && (k.publishers (tensorOf t.name)).any fun x =>
      x.members.contains m.source && x.endedIn (tensorOf t.name) g.ended
  | _, _, _ => false

/-- The gate still takes an end of a tensor's stream from a member. -/
def State.takesEnd (s : State) (g : Gate) (key : BitVec 20 × Nat) : Bool :=
  match s.ctxs[g.id.ctx].cfg with
  | some k => decide ((g.ended.filter fun x => x == key).length < k.endsFrom key.1 key.2)
  | none => false

/-- The end of a stream from one member reaches a gate: counted once, else stray (14 R395). -/
def State.countEnd (s : State) (g : Gate) (n : Nat) (p : Fin 6) (m : Msg) (t : Tile) : State :=
  if s.takesEnd g (tensorOf t.name, m.source) then
    s.onGate g.id fun x => { x with ended := x.ended ++ [(tensorOf t.name, m.source)] }
  else s.stray n p m

/-- The pen store with a tile accepted, where the gate accepts it. -/
def State.acceptTile (s : State) (g : Gate) (t : Tile) : Option State :=
  match s.taskOf g.id with
  | none => none
  | some k => (g.accept k (s.pins g.id) t).map fun d => s.onGate g.id fun _ => d

/-- The first tile that has reached a gate behind none it holds at its port. -/
def State.atGate (s : State) (g : GateId) : Option (Flying × Fin 6 × Tile × List Flying) :=
  match takeMsg (fun f => f.msg.cls == 0 && match f.place with
      | .gate h q => h == g && !s.msgs.any fun e => e.place == .held g q
      | _ => false) s.msgs with
  | some (f, rest) =>
    (match f.place, bodyTile f.msg.body with
     | .gate _ q, some t => some (f, q, t, rest)
     | _, _ => none)
  | none => none

/-- GATE_TILE_ARRIVAL (05 R154). -/
def evGateTileArrival (gate : GateId) (s : State) : Option State :=
  match s.gate gate, s.atGate gate with
  | some g, some (f, q, t, rest) =>
    let n := s.gateRouter gate
    let s' := { s with msgs := rest }
    (match s.judge n f.msg.cpl with
     | .hold => none
     | .stray => some (s'.stray n q f.msg)
     | .pass =>
       if t.eos then some ((s'.countEnd g n q f.msg t).moved n)
       else if s.lateTile g f.msg t then some (s'.stray n q f.msg)
       else
         match s'.acceptTile g t with
         | some x => some (x.moved n)
         | none => some (s'.post (.held gate q) f.msg))
  | _, _ => none

/-- The first tile a gate holds that it now accepts, and the state then. -/
def State.acceptHeld (s : State) (g : Gate) : List Flying → Option State
  | [] => none
  | f :: fs =>
    match f.place, bodyTile f.msg.body with
    | .held h _, some t =>
      if h = g.id then
        match ({ s with msgs := s.msgs.erase f } : State).acceptTile g t with
        | some x => some (x.moved (s.gateRouter g.id))
        | none => s.acceptHeld g fs
      else s.acceptHeld g fs
    | _, _ => s.acceptHeld g fs

/-- HELD_TILE_ACCEPT (05 R154). -/
def evHeldTileAccept (gate : GateId) (s : State) : Option State :=
  match s.gate gate with
  | some g => s.acceptHeld g s.msgs
  | none => none

/-! ## Miss replies (03 R92, 05 R159, 14 R396) -/

/-- A `fetch` gets a miss reply: a deferred fault of its code (14 R396). -/
def Core.missFetch (c : Core) (xid : Word) (code : Byte) : Core :=
  { c with
    fetches := c.fetches.map fun f => if f.xid = xid then { f with missed := true } else f
    dfaults := c.dfaults ++ [{ code, addr := 0, space := 0, access := 3, xch := 3, seq := 0, xid }] }

/-- The miss reply stands at its requester. -/
def missAt (to_ : Requester) (f : Flying) : Bool :=
  match f.msg.body with
  | .miss _ _ _ r => r == to_ && (match f.place with
    | .core _ _ | .gate _ _ => true
    | _ => false)
  | _ => false

/-- MISS_REPLY_ARRIVAL (03 R92). -/
def evMissReplyArrival (to_ : Requester) (s : State) : Option State :=
  match takeMsg (missAt to_) s.msgs with
  | none => none
  | some (f, rest) =>
    let s' := { s with msgs := rest }
    match f.msg.body with
    | .miss name tag code _ =>
      let n := match to_ with
        | .core c _ => c
        | .gate g => s.gateRouter g
        | _ => 0
      (match s.judge n f.msg.cpl with
       | .hold => none
       | .stray => some (s'.stray n (placePort f.place) f.msg)
       | .pass =>
         match to_ with
         | .core c xid => (s'.coreEvent c fun k => if k.works then some (k.missFetch xid code, []) else none).map fun t => t.moved n
         | .gate g =>
           some ((s'.onGate g fun x => ({ x with asked := x.asked.filter (· ≠ (name, tag)) } : Gate).resolve (name, tag) (.failed code)).moved n)
         | _ => some s')
    | _ => none

/-! ## Configuration writes (03 R103) -/

/-- The configuration write for a router that stands in one of its input queues. -/
def writeAt (router : Nat) (f : Flying) : Bool :=
  match f.place, f.msg.body with
  | .input n _, .configWrite _ r => n == router && r == router
  | _, _ => false

/-- A context of a partition is LOADING: the shadow plane is for it. -/
def State.awaited (s : State) (part : Fin 16) : Bool := (List.finRange 8).any fun k => s.ctxs[k].part == part && s.ctxs[k].state == .loading

/-- CONFIG_WRITE (03 R103): a router's write of the shadow plane is accepted, and with the last of them that plane is complete; one that names the
active plane is discarded and reported. -/
def evConfigWrite (router : Nat) (s : State) : Option State :=
  (takeMsg (writeAt router) s.msgs).bind fun x =>
    match x.1.msg.body with
    | .configWrite pl _ =>
      let t := ({ s with msgs := x.2 } : State).moved router
      some (if pl = (s.router router).plane then t.stray router (placePort x.1.place) x.1.msg
        else match s.partOf router with
          | some (i, _) => t.onPart i fun q =>
              { q with writes := q.writes.filter (· ≠ router)
                       complete := q.complete || (!q.writes.isEmpty && q.writes.all (· == router) && s.awaited i) }
          | none => t)
    | _ => none

def execPublicationArrival (router : Nat) (ch : Chan) (s : State) : Host.Outcome State Fault Refusal :=
  event (evPublicationArrival router ch s) s
def execRequestArrival (router : Nat) (ch : Chan) (s : State) : Host.Outcome State Fault Refusal :=
  event (evRequestArrival router ch s) s
def execRequestResume (router : Nat) (s : State) : Host.Outcome State Fault Refusal := event (evRequestResume router s) s
def execGateTileArrival (gate : GateId) (s : State) : Host.Outcome State Fault Refusal := event (evGateTileArrival gate s) s
def execHeldTileAccept (gate : GateId) (s : State) : Host.Outcome State Fault Refusal := event (evHeldTileAccept gate s) s
def execMissReplyArrival (to_ : Requester) (s : State) : Host.Outcome State Fault Refusal := event (evMissReplyArrival to_ s) s
def execConfigWrite (router : Nat) (s : State) : Host.Outcome State Fault Refusal := event (evConfigWrite router s) s

end Sys2Proof.Machine
end

