-- ==== Sys2Proof/Machine/Stats.lean ====
section
/-! DEFINITION. Sys2Proof/Machine/Stats.lean: the statistics instructions at issue, and what their queued operations do (13 R373 to R376). -/

namespace Sys2Proof.Machine

/-! ## Updates and merges (13 R373, R374) -/

/-- A statistics form whose destination is a w register: empty from issue until the operation completes (13 R360). -/
def statReq (c : Core) (w : Fin 8) (srcs : List Src) (t : Option TrapInfo) (op : EngOp) (r0 r1 : Option Span) : SlotReq :=
  { srcs, dests := [.w w], busy := c.queueFull .stats || ((r0.isSome || r1.isSome) && c.rsbFull)
    result := checked t (.go [.empty (.w w), .engine .stats op r0 r1 none]) }

/-- `mupd` (13 R373). -/
def execMupd (p : Pred) (f : Form.Mupd) (s : State) : Host.Outcome State Fault Refusal :=
  slot true p (fun _ c k =>
    let x := c.q[f.q]
    statReq c f.w [srcW f.w] (firstTrap [c.streamsTrap k [(x, false)], tripleTrap k x]) (.mupd f.w c.regs.w[f.w] x none one32)
      (some x.hull) none) s

/-- `mupdw` with a scalar weight (13 R373). -/
def execMupdw (p : Pred) (f : Form.Mupdw) (s : State) : Host.Outcome State Fault Refusal :=
  slot true p (fun _ c k =>
    let x := c.q[f.q]
    statReq c f.w [srcW f.w, srcS f.s f.ts] (firstTrap [c.streamsTrap k [(x, false)], tripleTrap k x])
      (.mupd f.w c.regs.w[f.w] x none ((c.regs.gets f.s).setWidth 32)) (some x.hull) none) s

/-- `mupdw` with a stream of weights (13 R373). -/
def execMupdwStream (p : Pred) (f : Form.MupdwQ) (s : State) : Host.Outcome State Fault Refusal :=
  slot true p (fun _ c k =>
    let x := c.q[f.q]
    let v := c.q[f.qv]
    statReq c f.w [srcW f.w]
      (firstTrap [c.streamsTrap k [(x, false), (v, false)], tripleTrap k x, tripleTrap k v, streamCfgIf k (!sameShape x v)])
      (.mupd f.w c.regs.w[f.w] x (some v) one32) (some x.hull) (some v.hull)) s

/-- `mmerge` (13 R374). -/
def execMmerge (p : Pred) (f : Form.Mw2) (s : State) : Host.Outcome State Fault Refusal :=
  slot true p (fun _ c _ => statReq c f.w [srcW f.w, srcW f.v] none (.mmerge f.w c.regs.w[f.w] c.regs.w[f.v]) none none) s

/-- `mmerge.lanes` (13 R374). -/
def execMmergeLanes (p : Pred) (f : Form.Mw2L) (s : State) : Host.Outcome State Fault Refusal :=
  slot true p (fun _ c _ => statReq c f.w [srcW f.v] none (.mmergeLanes f.w c.regs.w[f.v]) none none) s

/-- `mclr` (13 R374). -/
def execMclr (p : Pred) (f : Form.W1) (s : State) : Host.Outcome State Fault Refusal :=
  slot true p (fun _ c _ => statReq c f.w [] none (.mclr f.w) none none) s

/-! ## Drains, loads and stores (13 R375, R376) -/

/-- `mdrain` to a register (13 R375). -/
def execMdrain (p : Pred) (f : Form.Mdrain) (s : State) : Host.Outcome State Fault Refusal :=
  slot true p (fun _ c _ =>
    { srcs := if f.kind = 3 then [srcW f.w, srcS f.s f.ts] else [srcW f.w], dests := [.v f.d], busy := c.queueFull .stats
      result := .go [.empty (.v f.d),
        .engine .stats (.mdrain f.d f.kind.val c.regs.w[f.w] ((c.regs.gets f.s).setWidth 32)) none none none] }) s

/-- `mdrain.norm` (13 R375). -/
def execMdrainNorm (p : Pred) (f : Form.MdrainN) (s : State) : Host.Outcome State Fault Refusal :=
  slot true p (fun _ c k =>
    let x := c.q[f.q]
    let y := c.q[f.qy]
    { srcs := [srcW f.w, srcS f.s f.ts, srcV f.g f.tg, srcV f.b f.tb], dests := [], busy := c.rsbFull || c.queueFull .stats
      result := checked
        (firstTrap [c.streamsTrap k [(x, false), (y, true)], tripleTrap k x, tripleTrap k y, streamCfgIf k (!sameShape x y)])
        (.go [.engine .stats (.mdrainNorm y x c.regs.w[f.w] ((c.regs.gets f.s).setWidth 32) c.regs.v[f.g] c.regs.v[f.b])
               (some x.hull) none (some y.hull)]) }) s

/-- The 192 bytes at an address (13 R376). -/
def tripleSpan (a : Nat) : Span := { lo := a, hi := a + 191 }

/-- `mld` (13 R376). -/
def execMld (p : Pred) (f : Form.Mls) (s : State) : Host.Outcome State Fault Refusal :=
  slot true p (fun _ c k =>
    let a := (c.regs.gets f.s).toNat
    statReq c f.w [srcS f.s f.ts] (c.windowTrap k a (tripleSpan a) false) (.mld f.w a) (some (tripleSpan a)) none) s

/-- `mst` (13 R376). -/
def execMst (p : Pred) (f : Form.Mls) (s : State) : Host.Outcome State Fault Refusal :=
  slot true p (fun _ c k =>
    let a := (c.regs.gets f.s).toNat
    { srcs := [srcW f.w, srcS f.s f.ts], dests := [], busy := c.rsbFull || c.queueFull .stats
      result := checked (c.windowTrap k a (tripleSpan a) true)
        (.go [.engine .stats (.mst c.regs.w[f.w] a) none none (some (tripleSpan a))]) }) s

/-! ## What the queued operations do -/

/-- Sixteen triples from their lanes, with the flags. -/
def momentsOf (f : Fin 16 → Triple × FpFlags) : Moments × FpFlags :=
  (lanes fun l => (f l).1, (List.finRange 16).foldl (fun x l => x ||| (f l).2) 0)

/-- One element of an update: element e of row r to lane e mod 16 (13 R373). -/
def updateAt (m : Memory) (x : Desc) (weights : Option Desc) (weight : Lane) (st : Moments × FpFlags) (i : Nat) : Moments × FpFlags :=
  let r := i / x.width
  let e := i % x.width
  let l : Fin 16 := ⟨e % 16, by omega⟩
  let v := x.f32At m r e
  let w := match weights with
    | some d => d.f32At m r e
    | none => (weight, 0)
  let u := momentUpdate st.1[l] v.1 w.1
  (st.1.set l u.1, st.2 ||| v.2 ||| w.2 ||| u.2)

/-- The tree of `mmerge.lanes`: neighbours merged, the lower index first (13 R374). -/
def mergePairs : List Triple → List Triple × FpFlags
  | a :: b :: l =>
    let r := momentMerge a b
    let q := mergePairs l
    (r.1 :: q.1, r.2 ||| q.2)
  | l => (l, 0)

/-- The merge of all sixteen lanes. -/
def mergeLanes (w : Moments) : Triple × FpFlags :=
  let a := mergePairs w.toList
  let b := mergePairs a.1
  let c := mergePairs b.1
  let d := mergePairs c.1
  (d.1.headD Triple.empty, a.2 ||| b.2 ||| c.2 ||| d.2)

/-- A drain of every lane: an empty lane gives +0, invalid (09 R277). -/
def drainMoments (kind : Nat) (w : Moments) (eps : Lane) : Token × FpFlags :=
  let r := fun l : Fin 16 => if Triple.isEmpty w[l] then ((0 : Lane), (0 : FpFlags)) else drainLane kind w[l] eps
  ({ elem := lanes fun l => (r l).1, valid := laneBits fun l => !Triple.isEmpty w[l] },
   (List.finRange 16).foldl (fun x l => x ||| (r l).2) 0)

/-- `mdrain.norm` of token t (13 R375). -/
def normToken (m : Memory) (x : Desc) (w : Moments) (eps : Lane) (g b : Token) (t : Nat) (l : Fin 16) : Lane × FpFlags :=
  if Triple.isEmpty w[l] then (0, 0)
  else
    let v := toF32 .rne (x.value m t l.val)
    let y := normLane w[l] eps v.1 g.elem[l] b.elem[l]
    (y.1, v.2 ||| y.2)

/-- `mdrain.norm` as queued. -/
def normRun (m : Memory) (y x : Desc) (w : Moments) (eps : Lane) (g b : Token) : Memory × FpFlags :=
  (List.range x.tokens).foldl (fun (st : Memory × FpFlags) t =>
    let el := fun l : Fin 16 =>
      let v := normToken m x w eps g b t l
      let z := elemEncode y.fmt .rne (f32 v.1)
      (z.1, v.2 ||| z.2)
    (y.writeToken st.1 t fun l => (el l).1, (List.finRange 16).foldl (fun fl l => fl ||| (el l).2) st.2)) (m, 0)

/-- A w register from 192 bytes, and the bytes of one (13 R376). -/
def momentsAt (m : Memory) (a : Nat) : Moments :=
  lanes fun l => { n := BitVec.ofNat 32 (m.nat (a + 4 * l.val) 4), mean := BitVec.ofNat 32 (m.nat (a + 64 + 4 * l.val) 4),
                   m2 := BitVec.ofNat 32 (m.nat (a + 128 + 4 * l.val) 4) }
def momentCells (w : Moments) (a : Nat) : List (Nat × Byte) :=
  (List.finRange 16).flatMap fun l =>
    cellsAt (a + 4 * l.val) (leBytes 4 w[l].n.toNat) ++ cellsAt (a + 64 + 4 * l.val) (leBytes 4 w[l].mean.toNat)
      ++ cellsAt (a + 128 + 4 * l.val) (leBytes 4 w[l].m2.toNat)

/-- A w register filled by a completed operation, with its flags. -/
def Core.giveW (c : Core) (w : Fin 8) (r : Moments × FpFlags) : Core := (c.give (.w w) (.w w r.1)).engineFlags r.2

/-- A completed statistics operation. -/
def Core.runStats (c : Core) : EngOp → Core
  | .mupd w from_ x weights weight => c.giveW w ((List.range (x.rows * x.width)).foldl (updateAt c.spad x weights weight) (from_, 0))
  | .mmerge w a b => c.giveW w (momentsOf fun l => momentMerge a[l] b[l])
  | .mmergeLanes w a => let r := mergeLanes a; c.giveW w (Vector.replicate 16 r.1, r.2)
  | .mclr w => c.giveW w (Moments.empty, 0)
  | .mdrain d kind a eps => let r := drainMoments kind a eps; (c.give (.v d) (.v d (BitVec.allOnes 16) r.1)).engineFlags r.2
  | .mdrainNorm y x a eps g b => let r := normRun c.spad y x a eps g b; ({ c with spad := r.1 } : Core).engineFlags r.2
  | .mld w a => c.giveW w (momentsAt c.spad a, 0)
  | .mst a addr => { c with spad := c.spad.put (momentCells a addr) }
  | _ => c

end Sys2Proof.Machine
end

