-- ==== Sys2Proof/Machine/CoreEvents.lean ====
section
/-! DEFINITION. Sys2Proof/Machine/CoreEvents.lean: what goes on in a core beside issue: fills, engine queues, the carry line, the streamer,
landings, sections that overrun and freezes (06 R181 to R203, 08 R243, R251, R257, 13 R360 to R372). -/

namespace Sys2Proof.Machine

/-! ## REGISTER_FILL (06 R181, 14 R397) -/

/-- The `subq` at the head of a core's port for a register: its pair, its voidness. -/
def Core.subqHead (c : Core) (r : FullReg) : Option (Pair × Bool) :=
  match c.port with
  | [] => none
  | j :: _ =>
    match j.op with
    | .subq reg name tag void => if r = .s reg then some ((name, tag), void) else none
    | _ => none

/-- The gate's answer about a pair (14 Table 14-3). -/
def Gate.answer (g : Gate) (p : Pair) (void : Bool) : Word :=
  if void then 4
  else
    let held := match g.find p with
      | some t => if t.servable then 1 else 2
      | none => 0
    BitVec.ofNat 64 (boolBit (g.asked.contains p) * 8 + held)

/-- The `subq` at the head of a core's port is answered by the firing's gate. -/
def State.answerSubq (s : State) (n : Nat) (r : FullReg) : Option State :=
  s.coreEvent n fun c =>
    match c.subqHead r, c.firing, r with
    | some (p, void), some f, .s d =>
      (match s.gate f.gate with
       | some g => ((c.portDone none).give r (.s d (g.answer p void))).landFill r |>.map fun x => (x, [])
       | none => none)
    | _, _, _ => none

/-- REGISTER_FILL: a value that has returned lands, or a gate's answer does (06 R181, R183). -/
def evRegisterFill (core : Nat) (reg : FullReg) (s : State) : Option State :=
  match s.coreEvent core fun c => (c.landFill reg).map fun d => (d, []) with
  | some t => some t
  | none => s.answerSubq core reg

/-! ## The carry line (13 R369, R371) -/

/-- The rank a carry goes to or comes from: up the ranks, or down. -/
def rankAfter (f : Firing) (down : Bool) : Option Nat :=
  if down then (if 0 < f.rank then some (f.rank - 1) else none)
  else if f.rank + 1 < f.task.hsize ∧ f.task.herd then some (f.rank + 1) else none

/-- Carries leave a core for ranks of its herd: along the line to a rank on a neighbouring core, else as a message of class 3 (13 R369). -/
def State.sendCarries (s : State) (n : Nat) (f : Firing) : List CarryOut → State
  | [] => s
  | o :: os =>
    State.sendCarries (match f.task.members[o.to_]? with
      | some k =>
        let m : Msg := { cls := 3, cpl := (s.router n).plane, source := n, body := .carry o.msg k o.down }
        if hops n k = 1 then s.post (.core k 0) m else s.emit n 0 m
      | none => s) n f os

/-- Carries on their way from a rank in a direction, and those of it in the FIFO they reach. -/
def State.carriesFrom (s : State) (f : Firing) (down : Bool) : Nat :=
  let to_ := (rankAfter f down).bind fun k => f.task.members[k]?
  let on := (s.msgs.filter fun x => match x.msg.body with
    | .carry c k d => c.from_ == f.rank && d == down && c.tag == f.tag && f.task.members.contains k
    | _ => false).length
  let at_ := match to_ with
    | some k => (match s.core k with
      | some c => ((if down then c.fifoDown else c.fifoUp).filter fun m => m.from_ = f.rank ∧ m.tag = f.tag).length
      | none => 0)
    | none => 0
  on + at_

/-- The head of the scan queue goes on with its exchange, and its carries leave. -/
def State.scanOn (s : State) (n : Nat) : State :=
  match s.core n with
  | none => s
  | some c =>
    let r := c.scanOn
    match c.firing with
    | some f => (s.setCore n r.1).sendCarries n f r.2
    | none => s

/-- A message of the running firing's tag to this rank, in a direction. -/
def carryAt (n : Nat) (tag : BitVec 16) (down : Bool) (f : Flying) : Bool :=
  f.place.atCore n && match f.msg.body with
    | .carry c _ d => c.tag == tag && d == down
    | _ => false

/-- The carry for a core in a direction that stands first in a class 3 channel and can go on there. -/
def State.carryHop (s : State) (core : Nat) (down : Bool) : List Flying → Option State
  | [] => none
  | f :: fs =>
    let go := match f.msg.body, f.place with
      | .carry _ k d, .input n p =>
        if k == core && d == down && s.firstIn n p 3 f.msg.lane == some f then s.byCoords n p f else none
      | .carry _ k d, .source n p => if k == core && d == down then s.sourceIn n p 3 f.msg.lane else none
      | .carry _ k d, .detour a o w l =>
        if k == core && d == down then (detourSite a o w l).bind fun x => s.transit x.1 x.2 3 f.msg.lane else none
      | _, _ => none
    match go with
    | some t => some t
    | none => s.carryHop core down fs

/-- A carry joins the FIFO of its rank; in FAULT_HOLD it waits (08 R259). -/
def State.carryLands (s : State) (core : Nat) (down : Bool) : Option State :=
  (s.core core).bind fun c => (c.firing).bind fun f =>
    if !c.works || s.held f then none
    else
      (takeMsg (carryAt core f.tag down) s.msgs).bind fun x =>
        match x.1.msg.body with
        | .carry m _ _ =>
          let d := if down then { c with fifoDown := c.fifoDown ++ [m] } else { c with fifoUp := c.fifoUp ++ [m] }
          some (((({ s with msgs := x.2 } : State).setCore core d).scanOn core).moved core)
        | _ => none

/-- CARRY_MESSAGE_ARRIVAL (13 R369): a carry for a core joins its rank's FIFO, or goes on toward it. -/
def evCarryMessageArrival (core : Nat) (down : Bool) (s : State) : Option State :=
  match s.carryLands core down with
  | some t => some t
  | none => s.carryHop core down s.msgs

/-! ## Queues (06 R193, R195, 13 R360, R361) -/

/-- The head of a queue, where no fault holds it. -/
def Core.headJob (c : Core) (q : Queue) (started : Bool) : Option EngJob :=
  match c.queue q with
  | j :: _ => if j.started = started ∧ j.faulted = false then some j else none
  | [] => none

/-- The head of a queue, changed. -/
def Core.setHead (c : Core) (q : Queue) (j : EngJob) : Core := c.setQueue q (j :: (c.queue q).tail)

/-- A vector as one row of a carry message (13 R369). -/
def tokenRow (t : Token) : List (List Lane × Bool) := (List.finRange 16).map fun l => ([t.elem[l]], t.valid.getLsbD l.val)

/-- The token of a message as `crecv` takes it: 16 lanes, one component. -/
def rowToken (m : Carry) : Token :=
  let r := msgRow 16 1 m.rows
  let at_ := fun l : Fin 16 => (r[l.val]?).join
  { elem := lanes fun l => ((at_ l).bind fun x => x.head?).getD 0, valid := laneBits fun l => (at_ l).isSome }

/-- What a queued operation does as it starts: a `csend` leaves, a herd scan begins its exchange, a `cbar` counts at the gate. -/
def State.startJob (s : State) (n : Nat) (c : Core) (f : Firing) : EngOp → Option State
  | .csend t down =>
    let m : Carry := { from_ := f.rank, rows := tokenRow t, extra := [], tag := f.tag, epoch := c.cbars }
    match rankAfter f down with
    | none => some s
    | some k => if s.carriesFrom f down < 4 then some (s.sendCarries n f [{ to_ := k, down, msg := m }]) else none
  | .scan .. => some (s.scanOn n)
  | .cbar =>
    some (if f.task.herd then
      s.onGate f.gate fun g => { g with cbar :=
        match (g.cbar.find? fun x => x.1 = f.tag ∧ x.2.1 = c.cbars + 1) with
        | some (_, _, k) => (g.cbar.filter fun x => !(x.1 = f.tag ∧ x.2.1 = c.cbars + 1)) ++ [(f.tag, c.cbars + 1, k + 1)]
        | none => g.cbar ++ [(f.tag, c.cbars + 1, 1)] }
      else s)
  | _ => some s

/-- QUEUE_OP_START (06 R193): the head of a queue starts once the scoreboard lets it. -/
def evQueueOpStart (core : Nat) (q : Queue) (s : State) : Option State :=
  match s.core core with
  | none => none
  | some c =>
    match c.headJob q false, c.firing with
    | some j, some f =>
      if c.works && c.rsbClear j.rsb then
        let d := c.setHead q { j with started := true }
        (s.setCore core d).startJob core d f j.op
      else none
    | _, _ => none

/-- A `cbar` is met: every rank of the herd has started its own (13 R372). -/
def State.cbarMet (s : State) (c : Core) (f : Firing) : Bool :=
  !f.task.herd || match s.gate f.gate with
    | some g => g.cbar.any fun x => x.1 == f.tag && x.2.1 == c.cbars + 1 && decide (f.task.hsize ≤ x.2.2)
    | none => false

/-- The message a `crecv` takes: none where the neighbour does not exist; an empty list where it has not come. -/
def Core.crecvFrom (c : Core) (f : Firing) (down : Bool) : Option (List (Carry × List Carry)) :=
  match rankAfter f !down with
  | none => none
  | some k => some (takeFrom k (if down then c.fifoDown else c.fifoUp)).toList

/-- A started operation can complete. -/
def State.jobReady (s : State) (c : Core) (f : Firing) (j : EngJob) : Bool :=
  match j.op with
  | .scan .. => (match scanArgs c j.op with
    | some (_, herd) => !overHerd f herd || j.stage == 4
    | none => true)
  | .crecv _ down => c.crecvFrom f down != some []
  | .cbar => s.cbarMet c f
  | _ => true

/-- The messages a met `cbar` discards: those sent before its senders' own (13 R372). -/
def State.dropCarries (s : State) (n : Nat) (f : Firing) (epoch : Nat) : State :=
  { s with msgs := s.msgs.filter fun x => !(x.place.atCore n && match x.msg.body with
      | .carry m _ _ => m.tag == f.tag && decide (m.epoch < epoch)
      | _ => false) }

/-- What a queued operation does as it completes. -/
def Core.runJob (c : Core) (f : Firing) (j : EngJob) : Core :=
  match j.op with
  | .mma .. | .accNote | .aclr .. | .adrain .. | .aread .. => c.runMatrix j.op
  | .scan .. => c.runScan f j
  | .scdef l => { c with userOp := some l }
  | .csend .. => c
  | .crecv reg down =>
    (match c.crecvFrom f down with
     | none => c.give (.v reg) (.v reg (BitVec.allOnes 16) Token.empty)
     | some l =>
       (match l with
        | [] => c
        | (m, rest) :: _ =>
          let d := if down then { c with fifoDown := rest } else { c with fifoUp := rest }
          d.give (.v reg) (.v reg (BitVec.allOnes 16) (rowToken m))))
  | .cbar => { c with cbars := c.cbars + 1, fifoUp := c.fifoUp.filter fun m => c.cbars < m.epoch
                      fifoDown := c.fifoDown.filter fun m => c.cbars < m.epoch }
  | .bankmode b _ => { c with spad := c.spad.clear (b * 0xC000) 0xC000, badWords := c.badWords.filter fun w => w / 0xC000 ≠ b }
  | _ => c.runStats j.op

/-- The rows of an accumulator bank that a product writes: all of it, or those the loupe gathers (13 R366). -/
def gathered (rows : Option Token) (row : Nat) : Bool := rows.all fun t => t.valid.getLsbD row

/-- An operation reads a row of an accumulator bank (13 R363 to R366). -/
def EngOp.accReads (op : EngOp) (bank row : Nat) : Bool :=
  let within := fun (first last : Nat) => decide (first ≤ bank) && decide (bank ≤ last)
  match op with
  | .mma _ _ first n ovw rows => !ovw && decide (0 < n) && within first (first + n - 1) && gathered rows row
  | .adrain _ first last _ => within first last
  | .aread b r _ => b == bank && r == row
  | _ => false

/-- An operation writes a row of an accumulator bank whole, whatever it held. -/
def EngOp.accWrites (op : EngOp) (bank row : Nat) : Bool :=
  let within := fun (first last : Nat) => decide (first ≤ bank) && decide (bank ≤ last)
  match op with
  | .mma _ _ first n _ rows => decide (0 < n) && within first (first + n - 1) && gathered rows row
  | .aclr first last => within first last
  | .adrain _ first last clr => clr && within first last
  | _ => false

/-- The bank and row of a word in error of the accumulator memory, which stands past the window: 128 words a bank, 8 a row. -/
def accWord (w : Nat) : Option (Nat × Nat) :=
  if windowEnd ≤ w then some ((w - windowEnd) / 8 / 128, (w - windowEnd) / 8 % 128 / 8) else none

/-- The addresses a stream's tokens lie at, as cells. -/
def Desc.cells (d : Desc) : List (Nat × Byte) := (List.range d.tokens).flatMap fun t => d.tokenCells t 0

/-- The cells of an interval. -/
def spanCells (w : Option Span) : List (Nat × Byte) := w.elim [] fun x => cellsAt x.lo (List.replicate (x.hi + 1 - x.lo) 0)

/-- The cells an engine operation writes, its write interval given. -/
def EngOp.written (op : EngOp) (w : Option Span) : List (Nat × Byte) :=
  match op with
  | .adrain d _ _ _ => d.cells
  | .scan _ _ y _ y2 _ _ => y.cells ++ y2.elim [] Desc.cells
  | .mdrainNorm y _ _ _ _ _ => y.cells
  | _ => spanCells w

/-- The cells a copy writes. -/
def CopyOp.written (op : CopyOp) (w : Option Span) : List (Nat × Byte) :=
  match op with
  | .cpy2d d _ => d.cells
  | .fill d _ => d.cells
  | _ => spanCells w

/-- Words in error that an operation has rewritten: those it has written whole, in the scratchpad or in the accumulator memory (01 R39). -/
def Core.mended (c : Core) (cells : List (Nat × Byte)) (acc : Nat → Nat → Bool) : Core :=
  { c with badWords := c.badWords.filter fun a => match accWord a with
      | some x => !acc x.1 x.2
      | none => !coversWord cells a }

/-- The write interval of an RSB entry. -/
def Core.writeSpan (c : Core) (rsb : Option Nat) : Option Span := (rsb.bind c.entry).bind (·.write)

/-- The first word in error an operation reads: in its read intervals, or in its accumulator banks (01 R39, 13 R361). -/
def Core.jobBad (c : Core) (j : EngJob) : Option Nat :=
  match c.badRead j.rsb with
  | some w => some w
  | none => c.badWords.find? fun w => (accWord w).any fun x => j.op.accReads x.1 x.2

/-- An operation withholds its completion: its fault is deferred (08 R243, 13 R361). -/
def Core.faultJob (c : Core) (q : Queue) (j : EngJob) (addr : Nat) : Core :=
  { (c.setHead q { j with faulted := true }) with
    dfaults := c.dfaults ++ [{ code := trapEccUncorr, addr := BitVec.ofNat 64 addr, space := 1, access := 0, xch := 7, seq := 0, xid := 0 }] }

/-- Where an operation with no word in error known reads first. -/
def Core.readStart (c : Core) (j : EngJob) : Nat :=
  match (j.rsb.bind c.entry).bind (·.read0) with
  | some x => x.lo
  | none => ((List.range 1024).find? fun r => j.op.accReads (r / 16) (r % 16)).elim windowEnd fun r => windowEnd + 64 * r

/-- ENGINE_OP_COMPLETE (13 R360, R361): the head of a queue completes, or reads an uncorrectable word and faults. -/
def evEngineOpComplete (core : Nat) (q : Queue) (uncorrectable : Bool) (s : State) : Option State :=
  match s.core core with
  | none => none
  | some c =>
    match c.headJob q true, c.firing with
    | some j, some f =>
      if !c.works || !s.jobReady c f j then none
      else
        match c.jobBad j with
        | some a => some (s.setCore core (c.faultJob q j a))
        | none =>
          if uncorrectable then some (s.setCore core (c.faultJob q j (c.readStart j)))
          else
            let d := ((c.runJob f j).mended (j.op.written (c.writeSpan j.rsb)) j.op.accWrites).freeEntry j.rsb
            let t := s.setCore core (d.setQueue q (d.queue q).tail)
            some (if j.op = .cbar then t.dropCarries core f d.cbars else t)
    | _, _ => none

/-! ## The quad streamer (06 R196 to R199) -/

/-- The first command of a core that has not started, with its effective time: the largest of its and the earlier ones'. -/
def nextCommand : Word → List CopyJob → Option (CopyJob × Word)
  | _, [] => none
  | e, j :: js =>
    let x := if e < j.time then j.time else e
    if j.started then nextCommand x js else some (j, x)

/-- Commands of a quad in progress, global or local. -/
def State.inProgress (s : State) (n : Nat) (localCopy : Bool) : Nat :=
  (quadCores n).foldl (fun k m => match s.core m with
    | some c => k + (c.copies.filter fun j => j.started && j.isCopy == localCopy).length
    | none => k) 0

/-- The command of a core that the streamer could start now. -/
def State.eligible (s : State) (n : Nat) : Option CopyJob :=
  match s.core n with
  | none => none
  | some c =>
    match nextCommand 0 c.copies with
    | none => none
    | some (j, e) =>
      if c.works && decide (e ≤ s.wcc) && c.rsbClear j.rsb && decide (s.inProgress n j.isCopy < 4) then some j else none

/-- The weight of a core (06 Table 6-11); 0 acts as 1. -/
def State.weight (s : State) (n : Nat) : Nat :=
  match s.core n with
  | some c => max 1 (bits c.strm.toNat 0 4)
  | none => 1

/-- The core the round serves next: the one whose turn it is while it has starts left and an eligible command, else the next with
one (06 R198). `k` are the starts of the first in this round. -/
def State.served (s : State) : List Nat → Nat → Option Nat
  | [], _ => none
  | n :: ns, k => if k < s.weight n ∧ (s.eligible n).isSome then some n else s.served ns 0

/-- A quad's round: whose turn it is, by its place in the quad, and that core's starts so far. -/
def State.round (s : State) (n : Nat) : Nat × Nat :=
  match assoc s.started (quadOf n).1 with
  | some (i :: k :: _) => (i, k)
  | _ => (0, 0)

/-- The place of a core in its quad. -/
def quadPlace (n : Nat) : Nat := (quadCores n).idxOf n

/-- The first command that has not started, started. -/
def startFirst : List CopyJob → List CopyJob
  | [] => []
  | j :: js => if j.started then j :: startFirst js else { j with started := true } :: js

/-- STREAMER_START (06 R198). -/
def evStreamerStart (core : Nat) (s : State) : Option State :=
  let cs := quadCores core
  let (i, k) := s.round core
  if s.served (cs.drop i ++ cs.take (i + 1)) k = some core then
    let j := quadPlace core
    (s.coreEvent core fun c => some ({ c with copies := startFirst c.copies }, [])).map fun t =>
      { t with started := assocSet t.started (quadOf core).1 [j, if j = i ∧ k < s.weight core then k + 1 else 1] }
  else none

/-- A command leaves the buffer, its identifier complete. -/
def Core.endCopy (c : Core) (j : CopyJob) : Core :=
  ({ c with copies := c.copies.filter fun x => x ≠ j } : Core).doneXid j.op.channel j.xid

/-- The data of a tile load that has been performed. -/
def State.tileData (s : State) (j : CopyJob) : Option (List (Nat × Byte)) :=
  (j.req.bind fun id => s.reqs.find? fun r => r.id = id).bind fun r =>
    if r.stage = .served ∨ r.stage = .done then some r.data else none

/-- The command whose entry this is writes its last byte and frees. -/
def State.endCommand (s : State) (core : Nat) (rsb : Nat) : Option State :=
  s.coreEvent core fun c =>
    match (c.copies.find? fun j => j.started && j.rsb == some rsb) with
    | none => none
    | some j =>
      if !c.works then none
      else
        match c.badRead j.rsb with
        | some a => (c.eccFault a).map fun d => (d, [])
        | none =>
          match j.op with
          | .tld .. => (s.tileData j).map fun l => (((c.putSpad l).freeEntry j.rsb).endCopy j, [])
          | .tst .. => none
          | op => some ((((c.runCopy op).mended (op.written (c.writeSpan j.rsb)) fun _ _ => false).freeEntry j.rsb).endCopy j, [])

/-- Tile loads that have completed and whose bytes have all been written are gone. -/
def State.dropDone (s : State) (n : Nat) : State :=
  { s with reqs := s.reqs.filter fun r => !(r.stage == .done && r.agent == .core n && match s.core n with
      | some c => !c.copies.any fun j => j.req == some r.id
      | none => true) }

/-- STREAMER_COMPLETE (06 R199, R202). -/
def evStreamerComplete (core : Nat) (rsb : Nat) (s : State) : Option State := (s.endCommand core rsb).map fun t => t.dropDone core

/-! ## Landings (05 R156, R157, 14 R396, R400) -/

/-- Firings of a core in the order they were dispatched. -/
def Core.firings (c : Core) : List Firing := c.firing.toList ++ c.stagedF

/-- The firings of a core, changed. -/
def Core.mapFirings (c : Core) (h : Firing → Firing) : Core := { c with firing := c.firing.map h, stagedF := c.stagedF.map h }

/-- The landing slot of a firing is free: no earlier firing of its task on the core uses it. -/
def slotFree (earlier : List Firing) (f : Firing) : Bool := !earlier.any fun e => e.gate == f.gate && e.slot == f.slot

/-- A landing that may start at a core: its entry is one of the scoreboard's, and no older one holds it. Stores of its range that the gate holds are
older too: the gate releases them first, with a mark at the boundary between groups (06 R203, 07 R224, log 7). -/
def Core.startLanding (c : Core) (l : Landing) : Option (Core × Landing × List Out) :=
  if l.rsb.any fun id => !c.hasEntry id || c.rsbHeld id then none
  else if c.gatedMeets l.span then
    if c.between then let r := c.releaseMark; some (r.1, { l with started := true }, r.2) else none
  else some (c, { l with started := true }, [])

/-- The first landing of a list that starts. -/
def Core.startOf (c : Core) : List Landing → Option (Core × List Landing × List Out)
  | [] => none
  | l :: ls =>
    let next := (c.startOf ls).map fun r => (r.1, l :: r.2.1, r.2.2)
    if l.started ∨ l.done then next
    else
      match c.startLanding l with
      | some (d, x, o) => some (d, x :: ls, o)
      | none => next

/-- The first firing, in dispatch order, one of whose landings starts. -/
def Core.startAmong (c : Core) : List Firing → List Firing → Option (Core × Firing × Firing × List Out)
  | _, [] => none
  | before, f :: fs =>
    if slotFree before f && f.failed.isNone then
      match c.startOf f.landings with
      | some (d, ls, o) => some (d, f, { f with landings := ls }, o)
      | none => c.startAmong (before ++ [f]) fs
    else c.startAmong (before ++ [f]) fs

/-- LANDING_START (05 R156, R157). -/
def evLandingStart (core : Nat) (s : State) : Option State :=
  s.coreEvent core fun c =>
    if !c.works then none
    else (c.startAmong [] c.firings).map fun (d, f, g, o) => (d.mapFirings fun x => if x = f then g else x, o)

/-- The first landing in progress, done; its bytes and entry. -/
def landOne : List Landing → Option (Landing × List Landing)
  | [] => none
  | l :: ls =>
    if l.started ∧ l.done = false then some (l, { l with done := true } :: ls) else (landOne ls).map fun r => (r.1, l :: r.2)

/-- A landing writes its last byte. -/
def Core.endLanding (c : Core) : List Firing → Option Core
  | [] => none
  | f :: fs =>
    match landOne f.landings with
    | some (l, ls) => some (((c.putSpad l.bytes).freeEntry l.rsb).mapFirings fun x => if x = f then { f with landings := ls } else x)
    | none => c.endLanding fs

/-- The landings of a firing that have not started leave the scoreboard. -/
def Core.unissue (c : Core) (f : Firing) : Core := f.landings.foldl (fun d l => if l.started then d else d.freeEntry l.rsb) c
def Firing.unissued (f : Firing) : Firing := { f with landings := f.landings.map fun l => if l.started then l else { l with rsb := none } }

/-- The bytes of a served tile in a stream (14 R396). -/
def Desc.landCells (d : Desc) (t : Tile) : List (Nat × Byte) :=
  let toks := t.bursts.flatMap (·.tokens)
  ((List.range (min d.tokens toks.length)).flatMap fun j => d.tokenCells j ((toks[j]?).elim 0 fun x => x.bits.toNat))
    ++ (if d.slog = 0 then [] else (cellsAt d.sbase (t.bursts.map (·.scale))).filter fun x => decide (x.1 < windowEnd))

/-- A `fetch` whose tile has come: it lands whole, once the scoreboard lets it. -/
def State.landFetch (s : State) (n : Nat) : Option State :=
  match s.core n with
  | none => none
  | some c =>
    match takeMsg (fun x => x.place.atCore n && match x.msg.body with
        | .reply _ (.core _ xid) => c.works && c.fetches.any fun f => f.xid == xid && c.rsbClear f.rsb
        | _ => false) s.msgs with
    | none => none
    | some (x, rest) =>
      let s' := { s with msgs := rest }
      match s.judge n x.msg.cpl, x.msg.body with
      | .stray, _ => some (s'.stray n (placePort x.place) x.msg)
      | .hold, _ => none
      | .pass, .reply t (.core _ xid) =>
        (s'.coreEvent n fun c => (c.fetches.find? fun f => f.xid = xid).map fun f =>
          ((({ (c.putSpad (f.desc.landCells t)) with fetches := c.fetches.filter fun g => g ≠ f } : Core).freeEntry f.rsb).doneXid 3 xid, [])).map
            fun t => t.moved n
      | .pass, _ => none

/-- A chunk's packed token with the lanes whose EV bit is 0 as zero. -/
def chunkBits (f : Fmt) (data : List FlitToken) : Nat :=
  match data with
  | [] => 0
  | t :: _ => packToken f fun l => if t.ev.getLsbD l.val then packedElem f t.bits.toNat l.val else 0

/-- A chunk as a w register takes it (14 R400). -/
def chunkMoments (f : Fmt) (data : List FlitToken) : Moments :=
  let word := fun (k : Nat) (l : Nat) => BitVec.ofNat 32 ((data[k]?).elim 0 fun t => t.bits.toNat / 2 ^ (32 * l))
  let ev := fun (l : Nat) => (data.head?).elim false fun t => t.ev.getLsbD l
  lanes fun l => if ev l.val then
      { n := word 0 l.val, mean := if f = .triple then word 1 l.val else 0, m2 := if f = .triple then word 2 l.val else 0 }
    else Triple.empty

/-- A receive takes its next chunk: the core after it (14 R400). -/
def Core.takeChunk (c : Core) (r : Recv) (f : Fmt) (data : List FlitToken) : Option Core :=
  match r.into with
  | .inr w => some (({ c with recvs := c.recvs.erase r } : Core).give (.w w) (.w w (chunkMoments f data)))
  | .inl (d, xid, rsb) =>
    if c.rsbHeld rsb then none
    else
      let e := c.putSpad (d.tokenCells r.landed (chunkBits f data))
      some (if r.landed + 1 < d.tokens then
        { e with recvs := e.recvs.map fun x => if x = r then { r with landed := r.landed + 1 } else x }
      else (({ e with recvs := e.recvs.erase r } : Core).freeEntry (some rsb)).doneXid 3 xid)

/-- The first receive of a VSN and tag. -/
def Core.recvFor (c : Core) (v : Fin 256) (tag : BitVec 16) : Option Recv := c.recvs.find? fun r => r.vsn = v ∧ r.tag = tag

/-- A receive takes the first chunk delivered to its core for it (14 R400). -/
def State.landChunk (s : State) (n : Nat) : Option State :=
  match s.core n with
  | none => none
  | some c =>
    match takeMsg (fun x => x.place.atCore n && match x.msg.body with
        | .chunk v tag _ _ _ => c.works && (c.recvFor v tag).isSome
        | _ => false) s.msgs with
    | none => none
    | some (x, rest) =>
      let s' := { s with msgs := rest }
      match s.judge n x.msg.cpl, x.msg.body with
      | .stray, _ => some (s'.stray n (placePort x.place) x.msg)
      | .hold, _ => none
      | .pass, .chunk v tag f _ data =>
        (s'.coreEvent n fun c => (c.recvFor v tag).bind fun r => (c.takeChunk r f data).map fun d => (d, [])).map fun t => t.moved n
      | .pass, _ => none

/-- LANDING_COMPLETE (05 R157, 14 R396, R400): a landing writes its last byte; a fetched tile or a received chunk lands. -/
def evLandingComplete (core : Nat) (s : State) : Option State :=
  match s.coreEvent core fun c => if c.works then (c.endLanding c.firings).map fun d => (d, []) else none with
  | some t => some t
  | none =>
    match s.landFetch core with
    | some t => some t
    | none => s.landChunk core

/-! ## Overrun and freeze (08 R244, R251, R257) -/

/-- NPS_OVERRUN (08 R244, R257): a section still open at its 16,384th cycle traps. -/
def evNpsOverrun (core : Nat) (s : State) : Option State :=
  s.coreEvent core fun c =>
    match c.nps with
    | some n =>
      if 16384 ≤ n ∧ c.running ∧ c.works ∧ c.between then
        some (c.takeTrap { trapOf trapNpsOverrun 0 with kind := 3 } c.issue.pc)
      else none
    | none => none

/-- A stopped landing is redone whole (05 R174). -/
def Firing.redo (f : Firing) : Firing := { f with landings := f.landings.map fun l => { l with started := l.done } }

/-- The core frozen: between bundles, or between the groups of one. A firing whose `retire` has issued, or that its handler ends, stands at that
`retire` again: the rest of its group is not repeated, and it goes on retiring when it resumes (05 R160, R174). -/
def Core.freeze (c : Core) : Core :=
  let d := if c.issue.retiring then { c with issue := { c.issue with pc := c.shadow.pc } } else c
  { (d.mapFirings Firing.redo) with frozen := true, freezeReq := false }

/-- FREEZE_REQUEST (08 R251, R257): a request that stands freezes the core, once its section has closed. -/
def evFreezeRequest (core : Nat) (s : State) : Option State :=
  s.coreEvent core fun c => if c.stopping && !c.frozen && c.between then some (c.freeze, []) else none

def execRegisterFill (core : Nat) (reg : FullReg) (s : State) : Host.Outcome State Fault Refusal := event (evRegisterFill core reg s) s
def execCarryMessageArrival (core : Nat) (down : Bool) (s : State) : Host.Outcome State Fault Refusal :=
  event (evCarryMessageArrival core down s) s
def execQueueOpStart (core : Nat) (q : Queue) (s : State) : Host.Outcome State Fault Refusal := event (evQueueOpStart core q s) s
def execEngineOpComplete (core : Nat) (q : Queue) (uncorrectable : Bool) (s : State) : Host.Outcome State Fault Refusal :=
  event (evEngineOpComplete core q uncorrectable s) s
def execStreamerStart (core : Nat) (s : State) : Host.Outcome State Fault Refusal := event (evStreamerStart core s) s
def execStreamerComplete (core : Nat) (rsb : Nat) (s : State) : Host.Outcome State Fault Refusal :=
  event (evStreamerComplete core rsb s) s
def execLandingStart (core : Nat) (s : State) : Host.Outcome State Fault Refusal := event (evLandingStart core s) s
def execLandingComplete (core : Nat) (s : State) : Host.Outcome State Fault Refusal := event (evLandingComplete core s) s
def execNpsOverrun (core : Nat) (s : State) : Host.Outcome State Fault Refusal := event (evNpsOverrun core s) s
def execFreezeRequest (core : Nat) (s : State) : Host.Outcome State Fault Refusal := event (evFreezeRequest core s) s

end Sys2Proof.Machine
end

