-- ==== Sys2Proof/Machine/Schedule.lean ====
section
/-! DEFINITION. Sys2Proof/Machine/Schedule.lean: the walker, dispatch, how a firing starts and retires, triggers, ends of streams and herd
barriers at the gate (05 R149 to R168, 06 R206, 14 R395, R398). -/

namespace Sys2Proof.Machine

/-! ## The walker (05 R149, R150, R153) -/

/-- Iterations of levels. -/
def countOf : List Level → Nat
  | [] => 1
  | l :: ls => l.count * countOf ls

/-- Iterations of a task. -/
def Task.total (t : Task) : Nat := countOf t.levels

/-- Firings of a task in a run: one a rank. -/
def Task.firings (t : Task) : Nat := t.total * t.hsize

/-- Digits of an ordinal in row-major order over sizes: the last varies fastest. -/
def rowMajor : List Nat → Nat → List Nat
  | [], _ => []
  | z :: zs, o => let m := zs.foldl (· * ·) 1; (o / m % z) :: rowMajor zs (o % m)

/-- Digits in column-major order: the first varies fastest. -/
def columnMajor : List Nat → Nat → List Nat
  | [], _ => []
  | z :: zs, o => (o % z) :: columnMajor zs (o / z)

/-- The blocks of an ordinal in blocked order with their sizes, and its place within its block; `m` iterations a unit of this level. -/
def blockOf : List Level → Nat → Nat → List (Nat × Nat) × Nat
  | [], _, o => ([], o)
  | l :: ls, m, o =>
    let full := m * l.blk * countOf ls
    let b := o / full
    let size := min l.blk (l.count - b * l.blk)
    let r := blockOf ls (m * size) (o - b * full)
    ((b, size) :: r.1, r.2)

/-- The position in each level of an ordinal (05 R149). -/
def Task.digits (t : Task) (o : Nat) : List Nat :=
  match t.order with
  | 0 => rowMajor (t.levels.map (·.count)) o
  | 1 => columnMajor (t.levels.map (·.count)) o
  | _ =>
    let b := blockOf t.levels 1 o
    (List.zip b.1 (List.zip t.levels (rowMajor (b.1.map (·.2)) b.2))).map fun x => x.1.1 * x.2.1.blk + x.2.2

/-- The indices of an iteration (05 R149). -/
def Task.indices (t : Task) (o : Nat) : List Int := (List.zip t.levels (t.digits o)).map fun x => x.1.lo + x.1.step * (x.2 : Int)

/-- The tag of an iteration (05 R150). -/
def Task.tagOf (t : Task) (o : Nat) : BitVec 16 := t.tagbase + BitVec.ofNat 16 o

/-- The firing of an iteration and rank before it is dispatched. -/
def Task.firing (t : Task) (g : GateId) (ns : BitVec 8) (o rank : Nat) : Firing :=
  { ctx := g.ctx, task := t, ns, ordinal := o, indices := t.indices o, tag := t.tagOf o, rank, member := rank, slot := 0, voids := []
    failed := none, landings := [], state := .staged, trig := false, pubs := [] }

/-- A task by its number in a context, or the one that replaces it (05 R167). -/
def State.afterGate (s : State) (ctx : Fin 8) (num : Nat) : Option (Gate × Task) :=
  match s.ctxs[ctx].cfg with
  | none => none
  | some k =>
    let n := (assoc k.replaces num).getD num
    (s.ctxs[ctx].gates.find? fun g => g.id.task = n).bind fun g => (k.tasks.find? fun t => t.num = n).map fun t => (g, t)

/-- The walker is exhausted. -/
def Gate.exhausted (g : Gate) (t : Task) : Bool := decide (t.total ≤ g.nextOrd)

/-- A task has completed, or has been triggered (05 R167). -/
def Gate.done (g : Gate) (t : Task) : Bool := g.exhausted t && decide (t.firings ≤ g.retired)
def Gate.trigDone (g : Gate) (t : Task) : Bool := g.exhausted t && decide (t.firings ≤ g.triggered)

/-- The tasks a task comes after have completed or been triggered. -/
def State.afterOk (s : State) (ctx : Fin 8) (t : Task) : Bool :=
  t.after.all fun n => match s.afterGate ctx n with
    | some (g, u) => g.done u || g.trigDone u
    | none => true

/-- A subscription of an iteration as it opens. -/
def Gate.openSub (g : Gate) (p : Option Pair) : BitVec 64 × BitVec 16 × SubState :=
  match p with
  | none => (0, 0, .void)
  | some p => (p.1, p.2, match g.find p with
    | some t => if t.servable then .bound else .waiting
    | none => .waiting)

/-- The pairs of an iteration, rank by rank, with whether the gate asks for those it does not hold. -/
def Task.pairs (t : Task) (g : Gate) (ns : BitVec 8) (o : Nat) : List (Option Pair × Bool) :=
  (List.range t.hsize).flatMap fun rank => t.subs.map fun r =>
    let p := (t.firing g.id ns o rank).pair r
    (p, r.pull || (match p with | some p => g.released.contains p | none => false))

/-- The pairs a gate asks for as an iteration opens: those not held, not asked for yet (05 R153). -/
def Gate.wants (g : Gate) (l : List (Option Pair × Bool)) : List Pair :=
  (l.filterMap fun x => match x with
    | (some p, true) => if (g.find p).isNone && !g.asked.contains p then some p else none
    | _ => none).eraseDups

/-- WALKER_OPEN (05 R150, R153). -/
def evWalkerOpen (gate : GateId) (s : State) : Option State :=
  match s.gate gate, s.taskOf gate with
  | some g, some t =>
    let k := s.ctxs[gate.ctx]
    if g.runnable && k.state == .running && !g.exhausted t && decide (g.iters.length < t.window) && s.afterOk gate.ctx t then
      let l := t.pairs g k.ns g.nextOrd
      let iter : Iter := { ordinal := g.nextOrd, subs := l.map fun x => g.openSub x.1, ready := none }
      let d := (l.filterMap (·.1)).foldl (fun (x : Gate) p => if (x.find p).isSome then x.touch p else x) g
      let s := s.onGate gate fun _ => ({ d with nextOrd := g.nextOrd + 1, iters := g.iters ++ [iter] } : Gate).settled
      some ((g.wants l).foldl (fun x p => x.gateRequest gate p) s)
    else none
  | _, _ => none

/-! ## How a firing starts (05 R158, R159, 06 R206) -/

/-- The scalar registers at firing start (05 Table 5-6). -/
def Firing.scalars (f : Firing) : Vector Word 32 :=
  let i := fun k => BitVec.ofInt 64 (f.indices.getD k 0)
  let voids := f.voids.foldl (fun x k => x + 2 ^ k) 0
  (((((((((Vector.replicate 32 (0 : Word)).set 1 (i 0)).set 2 (i 1)).set 3 (i 2)).set 4 (i 3)).set 5 (BitVec.ofNat 64 f.rank)).set 6
    (BitVec.ofNat 64 f.task.hsize)).set 7 (f.tag.setWidth 64)).set 8 (BitVec.ofNat 64 f.slot)).set 9 (BitVec.ofNat 64 voids)

/-- The core as a firing finds it (05 Table 5-6, 06 Table 6-6), a mark taken at ENTRY (08 R237). -/
def Core.enter (c : Core) (f : Firing) : Core :=
  ({ c with
     regs := { Regs.start with s := f.scalars }
     q := Vector.replicate 16 { lo := 0, hi := 0 }, fpcr := 0, keys := Vector.replicate 4 0, accMap := 0, accOwn := 0
     modes := c.cfgModes, loops := [], issue := Issue.at_ f.task.entry, fetched := [], flight := [], fills := [], gate := [], nps := none
     userNext := false, sendCnt := [], recvCnt := [], fifoUp := [], fifoDown := [], barArr := 0, barRel := 0, barWait := 0, cbars := 0
     firing := some { f with state := .running } } : Core).mark

/-- A firing begins to run; one that has failed traps at ENTRY (05 R159), one of an aborted herd as HERD_ABORT. -/
def Core.begin (c : Core) (f : Firing) : Core × List Out :=
  let d := c.enter f
  match f.failed with
  | none => (d, [.marked])
  | some (code, k) =>
    let r := d.takeTrap { trapOf code 0 with kind := if code = trapHerdAbort then 3 else 1, subidx := k } f.task.entry
    (r.1, .marked :: r.2)

/-- Landings take their places in the scoreboard, in order; past its 32 entries they wait there for one to free (05 R157, 06 R203). -/
def Core.entries (c : Core) : List Landing → Core × List Landing
  | [] => (c, [])
  | l :: ls =>
    let r := if l.done || l.rsb.isSome then (c, l.rsb) else c.takeEntry .landing none none l.span
    let q := r.1.entries ls
    (q.1, { l with rsb := r.2 } :: q.2)

/-- The landings of every firing whose landing slot is free are issued, in the order of dispatch: those of a firing as it is dispatched, those behind a
firing of the same slot as it retires (05 R156, 06 R203, log 7). -/
def Core.issueAmong (c : Core) : List Firing → List Firing → Core
  | _, [] => c
  | before, f :: fs =>
    if slotFree before f && f.failed.isNone then
      let r := c.entries f.landings
      (r.1.mapFirings fun x => if x = f then { f with landings := r.2 } else x).issueAmong (before ++ [f]) fs
    else c.issueAmong (before ++ [f]) fs

/-- The landings a core can issue are issued. -/
def Core.issueLandings (c : Core) : Core := c.issueAmong [] c.firings

/-- The first staged firing begins when none runs (05 R158). -/
def State.nextFiring (s : State) (n : Nat) : State :=
  match s.core n with
  | none => s
  | some c =>
    let d := c.issueLandings
    match d.firing, d.stagedF with
    | none, f :: fs => (s.setCore n d).onCore n fun _ e => ({ e with stagedF := fs } : Core).begin f
    | _, _ => s.setCore n d

/-! ## Dispatch (05 R156, R161 to R164) -/

/-- The oldest ready iteration of a gate. -/
def Gate.head (g : Gate) : Option Iter :=
  g.iters.foldl (fun b i => match i.ready, b with
    | some _, none => some i
    | some x, some j => if x < j.ready.getD 0 then some i else b
    | none, _ => b) none

/-- A gate of a running context dispatches to a core in service (05 R163). -/
def State.serves (s : State) (g : GateId) (n : Nat) : Bool :=
  s.ctxs[g.ctx].state == .running && match s.core n with
    | some c => !c.withdrawn && c.works && !c.freezeReq
    | none => false

/-- A core's staged firings leave room (05 R156). -/
def State.hasRoom (s : State) (n : Nat) : Bool :=
  match s.core n with
  | some c => decide (c.stagedF.length < 3)
  | none => false

/-- Gates of running contexts whose pens hold a core, with their tasks. -/
def State.pensOf (s : State) (n : Nat) : List (Gate × Task) :=
  (s.gates.filter fun g => s.ctxs[g.id.ctx].state == .running).filterMap fun g =>
    (s.taskOf g.id).bind fun t => if t.members.contains n then some (g, t) else none

/-- The herd that a core belongs to, one that has not retired (05 R165). -/
def State.herdOf (s : State) (n : Nat) : Option GateId := ((s.pensOf n).find? fun x => x.2.herd && !x.1.live.isEmpty).map (·.1.id)

/-- The best of a list by a strict order, the first of equals. -/
def bestOf {α : Type} (better : α → α → Bool) : List α → Option α
  | [] => none
  | x :: xs => some (xs.foldl (fun b y => if better y b then y else b) x)

/-- An offer was promoted before another; of those promoted in one cycle, that of the lower TASK (05 R161). -/
def sooner (a b : Gate × Task) : Bool :=
  decide (a.1.promoted.getD 0 < b.1.promoted.getD 0) || (a.1.promoted == b.1.promoted && decide (a.2.num < b.2.num))

/-- The herd offer that is promoted on a core, the first of several: the core takes no other (05 R156, R162, log 26). -/
def State.promotedHerd (s : State) (n : Nat) : Option GateId :=
  (bestOf sooner ((s.pensOf n).filter fun x => x.2.herd && x.1.promoted.isSome && x.1.head.isSome)).map (·.1.id)

/-- Every core of a herd is idle, or can stage the next iteration of its own herd (05 R164). -/
def State.herdFree (s : State) (g : Gate) (t : Task) : Bool :=
  t.members.all fun n => s.serves g.id n && s.hasRoom n && match s.core n with
    | some c => if g.live.isEmpty then c.firing.isNone && c.stagedF.isEmpty && (s.herdOf n).isNone
                else c.firings.all fun f => f.gate == g.id
    | none => false

/-- Offers a core can take (05 R156): those of its pens' gates with a ready iteration; while a herd offer is promoted on it, that one only, and in a
herd that has not retired, that herd's only (05 R162, R165). -/
def State.offers (s : State) (n : Nat) : List (Gate × Task) :=
  if s.hasRoom n then
    (s.pensOf n).filter fun x => x.1.head.isSome && s.serves x.1.id n && (s.promotedHerd n).all (· == x.1.id) && (s.herdOf n).all (· == x.1.id)
  else []

/-- The candidates of the choice: a herd's offer only while the herd could be dispatched (05 R164). -/
def State.candidates (s : State) (n : Nat) : List (Gate × Task) := (s.offers n).filter fun x => !x.2.herd || s.herdFree x.1 x.2

/-- A core's credit for a task. -/
def Core.credit (c : Core) (t : Task) : Int := (assoc c.credits t.num).getD 0

/-- The choice of a core (05 R161): the gate and task, and the credits after it; a core picks once a cycle. -/
def State.choose (s : State) (n : Nat) (c : Core) : Option (Gate × Task × List (Nat × Int)) :=
  let cand := if c.picked = some s.wcc then [] else s.candidates n
  let prom := cand.filter fun x => x.1.promoted.isSome
  let byTask := fun (a b : Gate × Task) => decide (a.2.num < b.2.num)
  match bestOf sooner prom with
  | some x => some (x.1, x.2, c.credits)
  | none =>
    let lo := (cand.map fun x => x.2.prio).foldl min 4
    let top := cand.filter fun x => x.2.prio = lo
    let cr := top.foldl (fun l x => assocSet l x.2.num ((assoc l x.2.num).getD 0 + (x.2.weight : Int))) c.credits
    let val := fun (x : Gate × Task) => (assoc cr x.2.num).getD 0
    (bestOf (fun a b => decide (val b < val a) || (val a == val b && byTask a b)) top).map fun x =>
      (x.1, x.2, assocSet cr x.2.num (val x - (top.foldl (fun k y => k + y.2.weight) 0 : Nat)))

/-- The tile's bytes in a landing range: its tokens side by side, and the scale of each burst where they land (05 R157). -/
def NameRec.landBytes (r : NameRec) (t : Task) (slot : Nat) (x : Tile) : List Byte × List (Nat × Byte) :=
  let data := x.bursts.flatMap fun b => b.tokens.flatMap fun k => leBytes (tokBytes b.fmt) k.bits.toNat
  (data, cellsAt (r.lbase + slot * t.lstride) data ++ (if r.scales then cellsAt r.sbase (x.bursts.map (·.scale)) else []))

/-- The bytes that some cells cover. -/
def cellsSpan : List (Nat × Byte) → Option Span
  | [] => none
  | (a, _) :: l => some (l.foldl (fun x c => { lo := min x.lo c.1, hi := max x.hi c.1 }) { lo := a, hi := a })

/-- What becomes of subscription k as its firing is dispatched to a core of the issued modes given: a failure, or a landing. One that would write a bank
that is not SCRATCH fails as an access of that kind does (05 R157, R159, 06 R189, log 26). -/
def Gate.landingFor (g : Gate) (t : Task) (modes : Vector (Fin 4) 16) (slot k : Nat) (r : NameRec) (x : BitVec 64 × BitVec 16 × SubState) :
    Option (Sum Byte Landing) :=
  match x.2.2 with
  | .failed code => some (.inl code)
  | .bound =>
    (match g.find (x.1, x.2.1) with
     | none => none
     | some y =>
       let b := r.landBytes t slot y.tile
       if r.lsize < b.1.length ∨ (t.strict ∧ r.rate ≠ 0 ∧ y.tile.tokens ≠ r.rate) then some (.inl trapStreamCfg)
       else if b.2.any fun c => modes[bankOf c.1] != scratchMode then some (.inl trapBankMode)
       else some (.inr { sub := k, copy := y.copy, bytes := b.2, span := cellsSpan b.2, rsb := none, started := false, done := b.2.isEmpty }))
  | _ => none

/-- The firing of a rank as it is dispatched to a core: its landing slot, voids, failures and landings. -/
def Gate.firingOf (g : Gate) (t : Task) (modes : Vector (Fin 4) 16) (ns : BitVec 8) (i : Iter) (rank member slot : Nat) : Firing :=
  let subs := (i.subs.drop (rank * t.subs.length)).take t.subs.length
  let l := (List.zip (List.range subs.length) (List.zip t.subs subs)).map fun x => (x.1, x.2.2.2.2, g.landingFor t modes slot x.1 x.2.1 x.2.2)
  { t.firing g.id ns i.ordinal rank with
    member, slot
    voids := (l.filter fun x => x.2.1 = .void).map (·.1)
    failed := l.findSome? fun x => match x.2.2 with
      | some (.inl code) => some (code, ⟨x.1 % 16, by omega⟩)
      | _ => none
    landings := l.filterMap fun x => match x.2.2 with
      | some (.inr y) => some y
      | _ => none }

/-- A core takes a firing: behind those it has, or at once. -/
def Core.take (c : Core) (f : Firing) : Core × List Out :=
  let idle := c.firing.isNone && c.stagedF.isEmpty
  let d : Core := { c with slotCnt := assocSet c.slotCnt f.task.num ((assoc c.slotCnt f.task.num).getD 0 + 1), stagedF := c.stagedF ++ [f] }
  let e := d.issueLandings
  match idle, e.stagedF with
  | true, g :: gs => ({ e with stagedF := gs } : Core).begin g
  | _, _ => (e, [])

/-- The landing slot of the next firing of a task on a core (05 R156). -/
def Core.slotOf (c : Core) (t : Task) : Nat := (assoc c.slotCnt t.num).getD 0 % t.slots

/-- A rank of a gate's iteration goes to a core. -/
def State.give (s : State) (g : Gate) (t : Task) (i : Iter) (rank : Nat) (n member : Nat) : State :=
  (s.onCore n fun _ c => c.take (g.firingOf t c.modes s.ctxs[g.id.ctx].ns i rank member (c.slotOf t))).moved n

/-- The gate after its head iteration has been dispatched. -/
def State.dispatched (s : State) (g : Gate) (i : Iter) : State :=
  s.onGate g.id fun x => { x with iters := x.iters.filter fun j => j.ordinal ≠ i.ordinal, passed := 0, promoted := none }

/-- A gate's head offer is passed over; at the 64th time it is promoted (05 R162). -/
def State.passOver (s : State) (g : GateId) : State :=
  match s.gate g with
  | none => s
  | some x =>
    if x.promoted.isSome then s
    else if x.passed + 1 < 64 then s.onGate g fun y => { y with passed := y.passed + 1 }
    else s.onGate g fun y => { y with passed := 64, promoted := some s.wcc.toNat }

/-- Every other offer the core could have taken is passed over. -/
def State.passOthers (s : State) (g : GateId) : List (Gate × Task) → State
  | [] => s
  | x :: xs => (if x.1.id = g then s else s.passOver x.1.id).passOthers g xs

/-- A member that would take the same iteration in this cycle and comes before another: fewer firings, then a lower index (05 R161). -/
def State.beats (s : State) (g : GateId) (t : Task) (m n : Nat) : Bool :=
  match s.core m, s.core n with
  | some a, some b =>
    let x := a.firings.length
    let y := b.firings.length
    (decide (x < y) || (x == y && decide (t.members.idxOf m < t.members.idxOf n))) &&
      (match s.choose m a with
       | some (h, _, _) => h.id == g
       | none => false)
  | _, _ => false

/-- The members whose pick in this cycle went to another: they take nothing in it, and their credits stay (05 R161). -/
def State.outbid (s : State) (g : GateId) (t : Task) (core : Nat) : List Nat :=
  t.members.filter fun m => m != core && match s.core m with
    | some c => (s.choose m c).any fun x => x.1.id == g
    | none => false

/-- Cores have picked in this cycle. -/
def State.pickedBy (s : State) (l : List Nat) : State :=
  l.foldl (fun t n => match t.core n with
    | some c => t.setCore n { c with picked := some s.wcc }
    | none => t) s

/-- DISPATCH (05 R161): a core accepts an offer of a task that is no herd. -/
def evDispatch (core : Nat) (s : State) : Option State :=
  match s.core core with
  | none => none
  | some c =>
    match s.choose core c with
    | none => none
    | some (g, t, cr) =>
      match g.head with
      | none => none
      | some i =>
        if t.herd || t.members.any fun m => m != core && s.beats g.id t m core then none
        else
          let off := s.offers core
          let u := (s.setCore core { c with credits := cr, picked := some s.wcc }).pickedBy (s.outbid g.id t core)
          some (((u.give g t i 0 core (t.members.idxOf core)).dispatched g i).passOthers g.id off)

/-- The ranks of a herd go to its members, rank for rank. -/
def State.giveRanks (s : State) (g : Gate) (t : Task) (i : Iter) : Nat → List Nat → State
  | _, [] => s
  | k, n :: ns => (s.give g t i k n k).giveRanks g t i (k + 1) ns

/-- The members of a herd accept its offer, each as it chose before any did: their credits, and what they passed over. -/
def State.acceptHerd (s : State) (g : GateId) : List Nat → State → State
  | [], t => t
  | n :: ns, t =>
    s.acceptHerd g ns (match s.core n with
      | some c =>
        (match s.choose n c with
         | some (_, _, cr) => (t.setCore n { c with credits := cr, picked := some s.wcc }).passOthers g (s.offers n)
         | none => t)
      | none => t)

/-- HERD_DISPATCH (05 R164): every member chooses the herd's offer. -/
def evHerdDispatch (gate : GateId) (s : State) : Option State :=
  match s.gate gate, s.taskOf gate with
  | some g, some t =>
    (match g.head with
     | none => none
     | some i =>
       if t.herd && s.herdFree g t && t.members.all fun n => match s.core n with
           | some c => (match s.choose n c with
             | some (h, _, _) => h.id == gate
             | none => false)
           | none => false
       then
         let s := (s.acceptHerd gate t.members s).giveRanks g t i 0 t.members
         some ((s.dispatched g i).onGate gate fun x =>
           { x with live := x.live ++ (List.range t.hsize).map fun k => (t.tagOf i.ordinal, k, false) })
       else none)
  | _, _ => none

/-! ## Barriers (05 R165, 14 R398) -/

/-- The cores that run a rank of a herd iteration. -/
def State.ranksOf (s : State) (g : GateId) (tag : BitVec 16) : List Nat :=
  (s.cores.filter fun x => match x.2.firing with
    | some f => f.gate == g && f.tag == tag
    | none => false).map (·.1)

/-- Ranks of an iteration that count as arrived at a phase: those that arrived and those that have retired. -/
def Gate.arrivedAt (g : Gate) (tag : BitVec 16) (phase : Nat) : Nat :=
  (g.arrived.filter fun x => x.1 = tag ∧ x.2.1 = phase).length +
    (g.live.filter fun x => x.1 = tag ∧ x.2.2 ∧ !g.arrived.contains (tag, phase, x.2.1)).length

/-- A completed phase is released to the ranks. -/
def State.releasePhase (s : State) (g : GateId) (tag : BitVec 16) (phase : Nat) : State :=
  let s := s.onGate g fun x => { x with arrived := x.arrived.filter fun y => !(y.1 = tag ∧ y.2.1 = phase) }
  (s.ranksOf g tag).foldl (fun t n => match t.core n with
    | some c => t.setCore n { c with barRel := max c.barRel phase }
    | none => t) s

/-- Every phase of an iteration that has completed is released. -/
def State.releaseDue (s : State) (g : GateId) (hsize : Nat) : List (BitVec 16 × Nat × Nat) → State
  | [] => s
  | x :: xs =>
    let t := match s.gate g with
      | some y => if y.arrived.contains x ∧ hsize ≤ y.arrivedAt x.1 x.2.1 then s.releasePhase g x.1 x.2.1 else s
      | none => s
    t.releaseDue g hsize xs

/-- Releases of a gate's barriers that are due. -/
def State.releases (s : State) (g : GateId) : State :=
  match s.gate g, s.taskOf g with
  | some x, some t => s.releaseDue g t.hsize x.arrived
  | _, _ => s

/-- The arrival at the head of a member's port, once every earlier event and send of the rank is done (14 R398). -/
def State.arrivalOf (s : State) (g : GateId) (n : Nat) : Option (BitVec 16 × Nat × Nat) :=
  match s.core n with
  | none => none
  | some c =>
    match c.firing, c.port with
    | some f, j :: _ =>
      (match j.op with
       | .arrive phase =>
         if f.gate == g && c.works && (s.env n).globalsDone && !c.scanQ.any EngJob.isSend then some (f.tag, phase, f.rank) else none
       | _ => none)
    | _, _ => none

/-- The first member of a list for which there is something, with it. -/
def firstMember {α : Type} (h : Nat → Option α) : List Nat → Option (Nat × α)
  | [] => none
  | n :: ns => match h n with
    | some x => some (n, x)
    | none => firstMember h ns

/-- BARRIER_ARRIVAL (14 R398): the gate takes a rank's arrival; a phase every rank has reached is released. -/
def evBarrierArrival (gate : GateId) (s : State) : Option State :=
  match s.taskOf gate with
  | none => none
  | some t =>
    match firstMember (s.arrivalOf gate) t.members with
    | none => none
    | some (n, a) =>
      (s.coreEvent n fun c => some (c.portDone none, [])).map fun x =>
        (x.onGate gate fun g => { g with arrived := g.arrived ++ [a] }).releases gate

/-- HERD_ABORT in a core: a fault of its running firing, the trap of a staged one at its ENTRY, none of whose landings starts (05 R159). -/
def Core.abort (c : Core) (mine : Firing → Bool) : Core :=
  let d := (c.stagedF.filter mine).foldl (fun x f => x.unissue f) c
  { d with
    dfaults := if (d.firing.elim false mine) && !d.dfaults.any fun d => d.code == trapHerdAbort then
        d.dfaults ++ [{ code := trapHerdAbort, addr := 0, space := 0, access := 0, xch := 0, seq := 0, xid := 0 }]
      else d.dfaults
    stagedF := d.stagedF.map fun f => if mine f then { f.unissued with failed := some (trapHerdAbort, 0) } else f }

/-- HERD_ABORT in the ranks of an iteration that have not retired (05 R165, R166). -/
def State.abortHerd (s : State) (g : GateId) (tag : BitVec 16) (but : Option Nat) : State :=
  { s with cores := s.cores.map fun x => (x.1, x.2.abort fun f => f.gate == g && f.tag == tag && some f.rank != but) }

/-- BARRIER_TIMEOUT (05 R165). -/
def evBarrierTimeout (core : Nat) (s : State) : Option State :=
  match s.core core with
  | none => none
  | some c =>
    match c.firing with
    | none => none
    | some f =>
      if f.task.herd && s.timerRuns c && c.running && c.issue.waits.contains .phase && decide (c.barRel < c.barArr)
          && decide (2 ^ f.task.btmo < c.barWait) && !c.dfaults.any fun d => d.code == trapHerdAbort then
        some (s.abortHerd f.gate f.tag none)
      else none

/-! ## Triggers and ends of streams (05 R167, 14 R395) -/

/-- A trigger's message has come to a gate. -/
def triggerAt (gate : GateId) (f : Flying) : Bool :=
  match f.place, f.msg.body with
  | .gate h _, .control g (.trigger _ _) => h == gate && g == gate
  | _, _ => false

/-- TRIGGER_COUNT (05 R167). -/
def evTriggerCount (gate : GateId) (s : State) : Option State :=
  match takeMsg (triggerAt gate) s.msgs with
  | none => none
  | some (f, rest) =>
    let n := s.gateRouter gate
    let t := ({ s with msgs := rest } : State).moved n
    match s.judge n f.msg.cpl with
    | .hold => none
    | .stray => some (t.stray n (placePort f.place) f.msg)
    | .pass => some (t.onGate gate fun g => { g with triggered := g.triggered + 1 })

/-- The request for a stream's end at the head of a member's port. -/
def State.eosOf (s : State) (g : GateId) (n : Nat) : Option (BitVec 20) :=
  match s.core n with
  | none => none
  | some c =>
    match c.firing, c.port with
    | some f, j :: _ => (match j.op with
      | .eosRequest tensor => if f.gate == g && c.works then some tensor else none
      | _ => none)
    | _, _ => none

/-- EOS_REQUEST (14 R395): the gate records it, once a run. -/
def evEosRequest (gate : GateId) (s : State) : Option State :=
  match s.taskOf gate with
  | none => none
  | some t =>
    match firstMember (s.eosOf gate) t.members with
    | none => none
    | some (n, tensor) =>
      (s.coreEvent n fun c => some (c.portDone none, [])).map fun x =>
        x.onGate gate fun g =>
          if g.eos.contains tensor ∨ g.eosDone.contains tensor then g else { g with eos := g.eos ++ [tensor] }

/-- The tile that ends a stream (14 R395). -/
def eosTile (ns : BitVec 8) (tensor : BitVec 20) : Tile :=
  { name := nameOf ns tensor eosIndex, tag := 0, back := false, live := false
    bursts := [{ scale := 0, fmt := .f32, eos := true, tokens := [] }] }

/-- Every dispatched firing of a gate has retired. -/
def Gate.quiet (g : Gate) (t : Task) : Bool := (g.nextOrd - g.iters.length) * t.hsize == g.retired && g.live.isEmpty

/-- EOS_EMIT (14 R395): every member of the pen injects the tile at its router, behind the publications it has injected. -/
def evEosEmit (gate : GateId) (s : State) : Option State :=
  match s.gate gate, s.taskOf gate with
  | some g, some t =>
    if !g.eos.isEmpty && g.exhausted t && g.quiet t && s.ctxs[gate.ctx].state == .running then
      let ns := s.ctxs[gate.ctx].ns
      let s := s.onGate gate fun x => { x with eos := [], eosDone := x.eosDone ++ g.eos }
      some (t.members.foldl (fun x m => g.eos.foldl (fun y e =>
        y.post (.source m 0) { cls := 0, cpl := (y.router m).plane, source := m, body := .publication (eosTile ns e) none }) x) s)
    else none
  | _, _ => none

/-! ## How a firing retires (05 R158, R167, R168, 06 R192, 11 R331) -/

/-- Every task of a graph has completed. -/
def Ctx.graphDone (k : Ctx) (graph : Nat) : Bool :=
  match k.cfg with
  | some g => (g.tasks.filter fun t => t.graph = graph).all fun t =>
      (k.gates.find? fun x => x.id.task = t.num).elim false fun x => x.done t
  | none => false

/-- A graph that has completed raises GRAPH_DONE, once a run (05 R168). -/
def State.finishGraph (s : State) (ctx : Fin 8) (graph : Nat) : State :=
  let k := s.ctxs[ctx]
  match (k.runnable.find? fun x => x.val = graph) with
  | some gr =>
    if k.graphDone graph && !k.doneG.contains gr then
      ({ s with ctxs := s.ctxs.set ctx { k with doneG := k.doneG ++ [gr] } } : State).raisePart 0x4A k.part (graph + ctx.val * 256)
    else s
  | none => s

/-- A herd iteration whose every rank has retired leaves the gate's records (05 R165). -/
def Gate.dropRetired (g : Gate) (tag : BitVec 16) : Gate :=
  if (g.live.filter fun x => x.1 = tag).all (·.2.2) then
    { g with live := g.live.filter fun x => x.1 ≠ tag, arrived := g.arrived.filter fun x => x.1 ≠ tag
             cbar := g.cbar.filter fun x => x.1 ≠ tag, holdTags := g.holdTags.filter fun x => x ≠ tag
             closed := g.closed.filter fun x => x.1 ≠ tag }
  else g

/-- Carries of a herd iteration that are still undelivered when it has retired (13 R369). -/
def State.dropHerdCarries (s : State) (g : GateId) (f : Firing) : State :=
  match s.gate g with
  | some x =>
    if x.live.any fun y => y.1 == f.tag then s
    else { s with msgs := s.msgs.filter fun m => match m.msg.body with
      | .carry c _ _ => !(c.tag == f.tag && f.task.members.contains m.msg.source)
      | _ => true }
  | none => s

/-- A firing counts as retired at its gate, unless its herd iteration does already: the task may complete, the graph with it; a barrier may be met. -/
def State.countRetired (s : State) (f : Firing) : State :=
  let s := s.onGate f.gate fun g =>
    let k := if g.closed.any fun x => x.1 == f.tag && x.2.1 == f.rank then 0 else 1
    let x : Gate := { g with retired := g.retired + k, triggered := if f.trig then g.triggered else g.triggered + k
                             live := g.live.map fun y => if y.1 = f.tag ∧ y.2.1 = f.rank then (y.1, y.2.1, true) else y }
    { x with completed := x.done f.task }
  let s := s.releases f.gate
  let s := s.onGate f.gate fun g => g.dropRetired f.tag
  (s.dropHerdCarries f.gate f).finishGraph f.ctx f.task.graph

/-- A rank has triggered. -/
def State.rankTrig (s : State) (g : GateId) (tag : BitVec 16) (rank : Nat) : Bool :=
  s.cores.any fun x => x.2.firings.any fun f => f.gate == g && f.tag == tag && f.rank == rank && f.trig

/-- A herd iteration counts as retired before its last ranks have: those that have not are counted now (05 R166). -/
def State.closeHerd (s : State) (f : Firing) : State :=
  let t := s.onGate f.gate fun g =>
    let left := (g.live.filter fun x => x.1 == f.tag && !x.2.2 && !g.closed.any fun y => y.1 == f.tag && y.2.1 == x.2.1).map fun x =>
      (x.1, x.2.1, s.rankTrig f.gate x.1 x.2.1)
    let x : Gate := { g with retired := g.retired + left.length, triggered := g.triggered + (left.filter fun y => !y.2.2).length
                             closed := g.closed ++ left, holdTags := g.holdTags.filter (· ≠ f.tag) }
    { x with completed := x.done f.task }
  t.finishGraph f.ctx f.task.graph

/-- Nothing of the running firing is outstanding in the core (11 R331). -/
def Core.settled (c : Core) : Bool :=
  c.flight.isEmpty && c.fills.isEmpty && c.matQ.isEmpty && c.scanQ.isEmpty && c.statQ.isEmpty && c.bankQ.isEmpty && c.copies.isEmpty
    && c.fetches.isEmpty && c.recvs.isEmpty && c.port.isEmpty && c.dfaults.isEmpty && c.gate.isEmpty

/-- Nothing of the running firing is outstanding in the module: its requests and walks. -/
def State.settledAt (s : State) (n : Nat) : Bool :=
  !(s.reqs.any fun r => r.agent == .core n && r.isEvent && !r.isDone) && !(s.walks.any fun w => w.core == n && w.handle.isSome)

/-- Banks whose issued mode differs from the configured one are returned and cleared (06 R192). -/
def Core.returnBanks (c : Core) : Core :=
  let back := (List.range 16).filter fun b => c.modes[bankOf (b * 0xC000)] != c.cfgModes[bankOf (b * 0xC000)]
  { c with modes := c.cfgModes
           spad := back.foldl (fun m b => Memory.clear m (b * 0xC000) 0xC000) c.spad
           cache := c.cache.filter fun k => !back.contains k.bank.val }

/-- The core once its firing has retired. -/
def Core.retired (c : Core) : Core :=
  { c.returnBanks with
    firing := none, nps := none, loops := [], gate := [], fifoUp := [], fifoDown := [], issue := Issue.at_ 0, fetched := [], barWait := 0 }

/-- RETIRE_COMPLETE (11 R331, 05 R158, R167). -/
def evRetireComplete (core : Nat) (s : State) : Option State :=
  match s.core core with
  | none => none
  | some c =>
    match c.firing with
    | none => none
    | some f =>
      if c.issue.retiring && c.running && c.works && c.waitsOk (s.env core) && c.settled && f.landings.all (·.done)
          && s.settledAt core && c.issue.owed == 0 then
        some (((((s.setCore core c.retired).moved core).countRetired f)).nextFiring core)
      else none

def execWalkerOpen (gate : GateId) (s : State) : Host.Outcome State Fault Refusal := event (evWalkerOpen gate s) s
def execDispatch (core : Nat) (s : State) : Host.Outcome State Fault Refusal := event (evDispatch core s) s
def execHerdDispatch (gate : GateId) (s : State) : Host.Outcome State Fault Refusal := event (evHerdDispatch gate s) s
def execBarrierArrival (gate : GateId) (s : State) : Host.Outcome State Fault Refusal := event (evBarrierArrival gate s) s
def execBarrierTimeout (core : Nat) (s : State) : Host.Outcome State Fault Refusal := event (evBarrierTimeout core s) s
def execTriggerCount (gate : GateId) (s : State) : Host.Outcome State Fault Refusal := event (evTriggerCount gate s) s
def execEosRequest (gate : GateId) (s : State) : Host.Outcome State Fault Refusal := event (evEosRequest gate s) s
def execEosEmit (gate : GateId) (s : State) : Host.Outcome State Fault Refusal := event (evEosEmit gate s) s
def execRetireComplete (core : Nat) (s : State) : Host.Outcome State Fault Refusal := event (evRetireComplete core s) s

end Sys2Proof.Machine
end

