-- ==== Sys2Proof/Machine/TrapReply.lean ====
section
/-! DEFINITION. Sys2Proof/Machine/TrapReply.lean: deferred faults and the replies of handlers: RESUME, RETRANSLATE and END (08 R243 to R249, R255,
R259, R260). -/

namespace Sys2Proof.Machine

/-- DEFERRED_FAULT (08 R243, R244): the first waiting fault is taken at a group boundary. -/
def evDeferredFault (core : Nat) (s : State) : Option State :=
  s.coreEvent core fun c =>
    match c.dfaults with
    | [] => none
    | d :: ds => if c.running && c.works && c.between then some (({ c with dfaults := ds } : Core).takeTrap d.info c.issue.pc) else none

/-- The running firing has faulted. -/
def Core.faulted (c : Core) : Bool :=
  match c.firing with
  | some f => f.state == .faulted
  | none => false

/-- A `fetch` that missed is sent again (14 R396). -/
def Core.refetch (c : Core) : Core :=
  { c with
    port := c.port ++ (c.fetches.filter (·.missed)).map fun f => { op := .fetch f.name f.tag f.xid, rsb := none }
    fetches := c.fetches.map fun f => { f with missed := false } }

/-- Faulted engine operations start again (08 R249). -/
def restartJobs (l : List EngJob) : List EngJob := l.map fun j => { j with faulted := false }

/-- A request of a core that waits in its pending list (08 R243). -/
def MemReq.pending (r : MemReq) (n : Nat) : Bool := r.agent == .core n && (r.stage == .faulted || r.stage == .cancelled)

/-- A request names a faulted or cancelled one, directly or through a chain of at most `n` (02 R60). -/
def State.follows (s : State) : Nat → MemReq → Bool
  | 0, _ => false
  | n + 1, r =>
    match r.pred with
    | some q => s.reqs.any fun x => x.agent == r.agent && x.seq == q && (x.stage == .faulted || x.stage == .cancelled || s.follows n x)
    | none => false

/-- A request that names a faulted one, directly or through a chain, and has still to be cancelled (02 R60). -/
def State.toCancel (s : State) (r : MemReq) : Bool :=
  r.stage != .done && r.stage != .served && r.stage != .faulted && r.stage != .cancelled && s.follows s.reqs.length r

/-- Every dependant of the core's faulted requests has been cancelled. -/
def State.cancelled (s : State) (n : Nat) : Bool := !s.reqs.any fun r => r.agent == .core n && s.toCancel r

/-- The herd leaves FAULT_HOLD when no other rank of the iteration has faulted (08 R260). -/
def State.leaveHold (s : State) (n : Nat) (f : Firing) : State :=
  let other := s.cores.any fun x => x.1 != n && x.2.faulted && (x.2.firing.elim false fun g => g.gate == f.gate && g.tag == f.tag)
    && bits x.2.trapRec[0].toNat 0 8 != trapHerdAbort.toNat
  if other then s else s.onGate f.gate fun g => { g with holdTags := g.holdTags.filter (· ≠ f.tag) }

/-- The fault token of a core, of a namespace, is answered. -/
def State.dropToken (s : State) (n : Nat) (ns : BitVec 8) : State := { s with tokens := s.tokens.filter fun t => !(t.core == n && t.ns == ns) }

/-- RESUME: the pending list is injected again in order, faulted operations start again, and the firing runs from MARK (08 R249). -/
def State.resumeCore (s : State) (n : Nat) : State :=
  match s.core n with
  | none => s
  | some c =>
    match c.firing with
    | none => s
    | some f =>
      let d := { c.resume.issueLandings.refetch with matQ := restartJobs c.matQ, scanQ := restartJobs c.scanQ, statQ := restartJobs c.statQ }
      let s := (s.setCore n d).leaveHold n f
      (({ s with reqs := s.reqs.map fun r => if r.pending n then { r with stage := .fresh } else r } : State)).dropToken n f.ns

/-- A page holds a virtual address. -/
def Handle.holds (h : Handle) (va : Nat) : Bool := decide (va / 2 ^ h.size.log = h.vpage / 2 ^ h.size.log)

/-- The handle RETRANSLATE names: the invalid one whose page holds the address of the trap, else the first invalid (08 R248). -/
def Core.lostHandle (c : Core) : Option (Fin 16) :=
  let bad := (List.finRange 16).filter fun h => !c.regs.h[h].valid
  match bad.find? fun h => c.regs.h[h].holds c.trapRec[2].toNat with
  | some h => some h
  | none => bad.head?

/-- The handle is empty, in the shadow too; the fill to come was asked for before the mark. -/
def Core.emptyHandle (c : Core) (h : Fin 16) : Core :=
  let d := c.markEmpty (.h h) none
  { d with shadow := { d.shadow with regs := d.shadow.regs.setFull (.h h) false }, fills := d.fills.map fun f => { f with old := true } }

/-- The handle's virtual page is walked again (08 R248). -/
def State.rewalk (s : State) (n : Nat) : State :=
  match s.core n with
  | none => s
  | some c =>
    match c.lostHandle with
    | none => s
    | some h => ((s.setCore n (c.emptyHandle h)).apply n (.walk h c.regs.h[h].vpage)).ageOf n

/-- Commands whose request the handler discards. -/
def Core.dropCopies (c : Core) (gone : List Nat) : List CopyJob → Core
  | [] => c
  | j :: js =>
    let d := c.dropCopies gone js
    match j.req with
    | some id => if gone.contains id then (d.freeEntry j.rsb).endCopy j else d
    | none => d

/-- Fetches that missed are discarded: their identifiers complete, their entries free. -/
def Core.dropFetches (c : Core) : List FetchJob → Core
  | [] => c
  | f :: fs =>
    let d := c.dropFetches fs
    if f.missed then (({ d with fetches := d.fetches.filter fun g => g ≠ f } : Core).freeEntry f.rsb).doneXid 3 f.xid else d

/-- Faulted operations of a queue are discarded. -/
def Core.dropJobs (c : Core) (q : Queue) : Core :=
  (c.queue q).foldl (fun d j => if j.faulted then (d.setQueue q ((d.queue q).filter fun x => x ≠ j)).freeEntry j.rsb else d) c

/-- The operation at the head of the port that read a word in error is discarded. -/
def Core.dropPort (c : Core) : Core :=
  match c.port with
  | j :: _ => if (c.badRead j.rsb).isSome then c.portDone j.rsb else c
  | [] => c

/-- END at the core: the pending list and the faulted operations go, and the firing retires once the others are done (08 R249). -/
def Core.endFiring (c : Core) (gone : List Nat) : Core :=
  let e := (((((c.dropCopies gone c.copies).dropFetches c.fetches).dropJobs .matrix).dropJobs .scan).dropJobs .stats).dropPort
  let d := c.firing.elim e e.unissue
  { d with
    fills := [], flight := [], dfaults := []
    issue := { Issue.at_ c.issue.pc with retiring := true }
    firing := d.firing.map fun f =>
      { f with state := if f.trig then .triggered else .running, failed := none, landings := f.landings.filter fun l => l.started } }

/-- END (08 R249, R260, 05 R166). -/
def State.endCore (s : State) (n : Nat) : State :=
  match s.core n with
  | none => s
  | some c =>
    match c.firing with
    | none => s
    | some f =>
      let gone := (s.reqs.filter fun r => r.pending n).map (·.id)
      let t := (({ s with reqs := s.reqs.filter fun r => !r.pending n } : State).setCore n (c.endFiring gone)).dropToken n f.ns
      if f.task.herd ∧ bits c.trapRec[0].toNat 0 8 ≠ trapHerdAbort.toNat then
        (t.abortHerd f.gate f.tag (some f.rank)).closeHerd f
      else t

/-- The replies of a handler. -/
inductive Reply where
  | resume | retranslate | end_
  deriving DecidableEq, Repr

/-- A reply by its number in a core's record. -/
def Reply.code : Reply → Fin 3
  | .resume => 0 | .retranslate => 1 | .end_ => 2

/-- A reply takes effect at a core. -/
def State.answer (s : State) (n : Nat) : Reply → State
  | .resume => s.resumeCore n
  | .retranslate => (s.rewalk n).resumeCore n
  | .end_ => s.endCore n

/-- The reply kept with a frozen core takes effect (08 R255). -/
def State.answerKept (s : State) (n : Nat) : State :=
  match s.core n with
  | some c =>
    let t := s.setCore n { c with reply := none }
    (match c.reply with
     | some 0 => t.answer n .resume
     | some 1 => t.answer n .retranslate
     | some _ => t.answer n .end_
     | none => s)
  | none => s

/-- A parked context's core waits for a reply: it is kept in the image (08 R256). -/
def Ctx.keepReply (k : Ctx) (n : Nat) (r : Reply) : Option Ctx :=
  match k.image with
  | some i =>
    (match assoc i.cores n with
     | some c => if c.faulted then some { k with image := some { i with cores := assocSet i.cores n { c with reply := some r.code } } } else none
     | none => none)
  | none => none

/-- The first context whose image keeps a reply. -/
def State.keepIn (s : State) (n : Nat) (r : Reply) : List (Fin 8) → Option State
  | [] => none
  | k :: ks => match s.ctxs[k].keepReply n r with
    | some c => some (({ s with ctxs := s.ctxs.set k c } : State).dropToken n s.ctxs[k].ns)
    | none => s.keepIn n r ks

/-- A handler's reply reaches a core: it takes effect, or is kept while the core is frozen or its context parked (08 R255, R256). -/
def State.reply (s : State) (n : Nat) (r : Reply) : Option State :=
  match s.core n with
  | some c =>
    if c.faulted then
      if c.frozen then some ((s.setCore n { c with reply := some r.code }).dropToken n c.ns)
      else if s.cancelled n then some (s.answer n r)
      else none
    else s.keepIn n r (List.finRange 8)
  | none => s.keepIn n r (List.finRange 8)

/-- The pager's answer to a core of a parked context is kept in its image (08 R256). -/
def State.keepFor (s : State) (n : Nat) (ns : BitVec 8) : Option State :=
  s.keepIn n .retranslate ((List.finRange 8).filter fun k => s.ctxs[k].ns = ns)

/-- RESUME (08 R249). -/
def evResume (core : Nat) (s : State) : Option State := s.reply core .resume
/-- RETRANSLATE (08 R248): the pager's answer to HANDLE_INVALID. -/
def evRetranslate (core : Nat) (s : State) : Option State :=
  s.tokens.findSome? fun t =>
    if t.core == core && t.pager then
      match s.core core with
      | some c => if c.faulted && c.ns == t.ns then s.reply core .retranslate else s.keepFor core t.ns
      | none => s.keepFor core t.ns
    else none
/-- END (08 R249). -/
def evEnd (core : Nat) (s : State) : Option State := s.reply core .end_

def execDeferredFault (core : Nat) (s : State) : Host.Outcome State Fault Refusal := event (evDeferredFault core s) s
def execResume (core : Nat) (s : State) : Host.Outcome State Fault Refusal := event (evResume core s) s
def execRetranslate (core : Nat) (s : State) : Host.Outcome State Fault Refusal := event (evRetranslate core s) s
def execEndFiring (core : Nat) (s : State) : Host.Outcome State Fault Refusal := event (evEnd core s) s

end Sys2Proof.Machine
end

