-- ==== Sys2Proof/Machine/Slices.lean ====
section
/-! DEFINITION. Sys2Proof/Machine/Slices.lean: the slices: where a request goes, what faults it, the second touch, replacement, and how an event
is performed at its timestamp (02 R44 to R60, 07 R214 to R221). -/

namespace Sys2Proof.Machine

/-! ## Addresses (02 R44, R48 to R51, R66 to R69) -/

/-- The first address of the deep tier (02 Table 2-1). -/
def deepBase : Nat := 0x100000000000

/-- Deep-tier links in service (00 Table 0-2). -/
def State.cxlLinks (s : State) : Nat := bits s.caps.toNat 20 4

/-- The links the deep tier interleaves over since the last restart: the lowest-numbered of those then in service, a power of two of them; granule g
lies on the link at g mod their number. The manual does not say which links, nor which granules on each (02 R69, log 31). -/
def State.deepList (s : State) : List (Fin 8) :=
  let l := (List.finRange 8).filter fun k => !s.economy && !s.inForce.cxlOut.contains k
  if l.isEmpty then [] else l.take (2 ^ Nat.log2 l.length)
def State.deepLinks (s : State) : Nat := s.deepList.length

/-- An address the pager may map: HBM, or the deep tier as far as its links reach (02 Table 2-1, R69). -/
def State.mapped (s : State) (pa : Nat) : Bool :=
  decide (pa < 0x11FF0000000) || (decide (deepBase ≤ pa) && decide (pa < deepBase + s.deepLinks * 0x8000000000))

/-- The link of a granule of the deep tier. -/
def State.linkOfDeep (s : State) (pa : Nat) : Fin 8 := (s.deepList[pa / 4096 % s.deepLinks]?).getD 0

/-- A granule of the deep tier on a link that has been lost (02 R69). -/
def State.onLostLink (s : State) (pa : Nat) : Bool :=
  decide (deepBase ≤ pa) && decide (0 < s.deepLinks) && s.lostCxl.contains (s.linkOfDeep pa)

/-! ## Regions and their keys (02 R66, R67) -/

/-- The region that holds an address. -/
def State.regionAt (s : State) (pa : Nat) : Option RegionEntry :=
  s.regions.find? fun r => decide (r.base ≤ pa / 0x200000) && decide (pa / 0x200000 < r.base + r.len)

/-- The key in a region's slot. -/
def State.keyOf (s : State) (r : RegionEntry) : Option (BitVec 512) := findFin s.keyTable r.slot

/-- An address in a region whose key is destroyed (02 R67). -/
def State.keyGone (s : State) (pa : Nat) : Bool := (s.regionAt pa).any fun r => (s.keyOf r).isNone

/-- The key under which a line travels to and from home memory; none outside every region. -/
def State.lineKey (s : State) (line : Nat) : Option (BitVec 512) := (s.regionAt (line * 128)).bind s.keyOf

/-- A slice holds the line. -/
def State.isHeld (s : State) (line : Nat) : Bool := s.slices.any fun x => x.2.lines.any fun l => l.line == line

/-- A line reads as it was written: a slice holds it in plain, or home memory has it under the key in force. -/
def State.inClear (s : State) (line : Nat) : Bool := s.isHeld line || assoc s.sealed line == s.lineKey line

/-- A line as it comes through its key: what lies under another key comes out as no one can say (02 R66, log 14). -/
def State.lineBytes (s : State) (line : Nat) : List Byte :=
  let home := s.pmem.bytes (line * 128) 128
  if s.inClear line then home
  else (List.range 128).map fun i => Sys2Proof.Config.garbled (assoc s.sealed line) (s.lineKey line) line home i

/-- Memory as an access to some lines sees it. -/
def State.view (s : State) (lines : List Nat) : Memory :=
  lines.foldl (fun m l => if s.inClear l then m else m.put (cellsAt (l * 128) (s.lineBytes l))) s.pmem

/-- A line is under a key in home memory, or under none. -/
def reseal (l : List (Nat × BitVec 512)) (line : Nat) (key : Option (BitVec 512)) : List (Nat × BitVec 512) :=
  match key with
  | some k => assocSet l line k
  | none => dropKey l line

/-- The lines of some addresses, each once. -/
def linesOf (l : List Nat) : List Nat := (l.map fun a => a / 128).eraseDups

/-- Every byte of a line is among the cells. -/
def coversLine (l : List (Nat × Byte)) (line : Nat) : Bool := (List.range 128).all fun k => (cellAt l (line * 128 + k)).isSome

/-- Lines of a slice that are written: home memory keeps what it has, which they no longer equal. -/
def Slice.unlike (x : Slice) (written : List Nat) (m : Memory) : Slice :=
  let keep := fun (l : SLine) => written.contains l.line && l.home.isNone
  { x with lines := x.lines.map fun l => if keep l then { l with home := some (m.bytes (l.line * 128) 128) } else l }

/-- Bytes written: into the slices' lines, which home memory then no longer equals; elsewhere into home memory, a line at a time under its key.
A line written whole is no longer in error (02 R46, R48, R55, R66). -/
def State.putMem (s : State) (cells : List (Nat × Byte)) : State :=
  let lines := linesOf (cells.map (·.1))
  { s with
    pmem := (s.view lines).put cells
    sealed := lines.foldl (fun l x => if s.isHeld x then l else reseal l x (s.lineKey x)) s.sealed
    slices := s.slices.map fun x => (x.1, x.2.unlike lines s.pmem)
    eccBad := s.eccBad.filter fun l => !coversLine cells l }

/-- A line that a read finds in error: its code is over the whole line; or it lies on a lost link (02 R46, R69). -/
def State.badLine (s : State) (line : Nat) : Bool := s.eccBad.contains line || s.onLostLink (line * 128)

/-- A partition's access to an address is refused (02 R44, R51, R67). -/
def State.refusesPa (s : State) (part : Fin 16) (pa : Nat) : Bool :=
  !s.mapped pa || s.keyGone pa || match s.part part with
    | some p => !p.frames.contains (pa / 0x200000)
    | none => true

/-- The slice list of a partition: that of the active plane, else the one the mapper gave the partition (02 R49). -/
def State.sliceList (s : State) (part : Fin 16) : SliceList :=
  match s.part part with
  | some p => ((if s.planeOf (coreNum p.x0 p.y0) then p.planeB else p.planeA).map (·.slices)).getD p.slices
  | none => SliceList.none_

/-- The slice of a physical address for a partition (02 R50). -/
def State.sliceOf (s : State) (part : Fin 16) (pa : Nat) : Nat :=
  let l := s.sliceList part
  let n := l.n.val
  (l.list[(if n = 0 then 0 else foldXor (pa / 128 % 2 ^ 39) n % 2 ^ n) % 64]'(by omega)).val

/-- A slice, and one written. -/
def State.slice (s : State) (k : Nat) : Slice := (assoc s.slices k).getD Slice.reset
def State.setSlice (s : State) (k : Nat) (x : Slice) : State := { s with slices := assocSet s.slices k x }

/-! ## Lines (02 R48, 07 R215, R216) -/

/-- The set of a line (02 R48). -/
def setOf (line : Nat) : Nat := (line % 4096) ^^^ (line / 4096 % 4096)

/-- A line a slice holds. -/
def Slice.find (x : Slice) (line : Nat) : Option SLine := x.lines.find? fun l => l.line = line

/-- Stamps of a line: those of its entry, or the memory stamp it would be filled with (07 R215). -/
def Slice.stamps (x : Slice) (line : Nat) : Nat × Nat :=
  match x.find line with
  | some l => (l.wts, l.rts)
  | none => (x.mts, x.mts)

/-- The tree bits of a set after an access to a way: each node on its path points away (02 R48). -/
def touchTree (t : BitVec 15) (way : Nat) : BitVec 15 :=
  let leaf := 16 + way
  [leaf / 2, leaf / 4, leaf / 8, leaf / 16].foldl (fun b k =>
    let child := if k = leaf / 2 then leaf else if k = leaf / 4 then leaf / 2 else if k = leaf / 8 then leaf / 4 else leaf / 8
    setBit b (k - 1) (child % 2 == 0)) t

/-- The way the bits point to from the root. -/
def treeVictim (t : BitVec 15) : Nat :=
  let go := fun k => 2 * k + boolBit (t.getLsbD (k - 1))
  go (go (go (go 1))) - 16

/-- The tree bits of a set. -/
def Slice.treeOf (x : Slice) (set_ : Nat) : BitVec 15 := (assoc x.tree set_).getD 0

/-- An access to a way of a set. -/
def Slice.touch (x : Slice) (set_ way : Nat) : Slice := { x with tree := assocSet x.tree set_ (touchTree (x.treeOf set_) way) }

/-- The reservations on a line. -/
def Slice.resvs (x : Slice) (line : Nat) : List Resv := (x.resv.filter fun r => r.1 = line).map (·.2)

/-- A line is write-reserved; reserved at all (07 R220). -/
def Slice.writeHeld (x : Slice) (line : Nat) : Bool := (x.resvs line).any fun r => match r with
  | .write _ => true
  | _ => false
def Slice.held (x : Slice) (line : Nat) : Bool := !(x.resvs line).isEmpty

/-- A victim's way for a fill: the lowest invalid, else the tree's, else the lowest that is neither reserved nor being filled; none where
there is none (02 R48). -/
def Slice.victim (x : Slice) (set_ : Nat) : Option Nat :=
  let at_ := fun w => x.lines.find? fun l => l.set_ = set_ ∧ l.way = w
  let filling := fun w => x.fills.any fun f => setOf f.1 == set_ && f.2 == w
  let free := fun w => !filling w && match at_ w with
    | some l => !x.held l.line
    | none => true
  match (List.range 16).find? fun w => (at_ w).isNone && !filling w with
  | some w => some w
  | none => if free (treeVictim (x.treeOf set_)) then some (treeVictim (x.treeOf set_)) else (List.range 16).find? free

/-- A line leaves its slice: written back where it is dirty and is to be, else home memory keeps what it had; the memory stamp rises to its read
stamp (02 R48, R67, 07 R215). -/
def State.evict (s : State) (k : Nat) (l : SLine) (back : Bool) : State :=
  let x := s.slice k
  let t := s.setSlice k { x with mts := max x.mts l.rts, lines := x.lines.filter fun y => y.line ≠ l.line }
  if back && l.dirty then { t with sealed := reseal s.sealed l.line (s.lineKey l.line) }
  else match l.home with
    | some b => { t with pmem := s.pmem.put (cellsAt (l.line * 128) b) }
    | none => t

/-- A way is taken for a fill: the line there leaves. -/
def State.beginFill (s : State) (k line way : Nat) : State :=
  let t := match (s.slice k).lines.find? fun l => l.set_ = setOf line ∧ l.way = way with
    | some l => s.evict k l true
    | none => s
  t.setSlice k { t.slice k with fills := (t.slice k).fills ++ [(line, way)] }

/-- A slice's fill of a line is over. -/
def Slice.endFill (x : Slice) (line : Nat) : Slice := { x with fills := x.fills.filter fun f => f.1 ≠ line }

/-- A line from home memory enters the way its fill took, with the memory stamp (07 R215). -/
def State.install (s : State) (k line way : Nat) : State :=
  let x := (s.slice k).endFill line
  let home := if s.inClear line then none else some (s.pmem.bytes (line * 128) 128)
  let l : SLine := { line, set_ := setOf line, way, dirty := false, wts := x.mts, rts := x.mts, home }
  ({ s with pmem := s.view [line] } : State).setSlice k (({ x with lines := x.lines ++ [l] } : Slice).touch l.set_ way)

/-- Stamps of a line after an event: in its entry, or in the memory stamp when it is not held. -/
def Slice.stamp (x : Slice) (line wts rts : Nat) (write : Bool) : Slice :=
  match x.find line with
  | some l =>
    ({ x with lines := x.lines.map fun y => if y.line = line then { y with wts, rts, dirty := y.dirty || write } else y } : Slice).touch
      l.set_ l.way
  | none => { x with mts := max x.mts rts }

/-! ## The second touch (02 R55) -/

/-- The three hashes of a line address. -/
def bloomHashes (line : Nat) : List Nat := [1, 0x2D4B5, 0x5B1E3].map fun k => foldXor (line * k % 2 ^ 39) 14

/-- A filter holds a line. -/
def inBloom (f : List Nat) (line : Nat) : Bool := (bloomHashes line).all f.contains

/-- The line is found in one of the filters. -/
def Slice.touched (x : Slice) (line : Nat) : Bool := inBloom x.filterA line || inBloom x.filterB line

/-- A line inserted into the current filter. -/
def Slice.remember (x : Slice) (line : Nat) : Slice :=
  let add := fun (f : List Nat) => f ++ (bloomHashes line).filter fun h => !f.contains h
  if x.current then { x with filterB := add x.filterB } else { x with filterA := add x.filterA }

/-- BLOOM_ALTERNATE (02 R55): at each multiple of 65,536 of the WCC the older filter is cleared and becomes the current one. -/
def evBloomAlternate (s : State) : Option State :=
  if s.wcc.toNat / 65536 = s.bloomAt then none
  else
    some { s with
      bloomAt := s.wcc.toNat / 65536
      slices := s.slices.map fun x =>
        (x.1, if x.2.current then { x.2 with filterA := [], current := false } else { x.2 with filterB := [], current := true }) }

/-! ## Logical clocks (07 R215, R216) -/

/-- The floor of every logical clock. -/
def State.floor (s : State) : Nat := s.wcc.toNat / 128

/-- An agent's logical clock. -/
def State.lts (s : State) (a : Agent) : Nat :=
  max s.floor (match a with
    | .core n => (match s.core n with
      | some c => c.lts
      | none => 0)
    | a => lookupD 0 s.agentLts a)

/-- An agent's clock raised. -/
def State.raiseLts (s : State) (a : Agent) (t : Nat) : State :=
  match a with
  | .core n =>
    (match s.core n with
     | some c => s.setCore n { c with lts := max c.lts t }
     | none => s)
  | a => { s with agentLts := putKey s.agentLts a (max (lookupD 0 s.agentLts a) t) }

/-- LTS_FLOOR (07 R215): every clock below WCC div 128 takes that value. -/
def evLtsFloor (s : State) : Option State :=
  let f := s.floor
  if (s.cores.any fun x => decide (x.2.lts < f)) || s.agentLts.any fun x => decide (x.2 < f) then
    some { s with
      cores := s.cores.map fun x => (x.1, { x.2 with lts := max x.2.lts f })
      agentLts := s.agentLts.map fun x => (x.1, max x.2 f) }
  else none

/-! ## Performing an event (07 Table 7-3) -/

/-- The new value of an AMO (14 R386). -/
def amoValue (op : Nat) (ty : Ty) (old b c : Nat) : Nat :=
  let w := 8 * tySize ty
  match op with
  | 0 => (old + b) % 2 ^ w
  | 1 => if tyVal ty old ≤ tyVal ty b then old % 2 ^ w else b % 2 ^ w
  | 2 => if tyVal ty old < tyVal ty b then b % 2 ^ w else old % 2 ^ w
  | 3 => b % 2 ^ w
  | 4 => if old % 2 ^ w = c % 2 ^ w then b % 2 ^ w else old % 2 ^ w
  | _ => (toF32 .rne (sumVals false [f32 (BitVec.ofNat 32 old), f32 (BitVec.ofNat 32 b)])).1.toNat

/-- The line's own bytes by address. -/
def lineCells (m : Memory) (line : Nat) : List (Nat × Byte) := cellsAt (line * 128) (m.bytes (line * 128) 128)

/-! ## The memory plane (03 R75, R78, R87, log 14) -/

/-- The edge router by which a slice's agent is reached from a router: the nearest of the agent's, the first of those as near. The manual does not say
where a slice's channel port lies (log 14). -/
def sliceEdge (k n : Nat) : Nat :=
  ((agentRouters ⟨k / 4 % 24, by omega⟩).foldl (fun b x => match b with
    | none => some x
    | some j => if hops n x < hops n j then some x else some j) none).getD 0

/-- The core whose request it is. -/
def MemReq.core (r : MemReq) : Nat :=
  match r.agent with
  | .core n => n
  | _ => 0

/-- A message of a request to its slice, or from it: one flit, and two for every whole line it carries (log 14). -/
def memMsg (tok : MemTok) (n k : Nat) (back : Bool) (lines : Nat) : Msg :=
  let e := sliceEdge k n
  { cls := if back then 5 else 4, cpl := false, source := if back then e else n
    body := .mem tok (if back then n else e) (!back) (1 + 2 * lines) }

/-- A slice sends an answer to a request's core. -/
def State.sliceAnswer (s : State) (tok : MemTok) (r : MemReq) (k lines : Nat) : State :=
  s.emit (sliceEdge k r.core) 5 (memMsg tok r.core k true lines)

/-- The message is about this. -/
def Flying.tells (f : Flying) (tok : MemTok) : Bool :=
  match f.msg.body with
  | .mem t _ _ _ => t == tok
  | _ => false

/-- A message of the memory plane goes on; with whether it has come to its end, where it is taken. -/
def State.memHop (s : State) (tok : MemTok) : Option (State × Bool) :=
  (s.msgs.find? fun f => f.tells tok).bind fun f =>
    match f.place with
    | .input n p =>
      if s.firstIn n p f.msg.cls 0 ≠ some f then none
      else
        (match s.wayOf n f.msg.body with
         | some o =>
           if o = 0 ∨ o = 5 then (s.pour n f []).map fun r => (r.1.moved n, r.2.2)
           else (s.goOn n f [o]).map fun r => (r.1, false)
         | none => none)
    | .source n p => (s.sourceIn n p f.msg.cls 0).map fun t => (t, false)
    | .detour a o d l => ((detourSite a o d l).bind fun x => s.transit x.1 x.2 f.msg.cls 0).map fun t => (t, false)
    | _ => none

/-- Something about a request is on its way. -/
def State.telling (s : State) (tok : MemTok) : Bool := s.msgs.any fun f => f.tells tok

/-- Messages about requests that are no more go with them. -/
def State.tidy (s : State) : State :=
  { s with msgs := s.msgs.filter fun f => match f.msg.body with
      | .mem (.request i) _ _ _ => s.reqs.any fun r => r.id == i && r.stage == .sent
      | .mem (.accepted i) _ _ _ => s.reqs.any fun r => r.id == i && r.stage != .cancelled
      | .mem (.prepared i) _ _ _ => s.reqs.any fun r => r.id == i && r.stage != .cancelled
      | .mem (.completed i) _ _ _ => s.reqs.any fun r => r.id == i
      | _ => true }

/-- A request has been performed: its timestamp, the stamps its line has, and what it read; its completion leaves its slice. -/
def State.performed (s : State) (r : MemReq) (k ts : Nat) (data : List (Nat × Byte)) : State :=
  let st := (s.slice k).stamps (r.pa / 128)
  ({ s with reqs := s.reqs.map fun q => if q.id = r.id then { q with stage := .served, ts, data, wts := st.1, rts := st.2 } else q } : State).sliceAnswer
    (.completed r.id) r k (match r.kind with
      | .load _ _ true => 1
      | .prefetch true => 1
      | _ => 0)

/-- A line stamped at its slice. -/
def State.stampAt (s : State) (k line wts rts : Nat) (write : Bool) : State := s.setSlice k ((s.slice k).stamp line wts rts write)

/-- A request performed at its slice: timestamp, stamps, memory, and what it reads (07 Table 7-3). -/
def State.perform (s : State) (r : MemReq) : State :=
  let k := s.sliceOf r.part r.pa
  let line := r.pa / 128
  let (wts, rts) := (s.slice k).stamps line
  let m := s.view [line]
  let old := m.nat r.pa r.size
  let rd := max r.lts wts
  let wr := max r.lts (rts + 1)
  match r.kind with
  | .load _ _ lease => (s.stampAt k line wts (max rts (if lease then rd + 64 else rd)) false).performed r k rd (lineCells m line)
  | .prefetch lease => (s.stampAt k line wts (max rts (if lease then rd + 64 else rd)) false).performed r k rd (lineCells m line)
  | .store n v => ((s.putMem (cellsAt r.pa (leBytes n v.toNat))).stampAt k line wr wr true).performed r k wr []
  | .amo op _ ty b c =>
    ((s.putMem (cellsAt r.pa (leBytes (tySize ty) (amoValue op ty old b.toNat c.toNat)))).stampAt k line wr wr true).performed r k wr
      (cellsAt r.pa (leBytes (tySize ty) old))
  | .tileLoad => s
  | .tileStore => s

/-! ## Arrival and acceptance (02 R52, R53, R57) -/

/-- A request changed. -/
def State.onReq (s : State) (id : Nat) (f : MemReq → MemReq) : State :=
  { s with reqs := s.reqs.map fun r => if r.id = id then f r else r }

/-- A request of the module. -/
def State.req (s : State) (id : Nat) : Option MemReq := s.reqs.find? fun r => r.id = id

/-- The predecessor of a request while it is outstanding. -/
def State.predOf (s : State) (r : MemReq) : Option MemReq :=
  r.pred.bind fun q => s.reqs.find? fun x => x.agent = r.agent ∧ x.seq = q ∧ x.isEvent ∧ !x.isDone

/-- A tile request, which its performer carries through prepare and commit (07 R220). -/
def MemReq.isTile (r : MemReq) : Bool := r.kind == .tileLoad || r.kind == .tileStore

/-- The lines of translated bytes. -/
def spotLines (l : List (Nat × Nat × Nat)) : List Nat := linesOf (l.map fun x => x.2.2)

/-- The slice of a line for a partition. -/
def State.sliceOfLine (s : State) (part : Fin 16) (line : Nat) : Nat := s.sliceOf part (line * 128)

/-- The slice a request is at: a tile's prepare goes from slice to slice. -/
def State.reqSlice (s : State) (r : MemReq) : Nat := if r.isTile then r.at_ else s.sliceOf r.part r.pa

/-- The lines a request is for at its slice. -/
def State.reqLines (s : State) (r : MemReq) : List Nat :=
  if r.isTile then (spotLines r.spots).filter fun l => s.sliceOfLine r.part l = r.at_ else [r.pa / 128]

/-- Requests of one slice, in a stage. -/
def State.atSlice (s : State) (k : Nat) (st : Stage) : List MemReq := s.reqs.filter fun r => r.stage == st && s.reqSlice r == k

/-- Entries of a slice's request queue (02 R52). -/
def State.queueLoad (s : State) (k : Nat) : Nat :=
  (s.reqs.filter fun q => s.reqSlice q == k && match q.stage with
    | .queued | .filling _ => true
    | _ => false).length

/-- The core of a request lets it be injected (07 R225). -/
def State.injects (s : State) (r : MemReq) : Bool :=
  match r.agent with
  | .core n => (match s.core n with
    | some c => c.works
    | none => false)
  | _ => true

/-- The copy of a line that a load would hit: in a CACHE-mode bank, its lease not lapsed nor ended (07 R216, R229). -/
def State.cacheHit (s : State) (r : MemReq) : Option CLine :=
  match r.kind, r.agent with
  | .load _ _ true, .core n =>
    (match s.core n with
     | some c => c.cache.find? fun l => l.line = r.pa / 128 ∧ !l.ended ∧ s.lts (.core n) ≤ l.rts
     | none => none)
  | _, _ => none

/-- The next slice with lines of a tile, from a number up. -/
def State.nextSlice (s : State) (r : MemReq) (from_ : Nat) : Option Nat :=
  bestOf (fun a b => decide (a < b)) (((spotLines r.spots).map fun l => s.sliceOfLine r.part l).filter fun k => from_ ≤ k)

/-- The slice a request arrives at next: a scalar request its own, a translated tile's prepare the next in order (07 R220). -/
def State.arrivesAt (s : State) (r : MemReq) : Option Nat :=
  match r.stage with
  | .fresh => if r.isTile then none else some (s.sliceOf r.part r.pa)
  | .prepared k => s.nextSlice r k
  | _ => none

/-- A request enters the request queue of the slice it has come to, or its spill queue, and its acceptance leaves, a tile's with the last of its
prepares; with both full it waits in the memory plane (02 R52, R53, R57, 07 R220, log 14). -/
def State.enterSlice (s : State) (r : MemReq) : Option State :=
  let k := r.at_
  let spill := (s.atSlice k .spilled).length
  let to_ : Option Stage := if s.queueLoad k < 64 ∧ spill = 0 then some .queued else if spill < 4096 then some .spilled else none
  to_.map fun st =>
    let t : State := { (s.onReq r.id fun q => { q with stage := st, arr := s.nextReq }) with nextReq := s.nextReq + 1 }
    if r.isTile && (s.nextSlice r (k + 1)).isSome then t else t.sliceAnswer (.accepted r.id) r k 0

/-- A request of a core is injected toward the slice it goes to next: once its predecessor has been accepted (02 R57), and where its core's copy does
not serve it. -/
def State.injectReq (s : State) (r : MemReq) : Option State :=
  let pred := match s.predOf r with
    | some p => p.accepted
    | none => true
  if !pred || !s.injects r || (s.cacheHit r).isSome || s.telling (.prepared r.id) then none
  else
    (s.arrivesAt r).bind fun k =>
      let m := memMsg (.request r.id) r.core k false 0
      if s.room (.input r.core 0) m then
        some ((s.onReq r.id fun q => { q with stage := .sent, at_ := k, lts := max q.lts (s.lts q.agent) }).flow (.input r.core 0) m 0 m.body.flits)
      else none

/-- MEMORY_REQUEST_ARRIVAL (02 R52, R53, R57, 07 R220): a request, or a tile's prepare, is injected, goes on through the memory plane, and enters a
queue of its slice. -/
def evMemoryRequestArrival (req : Nat) (s : State) : Option State :=
  (s.req req).bind fun r =>
    if r.stage = .sent then (s.memHop (.request req)).bind fun x => if x.2 then x.1.enterSlice r else some x.1
    else s.injectReq r

/-- SPILL_RETURN (02 R52): the oldest spilled request returns as the queue has room. -/
def evSpillReturn (slice : Fin 96) (s : State) : Option State :=
  match bestOf (fun a b => decide (a.arr < b.arr)) (s.atSlice slice.val .spilled) with
  | some r => if s.queueLoad slice.val < 64 then some (s.onReq r.id fun q => { q with stage := .queued }) else none
  | none => none

/-- ACCEPTANCE_TOKEN (02 R52, R57): the token of a request that has entered a queue returns to its core. -/
def evAcceptanceToken (req : Nat) (s : State) : Option State :=
  (s.memHop (.accepted req)).map fun x => if x.2 then x.1.onReq req fun q => { q with accepted := true } else x.1

/-! ## Serving (02 R54, R55, R58, R60) -/

/-- An access code of the trap record (08 Table 8-2). -/
def ReqKind.access : ReqKind → Fin 8
  | .load .. => 0 | .store .. => 1 | .amo .. => 2 | .prefetch _ => 0 | .tileLoad => 0 | .tileStore => 1

/-- The deferred fault of a core's request: SPACE 2, its virtual address, and its SEQ or its transfer's identifier (14 R385, R390). -/
def State.reqFault (s : State) (r : MemReq) (code : Byte) (va : Nat) : DFault :=
  let xid := match r.agent with
    | .core n => ((s.core n).bind fun c => (c.copies.find? fun j => j.req = some r.id).map (·.xid)).getD 0
    | _ => 0
  { code, addr := BitVec.ofNat 64 va, space := 2, access := r.kind.access
    xch := (match r.kind with
      | .tileLoad => 0
      | .tileStore => 1
      | _ => 4)
    seq := if r.isTile then 0 else r.seq, xid }

/-- A deferred fault reaches a core. -/
def State.faultCore (s : State) (a : Agent) (d : DFault) : State :=
  match a with
  | .core n => (match s.core n with
    | some c => s.setCore n { c with dfaults := c.dfaults ++ [d] }
    | none => s)
  | _ => s

/-- A fill under way for a request is given up. -/
def State.dropFill (s : State) (r : MemReq) : State :=
  if r.stage = .filling true then s.setSlice (s.sliceOf r.part r.pa) ((s.slice (s.sliceOf r.part r.pa)).endFill (r.pa / 128)) else s

/-- A request faults: it withholds its completion; a hint is dropped (02 R60). -/
def State.failReq (s : State) (r : MemReq) (code : Byte) (va : Nat) : State :=
  let s := s.dropFill r
  if r.isEvent then (s.onReq r.id fun q => { q with stage := .faulted }).faultCore r.agent (s.reqFault r code va)
  else { s with reqs := s.reqs.filter fun q => q.id ≠ r.id }

/-- A request waits in a slice's queues and is not held for its predecessor: one that is held blocks no other (02 R58). -/
def State.waits (s : State) (q : MemReq) : Bool :=
  (s.predOf q).isNone && match q.stage with
    | .queued | .spilled => true
    | _ => false

/-- An earlier request to a line of the request waits at the slice (02 R54). -/
def State.behind (s : State) (r : MemReq) : Bool :=
  s.reqs.any fun q => q.id != r.id && q.part == r.part && s.reqSlice q == s.reqSlice r && decide (q.arr < r.arr) && s.waits q &&
    (s.reqLines q).any (s.reqLines r).contains

/-- Some line has a fill in flight. -/
def State.filling (s : State) (part : Fin 16) (lines : List Nat) : Bool :=
  s.reqs.any fun q => !q.isTile && q.part == part && lines.contains (q.pa / 128) && match q.stage with
    | .filling _ => true
    | _ => false

/-- The fill in flight of a line. -/
def State.fillOf (s : State) (r : MemReq) : Option MemReq :=
  s.reqs.find? fun q => q.id != r.id && !q.isTile && q.pa / 128 == r.pa / 128 && q.part == r.part && (match q.stage with
    | .filling _ => true
    | _ => false)

/-- A load performed at its core, from a copy in a CACHE-mode bank, once its predecessor has completed; the copy's stamps stay
(07 R216, R217). -/
def State.hitCache (s : State) (r : MemReq) : Option State :=
  match s.cacheHit r, s.predOf r with
  | some l, none => some (s.onReq r.id fun q =>
      { q with stage := .served, accepted := true, ts := max (s.lts q.agent) l.wts, wts := l.wts, rts := l.rts
               data := cellsAt (l.line * 128) l.bytes })
  | _, _ => none

/-- A miss: with a first touch the line is remembered and will be passed through; else a way is taken, if one can be (02 R48, R55). -/
def State.miss (s : State) (r : MemReq) (k : Nat) (alloc : Bool) : Option State :=
  let line := r.pa / 128
  if alloc then ((s.slice k).victim (setOf line)).map fun w => (s.beginFill k line w).onReq r.id fun q => { q with stage := .filling true }
  else some ((s.setSlice k ((s.slice k).remember line)).onReq r.id fun q => { q with stage := .filling false })

/-- REQUEST_SERVE (02 R54, R55, R69, 07 R216): a request at the head of its line is performed on a hit, or begins its fill; a miss that meets a fill
that was not to allocate makes it allocate; a load that hits its core's copy is performed there. -/
def evRequestServe (req : Nat) (s : State) : Option State :=
  match s.req req with
  | none => none
  | some r =>
    if r.isTile then none
    else if r.stage == .fresh then (if s.injects r then s.hitCache r else none)
    else
      let k := s.sliceOf r.part r.pa
      let x := s.slice k
      let line := r.pa / 128
      let writes := match r.kind with
        | .store .. => true
        | .amo .. => true
        | _ => false
      if r.stage != .queued || s.behind r || (s.predOf r).isSome || x.writeHeld line || (writes && x.held line) then none
      else if s.refusesPa r.part r.pa then some (s.failReq r trapProtFault r.va)
      else
        match s.fillOf r with
        | some f =>
          if f.stage = .filling false then
            (x.victim (setOf line)).map fun w => (s.beginFill k line w).onReq f.id fun q => { q with stage := .filling true }
          else none
        | none =>
          match x.find line with
          | some _ => some (if s.badLine line then s.failReq r trapEccUncorr r.va else s.perform r)
          | none => s.miss r k (x.touched line || !r.isEvent)

/-- LINE_FILL (02 R48, R55, 01 R39): the line is read from home memory; the request is then performed, or meets an error. -/
def evLineFill (req : Nat) (uncorrectable : Bool) (s : State) : Option State :=
  match s.req req with
  | none => none
  | some r =>
    let k := s.sliceOf r.part r.pa
    let line := r.pa / 128
    match r.stage with
    | .filling alloc =>
      if uncorrectable || s.badLine line then some (s.failReq r trapEccUncorr r.va)
      else if alloc then (assoc (s.slice k).fills line).map fun w => (s.install k line w).perform r
      else some (s.perform r)
    | _ => none

/-! ## Completion and cancellation (02 R58, R60, 07 R216, R217) -/

/-- The bank that takes a line: the one that holds it, else a CACHE-mode bank whose way of the set is empty and which no
`bankmode` is still to clear (06 R192), else the least recent (06 R190). -/
def Core.cacheBank (c : Core) (line : Nat) : Option (Fin 16) :=
  let inSet : List CLine := c.cache.filter fun k => k.line % 384 = line % 384
  match inSet.find? (fun k => k.line == line) with
  | some k => some k.bank
  | none =>
    let clearing := fun (b : Fin 16) => c.bankQ.any fun j => match j.op with
      | .bankmode k _ => k == b.val
      | _ => false
    match (List.finRange 16).find? (fun b => c.modes[b] == cacheMode && !clearing b && !inSet.any fun k => k.bank == b) with
    | some b => some b
    | none => (inSet.head?).map CLine.bank

/-- A core's copies of lines with one more. -/
def Core.cacheLine (c : Core) (l : CLine) : Core :=
  match c.cacheBank l.line with
  | some b => { c with cache := (c.cache.filter fun k => !(k.line = l.line ∨ (k.bank = b ∧ k.line % 384 = l.line % 384))) ++ [{ l with bank := b }] }
  | none => c

/-- A copy of a line is the most recent (06 R190). -/
def Core.recent (c : Core) (line : Nat) : Core :=
  { c with cache := c.cache.filter (fun k => k.line ≠ line) ++ c.cache.filter fun k => k.line = line }

/-- A copy's bytes with a store's. -/
def patch (base : Nat) (bytes : List Byte) (cells : List (Nat × Byte)) : List Byte :=
  (List.zip (List.range bytes.length) bytes).map fun x => (cellAt cells (base + x.1)).getD x.2

/-- What a completion does in its core: a load's value returns, a leased line is kept with the stamps it was given, a store reaches the core's own
copy, a tile store's command ends (06 R202, 07 R215, R216). -/
def Core.complete (c : Core) (r : MemReq) : Core :=
  let keep := fun (d : Core) =>
    if c.cache.any fun k => k.line == r.pa / 128 && k.wts == r.wts && k.rts == r.rts && !k.ended then d.recent (r.pa / 128)
    else d.cacheLine { line := r.pa / 128, bank := 0, wts := r.wts, rts := r.rts, ended := false, bytes := r.data.map (·.2) }
  let value := fun (ty : Ty) => tyWord ty (leNat ((List.range (tySize ty)).map fun i => (cellAt r.data (r.pa + i)).getD 0))
  match r.kind with
  | .load reg ty lease =>
    let d := c.give (.s reg) (.s reg (value ty))
    if lease && d.hasCache && r.data.length == 128 then keep d else d
  | .prefetch lease => if lease && c.hasCache && r.data.length == 128 then keep c else c
  | .amo op reg ty _ _ => c.give (.s reg) (.s reg (if op = 5 then tyWord .n32 (leNat (r.data.map (·.2))) else value ty))
  | .store n v =>
    { c with cache := c.cache.map fun l =>
        if l.line = r.pa / 128 then
          { l with bytes := patch (l.line * 128) l.bytes (cellsAt r.pa (leBytes n v.toNat)), wts := r.ts, rts := r.ts }
        else l }
  | .tileLoad => c
  | .tileStore =>
    let d := match c.copies.find? fun j => j.req = some r.id with
      | some j => c.endCopy j
      | none => c
    { d with cache := d.cache.map fun l =>
        if (spotLines r.spots).contains l.line then { l with bytes := patch (l.line * 128) l.bytes r.data, wts := r.ts, rts := r.ts } else l }

/-- The tile of a request is still to be written to its core's scratchpad. -/
def State.tileOpen (s : State) (r : MemReq) : Bool :=
  match r.agent with
  | .core n => r.kind == .tileLoad && (match s.core n with
    | some c => c.copies.any fun j => j.req == some r.id
    | none => false)
  | _ => false

/-- An event has completed: its timestamp reaches its agent, and the request that names it; its core takes what it read. -/
def State.completeReq (s : State) (r : MemReq) : State :=
  let s := s.raiseLts r.agent r.ts
  let s := match s.core r.core with
    | some c => s.setCore r.core (c.complete r)
    | none => s
  let reqs := s.reqs.map fun q => if q.agent = r.agent ∧ q.pred = some r.seq ∧ r.isEvent then { q with pred := none, lts := max q.lts r.ts } else q
  if s.tileOpen r then { s with reqs := reqs.map fun q => if q.id = r.id then { q with stage := .done } else q }
  else { s with reqs := reqs.filter fun q => q.id ≠ r.id }

/-- COMPLETION_TOKEN (02 R58, 07 R216, R217): the token goes on through the memory plane, and completes its event; what a core has performed at its own
copy has none to wait for. -/
def evCompletionToken (req : Nat) (s : State) : Option State :=
  (s.req req).bind fun r =>
    if r.stage ≠ .served then none
    else if s.telling (.completed req) then (s.memHop (.completed req)).map fun x => if x.2 then x.1.completeReq r else x.1
    else some (s.completeReq r)

/-- CANCELLATION (02 R60): a request that follows a faulted one, directly or through a chain, is discarded at its channel port after its core has
trapped, the last of a chain first; one issued before the mark stays in the pending list (08 R243). -/
def evCancellation (req : Nat) (s : State) : Option State :=
  match s.req req with
  | none => none
  | some r =>
    match r.agent with
    | .core n =>
      (match s.core n with
       | some c =>
         if c.faulted && s.toCancel r && !(s.reqs.any fun q => q.agent == r.agent && q.pred == some r.seq && s.toCancel q) then
           some (if r.old then s.onReq req fun q => { q with stage := .cancelled, accepted := false }
                 else { s with reqs := s.reqs.filter fun q => q.id ≠ req } : State).tidy
         else none
       | none => none)
    | _ => none

def execBloomAlternate (s : State) : Host.Outcome State Fault Refusal := event (evBloomAlternate s) s
def execLtsFloor (s : State) : Host.Outcome State Fault Refusal := event (evLtsFloor s) s
def execMemoryRequestArrival (req : Nat) (s : State) : Host.Outcome State Fault Refusal := event (evMemoryRequestArrival req s) s
def execSpillReturn (slice : Fin 96) (s : State) : Host.Outcome State Fault Refusal := event (evSpillReturn slice s) s
def execAcceptanceToken (req : Nat) (s : State) : Host.Outcome State Fault Refusal := event (evAcceptanceToken req s) s
def execRequestServe (req : Nat) (s : State) : Host.Outcome State Fault Refusal := event (evRequestServe req s) s
def execLineFill (req : Nat) (uncorrectable : Bool) (s : State) : Host.Outcome State Fault Refusal :=
  event (evLineFill req uncorrectable s) s
def execCompletionToken (req : Nat) (s : State) : Host.Outcome State Fault Refusal := event (evCompletionToken req s) s
def execCancellation (req : Nat) (s : State) : Host.Outcome State Fault Refusal := event (evCancellation req s) s

end Sys2Proof.Machine
end

