-- ==== Sys2Proof/Machine/Translate.lean ====
section
/-! DEFINITION. Sys2Proof/Machine/Translate.lean: events that several lines take part in, tile transfers in two phases, walks of the page tables, the
pager, and shootdowns (07 R211 to R213, R220, 08 R246, R247). -/

namespace Sys2Proof.Machine

/-! ## One event over several lines (07 R216, R220) -/

/-- A line comes to its slice as an access needs it: a held one is touched; one touched before takes a way; another is passed by. None where no way can
be taken yet (02 R48, R55). -/
def State.bring (s : State) (part : Fin 16) (line : Nat) : Option State :=
  let k := s.sliceOfLine part line
  let x := s.slice k
  match x.find line with
  | some l => some (s.setSlice k (x.touch l.set_ l.way))
  | none =>
    if x.touched line then (x.victim (setOf line)).map fun w => (s.beginFill k line w).install k line w
    else some (s.setSlice k (x.remember line))

/-- The lines come to their slices. -/
def State.bringAll (s : State) (part : Fin 16) : List Nat → Option State
  | [] => some s
  | l :: ls => (s.bring part l).bind fun t => t.bringAll part ls

/-- The stamps of a line. -/
def State.stampsOf (s : State) (part : Fin 16) (line : Nat) : Nat × Nat := (s.slice (s.sliceOfLine part line)).stamps line

/-- The timestamp of a read, or of a write, of lines from a clock (07 Table 7-3). -/
def State.readTs (s : State) (part : Fin 16) (lts : Nat) (lines : List Nat) : Nat := lines.foldl (fun t l => max t (s.stampsOf part l).1) lts
def State.writeTs (s : State) (part : Fin 16) (lts : Nat) (lines : List Nat) : Nat :=
  lines.foldl (fun t l => max t ((s.stampsOf part l).2 + 1)) lts

/-- The stamps of lines after a read at a timestamp, or a write. -/
def State.stampAll (s : State) (part : Fin 16) (ts : Nat) (write : Bool) : List Nat → State
  | [] => s
  | l :: ls =>
    let k := s.sliceOfLine part l
    let x := s.slice k
    let st := x.stamps l
    (s.setSlice k (if write then x.stamp l ts ts true else x.stamp l st.1 (max st.2 ts) false)).stampAll part ts write ls

/-- Lines that no tile has write-reserved; lines that none has reserved (07 R220). -/
def State.readFree (s : State) (part : Fin 16) (lines : List Nat) : Bool :=
  lines.all fun l => !(s.slice (s.sliceOfLine part l)).writeHeld l
def State.writeFree (s : State) (part : Fin 16) (lines : List Nat) : Bool :=
  lines.all fun l => !(s.slice (s.sliceOfLine part l)).held l

/-- Requests that reached their slice for some of the lines wait there unheld, or a fill of one is in flight: what comes now is behind them
(02 R54). -/
def State.lineBusy (s : State) (part : Fin 16) (lines : List Nat) : Bool :=
  s.filling part lines || s.reqs.any fun q => q.part == part && s.waits q && (s.reqLines q).any lines.contains

/-- An event of an agent that reads some addresses, and its timestamp; none while it must wait. -/
def State.readEvent (s : State) (a : Agent) (part : Fin 16) (addrs : List Nat) : Option (State × Nat) :=
  let lines := linesOf addrs
  if s.lineBusy part lines || !s.readFree part lines then none
  else (s.bringAll part lines).map fun t =>
    let ts := t.readTs part (t.lts a) lines
    ((t.stampAll part ts false lines).raiseLts a ts, ts)

/-- An event of an agent that writes some bytes, and its timestamp; none while it must wait. -/
def State.writeEvent (s : State) (a : Agent) (part : Fin 16) (cells : List (Nat × Byte)) : Option (State × Nat) :=
  let lines := linesOf (cells.map (·.1))
  if s.lineBusy part lines || !s.writeFree part lines then none
  else (s.bringAll part lines).map fun t =>
    let ts := t.writeTs part (t.lts a) lines
    (((t.putMem cells).stampAll part ts true lines).raiseLts a ts, ts)

/-! ## Where the bytes of a tile lie (07 R210, R212) -/

/-- A page's physical address of a virtual one. -/
def Handle.phys (h : Handle) (va : Nat) : Nat := h.pbase / h.size.bytes * h.size.bytes + va % h.size.bytes

/-- Where bytes lie: all of them, or the first that needs a walk, or the first that faults. -/
inductive Located where
  | at_ (l : List (Nat × Nat × Nat))
  | missing (va : Nat)
  | fault (code : Byte) (va : Nat)
  deriving DecidableEq, Repr

/-- Bytes by local and virtual address, translated in order (07 R210, 02 R51, 14 R389). -/
def locate (page : Nat → Option Handle) (write : Bool) (refuses : Nat → Bool) : List (Nat × Nat) → Located
  | [] => .at_ []
  | (a, va) :: rest =>
    if 2 ^ 52 ≤ va then .fault trapProtFault va
    else
      match page va with
      | none => .missing va
      | some h =>
        if !h.permits (if write then 1 else 0) || refuses (h.phys va) then .fault trapProtFault va
        else
          match locate page write refuses rest with
          | .at_ l => .at_ ((a, va, h.phys va) :: l)
          | r => r

/-- The field of a core or router (01 R22), which its translation agent serves. -/
def fieldOf (n : Nat) : Fin 72 := ⟨(coreY n / 12 * 9 + coreX n / 15) % 72, by omega⟩

/-- The page of a translation agent that maps an address. -/
def State.agentPage (s : State) (f : Fin 72) (ns : BitVec 8) (va : Nat) : Option Handle :=
  (s.agentTlb.find? fun e => e.1 = f ∧ e.2.maps ns va).map fun e => e.2.page

/-- The bytes of a tile transfer in stream order: local and virtual address (14 R389). -/
def Desc.tileBytes (d : Desc) (va : Nat) : List (Nat × Nat) :=
  (List.range d.tokens).flatMap fun t =>
    (List.range (tokBytes d.fmt)).map fun k => (d.tokenAddr t + k, va + (d.tokenAddr t - d.base) + k)

/-- The command of a core's tile request: its stream, address and page at issue. -/
def CopyOp.tile : CopyOp → Option (Desc × Nat × Handle)
  | .tld d va _ page => some (d, va, page)
  | .tst d va _ page => some (d, va, page)
  | _ => none

/-- The command that a request performs, once the streamer has started it. -/
def Core.tileJob (c : Core) (id : Nat) : Option (CopyJob × Desc × Nat × Handle) :=
  (c.copies.find? fun j => j.started && j.req == some id).bind fun j => j.op.tile.map fun x => (j, x)

/-- The pages of the local cache that some addresses use become the most recent (06 R205). -/
def useTlb (ns : BitVec 8) (l : List TlbEntry) (vas : List Nat) : List TlbEntry :=
  vas.foldl (fun l va => match l.find? fun e => e.maps ns va with
    | some e => l.filter (fun x => x ≠ e) ++ [e]
    | none => l) l

/-- The bytes of a core's tile request, translated through its handle, its local cache and the field's agent (07 R210). -/
def State.locateTile (s : State) (n : Nat) (c : Core) (r : MemReq) (d : Desc) (va : Nat) (h : Handle) : Located :=
  let page := fun a =>
    if h.holds a then some h
    else match c.tlb.find? fun e => e.maps r.ns a with
      | some e => some e.page
      | none => s.agentPage (fieldOf n) r.ns a
  locate page (r.kind == .tileStore) (s.refusesPa r.part) (d.tileBytes va)

/-! ## Tile transfers (07 R220) -/

/-- A tile's reservations are released. -/
def State.unreserve (s : State) (id : Nat) : State :=
  { s with slices := s.slices.map fun x => (x.1, { x.2 with resv := x.2.resv.filter fun e => e.2 ≠ .read id ∧ e.2 ≠ .write id }) }

/-- A tile faults: nothing of it is done, and it is replayed whole (07 R220). -/
def State.failTile (s : State) (r : MemReq) (code : Byte) (va : Nat) : State :=
  ((((s.unreserve r.id).onReq r.id fun q => { q with spots := [] }).failReq { r with spots := [] } code va).tidy)

/-- A walk for a tile request, unless one for that page goes on. -/
def State.walkFor (s : State) (n : Nat) (r : MemReq) (va : Nat) : Option State :=
  if s.walks.any fun w => w.req == some r.id then none
  else some { s with
    walks := s.walks ++ [{ id := s.nextReq, core := n, ns := r.ns, va, handle := none, req := some r.id, rim := none, stage := .asked
                           old := false }]
    nextReq := s.nextReq + 1 }

/-- A tile load whose every line its core holds in CACHE-mode banks, under leases that last to one timestamp, is performed there (06 R190, log 14). -/
def State.tileHit (s : State) (c : Core) (r : MemReq) : Option (Nat × List (Nat × Byte)) :=
  let copy := fun (l : Nat) => c.cache.find? fun k => k.line = l ∧ !k.ended
  let copies := (spotLines r.spots).filterMap copy
  let ts := copies.foldl (fun t k => max t k.wts) (s.lts r.agent)
  if r.kind == .tileLoad && copies.length == (spotLines r.spots).length && copies.all fun k => decide (ts ≤ k.rts) then
    let mem := fun (pa : Nat) => ((copy (pa / 128)).bind fun k => k.bytes[pa % 128]?).getD 0
    some (ts, r.spots.map fun x => (x.1, mem x.2.2))
  else none

/-- A core's tile is translated: it is performed at the core's copies, or its prepares are to be sent. -/
def State.tileReady (s : State) (n : Nat) (c : Core) (r : MemReq) : State :=
  match s.tileHit c r with
  | some (ts, data) =>
    (s.onReq r.id fun q => { q with spots := r.spots, stage := .served, accepted := true, ts, data }).setCore n
      ((spotLines r.spots).foldl Core.recent c)
  | none => s.onReq r.id fun q => { q with spots := r.spots, stage := .prepared 0 }

/-- A tile's first step: its bytes are translated, or a walk is asked for, or the tile faults. -/
def State.beginTile (s : State) (n : Nat) (c : Core) (r : MemReq) (x : CopyJob × Desc × Nat × Handle) : Option State :=
  match c.badRead x.1.rsb with
  | some a => (c.eccFault a).map fun d => s.setCore n d
  | none =>
    let vas := (x.2.1.tileBytes x.2.2.1).map (·.2)
    let d : Core := { c with tlb := useTlb r.ns c.tlb (vas.filter fun a => !x.2.2.2.holds a) }
    match s.locateTile n c r x.2.1 x.2.2.1 x.2.2.2 with
    | .fault code va => some ((s.failTile r code va).onCore n fun _ e => ({ e with tlb := d.tlb }, []))
    | .missing va => s.walkFor n r va
    | .at_ l => some ((s.setCore n d).tileReady n d { r with spots := l })

/-- A slice serves a tile's prepare: its lines come, are reserved, and their stamps count; its answer leaves (07 R220). -/
def State.prepareAt (s : State) (r : MemReq) : Option State :=
  let k := r.at_
  let lines := s.reqLines r
  let write := r.kind == .tileStore
  if (s.predOf r).isSome || s.behind r || s.filling r.part lines || !(if write then s.writeFree r.part lines else s.readFree r.part lines) then none
  else
    (s.bringAll r.part lines).map fun t =>
      let lts := max r.ts r.lts
      let ts := if write then t.writeTs r.part lts lines else t.readTs r.part lts lines
      let x := t.slice k
      let resv := x.resv ++ lines.map fun l => (l, if write then Resv.write r.id else Resv.read r.id)
      ((t.setSlice k { x with resv }).onReq r.id fun q => { q with stage := .prepared (k + 1), ts }).sliceAnswer (.prepared r.id) r k 0

/-- TILE_PREPARE (07 R220): a tile is translated; a prepare at the head of its slice's queue is served; the slice's answer returns. -/
def evTilePrepare (req : Nat) (s : State) : Option State :=
  (s.req req).bind fun r =>
    match r.stage, s.core r.core with
    | .fresh, some c => if (s.predOf r).isSome || !c.works || !r.isTile then none else (c.tileJob req).bind fun x => s.beginTile r.core c r x
    | .queued, _ => if r.isTile then s.prepareAt r else none
    | .prepared _, _ => (s.memHop (.prepared req)).map (·.1)
    | _, _ => none

/-- The first byte of a tile, by virtual address, that lies in a line in error or on a lost link: of a store, in one that it does not write whole
(02 R46, R55, R69). -/
def State.tileBad (s : State) (r : MemReq) : Option Nat :=
  let cells := r.spots.map fun x => (x.2.2, (0 : Byte))
  let bad := fun (l : Nat) => s.onLostLink (l * 128) || (s.eccBad.contains l && !(r.kind == .tileStore && coversLine cells l))
  let lines := (spotLines r.spots).filter bad
  (r.spots.find? fun x => lines.contains (x.2.2 / 128)).map fun x => x.2.1

/-- A tile load's bytes as they come. -/
def State.tileBytesIn (s : State) (r : MemReq) : List (Nat × Byte) :=
  let m := s.view (spotLines r.spots)
  r.spots.map fun x => (x.1, m.get x.2.2)

/-- A tile store's bytes as they leave the scratchpad. -/
def Core.tileBytesOut (c : Core) (r : MemReq) : List (Nat × Byte) := r.spots.map fun x => (x.2.2, c.spad.get x.1)

/-- A core's tile store has left its scratchpad: its source is released (06 R202). -/
def Core.storeLeaves (c : Core) (r : MemReq) : Core :=
  match c.copies.find? fun j => j.req = some r.id with
  | some j => c.freeReads j.rsb
  | none => c

/-- TILE_COMMIT (07 R220): every slice performs its lines at the tile's timestamp and releases them; the completion leaves the last of them. -/
def evTileCommit (req : Nat) (s : State) : Option State :=
  (s.req req).bind fun r =>
    match r.stage, s.core r.core with
    | .prepared k, some c =>
      if (s.nextSlice r k).isSome || r.spots.isEmpty || s.telling (.prepared req) then none
      else
        (match s.tileBad r with
         | some va => some (s.failTile r trapEccUncorr va)
         | none =>
           let write := r.kind == .tileStore
           let lines := spotLines r.spots
           let data := if write then c.tileBytesOut r else s.tileBytesIn r
           let t := if write then (s.putMem data).setCore r.core (c.storeLeaves r) else s
           some ((((t.stampAll r.part r.ts write lines).unreserve req).onReq req fun q => { q with stage := .served, data }).sliceAnswer
             (.completed req) r r.at_ (if write then 0 else lines.length)))
    | _, _ => none

/-! ## Walks (07 R211, R212, 08 R247) -/

/-- Fields of a page-table entry (07 Table 7-2). -/
def pteValid (e : Nat) : Bool := bits e 63 1 == 1 && decide (bits e 61 2 < 2)
def ptePage (e : Nat) : Bool := bits e 61 2 == 1
def pteSw (e : Nat) : Nat := bits e 0 8

/-- The address of the entry of an address at a level of a table: 21, 10 and 5 index bits. -/
def pteAt (level table va : Nat) : Nat :=
  match level with
  | 0 => table / 2 ^ 24 * 2 ^ 24 + bits va 31 21 * 8
  | 1 => table / 2 ^ 13 * 2 ^ 13 + bits va 21 10 * 8
  | _ => table / 2 ^ 8 * 2 ^ 8 + bits va 16 5 * 8

/-- The page size of a level. -/
def levelSize (level : Nat) : PageSize :=
  match level with
  | 0 => .g2
  | 1 => .m2
  | _ => .k64

/-- The physical address an entry holds. -/
def pteAddr (e : Nat) : Nat := bits e 8 38 * 256

/-- The page an entry of a level names, for an address. -/
def ptePageOf (e level va : Nat) : Handle :=
  let z := levelSize level
  { valid := true, size := z, rd := bits e 60 1 == 1, wr := bits e 59 1 == 1, pbase := pteAddr e / z.bytes * z.bytes
    vpage := va / z.bytes * z.bytes }

/-- A page-table entry as it is read. -/
def State.pte (s : State) (a : Nat) : Nat := (s.view [a / 128]).nat a 8

/-- A walk from a level of a table, `fuel` levels at most: the page, or the entry and level where it stops; and the entries read. -/
def walkFrom (m : Nat → Nat) (va : Nat) : Nat → Nat → Nat → WalkStage × List Nat
  | 0, _, _ => (.refused, [])
  | fuel + 1, level, table =>
    let a := pteAt level table va
    let e := m a
    if pteValid e && ptePage e then (.found (ptePageOf e level va), [a])
    else if pteValid e && decide (level < 2) then
      let r := walkFrom m va fuel (level + 1) (pteAddr e)
      (r.1, a :: r.2)
    else (.parked a level, [a])

/-- The partition of a namespace's context. -/
def State.partOfNs (s : State) (ns : BitVec 8) : Fin 16 :=
  match (List.finRange 8).find? fun k => s.ctxs[k].ns == ns && (s.ctxs[k].cfg).isSome with
  | some k => s.ctxs[k].part
  | none => 0

/-- A walk changed. -/
def State.onWalk (s : State) (id : Nat) (f : Walk → Walk) : State := { s with walks := s.walks.map fun w => if w.id = id then f w else w }

/-- A walk of the module. -/
def State.walkOf (s : State) (id : Nat) : Option Walk := s.walks.find? fun w => w.id = id

/-- Events of an agent that read addresses one after another. -/
def State.readAll (s : State) (a : Agent) (part : Fin 16) : List Nat → Option State
  | [] => some s
  | x :: xs => (s.readEvent a part [x]).bind fun t => t.1.readAll a part xs

/-- WALK_REQUEST (07 R211, R212, 08 R247): a translation agent answers from its cache, or reads the tables; no table, no walk. -/
def evWalkRequest (walk : Nat) (s : State) : Option State :=
  match s.walkOf walk with
  | none => none
  | some w =>
    if w.stage != .asked then none
    else
      let f := fieldOf w.core
      match s.agentPage f w.ns w.va with
      | some h => some (s.onWalk walk fun x => { x with stage := .found h })
      | none =>
        match (s.roots.find? fun r => r.1 = w.ns).map (·.2) with
        | none => some (s.onWalk walk fun x => { x with stage := .refused })
        | some root =>
          let part := s.partOfNs w.ns
          let r := walkFrom s.pte w.va 3 0 root
          (s.readAll (.walker f) part r.2).map fun y =>
            let t := y.onWalk walk fun x => { x with stage := r.1 }
            match r.1 with
            | .found h => { t with agentTlb := t.agentTlb ++ [(f, { ns := w.ns, page := h })] }
            | _ => t

/-- A translation enters a local cache of 64 entries, the least recent leaving (06 R205). -/
def addTlb (l : List TlbEntry) (e : TlbEntry) : List TlbEntry :=
  let k := l.filter fun x => x ≠ e
  (if 64 ≤ k.length then k.tail else k) ++ [e]

/-- A deferred PAGE_FAULT of an `xlat` (08 Table 8-4). -/
def walkFault (va : Nat) : DFault :=
  { code := trapPageFault, addr := BitVec.ofNat 64 va, space := 2, access := 4, xch := 7, seq := 0, xid := 0 }

/-- A walk's answer reaches its core: the local cache fills, the handle gets its page; or a refused one leaves it invalid with a
deferred fault (06 R205, 08 Table 8-4). -/
def Core.walked (c : Core) (w : Walk) (page : Option Handle) : Core :=
  match page, w.handle with
  | some h, some d => ({ c with tlb := addTlb c.tlb { ns := w.ns, page := h } } : Core).give (.h d) (.h d h)
  | some h, none => { c with tlb := addTlb c.tlb { ns := w.ns, page := h } }
  | none, some d =>
    ({ c with dfaults := c.dfaults ++ [walkFault w.va] } : Core).give (.h d)
      (.h d { Handle.none_ with vpage := w.va / 0x10000 * 0x10000 })
  | none, none => c

/-- A refused walk of a tile request: the request faults. -/
def State.refuseTile (s : State) (w : Walk) : State :=
  match w.req.bind s.req with
  | some r => s.failTile r trapPageFault w.va
  | none => s

/-- WALK_COMPLETE (06 R205, 08 R247). A rim agent's refused walk stays for its job (02 R63). -/
def evWalkComplete (walk : Nat) (s : State) : Option State :=
  match s.walkOf walk with
  | none => none
  | some w =>
    let t := { s with walks := s.walks.filter fun x => x.id ≠ walk }
    let reach := fun (page : Option Handle) (t : State) => if w.rim.isSome then t else
      match t.core w.core with
      | some c => t.setCore w.core (c.walked w page)
      | none => t
    match w.stage with
    | .found h => some (reach (some h) t)
    | .refused => if w.rim.isSome then none else some (reach none (t.refuseTile w))
    | _ => none

/-! ## The pager (08 R246, R247) -/

/-- Faults the pager holds. -/
def State.pagerHolds (s : State) : Nat :=
  (s.walks.filter fun w => match w.stage with
    | .pager _ _ => true
    | .steward _ _ => true
    | _ => false).length

/-- PAGER_FAULT_TOKEN (08 R246): the pager takes a parked walk's token and reads the SW field of its entry. -/
def evPagerFaultToken (walk : Nat) (s : State) : Option State :=
  match s.walkOf walk with
  | none => none
  | some w =>
    match w.stage with
    | .parked a level =>
      if 256 ≤ s.pagerHolds then none
      else
        let sw := pteSw (s.pte a)
        some (s.onWalk walk fun x => { x with stage := if sw / 64 = 0 then .pager a level else if sw / 64 = 1 then .steward a level else .refused })
    | _ => none

/-- A page entry, and a pointer entry (07 Table 7-2). -/
def pageEntry (base : Nat) (rd wr : Bool) : Nat := 2 ^ 63 + 2 ^ 61 + boolBit rd * 2 ^ 60 + boolBit wr * 2 ^ 59 + base
def pointerEntry (base : Nat) : Nat := 2 ^ 63 + base

/-- An entry stored by the pager as an event. -/
def State.storeEntry (s : State) (part : Fin 16) (a e : Nat) : Option State := (s.writeEvent .steward part (cellsAt a (leBytes 8 e))).map (·.1)

/-- The slices a partition owns, by number. -/
def State.ownedSlices (s : State) (part : Fin 16) : List Nat := (s.sliceList part).owned.map Fin.val

/-- Bytes of a frame zero-filled by tile stores: the lines take the event's stamp, and go to home memory under their key (08 R246). -/
def State.zeroFill (s : State) (part : Fin 16) (base n : Nat) : State :=
  let mine := fun (l : Nat) => decide (base / 128 ≤ l) && decide (l < (base + n) / 128)
  let ts := s.slices.foldl (fun t x => (x.2.lines.filter fun l => mine l.line).foldl (fun t l => max t (l.rts + 1)) (max t (x.2.mts + 1))) (s.lts .steward)
  let s := s.raiseLts .steward ts
  let owned := s.ownedSlices part
  let clean := s.sealed.filter fun x => !mine x.1 || s.isHeld x.1
  { s with
    pmem := s.pmem.clear base n
    eccBad := s.eccBad.filter fun l => !mine l
    sealed := match s.lineKey (base / 128) with
      | some k => ((List.range (n / 128)).map fun i => base / 128 + i).foldl (fun l x => if s.isHeld x then l else assocSet l x k) clean
      | none => clean
    slices := s.slices.map fun x =>
      if owned.contains x.1 then
        let y := x.2.unlike ((x.2.lines.map (·.line)).filter mine) s.pmem
        (x.1, { y with mts := max y.mts ts, lines := y.lines.map fun l => if mine l.line then { l with wts := ts, rts := ts, dirty := true } else l })
      else x }

/-- A free frame of a size leaves a partition's list. -/
def Part.takeFrame (p : Part) (z : PageSize) : Option (Nat × Part) :=
  (p.free.find? fun x => x.1 = z).map fun x => (x.2, { p with free := p.free.erase x })

/-- Bytes of a table cut from the frame kept aside for tables, or from a new one (08 R246); the table is aligned to its size. -/
def Part.cutTable (p : Part) (size : Nat) : Option (Nat × Part) :=
  let fresh := (p.takeFrame .k64).map fun x => (x.1, { x.2 with tables := some (x.1, size) })
  match p.tables with
  | some (base, used) =>
    let at_ := (used + size - 1) / size * size
    if at_ + size ≤ 0x10000 then some (base + at_, { p with tables := some (base, at_ + size) }) else fresh
  | none => fresh

/-- A fresh page of an entry: the tables below it built, then a zero-filled page, both permissions set. `some none` where the free list is empty;
none while a store of an entry must wait (08 R246, Table 8-4). -/
def State.freshPage (s : State) (part : Fin 16) (va : Nat) : Nat → Nat → Nat → Option (Option State)
  | 0, _, _ => some none
  | fuel + 1, level, a =>
    match s.part part with
    | none => some none
    | some p =>
      if level = 2 ∨ bits (pteSw (s.pte a)) 5 1 = 1 then
        let z := levelSize level
        match p.takeFrame z with
        | none => some none
        | some (base, q) =>
          (((s.onPart part fun _ => q).zeroFill part base z.bytes).storeEntry part a (pageEntry base true true)).map some
      else
        let size := if level = 0 then 8192 else 256
        match p.cutTable size with
        | none => some none
        | some (base, q) =>
          (((s.onPart part fun _ => q).zeroFill part base size).storeEntry part a (pointerEntry base)).bind fun t =>
            t.freshPage part va fuel (level + 1) (pteAt (level + 1) base va)

/-- Every walk parked on the page of an address starts again (08 R247 step 4). -/
def State.restartWalks (s : State) (ns : BitVec 8) (lo hi : Nat) : State :=
  { s with walks := s.walks.map fun w =>
      if w.ns = ns ∧ lo ≤ w.va ∧ w.va < hi then
        { w with stage := match w.stage with
          | .parked _ _ => .asked
          | .pager _ _ => .asked
          | .steward _ _ => .asked
          | st => st }
      else w }

/-- The page that an address now has: its bounds. -/
def State.pageBounds (s : State) (ns : BitVec 8) (va : Nat) : Nat × Nat :=
  match (s.roots.find? fun r => r.1 = ns).map (·.2) with
  | some root =>
    (match (walkFrom s.pte va 3 0 root).1 with
     | .found h => (h.vpage, h.vpage + h.size.bytes)
     | _ => (va, va + 1))
  | none => (va, va + 1)

/-- PAGER_RESOLVE (08 R246, R247): a fresh page is mapped and its parked walks start again, or the fault is refused. -/
def evPagerResolve (walk : Nat) (s : State) : Option State :=
  match s.walkOf walk with
  | none => none
  | some w =>
    match w.stage with
    | .pager a level =>
      (s.freshPage (s.partOfNs w.ns) w.va 3 level a).map fun r =>
        match r with
        | some t => let b := t.pageBounds w.ns w.va
                    t.restartWalks w.ns b.1 b.2
        | none => s.onWalk walk fun x => { x with stage := .refused }
    | _ => none

/-- STEWARD_FRAME_FILL (08 R247): the steward fills a frame for a page it held, which takes the permissions it gives; or refuses. -/
def evStewardFrameFill (walk : Nat) (fill : Option FrameFill) (s : State) : Option State :=
  match s.walkOf walk with
  | none => none
  | some w =>
    match w.stage, fill with
    | .steward _ _, none => some (s.onWalk walk fun x => { x with stage := .refused })
    | .steward a level, some f =>
      let part := s.partOfNs w.ns
      let z := levelSize level
      let base := f.base / z.bytes * z.bytes
      (s.writeEvent .steward part (f.bytes.map fun x => (base + x.1 % z.bytes, x.2))).bind fun t =>
        (t.1.storeEntry part a (pageEntry base f.rd f.wr)).map fun u =>
          u.restartWalks w.ns (w.va / z.bytes * z.bytes) (w.va / z.bytes * z.bytes + z.bytes)
    | _, _ => none

/-! ## Shootdowns (07 R213) -/

/-- A page meets a virtual range, both ends included. -/
def Handle.inRange (h : Handle) (lo hi : Nat) : Bool :=
  decide (h.vpage / h.size.bytes * h.size.bytes ≤ hi) && decide (lo < h.vpage / h.size.bytes * h.size.bytes + h.size.bytes)

/-- A handle of a matching page loses VALID. -/
def Handle.shot (h : Handle) (lo hi : Nat) : Handle := if h.valid && h.inRange lo hi then { h with valid := false } else h

/-- Handles of a register file. -/
def Regs.shot (g : Regs) (lo hi : Nat) : Regs := { g with h := g.h.map fun x => x.shot lo hi }

/-- A handle on its way to its register. -/
def RegWrite.shot (w : RegWrite) (lo hi : Nat) : RegWrite :=
  match w with
  | .h r x => .h r (x.shot lo hi)
  | w => w

/-- A core in a shootdown: its translation cache, its handles, those its shadow holds and those on their way. -/
def Core.shot (c : Core) (ns : BitVec 8) (lo hi : Nat) : Core :=
  let d := { c with tlb := c.tlb.filter fun e => !(e.ns == ns && e.page.inRange lo hi) }
  if c.ns = ns ∧ c.firing.isSome then
    { d with regs := d.regs.shot lo hi
             shadow := { d.shadow with regs := d.shadow.regs.shot lo hi }
             flight := d.flight.map fun f => { f with write := f.write.shot lo hi }
             fills := d.fills.map fun f => { f with value := f.value.map fun w => w.shot lo hi } }
  else d

/-- A core holds a gated `gst` that was issued through a matching handle. -/
def Core.gatedIn (c : Core) (ns : BitVec 8) (lo hi : Nat) : Bool :=
  c.ns == ns && c.gate.any fun e => match e.store with
    | .global _ _ _ _ via => via.inRange lo hi
    | .scratch _ => false

/-- A request that was issued through a matching handle is not complete. -/
def MemReq.inShot (r : MemReq) (ns : BitVec 8) (lo hi : Nat) : Bool := r.ns == ns && !r.isDone && r.via.any fun h => h.inRange lo hi

/-- The matching requests of the module. -/
def State.shotReqs (s : State) (ns : BitVec 8) (lo hi : Nat) : List Nat := (s.reqs.filter fun r => r.inShot ns lo hi).map (·.id)

/-- Cores between groups release the gated stores of a shootdown, with a mark (07 R213, R224). -/
def State.shootGates (s : State) (ns : BitVec 8) (lo hi : Nat) : List Nat → State
  | [] => s
  | n :: l =>
    (match s.core n with
     | some c => if c.gatedIn ns lo hi && c.between && !c.frozen then s.onCore n fun _ d => d.releaseMark else s
     | none => s).shootGates ns lo hi l

/-- Contexts' saved cores in a shootdown. -/
def Ctx.shot (k : Ctx) (ns : BitVec 8) (lo hi : Nat) : Ctx :=
  { k with image := k.image.map fun i => { i with cores := i.cores.map fun x => (x.1, x.2.shot ns lo hi) } }

/-- A walk that has found a page of the range starts again (07 R213). -/
def Walk.shot (w : Walk) (ns : BitVec 8) (lo hi : Nat) : Walk :=
  match w.stage with
  | .found h => if w.ns = ns ∧ h.inRange lo hi then { w with stage := .asked } else w
  | _ => w

/-- Every cache, handle and walk of a shootdown. -/
def State.shootAll (s : State) (ns : BitVec 8) (lo hi : Nat) : State :=
  { s with
    agentTlb := s.agentTlb.filter fun e => !(e.2.ns == ns && e.2.page.inRange lo hi)
    cores := s.cores.map fun x => (x.1, x.2.shot ns lo hi)
    ctxs := s.ctxs.map fun k => k.shot ns lo hi
    walks := s.walks.map fun w => w.shot ns lo hi }

/-- SHOOTDOWN (07 R213): caches and handles drop the range, walks in flight start again, gated stores are released; what was issued
before is still to complete. -/
def evShootdown (ns : BitVec 8) (lo hi : Nat) (s : State) : Option State :=
  if s.shoot.isSome then none
  else
    let u := (s.shootAll ns lo hi).shootGates ns lo hi (s.cores.map (·.1))
    some { u with shoot := some { ns, lo, hi, waits := u.shotReqs ns lo hi } }

/-- A gated store of the range is still held, in a core or in a saved image; or a saved request of it is still to be injected. -/
def State.gatedLeft (s : State) (ns : BitVec 8) (lo hi : Nat) : Bool :=
  (s.cores.any fun x => x.2.gatedIn ns lo hi) || (List.finRange 8).any fun k => match s.ctxs[k].image with
    | some i => (i.cores.any fun x => x.2.gatedIn ns lo hi) || i.reqs.any fun r => r.inShot ns lo hi
    | none => false

/-- SHOOTDOWN_COMPLETE (07 R213): a gate still held that has come to a boundary is released; with none held and every earlier access
complete, the shootdown is complete. -/
def evShootdownComplete (s : State) : Option State :=
  match s.shoot with
  | none => none
  | some x =>
    if s.cores.any fun c => c.2.gatedIn x.ns x.lo x.hi && c.2.between && !c.2.frozen then
      let u := s.shootGates x.ns x.lo x.hi (s.cores.map (·.1))
      let late := (u.reqs.filter fun r => s.nextReq ≤ r.id ∧ r.inShot x.ns x.lo x.hi).map (·.id)
      some { u with shoot := some { x with waits := x.waits ++ late } }
    else if s.gatedLeft x.ns x.lo x.hi || s.reqs.any fun r => x.waits.contains r.id && !r.isDone then none
    else some { s with shoot := none }

def execTilePrepare (req : Nat) (s : State) : Host.Outcome State Fault Refusal := event (evTilePrepare req s) s
def execTileCommit (req : Nat) (s : State) : Host.Outcome State Fault Refusal := event (evTileCommit req s) s
def execWalkRequest (walk : Nat) (s : State) : Host.Outcome State Fault Refusal := event (evWalkRequest walk s) s
def execWalkComplete (walk : Nat) (s : State) : Host.Outcome State Fault Refusal := event (evWalkComplete walk s) s
def execPagerFaultToken (walk : Nat) (s : State) : Host.Outcome State Fault Refusal := event (evPagerFaultToken walk s) s
def execPagerResolve (walk : Nat) (s : State) : Host.Outcome State Fault Refusal := event (evPagerResolve walk s) s
def execStewardFrameFill (walk : Nat) (fill : Option FrameFill) (s : State) : Host.Outcome State Fault Refusal :=
  event (evStewardFrameFill walk fill s) s
def execShootdown (ns : BitVec 8) (lo hi : Nat) (s : State) : Host.Outcome State Fault Refusal := event (evShootdown ns lo hi s) s
def execShootdownComplete (s : State) : Host.Outcome State Fault Refusal := event (evShootdownComplete s) s

end Sys2Proof.Machine
end

