-- ==== Sys2Proof/Machine/Agents.lean ====
section
/-! DEFINITION. Sys2Proof/Machine/Agents.lean: the rim agents: requests resolved against the tensor directory, tiles read and written, segments
verified, backed publications completed (02 R61 to R65, 03 R92, R93, 07 R228). -/

namespace Sys2Proof.Machine

/-! ## The tensor directory (02 R61, R62) -/

/-- An agent owns a slice of a partition, and so holds its tensor directory (02 R61). -/
def State.holdsDir (s : State) (a : Fin 24) (part : Fin 16) : Bool := (s.ownedSlices part).any fun k => k / 4 == a.val

/-- The valid entry of a namespace and tensor that an agent holds. -/
def State.dirOf (s : State) (a : Fin 24) (name : BitVec 64) : Option DirEntry :=
  (List.finRange 8).findSome? fun k => if s.holdsDir a s.ctxs[k].part then
      (s.ctxs[k].cfg).bind fun g => g.dirs.find? fun e => e.valid ∧ e.ns = nsOf name ∧ e.tensor = tensorOf name
    else none

/-- An entry changed wherever it stands. -/
def State.onDir (s : State) (name : BitVec 64) (f : DirEntry → DirEntry) : State :=
  { s with ctxs := s.ctxs.map fun k =>
      { k with cfg := k.cfg.map fun g =>
          { g with dirs := g.dirs.map fun e => if e.ns = nsOf name ∧ e.tensor = tensorOf name then f e else e } } }

/-- The INDEX of a name. -/
def indexBits (name : BitVec 64) : Nat := bits name.toNat 0 36

/-- The offset of an index: each coordinate times its stride (02 R62). -/
def dirOffset : Nat → List Nat → List Nat → Nat
  | idx, w :: ws, z :: zs => idx % 2 ^ w * z + dirOffset (idx / 2 ^ w) ws zs
  | _, _, _ => 0

/-- The virtual address of token j of a tile. -/
def DirEntry.tokenVa (e : DirEntry) (idx j : Nat) : Nat := e.base + dirOffset idx e.widths e.strides + j * e.tstride

/-- The bytes of the first n tokens of a tile, by place in the tile and virtual address. -/
def DirEntry.dataVas (e : DirEntry) (idx n : Nat) : List (Nat × Nat) :=
  (List.range n).flatMap fun j => (List.range (tokBytes e.fmt)).map fun k => (j * tokBytes e.fmt + k, e.tokenVa idx j + k)

/-- The place of a tile's scale byte, past every token's bytes. -/
def scalePlace : Nat := 0x100000

/-- The bytes of the first n tokens and of the scale, where there is one. -/
def DirEntry.tileVas (e : DirEntry) (idx n : Nat) : List (Nat × Nat) :=
  e.dataVas idx n ++ (if e.scale = 0 then [] else [(scalePlace, e.scale + idx)])

/-! ## Translation for a rim agent (02 R62) -/

/-- The router in the middle of an agent's, which says its nearest translation agent. -/
def agentHome (a : Fin 24) : Nat := let l := agentRouters a; (l[l.length / 2]?).getD 0

/-- Bytes located for an agent in a namespace. -/
def State.locateRim (s : State) (a : Fin 24) (ns : BitVec 8) (write : Bool) (l : List (Nat × Nat)) : Located :=
  locate (fun va => s.agentPage (fieldOf (agentHome a)) ns va) write (s.refusesPa (s.partOfNs ns)) l

/-- The agent's walk of an address. -/
def State.rimWalk (s : State) (a : Fin 24) (ns : BitVec 8) (va : Nat) : Option Walk :=
  s.walks.find? fun w => w.rim = some a ∧ w.ns = ns ∧ w.va = va

/-- A new walk for an agent. -/
def State.askWalk (s : State) (a : Fin 24) (ns : BitVec 8) (va : Nat) : State :=
  { s with
    walks := s.walks ++ [{ id := s.nextReq, core := agentHome a, ns, va, handle := none, req := none, rim := some a, stage := .asked
                           old := false }]
    nextReq := s.nextReq + 1 }

/-- What an agent's access meets: it can go on, it waits, a walk is asked for, or a code answers it. -/
inductive Access where
  | ready (l : List (Nat × Nat × Nat))
  | waits
  | asks (s : State)
  | fails (code : Byte) (s : State)

/-- An agent's access of located bytes, with its reservations respected (07 R220). -/
def State.rimAccess (s : State) (a : Fin 24) (ns : BitVec 8) (write : Bool) (l : List (Nat × Nat)) : Access :=
  let part := s.partOfNs ns
  match s.locateRim a ns write l with
  | .fault code _ => .fails code s
  | .missing va =>
    (match s.rimWalk a ns va with
     | none => .asks (s.askWalk a ns va)
     | some w =>
       if w.stage = .refused then .fails trapPageFault { s with walks := s.walks.filter fun x => x.id ≠ w.id } else .waits)
  | .at_ l =>
    let lines := spotLines l
    if (if write then s.writeFree part lines else s.readFree part lines) && !s.lineBusy part lines then .ready l else .waits

/-! ## Requests (02 R63, 03 R92, R93) -/

/-- The reply of an agent to a request, from the first of the agent's edge routers: the manual does not say from which of the 18 to 20 it leaves
(02 R63, 03 R85, log 27). -/
def State.agentReply (s : State) (a : Fin 24) (cpl : Bool) (cls : Fin 6) (b : Body) : State :=
  let r := (agentRouters a).headD 0
  s.emit r 5 { cls, cpl, source := r, body := b }

/-- A miss reply of an agent. -/
def State.agentMiss (s : State) (a : Fin 24) (name : BitVec 64) (tag : BitVec 16) (to_ : Requester) (cpl : Bool) (code : Byte) : State :=
  s.agentReply a cpl 1 (.miss name tag code to_)

/-- A BACK write of the name is in progress at the agent. -/
def State.backing (s : State) (a : Fin 24) (name : BitVec 64) : Bool :=
  s.jobs.any fun j => j.1 == a && match j.2 with
    | .back t _ => t.name == name
    | .fetch .. => false

/-- AGENT_REQUEST (02 R63, 03 R93). -/
def evAgentRequest (agent : Fin 24) (s : State) : Option State :=
  match takeMsg (fun f => f.place == .agent agent && match f.msg.body with
      | .request name _ _ _ => !s.backing agent name
      | _ => false) s.msgs with
  | none => none
  | some (f, rest) =>
    match f.msg.body with
    | .request name tag to_ _ =>
      let t := { s with msgs := rest }
      some (match s.dirOf agent name with
        | none => t.agentMiss agent name tag to_ f.msg.cpl trapLateMiss
        | some e =>
          if e.bad then t.agentMiss agent name tag to_ f.msg.cpl trapLoadIntegrity
          else { t with jobs := t.jobs ++ [(agent, .fetch name tag to_ f.msg.cpl)] })
    | _ => none

/-! ## Integrity (02 R65) -/

/-- Bytes of a segment. -/
def segmentBytes : Nat := 0x200000

/-- Segments a tile touches, counted from BASE. -/
def DirEntry.segments (e : DirEntry) (idx : Nat) : List Nat :=
  ((List.range (e.tokm1 + 1)).flatMap fun j =>
    [(e.tokenVa idx j - e.base) / segmentBytes, (e.tokenVa idx j - e.base + tokBytes e.fmt - 1) / segmentBytes]).eraseDups

/-- The first segment of a tile that is not verified. -/
def DirEntry.unverified (e : DirEntry) (idx : Nat) : Option Nat :=
  if e.signed then (e.segments idx).find? fun g => !e.verified.contains g else none

/-- Bytes of a tensor from BASE, past which its last segment is zero-padded: to the last byte of the tile with every index bit set. The manual gives a
tensor no length (02 R65, log 14). -/
def DirEntry.extent (e : DirEntry) : Nat :=
  dirOffset (2 ^ (e.widths.foldl (· + ·) 0) - 1) e.widths e.strides + e.tokm1 * e.tstride + tokBytes e.fmt

/-- The bytes of a segment that lie in the tensor, by place and virtual address. -/
def DirEntry.segmentVas (e : DirEntry) (g : Nat) : List (Nat × Nat) :=
  (List.range (min segmentBytes (e.extent - g * segmentBytes))).map fun k => (k, e.base + g * segmentBytes + k)

/-- The bytes of located places, and zeros after them. -/
def State.segmentData (s : State) (l : List (Nat × Nat × Nat)) : List Byte :=
  let m := s.view (spotLines l)
  let data := l.map fun x => m.get x.2.2
  data ++ List.replicate (segmentBytes - data.length) 0

/-- The first fetch of an agent that waits for a segment's check. -/
def State.unchecked (s : State) (a : Fin 24) : Option (BitVec 64 × DirEntry × Nat) :=
  s.jobs.findSome? fun j =>
    if j.1 = a then
      match j.2 with
      | .fetch name _ _ _ => (s.dirOf a name).bind fun e => if e.bad then none else (e.unverified (indexBits name)).map fun g => (name, e, g)
      | .back .. => none
    else none

/-- A segment's check fails: BAD in every agent, and a steward event. -/
def State.markBad (s : State) (a : Fin 24) (name : BitVec 64) : State :=
  let t := s.onDir name fun e => { e with bad := true }
  { t with mgmt := t.mgmt ++ [.segment a] }

/-- Some of the located bytes lie in a line in error (02 R46, R63). -/
def State.spotsBad (s : State) (l : List (Nat × Nat × Nat)) : Bool := (spotLines l).any s.badLine

/-- SEGMENT_VERIFY (02 R65): the segment is read and hashed against its manifest; only a mismatch sets BAD. -/
def evSegmentVerify (agent : Fin 24) (s : State) : Option State :=
  match s.unchecked agent with
  | none => none
  | some (name, e, g) =>
    match s.rimAccess agent e.ns false (e.segmentVas g) with
    | .waits => none
    | .asks t => some t
    | .fails _ _ => none
    | .ready l =>
      if s.spotsBad l then none
      else (s.readEvent (.rim agent) (s.partOfNs e.ns) (l.map fun x => x.2.2)).map fun r =>
        if e.manifest[g]? = some (Sys2Proof.Config.sha384 (s.segmentData l)) then
          r.1.onDir name fun x => { x with verified := x.verified ++ [g] }
        else r.1.markBad agent name

/-! ## Fetches (02 R62, R63) -/

/-- A tile of an entry's bytes: one burst (02 R63). -/
def DirEntry.tile (e : DirEntry) (name : BitVec 64) (tag : BitVec 16) (data : List (Nat × Byte)) : Tile :=
  let n := tokBytes e.fmt
  { name, tag, back := false, live := false
    bursts := [{ scale := (if e.scale = 0 then 0x7F else (cellAt data scalePlace).getD 0x7F), fmt := e.fmt, eos := false
                 tokens := (List.range (e.tokm1 + 1)).map fun j =>
                   { ev := BitVec.allOnes 16
                     bits := BitVec.ofNat 512 (leNat ((List.range n).map fun k => (cellAt data (j * n + k)).getD 0)) } }] }

/-- An agent's reading of some bytes for a fetch, which ends in a miss of a code, waits, or goes on as `ok` says (02 R63). -/
def State.fetchRead (s : State) (a : Fin 24) (e : DirEntry) (vas : List (Nat × Nat)) (uncorrectable : Bool) (fail : State → Byte → State)
    (ok : List (Nat × Nat × Nat) → Option State) : Option State :=
  match s.rimAccess a e.ns false vas with
  | .waits => none
  | .asks t => some t
  | .fails code t => some (fail t code)
  | .ready l => if uncorrectable || s.spotsBad l then some (fail s trapEccUncorr) else ok l

/-- A fetch of an agent that is ready to go on: its outcome. One whose segment is still to be checked waits for SEGMENT_VERIFY, unless the segment
cannot be read. -/
def State.fetchOutcome (s : State) (a : Fin 24) (uncorrectable : Bool) (name : BitVec 64) (tag : BitVec 16) (to_ : Requester) (cpl : Bool) :
    Option State :=
  let drop := fun (t : State) => { t with jobs := t.jobs.erase (a, AgentJob.fetch name tag to_ cpl) }
  let fail := fun (t : State) (code : Byte) => (drop t).agentMiss a name tag to_ cpl code
  match s.dirOf a name with
  | none => some (fail s trapLateMiss)
  | some e =>
    if e.bad then some (fail s trapLoadIntegrity)
    else
      match e.unverified (indexBits name) with
      | some g => s.fetchRead a e (e.segmentVas g) uncorrectable fail fun _ => none
      | none =>
        s.fetchRead a e (e.tileVas (indexBits name) (e.tokm1 + 1)) uncorrectable fail fun l =>
          (s.readEvent (.rim a) (s.partOfNs e.ns) (l.map fun x => x.2.2)).map fun r =>
            let m := s.view (spotLines l)
            (drop r.1).agentReply a cpl 0 (.reply (e.tile name tag (l.map fun x => (x.1, m.get x.2.2))) to_)

/-- The first fetch of an agent with an outcome. -/
def State.fetchFirst (s : State) (a : Fin 24) (uncorrectable : Bool) : List (Fin 24 × AgentJob) → Option State
  | [] => none
  | j :: js =>
    match j.2 with
    | .fetch name tag to_ cpl =>
      if j.1 = a then
        match s.fetchOutcome a uncorrectable name tag to_ cpl with
        | some t => some t
        | none => s.fetchFirst a uncorrectable js
      else s.fetchFirst a uncorrectable js
    | .back .. => s.fetchFirst a uncorrectable js

/-- AGENT_FETCH_DONE (02 R62, R63). -/
def evAgentFetchDone (agent : Fin 24) (uncorrectable : Bool) (s : State) : Option State := s.fetchFirst agent uncorrectable s.jobs

/-! ## BACK writes (02 R64, 07 R228) -/

/-- The bytes a BACK write stores, by place: the entry's token bytes and, where it has scales, the first burst's (02 R64). -/
def DirEntry.backBytes (e : DirEntry) (t : Tile) : List (Nat × Byte) :=
  let n := tokBytes e.fmt
  let toks := (t.bursts.flatMap (·.tokens)).take (e.tokm1 + 1)
  ((List.zip (List.range toks.length) toks).flatMap fun x => cellsAt (x.1 * n) (leBytes n x.2.bits.toNat)) ++
    (if e.scale = 0 then [] else [(scalePlace, match t.bursts.head? with
      | some b => b.scale
      | none => 0x7F)])

/-- The identifier of a core's backed publication that a write completes: the oldest without one (07 R228). -/
def State.backId (s : State) (core : Nat) : Word :=
  match s.core core with
  | some c => ((c.pbopen.find? fun id => !s.backDone.any fun x => x.1 == core && x.2.1 == id)).getD 0
  | none => 0

/-- A BACK write of an agent goes on: it is performed as one tile store, or asks for a walk, or is given up. -/
def State.backOn (s : State) (a : Fin 24) (t : Tile) (source : Nat) : Option State :=
  let drop := fun (x : State) => { x with jobs := x.jobs.erase (a, AgentJob.back t source) }
  match s.dirOf a t.name with
  | none => some (drop s)
  | some e =>
    match s.rimAccess a e.ns true (e.tileVas (indexBits t.name) (min t.tokens (e.tokm1 + 1))) with
    | .waits => none
    | .asks x => some x
    | .fails _ x => some (drop x)
    | .ready l =>
      let bytes := e.backBytes t
      (s.writeEvent (.rim a) (s.partOfNs e.ns) (l.map fun x => (x.2.2, (cellAt bytes x.1).getD 0))).map fun r =>
        if source < Sys2Proof.Config.cores then { (drop r.1) with backDone := r.1.backDone ++ [(source, s.backId source, r.2)] } else drop r.1

/-- The BACK write in progress at an agent. -/
def State.backJob (s : State) (a : Fin 24) : Option (Tile × Nat) :=
  s.jobs.findSome? fun j => if j.1 = a then (match j.2 with
    | .back t source => some (t, source)
    | .fetch .. => none) else none

/-- A backed publication that has reached an agent becomes its job. -/
def State.takeBack (s : State) (a : Fin 24) : Option (Tile × Nat × State) :=
  match takeMsg (fun f => f.place == .agent a && match f.msg.body with
      | .publication _ _ => true
      | _ => false) s.msgs with
  | none => none
  | some (f, rest) =>
    match f.msg.body with
    | .publication t _ => some (t, f.msg.source, { s with msgs := rest, jobs := s.jobs ++ [(a, .back t f.msg.source)] })
    | _ => none

/-- BACK_WRITE (02 R64): the write in progress goes on, or the next backed publication begins one; a stream's end is never written. -/
def evBackWrite (agent : Fin 24) (s : State) : Option State :=
  match s.backJob agent with
  | some (t, source) => s.backOn agent t source
  | none =>
    match s.takeBack agent with
    | none => none
    | some (t, source, x) => if t.eos then some { x with jobs := s.jobs } else some ((x.backOn agent t source).getD x)

/-- The first completion for a core, and the others. -/
def takeBackDone (n : Nat) : List (Nat × Word × Nat) → Option (Word × Nat × List (Nat × Word × Nat))
  | [] => none
  | x :: xs => if x.1 = n then some (x.2.1, x.2.2, xs) else (takeBackDone n xs).map fun r => (r.1, r.2.1, x :: r.2.2)

/-- BACK_COMPLETION (07 R228). -/
def evBackCompletion (core : Nat) (s : State) : Option State :=
  match takeBackDone core s.backDone, s.core core with
  | some (id, ts, rest), some c => some { (s.setCore core { c.donePb id with lts := max c.lts ts }) with backDone := rest }
  | _, _ => none

def execAgentRequest (agent : Fin 24) (s : State) : Host.Outcome State Fault Refusal := event (evAgentRequest agent s) s
def execAgentFetchDone (agent : Fin 24) (uncorrectable : Bool) (s : State) : Host.Outcome State Fault Refusal :=
  event (evAgentFetchDone agent uncorrectable s) s
def execSegmentVerify (agent : Fin 24) (s : State) : Host.Outcome State Fault Refusal := event (evSegmentVerify agent s) s
def execBackWrite (agent : Fin 24) (s : State) : Host.Outcome State Fault Refusal := event (evBackWrite agent s) s
def execBackCompletion (core : Nat) (s : State) : Host.Outcome State Fault Refusal := event (evBackCompletion core s) s

end Sys2Proof.Machine
end

