-- ==== Sys2Proof/Machine/Collective.lean ====
section
/-! DEFINITION. Sys2Proof/Machine/Collective.lean: collective streams at a router: chunks forwarded or combined, spilled chunks, markers and the step of a
VSN entry (03 R97 to R102, 14 R400, R401). -/

namespace Sys2Proof.Machine

/-! ## VSN entries (03 R98, R99) -/

/-- The facets of a VSN at a router, where it is VALID. -/
def State.facets (s : State) (n : Nat) (v : Fin 256) : Option (List Facet) := (s.routerCfg n).bind fun r => findFin r.vsns v

/-- The number of the current facet. -/
def Router.curOf (r : Router) (v : Fin 256) : Nat := lookupD 0 r.cur v

/-- The current facet of a VSN. -/
def State.facet (s : State) (n : Nat) (v : Fin 256) : Option Facet := (s.facets n v).bind fun l => l[(s.router n).curOf v]?

/-- The input has delivered its marker or end mark to the current facet. -/
def Router.marked (r : Router) (v : Fin 256) (p : Fin 6) : Bool := r.marks.any fun m => m.1 == v && m.2.1 == p

/-- A message that a router makes leaves it whole by ports: to the core here, or to the next router. -/
def State.sendOut (s : State) (n : Nat) (m : Msg) (outs : List (Fin 6)) : State :=
  let t := s.sendAll n m 0 m.body.flits outs
  if outs.contains 0 then t.post (.core n 0) m else t

/-- Every output takes the whole of such a message. -/
def State.outsOk (s : State) (n : Nat) (m : Msg) (outs : List (Fin 6)) : Bool := outs.all (s.outOk n m 0)

/-! ## Combining (03 R100, R102) -/

/-- The FMT a COMBINE operator takes (14 R401). -/
def combineFmt (op : Fin 4) : Fmt := if op = 3 then .triple else .f32

/-- An operator on one lane of FP32. -/
def combineLane (op : Fin 4) (a b : Lane) : Lane :=
  match op with
  | 0 => (fpAdd .rne a b).1
  | 1 => (fpMax a b).1
  | _ => (fpMin a b).1

/-- Lane l of flit k of a chunk. -/
def flitLane (d : List FlitToken) (k l : Nat) : Lane := BitVec.ofNat 32 ((d[k]?).elim 0 fun t => t.bits.toNat / 2 ^ (32 * l))

/-- Lane l of a chunk is valid. -/
def flitValid (d : List FlitToken) (l : Nat) : Bool := (d.head?).elim false fun t => t.ev.getLsbD l

/-- Lane l of a chunk as its words: one, or a triple. -/
def chunkLane (op : Fin 4) (d : List FlitToken) (l : Nat) : Option (List Lane) :=
  if flitValid d l then some ((List.range (if op = 3 then 3 else 1)).map fun k => flitLane d k l) else none

/-- A lane's running result with the next input's. -/
def mergeLane (op : Fin 4) : Option (List Lane) → Option (List Lane) → Option (List Lane)
  | none, b => b
  | a, none => a
  | some a, some b =>
    if op = 3 then
      let t := (momentMerge { n := a.getD 0 0, mean := a.getD 1 0, m2 := a.getD 2 0 } { n := b.getD 0 0, mean := b.getD 1 0, m2 := b.getD 2 0 }).1
      some [t.n, t.mean, t.m2]
    else some [combineLane op (a.getD 0 0) (b.getD 0 0)]

/-- Chunks combined lane by lane in INORD order. -/
def combineChunks (op : Fin 4) (l : List (List FlitToken)) : List FlitToken :=
  let r := (List.range 16).map fun k => l.foldl (fun x d => mergeLane op x (chunkLane op d k)) none
  let ev : BitVec 16 := BitVec.ofNat 16 ((List.zip (List.range 16) r).foldl (fun x y => x + boolBit y.2.isSome * 2 ^ y.1) 0)
  (List.range (if op = 3 then 3 else 1)).map fun f =>
    { ev, bits := BitVec.ofNat 512 ((List.zip (List.range 16) r).foldl (fun x y => x + ((y.2.bind fun w => w[f]?).getD 0).toNat * 2 ^ (32 * y.1)) 0) }

/-- Flits the chunk slots hold (03 R101). -/
def slotFlits (l : List HeldChunk) : Nat := l.foldl (fun n c => n + c.data.length) 0

/-- The chunk of a stream's index from a port. -/
def HeldChunk.same (h x : HeldChunk) (p : Fin 6) : Bool := x.vsn == h.vsn && x.tag == h.tag && x.index == h.index && x.from_ == p

/-- The chunks of every input in INORD order, when all are there. -/
def partners (h : HeldChunk) (slots : List HeldChunk) : List (Fin 6) → Option (List HeldChunk)
  | [] => some []
  | p :: ps =>
    match if p = h.from_ then some h else slots.find? (fun x => h.same x p), partners h slots ps with
    | some x, some l => some (x :: l)
    | _, _ => none

/-- A chunk offered to a COMBINE facet: combined and sent with its partners, or held in a slot, or, where there is no room, what
`full` says. -/
def State.offerChunk (s : State) (n : Nat) (f : Facet) (op : Fin 4) (h : HeldChunk) (full : Option State) : Option State :=
  let r := s.router n
  match partners h r.slots f.inputs with
  | some l =>
    let m : Msg := { cls := 2, cpl := r.plane, source := n
                     body := .chunk h.vsn h.tag h.fmt h.index (combineChunks op (l.map (·.data))) }
    if s.outsOk n m f.out then
      some ((s.onRouter n fun x => { x with slots := x.slots.filter fun y => !(l.contains y) }).sendOut n m f.out)
    else none
  | none =>
    if slotFlits r.slots + h.data.length ≤ 64 then some (s.onRouter n fun x => { x with slots := x.slots ++ [h] }) else full

/-! ## What stands first on a port's class 2 channel -/

/-- The chunk, marker or end mark that a core's port holds first, and the core after it (14 R400). -/
def Core.collHead (c : Core) : Option (Body × Core) :=
  match c.port, c.firing with
  | j :: rest, some f =>
    (match j.op with
     | .coll v d first next =>
       if c.rsbClear j.rsb then
         let b := Body.chunk v f.tag d.fmt (first + BitVec.ofNat 16 next)
           [{ ev := BitVec.allOnes 16, bits := BitVec.ofNat 512 (d.tokenBits c.spad next) }]
         some (b, if next + 1 < d.tokens then { c with port := { j with op := .coll v d first (next + 1) } :: rest } else c.portDone j.rsb)
       else none
     | .collW v x index =>
       let flit := fun (g : Triple → Lane) => ({ ev := BitVec.allOnes 16
                                                 bits := BitVec.ofNat 512 ((List.finRange 16).foldl (fun a l => a + (g x[l]).toNat * 2 ^ (32 * l.val)) 0) } : FlitToken)
       some (.chunk v f.tag .triple index [flit Triple.n, flit Triple.mean, flit Triple.m2], c.portDone j.rsb)
     | .cmark v last => some (.mark v f.tag last, c.portDone j.rsb)
     | _ => none)
  | _, _ => none

/-- It enters the router's local queue, where `q` says so of it. -/
def State.collEnters (s : State) (n : Nat) (q : Body → Bool) : Option State :=
  match s.core n with
  | some c =>
    if c.works && c.portBad.isNone then
      (c.collHead).bind fun x =>
        if q x.1 then (s.inject n { cls := 2, cpl := (s.router n).plane, source := n, body := x.1 } x.2).map fun y => y.1.moved n else none
    else none
  | none => none

/-! ## COLLECTIVE_CHUNK_ARRIVAL, CHUNK_REFETCH, MARKER_ARRIVAL -/

/-- A chunk at a COMBINE facet: combined or held, or spilled, to the deep tier while a link of it is in service, else to HBM; one whose FMT is not the
operator's is stray (03 R100, R101, 14 R401). -/
def State.combineAt (s : State) (n : Nat) (p : Fin 6) (f : Flying) (x : Facet) (op : Fin 4) (h : HeldChunk) : Option State :=
  let t : State := { s with msgs := swapMsg f none s.msgs }
  if h.fmt ≠ combineFmt op then some (t.stray n p f.msg)
  else
    let spill := t.onRouter n fun r => { r with spilled := r.spilled ++ [(h, decide (0 < s.deepLinks))] }
    if (s.router n).spilled.any fun y => y.1.from_ == p then some spill else t.offerChunk n x op h (some spill)

/-- A `coll` stands first at a core's port. -/
def Core.collNext (c : Core) : Bool :=
  match c.port with
  | j :: _ => (match j.op with
    | .coll .. => true
    | _ => false)
  | [] => false

/-- The `coll` that stands first at the core's port reads a word in error. -/
def State.collFault (s : State) (n : Nat) : Option State :=
  match s.core n with
  | some c => if c.collNext then s.portFault n else none
  | none => none

/-- A chunk goes on by the outputs of its FORWARD facet. -/
def State.forwardChunk (s : State) (n : Nat) (p : Fin 6) (f : Flying) (outs : List (Fin 6)) : Option State :=
  (s.goOn n f outs).map fun r => if r.2.2 && outs.contains 0 then r.1.post (.core n p) f.msg else r.1

/-- A chunk at its VSN entry: forwarded, combined, stray, or waiting (03 R98 to R101). -/
def State.chunkAt (s : State) (n : Nat) (p : Fin 6) (f : Flying) (h : HeldChunk) : Option State :=
  match s.facet n h.vsn with
  | none => some ((s.discard f).stray n p f.msg)
  | some x =>
    if !x.inputs.contains p || (s.router n).marked h.vsn p then none
    else
      match x.combine with
      | none => s.forwardChunk n p f x.out
      | some op => if f.lacks = 0 then (s.combineAt n p f x op h).map fun t => t.moved n else none

/-- The chunk that stands first in an input queue, judged by its head (03 R98 to R101, R107). -/
def State.chunkStep (s : State) (n : Nat) (p : Fin 6) (lane : Fin 2) : Option State :=
  (s.firstIn n p 2 lane).bind fun f =>
    match f.msg.body with
    | .chunk v tag fmt index data =>
      if f.drop then none
      else if f.gone ≠ 0 then s.forwardChunk n p f f.outs
      else
        (match s.judgeEntry n (some (.vsn v)) f.msg.cpl with
         | .hold => none
         | .stray => some ((s.discard f).stray n p f.msg)
         | .pass => s.chunkAt n p f { vsn := v, tag, index, fmt, data, from_ := p })
    | _ => none

/-- The message is a chunk. -/
def Body.isChunk : Body → Bool
  | .chunk .. => true
  | _ => false

/-- The message is a marker or an end mark. -/
def Body.isMark : Body → Bool
  | .mark .. => true
  | _ => false

/-- COLLECTIVE_CHUNK_ARRIVAL (03 R98 to R101): a channel of class 2 with a chunk. -/
def evCollectiveChunkArrival (router : Nat) (ch : Chan) (s : State) : Option State :=
  s.channel router ch 2 (s.chunkStep router ch.port ch.lane)
    (match s.collEnters router Body.isChunk with
     | some x => some x
     | none => s.collFault router)

/-- CHUNK_REFETCH (03 R101): the oldest spilled chunk comes back as slots free. -/
def evChunkRefetch (router : Nat) (s : State) : Option State :=
  match (s.router router).spilled with
  | [] => none
  | (h, _) :: rest =>
    let t := s.onRouter router fun x => { x with spilled := rest }
    match s.facet router h.vsn with
    | some f => (f.combine).bind fun op => (t.offerChunk router f op h none).map fun x => x.moved router
    | none => none

/-- The entry steps once every input has its marker: one message goes out, an end mark when every input's was one (03 R99). -/
def State.stepFacet (s : State) (n : Nat) (v : Fin 256) (tag : BitVec 16) (f : Facet) (count : Nat) : Option State :=
  let r := s.router n
  if !f.inputs.all (r.marked v) then some s
  else if r.spilled.any fun x => x.1.vsn == v then none
  else
    let last := (r.marks.filter fun m => m.1 = v).all (·.2.2)
    let m : Msg := { cls := 2, cpl := r.plane, source := n, body := .mark v tag last }
    if s.outsOk n m f.out then
      let t := s.sendOut n m (f.out.filter fun p => p ≠ 0)
      some (t.onRouter n fun x =>
        { x with marks := x.marks.filter fun y => y.1 ≠ v, cur := putKey x.cur v ((x.curOf v + 1) % count)
                 ends := if last ∧ f.out.contains 0 then x.ends + 1 else x.ends })
    else none

/-- The marker or end mark that stands first in an input queue; at the local port one is consumed as it is delivered (03 R99). -/
def State.markStep (s : State) (n : Nat) (p : Fin 6) (lane : Fin 2) : Option State :=
  (s.firstIn n p 2 lane).bind fun f =>
    match f.msg.body with
    | .mark v tag last =>
      let t : State := { s with msgs := swapMsg f none s.msgs }
      (match s.judgeEntry n (some (.vsn v)) f.msg.cpl with
       | .hold => none
       | .stray => some (t.stray n p f.msg)
       | .pass =>
         match s.facets n v, s.facet n v with
         | some l, some x =>
           if !x.inputs.contains p || (s.router n).marked v p then none
           else
             let u := t.onRouter n fun r => { r with marks := r.marks ++ [(v, p, last)]
                                                     ends := if last ∧ x.combine.isSome then r.ends + 1 else r.ends }
             (u.stepFacet n v tag x l.length).map fun y => y.moved n
         | _, _ => some (t.stray n p f.msg))
    | _ => none

/-- MARKER_ARRIVAL (03 R99, 14 R400): a channel of class 2 with a marker or an end mark. -/
def evMarkerArrival (router : Nat) (ch : Chan) (s : State) : Option State :=
  s.channel router ch 2 (s.markStep router ch.port ch.lane) (s.collEnters router Body.isMark)

def execCollectiveChunkArrival (router : Nat) (ch : Chan) (s : State) : Host.Outcome State Fault Refusal :=
  event (evCollectiveChunkArrival router ch s) s
def execChunkRefetch (router : Nat) (s : State) : Host.Outcome State Fault Refusal := event (evChunkRefetch router s) s
def execMarkerArrival (router : Nat) (ch : Chan) (s : State) : Host.Outcome State Fault Refusal := event (evMarkerArrival router ch s) s

end Sys2Proof.Machine
end

