-- ==== Sys2Proof/Machine/Health.lean ====
section
/-! DEFINITION. Sys2Proof/Machine/Health.lean: the core map that the mapper builds from the health record, and the registers that tell of it
(00 R4, 01 R19 to R25, R40, R41, 06 Table 6-8). -/

namespace Sys2Proof.Machine

/-! ## Physical cores (01 R19, R20) -/

/-- A physical core is 192 f + 16 r + c. Its core row among the 864, its column; the spare of a row. -/
def physRow (p : Nat) : Nat := p / 16
def physCol (p : Nat) : Nat := p % 16
def spareOf (row : Nat) : Nat := row * 16 + 15

/-- The logical core at a column of a core row, as the row holds it with no substitution (01 R20). -/
def logicalAt (row col : Nat) : Nat := coreNum (15 * (row / 12 % 9) + col) (12 * (row / 108) + row % 12)

/-- The core row of a logical core, and its column with no substitution. -/
def logicalRow (n : Nat) : Nat := (coreY n / 12 * 9 + coreX n / 15) * 12 + coreY n % 12
def logicalCol (n : Nat) : Nat := coreX n % 15

end Sys2Proof.Machine

namespace Sys2Proof

open Sys2Proof.Machine

/-! ## The core map (01 R21 to R25) -/

/-- The map of a whole module. -/
def CoreMap.whole : CoreMap := { loans := [], shifts := [], holes := [] }

/-- Elements of two lists, each once. -/
def joined {α : Type} [DecidableEq α] (a b : List α) : List α := (a ++ b).eraseDups

/-- The banks a physical core has lost, each once. -/
def lostBanks (l : List (Nat × List (Fin 16))) (p : Nat) : List (Fin 16) := ((l.filter fun x => x.1 == p).flatMap (·.2)).eraseDups

/-- Two lists of lost banks as one, a core in one entry (00 R4). -/
def joinLost (a b : List (Nat × List (Fin 16))) : List (Nat × List (Fin 16)) :=
  ((a ++ b).map (·.1)).eraseDups.map fun p => (p, lostBanks (a ++ b) p)

/-- A core is dead, or has lost more than four banks (01 R25). -/
def HealthRecord.isDead (h : HealthRecord) (p : Nat) : Bool := h.dead.contains p || decide (4 < (lostBanks h.lost p).length)

/-- The cores that count as dead, each once. -/
def HealthRecord.deadCores (h : HealthRecord) : List Nat := joined h.dead ((h.lost.map (·.1)).filter h.isDead)

/-- A core that has lost banks but is not dead. -/
def HealthRecord.short (h : HealthRecord) (p : Nat) : Bool := !h.isDead p && !(lostBanks h.lost p).isEmpty

/-- The health record as the mapper reads it: with what the vendor's defect map lists (01 R32, R40). -/
def HealthRecord.with_ (h : HealthRecord) (d : DefectMap) : HealthRecord :=
  { h with dead := joined h.dead d.dead, lost := joinLost h.lost d.lost, deadLinks := joined h.deadLinks d.deadLinks }

/-- A row is shifted: its spare is in service. -/
def CoreMap.shifted (m : CoreMap) (row : Nat) : Bool := (assoc m.shifts row).isSome

/-- A row's spare lends. -/
def CoreMap.lends (m : CoreMap) (row : Nat) : Bool := m.loans.any fun l => l.2.1 == row

/-- A physical core borrows. -/
def CoreMap.borrows (m : CoreMap) (p : Nat) : Bool := m.loans.any fun l => l.1 == p

/-- A row's spare can lend n more banks: at most 16 of those it has left, to at most four cores, and only where it neither substitutes nor is
dead (01 R24, R25). -/
def CoreMap.canLend (m : CoreMap) (h : HealthRecord) (row n : Nat) : Bool :=
  let l := m.loans.filter fun l => l.2.1 = row
  !m.shifted row && !h.isDead (spareOf row) && decide (l.length < 4) &&
    decide (l.foldl (fun k x => k + x.2.2) 0 + n + (lostBanks h.lost (spareOf row)).length ≤ 16)

/-- The rows of a row's field. -/
def fieldRows (row : Nat) : List Nat := (List.range 12).map fun r => row / 12 * 12 + r

/-- A core that has lost one to four banks borrows them from the first spare of its field that can lend them, other than itself (01 R24, log 31). -/
def CoreMap.lend (m : CoreMap) (h : HealthRecord) (p : Nat) : Option CoreMap :=
  let n := (lostBanks h.lost p).length
  (((fieldRows (physRow p)).filter fun r => spareOf r != p && m.canLend h r n).head?).map fun r => { m with loans := m.loans ++ [(p, r, n)] }

/-- The logical column a physical column of a row holds under the map, if it holds one (01 Table 1-1). -/
def CoreMap.colOf (m : CoreMap) (row col : Nat) : Option Nat :=
  match assoc m.shifts row with
  | some d => if col = d then none else if col < d then some col else some (col - 1)
  | none => if col = 15 then none else some col

/-- The logical core a physical one holds, if it holds one. -/
def CoreMap.logicalOf (m : CoreMap) (p : Nat) : Option Nat := (m.colOf (physRow p) (physCol p)).map (logicalAt (physRow p))

/-- The spare of a row, freed of its loans where another spare of the field is free to take them (01 R22). -/
def CoreMap.freed (m : CoreMap) (h : HealthRecord) (row : Nat) : Option CoreMap :=
  if !m.lends row then some m
  else
    let n := (m.loans.filter fun l => l.2.1 = row).foldl (fun k x => k + x.2.2) 0
    let free := (fieldRows row).filter fun r => r != row && !m.lends r && m.canLend h r n
    (free.head?).map fun r => { m with loans := m.loans.map fun l => if l.2.1 = row then (l.1, r, l.2.2) else l }

/-- The row of a core that is out shifts onto its spare, which borrows the banks it has lost itself; where it cannot, the map stays, and the
coordinate is a hole (01 R21, R22, R25). -/
def CoreMap.shift (m : CoreMap) (h : HealthRecord) (p : Nat) : CoreMap :=
  let row := physRow p
  if physCol p = 15 ∨ m.shifted row ∨ h.isDead (spareOf row) then m
  else
    match m.freed h row with
    | none => m
    | some x =>
      let y := { x with shifts := x.shifts ++ [(row, physCol p)] }
      if h.short (spareOf row) then (y.lend h (spareOf row)).getD m else y

/-- A core in service that has lost banks borrows them; one that cannot counts as dead: the map, and the cores out so far (01 R24, R25). -/
def CoreMap.serve (h : HealthRecord) (r : CoreMap × List Nat) (p : Nat) : CoreMap × List Nat :=
  if !h.short p || r.1.borrows p || (r.1.logicalOf p).isNone then r
  else
    match r.1.lend h p with
    | some x => (x, r.2)
    | none => (r.1.shift h p, r.2 ++ [p])

/-- What stands of the last map: the shifts around cores still dead, the loans of cores still short of as many banks (01 R21, R24). -/
def CoreMap.standing (m : CoreMap) (h : HealthRecord) : CoreMap :=
  { shifts := m.shifts.filter fun x => h.isDead (x.1 * 16 + x.2) || h.short (x.1 * 16 + x.2)
    loans := m.loans.filter fun l => h.short l.1 && decide ((lostBanks h.lost l.1).length = l.2.2) && !h.isDead (spareOf l.2.1)
    holes := [] }

/-- The core map a restart builds from a record: the last map as far as it stands; then a shift for each dead core, in the record's order, which
decides between two of one row; then loans; what is out and has no shift is a hole (01 R21 to R25, log 31). -/
def healthMap (h : HealthRecord) : CoreMap :=
  let m := h.deadCores.foldl (fun m p => m.shift h p) (h.map.standing h)
  let r := (h.lost.map (·.1)).eraseDups.foldl (CoreMap.serve h) (m, [])
  { r.1 with holes := ((h.deadCores ++ r.2).filterMap r.1.logicalOf).eraseDups }

/-- The physical core that holds a logical one (01 Table 1-1). -/
def CoreMap.physOf (m : CoreMap) (n : Nat) : Nat :=
  let row := logicalRow n
  let c := logicalCol n
  row * 16 + match assoc m.shifts row with
    | some d => if d ≤ c then c + 1 else c
    | none => c

/-- Spares that neither substitute nor lend and are not dead. -/
def CoreMap.freeSpares (m : CoreMap) (h : HealthRecord) : Nat :=
  864 - ((m.shifts.map (·.1)) ++ (m.loans.map (·.2.1)) ++ (h.deadCores.filter fun p => physCol p = 15).map physRow).eraseDups.length

/-- The states the health record lists (01 R40). -/
inductive PhysState where
  | good | freeSpare | shifted | lending | dead | hole
  deriving DecidableEq, Repr

/-- The state of a physical core in the record: of the dead ones, those whose coordinate is out are holes. -/
def HealthRecord.stateOf (h : HealthRecord) (p : Nat) : PhysState :=
  if (h.map.logicalOf p).any fun n => h.map.holes.contains n then .hole
  else if h.isDead p then .dead
  else if physCol p ≠ 15 then .good
  else if h.map.shifted (physRow p) then .shifted
  else if h.map.lends (physRow p) then .lending
  else .freeSpare

/-- The banks a physical core borrows in the record: the ones it has lost (01 R24, R40). -/
def HealthRecord.borrowed (h : HealthRecord) (p : Nat) : List (Fin 16) := if h.map.borrows p then lostBanks h.lost p else []

/-- The record as the words its authentication covers; the order is the model's (01 R40, log 13). -/
def HealthRecord.words (h : HealthRecord) : List Nat :=
  let unit := fun u : ErrUnit => match u with
    | .core n => n
    | .agent a => Sys2Proof.Config.cores + a.val
  h.dead ++ h.lost.flatMap (fun x => x.1 :: x.2.map (·.val)) ++ h.map.loans.flatMap (fun x => [x.1, x.2.1, x.2.2]) ++
    h.map.shifts.flatMap (fun x => [x.1, x.2]) ++ h.map.holes ++ h.stacksOut.map (·.val) ++ h.slicesOut.map (·.val) ++ h.cxlOut.map (·.val) ++
    h.ethOut.map (·.val) ++ h.deadLinks.flatMap (fun x => [x.1, x.2.val]) ++ h.errors.flatMap (fun x => [x.1.toNat, unit x.2]) ++
    h.throttles.map (·.toNat) ++ [boolBit h.thermal, boolBit h.ceRate, h.ceHour.toNat]

/-- REASON bits that the record alone decides: throttling, errors, links, stacks. -/
def HealthRecord.reasons (h : HealthRecord) : Bool :=
  h.thermal || h.ceRate || !h.cxlOut.isEmpty || !h.ethOut.isEmpty || !h.stacksOut.isEmpty

/-- The field of a core; an agent lies in none. -/
def ErrUnit.field : ErrUnit → Option Nat
  | .core n => some (coreY n / 12 * 9 + coreX n / 15)
  | .agent _ => none

end Sys2Proof

namespace Sys2Proof.Machine

/-! ## Registers -/

/-- WAFER_CAPS of a record under a map (00 Table 0-2). -/
def capsWord (h : HealthRecord) (m : CoreMap) (economy : Bool) : Word :=
  let cxl := if economy then 0 else 8 - h.cxlOut.eraseDups.length
  let eth := if economy then 0 else 32 - h.ethOut.eraseDups.length
  BitVec.ofNat 64 ((Sys2Proof.Config.cores - m.holes.length) * 2 ^ 40 + (24 - h.stacksOut.eraseDups.length) * 2 ^ 32 +
    (96 - h.slicesOut.eraseDups.length) * 2 ^ 24 + cxl * 2 ^ 20 + eth * 2 ^ 14 + boolBit (!economy) * 2 + boolBit economy)

/-- WAFER_HEALTH (01 Table 1-4) with the holes, the free spares and CE_HOUR given; `asked`: REPLACE_REQUEST stands from before (01 R42). -/
def healthWord (h : HealthRecord) (holes spares ceHour : Nat) (asked : Bool) : Word :=
  let link := !h.cxlOut.isEmpty || !h.ethOut.isEmpty
  let few := decide (spares < 43)
  let hole := decide (0 < holes)
  BitVec.ofNat 64 (boolBit (h.reasons || few || hole || asked) * 2 ^ 63 + boolBit h.thermal * 2 ^ 57 + boolBit h.ceRate * 2 ^ 56 +
    boolBit link * 2 ^ 55 + boolBit (!h.stacksOut.isEmpty) * 2 ^ 54 + boolBit few * 2 ^ 53 + boolBit hole * 2 ^ 52 + spares * 2 ^ 42 +
    holes * 2 ^ 28 + ceHour * 2 ^ 12)

/-! ## The history of errors and of throttling (01 R37, R40, R41) -/

/-- Reference cycles of an hour at 1.0 GHz. -/
def hour : Nat := 3600000000000

/-- A time lies in the hour that ended k hours before another. -/
def inHour (now t : BitVec 64) (k : Nat) : Bool :=
  decide (t ≤ now) && decide (k * hour ≤ (now - t).toNat) && decide ((now - t).toNat < (k + 1) * hour)

/-- Corrected errors of the last hour, saturating. -/
def errorsInHour (l : List (BitVec 64 × ErrUnit)) (now : BitVec 64) : Nat := min 65535 (l.filter fun e => inHour now e.1 0).length

/-- Some field has had above 10,000 corrected errors in each of the last 24 hours (01 Table 1-4, log 31). -/
def errorRate (l : List (BitVec 64 × ErrUnit)) (now : BitVec 64) : Bool :=
  (List.range 72).any fun f => (List.range 24).all fun k => decide (10000 < (l.filter fun e => e.2.field == some f && inHour now e.1 k).length)

/-- More than 100 throttle events in the last 24 hours. -/
def throttleRate (l : List (BitVec 64)) (now : BitVec 64) : Bool :=
  decide (100 < (l.filter fun t => decide (t ≤ now) && decide ((now - t).toNat < 24 * hour)).length)

/-- The corrected errors an error counter has counted (01 R37). -/
def State.errorCount (s : State) (u : ErrUnit) : Nat := lookupD 0 s.errCounts u

/-- An error is corrected: its unit's counter counts it, and the steward's history has it (01 R37, R40). -/
def State.corrected (s : State) (u : ErrUnit) : State :=
  { s with errCounts := putKey s.errCounts u (s.errorCount u + 1), errors := s.errors ++ [(s.wcc, u)] }

/-- The borrowed banks of a logical core. -/
def borrowedBanks (h : HealthRecord) (m : CoreMap) (n : Nat) : List (Fin 16) :=
  if m.borrows (m.physOf n) then lostBanks h.lost (m.physOf n) else []

/-- CORE_CAPS of a logical core (06 Table 6-8). -/
def coreCapsOf (h : HealthRecord) (m : CoreMap) (economy : Bool) (n : Nat) : Word :=
  let b := borrowedBanks h m n
  BitVec.ofNat 64 (b.foldl (fun x k => x + 2 ^ (48 + k.val)) 0 + 0x0300 + boolBit (!economy) * 2 + boolBit (!b.isEmpty))

/-- The key that authenticates the health record and the floor record, by the label the model gives it (01 R40, 04 R135, log 13). -/
def State.recordKey (s : State) : BitVec 384 := Sys2Proof.Config.derivedKey (s.identity.getD 0) 1

/-- The health record written to flash and authenticated with a key of the module identity key (01 R40, 04 R135). -/
def State.flash (s : State) (h : HealthRecord) : State :=
  { s with health := h, healthGen := s.healthGen + 1, healthSeal := Sys2Proof.Config.authenticate s.recordKey h.words }

/-- The steward writes the health record: the history goes with it, HEALTH_GEN and WAFER_HEALTH follow, a dead spare is no longer free; the map in
force stays (01 R40 to R43, 04 R125). -/
def State.record (s : State) (h : HealthRecord) : State :=
  let ce := errorsInHour s.errors s.wcc
  let h := { h with errors := s.errors, throttles := s.throttles, thermal := throttleRate s.throttles s.wcc
                    ceRate := errorRate s.errors s.wcc, ceHour := BitVec.ofNat 16 ce }
  let m := s.inForce.map
  { s.flash h with
    asked := s.asked || h.reasons
    healthReg := healthWord h m.holes.length (m.freeSpares (h.with_ s.defects)) ce s.asked }

/-- The pager's 4 × 4 block by its north-west core: at (131, 92), or the next such block westward that has no hole (08 R246). -/
def pagerAt (holes : List Nat) : Option Nat :=
  ((List.range 33).map fun k => coreNum (131 - 4 * k) 92).find? fun n => (List.range 16).all fun i => !holes.contains (n + i % 4 + i / 4 * Sys2Proof.Config.cols)

/-- A core of the pager's block: no job's (08 R246). -/
def State.pagerHas (s : State) (n : Nat) : Bool :=
  (s.pager).any fun b => decide (coreX b ≤ coreX n) && decide (coreX n < coreX b + 4) && decide (coreY b ≤ coreY n) && decide (coreY n < coreY b + 4)

/-- The map is built anew, and the record lists it: a restart that changes a core's state or loans is a writing of the record. The registers that
tell of the map follow, and the pager's block; CE_HOUR stays (00 R4, 01 R40, R43). -/
def State.remap (s : State) : State :=
  let h := s.health.with_ s.defects
  let m := healthMap h
  let w := healthWord s.health m.holes.length (m.freeSpares h) (bits s.healthReg.toNat 12 16) s.asked
  let t := if m = s.health.map then s else s.flash { s.health with map := m }
  { t with
    inForce := { h with map := m }
    holes := m.holes
    pager := pagerAt m.holes
    caps := capsWord h m s.economy
    asked := bits w.toNat 63 1 == 1
    healthReg := w
    cores := s.cores.map fun x => (x.1, { x.2 with caps := coreCapsOf h m s.economy x.1 }) }

/-- A core no record of which there is yet. -/
def State.freshCore (s : State) (n : Nat) : Core := { Core.reset with caps := coreCapsOf s.inForce s.inForce.map s.economy n }

end Sys2Proof.Machine
end

