-- ==== Sys2Proof/Machine/Planes.lean ====
section
/-! DEFINITION. Sys2Proof/Machine/Planes.lean: the drain of a plane, plane swaps and what a core and a gate begin with under a configuration,
congestion timers and the quiescence detector (03 R103 to R107, R112 to R116, 16 R419, R420). -/

namespace Sys2Proof.Machine

/-! ## What a configuration gives a core, a gate and a partition (05 R158, 06 R188, 10 R303, R304) -/

/-- The task of lowest number whose pen holds a core. -/
def Config.firstTask (g : Config) (n : Nat) : Option Task :=
  bestOf (fun a b => decide (a.num < b.num)) (g.tasks.filter fun t => t.members.contains n)

/-- FIFO banks that a configuration gives the core of a buffer (10 R303, 16 R424). -/
def Config.fifoBanks (g : Config) (n : Nat) : Nat :=
  match assoc g.routers n with
  | some r => r.buffer.foldl (fun k x => k + x.2.2) 0
  | none => 0

/-- The configured modes of a core: its lowest task's, else the topmost banks of a buffer FIFO. -/
def Config.modesAt (g : Config) (n : Nat) : Vector (Fin 4) 16 :=
  match g.firstTask n with
  | some t => Vector.ofFn fun b : Fin 16 => match t.modes[b.val]? with
    | some k => ⟨k % 4, by omega⟩
    | none => 0
  | none => Vector.ofFn fun b : Fin 16 => if 16 - g.fifoBanks n ≤ b.val then fifoMode else scratchMode

/-- STRM_CTL of a core: its weight, 0 installed as 1, its place in the quad, a quad of two (06 R198, Table 6-11). -/
def Config.strmAt (g : Config) (n : Nat) : Word :=
  let w := match g.firstTask n with
    | some t => max 1 (t.sweight % 16)
    | none => 1
  BitVec.ofNat 64 (w + (coreX n % 2 + coreY n % 2 * 2) * 256 + boolBit (coreX n == Sys2Proof.Config.cols - 1) * 1024)

/-- The bytes a configuration's sections put into a core's scratchpad (10 R304). -/
def Config.sections (g : Config) (n : Nat) : List (Nat × Byte) :=
  (g.tasks.filter fun t => t.members.contains n).flatMap fun t => t.code ++ t.data

/-- A core under a configuration: its sections, which a core under test has in its holding copy too (01 R33), its banks' modes, its streamer's
weight. -/
def Core.install (c : Core) (g : Config) (n : Nat) : Core :=
  { (c.putSpad (g.sections n)) with
    holding := c.holding.map fun x => (x.1.put (g.sections n), x.2)
    cfgModes := g.modesAt n, modes := g.modesAt n, strm := g.strmAt n, cache := [] }

/-- A gate before any GO. -/
def Gate.fresh (ctx : Fin 8) (t : Task) : Gate :=
  { id := { ctx, task := t.num }, runnable := false, nextOrd := 0, nextReady := 0, iters := [], store := [], copies := 0, released := [], asked := []
    passed := 0, promoted := none, live := [], closed := [], retired := 0, triggered := 0, eos := [], eosDone := [], ended := [], arrived := []
    holdTags := [], cbar := [], completed := false }

/-- The gates of a configuration in a context. -/
def Config.gates (g : Config) (ctx : Fin 8) : List Gate := g.tasks.map (Gate.fresh ctx)

/-- The routers of a partition, row by row. -/
def Part.routers (p : Part) : List Nat :=
  (List.range p.h).flatMap fun j => (List.range p.w).map fun i => coreNum (p.x0 + i) (p.y0 + j)

/-- A core of the module, fresh where it has no record yet. -/
def State.coreOr (s : State) (n : Nat) : Core := (s.core n).getD (s.freshCore n)

/-- The active plane of a partition, that of its north-west router. -/
def State.activePlane (s : State) (p : Part) : Bool := s.planeOf (coreNum p.x0 p.y0)

/-! ## What stands in a partition -/

/-- The router at which a message stands. -/
def State.msgRouter (s : State) (f : Flying) : Option Nat :=
  match f.place with
  | .source n _ => some n
  | .core n _ => some n
  | q => (s.siteOf q).map (·.1)

/-- The message stands in a partition. -/
def State.msgIn (s : State) (p : Part) (f : Flying) : Bool :=
  match s.msgRouter f with
  | some n => p.has n
  | none => false

/-- Gates of a partition's running or stopped contexts under its active configuration. -/
def State.gatesIn (s : State) (part : Fin 16) : List (Gate × Config) :=
  (List.finRange 8).flatMap fun k =>
    let c := s.ctxs[k]
    if c.part = part ∧ (c.state = .running ∨ c.state = .loading) then
      match c.cfg with
      | some g => c.gates.map fun x => (x, g)
      | none => []
    else []

/-- Streams whose end reaches a gate: one for each task whose stream of a tensor it takes by PUSH ends (03 R104). -/
def Config.expectAt (g : Config) (t : Task) : Nat :=
  (((t.subs.filter fun r => !r.pull).map (·.tensor)).eraseDups).foldl (fun n x =>
    n + ((g.publishers x).filter fun u => u.pubs.any fun r => r.tensor == x && r.ends).length) 0

/-- Every end of a partition's streams has been counted (03 R104, R105). -/
def State.endsCounted (s : State) (part : Fin 16) (p : Part) : Bool :=
  (match p.plane (s.activePlane p) with
   | some g => g.routers.all fun r => decide (r.2.expect ≤ (s.router r.1).ends)
   | none => true) &&
  (s.gatesIn part).all fun x => match x.2.tasks.find? fun t => t.num = x.1.id.task with
    | some t => decide (x.2.expectAt t ≤ x.1.ends x.2)
    | none => true

/-! ## Drain (03 R105) -/

/-- A drain wave is clean: every end counted, no old-plane flit of classes 0 to 2 in a channel, a mirror in flight, a chunk slot or a
FIFO bank. -/
def State.cleanWave (s : State) (part : Fin 16) (p : Part) : Bool :=
  let old := s.activePlane p
  s.endsCounted part p && !(s.msgs.any fun f => decide (f.msg.cls.val ≤ 2) && f.msg.cpl == old && s.msgIn p f) &&
    p.routers.all fun n => let r := s.router n; (r.waiting.all fun m => m.cpl != old) && r.slots.isEmpty && r.spilled.isEmpty

/-- DRAIN_WAVE (03 R105): the second clean wave in a row, 1,024 cycles after the first, completes the drain. -/
def evDrainWave (part : Fin 16) (s : State) : Option State :=
  match s.part part with
  | none => none
  | some p =>
    if !p.complete || p.drained || p.swapped then none
    else
      let clean := s.cleanWave part p
      match p.clean with
      | none => if clean then some (s.onPart part fun q => { q with clean := some s.wcc }) else none
      | some t =>
        if s.wcc < t + 1024 then none
        else if clean then
          let u := s.onPart part fun q => { q with drained := true }
          some { u with mgmt := u.mgmt ++ [.drained part] }
        else some (s.onPart part fun q => { q with clean := none })

/-! ## Plane swaps (03 R106, R107, 16 R419, R420) -/

/-- A swap wave begins. -/
def State.beginSwap (s : State) (part : Fin 16) (p : Part) : State := s.onPart part fun q => { q with swap := p.routers, swapped := true }

/-- No context of a partition runs, or is on its way to the wafer or from it: at most one is RUNNING, so a context that is LOADING gets its plane only
then (04 R127, 16 R419, log 31). -/
def State.planeFree (s : State) (part : Fin 16) : Bool :=
  !(List.finRange 8).any fun k => s.ctxs[k].part == part && (s.ctxs[k].state == .running || s.ctxs[k].state == .saving || s.ctxs[k].state == .restoring)

/-- CFGSWAP (03 R106): after the drain. -/
def evCfgswap (part : Fin 16) (s : State) : Option State :=
  match s.part part with
  | some p => if p.drained && !p.swapped && s.planeFree part then some (s.beginSwap part p) else none
  | none => none

/-- CFGSWAP marked FORCE (03 R106): without waiting for the drain. -/
def evCfgswapForce (part : Fin 16) (s : State) : Option State :=
  match s.part part with
  | some p => if p.swapped || !s.planeFree part then none else some (s.beginSwap part p)
  | none => none

/-- A router judges the message as it swaps: one of classes 0 to 2 that stands in an input queue and that it matches, or that it has delivered
(03 R430, 16 R420). What stands at its source is judged as it arrives. -/
def judgedAtSwap (f : Flying) : Bool :=
  decide (f.msg.cls.val ≤ 2) &&
    match f.place, f.msg.body with
    | .input _ _, .publication _ none => true
    | .input _ _, .request _ _ _ none => true
    | .input _ _, .chunk .. => true
    | .input _ _, .mark .. => true
    | .gate _ _, _ => true
    | .held _ _, _ => true
    | .core _ _, _ => true
    | _, _ => false

/-- A message a gate holds; those behind it at its port came after it (05 R154). -/
def Place.isHeld : Place → Bool
  | .held _ _ => true
  | _ => false

/-- Strays of a swap, in the order their heads stand; copies of one message at the gates of one router are one (16 R420). -/
def State.strays (s : State) (n : Nat) : List (Fin 6 × Msg) → List Flying → State
  | _, [] => s
  | seen, f :: fs =>
    let k := (placePort f.place, f.msg)
    if seen.contains k then s.strays n seen fs else (s.stray n k.1 k.2).strays n (k :: seen) fs

/-- A router and its core swap: the shadow plane becomes active; its entries begin anew; old-plane messages it holds are stray. -/
def State.swapRouter (s : State) (n : Nat) (p : Part) : State :=
  let new := !s.planeOf n
  let s := s.entered n
  let old := s.msgs.filter fun f => s.msgRouter f == some n && judgedAtSwap f && f.msg.cpl != new && f.gone == 0 && !f.drop
  let waiting := (s.router n).waiting.filter fun m => m.cpl != new
  let t := old.foldl State.discard s
  let t := (t.strays n [] ((old.filter fun f => f.place.isHeld) ++ old.filter fun f => !f.place.isHeld)).strays n [] (waiting.map fun m => { place := .input n 0, msg := m })
  let t := t.onRouter n fun r =>
    { r with plane := new, waiting := r.waiting.filter fun m => m.cpl == new, cur := [], marks := [], slots := [], spilled := [], ends := 0 }
  match t.core n, p.plane new with
  | some c, some g => t.setCore n { (if g.cores.contains n then c.install g n else c) with swaps := c.swaps + 1 }
  | some c, none => t.setCore n { c with swaps := c.swaps + 1 }
  | none, some g => if g.cores.contains n then t.setCore n { ((t.freshCore n).install g n) with swaps := 1 } else t
  | none, none => t

/-- The context being loaded on a partition takes the new plane's configuration and runs (16 R419). -/
def Ctx.afterSwap (k : Ctx) (ctx : Fin 8) (part : Fin 16) : Ctx :=
  if k.part = part ∧ k.state = .loading then
    match k.next with
    | some x => { k with state := .running, cfg := some x, next := none, gates := x.gates ctx, runnable := [], doneG := [] }
    | none => k
  else k

/-- The wave has reached every router: the swap is over. -/
def State.endSwap (s : State) (part : Fin 16) : State :=
  match s.part part with
  | none => s
  | some _ =>
    let t := s.onPart part fun q => { q with complete := false, writes := [], drained := false, clean := none, swapped := false, swap := [] }
    { t with ctxs := Vector.ofFn fun k : Fin 8 => t.ctxs[k].afterSwap k part }

/-- The swap wave reaches a router (03 R106, 16 R420). -/
def State.swapAt (s : State) (router : Nat) : Option State :=
  match s.partOf router with
  | none => none
  | some (i, p) =>
    if p.swap.contains router then
      let t := (s.swapRouter router p).onPart i fun q => { q with swap := q.swap.filter (· ≠ router) }
      some (if p.swap.all (· == router) then t.endSwap i else t)
    else none

/-! ## Heads of queues that wait (03 R112, R113, 08 R259) -/

/-- An output takes a flit of a message now: it has credit, and a message for a peer may leave there. -/
def State.opens (s : State) (n : Nat) (m : Msg) (o : Fin 6) : Bool :=
  decide (s.credit n m o ≠ 0) && (o != 5 || match s.peerOf n m.body with
    | some peer => !s.lostPeers.contains peer && s.exits.contains n
    | none => true)

/-- The outputs that what stands first in an input queue needs next and that do not take it: of a message a router makes of it, those that do not
take it whole. -/
def State.wantsOut (s : State) (n : Nat) (p : Fin 6) (f : Flying) : List (Fin 6) :=
  let m := f.msg
  let shut := fun (l : List (Fin 6)) => l.filter fun o => !s.opens n m o
  let made := fun (b : Body) (l : List (Fin 6)) => l.filter fun o => !s.outOk n { cls := 2, cpl := m.cpl, source := n, body := b } 0 o
  match m.body with
  | .publication t none => if s.judgeEntry n (s.entryFor n t.name) m.cpl = .pass then shut (s.pubOuts n f t) else []
  | .request name tag to_ none =>
    (match s.probe n (name, tag) with
     | .absent =>
       if s.judgeEntry n (s.entryFor n name) m.cpl ≠ .pass then []
       else match s.fetchPort n name with
         | some o => shut [o]
         | none => shut (((s.routerCfg n).bind fun r => s.wayOf n (.request name tag to_ (some r.target))).toList)
     | _ => [])
  | .request name tag _ (some _) => (match s.probe n (name, tag) with
    | .absent => shut (s.wayOf n m.body).toList
    | _ => [])
  | .chunk v tag fmt index data =>
    (match s.facet n v with
     | some x =>
       if !x.inputs.contains p || (s.router n).marked v p || s.judgeEntry n (some (.vsn v)) m.cpl != .pass then []
       else match x.combine with
         | none => shut x.out
         | some op => match partners { vsn := v, tag, index, fmt, data, from_ := p } (s.router n).slots x.inputs with
           | some l => made (.chunk v tag fmt index (combineChunks op (l.map (·.data)))) x.out
           | none => []
     | none => [])
  | .mark v tag last =>
    (match s.facet n v with
     | some x =>
       if x.inputs.contains p && s.judgeEntry n (some (.vsn v)) m.cpl == .pass && x.inputs.all fun q => q == p || (s.router n).marked v q
       then made (.mark v tag last) x.out else []
     | none => [])
  | b => shut (s.wayOf n b).toList

/-- What stands first in a queue of a router: what a gate holds of it, else its first message. -/
def State.headOf (s : State) (n : Nat) (ch : Chan) (cls : Fin 6) : Option Flying :=
  if ch.detour then s.firstOnDetour n ch.port cls ch.lane
  else
    match s.msgs.find? fun f => f.msg.cls == cls && f.msg.lane == ch.lane && match f.place with
        | .held g q => q == ch.port && s.gateRouter g == n
        | _ => false with
    | some f => some f
    | none => s.firstIn n ch.port cls ch.lane

/-- The outputs without credit that a queue's head waits for: the gate's, as port 0, or links'. On a detour's last leg that is the port of the dead
link, whose queue must be empty first (03 R110, log 26). -/
def State.waitsFor (s : State) (n : Nat) (p : Fin 6) (f : Flying) : List (Fin 6) :=
  if f.flits = 0 || f.drop then []
  else
    match f.place with
    | .held _ _ => [0]
    | .input _ _ => if f.gone ≠ 0 then f.outs.filter fun o => !s.opens n f.msg o else s.wantsOut n p f
    | .detour a o d l =>
      (match s.detourNext a o d l f.msg with
       | some q => if s.space q f.msg = 0 then [if l = 0 then o else opposite d] else []
       | none => [if l = 0 then o else opposite (if l = 1 then d else o)])
    | _ => []

/-- The head belongs to a herd in FAULT_HOLD (08 R259). -/
def State.heldHead (s : State) (f : Flying) : Bool :=
  let on := fun (tag : BitVec 16) (q : Task → Bool) => s.gates.any fun g => g.holdTags.contains tag && match s.taskOf g.id with
    | some t => q t
    | none => false
  match f.msg.body with
  | .chunk v tag _ _ _ => on tag fun t => t.vsns.contains v
  | .mark v tag _ => on tag fun t => t.vsns.contains v
  | .carry c _ _ => on c.tag fun t => t.members.contains f.msg.source
  | .control g (.arrive tag _ _) => on tag fun t => t.num == g.task
  | _ => false

/-- The queues of a router: by port, its VC 0 before its VC 1, by class and lane (03 R75, R78, log 26). -/
def queueNames : List (Chan × Fin 6) :=
  (List.finRange 6).flatMap fun port => [false, true].flatMap fun detour => (List.finRange 6).flatMap fun cls =>
    if 4 ≤ cls.val then [({ port, detour }, cls)] else [({ port, detour }, cls), ({ port, lane := 1, detour }, cls)]

/-- The queues of a router whose heads wait for outputs without credit: their heads, and the first such output (log 26). -/
def State.blockedAt (s : State) (n : Nat) : List ((Chan × Fin 6) × Flying × Fin 6) :=
  queueNames.filterMap fun q => (s.headOf n q.1 q.2).bind fun f =>
    if s.heldHead f then none else ((s.waitsFor n q.1.port f).head?).map fun o => (q, f, o)

/-- Routers at which messages stand, in the order of y and then x. -/
def State.busyRouters (s : State) (p : Part) : List Nat := p.routers.filter fun n => s.msgs.any fun f => s.msgRouter f == some n

/-! ## Congestion timers (03 R112) -/

/-- An output of a router, in one of its planes, has a flit waiting for it without credit. -/
def State.congested (s : State) (n : Nat) (o : Fin 6) (memplane : Bool) : Bool :=
  queueNames.any fun q => decide (4 ≤ q.2.val) == memplane && match s.headOf n q.1 q.2 with
    | some f => (s.waitsFor n q.1.port f).contains o
    | none => false

/-- The timers of a router after one more cycle: one for each output of each plane. -/
def State.timed (s : State) (n : Nat) (r : Router) : Router :=
  { r with timers := (List.finRange 6).flatMap fun o => [false, true].filterMap fun k =>
      if s.congested n o k then some ((o, k), lookupD 0 r.timers (o, k) + 1) else none }

/-- The queues blocked since a probe's first wave, after one more cycle. -/
def State.stillBlocked (s : State) (l : List (Nat × Chan × Fin 6)) : List (Nat × Chan × Fin 6) :=
  l.filter fun q => (s.blockedAt q.1).any fun b => b.1 == q.2

/-- Every router's timers, and every probe's blocked queues, after one more cycle. -/
def State.timers (s : State) : State :=
  { s with
    routers := s.routers.map fun x => (x.1, if s.msgs.isEmpty then { x.2 with timers := [] } else s.timed x.1 x.2)
    parts := s.parts.map fun x => (x.1, { x.2 with probe := x.2.probe.map fun r => { r with blocked := s.stillBlocked r.blocked } }) }

/-- The exponent in force: values outside 10 to 24 act as 20 (03 Table 3-14). -/
def State.congLimit (s : State) : Nat := let e := s.congExp.toNat; 2 ^ (if 10 ≤ e ∧ e ≤ 24 then e else 20)

/-! ## Probes (03 R113 to R115) -/

/-- The movement counters of a partition. -/
def State.movement (s : State) (p : Part) : Nat :=
  (s.routers.foldl (fun n r => if p.has r.1 then n + r.2.moved else n) 0) +
    s.cores.foldl (fun n c => if p.has c.1 then n + c.2.bundles else n) 0

/-- Every firing retired, every end counted, every channel empty (03 R114). -/
def State.probeDone (s : State) (part : Fin 16) (p : Part) : Bool :=
  (s.cores.all fun c => !p.has c.1 || (c.2.firing.isNone && c.2.stagedF.isEmpty)) && s.endsCounted part p && !s.msgs.any (s.msgIn p) &&
    (p.routers.all fun n => let r := s.router n; r.waiting.isEmpty && r.slots.isEmpty && r.spilled.isEmpty) &&
    (s.gatesIn part).all fun x => !x.1.runnable || match x.2.tasks.find? fun t => t.num = x.1.id.task with
      | some t => x.1.done t
      | none => true

/-- The blocked queues of a partition, in the order of y, x and port (03 R115). -/
def State.blockedIn (s : State) (p : Part) : List (Nat × (Chan × Fin 6) × Flying × Fin 6) :=
  (s.busyRouters p).flatMap fun n => (s.blockedAt n).map fun b => (n, b)

/-- A probe's first wave; one asked for while a probe of the partition is under way is lost: the manual does not say that it waits (03 R112, log 26). -/
def State.startProbe (s : State) (part : Fin 16) (asked : Bool) : Option State :=
  match s.part part with
  | some p =>
    if p.probe.isSome then none
    else some (s.onPart part fun q => { q with probe := some {
      moved := s.movement p, at_ := s.wcc, asked, done := s.probeDone part p, blocked := (s.blockedIn p).map fun b => (b.1, b.2.1) } })
  | none => none

/-- CONGESTION_TIMEOUT (03 R112): a timer that reaches its limit asks for a probe once. -/
def evCongestionTimeout (router : Nat) (port : Fin 6) (s : State) : Option State :=
  match s.partOf router with
  | some (i, _) =>
    if [false, true].any fun k => lookupD 0 (s.router router).timers (port, k) == s.congLimit then s.startProbe i false else none
  | none => none

/-- PROBE (03 R113, Table 3-14): a write of PROBE to QD_CTL. -/
def evProbe (part : Fin 16) (s : State) : Option State :=
  (s.startProbe part true).map fun t => { t with qdPart := BitVec.ofNat 8 part.val }

/-- TASK of a QD record: the running firing's, else the lowest task of a pen with the core, else 0xFFFF (03 Table 3-13). -/
def State.qdTask (s : State) (n : Nat) : Nat :=
  match (s.core n).bind (·.firing) with
  | some f => f.task.num
  | none => match (s.cfgAt n).bind fun g => g.firstTask n with
    | some t => t.num
    | none => 0xFFFF

/-- The queue beyond the output that a head waits for. -/
def State.downstream (s : State) (n : Nat) (f : Flying) (o : Fin 6) : Option Place :=
  match f.place with
  | .detour a k d l => s.detourNext a k d l f.msg
  | .held _ _ => none
  | _ => s.beyond n o

/-- A QD record (03 Table 3-13). -/
def State.qdRecord (s : State) (n : Nat) (q : Chan × Fin 6) (f : Flying) (o : Fin 6) : List Word :=
  let task := s.qdTask n
  let own := match f.place with
    | .held _ p => Place.input n p
    | x => x
  let depth := min 255 (s.queued own f.msg)
  let out := (s.downstream n f o).elim 0 fun x => min 255 (s.queued x f.msg)
  let l := f.msg.body.label
  [BitVec.ofNat 64 (coreX n * 2 ^ 56 + coreY n * 2 ^ 48 + q.1.port.val * 2 ^ 45 + q.2.val * 2 ^ 42 + boolBit f.msg.cpl * 2 ^ 41 +
     boolBit q.1.detour * 2 ^ 40 + o.val * 2 ^ 37),
   BitVec.ofNat 64 (task * 2 ^ 48 + task * 2 ^ 32 + depth * 2 ^ 24 + out * 2 ^ 16),
   l.1, l.2.setWidth 64 <<< (48 : Nat), s.wcc, 0, 0, 0]

/-- The records of a partition's queues blocked since the first wave, the first 64 (03 R115). -/
def State.qdRecords (s : State) (p : Part) (since : List (Nat × Chan × Fin 6)) : List (List Word) :=
  (((s.blockedIn p).filter fun b => since.contains (b.1, b.2.1)).map fun b => s.qdRecord b.1 b.2.1 b.2.2.1 b.2.2.2).take 64

/-- Records written to steward memory at QD_REPORT's BASE. -/
def State.writeQd (s : State) (l : List (List Word)) : State :=
  { s with smem := s.smem.put (cellsAt (s.qdBase.toNat * 4096) (l.flatMap fun r => r.flatMap fun w => leBytes 8 w.toNat))
           qdCount := BitVec.ofNat 7 l.length }

/-- A verdict of a probe: VERDICT where it was asked for by QD_CTL. -/
def State.decided (s : State) (part : Fin 16) (asked : Bool) (v : Fin 8) : State :=
  let t := s.onPart part fun q => { q with probe := none }
  if asked then { t with verdict := v } else t

/-- PROBE_WAVE (03 R113, R114): the second wave, 65,536 cycles after the first. Where the counters have changed and all was done at both waves, DONE
and BUSY both hold, and the manual puts neither first: the verdict is BUSY (log 26). -/
def evProbeWave (part : Fin 16) (s : State) : Option State :=
  match s.part part with
  | none => none
  | some p =>
    match p.probe with
    | none => none
    | some r =>
      if s.wcc < r.at_ + 65536 then none
      else if s.movement p ≠ r.moved then some (s.decided part r.asked 1)
      else if r.done && s.probeDone part p then some ((s.decided part r.asked 3).raisePart 0x44 part 0)
      else
        let l := s.qdRecords p r.blocked
        if l.isEmpty then some (s.decided part r.asked 2)
        else some (((s.writeQd l).decided part r.asked 4).raisePart 0x43 part l.length)

/-- VERDICT_READ (03 Table 3-14). -/
def evVerdictRead (s : State) : Option State := some { s with answers := s.answers ++ [.verdict s.verdict], verdict := 0 }

def execDrainWave (part : Fin 16) (s : State) : Host.Outcome State Fault Refusal := event (evDrainWave part s) s
def execCfgswap (part : Fin 16) (s : State) : Host.Outcome State Fault Refusal := event (evCfgswap part s) s
def execCfgswapForce (part : Fin 16) (s : State) : Host.Outcome State Fault Refusal := event (evCfgswapForce part s) s
def execCongestionTimeout (router : Nat) (port : Fin 6) (s : State) : Host.Outcome State Fault Refusal :=
  event (evCongestionTimeout router port s) s
def execProbe (part : Fin 16) (s : State) : Host.Outcome State Fault Refusal := event (evProbe part s) s
def execProbeWave (part : Fin 16) (s : State) : Host.Outcome State Fault Refusal := event (evProbeWave part s) s
def execVerdictRead (s : State) : Host.Outcome State Fault Refusal := event (evVerdictRead s) s

end Sys2Proof.Machine
end

