-- ==== Sys2Proof/Machine/Links.lean ====
section
/-! DEFINITION. Sys2Proof/Machine/Links.lean: links of the fabric that ask for a resend or die, box detours and held ports (03 R79, R108 to R111). -/

namespace Sys2Proof.Machine

/-- A link of the grid by its west or north router: 2n for the horizontal one of router n, 2n + 1 for the vertical one. -/
def linkOf (n : Nat) (p : Fin 6) : Option Nat :=
  match p.val with
  | 1 => (neighbour n 1).map fun k => 2 * k + 1
  | 2 => (neighbour n 2).map fun _ => 2 * n
  | 3 => (neighbour n 3).map fun _ => 2 * n + 1
  | 4 => (neighbour n 4).map fun k => 2 * k
  | _ => none

/-- The ends of a link: its west or north router with its port, and the other with its own. -/
def linkEnds (k : Nat) : List (Nat × Fin 6) :=
  if k % 2 = 0 then [(k / 2, 2), (k / 2 + 1, 4)] else [(k / 2, 3), (k / 2 + Sys2Proof.Config.cols, 1)]

/-- The three links of a link's box: over the routers north or west of it, or, `second`, south or east (03 R109). -/
def boxPath (k : Nat) (second : Bool) : Option (List Nat) :=
  let n := k / 2
  let w := Sys2Proof.Config.cols
  if k % 2 = 0 then
    if second then (neighbour n 3).map fun m => [2 * n + 1, 2 * m, 2 * (n + 1) + 1]
    else (neighbour n 1).map fun m => [2 * m + 1, 2 * m, 2 * (m + 1) + 1]
  else
    if second then (neighbour n 2).map fun m => [2 * n, 2 * m + 1, 2 * (n + w)]
    else (neighbour n 4).map fun m => [2 * m, 2 * m + 1, 2 * (m + w)]

/-- A link has been declared dead. -/
def State.linkIsDead (s : State) (k : Nat) : Bool := (linkEnds k).any fun e => (s.router e.1).dead.contains e.2

/-- Links that a router's boxes bypass, from their west or north end, with the choice of each. -/
def Router.boxes (r : Router) (n : Nat) : List (Nat × Bool) :=
  (r.boxed.filter fun b => b.1 = 2 ∨ b.1 = 3).map fun b => (2 * n + boolBit (b.1 == 3), b.2)

/-- Every box in force. -/
def State.boxes (s : State) : List (Nat × Bool) := s.routers.flatMap fun r => r.2.boxes r.1

/-- A box can be installed: its links are live and none belongs to another box (03 R109). -/
def State.boxFree (s : State) (k : Nat) (second : Bool) : Bool :=
  match boxPath k second with
  | none => false
  | some l => l.all fun x => !s.linkIsDead x && !(s.boxes.any fun b => b.1 != k && ((boxPath b.1 b.2).getD []).contains x)

/-- A port is entered once in a list, or taken out. -/
def withPort (l : List (Fin 6)) (p : Fin 6) : List (Fin 6) := if l.contains p then l else l ++ [p]

/-- Destinations that need a port, by dimension order: the x range and the y range (03 R87, R111). -/
def portReach (n : Nat) (p : Fin 6) : (Nat × Nat) × (Nat × Nat) :=
  let x := coreX n
  let y := coreY n
  match p.val with
  | 1 => ((x, x), (0, y - 1))
  | 2 => ((x + 1, Sys2Proof.Config.cols - 1), (0, Sys2Proof.Config.rows - 1))
  | 3 => ((x, x), (y + 1, Sys2Proof.Config.rows - 1))
  | _ => ((0, x - 1), (0, Sys2Proof.Config.rows - 1))

/-- ROUTE_HOLD at an end of a link: its port is held (03 R111, Table 3-15). -/
def State.holdPort (s : State) (e : Nat × Fin 6) : State :=
  let r := portReach e.1 e.2
  let byte := fun (x : Nat × Nat) => x.1 * 256 + x.2
  (s.onRouter e.1 fun q => { q with held := withPort q.held e.2 }).raiseAt 0x42 e.1 e.2.val 0 false 0 0 (byte r.1 * 2 ^ 32 + byte r.2 * 2 ^ 16)

/-- A dead link gets the first box there is, north or west before south or east; with none, both its ends hold (03 R109, R111). -/
def State.bypass (s : State) (k : Nat) : State :=
  let box := if s.boxFree k false then some false else if s.boxFree k true then some true else none
  match box with
  | some b => (linkEnds k).foldl (fun t e => t.onRouter e.1 fun r =>
      { r with boxed := r.boxed.filter (fun x => x.1 ≠ e.2) ++ [(e.2, b)], held := r.held.filter (· ≠ e.2) }) s
  | none => (linkEnds k).foldl (fun t e => (t.onRouter e.1 fun r => { r with boxed := r.boxed.filter fun x => x.1 ≠ e.2 }).holdPort e) s

/-- Boxes that use a link lose it, and their links look for another. -/
def State.rebypass (s : State) (k : Nat) : State :=
  let lost := s.boxes.filter fun b => ((boxPath b.1 b.2).getD []).contains k
  let t := lost.foldl (fun x b => (linkEnds b.1).foldl (fun y e => y.onRouter e.1 fun r => { r with boxed := r.boxed.filter fun z => z.1 ≠ e.2 }) x) s
  lost.foldl (fun x b => x.bypass b.1) t

/-- Resends asked for in a row at a port since a flit last got over its link. -/
def Router.retriesAt (r : Router) (p : Fin 6) : Nat := (findFin r.retried p).getD 0

/-- RETRY_REQUEST (03 R79): the receiver of a router's port asks for a go-back-N resend, which is counted until a flit gets over the link (R108). -/
def evRetryRequest (router : Nat) (port : Fin 6) (s : State) : Option State :=
  match linkOf router port with
  | some k =>
    if s.linkIsDead k then none
    else some (s.onRouter router fun r => { r with retried := r.retried.filter (fun x => x.1 ≠ port) ++ [(port, r.retriesAt port + 1)] })
  | none => none

/-- The health record takes a dead link (01 R40). -/
def State.recordLink (s : State) (e : Nat × Fin 6) : State := s.record { s.health with deadLinks := joined s.health.deadLinks [e] }

/-- A router's port finds its link dead: 16 retries in a row have failed, or no acknowledgement has come for 10,000 cycles (03 R108, log 26). -/
def State.linkFails (s : State) (n : Nat) (p : Fin 6) : Bool :=
  let r := s.router n
  decide (16 ≤ r.retriesAt p) || decide (10000 ≤ (s.wcc - (findFin r.acked p).getD 0).toNat)

/-- Both ends of a link are dead, and it is bypassed or held. -/
def State.killLink (s : State) (k : Nat) : State :=
  (((linkEnds k).foldl (fun t e => t.onRouter e.1 fun r => { r with dead := withPort r.dead e.2 }) s).bypass k).rebypass k

/-- LINK_DEAD (03 R108 to R111). -/
def evLinkDead (router : Nat) (port : Fin 6) (s : State) : Option State :=
  match linkOf router port with
  | none => none
  | some k =>
    if s.linkIsDead k || !s.linkFails router port then none
    else some (((s.recordLink (router, port)).raiseAt 0x45 router port.val 0 false 0 0 0).killLink k)

def execRetryRequest (router : Nat) (port : Fin 6) (s : State) : Host.Outcome State Fault Refusal := event (evRetryRequest router port s) s
def execLinkDead (router : Nat) (port : Fin 6) (s : State) : Host.Outcome State Fault Refusal := event (evLinkDead router port s) s

end Sys2Proof.Machine
end

