-- ==== Sys2Proof/Machine/Ethernet.lean ====
section
/-! DEFINITION. Sys2Proof/Machine/Ethernet.lean: frames from and to peer modules (02 R70 to R74, 04 R133). -/

namespace Sys2Proof.Machine

/-- A message as it enters from a peer: a request keeps its requester behind the peer. -/
def fromPeer (peer : Fin 4096) (m : Msg) : Msg :=
  match m.body with
  | .request name tag to_ _ => { m with body := .request name tag (.peer peer to_) none }
  | _ => m

/-- Frames a sender still keeps after an acknowledgement up to a number, modulo 2^32. -/
def unackedAfter (ack : BitVec 32) (l : List Frame) : List Frame := l.filter fun f => !(decide ((ack - f.psn).toNat < 2 ^ 31))

/-- A frame carries one to sixteen flits of its message (02 R71). -/
def frameWhole (f : Frame) : Bool := decide (1 ≤ f.nflit) && decide (f.nflit ≤ 16) && decide (f.behind + f.nflit ≤ f.msg.body.flits)

/-- FRAME_RECEIVE (02 R71, R72, 04 R133): the frame of the expected number, for this module; its flits stand at the port until they can enter. -/
def evFrameReceive (port : Fin 32) (frame : Frame) (s : State) : Option State :=
  let l := s.peerLink frame.src frame.cls
  if s.portUp port && frame.dst == s.modNum && frame.cls == frame.msg.cls && frameWhole frame && frame.psn == l.expected then
    let t := s.setPeer { l with expected := l.expected + 1, unacked := unackedAfter frame.ack l.unacked }
    some (t.flow (.peer port frame.src) (fromPeer frame.src frame.msg) 0 frame.nflit)
  else none

/-- FRAME_RESEND_TIMEOUT (02 R72): what is unacknowledged goes again, with the acknowledgement of now. -/
def evFrameResendTimeout (port : Fin 32) (peer : Fin 4096) (cls : Fin 6) (s : State) : Option State :=
  let l := s.peerLink peer cls
  if s.portUp port && !l.unacked.isEmpty then
    some (s.setPeer { l with unacked := l.unacked.map fun f => { f with ack := l.expected - 1 } })
  else none

/-- PEER_LOST (02 R72): an event for the steward; traffic to the peer is held. -/
def evPeerLost (peer : Fin 4096) (s : State) : Option State :=
  if s.lostPeers.contains peer then none else some { s with lostPeers := s.lostPeers ++ [peer], mgmt := s.mgmt ++ [.peerLost peer] }

/-- PEER_DELAY_MEASURE (02 R74): the delay goes into the time that comes by the port (01 R28). -/
def evPeerDelayMeasure (port : Fin 32) (delay : BitVec 64) (s : State) : Option State :=
  if s.portUp port then some { s with delays := (s.delays.filter fun d => d.1 ≠ port) ++ [(port, delay)] } else none

def execFrameReceive (port : Fin 32) (frame : Frame) (s : State) : Host.Outcome State Fault Refusal := event (evFrameReceive port frame s) s
def execFrameResendTimeout (port : Fin 32) (peer : Fin 4096) (cls : Fin 6) (s : State) : Host.Outcome State Fault Refusal :=
  event (evFrameResendTimeout port peer cls s) s
def execPeerLost (peer : Fin 4096) (s : State) : Host.Outcome State Fault Refusal := event (evPeerLost peer s) s
def execPeerDelayMeasure (port : Fin 32) (delay : BitVec 64) (s : State) : Host.Outcome State Fault Refusal :=
  event (evPeerDelayMeasure port delay s) s

end Sys2Proof.Machine
end

