-- ==== Sys2Proof/Machine/Mapper.lean ====
section
/-! DEFINITION. Sys2Proof/Machine/Mapper.lean: the mapper: where it places pens, and what follows from a placement: each router's name-match table,
default route, VSN entries, stream ends and buffers, and PART_HOP (01 R23, R43, 03 R88, R89, R94, R98, R104, R429, 04 R124 to R126, 05 R169, R434, 10
R302, 14 R395, 16 R414, R424). -/

namespace Sys2Proof.Machine

/-! ## Sets of tile indices: spans with both ends, rising and apart (03 R429) -/

/-- A set of tile indices. -/
abbrev IndexSet := List (Nat × Nat)

/-- A span joins a set. -/
def addSpan (lo hi : Nat) : IndexSet → IndexSet
  | [] => [(lo, hi)]
  | (a, b) :: l => if hi + 1 < a then (lo, hi) :: (a, b) :: l else if b + 1 < lo then (a, b) :: addSpan lo hi l else addSpan (min lo a) (max hi b) l

/-- The union of two sets. -/
def joinSets (x y : IndexSet) : IndexSet := y.foldl (fun s e => addSpan e.1 e.2 s) x

/-- What two sets share. -/
def meetSets (x y : IndexSet) : IndexSet :=
  x.flatMap fun a => y.filterMap fun b => if max a.1 b.1 ≤ min a.2 b.2 then some (max a.1 b.1, min a.2 b.2) else none

/-- An index lies in a set. -/
def inSet (x : IndexSet) (i : Nat) : Bool := x.any fun a => decide (a.1 ≤ i) && decide (i ≤ a.2)

/-- Indices whose bits below k agree with a value where a mask compares them; `lo` are the bits above. -/
def maskedSet (value mask : Nat) : Nat → Nat → IndexSet
  | 0, lo => [(lo, lo)]
  | k + 1, lo =>
    if mask % 2 ^ (k + 1) = 0 then [(lo, lo + 2 ^ (k + 1) - 1)]
    else if mask / 2 ^ k % 2 = 1 then maskedSet value mask k (lo + value / 2 ^ k % 2 * 2 ^ k)
    else maskedSet value mask k lo ++ maskedSet value mask k (lo + 2 ^ k)

/-! ## What a record can name (05 R151, R152) -/

/-- An argument decides what a record of a task names: an offset of its own, or a level of the task's loop nest (03 R429, 10 R301, log 12). -/
def Config.loose (g : Config) (t : Task) (pub : Bool) (i : Nat) : Bool :=
  g.args.any fun a => match a.2 with
    | .subOff n k _ => !pub && n == t.num && k == i
    | .pubOff n k _ => pub && n == t.num && k == i
    | .lo n _ => n == t.num
    | .step n _ => n == t.num
    | .count n _ => n == t.num
    | _ => false

/-- Ranks of a task's firings. -/
def Task.ranks (t : Task) : List Nat := if t.herd then List.range t.hsize else [0]

/-- The rank that member k runs as, in a pen of firings any member may run. -/
def Task.rankOf (t : Task) (k : Nat) : Nat := if t.herd then k else 0

/-- The indices a record names over the whole loop nest and some ranks; all its widths allow, where an argument decides. -/
def Config.named (g : Config) (t : Task) (pub : Bool) (i : Nat) (r : NameRec) (ranks : List Nat) : IndexSet :=
  if g.loose t pub i then [(0, 2 ^ (r.widths.foldl (· + ·) 0) - 1)]
  else ranks.foldl (fun x k => (List.range t.total).foldl (fun y o =>
    match indexOf (t.firing { ctx := 0, task := t.num } 0 o k) 0 r.coords r.widths with
    | some n => addSpan n n y
    | none => y) x) []

/-! ## Routes (03 R87, 16 R413) -/

/-- The dimension-order path from a router to another: each router of it with the port by which it goes on; the last one's is 0. -/
def steps (to_ : Nat) : Nat → Nat → List (Nat × Fin 6)
  | 0, _ => []
  | fuel + 1, n =>
    if n = to_ then [(n, 0)]
    else (n, portTo n to_) :: match neighbour n (portTo n to_) with
      | some k => steps to_ fuel k
      | none => []

/-- A path across the module. -/
def pathOf (a b : Nat) : List (Nat × Fin 6) := steps b 231 a

/-- The input port by which what comes from a router arrives at another (16 R413). -/
def arrivesBy (from_ n : Nat) : Fin 6 :=
  if coreY from_ < coreY n then 1 else if coreY n < coreY from_ then 3
  else if coreX from_ < coreX n then 4 else if coreX n < coreX from_ then 2 else 0

/-! ## Buffers (05 R169, R434, 16 R424) -/

/-- The publishing pen of a tensor: that of the task of lowest number that publishes it (16 R414). -/
def Config.publishing (g : Config) (tensor : BitVec 20) : Option Task := bestOf (fun a b => decide (a.num < b.num)) (g.publishers tensor)

/-- Member 0 of a task's pen. -/
def Task.first (t : Task) : Nat := (t.members.head?).getD t.gate

/-- A core lies in some pen. -/
def Config.inPen (g : Config) (n : Nat) : Bool := g.tasks.any fun t => t.members.contains n

/-- Banks of a task's pen in FIFO mode. -/
def Task.fifos (t : Task) : Nat := (t.modes.filter fun m => m == 2).length

/-- A buffer as it is placed: the tensor, the task, the banks, and the core, which carries a pass-through buffer or is the gate's. -/
structure PlacedBuffer where
  tensor : BitVec 20
  task   : Nat
  banks  : Nat
  core   : Nat
  through : Bool
  deriving DecidableEq, Repr

/-- Where a buffer goes: to the gate of a pen with FIFO banks, else to the first core of the path to it that is in service and in no pen. -/
def Config.placeBuffer (g : Config) (free : Nat → Bool) (x : BitVec 20 × Nat × Nat) : Option PlacedBuffer :=
  (g.tasks.find? fun t => t.num = x.2.1).bind fun u =>
    if u.fifos ≠ 0 then some { tensor := x.1, task := u.num, banks := x.2.2, core := u.gate, through := false }
    else (g.publishing x.1).bind fun t => ((pathOf t.first u.gate).find? fun s => free s.1 && !g.inPen s.1).map fun s =>
      { tensor := x.1, task := u.num, banks := x.2.2, core := s.1, through := true }

/-- The path of a tensor's stream from a publisher's router to a task's gate: through its buffer, where there is one. -/
def routeTo (bufs : List PlacedBuffer) (tensor : BitVec 20) (u : Task) (n : Nat) : List (Nat × Fin 6) :=
  match bufs.find? fun b => b.through && b.tensor == tensor && b.task == u.num with
  | some b => (pathOf n b.core).dropLast ++ pathOf b.core u.gate
  | none => pathOf n u.gate

/-! ## What a router's table is to do (03 R88, R429, 14 R395, 16 R414) -/

/-- A use that a name's route makes of an entry: an output of its tree, the port of its request path, the end of a request path at the publisher,
its first router. -/
inductive RouteUse where
  | out (p : Fin 6) | fetch (p : Fin 6) | ends | first
  deriving DecidableEq, Repr

/-- A use at a router, of indices of a tensor. -/
structure TableUse where
  router : Nat
  tensor : BitVec 20
  set_   : IndexSet
  use    : RouteUse
  deriving DecidableEq, Repr

/-- Uses of outputs along a path. -/
def outsAlong (tensor : BitVec 20) (x : IndexSet) (l : List (Nat × Fin 6)) : List TableUse :=
  if x.isEmpty then [] else l.map fun s => { router := s.1, tensor, set_ := x, use := .out s.2 }

/-- Elements of a list with their places. -/
def indexed {α : Type} (l : List α) : List (Nat × α) := List.zip (List.range l.length) l

/-- Subscriptions to a tensor: the task, the record's place, the record. -/
def Config.subsOf (g : Config) (tensor : BitVec 20) : List (Task × Nat × NameRec) :=
  g.tasks.flatMap fun u => ((indexed u.subs).filter fun q => q.2.tensor == tensor).map fun q => (u, q.1, q.2)

/-- The trees of one member's publications under one record: a branch to the gate of each PUSH subscription, and for each PULL subscription of this
pen's names one to member 0 (16 R414). -/
def Config.trees (g : Config) (bufs : List PlacedBuffer) (t : Task) (k m i : Nat) (r : NameRec) : List TableUse :=
  let mine := g.named t true i r [t.rankOf k]
  { router := m, tensor := r.tensor, set_ := mine, use := .first } ::
    (g.subsOf r.tensor).flatMap fun q =>
      let x := meetSets mine (g.named q.1 false q.2.1 q.2.2 q.1.ranks)
      if !q.2.2.pull then outsAlong r.tensor x (routeTo bufs r.tensor q.1 m)
      else if (g.publishing r.tensor).any fun y => y.num == t.num then outsAlong r.tensor x (pathOf m t.first).dropLast
      else []

/-- The routes of a stream's end from one member to the gates that take the stream (14 R395). -/
def Config.endRoutes (g : Config) (bufs : List PlacedBuffer) (m : Nat) (r : NameRec) : List TableUse :=
  if r.ends then
    ((g.subsOf r.tensor).filter fun q => !q.2.2.pull).flatMap fun q => outsAlong r.tensor [(eosIndex, eosIndex)] (routeTo bufs r.tensor q.1 m)
  else []

/-- Names of a tensor in a remote range (02 R73). -/
def Config.remoteSet (g : Config) (tensor : BitVec 20) : IndexSet :=
  g.remotes.foldl (fun x r =>
    if (nsOf r.1 ^^^ g.ns) &&& nsOf r.2.1 = 0 ∧ (tensorOf r.1 ^^^ tensor) &&& tensorOf r.2.1 = 0
    then joinSets x (maskedSet (r.1.toNat % 2 ^ 36) (r.2.1.toNat % 2 ^ 36) 36 0) else x) []

/-- The path from a router to the nearest port group, and out by its edge port (02 R73). -/
def State.wayOut (s : State) (n : Nat) : List (Nat × Fin 6) :=
  match s.exitRouter n with
  | some x => (pathOf n x).map fun e => if e.1 = x then (x, 5) else e
  | none => []

/-- A subscription's request path: to member 0 of the publishing pen, else, for names of a remote range, to the nearest port group (02 R73, 16 R414). -/
def State.requestPath (s : State) (g : Config) (u : Task) (i : Nat) (q : NameRec) : List TableUse :=
  let x := g.named u false i q u.ranks
  match g.publishing q.tensor with
  | some t => (pathOf u.gate t.first).map fun e =>
      { router := e.1, tensor := q.tensor, set_ := x, use := if e.1 = t.first then .ends else .fetch e.2 }
  | none =>
    let y := meetSets x (g.remoteSet q.tensor)
    if y.isEmpty then [] else (s.wayOut u.gate).map fun e => { router := e.1, tensor := q.tensor, set_ := y, use := .fetch e.2 }

/-- Every use of a configuration: trees, stream ends, ways to peers' subscribers, request paths. -/
def State.tableUses (s : State) (g : Config) (bufs : List PlacedBuffer) : List TableUse :=
  (g.tasks.flatMap fun t => (indexed t.pubs).flatMap fun r => (indexed t.members).flatMap fun m =>
    g.trees bufs t m.1 m.2 r.1 r.2 ++ g.endRoutes bufs m.2 r.2 ++
      outsAlong r.2.tensor (meetSets (g.named t true r.1 r.2 [t.rankOf m.1]) (g.remoteSet r.2.tensor)) (s.wayOut m.2)) ++
    g.tasks.flatMap fun u => (indexed u.subs).flatMap fun q => s.requestPath g u q.1 q.2

/-! ## Entries (03 R429, Table 3-9) -/

/-- What an entry does with an index: PORTS, KEEP, FETCHPORT. -/
abbrev RouteClass := List (Fin 6) × Bool × Option (Fin 6)

/-- The class of an index under uses, where it has one: no entry is needed only to keep it (03 R89, log 12). -/
def classAt (l : List TableUse) (i : Nat) : Option RouteClass :=
  let u := (l.filter fun x => inSet x.set_ i).map (·.use)
  if u.all fun x => x == .first then none
  else some ((List.finRange 6).filter (fun p => u.contains (.out p)), u.contains .first || u.contains .ends,
    (List.finRange 6).find? fun p => u.contains (.fetch p))

/-- A number joins a rising list once. -/
def addCut (n : Nat) : List Nat → List Nat
  | [] => [n]
  | a :: l => if n < a then n :: a :: l else if n = a then a :: l else a :: addCut n l

/-- Where classes can change: the ends of every span, and those of the EOS name. -/
def cutsOf (l : List TableUse) : List Nat :=
  (l.flatMap fun x => x.set_.flatMap fun e => [e.1, e.2 + 1]).foldl (fun c n => addCut n c) [eosIndex, eosIndex + 1]

/-- Spans of one class, rising: those that meet are one, but for the EOS name, which has an entry of its own (03 R429). -/
def classRuns (l : List TableUse) : List Nat → List (Nat × Nat × RouteClass)
  | a :: b :: cs =>
    match classAt l a, classRuns l (b :: cs) with
    | some c, (lo, hi, d) :: rest => if lo = b ∧ d = c ∧ b ≠ eosIndex ∧ a ≠ eosIndex then (a, hi, c) :: rest else (a, b - 1, c) :: (lo, hi, d) :: rest
    | some c, [] => [(a, b - 1, c)]
    | none, rest => rest
  | _ => []

/-- The largest m of which 2^m indices from lo on are aligned and lie in a span. -/
def blockBits (lo hi : Nat) : Nat := ((List.range 37).filter fun m => lo % 2 ^ m == 0 && decide (lo + 2 ^ m ≤ hi + 1)).foldl max 0

/-- The fewest aligned blocks that cover a span. -/
def blocksOf : Nat → Nat → Nat → List (Nat × Nat)
  | 0, _, _ => []
  | fuel + 1, lo, hi => if hi < lo then [] else (lo, blockBits lo hi) :: blocksOf fuel (lo + 2 ^ blockBits lo hi) hi

/-- The entry of a block: NS, TENSOR and the upper bits of INDEX are compared. -/
def blockEntry (ns : BitVec 8) (tensor : BitVec 20) (c : RouteClass) (b : Nat × Nat) : MatchEntry :=
  { value := nameOf ns tensor b.1, mask := BitVec.ofNat 64 (2 ^ 64 - 2 ^ b.2), ports := c.1, keep := c.2.1, fetch := c.2.2 }

/-- A router's table. -/
def tableAt (ns : BitVec 8) (uses : List TableUse) (n : Nat) : List MatchEntry :=
  let here := uses.filter fun x => x.router = n
  (here.map (·.tensor)).eraseDups.flatMap fun t =>
    let l := here.filter fun x => x.tensor = t
    (classRuns l (cutsOf l)).flatMap fun r => (blocksOf 80 r.1 r.2.1).map (blockEntry ns t r.2.2)

/-! ## The default route (03 R89) -/

/-- The nearest of some routers, the first of those as near. -/
def nearest (n : Nat) (l : List Nat) : Option Nat :=
  l.foldl (fun b k => match b with
    | none => some k
    | some j => if hops n k < hops n j then some k else some j) none

/-- Rim agents that own a slice of a partition, rising. -/
def Part.agents (p : Part) : List (Fin 24) := (List.finRange 24).filter fun a => p.slices.owned.any fun x => x.val / 4 == a.val

/-- The default target of a router: the nearest edge router of the nearest such agent, the lower number and the lower position first. -/
def Part.target (p : Part) (n : Nat) : Nat := (nearest n (p.agents.filterMap fun a => nearest n (agentRouters a))).getD n

/-! ## Facets (03 R98, 10 R302) -/

/-- Members of the pen of a facet's task. -/
def Config.rankCores (g : Config) (f : RankFacet) : List Nat := ((g.tasks.find? fun t => t.num = f.task).map (·.members)).getD []

/-- The router of a facet's rank. -/
def Config.facetCore (g : Config) (f : RankFacet) : Nat := ((g.rankCores f)[f.rank]?).getD 0

/-- The port number of an input, and of an output, as relocation type 3 writes it. -/
def Config.inPort (g : Config) (f : RankFacet) : FacetEnd → Nat
  | .port p => p.val
  | .rank a => (arrivesBy (((g.rankCores f)[a]?).getD 0) (g.facetCore f)).val
def Config.outPort (g : Config) (f : RankFacet) : FacetEnd → Nat
  | .port p => p.val
  | .rank b => (portTo (g.facetCore f) (((g.rankCores f)[b]?).getD 0)).val

/-- INORD as relocated: five positions. -/
def Config.inord (g : Config) (f : RankFacet) : List Nat := (List.range 5).map fun k => ((f.ins[k]?).map (g.inPort f)).getD 0

/-- A rank that a facet names lies beyond its herd. -/
def Config.rankBad (g : Config) (f : RankFacet) : Bool :=
  let n := (g.rankCores f).length
  decide (n ≤ f.rank) || (f.ins ++ f.outs).any fun e => match e with
    | .rank a => decide (n ≤ a)
    | .port _ => false

/-- A facet the loader refuses, its ports relocated (03 R98, 05 R144, 10 R302). -/
def Config.facetBad (g : Config) (f : RankFacet) : Bool :=
  let used := (g.inord f).take f.nin.val
  decide (f.nin.val = 0) || decide (5 < f.nin.val) || decide (5 < f.ins.length) || (!f.combine && (f.nin != 1 || f.op != 0)) || used.any (fun p => decide (5 < p)) ||
    ((g.inord f).drop f.nin.val).any (fun p => p != 0) || used.eraseDups.length != used.length || (f.outs.any fun e => decide (5 < g.outPort f e)) ||
    g.rankBad f || !g.tasks.any fun t => t.num == f.task && t.herd && t.vsns.contains f.vsn

/-- Some facet sends out of the module (00 R6). -/
def RankFacet.leaves (f : RankFacet) : Bool := (f.ins ++ f.outs).contains (.port 5)

/-- A facet as a router holds it. -/
def Config.facetOf (g : Config) (f : RankFacet) : Facet :=
  { combine := if f.combine then some f.op else none
    inputs := ((g.inord f).take f.nin.val).map fun p => ⟨p % 6, Nat.mod_lt _ (by decide)⟩
    out := (List.finRange 6).filter fun p => f.outs.any fun e => g.outPort f e == p.val }

/-- FORWARD facets between ranks: for each stream of a facet, the routers strictly within its path, with the port it comes by and the one it goes by. -/
def Config.between (g : Config) (f : RankFacet) : List (Nat × Fin 256 × Fin 4 × Fin 6 × Fin 6) :=
  f.outs.flatMap fun e => match e with
    | .rank b =>
      let a := g.facetCore f
      (pathOf a (((g.rankCores f)[b]?).getD 0)).tail.dropLast.map fun x => (x.1, f.vsn, f.facet, arrivesBy a x.1, x.2)
    | .port _ => []

/-- The facet of a number that a VSN has at a router: a rank's own, or a FORWARD facet of the streams that pass. -/
def Config.facetAtRouter (g : Config) (l : List RankFacet) (n : Nat) (v : Fin 256) (k : Fin 4) : Option Facet :=
  match l.find? fun f => f.vsn = v ∧ f.facet = k ∧ g.facetCore f = n with
  | some f => some (g.facetOf f)
  | none =>
    let on := (l.flatMap g.between).filter fun x => x.1 = n ∧ x.2.1 = v ∧ x.2.2.1 = k
    (on.head?).map fun x => { combine := none, inputs := [x.2.2.2.1], out := (List.finRange 6).filter fun p => on.any fun y => y.2.2.2.2 == p }

/-- The VSN entries of a router. -/
def Config.vsnsAt (g : Config) (l : List RankFacet) (n : Nat) : List (Fin 256 × List Facet) :=
  (l.map (·.vsn)).eraseDups.filterMap fun v =>
    let f := (List.finRange 4).filterMap (g.facetAtRouter l n v)
    if f.isEmpty then none else some (v, f)

/-- Two streams of one facet that no entry of a router can hold: they come by different ports, or pass a rank's own facet. A placement with such
streams is none (log 12). -/
def Config.streamsClash (g : Config) (l : List RankFacet) : Bool :=
  let on := l.flatMap g.between
  on.any fun x => (on.any fun y => y.1 == x.1 && y.2.1 == x.2.1 && y.2.2.1 == x.2.2.1 && y.2.2.2.1 != x.2.2.2.1) ||
    l.any fun f => f.vsn == x.2.1 && f.facet == x.2.2.1 && g.facetCore f == x.1

/-- EXPECT of a router: the ends of each VSN stream at its combine units and its local port, once for each facet (03 R99, R104, log 10). -/
def expectOf (l : List (Fin 256 × List Facet)) : Nat :=
  l.foldl (fun n v => v.2.foldl (fun k f => k + (if f.combine.isSome then f.inputs.length else 0) + boolBit (f.out.contains 0)) n) 0

/-! ## PART_HOP (01 R23, 03 R94) -/

/-- The cycles of a hop east, and of a hop south, from a logical core: 3 where it crosses a spare's column or a router passed through, or selects
another physical column. -/
def hopEast (m : CoreMap) (n : Nat) : Nat :=
  let col := fun (k : Nat) => coreX k / 15 * 16 + physCol (m.physOf k)
  if col (n + 1) = col n + 1 then 2 else 3
def hopSouth (m : CoreMap) (n : Nat) : Nat := if physCol (m.physOf (n + Sys2Proof.Config.cols)) = physCol (m.physOf n) then 2 else 3

/-- The largest hop cost within a partition. -/
def Part.hopCost (p : Part) (m : CoreMap) : Nat :=
  (p.routers.flatMap fun n => (if p.has n && coreX n + 1 < p.x0 + p.w then [hopEast m n] else []) ++
    if p.has n && coreY n + 1 < p.y0 + p.h then [hopSouth m n] else []).foldl max 2

/-- HOP of a configuration on a partition: 3 in uniform mode (03 R94). -/
def State.hopOf (s : State) (p : Part) (g : Config) : Nat := if g.uniform then 3 else p.hopCost s.inForce.map

/-! ## Placing (01 R43, 03 R124, 04 R125) -/

/-- A core of a partition that a pen, a gate or a buffer can have (01 R43, 08 R246). -/
def State.usable (s : State) (p : Part) (avoid : List Nat) (n : Nat) : Bool := p.has n && !s.holes.contains n && !s.pagerHas n && !avoid.contains n

/-- The buffers of a binary as a configuration's pens place them, none where one has no place. -/
def State.placeBuffers (s : State) (p : Part) (g : Config) (l : List (BitVec 20 × Nat × Nat)) : Option (List PlacedBuffer) :=
  let x := l.map fun b => g.placeBuffer (s.usable p []) b
  if x.contains none then none else some (x.filterMap id)

/-- Two members of a herd's pen are one core. -/
def Task.crowded (t : Task) : Bool := t.members.eraseDups.length != t.members.length

/-- A placed configuration stands on a partition: on usable cores, a pen with FIFO banks with its gate at a member, streams that the routers can hold,
buffers that have a place. -/
def State.fits (s : State) (p : Part) (b : Binary) (g : Config) (avoid : List Nat) : Bool :=
  (g.tasks.all fun t => t.members.all (s.usable p avoid) && s.usable p avoid t.gate && !t.crowded && (t.fifos == 0 || t.members.contains t.gate)) &&
    !g.streamsClash b.streams && (s.placeBuffers p g b.buffers).isSome

/-- Pens, each a record's number with how many members it has, on the cores there are, one after another: each on cores that no pen before it has, and
with the others as long as that does not do. -/
def fillPens (cores : List Nat) : List (Nat × Nat) → List Nat → Option (List (Nat × List Nat))
  | [], _ => some []
  | t :: ts, used =>
    let pool := cores.filter (fun n => !used.contains n) ++ cores.filter fun n => used.contains n
    if pool.length < t.2 then none
    else (fillPens cores ts (used ++ pool.take t.2)).map fun l => (t.1, pool.take t.2) :: l

/-- The pen records of a binary: each one's number, and its members. -/
def Binary.pens (b : Binary) : List (Nat × Nat) := (indexed (ofKind b.bytes 0x02)).map fun x => (x.1, penMembers x.2)

/-- The placement the mapper comes to by itself: pens in order on a partition's usable cores, row by row, each gate at member 0 (log 12). -/
def State.autoPlace (s : State) (p : Part) (b : Binary) (avoid : List Nat) : List Placement :=
  ((fillPens (p.routers.filter (s.usable p avoid)) b.pens []).map fun l =>
    { pens := l, gates := l.map fun x => (x.1, (x.2.head?).getD 0) : Placement }).toList

/-- The placements the mapper tries, those of the store first. -/
def State.placements (s : State) (p : Part) (b : Binary) (avoid : List Nat) : List Placement :=
  b.places ++ s.autoPlace p b avoid

/-- A configuration with everything that follows from where its pens are. -/
def State.routed (s : State) (p : Part) (b : Binary) (g : Config) : Config :=
  let bufs := (s.placeBuffers p g b.buffers).getD []
  let uses := s.tableUses g bufs
  let streams := b.streams.filter fun f => g.tasks.any fun t => t.num == f.task
  { g with
    hop := s.hopOf p g
    slices := p.slices
    cores := joined (g.tasks.flatMap (·.members)) ((bufs.filter (·.through)).map (·.core))
    routers := p.routers.map fun n =>
      let vsns := g.vsnsAt streams n
      let target := p.target n
      (n, { table := tableAt g.ns uses n, dport := if target = n then 5 else portTo n target, target, vsns, expect := expectOf vsns
            buffer := (bufs.filter fun x => x.core = n).map fun x =>
              (x.tensor, ((g.publishing x.tensor).map fun t => arrivesBy t.first n).getD 0, x.banks) }) }

end Sys2Proof.Machine
end

