-- ==== Sys2Proof/Machine/Admit.lean ====
section
/-! DEFINITION. Sys2Proof/Machine/Admit.lean: what the loader makes of a configuration binary before it installs it: the checks of its records, the
units it needs and the fallbacks it declares, capacities, strict admission, seeded cycles (00 R6, R428, 02 R49, R61, R64, 03 R88, R98, 05 R144 to R152,
R170, R171, R433, R434, 06 R187, R189, 08 R253, 10 R303 to R305). -/

namespace Sys2Proof.Machine

/-! ## Records (refusal 0x0A) -/

/-- A coordinate list of a record. -/
def NameRec.coordsBad (r : NameRec) : Bool :=
  (r.coords.any fun c => decide (5 < c.sel.val)) || decide (36 < r.widths.foldl (· + ·) 0) || decide (2 < r.tagrule.val) || decide (256 < r.rate)

/-- The landing range of a subscription in a landing slot (05 R151). -/
def NameRec.landing (r : NameRec) (t : Task) (slot : Nat) : Option Span := spanOf (r.lbase + slot * t.lstride) r.lsize

/-- Landing ranges of a task. -/
def Task.landings (t : Task) : List Span := t.subs.flatMap fun r => (List.range t.slots).filterMap (r.landing t)

/-- A task's CODE region. -/
def Task.codeSpan (t : Task) : Option Span := spanOf t.codeBase (t.codeEnd - t.codeBase)

/-- A loop-nest level (05 Table 5-4): its BLK is judged with COUNT as the record has it; `bound`: a count from an argument is judged at GO
(10 R301). -/
def Level.bad (l : Level) (blocked bound : Bool) : Bool :=
  (!bound && (decide (l.count = 0) || decide (65535 < l.count))) || (blocked && (decide (l.blk = 0) || (!bound && decide (l.count < l.blk))))

/-- A count of a task's level comes from an argument (10 R301). -/
def Config.countBound (g : Config) (task level : Nat) : Bool := g.args.any fun a => a.2 == .count task level

/-- The task descriptor and its records do not keep the rules (05 Table 5-2, R144, R146, R147, R149, R151, R152, 08 R253, 10 R304). -/
def Config.taskBad (g : Config) (t : Task) : Bool :=
  decide (0xFFFE < t.num) || decide (3 < t.prio) || decide (t.weight = 0) || decide (15 < t.weight) || decide (t.hsize = 0) || decide (4096 < t.hsize) ||
    (!t.herd && t.hsize != 1) || decide (15 < t.graph) || decide (8 < t.subs.length) || decide (8 < t.pubs.length) || decide (t.window = 0) ||
    decide (64 < t.window) || decide (t.slots = 0) || decide (4 < t.slots) || (t.herd && (decide (t.btmo < 10) || decide (40 < t.btmo))) ||
    decide (t.levels.length = 0) || decide (4 < t.levels.length) || decide (2 < t.order) ||
    ((List.zip (List.range t.levels.length) t.levels).any fun l => l.2.bad (t.order == 2) (g.countBound t.num l.1)) ||
    decide (windowEnd < t.codeEnd) || decide (t.codeEnd ≤ t.codeBase) || decide (t.entry < t.codeBase) || decide (t.codeEnd ≤ t.entry) || t.entry % 2 == 1 ||
    (t.landings.any fun x => meets (some x) t.codeSpan || decide (windowEnd ≤ x.hi)) ||
    (t.data.any fun c => (t.landings.any fun x => decide (x.lo ≤ c.1) && decide (c.1 ≤ x.hi)) || (decide (t.codeBase ≤ c.1) && decide (c.1 < t.codeEnd))) ||
    (t.after.any fun n => n == t.num || !g.tasks.any fun u => u.num == n && u.graph == t.graph) || (!t.herd && (t.carry || !t.vsns.isEmpty)) ||
    decide (t.members.length = 0) || decide (4096 < t.members.length) || (t.herd && t.members.length != t.hsize) || decide (1536 < t.psblk) ||
    (t.subs.any fun r => r.coordsBad || decide (r.lsize = 0) || decide (windowEnd < r.lsize)) || (t.pubs.any fun r => r.coordsBad || r.pull || r.scales) ||
    (match t.live with
     | some l => decide (l.length = 0) || decide (1024 < l.length) || l.any fun e => decide (e.pchi ≤ e.pclo) ||
         e.ranges.any fun r => decide (r.2 = 0) || decide (windowEnd < r.1 + r.2)
     | none => false)

/-- The mode of a bank as the pen record gives it. -/
def Task.mode (t : Task) (b : Nat) : Nat := (t.modes[b]?).getD 0

/-- A pen and the other pens of its cores, its CODE region and its buffer (05 R434, 06 R187, 10 R303). -/
def Config.penBad (g : Config) (bufs : List (BitVec 20 × Nat × Nat)) (t : Task) : Bool :=
  (t.modes.any fun m => decide (2 < m)) || (g.tasks.any fun u => u.num != t.num && ((List.range 16).any fun b => u.mode b != t.mode b) && u.members.any fun n => t.members.contains n) ||
    ((List.range 16).any fun b => t.mode b != 0 && meets (some (bankSpan (bankOf (b * 0xC000)))) t.codeSpan) ||
    (t.fifos != 0 && !bufs.any fun x => x.2.1 == t.num && x.2.2 == t.fifos)

/-- The facet of a VSN at a router. -/
def Config.facetNum (g : Config) (v : Fin 256) (k n : Nat) : Option Facet :=
  (assoc g.routers n).bind fun r => (r.vsns.find? fun x => decide (x.1 = v)).bind fun x => x.2[k]?

/-- What a router's facet sends reaches the same facet of a router beside it. -/
def Config.feeds (g : Config) (v : Fin 256) (k n m : Nat) : Bool :=
  match g.facetNum v k n, g.facetNum v k m with
  | some f, some h => f.out.any fun p => neighbour n p == some m && h.inputs.contains (opposite p)
  | _, _ => false

/-- Routers left once those that no remaining router feeds are taken away, again and again. -/
def Config.facetRing (g : Config) (v : Fin 256) (k : Nat) : Nat → List Nat → List Nat
  | 0, l => l
  | fuel + 1, l => g.facetRing v k fuel (l.filter fun m => l.any fun n => g.feeds v k n m)

/-- Some facet's streams form a cycle (10 R302). -/
def Config.facetCycle (g : Config) : Bool :=
  let vs := (g.routers.flatMap fun r => r.2.vsns.map (·.1)).eraseDups
  vs.any fun v =>
    let at_ := (g.routers.filter fun r => r.2.vsns.any fun x => decide (x.1 = v)).map (·.1)
    (List.range 4).any fun k => !(g.facetRing v k at_.length at_).isEmpty

/-- A buffer of no bank or too many, or for a task that does not take its tensor (05 R434, 16 R424). -/
def Config.bufferBad (g : Config) (x : BitVec 20 × Nat × Nat) : Bool :=
  decide (x.2.2 = 0) || decide (16 < x.2.2) || !g.tasks.any fun t => t.num == x.2.1 && t.subs.any fun s => s.tensor == x.1

/-- A tensor directory entry (02 Table 2-4, 03 R81). -/
def DirEntry.refused (e : DirEntry) : Bool := e.fmt == .triple || decide (256 ≤ e.tokm1) || decide (36 < e.widths.foldl (· + ·) 0)

/-- A replacing task subscribes to and publishes what the one it replaces does (10 R305). -/
def Config.replaceBad (g : Config) (x : Nat × Nat) : Bool :=
  match g.tasks.find? fun t => t.num = x.1, g.tasks.find? fun t => t.num = x.2 with
  | some t, some u => decide (t.subs.map (·.tensor) ≠ u.subs.map (·.tensor)) || decide (t.pubs.map (·.tensor) ≠ u.pubs.map (·.tensor))
  | _, _ => true

/-- Some record of the binary does not keep the rules, wherever its pens are. -/
def Binary.recordsBad (b : Binary) : Bool :=
  let g := b.config Placement.none_
  (g.tasks.any fun t => g.taskBad t) || (b.buffers.any g.bufferBad) || (g.dirs.any DirEntry.refused) || (b.seeds.any fun x => x.refused g) ||
    b.fbTaper.any g.replaceBad

/-- Some record does not keep the rules once its coordinates and ports are written (03 R98, 05 R434, 10 R302, R303); so does a partition's slice list
of N = 7 (02 R49). -/
def Binary.placedBad (b : Binary) (p : Part) (pl : Placement) (g : Config) : Bool :=
  (g.tasks.any fun t => g.penBad b.buffers t) || (List.range (ofKind b.bytes 0x02).length).any (fun k => !penOnGrid (placedPen b.bytes pl k)) ||
    (b.streams.any fun f => (g.tasks.any fun t => t.num == f.task) && g.facetBad f) || g.facetCycle || p.slices.n == 7

/-- The record a refusal names: the descriptor of a task or the directory entry that does not keep the rules; none where another record does
not (04 Table 4-4). -/
def Binary.badIndex (b : Binary) (g : Config) (bad : Task → Bool) : Nat :=
  match (List.range g.tasks.length).find? fun k => (g.tasks[k]?).any bad, (List.range g.dirs.length).find? fun k => (g.dirs[k]?).any DirEntry.refused with
  | some k, _ => recordOf b.bytes 0x01 k
  | none, some k => recordOf b.bytes 0x07 k
  | none, none => noRecord

/-! ## Units and fallbacks (00 R6, R428, 10 R305) -/

/-- Ethernet ports as WAFER_CAPS tells, and the tapered decoders (00 Table 0-2). -/
def State.ethPorts (s : State) : Nat := bits s.caps.toNat 14 6
def State.tapered (s : State) : Bool := bits s.caps.toNat 1 1 == 1

/-- What a configuration needs (00 R6): the deep tier for a directory entry that names it, the Ethernet ports for a remote range or a facet that leaves
the module, the tapered decoders for a task whose code holds a conversion of T8 or T6 (R428). -/
def Config.needsDeep (g : Config) : Bool := g.dirs.any (·.deep)
def Binary.needsEth (b : Binary) : Bool := !b.cfg.remotes.isEmpty || b.streams.any RankFacet.leaves
def Config.needTaper (g : Config) : List Nat := (g.tasks.filter Task.needsTaper).map (·.num)

/-- The configuration needs a unit the module lacks and declares no fallback for it. -/
def State.unitLacks (s : State) (b : Binary) (g : Config) : Bool :=
  (g.needsDeep && s.cxlLinks == 0 && !b.fbDeep) || (b.needsEth && s.ethPorts == 0 && b.fbEth.isNone) ||
    (!s.tapered && g.needTaper.any fun n => !b.fbTaper.any fun x => x.1 == n)

/-- A tensor can lie in a remote range: their bits [55:36] agree. -/
def Config.remoteTensor (g : Config) (t : BitVec 20) : Bool := g.remotes.any fun x => (t ^^^ tensorOf x.1) &&& tensorOf x.2.1 == 0

/-- A graph that uses a remote range. -/
def Config.usesRemote (g : Config) (graph : Nat) : Bool :=
  g.tasks.any fun t => t.graph == graph && (t.subs.any (fun r => g.remoteTensor r.tensor) || t.pubs.any fun r => g.remoteTensor r.tensor)

/-- Tensors of the deep tier placed in HBM. -/
def Config.inHbm (g : Config) : Config := { g with dirs := g.dirs.map fun e => { e with deep := false } }

/-- Graph `to_` in the place of every graph that uses a remote range. -/
def Config.withoutEth (g : Config) (to_ : Nat) : Config :=
  let gone := (List.range 16).filter fun k => k != to_ && g.usesRemote k
  { g with tasks := g.tasks.filter fun t => !gone.contains t.graph, remotes := [], graphs := gone.map fun k => (k, to_) }

/-- Replacing tasks in the place of those they replace, or not installed (00 R428). -/
def Config.withTaper (g : Config) (l : List (Nat × Nat)) (apply : Bool) : Config :=
  { g with tasks := g.tasks.filter fun t => !l.any fun x => (if apply then x.1 else x.2) == t.num, replaces := if apply then l else [] }

/-- Every name of a configuration takes its namespace (03 Table 3-6). -/
def withNs (ns : BitVec 8) (name : BitVec 64) : BitVec 64 := ns ++ name.extractLsb' 0 56
def Config.bindNs (g : Config) (ns : BitVec 8) : Config :=
  { g with
    ns
    dirs := g.dirs.map fun e => { e with ns, bad := false, verified := [] }
    seeds := g.seeds.map fun t => { t with name := withNs ns t.name } }

/-- The configuration a binary gives on this module under a placement: its fallbacks taken where they are needed, its names bound. -/
def State.formOf (s : State) (b : Binary) (pl : Placement) (pfx : BitVec 128) (ns : BitVec 8) : Config :=
  let g := { b.config pl with pfx }
  let g := if g.needsDeep && s.cxlLinks == 0 then g.inHbm else g
  let g := match b.fbEth with
    | some k => if b.needsEth && s.ethPorts == 0 then g.withoutEth k else g
    | none => g
  (g.withTaper b.fbTaper (!s.tapered)).bindNs ns

/-- SUBST of a report (04 Table 4-4, 00 R7). -/
def State.subst (s : State) (g : Config) : Nat := boolBit (s.cxlLinks == 0) + boolBit (!g.graphs.isEmpty) * 2 + boolBit (!g.replaces.isEmpty) * 4

/-! ## Capacities (02 R61, 03 R88) -/

/-- The configuration a context is resident with: the one on its way to it, else the one it has. -/
def Ctx.resident (k : Ctx) : Option Config := k.next.orElse fun _ => k.cfg

/-- Directory entries that resident contexts keep in an agent. -/
def State.dirCount (s : State) (a : Fin 24) : Nat :=
  (List.finRange 8).foldl (fun n k => match s.ctxs[k].state, s.ctxs[k].resident, s.part s.ctxs[k].part with
    | .empty, _, _ => n
    | _, some g, some p => if p.agents.contains a then n + g.dirs.length else n
    | _, _, _ => n) 0

/-- The configuration needs more directory entries, more match entries at a router or more remote name ranges (02 R73)
than there are. -/
def State.overCapacity (s : State) (p : Part) (g : Config) : Bool :=
  (p.agents.any fun a => decide (4096 < s.dirCount a + g.dirs.length)) ||
    decide (256 < g.remotes.length) || g.routers.any fun r => decide (512 < r.2.table.length)

/-- A publication made with BACK to a tensor without a directory entry, or to a SIGNED one (02 R64). -/
def Config.backBad (g : Config) : Bool :=
  g.tasks.any fun t => t.pubs.any fun r => r.back && match g.dirs.find? fun e => e.tensor = r.tensor with
    | some e => e.signed
    | none => true

/-! ## Strict admission (05 R170) -/

/-- FIFO banks of a tensor's buffers on a path. -/
def Config.banksOn (g : Config) (tensor : BitVec 20) (l : List Nat) : Nat :=
  l.foldl (fun k n => match assoc g.routers n with
    | some r => (r.buffer.filter fun x => x.1 = tensor).foldl (fun j x => j + x.2.2) k
    | none => k) 0

/-- The format of an edge: that of its tensor's directory entry, else FP32. -/
def Config.edgeFmt (g : Config) (tensor : BitVec 20) : Fmt :=
  match g.dirs.find? fun e => e.tensor = tensor with
  | some e => e.fmt
  | none => .f32

/-- The capacity of an edge in tokens, for tiles of p tokens (05 R170). -/
def Config.edgeCapacity (g : Config) (t u : Task) (tensor : BitVec 20) (p : Nat) : Nat :=
  let path := ((pathOf t.first u.gate).map (·.1)).tail
  let n := tokensPerFlit (g.edgeFmt tensor)
  (8 * path.length + 682 * g.banksOn tensor path + u.members.length * u.psblk) / (2 + (p + n - 1) / n) * p

/-- An edge keeps its rates: they balance, and the edge holds what the consumer's window and one firing need. -/
def Config.edgeOk (g : Config) (t u : Task) (x y : NameRec) : Bool :=
  x.rate * t.total == y.rate * u.total && decide (y.rate * u.window + x.rate ≤ g.edgeCapacity t u x.tensor x.rate)

/-- A graph whose every task is under strict admission. -/
def Config.strictGraph (g : Config) (k : Nat) : Bool := (g.tasks.any fun t => t.graph == k) && g.tasks.all fun t => t.graph != k || t.strict

/-- RATE_REJECT: a strict graph with an undeclared or unbalanced rate or an edge too small, or a strict task whose count comes from an
argument (10 R301). -/
def Config.rateReject (g : Config) : Bool :=
  (g.tasks.any fun t => t.strict && (List.range 4).any fun k => g.countBound t.num k) ||
    (List.range 16).any fun k => g.strictGraph k &&
      let mine := g.tasks.filter fun t => t.graph == k
      (mine.any fun t => (t.subs ++ t.pubs).any fun r => r.rate == 0) ||
        mine.any fun t => t.pubs.any fun x => mine.any fun u => u.subs.any fun y => y.tensor == x.tensor && !g.edgeOk t u x y

/-- The first record of a list with a property, by its place. -/
def firstRec (l : List NameRec) (q : NameRec → Bool) : Option Nat := (List.range l.length).find? fun i => (l[i]?).any q

/-- The record that a refusal 0x06 names (04 Table 4-4): the record without a rate, else the subscription record of an edge that does not keep its
rates; the descriptor of a strict task with a bound count (log 30). -/
def Config.rateIndex (g : Config) (b : List Byte) : Nat :=
  match g.tasks.find? fun t => t.strict && (List.range 4).any fun k => g.countBound t.num k with
  | some t => taskIndex b t.num
  | none =>
    let mine := g.tasks.filter fun t => g.strictGraph t.graph
    let bare := fun (t : Task) => match firstRec t.subs (fun r => r.rate == 0), firstRec t.pubs (fun r => r.rate == 0) with
      | some i, _ => some (subIndex b t.num i)
      | none, some i => some (pubIndex b t.num i)
      | none, none => none
    let edge := fun (u : Task) => (firstRec u.subs fun y => mine.any fun t => t.graph == u.graph && t.pubs.any fun x =>
      y.tensor == x.tensor && !g.edgeOk t u x y).map fun i => subIndex b u.num i
    ((mine.findSome? bare).orElse fun _ => mine.findSome? edge).getD noRecord

/-- The record that a refusal 0x0B names: the publication record (log 30). -/
def Config.backIndex (g : Config) (b : List Byte) : Nat :=
  (g.tasks.findSome? fun t => (firstRec t.pubs fun r => r.back && match g.dirs.find? fun e => e.tensor = r.tensor with
    | some e => e.signed
    | none => true).map fun i => pubIndex b t.num i).getD noRecord

/-! ## Seeded cycles (05 R171) -/

/-- An edge from a task to a task without a seed. -/
def Config.bareEdge (g : Config) (t u : Task) : Bool :=
  t.graph == u.graph && t.pubs.any fun x => (u.subs.any fun y => y.tensor == x.tensor) && !g.seeds.any fun z => tensorOf z.name == x.tensor

/-- Tasks left once those that no remaining task feeds are taken away, again and again: those on and behind cycles. -/
def Config.cyclic (g : Config) : Nat → List Task → List Task
  | 0, l => l
  | fuel + 1, l => g.cyclic fuel (l.filter fun u => l.any fun t => g.bareEdge t u)

/-- CYCLE_UNSEEDED: some cycle has no edge that carries a seed. -/
def Config.unseeded (g : Config) : Bool := !(g.cyclic g.tasks.length g.tasks).isEmpty

/-- The record that a refusal 0x07 names: the descriptor of a task on or behind the cycle (log 30). -/
def Config.cycleIndex (g : Config) (b : List Byte) : Nat := (((g.cyclic g.tasks.length g.tasks).head?).map fun t => taskIndex b t.num).getD noRecord

end Sys2Proof.Machine
end

