-- ==== Sys2Proof/Machine/Scalar.lean ====
section
/-! DEFINITION. Sys2Proof/Machine/Scalar.lean: the SA and SB instructions (11 R310 to R320): one meaning each, over shared forms. -/

namespace Sys2Proof.Machine

/-! ## Shared forms -/

/-- A scalar result of latency `lat` from its sources (11 R310). -/
def aluReq (srcs : List Src) (d : Fin 32) (lat : Nat) (x : Word) : SlotReq :=
  { srcs, dests := [.s d], busy := false, result := .go [.result (.s d x) lat] }

/-- A form of two sources. -/
def alu2 (lat : Nat) (g : Word → Word → Word) (d a : Fin 32) (ta : Bool) (b : Fin 32) (tb : Bool) : Sem := fun _ c _ =>
  aluReq [srcS a ta, srcS b tb] d lat (g (c.regs.gets a) (c.regs.gets b))

/-- A form of one source. -/
def alu1 (lat : Nat) (g : Word → Word) (d a : Fin 32) (ta : Bool) : Sem := fun _ c _ =>
  aluReq [srcS a ta] d lat (g (c.regs.gets a))

/-- A form of three sources. -/
def alu3 (lat : Nat) (g : Word → Word → Word → Word) (d a : Fin 32) (ta : Bool) (b : Fin 32) (tb : Bool) (k : Fin 32) (tk : Bool) :
    Sem := fun _ c _ =>
  aluReq [srcS a ta, srcS b tb, srcS k tk] d lat (g (c.regs.gets a) (c.regs.gets b) (c.regs.gets k))

/-- A compare that writes a predicate (11 R319). -/
def predReq (srcs : List Src) (pd : Fin 8) (x : Bool) : SlotReq :=
  { srcs, dests := [], busy := false, result := .go [.result (.p pd x) 1] }

/-! ## The functions -/

/-- Shift amounts of a register: B[5:0] (11 R312). -/
def shiftAmount (b : Word) : Nat := b.toNat % 64

def shlWord (a b : Word) : Word := a <<< shiftAmount b
def shrWord (a b : Word) : Word := a >>> shiftAmount b
def sraWord (a b : Word) : Word := a.sshiftRight (shiftAmount b)

/-- Bits [127:64] of the exact product (11 R313). -/
def mulhWord (uns : Bool) (a b : Word) : Word :=
  if uns then BitVec.ofNat 64 (a.toNat * b.toNat / 2 ^ 64) else BitVec.ofInt 64 (a.toInt * b.toInt / (2 ^ 64 : Int))

/-- The truncated quotient and its edge cases (11 R314, Table 11-3). -/
def divWord (uns : Bool) (a b : Word) : Word :=
  if b = 0 then BitVec.allOnes 64
  else if uns then BitVec.ofNat 64 (a.toNat / b.toNat)
  else BitVec.ofInt 64 (a.toInt.tdiv b.toInt)

/-- The remainder, which takes the sign of A (11 R314, Table 11-3). -/
def remWord (uns : Bool) (a b : Word) : Word :=
  if b = 0 then a
  else if uns then BitVec.ofNat 64 (a.toNat % b.toNat)
  else BitVec.ofInt 64 (a.toInt.tmod b.toInt)

/-- ext_w of a word (11 R315). -/
def extVal (ty : Ty) (x : Word) : Int := tyVal ty x.toNat

def minWord (ty : Ty) (a b : Word) : Word := BitVec.ofInt 64 (if extVal ty a ≤ extVal ty b then extVal ty a else extVal ty b)
def maxWord (ty : Ty) (a b : Word) : Word := BitVec.ofInt 64 (if extVal ty b ≤ extVal ty a then extVal ty a else extVal ty b)

/-- sat of 00 Table 0-6: the low bound first (11 R315). -/
def clampWord (ty : Ty) (a b c : Word) : Word :=
  BitVec.ofInt 64 (if extVal ty a < extVal ty b then extVal ty b else if extVal ty c < extVal ty a then extVal ty c else extVal ty a)

/-- Trailing zero bits among the low n (11 R316). -/
def ctzGo (x : Nat) : Nat → Nat → Nat
  | 0, k => k
  | n + 1, k => if x / 2 ^ k % 2 = 1 then k else ctzGo x n (k + 1)

/-- One bits among the low n. -/
def popGo (x : Nat) : Nat → Nat
  | 0 => 0
  | n + 1 => x / 2 ^ n % 2 + popGo x n

def clzWord (a : Word) : Word := if a = 0 then 64 else BitVec.ofNat 64 (63 - Nat.log2 a.toNat)
def ctzWord (a : Word) : Word := BitVec.ofNat 64 (ctzGo a.toNat 64 0)
def popcWord (a : Word) : Word := BitVec.ofNat 64 (popGo a.toNat 64)
def bswapWord (a : Word) : Word := BitVec.ofNat 64 (leNat (leBytes 8 a.toNat).reverse)

/-- A[POS+LENM1 : POS] zero-extended (11 R317). -/
def extWord (a : Word) (pos lenm1 : Nat) : Word := BitVec.ofNat 64 (bits a.toNat pos (lenm1 + 1))

/-- D with D[POS+LENM1 : POS] replaced by A[LENM1 : 0] (11 R317). -/
def insWord (d a : Word) (pos lenm1 : Nat) : Word :=
  let m : Word := BitVec.ofNat 64 ((2 ^ (lenm1 + 1) - 1) * 2 ^ pos)
  (d &&& ~~~m) ||| ((a <<< pos) &&& m)

/-- The immediate above the low half (11 R318). -/
def lihWord (d imm : Word) : Word := (imm <<< (32 : Nat)) ||| (d &&& 0xFFFFFFFF)

/-- A compare, signed or unsigned (11 R319). -/
def ltWord (uns : Bool) (a b : Word) : Bool := if uns then a.ult b else a.slt b
def leWord (uns : Bool) (a b : Word) : Bool := if uns then a.ule b else a.sle b

/-- The immediate of `cmpi`: zero-extended for unsigned compares (11 R319). -/
def cmpImm {n : Nat} (uns : Bool) (x : BitVec n) : Word := if uns then x.setWidth 64 else x.signExtend 64

/-! ## The instructions -/


/-- `add` (11 R312). -/
def execAdd (p : Pred) (f : Form.R3) (s : State) : Host.Outcome State Fault Refusal :=
  slot false p (alu2 1 (· + ·) f.d f.a f.ta f.b f.tb) s

/-- `sub` (11 R312). -/
def execSub (p : Pred) (f : Form.R3) (s : State) : Host.Outcome State Fault Refusal :=
  slot false p (alu2 1 (· - ·) f.d f.a f.ta f.b f.tb) s

/-- `addi` (11 R312). -/
def execAddi (p : Pred) (f : Form.Ri) (s : State) : Host.Outcome State Fault Refusal :=
  slot false p (alu1 1 (· + immWord f.imm) f.d f.a f.ta) s

/-- `addi` with an extension word (11 R312). -/
def execAddiExt (p : Pred) (f : Form.RiX) (s : State) : Host.Outcome State Fault Refusal :=
  slot false p (alu1 1 (· + immWord f.imm) f.d f.a f.ta) s

/-- `and` (11 R312). -/
def execAnd (p : Pred) (f : Form.R3) (s : State) : Host.Outcome State Fault Refusal :=
  slot false p (alu2 1 (· &&& ·) f.d f.a f.ta f.b f.tb) s

/-- `or` (11 R312). -/
def execOr (p : Pred) (f : Form.R3) (s : State) : Host.Outcome State Fault Refusal :=
  slot false p (alu2 1 (· ||| ·) f.d f.a f.ta f.b f.tb) s

/-- `xor` (11 R312). -/
def execXor (p : Pred) (f : Form.R3) (s : State) : Host.Outcome State Fault Refusal :=
  slot false p (alu2 1 (· ^^^ ·) f.d f.a f.ta f.b f.tb) s

/-- `andn` (11 R312). -/
def execAndn (p : Pred) (f : Form.R3) (s : State) : Host.Outcome State Fault Refusal :=
  slot false p (alu2 1 (fun a b => a &&& ~~~b) f.d f.a f.ta f.b f.tb) s

/-- `shl` (11 R312). -/
def execShl (p : Pred) (f : Form.R3) (s : State) : Host.Outcome State Fault Refusal :=
  slot false p (alu2 1 shlWord f.d f.a f.ta f.b f.tb) s

/-- `shr` (11 R312). -/
def execShr (p : Pred) (f : Form.R3) (s : State) : Host.Outcome State Fault Refusal :=
  slot false p (alu2 1 shrWord f.d f.a f.ta f.b f.tb) s

/-- `sra` (11 R312). -/
def execSra (p : Pred) (f : Form.R3) (s : State) : Host.Outcome State Fault Refusal :=
  slot false p (alu2 1 sraWord f.d f.a f.ta f.b f.tb) s

/-- `shli` (11 R312). -/
def execShli (p : Pred) (f : Form.Rn) (s : State) : Host.Outcome State Fault Refusal :=
  slot false p (alu1 1 (fun a => a <<< f.n.val) f.d f.a f.ta) s

/-- `shri` (11 R312). -/
def execShri (p : Pred) (f : Form.Rn) (s : State) : Host.Outcome State Fault Refusal :=
  slot false p (alu1 1 (fun a => a >>> f.n.val) f.d f.a f.ta) s

/-- `srai` (11 R312). -/
def execSrai (p : Pred) (f : Form.Rn) (s : State) : Host.Outcome State Fault Refusal :=
  slot false p (alu1 1 (fun a => a.sshiftRight f.n.val) f.d f.a f.ta) s

/-- `mul` (11 R313). -/
def execMul (p : Pred) (f : Form.R3) (s : State) : Host.Outcome State Fault Refusal :=
  slot false p (alu2 3 (· * ·) f.d f.a f.ta f.b f.tb) s

/-- `mulh` (11 R313). -/
def execMulh (p : Pred) (f : Form.R3U) (s : State) : Host.Outcome State Fault Refusal :=
  slot false p (alu2 3 (mulhWord f.uns) f.d f.a f.ta f.b f.tb) s

/-- `div` (11 R314). -/
def execDiv (p : Pred) (f : Form.R3U) (s : State) : Host.Outcome State Fault Refusal :=
  slot false p (alu2 20 (divWord f.uns) f.d f.a f.ta f.b f.tb) s

/-- `rem` (11 R314). -/
def execRem (p : Pred) (f : Form.R3U) (s : State) : Host.Outcome State Fault Refusal :=
  slot false p (alu2 20 (remWord f.uns) f.d f.a f.ta f.b f.tb) s

/-- `min` (11 R315). -/
def execMin (p : Pred) (f : Form.R3Y) (s : State) : Host.Outcome State Fault Refusal :=
  slot false p (alu2 1 (minWord f.ty) f.d f.a f.ta f.b f.tb) s

/-- `max` (11 R315). -/
def execMax (p : Pred) (f : Form.R3Y) (s : State) : Host.Outcome State Fault Refusal :=
  slot false p (alu2 1 (maxWord f.ty) f.d f.a f.ta f.b f.tb) s

/-- `clz` (11 R316). -/
def execClz (p : Pred) (f : Form.R2) (s : State) : Host.Outcome State Fault Refusal :=
  slot false p (alu1 1 clzWord f.d f.a f.ta) s

/-- `ctz` (11 R316). -/
def execCtz (p : Pred) (f : Form.R2) (s : State) : Host.Outcome State Fault Refusal :=
  slot false p (alu1 1 ctzWord f.d f.a f.ta) s

/-- `popc` (11 R316). -/
def execPopc (p : Pred) (f : Form.R2) (s : State) : Host.Outcome State Fault Refusal :=
  slot false p (alu1 1 popcWord f.d f.a f.ta) s

/-- `bswap` (11 R316). -/
def execBswap (p : Pred) (f : Form.R2) (s : State) : Host.Outcome State Fault Refusal :=
  slot false p (alu1 1 bswapWord f.d f.a f.ta) s

/-- `ext` (11 R317). -/
def execExt (p : Pred) (f : Form.Bf) (s : State) : Host.Outcome State Fault Refusal :=
  slot false p (alu1 1 (fun a => extWord a f.pos.val f.lenm1.val) f.d f.a f.ta) s

/-- `ins`, which reads D with T = 0 (11 R317). -/
def execIns (p : Pred) (f : Form.Bf) (s : State) : Host.Outcome State Fault Refusal :=
  slot false p (alu2 1 (fun a d => insWord d a f.pos.val f.lenm1.val) f.d f.a f.ta f.d false) s

/-- `li` (11 R318). -/
def execLi (p : Pred) (f : Form.Li) (s : State) : Host.Outcome State Fault Refusal :=
  slot false p (fun _ _ _ => aluReq [] f.d 1 (immWord f.imm)) s

/-- `lih`, which reads D with T = 0 (11 R318). -/
def execLih (p : Pred) (f : Form.Li) (s : State) : Host.Outcome State Fault Refusal :=
  slot false p (alu1 1 (fun d => lihWord d (immWord f.imm)) f.d f.d false) s

/-- `li` with an extension word (11 R318). -/
def execLiExt (p : Pred) (f : Form.LiX) (s : State) : Host.Outcome State Fault Refusal :=
  slot false p (fun _ _ _ => aluReq [] f.d 1 (immWord f.imm)) s

/-- `lih` with an extension word (11 R318). -/
def execLihExt (p : Pred) (f : Form.LiX) (s : State) : Host.Outcome State Fault Refusal :=
  slot false p (alu1 1 (fun d => lihWord d (immWord f.imm)) f.d f.d false) s

/-- `mov` (11 R318). -/
def execMov (p : Pred) (f : Form.R2) (s : State) : Host.Outcome State Fault Refusal :=
  slot false p (alu1 1 (fun a => a) f.d f.a f.ta) s

/-- `sel` (11 R318). -/
def execSel (p : Pred) (f : Form.R3K) (s : State) : Host.Outcome State Fault Refusal :=
  slot false p (fun env c => alu2 1 (fun a b => if c.regs.getp f.k then a else b) f.d f.a f.ta f.b f.tb env c) s

/-- `lea` (11 R318). -/
def execLea (p : Pred) (f : Form.R3K) (s : State) : Host.Outcome State Fault Refusal :=
  slot false p (alu2 1 (fun a b => a + b <<< f.k.val) f.d f.a f.ta f.b f.tb) s

/-- `madd` (11 R313). -/
def execMadd (p : Pred) (f : Form.R4) (s : State) : Host.Outcome State Fault Refusal :=
  slot false p (alu3 3 (fun a b c => a * b + c) f.d f.a f.ta f.b f.tb f.c f.tc) s

/-- `clamp` (11 R315). -/
def execClamp (p : Pred) (f : Form.R4Y) (s : State) : Host.Outcome State Fault Refusal :=
  slot false p (alu3 1 (clampWord f.ty) f.d f.a f.ta f.b f.tb f.c f.tc) s

/-- `cmp.eq` (11 R319). -/
def execCmpEq (p : Pred) (f : Form.Cmp) (s : State) : Host.Outcome State Fault Refusal :=
  slot false p (fun _ c _ => predReq [srcS f.a f.ta, srcS f.b f.tb] f.pd ((fun a b => a == b) (c.regs.gets f.a) (c.regs.gets f.b))) s

/-- `cmp.ne` (11 R319). -/
def execCmpNe (p : Pred) (f : Form.Cmp) (s : State) : Host.Outcome State Fault Refusal :=
  slot false p (fun _ c _ => predReq [srcS f.a f.ta, srcS f.b f.tb] f.pd ((fun a b => a != b) (c.regs.gets f.a) (c.regs.gets f.b))) s

/-- `cmp.lt` (11 R319). -/
def execCmpLt (p : Pred) (f : Form.Cmp) (s : State) : Host.Outcome State Fault Refusal :=
  slot false p (fun _ c _ => predReq [srcS f.a f.ta, srcS f.b f.tb] f.pd (ltWord f.uns (c.regs.gets f.a) (c.regs.gets f.b))) s

/-- `cmp.le` (11 R319). -/
def execCmpLe (p : Pred) (f : Form.Cmp) (s : State) : Host.Outcome State Fault Refusal :=
  slot false p (fun _ c _ => predReq [srcS f.a f.ta, srcS f.b f.tb] f.pd (leWord f.uns (c.regs.gets f.a) (c.regs.gets f.b))) s

/-- `cmpi.eq` (11 R319). -/
def execCmpiEq (p : Pred) (f : Form.Cmpi) (s : State) : Host.Outcome State Fault Refusal :=
  slot false p (fun _ c _ => predReq [srcS f.a f.ta] f.pd ((fun a b => a == b) (c.regs.gets f.a) (cmpImm f.uns f.imm))) s

/-- `cmpi.ne` (11 R319). -/
def execCmpiNe (p : Pred) (f : Form.Cmpi) (s : State) : Host.Outcome State Fault Refusal :=
  slot false p (fun _ c _ => predReq [srcS f.a f.ta] f.pd ((fun a b => a != b) (c.regs.gets f.a) (cmpImm f.uns f.imm))) s

/-- `cmpi.lt` (11 R319). -/
def execCmpiLt (p : Pred) (f : Form.Cmpi) (s : State) : Host.Outcome State Fault Refusal :=
  slot false p (fun _ c _ => predReq [srcS f.a f.ta] f.pd (ltWord f.uns (c.regs.gets f.a) (cmpImm f.uns f.imm))) s

/-- `cmpi.le` (11 R319). -/
def execCmpiLe (p : Pred) (f : Form.Cmpi) (s : State) : Host.Outcome State Fault Refusal :=
  slot false p (fun _ c _ => predReq [srcS f.a f.ta] f.pd (leWord f.uns (c.regs.gets f.a) (cmpImm f.uns f.imm))) s

/-- `cmpi.eq` with an extension word (11 R319). -/
def execCmpiEqExt (p : Pred) (f : Form.CmpiX) (s : State) : Host.Outcome State Fault Refusal :=
  slot false p (fun _ c _ => predReq [srcS f.a f.ta] f.pd ((fun a b => a == b) (c.regs.gets f.a) (cmpImm f.uns f.imm))) s

/-- `cmpi.ne` with an extension word (11 R319). -/
def execCmpiNeExt (p : Pred) (f : Form.CmpiX) (s : State) : Host.Outcome State Fault Refusal :=
  slot false p (fun _ c _ => predReq [srcS f.a f.ta] f.pd ((fun a b => a != b) (c.regs.gets f.a) (cmpImm f.uns f.imm))) s

/-- `cmpi.lt` with an extension word (11 R319). -/
def execCmpiLtExt (p : Pred) (f : Form.CmpiX) (s : State) : Host.Outcome State Fault Refusal :=
  slot false p (fun _ c _ => predReq [srcS f.a f.ta] f.pd (ltWord f.uns (c.regs.gets f.a) (cmpImm f.uns f.imm))) s

/-- `cmpi.le` with an extension word (11 R319). -/
def execCmpiLeExt (p : Pred) (f : Form.CmpiX) (s : State) : Host.Outcome State Fault Refusal :=
  slot false p (fun _ c _ => predReq [srcS f.a f.ta] f.pd (leWord f.uns (c.regs.gets f.a) (cmpImm f.uns f.imm))) s

/-- `pand` (11 R320). -/
def execPand (p : Pred) (f : Form.P3) (s : State) : Host.Outcome State Fault Refusal :=
  slot false p (fun _ c _ => predReq [] f.pd (c.regs.getp f.pa && c.regs.getp f.pb)) s

/-- `por` (11 R320). -/
def execPor (p : Pred) (f : Form.P3) (s : State) : Host.Outcome State Fault Refusal :=
  slot false p (fun _ c _ => predReq [] f.pd (c.regs.getp f.pa || c.regs.getp f.pb)) s

/-- `pxor` (11 R320). -/
def execPxor (p : Pred) (f : Form.P3) (s : State) : Host.Outcome State Fault Refusal :=
  slot false p (fun _ c _ => predReq [] f.pd (c.regs.getp f.pa != c.regs.getp f.pb)) s

/-- `pnot` (11 R320). -/
def execPnot (p : Pred) (f : Form.P2) (s : State) : Host.Outcome State Fault Refusal :=
  slot false p (fun _ c _ => predReq [] f.pd (!c.regs.getp f.pa)) s

/-- `pmov` (11 R320). -/
def execPmov (p : Pred) (f : Form.P2) (s : State) : Host.Outcome State Fault Refusal :=
  slot false p (fun _ c _ => predReq [] f.pd (c.regs.getp f.pa)) s

end Sys2Proof.Machine
end

