-- ==== Sys2Proof/Machine/Control.lean ====
section
/-! DEFINITION. Sys2Proof/Machine/Control.lean: the BR instructions: transfers, loops, waits, the end of a firing, software traps, sections, system
registers, configuration status and the counter (11 R321 to R337, 14 R402, R403). -/

namespace Sys2Proof.Machine

/-! ## Transfers (11 R321 to R324) -/

/-- A target that is not an even address of the window traps CODE_BOUNDS (11 R321). -/
def targetTrap (t : Int) : Option TrapInfo :=
  trapIf (decide (t < 0) || decide ((windowEnd : Int) ≤ t) || decide (t % 2 = 1))
    { trapOf trapCodeBounds 7 with addr := BitVec.ofInt 64 t, space := 1, access := 5 }

/-- A transfer to a target with the other effects of its instruction. -/
def jumpTo (t : Int) (pops : Bool) (es : List Effect) : SlotResult := checked (targetTrap t) (.go (.jump t.toNat pops :: es))

/-- The bundle's address plus a signed offset in halfwords. -/
def relTarget {n : Nat} (c : Core) (off : BitVec n) : Int := (c.issue.pc : Int) + 2 * off.toInt

/-- A slot that asks for nothing but its sources. -/
def plainReq (srcs : List Src) (r : SlotResult) : SlotReq := { srcs, dests := [], busy := false, result := r }

/-- The length of the bundle in issue. -/
def Core.bundleLen (c : Core) : Nat :=
  match c.issue.bundle with
  | some b => b.len
  | none => 0

/-- COND on A as signed (11 R323). -/
def condHolds (k : Cond) (a : Word) : Bool :=
  match k with
  | .z => a == 0
  | .nz => a != 0
  | .ltz => a.slt 0
  | .gez => !a.slt 0
  | .lez => a.slt 0 || a == 0
  | .gtz => !a.slt 0 && a != 0

/-- `br` (11 R323). -/
def execBr (p : Pred) (f : Form.Jmp) (s : State) : Host.Outcome State Fault Refusal :=
  slot false p (fun _ c _ => plainReq [] (jumpTo (relTarget c f.off) true [])) s

/-- A conditional branch. -/
def brcReq (c : Core) (a : Fin 32) (ta : Bool) (k : Cond) (t : Int) : SlotReq :=
  plainReq [srcS a ta] (if condHolds k (c.regs.gets a) then jumpTo t true [] else .go [])

/-- `brc` (11 R323). -/
def execBrc (p : Pred) (f : Form.Brc) (s : State) : Host.Outcome State Fault Refusal :=
  slot false p (fun _ c _ => brcReq c f.a f.ta f.cond (relTarget c f.off)) s

/-- `brc` with an extension word (11 R323). -/
def execBrcExt (p : Pred) (f : Form.BrcX) (s : State) : Host.Outcome State Fault Refusal :=
  slot false p (fun _ c _ => brcReq c f.a f.ta f.cond (relTarget c f.off)) s

/-- `jr` (11 R324). -/
def execJr (p : Pred) (f : Form.Ra) (s : State) : Host.Outcome State Fault Refusal :=
  slot false p (fun _ c _ => plainReq [srcS f.a f.ta] (jumpTo ((c.regs.gets f.a).toNat : Int) true [])) s

/-- `call`, which writes s31 and pops nothing (11 R324, R328). -/
def execCall (p : Pred) (f : Form.Jmp) (s : State) : Host.Outcome State Fault Refusal :=
  slot false p (fun _ c _ =>
    { srcs := [], dests := [.s 31], busy := false
      result := jumpTo (relTarget c f.off) false [.result (.s 31 (BitVec.ofNat 64 (c.issue.pc + c.bundleLen))) 1] }) s

/-- `ret`, which reads s31 with T = 0 and pops nothing (11 R324, R328). -/
def execRet (p : Pred) (s : State) : Host.Outcome State Fault Refusal :=
  slot false p (fun _ c _ => plainReq [srcS 31 false] (jumpTo ((c.regs.gets 31).toNat : Int) false [])) s

/-! ## Loops (11 R325 to R328) -/

/-- One past the CODE region. -/
def Core.codeEnd (c : Core) : Nat :=
  match c.firing with
  | some f => f.task.codeEnd
  | none => windowEnd

/-- A loop of a count to an END (11 R326). -/
def loopResult (c : Core) (stop : Nat) (count : Word) : SlotResult :=
  if c.codeEnd < stop then .trap { trapOf trapCodeBounds 7 with addr := BitVec.ofNat 64 stop, space := 1, access := 5 }
  else if count = 0 then jumpTo (stop : Int) true []
  else if 4 ≤ c.loops.length then .trap (trapOf trapIllegalOp 7)
  else .go [.loopPush (c.issue.pc + c.bundleLen) stop count]

/-- `lp` (11 R326). -/
def execLp (p : Pred) (f : Form.Lp) (s : State) : Host.Outcome State Fault Refusal :=
  slot false p (fun _ c _ => plainReq [srcS f.a f.ta] (loopResult c (c.issue.pc + 2 * f.stop.toNat) (c.regs.gets f.a))) s

/-- `lpx` (11 R326). -/
def execLpx (p : Pred) (f : Form.Lpx) (s : State) : Host.Outcome State Fault Refusal :=
  slot false p (fun _ c _ => plainReq [] (loopResult c (c.issue.pc + 2 * f.stop.toNat) (BitVec.ofNat 64 (f.cntm1.toNat + 1)))) s

/-! ## Waits (11 R329, R330) -/

/-- `xwait` (11 R329). -/
def execXwait (p : Pred) (f : Form.Xw) (s : State) : Host.Outcome State Fault Refusal :=
  slot false p (fun _ c _ =>
    plainReq [srcS f.a f.ta]
      (.go (if c.xnext[f.ch] ≤ c.regs.gets f.a ∨ c.regs.gets f.a < c.xdone[f.ch] then [] else [.wait (.xdone f.ch (c.regs.gets f.a))]))) s

/-- `twait` (11 R330). -/
def execTwait (p : Pred) (f : Form.Ra) (s : State) : Host.Outcome State Fault Refusal :=
  slot false p (fun env c _ =>
    plainReq [srcS f.a f.ta] (.go (if c.regs.gets f.a ≤ env.wcc then [] else [.wait (.wcc (c.regs.gets f.a))]))) s

/-! ## Ending, signalling, software traps, sections (11 R331 to R334) -/

/-- `retire` (11 R331). -/
def execRetire (p : Pred) (s : State) : Host.Outcome State Fault Refusal := slot true p (fun _ _ _ => plainReq [] (.go [.retire])) s

/-- `trigger` (11 R332). -/
def execTrigger (p : Pred) (s : State) : Host.Outcome State Fault Refusal := slot true p (fun _ _ _ => plainReq [] (.go [.trigger])) s

/-- `trap` (11 R333). -/
def execTrap (p : Pred) (f : Form.N16) (s : State) : Host.Outcome State Fault Refusal :=
  slot false p (fun _ _ _ => plainReq [] (.go [.soft trapSoft f.imm])) s

/-- `brk` (11 R333). -/
def execBrk (p : Pred) (f : Form.N16) (s : State) : Host.Outcome State Fault Refusal :=
  slot false p (fun _ _ _ => plainReq [] (.go [.soft trapBreak f.imm])) s

/-- `nps.begin` (11 R334, 08 R257). -/
def execNpsBegin (p : Pred) (s : State) : Host.Outcome State Fault Refusal := slot true p (fun _ _ _ => plainReq [] (.go [.nps true])) s

/-- `nps.end` (11 R334, 08 R257). -/
def execNpsEnd (p : Pred) (s : State) : Host.Outcome State Fault Refusal := slot true p (fun _ _ _ => plainReq [] (.go [.nps false])) s

/-! ## System registers (06 Tables 6-7 to 6-11, 11 R335, R336) -/

/-- Sixteen 2-bit modes side by side. -/
def modeWord (m : Vector (Fin 4) 16) : Nat :=
  (List.range 16).foldl (fun x b => x + m[bankOf (b * 0xC000)].val * 2 ^ (2 * b)) 0

/-- RSB_STAT (06 Table 6-11). -/
def Core.rsbStat (c : Core) : Word :=
  BitVec.ofNat 64 (boolBit (decide (c.entriesHeld.length = 32)) * 2 ^ 16 + c.rsbWaiting * 2 ^ 8 + c.entriesHeld.length)

/-- A register read. -/
def Core.sysRead (c : Core) (env : Env) : SysReg → Word
  | .coreCaps => c.caps
  | .waferCaps => env.caps
  | .partHop => env.hop
  | .wcc => env.wcc
  | .fpcr => c.fpcr
  | .key k => c.keys[k].setWidth 64
  | .xdone k => c.xdone[k]
  | .xnext k => c.xnext[k]
  | .pbdone => c.pbdone
  | .pbnext => c.pbnext
  | .accMap => c.accMap
  | .accOwn => c.accOwn
  | .rsbStat => c.rsbStat
  | .bankMode => BitVec.ofNat 64 (modeWord c.cfgModes * 2 ^ 32 + modeWord c.modes)
  | .strmCtl => c.strm
  | .trapRec k => c.trapRec[k]

/-- The registers marked slow (06 Table 6-7). -/
def SysReg.slow : SysReg → Bool
  | .waferCaps => true
  | .partHop => true
  | .wcc => true
  | _ => false

/-- `srd` (11 R335); a slow register's value is that at issue (log 23). -/
def execSrd (p : Pred) (f : Form.Srd) (s : State) : Host.Outcome State Fault Refusal :=
  slot false p (fun env c _ =>
    { srcs := [], dests := [.s f.d], busy := false
      result := .go (if SysReg.slow f.reg then [.fill (.s f.d) (.s f.d (c.sysRead env f.reg))]
                     else [.result (.s f.d (c.sysRead env f.reg)) 1]) }) s

/-- `swr` (11 R336): a bit of a reserved field traps; so does a register that is not writable. -/
def execSwr (p : Pred) (f : Form.Swr) (s : State) : Host.Outcome State Fault Refusal :=
  slot true p (fun _ c _ =>
    plainReq [srcS f.a f.ta]
      (match f.reg with
       | .fpcr => if c.regs.gets f.a &&& ~~~fpcrMask ≠ 0 then .trap (trapOf trapIllegalOp 7) else .go [.setFpcr (c.regs.gets f.a)]
       | .key k => if 2 ^ 32 ≤ (c.regs.gets f.a).toNat then .trap (trapOf trapIllegalOp 7) else .go [.setKey k (c.regs.gets f.a)]
       | _ => .trap (trapOf trapIllegalOp 7))) s

/-! ## Configuration status and the counter (14 R402, R403) -/

/-- The items of 14 Table 14-4. -/
def Core.cfgItem (c : Core) (env : Env) (item : Fin 5) : Word :=
  match c.firing with
  | none => if item = 0 then BitVec.ofNat 64 (c.swaps.toNat * 256 + boolBit env.draining * 4 + boolBit env.shadow * 2 + boolBit env.plane) else 0
  | some f =>
    match item.val with
    | 0 => BitVec.ofNat 64 (c.swaps.toNat * 256 + boolBit env.draining * 4 + boolBit env.shadow * 2 + boolBit env.plane)
    | 1 => BitVec.ofNat 64 (f.ns.toNat * 2 ^ 36 + f.task.graph % 16 * 2 ^ 32 + f.task.num % 65536 * 2 ^ 16 + f.task.num % 65536)
    | 2 => BitVec.ofNat 64 (f.member % 8192 * 2 ^ 16 + f.task.members.length % 8192)
    | 3 => BitVec.ofNat 64 (env.part.val * 16 + f.ctx.val)
    | _ => BitVec.ofNat 64 f.ordinal

/-- `cfgq` (14 R402). -/
def execCfgq (p : Pred) (f : Form.Cfgq) (s : State) : Host.Outcome State Fault Refusal :=
  slot false p (fun env c _ => aluReq [] f.d 1 (c.cfgItem env f.item)) s

/-- `wccr` (14 R403). -/
def execWccr (p : Pred) (f : Form.Rd) (s : State) : Host.Outcome State Fault Refusal :=
  slot false p (fun env _ _ => aluReq [] f.d 1 env.wcc) s

end Sys2Proof.Machine
end

