-- ==== Sys2Proof/Machine/Ls.lean ====
section
/-! DEFINITION. Sys2Proof/Machine/Ls.lean: scratchpad loads and stores of the LS slot (14 R382 to R384). -/

namespace Sys2Proof.Machine

/-! ## Loads and stores at an effective address -/

/-- A load's checks, an uncorrectable word it reads among them (14 R382, 01 R39). -/
def Core.loadTrap (c : Core) (slot : Fin 8) (ea : Word) (size : Nat) (vec : Bool) : Option TrapInfo :=
  firstTrap [c.lsTrap slot ea size vec false, trapIf (c.badIn (lsSpan ea size)) (localTrap trapEccUncorr slot ea.toNat false)]

/-- `ld` at an address (14 R383): the newest gated bytes, 4 cycles on. -/
def ldReq (c : Core) (slot : Fin 8) (d a : Fin 32) (ta : Bool) (ty : Ty) (ea : Word) : SlotReq :=
  { srcs := [srcS a ta], dests := [.s d], busy := c.lsHeld ea (tySize ty) false
    result := checked (c.loadTrap slot ea (tySize ty) false)
      (.go [.result (.s d (tyWord ty (leNat (c.localBytes ea.toNat (tySize ty))))) 4]) }

/-- A gated store of bytes: an entry a row it touches (07 R224, 08 R239). -/
def gatedStore (ea : Word) (size : Nat) (cells : List (Nat × Byte)) : SlotResult :=
  .go [.gate { store := .scratch cells, rows := rowsOf (lsSpan ea size) }]

/-- `st` at an address (14 R383). -/
def stReq (c : Core) (slot : Fin 8) (d a : Fin 32) (ta td : Bool) (ty : Ty) (ea : Word) : SlotReq :=
  { srcs := [srcS a ta, srcS d td], dests := [], busy := c.lsHeld ea (tySize ty) true
    result := checked (c.lsTrap slot ea (tySize ty) false true)
      (gatedStore ea (tySize ty) (cellsAt ea.toNat (leBytes (tySize ty) (c.regs.gets d).toNat))) }

/-- The lane's four bytes at a vector address. -/
def Core.laneAt (c : Core) (ea : Word) (l : Fin 16) : Lane := BitVec.ofNat 32 (leNat (c.localBytes (ea.toNat + 4 * l.val) 4))

/-- `vld` and `vldm` at an address (14 R384): the lanes a mask selects. -/
def vldReq (c : Core) (slot : Fin 8) (d a : Fin 32) (ta : Bool) (mask : BitVec 16) (ea : Word) : SlotReq :=
  { srcs := [srcS a ta], dests := [.v d], busy := c.lsHeld ea 64 false
    result := checked (c.loadTrap slot ea 64 true)
      (.go [.result (.v d mask { elem := lanes fun l => c.laneAt ea l, valid := BitVec.allOnes 16 }) 4]) }

/-- The bytes of the lanes a mask selects. -/
def laneCells (ea : Word) (t : Token) (mask : BitVec 16) : List (Nat × Byte) :=
  (List.finRange 16).flatMap fun l => if mask.getLsbD l.val then cellsAt (ea.toNat + 4 * l.val) (leBytes 4 t.elem[l].toNat) else []

/-- `vst` and `vstm` at an address (14 R384). -/
def vstReq (c : Core) (slot : Fin 8) (d a : Fin 32) (ta td : Bool) (mask : BitVec 16) (ea : Word) : SlotReq :=
  { srcs := [srcS a ta, srcV d td], dests := [], busy := c.lsHeld ea 64 true
    result := checked (c.lsTrap slot ea 64 true true) (gatedStore ea 64 (laneCells ea c.regs.v[d] mask)) }

/-! ## The instructions -/

/-- `ld` (14 R383). -/
def execLd (p : Pred) (f : Form.Ld) (s : State) : Host.Outcome State Fault Refusal :=
  slot false p (fun _ c k => ldReq c k f.d f.a f.ta f.ty (narrowAddr (c.regs.gets f.a) f.off (tySize f.ty))) s

/-- `ld` with a byte offset. -/
def execLdExt (p : Pred) (f : Form.LdX) (s : State) : Host.Outcome State Fault Refusal :=
  slot false p (fun _ c k => ldReq c k f.d f.a f.ta f.ty (extAddr (c.regs.gets f.a) f.off)) s

/-- `st` (14 R383). -/
def execSt (p : Pred) (f : Form.St) (s : State) : Host.Outcome State Fault Refusal :=
  slot false p (fun _ c k => stReq c k f.d f.a f.ta f.td f.ty (narrowAddr (c.regs.gets f.a) f.off (tySize f.ty))) s

/-- `st` with a byte offset. -/
def execStExt (p : Pred) (f : Form.StX) (s : State) : Host.Outcome State Fault Refusal :=
  slot false p (fun _ c k => stReq c k f.d f.a f.ta f.td f.ty (extAddr (c.regs.gets f.a) f.off)) s

/-- `vld` (14 R384). -/
def execVld (p : Pred) (f : Form.Vld) (s : State) : Host.Outcome State Fault Refusal :=
  slot false p (fun _ c k => vldReq c k f.d f.a f.ta (BitVec.allOnes 16) (narrowAddr (c.regs.gets f.a) f.off 64)) s

/-- `vld` with a byte offset. -/
def execVldExt (p : Pred) (f : Form.VldX) (s : State) : Host.Outcome State Fault Refusal :=
  slot false p (fun _ c k => vldReq c k f.d f.a f.ta (BitVec.allOnes 16) (extAddr (c.regs.gets f.a) f.off)) s

/-- `vst` (14 R384): every lane's bits, whatever its valid bit. -/
def execVst (p : Pred) (f : Form.Vst) (s : State) : Host.Outcome State Fault Refusal :=
  slot false p (fun _ c k => vstReq c k f.d f.a f.ta f.td (BitVec.allOnes 16) (narrowAddr (c.regs.gets f.a) f.off 64)) s

/-- `vst` with a byte offset. -/
def execVstExt (p : Pred) (f : Form.VstX) (s : State) : Host.Outcome State Fault Refusal :=
  slot false p (fun _ c k => vstReq c k f.d f.a f.ta f.td (BitVec.allOnes 16) (extAddr (c.regs.gets f.a) f.off)) s

/-- `vldm` (14 R384): the mask register is read at issue, m0 as itself. -/
def execVldm (p : Pred) (f : Form.Vldm) (s : State) : Host.Outcome State Fault Refusal :=
  slot false p (fun _ c k => vldReq c k f.d f.a f.ta c.regs.m[f.msk] (narrowAddr (c.regs.gets f.a) f.off 64)) s

/-- `vldm` with a byte offset. -/
def execVldmExt (p : Pred) (f : Form.VldmX) (s : State) : Host.Outcome State Fault Refusal :=
  slot false p (fun _ c k => vldReq c k f.d f.a f.ta c.regs.m[f.msk] (extAddr (c.regs.gets f.a) f.off)) s

/-- `vstm` (14 R384). -/
def execVstm (p : Pred) (f : Form.Vstm) (s : State) : Host.Outcome State Fault Refusal :=
  slot false p (fun _ c k => vstReq c k f.d f.a f.ta f.td c.regs.m[f.msk] (narrowAddr (c.regs.gets f.a) f.off 64)) s

/-- `vstm` with a byte offset. -/
def execVstmExt (p : Pred) (f : Form.VstmX) (s : State) : Host.Outcome State Fault Refusal :=
  slot false p (fun _ c k => vstReq c k f.d f.a f.ta f.td c.regs.m[f.msk] (extAddr (c.regs.gets f.a) f.off)) s

end Sys2Proof.Machine
end

