-- ==== Sys2Proof/Machine/Global.lean ====
section
/-! DEFINITION. Sys2Proof/Machine/Global.lean: global loads, stores and AMOs, translation, the local cache, tile transfers, fences and bank modes
(14 R385 to R392). -/

namespace Sys2Proof.Machine

/-! ## Loads, stores, AMOs (14 R385, R386) -/

/-- `gld` (14 R385): behind a gated `gst` the gate releases first (07 R224). -/
def execGld (p : Pred) (f : Form.Gld) (s : State) : Host.Outcome State Fault Refusal :=
  slot false p (fun env c k =>
    let h := c.regs.h[f.h]
    let off := c.regs.gets f.a
    let es := [Effect.load f.d f.ty (handleVa h off) (handlePa h off) h]
    { srcs := [srcH f.h f.th, srcS f.a f.ta], dests := [.s f.d], busy := env.requestsFull
      result := checked (c.globalTrap k h off (tySize f.ty) 0) (if c.gatedGlobal then .goRelease es else .go es) }) s

/-- `gst` (14 R385): gated, an event when the gate releases it. -/
def execGst (p : Pred) (f : Form.Gst) (s : State) : Host.Outcome State Fault Refusal :=
  slot false p (fun env c k =>
    let h := c.regs.h[f.h]
    let off := c.regs.gets f.a
    { srcs := [srcH f.h f.th, srcS f.a f.ta, srcS f.d f.td], dests := [], busy := env.requestsFull
      result := checked (c.globalTrap k h off (tySize f.ty) 1)
        (.go [.gate { store := .global (handleVa h off) (handlePa h off) (tySize f.ty) (c.regs.gets f.d) h, rows := 1 }]) }) s

/-- The AMO operations (14 R386). -/
def amoAddOp : Nat := 0
def amoMinOp : Nat := 1
def amoMaxOp : Nat := 2
def amoSwapOp : Nat := 3
def amoCasOp : Nat := 4
def amoFaddOp : Nat := 5

/-- An AMO of an operation on operands B and C (14 R386). -/
def amoReq (env : Env) (c : Core) (k : Fin 8) (op : Nat) (ty : Ty) (d : Fin 32) (h : Fin 16) (th : Bool) (a : Fin 32) (ta : Bool)
    (srcs : List Src) (x y : Word) : SlotReq :=
  let hd := c.regs.h[h]
  let off := c.regs.gets a
  { srcs := [srcH h th, srcS a ta] ++ srcs, dests := [.s d], busy := env.requestsFull
    result := checked (c.globalTrap k hd off (tySize ty) 2) (.go [.amo op d ty (handleVa hd off) (handlePa hd off) hd x y]) }

/-- An AMO of the common form. -/
def amoForm (op : Nat) (p : Pred) (f : Form.Amo) (s : State) : Host.Outcome State Fault Refusal :=
  slot true p (fun env c k => amoReq env c k op f.ty f.d f.h f.th f.a f.ta [srcS f.b f.tb] (c.regs.gets f.b) 0) s

/-- `amo.add` (14 R386). -/
def execAmoAdd (p : Pred) (f : Form.Amo) (s : State) : Host.Outcome State Fault Refusal := amoForm amoAddOp p f s
/-- `amo.min` (14 R386). -/
def execAmoMin (p : Pred) (f : Form.Amo) (s : State) : Host.Outcome State Fault Refusal := amoForm amoMinOp p f s
/-- `amo.max` (14 R386). -/
def execAmoMax (p : Pred) (f : Form.Amo) (s : State) : Host.Outcome State Fault Refusal := amoForm amoMaxOp p f s
/-- `amo.swap` (14 R386). -/
def execAmoSwap (p : Pred) (f : Form.Amo) (s : State) : Host.Outcome State Fault Refusal := amoForm amoSwapOp p f s

/-- `amo.cas` (14 R386). -/
def execAmoCas (p : Pred) (f : Form.AmoC) (s : State) : Host.Outcome State Fault Refusal :=
  slot true p (fun env c k =>
    amoReq env c k amoCasOp f.ty f.d f.h f.th f.a f.ta [srcS f.b f.tb, srcS f.c f.tc] (c.regs.gets f.b) (c.regs.gets f.c)) s

/-- `amo.fadd` (14 R386): 32 bits, TY 2. -/
def execAmoFadd (p : Pred) (f : Form.AmoF) (s : State) : Host.Outcome State Fault Refusal :=
  slot true p (fun env c k => amoReq env c k amoFaddOp .i32 f.d f.h f.th f.a f.ta [srcS f.b f.tb] (c.regs.gets f.b) 0) s

/-! ## Translation and the local cache (14 R387, R388) -/

/-- `xlat` (14 R387). -/
def execXlat (p : Pred) (f : Form.Hx) (s : State) : Host.Outcome State Fault Refusal :=
  slot false p (fun _ c k =>
    let va := c.regs.gets f.a
    { srcs := [srcS f.a f.ta], dests := [.h f.h], busy := false
      result := checked (trapIf (decide (2 ^ 52 ≤ va.toNat)) (globalTrap trapProtFault k va.toNat 4 7 0)) (.go [.xlat f.h va.toNat]) }) s

/-- `hinv` (14 R388): VALID 0, full. -/
def execHinv (p : Pred) (f : Form.H1) (s : State) : Host.Outcome State Fault Refusal :=
  slot false p (fun _ c _ =>
    { srcs := [], dests := [.h f.h], busy := false, result := .go [.result (.h f.h { c.regs.h[f.h] with valid := false }) 1] }) s

/-- `pf` (14 R388): a hint that does nothing where the handle is empty or invalid, the offset is beyond the page or not yet
there, or no request can be made; it never stalls and never traps. -/
def execPf (p : Pred) (f : Form.Hx) (s : State) : Host.Outcome State Fault Refusal :=
  slot false p (fun env c _ =>
    let h := c.regs.h[f.h]
    let off := c.regs.gets f.a
    let ok := c.regs.full (.h f.h) && c.regs.full (.s f.a) && h.valid && decide (off.toNat < h.size.bytes) && !env.requestsFull
    { srcs := [], dests := [], busy := false, result := .go (if ok then [.prefetch (handleVa h off) (handlePa h off) h] else []) }) s

/-- `cinv` (14 R388): steps 1 and 2 of 07 R210, then the core's copy of the line goes. -/
def execCinv (p : Pred) (f : Form.Hx) (s : State) : Host.Outcome State Fault Refusal :=
  slot false p (fun _ c k =>
    let h := c.regs.h[f.h]
    let off := c.regs.gets f.a
    { srcs := [srcH f.h false, srcS f.a f.ta], dests := [], busy := false
      result := checked (pageTrap h off 1 fun code => globalTrap code k (handleVa h off) 0 7 0) (.go [.drop (handlePa h off / 128)]) }) s

/-- `cinva` (14 R388). -/
def execCinva (p : Pred) (s : State) : Host.Outcome State Fault Refusal :=
  slot false p (fun _ _ _ => { srcs := [], dests := [], busy := false, result := .go [.dropAll] }) s

/-! ## Tile transfers (14 R389, R390) -/

/-- The alignment of a token's start in global memory (07 R210). -/
def tokenAlign (f : Fmt) : Nat := if f = .t6 then 4 else tokBytes f

/-- The checks of a tile transfer: the stream's, then those of 07 R210 (14 R389). -/
def Core.tileTrap (c : Core) (k : Fin 8) (d : Desc) (h : Handle) (off : Word) (load : Bool) : Option TrapInfo :=
  let ch : Fin 4 := if load then 0 else 1
  let access : Fin 8 := if load then 0 else 1
  let t := fun (code : Byte) =>
    { Machine.globalTrap code k (handleVa h off) access ⟨ch.val, by omega⟩ 0 with xid := c.xnext[ch] }
  let al := tokenAlign d.fmt
  firstTrap [c.streamTrap k d load, streamCfgIf k (d.layout != 0 || d.slog != 0 || d.fmt == .triple), pageTrap h off 1 t,
             trapIf (handleVa h off % al != 0 || (decide (1 < d.rows) && d.pitch % al != 0)) (t trapAlign),
             trapIf (!h.permits access) (t trapProtFault)]

/-- A tile transfer at an issue time: a streamer command with the hull of its stream (14 R390). -/
def tileReq (env : Env) (c : Core) (k : Fin 8) (load : Bool) (q h : Fin 16) (th : Bool) (a : Fin 32) (ta : Bool) (srcs : List Src)
    (time : Word) : SlotReq :=
  let d := c.q[q]
  let hd := c.regs.h[h]
  let off := c.regs.gets a
  let op := if load then CopyOp.tld d (handleVa hd off) h hd else CopyOp.tst d (handleVa hd off) h hd
  { srcs := [srcH h th, srcS a ta] ++ srcs, dests := [], busy := c.rsbFull || c.streamerFull env || env.requestsFull
    result := checked (c.tileTrap k d hd off load)
      (.go [.copy op time (if load then none else some d.hull) (if load then some d.hull else none)]) }

/-- `tld` (14 R389, R390). -/
def execTld (p : Pred) (f : Form.Tl) (s : State) : Host.Outcome State Fault Refusal :=
  slot true p (fun env c k => tileReq env c k true f.q f.h f.th f.a f.ta [] env.wcc) s

/-- `tld` at an issue time (06 R197). -/
def execTldTimed (p : Pred) (f : Form.TlT) (s : State) : Host.Outcome State Fault Refusal :=
  slot true p (fun env c k => tileReq env c k true f.q f.h f.th f.a f.ta [srcS f.e f.te] (c.regs.gets f.e)) s

/-- `tst` (14 R389, R390). -/
def execTst (p : Pred) (f : Form.Tl) (s : State) : Host.Outcome State Fault Refusal :=
  slot true p (fun env c k => tileReq env c k false f.q f.h f.th f.a f.ta [] env.wcc) s

/-- `tst` at an issue time (06 R197). -/
def execTstTimed (p : Pred) (f : Form.TlT) (s : State) : Host.Outcome State Fault Refusal :=
  slot true p (fun env c k => tileReq env c k false f.q f.h f.th f.a f.ta [srcS f.e f.te] (c.regs.gets f.e)) s

/-! ## Fences and bank modes (14 R391, R392, 07 R229, 06 R192) -/

/-- A fence of conditions (07 R229). -/
def fence (ws : List Wait) (p : Pred) (s : State) : Host.Outcome State Fault Refusal :=
  slot true p (fun _ _ _ => { srcs := [], dests := [], busy := false, result := .go (ws.map Effect.wait) }) s

/-- `fence.g` (07 Table 7-4). -/
def execFenceG (p : Pred) (s : State) : Host.Outcome State Fault Refusal := fence [.globals, .leases] p s
/-- `fence.e` (07 Table 7-4). -/
def execFenceE (p : Pred) (s : State) : Host.Outcome State Fault Refusal := fence [.engines] p s
/-- `fence.n` (07 Table 7-4). -/
def execFenceN (p : Pred) (s : State) : Host.Outcome State Fault Refusal := fence [.fabric] p s
/-- `fence.a` (07 Table 7-4). -/
def execFenceA (p : Pred) (s : State) : Host.Outcome State Fault Refusal := fence [.globals, .engines, .fabric, .leases] p s

/-- `bankmode` is refused (06 R192, 14 R392). -/
def Core.bankRefused (c : Core) (env : Env) (b : Fin 16) (mode : Fin 4) : Bool :=
  decide (2 ≤ mode.val) || c.meetsCode (bankSpan b) || c.cfgModes[b] == fifoMode || env.landings.any fun x => x.meets (bankSpan b)

/-- `bankmode` (14 R392). -/
def execBankmode (p : Pred) (f : Form.Bm) (s : State) : Host.Outcome State Fault Refusal :=
  slot true p (fun env c k =>
    { srcs := [], dests := [], busy := c.rsbFull || c.queueFull .bank
      result := checked (trapIf (c.bankRefused env f.bank f.mode) (localTrap trapBankMode k (f.bank.val * 0xC000) true))
        (.go [.bankmode f.bank.val f.mode.val]) }) s

end Sys2Proof.Machine
end

