-- ==== Sys2Proof/Machine/Switch.lean ====
section
/-! DEFINITION. Sys2Proof/Machine/Switch.lean: job contexts as they stop, are saved and restored, and the gang switch that swaps them (04 R127 to
R134, 05 R173 to R175, 08 R251 to R256, R432). -/

namespace Sys2Proof.Machine

/-! ## Contexts and partitions -/

/-- A context changed. -/
def State.onCtx (s : State) (k : Fin 8) (f : Ctx → Ctx) : State := { s with ctxs := s.ctxs.set k (f s.ctxs[k]) }

/-- The context of a partition that is in a state. -/
def State.ctxIn (s : State) (part : Fin 16) (st : CtxState) : Option (Fin 8) :=
  (List.finRange 8).find? fun k => s.ctxs[k].part = part ∧ s.ctxs[k].state = st

/-- A switch record changed. -/
def State.onPreempt (s : State) (p : Fin 16) (f : Preempt → Preempt) : State := { s with preempt := s.preempt.set p (f s.preempt[p]) }

/-- The core lies in a partition. -/
def State.inPart (s : State) (part : Fin 16) (n : Nat) : Bool :=
  match s.part part with
  | some p => p.has n
  | none => false

/-- The core, or the router of the gate, behind a requester of this module. -/
def State.requesterAt (s : State) : Requester → Option Nat
  | .core n _ => some n
  | .gate g => some (s.gateRouter g)
  | .rim _ => none
  | .peer _ _ => none

/-- A message belongs to a partition: to its requester's, or, on the default route, to its source's; else to the one it stands in. Memory requests and
configuration writes belong to no job's image (08 R254, R432). -/
def State.msgOf (s : State) (p : Part) (f : Flying) : Bool :=
  let asked := fun (r : Requester) => (s.requesterAt r).elim (s.msgIn p f) p.has
  match f.msg.body with
  | .mem .. => false
  | .configWrite .. => false
  | .request _ _ r _ => asked r
  | .reply _ r => asked r
  | .miss _ _ _ r => asked r
  | .publication _ (some _) => p.has f.msg.origin
  | _ => s.msgIn p f

/-- A request or a walk of a core of a partition. -/
def State.reqIn (s : State) (part : Fin 16) (r : MemReq) : Bool :=
  match r.agent with
  | .core n => s.inPart part n
  | _ => false

/-- The job's requester lies in a partition, or is a gate of a context there. -/
def State.askedIn (s : State) (part : Fin 16) (r : Requester) : Bool :=
  match r with
  | .core n _ => s.inPart part n
  | .gate g => s.ctxs[g.ctx].part == part
  | .rim _ => false
  | .peer _ _ => false

/-! ## What is left of a core and a router without a job -/

/-- A core as a context leaves it: its place in the module, its tests and sessions, its clock and its stops stay (04 R142). -/
def State.vacant (s : State) (n : Nat) (c : Core) : Core :=
  { s.freshCore n with
    withdrawn := c.withdrawn, testing := c.testing, holding := if c.testing then some ([], []) else none, skips := c.skips, out := c.out
    failed := c.failed, traced := c.traced, halted := c.halted, frozen := c.halted, lts := c.lts, tlb := c.tlb, bundles := c.bundles
    swaps := c.swaps }

/-- A router without messages, tiles or stream positions. -/
def Router.vacant (r : Router) : Router :=
  { r with mirror := [], waiting := [], cur := [], marks := [], slots := [], spilled := [], ends := 0, timers := [] }

/-- The work of a partition's cores and routers is gone. -/
def State.clearPart (s : State) (part : Fin 16) : State :=
  match s.part part with
  | none => s
  | some p =>
    let gone := (s.reqs.filter (s.reqIn part)).map (·.id)
    let t := gone.foldl (fun x id => x.unreserve id) s
    State.tidy { t with
      cores := t.cores.map fun x => if p.has x.1 then (x.1, s.vacant x.1 x.2) else x
      routers := t.routers.map fun x => if p.has x.1 then (x.1, x.2.vacant) else x
      msgs := t.msgs.filter fun f => !s.msgOf p f
      reqs := t.reqs.filter fun r => !s.reqIn part r
      walks := t.walks.filter fun w => w.rim.isSome || !p.has w.core
      tokens := t.tokens.filter fun k => !p.has k.core
      backDone := t.backDone.filter fun b => !p.has b.1
      jobs := t.jobs.filter fun j => match j.2 with
        | .fetch _ _ to_ _ => !s.askedIn part to_
        | .back .. => true }

/-- A context has work on the wafer. -/
def Ctx.onWafer (k : Ctx) : Bool := k.state == .running || k.state == .saving || k.state == .restoring

/-- A context's work on the wafer is gone. -/
def State.clearCtx (s : State) (k : Fin 8) : State := if s.ctxs[k].onWafer then s.clearPart s.ctxs[k].part else s

/-- A namespace that no context binds any more has no top-level table, and nothing waits for an answer in it (07 R211). -/
def State.dropRoot (s : State) (ns : BitVec 8) : State :=
  if (List.finRange 8).any fun k => s.ctxs[k].state != .empty && s.ctxs[k].ns == ns then s
  else { s with roots := s.roots.filter fun r => r.1 ≠ ns, tokens := s.tokens.filter fun t => t.ns ≠ ns }

/-- A context becomes EMPTY: its image and its bindings are released (04 R122, R129). -/
def State.emptyCtx (s : State) (k : Fin 8) : State :=
  (((s.clearCtx k).onCtx k fun _ => Ctx.reset).dropRoot s.ctxs[k].ns)

/-! ## What a save keeps (08 R254, Table 8-5) -/

/-- A range rounded out to 64-byte rows, as base and length. -/
def rowRange (x : Span) : Nat × Nat := (x.lo / 64 * 64, (x.hi / 64 + 1) * 64 - x.lo / 64 * 64)

/-- The ranges of the first entry of a live-range table that covers the freeze point; all banks where none does (08 R253). -/
def Core.liveRanges (c : Core) : List (Nat × Nat) :=
  let pc := c.issue.pc
  let entry := (c.firing.bind fun f => f.task.live).bind fun l => l.find? fun e => e.pclo ≤ pc ∧ pc < e.pchi
  match entry with
  | some e => e.ranges.filterMap fun r => (spanOf r.1 r.2).map rowRange
  | none => [(0, windowEnd)]

/-- The ranges a save keeps of a scratchpad. -/
def Core.savedRanges (c : Core) : List (Nat × Nat) :=
  c.liveRanges ++ (c.rsb.filterMap fun e => e.write.map rowRange) ++ (c.stagedF.flatMap fun f => f.landings.filterMap fun l => l.span.map rowRange) ++
    ((List.finRange 16).filter fun b => c.modes[b] = fifoMode).map fun b => rowRange (bankSpan b)

/-- A core as it is saved: that of a core under test comes from its holding copy (01 R35). -/
def Core.saved (c : Core) : Core :=
  let d : Core := match c.holding with
    | some h => { c with spad := h.1, acc := h.2, holding := none, testing := false }
    | none => c
  { d with spad := d.spad.keep d.savedRanges, cache := [], fetched := [] }

/-- A router as it is saved: of its mirror the LIVE tiles. -/
def Router.saved (r : Router) : Router := { r with mirror := r.mirror.filter fun t => t.tile.live }

/-- A fetch in progress at a rim agent goes back to being a request there. -/
def jobRequest (a : Fin 24) (source : Nat) : AgentJob → Option Flying
  | .fetch name tag to_ cpl => some { place := .agent a, msg := { cls := 1, cpl, source, body := .request name tag to_ none } }
  | .back .. => none

/-- The image of a partition: cores, routers, captured messages, requests not injected, pending or complete, walks. Its size is a free value: the
manual bounds it and gives no formula (log 29). -/
def State.image (s : State) (part : Fin 16) (p : Part) : Image :=
  { cores := (s.cores.filter fun x => p.has x.1).map fun x => (x.1, x.2.saved)
    routers := (s.routers.filter fun x => p.has x.1).map fun x => (x.1, x.2.saved)
    msgs := unwound (s.msgs.filter (s.msgOf p)) ++ s.jobs.filterMap fun j => match j.2 with
      | .fetch _ _ to_ _ => if s.askedIn part to_ then jobRequest j.1 ((s.requesterAt to_).getD 0) j.2 else none
      | .back .. => none
    reqs := s.reqs.filter (s.reqIn part)
    walks := (s.walks.filter fun w => w.rim.isNone && p.has w.core).map fun w => { w with stage := .asked }
    mib := (Sys2Proof.Config.freeWord s.ticket).setWidth 16 }

/-- A request stands as a freeze leaves it: not yet injected, pending, or complete (08 R225). -/
def MemReq.still (r : MemReq) : Bool := r.stage == .fresh || r.stage == .faulted || r.stage == .cancelled || r.stage == .done

/-- Every core of a partition is frozen or under test or out; what was injected has completed and landed; its BACK writes are done. -/
def State.savable (s : State) (part : Fin 16) (p : Part) : Bool :=
  (s.cores.all fun x => !p.has x.1 || x.2.testing || x.2.out || (x.2.frozen && x.2.fills.all fun f => f.value.isNone)) &&
    (s.reqs.all fun r => !s.reqIn part r || r.still) && (s.backDone.all fun b => !p.has b.1) &&
    (s.jobs.all fun j => match j.2 with
      | .back _ source => !p.has source
      | .fetch .. => true) &&
    s.msgs.all fun f => match f.place, f.msg.body with
      | .agent _, .publication _ _ => !p.has f.msg.origin
      | _, _ => true

/-! ## Re-placement (04 R134, 08 R432) -/

/-- A configuration on another placement: members, gates and router tables are the new one's, all else the old one's. -/
def Config.placedAs (old new : Config) : Config :=
  { old with
    tasks := old.tasks.map fun t => match new.tasks.find? fun u => u.num = t.num with
      | some u => { t with members := u.members, gate := u.gate }
      | none => t
    routers := new.routers, cores := new.cores, hop := new.hop }

/-- Where a core of a placement is on another: the member of the same rank. -/
def Config.moved (old new : Config) (n : Nat) : Nat :=
  match (old.tasks.flatMap fun t => match new.tasks.find? fun u => u.num = t.num with
      | some u => List.zip t.members u.members
      | none => []).find? fun x => x.1 = n with
  | some x => x.2
  | none => n

/-- The placement of a move (04 R134): that of the configuration's binary under a number, else the one the mapper comes to by itself, with the same
pens, on cores that are not to be avoided. -/
def State.placement (s : State) (p : Part) (old : Config) (avoid : List Nat) (i : Option Nat) : Option Config :=
  (s.store.find? fun x => x.1 = old.pfx).bind fun x =>
    let l := match i with
      | some k => (x.2.places[k]?).toList
      | none => []
    (l ++ s.autoPlace p x.2 avoid).findSome? fun pl =>
      let g := s.formOf x.2 pl old.pfx old.ns
      let same := old.tasks.all fun t => g.tasks.any fun u => u.num == t.num && u.members.length == t.members.length
      if same && s.fits p x.2 g avoid then some (old.placedAs (s.routed p x.2 g)) else none

/-- The facets of a VSN at a router of a configuration, and the current one by a list of positions. -/
def Config.facetAt (g : Config) (cur : List (Fin 256 × Nat)) (n : Nat) (v : Fin 256) : Option Facet :=
  ((assoc g.routers n).bind fun r => findFin r.vsns v).bind fun l => l[lookupD 0 cur v]?

/-- A router of a member of a pen that uses the VSN. -/
def Config.ranksAt (g : Config) (n : Nat) (v : Fin 256) : Bool := g.tasks.any fun t => t.vsns.contains v && t.members.contains n

/-- Where a message on a VSN, caught at an input port, is next delivered: the first router of a rank along FORWARD facets. -/
def Config.streamEnd (g : Config) (v : Fin 256) : Nat → Nat → Fin 6 → Option (Nat × Fin 6)
  | 0, _, _ => none
  | fuel + 1, n, p =>
    if g.ranksAt n v then some (n, p)
    else
      match g.facetAt [] n v with
      | some f => (f.out.head?).bind fun o => (neighbour n o).bind fun k => g.streamEnd v fuel k (opposite o)
      | none => none

/-- The rank's router from which a FORWARD router is fed. -/
def Config.streamStart (g : Config) (v : Fin 256) : Nat → Nat → Option Nat
  | 0, _ => none
  | fuel + 1, n =>
    if g.ranksAt n v then some n
    else
      match g.facetAt [] n v with
      | some f => (f.inputs.head?).bind fun p => if p = 0 then some n else (neighbour n p).bind fun k => g.streamStart v fuel k
      | none => none

/-- An input port of a rank's router on another placement: the port at the same place of the facet's inputs. -/
def Config.portMoved (old new : Config) (cur : List (Fin 256 × Nat)) (n : Nat) (v : Fin 256) (p : Fin 6) : Fin 6 :=
  match old.facetAt cur n v, new.facetAt cur (old.moved new n) v with
  | some a, some b => (b.inputs[a.inputs.idxOf p]?).getD p
  | _, _ => p

/-- Where a publication caught at an input port has still to go: gates, and edge routers toward peers. -/
def Config.reach (g : Config) (name : BitVec 64) : Nat → Nat → Fin 6 → List (Sum Nat Nat)
  | 0, _, _ => []
  | fuel + 1, n, _ =>
    match (assoc g.routers n).bind fun r => r.matchName name with
    | none => []
    | some e => e.ports.flatMap fun o =>
      if o = 0 then (g.tasks.filter fun t => t.gate = n).map fun t => .inl t.num
      else if o = 5 then [.inr n]
      else match neighbour n o with
        | some k => g.reach name fuel k (opposite o)
        | none => []

/-- A requester on another placement. -/
def movedRequester (mv : Nat → Nat) : Requester → Requester
  | .core n xid => .core (mv n) xid
  | r => r

/-- A message's body on another placement. -/
def movedBody (mv : Nat → Nat) : Body → Body
  | .request name tag to_ _ => .request name tag (movedRequester mv to_) none
  | .reply t to_ => .reply t (movedRequester mv to_)
  | .miss name tag code to_ => .miss name tag code (movedRequester mv to_)
  | .carry c to_ down => .carry c (mv to_) down
  | b => b

/-- A message caught in a queue of a router, on another placement: delivered only where it had still to go, or re-injected from its source (08 R432). -/
def Image.replaceIn (i : Image) (old new : Config) (ctx : Fin 8) (n : Nat) (p : Fin 6) (m : Msg) (body : Body) : List Flying :=
  let mv := old.moved new
  let cur := fun (k : Nat) => ((assoc i.routers k).getD Router.reset).cur
  let again : List Flying := [{ place := .source m.origin (if Sys2Proof.Config.cores ≤ m.source then 5 else 0), msg := m }]
  let along := fun (v : Fin 256) => match old.streamEnd v 300 n p with
    | some (k, q) => ([{ place := .input (mv k) (old.portMoved new (cur k) k v q), msg := m }] : List Flying)
    | none => []
  if p = 0 then [{ place := .input (mv n) 0, msg := m }]
  else
    match body with
    | .publication t none => (old.reach t.name 300 n p).filterMap fun d => match d with
      | .inl task => some { place := .gate { ctx, task } 0, msg := m }
      | .inr k => some { place := .input k p, msg := m }
    | .request _ _ to_ _ =>
      (match to_ with
       | .core c _ => [{ place := .source (mv c) 0, msg := m }]
       | .gate g => (match new.tasks.find? fun t => t.num = g.task with
         | some t => [{ place := .source t.gate 0, msg := m }]
         | none => [])
       | _ => again)
    | .chunk v .. => along v
    | .mark v .. => along v
    | _ => again

/-- A captured message on another placement. -/
def Image.replace (i : Image) (old new : Config) (ctx : Fin 8) (f : Flying) : List Flying :=
  let mv := old.moved new
  let m := { f.msg with source := if Sys2Proof.Config.cores ≤ f.msg.source then f.msg.source else mv f.msg.source, body := movedBody mv f.msg.body }
  match f.place with
  | .core n p => [{ place := .core (mv n) p, msg := m }]
  | .source n p => [{ place := .source (if p = 0 then mv n else n) p, msg := m }]
  | .input n p => i.replaceIn old new ctx n p m f.msg.body
  | .detour a o d l => (match detourSite a o d l with
    | some (n, p) => i.replaceIn old new ctx n p m f.msg.body
    | none => [])
  | _ => [{ f with msg := m }]

/-- A rank's router on another placement: the ports of its streams follow. -/
def Router.replace (r : Router) (old new : Config) (n : Nat) : Router :=
  let at_ := fun v p => old.portMoved new r.cur n v p
  { r with
    waiting := r.waiting.map fun m => { m with body := movedBody (old.moved new) m.body }
    marks := r.marks.map fun m => (m.1, at_ m.1 m.2.1, m.2.2)
    slots := r.slots.map fun c => { c with from_ := at_ c.vsn c.from_ }
    spilled := r.spilled.map fun c => ({ c.1 with from_ := at_ c.1.vsn c.1.from_ }, c.2) }

/-- Positions of the VSNs of a FORWARD router of a new placement: those of the rank's router that feeds it. -/
def forwardCur (new : Config) (ranks : List (Nat × Router)) (n : Nat) (r : RouterCfg) : List (Fin 256 × Nat) :=
  r.vsns.filterMap fun v => (new.streamStart v.1 300 n).bind fun k => (assoc ranks k).map fun q => (v.1, lookupD 0 q.cur v.1)

/-- A firing on another placement. -/
def Firing.replace (f : Firing) (new : Config) : Firing :=
  match new.tasks.find? fun t => t.num = f.task.num with
  | some t => { f with task := { f.task with members := t.members, gate := t.gate } }
  | none => f

/-- A gate on another placement: the members whose stream ends it has counted (14 R395). -/
def Gate.replace (g : Gate) (mv : Nat → Nat) : Gate := { g with ended := g.ended.map fun x => (x.1, mv x.2) }

/-- The image on another placement (04 R134). -/
def Image.moveTo (i : Image) (old new : Config) (ctx : Fin 8) : Image :=
  let mv := old.moved new
  let ranks := (i.routers.filter fun x => old.cores.contains x.1).map fun x => (mv x.1, x.2.replace old new x.1)
  let rest := new.routers.filter fun x => (assoc ranks x.1).isNone
  { i with
    cores := i.cores.map fun x => (mv x.1, x.2.mapFirings fun f => f.replace new)
    routers := ranks ++ rest.map fun x => (x.1, { Router.reset with cur := forwardCur new ranks x.1 x.2 })
    msgs := i.msgs.flatMap (i.replace old new ctx)
    reqs := i.reqs.map fun r => match r.agent with
      | .core n => { r with agent := .core (mv n) }
      | _ => r
    walks := i.walks.map fun w => { w with core := mv w.core } }

/-! ## Restoring (08 R255) -/

/-- A core's image over the core that is there: LTS as 07 R215 says; it goes on unless a halt session holds it. -/
def Core.restoredOver (img c : Core) (g : Config) (n : Nat) (wcc : Word) : Core :=
  let code := (g.tasks.filter fun t => t.members.contains n).flatMap (·.code)
  let d : Core :=
    { (img.putSpad code) with
      withdrawn := c.withdrawn, skips := c.skips, out := c.out, failed := c.failed, traced := c.traced, caps := c.caps, bundles := c.bundles
      swaps := c.swaps
      strm := g.strmAt n, lts := max img.lts (wcc.toNat / 128), halted := img.halted || c.halted, frozen := img.halted || c.halted
      freezeReq := false }
  if c.testing then { d with testing := true, holding := some (d.spad, d.acc) } else d

/-- A router's image over the router that is there. -/
def Router.restoredOver (img r : Router) : Router :=
  { r with mirror := img.mirror, waiting := img.waiting, cur := img.cur, marks := img.marks, slots := img.slots, spilled := img.spilled, ends := img.ends }

/-- A message of an image carries the plane now active. -/
def Flying.onPlane (f : Flying) (b : Bool) : Flying := { f with msg := { f.msg with cpl := b } }

/-- An image comes back to its partition under a configuration. -/
def State.putImage (s : State) (p : Part) (g : Config) (i : Image) : State :=
  let t := i.cores.foldl (fun x c => x.setCore c.1 (c.2.restoredOver (x.coreOr c.1) g c.1 x.wcc)) s
  let t := g.cores.foldl (fun x n => if (assoc i.cores n).isSome then x else x.setCore n ((x.coreOr n).install g n)) t
  let t := i.routers.foldl (fun x r => x.setRouter r.1 (r.2.restoredOver (x.router r.1))) t
  { t with msgs := t.msgs ++ i.msgs.map fun f => f.onPlane (s.activePlane p), reqs := t.reqs ++ i.reqs, walks := t.walks ++ i.walks }

/-- The active plane of a partition holds a configuration. -/
def Part.setActive (p : Part) (b : Bool) (g : Config) : Part := if b then { p with planeB := some g } else { p with planeA := some g }

/-- The configuration a move gives a context: the new placement where there is one; whether there was none to be had. -/
def State.moveCfg (s : State) (part : Fin 16) (p : Part) (g : Config) : Config × Bool :=
  match s.preempt[part].avoid with
  | some (avoid, i) => (match s.placement p g avoid i with
    | some x => (x, false)
    | none => (g, true))
  | none => (g, false)

/-- No GO waits for a restore in a partition: a context of it runs (04 R131). -/
def State.noneWanted (s : State) (part : Fin 16) : State :=
  { s with ctxs := s.ctxs.map fun c => if c.part = part then { c with wanted := false } else c }

/-- A restored context runs: replies that came for its cores take effect before their first issue (08 R255). -/
def State.restored (s : State) (part : Fin 16) (k : Fin 8) : Option State :=
  match s.part part, s.ctxs[k].cfg, s.ctxs[k].image with
  | some p, some g, some i =>
    let r := s.moveCfg part p g
    let x := if s.preempt[part].avoid.isSome && !r.2 then i.moveTo g r.1 k else i
    let t := (s.onPart part fun q => q.setActive (s.activePlane p) r.1).putImage p r.1 x
    let t := t.noneWanted part
    let t := t.onCtx k fun c => { c with state := .running, cfg := some r.1, image := none, gates := c.gates.map fun x => x.replace (g.moved r.1) }
    let t := x.cores.foldl (fun y c => if c.2.halted then y else y.answerKept c.1) t
    let t := if r.2 then t.raisePart 0x49 part 0 else t
    let ns := s.ctxs[k].ns
    let t : State := { t with tokens := t.tokens.map fun (f : FaultToken) => if f.ns = ns ∧ g.cores.contains f.core then { f with core := g.moved r.1 f.core } else f }
    some (t.onPreempt part fun q => if q.status = .switching then { q with status := .done, out := none, saved := false, avoid := none } else { q with avoid := none })
  | _, _, _ => none

/-! ## The gang switch (04 R130 to R133, 05 R174) -/

/-- A switch may be armed, and its registers written. -/
def Preempt.open_ (q : Preempt) : Bool := q.status != .armed && q.status != .committed && q.status != .switching

/-- ARM (04 R131). A save that a dropped switch has begun goes on. -/
def evArm (part : Fin 16) (s : State) : Option State :=
  let q := s.preempt[part]
  if q.open_ then
    let k := s.ctxs[q.next]
    let st := if q.at_.toNat < s.wcc.toNat + 100000 then SwStatus.late
      else if k.part = part ∧ (k.state = .parked ∨ k.state = .running) then .armed else .notReady
    some (s.onPreempt part fun x => { x with status := st, overdue := false, avoid := none })
  else none

/-- CANCEL (04 R131). -/
def evCancel (part : Fin 16) (s : State) : Option State :=
  if s.preempt[part].status = .armed then some (s.onPreempt part fun x => { x with status := .idle, avoid := none }) else none

/-- SWITCH_COMMIT (04 R131). -/
def evSwitchCommit (part : Fin 16) (s : State) : Option State :=
  let q := s.preempt[part]
  if q.status = .armed ∧ q.at_.toNat ≤ s.wcc.toNat + 20000 then some (s.onPreempt part fun x => { x with status := .committed }) else none

/-- The context whose restore comes next in a partition: that of its switch, else one that a GO has asked for (04 R131, Table 4-12). -/
def State.restoreNext (s : State) (part : Fin 16) : Option (Fin 8) :=
  let q := s.preempt[part]
  if q.status = .switching then (if s.ctxs[q.next].state = .parked ∧ s.ctxs[q.next].part = part then some q.next else none)
  else (List.finRange 8).find? fun k => s.ctxs[k].part == part && s.ctxs[k].state == .parked && s.ctxs[k].wanted

/-- It begins, unless a context of the partition runs or is on its way to or from the wafer: at most one is RUNNING (04 R127). -/
def State.beginRestore (s : State) (part : Fin 16) : State :=
  if (s.ctxIn part .running).isSome || (s.ctxIn part .saving).isSome || (s.ctxIn part .restoring).isSome then s
  else
    match s.restoreNext part with
    | some k => s.onCtx k fun c => { c with state := .restoring }
    | none => s

/-- A core of a partition is asked to freeze; one under test, or stopped already, is not (01 R35, 08 R251). -/
def Core.askFreeze (c : Core) : Core := if c.frozen || c.testing || c.out then c else { c with freezeReq := true }

/-- SWITCH_START (04 R131, 05 R174): once a restore that a GO began before T is done; a save that a dropped switch began goes on. -/
def evSwitchStart (part : Fin 16) (s : State) : Option State :=
  let q := s.preempt[part]
  if q.status = .committed ∧ q.at_.toNat ≤ s.wcc.toNat ∧ (s.ctxIn part .restoring).isNone then
    let t := s.onPreempt part fun x => { x with status := .switching }
    match s.ctxIn part .running with
    | some k =>
      let u := (t.onCtx k fun c => { c with state := .saving }).onPreempt part fun x => { x with out := some k, saved := false }
      some { u with cores := u.cores.map fun x => if s.inPart part x.1 then (x.1, x.2.askFreeze) else x }
    | none =>
      if (s.ctxIn part .saving).isSome then some t
      else some ((t.onPreempt part fun x => { x with out := none, saved := true }).beginRestore part)
  else none

/-- A halt session goes with the frozen core it leaves behind, into the image (04 R142, log 32). -/
def Core.unheld (c : Core) : Core := { c with halted := false, frozen := false }

/-- The image of the outgoing context is whole: it is PARKED, and the restore begins (04 R131, 08 R254). -/
def State.saveDone (s : State) (part : Fin 16) : Option State :=
  match s.preempt[part].out, s.part part with
  | some k, some p =>
    if !s.preempt[part].saved && s.ctxs[k].state == .saving && s.savable part p then
      let i := s.image part p
      let t := (s.clearPart part).onCtx k fun c => { c with state := .parked, image := some i }
      let t : State := { t with ticket := s.ticket + 1, tokens := s.tokens, cores := t.cores.map fun x => if p.has x.1 then (x.1, x.2.unheld) else x }
      some ((t.onPreempt part fun x => { x with saved := true }).beginRestore part)
    else none
  | _, _ => none

/-- SWITCH_OVERDUE (04 R132). -/
def evSwitchOverdue (part : Fin 16) (s : State) : Option State :=
  let q := s.preempt[part]
  if q.status = .switching ∧ q.overdue = false ∧ q.at_.toNat + 4000000 ≤ s.wcc.toNat then
    some ((s.onPreempt part fun x => { x with overdue := true }).raisePart 0x48 part 0)
  else none

/-- RE_PLACEMENT (04 R134): named before T for a switch of the running context to itself. -/
def evRePlacement (part : Fin 16) (avoid : List Nat) (placed : Option Nat) (s : State) : Option State :=
  let q := s.preempt[part]
  if (q.status = .armed ∨ q.status = .committed) ∧ s.ctxIn part .running = some q.next then
    some (s.onPreempt part fun x => { x with avoid := some (avoid, placed) })
  else none

/-! ## Contexts that fail or are stopped (04 R131, R139, R141) -/

/-- A switch is dropped: NEXT_CTX is not restored, event 0x4D (04 R131). -/
def State.dropSwitch (s : State) (part : Fin 16) : State :=
  (s.onPreempt part fun x => { x with status := .notReady, avoid := none }).raisePart 0x4D part s.preempt[part].next.val

/-- A context has left PARKED and RUNNING: the switches to it are dropped; where it was being saved, what comes next is restored. -/
def State.leftSet (s : State) (k : Fin 8) : State :=
  let t := (List.finRange 16).foldl (fun x p => if !x.preempt[p].open_ && x.preempt[p].next == k then x.dropSwitch p else x) s
  (List.finRange 16).foldl (fun x p =>
    if x.preempt[p].out = some k ∧ x.preempt[p].saved = false then (x.onPreempt p fun q => { q with out := none, saved := true }).beginRestore p
    else x.beginRestore p) t

/-- A context becomes FAULTED: its image is unusable (04 R129, R141). -/
def State.faultCtx (s : State) (k : Fin 8) : State :=
  ((s.clearCtx k).onCtx k fun c => { c with state := .faulted, image := none, runnable := [] }).leftSet k

/-- A context is stopped and made EMPTY (04 R139). -/
def State.stopCtx (s : State) (k : Fin 8) : State := (s.emptyCtx k).leftSet k

def execArm (part : Fin 16) (s : State) : Host.Outcome State Fault Refusal := event (evArm part s) s
def execCancel (part : Fin 16) (s : State) : Host.Outcome State Fault Refusal := event (evCancel part s) s
def execSwitchCommit (part : Fin 16) (s : State) : Host.Outcome State Fault Refusal := event (evSwitchCommit part s) s
def execSwitchStart (part : Fin 16) (s : State) : Host.Outcome State Fault Refusal := event (evSwitchStart part s) s
def execSwitchOverdue (part : Fin 16) (s : State) : Host.Outcome State Fault Refusal := event (evSwitchOverdue part s) s
def execRePlacement (part : Fin 16) (avoid : List Nat) (placed : Option Nat) (s : State) : Host.Outcome State Fault Refusal :=
  event (evRePlacement part avoid placed s) s

end Sys2Proof.Machine
end

