-- ==== Sys2Proof/Machine/Tenant.lean ====
section
/-! DEFINITION. Sys2Proof/Machine/Tenant.lean: tenant interfaces and region keys, debug sessions, attestation (02 R66, R67, 04 R137 to R143). -/

namespace Sys2Proof.Machine

/-! ## Interfaces (04 Table 4-8) -/

/-- An interface changed. -/
def State.onTdi (s : State) (i : Fin 16) (f : Tdi → Tdi) : State := { s with tdis := s.tdis.set i (f s.tdis[i]) }

/-- STATE as Table 4-8 codes it. -/
def TdiState.code : TdiState → Nat
  | .unlocked => 0 | .locked => 1 | .run => 2 | .error => 3

/-- Regions of an interface; how many of them hold a key. -/
def State.regionsOf (s : State) (i : Fin 16) : List RegionEntry := s.regions.filter fun r => r.itf = i
def State.keys (s : State) (i : Fin 16) : Nat := ((s.regionsOf i).filter fun r => (s.keyOf r).isSome).length

/-- Contexts bound to an interface. -/
def State.boundTo (s : State) (i : Fin 16) : List (Fin 8) :=
  (List.finRange 8).filter fun k => s.ctxs[k].state ≠ .empty ∧ s.ctxs[k].tdi.val = i.val + 1

/-- The answer to a message that Table 4-9 does not allow (04 R139). -/
def State.answerError (s : State) (i : Fin 16) : State := { s with answers := s.answers ++ [.error i] }

/-- A physical address lies in a region. -/
def RegionEntry.holds (r : RegionEntry) (pa : Nat) : Bool := decide (r.base ≤ pa / 0x200000) && decide (pa / 0x200000 < r.base + r.len)

/-- A request has begun and not completed. -/
def MemReq.underWay (r : MemReq) : Bool :=
  match r.stage with
  | .sent => true | .queued => true | .spilled => true | .filling _ => true | .prepared _ => true | .served => true | _ => false

/-- A request to a region whose key goes completes with PROT_FAULT (04 R140). -/
def State.failIn (in_ : Nat → Bool) (s : State) (r : MemReq) : State :=
  if !r.underWay then s
  else if r.isTile then
    match r.spots.find? fun x => in_ x.2.2 with
    | some x => s.failTile r trapProtFault x.2.1
    | none => s
  else if in_ r.pa then s.failReq r trapProtFault r.va
  else s

/-- The keys of an interface are destroyed: their slots hold none, the lines of its regions leave the slices without write-back, and requests to them
fail (02 R67, 04 R140, 07 R215). -/
def State.destroyKeys (s : State) (i : Fin 16) : State :=
  let mine := s.regionsOf i
  let in_ := fun (pa : Nat) => mine.any fun r => RegionEntry.holds r pa
  let t := (s.reqs.foldl (State.failIn in_) s).tidy
  let gone := t.slices.flatMap fun x => (x.2.lines.filter fun l => in_ (l.line * 128)).map fun l => (x.1, l)
  let t := gone.foldl (fun x l => x.evict l.1 l.2 false) t
  { t with keyTable := t.keyTable.filter fun k => !mine.any fun r => r.slot == k.1 }

/-- An interface enters ERROR: keys destroyed, bound contexts FAULTED (04 R139, R141). -/
def State.enterError (s : State) (i : Fin 16) (cause : Fin 5) : State :=
  let t := (s.onTdi i fun x => { x with state := .error, cause }).destroyKeys i
  (s.boundTo i).foldl (fun x k => x.faultCtx k) t

/-- An interface that holds keys or contexts: LOCKED or RUN. -/
def Tdi.bound (x : Tdi) : Bool := x.state == .locked || x.state == .run

/-! ## Sessions and the interfaces they meet (04 R142, R143) -/

/-- The context whose work a core has: the one of its partition on the wafer, else one that has become FAULTED there. -/
def State.ctxAt (s : State) (n : Nat) : Option (Fin 8) :=
  (s.partOf n).bind fun p => ((List.finRange 8).find? fun k => s.ctxs[k].part = p.1 ∧ s.ctxs[k].onWafer).orElse fun _ =>
    (List.finRange 8).find? fun k => s.ctxs[k].part = p.1 ∧ s.ctxs[k].state = .faulted

/-- The interface of a context. -/
def Ctx.itf (k : Ctx) : Option (Fin 16) := if h : 0 < k.tdi.val then some ⟨k.tdi.val - 1, by omega⟩ else none

/-- The interface of a core's context. -/
def State.itfAt (s : State) (n : Nat) : Option (Fin 16) := (s.ctxAt n).bind fun k => s.ctxs[k].itf

/-- The session a core has: 0 none, 1 trace, 2 halt. -/
def Core.session (c : Core) : Fin 3 := if c.halted then 2 else if c.traced then 1 else 0

/-- The strongest of some sessions. -/
def strongest (l : List (Fin 3)) : Fin 3 := l.foldl (fun a b => if a < b then b else a) 0

/-- Sessions that a context's image holds. -/
def Ctx.sessions (k : Ctx) : List (Fin 3) := match k.image with
  | some m => m.cores.map fun x => if x.2.halted then 2 else 0
  | none => []

/-- The strongest session on the cores of an interface's contexts, parked ones too; and of the module. -/
def State.debugOf (s : State) (i : Fin 16) : Fin 3 :=
  strongest (((s.cores.filter fun x => s.itfAt x.1 = some i).map fun x => x.2.session) ++ (s.boundTo i).flatMap fun k => s.ctxs[k].sessions)
def State.debugAny (s : State) : Fin 3 := strongest ((s.cores.map fun x => x.2.session) ++ (List.finRange 8).flatMap fun k => s.ctxs[k].sessions)

/-- DEBUG of every interface. -/
def State.redebug (s : State) : State :=
  { s with tdis := Vector.ofFn fun i : Fin 16 => { s.tdis[i] with debug := s.debugOf i } }

/-- Sessions and the contexts they meet are judged: an interface, LOCKED or in RUN, with one beyond its CONSENT enters ERROR (04 R143). -/
def State.judged (s : State) : State :=
  ((List.finRange 16).foldl (fun x i => if x.tdis[i].bound && decide (x.tdis[i].consent < x.debugOf i) then x.enterError i 1 else x) s).redebug

/-- PLANE_SWAP (03 R106, 16 R420): the wave reaches a router; a context that runs then may meet a session. -/
def evPlaneSwap (router : Nat) (s : State) : Option State := (s.swapAt router).map State.judged

/-- SAVE_DONE (04 R131, 08 R254). -/
def evSaveDone (part : Fin 16) (s : State) : Option State := (s.saveDone part).map State.redebug

/-- RESTORE_DONE (04 R131, 08 R255). -/
def evRestoreDone (part : Fin 16) (s : State) : Option State := (s.ctxIn part .restoring).bind fun k => (s.restored part k).map State.judged

/-! ## Messages (04 R138, R139) -/

/-- LOCK_INTERFACE: the interface's regions and contexts are snapshotted; refused while a session beyond CONSENT is attached anywhere: an interface that
is UNLOCKED has no context of its own (log 32). -/
def evLockInterface (itf : Fin 16) (consent : Fin 3) (s : State) : Option State :=
  if s.tdis[itf].state = .unlocked ∧ s.debugAny ≤ consent then
    some { (s.onTdi itf fun x => { x with state := .locked, live := true, consent }) with
      snapshots := (s.snapshots.filter fun y => y.itf ≠ itf) ++ [{ itf, regions := s.regionsOf itf, ctxs := s.boundTo itf }] }
  else some (s.answerError itf)

/-- Key delivery in the secured session: the region's slot takes its key in every agent. -/
def evKeyDelivery (itf : Fin 16) (region : KeyMessage) (s : State) : Option State :=
  match s.regions[region.entry]? with
  | some r =>
    if s.tdis[itf].state = .locked ∧ r.itf = itf then some { s with keyTable := putKey s.keyTable r.slot region.key }
    else some (s.answerError itf)
  | none => some (s.answerError itf)

/-- START_INTERFACE: refused unless every attached region holds a key. -/
def evStartInterface (itf : Fin 16) (s : State) : Option State :=
  if s.tdis[itf].state = .locked ∧ ((s.regionsOf itf).all fun r => (s.keyOf r).isSome) = true then some (s.onTdi itf fun x => { x with state := .run })
  else some (s.answerError itf)

/-- STOP_INTERFACE takes effect: bound contexts EMPTY, keys destroyed, UNLOCKED. -/
def State.unlock (s : State) (i : Fin 16) : State :=
  let t := (s.boundTo i).foldl (fun x k => x.stopCtx k) s
  let t := if s.tdis[i].state = .error then t else t.destroyKeys i
  State.redebug { (t.onTdi i fun x => { x with state := .unlocked, live := false }) with
    stops := t.stops.filter (· ≠ i), snapshots := t.snapshots.filter fun y => y.itf ≠ i }

/-- STOP_INTERFACE: while a bound context is SAVING or RESTORING it waits for the end of the switch (04 R141). -/
def evStopInterface (itf : Fin 16) (s : State) : Option State :=
  let x := s.tdis[itf]
  if x.state = .unlocked then some (s.answerError itf)
  else if x.bound && (s.boundTo itf).any fun k => s.ctxs[k].state == .saving || s.ctxs[k].state == .restoring then
    if s.stops.contains itf then none else some { s with stops := s.stops ++ [itf] }
  else some (s.unlock itf)

/-- GET_DEVICE_INTERFACE_REPORT. -/
def evGetDeviceInterfaceReport (itf : Fin 16) (s : State) : Option State :=
  some { s with answers := s.answers ++ [.report itf s.tdis[itf].state (s.keys itf)] }

/-- Another TDISP message (04 R138). -/
def evTdispUnsupported (itf : Fin 16) (s : State) : Option State := some { s with answers := s.answers ++ [.unsupported itf] }

/-- The region table with one entry changed, removed or added; it has 1,024 (02 R66). -/
def State.setRegion (s : State) (region : Nat) (entry : Option RegionEntry) : State :=
  match entry with
  | some e =>
    if region < s.regions.length then { s with regions := s.regions.set region e }
    else if s.regions.length < 1024 then { s with regions := s.regions ++ [e] }
    else s
  | none => { s with regions := s.regions.eraseIdx region }

/-- What stands of an interface is not what was snapshotted (04 R139). -/
def State.snapshotBroken (s : State) (i : Fin 16) : Bool :=
  match s.snapshots.find? fun y => y.itf = i with
  | some y => decide (y.regions ≠ s.regionsOf i) || y.ctxs.any fun k => !(s.boundTo i).contains k
  | none => false

/-- SNAPSHOT_CHANGE: a record of the region table is written; an interface LOCKED or in RUN whose snapshot no longer holds enters ERROR with
CAUSE 2 (04 R139). -/
def evSnapshotChange (region : Nat) (entry : Option RegionEntry) (s : State) : Option State :=
  let t := s.setRegion region entry
  some ((List.finRange 16).foldl (fun x i => if x.tdis[i].bound && x.snapshotBroken i then x.enterError i 2 else x) t).redebug

/-- KEY_TABLE_ERROR: ERROR with CAUSE 3. -/
def evKeyTableError (itf : Fin 16) (s : State) : Option State := if s.tdis[itf].bound then some (s.enterError itf 3).redebug else none

/-! ## Debug sessions (04 R142, R143) -/

/-- A session attaches to a core in P0 or P1: with no consent for it, a LOCKED or RUN interface enters ERROR (04 Table 4-10). -/
def State.attach (s : State) (n : Nat) (kind : Fin 3) : State :=
  let c := s.coreOr n
  State.judged (s.setCore n (if kind = 2 then ({ c with halted := true } : Core).askFreeze else { c with traced := true }))

/-- What a session reads (04 R142): a trace session, the bundle a core has in issue with its address and the events of its router; a halt session,
the state of the core it has frozen. The session's own requests are no step of the module. -/
def State.traceRead (s : State) (n : Nat) : Option (Nat × Option Bundle × List EventRec) :=
  (s.core n).bind fun c =>
    if c.session = 0 then none
    else some (c.issue.pc, c.issue.bundle, s.events.filter fun e => bits (e[0]).toNat 48 8 == coreX n && bits (e[0]).toNat 40 8 == coreY n)
def State.haltRead (s : State) (n : Nat) : Option Core := (s.core n).bind fun c => if c.halted && c.frozen then some c else none

/-- What a halt session writes: the state of the core it has frozen, but for what keeps it so and its place in the module (04 R142). -/
def State.haltWrite (s : State) (n : Nat) (d : Core) : Option State :=
  (s.haltRead n).map fun c => s.setCore n
    { d with halted := c.halted, traced := c.traced, frozen := c.frozen, freezeReq := c.freezeReq, caps := c.caps, withdrawn := c.withdrawn
             testing := c.testing, holding := c.holding, skips := c.skips, out := c.out, failed := c.failed, swaps := c.swaps }

/-- A session is asked for: in S1 it wakes the module, in S3 it is refused and logged (04 Table 4-10). -/
def State.askDebug (s : State) (n : Nat) (kind : Fin 3) : Option State :=
  match s.power with
  | .p0 => some (s.attach n kind)
  | .p1 => some (s.attach n kind)
  | .s1 => some (({ s with power := .p0 } : State).attach n kind)
  | .s3 => some { s with mgmt := s.mgmt ++ [.debugRefused n] }
  | .s5 => none

/-- DEBUG_ATTACH_TRACE, DEBUG_ATTACH_HALT. -/
def evDebugAttachTrace (core : Nat) (s : State) : Option State := s.askDebug core 1
def evDebugAttachHalt (core : Nat) (s : State) : Option State := s.askDebug core 2

/-- A core without a session: one that a session froze goes on, unless its context is being saved (04 R142, 08 Table 8-6). -/
def Core.released (c : Core) (saving : Bool) : Core :=
  { c with halted := false, traced := false, frozen := c.frozen && (!c.halted || saving || c.failed)
           freezeReq := c.freezeReq && (!c.halted || saving || c.failed) }

/-- The context that has a core's partition is being saved. -/
def State.savingAt (s : State) (n : Nat) : Bool :=
  match s.ctxAt n with
  | some k => s.ctxs[k].state == .saving
  | none => false

/-- The session of a core's image ends. -/
def Ctx.release (k : Ctx) (n : Nat) : Ctx :=
  { k with image := k.image.map fun i => { i with cores := i.cores.map fun x => if x.1 = n then (x.1, ({ x.2 with halted := false } : Core)) else x } }

/-- A core's session ends; a reply that came while it was frozen takes effect. -/
def State.endSession (s : State) (n : Nat) : State :=
  let t := match s.core n with
    | some c => let d := c.released (s.savingAt n)
                let u := s.setCore n d
                if c.frozen && !d.frozen then u.answerKept n else u
    | none => s
  { t with ctxs := t.ctxs.map fun k => k.release n }

/-- A core has a session, or its image has. -/
def State.hasSession (s : State) (n : Nat) : Bool :=
  (s.cores.any fun x => x.1 == n && x.2.session != 0) || (List.finRange 8).any fun k => match s.ctxs[k].image with
    | some i => i.cores.any fun x => x.1 == n && x.2.halted
    | none => false

/-- DEBUG_SESSION_END (04 R142). -/
def evDebugSessionEnd (core : Nat) (s : State) : Option State :=
  if s.hasSession core then some (s.endSession core).redebug else none

/-- The sessions of an image end. -/
def Ctx.releaseAll (k : Ctx) : Ctx :=
  { k with image := k.image.map fun i => { i with cores := i.cores.map fun x => (x.1, ({ x.2 with halted := false } : Core)) } }

/-- Every session ends (04 R142). -/
def State.endSessions (s : State) : State :=
  let t := (s.cores.map (·.1)).foldl (fun x n => x.endSession n) s
  ({ t with ctxs := t.ctxs.map Ctx.releaseAll } : State).redebug

/-! ## Attestation (04 R137) -/

/-- The fields of a report after the nonce, in order. -/
def State.reportFields (s : State) : List Nat :=
  (s.meas.toList.map fun m => m.toNat) ++
    ((List.finRange 8).flatMap fun k => match s.ctxs[k].state, s.ctxs[k].resident with
      | .empty, _ => []
      | _, some g => [g.pfx.toNat, s.ctxs[k].part.val, s.ctxs[k].ns.toNat]
      | _, none => []) ++
    (s.tdis.toList.flatMap fun t => [t.state.code, t.consent.val, (t.debug).val]) ++ [s.caps.toNat, s.healthReg.toNat, s.wcc.toNat]

/-- ATTESTATION_REQUEST (04 R135, R137): a report signed with the attestation key, and the identity certificate (log 13). -/
def evAttestationRequest (nonce : BitVec 384) (s : State) : Option State :=
  let l := s.reportFields
  let bytes := (nonce.toNat :: l).flatMap fun x => leBytes 48 x
  let key := Sys2Proof.Config.derivedKey (s.identity.getD 0) 0
  some { s with answers := s.answers ++ [.attestation nonce l (Sys2Proof.Config.sign key (Sys2Proof.Config.sha384 bytes)) Sys2Proof.Config.identityCert] }

def execLockInterface (itf : Fin 16) (consent : Fin 3) (s : State) : Host.Outcome State Fault Refusal := outside (evLockInterface itf consent s) s
def execKeyDelivery (itf : Fin 16) (region : KeyMessage) (s : State) : Host.Outcome State Fault Refusal := outside (evKeyDelivery itf region s) s
def execPlaneSwap (router : Nat) (s : State) : Host.Outcome State Fault Refusal := event (evPlaneSwap router s) s
def execSaveDone (part : Fin 16) (s : State) : Host.Outcome State Fault Refusal := event (evSaveDone part s) s
def execRestoreDone (part : Fin 16) (s : State) : Host.Outcome State Fault Refusal := event (evRestoreDone part s) s
def execStartInterface (itf : Fin 16) (s : State) : Host.Outcome State Fault Refusal := outside (evStartInterface itf s) s
def execStopInterface (itf : Fin 16) (s : State) : Host.Outcome State Fault Refusal := outside (evStopInterface itf s) s
def execGetDeviceInterfaceReport (itf : Fin 16) (s : State) : Host.Outcome State Fault Refusal := outside (evGetDeviceInterfaceReport itf s) s
def execTdispUnsupported (itf : Fin 16) (s : State) : Host.Outcome State Fault Refusal := outside (evTdispUnsupported itf s) s
def execSnapshotChange (region : Nat) (entry : Option RegionEntry) (s : State) : Host.Outcome State Fault Refusal :=
  outside (evSnapshotChange region entry s) s
def execKeyTableError (itf : Fin 16) (s : State) : Host.Outcome State Fault Refusal := outside (evKeyTableError itf s) s
def execDebugAttachTrace (core : Nat) (s : State) : Host.Outcome State Fault Refusal := outside (evDebugAttachTrace core s) s
def execDebugAttachHalt (core : Nat) (s : State) : Host.Outcome State Fault Refusal := outside (evDebugAttachHalt core s) s
def execDebugSessionEnd (core : Nat) (s : State) : Host.Outcome State Fault Refusal := outside (evDebugSessionEnd core s) s
def execAttestationRequest (nonce : BitVec 384) (s : State) : Host.Outcome State Fault Refusal := outside (evAttestationRequest nonce s) s

end Sys2Proof.Machine
end

