-- ==== Sys2Proof/Machine/Ingress.lean ====
section
/-! DEFINITION. Sys2Proof/Machine/Ingress.lean: command streams of the ingress ports, the loader, and the wafer register window (04 R117 to
R131, R431, 05 R168, R171, R174, R433, 10 R301, 16 R419). -/

namespace Sys2Proof.Machine

/-! ## Rings (04 R118, R119) -/

/-- An ingress port changed. -/
def State.onIng (s : State) (n : Fin 16) (f : Ingress → Ingress) : State := { s with ing := s.ing.set n (f s.ing[n]) }

/-- Entries of a ring, entries not yet read, the address of the entry k places on. -/
def Ingress.size (g : Ingress) : Nat := 2 ^ (min g.log2sz.toNat 10 + 6)
def Ingress.unread (g : Ingress) : Nat := (g.tail - g.head).toNat
def Ingress.entryAt (g : Ingress) (k : Nat) : Nat := g.base.toNat * 4096 + (g.head.toNat + k) % g.size * 64

/-- The router of an ingress port (04 Table 4-11). -/
def ingressRouter (n : Fin 16) : Nat :=
  let i := n.val % 4
  match n.val / 4 with
  | 0 => coreNum (16 + 34 * i) 0
  | 1 => coreNum 134 (12 + 24 * i)
  | 2 => coreNum (118 - 34 * i) 95
  | _ => coreNum 0 (84 - 24 * i)

/-- The bytes of an entry, and its elements. -/
def State.entryBytes (s : State) (g : Ingress) (k : Nat) : List Byte := s.smem.bytes (g.entryAt k) 64
def elements (b : List Byte) : List Nat := (List.range 16).map fun i => leNat ((b.drop (4 * i)).take 4)

/-- An element of an entry, and its KIND. -/
def el (e : List Nat) (i : Nat) : Nat := e.getD i 0
def kindOf (e : List Nat) : Nat := el e 15 % 256

/-- Bits of an element that an entry of a kind gives a meaning (04 Table 4-3). -/
def entryMask (kind i : Nat) : Nat :=
  match kind, i with
  | _, 15 => 0xFF
  | 1, 4 => 0xF07
  | 1, 5 => 0xFF
  | 1, 6 => 0x1F
  | 1, i => if i < 4 then 0xFFFFFFFF else 0
  | 2, 14 => 0xFF
  | 2, _ => 0xFFFFFFFF
  | 3, 2 => 0x1FFFFF
  | 3, 3 => 0xFFFF
  | 3, i => if i < 2 then 0xFFFFFFFF else 0
  | 4, 0 => 0xFFFF
  | _, _ => 0

/-- An entry is well formed where it stands: its kind, its reserved bits, a format that bursts have, OPEN outside a stream and the others
within one (04 R120). -/
def entryOk (e : List Nat) (inStream : Bool) : Bool :=
  let k := kindOf e
  decide (1 ≤ k) && decide (k ≤ 5) && ((List.range 16).all fun i => el e i &&& entryMask k i == el e i) && ((k == 1) != inStream) &&
    (k != 3 || decide (bits (el e 2) 16 4 < 10))

/-- The entry at the head of a port that reads, open once bring-up is over (01 R32). -/
def State.entry (s : State) (n : Fin 16) : Option (List Nat) :=
  let g := s.ing[n]
  if s.bringUp != .up || g.stopped || g.unread == 0 then none else some (elements (s.entryBytes g 0))

/-- A well-formed entry of a kind at the head of a port, or any of that kind while a refused stream is discarded. -/
def State.entryOf (s : State) (n : Fin 16) (kind : Nat) : Option (List Nat) :=
  match s.entry n with
  | some e => if kindOf e = kind ∧ (s.ing[n].skipping || entryOk e s.ing[n].stream.isSome) then some e else none
  | none => none

/-- HEAD advances. -/
def State.consume (s : State) (n : Fin 16) (k : Nat) : State :=
  s.onIng n fun g => { g with head := g.head + BitVec.ofNat 32 k, holding := false }

/-- ERR is set with a code. -/
def State.ingErr (s : State) (n : Fin 16) (code : Byte) : State := s.onIng n fun g => { g with err := true, code }

/-! ## The loader (04 R122 to R129) -/

/-- The 16 bytes of a prefix as OPEN's elements hold them, byte 0 lowest, turned as they stand in a digest, byte 0 most significant. -/
def digestPrefix (pfx : BitVec 128) : BitVec 128 := BitVec.ofNat 128 (leNat ((List.range 16).map fun k => pfx.extractLsb' (8 * (15 - k)) 8))

/-- What an OPEN names. -/
structure OpenArgs where
  pfx  : BitVec 128
  ctx  : Fin 8
  part : Fin 16
  ns   : BitVec 8
  tdi  : Nat
  deriving DecidableEq, Repr

/-- The operands of an OPEN entry (04 Table 4-3). -/
def openArgs (e : List Nat) : OpenArgs :=
  { pfx := BitVec.ofNat 128 (el e 0 + el e 1 * 2 ^ 32 + el e 2 * 2 ^ 64 + el e 3 * 2 ^ 96), ctx := ⟨el e 4 % 8, by omega⟩
    part := ⟨bits (el e 4) 8 4, Nat.mod_lt _ (by decide)⟩, ns := BitVec.ofNat 8 (el e 5), tdi := el e 6 }

/-- A capability report (04 Table 4-4). -/
def report (status refusal subst maphit hop index cores : Nat) : List Byte :=
  leBytes 4 (status + refusal * 2 ^ 8 + subst * 2 ^ 16 + maphit * 2 ^ 24) ++ leBytes 2 hop ++ leBytes 2 0 ++ leBytes 4 index ++ leBytes 4 cores ++
    leBytes 48 0

/-- A report is written over the OPEN entry, and HEAD passes it. -/
def State.writeReport (s : State) (n : Fin 16) (b : List Byte) : State :=
  ({ s with smem := s.smem.put (cellsAt (s.ing[n].entryAt 0) b) } : State).consume n 1

/-- The PART_HOP register of a configuration (03 R94, 06 Table 6-9). -/
def Config.hopWord (g : Config) : Nat := boolBit g.uniform * 128 + g.hop % 16

/-- A refused OPEN: its report with SUBST and MAPHIT as far as they were known, ERR with the code, the rest of the stream discarded; the event of a
rate or a cycle (04 R122, R123). -/
def State.refuseWith (s : State) (n : Fin 16) (part : Fin 16) (subst maphit code index : Nat) : State :=
  let t := ((s.writeReport n (report 2 code subst maphit 0 index 0)).ingErr n (BitVec.ofNat 8 code)).onIng n fun g =>
    { g with skipping := true, loading := false }
  if code = 6 ∨ code = 7 then t.raisePart (0x40 + code) part index else t

/-- A refusal before a configuration is known: SUBST tells of the deep tier alone (00 R7). -/
def State.refuse (s : State) (n : Fin 16) (part : Fin 16) (code index : Nat) : State :=
  s.refuseWith n part (boolBit (s.cxlLinks == 0)) 0 code index

/-- The report of a completed OPEN. -/
def State.reportOf (s : State) (g : Config) (status maphit : Nat) : List Byte :=
  report status 0 (s.subst g) maphit g.hopWord noRecord g.cores.length

/-- An OPEN completes: its report is written, LOADING clears, the stream has begun. -/
def State.opened (s : State) (n : Fin 16) (k : Fin 8) (b : List Byte) : State :=
  (s.writeReport n b).onIng n fun x => { x with stream := some k, loading := false, report := none }

/-- A GO for a context is held at a port. -/
def State.heldGo (s : State) (k : Fin 8) : Bool :=
  (List.finRange 16).any fun n => s.ing[n].holding && s.ing[n].stream == some k && match s.entry n with
    | some e => kindOf e == 4
    | none => false

/-- A context is stopped (16 R419). -/
def State.stopped (s : State) (k : Fin 8) : Bool := (s.ctxs[k].runnable.all fun g => s.ctxs[k].doneG.contains g) && !s.heldGo k

/-- A switch that is armed or committed needs the context (04 R131). -/
def State.needed (s : State) (k : Fin 8) : Bool :=
  (List.finRange 16).any fun p => s.preempt[p].next == k && (s.preempt[p].status == .armed || s.preempt[p].status == .committed)

/-- The context an OPEN finds: resident with the same configuration and bindings. -/
def Ctx.matches_ (k : Ctx) (a : OpenArgs) : Bool :=
  k.state != .empty && k.state != .faulted && (k.resident).any (fun g => g.pfx == a.pfx) && k.part == a.part && k.ns == a.ns && k.tdi.val == a.tdi

/-- An OPEN first makes the context EMPTY: one that is FAULTED, or a stopped one with another configuration that no switch needs. -/
def State.replaces (s : State) (a : OpenArgs) : Bool :=
  let k := s.ctxs[a.ctx]
  k.state == .faulted || ((k.state == .running || k.state == .parked || k.state == .loading) && !(k.resident).any (fun g => g.pfx == a.pfx) &&
    s.stopped a.ctx && !s.needed a.ctx)

/-- The loader waits: the context is between PARKED and RUNNING, or another context of the partition is on its way to RUNNING, or
the partition swaps its planes or still writes one. -/
def State.loaderWaits (s : State) (a : OpenArgs) : Bool :=
  s.ctxs[a.ctx].state == .saving || s.ctxs[a.ctx].state == .restoring ||
    (List.finRange 8).any (fun k => k != a.ctx && s.ctxs[k].part == a.part &&
      (s.ctxs[k].state == .loading || s.ctxs[k].state == .saving || s.ctxs[k].state == .restoring)) ||
    (match s.part a.part with
     | some p => p.swapped || !p.writes.isEmpty
     | none => false)

/-- The TDI operand names no interface, or one that is LOCKED or in RUN. -/
def State.tdiOk (s : State) (tdi : Nat) : Bool :=
  tdi == 0 || (List.finRange 16).any fun i => i.val + 1 == tdi && s.tdis[i].bound

/-- Cores and slices of a partition that are there. -/
def State.coresOf (s : State) (p : Part) : Nat := (p.routers.filter (s.usable p [])).length
def State.slicesOf (s : State) (p : Part) : Nat :=
  (p.slices.owned.filter fun k => !s.health.slicesOut.any fun x => x.val == k.val).length

/-- Cores that the largest pen of a binary needs. -/
def Binary.needs (b : Binary) : Nat := (b.pens.map (·.2)).foldl max 0

/-- The key of a placement (04 R125). -/
def State.mapKey (s : State) (p : Part) (pfx : BitVec 128) (g : Config) : BitVec 128 × Nat × BitVec 32 × Bool :=
  (pfx, p.x0 + p.y0 * 2 ^ 8 + p.w * 2 ^ 16 + p.h * 2 ^ 24, s.healthGen, g.uniform)

/-- The mapping cache after a lookup that gave a placement, least recently used first, at most 64 placements. -/
def State.keepPlacement (s : State) (key : BitVec 128 × Nat × BitVec 32 × Bool) (pl : Placement) : State :=
  let l := s.mapCache.filter fun x => x.1 ≠ key
  { s with mapCache := (if 64 ≤ l.length then l.tail else l) ++ [(key, pl)] }

/-- The configuration of a binary on a partition, its placement, and whether that came from the mapping cache (04 R125). -/
def State.placed (s : State) (p : Part) (b : Binary) (pfx : BitVec 128) (ns : BitVec 8) : Option (Config × Placement × Bool) :=
  let key := s.mapKey p pfx (b.config Placement.none_)
  let held := (s.mapCache.find? fun x => x.1 = key).map fun x => (x.2, true)
  (held.toList ++ (s.placements p b []).map fun pl => (pl, false)).findSome? fun x =>
    let g := s.formOf b x.1 pfx ns
    if s.fits p b g [] then some (s.routed p b g, x.1, x.2) else none

/-- A 2 MiB frame in HBM that the loader can give: not the pager's, not a top-level table's, not an image's. -/
def State.frameFree (s : State) (p : Part) (f : Nat) : Bool :=
  p.frames.contains f && decide ((f + 1) * 0x200000 ≤ 0x11FF0000000) && !p.pager.contains f &&
    !s.roots.any (fun r => r.2 / 0x200000 ≤ f && f < r.2 / 0x200000 + 8) && !(List.finRange 8).any fun k => s.ctxs[k].frames.contains f

/-- A frame in a region of an interface, where there is one. -/
def State.attached (s : State) (tdi f : Nat) : Bool :=
  tdi == 0 || s.regions.any fun r => r.itf.val + 1 == tdi && decide (r.base ≤ f) && decide (f < r.base + r.len)

/-- Frames of an image: 1,027 KiB a core at the most (08 Table 8-5, log 29). -/
def Config.imageFrames (g : Config) : Nat := (g.cores.length * 1027 + 2047) / 2048

/-- The frames a context's image gets, attached to its interface: the first of its partition that do (04 R128). -/
def State.imageAt (s : State) (p : Part) (tdi : Nat) (g : Config) : Option (List Nat) :=
  let l := (p.frames.filter fun f => s.frameFree p f && s.attached tdi f).take g.imageFrames
  if l.length = g.imageFrames then some l else none

/-- Frames a partition can give a top-level table: eight in a row, 16 MiB-aligned, in HBM, none given yet (07 R211). -/
def State.rootFrames (s : State) (p : Part) (taken : List Nat) : Option Nat :=
  bestOf (fun a b => decide (a < b)) (p.frames.filter fun f => f % 8 == 0 && (List.range 8).all fun i => s.frameFree p (f + i) && !taken.contains (f + i))

/-- Pages for the addresses of the `global` sections, where there are none yet; `some none` where the pager has none, none while a store must wait
(07 R211, 10 R304). -/
def State.mapPages (s : State) (part : Fin 16) (root : Nat) : List Nat → Option (Option State)
  | [] => some (some s)
  | va :: l =>
    match (walkFrom s.pte va 3 0 root).1 with
    | .parked a level => (s.freshPage part va 3 level a).bind fun r => match r with
      | some t => t.mapPages part root l
      | none => some none
    | _ => s.mapPages part root l

/-- The physical address of a mapped one. -/
def State.physFrom (s : State) (root va : Nat) : Option Nat :=
  match (walkFrom s.pte va 3 0 root).1 with
  | .found h => some (h.phys va)
  | _ => none

/-- The `global` sections stored through their pages. -/
def State.writeGlobals (s : State) (part : Fin 16) (root : Nat) (g : Config) : Option State :=
  let cells := g.globals.filterMap fun c => (s.physFrom root c.1).map fun a => (a, c.2)
  if cells.isEmpty then some s else (s.writeEvent .steward part cells).map (·.1)

/-- The top-level table of a context, zeroed but for its `global` sections; `some none` where there is no memory for it, none while a store must wait
(07 R211). -/
def State.buildTables (s : State) (part : Fin 16) (p : Part) (ns : BitVec 8) (g : Config) (taken : List Nat) : Option (Option State) :=
  match s.rootFrames p taken with
  | none => some none
  | some f =>
    let root := f * 0x200000
    let t : State := { s.zeroFill part root 0x1000000 with roots := (s.roots.filter fun r => r.1 ≠ ns) ++ [(ns, root)] }
    (t.mapPages part root ((g.globals.map fun c => c.1 / 0x10000 * 0x10000).eraseDups)).bind fun r => match r with
      | some u => (u.writeGlobals part root g).map some
      | none => some none

/-- The image of a context that has not run. -/
def State.firstImage (s : State) (g : Config) : Image :=
  { cores := g.cores.map fun n => (n, (s.freshCore n).install g n), routers := [], msgs := [], reqs := [], walks := []
    mib := (Sys2Proof.Config.freeWord s.ticket).setWidth 16 }

/-- The source that a port's messages have: its router's port 5 (R85, R121). -/
def State.fromPort (s : State) (n : Fin 16) (m : Msg) : State := s.emit (ingressRouter n) 5 { m with source := ingressSource (ingressRouter n) }

/-- A configuration write for each router of a partition, to its shadow plane, by the router of the port whose stream the loader holds (03 R103, log 30). -/
def State.writePlane (s : State) (n : Fin 16) (plane : Bool) (l : List Nat) : State :=
  l.foldl (fun t r => t.fromPort n { cls := 1, cpl := plane, source := 0, body := .configWrite plane r }) s

/-- Step 8: into the shadow plane where no context of the partition runs, by configuration writes, at whose end the OPEN completes; else into the context's
image (04 R122, 16 R419). -/
def State.installCfg (s : State) (n : Fin 16) (a : OpenArgs) (p : Part) (g : Config) (frames : List Nat) (keep : Option Config × List Gate)
    (rep : List Byte) : State :=
  let base : Ctx := { Ctx.reset with part := a.part, ns := a.ns, tdi := ⟨a.tdi % 17, by omega⟩, frames }
  if (s.ctxIn a.part .running).isSome then
    let t := s.onCtx a.ctx fun _ => { base with state := .parked, cfg := some g, gates := g.gates a.ctx, image := some (s.firstImage g) }
    ({ t with ticket := s.ticket + 1 } : State).opened n a.ctx rep
  else
    let new := !s.activePlane p
    let t := (s.onPart a.part fun _ => { p.setActive new g with writes := p.routers, complete := false, drained := false, clean := none }).onCtx a.ctx fun _ =>
      { base with state := .loading, cfg := keep.1, gates := keep.2, next := some g }
    (t.writePlane n new p.routers).onIng n fun x => { x with loading := true, report := some (a.ctx, a.part, rep) }

/-- Steps 6 to 8 with a configuration on its placement; none while a store must wait. -/
def State.takeIn (s : State) (n : Fin 16) (a : OpenArgs) (p : Part) (b : Binary) (m : Config × Placement × Bool) (keep : Option Config × List Gate) :
    Option State :=
  let g := m.1
  let key := s.mapKey p a.pfx (b.config Placement.none_)
  let s := s.keepPlacement key m.2.1
  let no := fun (code index : Nat) => some (s.refuseWith n a.part (s.subst g) (boolBit m.2.2) code index)
  if b.placedBad p m.2.1 g then no 0x0A (b.badIndex g (g.penBad b.buffers))
  else if s.overCapacity p g then no 5 noRecord
  else if g.backBad then no 0x0B (g.backIndex b.bytes)
  else if g.rateReject then no 6 (g.rateIndex b.bytes)
  else if g.unseeded then no 7 (g.cycleIndex b.bytes)
  else
    match s.imageAt p a.tdi g with
    | none => no (if a.tdi = 0 then 5 else 8) noRecord
    | some frames =>
      (s.buildTables a.part p a.ns g frames).bind fun r => match r with
        | none => no 5 noRecord
        | some t => (t.part a.part).bind fun q =>
          let u := t.installCfg n a q g frames keep (s.reportOf g 0 (boolBit m.2.2))
          some { u with meas := u.meas.set 7 (Sys2Proof.Config.measure u.meas[7] (Sys2Proof.Config.sha384 b.bytes)) }

/-- The loader's steps, in order, each refusing where it fails (04 R122); none while a store must wait. -/
def State.load (s : State) (n : Fin 16) (a : OpenArgs) (keep : Option Config × List Gate) : Option State :=
  let no := fun (code index : Nat) => some (s.refuse n a.part code index)
  match s.store.find? fun x => x.1 = a.pfx with
  | none => no 1 noRecord
  | some (_, b) =>
    let g := b.config Placement.none_
    if (Sys2Proof.Config.sha384 b.bytes).extractLsb' 256 128 ≠ digestPrefix a.pfx then no 2 noRecord
    else if b.malformed.isSome then no 0x0A (b.malformed.getD noRecord)
    else if b.recordsBad then no 0x0A (b.badIndex g g.taskBad)
    else if s.ctxs[a.ctx].state ≠ .empty then no 9 noRecord
    else if !s.tdiOk a.tdi then no 8 noRecord
    else if s.unitLacks b g then no 4 noRecord
    else if b.sigBad.isSome then no 3 (b.sigBad.getD noRecord)
    else
      match s.part a.part with
      | none => no 5 noRecord
      | some p =>
        if s.coresOf p < b.needs ∨ s.slicesOf p = 0 then no 5 noRecord
        else
          match s.placed p b a.pfx a.ns with
          | none => no 5 noRecord
          | some m => s.takeIn n a p b m keep

/-- No configuration waits in a partition's shadow plane. -/
def State.noShadow (s : State) (part : Fin 16) : State :=
  s.onPart part fun q => { q with complete := false, drained := false, clean := none }

/-- OPEN at a port: the context is resident with that configuration, or it is loaded. A context that ran keeps its gates under the old
plane until the swap (16 R419). -/
def State.openAt (s : State) (n : Fin 16) (a : OpenArgs) : Option State :=
  let k := s.ctxs[a.ctx]
  match k.matches_ a, k.resident with
  | true, some g => some (s.opened n a.ctx (s.reportOf g 1 0))
  | _, _ =>
    if s.replaces a then
      if (k.state = .running ∨ k.state = .loading) ∧ k.part = a.part then
        (((s.onCtx a.ctx fun _ => Ctx.reset).dropRoot k.ns).load n a (k.cfg, k.gates)).map fun t =>
          if t.ctxs[a.ctx].state = .empty then (t.clearPart k.part).noShadow k.part else t
      else ((if k.state = .loading then s.noShadow k.part else s).emptyCtx a.ctx).load n a (none, [])
    else s.load n a (none, [])

/-- An OPEN whose configuration writes are on their way completes with the last of them (03 R103, 04 R122). -/
def State.finishOpen (s : State) (n : Fin 16) (r : Fin 8 × Fin 16 × List Byte) : Option State :=
  if (s.part r.2.1).any fun p => !p.writes.isEmpty then none else some (s.opened n r.1 r.2.2)

/-- OPEN (04 R122): while the loader cannot begin, LOADING is set and the entry stays. -/
def evOpenCfg (port : Fin 16) (s : State) : Option State :=
  match s.ing[port].report with
  | some r => s.finishOpen port r
  | none =>
    (s.entryOf port 1).bind fun e =>
      if s.ing[port].skipping then some (s.consume port 1)
      else
        let a := openArgs e
        if s.ctxs[a.ctx].matches_ a || !s.loaderWaits a then s.openAt port a
        else if s.ing[port].loading then none
        else some (s.onIng port fun g => { g with loading := true })

/-! ## ARG, INJECT, GO, CLOSE (04 R120, R121, R431) -/

/-- Argument words from an index on, those past 255 discarded. -/
def setArgs (l : List (Nat × BitVec 32)) (first : Nat) (ws : List Nat) : List (Nat × BitVec 32) :=
  (List.zip (List.range ws.length) ws).foldl (fun x w => if first + w.1 < 256 then assocSet x (first + w.1) (BitVec.ofNat 32 w.2) else x) l

/-- The stream's context is on its way out: the port consumes no entry for it (05 Table 5-8). -/
def State.leaving (s : State) (n : Fin 16) : Bool := !s.ing[n].skipping && (s.ing[n].stream).any fun k => s.ctxs[k].state == .saving

/-- ARG (04 R121). -/
def evArg (port : Fin 16) (s : State) : Option State :=
  match s.entryOf port 2 with
  | none => none
  | some e =>
    match s.ing[port].skipping, s.ing[port].stream with
    | false, some k =>
      if s.leaving port then none
      else some ((s.onCtx k fun c => { c with args := setArgs c.args (el e 14) (e.take 14) }).consume port 1)
    | _, _ => some (s.consume port 1)

/-- Data entries of an INJECT. -/
def injectEntries (e : List Nat) : Nat :=
  let n := tokensPerFlit (Fmt.ofCode (bits (el e 2) 16 4))
  (el e 3 % 256 + 1 + n - 1) / n

/-- The tile of an INJECT: one burst, every element valid (04 R121, 03 R80). -/
def State.injected (s : State) (g : Ingress) (e : List Nat) : Tile :=
  let fmt := Fmt.ofCode (bits (el e 2) 16 4)
  let n := tokensPerFlit fmt
  let size := tokBytes fmt
  { name := BitVec.ofNat 64 (el e 0 + el e 1 * 2 ^ 32), tag := BitVec.ofNat 16 (el e 2), back := bits (el e 2) 20 1 == 1, live := false
    bursts := [{ scale := BitVec.ofNat 8 (bits (el e 3) 8 8), fmt, eos := false
                 tokens := (List.range (el e 3 % 256 + 1)).map fun j =>
                   { ev := BitVec.allOnes 16, bits := BitVec.ofNat 512 (leNat (((s.entryBytes g (1 + j / n)).drop (j % n * size)).take size)) } }] }

/-- A tile enters at a port's router as that router's own. -/
def State.publishAt (s : State) (p : Fin 16) (t : Tile) : State :=
  let n := ingressRouter p
  let m : Msg := { cls := 0, cpl := (s.router n).plane, source := ingressSource n, body := .publication t none }
  let u := s.fromPort p m
  if t.back then u.backCopy n m t else u

/-- What a stream's context lets an INJECT or a GO do. -/
inductive Gatekeep where
  | act | wait | discard
  deriving DecidableEq, Repr

/-- INJECT by the context's state (04 Table 4-12). -/
def CtxState.inject : CtxState → Gatekeep
  | .running => .act | .faulted => .discard | .empty => .discard | _ => .wait

/-- GO by the context's state (04 Table 4-12). -/
def CtxState.go : CtxState → Gatekeep
  | .running => .act | .parked => .act | .faulted => .discard | .empty => .discard | _ => .wait

/-- The port holds its head entry. -/
def State.holdEntry (s : State) (n : Fin 16) : Option State :=
  if s.ing[n].holding then none else some (s.onIng n fun g => { g with holding := true })

/-- An INJECT at the head of a port, its data entries written. -/
def State.injectAt (s : State) (n : Fin 16) (k : Fin 8) (e : List Nat) : Option State :=
  let len := 1 + injectEntries e
  if s.ing[n].unread < len then none
  else
    match s.ctxs[k].state.inject with
    | .act => some ((s.publishAt n (s.injected s.ing[n] e)).consume n len)
    | .wait => s.holdEntry n
    | .discard => some ((s.consume n len).ingErr n 0x0F)

/-- An INJECT of a stream that is discarded, with its data entries once they are written; one of no format has none. -/
def State.passInject (s : State) (n : Fin 16) (e : List Nat) : Option State :=
  let len := if bits (el e 2) 16 4 < 10 then 1 + injectEntries e else 1
  if s.ing[n].unread < len then none else some (s.consume n len)

/-- INJECT (04 R121, R431). -/
def evInject (port : Fin 16) (s : State) : Option State :=
  match s.entryOf port 3 with
  | none => none
  | some e =>
    match s.ing[port].skipping, s.ing[port].stream with
    | false, some k => if s.ing[port].holding then none else s.injectAt port k e
    | _, _ => s.passInject port e

/-! ## Binding arguments (10 R301) -/

/-- An argument word, and two as arg64 reads them. -/
def Ctx.arg (k : Ctx) (i : Nat) : Nat := ((assoc k.args i).getD 0).toNat
def Ctx.arg64 (k : Ctx) (i : Nat) : Nat := k.arg i + k.arg (i + 1) * 2 ^ 32

/-- The argument word of a binding that cannot be: a count of 0, a BASE beyond bit 51. -/
def Ctx.badArg (k : Ctx) (b : Nat × ArgTarget) : Option Nat :=
  match b.2 with
  | .count _ _ => if k.arg b.1 % 2 ^ 16 = 0 then some b.1 else none
  | .dirBase _ => if 2 ^ 52 ≤ k.arg64 b.1 then some (b.1 + 1) else none
  | _ => none

/-- The task a binding writes. -/
def ArgTarget.task : ArgTarget → Option Nat
  | .lo t _ => some t | .step t _ => some t | .count t _ => some t | .subOff t _ _ => some t | .pubOff t _ _ => some t
  | .dirBase _ => none | .dirScale _ => none

/-- A list with one of its elements changed. -/
def changeAt {α : Type} (l : List α) (i : Nat) (f : α → α) : List α :=
  match l[i]? with
  | some x => l.set i (f x)
  | none => l

/-- A task changed by its number. -/
def Config.onTask (g : Config) (n : Nat) (f : Task → Task) : Config := { g with tasks := g.tasks.map fun t => if t.num = n then f t else t }

/-- A coordinate's offset changed in a record. -/
def NameRec.setOff (r : NameRec) (c : Nat) (x : Int) : NameRec := { r with coords := changeAt r.coords c fun y => { y with off := x } }

/-- One binding written: values modulo the field's width (10 R301). A directory entry rewritten is no longer BAD or verified (02 R65). -/
def Config.bindArg (g : Config) (k : Ctx) (b : Nat × ArgTarget) : Config :=
  let v := sextNat (k.arg b.1) 16
  match b.2 with
  | .lo t l => g.onTask t fun x => { x with levels := changeAt x.levels l fun y => { y with lo := v } }
  | .step t l => g.onTask t fun x => { x with levels := changeAt x.levels l fun y => { y with step := v } }
  | .count t l => g.onTask t fun x => { x with levels := changeAt x.levels l fun y => { y with count := k.arg b.1 % 2 ^ 16 } }
  | .subOff t r c => g.onTask t fun x => { x with subs := changeAt x.subs r fun y => y.setOff c v }
  | .pubOff t r c => g.onTask t fun x => { x with pubs := changeAt x.pubs r fun y => y.setOff c v }
  | .dirBase d => { g with dirs := changeAt g.dirs d fun e => { e with base := k.arg64 b.1 % 2 ^ 52, bad := false, verified := [] } }
  | .dirScale d => { g with dirs := changeAt g.dirs d fun e => { e with scale := k.arg64 b.1 % 2 ^ 52, bad := false, verified := [] } }

/-- The task is of one of some graphs. -/
def Config.inGraphs (g : Config) (l : List Nat) (task : Nat) : Bool := g.tasks.any fun t => t.num == task && l.contains t.graph

/-- Bindings that a GO of some graphs writes: those of their tasks, and those of the directory. -/
def Config.bindings (g : Config) (l : List Nat) : List (Nat × ArgTarget) := g.args.filter fun b => (b.2.task).elim true (g.inGraphs l)

/-! ## GO (04 R121, R431, 05 R168, R171) -/

/-- The graphs of a mask, a replaced one by what replaces it (10 R305). -/
def Config.graphsOf (g : Config) (mask : Nat) : List (Fin 16) :=
  (((List.finRange 16).filter fun i => bits mask i.val 1 == 1).map fun i => ⟨((assoc g.graphs i.val).getD i.val) % 16, Nat.mod_lt _ (by decide)⟩).eraseDups

/-- A gate whose graph is marked runnable: its walker at ordinal 0, its store empty (05 R168). -/
def Gate.reopened (g : Gate) : Gate :=
  { g with
    runnable := true, nextOrd := 0, nextReady := 0, iters := [], store := [], copies := 0, released := [], asked := [], passed := 0, promoted := none
    live := [], closed := [], retired := 0, triggered := 0, eos := [], eosDone := [], ended := [], arrived := [], holdTags := [], cbar := [], completed := false }

/-- A message to a gate that belongs to the run before: a trigger not yet counted. -/
def staleAt (ctx : Fin 8) (g : Config) (l : List Nat) (f : Flying) : Bool :=
  match f.msg.body with
  | .control i (.trigger _ _) => i.ctx == ctx && g.inGraphs l i.task
  | _ => false

/-- Seeds that graphs publish, each from the gate of the lowest task that publishes its tensor (05 R433). -/
def Config.seedsOf (g : Config) (l : List Nat) : List (Nat × Tile) :=
  g.seeds.filterMap fun x => (bestOf (fun a b => decide (a.num < b.num)) (g.publishers (tensorOf x.name))).bind fun t =>
    if l.contains t.graph then some (t.gate, x) else none

/-- A seed as it leaves the gate's router. -/
def seedMsg (cpl : Bool) (n : Nat) (t : Tile) : Flying := { place := .source n 0, msg := { cls := 0, cpl, source := n, body := .publication t none } }

/-- Graphs of a context are marked runnable: arguments bound, walkers reopened, seeds published. -/
def State.runGraphs (s : State) (k : Fin 8) (g : Config) (l : List (Fin 16)) : State :=
  let c := s.ctxs[k]
  let nums := l.map (·.val)
  let h := (g.bindings nums).foldl (fun x b => x.bindArg c b) g
  let mine := fun (x : Gate) => h.inGraphs nums x.id.task
  let d : Ctx :=
    { c with cfg := some h, gates := c.gates.map fun x => if mine x then x.reopened else x
             runnable := c.runnable ++ l.filter (fun x => !c.runnable.contains x), doneG := c.doneG.filter fun x => !l.contains x }
  let seeds := fun (cpl : Nat → Bool) => (h.seedsOf nums).map fun x => seedMsg (cpl x.1) x.1 x.2
  let t :=
    if c.state = .running then
      let t := { s with msgs := (s.msgs.filter fun f => !staleAt k h nums f) ++ seeds fun n => (s.router n).plane }
      match t.part c.part with
      | some p => (t.onPart c.part fun q => q.setActive (s.activePlane p) h).onCtx k fun _ => d
      | none => t.onCtx k fun _ => d
    else s.onCtx k fun _ =>
      { d with image := c.image.map fun i => { i with msgs := (i.msgs.filter fun f => !staleAt k h nums f) ++ seeds fun _ => false } }
  l.foldl (fun x i => x.finishGraph k i.val) t

/-- A PARKED context of a partition in which none is RUNNING is restored at once; while another is on its way to or from the wafer, after that
(04 R127, R131, log 31). -/
def State.restoreIdle (s : State) (k : Fin 8) : State :=
  let c := s.ctxs[k]
  if c.state = .parked ∧ (s.ctxIn c.part .running).isNone then (s.onCtx k fun x => { x with wanted := true }).beginRestore c.part else s

/-- GO on a context with a configuration: a bad argument makes it FAULTED, with event 0x4B (10 R301). -/
def State.goWith (s : State) (k : Fin 8) (mask : Nat) : State :=
  match s.ctxs[k].cfg with
  | none => s
  | some g =>
    let l := g.graphsOf mask
    match (g.bindings (l.map (·.val))).findSome? s.ctxs[k].badArg with
    | some i => (s.faultCtx k).raisePart 0x4B s.ctxs[k].part (i % 256)
    | none => (s.runGraphs k g l).restoreIdle k

/-- A GO at the head of a port. -/
def State.goAt (s : State) (n : Fin 16) (k : Fin 8) (e : List Nat) : Option State :=
  match s.ctxs[k].state.go with
  | .act => some ((s.goWith k (el e 0)).consume n 1)
  | .wait => s.holdEntry n
  | .discard => some ((s.consume n 1).ingErr n 0x0F)

/-- GO (04 R121, R431). -/
def evGo (port : Fin 16) (s : State) : Option State :=
  match s.entryOf port 4 with
  | none => none
  | some e =>
    match s.ing[port].skipping, s.ing[port].stream with
    | false, some k => if s.ing[port].holding then none else s.goAt port k e
    | _, _ => some (s.consume port 1)

/-- HELD_ENTRY_RESUME (04 R431): a held INJECT or GO takes effect once its context's state lets it. -/
def evHeldEntryResume (port : Fin 16) (s : State) : Option State :=
  match s.entry port, s.ing[port].stream with
  | some e, some k =>
    if !s.ing[port].holding then none
    else if kindOf e = 3 then s.injectAt port k e
    else if kindOf e = 4 then s.goAt port k e
    else none
  | _, _ => none

/-- CLOSE (04 R119). -/
def evClose (port : Fin 16) (s : State) : Option State :=
  match s.entryOf port 5 with
  | none => none
  | some _ => if s.leaving port then none else some ((s.consume port 1).onIng port fun g => { g with stream := none, skipping := false })

/-- INVALID_ENTRY (04 R120): the port stops behind the entry in error; in a discarded stream it is discarded too. -/
def evInvalidEntry (port : Fin 16) (s : State) : Option State :=
  match s.entry port with
  | none => none
  | some e =>
    if s.ing[port].skipping then
      if 1 ≤ kindOf e ∧ kindOf e ≤ 5 then none else some (s.consume port 1)
    else if entryOk e s.ing[port].stream.isSome || s.leaving port then none
    else some (((s.consume port 1).ingErr port 0x0D).onIng port fun g => { g with stopped := true })

/-! ## Registers of the window (04 Tables 4-1, 4-2, 4-7, 03 Table 3-14) -/

/-- TAIL_WRITE (04 R118). -/
def evTailWrite (port : Fin 16) (tail : BitVec 32) (s : State) : Option State :=
  let g := s.ing[port]
  if g.size < (tail - g.head).toNat then some (s.ingErr port 0x0E) else some (s.onIng port fun x => { x with tail })

/-- RING_WRITE (04 R118). -/
def evRingWrite (port : Fin 16) (value : BitVec 64) (s : State) : Option State :=
  if s.ing[port].head ≠ s.ing[port].tail then some (s.ingErr port 0x0C)
  else some (s.onIng port fun x => { x with base := value.extractLsb' 12 52, log2sz := value.extractLsb' 0 4 })

/-- ERR_CLEAR (04 R120): 1 written to ERR. -/
def evErrClear (port : Fin 16) (s : State) : Option State :=
  some (s.onIng port fun g => { g with err := false, stopped := false })

/-- A write of a PREEMPT_CTL: NEXT_CTX while no switch stands; CANCEL, then ARM: the manual does not say which of the two acts first in a write that has
both (log 30). -/
def State.writePreempt (s : State) (p : Fin 16) (v : Nat) : State :=
  let t := if s.preempt[p].open_ then s.onPreempt p fun q => { q with next := ⟨bits v 8 3, Nat.mod_lt _ (by decide)⟩ } else s
  let t := if bits v 1 1 = 1 then (evCancel p t).getD t else t
  if bits v 0 1 = 1 then (evArm p t).getD t else t

/-- A write of QD_CTL. -/
def State.writeQdCtl (s : State) (v : Nat) : State :=
  let t := { s with qdPart := BitVec.ofNat 8 (bits v 16 8), congExp := BitVec.ofNat 5 (bits v 6 5) }
  if bits v 0 1 = 1 ∧ bits v 16 8 < 16 then (t.startProbe ⟨bits v 16 4, Nat.mod_lt _ (by decide)⟩ true).getD t else t

/-- STATUS of a PREEMPT_CTL, and STATE of a CTX_STATE, as they are coded (04 Tables 4-6, 4-7). -/
def SwStatus.code : SwStatus → Nat
  | .idle => 0 | .armed => 1 | .committed => 2 | .switching => 3 | .done => 4 | .late => 5 | .notReady => 6
def CtxState.code : CtxState → Nat
  | .empty => 0 | .loading => 1 | .parked => 2 | .running => 3 | .saving => 4 | .restoring => 5 | .faulted => 6

/-- The words of an ingress port, a switch, a context, an interface. -/
def Ingress.words (g : Ingress) : List Nat :=
  [g.base.toNat * 4096 + g.log2sz.toNat, g.head.toNat * 2 ^ 32 + g.tail.toNat, g.code.toNat * 2 ^ 56 + boolBit g.loading * 2 + boolBit g.err]
def Preempt.words (q : Preempt) : List Nat := [q.at_.toNat, q.status.code * 2 ^ 16 + q.next.val * 2 ^ 8]
def Ctx.word (k : Ctx) : Nat :=
  (k.image.elim 0 fun i => i.mib.toNat) * 2 ^ 48 + k.ns.toNat * 2 ^ 24 + k.tdi.val * 2 ^ 16 + k.part.val * 2 ^ 8 + k.state.code
def State.tdiWord (s : State) (i : Fin 16) : Nat :=
  let x := s.tdis[i]
  x.cause.val * 2 ^ 32 + s.keys i * 2 ^ 16 + (x.debug : Fin 3).val * 2 ^ 10 + boolBit x.live * 2 ^ 8 + x.consent.val * 2 ^ 4 + x.state.code

/-- What a read of the wafer register window returns (00 R13, 04 Table 4-1): a WO field reads zero, and so does an offset that is not listed. VERDICT's
read clears it (VERDICT_READ). -/
def State.windowRead (s : State) (offset : BitVec 16) : Word :=
  let o := offset.toNat
  let row := fun (base step n : Nat) => (o - base) / step % n
  BitVec.ofNat 64 <|
    if o % 8 ≠ 0 then 0
    else if o = 0 then s.healthReg.toNat
    else if o = 0x100 then s.qdBase.toNat * 4096 + s.qdCount.toNat
    else if o = 0x108 then s.qdPart.toNat * 2 ^ 16 + s.congExp.toNat * 2 ^ 6 + s.verdict.val * 2 ^ 3
    else if 0x1000 ≤ o ∧ o < 0x1200 then (s.ing[row 0x1000 0x20 16]'(Nat.mod_lt _ (by decide))).words.getD ((o - 0x1000) % 0x20 / 8) 0
    else if 0x2000 ≤ o ∧ o < 0x2100 then (s.preempt[row 0x2000 0x10 16]'(Nat.mod_lt _ (by decide))).words.getD ((o - 0x2000) % 0x10 / 8) 0
    else if 0x2100 ≤ o ∧ o < 0x2140 then (s.ctxs[row 0x2100 8 8]'(Nat.mod_lt _ (by decide))).word
    else if 0x3008 ≤ o ∧ o < 0x3088 then s.tdiWord ⟨row 0x3008 8 16, Nat.mod_lt _ (by decide)⟩
    else if 0x4000 ≤ o ∧ o < 0x4200 ∧ (o - 0x4000) % 0x40 < 48 then
      leNat (((Sys2Proof.Config.digestBytes (s.meas[row 0x4000 0x40 8]'(Nat.mod_lt _ (by decide)))).drop ((o - 0x4000) % 0x40)).take 8)
    else 0

/-- The steward reads and writes physical memory as an agent, subject to the region keys (04 R117): no step of the opcode table, and none while a line
must wait. A page of no partition is its own; an address whose region holds no key is refused. -/
def State.stewardRead (s : State) (part : Fin 16) (pa n : Nat) : Option (State × List Byte) :=
  if (List.range n).any fun i => s.keyGone (pa + i) then none
  else (s.readEvent .steward part ((List.range n).map fun i => pa + i)).map fun r =>
    (r.1, (r.1.view (linesOf ((List.range n).map fun i => pa + i))).bytes pa n)
def State.stewardWrite (s : State) (part : Fin 16) (pa : Nat) (l : List Byte) : Option State :=
  if (List.range l.length).any fun i => s.keyGone (pa + i) then none
  else (s.writeEvent .steward part (cellsAt pa l)).map (·.1)

/-- REGISTER_WRITE (00 R13, 04 Table 4-1): the RW fields of the register at an offset; a write of any other offset is ignored. -/
def evRegisterWrite (offset : BitVec 16) (value : BitVec 64) (s : State) : Option State :=
  let o := offset.toNat
  let v := value.toNat
  if o = 0x100 then some { s with qdBase := value.extractLsb' 12 52 }
  else if o = 0x108 then some (s.writeQdCtl v)
  else if 0x1000 ≤ o ∧ o < 0x1200 then
    let n : Fin 16 := ⟨(o - 0x1000) / 0x20 % 16, Nat.mod_lt _ (by decide)⟩
    if o % 0x20 = 0 then evRingWrite n value s
    else if o % 0x20 = 8 then evTailWrite n (value.setWidth 32) s
    else if o % 0x20 = 0x10 then (if bits v 0 1 = 1 then evErrClear n s else some s)
    else some s
  else if 0x2000 ≤ o ∧ o < 0x2100 then
    let p : Fin 16 := ⟨(o - 0x2000) / 0x10 % 16, Nat.mod_lt _ (by decide)⟩
    if o % 0x10 = 0 then some (if s.preempt[p].open_ then s.onPreempt p fun q => { q with at_ := value } else s)
    else if o % 0x10 = 8 then some (s.writePreempt p v)
    else some s
  else some s

def execOpenCfg (port : Fin 16) (s : State) : Host.Outcome State Fault Refusal := event (evOpenCfg port s) s
def execArg (port : Fin 16) (s : State) : Host.Outcome State Fault Refusal := event (evArg port s) s
def execInject (port : Fin 16) (s : State) : Host.Outcome State Fault Refusal := event (evInject port s) s
def execGo (port : Fin 16) (s : State) : Host.Outcome State Fault Refusal := event (evGo port s) s
def execClose (port : Fin 16) (s : State) : Host.Outcome State Fault Refusal := event (evClose port s) s
def execInvalidEntry (port : Fin 16) (s : State) : Host.Outcome State Fault Refusal := event (evInvalidEntry port s) s
def execHeldEntryResume (port : Fin 16) (s : State) : Host.Outcome State Fault Refusal := event (evHeldEntryResume port s) s
def execTailWrite (port : Fin 16) (tail : BitVec 32) (s : State) : Host.Outcome State Fault Refusal := event (evTailWrite port tail s) s
def execRingWrite (port : Fin 16) (value : BitVec 64) (s : State) : Host.Outcome State Fault Refusal := event (evRingWrite port value s) s
def execErrClear (port : Fin 16) (s : State) : Host.Outcome State Fault Refusal := event (evErrClear port s) s
def execRegisterWrite (offset : BitVec 16) (value : BitVec 64) (s : State) : Host.Outcome State Fault Refusal :=
  event (evRegisterWrite offset value s) s

end Sys2Proof.Machine
end

