-- ==== Sys2Proof/Machine/Service.lean ====
section
/-! DEFINITION. Sys2Proof/Machine/Service.lean: scrubbing, roving self-test, failures in service and configuration restarts (00 R4, 01 R33 to R43,
02 R51, R69, 07 R215, 08 R250). -/

namespace Sys2Proof.Machine

/-! ## Errors (01 R37 to R39) -/

/-- A core's word is recorded as in error. -/
def Core.recordBad (c : Core) (w : Nat) : Core := { c with badWords := if c.badWords.contains w then c.badWords else c.badWords ++ [w] }

/-- A core's register is in error until it is written; s0 holds nothing (06 R180). -/
def Core.recordBadReg (c : Core) (r : FullReg) : Core :=
  if r = .s 0 ∨ c.regs.bad.contains r then c else { c with regs := { c.regs with bad := c.regs.bad ++ [r] } }

/-- What an uncorrectable error does where it lies: a word is recorded, a mirror entry goes, a router holds the traffic of an entry of its active
plane, a line of memory is in error until it is rewritten (01 R39, 02 R46). -/
def State.uncorrectable (s : State) : ScrubSite → State
  | .scratchpad n a => match s.core n with
    | some c => if a < windowEnd then s.setCore n (c.recordBad (a / 8 * 8)) else s
    | none => s
  | .accumulator n w => match s.core n with
    | some c => s.setCore n (c.recordBad (windowEnd + 8 * w.val))
    | none => s
  | .register n r => match s.core n with
    | some c => s.setCore n (c.recordBadReg r)
    | none => s
  | .mirror n i => s.onRouter n fun r => { r with mirror := r.mirror.eraseIdx i }
  | .configEntry n e => s.onRouter n fun r => { r with badEntries := if r.badEntries.contains e then r.badEntries else r.badEntries ++ [e] }
  | .memory a => { s with eccBad := joined s.eccBad [a / 128] }

/-- The counter that counts a site's corrected errors: its core's, or the rim agent's whose stack or deep-tier link holds the address
(01 R37, 02 R45, R68). -/
def State.siteUnit (s : State) : ScrubSite → ErrUnit
  | .scratchpad n _ => .core n
  | .accumulator n _ => .core n
  | .register n _ => .core n
  | .mirror n _ => .core n
  | .configEntry n _ => .core n
  | .memory a => .agent (if deepBase ≤ a then ⟨3 * (s.linkOfDeep a).val, by omega⟩ else ⟨a / 4096 % 24, by omega⟩)

/-- SCRUB_LINE (01 R37 to R39): an error found is corrected and counted, or is uncorrectable. -/
def evScrubLine (at_ : ScrubSite) (bad : Bool) (s : State) : Option State :=
  some (if bad then s.uncorrectable at_ else s.corrected (s.siteUnit at_))

/-- CONFIG_ENTRY_REWRITTEN (01 R39): the oldest of the router's entries in error. -/
def evConfigEntryRewritten (router : Nat) (s : State) : Option State :=
  if (s.router router).badEntries.isEmpty then none
  else
    let t := s.onRouter router fun r => { r with badEntries := r.badEntries.tail }
    some { t with mgmt := t.mgmt ++ [.configEntry router] }

/-! ## Roving self-test (01 R33 to R36): a core by its number, the spare of row r as 12,960 + r (log 31) -/

/-- The row of a spare by its test number. -/
def spareRow (n : Nat) : Option Nat :=
  if Sys2Proof.Config.cores ≤ n ∧ n < Sys2Proof.Config.cores + 864 then some (n - Sys2Proof.Config.cores) else none

/-- The core a test number names: a spare in service by the logical core it holds (01 R21). -/
def State.testNum (s : State) (n : Nat) : Nat :=
  match spareRow n with
  | some r => (s.inForce.map.logicalOf (spareOf r)).getD n
  | none => n

/-- Logical cores that borrow from the spare of a row. -/
def State.borrowers (s : State) (row : Nat) : List Nat :=
  (s.inForce.map.loans.filter fun l => l.2.1 = row).filterMap fun l => s.inForce.map.logicalOf l.1

/-- The cores a test takes out: the core itself, or the borrowers of a spare. -/
def State.tested (s : State) (n : Nat) : List Nat :=
  match spareRow n with
  | some r => s.borrowers r
  | none => [n]

/-- Cores changed. -/
def State.onCores (s : State) (l : List Nat) (f : Nat → Core → Core) : State := l.foldl (fun t n => t.setCore n (f n (t.coreOr n))) s

/-- The physical core of a test number. -/
def State.physical (s : State) (n : Nat) : Nat :=
  match spareRow n with
  | some r => spareOf r
  | none => s.inForce.map.physOf n

/-- The core is out of service for good: its physical core is recorded dead, or it has failed in service (01 R36, 08 R250). -/
def State.outForGood (s : State) (n : Nat) (c : Core) : Bool := c.failed || s.health.dead.contains (s.physical n)

/-- The core can be tested: it is there, and neither dead nor failed. -/
def State.testable (s : State) (n : Nat) : Bool :=
  decide (n < Sys2Proof.Config.cores + 864) && !(s.health.with_ s.defects).isDead (s.physical n) && !s.holes.contains n

/-- A core is idle (01 R34): no firing, none staged, and no herd it is in unretired. -/
def State.idle (s : State) (n : Nat) : Bool :=
  let c := s.coreOr n
  c.firing.isNone && c.stagedF.isEmpty && (s.herdOf n).isNone

/-- Some core is under test. -/
def State.anyTest (s : State) : Bool := (s.cores.any fun x => x.2.testing) || s.spareTest.any fun x => x.2.1 == 2

/-- The record of a spare's test. -/
def State.spareOut (s : State) (row : Nat) : Fin 3 × Nat := (assoc s.spareTest row).getD (0, 0)

/-- The core is withdrawn for its test, which has not begun. -/
def State.waitsTest (s : State) (n : Nat) : Bool := (assoc s.withdrawals n).isSome

/-- Cores withdrawn, and the time noted (01 R34). -/
def State.withdraw (s : State) (n : Nat) : State :=
  let t := s.onCores (s.tested n) fun _ c => { c with withdrawn := true }
  { t with withdrawals := assocSet t.withdrawals n t.wcc }

/-- Cores returned to service, but for those out for good, and the withdrawal over. -/
def State.readmit (s : State) (n : Nat) : State :=
  let t := s.onCores (s.tested n) fun m c => { c with withdrawn := s.outForGood m c }
  { t with withdrawals := dropKey t.withdrawals n }

/-- SELFTEST_WITHDRAW (01 R34): no new firing is dispatched to it. -/
def evSelftestWithdraw (core : Nat) (s : State) : Option State :=
  let n := s.testNum core
  if !s.testable n || s.waitsTest n then none
  else
    match spareRow n with
    | some r => if (s.spareOut r).1 ≠ 0 then none else some { (s.withdraw n) with spareTest := assocSet s.spareTest r (1, (s.spareOut r).2) }
    | none => if (s.core n).any fun c => c.withdrawn then none else some (s.withdraw n)

/-- A core's contents go to the holding copy, and its test begins. -/
def Core.beginTest (c : Core) : Core := { c with testing := true, holding := some (c.spad, c.acc), skips := 0 }

/-- SELFTEST_START (01 R33): the core is idle, and no other is tested. -/
def evSelftestStart (core : Nat) (s : State) : Option State :=
  let n := s.testNum core
  if s.waitsTest n && s.testable n && !s.anyTest && (s.tested n).all s.idle then
    let t := s.onCores (s.tested n) fun _ c => c.beginTest
    let t := { t with withdrawals := dropKey t.withdrawals n }
    some (match spareRow n with
      | some r => { t with spareTest := assocSet t.spareTest r (2, 0) }
      | none => t)
  else none

/-- A test number's skips in a row, and the module with them written. -/
def State.skipsOf (s : State) (n : Nat) : Nat :=
  match spareRow n with
  | some r => (s.spareOut r).2
  | none => (s.coreOr n).skips

/-- 100 ms in reference cycles (01 R34). -/
def testPatience : Nat := 100000000

/-- The core has waited 100 ms since its withdrawal and is not idle. -/
def State.notIdleInTime (s : State) (n : Nat) : Bool :=
  (assoc s.withdrawals n).any fun t => decide (testPatience ≤ (s.wcc - t).toNat) && !(s.tested n).all s.idle

/-- SELFTEST_SKIP (01 R34): back in service; the third in a row raises an event, after which the model counts anew (log 31). -/
def evSelftestSkip (core : Nat) (s : State) : Option State :=
  let n := s.testNum core
  if s.testable n && s.notIdleInTime n then
    let k := s.skipsOf n + 1
    let m := if k = 3 then 0 else k
    let t := s.readmit n
    let t := match spareRow n with
      | some r => { t with spareTest := assocSet t.spareTest r (0, m) }
      | none => t.onCores [n] fun _ c => { c with skips := m }
    some (if k = 3 then { t with mgmt := t.mgmt ++ [.skipped n] } else t)
  else none

/-- The holding copy is written back, and the core returns to service unless it stays out (01 R33, R35). -/
def Core.endTest (c : Core) (stays : Bool) : Core :=
  match c.holding with
  | some h => { c with testing := false, holding := none, spad := h.1, acc := h.2, withdrawn := stays }
  | none => { c with testing := false, withdrawn := stays }

/-- The health record with a core dead. -/
def State.recordDead (s : State) (p : Nat) : State :=
  if s.health.dead.contains p then s else s.record { s.health with dead := s.health.dead ++ [p] }

/-- The core, or the spare, is under test. -/
def State.underTest (s : State) (n : Nat) : Bool :=
  match spareRow n with
  | some r => (s.spareOut r).1 == 2
  | none => (s.core n).any fun c => c.testing

/-- SELFTEST_DONE (01 R33, R36): a core that fails stays withdrawn and is recorded. The borrowers of a lending spare that fails return to service with
their banks until the restart; the manual does not say (log 31). -/
def evSelftestDone (core : Nat) (pass : Bool) (s : State) : Option State :=
  let n := s.testNum core
  if s.underTest n then
    let t := if pass then s else s.recordDead (s.physical n)
    let t := t.onCores (t.tested n) fun m c => c.endTest (t.outForGood m c)
    some { t with spareTest := (match spareRow n with
      | some r => dropKey t.spareTest r
      | none => t.spareTest) }
  else none

/-! ## Failure in service (08 R250) -/

/-- Every link around a router is dead. -/
def State.islanded (s : State) (n : Nat) : Bool :=
  [1, 2, 3, 4].all fun p => (linkOf n p).isNone || (s.router n).dead.contains p

/-- Which tiles of a pen store lay in a lost member: all where it is the only one, else a free choice (log 17). -/
def lostTiles (only : Bool) (ticket : Nat) (l : List PenTile) : List Pair :=
  (List.zip (List.range l.length) l).filterMap fun x =>
    if !x.2.replaced && (only || (Sys2Proof.Config.freeWord (ticket + x.1)).getLsbD 0) then some (x.2.tile.name, x.2.tile.tag) else none

/-- A gate without some tiles: the subscriptions bound to them wait again. -/
def Gate.lose (g : Gate) (l : List Pair) : Gate :=
  { g with
    store := g.store.filter fun t => t.replaced || !l.contains (t.tile.name, t.tile.tag)
    released := g.released ++ l.filter fun p => !g.released.contains p
    iters := g.iters.map fun i =>
      let subs := i.subs.map fun x => if x.2.2 == .bound && l.contains (x.1, x.2.1) then (x.1, x.2.1, SubState.waiting) else x
      { i with subs, ready := if subs.all fun x => x.2.2 != .waiting then i.ready else none } }

/-- The tiles of a failed router are lost, and asked for anew where an iteration stands on them. -/
def State.loseTiles (s : State) (n : Nat) : State :=
  let t := s.onRouter n fun r => { r with mirror := [] }
  (t.pensOf n).foldl (fun x p =>
    let l := (lostTiles (p.2.members.length == 1) x.ticket p.1.store).filter fun q => !(p.1.find q).any (x.pins p.1.id)
    let need := l.filter fun q => p.1.binds q
    let y := x.onGate p.1.id fun g => g.lose l
    need.foldl (fun z q => z.gateRequest p.1.id q) { y with ticket := y.ticket + p.1.store.length }) t

/-- FAILED_IN_SERVICE (08 R250): out of the gates' dispatch, recorded, asked to freeze; the tiles of a router cut off are lost. -/
def evFailedInService (core : Nat) (s : State) : Option State :=
  if Sys2Proof.Config.cores ≤ core ∨ (s.core core).any fun c => c.failed then none
  else
    let t := s.recordDead (s.physical core)
    let t := t.onCores [core] fun _ c => ({ c with withdrawn := true, failed := true } : Core).askFreeze
    some (if t.islanded core then t.loseTiles core else t)

/-- A firing is lost: its event, HERD_ABORT in the other ranks, counted as retired. -/
def State.loseFiring (s : State) (n : Nat) (f : Firing) : State :=
  let t := s.raiseAt 0x4C n 0 0 false 0 0 (f.task.num * 2 ^ 32 + f.tag.toNat)
  let t := if f.task.herd then (t.abortHerd f.gate f.tag (some f.rank)).closeHerd f else t
  t.countRetired f

/-- Everything a core has outstanding is cancelled. -/
def State.cancelAll (s : State) (n : Nat) : State :=
  let mine := s.reqs.filter fun r => r.agent == .core n
  let t := mine.foldl (fun x r => (x.unreserve r.id).dropFill r) s
  State.tidy { t with
    reqs := t.reqs.filter fun r => r.agent != .core n
    walks := t.walks.filter fun w => w.rim.isSome || w.core != n
    tokens := t.tokens.filter fun k => k.core != n
    backDone := t.backDone.filter fun b => b.1 != n }

/-- FREEZE_TIMEOUT (08 R250): a failed core that has not frozen loses its firings. -/
def evFreezeTimeout (core : Nat) (s : State) : Option State :=
  match s.core core with
  | none => none
  | some c =>
    if c.failed && !c.frozen && !c.out then
      let t := (s.cancelAll core).setCore core { s.vacant core c with withdrawn := true, failed := true, out := true }
      some ((c.firing.toList ++ c.stagedF).foldl (fun x f => x.loseFiring core f) t)
    else none

/-- DEEP_TIER_LOSS (02 R69): until the next restart the link's granules are in error. -/
def evDeepTierLoss (link : Fin 8) (s : State) : Option State :=
  if s.economy || s.health.cxlOut.contains link then none
  else
    let t := s.record { s.health with cxlOut := s.health.cxlOut ++ [link] }
    some { t with lostCxl := t.lostCxl ++ [link] }

/-- NEW_HEALTH_RECORD (01 R42): the one write of the record that clears REPLACE_REQUEST; reasons of the map in force show until the restart. -/
def evNewHealthRecord (rec_ : HealthRecord) (s : State) : Option State :=
  let t := ({ s with asked := false, errors := rec_.errors, throttles := rec_.throttles } : State)
  let m := t.inForce.map
  some { t.flash rec_ with
    asked := rec_.reasons
    healthReg := healthWord rec_ m.holes.length (m.freeSpares (rec_.with_ t.defects)) (errorsInHour t.errors t.wcc) false }

/-! ## Configuration restart (00 R4, 01 R43, 02 R51, R55, 07 R215) -/

/-- A slice list as the restart leaves it: of the slices it names, the first of those in service, the largest power of two of them; the list stays where
none is in service (02 R49, 01 R43). -/
def SliceList.kept (x : SliceList) (out : List (Fin 96)) : SliceList :=
  let k := x.owned.filter fun i => !out.any fun o => o.val == i.val
  let n := min 6 (Nat.log2 k.length)
  if k.isEmpty then x
  else { n := ⟨n % 8, Nat.mod_lt _ (by decide)⟩, list := Vector.ofFn fun i : Fin 64 => if i.val < 2 ^ n then (k[i.val]?).getD 0 else 0 }

/-- A partition as the restart leaves it. -/
def Part.restarted (p : Part) (out : List (Fin 96)) : Part :=
  { p with
    slices := p.slices.kept out, planeA := none, planeB := none, writes := [], complete := false, clean := none, drained := false, swap := []
    swapped := false, probe := none }

/-- Every slice written back and invalidated (02 R51, 07 R215). -/
def State.flushed (s : State) : State :=
  let l := s.slices.flatMap fun x => x.2.lines.map fun y => (x.1, y)
  l.foldl (fun t x => t.evict x.1 x.2 true) s

/-- A slice without lines; its filters are cleared where it leaves its partition. -/
def Slice.idle (x : Slice) (kept : Bool) : Slice :=
  { x with tree := [], resv := [], fills := [], filterA := if kept then x.filterA else [], filterB := if kept then x.filterB else [] }

/-- A core as the restart leaves it: sessions stay. -/
def State.restartCore (s : State) (n : Nat) (c : Core) : Core :=
  { s.freshCore n with lts := s.wcc.toNat / 128, halted := c.halted, traced := c.traced, frozen := c.halted }

/-- A context as the restart leaves it: what it had on the wafer is gone, so that it is FAULTED, and leaves as R129 says (log 31). -/
def Ctx.restarted (k : Ctx) : Ctx :=
  match k.state with
  | .empty => k
  | .parked => k
  | _ => { k with state := .faulted, image := none, runnable := [], wanted := false }

/-- A switch as the restart leaves it. -/
def Preempt.restarted (q : Preempt) : Preempt := if q.open_ then q else { q with status := .notReady, out := none, saved := false, avoid := none }

/-- Every dead link is bypassed anew, or its ends hold (03 R111). -/
def State.reroute (s : State) : State :=
  let ks := ((s.routers.flatMap fun r => r.2.dead.filterMap fun p => linkOf r.1 p).eraseDups)
  ks.foldl (fun t k => t.bypass k) { s with routers := s.routers.map fun r => (r.1, { r.2 with boxed := [], held := [] }) }

/-- The work of the module is gone, its clocks are at WCC div 128, slices are clean. -/
def State.restartWork (s : State) : State :=
  let s := s.flushed
  let parts := s.parts.map fun p => (p.1, p.2.restarted s.health.slicesOut)
  { s with
    parts
    slices := s.slices.map fun x => (x.1, x.2.idle (parts.any fun p => p.2.slices.owned.any fun k => k.val = x.1))
    cores := s.cores.map fun x => (x.1, s.restartCore x.1 x.2)
    routers := s.routers.map fun r => (r.1, { Router.reset with dead := r.2.dead, boxed := r.2.boxed, held := r.2.held })
    ctxs := s.ctxs.map Ctx.restarted, preempt := s.preempt.map Preempt.restarted
    ing := s.ing.map fun g => { g with holding := false, loading := g.report.isSome }
    msgs := [], reqs := [], walks := [], shoot := none, tokens := [], jobs := [], backDone := [], agentTlb := [], agentLts := [], lostCxl := []
    spareTest := [], withdrawals := [], started := [], focus := 0 }

/-- Namespaces that no context binds any more have no top-level table. -/
def State.dropRoots (s : State) : State := (s.roots.map (·.1)).foldl (fun t ns => t.dropRoot ns) s

/-- CONFIGURATION_RESTART (00 R4, 01 R43). -/
def evConfigurationRestart (s : State) : Option State := some ((s.remap.restartWork.dropRoots).reroute)

def execScrubLine (at_ : ScrubSite) (bad : Bool) (s : State) : Host.Outcome State Fault Refusal := event (evScrubLine at_ bad s) s
def execConfigEntryRewritten (router : Nat) (s : State) : Host.Outcome State Fault Refusal := event (evConfigEntryRewritten router s) s
def execSelftestWithdraw (core : Nat) (s : State) : Host.Outcome State Fault Refusal := event (evSelftestWithdraw core s) s
def execSelftestStart (core : Nat) (s : State) : Host.Outcome State Fault Refusal := event (evSelftestStart core s) s
def execSelftestSkip (core : Nat) (s : State) : Host.Outcome State Fault Refusal := event (evSelftestSkip core s) s
def execSelftestDone (core : Nat) (pass : Bool) (s : State) : Host.Outcome State Fault Refusal := event (evSelftestDone core pass s) s
def execFailedInService (core : Nat) (s : State) : Host.Outcome State Fault Refusal := event (evFailedInService core s) s
def execFreezeTimeout (core : Nat) (s : State) : Host.Outcome State Fault Refusal := event (evFreezeTimeout core s) s
def execDeepTierLoss (link : Fin 8) (s : State) : Host.Outcome State Fault Refusal := event (evDeepTierLoss link s) s
def execNewHealthRecord (rec_ : HealthRecord) (s : State) : Host.Outcome State Fault Refusal := outside (evNewHealthRecord rec_ s) s
def execConfigurationRestart (s : State) : Host.Outcome State Fault Refusal := event (evConfigurationRestart s) s

end Sys2Proof.Machine
end

