-- ==== Sys2Proof/Machine/Power.lean ====
section
/-! DEFINITION. Sys2Proof/Machine/Power.lean: bring-up, power states, thermal throttling, the wafer cycle counter's setting and slewing (01 R27 to R32,
04 R131, R136, R142, R143). -/

namespace Sys2Proof.Machine

/-! ## Bring-up (01 R32) -/

/-- A health record with what bring-up found at fault added; what the record has already is not listed twice (01 R32). -/
def merged (h f : HealthRecord) : HealthRecord :=
  { h with
    dead := joined h.dead f.dead, lost := joinLost h.lost f.lost, stacksOut := joined h.stacksOut f.stacksOut
    slicesOut := joined h.slicesOut f.slicesOut, cxlOut := joined h.cxlOut f.cxlOut, ethOut := joined h.ethOut f.ethOut
    deadLinks := joined h.deadLinks f.deadLinks }

/-- The firmware stages verified before one fails: its signature does not verify, or its security version is below the floor (04 R136). -/
def stagesPassed (floor : Nat) (l : List (Nat × Bool)) : Nat := (l.takeWhile fun x => x.2 && decide (floor ≤ x.1)).length

/-- The digests of the first k stages are extended into MEAS 0 to k − 1; the mapper's is stage 6 (04 R136). -/
def bootMeasured (m : Vector (BitVec 384) 8) (k : Nat) : Vector (BitVec 384) 8 :=
  Vector.ofFn fun j : Fin 8 => if j.val < k then Sys2Proof.Config.measure m[j] (Sys2Proof.Config.stageDigest j.val) else m[j]

/-- A tenant interface at bring-up: ERROR with CAUSE 4 where it was live (04 R143). -/
def Tdi.boot (x : Tdi) : Tdi :=
  { x with state := if x.live then .error else .unlocked, cause := if x.live then 4 else 0, consent := 0, debug := 0 }

/-- An IEEE 1588 time with the measured delay of the link it came by (02 R74). -/
def State.aligned (s : State) (x : SyncTime) : Word := x.time + (x.port.elim 0 fun p => lookupD 0 s.delays p)

/-- The WCC is set from IEEE 1588 time, never back; without a time an event is raised (01 R28). -/
def State.setTime (s : State) (time : Option SyncTime) : State :=
  match time with
  | some x => { s with wcc := if s.wcc < s.aligned x then s.aligned x else s.wcc, locked := true }
  | none => { s with locked := false, mgmt := s.mgmt ++ [.unlocked] }

/-- Links that the records list dead are dead to their routers. -/
def State.deadFromRecord (s : State) : State :=
  (s.health.with_ s.defects).deadLinks.foldl (fun t e => match linkOf e.1 e.2 with
    | some k => if t.linkIsDead k then t else t.killLink k
    | none => t) s

/-- Steps 4 to 8 of bring-up: failing units recorded, the core map built, the WCC set, the pager's configuration mapped to its corner. -/
def State.bringUpLate (s : State) (o : BringUpOutcome) : State :=
  let t := match o.found with
    | some f => s.record (merged s.health f)
    | none => s
  let t := (t.remap.setTime o.time).deadFromRecord
  { t with bringUp := .up, tdis := t.tdis.map Tdi.boot }

/-- POWER_GOOD (01 R32, 04 R136): the identity key is derived, the stages verified are measured; a stage that fails, or an early step, leaves the
module held in reset. The history goes on from the record, and CE_HOUR starts at 0 (01 Table 1-4). -/
def evPowerGood (o : BringUpOutcome) (s : State) : Option State :=
  if s.bringUp ≠ .notStarted then none
  else
    let t := { s with
      power := .p0, bootFloor := max s.bootFloor o.floor, identity := some Sys2Proof.Config.identityKey
      errors := s.health.errors, throttles := s.health.throttles
      healthReg := s.healthReg - BitVec.ofNat 64 (bits s.healthReg.toNat 12 16 * 2 ^ 12) }
    let k := stagesPassed t.bootFloor o.stages.toList
    let t := { t with meas := bootMeasured t.meas k }
    match if k < 7 then some 0 else o.failed with
    | some k => some { t with bringUp := .heldInReset k }
    | none => some (t.bringUpLate o)

/-! ## Power states (01 R29, R30) -/

/-- A switch is armed or committed: the steward enters neither S1 nor S3 (04 R131). -/
def State.switchStands (s : State) : Bool :=
  (List.finRange 16).any fun p => s.preempt[p].status == .armed || s.preempt[p].status == .committed

/-- The module runs. -/
def State.runs (s : State) : Bool := s.clocked

/-- The running state a throttled module has, or not. -/
def State.runState (s : State) : Power := if s.throttled then .p1 else .p0

/-- ENTER_P0: not while the module is throttled. -/
def evEnterP0 (s : State) : Option State := if s.power = .p1 ∧ s.throttled = false then some { s with power := .p0 } else none
/-- ENTER_P1. -/
def evEnterP1 (s : State) : Option State := if s.power = .p0 then some { s with power := .p1 } else none

/-- ENTER_S1: with no firing running; sessions end (04 R142). -/
def evEnterS1 (s : State) : Option State :=
  if s.runs && !s.switchStands && s.cores.all fun x => !x.2.running then some { s.endSessions with power := .s1 } else none
/-- EXIT_S1. -/
def evExitS1 (s : State) : Option State := if s.power = .s1 then some { s with power := s.runState } else none

/-- A core as S3 leaves it: out of service where it was. -/
def Core.offFrom (fresh c : Core) : Core := { fresh with withdrawn := c.withdrawn && c.failed, failed := c.failed, out := c.failed }

/-- What is kept in S3: HBM, keys and the steward's own records; the SRAM's contents are gone (01 Table 1-2, log 31). -/
def State.asleep (s : State) : State :=
  let t := s.restartWork.dropRoots
  { t with power := .s3, lostCxl := s.lostCxl
           cores := s.cores.map fun x => (x.1, (s.restartCore x.1 x.2).offFrom x.2) }

/-- ENTER_S3 (04 R131, R142). -/
def evEnterS3 (s : State) : Option State :=
  if (s.runs || s.power == .s1) && !s.switchStands then some s.endSessions.asleep else none
/-- EXIT_S3 (01 R28): the WCC is set anew. -/
def evExitS3 (time : Option SyncTime) (s : State) : Option State :=
  if s.power = .s3 then some (({ s with power := s.runState } : State).setTime time) else none

/-- S5: the module's flash and the steward's store are left (01 Table 1-2); steps already offered stay offered. -/
def State.unpowered (s : State) : State :=
  { State.reset with
    agenda := s.agenda, ticket := s.ticket, power := .s5, economy := s.economy, health := s.health, healthGen := s.healthGen
    healthReg := s.healthReg, asked := s.asked, healthSeal := s.healthSeal, defects := s.defects, store := s.store, bootFloor := s.bootFloor, modNum := s.modNum
    tdis := s.tdis.map fun x => { x with state := .unlocked, consent := 0, cause := 0, debug := 0 } }

/-- POWER_REMOVED. -/
def evPowerRemoved (s : State) : Option State := if s.power = .s5 then none else some s.unpowered
/-- AUX_POWER_FAIL (04 R143). -/
def evAuxPowerFail (s : State) : Option State := if s.power = .s3 then some s.unpowered else none

/-- THERMAL_THROTTLE (01 R30). -/
def evThermalThrottle (s : State) : Option State :=
  if s.runs && !s.throttled then some { s with power := .p1, throttled := true, throttles := s.throttles ++ [s.wcc], mgmt := s.mgmt ++ [.thermal] } else none
/-- THERMAL_RECOVER (01 R30). -/
def evThermalRecover (s : State) : Option State :=
  if s.throttled then some { s with throttled := false, power := if s.power = .p1 then .p0 else s.power } else none

/-! ## The wafer cycle counter (01 R28) -/

/-- 1,024 reference cycles have passed since the last correction; `lastSlew` is kept so that the WCC counts from it. -/
def State.slewFree (s : State) : Bool :=
  match s.lastSlew with
  | some t => decide (1024 ≤ (s.wcc - t).toNat)
  | none => true

/-- WCC_SLEW: one increment doubled where the WCC is behind the aligned time, suppressed where it is ahead, while locked (02 R74). -/
def evWccSlew (time : SyncTime) (s : State) : Option State :=
  let t := s.aligned time
  if (s.runs || s.power == .s1) && s.locked && s.slew.isNone && s.slewFree && s.wcc != t then
    some { s with slew := some (decide (s.wcc < t)), lastSlew := some (if s.wcc < t then s.wcc + 1 else s.wcc - 1) }
  else none

/-- SYNC_UNLOCKED: an event, and slewing stops. -/
def evSyncUnlocked (s : State) : Option State :=
  if s.locked then some { s with locked := false, slew := none, mgmt := s.mgmt ++ [.unlocked] } else none
/-- SYNC_LOCKED: slewing resumes. -/
def evSyncLocked (s : State) : Option State := if s.locked then none else some { s with locked := true }

def execPowerGood (o : BringUpOutcome) (s : State) : Host.Outcome State Fault Refusal := outside (evPowerGood o s) s
def execEnterP0 (s : State) : Host.Outcome State Fault Refusal := outside (evEnterP0 s) s
def execEnterP1 (s : State) : Host.Outcome State Fault Refusal := outside (evEnterP1 s) s
def execEnterS1 (s : State) : Host.Outcome State Fault Refusal := outside (evEnterS1 s) s
def execExitS1 (s : State) : Host.Outcome State Fault Refusal := outside (evExitS1 s) s
def execEnterS3 (s : State) : Host.Outcome State Fault Refusal := outside (evEnterS3 s) s
def execExitS3 (time : Option SyncTime) (s : State) : Host.Outcome State Fault Refusal := outside (evExitS3 time s) s
def execPowerRemoved (s : State) : Host.Outcome State Fault Refusal := outside (evPowerRemoved s) s
def execAuxPowerFail (s : State) : Host.Outcome State Fault Refusal := outside (evAuxPowerFail s) s
def execThermalThrottle (s : State) : Host.Outcome State Fault Refusal := outside (evThermalThrottle s) s
def execThermalRecover (s : State) : Host.Outcome State Fault Refusal := outside (evThermalRecover s) s
def execWccSlew (time : SyncTime) (s : State) : Host.Outcome State Fault Refusal := outside (evWccSlew time s) s
def execSyncUnlocked (s : State) : Host.Outcome State Fault Refusal := outside (evSyncUnlocked s) s
def execSyncLocked (s : State) : Host.Outcome State Fault Refusal := outside (evSyncLocked s) s

end Sys2Proof.Machine
end

