-- ==== Sys2Proof/Machine/Dispatch.lean ====
section
/-! DEFINITION. Sys2Proof/Machine/Dispatch.lean: one arm for each row of the opcode table, each a direct call of its meaning. -/

namespace Sys2Proof.Machine

def exec (i : Instr) (s : State) : Host.Outcome State Fault Refusal :=
  match i with
  | .powerGood o => Sys2Proof.Machine.execPowerGood o s
  | .enterP0 => Sys2Proof.Machine.execEnterP0 s
  | .enterP1 => Sys2Proof.Machine.execEnterP1 s
  | .enterS1 => Sys2Proof.Machine.execEnterS1 s
  | .exitS1 => Sys2Proof.Machine.execExitS1 s
  | .enterS3 => Sys2Proof.Machine.execEnterS3 s
  | .exitS3 time => Sys2Proof.Machine.execExitS3 time s
  | .powerRemoved => Sys2Proof.Machine.execPowerRemoved s
  | .auxPowerFail => Sys2Proof.Machine.execAuxPowerFail s
  | .thermalThrottle => Sys2Proof.Machine.execThermalThrottle s
  | .thermalRecover => Sys2Proof.Machine.execThermalRecover s
  | .wccSlew time => Sys2Proof.Machine.execWccSlew time s
  | .syncUnlocked => Sys2Proof.Machine.execSyncUnlocked s
  | .peerDelayMeasure port delay => Sys2Proof.Machine.execPeerDelayMeasure port delay s
  | .ltsFloor => Sys2Proof.Machine.execLtsFloor s
  | .bloomAlternate => Sys2Proof.Machine.execBloomAlternate s
  | .scrubLine at_ bad => Sys2Proof.Machine.execScrubLine at_ bad s
  | .configEntryRewritten router => Sys2Proof.Machine.execConfigEntryRewritten router s
  | .selftestWithdraw core => Sys2Proof.Machine.execSelftestWithdraw core s
  | .selftestStart core => Sys2Proof.Machine.execSelftestStart core s
  | .selftestSkip core => Sys2Proof.Machine.execSelftestSkip core s
  | .selftestDone core pass => Sys2Proof.Machine.execSelftestDone core pass s
  | .failedInService core => Sys2Proof.Machine.execFailedInService core s
  | .freezeTimeout core => Sys2Proof.Machine.execFreezeTimeout core s
  | .retryRequest router port => Sys2Proof.Machine.execRetryRequest router port s
  | .linkDead router port => Sys2Proof.Machine.execLinkDead router port s
  | .publicationArrival router ch => Sys2Proof.Machine.execPublicationArrival router ch s
  | .requestArrival router ch => Sys2Proof.Machine.execRequestArrival router ch s
  | .requestResume router => Sys2Proof.Machine.execRequestResume router s
  | .gateTileArrival gate => Sys2Proof.Machine.execGateTileArrival gate s
  | .heldTileAccept gate => Sys2Proof.Machine.execHeldTileAccept gate s
  | .missReplyArrival to_ => Sys2Proof.Machine.execMissReplyArrival to_ s
  | .agentRequest agent => Sys2Proof.Machine.execAgentRequest agent s
  | .agentFetchDone agent uncorrectable => Sys2Proof.Machine.execAgentFetchDone agent uncorrectable s
  | .segmentVerify agent => Sys2Proof.Machine.execSegmentVerify agent s
  | .backWrite agent => Sys2Proof.Machine.execBackWrite agent s
  | .backCompletion core => Sys2Proof.Machine.execBackCompletion core s
  | .configWrite router => Sys2Proof.Machine.execConfigWrite router s
  | .collectiveChunkArrival router ch => Sys2Proof.Machine.execCollectiveChunkArrival router ch s
  | .chunkRefetch router => Sys2Proof.Machine.execChunkRefetch router s
  | .markerArrival router ch => Sys2Proof.Machine.execMarkerArrival router ch s
  | .carryMessageArrival core down => Sys2Proof.Machine.execCarryMessageArrival core down s
  | .drainWave part => Sys2Proof.Machine.execDrainWave part s
  | .cfgswap part => Sys2Proof.Machine.execCfgswap part s
  | .cfgswapForce part => Sys2Proof.Machine.execCfgswapForce part s
  | .planeSwap router => Sys2Proof.Machine.execPlaneSwap router s
  | .congestionTimeout router port => Sys2Proof.Machine.execCongestionTimeout router port s
  | .probe part => Sys2Proof.Machine.execProbe part s
  | .probeWave part => Sys2Proof.Machine.execProbeWave part s
  | .verdictRead => Sys2Proof.Machine.execVerdictRead s
  | .memoryRequestArrival req => Sys2Proof.Machine.execMemoryRequestArrival req s
  | .spillReturn slice => Sys2Proof.Machine.execSpillReturn slice s
  | .requestServe req => Sys2Proof.Machine.execRequestServe req s
  | .lineFill req uncorrectable => Sys2Proof.Machine.execLineFill req uncorrectable s
  | .acceptanceToken req => Sys2Proof.Machine.execAcceptanceToken req s
  | .completionToken req => Sys2Proof.Machine.execCompletionToken req s
  | .cancellation req => Sys2Proof.Machine.execCancellation req s
  | .tilePrepare req => Sys2Proof.Machine.execTilePrepare req s
  | .tileCommit req => Sys2Proof.Machine.execTileCommit req s
  | .walkRequest walk => Sys2Proof.Machine.execWalkRequest walk s
  | .walkComplete walk => Sys2Proof.Machine.execWalkComplete walk s
  | .pagerFaultToken walk => Sys2Proof.Machine.execPagerFaultToken walk s
  | .pagerResolve walk => Sys2Proof.Machine.execPagerResolve walk s
  | .shootdown ns lo hi => Sys2Proof.Machine.execShootdown ns lo hi s
  | .shootdownComplete => Sys2Proof.Machine.execShootdownComplete s
  | .frameReceive port frame => Sys2Proof.Machine.execFrameReceive port frame s
  | .frameResendTimeout port peer cls => Sys2Proof.Machine.execFrameResendTimeout port peer cls s
  | .peerLost peer => Sys2Proof.Machine.execPeerLost peer s
  | .instructionFetch core => Sys2Proof.Machine.execInstructionFetch core s
  | .fixedResultLand core => Sys2Proof.Machine.execFixedResultLand core s
  | .registerFill core reg => Sys2Proof.Machine.execRegisterFill core reg s
  | .queueOpStart core q => Sys2Proof.Machine.execQueueOpStart core q s
  | .engineOpComplete core q uncorrectable => Sys2Proof.Machine.execEngineOpComplete core q uncorrectable s
  | .streamerStart core => Sys2Proof.Machine.execStreamerStart core s
  | .streamerComplete core rsb => Sys2Proof.Machine.execStreamerComplete core rsb s
  | .landingStart core => Sys2Proof.Machine.execLandingStart core s
  | .landingComplete core => Sys2Proof.Machine.execLandingComplete core s
  | .retireComplete core => Sys2Proof.Machine.execRetireComplete core s
  | .walkerOpen gate => Sys2Proof.Machine.execWalkerOpen gate s
  | .dispatch core => Sys2Proof.Machine.execDispatch core s
  | .herdDispatch gate => Sys2Proof.Machine.execHerdDispatch gate s
  | .triggerCount gate => Sys2Proof.Machine.execTriggerCount gate s
  | .eosRequest gate => Sys2Proof.Machine.execEosRequest gate s
  | .eosEmit gate => Sys2Proof.Machine.execEosEmit gate s
  | .barrierArrival gate => Sys2Proof.Machine.execBarrierArrival gate s
  | .barrierTimeout core => Sys2Proof.Machine.execBarrierTimeout core s
  | .npsOverrun core => Sys2Proof.Machine.execNpsOverrun core s
  | .deferredFault core => Sys2Proof.Machine.execDeferredFault core s
  | .resume core => Sys2Proof.Machine.execResume core s
  | .retranslate core => Sys2Proof.Machine.execRetranslate core s
  | .endFiring core => Sys2Proof.Machine.execEndFiring core s
  | .freezeRequest core => Sys2Proof.Machine.execFreezeRequest core s
  | .arm part => Sys2Proof.Machine.execArm part s
  | .cancel part => Sys2Proof.Machine.execCancel part s
  | .switchCommit part => Sys2Proof.Machine.execSwitchCommit part s
  | .switchStart part => Sys2Proof.Machine.execSwitchStart part s
  | .saveDone part => Sys2Proof.Machine.execSaveDone part s
  | .restoreDone part => Sys2Proof.Machine.execRestoreDone part s
  | .switchOverdue part => Sys2Proof.Machine.execSwitchOverdue part s
  | .openCfg port => Sys2Proof.Machine.execOpenCfg port s
  | .arg port => Sys2Proof.Machine.execArg port s
  | .inject port => Sys2Proof.Machine.execInject port s
  | .go port => Sys2Proof.Machine.execGo port s
  | .close port => Sys2Proof.Machine.execClose port s
  | .invalidEntry port => Sys2Proof.Machine.execInvalidEntry port s
  | .heldEntryResume port => Sys2Proof.Machine.execHeldEntryResume port s
  | .tailWrite port tail => Sys2Proof.Machine.execTailWrite port tail s
  | .ringWrite port value => Sys2Proof.Machine.execRingWrite port value s
  | .errClear port => Sys2Proof.Machine.execErrClear port s
  | .registerWrite offset value => Sys2Proof.Machine.execRegisterWrite offset value s
  | .lockInterface itf consent => Sys2Proof.Machine.execLockInterface itf consent s
  | .keyDelivery itf region => Sys2Proof.Machine.execKeyDelivery itf region s
  | .startInterface itf => Sys2Proof.Machine.execStartInterface itf s
  | .stopInterface itf => Sys2Proof.Machine.execStopInterface itf s
  | .getDeviceInterfaceReport itf => Sys2Proof.Machine.execGetDeviceInterfaceReport itf s
  | .tdispUnsupported itf => Sys2Proof.Machine.execTdispUnsupported itf s
  | .snapshotChange region entry => Sys2Proof.Machine.execSnapshotChange region entry s
  | .keyTableError itf => Sys2Proof.Machine.execKeyTableError itf s
  | .debugAttachTrace core => Sys2Proof.Machine.execDebugAttachTrace core s
  | .debugAttachHalt core => Sys2Proof.Machine.execDebugAttachHalt core s
  | .debugSessionEnd core => Sys2Proof.Machine.execDebugSessionEnd core s
  | .attestationRequest nonce => Sys2Proof.Machine.execAttestationRequest nonce s
  | .add p f => Sys2Proof.Machine.execAdd p f s
  | .sub p f => Sys2Proof.Machine.execSub p f s
  | .addi p f => Sys2Proof.Machine.execAddi p f s
  | .addiExt p f => Sys2Proof.Machine.execAddiExt p f s
  | .and p f => Sys2Proof.Machine.execAnd p f s
  | .or p f => Sys2Proof.Machine.execOr p f s
  | .xor p f => Sys2Proof.Machine.execXor p f s
  | .andn p f => Sys2Proof.Machine.execAndn p f s
  | .shl p f => Sys2Proof.Machine.execShl p f s
  | .shr p f => Sys2Proof.Machine.execShr p f s
  | .sra p f => Sys2Proof.Machine.execSra p f s
  | .shli p f => Sys2Proof.Machine.execShli p f s
  | .shri p f => Sys2Proof.Machine.execShri p f s
  | .srai p f => Sys2Proof.Machine.execSrai p f s
  | .mul p f => Sys2Proof.Machine.execMul p f s
  | .mulh p f => Sys2Proof.Machine.execMulh p f s
  | .div p f => Sys2Proof.Machine.execDiv p f s
  | .rem p f => Sys2Proof.Machine.execRem p f s
  | .min p f => Sys2Proof.Machine.execMin p f s
  | .max p f => Sys2Proof.Machine.execMax p f s
  | .clz p f => Sys2Proof.Machine.execClz p f s
  | .ctz p f => Sys2Proof.Machine.execCtz p f s
  | .popc p f => Sys2Proof.Machine.execPopc p f s
  | .bswap p f => Sys2Proof.Machine.execBswap p f s
  | .ext p f => Sys2Proof.Machine.execExt p f s
  | .ins p f => Sys2Proof.Machine.execIns p f s
  | .li p f => Sys2Proof.Machine.execLi p f s
  | .liExt p f => Sys2Proof.Machine.execLiExt p f s
  | .lih p f => Sys2Proof.Machine.execLih p f s
  | .lihExt p f => Sys2Proof.Machine.execLihExt p f s
  | .mov p f => Sys2Proof.Machine.execMov p f s
  | .sel p f => Sys2Proof.Machine.execSel p f s
  | .lea p f => Sys2Proof.Machine.execLea p f s
  | .madd p f => Sys2Proof.Machine.execMadd p f s
  | .clamp p f => Sys2Proof.Machine.execClamp p f s
  | .cmpEq p f => Sys2Proof.Machine.execCmpEq p f s
  | .cmpNe p f => Sys2Proof.Machine.execCmpNe p f s
  | .cmpLt p f => Sys2Proof.Machine.execCmpLt p f s
  | .cmpLe p f => Sys2Proof.Machine.execCmpLe p f s
  | .cmpiEq p f => Sys2Proof.Machine.execCmpiEq p f s
  | .cmpiEqExt p f => Sys2Proof.Machine.execCmpiEqExt p f s
  | .cmpiNe p f => Sys2Proof.Machine.execCmpiNe p f s
  | .cmpiNeExt p f => Sys2Proof.Machine.execCmpiNeExt p f s
  | .cmpiLt p f => Sys2Proof.Machine.execCmpiLt p f s
  | .cmpiLtExt p f => Sys2Proof.Machine.execCmpiLtExt p f s
  | .cmpiLe p f => Sys2Proof.Machine.execCmpiLe p f s
  | .cmpiLeExt p f => Sys2Proof.Machine.execCmpiLeExt p f s
  | .pand p f => Sys2Proof.Machine.execPand p f s
  | .por p f => Sys2Proof.Machine.execPor p f s
  | .pxor p f => Sys2Proof.Machine.execPxor p f s
  | .pnot p f => Sys2Proof.Machine.execPnot p f s
  | .pmov p f => Sys2Proof.Machine.execPmov p f s
  | .br p f => Sys2Proof.Machine.execBr p f s
  | .brc p f => Sys2Proof.Machine.execBrc p f s
  | .brcExt p f => Sys2Proof.Machine.execBrcExt p f s
  | .jr p f => Sys2Proof.Machine.execJr p f s
  | .call p f => Sys2Proof.Machine.execCall p f s
  | .ret p => Sys2Proof.Machine.execRet p s
  | .lp p f => Sys2Proof.Machine.execLp p f s
  | .lpx p f => Sys2Proof.Machine.execLpx p f s
  | .xwait p f => Sys2Proof.Machine.execXwait p f s
  | .twait p f => Sys2Proof.Machine.execTwait p f s
  | .retire p => Sys2Proof.Machine.execRetire p s
  | .trigger p => Sys2Proof.Machine.execTrigger p s
  | .trap p f => Sys2Proof.Machine.execTrap p f s
  | .brk p f => Sys2Proof.Machine.execBrk p f s
  | .npsBegin p => Sys2Proof.Machine.execNpsBegin p s
  | .npsEnd p => Sys2Proof.Machine.execNpsEnd p s
  | .srd p f => Sys2Proof.Machine.execSrd p f s
  | .swr p f => Sys2Proof.Machine.execSwr p f s
  | .cfgq p f => Sys2Proof.Machine.execCfgq p f s
  | .wccr p f => Sys2Proof.Machine.execWccr p f s
  | .vadd p f => Sys2Proof.Machine.execVadd p f s
  | .vaddMsk p f m => Sys2Proof.Machine.execVaddMsk p f m s
  | .vsub p f => Sys2Proof.Machine.execVsub p f s
  | .vsubMsk p f m => Sys2Proof.Machine.execVsubMsk p f m s
  | .vmul p f => Sys2Proof.Machine.execVmul p f s
  | .vmulMsk p f m => Sys2Proof.Machine.execVmulMsk p f m s
  | .vfma p f => Sys2Proof.Machine.execVfma p f s
  | .vfms p f => Sys2Proof.Machine.execVfms p f s
  | .vfnma p f => Sys2Proof.Machine.execVfnma p f s
  | .vmin p f => Sys2Proof.Machine.execVmin p f s
  | .vminMsk p f m => Sys2Proof.Machine.execVminMsk p f m s
  | .vmax p f => Sys2Proof.Machine.execVmax p f s
  | .vmaxMsk p f m => Sys2Proof.Machine.execVmaxMsk p f m s
  | .vabs p f => Sys2Proof.Machine.execVabs p f s
  | .vabsMsk p f m => Sys2Proof.Machine.execVabsMsk p f m s
  | .vneg p f => Sys2Proof.Machine.execVneg p f s
  | .vnegMsk p f m => Sys2Proof.Machine.execVnegMsk p f m s
  | .vcmpEq p f => Sys2Proof.Machine.execVcmpEq p f s
  | .vcmpEqMsk p f m => Sys2Proof.Machine.execVcmpEqMsk p f m s
  | .vcmpLt p f => Sys2Proof.Machine.execVcmpLt p f s
  | .vcmpLtMsk p f m => Sys2Proof.Machine.execVcmpLtMsk p f m s
  | .vcmpLe p f => Sys2Proof.Machine.execVcmpLe p f s
  | .vcmpLeMsk p f m => Sys2Proof.Machine.execVcmpLeMsk p f m s
  | .vcmpUn p f => Sys2Proof.Machine.execVcmpUn p f s
  | .vcmpUnMsk p f m => Sys2Proof.Machine.execVcmpUnMsk p f m s
  | .vsel p f => Sys2Proof.Machine.execVsel p f s
  | .vselMsk p f m => Sys2Proof.Machine.execVselMsk p f m s
  | .vclamp p f => Sys2Proof.Machine.execVclamp p f s
  | .viadd p f => Sys2Proof.Machine.execViadd p f s
  | .viaddMsk p f m => Sys2Proof.Machine.execViaddMsk p f m s
  | .visub p f => Sys2Proof.Machine.execVisub p f s
  | .visubMsk p f m => Sys2Proof.Machine.execVisubMsk p f m s
  | .vimul p f => Sys2Proof.Machine.execVimul p f s
  | .vimulMsk p f m => Sys2Proof.Machine.execVimulMsk p f m s
  | .vimin p f => Sys2Proof.Machine.execVimin p f s
  | .viminMsk p f m => Sys2Proof.Machine.execViminMsk p f m s
  | .vimax p f => Sys2Proof.Machine.execVimax p f s
  | .vimaxMsk p f m => Sys2Proof.Machine.execVimaxMsk p f m s
  | .vand p f => Sys2Proof.Machine.execVand p f s
  | .vandMsk p f m => Sys2Proof.Machine.execVandMsk p f m s
  | .vor p f => Sys2Proof.Machine.execVor p f s
  | .vorMsk p f m => Sys2Proof.Machine.execVorMsk p f m s
  | .vxor p f => Sys2Proof.Machine.execVxor p f s
  | .vxorMsk p f m => Sys2Proof.Machine.execVxorMsk p f m s
  | .vandn p f => Sys2Proof.Machine.execVandn p f s
  | .vandnMsk p f m => Sys2Proof.Machine.execVandnMsk p f m s
  | .vshl p f => Sys2Proof.Machine.execVshl p f s
  | .vshlMsk p f m => Sys2Proof.Machine.execVshlMsk p f m s
  | .vshr p f => Sys2Proof.Machine.execVshr p f s
  | .vshrMsk p f m => Sys2Proof.Machine.execVshrMsk p f m s
  | .vsra p f => Sys2Proof.Machine.execVsra p f s
  | .vsraMsk p f m => Sys2Proof.Machine.execVsraMsk p f m s
  | .vicmpEq p f => Sys2Proof.Machine.execVicmpEq p f s
  | .vicmpEqMsk p f m => Sys2Proof.Machine.execVicmpEqMsk p f m s
  | .vicmpLt p f => Sys2Proof.Machine.execVicmpLt p f s
  | .vicmpLtMsk p f m => Sys2Proof.Machine.execVicmpLtMsk p f m s
  | .vicmpLe p f => Sys2Proof.Machine.execVicmpLe p f s
  | .vicmpLeMsk p f m => Sys2Proof.Machine.execVicmpLeMsk p f m s
  | .vbcast p f => Sys2Proof.Machine.execVbcast p f s
  | .vbcastMsk p f m => Sys2Proof.Machine.execVbcastMsk p f m s
  | .vext p f => Sys2Proof.Machine.execVext p f s
  | .vins p f => Sys2Proof.Machine.execVins p f s
  | .vperm p f => Sys2Proof.Machine.execVperm p f s
  | .vpermMsk p f m => Sys2Proof.Machine.execVpermMsk p f m s
  | .vshift p f => Sys2Proof.Machine.execVshift p f s
  | .vshiftMsk p f m => Sys2Proof.Machine.execVshiftMsk p f m s
  | .vrot p f => Sys2Proof.Machine.execVrot p f s
  | .vrotMsk p f m => Sys2Proof.Machine.execVrotMsk p f m s
  | .vsum p f => Sys2Proof.Machine.execVsum p f s
  | .vsumMsk p f m => Sys2Proof.Machine.execVsumMsk p f m s
  | .vmaxr p f => Sys2Proof.Machine.execVmaxr p f s
  | .vmaxrMsk p f m => Sys2Proof.Machine.execVmaxrMsk p f m s
  | .vminr p f => Sys2Proof.Machine.execVminr p f s
  | .vminrMsk p f m => Sys2Proof.Machine.execVminrMsk p f m s
  | .mand p f => Sys2Proof.Machine.execMand p f s
  | .mor p f => Sys2Proof.Machine.execMor p f s
  | .mxor p f => Sys2Proof.Machine.execMxor p f s
  | .mnot p f => Sys2Proof.Machine.execMnot p f s
  | .mpop p f => Sys2Proof.Machine.execMpop p f s
  | .mfirst p f => Sys2Proof.Machine.execMfirst p f s
  | .vvalid p f => Sys2Proof.Machine.execVvalid p f s
  | .vmov p f => Sys2Proof.Machine.execVmov p f s
  | .vmovMsk p f m => Sys2Proof.Machine.execVmovMsk p f m s
  | .vmovAnd p f => Sys2Proof.Machine.execVmovAnd p f s
  | .vmovAndMsk p f m => Sys2Proof.Machine.execVmovAndMsk p f m s
  | .vmovSet p f => Sys2Proof.Machine.execVmovSet p f s
  | .vmovSetMsk p f m => Sys2Proof.Machine.execVmovSetMsk p f m s
  | .vrcp p f => Sys2Proof.Machine.execVrcp p f s
  | .vrcpMsk p f m => Sys2Proof.Machine.execVrcpMsk p f m s
  | .vrsqrt p f => Sys2Proof.Machine.execVrsqrt p f s
  | .vrsqrtMsk p f m => Sys2Proof.Machine.execVrsqrtMsk p f m s
  | .vsqrt p f => Sys2Proof.Machine.execVsqrt p f s
  | .vsqrtMsk p f m => Sys2Proof.Machine.execVsqrtMsk p f m s
  | .vexp2 p f => Sys2Proof.Machine.execVexp2 p f s
  | .vexp2Msk p f m => Sys2Proof.Machine.execVexp2Msk p f m s
  | .vlog2 p f => Sys2Proof.Machine.execVlog2 p f s
  | .vlog2Msk p f m => Sys2Proof.Machine.execVlog2Msk p f m s
  | .vtanh p f => Sys2Proof.Machine.execVtanh p f s
  | .vtanhMsk p f m => Sys2Proof.Machine.execVtanhMsk p f m s
  | .vsigm p f => Sys2Proof.Machine.execVsigm p f s
  | .vsigmMsk p f m => Sys2Proof.Machine.execVsigmMsk p f m s
  | .vrand p f => Sys2Proof.Machine.execVrand p f s
  | .vrandMsk p f m => Sys2Proof.Machine.execVrandMsk p f m s
  | .vcvt p f => Sys2Proof.Machine.execVcvt p f s
  | .vpack p f => Sys2Proof.Machine.execVpack p f s
  | .vunpack p f => Sys2Proof.Machine.execVunpack p f s
  | .vscale p f => Sys2Proof.Machine.execVscale p f s
  | .vscaleMsk p f m => Sys2Proof.Machine.execVscaleMsk p f m s
  | .ld p f => Sys2Proof.Machine.execLd p f s
  | .ldExt p f => Sys2Proof.Machine.execLdExt p f s
  | .st p f => Sys2Proof.Machine.execSt p f s
  | .stExt p f => Sys2Proof.Machine.execStExt p f s
  | .vld p f => Sys2Proof.Machine.execVld p f s
  | .vldExt p f => Sys2Proof.Machine.execVldExt p f s
  | .vst p f => Sys2Proof.Machine.execVst p f s
  | .vstExt p f => Sys2Proof.Machine.execVstExt p f s
  | .vldm p f => Sys2Proof.Machine.execVldm p f s
  | .vldmExt p f => Sys2Proof.Machine.execVldmExt p f s
  | .vstm p f => Sys2Proof.Machine.execVstm p f s
  | .vstmExt p f => Sys2Proof.Machine.execVstmExt p f s
  | .gld p f => Sys2Proof.Machine.execGld p f s
  | .gst p f => Sys2Proof.Machine.execGst p f s
  | .amoAdd p f => Sys2Proof.Machine.execAmoAdd p f s
  | .amoMin p f => Sys2Proof.Machine.execAmoMin p f s
  | .amoMax p f => Sys2Proof.Machine.execAmoMax p f s
  | .amoSwap p f => Sys2Proof.Machine.execAmoSwap p f s
  | .amoCas p f => Sys2Proof.Machine.execAmoCas p f s
  | .amoFadd p f => Sys2Proof.Machine.execAmoFadd p f s
  | .xlat p f => Sys2Proof.Machine.execXlat p f s
  | .hinv p f => Sys2Proof.Machine.execHinv p f s
  | .tld p f => Sys2Proof.Machine.execTld p f s
  | .tldTimed p f => Sys2Proof.Machine.execTldTimed p f s
  | .tst p f => Sys2Proof.Machine.execTst p f s
  | .tstTimed p f => Sys2Proof.Machine.execTstTimed p f s
  | .pf p f => Sys2Proof.Machine.execPf p f s
  | .fenceG p => Sys2Proof.Machine.execFenceG p s
  | .fenceE p => Sys2Proof.Machine.execFenceE p s
  | .fenceN p => Sys2Proof.Machine.execFenceN p s
  | .fenceA p => Sys2Proof.Machine.execFenceA p s
  | .bankmode p f => Sys2Proof.Machine.execBankmode p f s
  | .cinv p f => Sys2Proof.Machine.execCinv p f s
  | .cinva p => Sys2Proof.Machine.execCinva p s
  | .qset p f => Sys2Proof.Machine.execQset p f s
  | .qget p f => Sys2Proof.Machine.execQget p f s
  | .mma p f => Sys2Proof.Machine.execMma p f s
  | .mmag p f => Sys2Proof.Machine.execMmag p f s
  | .aalloc p f => Sys2Proof.Machine.execAalloc p f s
  | .afree p f => Sys2Proof.Machine.execAfree p f s
  | .aown p f => Sys2Proof.Machine.execAown p f s
  | .aownRel p f => Sys2Proof.Machine.execAownRel p f s
  | .aclr p f => Sys2Proof.Machine.execAclr p f s
  | .adrain p f => Sys2Proof.Machine.execAdrain p f s
  | .aread p f => Sys2Proof.Machine.execAread p f s
  | .scanAdd p f => Sys2Proof.Machine.execScanAdd p f s
  | .scanAddInit p f => Sys2Proof.Machine.execScanAddInit p f s
  | .scanMul p f => Sys2Proof.Machine.execScanMul p f s
  | .scanMulInit p f => Sys2Proof.Machine.execScanMulInit p f s
  | .scanMax p f => Sys2Proof.Machine.execScanMax p f s
  | .scanMaxInit p f => Sys2Proof.Machine.execScanMaxInit p f s
  | .scanMin p f => Sys2Proof.Machine.execScanMin p f s
  | .scanMinInit p f => Sys2Proof.Machine.execScanMinInit p f s
  | .scanAffine p f => Sys2Proof.Machine.execScanAffine p f s
  | .scanLse p f => Sys2Proof.Machine.execScanLse p f s
  | .scanMoment p f => Sys2Proof.Machine.execScanMoment p f s
  | .scanMomentInit p f => Sys2Proof.Machine.execScanMomentInit p f s
  | .scanUser p f => Sys2Proof.Machine.execScanUser p f s
  | .scanUserExt p f => Sys2Proof.Machine.execScanUserExt p f s
  | .scdef p f => Sys2Proof.Machine.execScdef p f s
  | .mupd p f => Sys2Proof.Machine.execMupd p f s
  | .mupdw p f => Sys2Proof.Machine.execMupdw p f s
  | .mupdwStream p f => Sys2Proof.Machine.execMupdwStream p f s
  | .mmerge p f => Sys2Proof.Machine.execMmerge p f s
  | .mmergeLanes p f => Sys2Proof.Machine.execMmergeLanes p f s
  | .mclr p f => Sys2Proof.Machine.execMclr p f s
  | .mdrain p f => Sys2Proof.Machine.execMdrain p f s
  | .mdrainNorm p f => Sys2Proof.Machine.execMdrainNorm p f s
  | .mld p f => Sys2Proof.Machine.execMld p f s
  | .mst p f => Sys2Proof.Machine.execMst p f s
  | .cpy p f => Sys2Proof.Machine.execCpy p f s
  | .cpy2d p f => Sys2Proof.Machine.execCpy2d p f s
  | .fill p f => Sys2Proof.Machine.execFill p f s
  | .pub p f => Sys2Proof.Machine.execPub p f s
  | .pubIndexed p f => Sys2Proof.Machine.execPubIndexed p f s
  | .pubeos p f => Sys2Proof.Machine.execPubeos p f s
  | .fetch p f => Sys2Proof.Machine.execFetch p f s
  | .fetchIndexed p f => Sys2Proof.Machine.execFetchIndexed p f s
  | .subq p f => Sys2Proof.Machine.execSubq p f s
  | .hbar p => Sys2Proof.Machine.execHbar p s
  | .hbarArrive p => Sys2Proof.Machine.execHbarArrive p s
  | .hbarWait p => Sys2Proof.Machine.execHbarWait p s
  | .coll p f => Sys2Proof.Machine.execColl p f s
  | .collRecv p f => Sys2Proof.Machine.execCollRecv p f s
  | .collW p f => Sys2Proof.Machine.execCollW p f s
  | .collRecvW p f => Sys2Proof.Machine.execCollRecvW p f s
  | .cmark p f => Sys2Proof.Machine.execCmark p f s
  | .cmarkEnd p f => Sys2Proof.Machine.execCmarkEnd p f s
  | .csend p f => Sys2Proof.Machine.execCsend p f s
  | .crecv p f => Sys2Proof.Machine.execCrecv p f s
  | .cbar p => Sys2Proof.Machine.execCbar p s
  | .configurationRestart => Sys2Proof.Machine.execConfigurationRestart s
  | .deepTierLoss link => Sys2Proof.Machine.execDeepTierLoss link s
  | .syncLocked => Sys2Proof.Machine.execSyncLocked s
  | .emptyBundle core => Sys2Proof.Machine.execEmptyBundle core s
  | .unassignedOpcode core slot => Sys2Proof.Machine.execUnassignedOpcode core slot s
  | .rePlacement part avoid placed => Sys2Proof.Machine.execRePlacement part avoid placed s
  | .newHealthRecord rec_ => Sys2Proof.Machine.execNewHealthRecord rec_ s
  | .stewardFrameFill walk fill => Sys2Proof.Machine.execStewardFrameFill walk fill s

end Sys2Proof.Machine
end

