-- ==== Sys2Proof/Machine/Order.lean ====
section
/-! DEFINITION. Sys2Proof/Machine/Order.lean: the events the module takes by itself and the fixed order in which its own turn tries them; the manual
leaves that order open (03 R86, R102, 05 R175, log 3). Events that the outside, system software or a failure brings are not among them. -/

namespace Sys2Proof.Machine

/-- An event as the module's turn tries it. -/
abbrev Event := State → Option State

/-- The state after the first event of a list that can happen. -/
def firstEvent (s : State) : List Event → Option State
  | [] => none
  | e :: es =>
    match e s with
    | some t => some t
    | none => firstEvent s es

/-- Clocks and filters (02 R55, 07 R215). -/
def clockEvents : List Event := [evLtsFloor, evBloomAlternate]

/-- Switches, drains, swaps and probes (03 R105, R106, R113, 04 R131). -/
def partEvents (p : Fin 16) : List Event :=
  [evSwitchCommit p, evSwitchStart p, evSaveDone p, evRestoreDone p, evSwitchOverdue p, evDrainWave p, evCfgswap p, evProbeWave p]

/-- Plane swaps on their way, interfaces to stop, a shootdown to end. -/
def State.waveEvents (s : State) : List Event :=
  (s.parts.flatMap fun x => x.2.swap.map evPlaneSwap) ++
    ((s.stops.filter fun i => s.tdis[i].state != .unlocked && !(s.boundTo i).any fun k =>
        s.ctxs[k].state == .saving || s.ctxs[k].state == .restoring).map evStopInterface) ++ [evShootdownComplete]

/-- An ingress port (04 R117 to R122). -/
def portEvents (p : Fin 16) : List Event :=
  [evHeldEntryResume p, evOpenCfg p, evArg p, evInject p, evGo p, evClose p, evInvalidEntry p]

/-- A core beside its issue (05, 06, 08). -/
def coreEvents (n : Nat) (c : Core) : List Event :=
  [evFreezeRequest n, evNpsOverrun n, evBarrierTimeout n] ++ c.fills.map (fun f => evRegisterFill n f.reg) ++
    [evEngineOpComplete n .matrix false, evEngineOpComplete n .scan false, evEngineOpComplete n .stats false,
     evEngineOpComplete n .bank false, evQueueOpStart n .matrix, evQueueOpStart n .scan, evQueueOpStart n .stats, evQueueOpStart n .bank] ++
    c.copies.filterMap (fun j => j.rsb.map (evStreamerComplete n)) ++
    [evStreamerStart n, evLandingComplete n, evLandingStart n, evCarryMessageArrival n false, evCarryMessageArrival n true,
     evBackCompletion n, evRetireComplete n, evRetranslate n]

/-- A memory request (02, 07). -/
def reqEvents (id : Nat) : List Event :=
  [evCancellation id, evMemoryRequestArrival id, evAcceptanceToken id, evRequestServe id, evLineFill id false, evTilePrepare id, evTileCommit id,
   evCompletionToken id]

/-- A walk (07 R211, 08 R246, R247). -/
def walkEvents (id : Nat) : List Event := [evWalkRequest id, evWalkComplete id, evPagerFaultToken id, evPagerResolve id]

/-- The channels of a router: each port's lanes, on VC 1 and on VC 0. -/
def channels : List Chan :=
  (List.finRange 6).flatMap fun port => (List.finRange 2).flatMap fun lane => [true, false].map fun detour => { port, lane, detour }

/-- A router and the port of its core (03). -/
def routerEvents (n : Nat) : List Event :=
  [evRequestResume n, evChunkRefetch n, evConfigWrite n] ++
    channels.flatMap (fun c => [evPublicationArrival n c, evRequestArrival n c, evCollectiveChunkArrival n c, evMarkerArrival n c]) ++
    (List.finRange 6).map (evCongestionTimeout n)

/-- A gate (05). -/
def gateEvents (g : GateId) : List Event :=
  [evHeldTileAccept g, evGateTileArrival g, evTriggerCount g, evWalkerOpen g, evEosRequest g, evEosEmit g, evBarrierArrival g, evHerdDispatch g]

/-- An agent of the rim (02 R62 to R65). -/
def agentEvents (a : Fin 24) : List Event := [evAgentRequest a, evSegmentVerify a, evAgentFetchDone a false, evBackWrite a]

/-- Requesters that a miss reply is on its way to. -/
def State.missed (s : State) : List Requester :=
  s.msgs.filterMap fun f => match f.msg.body with
    | .miss _ _ _ r => some r
    | _ => none

/-- The router at which a message from a peer waits to enter. -/
def enteringAt (f : Flying) : Option Nat :=
  match f.place with
  | .peer e _ => some (portRouter e)
  | _ => none

/-- Routers at which something can stand. -/
def State.routersInUse (s : State) : List Nat :=
  (s.msgs.filterMap s.msgRouter ++ s.msgs.filterMap enteringAt ++ s.routers.map (·.1) ++ s.cores.map (·.1)).eraseDups

/-- Every event the module takes by itself, in the order its turn tries them. -/
def State.ownEvents (s : State) : List Event :=
  clockEvents ++ (List.finRange 16).flatMap partEvents ++ s.waveEvents ++ (List.finRange 16).flatMap portEvents ++
    s.cores.flatMap (fun x => coreEvents x.1 x.2) ++ s.reqs.flatMap (fun r => reqEvents r.id) ++ (List.finRange 96).map evSpillReturn ++
    s.walks.flatMap (fun w => walkEvents w.id) ++ s.routersInUse.flatMap routerEvents ++ s.missed.map evMissReplyArrival ++
    s.gates.flatMap (fun g => gateEvents g.id) ++ (List.finRange 24).flatMap agentEvents ++ s.cores.map fun x => evDispatch x.1

/-- The state after the first of the module's own events that can happen. -/
def State.nextEvent (s : State) : Option State := firstEvent s s.ownEvents

end Sys2Proof.Machine
end

