-- ==== Sys2Proof/Machine/Turn.lean ====
section
/-! DEFINITION. Sys2Proof/Machine/Turn.lean: what a core's turn is: the next slot of the group in issue, a bundle decoded whole, or an event of the
core (06 R176, 10 R294, log 6), and one step of the module; and placing an instruction where the next step runs it (log 8). -/

namespace Sys2Proof.Machine

noncomputable section

/-- Where a core's turn stands. -/
inductive Turn where
  /-- nothing to do: held by a wait, stopped, or without a firing -/
  | idle
  /-- an event of the core -/
  | event (i : Instr)
  /-- every byte of the next bundle is in the buffer -/
  | decode (f : Firing)
  /-- the next slot of the group in issue -/
  | slot (i : Instr) (last : Bool)

/-- The core's turn. -/
def Core.turn (c : Core) (env : Env) (n : Nat) : Turn :=
  match c.firing with
  | none => .idle
  | some f =>
    if !c.issues then .idle
    else
      match c.issue.todo with
      | (_, i) :: rest =>
        if c.between && !c.dfaults.isEmpty then .event (.deferredFault n)
        else if c.between && (c.stopping || !c.waitsOk env) then .idle
        else .slot i rest.isEmpty
      | [] =>
        if !c.dfaults.isEmpty then .event (.deferredFault n)
        else if 0 < c.issue.owed || (c.issue.retiring && !c.flight.isEmpty) then .event (.fixedResultLand n)
        else if c.issue.retiring || c.stopping || !c.waitsOk env then .idle
        else
          match c.fetchState f with
          | .row _ => .event (.instructionFetch n)
          | .outside => .event (.instructionFetch n)
          | .bad _ => .event (.instructionFetch n)
          | .ready => .decode f

/-- The bundle at the core's address, decoded whole (10 R294). -/
def Core.decoded (c : Core) (f : Firing) : Except BundleError Bundle := decodeBundle (c.codeBytes f c.issue.pc)

/-- The bundle stands in issue at a core, its mark taken. -/
def State.begin (s : State) (n : Nat) (b : Bundle) : State := s.onCore n fun _ c => c.beginBundle b

/-- The fault of a bundle stands in issue at a core. -/
def State.beginFault (s : State) (n : Nat) (p : Fin 8) : State :=
  s.onCore n fun _ c => ({ c with issue := { c.issue with fault := some p } }, [])

/-- The first instruction of the group in issue at a core, and whether it is the last. -/
def State.firstSlot (s : State) (n : Nat) : Option (Instr × Bool) :=
  match s.core n with
  | none => none
  | some c =>
    match c.issue.todo with
    | [] => none
    | (_, i) :: rest => some (i, rest.isEmpty)

/-! ## One step -/

/-- The turn passes after a step of a core, when it was the last of its cycle. -/
def passIf (last : Bool) : Host.Outcome State Fault Refusal → Host.Outcome State Fault Refusal
  | .next s => .next (if last then s.pass else s)
  | .fault r => .fault r
  | .refused r => .refused r

/-- A bundle decoded at the core whose turn it is: it stands in issue and its first slot runs, or its fault does. -/
def State.stepBundle (run : Instr → State → Host.Outcome State Fault Refusal) (s : State) (c : Core) (f : Firing) :
    Host.Outcome State Fault Refusal :=
  match c.decoded f with
  | .error e => passIf true (run (.unassignedOpcode s.focus e.pos) (s.beginFault s.focus e.pos))
  | .ok b =>
    let t := s.begin s.focus b
    match t.firstSlot s.focus with
    | none => passIf true (run (.emptyBundle s.focus) t)
    | some (i, last) => passIf last (run i t)

/-- The module's own turn: the first of its events that can happen in the order of log 3, else the clock moves. -/
def State.stepModule (s : State) : Host.Outcome State Fault Refusal :=
  match s.nextEvent with
  | some t => .next t
  | none => .next s.timers.tick

/-- One step, `run` being what an instruction does (logs 3, 5, 6). -/
def stepWith (run : Instr → State → Host.Outcome State Fault Refusal) (s : State) : Host.Outcome State Fault Refusal :=
  match s.agenda with
  | i :: rest => run i { s with agenda := rest }
  | [] =>
    if !s.clocked then .next s.tick
    else
      match s.core s.focus with
      | none => s.stepModule
      | some c =>
        match c.turn (s.env s.focus) s.focus with
        | .idle => .next s.pass
        | .event i => passIf true (run i s)
        | .decode f => s.stepBundle run c f
        | .slot i last => passIf last (run i s)

/-! ## Placing an instruction (log 8) -/

/-- A task of one CODE region and nothing else. -/
def probeTask (code : List (Nat × Byte)) : Task :=
  { num := 0, prio := 0, weight := 1, herd := false, hsize := 1, graph := 0, strict := false, codeBase := 0, codeEnd := 0xC000, entry := 0,
    levels := [], order := 0, subs := [], pubs := [], window := 1, slots := 1, lstride := 0, after := [], tagbase := 0, btmo := 10,
    live := none, members := [0], gate := 0, psblk := 0, preblk := 0, modes := [], sweight := 1, carry := false, vsns := [], code,
    data := [] }

/-- A firing of it. -/
def probeFiring (code : List (Nat × Byte)) : Firing :=
  { ctx := 0, task := probeTask code, ns := 0, ordinal := 0, indices := [], tag := 0, rank := 0, member := 0, slot := 0, voids := [],
    failed := none, landings := [], state := .running, trig := false, pubs := [] }

/-- The state with an instruction stored where the next step fetches: at address 0 of the CODE region of a firing that runs on the
core whose turn it is, its rows in the fetch buffer (log 8). -/
def State.placeWord (s : State) (nbits w : Nat) : State :=
  match tableSlot nbits w with
  | none => s
  | some (pos, _) =>
    let code := cellsAt 0 (oneSlotBytes pos (w % 4294967296) (tableExt nbits w))
    let c := (s.core s.focus).getD Core.reset
    let d : Core := { c with firing := some (probeFiring code), spad := (c.spad.clear 0 64).put code, issue := Issue.at_ 0, fetched := [0],
                             dfaults := [], frozen := false, freezeReq := false, out := false, testing := false }
    { s with agenda := [], cores := assocSet s.cores s.focus d }

end

end Sys2Proof.Machine
end

