-- ==== Sys2Proof/Machine/Step.lean ====
section
/-! DEFINITION. Sys2Proof/Machine/Step.lean: one step of the module: a step the outside offers, else the turn of a core, else the module's own turn
(logs 3, 5, 6); and placing an instruction where the next step runs it (log 8). -/

namespace Sys2Proof.Machine

/-- One step of the module. -/
noncomputable def step (s : State) : Host.Outcome State Fault Refusal := stepWith exec s

/-- The state with an instruction placed where the next step fetches and runs it (log 8). -/
noncomputable def State.withFetchWord (s : State) (nbits w : Nat) : State := s.placeWord nbits w

end Sys2Proof.Machine
end

