-- ==== Sys2Proof/Laws/PerInstr.lean ====
section
/-! SUPPORT. Sys2Proof/Laws/PerInstr.lean: SlotPred, the predicate of an instruction's word: a well-formed instruction's word never carries PRED = 0
with PSENSE = 1, and a step of the module has no word (10 R286). -/

set_option Elab.async false

namespace Sys2Proof.Laws

/-- The word of a well-formed instruction has a predicate the manual allows. -/
def SlotPred.Statement (i : Instr) : Prop := ∀ e, i.wf = true → encode i = some e → e.pred.wf = true

/-- A step of the module has no word. -/
theorem noWord {e : SlotWord} {a : Prop} (h : (none : Option SlotWord) = some e) : a := nomatch h

/-- A word's predicate is its instruction's. -/
theorem predWord {e : SlotWord} {c : SlotClass} {p : Pred} {op w : Nat} {x : Option Nat} (h : p.wf = true)
    (h' : some (SlotWord.mk c p op w x) = some e) : e.pred.wf = true := by
  cases h'; exact h

theorem SlotPred.powerGood : ∀ o, SlotPred.Statement (.powerGood o) := fun _ _ _ h => noWord h
theorem SlotPred.enterP0 : SlotPred.Statement (.enterP0) := fun _ _ h => noWord h
theorem SlotPred.enterP1 : SlotPred.Statement (.enterP1) := fun _ _ h => noWord h
theorem SlotPred.enterS1 : SlotPred.Statement (.enterS1) := fun _ _ h => noWord h
theorem SlotPred.exitS1 : SlotPred.Statement (.exitS1) := fun _ _ h => noWord h
theorem SlotPred.enterS3 : SlotPred.Statement (.enterS3) := fun _ _ h => noWord h
theorem SlotPred.exitS3 : ∀ time, SlotPred.Statement (.exitS3 time) := fun _ _ _ h => noWord h
theorem SlotPred.powerRemoved : SlotPred.Statement (.powerRemoved) := fun _ _ h => noWord h
theorem SlotPred.auxPowerFail : SlotPred.Statement (.auxPowerFail) := fun _ _ h => noWord h
theorem SlotPred.thermalThrottle : SlotPred.Statement (.thermalThrottle) := fun _ _ h => noWord h
theorem SlotPred.thermalRecover : SlotPred.Statement (.thermalRecover) := fun _ _ h => noWord h
theorem SlotPred.wccSlew : ∀ double, SlotPred.Statement (.wccSlew double) := fun _ _ _ h => noWord h
theorem SlotPred.syncUnlocked : SlotPred.Statement (.syncUnlocked) := fun _ _ h => noWord h
theorem SlotPred.peerDelayMeasure : ∀ port delay, SlotPred.Statement (.peerDelayMeasure port delay) := fun _ _ _ _ h => noWord h
theorem SlotPred.ltsFloor : SlotPred.Statement (.ltsFloor) := fun _ _ h => noWord h
theorem SlotPred.bloomAlternate : SlotPred.Statement (.bloomAlternate) := fun _ _ h => noWord h
theorem SlotPred.scrubLine : ∀ at_ bad, SlotPred.Statement (.scrubLine at_ bad) := fun _ _ _ _ h => noWord h
theorem SlotPred.configEntryRewritten : ∀ router, SlotPred.Statement (.configEntryRewritten router) := fun _ _ _ h => noWord h
theorem SlotPred.selftestWithdraw : ∀ core, SlotPred.Statement (.selftestWithdraw core) := fun _ _ _ h => noWord h
theorem SlotPred.selftestStart : ∀ core, SlotPred.Statement (.selftestStart core) := fun _ _ _ h => noWord h
theorem SlotPred.selftestSkip : ∀ core, SlotPred.Statement (.selftestSkip core) := fun _ _ _ h => noWord h
theorem SlotPred.selftestDone : ∀ core pass, SlotPred.Statement (.selftestDone core pass) := fun _ _ _ _ h => noWord h
theorem SlotPred.failedInService : ∀ core, SlotPred.Statement (.failedInService core) := fun _ _ _ h => noWord h
theorem SlotPred.freezeTimeout : ∀ core, SlotPred.Statement (.freezeTimeout core) := fun _ _ _ h => noWord h
theorem SlotPred.retryRequest : ∀ router port, SlotPred.Statement (.retryRequest router port) := fun _ _ _ _ h => noWord h
theorem SlotPred.linkDead : ∀ router port, SlotPred.Statement (.linkDead router port) := fun _ _ _ _ h => noWord h
theorem SlotPred.publicationArrival : ∀ router port, SlotPred.Statement (.publicationArrival router port) := fun _ _ _ _ h => noWord h
theorem SlotPred.requestArrival : ∀ router port, SlotPred.Statement (.requestArrival router port) := fun _ _ _ _ h => noWord h
theorem SlotPred.requestResume : ∀ router, SlotPred.Statement (.requestResume router) := fun _ _ _ h => noWord h
theorem SlotPred.gateTileArrival : ∀ gate, SlotPred.Statement (.gateTileArrival gate) := fun _ _ _ h => noWord h
theorem SlotPred.heldTileAccept : ∀ gate, SlotPred.Statement (.heldTileAccept gate) := fun _ _ _ h => noWord h
theorem SlotPred.missReplyArrival : ∀ to_, SlotPred.Statement (.missReplyArrival to_) := fun _ _ _ h => noWord h
theorem SlotPred.agentRequest : ∀ agent, SlotPred.Statement (.agentRequest agent) := fun _ _ _ h => noWord h
theorem SlotPred.agentFetchDone : ∀ agent uncorrectable, SlotPred.Statement (.agentFetchDone agent uncorrectable) := fun _ _ _ _ h => noWord h
theorem SlotPred.segmentVerify : ∀ agent, SlotPred.Statement (.segmentVerify agent) := fun _ _ _ h => noWord h
theorem SlotPred.backWrite : ∀ agent, SlotPred.Statement (.backWrite agent) := fun _ _ _ h => noWord h
theorem SlotPred.backCompletion : ∀ core, SlotPred.Statement (.backCompletion core) := fun _ _ _ h => noWord h
theorem SlotPred.configWrite : ∀ router, SlotPred.Statement (.configWrite router) := fun _ _ _ h => noWord h
theorem SlotPred.collectiveChunkArrival : ∀ router port, SlotPred.Statement (.collectiveChunkArrival router port) := fun _ _ _ _ h => noWord h
theorem SlotPred.chunkRefetch : ∀ router, SlotPred.Statement (.chunkRefetch router) := fun _ _ _ h => noWord h
theorem SlotPred.markerArrival : ∀ router port, SlotPred.Statement (.markerArrival router port) := fun _ _ _ _ h => noWord h
theorem SlotPred.carryMessageArrival : ∀ core down, SlotPred.Statement (.carryMessageArrival core down) := fun _ _ _ _ h => noWord h
theorem SlotPred.drainWave : ∀ part, SlotPred.Statement (.drainWave part) := fun _ _ _ h => noWord h
theorem SlotPred.cfgswap : ∀ part, SlotPred.Statement (.cfgswap part) := fun _ _ _ h => noWord h
theorem SlotPred.cfgswapForce : ∀ part, SlotPred.Statement (.cfgswapForce part) := fun _ _ _ h => noWord h
theorem SlotPred.planeSwap : ∀ router, SlotPred.Statement (.planeSwap router) := fun _ _ _ h => noWord h
theorem SlotPred.congestionTimeout : ∀ router port, SlotPred.Statement (.congestionTimeout router port) := fun _ _ _ _ h => noWord h
theorem SlotPred.probe : ∀ part, SlotPred.Statement (.probe part) := fun _ _ _ h => noWord h
theorem SlotPred.probeWave : ∀ part, SlotPred.Statement (.probeWave part) := fun _ _ _ h => noWord h
theorem SlotPred.verdictRead : SlotPred.Statement (.verdictRead) := fun _ _ h => noWord h
theorem SlotPred.memoryRequestArrival : ∀ req, SlotPred.Statement (.memoryRequestArrival req) := fun _ _ _ h => noWord h
theorem SlotPred.spillReturn : ∀ slice, SlotPred.Statement (.spillReturn slice) := fun _ _ _ h => noWord h
theorem SlotPred.requestServe : ∀ req, SlotPred.Statement (.requestServe req) := fun _ _ _ h => noWord h
theorem SlotPred.lineFill : ∀ req uncorrectable, SlotPred.Statement (.lineFill req uncorrectable) := fun _ _ _ _ h => noWord h
theorem SlotPred.acceptanceToken : ∀ req, SlotPred.Statement (.acceptanceToken req) := fun _ _ _ h => noWord h
theorem SlotPred.completionToken : ∀ req, SlotPred.Statement (.completionToken req) := fun _ _ _ h => noWord h
theorem SlotPred.cancellation : ∀ req, SlotPred.Statement (.cancellation req) := fun _ _ _ h => noWord h
theorem SlotPred.tilePrepare : ∀ req, SlotPred.Statement (.tilePrepare req) := fun _ _ _ h => noWord h
theorem SlotPred.tileCommit : ∀ req, SlotPred.Statement (.tileCommit req) := fun _ _ _ h => noWord h
theorem SlotPred.walkRequest : ∀ walk, SlotPred.Statement (.walkRequest walk) := fun _ _ _ h => noWord h
theorem SlotPred.walkComplete : ∀ walk, SlotPred.Statement (.walkComplete walk) := fun _ _ _ h => noWord h
theorem SlotPred.pagerFaultToken : ∀ walk, SlotPred.Statement (.pagerFaultToken walk) := fun _ _ _ h => noWord h
theorem SlotPred.pagerResolve : ∀ walk, SlotPred.Statement (.pagerResolve walk) := fun _ _ _ h => noWord h
theorem SlotPred.shootdown : ∀ ns lo hi, SlotPred.Statement (.shootdown ns lo hi) := fun _ _ _ _ _ h => noWord h
theorem SlotPred.shootdownComplete : SlotPred.Statement (.shootdownComplete) := fun _ _ h => noWord h
theorem SlotPred.frameReceive : ∀ port frame, SlotPred.Statement (.frameReceive port frame) := fun _ _ _ _ h => noWord h
theorem SlotPred.frameResendTimeout : ∀ port peer cls, SlotPred.Statement (.frameResendTimeout port peer cls) := fun _ _ _ _ _ h => noWord h
theorem SlotPred.peerLost : ∀ peer, SlotPred.Statement (.peerLost peer) := fun _ _ _ h => noWord h
theorem SlotPred.instructionFetch : ∀ core, SlotPred.Statement (.instructionFetch core) := fun _ _ _ h => noWord h
theorem SlotPred.fixedResultLand : ∀ core, SlotPred.Statement (.fixedResultLand core) := fun _ _ _ h => noWord h
theorem SlotPred.registerFill : ∀ core reg, SlotPred.Statement (.registerFill core reg) := fun _ _ _ _ h => noWord h
theorem SlotPred.queueOpStart : ∀ core q, SlotPred.Statement (.queueOpStart core q) := fun _ _ _ _ h => noWord h
theorem SlotPred.engineOpComplete : ∀ core q uncorrectable, SlotPred.Statement (.engineOpComplete core q uncorrectable) := fun _ _ _ _ _ h => noWord h
theorem SlotPred.streamerStart : ∀ core, SlotPred.Statement (.streamerStart core) := fun _ _ _ h => noWord h
theorem SlotPred.streamerComplete : ∀ core rsb, SlotPred.Statement (.streamerComplete core rsb) := fun _ _ _ _ h => noWord h
theorem SlotPred.landingStart : ∀ core, SlotPred.Statement (.landingStart core) := fun _ _ _ h => noWord h
theorem SlotPred.landingComplete : ∀ core, SlotPred.Statement (.landingComplete core) := fun _ _ _ h => noWord h
theorem SlotPred.retireComplete : ∀ core, SlotPred.Statement (.retireComplete core) := fun _ _ _ h => noWord h
theorem SlotPred.walkerOpen : ∀ gate, SlotPred.Statement (.walkerOpen gate) := fun _ _ _ h => noWord h
theorem SlotPred.dispatch : ∀ core, SlotPred.Statement (.dispatch core) := fun _ _ _ h => noWord h
theorem SlotPred.herdDispatch : ∀ gate, SlotPred.Statement (.herdDispatch gate) := fun _ _ _ h => noWord h
theorem SlotPred.triggerCount : ∀ gate, SlotPred.Statement (.triggerCount gate) := fun _ _ _ h => noWord h
theorem SlotPred.eosRequest : ∀ gate, SlotPred.Statement (.eosRequest gate) := fun _ _ _ h => noWord h
theorem SlotPred.eosEmit : ∀ gate, SlotPred.Statement (.eosEmit gate) := fun _ _ _ h => noWord h
theorem SlotPred.barrierArrival : ∀ gate, SlotPred.Statement (.barrierArrival gate) := fun _ _ _ h => noWord h
theorem SlotPred.barrierTimeout : ∀ core, SlotPred.Statement (.barrierTimeout core) := fun _ _ _ h => noWord h
theorem SlotPred.npsOverrun : ∀ core, SlotPred.Statement (.npsOverrun core) := fun _ _ _ h => noWord h
theorem SlotPred.deferredFault : ∀ core, SlotPred.Statement (.deferredFault core) := fun _ _ _ h => noWord h
theorem SlotPred.resume : ∀ core, SlotPred.Statement (.resume core) := fun _ _ _ h => noWord h
theorem SlotPred.retranslate : ∀ core, SlotPred.Statement (.retranslate core) := fun _ _ _ h => noWord h
theorem SlotPred.endFiring : ∀ core, SlotPred.Statement (.endFiring core) := fun _ _ _ h => noWord h
theorem SlotPred.freezeRequest : ∀ core, SlotPred.Statement (.freezeRequest core) := fun _ _ _ h => noWord h
theorem SlotPred.arm : ∀ part, SlotPred.Statement (.arm part) := fun _ _ _ h => noWord h
theorem SlotPred.cancel : ∀ part, SlotPred.Statement (.cancel part) := fun _ _ _ h => noWord h
theorem SlotPred.switchCommit : ∀ part, SlotPred.Statement (.switchCommit part) := fun _ _ _ h => noWord h
theorem SlotPred.switchStart : ∀ part, SlotPred.Statement (.switchStart part) := fun _ _ _ h => noWord h
theorem SlotPred.saveDone : ∀ part, SlotPred.Statement (.saveDone part) := fun _ _ _ h => noWord h
theorem SlotPred.restoreDone : ∀ part, SlotPred.Statement (.restoreDone part) := fun _ _ _ h => noWord h
theorem SlotPred.switchOverdue : ∀ part, SlotPred.Statement (.switchOverdue part) := fun _ _ _ h => noWord h
theorem SlotPred.openCfg : ∀ port, SlotPred.Statement (.openCfg port) := fun _ _ _ h => noWord h
theorem SlotPred.arg : ∀ port, SlotPred.Statement (.arg port) := fun _ _ _ h => noWord h
theorem SlotPred.inject : ∀ port, SlotPred.Statement (.inject port) := fun _ _ _ h => noWord h
theorem SlotPred.go : ∀ port, SlotPred.Statement (.go port) := fun _ _ _ h => noWord h
theorem SlotPred.close : ∀ port, SlotPred.Statement (.close port) := fun _ _ _ h => noWord h
theorem SlotPred.invalidEntry : ∀ port, SlotPred.Statement (.invalidEntry port) := fun _ _ _ h => noWord h
theorem SlotPred.heldEntryResume : ∀ port, SlotPred.Statement (.heldEntryResume port) := fun _ _ _ h => noWord h
theorem SlotPred.tailWrite : ∀ port tail, SlotPred.Statement (.tailWrite port tail) := fun _ _ _ _ h => noWord h
theorem SlotPred.ringWrite : ∀ port value, SlotPred.Statement (.ringWrite port value) := fun _ _ _ _ h => noWord h
theorem SlotPred.errClear : ∀ port, SlotPred.Statement (.errClear port) := fun _ _ _ h => noWord h
theorem SlotPred.registerWrite : ∀ offset value, SlotPred.Statement (.registerWrite offset value) := fun _ _ _ _ h => noWord h
theorem SlotPred.lockInterface : ∀ itf consent, SlotPred.Statement (.lockInterface itf consent) := fun _ _ _ _ h => noWord h
theorem SlotPred.keyDelivery : ∀ itf region, SlotPred.Statement (.keyDelivery itf region) := fun _ _ _ _ h => noWord h
theorem SlotPred.startInterface : ∀ itf, SlotPred.Statement (.startInterface itf) := fun _ _ _ h => noWord h
theorem SlotPred.stopInterface : ∀ itf, SlotPred.Statement (.stopInterface itf) := fun _ _ _ h => noWord h
theorem SlotPred.getDeviceInterfaceReport : ∀ itf, SlotPred.Statement (.getDeviceInterfaceReport itf) := fun _ _ _ h => noWord h
theorem SlotPred.tdispUnsupported : ∀ itf, SlotPred.Statement (.tdispUnsupported itf) := fun _ _ _ h => noWord h
theorem SlotPred.snapshotChange : ∀ region entry, SlotPred.Statement (.snapshotChange region entry) := fun _ _ _ _ h => noWord h
theorem SlotPred.keyTableError : ∀ itf, SlotPred.Statement (.keyTableError itf) := fun _ _ _ h => noWord h
theorem SlotPred.debugAttachTrace : ∀ core, SlotPred.Statement (.debugAttachTrace core) := fun _ _ _ h => noWord h
theorem SlotPred.debugAttachHalt : ∀ core, SlotPred.Statement (.debugAttachHalt core) := fun _ _ _ h => noWord h
theorem SlotPred.debugSessionEnd : ∀ core, SlotPred.Statement (.debugSessionEnd core) := fun _ _ _ h => noWord h
theorem SlotPred.attestationRequest : ∀ nonce, SlotPred.Statement (.attestationRequest nonce) := fun _ _ _ h => noWord h
theorem SlotPred.add : ∀ p f, SlotPred.Statement (.add p f) := fun _ _ _ w h =>
  predWord (w) h
theorem SlotPred.sub : ∀ p f, SlotPred.Statement (.sub p f) := fun _ _ _ w h =>
  predWord (w) h
theorem SlotPred.addi : ∀ p f, SlotPred.Statement (.addi p f) := fun _ _ _ w h =>
  predWord (w) h
theorem SlotPred.addiExt : ∀ p f, SlotPred.Statement (.addiExt p f) := fun _ _ _ w h =>
  predWord (w) h
theorem SlotPred.and : ∀ p f, SlotPred.Statement (.and p f) := fun _ _ _ w h =>
  predWord (w) h
theorem SlotPred.or : ∀ p f, SlotPred.Statement (.or p f) := fun _ _ _ w h =>
  predWord (w) h
theorem SlotPred.xor : ∀ p f, SlotPred.Statement (.xor p f) := fun _ _ _ w h =>
  predWord (w) h
theorem SlotPred.andn : ∀ p f, SlotPred.Statement (.andn p f) := fun _ _ _ w h =>
  predWord (w) h
theorem SlotPred.shl : ∀ p f, SlotPred.Statement (.shl p f) := fun _ _ _ w h =>
  predWord (w) h
theorem SlotPred.shr : ∀ p f, SlotPred.Statement (.shr p f) := fun _ _ _ w h =>
  predWord (w) h
theorem SlotPred.sra : ∀ p f, SlotPred.Statement (.sra p f) := fun _ _ _ w h =>
  predWord (w) h
theorem SlotPred.shli : ∀ p f, SlotPred.Statement (.shli p f) := fun _ _ _ w h =>
  predWord (w) h
theorem SlotPred.shri : ∀ p f, SlotPred.Statement (.shri p f) := fun _ _ _ w h =>
  predWord (w) h
theorem SlotPred.srai : ∀ p f, SlotPred.Statement (.srai p f) := fun _ _ _ w h =>
  predWord (w) h
theorem SlotPred.mul : ∀ p f, SlotPred.Statement (.mul p f) := fun _ _ _ w h =>
  predWord (w) h
theorem SlotPred.mulh : ∀ p f, SlotPred.Statement (.mulh p f) := fun _ _ _ w h =>
  predWord (w) h
theorem SlotPred.div : ∀ p f, SlotPred.Statement (.div p f) := fun _ _ _ w h =>
  predWord (w) h
theorem SlotPred.rem : ∀ p f, SlotPred.Statement (.rem p f) := fun _ _ _ w h =>
  predWord (w) h
theorem SlotPred.min : ∀ p f, SlotPred.Statement (.min p f) := fun _ _ _ w h =>
  predWord (w) h
theorem SlotPred.max : ∀ p f, SlotPred.Statement (.max p f) := fun _ _ _ w h =>
  predWord (w) h
theorem SlotPred.clz : ∀ p f, SlotPred.Statement (.clz p f) := fun _ _ _ w h =>
  predWord (w) h
theorem SlotPred.ctz : ∀ p f, SlotPred.Statement (.ctz p f) := fun _ _ _ w h =>
  predWord (w) h
theorem SlotPred.popc : ∀ p f, SlotPred.Statement (.popc p f) := fun _ _ _ w h =>
  predWord (w) h
theorem SlotPred.bswap : ∀ p f, SlotPred.Statement (.bswap p f) := fun _ _ _ w h =>
  predWord (w) h
theorem SlotPred.ext : ∀ p f, SlotPred.Statement (.ext p f) := fun _ _ _ w h =>
  predWord (by simp only [Instr.wf, Bool.and_eq_true] at w; exact w.1) h
theorem SlotPred.ins : ∀ p f, SlotPred.Statement (.ins p f) := fun _ _ _ w h =>
  predWord (by simp only [Instr.wf, Bool.and_eq_true] at w; exact w.1) h
theorem SlotPred.li : ∀ p f, SlotPred.Statement (.li p f) := fun _ _ _ w h =>
  predWord (w) h
theorem SlotPred.liExt : ∀ p f, SlotPred.Statement (.liExt p f) := fun _ _ _ w h =>
  predWord (w) h
theorem SlotPred.lih : ∀ p f, SlotPred.Statement (.lih p f) := fun _ _ _ w h =>
  predWord (w) h
theorem SlotPred.lihExt : ∀ p f, SlotPred.Statement (.lihExt p f) := fun _ _ _ w h =>
  predWord (w) h
theorem SlotPred.mov : ∀ p f, SlotPred.Statement (.mov p f) := fun _ _ _ w h =>
  predWord (w) h
theorem SlotPred.sel : ∀ p f, SlotPred.Statement (.sel p f) := fun _ _ _ w h =>
  predWord (w) h
theorem SlotPred.lea : ∀ p f, SlotPred.Statement (.lea p f) := fun _ _ _ w h =>
  predWord (w) h
theorem SlotPred.madd : ∀ p f, SlotPred.Statement (.madd p f) := fun _ _ _ w h =>
  predWord (w) h
theorem SlotPred.clamp : ∀ p f, SlotPred.Statement (.clamp p f) := fun _ _ _ w h =>
  predWord (w) h
theorem SlotPred.cmpEq : ∀ p f, SlotPred.Statement (.cmpEq p f) := fun _ _ _ w h =>
  predWord (w) h
theorem SlotPred.cmpNe : ∀ p f, SlotPred.Statement (.cmpNe p f) := fun _ _ _ w h =>
  predWord (w) h
theorem SlotPred.cmpLt : ∀ p f, SlotPred.Statement (.cmpLt p f) := fun _ _ _ w h =>
  predWord (w) h
theorem SlotPred.cmpLe : ∀ p f, SlotPred.Statement (.cmpLe p f) := fun _ _ _ w h =>
  predWord (w) h
theorem SlotPred.cmpiEq : ∀ p f, SlotPred.Statement (.cmpiEq p f) := fun _ _ _ w h =>
  predWord (w) h
theorem SlotPred.cmpiEqExt : ∀ p f, SlotPred.Statement (.cmpiEqExt p f) := fun _ _ _ w h =>
  predWord (w) h
theorem SlotPred.cmpiNe : ∀ p f, SlotPred.Statement (.cmpiNe p f) := fun _ _ _ w h =>
  predWord (w) h
theorem SlotPred.cmpiNeExt : ∀ p f, SlotPred.Statement (.cmpiNeExt p f) := fun _ _ _ w h =>
  predWord (w) h
theorem SlotPred.cmpiLt : ∀ p f, SlotPred.Statement (.cmpiLt p f) := fun _ _ _ w h =>
  predWord (w) h
theorem SlotPred.cmpiLtExt : ∀ p f, SlotPred.Statement (.cmpiLtExt p f) := fun _ _ _ w h =>
  predWord (w) h
theorem SlotPred.cmpiLe : ∀ p f, SlotPred.Statement (.cmpiLe p f) := fun _ _ _ w h =>
  predWord (w) h
theorem SlotPred.cmpiLeExt : ∀ p f, SlotPred.Statement (.cmpiLeExt p f) := fun _ _ _ w h =>
  predWord (w) h
theorem SlotPred.pand : ∀ p f, SlotPred.Statement (.pand p f) := fun _ _ _ w h =>
  predWord (w) h
theorem SlotPred.por : ∀ p f, SlotPred.Statement (.por p f) := fun _ _ _ w h =>
  predWord (w) h
theorem SlotPred.pxor : ∀ p f, SlotPred.Statement (.pxor p f) := fun _ _ _ w h =>
  predWord (w) h
theorem SlotPred.pnot : ∀ p f, SlotPred.Statement (.pnot p f) := fun _ _ _ w h =>
  predWord (w) h
theorem SlotPred.pmov : ∀ p f, SlotPred.Statement (.pmov p f) := fun _ _ _ w h =>
  predWord (w) h
theorem SlotPred.br : ∀ p f, SlotPred.Statement (.br p f) := fun _ _ _ w h =>
  predWord (w) h
theorem SlotPred.brc : ∀ p f, SlotPred.Statement (.brc p f) := fun _ _ _ w h =>
  predWord (w) h
theorem SlotPred.brcExt : ∀ p f, SlotPred.Statement (.brcExt p f) := fun _ _ _ w h =>
  predWord (w) h
theorem SlotPred.jr : ∀ p f, SlotPred.Statement (.jr p f) := fun _ _ _ w h =>
  predWord (w) h
theorem SlotPred.call : ∀ p f, SlotPred.Statement (.call p f) := fun _ _ _ w h =>
  predWord (w) h
theorem SlotPred.ret : ∀ p, SlotPred.Statement (.ret p) := fun _ _ w h =>
  predWord (w) h
theorem SlotPred.lp : ∀ p f, SlotPred.Statement (.lp p f) := fun _ _ _ w h =>
  predWord (w) h
theorem SlotPred.lpx : ∀ p f, SlotPred.Statement (.lpx p f) := fun _ _ _ w h =>
  predWord (w) h
theorem SlotPred.xwait : ∀ p f, SlotPred.Statement (.xwait p f) := fun _ _ _ w h =>
  predWord (w) h
theorem SlotPred.twait : ∀ p f, SlotPred.Statement (.twait p f) := fun _ _ _ w h =>
  predWord (w) h
theorem SlotPred.retire : ∀ p, SlotPred.Statement (.retire p) := fun _ _ w h =>
  predWord (w) h
theorem SlotPred.trigger : ∀ p, SlotPred.Statement (.trigger p) := fun _ _ w h =>
  predWord (w) h
theorem SlotPred.trap : ∀ p f, SlotPred.Statement (.trap p f) := fun _ _ _ w h =>
  predWord (w) h
theorem SlotPred.brk : ∀ p f, SlotPred.Statement (.brk p f) := fun _ _ _ w h =>
  predWord (w) h
theorem SlotPred.npsBegin : ∀ p, SlotPred.Statement (.npsBegin p) := fun _ _ w h =>
  predWord (w) h
theorem SlotPred.npsEnd : ∀ p, SlotPred.Statement (.npsEnd p) := fun _ _ w h =>
  predWord (w) h
theorem SlotPred.srd : ∀ p f, SlotPred.Statement (.srd p f) := fun _ _ _ w h =>
  predWord (w) h
theorem SlotPred.swr : ∀ p f, SlotPred.Statement (.swr p f) := fun _ _ _ w h =>
  predWord (by simp only [Instr.wf, Bool.and_eq_true] at w; exact w.1) h
theorem SlotPred.cfgq : ∀ p f, SlotPred.Statement (.cfgq p f) := fun _ _ _ w h =>
  predWord (w) h
theorem SlotPred.wccr : ∀ p f, SlotPred.Statement (.wccr p f) := fun _ _ _ w h =>
  predWord (w) h
theorem SlotPred.vadd : ∀ p f, SlotPred.Statement (.vadd p f) := fun _ _ _ w h =>
  predWord (by simp only [Instr.wf, Bool.and_eq_true] at w; exact w.1) h
theorem SlotPred.vaddMsk : ∀ p f m, SlotPred.Statement (.vaddMsk p f m) := fun _ _ _ _ w h =>
  predWord (by simp only [Instr.wf, Bool.and_eq_true] at w; exact w.1) h
theorem SlotPred.vsub : ∀ p f, SlotPred.Statement (.vsub p f) := fun _ _ _ w h =>
  predWord (by simp only [Instr.wf, Bool.and_eq_true] at w; exact w.1) h
theorem SlotPred.vsubMsk : ∀ p f m, SlotPred.Statement (.vsubMsk p f m) := fun _ _ _ _ w h =>
  predWord (by simp only [Instr.wf, Bool.and_eq_true] at w; exact w.1) h
theorem SlotPred.vmul : ∀ p f, SlotPred.Statement (.vmul p f) := fun _ _ _ w h =>
  predWord (by simp only [Instr.wf, Bool.and_eq_true] at w; exact w.1) h
theorem SlotPred.vmulMsk : ∀ p f m, SlotPred.Statement (.vmulMsk p f m) := fun _ _ _ _ w h =>
  predWord (by simp only [Instr.wf, Bool.and_eq_true] at w; exact w.1) h
theorem SlotPred.vfma : ∀ p f, SlotPred.Statement (.vfma p f) := fun _ _ _ w h =>
  predWord (by simp only [Instr.wf, Bool.and_eq_true] at w; exact w.1) h
theorem SlotPred.vfms : ∀ p f, SlotPred.Statement (.vfms p f) := fun _ _ _ w h =>
  predWord (by simp only [Instr.wf, Bool.and_eq_true] at w; exact w.1) h
theorem SlotPred.vfnma : ∀ p f, SlotPred.Statement (.vfnma p f) := fun _ _ _ w h =>
  predWord (by simp only [Instr.wf, Bool.and_eq_true] at w; exact w.1) h
theorem SlotPred.vmin : ∀ p f, SlotPred.Statement (.vmin p f) := fun _ _ _ w h =>
  predWord (w) h
theorem SlotPred.vminMsk : ∀ p f m, SlotPred.Statement (.vminMsk p f m) := fun _ _ _ _ w h =>
  predWord (w) h
theorem SlotPred.vmax : ∀ p f, SlotPred.Statement (.vmax p f) := fun _ _ _ w h =>
  predWord (w) h
theorem SlotPred.vmaxMsk : ∀ p f m, SlotPred.Statement (.vmaxMsk p f m) := fun _ _ _ _ w h =>
  predWord (w) h
theorem SlotPred.vabs : ∀ p f, SlotPred.Statement (.vabs p f) := fun _ _ _ w h =>
  predWord (w) h
theorem SlotPred.vabsMsk : ∀ p f m, SlotPred.Statement (.vabsMsk p f m) := fun _ _ _ _ w h =>
  predWord (w) h
theorem SlotPred.vneg : ∀ p f, SlotPred.Statement (.vneg p f) := fun _ _ _ w h =>
  predWord (w) h
theorem SlotPred.vnegMsk : ∀ p f m, SlotPred.Statement (.vnegMsk p f m) := fun _ _ _ _ w h =>
  predWord (w) h
theorem SlotPred.vcmpEq : ∀ p f, SlotPred.Statement (.vcmpEq p f) := fun _ _ _ w h =>
  predWord (w) h
theorem SlotPred.vcmpEqMsk : ∀ p f m, SlotPred.Statement (.vcmpEqMsk p f m) := fun _ _ _ _ w h =>
  predWord (w) h
theorem SlotPred.vcmpLt : ∀ p f, SlotPred.Statement (.vcmpLt p f) := fun _ _ _ w h =>
  predWord (w) h
theorem SlotPred.vcmpLtMsk : ∀ p f m, SlotPred.Statement (.vcmpLtMsk p f m) := fun _ _ _ _ w h =>
  predWord (w) h
theorem SlotPred.vcmpLe : ∀ p f, SlotPred.Statement (.vcmpLe p f) := fun _ _ _ w h =>
  predWord (w) h
theorem SlotPred.vcmpLeMsk : ∀ p f m, SlotPred.Statement (.vcmpLeMsk p f m) := fun _ _ _ _ w h =>
  predWord (w) h
theorem SlotPred.vcmpUn : ∀ p f, SlotPred.Statement (.vcmpUn p f) := fun _ _ _ w h =>
  predWord (w) h
theorem SlotPred.vcmpUnMsk : ∀ p f m, SlotPred.Statement (.vcmpUnMsk p f m) := fun _ _ _ _ w h =>
  predWord (w) h
theorem SlotPred.vsel : ∀ p f, SlotPred.Statement (.vsel p f) := fun _ _ _ w h =>
  predWord (w) h
theorem SlotPred.vselMsk : ∀ p f m, SlotPred.Statement (.vselMsk p f m) := fun _ _ _ _ w h =>
  predWord (w) h
theorem SlotPred.vclamp : ∀ p f, SlotPred.Statement (.vclamp p f) := fun _ _ _ w h =>
  predWord (w) h
theorem SlotPred.viadd : ∀ p f, SlotPred.Statement (.viadd p f) := fun _ _ _ w h =>
  predWord (by simp only [Instr.wf, Bool.and_eq_true] at w; exact w.1) h
theorem SlotPred.viaddMsk : ∀ p f m, SlotPred.Statement (.viaddMsk p f m) := fun _ _ _ _ w h =>
  predWord (by simp only [Instr.wf, Bool.and_eq_true] at w; exact w.1) h
theorem SlotPred.visub : ∀ p f, SlotPred.Statement (.visub p f) := fun _ _ _ w h =>
  predWord (by simp only [Instr.wf, Bool.and_eq_true] at w; exact w.1) h
theorem SlotPred.visubMsk : ∀ p f m, SlotPred.Statement (.visubMsk p f m) := fun _ _ _ _ w h =>
  predWord (by simp only [Instr.wf, Bool.and_eq_true] at w; exact w.1) h
theorem SlotPred.vimul : ∀ p f, SlotPred.Statement (.vimul p f) := fun _ _ _ w h =>
  predWord (by simp only [Instr.wf, Bool.and_eq_true] at w; exact w.1) h
theorem SlotPred.vimulMsk : ∀ p f m, SlotPred.Statement (.vimulMsk p f m) := fun _ _ _ _ w h =>
  predWord (by simp only [Instr.wf, Bool.and_eq_true] at w; exact w.1) h
theorem SlotPred.vimin : ∀ p f, SlotPred.Statement (.vimin p f) := fun _ _ _ w h =>
  predWord (by simp only [Instr.wf, Bool.and_eq_true] at w; exact w.1) h
theorem SlotPred.viminMsk : ∀ p f m, SlotPred.Statement (.viminMsk p f m) := fun _ _ _ _ w h =>
  predWord (by simp only [Instr.wf, Bool.and_eq_true] at w; exact w.1) h
theorem SlotPred.vimax : ∀ p f, SlotPred.Statement (.vimax p f) := fun _ _ _ w h =>
  predWord (by simp only [Instr.wf, Bool.and_eq_true] at w; exact w.1) h
theorem SlotPred.vimaxMsk : ∀ p f m, SlotPred.Statement (.vimaxMsk p f m) := fun _ _ _ _ w h =>
  predWord (by simp only [Instr.wf, Bool.and_eq_true] at w; exact w.1) h
theorem SlotPred.vand : ∀ p f, SlotPred.Statement (.vand p f) := fun _ _ _ w h =>
  predWord (w) h
theorem SlotPred.vandMsk : ∀ p f m, SlotPred.Statement (.vandMsk p f m) := fun _ _ _ _ w h =>
  predWord (w) h
theorem SlotPred.vor : ∀ p f, SlotPred.Statement (.vor p f) := fun _ _ _ w h =>
  predWord (w) h
theorem SlotPred.vorMsk : ∀ p f m, SlotPred.Statement (.vorMsk p f m) := fun _ _ _ _ w h =>
  predWord (w) h
theorem SlotPred.vxor : ∀ p f, SlotPred.Statement (.vxor p f) := fun _ _ _ w h =>
  predWord (w) h
theorem SlotPred.vxorMsk : ∀ p f m, SlotPred.Statement (.vxorMsk p f m) := fun _ _ _ _ w h =>
  predWord (w) h
theorem SlotPred.vandn : ∀ p f, SlotPred.Statement (.vandn p f) := fun _ _ _ w h =>
  predWord (w) h
theorem SlotPred.vandnMsk : ∀ p f m, SlotPred.Statement (.vandnMsk p f m) := fun _ _ _ _ w h =>
  predWord (w) h
theorem SlotPred.vshl : ∀ p f, SlotPred.Statement (.vshl p f) := fun _ _ _ w h =>
  predWord (w) h
theorem SlotPred.vshlMsk : ∀ p f m, SlotPred.Statement (.vshlMsk p f m) := fun _ _ _ _ w h =>
  predWord (w) h
theorem SlotPred.vshr : ∀ p f, SlotPred.Statement (.vshr p f) := fun _ _ _ w h =>
  predWord (w) h
theorem SlotPred.vshrMsk : ∀ p f m, SlotPred.Statement (.vshrMsk p f m) := fun _ _ _ _ w h =>
  predWord (w) h
theorem SlotPred.vsra : ∀ p f, SlotPred.Statement (.vsra p f) := fun _ _ _ w h =>
  predWord (w) h
theorem SlotPred.vsraMsk : ∀ p f m, SlotPred.Statement (.vsraMsk p f m) := fun _ _ _ _ w h =>
  predWord (w) h
theorem SlotPred.vicmpEq : ∀ p f, SlotPred.Statement (.vicmpEq p f) := fun _ _ _ w h =>
  predWord (by simp only [Instr.wf, Bool.and_eq_true] at w; exact w.1) h
theorem SlotPred.vicmpEqMsk : ∀ p f m, SlotPred.Statement (.vicmpEqMsk p f m) := fun _ _ _ _ w h =>
  predWord (by simp only [Instr.wf, Bool.and_eq_true] at w; exact w.1) h
theorem SlotPred.vicmpLt : ∀ p f, SlotPred.Statement (.vicmpLt p f) := fun _ _ _ w h =>
  predWord (by simp only [Instr.wf, Bool.and_eq_true] at w; exact w.1) h
theorem SlotPred.vicmpLtMsk : ∀ p f m, SlotPred.Statement (.vicmpLtMsk p f m) := fun _ _ _ _ w h =>
  predWord (by simp only [Instr.wf, Bool.and_eq_true] at w; exact w.1) h
theorem SlotPred.vicmpLe : ∀ p f, SlotPred.Statement (.vicmpLe p f) := fun _ _ _ w h =>
  predWord (by simp only [Instr.wf, Bool.and_eq_true] at w; exact w.1) h
theorem SlotPred.vicmpLeMsk : ∀ p f m, SlotPred.Statement (.vicmpLeMsk p f m) := fun _ _ _ _ w h =>
  predWord (by simp only [Instr.wf, Bool.and_eq_true] at w; exact w.1) h
theorem SlotPred.vbcast : ∀ p f, SlotPred.Statement (.vbcast p f) := fun _ _ _ w h =>
  predWord (w) h
theorem SlotPred.vbcastMsk : ∀ p f m, SlotPred.Statement (.vbcastMsk p f m) := fun _ _ _ _ w h =>
  predWord (w) h
theorem SlotPred.vext : ∀ p f, SlotPred.Statement (.vext p f) := fun _ _ _ w h =>
  predWord (w) h
theorem SlotPred.vins : ∀ p f, SlotPred.Statement (.vins p f) := fun _ _ _ w h =>
  predWord (w) h
theorem SlotPred.vperm : ∀ p f, SlotPred.Statement (.vperm p f) := fun _ _ _ w h =>
  predWord (w) h
theorem SlotPred.vpermMsk : ∀ p f m, SlotPred.Statement (.vpermMsk p f m) := fun _ _ _ _ w h =>
  predWord (w) h
theorem SlotPred.vshift : ∀ p f, SlotPred.Statement (.vshift p f) := fun _ _ _ w h =>
  predWord (w) h
theorem SlotPred.vshiftMsk : ∀ p f m, SlotPred.Statement (.vshiftMsk p f m) := fun _ _ _ _ w h =>
  predWord (w) h
theorem SlotPred.vrot : ∀ p f, SlotPred.Statement (.vrot p f) := fun _ _ _ w h =>
  predWord (w) h
theorem SlotPred.vrotMsk : ∀ p f m, SlotPred.Statement (.vrotMsk p f m) := fun _ _ _ _ w h =>
  predWord (w) h
theorem SlotPred.vsum : ∀ p f, SlotPred.Statement (.vsum p f) := fun _ _ _ w h =>
  predWord (by simp only [Instr.wf, Bool.and_eq_true] at w; exact w.1) h
theorem SlotPred.vsumMsk : ∀ p f m, SlotPred.Statement (.vsumMsk p f m) := fun _ _ _ _ w h =>
  predWord (by simp only [Instr.wf, Bool.and_eq_true] at w; exact w.1) h
theorem SlotPred.vmaxr : ∀ p f, SlotPred.Statement (.vmaxr p f) := fun _ _ _ w h =>
  predWord (w) h
theorem SlotPred.vmaxrMsk : ∀ p f m, SlotPred.Statement (.vmaxrMsk p f m) := fun _ _ _ _ w h =>
  predWord (w) h
theorem SlotPred.vminr : ∀ p f, SlotPred.Statement (.vminr p f) := fun _ _ _ w h =>
  predWord (w) h
theorem SlotPred.vminrMsk : ∀ p f m, SlotPred.Statement (.vminrMsk p f m) := fun _ _ _ _ w h =>
  predWord (w) h
theorem SlotPred.mand : ∀ p f, SlotPred.Statement (.mand p f) := fun _ _ _ w h =>
  predWord (w) h
theorem SlotPred.mor : ∀ p f, SlotPred.Statement (.mor p f) := fun _ _ _ w h =>
  predWord (w) h
theorem SlotPred.mxor : ∀ p f, SlotPred.Statement (.mxor p f) := fun _ _ _ w h =>
  predWord (w) h
theorem SlotPred.mnot : ∀ p f, SlotPred.Statement (.mnot p f) := fun _ _ _ w h =>
  predWord (w) h
theorem SlotPred.mpop : ∀ p f, SlotPred.Statement (.mpop p f) := fun _ _ _ w h =>
  predWord (w) h
theorem SlotPred.mfirst : ∀ p f, SlotPred.Statement (.mfirst p f) := fun _ _ _ w h =>
  predWord (w) h
theorem SlotPred.vvalid : ∀ p f, SlotPred.Statement (.vvalid p f) := fun _ _ _ w h =>
  predWord (w) h
theorem SlotPred.vmov : ∀ p f, SlotPred.Statement (.vmov p f) := fun _ _ _ w h =>
  predWord (w) h
theorem SlotPred.vmovMsk : ∀ p f m, SlotPred.Statement (.vmovMsk p f m) := fun _ _ _ _ w h =>
  predWord (w) h
theorem SlotPred.vmovAnd : ∀ p f, SlotPred.Statement (.vmovAnd p f) := fun _ _ _ w h =>
  predWord (w) h
theorem SlotPred.vmovAndMsk : ∀ p f m, SlotPred.Statement (.vmovAndMsk p f m) := fun _ _ _ _ w h =>
  predWord (w) h
theorem SlotPred.vmovSet : ∀ p f, SlotPred.Statement (.vmovSet p f) := fun _ _ _ w h =>
  predWord (w) h
theorem SlotPred.vmovSetMsk : ∀ p f m, SlotPred.Statement (.vmovSetMsk p f m) := fun _ _ _ _ w h =>
  predWord (w) h
theorem SlotPred.vrcp : ∀ p f, SlotPred.Statement (.vrcp p f) := fun _ _ _ w h =>
  predWord (by simp only [Instr.wf, Bool.and_eq_true] at w; exact w.1) h
theorem SlotPred.vrcpMsk : ∀ p f m, SlotPred.Statement (.vrcpMsk p f m) := fun _ _ _ _ w h =>
  predWord (by simp only [Instr.wf, Bool.and_eq_true] at w; exact w.1) h
theorem SlotPred.vrsqrt : ∀ p f, SlotPred.Statement (.vrsqrt p f) := fun _ _ _ w h =>
  predWord (by simp only [Instr.wf, Bool.and_eq_true] at w; exact w.1) h
theorem SlotPred.vrsqrtMsk : ∀ p f m, SlotPred.Statement (.vrsqrtMsk p f m) := fun _ _ _ _ w h =>
  predWord (by simp only [Instr.wf, Bool.and_eq_true] at w; exact w.1) h
theorem SlotPred.vsqrt : ∀ p f, SlotPred.Statement (.vsqrt p f) := fun _ _ _ w h =>
  predWord (by simp only [Instr.wf, Bool.and_eq_true] at w; exact w.1) h
theorem SlotPred.vsqrtMsk : ∀ p f m, SlotPred.Statement (.vsqrtMsk p f m) := fun _ _ _ _ w h =>
  predWord (by simp only [Instr.wf, Bool.and_eq_true] at w; exact w.1) h
theorem SlotPred.vexp2 : ∀ p f, SlotPred.Statement (.vexp2 p f) := fun _ _ _ w h =>
  predWord (by simp only [Instr.wf, Bool.and_eq_true] at w; exact w.1) h
theorem SlotPred.vexp2Msk : ∀ p f m, SlotPred.Statement (.vexp2Msk p f m) := fun _ _ _ _ w h =>
  predWord (by simp only [Instr.wf, Bool.and_eq_true] at w; exact w.1) h
theorem SlotPred.vlog2 : ∀ p f, SlotPred.Statement (.vlog2 p f) := fun _ _ _ w h =>
  predWord (by simp only [Instr.wf, Bool.and_eq_true] at w; exact w.1) h
theorem SlotPred.vlog2Msk : ∀ p f m, SlotPred.Statement (.vlog2Msk p f m) := fun _ _ _ _ w h =>
  predWord (by simp only [Instr.wf, Bool.and_eq_true] at w; exact w.1) h
theorem SlotPred.vtanh : ∀ p f, SlotPred.Statement (.vtanh p f) := fun _ _ _ w h =>
  predWord (by simp only [Instr.wf, Bool.and_eq_true] at w; exact w.1) h
theorem SlotPred.vtanhMsk : ∀ p f m, SlotPred.Statement (.vtanhMsk p f m) := fun _ _ _ _ w h =>
  predWord (by simp only [Instr.wf, Bool.and_eq_true] at w; exact w.1) h
theorem SlotPred.vsigm : ∀ p f, SlotPred.Statement (.vsigm p f) := fun _ _ _ w h =>
  predWord (by simp only [Instr.wf, Bool.and_eq_true] at w; exact w.1) h
theorem SlotPred.vsigmMsk : ∀ p f m, SlotPred.Statement (.vsigmMsk p f m) := fun _ _ _ _ w h =>
  predWord (by simp only [Instr.wf, Bool.and_eq_true] at w; exact w.1) h
theorem SlotPred.vrand : ∀ p f, SlotPred.Statement (.vrand p f) := fun _ _ _ w h =>
  predWord (w) h
theorem SlotPred.vrandMsk : ∀ p f m, SlotPred.Statement (.vrandMsk p f m) := fun _ _ _ _ w h =>
  predWord (w) h
theorem SlotPred.vcvt : ∀ p f, SlotPred.Statement (.vcvt p f) := fun _ _ _ w h =>
  predWord (by simp only [Instr.wf, Bool.and_eq_true] at w; exact w.1) h
theorem SlotPred.vpack : ∀ p f, SlotPred.Statement (.vpack p f) := fun _ _ _ w h =>
  predWord (by simp only [Instr.wf, Bool.and_eq_true] at w; exact w.1) h
theorem SlotPred.vunpack : ∀ p f, SlotPred.Statement (.vunpack p f) := fun _ _ _ w h =>
  predWord (by simp only [Instr.wf, Bool.and_eq_true] at w; exact w.1) h
theorem SlotPred.vscale : ∀ p f, SlotPred.Statement (.vscale p f) := fun _ _ _ w h =>
  predWord (by simp only [Instr.wf, Bool.and_eq_true] at w; exact w.1) h
theorem SlotPred.vscaleMsk : ∀ p f m, SlotPred.Statement (.vscaleMsk p f m) := fun _ _ _ _ w h =>
  predWord (by simp only [Instr.wf, Bool.and_eq_true] at w; exact w.1) h
theorem SlotPred.ld : ∀ p f, SlotPred.Statement (.ld p f) := fun _ _ _ w h =>
  predWord (w) h
theorem SlotPred.ldExt : ∀ p f, SlotPred.Statement (.ldExt p f) := fun _ _ _ w h =>
  predWord (w) h
theorem SlotPred.st : ∀ p f, SlotPred.Statement (.st p f) := fun _ _ _ w h =>
  predWord (w) h
theorem SlotPred.stExt : ∀ p f, SlotPred.Statement (.stExt p f) := fun _ _ _ w h =>
  predWord (w) h
theorem SlotPred.vld : ∀ p f, SlotPred.Statement (.vld p f) := fun _ _ _ w h =>
  predWord (w) h
theorem SlotPred.vldExt : ∀ p f, SlotPred.Statement (.vldExt p f) := fun _ _ _ w h =>
  predWord (w) h
theorem SlotPred.vst : ∀ p f, SlotPred.Statement (.vst p f) := fun _ _ _ w h =>
  predWord (w) h
theorem SlotPred.vstExt : ∀ p f, SlotPred.Statement (.vstExt p f) := fun _ _ _ w h =>
  predWord (w) h
theorem SlotPred.vldm : ∀ p f, SlotPred.Statement (.vldm p f) := fun _ _ _ w h =>
  predWord (w) h
theorem SlotPred.vldmExt : ∀ p f, SlotPred.Statement (.vldmExt p f) := fun _ _ _ w h =>
  predWord (w) h
theorem SlotPred.vstm : ∀ p f, SlotPred.Statement (.vstm p f) := fun _ _ _ w h =>
  predWord (w) h
theorem SlotPred.vstmExt : ∀ p f, SlotPred.Statement (.vstmExt p f) := fun _ _ _ w h =>
  predWord (w) h
theorem SlotPred.gld : ∀ p f, SlotPred.Statement (.gld p f) := fun _ _ _ w h =>
  predWord (w) h
theorem SlotPred.gst : ∀ p f, SlotPred.Statement (.gst p f) := fun _ _ _ w h =>
  predWord (w) h
theorem SlotPred.amoAdd : ∀ p f, SlotPred.Statement (.amoAdd p f) := fun _ _ _ w h =>
  predWord (by simp only [Instr.wf, Bool.and_eq_true] at w; exact w.1) h
theorem SlotPred.amoMin : ∀ p f, SlotPred.Statement (.amoMin p f) := fun _ _ _ w h =>
  predWord (by simp only [Instr.wf, Bool.and_eq_true] at w; exact w.1) h
theorem SlotPred.amoMax : ∀ p f, SlotPred.Statement (.amoMax p f) := fun _ _ _ w h =>
  predWord (by simp only [Instr.wf, Bool.and_eq_true] at w; exact w.1) h
theorem SlotPred.amoSwap : ∀ p f, SlotPred.Statement (.amoSwap p f) := fun _ _ _ w h =>
  predWord (by simp only [Instr.wf, Bool.and_eq_true] at w; exact w.1) h
theorem SlotPred.amoCas : ∀ p f, SlotPred.Statement (.amoCas p f) := fun _ _ _ w h =>
  predWord (by simp only [Instr.wf, Bool.and_eq_true] at w; exact w.1) h
theorem SlotPred.amoFadd : ∀ p f, SlotPred.Statement (.amoFadd p f) := fun _ _ _ w h =>
  predWord (w) h
theorem SlotPred.xlat : ∀ p f, SlotPred.Statement (.xlat p f) := fun _ _ _ w h =>
  predWord (w) h
theorem SlotPred.hinv : ∀ p f, SlotPred.Statement (.hinv p f) := fun _ _ _ w h =>
  predWord (w) h
theorem SlotPred.tld : ∀ p f, SlotPred.Statement (.tld p f) := fun _ _ _ w h =>
  predWord (w) h
theorem SlotPred.tldTimed : ∀ p f, SlotPred.Statement (.tldTimed p f) := fun _ _ _ w h =>
  predWord (w) h
theorem SlotPred.tst : ∀ p f, SlotPred.Statement (.tst p f) := fun _ _ _ w h =>
  predWord (w) h
theorem SlotPred.tstTimed : ∀ p f, SlotPred.Statement (.tstTimed p f) := fun _ _ _ w h =>
  predWord (w) h
theorem SlotPred.pf : ∀ p f, SlotPred.Statement (.pf p f) := fun _ _ _ w h =>
  predWord (w) h
theorem SlotPred.fenceG : ∀ p, SlotPred.Statement (.fenceG p) := fun _ _ w h =>
  predWord (w) h
theorem SlotPred.fenceE : ∀ p, SlotPred.Statement (.fenceE p) := fun _ _ w h =>
  predWord (w) h
theorem SlotPred.fenceN : ∀ p, SlotPred.Statement (.fenceN p) := fun _ _ w h =>
  predWord (w) h
theorem SlotPred.fenceA : ∀ p, SlotPred.Statement (.fenceA p) := fun _ _ w h =>
  predWord (w) h
theorem SlotPred.bankmode : ∀ p f, SlotPred.Statement (.bankmode p f) := fun _ _ _ w h =>
  predWord (w) h
theorem SlotPred.cinv : ∀ p f, SlotPred.Statement (.cinv p f) := fun _ _ _ w h =>
  predWord (w) h
theorem SlotPred.cinva : ∀ p, SlotPred.Statement (.cinva p) := fun _ _ w h =>
  predWord (w) h
theorem SlotPred.qset : ∀ p f, SlotPred.Statement (.qset p f) := fun _ _ _ w h =>
  predWord (w) h
theorem SlotPred.qget : ∀ p f, SlotPred.Statement (.qget p f) := fun _ _ _ w h =>
  predWord (w) h
theorem SlotPred.mma : ∀ p f, SlotPred.Statement (.mma p f) := fun _ _ _ w h =>
  predWord (by simp only [Instr.wf, Bool.and_eq_true] at w; exact w.1) h
theorem SlotPred.mmag : ∀ p f, SlotPred.Statement (.mmag p f) := fun _ _ _ w h =>
  predWord (by simp only [Instr.wf, Bool.and_eq_true] at w; exact w.1) h
theorem SlotPred.aalloc : ∀ p f, SlotPred.Statement (.aalloc p f) := fun _ _ _ w h =>
  predWord (by simp only [Instr.wf, Bool.and_eq_true] at w; exact w.1) h
theorem SlotPred.afree : ∀ p f, SlotPred.Statement (.afree p f) := fun _ _ _ w h =>
  predWord (by simp only [Instr.wf, Bool.and_eq_true] at w; exact w.1) h
theorem SlotPred.aown : ∀ p f, SlotPred.Statement (.aown p f) := fun _ _ _ w h =>
  predWord (by simp only [Instr.wf, Bool.and_eq_true] at w; exact w.1) h
theorem SlotPred.aownRel : ∀ p f, SlotPred.Statement (.aownRel p f) := fun _ _ _ w h =>
  predWord (w) h
theorem SlotPred.aclr : ∀ p f, SlotPred.Statement (.aclr p f) := fun _ _ _ w h =>
  predWord (by simp only [Instr.wf, Bool.and_eq_true] at w; exact w.1) h
theorem SlotPred.adrain : ∀ p f, SlotPred.Statement (.adrain p f) := fun _ _ _ w h =>
  predWord (by simp only [Instr.wf, Bool.and_eq_true] at w; exact w.1) h
theorem SlotPred.aread : ∀ p f, SlotPred.Statement (.aread p f) := fun _ _ _ w h =>
  predWord (w) h
theorem SlotPred.scanAdd : ∀ p f, SlotPred.Statement (.scanAdd p f) := fun _ _ _ w h =>
  predWord (w) h
theorem SlotPred.scanAddInit : ∀ p f, SlotPred.Statement (.scanAddInit p f) := fun _ _ _ w h =>
  predWord (w) h
theorem SlotPred.scanMul : ∀ p f, SlotPred.Statement (.scanMul p f) := fun _ _ _ w h =>
  predWord (w) h
theorem SlotPred.scanMulInit : ∀ p f, SlotPred.Statement (.scanMulInit p f) := fun _ _ _ w h =>
  predWord (w) h
theorem SlotPred.scanMax : ∀ p f, SlotPred.Statement (.scanMax p f) := fun _ _ _ w h =>
  predWord (w) h
theorem SlotPred.scanMaxInit : ∀ p f, SlotPred.Statement (.scanMaxInit p f) := fun _ _ _ w h =>
  predWord (w) h
theorem SlotPred.scanMin : ∀ p f, SlotPred.Statement (.scanMin p f) := fun _ _ _ w h =>
  predWord (w) h
theorem SlotPred.scanMinInit : ∀ p f, SlotPred.Statement (.scanMinInit p f) := fun _ _ _ w h =>
  predWord (w) h
theorem SlotPred.scanAffine : ∀ p f, SlotPred.Statement (.scanAffine p f) := fun _ _ _ w h =>
  predWord (by simp only [Instr.wf, Bool.and_eq_true] at w; exact w.1) h
theorem SlotPred.scanLse : ∀ p f, SlotPred.Statement (.scanLse p f) := fun _ _ _ w h =>
  predWord (by simp only [Instr.wf, Bool.and_eq_true] at w; exact w.1) h
theorem SlotPred.scanMoment : ∀ p f, SlotPred.Statement (.scanMoment p f) := fun _ _ _ w h =>
  predWord (w) h
theorem SlotPred.scanMomentInit : ∀ p f, SlotPred.Statement (.scanMomentInit p f) := fun _ _ _ w h =>
  predWord (w) h
theorem SlotPred.scanUser : ∀ p f, SlotPred.Statement (.scanUser p f) := fun _ _ _ w h =>
  predWord (w) h
theorem SlotPred.scanUserExt : ∀ p f, SlotPred.Statement (.scanUserExt p f) := fun _ _ _ w h =>
  predWord (by simp only [Instr.wf, Bool.and_eq_true] at w; exact w.1) h
theorem SlotPred.scdef : ∀ p f, SlotPred.Statement (.scdef p f) := fun _ _ _ w h =>
  predWord (w) h
theorem SlotPred.mupd : ∀ p f, SlotPred.Statement (.mupd p f) := fun _ _ _ w h =>
  predWord (w) h
theorem SlotPred.mupdw : ∀ p f, SlotPred.Statement (.mupdw p f) := fun _ _ _ w h =>
  predWord (w) h
theorem SlotPred.mupdwStream : ∀ p f, SlotPred.Statement (.mupdwStream p f) := fun _ _ _ w h =>
  predWord (w) h
theorem SlotPred.mmerge : ∀ p f, SlotPred.Statement (.mmerge p f) := fun _ _ _ w h =>
  predWord (w) h
theorem SlotPred.mmergeLanes : ∀ p f, SlotPred.Statement (.mmergeLanes p f) := fun _ _ _ w h =>
  predWord (w) h
theorem SlotPred.mclr : ∀ p f, SlotPred.Statement (.mclr p f) := fun _ _ _ w h =>
  predWord (w) h
theorem SlotPred.mdrain : ∀ p f, SlotPred.Statement (.mdrain p f) := fun _ _ _ w h =>
  predWord (by simp only [Instr.wf, Bool.and_eq_true] at w; exact w.1) h
theorem SlotPred.mdrainNorm : ∀ p f, SlotPred.Statement (.mdrainNorm p f) := fun _ _ _ w h =>
  predWord (w) h
theorem SlotPred.mld : ∀ p f, SlotPred.Statement (.mld p f) := fun _ _ _ w h =>
  predWord (w) h
theorem SlotPred.mst : ∀ p f, SlotPred.Statement (.mst p f) := fun _ _ _ w h =>
  predWord (w) h
theorem SlotPred.cpy : ∀ p f, SlotPred.Statement (.cpy p f) := fun _ _ _ w h =>
  predWord (w) h
theorem SlotPred.cpy2d : ∀ p f, SlotPred.Statement (.cpy2d p f) := fun _ _ _ w h =>
  predWord (w) h
theorem SlotPred.fill : ∀ p f, SlotPred.Statement (.fill p f) := fun _ _ _ w h =>
  predWord (w) h
theorem SlotPred.pub : ∀ p f, SlotPred.Statement (.pub p f) := fun _ _ _ w h =>
  predWord (by simp only [Instr.wf, Bool.and_eq_true] at w; exact w.1.1) h
theorem SlotPred.pubIndexed : ∀ p f, SlotPred.Statement (.pubIndexed p f) := fun _ _ _ w h =>
  predWord (by simp only [Instr.wf, Bool.and_eq_true] at w; exact w.1.1) h
theorem SlotPred.pubeos : ∀ p f, SlotPred.Statement (.pubeos p f) := fun _ _ _ w h =>
  predWord (w) h
theorem SlotPred.fetch : ∀ p f, SlotPred.Statement (.fetch p f) := fun _ _ _ w h =>
  predWord (by simp only [Instr.wf, Bool.and_eq_true] at w; exact w.1) h
theorem SlotPred.fetchIndexed : ∀ p f, SlotPred.Statement (.fetchIndexed p f) := fun _ _ _ w h =>
  predWord (by simp only [Instr.wf, Bool.and_eq_true] at w; exact w.1) h
theorem SlotPred.subq : ∀ p f, SlotPred.Statement (.subq p f) := fun _ _ _ w h =>
  predWord (by simp only [Instr.wf, Bool.and_eq_true] at w; exact w.1.1) h
theorem SlotPred.hbar : ∀ p, SlotPred.Statement (.hbar p) := fun _ _ w h =>
  predWord (w) h
theorem SlotPred.hbarArrive : ∀ p, SlotPred.Statement (.hbarArrive p) := fun _ _ w h =>
  predWord (w) h
theorem SlotPred.hbarWait : ∀ p, SlotPred.Statement (.hbarWait p) := fun _ _ w h =>
  predWord (w) h
theorem SlotPred.coll : ∀ p f, SlotPred.Statement (.coll p f) := fun _ _ _ w h =>
  predWord (w) h
theorem SlotPred.collRecv : ∀ p f, SlotPred.Statement (.collRecv p f) := fun _ _ _ w h =>
  predWord (w) h
theorem SlotPred.collW : ∀ p f, SlotPred.Statement (.collW p f) := fun _ _ _ w h =>
  predWord (w) h
theorem SlotPred.collRecvW : ∀ p f, SlotPred.Statement (.collRecvW p f) := fun _ _ _ w h =>
  predWord (w) h
theorem SlotPred.cmark : ∀ p f, SlotPred.Statement (.cmark p f) := fun _ _ _ w h =>
  predWord (w) h
theorem SlotPred.cmarkEnd : ∀ p f, SlotPred.Statement (.cmarkEnd p f) := fun _ _ _ w h =>
  predWord (w) h
theorem SlotPred.csend : ∀ p f, SlotPred.Statement (.csend p f) := fun _ _ _ w h =>
  predWord (w) h
theorem SlotPred.crecv : ∀ p f, SlotPred.Statement (.crecv p f) := fun _ _ _ w h =>
  predWord (w) h
theorem SlotPred.cbar : ∀ p, SlotPred.Statement (.cbar p) := fun _ _ w h =>
  predWord (w) h
theorem SlotPred.configurationRestart : SlotPred.Statement (.configurationRestart) := fun _ _ h => noWord h
theorem SlotPred.deepTierLoss : ∀ link, SlotPred.Statement (.deepTierLoss link) := fun _ _ _ h => noWord h
theorem SlotPred.syncLocked : SlotPred.Statement (.syncLocked) := fun _ _ h => noWord h
theorem SlotPred.emptyBundle : ∀ core, SlotPred.Statement (.emptyBundle core) := fun _ _ _ h => noWord h
theorem SlotPred.unassignedOpcode : ∀ core slot, SlotPred.Statement (.unassignedOpcode core slot) := fun _ _ _ _ h => noWord h
theorem SlotPred.rePlacement : ∀ part avoid placed, SlotPred.Statement (.rePlacement part avoid placed) := fun _ _ _ _ _ h => noWord h
theorem SlotPred.newHealthRecord : ∀ rec_, SlotPred.Statement (.newHealthRecord rec_) := fun _ _ _ h => noWord h
theorem SlotPred.stewardFrameFill : ∀ walk fill, SlotPred.Statement (.stewardFrameFill walk fill) := fun _ _ _ _ h => noWord h

end Sys2Proof.Laws
end

