-- ==== Sys2Proof/Safety.lean ====
section
/-! DEFINITION. Sys2Proof/Safety.lean: what a safe step is, the invariant of the memories, and the terms in which claims speak of a slot that
issues: where it stands, what its operands must be, and the state its group leaves. -/

namespace Sys2Proof.Machine

/-! ## Steps and invariants -/

/-- A step that neither faults nor is refused. -/
def Goes : Host.Outcome State Fault Refusal → Prop
  | .next _ => True
  | .fault _ => False
  | .refused _ => False

/-- A property holds of the next state, where there is one. -/
def Keeps (P : State → Prop) : Host.Outcome State Fault Refusal → Prop
  | .next t => P t
  | .fault _ => True
  | .refused _ => True

/-- An instruction answers a next state, and the next state has a property. -/
def Makes (i : Instr) (s : State) (P : State → Prop) : Prop := ∃ t, exec i s = .next t ∧ P t

/-- The memories of the module are in canonical form: physical memory and the steward's (log 2). -/
def State.memOk (s : State) : Prop := s.pmem.wf = true ∧ s.smem.wf = true

/-! ## A slot in issue (06 R176 to R183, 10 R282, R286) -/

/-- The slot `i` at position `pos` is the last of the group in issue at core `c`, whose turn it is. Nothing has held the group or trapped
in it, and what its waits wait for has come. -/
structure LastSlot (s : State) (c : Core) (pos : Fin 8) (i : Instr) : Prop where
  core  : s.core s.focus = some c
  todo  : c.issue.todo = [(pos, i)]
  hold  : c.issue.hold = false
  trap  : c.issue.trap = none
  waits : c.waitsOk (s.env s.focus) = true

/-- The slot is the last of a group that also stands in `LastSlot`, but for what its predicate and operands say: they let it run. Its
sources are full and without an uncorrectable error, no fill of its destinations is pending, and the store gate has room for the group's stores (06 R182, 08 R239). -/
structure CanRun (c : Core) (p : Pred) (srcs : List Src) (dests : List FullReg) (es : List Effect) : Prop where
  runs  : c.executes p = true
  full  : ∀ x ∈ srcs, c.regs.full x.1 = true
  free  : ∀ r ∈ dests, c.pending r = false
  good  : ∀ x ∈ srcs, x.1 ∉ c.regs.bad
  room  : gateRows c.gate + rowsTaken (c.issue.effects ++ es) ≤ 32

/-- The core with the slot's answer in its group. -/
def Core.joined (c : Core) (closing : Bool) (r : SlotResult) : Core := { c with issue := c.issue.gather closing r }

/-- The state after the group whose last slot answers `r` has issued. -/
def State.issued (s : State) (c : Core) (closing : Bool) (r : SlotResult) : State :=
  (s.setCore s.focus (c.joined closing r).issueGroup.1).applyAll s.focus (c.joined closing r).issueGroup.2

/-- The state after the group's trap `t` has been taken, the gate released and a mark taken first where the group closes its region. -/
def State.trapsWith (s : State) (c : Core) (closing : Bool) (r : SlotResult) (t : TrapInfo) : State :=
  let d := c.joined closing r
  let b := if d.issue.closing || d.issue.release then d.releaseMark else (d, [])
  let q := b.1.takeTrap t d.issue.pc
  (s.setCore s.focus q.1).applyAll s.focus (b.2 ++ q.2)

/-- The state in which the group is held: it stands at its first slot again. -/
def State.heldAt (s : State) (c : Core) : State := s.setCore s.focus { c with issue := c.issue.restart }

/-- The forms of 08 Table 8-3 that close their region whether or not they execute: every EN and FX form; in LS the AMOs, tile transfers,
fences and `bankmode`, and the copies; in BR `retire`, `trigger`, the sections and `swr` (07 R224, 10 R286). -/
def closesOp (c : SlotClass) (op : Nat) : Bool :=
  match c with
  | .scalar => false
  | .vector => false
  | .engine => true
  | .fabric => true
  | .ls => [18, 19, 20, 21, 22, 23, 26, 27, 32, 33, 34, 35, 36].contains op
  | .branch => [10, 11, 14, 15, 17].contains op

/-! ## What the manual says of a form: its row, and the claim that it completes so -/

/-- The row of a slot form in a core: its sources with their T bits, its destinations with full/empty bits, what must hold for it to do its
work, whether it closes its region, and the effects that join its group. -/
structure SlotSpec where
  pred    : Pred
  srcs    : List Src
  dests   : List FullReg
  ok      : Prop
  closing : Bool
  effects : List Effect

/-- A row as a slot sees its operands: the module, its core, its position. -/
abbrev SlotRow := Env → Core → Fin 8 → SlotSpec

/-- The form completes: the last slot of its group, with its sources full and what its row asks for, the group issues with the row's effects. -/
def Completes (i : Instr) (r : SlotRow) : Prop :=
  ∀ (s : State) (c : Core) (pos : Fin 8), LastSlot s c pos i → (r (s.env s.focus) c pos).ok →
    CanRun c (r (s.env s.focus) c pos).pred (r (s.env s.focus) c pos).srcs (r (s.env s.focus) c pos).dests
      (r (s.env s.focus) c pos).effects →
    exec i s = .next (s.issued c (r (s.env s.focus) c pos).closing (.go (r (s.env s.focus) c pos).effects))

/-- A source with T = 0 is empty, or a destination's fill is pending: the form holds its group (06 R182, R183). -/
def StallsOn (i : Instr) (r : SlotRow) : Prop :=
  ∀ (s : State) (c : Core) (pos : Fin 8), LastSlot s c pos i → c.executes (r (s.env s.focus) c pos).pred = true →
    ((∃ x ∈ (r (s.env s.focus) c pos).srcs, x.2 = false ∧ c.regs.full x.1 = false) ∨
      (∃ d ∈ (r (s.env s.focus) c pos).dests, c.pending d = true)) →
    exec i s = .next (s.heldAt c)

/-- A source with T = 1 is empty where nothing stalls: the form traps EMPTY_READ in its slot (06 R182). -/
def TrapsEmpty (i : Instr) (r : SlotRow) : Prop :=
  ∀ (s : State) (c : Core) (pos : Fin 8), LastSlot s c pos i → c.executes (r (s.env s.focus) c pos).pred = true →
    gateRows c.gate + rowsTaken c.issue.effects ≤ 32 →
    (∀ x ∈ (r (s.env s.focus) c pos).srcs, x.2 = false → c.regs.full x.1 = true) →
    (∀ d ∈ (r (s.env s.focus) c pos).dests, c.pending d = false) →
    (∃ x ∈ (r (s.env s.focus) c pos).srcs, x.2 = true ∧ c.regs.full x.1 = false) →
    exec i s = .next (s.trapsWith c (r (s.env s.focus) c pos).closing (.trap (trapOf trapEmptyRead pos)) (trapOf trapEmptyRead pos))

/-- A row that asks nothing but its sources. -/
def plainRow (p : Pred) (closing : Bool) (srcs : List Src) (es : Env → Core → List Effect) : SlotRow := fun env c _ =>
  { pred := p, srcs, dests := [], ok := True, closing, effects := es env c }

/-! ### Scalar rows (11 R310 to R320) -/

/-- A scalar result of a latency. -/
def scalarRow (p : Pred) (d : Fin 32) (srcs : List Src) (lat : Nat) (x : Regs → Word) : SlotRow := fun _ c _ =>
  { pred := p, srcs, dests := [.s d], ok := True, closing := false, effects := [.result (.s d (x c.regs)) lat] }

/-- A predicate's result. -/
def predRow (p : Pred) (pd : Fin 8) (srcs : List Src) (x : Regs → Bool) : SlotRow := fun _ c _ =>
  { pred := p, srcs, dests := [], ok := True, closing := false, effects := [.result (.p pd (x c.regs)) 1] }

/-- The forms over A and B: latency and value (11 Table 11-2, R313). -/
def scalarPairs : List ((Pred → Form.R3 → Instr) × Nat × (Word → Word → Word)) :=
  [(.add, 1, fun a b => a + b), (.sub, 1, fun a b => a - b), (.and, 1, fun a b => a &&& b), (.or, 1, fun a b => a ||| b),
   (.xor, 1, fun a b => a ^^^ b), (.andn, 1, fun a b => a &&& ~~~b), (.shl, 1, fun a b => a <<< (b.toNat % 64)),
   (.shr, 1, fun a b => a >>> (b.toNat % 64)), (.sra, 1, fun a b => a.sshiftRight (b.toNat % 64)), (.mul, 3, fun a b => a * b)]

/-- The forms that are signed or unsigned by their TY, `true` for `.n64` (11 R313, R314). -/
def scalarWides : List ((Pred → Form.R3U → Instr) × Nat × (Bool → Word → Word → Word)) :=
  [(.mulh, 3, mulhWord), (.div, 20, divWord), (.rem, 20, remWord)]

/-- The forms at a TY (11 R315). -/
def scalarTyped : List ((Pred → Form.R3Y → Instr) × (Ty → Word → Word → Word)) := [(.min, minWord), (.max, maxWord)]

/-- The forms over A alone (11 R316, R318). -/
def scalarSingles : List ((Pred → Form.R2 → Instr) × (Word → Word)) :=
  [(.clz, clzWord), (.ctz, ctzWord), (.popc, popcWord), (.bswap, bswapWord), (.mov, fun a => a)]

/-- The shifts by an immediate (11 R312). -/
def scalarShifts : List ((Pred → Form.Rn → Instr) × (Word → Nat → Word)) :=
  [(.shli, fun a n => a <<< n), (.shri, fun a n => a >>> n), (.srai, fun a n => a.sshiftRight n)]

/-- The compares of A and B, and with an immediate; `true` for SGN = 1 (11 R319). -/
def compareRel : List ((Pred → Form.Cmp → Instr) × (Pred → Form.Cmpi → Instr) × (Pred → Form.CmpiX → Instr) × (Bool → Word → Word → Bool)) :=
  [(.cmpEq, .cmpiEq, .cmpiEqExt, fun _ a b => a == b), (.cmpNe, .cmpiNe, .cmpiNeExt, fun _ a b => a != b),
   (.cmpLt, .cmpiLt, .cmpiLtExt, fun u a b => if u then decide (a.toNat < b.toNat) else decide (a.toInt < b.toInt)),
   (.cmpLe, .cmpiLe, .cmpiLeExt, fun u a b => if u then decide (a.toNat ≤ b.toNat) else decide (a.toInt ≤ b.toInt))]

/-- The predicate forms of two sources, and of one (11 R320). -/
def predPairs : List ((Pred → Form.P3 → Instr) × (Bool → Bool → Bool)) :=
  [(.pand, fun a b => a && b), (.por, fun a b => a || b), (.pxor, fun a b => a != b)]
def predSingles : List ((Pred → Form.P2 → Instr) × (Bool → Bool)) := [(.pnot, fun a => !a), (.pmov, fun a => a)]

/-! ### Vector rows (12 R338 to R352) -/

/-- A token's result in the lanes a mask selects, with the selected lanes' flags. -/
def laneRow (p : Pred) (d : Fin 32) (msk : Fin 8) (srcs : List Src) (lat : Nat) (f : Core → Fin 16 → LaneOut) : SlotRow := fun _ c _ =>
  { pred := p, srcs, dests := [.v d], ok := True, closing := false
    effects := [.result (.v d (c.regs.selected msk) (tokenOf (f c))) lat, .flags (laneFlags (c.regs.selected msk) (f c))] }

/-- A lane of an element-wise form of v sources: +0 and invalid where a source's lane is invalid (12 R338). -/
def eachLane (c : Core) (srcs : List (Fin 32)) (g : Fin 16 → Lane × FpFlags) (l : Fin 16) : LaneOut :=
  if srcs.all fun r => (c.regs.v[r]).valid.getLsbD l.val then { x := (g l).1, valid := true, flags := (g l).2 }
  else { x := 0, valid := false, flags := 0 }

/-- A compare's result in the selected bits of an m register: an invalid lane writes 0 (12 R338, R341). -/
def maskRow (p : Pred) (d msk : Fin 8) (a : Fin 32) (ta : Bool) (b : Fin 32) (tb : Bool) (lat : Nat) (g : Lane → Lane → Bool × FpFlags) :
    SlotRow := fun _ c _ =>
  let f := eachLane c [a, b] fun l => (BitVec.ofNat 32 (boolBit (g c.regs.v[a].elem[l] c.regs.v[b].elem[l]).1),
    (g c.regs.v[a].elem[l] c.regs.v[b].elem[l]).2)
  { pred := p, srcs := [(.v a, ta), (.v b, tb)], dests := [], ok := True, closing := false
    effects := [.result (.m d (c.regs.selected msk) (laneBits fun l => (f l).x == 1)) lat, .flags (laneFlags (c.regs.selected msk) f)] }

/-- A v register written by a form of two v sources. -/
def pairLanes (p : Pred) (f : Form.R3) (msk : Fin 8) (lat : Nat) (g : Core → Lane → Lane → Lane × FpFlags) : SlotRow :=
  laneRow p f.d msk [(.v f.a, f.ta), (.v f.b, f.tb)] lat fun c => eachLane c [f.a, f.b] fun l => g c c.regs.v[f.a].elem[l] c.regs.v[f.b].elem[l]

/-- The rounding forms of two sources: without a mask, and under one (12 R340, R352). -/
noncomputable def roundPairs : List ((Pred → Form.R3R → Instr) × (Pred → Form.R3R → Fin 8 → Instr) × Nat × (Rounding → Lane → Lane → Lane × FpFlags)) :=
  [(.vadd, .vaddMsk, 4, fpAdd), (.vsub, .vsubMsk, 4, fpSub), (.vmul, .vmulMsk, 4, fpMul), (.vscale, .vscaleMsk, 3, scaleLane)]

/-- The fused forms: whether the product's sign and C's are inverted (12 R340). -/
noncomputable def fusedForms : List ((Pred → Form.V4R → Instr) × Bool × Bool) := [(.vfma, false, false), (.vfms, false, true), (.vfnma, true, false)]

/-- The exact forms of two sources: latency and value (12 R341, R342). -/
noncomputable def exactPairs : List ((Pred → Form.R3 → Instr) × (Pred → Form.R3 → Fin 8 → Instr) × Nat × (Lane → Lane → Lane × FpFlags)) :=
  [(.vmin, .vminMsk, 4, fpMin), (.vmax, .vmaxMsk, 4, fpMax), (.vand, .vandMsk, 1, fun a b => (a &&& b, 0)),
   (.vor, .vorMsk, 1, fun a b => (a ||| b, 0)), (.vxor, .vxorMsk, 1, fun a b => (a ^^^ b, 0)),
   (.vandn, .vandnMsk, 1, fun a b => (a &&& ~~~b, 0)), (.vshl, .vshlMsk, 1, fun a b => (a <<< (b.toNat % 32), 0)),
   (.vshr, .vshrMsk, 1, fun a b => (a >>> (b.toNat % 32), 0)), (.vsra, .vsraMsk, 1, fun a b => (a.sshiftRight (b.toNat % 32), 0))]

/-- The exact forms of one source (12 R341). -/
noncomputable def exactSingles : List ((Pred → Form.R2 → Instr) × (Pred → Form.R2 → Fin 8 → Instr) × (Lane → Lane × FpFlags)) :=
  [(.vabs, .vabsMsk, fpAbs), (.vneg, .vnegMsk, fpNeg)]

/-- The integer forms at a TY, on the values of their lanes (12 R342). -/
noncomputable def integerPairs : List ((Pred → Form.R3Y → Instr) × (Pred → Form.R3Y → Fin 8 → Instr) × (Int → Int → Int)) :=
  [(.viadd, .viaddMsk, fun a b => a + b), (.visub, .visubMsk, fun a b => a - b), (.vimul, .vimulMsk, fun a b => a * b),
   (.vimin, .viminMsk, fun a b => if a ≤ b then a else b), (.vimax, .vimaxMsk, fun a b => if a ≥ b then a else b)]

/-- The compares into m (12 R341, R342). -/
noncomputable def fpCompares : List ((Pred → Form.Mc → Instr) × (Pred → Form.Mc → Fin 8 → Instr) × (Lane → Lane → Bool × FpFlags)) :=
  [(.vcmpEq, .vcmpEqMsk, fpCmpEq), (.vcmpLt, .vcmpLtMsk, fpCmpLt), (.vcmpLe, .vcmpLeMsk, fpCmpLe), (.vcmpUn, .vcmpUnMsk, fpCmpUn)]
noncomputable def intCompares : List ((Pred → Form.McY → Instr) × (Pred → Form.McY → Fin 8 → Instr) × (Int → Int → Bool)) :=
  [(.vicmpEq, .vicmpEqMsk, fun a b => decide (a = b)), (.vicmpLt, .vicmpLtMsk, fun a b => decide (a < b)),
   (.vicmpLe, .vicmpLeMsk, fun a b => decide (a ≤ b))]

/-- The special functions (12 R347). -/
noncomputable def specialForms : List ((Pred → Form.R2R → Instr) × (Pred → Form.R2R → Fin 8 → Instr) × (Rounding → Lane → Lane × FpFlags)) :=
  [(.vrcp, .vrcpMsk, sfRcp), (.vrsqrt, .vrsqrtMsk, sfRsqrt), (.vsqrt, .vsqrtMsk, sfSqrt), (.vexp2, .vexp2Msk, sfExp2),
   (.vlog2, .vlog2Msk, sfLog2), (.vtanh, .vtanhMsk, sfTanh), (.vsigm, .vsigmMsk, sfSigm)]

/-- A lane as the manual's pseudocode writes it: (E, V), and no flag (12 R343, R346). -/
def moveLane (e : Lane) (v : Bool) : LaneOut := { x := e, valid := v, flags := 0 }

/-- The reduction tree: level by level, neighbours combined, an absent operand giving way (12 R344). -/
def treeLevel (g : Lane → Lane → Lane × FpFlags) : List (Option Lane × FpFlags) → List (Option Lane × FpFlags)
  | (some x, i) :: (some y, j) :: l => (some (g x y).1, i ||| j ||| (g x y).2) :: treeLevel g l
  | (some x, i) :: (none, j) :: l => (some x, i ||| j) :: treeLevel g l
  | (none, i) :: (y, j) :: l => (y, i ||| j) :: treeLevel g l
  | l => l

/-- t[0] of 12 R344: the selected valid lanes. -/
def treeLeaves (c : Core) (a : Fin 32) (msk : Fin 8) : List (Option Lane × FpFlags) :=
  (List.finRange 16).map fun l =>
    if (c.regs.selected msk).getLsbD l.val ∧ c.regs.v[a].valid.getLsbD l.val then (some c.regs.v[a].elem[l], 0) else (none, 0)

/-- t[4][0] of 12 R344, with the flags raised on the way. -/
def treeTop (g : Lane → Lane → Lane × FpFlags) (c : Core) (a : Fin 32) (msk : Fin 8) : Option Lane × FpFlags :=
  (treeLevel g (treeLevel g (treeLevel g (treeLevel g (treeLeaves c a msk))))).headD (none, 0)

/-- A reduction: every lane of D, whatever the mask. -/
def reduceRow (p : Pred) (d a : Fin 32) (ta : Bool) (msk : Fin 8) (g : Core → Lane → Lane → Lane × FpFlags) : SlotRow := fun _ c _ =>
  { pred := p, srcs := [(.v a, ta)], dests := [.v d], ok := True, closing := false
    effects := [.result (.v d (BitVec.allOnes 16)
        (tokenOf fun _ => match (treeTop (g c) c a msk).1 with
          | some x => moveLane x true
          | none => moveLane 0 false)) 6,
      .flags (treeTop (g c) c a msk).2] }

/-- The reductions but `vsum` (12 R344). -/
noncomputable def extremeForms : List ((Pred → Form.R2 → Instr) × (Pred → Form.R2 → Fin 8 → Instr) × (Lane → Lane → Lane × FpFlags)) :=
  [(.vmaxr, .vmaxrMsk, fpMax), (.vminr, .vminrMsk, fpMin)]

/-! ### What memory and engine forms ask for -/

/-- An interval the LS slot may read: in the window, in SCRATCH banks, free of entries of the scoreboard that write it (06 R189, R201, 14 R382). -/
structure Readable (c : Core) (x : Span) : Prop where
  inside  : x.hi < windowEnd
  scratch : c.scratchOnly x = true
  clear   : c.lsConflict (some x) none = false

/-- An interval the LS slot may write: outside the CODE region, too (06 R187). -/
structure Writable (c : Core) (x : Span) : Prop where
  inside  : x.hi < windowEnd
  scratch : c.scratchOnly x = true
  code    : c.meetsCode x = false
  clear   : c.lsConflict none (some x) = false

/-- A global access a handle allows: valid, inside its page, aligned to its size, permitted (07 R210). -/
structure Reaches (h : Handle) (off : Word) (size : Nat) (access : Fin 8) : Prop where
  valid   : h.valid = true
  page    : off.toNat + size ≤ h.size.bytes
  aligned : handleVa h off % size = 0
  permit  : h.permits access = true

/-- A stream that checks 1 to 3 of 13 R358 pass. -/
structure StreamOk (c : Core) (d : Desc) (write : Bool) : Prop where
  en      : d.en = true
  scratch : c.scratchOnly d.hull = true
  code    : write = true → c.meetsCode d.hull = false

/-- A queue with a place for one more operation, and an entry of the scoreboard for it (06 R193, R201). -/
structure QueueOk (c : Core) (q : Queue) : Prop where
  place : c.queueFull q = false
  entry : c.rsbFull = false

/-- The fabric port with a place for one more operation, and an entry of the scoreboard for it (14 R393). -/
structure PortOk (c : Core) : Prop where
  place : c.portFull = false
  entry : c.rsbFull = false

/-- `ld` at an address: the bytes as the LS slot sees them, extended by TY, 4 cycles on (14 R383). -/
def loadRow (p : Pred) (d a : Fin 32) (ta : Bool) (ty : Ty) (ea : Word → Word) : SlotRow := fun _ c _ =>
  { pred := p, srcs := [(.s a, ta)], dests := [.s d], closing := false
    ok := Readable c (lsSpan (ea (c.regs.gets a)) (tySize ty)) ∧ c.badIn (lsSpan (ea (c.regs.gets a)) (tySize ty)) = false
    effects := [.result (.s d (tyWord ty (leNat (c.localBytes (ea (c.regs.gets a)).toNat (tySize ty))))) 4] }

/-- `vld` and `vldm` at an address: 64 bytes, the lanes a mask selects, valid (14 R384). -/
def vloadRow (p : Pred) (d a : Fin 32) (ta : Bool) (mask : Regs → BitVec 16) (ea : Word → Word) : SlotRow := fun _ c _ =>
  { pred := p, srcs := [(.s a, ta)], dests := [.v d], closing := false
    ok := (ea (c.regs.gets a)).toNat % 4 = 0 ∧ Readable c (lsSpan (ea (c.regs.gets a)) 64) ∧ c.badIn (lsSpan (ea (c.regs.gets a)) 64) = false
    effects := [.result (.v d (mask c.regs)
      { elem := lanes fun l => BitVec.ofNat 32 (leNat (c.localBytes ((ea (c.regs.gets a)).toNat + 4 * l.val) 4)), valid := BitVec.allOnes 16 }) 4] }

/-- `st` at an address: the low bytes of D enter the store gate (14 R383, 07 R224). -/
def storeRow (p : Pred) (d a : Fin 32) (ta td : Bool) (ty : Ty) (ea : Word → Word) : SlotRow := fun _ c _ =>
  { pred := p, srcs := [(.s a, ta), (.s d, td)], dests := [], closing := false
    ok := Writable c (lsSpan (ea (c.regs.gets a)) (tySize ty))
    effects := [.gate { store := .scratch (cellsAt (ea (c.regs.gets a)).toNat (leBytes (tySize ty) (c.regs.gets d).toNat))
                        rows := rowsOf (lsSpan (ea (c.regs.gets a)) (tySize ty)) }] }

/-- `vst` and `vstm` at an address: the lanes a mask selects enter the store gate (14 R384). -/
def vstoreRow (p : Pred) (d a : Fin 32) (ta td : Bool) (mask : Regs → BitVec 16) (ea : Word → Word) : SlotRow := fun _ c _ =>
  { pred := p, srcs := [(.s a, ta), (.v d, td)], dests := [], closing := false
    ok := (ea (c.regs.gets a)).toNat % 4 = 0 ∧ Writable c (lsSpan (ea (c.regs.gets a)) 64)
    effects := [.gate { store := .scratch (laneCells (ea (c.regs.gets a)) c.regs.v[d] (mask c.regs)), rows := rowsOf (lsSpan (ea (c.regs.gets a)) 64) }] }

/-- An AMO through a handle: an event with its operands; the register is empty until the old value returns (14 R386). -/
def amoRow (p : Pred) (op : Nat) (ty : Ty) (d : Fin 32) (h : Fin 16) (th : Bool) (a : Fin 32) (ta : Bool) (srcs : List Src) (x y : Regs → Word) :
    SlotRow := fun env c _ =>
  { pred := p, srcs := [(.h h, th), (.s a, ta)] ++ srcs, dests := [.s d], closing := true
    ok := Reaches c.regs.h[h] (c.regs.gets a) (tySize ty) 2 ∧ env.requestsFull = false
    effects := [.amo op d ty (handleVa c.regs.h[h] (c.regs.gets a)) (handlePa c.regs.h[h] (c.regs.gets a)) c.regs.h[h] (x c.regs) (y c.regs)] }

/-- A place at the quad's streamer and an entry of the scoreboard (06 R196, R201). -/
structure StreamerOk (c : Core) (env : Env) : Prop where
  place : c.streamerFull env = false
  entry : c.rsbFull = false

/-- A tile transfer at an issue time: its command, with the stream's hull, once the stream and the handle pass their checks (14 R389, R390). -/
def tileRow (p : Pred) (load : Bool) (q h : Fin 16) (th : Bool) (a : Fin 32) (ta : Bool) (srcs : List Src) (time : Env → Regs → Word) :
    SlotRow := fun env c pos =>
  { pred := p, srcs := [(.h h, th), (.s a, ta)] ++ srcs, dests := [], closing := true
    ok := StreamerOk c env ∧ env.requestsFull = false ∧ c.tileTrap pos c.q[q] c.regs.h[h] (c.regs.gets a) load = none
    effects := [.copy (if load then .tld c.q[q] (handleVa c.regs.h[h] (c.regs.gets a)) h c.regs.h[h]
                       else .tst c.q[q] (handleVa c.regs.h[h] (c.regs.gets a)) h c.regs.h[h]) (time env c.regs)
                  (if load then none else some c.q[q].hull) (if load then some c.q[q].hull else none)] }

/-- A scan: queued with its streams, its init operands and the hulls of what it reads and writes (13 R367). -/
def scanRow (p : Pred) (kind : ScanKind) (y x : Fin 16) (x2 y2 : Option (Fin 16)) (herd : Bool) (srcs : List Src) (init : Regs → ScanInit) :
    SlotRow := fun _ c pos =>
  { pred := p, srcs, dests := [], closing := true
    ok := QueueOk c .scan ∧ c.scanTrap pos kind c.q[x] c.q[y] (x2.map fun q => c.q[q]) (y2.map fun q => c.q[q]) = none
    effects := [.engine .scan (.scan kind c.q[x] c.q[y] (x2.map fun q => c.q[q]) (y2.map fun q => c.q[q]) herd (init c.regs))
      (some c.q[x].hull) (x2.map fun q => c.q[q].hull)
      (some (match y2 with
        | none => c.q[y].hull
        | some q => c.q[y].hull.hull c.q[q].hull))] }

/-- The scans without X2: the form without init, and with it (13 R367). -/
noncomputable def scanSingles : List ((Pred → Form.Scan → Instr) × (Pred → Form.ScanI → Instr) × ScanKind) :=
  [(.scanAdd, .scanAddInit, .add), (.scanMul, .scanMulInit, .mul), (.scanMax, .scanMaxInit, .max), (.scanMin, .scanMinInit, .min)]

/-- An operation of the statistics queue that fills a w register: the register is empty until it completes (13 R373, R374). -/
def statRow (p : Pred) (w : Fin 8) (srcs : List Src) (ok : Core → Fin 8 → Prop) (op : Core → EngOp) (r0 r1 : Core → Option Span) : SlotRow :=
  fun _ c pos =>
  { pred := p, srcs, dests := [.w w], closing := true, ok := c.queueFull .stats = false ∧ (((r0 c).isSome = true ∨ (r1 c).isSome = true) → c.rsbFull = false) ∧ ok c pos
    effects := [.empty (.w w), .engine .stats (op c) (r0 c) (r1 c) none] }

/-- A publication of a stream under record K: the name and tag the record resolves to, with their overrides (14 R393, R394). -/
def pubRow (p : Pred) (q : Fin 16) (k : Fin 8) (srcs : List Src) (tagx idx : Regs → Option Word) (noback live nolive : Bool)
    (f : Firing) (r : NameRec) (n : Nat) (tag : BitVec 16) : SlotRow := fun _ c _ =>
  { pred := p, srcs, dests := [], closing := true
    ok := PortOk c ∧ c.pubRec k = some (f, r) ∧ r.resolve f (tagx c.regs) (idx c.regs) = (some n, tag) ∧ n ≠ eosIndex ∧
      (∀ x, idx c.regs = some x → x.toNat < 2 ^ 36) ∧ StreamOk c c.q[q] false ∧ c.q[q].fmt ≠ .triple ∧ c.q[q].tokens ≤ 256 ∧
      (f.task.rated = true → r.rate ≠ 0 → (assoc f.pubs k.val).getD 0 + c.q[q].tokens ≤ r.rate)
    effects := [.fabric (.pub (nameOf f.ns r.tensor n) tag c.q[q] (r.back && !noback) (live || (r.live && !nolive)) none) (some c.q[q].hull),
                .pubTokens k.val c.q[q].tokens] }

/-- A fetch under subscription K (14 R396); a void name asks for nothing and takes no entry. -/
def fetchFormRow (p : Pred) (q : Fin 16) (k : Fin 8) (srcs : List Src) (tagx idx : Regs → Option Word) (f : Firing) (r : NameRec)
    (n : Option Nat) (tag : BitVec 16) : SlotRow := fun _ c _ =>
  { pred := p, srcs, dests := [], closing := true
    ok := PortOk c ∧ c.subRec k = some (f, r) ∧ r.resolve f (tagx c.regs) (idx c.regs) = (n, tag) ∧
      (∀ x, idx c.regs = some x → x.toNat < 2 ^ 36) ∧ StreamOk c c.q[q] true ∧ c.q[q].fmt ≠ .triple
    effects := [match n with
      | some m => if m = eosIndex then .fetch (nameOf f.ns r.tensor m) tag c.q[q] true none
                  else .fetch (nameOf f.ns r.tensor m) tag c.q[q] false (some c.q[q].hull)
      | none => .fetch (nameOf f.ns r.tensor 0) tag c.q[q] true none] }

/-- What a herd barrier's arrival does: the rank's next phase, the holds on its requests and publications, in a herd a message (14 R398). -/
def arrivalEffects (c : Core) : List Effect :=
  [.herdArrive, .wait .globals, .wait .fabric] ++
    (match c.firing with
     | some f => if f.task.herd then [.fabric (.arrive (c.barArr + 1)) none] else []
     | none => [])

/-! ## Frames and invariants of a core -/

/-- A register and its full/empty bit hold in `d` what they hold in `c`. -/
def Core.agrees (c d : Core) : DestReg → Prop
  | .s r => d.regs.s[r] = c.regs.s[r] ∧ d.regs.full (.s r) = c.regs.full (.s r)
  | .v r => d.regs.v[r] = c.regs.v[r] ∧ d.regs.full (.v r) = c.regs.full (.v r)
  | .m r => d.regs.m[r] = c.regs.m[r]
  | .p r => d.regs.p.getLsbD r.val = c.regs.p.getLsbD r.val
  | .h r => d.regs.h[r] = c.regs.h[r] ∧ d.regs.full (.h r) = c.regs.full (.h r)
  | .q r => d.q[r] = c.q[r]
  | .w r => d.regs.w[r] = c.regs.w[r] ∧ d.regs.full (.w r) = c.regs.full (.w r)

/-- Nothing but the slot's own work lies before the core: no effect of a lower slot in its group, no mark made by one, no software trap,
nothing in flight. -/
structure Quiet (c : Core) : Prop where
  effects : c.issue.effects = []
  closing : c.issue.closing = false
  release : c.issue.release = false
  soft    : c.issue.soft = none
  flight  : c.flight = []

/-- The slot has run, alone, and neither it nor what follows it at the boundary has trapped: the core `d` it leaves still has a firing that
is not FAULTED. `trap` and `brk`, which trap at the boundary, are set apart. -/
structure RanAlone (s : State) (c : Core) (pos : Fin 8) (i : Instr) (e : SlotWord) (d : Core) : Prop where
  word  : encode i = some e
  last  : LastSlot s c pos i
  quiet : Quiet c
  hard  : (∀ p f, i ≠ .trap p f) ∧ ∀ p f, i ≠ .brk p f
  next  : ∃ t, exec i s = .next t ∧ t.core s.focus = some d
  alive : ∃ f, d.firing = some f ∧ f.state ≠ .faulted

/-- A core's scratchpad is in canonical form, and so is what a self-test holds of it (log 2, 01 R33). -/
def Core.memOk (c : Core) : Prop := c.spad.wf = true ∧ ∀ x, c.holding = some x → x.1.wf = true

/-- Every scratchpad is in canonical form: of the module's cores, and of the cores a parked image holds. -/
def State.scratchOk (s : State) : Prop :=
  (∀ x ∈ s.cores, x.2.memOk) ∧ ∀ (k : Fin 8) (i : Image), s.ctxs[k].image = some i → ∀ x ∈ i.cores, x.2.memOk

/-- What a store leaves at a local address: the byte of its cells there, else what was there. -/
def Core.storedAt (c : Core) (cells : List (Nat × Byte)) (a : Nat) : Byte :=
  match cellAt cells a with
  | some b => b
  | none => c.localByte a

/-- A store form completes, and the LS slot then reads its cells where it stored, and elsewhere what it read before (07 R224). -/
def Stores (i : Instr) (r : SlotRow) (cells : Core → List (Nat × Byte)) : Prop :=
  ∀ (s : State) (c : Core) (pos : Fin 8), LastSlot s c pos i → Quiet c → c.spad.wf = true → (r (s.env s.focus) c pos).ok →
    CanRun c (r (s.env s.focus) c pos).pred (r (s.env s.focus) c pos).srcs (r (s.env s.focus) c pos).dests (r (s.env s.focus) c pos).effects →
    ∃ t d, exec i s = .next t ∧ t.core s.focus = some d ∧ ∀ a, d.localByte a = c.storedAt (cells c) a

/-- The core whose turn it is stands at a bundle it can decode: no step is offered, its firing runs, no group is in issue, nothing holds it,
and every byte of the bundle is in the fetch buffer (06 R176, R435, log 6). -/
structure AtBundle (s : State) (c : Core) (f : Firing) : Prop where
  idle    : s.agenda = []
  clock   : s.clocked = true
  core    : s.core s.focus = some c
  firing  : c.firing = some f
  runs    : c.issues = true
  todo    : c.issue.todo = []
  faults  : c.dfaults = []
  owed    : c.issue.owed = 0
  retire  : c.issue.retiring = false
  freeze  : c.stopping = false
  waits   : c.waitsOk (s.env s.focus) = true
  fetched : c.fetchState f = .ready

/-- The group of a bundle that the next step runs: its first, or its second after a rollback into it or where the first is empty. -/
def Core.firstGroup (c : Core) (b : Bundle) : List (Fin 8 × Instr) := groupSlots b (c.issue.second || (groupSlots b false).isEmpty)

/-- A slot word by the fields of 10 Table 10-3. -/
def fieldsWord (ext : Bool) (p : Pred) (op opnd : Nat) : Nat :=
  boolBit ext * 2 ^ 31 + p.reg.val * 2 ^ 28 + boolBit p.sense * 2 ^ 27 + op * 2 ^ 20 + opnd

/-- A core's group is its last, its stack `loops`, nothing transferring control: where the boundary sends it, in its bundle's frame. -/
structure AtBoundary (c : Core) (b : Bundle) : Prop where
  bundle   : c.issue.bundle = some b
  lastHalf : c.issue.second = true ∨ groupSlots b true = []
  straight : c.issue.transfer = none

/-- Bits hi down to lo of a word. -/
def field (x : Word) (hi lo : Nat) : Nat := x.toNat / 2 ^ lo % 2 ^ (hi - lo + 1)

/-! ## Terms for claims about the module's events -/

/-- `f` is the first message in flight with a property; `rest` are the others, in their order. -/
structure FirstMsg (s : State) (q : Flying → Prop) (f : Flying) (rest : List Flying) : Prop where
  has   : q f
  split : ∃ pre post, s.msgs = pre ++ f :: post ∧ rest = pre ++ post ∧ ∀ x ∈ pre, ¬ q x

/-- The first message on VC 0 of a port's channel stands whole where it is, none of it gone, and no gate holds one before it. -/
structure Heads (s : State) (n : Nat) (ch : Chan) (cls : Fin 6) (f : Flying) : Prop where
  direct : ch.detour = false
  open_  : s.blockedByGate n ch.port cls ch.lane = false
  first  : s.firstIn n ch.port cls ch.lane = some f
  whole  : f.lacks = 0 ∧ f.gone = 0 ∧ f.drop = false

/-- An output of a router leads straight to a neighbour, whose queue takes a whole message now. -/
structure Clear (s : State) (n : Nat) (m : Msg) (o : Fin 6) (k : Nat) : Prop where
  next   : neighbour n o = some k
  direct : (s.router n).sideOf o = none
  credit : m.body.flits ≤ s.credit n m o
  fresh  : s.coming (.input k (opposite o)) m = none

/-- A message of the memory plane stands whole and first in an input queue of a router, where it is bound for. -/
structure Arrives (s : State) (tok : MemTok) (m : Msg) (n : Nat) (p : Fin 6) : Prop where
  found : (s.msgs.find? fun f => f.tells tok) = some { place := .input n p, msg := m }
  first : s.firstIn n p m.cls 0 = some { place := .input n p, msg := m }

/-- A scalar request stands at the head of its line at its slice: nothing earlier waits for the line, its predecessor has completed, no tile's
reservation is in its way (02 R54, R58, 07 R217, R220). -/
structure AtSlice (s : State) (r : MemReq) : Prop where
  scalar : r.isTile = false
  stage  : r.stage = .queued
  first  : s.behind r = false
  pred   : s.predOf r = none
  read   : (s.slice (s.sliceOf r.part r.pa)).writeHeld (r.pa / 128) = false
  write  : (∀ n v, r.kind ≠ .store n v) ∧ (∀ op a t b c, r.kind ≠ .amo op a t b c) ∨
    (s.slice (s.sliceOf r.part r.pa)).held (r.pa / 128) = false

/-- A deferred fault of a code, at a virtual address, has joined a core's. -/
def State.deferred (s t : State) (n : Nat) (code : Byte) (addr : Word) : Prop :=
  ∀ c, s.core n = some c → ∃ d x, t.core n = some d ∧ d.dfaults = c.dfaults ++ [x] ∧ x.code = code ∧ x.addr = addr ∧ x.space = 2

end Sys2Proof.Machine
end

