-- ==== Sys2Proof/Certificates/Slice0/Obligations.lean ====
section
/-! DEFINITION. Sys2Proof/Certificates/Slice0/Obligations.lean: the statements for the provers. -/

open Sys2Proof Sys2Proof.Machine

/-! ## Slot forms that write scalar and predicate registers (11 R310 to R320) -/

/-- 11 R312 to R316, R318: every scalar form over registers completes, with its value and its latency. -/
def Obligations.ScalarRegisterForms : Prop :=
  (∀ x ∈ scalarPairs, ∀ p f, Completes (x.1 p f) (scalarRow p f.d [(.s f.a, f.ta), (.s f.b, f.tb)] x.2.1 fun g => x.2.2 (g.gets f.a) (g.gets f.b))) ∧
  (∀ x ∈ scalarWides, ∀ p f,
    Completes (x.1 p f) (scalarRow p f.d [(.s f.a, f.ta), (.s f.b, f.tb)] x.2.1 fun g => x.2.2 f.uns (g.gets f.a) (g.gets f.b))) ∧
  (∀ x ∈ scalarTyped, ∀ p f,
    Completes (x.1 p f) (scalarRow p f.d [(.s f.a, f.ta), (.s f.b, f.tb)] 1 fun g => x.2 f.ty (g.gets f.a) (g.gets f.b))) ∧
  (∀ x ∈ scalarSingles, ∀ p f, Completes (x.1 p f) (scalarRow p f.d [(.s f.a, f.ta)] 1 fun g => x.2 (g.gets f.a))) ∧
  (∀ p (f : Form.R3K), Completes (.sel p f) (scalarRow p f.d [(.s f.a, f.ta), (.s f.b, f.tb)] 1 fun g => if g.getp f.k then g.gets f.a else g.gets f.b)) ∧
  (∀ p (f : Form.R3K), Completes (.lea p f) (scalarRow p f.d [(.s f.a, f.ta), (.s f.b, f.tb)] 1 fun g => g.gets f.a + g.gets f.b <<< f.k.val)) ∧
  (∀ p (f : Form.R4), Completes (.madd p f)
    (scalarRow p f.d [(.s f.a, f.ta), (.s f.b, f.tb), (.s f.c, f.tc)] 3 fun g => g.gets f.a * g.gets f.b + g.gets f.c)) ∧
  (∀ p (f : Form.R4Y), Completes (.clamp p f)
    (scalarRow p f.d [(.s f.a, f.ta), (.s f.b, f.tb), (.s f.c, f.tc)] 1 fun g => clampWord f.ty (g.gets f.a) (g.gets f.b) (g.gets f.c)))

/-- 11 R312, R317, R318: every scalar form with an immediate or a bit field completes; `ins` and `lih` also read D, with T = 0. -/
def Obligations.ScalarImmediateForms : Prop :=
  (∀ p (f : Form.Ri), Completes (.addi p f) (scalarRow p f.d [(.s f.a, f.ta)] 1 fun g => g.gets f.a + f.imm.signExtend 64)) ∧
  (∀ p (f : Form.RiX), Completes (.addiExt p f) (scalarRow p f.d [(.s f.a, f.ta)] 1 fun g => g.gets f.a + f.imm.signExtend 64)) ∧
  (∀ x ∈ scalarShifts, ∀ p f, Completes (x.1 p f) (scalarRow p f.d [(.s f.a, f.ta)] 1 fun g => x.2 (g.gets f.a) f.n.val)) ∧
  (∀ p (f : Form.Bf), Completes (.ext p f)
    (scalarRow p f.d [(.s f.a, f.ta)] 1 fun g => BitVec.ofNat 64 ((g.gets f.a).toNat / 2 ^ f.pos.val % 2 ^ (f.lenm1.val + 1)))) ∧
  (∀ p (f : Form.Bf), Completes (.ins p f)
    (scalarRow p f.d [(.s f.a, f.ta), (.s f.d, false)] 1 fun g => insWord (g.gets f.d) (g.gets f.a) f.pos.val f.lenm1.val)) ∧
  (∀ p (f : Form.Li), Completes (.li p f) (scalarRow p f.d [] 1 fun _ => f.imm.signExtend 64)) ∧
  (∀ p (f : Form.LiX), Completes (.liExt p f) (scalarRow p f.d [] 1 fun _ => f.imm.signExtend 64)) ∧
  (∀ p (f : Form.Li), Completes (.lih p f) (scalarRow p f.d [(.s f.d, false)] 1 fun g => lihWord (g.gets f.d) (f.imm.signExtend 64))) ∧
  (∀ p (f : Form.LiX), Completes (.lihExt p f) (scalarRow p f.d [(.s f.d, false)] 1 fun g => lihWord (g.gets f.d) (f.imm.signExtend 64)))

/-- 11 R319, R320: every compare and every predicate form completes with its predicate. -/
def Obligations.CompareAndPredicateForms : Prop :=
  (∀ x ∈ compareRel, ∀ p,
    (∀ f, Completes (x.1 p f) (predRow p f.pd [(.s f.a, f.ta), (.s f.b, f.tb)] fun g => x.2.2.2 f.uns (g.gets f.a) (g.gets f.b))) ∧
    (∀ f, Completes (x.2.1 p f)
      (predRow p f.pd [(.s f.a, f.ta)] fun g => x.2.2.2 f.uns (g.gets f.a) (if f.uns then f.imm.setWidth 64 else f.imm.signExtend 64))) ∧
    (∀ f, Completes (x.2.2.1 p f)
      (predRow p f.pd [(.s f.a, f.ta)] fun g => x.2.2.2 f.uns (g.gets f.a) (if f.uns then f.imm.setWidth 64 else f.imm.signExtend 64)))) ∧
  (∀ x ∈ predPairs, ∀ p f, Completes (x.1 p f) (predRow p f.pd [] fun g => x.2 (g.getp f.pa) (g.getp f.pb))) ∧
  (∀ x ∈ predSingles, ∀ p f, Completes (x.1 p f) (predRow p f.pd [] fun g => x.2 (g.getp f.pa)))

/-! ## The BR forms (11 R321 to R336, 14 R402, R403) -/

/-- 11 R321, R323, R324: a transfer to an even target inside the window completes; `brc` whose condition does not hold transfers nothing;
`br`, `brc` and `jr` pop loops, `call` and `ret` do not; `call` writes s31 with the next bundle's address. -/
def Obligations.TransferForms : Prop :=
  let good (t : Int) : Prop := 0 ≤ t ∧ t < (windowEnd : Int) ∧ t % 2 = 0
  (∀ p (f : Form.Jmp), Completes (.br p f) fun _ c _ =>
    { pred := p, srcs := [], dests := [], closing := false, ok := good ((c.issue.pc : Int) + 2 * f.off.toInt)
      effects := [.jump ((c.issue.pc : Int) + 2 * f.off.toInt).toNat true] }) ∧
  (∀ p (f : Form.Brc), Completes (.brc p f) fun _ c _ =>
    { pred := p, srcs := [(.s f.a, f.ta)], dests := [], closing := false
      ok := condHolds f.cond (c.regs.gets f.a) = true → good ((c.issue.pc : Int) + 2 * f.off.toInt)
      effects := if condHolds f.cond (c.regs.gets f.a) then [.jump ((c.issue.pc : Int) + 2 * f.off.toInt).toNat true] else [] }) ∧
  (∀ p (f : Form.BrcX), Completes (.brcExt p f) fun _ c _ =>
    { pred := p, srcs := [(.s f.a, f.ta)], dests := [], closing := false
      ok := condHolds f.cond (c.regs.gets f.a) = true → good ((c.issue.pc : Int) + 2 * f.off.toInt)
      effects := if condHolds f.cond (c.regs.gets f.a) then [.jump ((c.issue.pc : Int) + 2 * f.off.toInt).toNat true] else [] }) ∧
  (∀ p (f : Form.Ra), Completes (.jr p f) fun _ c _ =>
    { pred := p, srcs := [(.s f.a, f.ta)], dests := [], closing := false, ok := good (c.regs.gets f.a).toNat
      effects := [.jump (c.regs.gets f.a).toNat true] }) ∧
  (∀ p (f : Form.Jmp), Completes (.call p f) fun _ c _ =>
    { pred := p, srcs := [], dests := [.s 31], closing := false, ok := good ((c.issue.pc : Int) + 2 * f.off.toInt)
      effects := [.jump ((c.issue.pc : Int) + 2 * f.off.toInt).toNat false, .result (.s 31 (BitVec.ofNat 64 (c.issue.pc + c.bundleLen))) 1] }) ∧
  (∀ p, Completes (.ret p) fun _ c _ =>
    { pred := p, srcs := [(.s 31, false)], dests := [], closing := false, ok := good (c.regs.gets 31).toNat
      effects := [.jump (c.regs.gets 31).toNat false] })

/-- 11 R326, R328: a loop whose END the CODE region holds pushes its entry where the stack has room, or transfers to END where its count
is 0. -/
def Obligations.LoopForms : Prop :=
  (∀ p (f : Form.Lp), Completes (.lp p f) fun _ c _ =>
    { pred := p, srcs := [(.s f.a, f.ta)], dests := [], closing := false
      ok := c.issue.pc + 2 * f.stop.toNat ≤ c.codeEnd ∧ c.regs.gets f.a ≠ 0 ∧ c.loops.length < 4
      effects := [.loopPush (c.issue.pc + c.bundleLen) (c.issue.pc + 2 * f.stop.toNat) (c.regs.gets f.a)] }) ∧
  (∀ p (f : Form.Lp), Completes (.lp p f) fun _ c _ =>
    { pred := p, srcs := [(.s f.a, f.ta)], dests := [], closing := false
      ok := c.issue.pc + 2 * f.stop.toNat ≤ c.codeEnd ∧ c.regs.gets f.a = 0 ∧ c.issue.pc + 2 * f.stop.toNat < windowEnd ∧ c.issue.pc % 2 = 0
      effects := [.jump (c.issue.pc + 2 * f.stop.toNat) true] }) ∧
  (∀ p (f : Form.Lpx), Completes (.lpx p f) fun _ c _ =>
    { pred := p, srcs := [], dests := [], closing := false
      ok := c.issue.pc + 2 * f.stop.toNat ≤ c.codeEnd ∧ c.loops.length < 4
      effects := [.loopPush (c.issue.pc + c.bundleLen) (c.issue.pc + 2 * f.stop.toNat) (BitVec.ofNat 64 (f.cntm1.toNat + 1))] })

/-- 11 R329 to R334: waits, the end of a firing, its trigger, the software traps and the sections complete; `xwait` and `twait` hold
nothing where what they wait for has come. -/
def Obligations.WaitAndEndForms : Prop :=
  (∀ p (f : Form.Xw), Completes (.xwait p f) (plainRow p false [(.s f.a, f.ta)] fun _ c =>
    if (c.xnext[f.ch]).toNat ≤ (c.regs.gets f.a).toNat ∨ (c.regs.gets f.a).toNat < (c.xdone[f.ch]).toNat then []
    else [.wait (.xdone f.ch (c.regs.gets f.a))])) ∧
  (∀ p (f : Form.Ra), Completes (.twait p f) (plainRow p false [(.s f.a, f.ta)] fun env c =>
    if (c.regs.gets f.a).toNat ≤ env.wcc.toNat then [] else [.wait (.wcc (c.regs.gets f.a))])) ∧
  (∀ p, Completes (.retire p) (plainRow p true [] fun _ _ => [.retire])) ∧
  (∀ p, Completes (.trigger p) (plainRow p true [] fun _ _ => [.trigger])) ∧
  (∀ p (f : Form.N16), Completes (.trap p f) (plainRow p false [] fun _ _ => [.soft 0x15 f.imm])) ∧
  (∀ p (f : Form.N16), Completes (.brk p f) (plainRow p false [] fun _ _ => [.soft 0x16 f.imm])) ∧
  (∀ p, Completes (.npsBegin p) (plainRow p true [] fun _ _ => [.nps true])) ∧
  (∀ p, Completes (.npsEnd p) (plainRow p true [] fun _ _ => [.nps false]))

/-- 11 R335, R336, 14 R402, R403: a read of a register that is not slow arrives in 1 cycle, a slow one fills D later; a write of FPCR or
KEY completes where A has no reserved bit, and traps ILLEGAL_OP where it has one; `cfgq` and `wccr` read in 1 cycle. -/
def Obligations.SystemRegisterForms : Prop :=
  (∀ p (f : Form.Srd), Completes (.srd p f) fun env c _ =>
    { pred := p, srcs := [], dests := [.s f.d], closing := false, ok := True
      effects := if f.reg = .waferCaps ∨ f.reg = .partHop ∨ f.reg = .wcc then [.fill (.s f.d) (.s f.d (c.sysRead env f.reg))]
                 else [.result (.s f.d (c.sysRead env f.reg)) 1] }) ∧
  (∀ p (f : Form.Swr), f.reg = .fpcr → Completes (.swr p f) fun _ c _ =>
    { pred := p, srcs := [(.s f.a, f.ta)], dests := [], closing := true, ok := c.regs.gets f.a &&& ~~~0x1F07 = 0
      effects := [.setFpcr (c.regs.gets f.a)] }) ∧
  (∀ p (f : Form.Swr) k, f.reg = .key k → Completes (.swr p f) fun _ c _ =>
    { pred := p, srcs := [(.s f.a, f.ta)], dests := [], closing := true, ok := (c.regs.gets f.a).toNat < 2 ^ 32
      effects := [.setKey k (c.regs.gets f.a)] }) ∧
  (∀ p (f : Form.Swr) s c, LastSlot s c 7 (.swr p f) → c.executes p = true → c.regs.full (.s f.a) = true → FullReg.s f.a ∉ c.regs.bad →
    gateRows c.gate + rowsTaken c.issue.effects ≤ 32 →
    ((f.reg = .fpcr ∧ c.regs.gets f.a &&& ~~~0x1F07 ≠ 0) ∨ ((∃ k, f.reg = .key k) ∧ 2 ^ 32 ≤ (c.regs.gets f.a).toNat)) →
    exec (.swr p f) s = .next (s.trapsWith c true (.trap (trapOf trapIllegalOp 7)) (trapOf trapIllegalOp 7))) ∧
  (∀ p (f : Form.Cfgq), Completes (.cfgq p f) fun env c _ =>
    { pred := p, srcs := [], dests := [.s f.d], closing := false, ok := True, effects := [.result (.s f.d (c.cfgItem env f.item)) 1] }) ∧
  (∀ p (f : Form.Rd), Completes (.wccr p f) fun env _ _ =>
    { pred := p, srcs := [], dests := [.s f.d], closing := false, ok := True, effects := [.result (.s f.d env.wcc) 1] })

/-! ## The vector forms (12 R338 to R352) -/

/-- 12 R338, R340, R341, R352: every floating-point form completes lane by lane, under a mask or not: invalid lanes +0 and invalid, the rest
the rounded value of their elements, with the flags of the selected lanes. -/
def Obligations.VectorFloatForms : Prop :=
  (∀ x ∈ roundPairs, ∀ p (f : Form.R3R),
    (Completes (x.1 p f) (pairLanes p { d := f.d, a := f.a, ta := f.ta, b := f.b, tb := f.tb } 0 x.2.2.1 fun c => x.2.2.2 (arithMode f.rms c.fpcr))) ∧
    ∀ m, Completes (x.2.1 p f m) (pairLanes p { d := f.d, a := f.a, ta := f.ta, b := f.b, tb := f.tb } m x.2.2.1 fun c => x.2.2.2 (arithMode f.rms c.fpcr))) ∧
  (∀ x ∈ fusedForms, ∀ p (f : Form.V4R), Completes (x.1 p f)
    (laneRow p f.d f.msk [(.v f.a, f.ta), (.v f.b, f.tb), (.v f.c, f.tc)] 4 fun c => eachLane c [f.a, f.b, f.c] fun l =>
      fpFma (arithMode f.rms c.fpcr) x.2.1 x.2.2 c.regs.v[f.a].elem[l] c.regs.v[f.b].elem[l] c.regs.v[f.c].elem[l])) ∧
  (∀ x ∈ exactPairs, ∀ p (f : Form.R3),
    (Completes (x.1 p f) (pairLanes p f 0 x.2.2.1 fun _ => x.2.2.2)) ∧ ∀ m, Completes (x.2.1 p f m) (pairLanes p f m x.2.2.1 fun _ => x.2.2.2)) ∧
  (∀ x ∈ exactSingles, ∀ p (f : Form.R2),
    (Completes (x.1 p f) (laneRow p f.d 0 [(.v f.a, f.ta)] 4 fun c => eachLane c [f.a] fun l => x.2.2 c.regs.v[f.a].elem[l])) ∧
    ∀ m, Completes (x.2.1 p f m) (laneRow p f.d m [(.v f.a, f.ta)] 4 fun c => eachLane c [f.a] fun l => x.2.2 c.regs.v[f.a].elem[l])) ∧
  (∀ p (f : Form.V4), Completes (.vclamp p f)
    (laneRow p f.d f.msk [(.v f.a, f.ta), (.v f.b, f.tb), (.v f.c, f.tc)] 4 fun c => eachLane c [f.a, f.b, f.c] fun l =>
      let x := fpMax c.regs.v[f.a].elem[l] c.regs.v[f.b].elem[l]
      let y := fpMin x.1 c.regs.v[f.c].elem[l]
      (y.1, x.2 ||| y.2)))

/-- 12 R338, R341, R342: every integer form wraps at its width and extends by its TY, and every compare writes the selected bits of its m
register, with no flag but the floating-point compares'. -/
def Obligations.VectorIntegerAndCompareForms : Prop :=
  (∀ x ∈ integerPairs, ∀ p (f : Form.R3Y),
    let g := fun (_ : Core) (a b : Lane) =>
      ((BitVec.ofInt 32 (tyVal f.ty (x.2.2 (tyVal f.ty a.toNat) (tyVal f.ty b.toNat) % (2 ^ (8 * tySize f.ty) : Nat)).toNat) : Lane), (0 : FpFlags))
    (Completes (x.1 p f) (pairLanes p { d := f.d, a := f.a, ta := f.ta, b := f.b, tb := f.tb } 0 1 g)) ∧
    ∀ m, Completes (x.2.1 p f m) (pairLanes p { d := f.d, a := f.a, ta := f.ta, b := f.b, tb := f.tb } m 1 g)) ∧
  (∀ x ∈ fpCompares, ∀ p (f : Form.Mc),
    (Completes (x.1 p f) (maskRow p f.d 0 f.a f.ta f.b f.tb 4 x.2.2)) ∧ ∀ m, Completes (x.2.1 p f m) (maskRow p f.d m f.a f.ta f.b f.tb 4 x.2.2)) ∧
  (∀ x ∈ intCompares, ∀ p (f : Form.McY),
    let g := fun (a b : Lane) => (x.2.2 (tyVal f.ty a.toNat) (tyVal f.ty b.toNat), (0 : FpFlags))
    (Completes (x.1 p f) (maskRow p f.d 0 f.a f.ta f.b f.tb 1 g)) ∧ ∀ m, Completes (x.2.1 p f m) (maskRow p f.d m f.a f.ta f.b f.tb 1 g))

/-- 12 R341, R343, R346: the lane moves complete, their valid bits as the manual's pseudocode has them, with no flag. -/
def Obligations.LaneMoveForms : Prop :=
  let lane (n : Nat) : Fin 16 := ⟨n % 16, Nat.mod_lt n (by decide)⟩
  let two (i : Pred → Fin 8 → Instr) (d : Fin 32) (srcs : List Src) (lat : Nat) (g : Core → Fin 16 → LaneOut) : Prop :=
    ∀ p m, Completes (i p m) (laneRow p d m srcs lat g)
  (∀ f : Form.R3K,
    let g := fun (c : Core) (l : Fin 16) =>
      if c.regs.m[f.k].getLsbD l.val then moveLane c.regs.v[f.a].elem[l] (c.regs.v[f.a].valid.getLsbD l.val)
      else moveLane c.regs.v[f.b].elem[l] (c.regs.v[f.b].valid.getLsbD l.val)
    (∀ p, Completes (.vsel p f) (laneRow p f.d 0 [(.v f.a, f.ta), (.v f.b, f.tb)] 1 g)) ∧
    two (fun p m => .vselMsk p f m) f.d [(.v f.a, f.ta), (.v f.b, f.tb)] 1 g) ∧
  (∀ f : Form.R2,
    let g := fun (c : Core) (_ : Fin 16) => moveLane ((c.regs.gets f.a).setWidth 32) true
    (∀ p, Completes (.vbcast p f) (laneRow p f.d 0 [(.s f.a, f.ta)] 2 g)) ∧ two (fun p m => .vbcastMsk p f m) f.d [(.s f.a, f.ta)] 2 g) ∧
  (∀ p (f : Form.R2K), Completes (.vext p f) fun _ c _ =>
    { pred := p, srcs := [(.v f.a, f.ta)], dests := [.s f.d], ok := True, closing := false
      effects := [.result (.s f.d (c.regs.v[f.a].elem[f.k].setWidth 64)) 2] }) ∧
  (∀ p (f : Form.R2K), Completes (.vins p f) fun _ c _ =>
    { pred := p, srcs := [(.s f.a, f.ta)], dests := [.v f.d], ok := True, closing := false
      effects := [.result (.v f.d (BitVec.ofNat 16 (2 ^ f.k.val)) (tokenOf fun _ => moveLane ((c.regs.gets f.a).setWidth 32) true)) 2] }) ∧
  (∀ f : Form.R3,
    let g := fun (c : Core) (l : Fin 16) =>
      let j := lane (c.regs.v[f.b].elem[l].toNat);
      moveLane c.regs.v[f.a].elem[j] (c.regs.v[f.a].valid.getLsbD j.val && c.regs.v[f.b].valid.getLsbD l.val)
    (∀ p, Completes (.vperm p f) (laneRow p f.d 0 [(.v f.a, f.ta), (.v f.b, f.tb)] 2 g)) ∧
    two (fun p m => .vpermMsk p f m) f.d [(.v f.a, f.ta), (.v f.b, f.tb)] 2 g) ∧
  (∀ f : Form.R3,
    let g := fun (c : Core) (l : Fin 16) =>
      let t : Int := (l.val : Int) - (c.regs.gets f.b).toInt;
      if 0 ≤ t ∧ t ≤ 15 then moveLane c.regs.v[f.a].elem[lane t.toNat] (c.regs.v[f.a].valid.getLsbD (lane t.toNat).val) else moveLane 0 false
    (∀ p, Completes (.vshift p f) (laneRow p f.d 0 [(.v f.a, f.ta), (.s f.b, f.tb)] 2 g)) ∧
    two (fun p m => .vshiftMsk p f m) f.d [(.v f.a, f.ta), (.s f.b, f.tb)] 2 g) ∧
  (∀ f : Form.R3,
    let g := fun (c : Core) (l : Fin 16) =>
      let t := lane (l.val + 16 - (c.regs.gets f.b).toNat % 16);
      moveLane c.regs.v[f.a].elem[t] (c.regs.v[f.a].valid.getLsbD t.val)
    (∀ p, Completes (.vrot p f) (laneRow p f.d 0 [(.v f.a, f.ta), (.s f.b, f.tb)] 2 g)) ∧
    two (fun p m => .vrotMsk p f m) f.d [(.v f.a, f.ta), (.s f.b, f.tb)] 2 g) ∧
  (∀ f : Form.R2,
    let g := fun (c : Core) (l : Fin 16) => moveLane c.regs.v[f.a].elem[l] (c.regs.v[f.a].valid.getLsbD l.val)
    (∀ p, Completes (.vmov p f) (laneRow p f.d 0 [(.v f.a, f.ta)] 1 g)) ∧ two (fun p m => .vmovMsk p f m) f.d [(.v f.a, f.ta)] 1 g) ∧
  (∀ f : Form.VmmA,
    let g := fun (c : Core) (l : Fin 16) =>
      let v := c.regs.v[f.a].valid.getLsbD l.val && c.regs.m[f.mb].getLsbD l.val;
      moveLane (if v then c.regs.v[f.a].elem[l] else 0) v
    (∀ p, Completes (.vmovAnd p f) (laneRow p f.d 0 [(.v f.a, f.ta)] 1 g)) ∧ two (fun p m => .vmovAndMsk p f m) f.d [(.v f.a, f.ta)] 1 g) ∧
  (∀ f : Form.VmmS,
    let g := fun (c : Core) (l : Fin 16) =>
      let v := c.regs.m[f.mb].getLsbD l.val;
      moveLane (if v then c.regs.v[f.a].elem[l] else 0) v
    (∀ p, Completes (.vmovSet p f) (laneRow p f.d 0 [(.v f.a, f.ta)] 1 g)) ∧ two (fun p m => .vmovSetMsk p f m) f.d [(.v f.a, f.ta)] 1 g)

/-- 12 R344, R345: the reductions complete over the fixed tree, and the mask forms with their masks, counts and valid bits. -/
def Obligations.ReductionAndMaskForms : Prop :=
  let mask (p : Pred) (d : Fin 8) (srcs : List Src) (x : Regs → BitVec 16) : SlotRow := fun _ c _ =>
    { pred := p, srcs, dests := [], ok := True, closing := false, effects := [.result (.m d (BitVec.allOnes 16) (x c.regs)) 1] }
  (∀ p (f : Form.R2R), (Completes (.vsum p f) (reduceRow p f.d f.a f.ta 0 fun c => fpAdd (arithMode f.rms c.fpcr))) ∧
    ∀ m, Completes (.vsumMsk p f m) (reduceRow p f.d f.a f.ta m fun c => fpAdd (arithMode f.rms c.fpcr))) ∧
  (∀ x ∈ extremeForms, ∀ p (f : Form.R2), (Completes (x.1 p f) (reduceRow p f.d f.a f.ta 0 fun _ => x.2.2)) ∧
    ∀ m, Completes (x.2.1 p f m) (reduceRow p f.d f.a f.ta m fun _ => x.2.2)) ∧
  (∀ p (f : Form.M3), Completes (.mand p f) (mask p f.d [] fun g => g.m[f.a] &&& g.m[f.b])) ∧
  (∀ p (f : Form.M3), Completes (.mor p f) (mask p f.d [] fun g => g.m[f.a] ||| g.m[f.b])) ∧
  (∀ p (f : Form.M3), Completes (.mxor p f) (mask p f.d [] fun g => g.m[f.a] ^^^ g.m[f.b])) ∧
  (∀ p (f : Form.M2), Completes (.mnot p f) (mask p f.d [] fun g => ~~~g.m[f.a])) ∧
  (∀ p (f : Form.Mv), Completes (.vvalid p f) (mask p f.d [(.v f.a, f.ta)] fun g => g.v[f.a].valid)) ∧
  (∀ p (f : Form.Sm), Completes (.mpop p f) (scalarRow p f.d [] 1 fun g =>
    BitVec.ofNat 64 ((List.finRange 16).filter fun l => g.m[f.a].getLsbD l.val).length)) ∧
  (∀ p (f : Form.Sm), Completes (.mfirst p f) (scalarRow p f.d [] 1 fun g =>
    BitVec.ofNat 64 ((List.finRange 16).takeWhile fun l => !g.m[f.a].getLsbD l.val).length))

/-- 12 R347 to R351: the special functions, the random generator and the converter complete; a conversion reads V only while RSTO is in
effect, and a tapered format asks for the decoders. -/
def Obligations.SpecialAndConversionForms : Prop :=
  let sources (c : Core) (a : Fin 32) (ta : Bool) (v : Fin 32) (tv : Bool) (rms : Rms) : List Src :=
    if stoInEffect rms c.fpcr then [(.v a, ta), (.v v, tv)] else [(.v a, ta)]
  let decoders (env : Env) (a b : Fmt) : Prop := (a = .t8 ∨ a = .t6 ∨ b = .t8 ∨ b = .t6) → env.caps.toNat / 2 % 2 = 1
  (∀ x ∈ specialForms, ∀ p (f : Form.R2R),
    let g := fun (c : Core) => eachLane c [f.a] fun l => x.2.2 (arithMode f.rms c.fpcr) c.regs.v[f.a].elem[l]
    (Completes (x.1 p f) (laneRow p f.d 0 [(.v f.a, f.ta)] 12 g)) ∧ ∀ m, Completes (x.2.1 p f m) (laneRow p f.d m [(.v f.a, f.ta)] 12 g)) ∧
  (∀ p (f : Form.R3),
    let g := fun (c : Core) => eachLane c [f.a] fun l =>
      (randWord c.keys (c.regs.gets f.b + c.regs.v[f.a].elem[l].setWidth 64), 0)
    (Completes (.vrand p f) (laneRow p f.d 0 [(.v f.a, f.ta), (.s f.b, f.tb)] 8 g)) ∧
    ∀ m, Completes (.vrandMsk p f m) (laneRow p f.d m [(.v f.a, f.ta), (.s f.b, f.tb)] 8 g)) ∧
  (∀ p (f : Form.Vcv), Completes (.vcvt p f) fun env c _ =>
    let g := eachLane c [f.a] fun l =>
      let r := elemEncode f.dfmt (convMode f.rms c.fpcr c.regs.v[f.v].elem[l]) (elemDecode f.sfmt c.regs.v[f.a].elem[l].toNat)
      (elemLane f.dfmt r.1, r.2)
    { pred := p, srcs := sources c f.a f.ta f.v f.tv f.rms, dests := [.v f.d], ok := decoders env f.sfmt f.dfmt, closing := false
      effects := [.result (.v f.d (c.regs.selected f.msk) (tokenOf g)) 3, .flags (laneFlags (c.regs.selected f.msk) g)] }) ∧
  (∀ p (f : Form.Vpk), Completes (.vpack p f) fun env c _ =>
    let e := fun l : Fin 16 => if c.regs.v[f.a].valid.getLsbD l.val then
        elemEncode f.dfmt (convMode f.rms c.fpcr c.regs.v[f.v].elem[l]) (elemDecode f.sfmt c.regs.v[f.a].elem[l].toNat) else (0, 0)
    { pred := p, srcs := sources c f.a f.ta f.v f.tv f.rms, dests := [.v f.d], ok := decoders env f.sfmt f.dfmt, closing := false
      effects := [.result (.v f.d (BitVec.ofNat 16 (2 ^ (f.dfmt.width / 2) - 1))
          { elem := lanes fun l => BitVec.ofNat 32 (packToken f.dfmt (fun l => (e l).1) / 2 ^ (32 * l.val)), valid := BitVec.allOnes 16 }) 3,
        .flags (laneFlags (BitVec.allOnes 16) fun l => { x := 0, valid := true, flags := (e l).2 })] }) ∧
  (∀ p (f : Form.Vpk), Completes (.vunpack p f) fun env c _ =>
    { pred := p, srcs := sources c f.a f.ta f.v f.tv f.rms, dests := [.v f.d], ok := decoders env f.sfmt f.dfmt, closing := false
      effects := [.result (.v f.d (BitVec.allOnes 16) (tokenOf (unpackLane c f))) 3, .flags (laneFlags (BitVec.allOnes 16) (unpackLane c f))] })

/-! ## The LS forms (14 R382 to R392) and the copies (13 R377 to R379) -/

/-- 14 R382 to R384: the scratchpad loads complete with the bytes the LS slot sees at their address, the scratchpad stores with an entry of
the store gate; nothing is stored before the gate releases. -/
def Obligations.ScratchpadForms : Prop :=
  (∀ p (f : Form.Ld), Completes (.ld p f) (loadRow p f.d f.a f.ta f.ty fun a => a + f.off.signExtend 64 * BitVec.ofNat 64 (tySize f.ty))) ∧
  (∀ p (f : Form.LdX), Completes (.ldExt p f) (loadRow p f.d f.a f.ta f.ty fun a => a + f.off.signExtend 64)) ∧
  (∀ p (f : Form.St), Completes (.st p f) (storeRow p f.d f.a f.ta f.td f.ty fun a => a + f.off.signExtend 64 * BitVec.ofNat 64 (tySize f.ty))) ∧
  (∀ p (f : Form.StX), Completes (.stExt p f) (storeRow p f.d f.a f.ta f.td f.ty fun a => a + f.off.signExtend 64)) ∧
  (∀ p (f : Form.Vld), Completes (.vld p f) (vloadRow p f.d f.a f.ta (fun _ => BitVec.allOnes 16) fun a => a + f.off.signExtend 64 * 64)) ∧
  (∀ p (f : Form.VldX), Completes (.vldExt p f) (vloadRow p f.d f.a f.ta (fun _ => BitVec.allOnes 16) fun a => a + f.off.signExtend 64)) ∧
  (∀ p (f : Form.Vst), Completes (.vst p f) (vstoreRow p f.d f.a f.ta f.td (fun _ => BitVec.allOnes 16) fun a => a + f.off.signExtend 64 * 64)) ∧
  (∀ p (f : Form.VstX), Completes (.vstExt p f) (vstoreRow p f.d f.a f.ta f.td (fun _ => BitVec.allOnes 16) fun a => a + f.off.signExtend 64)) ∧
  (∀ p (f : Form.Vldm), Completes (.vldm p f) (vloadRow p f.d f.a f.ta (fun g => g.m[f.msk]) fun a => a + f.off.signExtend 64 * 64)) ∧
  (∀ p (f : Form.VldmX), Completes (.vldmExt p f) (vloadRow p f.d f.a f.ta (fun g => g.m[f.msk]) fun a => a + f.off.signExtend 64)) ∧
  (∀ p (f : Form.Vstm), Completes (.vstm p f) (vstoreRow p f.d f.a f.ta f.td (fun g => g.m[f.msk]) fun a => a + f.off.signExtend 64 * 64)) ∧
  (∀ p (f : Form.VstmX), Completes (.vstmExt p f) (vstoreRow p f.d f.a f.ta f.td (fun g => g.m[f.msk]) fun a => a + f.off.signExtend 64))

/-- 14 R385, R386, 07 R210, R224: a global load makes a request and empties D, behind a gated `gst` once the gate has released; a global
store enters the gate; an AMO is an event of its operation with its operands. -/
def Obligations.GlobalForms : Prop :=
  (∀ p (f : Form.Gld), Completes (.gld p f) fun env c _ =>
    { pred := p, srcs := [(.h f.h, f.th), (.s f.a, f.ta)], dests := [.s f.d], closing := false
      ok := Reaches c.regs.h[f.h] (c.regs.gets f.a) (tySize f.ty) 0 ∧ env.requestsFull = false ∧ c.gatedGlobal = false
      effects := [.load f.d f.ty (handleVa c.regs.h[f.h] (c.regs.gets f.a)) (handlePa c.regs.h[f.h] (c.regs.gets f.a)) c.regs.h[f.h]] }) ∧
  (∀ p (f : Form.Gld) s c pos, LastSlot s c pos (.gld p f) → Reaches c.regs.h[f.h] (c.regs.gets f.a) (tySize f.ty) 0 →
    (s.env s.focus).requestsFull = false → c.gatedGlobal = true →
    CanRun c p [(.h f.h, f.th), (.s f.a, f.ta)] [.s f.d]
      [.load f.d f.ty (handleVa c.regs.h[f.h] (c.regs.gets f.a)) (handlePa c.regs.h[f.h] (c.regs.gets f.a)) c.regs.h[f.h]] →
    exec (.gld p f) s = .next (s.issued c false
      (.goRelease [.load f.d f.ty (handleVa c.regs.h[f.h] (c.regs.gets f.a)) (handlePa c.regs.h[f.h] (c.regs.gets f.a)) c.regs.h[f.h]]))) ∧
  (∀ p (f : Form.Gst), Completes (.gst p f) fun env c _ =>
    { pred := p, srcs := [(.h f.h, f.th), (.s f.a, f.ta), (.s f.d, f.td)], dests := [], closing := false
      ok := Reaches c.regs.h[f.h] (c.regs.gets f.a) (tySize f.ty) 1 ∧ env.requestsFull = false
      effects := [.gate { store := .global (handleVa c.regs.h[f.h] (c.regs.gets f.a)) (handlePa c.regs.h[f.h] (c.regs.gets f.a)) (tySize f.ty)
                                     (c.regs.gets f.d) c.regs.h[f.h], rows := 1 }] }) ∧
  (∀ p (f : Form.Amo), Completes (.amoAdd p f) (amoRow p 0 f.ty f.d f.h f.th f.a f.ta [(.s f.b, f.tb)] (·.gets f.b) fun _ => 0)) ∧
  (∀ p (f : Form.Amo), Completes (.amoMin p f) (amoRow p 1 f.ty f.d f.h f.th f.a f.ta [(.s f.b, f.tb)] (·.gets f.b) fun _ => 0)) ∧
  (∀ p (f : Form.Amo), Completes (.amoMax p f) (amoRow p 2 f.ty f.d f.h f.th f.a f.ta [(.s f.b, f.tb)] (·.gets f.b) fun _ => 0)) ∧
  (∀ p (f : Form.Amo), Completes (.amoSwap p f) (amoRow p 3 f.ty f.d f.h f.th f.a f.ta [(.s f.b, f.tb)] (·.gets f.b) fun _ => 0)) ∧
  (∀ p (f : Form.AmoC), Completes (.amoCas p f)
    (amoRow p 4 f.ty f.d f.h f.th f.a f.ta [(.s f.b, f.tb), (.s f.c, f.tc)] (·.gets f.b) (·.gets f.c))) ∧
  (∀ p (f : Form.AmoF), Completes (.amoFadd p f) (amoRow p 5 .i32 f.d f.h f.th f.a f.ta [(.s f.b, f.tb)] (·.gets f.b) fun _ => 0))

/-- 14 R387, R388, R391, R392: `xlat`, `hinv`, `pf`, the cache invalidations, the fences and `bankmode` complete; `pf` does nothing where it
cannot prefetch. -/
def Obligations.HandleCacheAndFenceForms : Prop :=
  (∀ p (f : Form.Hx), Completes (.xlat p f) fun _ c _ =>
    { pred := p, srcs := [(.s f.a, f.ta)], dests := [.h f.h], closing := false, ok := (c.regs.gets f.a).toNat < 2 ^ 52
      effects := [.xlat f.h (c.regs.gets f.a).toNat] }) ∧
  (∀ p (f : Form.H1), Completes (.hinv p f) fun _ c _ =>
    { pred := p, srcs := [], dests := [.h f.h], closing := false, ok := True
      effects := [.result (.h f.h { c.regs.h[f.h] with valid := false }) 1] }) ∧
  (∀ p (f : Form.Hx), Completes (.pf p f) (plainRow p false [] fun env c =>
    if c.regs.full (.h f.h) = true ∧ c.regs.full (.s f.a) = true ∧ c.regs.h[f.h].valid = true ∧
        (c.regs.gets f.a).toNat < c.regs.h[f.h].size.bytes ∧ env.requestsFull = false then
      [.prefetch (handleVa c.regs.h[f.h] (c.regs.gets f.a)) (handlePa c.regs.h[f.h] (c.regs.gets f.a)) c.regs.h[f.h]] else [])) ∧
  (∀ p (f : Form.Hx), Completes (.cinv p f) fun _ c _ =>
    { pred := p, srcs := [(.h f.h, false), (.s f.a, f.ta)], dests := [], closing := false
      ok := c.regs.h[f.h].valid = true ∧ (c.regs.gets f.a).toNat < c.regs.h[f.h].size.bytes
      effects := [.drop (handlePa c.regs.h[f.h] (c.regs.gets f.a) / 128)] }) ∧
  (∀ p, Completes (.cinva p) (plainRow p false [] fun _ _ => [.dropAll])) ∧
  (∀ p, Completes (.fenceG p) (plainRow p true [] fun _ _ => [.wait .globals, .wait .leases])) ∧
  (∀ p, Completes (.fenceE p) (plainRow p true [] fun _ _ => [.wait .engines])) ∧
  (∀ p, Completes (.fenceN p) (plainRow p true [] fun _ _ => [.wait .fabric])) ∧
  (∀ p, Completes (.fenceA p) (plainRow p true [] fun _ _ => [.wait .globals, .wait .engines, .wait .fabric, .wait .leases])) ∧
  (∀ p (f : Form.Bm), Completes (.bankmode p f) fun env c _ =>
    { pred := p, srcs := [], dests := [], closing := true
      ok := QueueOk c .bank ∧ f.mode.val < 2 ∧ c.meetsCode (bankSpan f.bank) = false ∧ c.cfgModes[f.bank] ≠ fifoMode ∧
        ∀ x ∈ env.landings, x.meets (bankSpan f.bank) = false
      effects := [.bankmode f.bank.val f.mode.val] })

/-- 13 R377 to R379, 14 R389, R390: tile transfers and local copies complete with a command for the streamer, at the time their form gives;
a `cpy` of no bytes asks for no place. -/
def Obligations.StreamerForms : Prop :=
  (∀ p (f : Form.Tl), Completes (.tld p f) (tileRow p true f.q f.h f.th f.a f.ta [] fun env _ => env.wcc)) ∧
  (∀ p (f : Form.TlT), Completes (.tldTimed p f) (tileRow p true f.q f.h f.th f.a f.ta [(.s f.e, f.te)] fun _ g => g.gets f.e)) ∧
  (∀ p (f : Form.Tl), Completes (.tst p f) (tileRow p false f.q f.h f.th f.a f.ta [] fun env _ => env.wcc)) ∧
  (∀ p (f : Form.TlT), Completes (.tstTimed p f) (tileRow p false f.q f.h f.th f.a f.ta [(.s f.e, f.te)] fun _ g => g.gets f.e)) ∧
  (∀ p (f : Form.Cpy), Completes (.cpy p f) fun env c pos =>
    let d := (c.regs.gets f.d).toNat
    let a := (c.regs.gets f.a).toNat
    let n := (c.regs.gets f.n).toNat
    { pred := p, srcs := [(.s f.d, f.td), (.s f.a, f.ta), (.s f.n, f.tn)], dests := [], closing := true
      ok := (n ≠ 0 → StreamerOk c env) ∧ c.cpyTrap pos d a n = none
      effects := [.copy (.cpy d a n) env.wcc (spanOf a n) (spanOf d n)] }) ∧
  (∀ p (f : Form.Cpy2d), Completes (.cpy2d p f) fun env c _ =>
    let d := c.q[f.q]
    let x := c.q[f.s]
    { pred := p, srcs := [], dests := [], closing := true
      ok := StreamerOk c env ∧ StreamOk c x false ∧ StreamOk c d true ∧ x.rows = d.rows ∧ x.cols = d.cols ∧ (d.fmt = .triple ↔ x.fmt = .triple) ∧
        (d.fmt = x.fmt ∧ d.slog = x.slog ∨ d.slog = 0)
      effects := [.copy (.cpy2d d x) env.wcc (some x.hull) (some d.hull)] }) ∧
  (∀ p (f : Form.Fill), Completes (.fill p f) fun env c _ =>
    { pred := p, srcs := [(.s f.a, f.ta)], dests := [], closing := true, ok := StreamerOk c env ∧ StreamOk c c.q[f.q] true
      effects := [.copy (.fill c.q[f.q] (c.regs.gets f.a)) env.wcc none (some c.q[f.q].hull)] })

/-! ## The EN forms (13 R356 to R376) -/

/-- 13 R356, R357, R362 to R366: stream registers, accumulator banks and matrix products complete with their place in the matrix queue. -/
def Obligations.StreamAndBankForms : Prop :=
  let banks (p : Pred) (ok : Core → Prop) (es : Core → List Effect) : SlotRow := fun _ c _ =>
    { pred := p, srcs := [], dests := [], closing := true, ok := c.queueFull .matrix = false ∧ ok c, effects := es c }
  let note : Effect := .engine .matrix .accNote none none none
  let decoders (env : Env) (a b : Fmt) : Prop := (a = .t8 ∨ a = .t6 ∨ b = .t8 ∨ b = .t6) → env.caps.toNat / 2 % 2 = 1
  (∀ p (f : Form.Qset), Completes (.qset p f) fun env c pos =>
    { pred := p, srcs := [(.s f.a, f.ta), (.s f.b, f.tb)], dests := [], closing := true
      ok := Core.qsetTrap env pos { lo := c.regs.gets f.a, hi := c.regs.gets f.b } = none
      effects := [.result (.q f.q { lo := c.regs.gets f.a, hi := c.regs.gets f.b }) 1] }) ∧
  (∀ p (f : Form.Qget), Completes (.qget p f) fun _ c _ =>
    { pred := p, srcs := [], dests := [.s f.d], closing := true, ok := True
      effects := [.result (.s f.d (if f.hi then c.q[f.q].hi else c.q[f.q].lo)) 1] }) ∧
  (∀ p (f : Form.Fl), Completes (.aalloc p f) (banks p (fun c => c.someAlloc f.f f.l = false) fun c => [.accMap (c.accMap ||| bankMask f.f f.l), note])) ∧
  (∀ p (f : Form.Fl), Completes (.afree p f)
    (banks p (fun c => c.allAlloc f.f f.l = true ∧ c.bandMeets none f.f f.l = false) fun c => [.accMap (c.accMap &&& ~~~bankMask f.f f.l), note])) ∧
  (∀ p (f : Form.Aown), Completes (.aown p f)
    (banks p (fun c => c.allAlloc f.f f.l = true ∧ c.bandMeets (some f.g) f.f f.l = false) fun c =>
      [.accOwn (ownSet c.accOwn f.g (2 ^ 15 + f.f.val * 64 + f.l.val)), note])) ∧
  (∀ p (f : Form.AownRel), Completes (.aownRel p f)
    (banks p (fun _ => True) fun c => [.accOwn (ownSet c.accOwn f.g (bits c.accOwn.toNat (16 * f.g.val) 15)), note])) ∧
  (∀ p (f : Form.Fl), Completes (.aclr p f)
    (banks p (fun c => c.allAlloc f.f f.l = true) fun _ => [.engine .matrix (.aclr f.f.val f.l.val) none none none])) ∧
  (∀ p (f : Form.Adrain), Completes (.adrain p f) fun _ c _ =>
    { pred := p, srcs := [], dests := [], closing := true
      ok := QueueOk c .matrix ∧ StreamOk c c.q[f.q] true ∧ c.q[f.q].fmt ≠ .triple ∧ c.q[f.q].rows % 16 = 0 ∧
        c.q[f.q].rows / 16 * c.q[f.q].cols = f.l.val + 1 - f.f.val ∧ c.q[f.q].slog = 0 ∧ c.allAlloc f.f f.l = true ∧
        ∃ a b, c.band f.g = some (a, b) ∧ a ≤ f.f.val ∧ f.l.val ≤ b
      effects := [.engine .matrix (.adrain c.q[f.q] f.f.val f.l.val f.clr) none none (some c.q[f.q].hull)] }) ∧
  (∀ p (f : Form.Aread), Completes (.aread p f) fun _ c _ =>
    { pred := p, srcs := [], dests := [.v f.d], closing := true, ok := c.queueFull .matrix = false ∧ c.allAlloc f.k f.k = true
      effects := [.empty (.v f.d), .engine .matrix (.aread f.k.val f.row.val f.d) none none none] }) ∧
  (∀ p (f : Form.Mma), Completes (.mma p f) fun env c _ =>
    let a := c.q[f.qa]
    let b := c.q[f.qb]
    { pred := p, srcs := [], dests := [], closing := true
      ok := QueueOk c .matrix ∧ StreamOk c a false ∧ StreamOk c b false ∧ a.fmt ≠ .triple ∧ b.fmt ≠ .triple ∧ decoders env a.fmt b.fmt ∧
        a.rows % 16 = 0 ∧ b.rows = a.width ∧ a.rows / 16 * b.cols = f.l.val + 1 - f.f.val ∧ kstep a.fmt b.fmt ≠ none ∧ c.allAlloc f.f f.l = true
      effects := [.engine .matrix (.mma a b f.f.val (f.l.val + 1 - f.f.val) f.ovw none) (some a.hull) (some b.hull) none] }) ∧
  (∀ p (f : Form.Mmag), Completes (.mmag p f) fun env c _ =>
    let a := c.q[f.qa]
    let b := c.q[f.qb]
    let t := c.regs.v[f.i]
    { pred := p, srcs := [(.v f.i, f.ti)], dests := [], closing := true
      ok := QueueOk c .matrix ∧ StreamOk c a false ∧ StreamOk c b false ∧ a.fmt ≠ .triple ∧ b.fmt ≠ .triple ∧ decoders env a.fmt b.fmt ∧
        b.rows = a.width ∧ b.cols = f.l.val + 1 - f.f.val ∧ kstep a.fmt b.fmt ≠ none ∧ c.allAlloc f.f f.l = true ∧
        ∀ i : Fin 16, t.valid.getLsbD i.val = true → t.elem[i].toNat < a.rows
      effects := [.engine .matrix (.mma a b f.f.val (f.l.val + 1 - f.f.val) f.ovw (some t)) (some a.hull) (some b.hull) none] })

/-- 13 R367, R370 to R372: the scans, the user operator's definition and the carries complete with their place in the scan queue. -/
def Obligations.ScanForms : Prop :=
  let pair (i : Pred → Form.Scan2 → Instr) (k : ScanKind) : Prop := ∀ p (f : Form.Scan2), Completes (i p f)
    (scanRow p k f.y f.x (some f.x2) (some f.y2) f.herd (if f.init then [(.v f.vi, f.tvi), (.v f.vj, f.tvj)] else [])
      fun g => if f.init then some [g.v[f.vi], g.v[f.vj]] else none)
  (∀ x ∈ scanSingles,
    (∀ p (f : Form.Scan), Completes (x.1 p f) (scanRow p x.2.2 f.y f.x none none f.herd [] fun _ => none)) ∧
    (∀ p (f : Form.ScanI), Completes (x.2.1 p f) (scanRow p x.2.2 f.y f.x none none f.herd [(.v f.vi, f.tvi)] fun g => some [g.v[f.vi]]))) ∧
  pair .scanAffine .affine ∧ pair .scanLse .lse ∧
  (∀ p (f : Form.Scan), Completes (.scanMoment p f) (scanRow p .moment f.y f.x none none f.herd [] fun _ => none)) ∧
  (∀ p (f : Form.ScanM), Completes (.scanMomentInit p f)
    (scanRow p .moment f.y f.x none none f.herd [(.w f.vi, f.tvi)] fun g => some (momentTokens g.w[f.vi]))) ∧
  (∀ p (f : Form.Scan), Completes (.scanUser p f) (scanRow p .user f.y f.x none none f.herd [] fun _ => none)) ∧
  (∀ p (f : Form.ScanU), Completes (.scanUserExt p f)
    (scanRow p .user f.y f.x (if f.pair then some f.x2 else none) (if f.pair then some f.y2 else none) f.herd
      (if f.init then (.v f.vi, f.tvi) :: (if f.pair then [(.v f.vj, f.tvj)] else []) else [])
      fun g => if f.init then some (g.v[f.vi] :: (if f.pair then [g.v[f.vj]] else [])) else none)) ∧
  (∀ p (f : Form.Scdef) l, Completes (.scdef p f) fun _ c _ =>
    { pred := p, srcs := [(.v f.a, f.ta)], dests := [], closing := true
      ok := c.queueFull .scan = false ∧ microList c.regs.v[f.a] (f.n.val + 1) = some l
      effects := [.engine .scan (.scdef l) none none none] }) ∧
  (∀ p (f : Form.Csend), Completes (.csend p f) fun _ c _ =>
    { pred := p, srcs := [(.v f.v, f.tv)], dests := [], closing := true, ok := c.queueFull .scan = false
      effects := [.engine .scan (.csend c.regs.v[f.v] f.dn) none none none] }) ∧
  (∀ p (f : Form.Crecv), Completes (.crecv p f) fun _ c _ =>
    { pred := p, srcs := [], dests := [.v f.v], closing := true, ok := c.queueFull .scan = false
      effects := [.empty (.v f.v), .engine .scan (.crecv f.v f.dn) none none none] }) ∧
  (∀ p, Completes (.cbar p) fun _ c _ =>
    { pred := p, srcs := [], dests := [], closing := true, ok := c.queueFull .scan = false
      effects := [.engine .scan .cbar none none none] })

/-- 13 R373 to R376: the statistics forms complete with their place in the statistics queue; a moment source acts as T = 0. -/
def Obligations.StatisticsForms : Prop :=
  let one : Lane := 0x3F800000
  (∀ p (f : Form.Mupd), Completes (.mupd p f) (statRow p f.w [(.w f.w, false)] (fun c _ => StreamOk c c.q[f.q] false ∧ c.q[f.q].fmt ≠ .triple)
    (fun c => .mupd f.w c.regs.w[f.w] c.q[f.q] none one) (fun c => some c.q[f.q].hull) fun _ => none)) ∧
  (∀ p (f : Form.Mupdw), Completes (.mupdw p f)
    (statRow p f.w [(.w f.w, false), (.s f.s, f.ts)] (fun c _ => StreamOk c c.q[f.q] false ∧ c.q[f.q].fmt ≠ .triple)
      (fun c => .mupd f.w c.regs.w[f.w] c.q[f.q] none ((c.regs.gets f.s).setWidth 32)) (fun c => some c.q[f.q].hull) fun _ => none)) ∧
  (∀ p (f : Form.MupdwQ), Completes (.mupdwStream p f)
    (statRow p f.w [(.w f.w, false)]
      (fun c _ => StreamOk c c.q[f.q] false ∧ StreamOk c c.q[f.qv] false ∧ c.q[f.q].fmt ≠ .triple ∧ c.q[f.qv].fmt ≠ .triple ∧
        c.q[f.q].rows = c.q[f.qv].rows ∧ c.q[f.q].cols = c.q[f.qv].cols)
      (fun c => .mupd f.w c.regs.w[f.w] c.q[f.q] (some c.q[f.qv]) one) (fun c => some c.q[f.q].hull) fun c => some c.q[f.qv].hull)) ∧
  (∀ p (f : Form.Mw2), Completes (.mmerge p f) (statRow p f.w [(.w f.w, false), (.w f.v, false)] (fun _ _ => True)
    (fun c => .mmerge f.w c.regs.w[f.w] c.regs.w[f.v]) (fun _ => none) fun _ => none)) ∧
  (∀ p (f : Form.Mw2L), Completes (.mmergeLanes p f) (statRow p f.w [(.w f.v, false)] (fun _ _ => True)
    (fun c => .mmergeLanes f.w c.regs.w[f.v]) (fun _ => none) fun _ => none)) ∧
  (∀ p (f : Form.W1), Completes (.mclr p f) (statRow p f.w [] (fun _ _ => True) (fun _ => .mclr f.w) (fun _ => none) fun _ => none)) ∧
  (∀ p (f : Form.Mdrain), Completes (.mdrain p f) fun _ c _ =>
    { pred := p, srcs := if f.kind = 3 then [(.w f.w, false), (.s f.s, f.ts)] else [(.w f.w, false)], dests := [.v f.d], closing := true
      ok := c.queueFull .stats = false
      effects := [.empty (.v f.d),
        .engine .stats (.mdrain f.d f.kind.val c.regs.w[f.w] ((c.regs.gets f.s).setWidth 32)) none none none] }) ∧
  (∀ p (f : Form.MdrainN), Completes (.mdrainNorm p f) fun _ c _ =>
    let x := c.q[f.q]
    let y := c.q[f.qy]
    { pred := p, srcs := [(.w f.w, false), (.s f.s, f.ts), (.v f.g, f.tg), (.v f.b, f.tb)], dests := [], closing := true
      ok := QueueOk c .stats ∧ StreamOk c x false ∧ StreamOk c y true ∧ x.fmt ≠ .triple ∧ y.fmt ≠ .triple ∧ x.rows = y.rows ∧ x.cols = y.cols
      effects := [.engine .stats (.mdrainNorm y x c.regs.w[f.w] ((c.regs.gets f.s).setWidth 32) c.regs.v[f.g] c.regs.v[f.b])
        (some x.hull) none (some y.hull)] }) ∧
  (∀ p (f : Form.Mls), Completes (.mld p f)
    (statRow p f.w [(.s f.s, f.ts)]
      (fun c _ => (c.regs.gets f.s).toNat + 192 ≤ windowEnd ∧ c.scratchOnly { lo := (c.regs.gets f.s).toNat, hi := (c.regs.gets f.s).toNat + 191 } = true)
      (fun c => .mld f.w (c.regs.gets f.s).toNat)
      (fun c => some { lo := (c.regs.gets f.s).toNat, hi := (c.regs.gets f.s).toNat + 191 }) fun _ => none)) ∧
  (∀ p (f : Form.Mls), Completes (.mst p f) fun _ c _ =>
    let x : Span := { lo := (c.regs.gets f.s).toNat, hi := (c.regs.gets f.s).toNat + 191 }
    { pred := p, srcs := [(.w f.w, false), (.s f.s, f.ts)], dests := [], closing := true
      ok := QueueOk c .stats ∧ x.hi < windowEnd ∧ c.scratchOnly x = true ∧ c.meetsCode x = false
      effects := [.engine .stats (.mst c.regs.w[f.w] (c.regs.gets f.s).toNat) none none (some x)] })

/-! ## The FX forms (14 R393 to R400) -/

/-- 14 R393 to R397: a publication, a stream's end, a fetch and a query complete under the records their K names, with the name and tag the
record resolves to; a void name sends nothing. -/
def Obligations.FabricForms : Prop :=
  let given (on : Bool) (r : Fin 32) (t : Bool) : List Src := if on then [(.s r, t)] else []
  let value (on : Bool) (r : Fin 32) (g : Regs) : Option Word := if on then some (g.gets r) else none
  (∀ p (f : Form.Pub) fr r n tag, Completes (.pub p f)
    (pubRow p f.q f.k (given f.tagx f.a f.ta) (value f.tagx f.a) (fun _ => none) f.noback f.live f.nolive fr r n tag)) ∧
  (∀ p (f : Form.PubX) fr r n tag, Completes (.pubIndexed p f)
    (pubRow p f.q f.k (given f.tagx f.a f.ta ++ [(.s f.b, f.tb)]) (value f.tagx f.a) (value true f.b) f.noback f.live f.nolive fr r n tag)) ∧
  (∀ p (f : Form.Pubeos) fr (r : NameRec), Completes (.pubeos p f) fun _ c _ =>
    { pred := p, srcs := [], dests := [], closing := true, ok := c.portFull = false ∧ c.pubRec f.k = some (fr, r)
      effects := [.fabric (.eosRequest r.tensor) none] }) ∧
  (∀ p (f : Form.Fetch) fr r n tag, Completes (.fetch p f)
    (fetchFormRow p f.q f.k (given f.tagx f.a f.ta) (value f.tagx f.a) (fun _ => none) fr r n tag)) ∧
  (∀ p (f : Form.FetchX) fr r n tag, Completes (.fetchIndexed p f)
    (fetchFormRow p f.q f.k (given f.tagx f.a f.ta ++ [(.s f.b, f.tb)]) (value f.tagx f.a) (value true f.b) fr r n tag)) ∧
  (∀ p (f : Form.Subq) fr (r : NameRec) n tag, Completes (.subq p f) fun _ c _ =>
    { pred := p, srcs := given f.tagx f.a f.ta ++ given f.idxx f.b f.tb, dests := [.s f.d], closing := true
      ok := c.portFull = false ∧ c.subRec f.k = some (fr, r) ∧ (f.idxx = true → (c.regs.gets f.b).toNat < 2 ^ 36) ∧
        r.resolve fr (value f.tagx f.a c.regs) (value f.idxx f.b c.regs) = (some n, tag) ∧ n ≠ eosIndex
      effects := [.empty (.s f.d), .fabric (.subq f.d (nameOf fr.ns r.tensor n) tag false) none] })

/-- 14 R398, R400: the herd barriers, the collectives and the markers complete, with the index of the VSN's first chunk not yet sent. -/
def Obligations.BarrierAndCollectiveForms : Prop :=
  (∀ p, Completes (.hbarArrive p) fun _ c _ =>
    { pred := p, srcs := [], dests := [], closing := true, ok := c.portFull = false, effects := arrivalEffects c }) ∧
  (∀ p, Completes (.hbarWait p) (plainRow p true [] fun _ _ => [.wait .phase])) ∧
  (∀ p, Completes (.hbar p) fun _ c _ =>
    { pred := p, srcs := [], dests := [], closing := true, ok := c.portFull = false, effects := arrivalEffects c ++ [.wait .phase] }) ∧
  (∀ p (f : Form.Coll), Completes (.coll p f) fun _ c _ =>
    { pred := p, srcs := [], dests := [], closing := true
      ok := PortOk c ∧ StreamOk c c.q[f.q] false ∧ c.q[f.q].slog = 0 ∧ c.q[f.q].fmt ≠ .triple
      effects := [.fabric (.coll f.vsn c.q[f.q] (lookupD 0 c.sendCnt f.vsn) 0) (some c.q[f.q].hull)] }) ∧
  (∀ p (f : Form.CollR), Completes (.collRecv p f) fun _ c _ =>
    { pred := p, srcs := [], dests := [], closing := true, ok := c.rsbFull = false ∧ StreamOk c c.q[f.q] true ∧ c.q[f.q].fmt ≠ .triple
      effects := [.recv f.vsn c.q[f.q] (c.q[f.q].rows * c.q[f.q].cols) (some c.q[f.q].hull)] }) ∧
  (∀ p (f : Form.CollW), Completes (.collW p f) fun _ c _ =>
    { pred := p, srcs := [(.w f.a, f.ta)], dests := [], closing := true, ok := c.portFull = false
      effects := [.fabric (.collW f.vsn c.regs.w[f.a] (lookupD 0 c.sendCnt f.vsn)) none] }) ∧
  (∀ p (f : Form.CollRW), Completes (.collRecvW p f) fun _ _ _ =>
    { pred := p, srcs := [], dests := [.w f.a], closing := true, ok := True, effects := [.recvW f.vsn f.a] }) ∧
  (∀ p (f : Form.Cmark), Completes (.cmark p f) fun _ c _ =>
    { pred := p, srcs := [], dests := [], closing := true, ok := c.portFull = false, effects := [.fabric (.cmark f.vsn false) none] }) ∧
  (∀ p (f : Form.CmarkE), Completes (.cmarkEnd p f) fun _ c _ =>
    { pred := p, srcs := [], dests := [], closing := true, ok := c.portFull = false, effects := [.fabric (.cmark f.vsn true) none] })

/-! ## Reset, the step, and encodings -/

/-- 00 R13, 01, 04, 06: after reset every memory is in canonical form and lists nothing (logs 1, 2: model's choices beside the spec's). -/
def Obligations.ResetMemory : Prop :=
  State.reset.memOk ∧ State.reset.scratchOk ∧ (∀ a, State.reset.pmem.get a = 0) ∧ Core.reset.memOk

/-- The reset columns of 03 Table 3-14, 04 Tables 4-2, 4-6, 4-7 and 4-8, 06 Tables 6-9, 6-10 and 6-11, 08 Table 8-2, 13 Table 13-1 and
14 Table 14-2. -/
def Obligations.ResetValues : Prop :=
  (State.reset.qdBase = 0 ∧ State.reset.qdCount = 0 ∧ State.reset.qdPart = 0 ∧ State.reset.congExp = 20) ∧
  (∀ k : Fin 16, State.reset.ing[k].base = 0 ∧ State.reset.ing[k].head = 0 ∧ State.reset.ing[k].tail = 0 ∧ State.reset.ing[k].code = 0 ∧
    State.reset.ing[k].err = false) ∧
  (∀ k : Fin 8, State.reset.ctxs[k].state = .empty) ∧
  (∀ k : Fin 16, State.reset.preempt[k].at_ = 0 ∧ State.reset.preempt[k].status = .idle) ∧
  (∀ k : Fin 16, State.reset.tdis[k].state = .unlocked ∧ State.reset.tdis[k].cause = 0) ∧
  (∀ q : Fin 16, Core.reset.q[q] = { lo := 0, hi := 0 }) ∧ Core.reset.fpcr = 0 ∧ Core.reset.accOwn = 0 ∧
  (∀ k : Fin 4, Core.reset.trapRec[k] = 0) ∧ Core.reset.swaps = 0 ∧ Core.reset.rsb = []

/-- Logs 3, 5, 6, 06 R176, 10 R281 to R294: an offered step runs; where the clock stands still, time alone passes; a slot of a group in issue
runs; a bundle that is ready is decoded whole, and the first slot of its first group runs; one that does not decode traps; an empty one
issues nothing. -/
def Obligations.StepRunsDecoded : Prop :=
  (∀ (s : State) i rest, s.agenda = i :: rest → step s = exec i { s with agenda := rest }) ∧
  (∀ s : State, s.agenda = [] → s.clocked = false → step s = .next s.tick) ∧
  (∀ (s : State) c f pos i rest, s.agenda = [] → s.clocked = true → s.core s.focus = some c → c.firing = some f → c.issues = true →
    c.issue.todo = (pos, i) :: rest → (c.between = true → c.dfaults = [] ∧ c.stopping = false ∧ c.waitsOk (s.env s.focus) = true) →
    step s = passIf rest.isEmpty (exec i s)) ∧
  (∀ (s : State) c f b pos i rest, AtBundle s c f → decodeBundle (c.codeBytes f c.issue.pc) = .ok b → c.firstGroup b = (pos, i) :: rest →
    step s = passIf rest.isEmpty (exec i (s.begin s.focus b))) ∧
  (∀ (s : State) c f b, AtBundle s c f → decodeBundle (c.codeBytes f c.issue.pc) = .ok b → c.firstGroup b = [] →
    step s = passIf true (exec (.emptyBundle s.focus) (s.begin s.focus b))) ∧
  (∀ (s : State) c f e, AtBundle s c f → decodeBundle (c.codeBytes f c.issue.pc) = .error e →
    step s = passIf true (exec (.unassignedOpcode s.focus e.pos) (s.beginFault s.focus e.pos)))

/-- 10 R285 to R294 and its worked example, 12 R340, 11, 13, 14: words written out from the encoding tables decode to what they stand for. -/
def Obligations.SpecWords : Prop :=
  decodeSlot 0 0xA03212A0 (some 0xC3) = .ok (.addiExt ⟨2, false⟩ { d := 4, a := 4, ta := true, imm := 100000 }) ∧
  decodeSlot 2 0x00118420 none = .ok (.vadd ⟨0, false⟩ { d := 3, a := 1, ta := false, b := 2, tb := false, rms := .fpcr }) ∧
  decodeSlot 7 0x001FFFF7 none = .ok (.br ⟨0, false⟩ { off := -9 }) ∧
  decodeSlot 2 0x8042842A (some 0x18000002)
    = .ok (.vfma ⟨0, false⟩ { d := 5, a := 1, ta := false, b := 2, tb := true, rms := .rtz, c := 3, tc := false, msk := 2 }) ∧
  decodeSlot 0 0x01E62C16 none = .ok (.lea ⟨0, false⟩ { d := 12, a := 11, ta := false, b := 1, tb := false, k := 6 }) ∧
  decodeSlot 4 0x010789AE none = .ok (.gld ⟨0, false⟩ { d := 15, h := 1, th := false, a := 13, ta := false, ty := .n64 }) ∧
  decodeSlot 5 0x80110501 (some 0x10000000) = .ok (.mma ⟨0, false⟩ { f := 4, l := 5, qa := 0, ovw := true, qb := 1 }) ∧
  decodeSlot 6 0x18100000 none
    = .ok (.pub ⟨1, true⟩ { q := 0, k := 0, a := 0, ta := false, tagx := false, nolive := false, live := false, noback := false }) ∧
  decodeSlot 0 0 none = .error .unassigned ∧ decodeSlot 0 0x08118420 none = .error .predNever ∧
  decodeSlot 1 0x01000003 none = .error .unassigned

/-- 10 R285 to R294: every well-formed slot instruction has words in the fields of 10 Table 10-3, and at each position of its class that has
its opcode they decode to it, operand by operand. -/
def Obligations.SlotRoundTrip : Prop :=
  ∀ (i : Instr) (e : SlotWord) (pos : Fin 8), i.wf = true → encode i = some e → slotClass pos = e.cls → slotHas pos e.op = true →
    e.word = fieldsWord e.ext.isSome e.pred e.op e.opnd ∧ e.op < 2 ^ 7 ∧ e.opnd < 2 ^ 20 ∧ decodeSlot pos e.word e.ext = .ok i

/-! ## The invariant of the memories -/

/-- Log 2: every step keeps physical memory and the steward's in canonical form. -/
def Obligations.StepKeepsMemory : Prop := ∀ s : State, s.memOk → Keeps State.memOk (step s)

/-- Log 2: every step keeps every scratchpad in canonical form. -/
def Obligations.StepKeepsScratchpads : Prop := ∀ s : State, s.scratchOk → Keeps State.scratchOk (step s)

/-! ## What slots share (06 R176 to R183, 07 R224, 08 R237 to R240, 10 R286, 11 R327) -/

/-- 10 R286: a slot whose predicate is off reads no source, writes nothing and traps nothing, whatever its operands: its group issues
without it; a form of 08 Table 8-3 still closes its region: the gate is empty after it, and the mark stands where the next group starts. -/
def Obligations.PredicateOff : Prop :=
  (∀ (s : State) c pos i e, encode i = some e → LastSlot s c pos i → c.executes e.pred = false →
    gateRows c.gate + rowsTaken c.issue.effects ≤ 32 → exec i s = .next (s.issued c (closesOp e.cls e.op) (.go []))) ∧
  (∀ (s : State) c b, s.core s.focus = some c → Quiet c → c.issue.bundle = some b → c.issue.retiring = false →
    ∃ d, (s.issued c true (.go [])).core s.focus = some d ∧ d.gate = [] ∧ d.shadow.regs = d.regs ∧ d.shadow.loops = d.loops ∧
      d.shadow.pc = d.issue.pc ∧ d.shadow.group = d.issue.second ∧ d.regs = c.regs)

/-- 06 R182, R183: an empty source with T = 0 holds the group, and so does a destination whose fill is pending; with T = 1, and nothing that
stalls, an empty source traps EMPTY_READ in its slot. -/
def Obligations.EmptySources : Prop :=
  (∀ x ∈ scalarPairs, ∀ p f,
    let r := scalarRow p f.d [(.s f.a, f.ta), (.s f.b, f.tb)] x.2.1 fun g => x.2.2 (g.gets f.a) (g.gets f.b)
    StallsOn (x.1 p f) r ∧ TrapsEmpty (x.1 p f) r) ∧
  (∀ x ∈ scalarSingles, ∀ p f,
    let r := scalarRow p f.d [(.s f.a, f.ta)] 1 fun g => x.2 (g.gets f.a)
    StallsOn (x.1 p f) r ∧ TrapsEmpty (x.1 p f) r) ∧
  (∀ x ∈ exactPairs, ∀ p f,
    let r := pairLanes p f 0 x.2.2.1 fun _ => x.2.2.2
    StallsOn (x.1 p f) r ∧ TrapsEmpty (x.1 p f) r) ∧
  (∀ p (f : Form.St), StallsOn (.st p f) (storeRow p f.d f.a f.ta f.td f.ty fun a => a + f.off.signExtend 64 * BitVec.ofNat 64 (tySize f.ty))) ∧
  (∀ p (f : Form.W1), StallsOn (.mclr p f) (statRow p f.w [] (fun _ _ => True) (fun _ => .mclr f.w) (fun _ => none) fun _ => none))

/-- 06 R177: a slot that is not the last of its group reads its sources and joins its group, and no register, no memory and no flag
changes before the group issues. -/
def Obligations.SlotsReadBeforeWriting : Prop :=
  ∀ (s : State) c pos i e x rest, encode i = some e → s.core s.focus = some c → c.issue.todo = (pos, i) :: x :: rest →
    ∃ r, exec i s = .next (s.setCore s.focus (c.joined (closesOp e.cls e.op) r)) ∧ (c.executes e.pred = false → r = .go [])

/-- 06 R178: a result of latency 1 is in its register when the group has issued; a longer one is in flight with that many advancing cycles
less one to run, and its register holds the old value. -/
def Obligations.ResultLatency : Prop :=
  ∀ (s : State) c w lat b, s.core s.focus = some c → Quiet c → c.issue.bundle = some b → 1 ≤ lat →
    ∃ d, (s.issued c false (.go [.result w lat])).core s.focus = some d ∧
      (lat = 1 → d.flight = [] ∧ d.regs = c.regs.write w ∧ (∀ r x, w = .q r x → d.q = c.q.set r x)) ∧
      (1 < lat → d.regs = c.regs ∧ d.q = c.q ∧ ∃ o, d.flight = [{ write := w, left := lat - 1, old := o }])

/-- 06 R180, 12 R338: s0 reads zero and p0 reads true, and writes to them are discarded; a write lands in its register, in the lanes and bits
its mask selects, and in no other. -/
def Obligations.RegisterWrites : Prop :=
  (∀ g : Regs, g.gets 0 = 0 ∧ g.getp 0 = true ∧ g.full (.s 0) = true ∧ (∀ x, g.write (.s 0 x) = g) ∧ ∀ x, g.write (.p 0 x) = g) ∧
  (∀ (g : Regs) r x, r ≠ 0 → (g.write (.s r x)).gets r = x ∧ ∀ q, q ≠ r → (g.write (.s r x)).gets q = g.gets q) ∧
  (∀ (g : Regs) r x, r ≠ 0 → (g.write (.p r x)).getp r = x ∧ ∀ q, q ≠ r → (g.write (.p r x)).getp q = g.getp q) ∧
  (∀ (g : Regs) r msk x (l : Fin 16),
    (g.write (.v r msk x)).v[r].elem[l] = (if msk.getLsbD l.val then x.elem[l] else g.v[r].elem[l]) ∧
    (g.write (.v r msk x)).v[r].valid.getLsbD l.val = (if msk.getLsbD l.val then x.valid.getLsbD l.val else g.v[r].valid.getLsbD l.val)) ∧
  (∀ (g : Regs) r msk x (l : Fin 16),
    (g.write (.m r msk x)).m[r].getLsbD l.val = if msk.getLsbD l.val then x.getLsbD l.val else g.m[r].getLsbD l.val)

/-- 06 R180, 10 R289: a slot form that runs alone changes no register but the one it names as its destination, whatever it is; a register's
full/empty bit changes with it only. -/
def Obligations.DestinationFrame : Prop :=
  ∀ (s : State) c pos i e d, RanAlone s c pos i e d → ∀ r, i.dest ≠ some r → c.agrees d r

/-- 06 R207, 09 R264, 11 R335, 13 R360: the frame of the core's other state. Accumulators change with engine operations, which complete
later; the trap record with a trap; FPCR with `swr` and with the flags of vector forms, whose rounding mode stays; KEY0 to KEY3 with `swr`;
ACC_MAP, ACC_OWN and bank modes with the forms that name them. -/
def Obligations.SpecialRegisterFrame : Prop :=
  ∀ (s : State) c pos i e d, RanAlone s c pos i e d →
    d.acc = c.acc ∧ d.trapRec = c.trapRec ∧ d.caps = c.caps ∧ d.strm = c.strm ∧ d.cfgModes = c.cfgModes ∧ d.dfaults = c.dfaults ∧
    ((∀ p f, i ≠ .swr p f) → d.keys = c.keys ∧ field d.fpcr 7 0 = field c.fpcr 7 0 ∧ (e.cls ≠ .vector → d.fpcr = c.fpcr)) ∧
    ((∀ p f, i ≠ .aalloc p f) → (∀ p f, i ≠ .afree p f) → d.accMap = c.accMap) ∧
    ((∀ p f, i ≠ .aown p f) → (∀ p f, i ≠ .aownRel p f) → d.accOwn = c.accOwn) ∧
    ((∀ p f, i ≠ .bankmode p f) → d.modes = c.modes) ∧
    ((∀ p, i ≠ .npsBegin p) → (∀ p, i ≠ .npsEnd p) → d.nps = c.nps)

/-- 07 R224, 14 R383, R384: a form that stores nothing to the scratchpad leaves every byte the LS slot reads as it was. -/
def Obligations.ScratchpadFrame : Prop :=
  ∀ (s : State) c pos i e d, RanAlone s c pos i e d → c.spad.wf = true →
    (∀ p f, i ≠ .st p f) → (∀ p f, i ≠ .stExt p f) → (∀ p f, i ≠ .vst p f) → (∀ p f, i ≠ .vstExt p f) → (∀ p f, i ≠ .vstm p f) →
    (∀ p f, i ≠ .vstmExt p f) → ∀ a, d.localByte a = c.localByte a

/-- 07 R224, 14 R383, R384: a store form completes, and the LS slot reads its bytes where it stored and every other byte as before; `st` covers
the size of its TY from its address, low byte first, `vst` and `vstm` four bytes for each lane they store. -/
def Obligations.StoreFrame : Prop :=
  let narrow (size : Nat) (off : BitVec 5) (a : Word) : Word := a + off.signExtend 64 * BitVec.ofNat 64 size
  let wide (off : BitVec 32) (a : Word) : Word := a + off.signExtend 64
  let word (ty : Ty) (d a : Fin 32) (ea : Word → Word) (c : Core) : List (Nat × Byte) :=
    cellsAt (ea (c.regs.gets a)).toNat (leBytes (tySize ty) (c.regs.gets d).toNat)
  let vec (d a : Fin 32) (msk : Regs → BitVec 16) (ea : Word → Word) (c : Core) : List (Nat × Byte) :=
    laneCells (ea (c.regs.gets a)) c.regs.v[d] (msk c.regs)
  (∀ p (f : Form.St), Stores (.st p f) (storeRow p f.d f.a f.ta f.td f.ty (narrow (tySize f.ty) f.off)) (word f.ty f.d f.a (narrow (tySize f.ty) f.off))) ∧
  (∀ p (f : Form.StX), Stores (.stExt p f) (storeRow p f.d f.a f.ta f.td f.ty (wide f.off)) (word f.ty f.d f.a (wide f.off))) ∧
  (∀ p (f : Form.Vst), Stores (.vst p f) (vstoreRow p f.d f.a f.ta f.td (fun _ => BitVec.allOnes 16) (narrow 64 f.off))
    (vec f.d f.a (fun _ => BitVec.allOnes 16) (narrow 64 f.off))) ∧
  (∀ p (f : Form.VstX), Stores (.vstExt p f) (vstoreRow p f.d f.a f.ta f.td (fun _ => BitVec.allOnes 16) (wide f.off))
    (vec f.d f.a (fun _ => BitVec.allOnes 16) (wide f.off))) ∧
  (∀ p (f : Form.Vstm), Stores (.vstm p f) (vstoreRow p f.d f.a f.ta f.td (fun g => g.m[f.msk]) (narrow 64 f.off))
    (vec f.d f.a (fun g => g.m[f.msk]) (narrow 64 f.off))) ∧
  (∀ p (f : Form.VstmX), Stores (.vstmExt p f) (vstoreRow p f.d f.a f.ta f.td (fun g => g.m[f.msk]) (wide f.off))
    (vec f.d f.a (fun g => g.m[f.msk]) (wide f.off))) ∧
  (∀ a n x k, cellAt (cellsAt a (leBytes n x)) k = if a ≤ k ∧ k < a + n then some (BitVec.ofNat 8 (x / 256 ^ (k - a))) else none) ∧
  (∀ (ea : Word) (t : Token) (msk : BitVec 16) (l : Fin 16) (k : Nat), k < 4 →
    cellAt (laneCells ea t msk) (ea.toNat + 4 * l.val + k)
      = if msk.getLsbD l.val then some (BitVec.ofNat 8 (t.elem[l].toNat / 256 ^ k)) else none) ∧
  (∀ (ea : Word) (t : Token) (msk : BitVec 16) (a : Nat), a < ea.toNat ∨ ea.toNat + 64 ≤ a → cellAt (laneCells ea t msk) a = none)

/-- 06 R177, 07 R216, R224: no slot form writes a byte of global or steward memory, whatever it does, for its requests are performed at their
slices later; and none changes another core, the counter, a slice, a router, a port, a switch register or an interface. -/
def Obligations.SlotModuleFrame : Prop :=
  ∀ (s t : State) i e, encode i = some e → exec i s = .next t →
    t.pmem = s.pmem ∧ t.smem = s.smem ∧ (∀ n, n ≠ s.focus → t.core n = s.core n) ∧ t.wcc = s.wcc ∧ t.slices = s.slices ∧
    t.routers = s.routers ∧ t.ing = s.ing ∧ t.preempt = s.preempt ∧ t.tdis = s.tdis ∧ t.caps = s.caps ∧ t.parts = s.parts ∧
    t.power = s.power

/-- 07 R224, 08 R237, R238: releasing the gate moves its bytes to the scratchpad in program order, so that the LS slot reads what it read; a
mark empties the gate and copies the registers, the flags, the section, the loops and the place into the shadow. -/
def Obligations.MarkTakes : Prop :=
  (∀ c : Core, c.spad.wf = true → (∀ a, c.release.1.spad.get a = c.localByte a ∧ c.release.1.localByte a = c.localByte a) ∧
    c.release.1.spad.wf = true ∧ c.release.1.gate = []) ∧
  (∀ c : Core, c.releaseMark.1.gate = [] ∧ c.releaseMark.1.regs = c.regs ∧ c.releaseMark.1.shadow.regs = c.regs ∧
    c.releaseMark.1.shadow.flags = fpcrFlags c.fpcr ∧ c.releaseMark.1.shadow.nps = c.nps.isSome ∧ c.releaseMark.1.shadow.loops = c.loops ∧
    c.releaseMark.1.shadow.pc = c.issue.pc ∧ (∀ f ∈ c.releaseMark.1.flight, f.old = true) ∧ ∀ f ∈ c.releaseMark.1.fills, f.old = true)

/-- 08 R240: a trap of a group that closes no region discards the group's writes, restores registers, flags and loops from the shadow, empties
the gate, drops what was issued since the mark, sets PC to MARK, writes the record of 08 Table 8-2, sends the token and makes the firing
FAULTED. -/
def Obligations.TrapEntry : Prop :=
  ∀ (s : State) (c : Core) (f : Firing) (t : TrapInfo), c.firing = some f → c.issue.closing = false → c.issue.release = false →
    t.code ≠ trapBreak → ∃ d, (s.trapsWith c false (.trap t) t).core s.focus = some d ∧
      d.regs = c.shadow.regs ∧ fpcrFlags d.fpcr = c.shadow.flags ∧ field d.fpcr 7 0 = field c.fpcr 7 0 ∧ d.loops = c.shadow.loops ∧
      d.gate = [] ∧ d.issue.pc = c.shadow.pc ∧ d.issue.todo = [] ∧ d.nps = none ∧ d.firing = some { f with state := .faulted } ∧
      (∀ x ∈ d.flight, x.old = true) ∧ (∀ x ∈ d.fills, x.old = true) ∧ d.spad = c.spad ∧
      field d.trapRec[0] 8 0 = t.code.toNat ∧ field d.trapRec[0] 9 9 = boolBit c.nps.isSome ∧ field d.trapRec[0] 12 10 = t.kind.val ∧
      field d.trapRec[0] 15 13 = t.slot.val ∧ field d.trapRec[0] 35 20 = f.task.num % 2 ^ 16 ∧ field d.trapRec[0] 47 36 = f.rank % 2 ^ 12 ∧
      field d.trapRec[0] 63 48 = f.tag.toNat ∧ field d.trapRec[1] 63 44 = c.issue.pc % 2 ^ 20 ∧ field d.trapRec[1] 43 24 = c.shadow.pc % 2 ^ 20 ∧
      d.trapRec[2] = t.addr ∧ field d.trapRec[3] 63 62 = t.space.val ∧ field d.trapRec[3] 61 59 = t.access.val ∧
      field d.trapRec[3] 58 56 = t.xch.val ∧ field d.trapRec[3] 55 40 = t.seq.toNat ∧ field d.trapRec[3] 39 0 = t.xid.toNat % 2 ^ 40 ∧
      ∃ k, (s.trapsWith c false (.trap t) t).tokens = s.tokens ++ [k] ∧ k.core = s.focus ∧ k.rec_ = d.trapRec ∧
        (k.pager = true ↔ t.code = trapHandleInvalid)

/-- 08 R239: a store that passes its checks and would take the 33rd entry of its region traps STORE_GATE_FULL in the LS slot, and stores
nothing. -/
def Obligations.StoreGateFull : Prop :=
  ∀ p (f : Form.St) (s : State) (c : Core) (pos : Fin 8),
    let r := storeRow p f.d f.a f.ta f.td f.ty (fun a => a + f.off.signExtend 64 * BitVec.ofNat 64 (tySize f.ty)) (s.env s.focus) c pos
    LastSlot s c pos (.st p f) → Quiet c → c.executes p = true → (∀ x ∈ r.srcs, c.regs.full x.1 = true) →
    (∀ x ∈ r.srcs, x.1 ∉ c.regs.bad) → r.ok →
    32 < gateRows c.gate + rowsTaken r.effects →
    exec (.st p f) s = .next (s.trapsWith c false (.go r.effects) (trapOf trapStoreGateFull 4))

/-- 11 R333: `trap` and `brk` commit their bundle, release the gate, take a mark at the boundary, and trap there with KIND 0, SLOT 7, their
bundle's address, the next bundle's as MARK, and their immediate as ADDR. -/
def Obligations.SoftTraps : Prop :=
  ∀ (code : Byte) (p : Pred) (f : Form.N16) (i : Instr), (code = 0x15 ∧ i = .trap p f) ∨ (code = 0x16 ∧ i = .brk p f) →
    ∀ (s : State) (c : Core) (fr : Firing) (b : Bundle) (pos : Fin 8), LastSlot s c pos i → Quiet c → AtBoundary c b → c.firing = some fr →
      CanRun c p [] [] [] → c.loops = [] →
      ∃ t d, exec i s = .next t ∧ t.core s.focus = some d ∧ d.gate = [] ∧ d.regs = c.regs ∧ d.shadow.pc = c.issue.pc + b.len ∧
        d.issue.pc = c.issue.pc + b.len ∧ d.firing = some { fr with state := .faulted } ∧
        field d.trapRec[0] 8 0 = code.toNat ∧ field d.trapRec[0] 12 10 = 0 ∧ field d.trapRec[0] 15 13 = 7 ∧
        field d.trapRec[1] 63 44 = c.issue.pc % 2 ^ 20 ∧ field d.trapRec[1] 43 24 = (c.issue.pc + b.len) % 2 ^ 20 ∧
        d.trapRec[2] = f.imm.setWidth 64

/-- 11 R325, R327, R328: where a bundle transfers no control, the next bundle follows it unless the top entry ends there; a top entry that ends
there and has more to run takes control to its start; one that is done is popped and the next entry is tested. A transfer that pops drops
the entries whose bodies do not hold its target. The NOPC cycles are owed either way. -/
def Obligations.LoopBoundary : Prop :=
  let lands (s : State) (c : Core) (b : Bundle) (ls : List LoopEntry) (es : List Effect) (pc : Nat) (out : List LoopEntry) : Prop :=
    ∃ d, (s.issued { c with loops := ls } false (.go es)).core s.focus = some d ∧ d.issue.pc = pc ∧ d.loops = out ∧ d.issue.owed = b.nopc.val
  (∀ (s : State) c b, s.core s.focus = some c → Quiet c → AtBoundary c b →
    lands s c b [] [] (c.issue.pc + b.len) [] ∧
    (∀ e es, e.stop ≠ c.issue.pc + b.len → lands s c b (e :: es) [] (c.issue.pc + b.len) (e :: es)) ∧
    (∀ e es, e.stop = c.issue.pc + b.len → 1 < e.count.toNat → lands s c b (e :: es) [] e.start ({ e with count := e.count - 1 } :: es)) ∧
    (∀ e es pc out, e.stop = c.issue.pc + b.len → e.count.toNat ≤ 1 → lands s c b es [] pc out → lands s c b (e :: es) [] pc out)) ∧
  (∀ (s : State) c b t, s.core s.focus = some c → Quiet c → AtBoundary c b →
    lands s c b [] [.jump t true] t [] ∧
    (∀ e es, e.start ≤ t ∧ t < e.stop → lands s c b (e :: es) [.jump t true] t (e :: es)) ∧
    (∀ e es out, ¬ (e.start ≤ t ∧ t < e.stop) → lands s c b es [.jump t true] t out → lands s c b (e :: es) [.jump t true] t out) ∧
    ∀ ls, lands s c b ls [.jump t false] t ls)

/-! ## Rules of single instructions -/

/-- 11 R314, whole. -/
def Obligations.DivisionRule : Prop :=
  (∀ p (f : Form.R3U),
    Completes (.div p f) (scalarRow p f.d [(.s f.a, f.ta), (.s f.b, f.tb)] 20 fun g => divWord f.uns (g.gets f.a) (g.gets f.b)) ∧
    Completes (.rem p f) (scalarRow p f.d [(.s f.a, f.ta), (.s f.b, f.tb)] 20 fun g => remWord f.uns (g.gets f.a) (g.gets f.b)) ∧
    ((encode (.div p f)).map SlotWord.word = some (fieldsWord false p 0x10 f.word) ∧
     (encode (.rem p f)).map SlotWord.word = some (fieldsWord false p 0x11 f.word)) ∧
    (p.wf = true → decodeSlot 0 (fieldsWord false p 0x10 f.word) none = .ok (.div p f) ∧
      decodeSlot 0 (fieldsWord false p 0x11 f.word) none = .ok (.rem p f) ∧
      decodeSlot 1 (fieldsWord false p 0x10 f.word) none = .error .unassigned ∧
      decodeSlot 1 (fieldsWord false p 0x11 f.word) none = .error .unassigned)) ∧
  (∀ f : Form.R3U, f.word = f.d.val * 2 ^ 15 + f.a.val * 2 ^ 10 + boolBit f.ta * 2 ^ 9 + f.b.val * 2 ^ 4 + boolBit f.tb * 2 ^ 3 +
    (if f.uns then 7 else 3)) ∧
  (∀ u a, divWord u a 0 = 0xFFFFFFFFFFFFFFFF ∧ remWord u a 0 = a) ∧
  (divWord false 0x8000000000000000 (-1) = 0x8000000000000000 ∧ remWord false 0x8000000000000000 (-1) = 0) ∧
  (∀ a b : Word, b ≠ 0 → a.toNat = (divWord true a b).toNat * b.toNat + (remWord true a b).toNat ∧ (remWord true a b).toNat < b.toNat) ∧
  (∀ a b : Word, b ≠ 0 → ¬ (a = 0x8000000000000000 ∧ b = -1) →
    (divWord false a b).toInt = a.toInt.tdiv b.toInt ∧
    (remWord false a b).toInt = a.toInt - (divWord false a b).toInt * b.toInt ∧
    (0 ≤ a.toInt → 0 ≤ (remWord false a b).toInt) ∧ (a.toInt ≤ 0 → (remWord false a b).toInt ≤ 0) ∧
    (remWord false a b).toInt.natAbs < b.toInt.natAbs) ∧
  (divWord false (-7) 2 = -3 ∧ remWord false (-7) 2 = -1 ∧ divWord true (-7) 2 = 0x7FFFFFFFFFFFFFFC ∧ remWord true (-7) 2 = 1)

/-- 11 R316, whole. -/
def Obligations.BitInstructions : Prop :=
  (∀ x ∈ ([(0x14, .clz, clzWord), (0x15, .ctz, ctzWord), (0x16, .popc, popcWord), (0x17, .bswap, bswapWord)] :
      List (Nat × (Pred → Form.R2 → Instr) × (Word → Word))), ∀ p (f : Form.R2),
    Completes (x.2.1 p f) (scalarRow p f.d [(.s f.a, f.ta)] 1 fun g => x.2.2 (g.gets f.a)) ∧
    (encode (x.2.1 p f)).map SlotWord.word = some (fieldsWord false p x.1 f.word) ∧
    (p.wf = true → ∀ pos : Fin 8, pos.val < 2 → decodeSlot pos (fieldsWord false p x.1 f.word) none = .ok (x.2.1 p f) ∧
      ∀ k, 0 < k → k < 2 ^ 9 → decodeSlot pos (fieldsWord false p x.1 (f.word + k)) none = .error .field)) ∧
  (∀ f : Form.R2, f.word = f.d.val * 2 ^ 15 + f.a.val * 2 ^ 10 + boolBit f.ta * 2 ^ 9) ∧
  clzWord 0 = 64 ∧ ctzWord 0 = 64 ∧
  (∀ (a : Word) n, n < 64 → 2 ^ (63 - n) ≤ a.toNat → a.toNat < 2 ^ (64 - n) → clzWord a = BitVec.ofNat 64 n) ∧
  (∀ (a : Word) n, n < 64 → a.toNat % 2 ^ n = 0 → a.getLsbD n = true → ctzWord a = BitVec.ofNat 64 n) ∧
  (∀ a : Word, (popcWord a).toNat = ((List.range 64).filter fun i => a.getLsbD i).length) ∧
  (∀ (a : Word) i, i < 8 → field (bswapWord a) (8 * i + 7) (8 * i) = field a (63 - 8 * i) (56 - 8 * i))

/-- 09 R263, 12 R340, R341: a NaN operand of an addition, subtraction, product, minimum or maximum gives the canonical NaN, and a signalling one
raises NV; so do ∞ × 0 and ∞ - ∞; a sum of zeros of one sign is that zero, one that cancels is +0, or -0 where the mode rounds down; a
compare with a NaN is false. -/
def Obligations.FpSpecials : Prop :=
  let qnan : Lane := 0x7FC00000
  let isNan (x : Lane) : Prop := x.toNat / 2 ^ 23 % 2 ^ 8 = 255 ∧ x.toNat % 2 ^ 23 ≠ 0
  let isSig (x : Lane) : Prop := isNan x ∧ x.toNat % 2 ^ 23 < 2 ^ 22
  (∀ g ∈ ([fpAdd, fpSub, fpMul] : List (Rounding → Lane → Lane → Lane × FpFlags)), ∀ mode a b, isNan a ∨ isNan b →
    (g mode a b).1 = qnan ∧ ((isSig a ∨ isSig b) → (g mode a b).2 = 16) ∧ (¬ isSig a → ¬ isSig b → (g mode a b).2 = 0)) ∧
  (∀ g ∈ ([fpMin, fpMax] : List (Lane → Lane → Lane × FpFlags)), ∀ a b, isNan a ∨ isNan b →
    (g a b).1 = qnan ∧ ((isSig a ∨ isSig b) → (g a b).2 = 16) ∧ (¬ isSig a → ¬ isSig b → (g a b).2 = 0)) ∧
  (∀ g ∈ ([fpCmpEq, fpCmpLt, fpCmpLe] : List (Lane → Lane → Bool × FpFlags)), ∀ a b, isNan a ∨ isNan b → (g a b).1 = false) ∧
  (∀ a b, (isNan a ∨ isNan b) ↔ (fpCmpUn a b).1 = true) ∧
  (∀ mode, fpMul mode 0x7F800000 0 = (qnan, 16) ∧ fpMul mode 0 0xFF800000 = (qnan, 16) ∧ fpAdd mode 0x7F800000 0xFF800000 = (qnan, 16) ∧
    fpSub mode 0x7F800000 0x7F800000 = (qnan, 16)) ∧
  (∀ mode, fpAdd mode 0 0 = (0, 0) ∧ fpAdd mode 0x80000000 0x80000000 = (0x80000000, 0) ∧
    fpAdd mode 0 0x80000000 = (if mode = .rdn then 0x80000000 else 0, 0)) ∧
  (∀ mode (x : Lane), x.toNat / 2 ^ 23 % 2 ^ 8 ≠ 255 → x.toNat % 2 ^ 31 ≠ 0 → fpSub mode x x = (if mode = .rdn then 0x80000000 else 0, 0))

/-! ## Steps of the module: power, clocks, health (01, 02 R69, 04 R131, R136, R142, R143, 08 R250) -/

/-- 01 R28 to R32, 04 R131, R135, R136, R143: bring-up derives the identity key, sets the security version floor, extends the measurements of the
stages that verify, sets the counter from the time, never back, and leaves live interfaces in ERROR; a stage or an early step that fails holds the
module in reset, its clock stopped; the power states and the throttle go where 01 Table 1-2 says, S1 and S3 not while a switch stands; S3 and the
loss of power keep what they keep. -/
def Obligations.PowerStates : Prop :=
  (∀ (s : State) o, s.bringUp = .notStarted → o.failed = none →
    (∀ k : Fin 7, o.stages[k].2 = true ∧ max s.bootFloor o.floor ≤ o.stages[k].1) → Makes (.powerGood o) s fun t =>
    t.bringUp = .up ∧ t.power = .p0 ∧ t.bootFloor = max s.bootFloor o.floor ∧ t.identity = some Sys2Proof.Config.identityKey ∧
    (∀ j : Fin 8, t.meas[j] = if j.val < 7 then Config.measure s.meas[j] (Config.stageDigest j.val) else s.meas[j]) ∧
    (∀ k : Fin 16, t.tdis[k].state = if s.tdis[k].live then .error else .unlocked) ∧
    (∀ x, o.time = some x → t.wcc = (if s.wcc < s.aligned x then s.aligned x else s.wcc) ∧ t.locked = true) ∧
    (o.time = none → t.wcc = s.wcc ∧ t.locked = false)) ∧
  (∀ (s : State) o, s.bringUp = .notStarted →
    (∃ k : Fin 7, (o.stages[k].2 = false ∨ o.stages[k].1 < max s.bootFloor o.floor) ∧
      ∀ j : Fin 7, j < k → o.stages[j].2 = true ∧ max s.bootFloor o.floor ≤ o.stages[j].1) → Makes (.powerGood o) s fun t =>
    t.bringUp = .heldInReset 0 ∧ t.clocked = false ∧ t.pmem = s.pmem ∧
    ∀ k : Fin 7, (o.stages[k].2 = false ∨ o.stages[k].1 < max s.bootFloor o.floor) →
      (∀ j : Fin 7, j < k → o.stages[j].2 = true ∧ max s.bootFloor o.floor ≤ o.stages[j].1) →
      ∀ j : Fin 8, t.meas[j] = if j.val < k.val then Config.measure s.meas[j] (Config.stageDigest j.val) else s.meas[j]) ∧
  (∀ (s : State) o k, s.bringUp = .notStarted → (∀ k : Fin 7, o.stages[k].2 = true ∧ max s.bootFloor o.floor ≤ o.stages[k].1) → o.failed = some k →
    Makes (.powerGood o) s fun t => t.bringUp = .heldInReset k ∧ t.clocked = false ∧ t.pmem = s.pmem) ∧
  (∀ s : State, s.power = .p1 → s.throttled = false → exec .enterP0 s = .next { s with power := .p0 }) ∧
  (∀ s : State, s.power = .p0 → exec .enterP1 s = .next { s with power := .p1 }) ∧
  (∀ s : State, s.clocked = true → s.switchStands = false → (∀ x ∈ s.cores, x.2.running = false) → Makes .enterS1 s fun t =>
    t.power = .s1 ∧ ((∀ x ∈ s.cores, x.2.reply = none) → t.pmem = s.pmem ∧ t.wcc = s.wcc)) ∧
  (∀ s : State, s.power = .s1 → exec .exitS1 s = .next { s with power := if s.throttled then .p1 else .p0 }) ∧
  (∀ s : State, s.clocked = true ∨ s.power = .s1 → s.switchStands = false → Makes .enterS3 s fun t =>
    t.power = .s3 ∧ t.msgs = [] ∧ t.reqs = [] ∧ t.walks = [] ∧ (∀ x ∈ t.cores, x.2.spad = [] ∧ x.2.acc = [] ∧ x.2.firing = none) ∧
    ((∀ x ∈ s.cores, x.2.reply = none) → (∀ x ∈ s.slices, ∀ l ∈ x.2.lines, l.dirty = true ∨ l.home = none) →
      t.pmem = s.pmem ∧ t.regions = s.regions ∧ t.wcc = s.wcc)) ∧
  (∀ (s : State) x, s.power = .s3 → Makes (.exitS3 (some x)) s fun t => t.power = (if s.throttled then .p1 else .p0) ∧
    t.wcc = (if s.wcc < s.aligned x then s.aligned x else s.wcc) ∧ t.locked = true ∧ t.pmem = s.pmem) ∧
  (∀ s : State, s.power = .s3 → Makes (.exitS3 none) s fun t => t.wcc = s.wcc ∧ t.locked = false ∧ t.mgmt = s.mgmt ++ [.unlocked]) ∧
  (∀ (s : State) i, (i = .powerRemoved ∧ s.power ≠ .s5 ∨ i = .auxPowerFail ∧ s.power = .s3) → Makes i s fun t =>
    t.power = .s5 ∧ t.pmem = [] ∧ t.cores = [] ∧ t.keyTable = [] ∧ t.bringUp = .notStarted ∧ t.health = s.health ∧ t.healthGen = s.healthGen ∧
    t.defects = s.defects ∧ t.bootFloor = s.bootFloor ∧ t.store = s.store ∧ ∀ k : Fin 16, t.tdis[k].live = s.tdis[k].live) ∧
  (∀ s : State, s.clocked = true → s.throttled = false → exec .thermalThrottle s =
    .next { s with power := .p1, throttled := true, throttles := s.throttles ++ [s.wcc], mgmt := s.mgmt ++ [.thermal] }) ∧
  (∀ s : State, s.throttled = true → exec .thermalRecover s = .next { s with throttled := false, power := if s.power = .p1 then .p0 else s.power })

/-- 01 R28, 02 R55, R74, 07 R215: the counter is slewed one increment at a time, 1,024 cycles apart, while it is locked, towards the time with the
delay measured on the port it came by, and the loss of its time is an event; every logical clock below the counter's 128th part takes it; at each
multiple of 65,536 the older filter of each slice is cleared and becomes the current one; a port's delay is measured. -/
def Obligations.Clocks : Prop :=
  (∀ (s : State) x, (s.clocked = true ∨ s.power = .s1) → s.locked = true → s.slew = none → (∀ y, s.lastSlew = some y → 1024 ≤ (s.wcc - y).toNat) →
    s.wcc ≠ s.aligned x → exec (.wccSlew x) s =
      .next { s with slew := some (decide (s.wcc < s.aligned x)), lastSlew := some (if s.wcc < s.aligned x then s.wcc + 1 else s.wcc - 1) }) ∧
  (∀ (s : State) t, s.aligned { port := none, time := t } = t) ∧
  (∀ (s : State) p t, s.aligned { port := some p, time := t } = t + lookupD 0 s.delays p) ∧
  (∀ s : State, s.locked = true → exec .syncUnlocked s = .next { s with locked := false, slew := none, mgmt := s.mgmt ++ [.unlocked] }) ∧
  (∀ s : State, s.locked = false → exec .syncLocked s = .next { s with locked := true }) ∧
  (∀ (s : State) n c, s.clocked = true → (n, c) ∈ s.cores → c.lts < s.wcc.toNat / 128 → Makes .ltsFloor s fun t =>
    t.cores = s.cores.map (fun x => (x.1, { x.2 with lts := max x.2.lts (s.wcc.toNat / 128) })) ∧
    t.agentLts = s.agentLts.map (fun x => (x.1, max x.2 (s.wcc.toNat / 128))) ∧ t.pmem = s.pmem) ∧
  (∀ s : State, s.clocked = true → s.bloomAt ≠ s.wcc.toNat / 65536 → Makes .bloomAlternate s fun t =>
    t.bloomAt = s.wcc.toNat / 65536 ∧ t.slices = s.slices.map fun x =>
      (x.1, if x.2.current then { x.2 with filterA := [], current := false } else { x.2 with filterB := [], current := true })) ∧
  (∀ (s : State) p x, s.clocked = true → s.economy = false → p ∉ s.health.ethOut → Makes (.peerDelayMeasure p x) s fun t =>
    t.delays = s.delays.filter (fun d => d.1 ≠ p) ++ [(p, x)] ∧ lookupD 0 t.delays p = x ∧ t.wcc = s.wcc)

/-- 00 R4, 01 R33 to R43, 02 R69, 08 R250: a corrected error is counted where it lies, an uncorrectable one of memory is of its whole line; a core is
withdrawn, tested with its contents held and put back, skipped after 100 ms, or found dead and recorded; a failed core leaves dispatch and is asked
to freeze, and one that does not freeze in time is out of service with nothing outstanding; the record grows a generation; a restart builds the map
anew and leaves no work. -/
def Obligations.HealthAndService : Prop :=
  (∀ (s : State) x, s.clocked = true → Makes (.scrubLine x false) s fun t =>
    t.errorCount (s.siteUnit x) = s.errorCount (s.siteUnit x) + 1 ∧ t.errors = s.errors ++ [(s.wcc, s.siteUnit x)] ∧ t.pmem = s.pmem) ∧
  (∀ (s : State) a, s.clocked = true → Makes (.scrubLine (.memory a) true) s fun t => (∀ l, l ∈ t.eccBad ↔ l ∈ s.eccBad ∨ l = a / 128) ∧ t.pmem = s.pmem) ∧
  (∀ (s : State) n e l, s.clocked = true → (s.router n).badEntries = e :: l → Makes (.configEntryRewritten n) s fun t =>
    (t.router n).badEntries = l ∧ t.mgmt = s.mgmt ++ [.configEntry n]) ∧
  (∀ (s : State) n c, s.clocked = true → s.core n = some c → n < 12960 → s.testable n = true → c.withdrawn = false → s.waitsTest n = false →
    exec (.selftestWithdraw n) s = .next { s.setCore n { c with withdrawn := true } with withdrawals := assocSet s.withdrawals n s.wcc }) ∧
  (∀ (s : State) n c, s.clocked = true → s.core n = some c → n < 12960 → s.testable n = true → s.waitsTest n = true →
    s.anyTest = false → s.idle n = true → exec (.selftestStart n) s = .next { s.setCore n
      { c with testing := true, holding := some (c.spad, c.acc), skips := 0 } with withdrawals := dropKey s.withdrawals n }) ∧
  (∀ (s : State) n c x, s.clocked = true → s.core n = some c → n < 12960 → s.testable n = true → assoc s.withdrawals n = some x →
    100000000 ≤ (s.wcc - x).toNat → s.idle n = false →
    Makes (.selftestSkip n) s fun t => t.core n = some { c with withdrawn := s.outForGood n c, skips := if c.skips = 2 then 0 else c.skips + 1 } ∧
      t.mgmt = s.mgmt ++ if c.skips = 2 then [.skipped n] else []) ∧
  (∀ (s : State) n c m a pass, s.clocked = true → s.core n = some c → n < 12960 → c.testing = true → c.holding = some (m, a) →
    Makes (.selftestDone n pass) s fun t =>
      t.core n = some { c with testing := false, holding := none, spad := m, acc := a, withdrawn := !pass || s.outForGood n c } ∧
      (pass = true → t.health = s.health) ∧ (pass = false → (t.health.dead.contains (s.physical n)) = true)) ∧
  (∀ (s : State) n c, s.clocked = true → s.core n = some c → n < 12960 → c.failed = false → c.frozen = false → c.testing = false → c.out = false →
    s.islanded n = false → Makes (.failedInService n) s fun t =>
      t.core n = some { c with withdrawn := true, failed := true, freezeReq := true } ∧ (t.health.dead.contains (s.physical n)) = true) ∧
  (∀ (s : State) n c, s.clocked = true → s.core n = some c → c.failed = true → c.frozen = false → c.out = false → c.firing = none → c.stagedF = [] →
    Makes (.freezeTimeout n) s fun t => (∃ d, t.core n = some d ∧ d.out = true ∧ d.firing = none) ∧ (∀ r ∈ t.reqs, r.agent ≠ .core n) ∧
      ∀ k ∈ t.tokens, k.core ≠ n) ∧
  (∀ (s : State) r, Makes (.newHealthRecord r) s fun t => t.health = r ∧ t.healthGen = s.healthGen + 1 ∧ t.inForce = s.inForce ∧ t.caps = s.caps ∧
    t.asked = r.reasons) ∧
  (∀ (s : State) l, s.clocked = true → s.economy = false → l ∉ s.health.cxlOut → Makes (.deepTierLoss l) s fun t =>
    t.lostCxl = s.lostCxl ++ [l] ∧ t.health.cxlOut = s.health.cxlOut ++ [l] ∧ t.healthGen = s.healthGen + 1 ∧ t.caps = s.caps) ∧
  (∀ s : State, s.clocked = true → Makes .configurationRestart s fun t =>
    t.inForce = { s.health.with_ s.defects with map := healthMap (s.health.with_ s.defects) } ∧
    t.caps = capsWord (s.health.with_ s.defects) (healthMap (s.health.with_ s.defects)) s.economy ∧
    t.msgs = [] ∧ t.reqs = [] ∧ t.walks = [] ∧
    ((∀ x ∈ s.slices, ∀ l ∈ x.2.lines, l.dirty = true ∨ l.home = none) → t.pmem = s.pmem) ∧
    (∀ k : Fin 8, (s.ctxs[k].state = .parked → t.ctxs[k].state = .parked) ∧ (s.ctxs[k].state = .empty → t.ctxs[k].state = .empty) ∧
      (s.ctxs[k].state ≠ .parked → s.ctxs[k].state ≠ .empty → t.ctxs[k].state = .faulted)) ∧
    ∀ x ∈ t.cores, x.2.firing = none ∧ x.2.lts = s.wcc.toNat / 128)

/-! ## Links, names and gates (02 R70 to R74, 03 R78 to R111, 05 R149 to R168) -/

/-- 02 R71, R72, 03 R79, R108 to R111: a link's retries are counted; a port with 16 in a row, or none acknowledged for 10,000 cycles, is dead at both
ends, in the health record too, and is bypassed by a box of three free links, north or west first, or both its ends hold; the frame of the
expected number is taken, its flits stand at the port, what it acknowledges is forgotten, another is ignored; what is not acknowledged goes again; a
lost peer is an event. -/
def Obligations.LinksAndFrames : Prop :=
  (∀ (s : State) n p k, s.clocked = true → linkOf n p = some k → s.linkIsDead k = false → Makes (.retryRequest n p) s fun t =>
    (t.router n).retriesAt p = (s.router n).retriesAt p + 1 ∧ t.msgs = s.msgs ∧ t.pmem = s.pmem) ∧
  (∀ (s : State) n p k, s.clocked = true → linkOf n p = some k → s.linkIsDead k = false →
    (16 ≤ (s.router n).retriesAt p ∨ 10000 ≤ (s.wcc - (findFin (s.router n).acked p).getD 0).toNat) → Makes (.linkDead n p) s fun t =>
    (∀ e ∈ linkEnds k, (t.router e.1).dead.contains e.2 = true) ∧ (∀ e, e ∈ t.health.deadLinks ↔ e ∈ s.health.deadLinks ∨ e = (n, p)) ∧
    t.healthGen = s.healthGen + 1 ∧ t.msgs = s.msgs ∧ t.pmem = s.pmem) ∧
  (∀ (s : State) n p, (s.router n).retriesAt p < 16 → (s.wcc - (findFin (s.router n).acked p).getD 0).toNat < 10000 →
    exec (.linkDead n p) s = .next s) ∧
  (∀ (s : State) k, s.boxFree k false = true → ∀ e ∈ linkEnds k, (e.2, false) ∈ ((s.bypass k).router e.1).boxed) ∧
  (∀ (s : State) k, s.boxFree k false = false → s.boxFree k true = true → ∀ e ∈ linkEnds k, (e.2, true) ∈ ((s.bypass k).router e.1).boxed) ∧
  (∀ (s : State) k, s.boxFree k false = false → s.boxFree k true = false → ∀ e ∈ linkEnds k, e.2 ∈ ((s.bypass k).router e.1).held) ∧
  (∀ (s : State) p (f : Frame), s.clocked = true → s.economy = false → p ∉ s.health.ethOut → f.dst = s.modNum → f.cls = f.msg.cls →
    1 ≤ f.nflit → f.nflit ≤ 16 → f.behind + f.nflit ≤ f.msg.body.flits → f.psn = (s.peerLink f.src f.cls).expected →
    Makes (.frameReceive p f) s fun t => (t.peerLink f.src f.cls).expected = f.psn + 1 ∧
      (t.peerLink f.src f.cls).unacked = unackedAfter f.ack (s.peerLink f.src f.cls).unacked ∧ t.pmem = s.pmem ∧
      (s.coming (.peer p f.src) (fromPeer f.src f.msg) = none → t.msgs = s.msgs ++
        [{ place := .peer p f.src, msg := fromPeer f.src f.msg, lacks := (fromPeer f.src f.msg).body.flits - f.nflit }])) ∧
  (∀ (s : State) p (f : Frame), f.psn ≠ (s.peerLink f.src f.cls).expected → exec (.frameReceive p f) s = .next s) ∧
  (∀ (s : State) p peer cls, s.clocked = true → s.economy = false → p ∉ s.health.ethOut → (s.peerLink peer cls).unacked ≠ [] →
    Makes (.frameResendTimeout p peer cls) s fun t => t.msgs = s.msgs ∧
      (t.peerLink peer cls).unacked = (s.peerLink peer cls).unacked.map fun f => { f with ack := (s.peerLink peer cls).expected - 1 }) ∧
  (∀ (s : State) peer, s.clocked = true → peer ∉ s.lostPeers →
    exec (.peerLost peer) s = .next { s with lostPeers := s.lostPeers ++ [peer], mgmt := s.mgmt ++ [.peerLost peer] })

/-- 03 R82 to R92, R103, 05 R153, R154, 14 R394, R396: a publication goes on by the port of the entry that matches its name, and is kept where the
entry says so; one that no entry matches ends; a core's enters at its local port; a request is served by the tile it finds, or waits for one still
arriving, or goes on by its entry's port; a configuration write to the shadow plane is taken, one to the active plane is stray; a miss reply faults
the `fetch` or fails the subscription it answers; a gate accepts the tile it needs, or holds it, or counts the end of its stream. -/
def Obligations.NamesAtRouters : Prop :=
  (∀ (s : State) n ch f tl e o k, s.clocked = true → Heads s n ch 0 f → f.msg.body = .publication tl none →
    s.judgeEntry n (s.entryFor n tl.name) f.msg.cpl = .pass → ((s.routerCfg n).bind fun r => r.matchName tl.name) = some e → e.ports = [o] →
    Clear s n f.msg o k → Makes (.publicationArrival n ch) s fun t =>
      t.msgs = swapMsg f none s.msgs ++ [{ place := .input k (opposite o), msg := f.msg }] ∧ (t.router n).moved = (s.router n).moved + 1 ∧
      ((s.router n).mirror = [] → tl.flits ≤ s.mirrorBlocks n →
        (t.router n).mirror = if e.keep then [{ tile := tl, stored := true, got := tl.flits }] else [])) ∧
  (∀ (s : State) n ch f tl, s.clocked = true → Heads s n ch 0 f → f.msg.body = .publication tl none →
    s.judgeEntry n (s.entryFor n tl.name) f.msg.cpl = .pass → ((s.routerCfg n).bind fun r => r.matchName tl.name) = none → ch.port ≠ 0 →
    f.msg.source ≠ ingressSource n → Makes (.publicationArrival n ch) s fun t =>
      t.msgs = swapMsg f none s.msgs ∧ ((s.router n).mirror = [] → (t.router n).mirror = [])) ∧
  (∀ (s : State) n lane c tl d, s.clocked = true → s.firstIn n 0 0 lane = none → (∀ f ∈ s.msgs, s.atSource n 0 f = false) →
    s.core n = some c → c.works = true → c.portBad = none → c.pubHead = some (tl, d) → tl.back = false →
    s.coming (.input n 0) { cls := 0, cpl := (s.router n).plane, source := n, body := .publication tl none } = none →
    tl.flits ≤ s.space (.input n 0) { cls := 0, cpl := (s.router n).plane, source := n, body := .publication tl none } →
    Makes (.publicationArrival n { port := 0, lane }) s fun t => t.core n = some d ∧ t.msgs = s.msgs ++
      [{ place := .input n 0, msg := { cls := 0, cpl := (s.router n).plane, source := n, body := .publication tl none } }]) ∧
  (∀ (s : State) n ch f a b to_ tl, s.clocked = true → Heads s n ch 1 f → f.msg.body = .request a b to_ none →
    s.judgeEntry n (s.entryFor n a) f.msg.cpl = .pass → s.probe n (a, b) = .served tl → Makes (.requestArrival n ch) s fun t =>
      t.msgs = swapMsg f none s.msgs ++
        [{ place := .source n 0, msg := { cls := 0, cpl := (s.router n).plane, source := n, body := .reply tl to_ } }]) ∧
  (∀ (s : State) n ch f a b to_, s.clocked = true → Heads s n ch 1 f → f.msg.body = .request a b to_ none →
    s.judgeEntry n (s.entryFor n a) f.msg.cpl = .pass → s.probe n (a, b) = .arriving → Makes (.requestArrival n ch) s fun t =>
      t.msgs = swapMsg f none s.msgs ∧ (t.router n).waiting = (s.router n).waiting ++ [f.msg]) ∧
  (∀ (s : State) n ch f a b to_ o k, s.clocked = true → Heads s n ch 1 f → f.msg.body = .request a b to_ none →
    s.judgeEntry n (s.entryFor n a) f.msg.cpl = .pass → s.probe n (a, b) = .absent → s.fetchPort n a = some o → Clear s n f.msg o k →
    Makes (.requestArrival n ch) s fun t => t.msgs = swapMsg f none s.msgs ++ [{ place := .input k (opposite o), msg := f.msg }]) ∧
  (∀ (s : State) n m l a b to_ g tl, s.clocked = true → (s.router n).waiting = m :: l → m.body = .request a b to_ g →
    s.probe n (a, b) = .served tl → Makes (.requestResume n) s fun t => (t.router n).waiting = l ∧ t.msgs = s.msgs ++
      [{ place := .source n 0, msg := { cls := 0, cpl := (s.router n).plane, source := n, body := .reply tl to_ } }]) ∧
  (∀ (s : State) n f rest pl r, s.clocked = true → FirstMsg s (fun x => writeAt n x = true) f rest → f.msg.body = .configWrite pl r →
    (pl ≠ (s.router n).plane → Makes (.configWrite n) s fun t => t.msgs = rest ∧ t.events = s.events ∧ (t.router n).plane = (s.router n).plane ∧
      ∀ i q, s.parts = [(i, q)] → q.has n = true → ∃ x, t.parts = [(i, x)] ∧ x.writes = q.writes.filter (· ≠ n)) ∧
    (pl = (s.router n).plane →
      exec (.configWrite n) s = .next ((({ s with msgs := rest } : State).moved n).stray n (placePort f.place) f.msg))) ∧
  (∀ (s : State) c x k f rest a b code, s.clocked = true → FirstMsg s (fun y => missAt (.core c x) y = true) f rest →
    f.msg.body = .miss a b code (.core c x) → s.judge c f.msg.cpl = .pass → s.core c = some k → k.works = true →
    Makes (.missReplyArrival (.core c x)) s fun t => t.msgs = rest ∧ ∃ d, t.core c = some d ∧
      d.dfaults = k.dfaults ++ [{ code, addr := 0, space := 0, access := 3, xch := 3, seq := 0, xid := x }]) ∧
  (∀ (s : State) g x f rest a b code, s.clocked = true → FirstMsg s (fun y => missAt (.gate g) y = true) f rest →
    f.msg.body = .miss a b code (.gate g) → s.judge (s.gateRouter g) f.msg.cpl = .pass → s.gate g = some x →
    Makes (.missReplyArrival (.gate g)) s fun t => t.msgs = rest ∧ ∃ y, t.gate g = some y ∧ (a, b) ∉ y.asked ∧ y.needs (a, b) = false) ∧
  (∀ (s : State) g x f q tl rest k, s.clocked = true → s.gate g = some x → s.atGate g = some (f, q, tl, rest) →
    s.judge (s.gateRouter g) f.msg.cpl = .pass → tl.eos = false → s.lateTile x f.msg tl = false → s.taskOf g = some k →
    (∀ d, x.accept k (s.pins g) tl = some d → Makes (.gateTileArrival g) s fun t => t.msgs = rest ∧ t.gate g = some d) ∧
    (x.accept k (s.pins g) tl = none →
      exec (.gateTileArrival g) s = .next { s with msgs := rest ++ [{ place := .held g q, msg := f.msg }] })) ∧
  (∀ (s : State) g x f q tl rest, s.clocked = true → s.gate g = some x → s.atGate g = some (f, q, tl, rest) →
    s.judge (s.gateRouter g) f.msg.cpl = .pass → tl.eos = true → s.takesEnd x (tensorOf tl.name, f.msg.source) = true →
    Makes (.gateTileArrival g) s fun t => t.msgs = rest ∧ ∃ y, t.gate g = some y ∧ y.ended = x.ended ++ [(tensorOf tl.name, f.msg.source)]) ∧
  (∀ (s : State) g x f q tl rest k d, s.clocked = true → s.gate g = some x → FirstMsg s (fun y => ∃ p, y.place = .held g p) f rest →
    f.place = .held g q → bodyTile f.msg.body = some tl → s.taskOf g = some k → x.accept k (s.pins g) tl = some d →
    Makes (.heldTileAccept g) s fun t => t.msgs = rest ∧ t.gate g = some d)

/-- 05 R149 to R168, 11 R331, 14 R395, R398: a walker opens its next iteration and asks for what it does not hold; a core takes the offer it
chooses, staged behind what it has, or at once; a herd's ranks go to its members; triggers and requests for a stream's end are counted, and every
member sends the end once; a barrier's phase is released when the last rank arrives; a timeout aborts the herd; a firing that has settled retires,
once counted, its banks return to their configured modes, and the next one begins. -/
def Obligations.GatesAndFirings : Prop :=
  (∀ (s : State) g x k, s.clocked = true → s.gate g = some x → s.taskOf g = some k → x.runnable = true → s.ctxs[g.ctx].state = .running →
    x.exhausted k = false → x.iters.length < k.window → s.afterOk g.ctx k = true → Makes (.walkerOpen g) s fun t =>
      (∃ d, t.gate g = some d ∧ d.nextOrd = x.nextOrd + 1 ∧ d.iters.map (·.ordinal) = x.iters.map (·.ordinal) ++ [x.nextOrd]) ∧
      t.msgs = s.msgs ++ (x.wants (k.pairs x s.ctxs[g.ctx].ns x.nextOrd)).map fun p =>
        { place := .source (s.gateRouter g) 0, msg := { cls := 1, cpl := (s.router (s.gateRouter g)).plane, source := s.gateRouter g,
                                                        body := .request p.1 p.2 (.gate g) none } }) ∧
  (∀ (s : State) n c x k cr i, s.clocked = true → s.core n = some c → s.choose n c = some (x, k, cr) → s.gate x.id = some x → x.head = some i →
    k.herd = false → (∀ m ∈ k.members, m ≠ n → s.beats x.id k m n = false) → Makes (.dispatch n) s fun t =>
      (∃ d, t.gate x.id = some d ∧ d.iters = x.iters.filter (fun j => j.ordinal ≠ i.ordinal) ∧ d.promoted = none) ∧
      (c.firing ≠ none ∨ c.stagedF ≠ [] → ∃ d, t.core n = some d ∧ d.stagedF.length = c.stagedF.length + 1 ∧ d.picked = some s.wcc ∧
        d.firing.map (fun f => (f.gate, f.ordinal, f.rank)) = c.firing.map (fun f => (f.gate, f.ordinal, f.rank))) ∧
      (c.firing = none → c.stagedF = [] →
        (x.firingOf k c.modes s.ctxs[x.id.ctx].ns i 0 (k.members.idxOf n) (c.slotOf k)).failed = none →
        ∃ d f, t.core n = some d ∧ d.firing = some f ∧ f.state = .running ∧ f.ordinal = i.ordinal ∧ d.issue.pc = k.entry ∧
          d.modes = c.cfgModes)) ∧
  (∀ (s : State) g x k i, s.clocked = true → s.gate g = some x → s.taskOf g = some k → x.head = some i → k.herd = true → s.herdFree x k = true →
    (∀ n ∈ k.members, ∃ c h u cr, s.core n = some c ∧ s.choose n c = some (h, u, cr) ∧ h.id = g) → Makes (.herdDispatch g) s fun t =>
      ∃ d, t.gate g = some d ∧ d.live = x.live ++ (List.range k.hsize).map (fun r => (k.tagOf i.ordinal, r, false)) ∧
        d.iters = x.iters.filter (fun j => j.ordinal ≠ i.ordinal) ∧ d.promoted = none) ∧
  (∀ (s : State) g x f rest a b, s.clocked = true → s.gate g = some x → FirstMsg s (fun y => triggerAt g y = true) f rest →
    f.msg.body = .control g (.trigger a b) → s.judge (s.gateRouter g) f.msg.cpl = .pass → Makes (.triggerCount g) s fun t =>
      t.msgs = rest ∧ ∃ d, t.gate g = some d ∧ d.triggered = x.triggered + 1) ∧
  (∀ (s : State) g x k n c e, s.clocked = true → s.gate g = some x → s.taskOf g = some k → firstMember (s.eosOf g) k.members = some (n, e) →
    s.core n = some c → Makes (.eosRequest g) s fun t =>
      (∃ d, t.gate g = some d ∧ (e ∈ d.eos ∨ e ∈ d.eosDone)) ∧ ∃ d, t.core n = some d ∧ d.port = c.port.tail) ∧
  (∀ (s : State) g x k, s.clocked = true → s.gate g = some x → s.taskOf g = some k → x.eos ≠ [] → x.exhausted k = true → x.quiet k = true →
    s.ctxs[g.ctx].state = .running → Makes (.eosEmit g) s fun t =>
      (∃ d, t.gate g = some d ∧ d.eos = [] ∧ d.eosDone = x.eosDone ++ x.eos) ∧
      t.msgs = s.msgs ++ k.members.flatMap fun m => x.eos.map fun e =>
        { place := .source m 0, msg := { cls := 0, cpl := (s.router m).plane, source := m, body := .publication (eosTile s.ctxs[g.ctx].ns e) none } }) ∧
  (∀ (s : State) g x k n c a, s.clocked = true → s.gate g = some x → s.taskOf g = some k → firstMember (s.arrivalOf g) k.members = some (n, a) →
    s.core n = some c → Makes (.barrierArrival g) s fun t =>
      (∃ d, t.core n = some d ∧ d.port = c.port.tail) ∧
      (k.hsize ≤ ({ x with arrived := x.arrived ++ [a] } : Gate).arrivedAt a.1 a.2.1 →
        ∀ m ∈ s.ranksOf g a.1, ∀ d, t.core m = some d → a.2.1 ≤ d.barRel) ∧
      (({ x with arrived := x.arrived ++ [a] } : Gate).arrivedAt a.1 a.2.1 < k.hsize → ∃ d, t.gate g = some d ∧ a ∈ d.arrived)) ∧
  (∀ (s : State) n c f, s.clocked = true → s.core n = some c → c.firing = some f → f.task.herd = true → s.timerRuns c = true → c.running = true →
    Wait.phase ∈ c.issue.waits → c.barRel < c.barArr → 2 ^ f.task.btmo < c.barWait → (∀ d ∈ c.dfaults, d.code ≠ trapHerdAbort) →
    Makes (.barrierTimeout n) s fun t => ∀ x ∈ t.cores, ∀ h, x.2.firing = some h → h.gate = f.gate → h.tag = f.tag →
      ∃ d ∈ x.2.dfaults, d.code = trapHerdAbort) ∧
  (∀ (s : State) n c f, s.clocked = true → s.core n = some c → c.firing = some f → c.issue.retiring = true → c.running = true → c.works = true →
    c.waitsOk (s.env n) = true → c.settled = true → (∀ l ∈ f.landings, l.done = true) → s.settledAt n = true → c.issue.owed = 0 →
    Makes (.retireComplete n) s fun t =>
      (∀ x, s.gate f.gate = some x → ∃ d, t.gate f.gate = some d ∧
        ((∀ b, (f.tag, f.rank, b) ∉ x.closed) → d.retired = x.retired + 1) ∧ ((∃ b, (f.tag, f.rank, b) ∈ x.closed) → d.retired = x.retired)) ∧
      (c.stagedF = [] → ∃ d, t.core n = some d ∧ d.firing = none ∧ d.modes = c.cfgModes) ∧
      (∀ h l, c.stagedF = h :: l → h.failed = none → ∃ d e, t.core n = some d ∧ d.firing = some e ∧ e.state = .running ∧ e.gate = h.gate ∧
        e.ordinal = h.ordinal ∧ e.rank = h.rank ∧ d.stagedF.length = l.length ∧ d.issue.pc = h.task.entry ∧ d.modes = c.cfgModes))

/-- 03 R97 to R107, R112 to R115, 13 R369, 16 R419: a chunk is forwarded, or held for its partners, or combined with them, or spilled where the slots
are full; a spilled one comes back as slots free; a marker steps an entry once every input has its own; a carry joins its FIFO; two clean waves drain a
plane, after which, or by force, a swap wave begins, and reaches router after router; a timer that reaches its limit, or QD_CTL, begins a probe, whose
second wave decides. -/
def Obligations.CollectivesAndPlanes : Prop :=
  (∀ (s : State) n ch f v g fmt i data x, s.clocked = true → Heads s n ch 2 f → f.msg.body = .chunk v g fmt i data →
    s.judgeEntry n (some (.vsn v)) f.msg.cpl = .pass → s.facet n v = some x → ch.port ∈ x.inputs → (s.router n).marked v ch.port = false →
    (s.router n).sideOf 0 = none →
    (x.combine = none → x.out = [0] → Makes (.collectiveChunkArrival n ch) s fun t =>
      t.msgs = swapMsg f none s.msgs ++ [{ place := .core n ch.port, msg := f.msg }]) ∧
    (∀ op, x.combine = some op → fmt = combineFmt op → (∀ y ∈ (s.router n).spilled, y.1.from_ ≠ ch.port) →
      (partners { vsn := v, tag := g, index := i, fmt, data, from_ := ch.port } (s.router n).slots x.inputs = none →
        (slotFlits (s.router n).slots + data.length ≤ 64 → Makes (.collectiveChunkArrival n ch) s fun t => t.msgs = swapMsg f none s.msgs ∧
          (t.router n).slots = (s.router n).slots ++ [{ vsn := v, tag := g, index := i, fmt, data, from_ := ch.port }]) ∧
        (64 < slotFlits (s.router n).slots + data.length → Makes (.collectiveChunkArrival n ch) s fun t => t.msgs = swapMsg f none s.msgs ∧
          (t.router n).spilled = (s.router n).spilled ++
            [({ vsn := v, tag := g, index := i, fmt, data, from_ := ch.port }, decide (0 < s.deepLinks))])) ∧
      (∀ l, partners { vsn := v, tag := g, index := i, fmt, data, from_ := ch.port } (s.router n).slots x.inputs = some l → x.out = [0] →
        Makes (.collectiveChunkArrival n ch) s fun t => (∀ y ∈ (t.router n).slots, y ∉ l) ∧ t.msgs = swapMsg f none s.msgs ++
          [{ place := .core n 0, msg := { cls := 2, cpl := (s.router n).plane, source := n,
                                          body := .chunk v g fmt i (combineChunks op (l.map (·.data))) } }]))) ∧
  (∀ (s : State) n h d l x op, s.clocked = true → (s.router n).spilled = (h, d) :: l → s.facet n h.vsn = some x → x.combine = some op →
    partners h (s.router n).slots x.inputs = none → slotFlits (s.router n).slots + h.data.length ≤ 64 → Makes (.chunkRefetch n) s fun t =>
      (t.router n).spilled = l ∧ (t.router n).slots = (s.router n).slots ++ [h]) ∧
  (∀ (s : State) n ch f v g last fs x, s.clocked = true → Heads s n ch 2 f → f.msg.body = .mark v g last →
    s.judgeEntry n (some (.vsn v)) f.msg.cpl = .pass → s.facets n v = some fs → s.facet n v = some x → ch.port ∈ x.inputs →
    (s.router n).marked v ch.port = false → (s.router n).sideOf 0 = none →
    ((∃ q ∈ x.inputs, q ≠ ch.port ∧ (s.router n).marked v q = false) → Makes (.markerArrival n ch) s fun t => t.msgs = swapMsg f none s.msgs ∧
      (t.router n).marks = (s.router n).marks ++ [(v, ch.port, last)] ∧ (t.router n).curOf v = (s.router n).curOf v) ∧
    (x.inputs = [ch.port] → x.out = [0] → (∀ y ∈ (s.router n).spilled, y.1.vsn ≠ v) → Makes (.markerArrival n ch) s fun t =>
      t.msgs = swapMsg f none s.msgs ∧ (t.router n).marked v ch.port = false ∧ (t.router n).curOf v = ((s.router n).curOf v + 1) % fs.length)) ∧
  (∀ (s : State) n down c f x rest m a b, s.clocked = true → s.core n = some c → c.firing = some f → c.works = true → s.held f = false →
    FirstMsg s (fun y => carryAt n f.tag down y = true) x rest → x.msg.body = .carry m a b → c.scanQ = [] →
    Makes (.carryMessageArrival n down) s fun t => t.msgs = rest ∧
      t.core n = some (if down then { c with fifoDown := c.fifoDown ++ [m] } else { c with fifoUp := c.fifoUp ++ [m] })) ∧
  (∀ (s : State) i p, s.clocked = true → s.part i = some p → p.complete = true → p.drained = false → p.swapped = false → s.cleanWave i p = true →
    (p.clean = none → exec (.drainWave i) s = .next (s.onPart i fun q => { q with clean := some s.wcc })) ∧
    (∀ t0, p.clean = some t0 → t0 + 1024 ≤ s.wcc → Makes (.drainWave i) s fun t =>
      (∃ q, t.part i = some q ∧ q.drained = true) ∧ t.mgmt = s.mgmt ++ [.drained i])) ∧
  (∀ (s : State) i p, s.clocked = true → s.part i = some p → p.swapped = false → s.planeFree i = true →
    (p.drained = true → exec (.cfgswap i) s = .next (s.onPart i fun q => { q with swap := p.routers, swapped := true })) ∧
    exec (.cfgswapForce i) s = .next (s.onPart i fun q => { q with swap := p.routers, swapped := true })) ∧
  (∀ (s : State) n i p, s.clocked = true → s.partOf n = some (i, p) → n ∈ p.swap → Makes (.planeSwap n) s fun t =>
    (t.router n).plane = (!(s.router n).plane) ∧ (t.router n).cur = [] ∧ (t.router n).marks = [] ∧ (t.router n).slots = [] ∧
    (t.router n).spilled = [] ∧ (t.router n).ends = 0 ∧ (∀ c, s.core n = some c → ∃ d, t.core n = some d ∧ d.swaps = c.swaps + 1)) ∧
  (∀ (s : State) n port memplane i p q, s.clocked = true → lookupD 0 (s.router n).timers (port, memplane) = s.congLimit →
    s.partOf n = some (i, q) → s.part i = some p → p.probe = none → exec (.congestionTimeout n port) s = .next (s.onPart i fun q =>
      { q with probe := some { moved := s.movement p, at_ := s.wcc, asked := false, done := s.probeDone i p,
                               blocked := (s.blockedIn p).map fun b => (b.1, b.2.1) } })) ∧
  (∀ (s : State) i p, s.clocked = true → s.part i = some p → p.probe = none → Makes (.probe i) s fun t =>
    t.qdPart = BitVec.ofNat 8 i.val ∧ ∃ q, t.part i = some q ∧ q.probe = some { moved := s.movement p, at_ := s.wcc, asked := true
                                                                                done := s.probeDone i p
                                                                                blocked := (s.blockedIn p).map fun b => (b.1, b.2.1) }) ∧
  (∀ (s : State) i p r, s.clocked = true → s.part i = some p → p.probe = some r → r.at_ + 65536 ≤ s.wcc →
    Makes (.probeWave i) s fun t => (∃ q, t.part i = some q ∧ q.probe = none) ∧ (r.asked = false → t.verdict = s.verdict) ∧
      (s.movement p ≠ r.moved → t.events = s.events ∧ (r.asked = true → t.verdict = 1)) ∧
      (s.movement p = r.moved → r.done = true → s.probeDone i p = true → t.events.length = s.events.length + 1 ∧ (r.asked = true → t.verdict = 3)) ∧
      (s.movement p = r.moved → (r.done = false ∨ s.probeDone i p = false) → s.qdRecords p r.blocked = [] →
        t.events = s.events ∧ (r.asked = true → t.verdict = 2)) ∧
      (s.movement p = r.moved → (r.done = false ∨ s.probeDone i p = false) → s.qdRecords p r.blocked ≠ [] →
        t.qdCount = BitVec.ofNat 7 (s.qdRecords p r.blocked).length ∧ t.events.length = s.events.length + 1 ∧ (r.asked = true → t.verdict = 4))) ∧
  (∀ s : State, s.clocked = true → exec .verdictRead s = .next { s with answers := s.answers ++ [.verdict s.verdict], verdict := 0 })

/-! ## Memory (02, 07, 08 R246, R247) -/

/-- 02 R46 to R60, 07 R215 to R217, Table 7-3, 14 R385, R386: a request is injected once its predecessor has been accepted, enters its slice's queue,
or spills, and returns as there is room; its acceptance comes back; at the head of its line it is performed at a timestamp after the line's, refused
for a page the partition does not own, faulted for a line in error, or filled; a core's own copy serves it without the slice; its completion raises its
core's clock, fills its register and frees what waits for it; what follows a faulted request is discarded, the last of a chain first. -/
def Obligations.MemoryRequests : Prop :=
  (∀ (s : State) i r k m, s.clocked = true → s.req i = some r → r.stage = .fresh → r.isTile = false → (∀ p, s.predOf r = some p → p.accepted = true) →
    s.injects r = true → s.cacheHit r = none → s.telling (.prepared i) = false → k = s.sliceOf r.part r.pa → m = memMsg (.request i) r.core k false 0 →
    s.coming (.input r.core 0) m = none → 1 ≤ s.space (.input r.core 0) m → Makes (.memoryRequestArrival i) s fun t =>
      (∃ q, t.req i = some q ∧ q.stage = .sent ∧ q.at_ = k ∧ q.lts = max r.lts (s.lts r.agent)) ∧
      t.msgs = s.msgs ++ [{ place := .input r.core 0, msg := m }]) ∧
  (∀ (s : State) i r p, s.clocked = true → s.req i = some r → r.stage = .sent →
    Arrives s (.request i) (memMsg (.request i) r.core r.at_ false 0) (sliceEdge r.at_ r.core) p →
    (s.queueLoad r.at_ < 64 → s.atSlice r.at_ .spilled = [] → Makes (.memoryRequestArrival i) s fun t =>
      (∃ q, t.req i = some q ∧ q.stage = .queued ∧ q.arr = s.nextReq) ∧ (r.isTile = false → t.telling (.accepted i) = true)) ∧
    ((64 ≤ s.queueLoad r.at_ ∨ s.atSlice r.at_ .spilled ≠ []) → (s.atSlice r.at_ .spilled).length < 4096 →
      Makes (.memoryRequestArrival i) s fun t => (∃ q, t.req i = some q ∧ q.stage = .spilled ∧ q.arr = s.nextReq) ∧
        (r.isTile = false → t.telling (.accepted i) = true)) ∧
    (4096 ≤ (s.atSlice r.at_ .spilled).length → exec (.memoryRequestArrival i) s = .next s)) ∧
  (∀ (s : State) (k : Fin 96) r, s.clocked = true → s.queueLoad k.val < 64 →
    bestOf (fun a b => decide (a.arr < b.arr)) (s.atSlice k.val .spilled) = some r →
    exec (.spillReturn k) s = .next (s.onReq r.id fun q => { q with stage := .queued })) ∧
  (∀ (s : State) i r n k p, s.clocked = true → s.req i = some r → Arrives s (.accepted i) (memMsg (.accepted i) n k true 0) n p →
    Makes (.acceptanceToken i) s fun t => ∃ q, t.req i = some q ∧ q.accepted = true ∧ q.stage = r.stage) ∧
  (∀ (s : State) i r, s.clocked = true → s.req i = some r → AtSlice s r →
    (s.refusesPa r.part r.pa = false → s.fillOf r = none → (∃ l, (s.slice (s.sliceOf r.part r.pa)).find (r.pa / 128) = some l) →
      (s.badLine (r.pa / 128) = false → exec (.requestServe i) s = .next (s.perform r)) ∧
      (∀ n, s.badLine (r.pa / 128) = true → r.isEvent = true → r.agent = .core n → Makes (.requestServe i) s fun t => t.pmem = s.pmem ∧
        (∃ q, t.req i = some q ∧ q.stage = .faulted) ∧ s.deferred t n trapEccUncorr (BitVec.ofNat 64 r.va))) ∧
    (s.refusesPa r.part r.pa = false → s.fillOf r = none → (s.slice (s.sliceOf r.part r.pa)).find (r.pa / 128) = none →
      ((s.slice (s.sliceOf r.part r.pa)).touched (r.pa / 128) = false → r.isEvent = true → Makes (.requestServe i) s fun t => t.pmem = s.pmem ∧
        (t.slice (s.sliceOf r.part r.pa)).touched (r.pa / 128) = true ∧ ∃ q, t.req i = some q ∧ q.stage = .filling false) ∧
      (∀ w, ((s.slice (s.sliceOf r.part r.pa)).touched (r.pa / 128) = true ∨ r.isEvent = false) →
        (s.slice (s.sliceOf r.part r.pa)).victim (setOf (r.pa / 128)) = some w → Makes (.requestServe i) s fun t =>
          (r.pa / 128, w) ∈ (t.slice (s.sliceOf r.part r.pa)).fills ∧ ∃ q, t.req i = some q ∧ q.stage = .filling true)) ∧
    (∀ n, s.refusesPa r.part r.pa = true → r.isEvent = true → r.agent = .core n → Makes (.requestServe i) s fun t => t.pmem = s.pmem ∧
      (∃ q, t.req i = some q ∧ q.stage = .faulted) ∧ s.deferred t n trapProtFault (BitVec.ofNat 64 r.va))) ∧
  (∀ (s : State) i r l, s.clocked = true → s.req i = some r → r.stage = .fresh → r.isTile = false → s.injects r = true → s.cacheHit r = some l →
    s.predOf r = none → Makes (.requestServe i) s fun t => t.pmem = s.pmem ∧ t.slices = s.slices ∧ ∃ q, t.req i = some q ∧ q.stage = .served ∧
      q.ts = max (s.lts r.agent) l.wts ∧ q.wts = l.wts ∧ q.rts = l.rts ∧ q.data = cellsAt (l.line * 128) l.bytes) ∧
  (∀ (s : State) i r, s.req i = some r →
    let k := s.sliceOf r.part r.pa
    let st := (s.slice k).stamps (r.pa / 128)
    let m := s.view [r.pa / 128]
    (∀ reg ty lease, r.kind = .load reg ty lease → (s.perform r).pmem = s.pmem ∧ (∃ q, (s.perform r).req i = some q ∧ q.stage = .served ∧
      q.ts = max r.lts st.1 ∧ q.data = lineCells m (r.pa / 128)) ∧ ∀ l, (s.slice k).find (r.pa / 128) = some l →
        ((s.perform r).slice k).stamps (r.pa / 128) = (st.1, max st.2 (if lease then max r.lts st.1 + 64 else max r.lts st.1))) ∧
    (∀ n v, r.kind = .store n v → (s.perform r).pmem = (s.view (linesOf ((cellsAt r.pa (leBytes n v.toNat)).map (·.1)))).put (cellsAt r.pa (leBytes n v.toNat)) ∧
      (∃ q, (s.perform r).req i = some q ∧ q.stage = .served ∧ q.ts = max r.lts (st.2 + 1)) ∧ ∀ l, (s.slice k).find (r.pa / 128) = some l →
        ((s.perform r).slice k).stamps (r.pa / 128) = (max r.lts (st.2 + 1), max r.lts (st.2 + 1))) ∧
    (∀ op reg ty b c cells, r.kind = .amo op reg ty b c →
      cells = cellsAt r.pa (leBytes (tySize ty) (amoValue op ty (m.nat r.pa r.size) b.toNat c.toNat)) →
      (s.perform r).pmem = (s.view (linesOf (cells.map (·.1)))).put cells ∧
      ∃ q, (s.perform r).req i = some q ∧ q.stage = .served ∧ q.ts = max r.lts (st.2 + 1) ∧
        q.data = cellsAt r.pa (leBytes (tySize ty) (m.nat r.pa r.size)))) ∧
  (∀ (s : State) l, (∀ x ∈ l, s.inClear x = true) → s.view l = s.pmem) ∧
  (∀ (s : State) i r, s.clocked = true → s.req i = some r →
    (r.stage = .filling false → s.badLine (r.pa / 128) = false → exec (.lineFill i false) s = .next (s.perform r)) ∧
    (∀ w, r.stage = .filling true → assoc (s.slice (s.sliceOf r.part r.pa)).fills (r.pa / 128) = some w → s.badLine (r.pa / 128) = false →
      exec (.lineFill i false) s = .next ((s.install (s.sliceOf r.part r.pa) (r.pa / 128) w).perform r)) ∧
    (∀ n u, (∃ a, r.stage = .filling a) → (u = true ∨ s.badLine (r.pa / 128) = true) → r.isEvent = true → r.agent = .core n →
      Makes (.lineFill i u) s fun t => t.pmem = s.pmem ∧ (∃ q, t.req i = some q ∧ q.stage = .faulted) ∧
        s.deferred t n trapEccUncorr (BitVec.ofNat 64 r.va))) ∧
  (∀ (s : State) i r n c, s.clocked = true → s.req i = some r → r.stage = .served → r.agent = .core n → s.core n = some c → s.tileOpen r = false →
    (s.telling (.completed i) = false ∨ ∃ k x p, Arrives s (.completed i) (memMsg (.completed i) n k true x) n p) →
    Makes (.completionToken i) s fun t => t.pmem = s.pmem ∧ (∀ q ∈ t.reqs, q.id ≠ i) ∧
      (r.isEvent = true → ∀ q ∈ t.reqs, q.agent = r.agent → q.pred ≠ some r.seq) ∧
      ∃ d, t.core n = some d ∧ d.lts = max c.lts r.ts ∧ ∀ reg ty lease, r.kind = .load reg ty lease →
        d.fills = giveFill (.s reg) (.s reg (tyWord ty (leNat ((List.range (tySize ty)).map fun j => (cellAt r.data (r.pa + j)).getD 0)))) c.fills) ∧
  (∀ (s : State) i r n c, s.clocked = true → s.req i = some r → r.agent = .core n → s.core n = some c → c.faulted = true → s.toCancel r = true →
    (∀ q ∈ s.reqs, q.agent = r.agent → q.pred = some r.seq → s.toCancel q = false) → Makes (.cancellation i) s fun t =>
      (r.old = true → ∃ q, t.req i = some q ∧ q.stage = .cancelled ∧ q.accepted = false) ∧ (r.old = false → ∀ q ∈ t.reqs, q.id ≠ i))

/-- 06 R205, 07 R211 to R213, R220, Table 8-4, 08 R246, R247, 14 R389, R390: a tile's bytes are translated, or it asks for a walk, or faults; its
prepares reserve its lines slice by slice, each answer coming back; at its commit memory is read or written whole, and its lines are released; a walk
answers from the agent's cache or the tables, its page reaches the core's cache and its handle, or the fault does; the pager takes a parked walk, maps
a zero-filled page with both permissions, or refuses; the steward fills the frames it holds; a shootdown drops what maps its range and completes when
what was issued before has. -/
def Obligations.TilesAndWalks : Prop :=
  (∀ (s : State) i r n c x, s.clocked = true → s.req i = some r → r.isTile = true → r.stage = .fresh → r.agent = .core n → s.core n = some c →
    s.predOf r = none → c.works = true → c.tileJob i = some x → c.badRead x.1.rsb = none →
    (∀ l, s.locateTile n c r x.2.1 x.2.2.1 x.2.2.2 = .at_ l → s.tileHit c { r with spots := l } = none → Makes (.tilePrepare i) s fun t =>
      t.pmem = s.pmem ∧ ∃ q, t.req i = some q ∧ q.stage = .prepared 0 ∧ q.spots = l) ∧
    (∀ l ts data, s.locateTile n c r x.2.1 x.2.2.1 x.2.2.2 = .at_ l → s.tileHit c { r with spots := l } = some (ts, data) →
      Makes (.tilePrepare i) s fun t => t.pmem = s.pmem ∧ ∃ q, t.req i = some q ∧ q.stage = .served ∧ q.ts = ts ∧ q.data = data) ∧
    (∀ va, s.locateTile n c r x.2.1 x.2.2.1 x.2.2.2 = .missing va → (∀ w ∈ s.walks, w.req ≠ some i) → Makes (.tilePrepare i) s fun t =>
      t.walks = s.walks ++ [{ id := s.nextReq, core := n, ns := r.ns, va, handle := none, req := some i, rim := none, stage := .asked, old := false }]) ∧
    (∀ code va, s.locateTile n c r x.2.1 x.2.2.1 x.2.2.2 = .fault code va → Makes (.tilePrepare i) s fun t => t.pmem = s.pmem ∧
      (∃ q, t.req i = some q ∧ q.stage = .faulted) ∧ s.deferred t n code (BitVec.ofNat 64 va))) ∧
  (∀ (s : State) i r u, s.clocked = true → s.req i = some r → r.isTile = true → r.stage = .queued → s.predOf r = none → s.behind r = false →
    s.filling r.part (s.reqLines r) = false → (if r.kind = .tileStore then s.writeFree r.part (s.reqLines r) else s.readFree r.part (s.reqLines r)) = true →
    s.bringAll r.part (s.reqLines r) = some u → Makes (.tilePrepare i) s fun t => t.pmem = u.pmem ∧
      (∃ q, t.req i = some q ∧ q.stage = .prepared (r.at_ + 1)) ∧ t.telling (.prepared i) = true ∧
      ∀ y ∈ s.reqLines r, (y, if r.kind = .tileStore then Resv.write i else Resv.read i) ∈ (t.slice r.at_).resv) ∧
  (∀ (s : State) part ls, (∀ y ∈ ls, ((s.slice (s.sliceOfLine part y)).find y).isSome = true) → ∃ u, s.bringAll part ls = some u ∧ u.pmem = s.pmem) ∧
  (∀ (s : State) i r k a p, s.clocked = true → s.req i = some r → r.stage = .prepared k →
    Arrives s (.prepared i) (memMsg (.prepared i) r.core a true 0) r.core p → Makes (.tilePrepare i) s fun t =>
      t.msgs = swapMsg { place := .input r.core p, msg := memMsg (.prepared i) r.core a true 0 } none s.msgs ∧ t.reqs = s.reqs) ∧
  (∀ (s : State) i r n c k, s.clocked = true → s.req i = some r → r.stage = .prepared k → r.agent = .core n → s.core n = some c →
    s.nextSlice r k = none → r.spots ≠ [] → s.telling (.prepared i) = false →
    (s.tileBad r = none → Makes (.tileCommit i) s fun t =>
      (r.kind = .tileLoad → t.pmem = s.pmem ∧ ∃ q, t.req i = some q ∧ q.stage = .served ∧
        q.data = r.spots.map fun x => (x.1, (s.view (spotLines r.spots)).get x.2.2)) ∧
      (r.kind = .tileStore → t.pmem = (s.view (spotLines r.spots)).put (r.spots.map fun x => (x.2.2, c.spad.get x.1)) ∧
        ∃ q, t.req i = some q ∧ q.stage = .served) ∧
      ∀ x ∈ t.slices, ∀ e ∈ x.2.resv, e.2 ≠ .read i ∧ e.2 ≠ .write i) ∧
    (∀ va, r.isTile = true → s.tileBad r = some va → Makes (.tileCommit i) s fun t => t.pmem = s.pmem ∧ (∃ q, t.req i = some q ∧ q.stage = .faulted) ∧
      s.deferred t n trapEccUncorr (BitVec.ofNat 64 va))) ∧
  (∀ (s : State) i w, s.clocked = true → s.walkOf i = some w → w.stage = .asked →
    (∀ h, s.agentPage (fieldOf w.core) w.ns w.va = some h → exec (.walkRequest i) s = .next (s.onWalk i fun x => { x with stage := .found h })) ∧
    (s.agentPage (fieldOf w.core) w.ns w.va = none → (∀ x ∈ s.roots, x.1 ≠ w.ns) →
      exec (.walkRequest i) s = .next (s.onWalk i fun x => { x with stage := .refused })) ∧
    (∀ root u, s.agentPage (fieldOf w.core) w.ns w.va = none → (s.roots.find? fun x => x.1 = w.ns) = some (w.ns, root) →
      s.readAll (.walker (fieldOf w.core)) (s.partOfNs w.ns) (walkFrom s.pte w.va 3 0 root).2 = some u → Makes (.walkRequest i) s fun t =>
        t.pmem = u.pmem ∧ ∃ x, t.walkOf i = some x ∧ x.stage = (walkFrom s.pte w.va 3 0 root).1)) ∧
  (∀ (s : State) i w c d, s.clocked = true → s.walkOf i = some w → w.rim = none → w.req = none → w.handle = some d → s.core w.core = some c →
    (∀ h, w.stage = .found h → Makes (.walkComplete i) s fun t => (∀ x ∈ t.walks, x.id ≠ i) ∧ ∃ e, t.core w.core = some e ∧
      e.tlb = addTlb c.tlb { ns := w.ns, page := h } ∧ e.fills = giveFill (.h d) (.h d h) c.fills) ∧
    (w.stage = .refused → Makes (.walkComplete i) s fun t => (∀ x ∈ t.walks, x.id ≠ i) ∧ ∃ e, t.core w.core = some e ∧
      e.dfaults = c.dfaults ++ [walkFault w.va])) ∧
  (∀ (s : State) i w a level, s.clocked = true → s.walkOf i = some w → w.stage = .parked a level → s.pagerHolds < 256 →
    exec (.pagerFaultToken i) s = .next (s.onWalk i fun x => { x with
      stage := if pteSw (s.pte a) / 64 = 0 then .pager a level else if pteSw (s.pte a) / 64 = 1 then .steward a level else .refused })) ∧
  (∀ (s : State) i w a level p base q u, s.clocked = true → s.walkOf i = some w → w.stage = .pager a level → s.part (s.partOfNs w.ns) = some p →
    (level = 2 ∨ bits (pteSw (s.pte a)) 5 1 = 1) → p.takeFrame (levelSize level) = some (base, q) →
    ((s.onPart (s.partOfNs w.ns) fun _ => q).zeroFill (s.partOfNs w.ns) base (levelSize level).bytes).storeEntry (s.partOfNs w.ns) a
      (pageEntry base true true) = some u → Makes (.pagerResolve i) s fun t =>
      t.pmem = u.pmem ∧ t.pmem.nat a 8 = pageEntry base true true % 2 ^ 64 ∧ t.part (s.partOfNs w.ns) = some q) ∧
  (∀ (s : State) part base n x, base ≤ x → x < base + n → (s.zeroFill part base n).pmem.get x = 0) ∧
  (∀ (s : State) i w a level, s.clocked = true → s.walkOf i = some w → w.stage = .pager a level →
    s.freshPage (s.partOfNs w.ns) w.va 3 level a = some none →
    exec (.pagerResolve i) s = .next (s.onWalk i fun x => { x with stage := .refused })) ∧
  (∀ (s : State) i w a level, s.clocked = true → s.walkOf i = some w → w.stage = .steward a level →
    exec (.stewardFrameFill i none) s = .next (s.onWalk i fun x => { x with stage := .refused }) ∧
    ∀ (f : FrameFill) base v u, base = f.base / (levelSize level).bytes * (levelSize level).bytes →
      s.writeEvent .steward (s.partOfNs w.ns) (f.bytes.map fun x => (base + x.1 % (levelSize level).bytes, x.2)) = some v →
      v.1.storeEntry (s.partOfNs w.ns) a (pageEntry base f.rd f.wr) = some u → Makes (.stewardFrameFill i (some f)) s fun t =>
        t.pmem = u.pmem ∧ t.pmem.nat a 8 = pageEntry base f.rd f.wr % 2 ^ 64 ∧ ∀ x, t.walkOf i = some x → x.stage = .asked) ∧
  (∀ (s : State) ns lo hi, s.clocked = true → s.shoot = none → Makes (.shootdown ns lo hi) s fun t =>
    (∃ x, t.shoot = some x ∧ x.ns = ns ∧ x.lo = lo ∧ x.hi = hi) ∧
    (∀ e ∈ t.agentTlb, e.2.ns = ns → e.2.page.inRange lo hi = false) ∧
    (∀ x ∈ t.cores, ∀ e ∈ x.2.tlb, e.ns = ns → e.page.inRange lo hi = false) ∧ t.pmem = s.pmem) ∧
  (∀ (s : State) x, s.clocked = true → s.shoot = some x → s.gatedLeft x.ns x.lo x.hi = false → (∀ r ∈ s.reqs, r.id ∈ x.waits → r.isDone = true) →
    exec .shootdownComplete s = .next { s with shoot := none })

/-- 02 R61 to R65, 03 R92, R93, 07 R228: a request at a rim agent misses, or becomes its job; a segment is verified against its manifest, or its
tensor is bad, which only a mismatch makes it; a tile's bytes, read, are the reply; a backed publication is written as one store and completes at its
core. -/
def Obligations.RimAgents : Prop :=
  (∀ (s : State) a f rest name tag to_, s.clocked = true →
    FirstMsg s (fun y => y.place = .agent a ∧ (∃ m g r o, y.msg.body = .request m g r o ∧ s.backing a m = false)) f rest →
    f.msg.body = .request name tag to_ none →
    (∀ code, (s.dirOf a name = none ∧ code = trapLateMiss ∨ (∃ e, s.dirOf a name = some e ∧ e.bad = true) ∧ code = trapLoadIntegrity) →
      Makes (.agentRequest a) s fun t => t.msgs = rest ++ [{
        place := .source ((agentRouters a).headD 0) 5
        msg := { cls := 1, cpl := f.msg.cpl, source := (agentRouters a).headD 0, body := .miss name tag code to_ } }]) ∧
    (∀ e, s.dirOf a name = some e → e.bad = false → Makes (.agentRequest a) s fun t => t.msgs = rest ∧
      t.jobs = s.jobs ++ [(a, .fetch name tag to_ f.msg.cpl)])) ∧
  (∀ (s : State) a name e g, s.clocked = true → s.unchecked a = some (name, e, g) →
    (∀ l u, s.rimAccess a e.ns false (e.segmentVas g) = .ready l → s.spotsBad l = false →
      s.readEvent (.rim a) (s.partOfNs e.ns) (l.map fun x => x.2.2) = some u →
      (e.manifest[g]? = some (Sys2Proof.Config.sha384 (s.segmentData l)) → Makes (.segmentVerify a) s fun t => t.pmem = u.1.pmem ∧
        t.dirOf a name = some { e with verified := e.verified ++ [g] }) ∧
      (e.manifest[g]? ≠ some (Sys2Proof.Config.sha384 (s.segmentData l)) → Makes (.segmentVerify a) s fun t => t.pmem = u.1.pmem ∧
        t.dirOf a name = some { e with bad := true } ∧ t.mgmt = s.mgmt ++ [.segment a])) ∧
    (∀ l, s.rimAccess a e.ns false (e.segmentVas g) = .ready l → s.spotsBad l = true → exec (.segmentVerify a) s = .next s) ∧
    (∀ code t, s.rimAccess a e.ns false (e.segmentVas g) = .fails code t → exec (.segmentVerify a) s = .next s)) ∧
  (∀ (s : State) a pre post name tag to_ cpl, s.clocked = true → s.jobs = pre ++ (a, .fetch name tag to_ cpl) :: post → (∀ j ∈ pre, j.1 ≠ a) →
    (∀ e l u, s.dirOf a name = some e → e.bad = false → e.unverified (indexBits name) = none →
      s.rimAccess a e.ns false (e.tileVas (indexBits name) (e.tokm1 + 1)) = .ready l →
      (s.spotsBad l = false → s.readEvent (.rim a) (s.partOfNs e.ns) (l.map fun x => x.2.2) = some u →
        Makes (.agentFetchDone a false) s fun t => t.pmem = u.1.pmem ∧ t.jobs = pre ++ post ∧ t.msgs = s.msgs ++ [{
          place := .source ((agentRouters a).headD 0) 5
          msg := { cls := 0, cpl, source := (agentRouters a).headD 0
                   body := .reply (e.tile name tag (l.map fun y => (y.1, (s.view (spotLines l)).get y.2.2))) to_ } }]) ∧
      (∀ b, b = true ∨ s.spotsBad l = true → Makes (.agentFetchDone a b) s fun t => t.jobs = pre ++ post ∧ t.msgs = s.msgs ++ [{
        place := .source ((agentRouters a).headD 0) 5
        msg := { cls := 1, cpl, source := (agentRouters a).headD 0, body := .miss name tag trapEccUncorr to_ } }])) ∧
    (∀ b code, (s.dirOf a name = none ∧ code = trapLateMiss ∨ (∃ e, s.dirOf a name = some e ∧ e.bad = true) ∧ code = trapLoadIntegrity) →
      Makes (.agentFetchDone a b) s fun t => t.jobs = pre ++ post ∧ t.msgs = s.msgs ++ [{
        place := .source ((agentRouters a).headD 0) 5
        msg := { cls := 1, cpl, source := (agentRouters a).headD 0, body := .miss name tag code to_ } }])) ∧
  (∀ (s : State) a tl source e l u, s.clocked = true → s.backJob a = some (tl, source) → s.dirOf a tl.name = some e →
    s.rimAccess a e.ns true (e.tileVas (indexBits tl.name) (min tl.tokens (e.tokm1 + 1))) = .ready l →
    s.writeEvent (.rim a) (s.partOfNs e.ns) (l.map fun x => (x.2.2, (cellAt (e.backBytes tl) x.1).getD 0)) = some u → Makes (.backWrite a) s fun t =>
      t.pmem = u.1.pmem ∧ ((l.map fun x => x.2.2).Nodup → ∀ x ∈ l, t.pmem.get x.2.2 = (cellAt (e.backBytes tl) x.1).getD 0) ∧
      t.jobs = s.jobs.erase (a, .back tl source) ∧
      (source < Sys2Proof.Config.cores → ∃ ts, t.backDone = s.backDone ++ [(source, s.backId source, ts)])) ∧
  (∀ (s : State) n c id ts rest, s.clocked = true → takeBackDone n s.backDone = some (id, ts, rest) → s.core n = some c →
    Makes (.backCompletion n) s fun t => t.backDone = rest ∧ ∃ d, t.core n = some d ∧ d.lts = max c.lts ts)

/-! ## Steps of a core beside its slots (06, 08, 10, 13) -/

/-- 01 R39, 05 R157, 06 R178 to R203, R435, 08 R243, R251, R257, 10 R281 to R294, 13 R360, R361: a row of code arrives, or the bundle lies outside its
region, or a word of it is in error; cycles owed pass, or results land after `retire`; a value that has returned fills its register; the head of a
queue starts once the scoreboard lets it, and ends with its result, or reads a word in error; commands and landings likewise; an empty bundle passes,
one at fault traps; a section that overruns traps; a deferred fault is taken between groups; a request freezes the core. -/
def Obligations.CoreEvents : Prop :=
  (∀ (s : State) n c f, s.clocked = true → s.core n = some c → c.firing = some f → c.issues = true → c.issue.todo = [] →
    (∀ r, c.fetchState f = .row r →
      exec (.instructionFetch n) s = .next (s.setCore n { c with fetched := fetchRow c.fetched c.issue.pc r })) ∧
    (c.fetchState f = .outside → Makes (.instructionFetch n) s fun t =>
      t.core n = some (c.takeTrap { trapOf trapCodeBounds 0 with addr := BitVec.ofNat 64 c.issue.pc, space := 1, access := 5 } c.issue.pc).1) ∧
    (∀ a, c.fetchState f = .bad a → Makes (.instructionFetch n) s fun t =>
      t.core n = some (c.takeTrap { trapOf trapEccUncorr 0 with addr := BitVec.ofNat 64 a, space := 1, access := 5 } c.issue.pc).1)) ∧
  (∀ (s : State) n c, s.clocked = true → s.core n = some c → c.issue.todo = [] →
    (0 < c.issue.owed → Makes (.fixedResultLand n) s fun t => ∃ d, t.core n = some d ∧ d.issue = { c.issue with owed := c.issue.owed - 1 } ∧
      d.flight = c.advance.flight ∧ d.regs = c.advance.regs) ∧
    (c.issue.owed = 0 → c.issue.retiring = true → c.flight ≠ [] → exec (.fixedResultLand n) s = .next (s.setCore n c.advance))) ∧
  (∀ (s : State) n c r w old fs, s.clocked = true → s.core n = some c → takeFill r c.fills = some (w, old, fs) → Makes (.registerFill n r) s fun t =>
    ∃ d, t.core n = some d ∧ d.regs.full r = true ∧ d.fills = fs ∧ c.landFill r = some d) ∧
  (∀ (s : State) n c q p v f g d, s.clocked = true → s.core n = some c → takeFill (.s q) c.fills = none → c.subqHead (.s q) = some (p, v) →
    c.firing = some f → s.gate f.gate = some g → ((c.portDone none).give (.s q) (.s q (g.answer p v))).landFill (.s q) = some d →
    exec (.registerFill n (.s q)) s = .next (s.setCore n d)) ∧
  (∀ (s : State) n q c f j t, s.clocked = true → s.core n = some c → c.firing = some f → c.headJob q false = some j → c.works = true →
    c.rsbClear j.rsb = true → (s.setCore n (c.setHead q { j with started := true })).startJob n (c.setHead q { j with started := true }) f j.op = some t →
    exec (.queueOpStart n q) s = .next t ∧ ((∀ t d, j.op ≠ .csend t d) → (∀ k x y x2 y2 h i, j.op ≠ .scan k x y x2 y2 h i) → j.op ≠ .cbar →
      t = s.setCore n (c.setHead q { j with started := true }))) ∧
  (∀ (s : State) n q c f j, s.clocked = true → s.core n = some c → c.firing = some f → c.headJob q true = some j → c.works = true →
    s.jobReady c f j = true →
    (c.jobBad j = none →
      (let d := ((c.runJob f j).mended (j.op.written (c.writeSpan j.rsb)) j.op.accWrites).freeEntry j.rsb
       Makes (.engineOpComplete n q false) s fun t => t.core n = some (d.setQueue q (d.queue q).tail)) ∧
      exec (.engineOpComplete n q true) s = .next (s.setCore n (c.faultJob q j (c.readStart j)))) ∧
    (∀ a u, c.jobBad j = some a → exec (.engineOpComplete n q u) s = .next (s.setCore n (c.faultJob q j a)))) ∧
  (∀ (s : State) n c, s.clocked = true → s.core n = some c →
    s.served ((quadCores n).drop (s.round n).1 ++ (quadCores n).take ((s.round n).1 + 1)) (s.round n).2 = some n →
    Makes (.streamerStart n) s fun t => t.core n = some { c with copies := startFirst c.copies }) ∧
  (∀ (s : State) n c r j, s.clocked = true → s.core n = some c → c.copies.find? (fun j => j.started && j.rsb == some r) = some j → c.works = true →
    c.badRead j.rsb = none →
    (∀ d va h g l, j.op = .tld d va h g → s.tileData j = some l → Makes (.streamerComplete n r) s fun t =>
      t.core n = some (((c.putSpad l).freeEntry j.rsb).endCopy j)) ∧
    ((∀ d va h g, j.op ≠ .tld d va h g) → (∀ d va h g, j.op ≠ .tst d va h g) → Makes (.streamerComplete n r) s fun t =>
      t.core n = some ((((c.runCopy j.op).mended (j.op.written (c.writeSpan j.rsb)) fun _ _ => false).freeEntry j.rsb).endCopy j))) ∧
  (∀ (s : State) n c d f g o, s.clocked = true → s.core n = some c → c.works = true → c.startAmong [] c.firings = some (d, f, g, o) →
    exec (.landingStart n) s = .next ((s.setCore n (d.mapFirings fun x => if x = f then g else x)).applyAll n o)) ∧
  (∀ (s : State) n c f l ls, s.clocked = true → s.core n = some c → c.works = true → c.firing = some f → f.landings = l :: ls → l.started = true →
    l.done = false → Makes (.landingComplete n) s fun t => ∃ d, t.core n = some d ∧ d.spad = (c.putSpad l.bytes).spad ∧
      d.firing = some { f with landings := { l with done := true } :: ls }) ∧
  (∀ (s : State) n c b, s.clocked = true → s.core n = some c → c.issues = true → c.issue.bundle = some b → b.slots = [] →
    Makes (.emptyBundle n) s fun t => ∃ d, t.core n = some d ∧ d.issue = (c.boundary b false).1.issue ∧ d.regs = (c.boundary b false).1.regs) ∧
  (∀ (s : State) n c k, s.clocked = true → s.core n = some c → c.issues = true → c.issue.fault = some k → Makes (.unassignedOpcode n k) s fun t =>
    t.core n = some (c.takeTrap (trapOf trapIllegalOp k) c.issue.pc).1) ∧
  (∀ (s : State) n c m, s.clocked = true → s.core n = some c → c.nps = some m → 16384 ≤ m → c.running = true → c.works = true → c.between = true →
    Makes (.npsOverrun n) s fun t => t.core n = some (c.takeTrap { trapOf trapNpsOverrun 0 with kind := 3 } c.issue.pc).1) ∧
  (∀ (s : State) n c x xs, s.clocked = true → s.core n = some c → c.dfaults = x :: xs → c.running = true → c.works = true → c.between = true →
    Makes (.deferredFault n) s fun t => t.core n = some (({ c with dfaults := xs } : Core).takeTrap x.info c.issue.pc).1) ∧
  (∀ (s : State) n c, s.clocked = true → s.core n = some c → c.stopping = true → c.frozen = false → c.between = true →
    exec (.freezeRequest n) s = .next (s.setCore n c.freeze) ∧ c.freeze.frozen = true ∧ c.freeze.freezeReq = false)

/-! ## Replies, switches, the ingress ports, tenants (04, 08 R242 to R260) -/

/-- 04 R130 to R134, 05 R174, 08 R243 to R256: a reply lets a faulted firing run from its mark, its waiting requests anew, or walk its handle again
first, or end; one for a frozen core is kept; a switch is armed in time for a context of the partition that can run, cancelled, committed 20,000
cycles before T, and at T saves the running context, whose image holds it whole, and restores the next; one that lasts is an event. -/
def Obligations.RepliesAndSwitch : Prop :=
  (∀ (s : State) n c f i, s.clocked = true → s.core n = some c → c.firing = some f → f.state = .faulted → c.frozen = false → s.cancelled n = true →
    (i = .resume n ∨ i = .retranslate n ∧ (∃ pre k post, s.tokens = pre ++ k :: post ∧ k.core = n ∧ k.pager = true ∧ k.ns = c.ns ∧
      ∀ x ∈ pre, x.core = n → x.pager = false)) → Makes i s fun t =>
      (∀ r ∈ t.reqs, r.agent = .core n → r.stage ≠ .faulted ∧ r.stage ≠ .cancelled) ∧ (∀ k ∈ t.tokens, k.core = n → k.ns ≠ f.ns) ∧
      ∃ d ls, t.core n = some d ∧
        d.firing = some { f with state := if f.trig then .triggered else .running, failed := none, landings := ls } ∧ d.regs.s = c.regs.s ∧
        (∀ h, i = .retranslate n → c.lostHandle = some h → d.regs.full (.h h) = false)) ∧
  (∀ (s : State) n c f, s.clocked = true → s.core n = some c → c.firing = some f → f.state = .faulted → c.frozen = false → s.cancelled n = true →
    Makes (.endFiring n) s fun t => (∀ r ∈ t.reqs, r.agent = .core n → r.stage ≠ .faulted ∧ r.stage ≠ .cancelled) ∧
      ∃ d, t.core n = some d ∧ d.issue.retiring = true ∧ d.fills = [] ∧ d.flight = [] ∧ d.dfaults = []) ∧
  (∀ (s : State) n c f, s.clocked = true → s.core n = some c → c.firing = some f → f.state = .faulted → c.frozen = true →
    exec (.resume n) s = .next ((s.setCore n { c with reply := some 0 }).dropToken n c.ns) ∧
    exec (.endFiring n) s = .next ((s.setCore n { c with reply := some 2 }).dropToken n c.ns)) ∧
  (∀ (s : State) p, s.clocked = true → s.preempt[p].open_ = true → Makes (.arm p) s fun t =>
    let k := s.ctxs[s.preempt[p].next]
    let at_ := s.preempt[p].at_.toNat
    t.ctxs = s.ctxs ∧ t.preempt[p].overdue = false ∧
    (at_ < s.wcc.toNat + 100000 → t.preempt[p].status = .late) ∧
    (s.wcc.toNat + 100000 ≤ at_ → k.part = p → (k.state = .parked ∨ k.state = .running) → t.preempt[p].status = .armed) ∧
    (s.wcc.toNat + 100000 ≤ at_ → (k.part ≠ p ∨ k.state ≠ .parked ∧ k.state ≠ .running) → t.preempt[p].status = .notReady)) ∧
  (∀ (s : State) p, s.clocked = true → s.preempt[p].status = .armed →
    exec (.cancel p) s = .next (s.onPreempt p fun x => { x with status := .idle, avoid := none }) ∧
    (s.preempt[p].at_.toNat ≤ s.wcc.toNat + 20000 →
      exec (.switchCommit p) s = .next (s.onPreempt p fun x => { x with status := .committed }))) ∧
  (∀ (s : State) p, s.clocked = true → s.preempt[p].status = .committed → s.preempt[p].at_.toNat ≤ s.wcc.toNat →
    s.ctxIn p .restoring = none →
    (∀ k, s.ctxIn p .running = some k → Makes (.switchStart p) s fun t => t.ctxs[k].state = .saving ∧ t.preempt[p].status = .switching ∧
      t.preempt[p].out = some k ∧ t.preempt[p].saved = false ∧ t.cores = s.cores.map fun x => if s.inPart p x.1 then (x.1, x.2.askFreeze) else x) ∧
    (s.ctxIn p .running = none → s.ctxIn p .saving ≠ none →
      exec (.switchStart p) s = .next (s.onPreempt p fun x => { x with status := .switching })) ∧
    (s.ctxIn p .running = none → s.ctxIn p .saving = none → Makes (.switchStart p) s fun t => t.preempt[p].status = .switching ∧
      t.preempt[p].saved = true ∧ (s.ctxs[s.preempt[p].next].state = .parked → s.ctxs[s.preempt[p].next].part = p → t.ctxs[s.preempt[p].next].state = .restoring))) ∧
  (∀ (s : State) i p k, s.clocked = true → s.part i = some p → s.preempt[i].out = some k → s.preempt[i].saved = false → s.ctxs[k].state = .saving →
    s.savable i p = true → Makes (.saveDone i) s fun t => t.ctxs[k].image = some (s.image i p) ∧ t.preempt[i].saved = true ∧ t.pmem = s.pmem ∧
      ((if s.preempt[i].status = .switching then k ≠ s.preempt[i].next else s.ctxs[k].wanted = false) → t.ctxs[k].state = .parked)) ∧
  (∀ (s : State) i p k g m, s.clocked = true → s.part i = some p → s.ctxIn i .restoring = some k → s.ctxs[k].cfg = some g → s.ctxs[k].image = some m →
    (∀ j : Fin 16, s.ctxs[k].itf = some j → s.tdis[j].bound = false ∨ s.tdis[j].consent = 2) → Makes (.restoreDone i) s fun t => t.ctxs[k].state = .running ∧ t.ctxs[k].image = none ∧
      (s.preempt[i].status = .switching → t.preempt[i].status = .done)) ∧
  (∀ (s : State) p, s.clocked = true → s.preempt[p].status = .switching → s.preempt[p].overdue = false →
    s.preempt[p].at_.toNat + 4000000 ≤ s.wcc.toNat →
    exec (.switchOverdue p) s = .next ((s.onPreempt p fun x => { x with overdue := true }).raisePart 0x48 p 0)) ∧
  (∀ (s : State) p l x, s.clocked = true → (s.preempt[p].status = .armed ∨ s.preempt[p].status = .committed) →
    s.ctxIn p .running = some s.preempt[p].next →
    exec (.rePlacement p l x) s = .next (s.onPreempt p fun q => { q with avoid := some (l, x) }))

/-- 04 R117 to R131, R431, 03 R103, 10 R301, R306 to R308, 16 R419: OPEN finds a resident context, or waits with LOADING set, or refuses, a malformed
record by its index, or loads a configuration on its way to its partition, and completes with its writes; ARG writes argument words; INJECT publishes a
tile; GO reopens its graphs' gates; each waits where its context is on its way; CLOSE ends the stream; an entry in error stops the port until ERR is
cleared; a tail beyond the ring and a write of a ring in use are errors; the window's registers take their writable fields, and other offsets nothing. -/
def Obligations.IngressAndLoader : Prop :=
  let opens (s : State) (n : Fin 16) (e : List Nat) : Prop :=
    s.clocked = true ∧ s.entryOf n 1 = some e ∧ s.ing[n].skipping = false ∧ s.ing[n].report = none
  let loads (s : State) (n : Fin 16) (e : List Nat) : Prop := opens s n e ∧ s.ctxs[(openArgs e).ctx].matches_ (openArgs e) = false ∧
    s.loaderWaits (openArgs e) = false ∧ s.replaces (openArgs e) = false
  let finds (s : State) (e : List Nat) (b : Binary) : Prop := ∃ x, (s.store.find? fun y => y.1 = (openArgs e).pfx) = some (x, b)
  let whole (e : List Nat) (b : Binary) : Prop := (Sys2Proof.Config.sha384 b.bytes).extractLsb' 256 128 = digestPrefix (openArgs e).pfx
  let refused (s : State) (n : Fin 16) (e : List Nat) (code index : Nat) : Prop := Makes (.openCfg n) s fun t =>
    t.ing[n].err = true ∧ t.ing[n].code = BitVec.ofNat 8 code ∧ t.ing[n].skipping = true ∧ t.ing[n].head = s.ing[n].head + 1 ∧ t.ctxs = s.ctxs ∧
      t.smem = s.smem.put (cellsAt (s.ing[n].entryAt 0) (report 2 code (boolBit (s.cxlLinks == 0)) 0 0 index 0))
  (∀ (s : State) n e g, opens s n e → s.ctxs[(openArgs e).ctx].matches_ (openArgs e) = true →
    s.ctxs[(openArgs e).ctx].resident = some g → Makes (.openCfg n) s fun t => t.ing[n].stream = some (openArgs e).ctx ∧
      t.ing[n].head = s.ing[n].head + 1 ∧ t.ctxs = s.ctxs ∧
      t.smem = s.smem.put (cellsAt (s.ing[n].entryAt 0) (report 1 0 (s.subst g) 0 g.hopWord 0xFFFFFFFF g.cores.length))) ∧
  (∀ (s : State) n e, opens s n e → s.ctxs[(openArgs e).ctx].matches_ (openArgs e) = false → s.loaderWaits (openArgs e) = true →
    s.ing[n].loading = false → exec (.openCfg n) s = .next (s.onIng n fun g => { g with loading := true })) ∧
  (∀ (s : State) n e, loads s n e → (∀ x ∈ s.store, x.1 ≠ (openArgs e).pfx) → refused s n e 1 0xFFFFFFFF) ∧
  (∀ (s : State) n e b, loads s n e → finds s e b → ¬ whole e b → refused s n e 2 0xFFFFFFFF) ∧
  (∀ (s : State) n e b i, loads s n e → finds s e b → whole e b → b.malformed = some i → refused s n e 0x0A i) ∧
  (∀ (s : State) n e b, loads s n e → finds s e b → whole e b → b.malformed = none → b.recordsBad = false → s.ctxs[(openArgs e).ctx].state ≠ .empty →
    refused s n e 9 0xFFFFFFFF) ∧
  (∀ (s : State) n e b p m frames u q, loads s n e → finds s e b → whole e b → b.malformed = none → b.recordsBad = false →
    s.ctxs[(openArgs e).ctx].state = .empty → s.tdiOk (openArgs e).tdi = true → s.unitLacks b (b.config Placement.none_) = false → b.sigBad = none →
    s.part (openArgs e).part = some p → b.needs ≤ s.coresOf p → s.slicesOf p ≠ 0 → s.placed p b (openArgs e).pfx (openArgs e).ns = some m →
    let r := s.keepPlacement (s.mapKey p (openArgs e).pfx (b.config Placement.none_)) m.2.1
    b.placedBad p m.2.1 m.1 = false → r.overCapacity p m.1 = false → m.1.backBad = false → m.1.rateReject = false → m.1.unseeded = false →
    r.imageAt p (openArgs e).tdi m.1 = some frames → r.buildTables (openArgs e).part p (openArgs e).ns m.1 frames = some (some u) →
    u.part (openArgs e).part = some q → Makes (.openCfg n) s fun t =>
      t.ctxs[(openArgs e).ctx].part = (openArgs e).part ∧ t.ctxs[(openArgs e).ctx].ns = (openArgs e).ns ∧ t.ctxs[(openArgs e).ctx].frames = frames ∧
      t.meas[7] = Sys2Proof.Config.measure u.meas[7] (Sys2Proof.Config.sha384 b.bytes) ∧
      (u.ctxIn (openArgs e).part .running = none → t.ctxs[(openArgs e).ctx].state = .loading ∧ t.ctxs[(openArgs e).ctx].next = some m.1 ∧
        t.ing[n].loading = true ∧ t.ing[n].report = some ((openArgs e).ctx, (openArgs e).part, r.reportOf m.1 0 (boolBit m.2.2))) ∧
      (u.ctxIn (openArgs e).part .running ≠ none → t.ctxs[(openArgs e).ctx].state = .parked ∧ t.ctxs[(openArgs e).ctx].cfg = some m.1 ∧
        t.ing[n].stream = some (openArgs e).ctx ∧ t.ing[n].head = s.ing[n].head + 1)) ∧
  (∀ (s : State) n r, s.clocked = true → s.ing[n].report = some r → (∀ p, s.part r.2.1 = some p → p.writes = []) → Makes (.openCfg n) s fun t =>
    t.ing[n].stream = some r.1 ∧ t.ing[n].head = s.ing[n].head + 1 ∧ t.ing[n].loading = false ∧ t.ing[n].report = none ∧ t.ctxs = s.ctxs ∧
      t.smem = s.smem.put (cellsAt (s.ing[n].entryAt 0) r.2.2)) ∧
  (∀ (s : State) n e k, s.clocked = true → s.entryOf n 2 = some e → s.ing[n].skipping = false → s.ing[n].stream = some k →
    s.ctxs[k].state ≠ .saving → Makes (.arg n) s fun t =>
    t.ctxs[k].args = setArgs s.ctxs[k].args (el e 14) (e.take 14) ∧ t.ing[n].head = s.ing[n].head + 1) ∧
  (∀ (s : State) n e k i, s.clocked = true → s.entryOf n 3 = some e → s.ing[n].skipping = false → s.ing[n].stream = some k →
    (i = .inject n ∧ s.ing[n].holding = false ∨ i = .heldEntryResume n ∧ s.ing[n].holding = true) → s.ctxs[k].state = .running →
    1 + injectEntries e ≤ s.ing[n].unread → (s.injected s.ing[n] e).back = false → Makes i s fun t =>
      t.ing[n].head = s.ing[n].head + BitVec.ofNat 32 (1 + injectEntries e) ∧ t.ing[n].holding = false ∧
      t.msgs = s.msgs ++ [{ place := .source (ingressRouter n) 5, msg :=
        { cls := 0, cpl := (s.router (ingressRouter n)).plane, source := ingressSource (ingressRouter n)
          body := .publication (s.injected s.ing[n] e) none } }]) ∧
  (∀ (s : State) n e k g i, s.clocked = true → s.entryOf n 4 = some e → s.ing[n].skipping = false → s.ing[n].stream = some k →
    (i = .go n ∧ s.ing[n].holding = false ∨ i = .heldEntryResume n ∧ s.ing[n].holding = true) → s.ctxs[k].state = .running → s.ctxs[k].cfg = some g →
    (∀ b ∈ g.bindings ((g.graphsOf (el e 0)).map (·.val)), s.ctxs[k].badArg b = none) → Makes i s fun t =>
      t.ing[n].head = s.ing[n].head + 1 ∧ t.ing[n].holding = false ∧ t.ctxs[k].state = .running ∧
      (∀ x ∈ g.graphsOf (el e 0), x ∈ t.ctxs[k].runnable) ∧
      ∀ x ∈ t.ctxs[k].gates, g.inGraphs ((g.graphsOf (el e 0)).map (·.val)) x.id.task = true →
        x.runnable = true ∧ x.nextOrd = 0 ∧ x.iters = [] ∧ x.store = [] ∧ x.copies = 0 ∧ x.closed = [] ∧ x.retired = 0) ∧
  (∀ (s : State) n e k, s.clocked = true → s.entryOf n 4 = some e → s.ing[n].skipping = false → s.ing[n].stream = some k → s.ing[n].holding = false →
    (s.ctxs[k].state = .faulted ∨ s.ctxs[k].state = .empty) → exec (.go n) s = .next ((s.consume n 1).ingErr n 0x0F)) ∧
  (∀ (s : State) n e k, s.clocked = true → s.ing[n].skipping = false → s.ing[n].stream = some k → s.ing[n].holding = false →
    (s.ctxs[k].state = .loading ∨ s.ctxs[k].state = .saving ∨ s.ctxs[k].state = .restoring) →
    (s.entryOf n 4 = some e → exec (.go n) s = .next (s.onIng n fun g => { g with holding := true })) ∧
    (s.entryOf n 3 = some e → 1 + injectEntries e ≤ s.ing[n].unread → exec (.inject n) s = .next (s.onIng n fun g => { g with holding := true }))) ∧
  (∀ (s : State) n e, s.clocked = true → s.entryOf n 5 = some e → s.leaving n = false → Makes (.close n) s fun t =>
    t.ing[n].stream = none ∧ t.ing[n].skipping = false ∧ t.ing[n].head = s.ing[n].head + 1) ∧
  (∀ (s : State) n e, s.clocked = true → s.entry n = some e → s.ing[n].skipping = false → entryOk e s.ing[n].stream.isSome = false →
    s.leaving n = false → Makes (.invalidEntry n) s fun t =>
      t.ing[n].err = true ∧ t.ing[n].code = 0x0D ∧ t.ing[n].stopped = true ∧ t.ing[n].head = s.ing[n].head + 1) ∧
  (∀ (s : State) (n : Fin 16) (x : BitVec 32) i, s.clocked = true →
    (i = .tailWrite n x ∨ ∃ v : BitVec 64, v.setWidth 32 = x ∧ i = .registerWrite (BitVec.ofNat 16 (0x1008 + 0x20 * n.val)) v) →
    ((x - s.ing[n].head).toNat ≤ s.ing[n].size → exec i s = .next (s.onIng n fun g => { g with tail := x })) ∧
    (s.ing[n].size < (x - s.ing[n].head).toNat → exec i s = .next (s.onIng n fun g => { g with err := true, code := 0x0E }))) ∧
  (∀ (s : State) (n : Fin 16) (v : BitVec 64) i, s.clocked = true → (i = .ringWrite n v ∨ i = .registerWrite (BitVec.ofNat 16 (0x1000 + 0x20 * n.val)) v) →
    (s.ing[n].head = s.ing[n].tail →
      exec i s = .next (s.onIng n fun g => { g with base := v.extractLsb' 12 52, log2sz := v.extractLsb' 0 4 })) ∧
    (s.ing[n].head ≠ s.ing[n].tail → exec i s = .next (s.onIng n fun g => { g with err := true, code := 0x0C }))) ∧
  (∀ (s : State) n, s.clocked = true → exec (.errClear n) s = .next (s.onIng n fun g => { g with err := false, stopped := false })) ∧
  (∀ (s : State) v, s.clocked = true → exec (.registerWrite 0x100 v) s = .next { s with qdBase := v.extractLsb' 12 52 }) ∧
  (∀ (s : State) (p : Fin 16) v, s.clocked = true → s.preempt[p].open_ = true →
    exec (.registerWrite (BitVec.ofNat 16 (0x2000 + 0x10 * p.val)) v) s = .next (s.onPreempt p fun q => { q with at_ := v })) ∧
  (∀ (s : State) o v, s.clocked = true → (o.toNat < 0x100 ∨ 0x110 ≤ o.toNat ∧ o.toNat < 0x1000 ∨ 0x2100 ≤ o.toNat) → exec (.registerWrite o v) s = .next s) ∧
  (∀ (s : State) (o : BitVec 16), (o.toNat % 8 ≠ 0 ∨ 0 < o.toNat ∧ o.toNat < 0x100 ∨ 0x110 ≤ o.toNat ∧ o.toNat < 0x1000) → s.windowRead o = 0)

/-- 02 R66, R67, 04 R137 to R143: an interface is locked, keyed, started and stopped in that order, another message is answered with an error;
a changed snapshot or a key table in error puts it in ERROR, its keys destroyed and its contexts FAULTED; reports are answered; an attestation signs
the nonce and the fields; a debug session halts or traces its core, in S1 it wakes the module, in S3 it is refused, and it ends. -/
def Obligations.TenantsAndDebug : Prop :=
  (∀ (s : State) i x, (s.tdis[i].state = .unlocked → s.debugAny ≤ x → Makes (.lockInterface i x) s fun t =>
      t.tdis[i].state = .locked ∧ t.tdis[i].consent = x ∧ t.tdis[i].live = true ∧ ({ itf := i, regions := s.regionsOf i, ctxs := s.boundTo i } : Snapshot) ∈ t.snapshots) ∧
    ((s.tdis[i].state ≠ .unlocked ∨ x < s.debugAny) →
      exec (.lockInterface i x) s = .next { s with answers := s.answers ++ [.error i] })) ∧
  (∀ (s : State) i m r, s.regions[m.entry]? = some r →
    (s.tdis[i].state = .locked → r.itf = i → exec (.keyDelivery i m) s = .next { s with keyTable := putKey s.keyTable r.slot m.key }) ∧
    ((s.tdis[i].state ≠ .locked ∨ r.itf ≠ i) → exec (.keyDelivery i m) s = .next { s with answers := s.answers ++ [.error i] })) ∧
  (∀ (s : State) i, (s.tdis[i].state = .locked → (∀ r ∈ s.regions, r.itf = i → s.keyOf r ≠ none) →
      exec (.startInterface i) s = .next (s.onTdi i fun x => { x with state := .run })) ∧
    ((s.tdis[i].state ≠ .locked ∨ ∃ r ∈ s.regions, r.itf = i ∧ s.keyOf r = none) →
      exec (.startInterface i) s = .next { s with answers := s.answers ++ [.error i] })) ∧
  (∀ (s : State) i, s.tdis[i].bound = true → (∃ k ∈ s.boundTo i, s.ctxs[k].state = .saving ∨ s.ctxs[k].state = .restoring) → i ∉ s.stops →
    exec (.stopInterface i) s = .next { s with stops := s.stops ++ [i] }) ∧
  (∀ (s : State) i, s.tdis[i].state ≠ .unlocked → (∀ k ∈ s.boundTo i, s.ctxs[k].state ≠ .saving ∧ s.ctxs[k].state ≠ .restoring) →
    Makes (.stopInterface i) s fun t => t.tdis[i].state = .unlocked ∧ t.tdis[i].live = false ∧ (∀ k ∈ s.boundTo i, t.ctxs[k].state = .empty) ∧
      (s.tdis[i].state ≠ .error → ∀ r ∈ t.regions, r.itf = i → t.keyOf r = none)) ∧
  (∀ (s : State) i, exec (.getDeviceInterfaceReport i) s = .next { s with answers := s.answers ++ [.report i s.tdis[i].state (s.keys i)] } ∧
    exec (.tdispUnsupported i) s = .next { s with answers := s.answers ++ [.unsupported i] }) ∧
  (∀ (s : State) n e, (∀ i : Fin 16, s.tdis[i].bound = true → (s.setRegion n e).snapshotBroken i = false) →
    exec (.snapshotChange n e) s = .next (s.setRegion n e).redebug) ∧
  (∀ (s : State) (i : Fin 16) n e, s.tdis[i].bound = true → (s.setRegion n e).snapshotBroken i = true →
    Makes (.snapshotChange n e) s fun t => t.tdis[i].state = .error ∧ t.tdis[i].cause = 2 ∧ (∀ r ∈ t.regions, r.itf = i → t.keyOf r = none) ∧
      ∀ k ∈ s.boundTo i, t.ctxs[k].state = .faulted) ∧
  (∀ (s : State) i, s.tdis[i].bound = true → Makes (.keyTableError i) s fun t =>
    t.tdis[i].state = .error ∧ t.tdis[i].cause = 3 ∧ (∀ r ∈ t.regions, r.itf = i → t.keyOf r = none) ∧ ∀ k ∈ s.boundTo i, t.ctxs[k].state = .faulted) ∧
  (∀ (s : State) nonce, exec (.attestationRequest nonce) s = .next { s with answers := s.answers ++ [.attestation nonce s.reportFields
    (Sys2Proof.Config.sign (Sys2Proof.Config.derivedKey (s.identity.getD 0) 0)
      (Sys2Proof.Config.sha384 ((nonce.toNat :: s.reportFields).flatMap fun x => leBytes 48 x))) Sys2Proof.Config.identityCert] }) ∧
  (∀ (s : State) n c, s.core n = some c → s.itfAt n = none → (∀ i : Fin 16, s.tdis[i].bound = true → s.debugOf i ≤ s.tdis[i].consent) →
    (s.power = .p0 ∨ s.power = .p1 ∨ s.power = .s1) →
    (Makes (.debugAttachTrace n) s fun t => t.core n = some { c with traced := true } ∧ (s.power = .s1 → t.power = .p0)) ∧
    (Makes (.debugAttachHalt n) s fun t => t.core n = some ({ c with halted := true } : Core).askFreeze ∧ (s.power = .s1 → t.power = .p0))) ∧
  (∀ (s : State) n i, s.itfAt n = some i → s.power = .p0 → s.tdis[i].bound = true →
    (∀ j : Fin 16, j ≠ i → s.tdis[j].bound = true → s.debugOf j ≤ s.tdis[j].consent) →
    (s.tdis[i].consent < 1 → Makes (.debugAttachTrace n) s fun t => t.tdis[i].state = .error ∧ t.tdis[i].cause = 1 ∧
      ∀ k ∈ s.boundTo i, t.ctxs[k].state = .faulted) ∧
    (s.tdis[i].consent < 2 → Makes (.debugAttachHalt n) s fun t => t.tdis[i].state = .error ∧ t.tdis[i].cause = 1 ∧
      ∀ k ∈ s.boundTo i, t.ctxs[k].state = .faulted)) ∧
  (∀ (s : State) n, s.power = .s3 → exec (.debugAttachTrace n) s = .next { s with mgmt := s.mgmt ++ [.debugRefused n] } ∧
    exec (.debugAttachHalt n) s = .next { s with mgmt := s.mgmt ++ [.debugRefused n] }) ∧
  (∀ (s : State) n c, s.core n = some c → (c.traced = true ∨ c.halted = true) → c.firing = none → Makes (.debugSessionEnd n) s fun t =>
    ∃ d, t.core n = some d ∧ d.traced = false ∧ d.halted = false ∧ (c.halted = true → s.savingAt n = false → c.failed = false → d.frozen = false))
end

