-- ==== Sys2Proof/Laws/Slot.lean ====
section
/-! SUPPORT. Sys2Proof/Laws/Slot.lean: what a slot form does to its group, once for all forms: a slot that can run issues with its effects, one
whose predicate is off issues with none, one whose operands are not there is held, one that traps takes the group's trap. -/

namespace Sys2Proof.Machine

/-- Every slot form answers a next state. -/
theorem slot_goes (closing : Bool) (p : Pred) (f : Sem) (s : State) : Goes (slot closing p f s) := trivial

/-- What a slot form's core does when the group has nothing else to come. -/
theorem slot_at {s : State} {c : Core} (closing : Bool) (p : Pred) (f : Sem) (h : s.core s.focus = some c) :
    slot closing p f s = .next ((s.setCore s.focus (c.runSlot (s.env s.focus) closing p f).1).applyAll s.focus
      (c.runSlot (s.env s.focus) closing p f).2) := by
  simp [slot, State.onCore, h]

/-- The position of the last slot of a group. -/
theorem LastSlot.slotPos {s : State} {c : Core} {pos : Fin 8} {i : Instr} (h : LastSlot s c pos i) : c.slotPos = pos := by
  simp [Core.slotPos, h.todo]

/-- The last slot closes its group. -/
theorem runSlot_last {c : Core} {pos : Fin 8} {i : Instr} (h : c.issue.todo = [(pos, i)]) (env : Env) (closing : Bool) (p : Pred)
    (f : Sem) :
    c.runSlot env closing p f
      = (c.joined closing (if c.executes p then (f env c pos).judge c pos else .go [])).closeGroup env := by
  have hp : c.slotPos = pos := by simp [Core.slotPos, h]
  unfold Core.runSlot Core.joined
  rw [hp]
  have ht : ∀ r, (c.issue.gather closing r).todo = [] := by
    intro r; cases r <;> simp [Issue.gather, h]
  simp only [ht]

@[simp] theorem gather_hold {j : Issue} {closing : Bool} {es : List Effect} : (j.gather closing (.go es)).hold = j.hold := rfl
@[simp] theorem gather_trap {j : Issue} {closing : Bool} {es : List Effect} : (j.gather closing (.go es)).trap = j.trap := rfl
@[simp] theorem gather_effects {j : Issue} {closing : Bool} {es : List Effect} :
    (j.gather closing (.go es)).effects = j.effects ++ es := rfl
@[simp] theorem gather_waits {j : Issue} {closing : Bool} {r : SlotResult} : (j.gather closing r).waits = j.waits := by
  cases r <;> rfl

/-- What the group's waits see does not depend on what the slots have gathered. -/
theorem waitsOk_joined (c : Core) (closing : Bool) (r : SlotResult) (env : Env) :
    (c.joined closing r).waitsOk env = c.waitsOk env := by
  unfold Core.waitsOk Core.joined
  simp only [gather_waits]
  congr 1

/-- The release of the gate leaves the gate empty. -/
theorem release_gate (c : Core) : c.release.1.gate = [] := rfl

theorem releaseMark_gate (c : Core) : c.releaseMark.1.gate = [] := rfl

/-- A gate whose rows fit leaves the group without a trap of its own. -/
theorem groupTrap_none {c : Core} {j : Issue} (ht : j.trap = none) (hr : gateRows c.gate + rowsTaken j.effects ≤ 32) :
    c.groupTrap j = none := by
  unfold Core.groupTrap
  rw [if_neg (by omega), ht]

/-- Full sources stall nothing and are no empty read. -/
theorem stalls_full {c : Core} {l : List Src} (h : ∀ x ∈ l, c.regs.full x.1 = true) : c.stalls l = false ∧ c.emptyRead l = false := by
  constructor
  · simp only [Core.stalls, List.any_eq_false]
    intro x hx; simp [h x hx]
  · simp only [Core.emptyRead, List.any_eq_false]
    intro x hx; simp [h x hx]

/-- The group's trap does not stand where its slots have none and its stores fit, whether or not it closes its region. -/
theorem closeGroup_issues {d : Core} {env : Env} (hh : d.issue.hold = false) (ht : d.issue.trap = none) (hw : d.waitsOk env = true)
    (hr : gateRows d.gate + rowsTaken d.issue.effects ≤ 32) : d.closeGroup env = d.issueGroup := by
  unfold Core.closeGroup
  rw [if_neg (by simp [hh, hw])]
  by_cases hb : (d.issue.closing || d.issue.release) = true
  · rw [if_pos hb]
    have : d.releaseMark.1.groupTrap d.issue = none := by
      apply groupTrap_none ht
      rw [releaseMark_gate]; simp only [gateRows, List.foldl_nil]; omega
    simp only [this]
  · rw [if_neg hb]
    simp only [groupTrap_none ht hr]

/-- A slot that can run issues with its group (06 R177, R182). -/
theorem slot_issues {s : State} {c : Core} {pos : Fin 8} {i : Instr} {closing : Bool} {p : Pred} {f : Sem} {srcs : List Src}
    {dests : List FullReg} {es : List Effect} (h : LastSlot s c pos i) (hc : CanRun c p srcs dests es)
    (hs : (f (s.env s.focus) c pos).srcs = srcs) (hd : (f (s.env s.focus) c pos).dests = dests)
    (hb : (f (s.env s.focus) c pos).busy = false) (hr : (f (s.env s.focus) c pos).result = .go es) :
    slot closing p f s = .next (s.issued c closing (.go es)) := by
  have hj : (f (s.env s.focus) c pos).judge c pos = .go es := by
    have hdf : dests.any c.pending = false := by
      rw [List.any_eq_false]; intro r hr'; simp [hc.free r hr']
    have hg : c.badSource srcs = false := by
      rw [Core.badSource, List.any_eq_false]; intro x hx; simp [hc.good x hx]
    simp [SlotReq.judge, hs, hd, hb, hr, stalls_full hc.full, hdf, hg]
  rw [slot_at closing p f h.core, runSlot_last h.todo, hc.runs, if_pos rfl, hj,
    closeGroup_issues (by simp [Core.joined, h.hold]) (by simp [Core.joined, h.trap])
      (by rw [waitsOk_joined]; exact h.waits) (by simpa [Core.joined] using hc.room)]
  rfl

/-- A slot whose predicate is off adds nothing to its group, whatever its operands (10 R286). -/
theorem slot_off {s : State} {c : Core} {pos : Fin 8} {i : Instr} {closing : Bool} {p : Pred} {f : Sem} (h : LastSlot s c pos i)
    (hp : c.executes p = false) (hr : gateRows c.gate + rowsTaken c.issue.effects ≤ 32) :
    slot closing p f s = .next (s.issued c closing (.go [])) := by
  rw [slot_at closing p f h.core, runSlot_last h.todo, hp, if_neg (by simp),
    closeGroup_issues (by simp [Core.joined, h.hold]) (by simp [Core.joined, h.trap])
      (by rw [waitsOk_joined]; exact h.waits) (by simpa [Core.joined] using hr)]
  rfl

/-- A slot that cannot run yet holds its whole group, which stands at its first slot again (06 R178, R182). -/
theorem slot_held {s : State} {c : Core} {pos : Fin 8} {i : Instr} {closing : Bool} {p : Pred} {f : Sem} (h : LastSlot s c pos i)
    (hp : c.executes p = true)
    (hj : (c.stalls (f (s.env s.focus) c pos).srcs || (f (s.env s.focus) c pos).dests.any c.pending || (f (s.env s.focus) c pos).busy) = true) :
    slot closing p f s = .next (s.heldAt c) := by
  have hq : (f (s.env s.focus) c pos).judge c pos = .hold := by simp only [SlotReq.judge, hj, if_true]
  rw [slot_at closing p f h.core, runSlot_last h.todo, hp, if_pos rfl, hq]
  have : (c.joined closing .hold).closeGroup (s.env s.focus)
      = ({ c with issue := c.issue.restart }, []) := by
    unfold Core.closeGroup
    rw [if_pos (by simp [Core.joined, Issue.gather])]
    simp [Core.joined, Issue.gather, Issue.restart]
  rw [this]
  rfl

/-- A slot that traps takes its group's trap (06 R182, 08 R240). -/
theorem slot_traps {s : State} {c : Core} {pos : Fin 8} {i : Instr} {closing : Bool} {p : Pred} {f : Sem} {t : TrapInfo}
    (h : LastSlot s c pos i) (hp : c.executes p = true) (hj : (f (s.env s.focus) c pos).judge c pos = .trap t)
    (hr : gateRows c.gate + rowsTaken c.issue.effects ≤ 32) :
    slot closing p f s = .next (s.trapsWith c closing (.trap t) t) := by
  rw [slot_at closing p f h.core, runSlot_last h.todo, hp, if_pos rfl, hj]
  have hh : (c.joined closing (.trap t)).issue.hold = false := by simp [Core.joined, Issue.gather, h.hold]
  have ht : (c.joined closing (.trap t)).issue.trap = some t := by simp [Core.joined, Issue.gather, h.trap]
  have he : (c.joined closing (.trap t)).issue.effects = c.issue.effects := rfl
  have hw : (c.joined closing (.trap t)).waitsOk (s.env s.focus) = true := by rw [waitsOk_joined]; exact h.waits
  have hg : (c.joined closing (.trap t)).gate = c.gate := rfl
  generalize hd : c.joined closing (.trap t) = d at *
  unfold Core.closeGroup
  rw [if_neg (by simp [hh, hw])]
  by_cases hb : (d.issue.closing || d.issue.release) = true
  · have : d.releaseMark.1.groupTrap d.issue = some t := by
      have hz : ¬ 32 < gateRows d.releaseMark.1.gate + rowsTaken d.issue.effects := by
        rw [releaseMark_gate, he]; simp only [gateRows, List.foldl_nil]; omega
      unfold Core.groupTrap
      rw [if_neg hz, ht]
    simp only [if_pos hb, this, State.trapsWith, hd]
  · have : d.groupTrap d.issue = some t := by
      unfold Core.groupTrap
      rw [hg, he, if_neg (by omega), ht]
    simp only [if_neg hb, this, State.trapsWith, hd]

/-- A slot whose trap condition is off does its work. -/
theorem checked_none {t : Option TrapInfo} {r : SlotResult} (h : t = none) : checked t r = r := by rw [h]; rfl

/-- A list of checks none of which traps. -/
theorem firstTrap_none {l : List (Option TrapInfo)} (h : ∀ x ∈ l, x = none) : firstTrap l = none := by
  induction l with
  | nil => rfl
  | cons x l ih =>
    rw [h x (by simp)]
    exact ih fun y hy => h y (List.mem_cons_of_mem _ hy)

/-- A check whose condition is off. -/
theorem trapIf_false {b : Bool} {t : TrapInfo} (h : b = false) : trapIf b t = none := by rw [h]; rfl

/-- A slot form whose request agrees with a row completes as the row says. -/
theorem completes_of {i : Instr} {r : SlotRow} {closing : Bool} {p : Pred} {f : Sem} (he : ∀ s, exec i s = slot closing p f s)
    (h : ∀ env c pos, (r env c pos).ok → (r env c pos).pred = p ∧ (r env c pos).closing = closing ∧ (f env c pos).srcs = (r env c pos).srcs ∧
      (f env c pos).dests = (r env c pos).dests ∧ (f env c pos).busy = false ∧ (f env c pos).result = .go (r env c pos).effects) :
    Completes i r := by
  intro s c pos hl hk hc
  obtain ⟨h1, h2, h3, h4, h5, h6⟩ := h _ _ _ hk
  rw [he, h2]
  rw [h1] at hc
  exact slot_issues hl hc h3 h4 h5 h6

/-- A slot form whose request agrees with a row stalls as the row says. -/
theorem stalls_of {i : Instr} {r : SlotRow} {closing : Bool} {p : Pred} {f : Sem} (he : ∀ s, exec i s = slot closing p f s)
    (h : ∀ env c pos, (r env c pos).pred = p ∧ (f env c pos).srcs = (r env c pos).srcs ∧ (f env c pos).dests = (r env c pos).dests) :
    StallsOn i r := by
  intro s c pos hl hp hx
  obtain ⟨h1, h2, h3⟩ := h (s.env s.focus) c pos
  rw [he]
  refine slot_held hl (h1 ▸ hp) ?_
  rw [h2, h3]
  rcases hx with ⟨x, hx, ht, hf⟩ | ⟨d, hd, hq⟩
  · have : c.stalls (r (s.env s.focus) c pos).srcs = true := by
      simp only [Core.stalls, List.any_eq_true]
      exact ⟨x, hx, by simp [ht, hf]⟩
    simp [this]
  · have : (r (s.env s.focus) c pos).dests.any c.pending = true := by
      simp only [List.any_eq_true]; exact ⟨d, hd, hq⟩
    simp [this]

/-- A slot form whose request agrees with a row, and that no structural stall holds, traps EMPTY_READ as the row says. -/
theorem empty_of {i : Instr} {r : SlotRow} {closing : Bool} {p : Pred} {f : Sem} (he : ∀ s, exec i s = slot closing p f s)
    (h : ∀ env c pos, (r env c pos).pred = p ∧ (r env c pos).closing = closing ∧ (f env c pos).srcs = (r env c pos).srcs ∧
      (f env c pos).dests = (r env c pos).dests ∧ (f env c pos).busy = false) :
    TrapsEmpty i r := by
  intro s c pos hl hp hr hs hd hx
  obtain ⟨h1, h2, h3, h4, h5⟩ := h (s.env s.focus) c pos
  rw [he, h2]
  refine slot_traps hl (h1 ▸ hp) ?_ hr
  have h6 : c.stalls (f (s.env s.focus) c pos).srcs = false := by
    rw [h3]; simp only [Core.stalls, List.any_eq_false]
    intro x hx
    cases hb : x.2 with
    | false => simp [hs x hx hb]
    | true => simp
  have h7 : (f (s.env s.focus) c pos).dests.any c.pending = false := by
    rw [h4]; simp only [List.any_eq_false]
    intro x hx; simp [hd x hx]
  have h8 : c.emptyRead (f (s.env s.focus) c pos).srcs = true := by
    rw [h3]; simp only [Core.emptyRead, List.any_eq_true]
    obtain ⟨x, hx, ht, hf⟩ := hx
    exact ⟨x, hx, by simp [ht, hf]⟩
  simp [SlotReq.judge, h5, h6, h7, h8]

end Sys2Proof.Machine
end

