-- ==== Sys2Proof/Laws/Forms.lean ====
section
/-! SUPPORT. Sys2Proof/Laws/Forms.lean: every instruction that has a word is a slot form with the predicate of its word; it closes its region if 08
Table 8-3 lists its opcode. -/

set_option Elab.async false

namespace Sys2Proof.Machine

/-- A slot form by the fields of its word. -/
def IsSlot (i : Instr) : Prop := ∀ e, encode i = some e → ∃ f, ∀ s, exec i s = slot (closesOp e.cls e.op) e.pred f s

/-- Every instruction with a word is one. -/
theorem exec_isSlot : ∀ i, IsSlot i
  | .powerGood _ => fun _ h => nomatch h
  | .enterP0 => fun _ h => nomatch h
  | .enterP1 => fun _ h => nomatch h
  | .enterS1 => fun _ h => nomatch h
  | .exitS1 => fun _ h => nomatch h
  | .enterS3 => fun _ h => nomatch h
  | .exitS3 _ => fun _ h => nomatch h
  | .powerRemoved => fun _ h => nomatch h
  | .auxPowerFail => fun _ h => nomatch h
  | .thermalThrottle => fun _ h => nomatch h
  | .thermalRecover => fun _ h => nomatch h
  | .wccSlew _ => fun _ h => nomatch h
  | .syncUnlocked => fun _ h => nomatch h
  | .peerDelayMeasure _ _ => fun _ h => nomatch h
  | .ltsFloor => fun _ h => nomatch h
  | .bloomAlternate => fun _ h => nomatch h
  | .scrubLine _ _ => fun _ h => nomatch h
  | .configEntryRewritten _ => fun _ h => nomatch h
  | .selftestWithdraw _ => fun _ h => nomatch h
  | .selftestStart _ => fun _ h => nomatch h
  | .selftestSkip _ => fun _ h => nomatch h
  | .selftestDone _ _ => fun _ h => nomatch h
  | .failedInService _ => fun _ h => nomatch h
  | .freezeTimeout _ => fun _ h => nomatch h
  | .retryRequest _ _ => fun _ h => nomatch h
  | .linkDead _ _ => fun _ h => nomatch h
  | .publicationArrival _ _ => fun _ h => nomatch h
  | .requestArrival _ _ => fun _ h => nomatch h
  | .requestResume _ => fun _ h => nomatch h
  | .gateTileArrival _ => fun _ h => nomatch h
  | .heldTileAccept _ => fun _ h => nomatch h
  | .missReplyArrival _ => fun _ h => nomatch h
  | .agentRequest _ => fun _ h => nomatch h
  | .agentFetchDone _ _ => fun _ h => nomatch h
  | .segmentVerify _ => fun _ h => nomatch h
  | .backWrite _ => fun _ h => nomatch h
  | .backCompletion _ => fun _ h => nomatch h
  | .configWrite _ => fun _ h => nomatch h
  | .collectiveChunkArrival _ _ => fun _ h => nomatch h
  | .chunkRefetch _ => fun _ h => nomatch h
  | .markerArrival _ _ => fun _ h => nomatch h
  | .carryMessageArrival _ _ => fun _ h => nomatch h
  | .drainWave _ => fun _ h => nomatch h
  | .cfgswap _ => fun _ h => nomatch h
  | .cfgswapForce _ => fun _ h => nomatch h
  | .planeSwap _ => fun _ h => nomatch h
  | .congestionTimeout _ _ => fun _ h => nomatch h
  | .probe _ => fun _ h => nomatch h
  | .probeWave _ => fun _ h => nomatch h
  | .verdictRead => fun _ h => nomatch h
  | .memoryRequestArrival _ => fun _ h => nomatch h
  | .spillReturn _ => fun _ h => nomatch h
  | .requestServe _ => fun _ h => nomatch h
  | .lineFill _ _ => fun _ h => nomatch h
  | .acceptanceToken _ => fun _ h => nomatch h
  | .completionToken _ => fun _ h => nomatch h
  | .cancellation _ => fun _ h => nomatch h
  | .tilePrepare _ => fun _ h => nomatch h
  | .tileCommit _ => fun _ h => nomatch h
  | .walkRequest _ => fun _ h => nomatch h
  | .walkComplete _ => fun _ h => nomatch h
  | .pagerFaultToken _ => fun _ h => nomatch h
  | .pagerResolve _ => fun _ h => nomatch h
  | .shootdown _ _ _ => fun _ h => nomatch h
  | .shootdownComplete => fun _ h => nomatch h
  | .frameReceive _ _ => fun _ h => nomatch h
  | .frameResendTimeout _ _ _ => fun _ h => nomatch h
  | .peerLost _ => fun _ h => nomatch h
  | .instructionFetch _ => fun _ h => nomatch h
  | .fixedResultLand _ => fun _ h => nomatch h
  | .registerFill _ _ => fun _ h => nomatch h
  | .queueOpStart _ _ => fun _ h => nomatch h
  | .engineOpComplete _ _ _ => fun _ h => nomatch h
  | .streamerStart _ => fun _ h => nomatch h
  | .streamerComplete _ _ => fun _ h => nomatch h
  | .landingStart _ => fun _ h => nomatch h
  | .landingComplete _ => fun _ h => nomatch h
  | .retireComplete _ => fun _ h => nomatch h
  | .walkerOpen _ => fun _ h => nomatch h
  | .dispatch _ => fun _ h => nomatch h
  | .herdDispatch _ => fun _ h => nomatch h
  | .triggerCount _ => fun _ h => nomatch h
  | .eosRequest _ => fun _ h => nomatch h
  | .eosEmit _ => fun _ h => nomatch h
  | .barrierArrival _ => fun _ h => nomatch h
  | .barrierTimeout _ => fun _ h => nomatch h
  | .npsOverrun _ => fun _ h => nomatch h
  | .deferredFault _ => fun _ h => nomatch h
  | .resume _ => fun _ h => nomatch h
  | .retranslate _ => fun _ h => nomatch h
  | .endFiring _ => fun _ h => nomatch h
  | .freezeRequest _ => fun _ h => nomatch h
  | .arm _ => fun _ h => nomatch h
  | .cancel _ => fun _ h => nomatch h
  | .switchCommit _ => fun _ h => nomatch h
  | .switchStart _ => fun _ h => nomatch h
  | .saveDone _ => fun _ h => nomatch h
  | .restoreDone _ => fun _ h => nomatch h
  | .switchOverdue _ => fun _ h => nomatch h
  | .openCfg _ => fun _ h => nomatch h
  | .arg _ => fun _ h => nomatch h
  | .inject _ => fun _ h => nomatch h
  | .go _ => fun _ h => nomatch h
  | .close _ => fun _ h => nomatch h
  | .invalidEntry _ => fun _ h => nomatch h
  | .heldEntryResume _ => fun _ h => nomatch h
  | .tailWrite _ _ => fun _ h => nomatch h
  | .ringWrite _ _ => fun _ h => nomatch h
  | .errClear _ => fun _ h => nomatch h
  | .registerWrite _ _ => fun _ h => nomatch h
  | .lockInterface _ _ => fun _ h => nomatch h
  | .keyDelivery _ _ => fun _ h => nomatch h
  | .startInterface _ => fun _ h => nomatch h
  | .stopInterface _ => fun _ h => nomatch h
  | .getDeviceInterfaceReport _ => fun _ h => nomatch h
  | .tdispUnsupported _ => fun _ h => nomatch h
  | .snapshotChange _ _ => fun _ h => nomatch h
  | .keyTableError _ => fun _ h => nomatch h
  | .debugAttachTrace _ => fun _ h => nomatch h
  | .debugAttachHalt _ => fun _ h => nomatch h
  | .debugSessionEnd _ => fun _ h => nomatch h
  | .attestationRequest _ => fun _ h => nomatch h
  | .add _ _ => fun _ h => Option.some.inj h ▸ ⟨_, fun _ => rfl⟩
  | .sub _ _ => fun _ h => Option.some.inj h ▸ ⟨_, fun _ => rfl⟩
  | .addi _ _ => fun _ h => Option.some.inj h ▸ ⟨_, fun _ => rfl⟩
  | .addiExt _ _ => fun _ h => Option.some.inj h ▸ ⟨_, fun _ => rfl⟩
  | .and _ _ => fun _ h => Option.some.inj h ▸ ⟨_, fun _ => rfl⟩
  | .or _ _ => fun _ h => Option.some.inj h ▸ ⟨_, fun _ => rfl⟩
  | .xor _ _ => fun _ h => Option.some.inj h ▸ ⟨_, fun _ => rfl⟩
  | .andn _ _ => fun _ h => Option.some.inj h ▸ ⟨_, fun _ => rfl⟩
  | .shl _ _ => fun _ h => Option.some.inj h ▸ ⟨_, fun _ => rfl⟩
  | .shr _ _ => fun _ h => Option.some.inj h ▸ ⟨_, fun _ => rfl⟩
  | .sra _ _ => fun _ h => Option.some.inj h ▸ ⟨_, fun _ => rfl⟩
  | .shli _ _ => fun _ h => Option.some.inj h ▸ ⟨_, fun _ => rfl⟩
  | .shri _ _ => fun _ h => Option.some.inj h ▸ ⟨_, fun _ => rfl⟩
  | .srai _ _ => fun _ h => Option.some.inj h ▸ ⟨_, fun _ => rfl⟩
  | .mul _ _ => fun _ h => Option.some.inj h ▸ ⟨_, fun _ => rfl⟩
  | .mulh _ _ => fun _ h => Option.some.inj h ▸ ⟨_, fun _ => rfl⟩
  | .div _ _ => fun _ h => Option.some.inj h ▸ ⟨_, fun _ => rfl⟩
  | .rem _ _ => fun _ h => Option.some.inj h ▸ ⟨_, fun _ => rfl⟩
  | .min _ _ => fun _ h => Option.some.inj h ▸ ⟨_, fun _ => rfl⟩
  | .max _ _ => fun _ h => Option.some.inj h ▸ ⟨_, fun _ => rfl⟩
  | .clz _ _ => fun _ h => Option.some.inj h ▸ ⟨_, fun _ => rfl⟩
  | .ctz _ _ => fun _ h => Option.some.inj h ▸ ⟨_, fun _ => rfl⟩
  | .popc _ _ => fun _ h => Option.some.inj h ▸ ⟨_, fun _ => rfl⟩
  | .bswap _ _ => fun _ h => Option.some.inj h ▸ ⟨_, fun _ => rfl⟩
  | .ext _ _ => fun _ h => Option.some.inj h ▸ ⟨_, fun _ => rfl⟩
  | .ins _ _ => fun _ h => Option.some.inj h ▸ ⟨_, fun _ => rfl⟩
  | .li _ _ => fun _ h => Option.some.inj h ▸ ⟨_, fun _ => rfl⟩
  | .liExt _ _ => fun _ h => Option.some.inj h ▸ ⟨_, fun _ => rfl⟩
  | .lih _ _ => fun _ h => Option.some.inj h ▸ ⟨_, fun _ => rfl⟩
  | .lihExt _ _ => fun _ h => Option.some.inj h ▸ ⟨_, fun _ => rfl⟩
  | .mov _ _ => fun _ h => Option.some.inj h ▸ ⟨_, fun _ => rfl⟩
  | .sel _ _ => fun _ h => Option.some.inj h ▸ ⟨_, fun _ => rfl⟩
  | .lea _ _ => fun _ h => Option.some.inj h ▸ ⟨_, fun _ => rfl⟩
  | .madd _ _ => fun _ h => Option.some.inj h ▸ ⟨_, fun _ => rfl⟩
  | .clamp _ _ => fun _ h => Option.some.inj h ▸ ⟨_, fun _ => rfl⟩
  | .cmpEq _ _ => fun _ h => Option.some.inj h ▸ ⟨_, fun _ => rfl⟩
  | .cmpNe _ _ => fun _ h => Option.some.inj h ▸ ⟨_, fun _ => rfl⟩
  | .cmpLt _ _ => fun _ h => Option.some.inj h ▸ ⟨_, fun _ => rfl⟩
  | .cmpLe _ _ => fun _ h => Option.some.inj h ▸ ⟨_, fun _ => rfl⟩
  | .cmpiEq _ _ => fun _ h => Option.some.inj h ▸ ⟨_, fun _ => rfl⟩
  | .cmpiEqExt _ _ => fun _ h => Option.some.inj h ▸ ⟨_, fun _ => rfl⟩
  | .cmpiNe _ _ => fun _ h => Option.some.inj h ▸ ⟨_, fun _ => rfl⟩
  | .cmpiNeExt _ _ => fun _ h => Option.some.inj h ▸ ⟨_, fun _ => rfl⟩
  | .cmpiLt _ _ => fun _ h => Option.some.inj h ▸ ⟨_, fun _ => rfl⟩
  | .cmpiLtExt _ _ => fun _ h => Option.some.inj h ▸ ⟨_, fun _ => rfl⟩
  | .cmpiLe _ _ => fun _ h => Option.some.inj h ▸ ⟨_, fun _ => rfl⟩
  | .cmpiLeExt _ _ => fun _ h => Option.some.inj h ▸ ⟨_, fun _ => rfl⟩
  | .pand _ _ => fun _ h => Option.some.inj h ▸ ⟨_, fun _ => rfl⟩
  | .por _ _ => fun _ h => Option.some.inj h ▸ ⟨_, fun _ => rfl⟩
  | .pxor _ _ => fun _ h => Option.some.inj h ▸ ⟨_, fun _ => rfl⟩
  | .pnot _ _ => fun _ h => Option.some.inj h ▸ ⟨_, fun _ => rfl⟩
  | .pmov _ _ => fun _ h => Option.some.inj h ▸ ⟨_, fun _ => rfl⟩
  | .br _ _ => fun _ h => Option.some.inj h ▸ ⟨_, fun _ => rfl⟩
  | .brc _ _ => fun _ h => Option.some.inj h ▸ ⟨_, fun _ => rfl⟩
  | .brcExt _ _ => fun _ h => Option.some.inj h ▸ ⟨_, fun _ => rfl⟩
  | .jr _ _ => fun _ h => Option.some.inj h ▸ ⟨_, fun _ => rfl⟩
  | .call _ _ => fun _ h => Option.some.inj h ▸ ⟨_, fun _ => rfl⟩
  | .ret _ => fun _ h => Option.some.inj h ▸ ⟨_, fun _ => rfl⟩
  | .lp _ _ => fun _ h => Option.some.inj h ▸ ⟨_, fun _ => rfl⟩
  | .lpx _ _ => fun _ h => Option.some.inj h ▸ ⟨_, fun _ => rfl⟩
  | .xwait _ _ => fun _ h => Option.some.inj h ▸ ⟨_, fun _ => rfl⟩
  | .twait _ _ => fun _ h => Option.some.inj h ▸ ⟨_, fun _ => rfl⟩
  | .retire _ => fun _ h => Option.some.inj h ▸ ⟨_, fun _ => rfl⟩
  | .trigger _ => fun _ h => Option.some.inj h ▸ ⟨_, fun _ => rfl⟩
  | .trap _ _ => fun _ h => Option.some.inj h ▸ ⟨_, fun _ => rfl⟩
  | .brk _ _ => fun _ h => Option.some.inj h ▸ ⟨_, fun _ => rfl⟩
  | .npsBegin _ => fun _ h => Option.some.inj h ▸ ⟨_, fun _ => rfl⟩
  | .npsEnd _ => fun _ h => Option.some.inj h ▸ ⟨_, fun _ => rfl⟩
  | .srd _ _ => fun _ h => Option.some.inj h ▸ ⟨_, fun _ => rfl⟩
  | .swr _ _ => fun _ h => Option.some.inj h ▸ ⟨_, fun _ => rfl⟩
  | .cfgq _ _ => fun _ h => Option.some.inj h ▸ ⟨_, fun _ => rfl⟩
  | .wccr _ _ => fun _ h => Option.some.inj h ▸ ⟨_, fun _ => rfl⟩
  | .vadd _ _ => fun _ h => Option.some.inj h ▸ ⟨_, fun _ => rfl⟩
  | .vaddMsk _ _ _ => fun _ h => Option.some.inj h ▸ ⟨_, fun _ => rfl⟩
  | .vsub _ _ => fun _ h => Option.some.inj h ▸ ⟨_, fun _ => rfl⟩
  | .vsubMsk _ _ _ => fun _ h => Option.some.inj h ▸ ⟨_, fun _ => rfl⟩
  | .vmul _ _ => fun _ h => Option.some.inj h ▸ ⟨_, fun _ => rfl⟩
  | .vmulMsk _ _ _ => fun _ h => Option.some.inj h ▸ ⟨_, fun _ => rfl⟩
  | .vfma _ _ => fun _ h => Option.some.inj h ▸ ⟨_, fun _ => rfl⟩
  | .vfms _ _ => fun _ h => Option.some.inj h ▸ ⟨_, fun _ => rfl⟩
  | .vfnma _ _ => fun _ h => Option.some.inj h ▸ ⟨_, fun _ => rfl⟩
  | .vmin _ _ => fun _ h => Option.some.inj h ▸ ⟨_, fun _ => rfl⟩
  | .vminMsk _ _ _ => fun _ h => Option.some.inj h ▸ ⟨_, fun _ => rfl⟩
  | .vmax _ _ => fun _ h => Option.some.inj h ▸ ⟨_, fun _ => rfl⟩
  | .vmaxMsk _ _ _ => fun _ h => Option.some.inj h ▸ ⟨_, fun _ => rfl⟩
  | .vabs _ _ => fun _ h => Option.some.inj h ▸ ⟨_, fun _ => rfl⟩
  | .vabsMsk _ _ _ => fun _ h => Option.some.inj h ▸ ⟨_, fun _ => rfl⟩
  | .vneg _ _ => fun _ h => Option.some.inj h ▸ ⟨_, fun _ => rfl⟩
  | .vnegMsk _ _ _ => fun _ h => Option.some.inj h ▸ ⟨_, fun _ => rfl⟩
  | .vcmpEq _ _ => fun _ h => Option.some.inj h ▸ ⟨_, fun _ => rfl⟩
  | .vcmpEqMsk _ _ _ => fun _ h => Option.some.inj h ▸ ⟨_, fun _ => rfl⟩
  | .vcmpLt _ _ => fun _ h => Option.some.inj h ▸ ⟨_, fun _ => rfl⟩
  | .vcmpLtMsk _ _ _ => fun _ h => Option.some.inj h ▸ ⟨_, fun _ => rfl⟩
  | .vcmpLe _ _ => fun _ h => Option.some.inj h ▸ ⟨_, fun _ => rfl⟩
  | .vcmpLeMsk _ _ _ => fun _ h => Option.some.inj h ▸ ⟨_, fun _ => rfl⟩
  | .vcmpUn _ _ => fun _ h => Option.some.inj h ▸ ⟨_, fun _ => rfl⟩
  | .vcmpUnMsk _ _ _ => fun _ h => Option.some.inj h ▸ ⟨_, fun _ => rfl⟩
  | .vsel _ _ => fun _ h => Option.some.inj h ▸ ⟨_, fun _ => rfl⟩
  | .vselMsk _ _ _ => fun _ h => Option.some.inj h ▸ ⟨_, fun _ => rfl⟩
  | .vclamp _ _ => fun _ h => Option.some.inj h ▸ ⟨_, fun _ => rfl⟩
  | .viadd _ _ => fun _ h => Option.some.inj h ▸ ⟨_, fun _ => rfl⟩
  | .viaddMsk _ _ _ => fun _ h => Option.some.inj h ▸ ⟨_, fun _ => rfl⟩
  | .visub _ _ => fun _ h => Option.some.inj h ▸ ⟨_, fun _ => rfl⟩
  | .visubMsk _ _ _ => fun _ h => Option.some.inj h ▸ ⟨_, fun _ => rfl⟩
  | .vimul _ _ => fun _ h => Option.some.inj h ▸ ⟨_, fun _ => rfl⟩
  | .vimulMsk _ _ _ => fun _ h => Option.some.inj h ▸ ⟨_, fun _ => rfl⟩
  | .vimin _ _ => fun _ h => Option.some.inj h ▸ ⟨_, fun _ => rfl⟩
  | .viminMsk _ _ _ => fun _ h => Option.some.inj h ▸ ⟨_, fun _ => rfl⟩
  | .vimax _ _ => fun _ h => Option.some.inj h ▸ ⟨_, fun _ => rfl⟩
  | .vimaxMsk _ _ _ => fun _ h => Option.some.inj h ▸ ⟨_, fun _ => rfl⟩
  | .vand _ _ => fun _ h => Option.some.inj h ▸ ⟨_, fun _ => rfl⟩
  | .vandMsk _ _ _ => fun _ h => Option.some.inj h ▸ ⟨_, fun _ => rfl⟩
  | .vor _ _ => fun _ h => Option.some.inj h ▸ ⟨_, fun _ => rfl⟩
  | .vorMsk _ _ _ => fun _ h => Option.some.inj h ▸ ⟨_, fun _ => rfl⟩
  | .vxor _ _ => fun _ h => Option.some.inj h ▸ ⟨_, fun _ => rfl⟩
  | .vxorMsk _ _ _ => fun _ h => Option.some.inj h ▸ ⟨_, fun _ => rfl⟩
  | .vandn _ _ => fun _ h => Option.some.inj h ▸ ⟨_, fun _ => rfl⟩
  | .vandnMsk _ _ _ => fun _ h => Option.some.inj h ▸ ⟨_, fun _ => rfl⟩
  | .vshl _ _ => fun _ h => Option.some.inj h ▸ ⟨_, fun _ => rfl⟩
  | .vshlMsk _ _ _ => fun _ h => Option.some.inj h ▸ ⟨_, fun _ => rfl⟩
  | .vshr _ _ => fun _ h => Option.some.inj h ▸ ⟨_, fun _ => rfl⟩
  | .vshrMsk _ _ _ => fun _ h => Option.some.inj h ▸ ⟨_, fun _ => rfl⟩
  | .vsra _ _ => fun _ h => Option.some.inj h ▸ ⟨_, fun _ => rfl⟩
  | .vsraMsk _ _ _ => fun _ h => Option.some.inj h ▸ ⟨_, fun _ => rfl⟩
  | .vicmpEq _ _ => fun _ h => Option.some.inj h ▸ ⟨_, fun _ => rfl⟩
  | .vicmpEqMsk _ _ _ => fun _ h => Option.some.inj h ▸ ⟨_, fun _ => rfl⟩
  | .vicmpLt _ _ => fun _ h => Option.some.inj h ▸ ⟨_, fun _ => rfl⟩
  | .vicmpLtMsk _ _ _ => fun _ h => Option.some.inj h ▸ ⟨_, fun _ => rfl⟩
  | .vicmpLe _ _ => fun _ h => Option.some.inj h ▸ ⟨_, fun _ => rfl⟩
  | .vicmpLeMsk _ _ _ => fun _ h => Option.some.inj h ▸ ⟨_, fun _ => rfl⟩
  | .vbcast _ _ => fun _ h => Option.some.inj h ▸ ⟨_, fun _ => rfl⟩
  | .vbcastMsk _ _ _ => fun _ h => Option.some.inj h ▸ ⟨_, fun _ => rfl⟩
  | .vext _ _ => fun _ h => Option.some.inj h ▸ ⟨_, fun _ => rfl⟩
  | .vins _ _ => fun _ h => Option.some.inj h ▸ ⟨_, fun _ => rfl⟩
  | .vperm _ _ => fun _ h => Option.some.inj h ▸ ⟨_, fun _ => rfl⟩
  | .vpermMsk _ _ _ => fun _ h => Option.some.inj h ▸ ⟨_, fun _ => rfl⟩
  | .vshift _ _ => fun _ h => Option.some.inj h ▸ ⟨_, fun _ => rfl⟩
  | .vshiftMsk _ _ _ => fun _ h => Option.some.inj h ▸ ⟨_, fun _ => rfl⟩
  | .vrot _ _ => fun _ h => Option.some.inj h ▸ ⟨_, fun _ => rfl⟩
  | .vrotMsk _ _ _ => fun _ h => Option.some.inj h ▸ ⟨_, fun _ => rfl⟩
  | .vsum _ _ => fun _ h => Option.some.inj h ▸ ⟨_, fun _ => rfl⟩
  | .vsumMsk _ _ _ => fun _ h => Option.some.inj h ▸ ⟨_, fun _ => rfl⟩
  | .vmaxr _ _ => fun _ h => Option.some.inj h ▸ ⟨_, fun _ => rfl⟩
  | .vmaxrMsk _ _ _ => fun _ h => Option.some.inj h ▸ ⟨_, fun _ => rfl⟩
  | .vminr _ _ => fun _ h => Option.some.inj h ▸ ⟨_, fun _ => rfl⟩
  | .vminrMsk _ _ _ => fun _ h => Option.some.inj h ▸ ⟨_, fun _ => rfl⟩
  | .mand _ _ => fun _ h => Option.some.inj h ▸ ⟨_, fun _ => rfl⟩
  | .mor _ _ => fun _ h => Option.some.inj h ▸ ⟨_, fun _ => rfl⟩
  | .mxor _ _ => fun _ h => Option.some.inj h ▸ ⟨_, fun _ => rfl⟩
  | .mnot _ _ => fun _ h => Option.some.inj h ▸ ⟨_, fun _ => rfl⟩
  | .mpop _ _ => fun _ h => Option.some.inj h ▸ ⟨_, fun _ => rfl⟩
  | .mfirst _ _ => fun _ h => Option.some.inj h ▸ ⟨_, fun _ => rfl⟩
  | .vvalid _ _ => fun _ h => Option.some.inj h ▸ ⟨_, fun _ => rfl⟩
  | .vmov _ _ => fun _ h => Option.some.inj h ▸ ⟨_, fun _ => rfl⟩
  | .vmovMsk _ _ _ => fun _ h => Option.some.inj h ▸ ⟨_, fun _ => rfl⟩
  | .vmovAnd _ _ => fun _ h => Option.some.inj h ▸ ⟨_, fun _ => rfl⟩
  | .vmovAndMsk _ _ _ => fun _ h => Option.some.inj h ▸ ⟨_, fun _ => rfl⟩
  | .vmovSet _ _ => fun _ h => Option.some.inj h ▸ ⟨_, fun _ => rfl⟩
  | .vmovSetMsk _ _ _ => fun _ h => Option.some.inj h ▸ ⟨_, fun _ => rfl⟩
  | .vrcp _ _ => fun _ h => Option.some.inj h ▸ ⟨_, fun _ => rfl⟩
  | .vrcpMsk _ _ _ => fun _ h => Option.some.inj h ▸ ⟨_, fun _ => rfl⟩
  | .vrsqrt _ _ => fun _ h => Option.some.inj h ▸ ⟨_, fun _ => rfl⟩
  | .vrsqrtMsk _ _ _ => fun _ h => Option.some.inj h ▸ ⟨_, fun _ => rfl⟩
  | .vsqrt _ _ => fun _ h => Option.some.inj h ▸ ⟨_, fun _ => rfl⟩
  | .vsqrtMsk _ _ _ => fun _ h => Option.some.inj h ▸ ⟨_, fun _ => rfl⟩
  | .vexp2 _ _ => fun _ h => Option.some.inj h ▸ ⟨_, fun _ => rfl⟩
  | .vexp2Msk _ _ _ => fun _ h => Option.some.inj h ▸ ⟨_, fun _ => rfl⟩
  | .vlog2 _ _ => fun _ h => Option.some.inj h ▸ ⟨_, fun _ => rfl⟩
  | .vlog2Msk _ _ _ => fun _ h => Option.some.inj h ▸ ⟨_, fun _ => rfl⟩
  | .vtanh _ _ => fun _ h => Option.some.inj h ▸ ⟨_, fun _ => rfl⟩
  | .vtanhMsk _ _ _ => fun _ h => Option.some.inj h ▸ ⟨_, fun _ => rfl⟩
  | .vsigm _ _ => fun _ h => Option.some.inj h ▸ ⟨_, fun _ => rfl⟩
  | .vsigmMsk _ _ _ => fun _ h => Option.some.inj h ▸ ⟨_, fun _ => rfl⟩
  | .vrand _ _ => fun _ h => Option.some.inj h ▸ ⟨_, fun _ => rfl⟩
  | .vrandMsk _ _ _ => fun _ h => Option.some.inj h ▸ ⟨_, fun _ => rfl⟩
  | .vcvt _ _ => fun _ h => Option.some.inj h ▸ ⟨_, fun _ => rfl⟩
  | .vpack _ _ => fun _ h => Option.some.inj h ▸ ⟨_, fun _ => rfl⟩
  | .vunpack _ _ => fun _ h => Option.some.inj h ▸ ⟨_, fun _ => rfl⟩
  | .vscale _ _ => fun _ h => Option.some.inj h ▸ ⟨_, fun _ => rfl⟩
  | .vscaleMsk _ _ _ => fun _ h => Option.some.inj h ▸ ⟨_, fun _ => rfl⟩
  | .ld _ _ => fun _ h => Option.some.inj h ▸ ⟨_, fun _ => rfl⟩
  | .ldExt _ _ => fun _ h => Option.some.inj h ▸ ⟨_, fun _ => rfl⟩
  | .st _ _ => fun _ h => Option.some.inj h ▸ ⟨_, fun _ => rfl⟩
  | .stExt _ _ => fun _ h => Option.some.inj h ▸ ⟨_, fun _ => rfl⟩
  | .vld _ _ => fun _ h => Option.some.inj h ▸ ⟨_, fun _ => rfl⟩
  | .vldExt _ _ => fun _ h => Option.some.inj h ▸ ⟨_, fun _ => rfl⟩
  | .vst _ _ => fun _ h => Option.some.inj h ▸ ⟨_, fun _ => rfl⟩
  | .vstExt _ _ => fun _ h => Option.some.inj h ▸ ⟨_, fun _ => rfl⟩
  | .vldm _ _ => fun _ h => Option.some.inj h ▸ ⟨_, fun _ => rfl⟩
  | .vldmExt _ _ => fun _ h => Option.some.inj h ▸ ⟨_, fun _ => rfl⟩
  | .vstm _ _ => fun _ h => Option.some.inj h ▸ ⟨_, fun _ => rfl⟩
  | .vstmExt _ _ => fun _ h => Option.some.inj h ▸ ⟨_, fun _ => rfl⟩
  | .gld _ _ => fun _ h => Option.some.inj h ▸ ⟨_, fun _ => rfl⟩
  | .gst _ _ => fun _ h => Option.some.inj h ▸ ⟨_, fun _ => rfl⟩
  | .amoAdd _ _ => fun _ h => Option.some.inj h ▸ ⟨_, fun _ => rfl⟩
  | .amoMin _ _ => fun _ h => Option.some.inj h ▸ ⟨_, fun _ => rfl⟩
  | .amoMax _ _ => fun _ h => Option.some.inj h ▸ ⟨_, fun _ => rfl⟩
  | .amoSwap _ _ => fun _ h => Option.some.inj h ▸ ⟨_, fun _ => rfl⟩
  | .amoCas _ _ => fun _ h => Option.some.inj h ▸ ⟨_, fun _ => rfl⟩
  | .amoFadd _ _ => fun _ h => Option.some.inj h ▸ ⟨_, fun _ => rfl⟩
  | .xlat _ _ => fun _ h => Option.some.inj h ▸ ⟨_, fun _ => rfl⟩
  | .hinv _ _ => fun _ h => Option.some.inj h ▸ ⟨_, fun _ => rfl⟩
  | .tld _ _ => fun _ h => Option.some.inj h ▸ ⟨_, fun _ => rfl⟩
  | .tldTimed _ _ => fun _ h => Option.some.inj h ▸ ⟨_, fun _ => rfl⟩
  | .tst _ _ => fun _ h => Option.some.inj h ▸ ⟨_, fun _ => rfl⟩
  | .tstTimed _ _ => fun _ h => Option.some.inj h ▸ ⟨_, fun _ => rfl⟩
  | .pf _ _ => fun _ h => Option.some.inj h ▸ ⟨_, fun _ => rfl⟩
  | .fenceG _ => fun _ h => Option.some.inj h ▸ ⟨_, fun _ => rfl⟩
  | .fenceE _ => fun _ h => Option.some.inj h ▸ ⟨_, fun _ => rfl⟩
  | .fenceN _ => fun _ h => Option.some.inj h ▸ ⟨_, fun _ => rfl⟩
  | .fenceA _ => fun _ h => Option.some.inj h ▸ ⟨_, fun _ => rfl⟩
  | .bankmode _ _ => fun _ h => Option.some.inj h ▸ ⟨_, fun _ => rfl⟩
  | .cinv _ _ => fun _ h => Option.some.inj h ▸ ⟨_, fun _ => rfl⟩
  | .cinva _ => fun _ h => Option.some.inj h ▸ ⟨_, fun _ => rfl⟩
  | .qset _ _ => fun _ h => Option.some.inj h ▸ ⟨_, fun _ => rfl⟩
  | .qget _ _ => fun _ h => Option.some.inj h ▸ ⟨_, fun _ => rfl⟩
  | .mma _ _ => fun _ h => Option.some.inj h ▸ ⟨_, fun _ => rfl⟩
  | .mmag _ _ => fun _ h => Option.some.inj h ▸ ⟨_, fun _ => rfl⟩
  | .aalloc _ _ => fun _ h => Option.some.inj h ▸ ⟨_, fun _ => rfl⟩
  | .afree _ _ => fun _ h => Option.some.inj h ▸ ⟨_, fun _ => rfl⟩
  | .aown _ _ => fun _ h => Option.some.inj h ▸ ⟨_, fun _ => rfl⟩
  | .aownRel _ _ => fun _ h => Option.some.inj h ▸ ⟨_, fun _ => rfl⟩
  | .aclr _ _ => fun _ h => Option.some.inj h ▸ ⟨_, fun _ => rfl⟩
  | .adrain _ _ => fun _ h => Option.some.inj h ▸ ⟨_, fun _ => rfl⟩
  | .aread _ _ => fun _ h => Option.some.inj h ▸ ⟨_, fun _ => rfl⟩
  | .scanAdd _ _ => fun _ h => Option.some.inj h ▸ ⟨_, fun _ => rfl⟩
  | .scanAddInit _ _ => fun _ h => Option.some.inj h ▸ ⟨_, fun _ => rfl⟩
  | .scanMul _ _ => fun _ h => Option.some.inj h ▸ ⟨_, fun _ => rfl⟩
  | .scanMulInit _ _ => fun _ h => Option.some.inj h ▸ ⟨_, fun _ => rfl⟩
  | .scanMax _ _ => fun _ h => Option.some.inj h ▸ ⟨_, fun _ => rfl⟩
  | .scanMaxInit _ _ => fun _ h => Option.some.inj h ▸ ⟨_, fun _ => rfl⟩
  | .scanMin _ _ => fun _ h => Option.some.inj h ▸ ⟨_, fun _ => rfl⟩
  | .scanMinInit _ _ => fun _ h => Option.some.inj h ▸ ⟨_, fun _ => rfl⟩
  | .scanAffine _ _ => fun _ h => Option.some.inj h ▸ ⟨_, fun _ => rfl⟩
  | .scanLse _ _ => fun _ h => Option.some.inj h ▸ ⟨_, fun _ => rfl⟩
  | .scanMoment _ _ => fun _ h => Option.some.inj h ▸ ⟨_, fun _ => rfl⟩
  | .scanMomentInit _ _ => fun _ h => Option.some.inj h ▸ ⟨_, fun _ => rfl⟩
  | .scanUser _ _ => fun _ h => Option.some.inj h ▸ ⟨_, fun _ => rfl⟩
  | .scanUserExt _ _ => fun _ h => Option.some.inj h ▸ ⟨_, fun _ => rfl⟩
  | .scdef _ _ => fun _ h => Option.some.inj h ▸ ⟨_, fun _ => rfl⟩
  | .mupd _ _ => fun _ h => Option.some.inj h ▸ ⟨_, fun _ => rfl⟩
  | .mupdw _ _ => fun _ h => Option.some.inj h ▸ ⟨_, fun _ => rfl⟩
  | .mupdwStream _ _ => fun _ h => Option.some.inj h ▸ ⟨_, fun _ => rfl⟩
  | .mmerge _ _ => fun _ h => Option.some.inj h ▸ ⟨_, fun _ => rfl⟩
  | .mmergeLanes _ _ => fun _ h => Option.some.inj h ▸ ⟨_, fun _ => rfl⟩
  | .mclr _ _ => fun _ h => Option.some.inj h ▸ ⟨_, fun _ => rfl⟩
  | .mdrain _ _ => fun _ h => Option.some.inj h ▸ ⟨_, fun _ => rfl⟩
  | .mdrainNorm _ _ => fun _ h => Option.some.inj h ▸ ⟨_, fun _ => rfl⟩
  | .mld _ _ => fun _ h => Option.some.inj h ▸ ⟨_, fun _ => rfl⟩
  | .mst _ _ => fun _ h => Option.some.inj h ▸ ⟨_, fun _ => rfl⟩
  | .cpy _ _ => fun _ h => Option.some.inj h ▸ ⟨_, fun _ => rfl⟩
  | .cpy2d _ _ => fun _ h => Option.some.inj h ▸ ⟨_, fun _ => rfl⟩
  | .fill _ _ => fun _ h => Option.some.inj h ▸ ⟨_, fun _ => rfl⟩
  | .pub _ _ => fun _ h => Option.some.inj h ▸ ⟨_, fun _ => rfl⟩
  | .pubIndexed _ _ => fun _ h => Option.some.inj h ▸ ⟨_, fun _ => rfl⟩
  | .pubeos _ _ => fun _ h => Option.some.inj h ▸ ⟨_, fun _ => rfl⟩
  | .fetch _ _ => fun _ h => Option.some.inj h ▸ ⟨_, fun _ => rfl⟩
  | .fetchIndexed _ _ => fun _ h => Option.some.inj h ▸ ⟨_, fun _ => rfl⟩
  | .subq _ _ => fun _ h => Option.some.inj h ▸ ⟨_, fun _ => rfl⟩
  | .hbar _ => fun _ h => Option.some.inj h ▸ ⟨_, fun _ => rfl⟩
  | .hbarArrive _ => fun _ h => Option.some.inj h ▸ ⟨_, fun _ => rfl⟩
  | .hbarWait _ => fun _ h => Option.some.inj h ▸ ⟨_, fun _ => rfl⟩
  | .coll _ _ => fun _ h => Option.some.inj h ▸ ⟨_, fun _ => rfl⟩
  | .collRecv _ _ => fun _ h => Option.some.inj h ▸ ⟨_, fun _ => rfl⟩
  | .collW _ _ => fun _ h => Option.some.inj h ▸ ⟨_, fun _ => rfl⟩
  | .collRecvW _ _ => fun _ h => Option.some.inj h ▸ ⟨_, fun _ => rfl⟩
  | .cmark _ _ => fun _ h => Option.some.inj h ▸ ⟨_, fun _ => rfl⟩
  | .cmarkEnd _ _ => fun _ h => Option.some.inj h ▸ ⟨_, fun _ => rfl⟩
  | .csend _ _ => fun _ h => Option.some.inj h ▸ ⟨_, fun _ => rfl⟩
  | .crecv _ _ => fun _ h => Option.some.inj h ▸ ⟨_, fun _ => rfl⟩
  | .cbar _ => fun _ h => Option.some.inj h ▸ ⟨_, fun _ => rfl⟩
  | .configurationRestart => fun _ h => nomatch h
  | .deepTierLoss _ => fun _ h => nomatch h
  | .syncLocked => fun _ h => nomatch h
  | .emptyBundle _ => fun _ h => nomatch h
  | .unassignedOpcode _ _ => fun _ h => nomatch h
  | .rePlacement _ _ _ => fun _ h => nomatch h
  | .newHealthRecord _ => fun _ h => nomatch h
  | .stewardFrameFill _ _ => fun _ h => nomatch h

/-- An instruction with a word answers a next state (06 R176). -/
theorem exec_goes {i : Instr} {e : SlotWord} (h : encode i = some e) (s : State) : Goes (exec i s) := by
  obtain ⟨f, hf⟩ := exec_isSlot i e h
  rw [hf]; exact slot_goes ..


end Sys2Proof.Machine
end

