-- ==== Sys2Proof/Laws/Memory.lean ====
section
/-! SUPPORT. Sys2Proof/Laws/Memory.lean: reading after writing, what a write leaves alone, and that every memory operation keeps the canonical form. -/

set_option Elab.async false

namespace Sys2Proof.Machine

/-! ## Canonical form -/

theorem Memory.wfFrom_mono {lo lo' : Nat} (h : lo' ≤ lo) : ∀ {m : Memory}, m.wfFrom lo = true → m.wfFrom lo' = true
  | [], _ => rfl
  | (a, b) :: m, w => by
    simp only [Memory.wfFrom, Bool.and_eq_true, decide_eq_true_eq] at w ⊢
    exact ⟨⟨by omega, w.1.2⟩, w.2⟩

theorem Memory.set_wfFrom {x : Nat} {v : Byte} : ∀ {lo : Nat} {m : Memory}, lo ≤ x → m.wfFrom lo = true → (m.set x v).wfFrom lo = true
  | lo, [], hx, _ => by
    unfold Memory.set; split <;> simp_all [Memory.wfFrom]
  | lo, (a, b) :: m, hx, w => by
    simp only [Memory.wfFrom, Bool.and_eq_true, decide_eq_true_eq] at w
    unfold Memory.set
    split
    · split
      · simp only [Memory.wfFrom, Bool.and_eq_true, decide_eq_true_eq]; exact ⟨⟨w.1.1, w.1.2⟩, w.2⟩
      · simp only [Memory.wfFrom, Bool.and_eq_true, decide_eq_true_eq]
        refine ⟨⟨hx, by simpa using ‹¬v = 0›⟩, ⟨⟨by omega, w.1.2⟩, w.2⟩⟩
    · split
      · subst x
        split
        · exact Memory.wfFrom_mono (by omega) w.2
        · simp only [Memory.wfFrom, Bool.and_eq_true, decide_eq_true_eq]
          exact ⟨⟨hx, by simpa using ‹¬v = 0›⟩, w.2⟩
      · simp only [Memory.wfFrom, Bool.and_eq_true, decide_eq_true_eq]
        exact ⟨w.1, Memory.set_wfFrom (by omega) w.2⟩

/-- A write of a byte keeps the canonical form. -/
theorem Memory.set_wf {m : Memory} (w : m.wf = true) (x : Nat) (v : Byte) : (m.set x v).wf = true :=
  Memory.set_wfFrom (Nat.zero_le _) w

/-- Writes of bytes keep the canonical form. -/
theorem Memory.put_wf : ∀ (l : List (Nat × Byte)) {m : Memory}, m.wf = true → (m.put l).wf = true
  | [], _, w => w
  | (a, b) :: l, _, w => Memory.put_wf l (Memory.set_wf w a b)

theorem Memory.filter_wfFrom (q : Host.Cell → Bool) : ∀ {lo : Nat} {m : Memory}, m.wfFrom lo = true → Memory.wfFrom lo (List.filter q m) = true
  | _, [], _ => rfl
  | lo, (a, b) :: m, w => by
    simp only [Memory.wfFrom, Bool.and_eq_true, decide_eq_true_eq] at w
    rw [List.filter_cons]
    split
    · simp only [Memory.wfFrom, Bool.and_eq_true, decide_eq_true_eq]
      exact ⟨w.1, Memory.filter_wfFrom q w.2⟩
    · exact Memory.wfFrom_mono (by omega) (Memory.filter_wfFrom q w.2)

/-- Clearing a range keeps the canonical form. -/
theorem Memory.clear_wf {m : Memory} (w : m.wf = true) (lo n : Nat) : (m.clear lo n).wf = true := Memory.filter_wfFrom _ w

/-- Keeping ranges keeps the canonical form. -/
theorem Memory.keep_wf {m : Memory} (w : m.wf = true) (rs : List (Nat × Nat)) : (m.keep rs).wf = true := Memory.filter_wfFrom _ w

/-! ## Reading -/

/-- Below a memory's first address every byte reads 0. -/
theorem Memory.get_below {x : Nat} : ∀ {lo : Nat} {m : Memory}, x < lo → m.wfFrom lo = true → m.get x = 0
  | _, [], _, _ => rfl
  | lo, (a, b) :: m, hx, w => by
    simp only [Memory.wfFrom, Bool.and_eq_true, decide_eq_true_eq] at w
    unfold Memory.get
    rw [if_neg (by omega)]
    exact Memory.get_below (by omega) w.2

theorem Memory.get_set_from {x : Nat} {v : Byte} : ∀ {lo : Nat} {m : Memory}, m.wfFrom lo = true → (m.set x v).get x = v
  | _, [], _ => by
    unfold Memory.set; split <;> simp_all [Memory.get]
  | lo, (a, b) :: m, w => by
    simp only [Memory.wfFrom, Bool.and_eq_true, decide_eq_true_eq] at w
    unfold Memory.set
    split
    · split
      · unfold Memory.get
        rw [if_neg (by omega), Memory.get_below (by omega) w.2]; exact ‹v = 0›.symm
      · simp [Memory.get]
    · split
      · subst x
        split
        · rw [Memory.get_below (Nat.lt_succ_self a) w.2]; exact ‹v = 0›.symm
        · simp [Memory.get]
      · unfold Memory.get
        rw [if_neg (by omega)]
        exact Memory.get_set_from w.2

/-- A byte written is what is read there. -/
theorem Memory.get_set {m : Memory} (w : m.wf = true) (x : Nat) (v : Byte) : (m.set x v).get x = v := Memory.get_set_from w

/-- An entry of another address is passed over. -/
theorem Memory.get_cons_ne {a y : Nat} (h : a ≠ y) (b : Byte) (m : Memory) : Memory.get ((a, b) :: m) y = m.get y := by
  simp only [Memory.get, if_neg h]

/-- A write leaves every other byte alone. -/
theorem Memory.get_set_ne {x y : Nat} (h : y ≠ x) (v : Byte) : ∀ (m : Memory), (m.set x v).get y = m.get y
  | [] => by
    unfold Memory.set; split
    · rfl
    · exact Memory.get_cons_ne (Ne.symm h) v []
  | (a, b) :: m => by
    unfold Memory.set
    split
    · split
      · rfl
      · exact Memory.get_cons_ne (Ne.symm h) v _
    · split
      · subst x
        split
        · exact (Memory.get_cons_ne (Ne.symm h) b m).symm
        · rw [Memory.get_cons_ne (Ne.symm h), Memory.get_cons_ne (Ne.symm h)]
      · simp only [Memory.get, Memory.get_set_ne h v m]

/-- Writes leave every byte they do not name alone. -/
theorem Memory.get_put_ne {y : Nat} : ∀ (l : List (Nat × Byte)) (m : Memory), (∀ c ∈ l, c.1 ≠ y) → (m.put l).get y = m.get y
  | [], _, _ => rfl
  | (a, b) :: l, m, h => by
    unfold Memory.put
    rw [Memory.get_put_ne l _ fun c hc => h c (List.mem_cons_of_mem _ hc)]
    exact Memory.get_set_ne (fun e => h (a, b) (List.mem_cons_self ..) e.symm) b m

/-- The cells of bytes laid out from an address lie in their range. -/
theorem mem_cellsAt {a : Nat} : ∀ {l : List Byte} {n : Nat}, a ∈ (cellsAt n l).map (·.1) → n ≤ a ∧ a < n + l.length
  | [], _, h => by simp [cellsAt] at h
  | b :: l, n, h => by
    simp only [cellsAt, List.map_cons, List.mem_cons, List.length_cons] at h ⊢
    rcases h with h | h
    · omega
    · have := mem_cellsAt h; omega

/-- Bytes laid out from an address, read back. -/
theorem Memory.get_put_cells {y : Nat} : ∀ (l : List Byte) (a : Nat) {m : Memory} (_ : m.wf = true) (h : a ≤ y ∧ y < a + l.length),
    (m.put (cellsAt a l)).get y = l[y - a]'(by omega)
  | [], _, _, _, h => by simp at h; omega
  | b :: l, a, m, w, h => by
    simp only [cellsAt, Memory.put]
    by_cases e : y = a
    · subst y
      rw [Memory.get_put_ne]
      · simp [Memory.get_set w]
      · intro c hc e
        have := mem_cellsAt (List.mem_map_of_mem (f := (·.1)) hc)
        omega
    · have h' : a + 1 ≤ y ∧ y < a + 1 + l.length := by simp only [List.length_cons] at h; omega
      rw [Memory.get_put_cells l (a + 1) (Memory.set_wf w a b) h']
      have e2 : y - a = (y - (a + 1)) + 1 := by omega
      simp [e2]

/-- Outside the cells of bytes laid out from an address nothing changes. -/
theorem Memory.get_put_outside {y a : Nat} (l : List Byte) (m : Memory) (h : y < a ∨ a + l.length ≤ y) : (m.put (cellsAt a l)).get y = m.get y :=
  Memory.get_put_ne _ _ fun c hc e => by
    have := mem_cellsAt (List.mem_map_of_mem (f := (·.1)) hc); omega

/-- Two memories in canonical form that read alike are one. -/
theorem Memory.ext_from : ∀ {lo : Nat} {m k : Memory}, m.wfFrom lo = true → k.wfFrom lo = true → (∀ x, m.get x = k.get x) → m = k
  | _, [], [], _, _, _ => rfl
  | lo, [], (a, b) :: k, _, w, h => by
    simp only [Memory.wfFrom, Bool.and_eq_true, decide_eq_true_eq, bne_iff_ne] at w
    have := h a; simp [Memory.get] at this; exact absurd this.symm w.1.2
  | lo, (a, b) :: m, [], w, _, h => by
    simp only [Memory.wfFrom, Bool.and_eq_true, decide_eq_true_eq, bne_iff_ne] at w
    have := h a; simp [Memory.get] at this; exact absurd this w.1.2
  | lo, (a, b) :: m, (c, d) :: k, w, v, h => by
    simp only [Memory.wfFrom, Bool.and_eq_true, decide_eq_true_eq, bne_iff_ne] at w v
    have hac : a = c := by
      rcases Nat.lt_trichotomy a c with e | e | e
      · have := h a
        simp only [Memory.get, if_true, if_neg (show ¬c = a by omega)] at this
        rw [Memory.get_below (show a < c + 1 by omega) v.2] at this
        exact absurd this w.1.2
      · exact e
      · have := h c
        simp only [Memory.get, if_true, if_neg (show ¬a = c by omega)] at this
        rw [Memory.get_below (show c < a + 1 by omega) w.2] at this
        exact absurd this.symm v.1.2
    subst c
    have hb : b = d := by have := h a; simpa [Memory.get] using this
    subst d
    have : m = k := Memory.ext_from w.2 v.2 fun x => by
      by_cases e : a = x
      · subst x; rw [Memory.get_below (Nat.lt_succ_self a) w.2, Memory.get_below (Nat.lt_succ_self a) v.2]
      · have := h x; simpa [Memory.get, e] using this
    rw [this]

/-- Equal memories are equal data. -/
theorem Memory.ext_wf {m k : Memory} (w : m.wf = true) (v : k.wf = true) (h : ∀ x, m.get x = k.get x) : m = k := Memory.ext_from w v h

end Sys2Proof.Machine
end

