-- ==== Sys2Proof/Laws/Module.lean ====
section
/-! SUPPORT. Sys2Proof/Laws/Module.lean: what a core hands over changes in the module: requests, walks, tokens, gates and messages; of the cores,
its own copies and SEQ; and no memory. -/

set_option Elab.async false

namespace Sys2Proof.Machine

/-! ## Reading a list of cores -/

/-- The value just set. -/
theorem assoc_set_self {α : Type} (l : List (Nat × α)) (n : Nat) (x : α) : assoc (assocSet l n x) n = some x := by
  induction l with
  | nil => simp [assocSet, assoc]
  | cons k l ih =>
    unfold assocSet
    by_cases h : k.1 = n
    · simp [h, assoc]
    · by_cases h2 : n < k.1
      · simp [h, h2, assoc]
      · simp [h, h2, assoc, ih]

/-- Every other value is what it was. -/
theorem assoc_set_ne {α : Type} (l : List (Nat × α)) {n m : Nat} (x : α) (h : m ≠ n) : assoc (assocSet l n x) m = assoc l m := by
  induction l with
  | nil => simp [assocSet, assoc, Ne.symm h]
  | cons k l ih =>
    unfold assocSet
    by_cases h1 : k.1 = n
    · subst h1; simp [assoc, Ne.symm h]
    · by_cases h2 : n < k.1
      · simp only [h1, h2, if_false, if_true]
        rw [assoc]; rw [if_neg (Ne.symm h)]
      · simp only [h1, h2, if_false]
        rw [assoc, assoc, ih]

@[simp] theorem core_setCore (s : State) (n : Nat) (c : Core) : (s.setCore n c).core n = some c := assoc_set_self _ _ _
theorem core_setCore_ne (s : State) {n m : Nat} (c : Core) (h : m ≠ n) : (s.setCore n c).core m = s.core m := assoc_set_ne _ _ h

/-! ## One handed-over thing -/

/-- The fields of the module that nothing handed over by a core changes, and the cores but its own. -/
structure SameModule (s t : State) (n : Nat) : Prop where
  pmem    : t.pmem = s.pmem
  smem    : t.smem = s.smem
  others  : ∀ m, m ≠ n → t.core m = s.core m
  wcc     : t.wcc = s.wcc
  slices  : t.slices = s.slices
  routers : t.routers = s.routers
  ing     : t.ing = s.ing
  preempt : t.preempt = s.preempt
  tdis    : t.tdis = s.tdis
  caps    : t.caps = s.caps
  parts   : t.parts = s.parts
  power   : t.power = s.power

theorem SameModule.refl (s : State) (n : Nat) : SameModule s s n := ⟨rfl, rfl, fun _ _ => rfl, rfl, rfl, rfl, rfl, rfl, rfl, rfl, rfl, rfl⟩

theorem SameModule.trans {s t u : State} {n : Nat} (h : SameModule s t n) (k : SameModule t u n) : SameModule s u n :=
  ⟨k.1.trans h.1, k.2.trans h.2, fun m hm => (k.3 m hm).trans (h.3 m hm), k.4.trans h.4, k.5.trans h.5, k.6.trans h.6, k.7.trans h.7,
   k.8.trans h.8, k.9.trans h.9, k.10.trans h.10, k.11.trans h.11, k.12.trans h.12⟩

/-- A core written. -/
theorem sameModule_setCore (s : State) (n : Nat) (c : Core) : SameModule s (s.setCore n c) n :=
  ⟨rfl, rfl, fun _ h => core_setCore_ne s c h, rfl, rfl, rfl, rfl, rfl, rfl, rfl, rfl, rfl⟩

theorem sameModule_onGate (s : State) (g : GateId) (f : Gate → Gate) (n : Nat) : SameModule s (s.onGate g f) n :=
  ⟨rfl, rfl, fun _ _ => rfl, rfl, rfl, rfl, rfl, rfl, rfl, rfl, rfl, rfl⟩

/-- A trap that leaves a core. -/
theorem sameModule_trapped (s : State) (n : Nat) (t : TrapInfo) : SameModule s (s.trapped n t) n ∧ (s.trapped n t).core n = s.core n := by
  unfold State.trapped
  simp only
  split
  · exact ⟨⟨rfl, rfl, fun _ _ => rfl, rfl, rfl, rfl, rfl, rfl, rfl, rfl, rfl, rfl⟩, rfl⟩
  · split <;> split <;> (try split) <;>
      exact ⟨⟨rfl, rfl, fun _ _ => rfl, rfl, rfl, rfl, rfl, rfl, rfl, rfl, rfl, rfl⟩, rfl⟩

/-- One thing handed over. -/
theorem sameModule_apply (s : State) (n : Nat) (o : Out) : SameModule s (s.apply n o) n := by
  cases o with
  | request kind va pa size chained =>
    simp only [State.apply]
    split
    · exact ⟨rfl, rfl, fun m h => assoc_set_ne _ _ h, rfl, rfl, rfl, rfl, rfl, rfl, rfl, rfl, rfl⟩
    · exact .refl s n
  | walk h va => exact ⟨rfl, rfl, fun _ _ => rfl, rfl, rfl, rfl, rfl, rfl, rfl, rfl, rfl, rfl⟩
  | marked => exact ⟨rfl, rfl, fun _ _ => rfl, rfl, rfl, rfl, rfl, rfl, rfl, rfl, rfl, rfl⟩
  | trapped t => exact (sameModule_trapped s n t).1
  | triggered =>
    simp only [State.apply]
    split
    · split
      · split
        · exact .refl s n
        · exact ⟨rfl, rfl, fun _ _ => rfl, rfl, rfl, rfl, rfl, rfl, rfl, rfl, rfl, rfl⟩
      · exact .refl s n
    · exact .refl s n

/-- All a core hands over. -/
theorem sameModule_applyAll (n : Nat) : ∀ (os : List Out) (s : State), SameModule s (s.applyAll n os) n
  | [], s => .refl s n
  | o :: os, s => (sameModule_apply s n o).trans (sameModule_applyAll n os _)

/-- The core itself after one thing handed over: its copies and SEQ aside, what it was. -/
theorem core_apply (s : State) (n : Nat) (o : Out) {c : Core} (h : s.core n = some c) :
    ∃ k q, (s.apply n o).core n = some { c with copies := k, seq := q } := by
  cases o with
  | request kind va pa size chained =>
    simp only [State.apply, h]
    exact ⟨_, _, assoc_set_self _ _ _⟩
  | walk hh va => exact ⟨c.copies, c.seq, h⟩
  | marked => exact ⟨c.copies, c.seq, h⟩
  | trapped t => exact ⟨c.copies, c.seq, (sameModule_trapped s n t).2.trans h⟩
  | triggered =>
    simp only [State.apply, h]
    refine ⟨c.copies, c.seq, ?_⟩
    split
    · split <;> exact h
    · exact h

/-- The core itself after all it hands over. -/
theorem core_applyAll (n : Nat) : ∀ (os : List Out) (s : State) {c : Core}, s.core n = some c →
    ∃ k q, (s.applyAll n os).core n = some { c with copies := k, seq := q }
  | [], _, c, h => ⟨c.copies, c.seq, h⟩
  | o :: os, s, _, h => by
    obtain ⟨k, q, h1⟩ := core_apply s n o h
    obtain ⟨k', q', h2⟩ := core_applyAll n os _ h1
    exact ⟨k', q', h2⟩

/-- A core's change and what it hands over: the core after it. -/
theorem core_set_applyAll (s : State) (n : Nat) (c : Core) (os : List Out) :
    ∃ k q, ((s.setCore n c).applyAll n os).core n = some { c with copies := k, seq := q } :=
  core_applyAll n os _ (core_setCore s n c)

/-- A core's change and what it hands over leave the rest of the module. -/
theorem sameModule_set_applyAll (s : State) (n : Nat) (c : Core) (os : List Out) :
    SameModule s ((s.setCore n c).applyAll n os) n := (sameModule_setCore s n c).trans (sameModule_applyAll n os _)

/-- A slot form leaves the rest of the module, whatever it does. -/
theorem sameModule_slot {closing : Bool} {p : Pred} {f : Sem} {s t : State} (h : slot closing p f s = .next t) : SameModule s t s.focus := by
  unfold slot at h
  injection h with h
  subst h
  unfold State.onCore
  split
  · exact .refl s _
  · exact sameModule_set_applyAll s _ _ _

end Sys2Proof.Machine
end

