-- ==== Sys2Proof/Laws/Group.lean ====
section
/-! SUPPORT. Sys2Proof/Laws/Group.lean: what the parts of a group's issue keep: the release of the gate, a mark, the boundary, the commit of effects, the
landing of results. -/

set_option Elab.async false

namespace Sys2Proof.Machine

/-! ## The gate's bytes -/

/-- A byte of memory after cells are written. -/
theorem get_put {a : Nat} : ∀ (l : List (Nat × Byte)) {m : Memory}, m.wf = true → (m.put l).get a = (cellAt l a).getD (m.get a)
  | [], _, _ => rfl
  | (x, b) :: l, m, w => by
    have h := get_put (a := a) l (Memory.set_wf w x b)
    have hp : m.put ((x, b) :: l) = (m.set x b).put l := rfl
    rw [hp, h, cellAt]
    cases cellAt l a with
    | some v => rfl
    | none =>
      by_cases hx : x = a
      · subst hx; simp [Memory.get_set w]
      · simp [hx, Memory.get_set_ne (Ne.symm hx)]

/-- What the LS slot reads of a gate and a scratchpad. -/
theorem localByte_eq (c : Core) (a : Nat) : c.localByte a = (gatedByte c.gate a).getD (c.spad.get a) := by
  unfold Core.localByte; cases gatedByte c.gate a <;> rfl

/-- The gate's release, entry by entry. -/
def releaseAll (l : List GateEntry) (r : Core × List Out) : Core × List Out :=
  l.foldl (fun r e => let q := r.1.releaseOne e; (q.1, r.2 ++ q.2)) r

/-- Release changes the scratchpad and the words in error, and writes the gate's bytes in order. -/
theorem releaseAll_core (l : List GateEntry) : ∀ (c : Core) (os : List Out),
    (releaseAll l (c, os)).1 = { c with spad := (releaseAll l (c, os)).1.spad, badWords := (releaseAll l (c, os)).1.badWords } ∧
      (c.spad.wf = true → (releaseAll l (c, os)).1.spad.wf = true ∧
        ∀ a, (releaseAll l (c, os)).1.spad.get a = (gatedByte l a).getD (c.spad.get a)) := by
  induction l with
  | nil => intro c os; exact ⟨rfl, fun h => ⟨h, fun a => rfl⟩⟩
  | cons e l ih =>
    intro c os
    have hs : releaseAll (e :: l) (c, os) = releaseAll l ((c.releaseOne e).1, os ++ (c.releaseOne e).2) := rfl
    rw [hs]
    obtain ⟨h1, h2⟩ := ih (c.releaseOne e).1 (os ++ (c.releaseOne e).2)
    generalize releaseAll l ((c.releaseOne e).1, os ++ (c.releaseOne e).2) = r at *
    cases hx : e.store with
    | scratch cells =>
      have hr : (c.releaseOne e).1 = c.putSpad cells := by unfold Core.releaseOne; rw [hx]
      rw [hr] at h1 h2
      refine ⟨h1, fun hw => ?_⟩
      obtain ⟨h3, h4⟩ := h2 (Memory.put_wf cells hw)
      refine ⟨h3, fun a => ?_⟩
      rw [h4 a, gatedByte, hx]
      have : (c.putSpad cells).spad.get a = (cellAt cells a).getD (c.spad.get a) := get_put cells hw
      rw [this]
      cases gatedByte l a <;> rfl
    | global va pa size x =>
      have hr : (c.releaseOne e).1 = c := by unfold Core.releaseOne; rw [hx]
      rw [hr] at h1 h2
      refine ⟨h1, fun hw => ?_⟩
      obtain ⟨h3, h4⟩ := h2 hw
      refine ⟨h3, fun a => ?_⟩
      rw [h4 a, gatedByte, hx]
      cases gatedByte l a <;> rfl

/-! ## A core that has passed a mark or a boundary -/

/-- `d` is `c` but for where it stands, its gate and scratchpad, its shadow and marks, its loops and its cached lines; the LS slot reads the
same bytes of both, and the same results are in flight. -/
structure Passed (c d : Core) : Prop where
  eq : d = { c with issue := d.issue, loops := d.loops, bundles := d.bundles, fetched := d.fetched, spad := d.spad, badWords := d.badWords,
                    gate := d.gate, shadow := d.shadow, flight := d.flight, fills := d.fills, cache := d.cache }
  bytes : c.spad.wf = true → d.spad.wf = true ∧ ∀ a, d.localByte a = c.localByte a
  flight : d.flight.map (fun f => (f.write, f.left)) = c.flight.map fun f => (f.write, f.left)

theorem Passed.refl (c : Core) : Passed c c := ⟨rfl, fun h => ⟨h, fun _ => rfl⟩, rfl⟩

theorem Passed.trans {c d e : Core} (h : Passed c d) (k : Passed d e) : Passed c e := by
  refine ⟨?_, fun hw => ?_, k.flight.trans h.flight⟩
  · have h1 := h.eq
    have h2 := k.eq
    rw [h1] at h2
    exact h2
  · obtain ⟨h1, h2⟩ := h.bytes hw
    obtain ⟨h3, h4⟩ := k.bytes h1
    exact ⟨h3, fun a => (h4 a).trans (h2 a)⟩

/-- The gate's release. -/
theorem release_passed (c : Core) : Passed c c.release.1 := by
  obtain ⟨h1, h2⟩ := releaseAll_core c.gate c []
  have h3 : c.release.1 = { (releaseAll c.gate (c, [])).1 with gate := [] } := rfl
  generalize releaseAll c.gate (c, []) = r at *
  rw [h3]
  refine ⟨?_, fun hw => ?_, ?_⟩
  · rw [h1]
  · obtain ⟨h4, h5⟩ := h2 hw
    refine ⟨h4, fun a => ?_⟩
    rw [localByte_eq, localByte_eq]
    exact h5 a
  · have := congrArg Core.flight h1
    exact congrArg _ this

/-- A mark. -/
theorem mark_passed (c : Core) : Passed c c.mark :=
  ⟨rfl, fun h => ⟨h, fun _ => rfl⟩, by simp [Core.mark, List.map_map, Function.comp_def]⟩

theorem releaseMark_passed (c : Core) : Passed c c.releaseMark.1 := (release_passed c).trans (mark_passed _)

/-- The place of a group, its loops, its counters and its fetch buffer changed. -/
theorem place_passed (c : Core) (i : Issue) (ls : List LoopEntry) (n : Nat) (fs : List Nat) :
    Passed c { c with issue := i, loops := ls, bundles := n, fetched := fs } := ⟨rfl, fun h => ⟨h, fun _ => rfl⟩, rfl⟩

theorem waited_passed (c : Core) : Passed c c.waited := ⟨rfl, fun h => ⟨h, fun _ => rfl⟩, rfl⟩

/-- The boundary after a bundle without a software trap. -/
theorem boundary_passed {c : Core} (b : Bundle) (m : Bool) (h : c.issue.soft = none) : Passed c (c.boundary b m).1 := by
  unfold Core.boundary
  simp only [h]
  split
  · exact (place_passed c _ _ _ _).trans (releaseMark_passed _)
  · exact place_passed c _ _ _ _

/-- What comes after a group. -/
theorem afterGroup_passed {c : Core} (m : Bool) (h : c.issue.soft = none) : Passed c (c.afterGroup m).1 := by
  unfold Core.afterGroup
  split
  · exact place_passed c _ _ _ _
  · split
    · split
      · exact (place_passed c _ _ _ _).trans (releaseMark_passed _)
      · exact place_passed c _ _ _ _
    · exact boundary_passed _ m h


/-! ## The effects of a group -/

/-- The register an effect writes or empties. -/
def Effect.touches : Effect → Option DestReg
  | .result w _ => some w.dest
  | .empty r => some (fullDest r)
  | .fill r _ => some (fullDest r)
  | .load r _ _ _ _ => some (.s r)
  | .amo _ r _ _ _ _ _ _ => some (.s r)
  | .xlat h _ => some (.h h)
  | .recvW _ w => some (.w w)
  | _ => none

theorem setBit_ne {n : Nat} (x : BitVec n) {k j : Nat} (b : Bool) (h : j ≠ k) : (setBit x k b).getLsbD j = x.getLsbD j := by
  have hp : (BitVec.ofNat n (2 ^ k)).getLsbD j = false := by
    simp only [BitVec.getLsbD_ofNat, Nat.testBit_two_pow]
    simp [Ne.symm h]
  unfold setBit
  split
  · rw [BitVec.getLsbD_or, hp, Bool.or_false]
  · rw [BitVec.getLsbD_and, BitVec.getLsbD_not, hp]
    by_cases hj : j < n
    · simp [hj]
    · simp [BitVec.getLsbD_of_ge x j (by omega)]

/-- The agreement of two cores on a register needs only their registers. -/
theorem agrees_of_regs {c d : Core} (h : d.regs = c.regs) (hq : d.q = c.q) (r : DestReg) : c.agrees d r := by
  cases r <;> simp only [Core.agrees, h, hq, and_self]

theorem agrees_trans {c d e : Core} {r : DestReg} (h : c.agrees d r) (k : d.agrees e r) : c.agrees e r := by
  cases r with
  | s r => exact ⟨k.1.trans h.1, k.2.trans h.2⟩
  | v r => exact ⟨k.1.trans h.1, k.2.trans h.2⟩
  | m r => exact k.trans h
  | p r => exact k.trans h
  | h r => exact ⟨k.1.trans h.1, k.2.trans h.2⟩
  | q r => exact k.trans h
  | w r => exact ⟨k.1.trans h.1, k.2.trans h.2⟩

/-- A register marked full or empty. -/
theorem setFull_agrees {c d : Core} {r : FullReg} {b : Bool} (h : d.regs = c.regs.setFull r b) (hq : d.q = c.q) {x : DestReg}
    (hx : fullDest r ≠ x) : c.agrees d x := by
  cases r with
  | s r =>
    cases x with
    | s y =>
      have : y ≠ r := fun e => hx (by rw [e]; rfl)
      refine ⟨by rw [h]; rfl, ?_⟩
      rw [h]
      simp only [Regs.full, Regs.setFull]
      rw [setBit_ne _ _ (fun e => this (Fin.ext e))]
    | v _ => exact ⟨by rw [h]; rfl, by rw [h]; rfl⟩
    | m _ => exact by simp only [Core.agrees, h]; rfl
    | p _ => exact by simp only [Core.agrees, h]; rfl
    | h _ => exact ⟨by rw [h]; rfl, by rw [h]; rfl⟩
    | q _ => exact by simp only [Core.agrees, hq]
    | w _ => exact ⟨by rw [h]; rfl, by rw [h]; rfl⟩
  | v r =>
    cases x with
    | v y =>
      have : y ≠ r := fun e => hx (by rw [e]; rfl)
      refine ⟨by rw [h]; rfl, ?_⟩
      rw [h]
      simp only [Regs.full, Regs.setFull]
      rw [setBit_ne _ _ (fun e => this (Fin.ext e))]
    | s _ => exact ⟨by rw [h]; rfl, by rw [h]; rfl⟩
    | m _ => exact by simp only [Core.agrees, h]; rfl
    | p _ => exact by simp only [Core.agrees, h]; rfl
    | h _ => exact ⟨by rw [h]; rfl, by rw [h]; rfl⟩
    | q _ => exact by simp only [Core.agrees, hq]
    | w _ => exact ⟨by rw [h]; rfl, by rw [h]; rfl⟩
  | h r =>
    cases x with
    | h y =>
      have : y ≠ r := fun e => hx (by rw [e]; rfl)
      refine ⟨by rw [h]; rfl, ?_⟩
      rw [h]
      simp only [Regs.full, Regs.setFull]
      rw [setBit_ne _ _ (fun e => this (Fin.ext e))]
    | s _ => exact ⟨by rw [h]; rfl, by rw [h]; rfl⟩
    | m _ => exact by simp only [Core.agrees, h]; rfl
    | p _ => exact by simp only [Core.agrees, h]; rfl
    | v _ => exact ⟨by rw [h]; rfl, by rw [h]; rfl⟩
    | q _ => exact by simp only [Core.agrees, hq]
    | w _ => exact ⟨by rw [h]; rfl, by rw [h]; rfl⟩
  | w r =>
    cases x with
    | w y =>
      have : y ≠ r := fun e => hx (by rw [e]; rfl)
      refine ⟨by rw [h]; rfl, ?_⟩
      rw [h]
      simp only [Regs.full, Regs.setFull]
      rw [setBit_ne _ _ (fun e => this (Fin.ext e))]
    | s _ => exact ⟨by rw [h]; rfl, by rw [h]; rfl⟩
    | m _ => exact by simp only [Core.agrees, h]; rfl
    | p _ => exact by simp only [Core.agrees, h]; rfl
    | v _ => exact ⟨by rw [h]; rfl, by rw [h]; rfl⟩
    | q _ => exact by simp only [Core.agrees, hq]
    | h _ => exact ⟨by rw [h]; rfl, by rw [h]; rfl⟩

theorem vec_set_ne {α : Type} {n : Nat} (v : Vector α n) {i j : Fin n} (x : α) (h : j ≠ i) : (v.set i x)[j] = v[j] := by
  have : (i : Nat) ≠ j := fun e => h (Fin.ext e.symm)
  simp [this]

/-- A write of one register leaves the others. -/
theorem write_agrees {c d : Core} {w : RegWrite} {x : DestReg} (h : d.regs = c.regs.write w) (hq : d.q = c.q ∨ ∃ r y, w = .q r y ∧ d.q = c.q.set r y)
    (hx : w.dest ≠ x) : c.agrees d x := by
  cases w with
  | s r y =>
    have hq : d.q = c.q := by rcases hq with h | ⟨_, _, h, _⟩; exact h; cases h
    simp only [Regs.write, Regs.mend] at h
    cases x with
    | s z =>
      have : z ≠ r := fun e => hx (by rw [e]; rfl)
      by_cases hr : r = 0
      · rw [if_pos hr] at h; exact agrees_of_regs h hq _
      · rw [if_neg hr] at h
        exact ⟨by rw [h]; exact vec_set_ne _ _ this, by rw [h]; rfl⟩
    | v _ | h _ | w _ => split at h <;> exact ⟨by rw [h], by rw [h]; try rfl⟩
    | m _ | p _ => split at h <;> simp only [Core.agrees, h]
    | q _ => simp only [Core.agrees, hq]
  | v r msk y =>
    have hq : d.q = c.q := by rcases hq with h | ⟨_, _, h, _⟩; exact h; cases h
    simp only [Regs.write, Regs.mend] at h
    cases x with
    | v z =>
      have : z ≠ r := fun e => hx (by rw [e]; rfl)
      split at h <;> exact ⟨by rw [h]; exact vec_set_ne _ _ this, by rw [h]; rfl⟩
    | s _ | h _ | w _ => split at h <;> exact ⟨by rw [h], by rw [h]; rfl⟩
    | m _ | p _ => split at h <;> simp only [Core.agrees, h]
    | q _ => simp only [Core.agrees, hq]
  | m r msk y =>
    have hq : d.q = c.q := by rcases hq with h | ⟨_, _, h, _⟩; exact h; cases h
    simp only [Regs.write] at h
    cases x with
    | m z =>
      have : z ≠ r := fun e => hx (by rw [e]; rfl)
      simp only [Core.agrees, h]; exact vec_set_ne _ _ this
    | s _ | v _ | h _ | w _ => exact ⟨by rw [h], by rw [h]; rfl⟩
    | p _ => simp only [Core.agrees, h]
    | q _ => simp only [Core.agrees, hq]
  | p r y =>
    have hq : d.q = c.q := by rcases hq with h | ⟨_, _, h, _⟩; exact h; cases h
    simp only [Regs.write] at h
    cases x with
    | p z =>
      have : z ≠ r := fun e => hx (by rw [e]; rfl)
      by_cases hr : r = 0
      · rw [if_pos hr] at h; exact agrees_of_regs h hq _
      · rw [if_neg hr] at h
        simp only [Core.agrees, h]; exact setBit_ne _ _ (fun e => this (Fin.ext e))
    | s _ | v _ | h _ | w _ => split at h <;> exact ⟨by rw [h], by rw [h]; try rfl⟩
    | m _ => split at h <;> simp only [Core.agrees, h]
    | q _ => simp only [Core.agrees, hq]
  | h r y =>
    have hq : d.q = c.q := by rcases hq with h | ⟨_, _, h, _⟩; exact h; cases h
    simp only [Regs.write, Regs.mend] at h
    cases x with
    | h z =>
      have : z ≠ r := fun e => hx (by rw [e]; rfl)
      exact ⟨by rw [h]; exact vec_set_ne _ _ this, by rw [h]; rfl⟩
    | s _ | v _ | w _ => exact ⟨by rw [h], by rw [h]; rfl⟩
    | m _ | p _ => simp only [Core.agrees, h]
    | q _ => simp only [Core.agrees, hq]
  | q r y =>
    simp only [Regs.write] at h
    cases x with
    | q z =>
      have : z ≠ r := fun e => hx (by rw [e]; rfl)
      rcases hq with hq | ⟨r', y', h1, h2⟩
      · simp only [Core.agrees, hq]
      · injection h1 with h3 h4
        subst h3; subst h4
        simp only [Core.agrees, h2]; exact vec_set_ne _ _ this
    | s _ | v _ | h _ | w _ => exact ⟨by rw [h], by rw [h]⟩
    | m _ | p _ => simp only [Core.agrees, h]
  | w r y =>
    have hq : d.q = c.q := by rcases hq with h | ⟨_, _, h, _⟩; exact h; cases h
    simp only [Regs.write, Regs.mend] at h
    cases x with
    | w z =>
      have : z ≠ r := fun e => hx (by rw [e]; rfl)
      exact ⟨by rw [h]; exact vec_set_ne _ _ this, by rw [h]; rfl⟩
    | s _ | v _ | h _ => exact ⟨by rw [h], by rw [h]; rfl⟩
    | m _ | p _ => simp only [Core.agrees, h]
    | q _ => simp only [Core.agrees, hq]

/-- A result lands in its register and no other. -/
theorem land_agrees (c : Core) (w : RegWrite) (old : Bool) {x : DestReg} (hx : w.dest ≠ x) : c.agrees (c.land w old) x := by
  unfold Core.land
  cases w with
  | q r y =>
    simp only
    have : c.agrees { c with q := c.q.set r y } x := write_agrees (w := .q r y) rfl (.inr ⟨r, y, rfl, rfl⟩) hx
    split
    · exact agrees_trans this (agrees_of_regs rfl rfl _)
    · exact this
  | s r y =>
    simp only
    have : c.agrees { c with regs := c.regs.write (.s r y) } x := write_agrees (w := .s r y) rfl (.inl rfl) hx
    split
    · exact agrees_trans this (agrees_of_regs rfl rfl _)
    · exact this
  | v r k y =>
    simp only
    have : c.agrees { c with regs := c.regs.write (.v r k y) } x := write_agrees (w := .v r k y) rfl (.inl rfl) hx
    split
    · exact agrees_trans this (agrees_of_regs rfl rfl _)
    · exact this
  | m r k y =>
    simp only
    have : c.agrees { c with regs := c.regs.write (.m r k y) } x := write_agrees (w := .m r k y) rfl (.inl rfl) hx
    split
    · exact agrees_trans this (agrees_of_regs rfl rfl _)
    · exact this
  | p r y =>
    simp only
    have : c.agrees { c with regs := c.regs.write (.p r y) } x := write_agrees (w := .p r y) rfl (.inl rfl) hx
    split
    · exact agrees_trans this (agrees_of_regs rfl rfl _)
    · exact this
  | h r y =>
    simp only
    have : c.agrees { c with regs := c.regs.write (.h r y) } x := write_agrees (w := .h r y) rfl (.inl rfl) hx
    split
    · exact agrees_trans this (agrees_of_regs rfl rfl _)
    · exact this
  | w r y =>
    simp only
    have : c.agrees { c with regs := c.regs.write (.w r y) } x := write_agrees (w := .w r y) rfl (.inl rfl) hx
    split
    · exact agrees_trans this (agrees_of_regs rfl rfl _)
    · exact this

/-- The parts of a core that joining a queue or a scoreboard changes leave its registers. -/
structure KeepsRegs (c d : Core) : Prop where
  regs   : d.regs = c.regs
  q      : d.q = c.q
  flight : d.flight = c.flight

theorem keeps_takeEntry (c : Core) (o : RsbOwner) (r0 r1 w : Option Span) : KeepsRegs c (c.takeEntry o r0 r1 w).1 := by
  unfold Core.takeEntry
  split <;> exact ⟨rfl, rfl, rfl⟩

theorem keeps_pushJob (c : Core) (q : Queue) (op : EngOp) (r : Option Nat) : KeepsRegs c (c.pushJob q op r) := by
  unfold Core.pushJob Core.setQueue
  cases q <;> exact ⟨rfl, rfl, rfl⟩

theorem keeps_takeXid (c : Core) (ch : Fin 4) : KeepsRegs c (c.takeXid ch).1 := ⟨rfl, rfl, rfl⟩
theorem keeps_doneXid (c : Core) (ch : Fin 4) (x : Word) : KeepsRegs c (c.doneXid ch x) := ⟨rfl, rfl, rfl⟩
theorem KeepsRegs.trans {c d e : Core} (h : KeepsRegs c d) (k : KeepsRegs d e) : KeepsRegs c e :=
  ⟨k.1.trans h.1, k.2.trans h.2, k.3.trans h.3⟩

/-- What an effect does to the registers and to the results in flight. -/
theorem commit_agrees (c : Core) (e : Effect) :
    (∀ x, e.touches ≠ some x → c.agrees (c.commit e).1 x) ∧
    ∃ l, (c.commit e).1.flight = c.flight ++ l ∧ ∀ f ∈ l, e.touches = some f.write.dest := by
  have keep : ∀ d : Core, KeepsRegs c d →
      (∀ x, e.touches ≠ some x → c.agrees d x) ∧ ∃ l, d.flight = c.flight ++ l ∧ ∀ f ∈ l, e.touches = some f.write.dest :=
    fun d h => ⟨fun x _ => agrees_of_regs h.1 h.2 x, [], by simp [h.3], by simp⟩
  have clear : ∀ (d : Core) (r : FullReg), e.touches = some (fullDest r) → d.regs = c.regs.setFull r false → d.q = c.q → d.flight = c.flight →
      (∀ x, e.touches ≠ some x → c.agrees d x) ∧ ∃ l, d.flight = c.flight ++ l ∧ ∀ f ∈ l, e.touches = some f.write.dest :=
    fun d r h1 h2 h3 h4 => ⟨fun x hx => setFull_agrees h2 h3 (fun h => hx (by rw [h1, h])), [], by simp [h4], by simp⟩
  cases e with
  | result w lat => exact ⟨fun x _ => agrees_of_regs rfl rfl x, [_], rfl, fun f hf => by simp only [List.mem_singleton] at hf; subst hf; rfl⟩
  | empty r => exact clear _ r rfl rfl rfl rfl
  | fill r w => exact clear _ r rfl rfl rfl rfl
  | load r ty va pa h => exact clear _ (.s r) rfl rfl rfl rfl
  | amo op r ty va pa h x y => exact clear _ (.s r) rfl rfl rfl rfl
  | recvW n w => exact clear _ (.w w) rfl rfl rfl rfl
  | xlat h va =>
    simp only [Core.commit]
    split
    · exact ⟨fun x _ => agrees_of_regs rfl rfl x, [_], rfl, fun f hf => by simp only [List.mem_singleton] at hf; subst hf; rfl⟩
    · exact clear _ (.h h) rfl rfl rfl rfl
  | trigger =>
    simp only [Core.commit]
    split
    · split <;> exact keep _ ⟨rfl, rfl, rfl⟩
    · exact keep _ ⟨rfl, rfl, rfl⟩
  | nps b => cases b <;> exact keep _ ⟨rfl, rfl, rfl⟩
  | bankmode b m =>
    have h := keeps_takeEntry c .bankmode none none (some (bankSpan (bankOf (b * 0xC000))))
    simp only [Core.commit]
    refine keep _ (KeepsRegs.trans ?_ (keeps_pushJob _ _ _ _))
    exact ⟨h.1, h.2, h.3⟩
  | engine q op r0 r1 w =>
    have h : KeepsRegs c ((c.takeEntry (.engine q) r0 r1 w).1.pushJob q op (c.takeEntry (.engine q) r0 r1 w).2) :=
      .trans (keeps_takeEntry c _ _ _ _) (keeps_pushJob _ _ _ _)
    simp only [Core.commit]
    split
    · exact keep _ ⟨h.1, h.2, h.3⟩
    · exact keep _ h
  | copy op t r w =>
    have h := keeps_takeEntry c .copy r none w
    cases op with
    | cpy a b n =>
      cases n with
      | zero => exact keep _ ⟨rfl, rfl, rfl⟩
      | succ n => exact keep _ ⟨h.1, h.2, h.3⟩
    | tld | tst | cpy2d | fill => exact keep _ ⟨h.1, h.2, h.3⟩
  | fabric op r =>
    have h := keeps_takeEntry c .fabric r none none
    cases op with
    | pub n t d back live pb => cases back <;> exact keep _ ⟨h.1, h.2, h.3⟩
    | _ => exact keep _ ⟨h.1, h.2, h.3⟩
  | fetch n t d void w =>
    have h := keeps_takeEntry c .receive none none w
    cases void with
    | true => exact keep _ ⟨rfl, rfl, rfl⟩
    | false => exact keep _ ⟨h.1, h.2, h.3⟩
  | recv n d k w =>
    have h := keeps_takeEntry c .receive none none w
    exact keep _ ⟨h.1, h.2, h.3⟩
  | flags | gate | jump | loopPush | setFpcr | setKey | wait | retire | soft | accMap | accOwn | prefetch | drop | dropAll | pubTokens | herdArrive =>
    exact keep _ ⟨rfl, rfl, rfl⟩

/-- What a list of effects does to the registers and to the results in flight. -/
theorem commitAll_agrees : ∀ (l : List Effect) (c : Core),
    (∀ x, (∀ e ∈ l, e.touches ≠ some x) → c.agrees (c.commitAll l).1 x) ∧
    ∃ k, (c.commitAll l).1.flight = c.flight ++ k ∧ ∀ f ∈ k, ∃ e ∈ l, e.touches = some f.write.dest
  | [], c => ⟨fun x _ => agrees_of_regs rfl rfl x, [], by simp [Core.commitAll], by simp⟩
  | e :: l, c => by
    obtain ⟨h1, k1, h2, h3⟩ := commit_agrees c e
    obtain ⟨h4, k2, h5, h6⟩ := commitAll_agrees l (c.commit e).1
    refine ⟨fun x hx => agrees_trans (h1 x (hx e (by simp))) (h4 x fun f hf => hx f (List.mem_cons_of_mem _ hf)), k1 ++ k2, ?_, ?_⟩
    · show ((c.commit e).1.commitAll l).1.flight = _
      rw [h5, h2, List.append_assoc]
    · intro f hf
      rcases List.mem_append.mp hf with hf | hf
      · exact ⟨e, by simp, h3 f hf⟩
      · obtain ⟨g, hg, hx⟩ := h6 f hf
        exact ⟨g, List.mem_cons_of_mem _ hg, hx⟩

/-- A group's effects. -/
theorem commitGroup_agrees (l : List Effect) (c : Core) :
    (∀ x, (∀ e ∈ l, e.touches ≠ some x) → c.agrees (c.commitGroup l).1 x) ∧
    ∃ k, (c.commitGroup l).1.flight = c.flight ++ k ∧ ∀ f ∈ k, ∃ e ∈ l, e.touches = some f.write.dest := by
  obtain ⟨h1, k, h2, h3⟩ := commitAll_agrees ((l.filter fun e => !e.isFlags) ++ l.filter Effect.isFlags) c
  have hm : ∀ e, e ∈ (l.filter fun e => !e.isFlags) ++ l.filter Effect.isFlags → e ∈ l := by
    intro e he
    rcases List.mem_append.mp he with he | he <;> exact (List.mem_filter.mp he).1
  exact ⟨fun x hx => h1 x fun e he => hx e (hm e he), k, h2, fun f hf => let ⟨e, he, hx⟩ := h3 f hf; ⟨e, hm e he, hx⟩⟩

/-- Results land one after another in their own registers. -/
theorem landAll_agrees {x : DestReg} : ∀ (l : List InFlight) (c : Core), (∀ f ∈ l, f.write.dest ≠ x) →
    c.agrees (l.foldl (fun c f => c.land f.write f.old) c) x
  | [], c, _ => agrees_of_regs rfl rfl x
  | f :: l, c, h => agrees_trans (land_agrees c f.write f.old (h f (by simp))) (landAll_agrees l _ fun g hg => h g (List.mem_cons_of_mem _ hg))

/-- An advancing cycle changes only registers with results in flight. -/
theorem advance_agrees {x : DestReg} {c : Core} (h : ∀ f ∈ c.flight, f.write.dest ≠ x) : c.agrees c.advance x := by
  unfold Core.advance
  have := landAll_agrees (x := x) ((c.flight.map fun f => { f with left := f.left - 1 }).filter fun f => f.left = 0) c (by
    intro f hf
    obtain ⟨hf, _⟩ := List.mem_filter.mp hf
    obtain ⟨g, hg, rfl⟩ := List.mem_map.mp hf
    exact h g hg)
  exact agrees_trans this (agrees_of_regs rfl rfl _)

/-- A core that has passed a mark or a boundary holds the same registers. -/
theorem Passed.agrees {c d : Core} (h : Passed c d) (x : DestReg) : c.agrees d x :=
  agrees_of_regs (congrArg Core.regs h.eq) (congrArg Core.q h.eq) x

/-- What a group's effects keep of a core's other state. -/
structure Kept (l : List Effect) (c d : Core) : Prop where
  acc      : d.acc = c.acc
  trapRec  : d.trapRec = c.trapRec
  caps     : d.caps = c.caps
  strm     : d.strm = c.strm
  cfgModes : d.cfgModes = c.cfgModes
  dfaults  : d.dfaults = c.dfaults
  spad     : d.spad = c.spad
  keys     : (∀ k x, Effect.setKey k x ∉ l) → d.keys = c.keys
  fpcr     : (∀ x, Effect.setFpcr x ∉ l) → (∀ f, Effect.flags f ∉ l) → d.fpcr = c.fpcr
  mode     : (∀ x, Effect.setFpcr x ∉ l) → field d.fpcr 7 0 = field c.fpcr 7 0
  accMap   : (∀ x, Effect.accMap x ∉ l) → d.accMap = c.accMap
  accOwn   : (∀ x, Effect.accOwn x ∉ l) → d.accOwn = c.accOwn
  modes    : (∀ b m, Effect.bankmode b m ∉ l) → d.modes = c.modes
  nps      : (∀ b, Effect.nps b ∉ l) → d.nps = c.nps
  soft     : (∀ k x, Effect.soft k x ∉ l) → d.issue.soft = c.issue.soft
  gate     : (∀ g, Effect.gate g ∈ l → ∃ a b n x h, g.store = .global a b n x h) → ∀ a, gatedByte d.gate a = gatedByte c.gate a

theorem Kept.refl (c : Core) : Kept [] c c := by constructor <;> intros <;> rfl

theorem Kept.append {l k : List Effect} {c d e : Core} (h : Kept l c d) (g : Kept k d e) : Kept (l ++ k) c e where
  acc := g.acc.trans h.acc
  trapRec := g.trapRec.trans h.trapRec
  caps := g.caps.trans h.caps
  strm := g.strm.trans h.strm
  cfgModes := g.cfgModes.trans h.cfgModes
  dfaults := g.dfaults.trans h.dfaults
  spad := g.spad.trans h.spad
  keys n := (g.keys fun a b m => n a b (List.mem_append_right _ m)).trans (h.keys fun a b m => n a b (List.mem_append_left _ m))
  fpcr n m := (g.fpcr (fun a p => n a (List.mem_append_right _ p)) fun a p => m a (List.mem_append_right _ p)).trans
    (h.fpcr (fun a p => n a (List.mem_append_left _ p)) fun a p => m a (List.mem_append_left _ p))
  mode n := (g.mode fun a m => n a (List.mem_append_right _ m)).trans (h.mode fun a m => n a (List.mem_append_left _ m))
  accMap n := (g.accMap fun a m => n a (List.mem_append_right _ m)).trans (h.accMap fun a m => n a (List.mem_append_left _ m))
  accOwn n := (g.accOwn fun a m => n a (List.mem_append_right _ m)).trans (h.accOwn fun a m => n a (List.mem_append_left _ m))
  modes n := (g.modes fun a b m => n a b (List.mem_append_right _ m)).trans (h.modes fun a b m => n a b (List.mem_append_left _ m))
  nps n := (g.nps fun a m => n a (List.mem_append_right _ m)).trans (h.nps fun a m => n a (List.mem_append_left _ m))
  soft n := (g.soft fun a b m => n a b (List.mem_append_right _ m)).trans (h.soft fun a b m => n a b (List.mem_append_left _ m))
  gate n a := (g.gate (fun x m => n x (List.mem_append_right _ m)) a).trans (h.gate (fun x m => n x (List.mem_append_left _ m)) a)

/-- The fields that no effect but its own changes, as they pass through a scoreboard or a queue. -/
structure Same (c d : Core) : Prop where
  acc : d.acc = c.acc
  trapRec : d.trapRec = c.trapRec
  caps : d.caps = c.caps
  strm : d.strm = c.strm
  cfgModes : d.cfgModes = c.cfgModes
  dfaults : d.dfaults = c.dfaults
  spad : d.spad = c.spad
  keys : d.keys = c.keys
  fpcr : d.fpcr = c.fpcr
  accMap : d.accMap = c.accMap
  accOwn : d.accOwn = c.accOwn
  modes : d.modes = c.modes
  nps : d.nps = c.nps
  soft : d.issue.soft = c.issue.soft
  gate : d.gate = c.gate

theorem Same.trans {c d e : Core} (h : Same c d) (k : Same d e) : Same c e :=
  ⟨k.1.trans h.1, k.2.trans h.2, k.3.trans h.3, k.4.trans h.4, k.5.trans h.5, k.6.trans h.6, k.7.trans h.7, k.8.trans h.8, k.9.trans h.9,
   k.10.trans h.10, k.11.trans h.11, k.12.trans h.12, k.13.trans h.13, k.14.trans h.14, k.15.trans h.15⟩
theorem Same.kept {c d : Core} (l : List Effect) (h : Same c d) : Kept l c d :=
  ⟨h.acc, h.trapRec, h.caps, h.strm, h.cfgModes, h.dfaults, h.spad, fun _ => h.keys, fun _ _ => h.fpcr, fun _ => by rw [h.fpcr],
   fun _ => h.accMap, fun _ => h.accOwn, fun _ => h.modes, fun _ => h.nps, fun _ => h.soft, fun _ a => by rw [h.gate]⟩

theorem same_takeEntry (c : Core) (o : RsbOwner) (r0 r1 w : Option Span) : Same c (c.takeEntry o r0 r1 w).1 := by
  unfold Core.takeEntry
  split <;> exact ⟨rfl, rfl, rfl, rfl, rfl, rfl, rfl, rfl, rfl, rfl, rfl, rfl, rfl, rfl, rfl⟩
theorem same_pushJob (c : Core) (q : Queue) (op : EngOp) (r : Option Nat) : Same c (c.pushJob q op r) := by
  unfold Core.pushJob Core.setQueue
  cases q <;> exact ⟨rfl, rfl, rfl, rfl, rfl, rfl, rfl, rfl, rfl, rfl, rfl, rfl, rfl, rfl, rfl⟩

theorem field_low (x : Word) (f : FpFlags) : field (orFlags x f) 7 0 = field x 7 0 := by
  have h : (orFlags x f).extractLsb' 0 8 = x.extractLsb' 0 8 := by
    unfold orFlags
    apply BitVec.eq_of_getLsbD_eq
    intro i hi
    simp [hi]
  have := congrArg BitVec.toNat h
  simp only [BitVec.extractLsb'_toNat, Nat.shiftRight_zero] at this
  simp only [field, Nat.pow_zero, Nat.div_one]
  exact this

theorem gatedByte_append (l : List GateEntry) (e : GateEntry) (h : ∃ a b n x v, e.store = .global a b n x v) (a : Nat) : gatedByte (l ++ [e]) a = gatedByte l a := by
  obtain ⟨p, q, n, x, v, h⟩ := h
  induction l with
  | nil => simp [gatedByte, h]
  | cons k l ih => simp only [List.cons_append, gatedByte, ih]

theorem commit_kept (c : Core) (e : Effect) : Kept [e] c (c.commit e).1 := by
  have R : ∀ d : Core, Same c d → Kept [e] c d := fun d h => h.kept _
  cases e with
  | flags f =>
    refine ⟨rfl, rfl, rfl, rfl, rfl, rfl, rfl, fun _ => rfl, fun _ h => absurd (List.mem_singleton.mpr rfl) (h f), fun _ => field_low _ _, ?_, ?_, ?_, ?_, ?_, ?_⟩ <;> intros <;> rfl
  | setFpcr x =>
    refine ⟨rfl, rfl, rfl, rfl, rfl, rfl, rfl, fun _ => rfl, fun h _ => absurd (List.mem_singleton.mpr rfl) (h x), fun h => absurd (List.mem_singleton.mpr rfl) (h x), ?_, ?_, ?_, ?_, ?_, ?_⟩ <;> intros <;> rfl
  | setKey k x =>
    refine ⟨rfl, rfl, rfl, rfl, rfl, rfl, rfl, fun h => absurd (List.mem_singleton.mpr rfl) (h k x), fun _ _ => rfl, fun _ => rfl, ?_, ?_, ?_, ?_, ?_, ?_⟩ <;> intros <;> rfl
  | accMap x =>
    refine ⟨rfl, rfl, rfl, rfl, rfl, rfl, rfl, fun _ => rfl, fun _ _ => rfl, fun _ => rfl, fun h => absurd (List.mem_singleton.mpr rfl) (h x), ?_, ?_, ?_, ?_, ?_⟩ <;> intros <;> rfl
  | accOwn x =>
    refine ⟨rfl, rfl, rfl, rfl, rfl, rfl, rfl, fun _ => rfl, fun _ _ => rfl, fun _ => rfl, fun _ => rfl, fun h => absurd (List.mem_singleton.mpr rfl) (h x), ?_, ?_, ?_, ?_⟩ <;> intros <;> rfl
  | nps b =>
    cases b <;> refine ⟨rfl, rfl, rfl, rfl, rfl, rfl, rfl, fun _ => rfl, fun _ _ => rfl, fun _ => rfl, fun _ => rfl, fun _ => rfl, fun _ => rfl, fun h => absurd (List.mem_singleton.mpr rfl) (h _), ?_, ?_⟩ <;> intros <;> rfl
  | soft k x =>
    refine ⟨rfl, rfl, rfl, rfl, rfl, rfl, rfl, fun _ => rfl, fun _ _ => rfl, fun _ => rfl, fun _ => rfl, fun _ => rfl, fun _ => rfl, fun _ => rfl, fun h => absurd (List.mem_singleton.mpr rfl) (h k x), ?_⟩ <;> intros <;> rfl
  | gate g =>
    refine ⟨rfl, rfl, rfl, rfl, rfl, rfl, rfl, fun _ => rfl, fun _ _ => rfl, fun _ => rfl, fun _ => rfl, fun _ => rfl, fun _ => rfl, fun _ => rfl, fun _ => rfl, fun h a => ?_⟩
    exact gatedByte_append _ _ (h g (by simp)) a
  | bankmode b m =>
    have h := same_takeEntry c .bankmode none none (some (bankSpan (bankOf (b * 0xC000))))
    have g := same_pushJob ({ (c.takeEntry .bankmode none none (some (bankSpan (bankOf (b * 0xC000))))).1 with
      modes := (c.takeEntry .bankmode none none (some (bankSpan (bankOf (b * 0xC000))))).1.modes.set (bankOf (b * 0xC000)) ⟨m % 4, by omega⟩,
      cache := (c.takeEntry .bankmode none none (some (bankSpan (bankOf (b * 0xC000))))).1.cache.filter fun k => k.bank ≠ bankOf (b * 0xC000) } : Core)
      .bank (.bankmode b m) (c.takeEntry .bankmode none none (some (bankSpan (bankOf (b * 0xC000))))).2
    exact ⟨g.1.trans h.1, g.2.trans h.2, g.3.trans h.3, g.4.trans h.4, g.5.trans h.5, g.6.trans h.6, g.7.trans h.7, fun _ => g.8.trans h.8,
      fun _ _ => g.9.trans h.9, fun _ => congrArg (field · 7 0) (g.9.trans h.9), fun _ => g.10.trans h.10, fun _ => g.11.trans h.11,
      fun n => absurd (List.mem_singleton.mpr rfl) (n b m), fun _ => g.13.trans h.13, fun _ => g.14.trans h.14, fun _ a => congrArg (gatedByte · a) (g.15.trans h.15)⟩
  | engine q op r0 r1 w =>
    have h : Same c ((c.takeEntry (.engine q) r0 r1 w).1.pushJob q op (c.takeEntry (.engine q) r0 r1 w).2) :=
      .trans (same_takeEntry c _ _ _ _) (same_pushJob _ _ _ _)
    simp only [Core.commit]
    split
    · exact R _ ⟨h.1, h.2, h.3, h.4, h.5, h.6, h.7, h.8, h.9, h.10, h.11, h.12, h.13, h.14, h.15⟩
    · exact R _ h
  | copy op t r w =>
    have h := same_takeEntry c .copy r none w
    cases op with
    | cpy a b n =>
      cases n with
      | zero => exact R _ ⟨rfl, rfl, rfl, rfl, rfl, rfl, rfl, rfl, rfl, rfl, rfl, rfl, rfl, rfl, rfl⟩
      | succ n => exact R _ ⟨h.1, h.2, h.3, h.4, h.5, h.6, h.7, h.8, h.9, h.10, h.11, h.12, h.13, h.14, h.15⟩
    | tld | tst | cpy2d | fill => exact R _ ⟨h.1, h.2, h.3, h.4, h.5, h.6, h.7, h.8, h.9, h.10, h.11, h.12, h.13, h.14, h.15⟩
  | fabric op r =>
    have h := same_takeEntry c .fabric r none none
    cases op with
    | pub n t d back live pb => cases back <;> exact R _ ⟨h.1, h.2, h.3, h.4, h.5, h.6, h.7, h.8, h.9, h.10, h.11, h.12, h.13, h.14, h.15⟩
    | _ => exact R _ ⟨h.1, h.2, h.3, h.4, h.5, h.6, h.7, h.8, h.9, h.10, h.11, h.12, h.13, h.14, h.15⟩
  | fetch n t d void w =>
    have h := same_takeEntry c .receive none none w
    cases void with
    | true => exact R _ ⟨rfl, rfl, rfl, rfl, rfl, rfl, rfl, rfl, rfl, rfl, rfl, rfl, rfl, rfl, rfl⟩
    | false => exact R _ ⟨h.1, h.2, h.3, h.4, h.5, h.6, h.7, h.8, h.9, h.10, h.11, h.12, h.13, h.14, h.15⟩
  | recv n d k w =>
    have h := same_takeEntry c .receive none none w
    exact R _ ⟨h.1, h.2, h.3, h.4, h.5, h.6, h.7, h.8, h.9, h.10, h.11, h.12, h.13, h.14, h.15⟩
  | trigger =>
    simp only [Core.commit]
    split
    · split <;> exact R _ ⟨rfl, rfl, rfl, rfl, rfl, rfl, rfl, rfl, rfl, rfl, rfl, rfl, rfl, rfl, rfl⟩
    · exact R _ ⟨rfl, rfl, rfl, rfl, rfl, rfl, rfl, rfl, rfl, rfl, rfl, rfl, rfl, rfl, rfl⟩
  | xlat h va =>
    simp only [Core.commit]
    split <;> exact R _ ⟨rfl, rfl, rfl, rfl, rfl, rfl, rfl, rfl, rfl, rfl, rfl, rfl, rfl, rfl, rfl⟩
  | result | empty | fill | load | amo | recvW | jump | loopPush | wait | retire | prefetch | drop | dropAll | pubTokens | herdArrive =>
    exact R _ ⟨rfl, rfl, rfl, rfl, rfl, rfl, rfl, rfl, rfl, rfl, rfl, rfl, rfl, rfl, rfl⟩

theorem commitAll_kept : ∀ (l : List Effect) (c : Core), Kept l c (c.commitAll l).1
  | [], c => .refl c
  | e :: l, c => (commit_kept c e).append (commitAll_kept l _)

theorem commitGroup_kept (l : List Effect) (c : Core) : Kept l c (c.commitGroup l).1 := by
  have h := commitAll_kept ((l.filter fun e => !e.isFlags) ++ l.filter Effect.isFlags) c
  have hm : ∀ e, e ∈ (l.filter fun e => !e.isFlags) ++ l.filter Effect.isFlags → e ∈ l := by
    intro e he
    rcases List.mem_append.mp he with he | he <;> exact (List.mem_filter.mp he).1
  exact ⟨h.acc, h.trapRec, h.caps, h.strm, h.cfgModes, h.dfaults, h.spad, fun n => h.keys fun a b m => n a b (hm _ m),
    fun n m => h.fpcr (fun a p => n a (hm _ p)) fun a p => m a (hm _ p), fun n => h.mode fun a m => n a (hm _ m),
    fun n => h.accMap fun a m => n a (hm _ m), fun n => h.accOwn fun a m => n a (hm _ m), fun n => h.modes fun a b m => n a b (hm _ m),
    fun n => h.nps fun a m => n a (hm _ m), fun n => h.soft fun a b m => n a b (hm _ m), fun n => h.gate fun x m => n x (hm _ m)⟩

/-- Results that land change registers and the shadow only. -/
theorem same_land (c : Core) (w : RegWrite) (old : Bool) : Same c (c.land w old) := by
  unfold Core.land
  cases w <;> (simp only; split <;> exact ⟨rfl, rfl, rfl, rfl, rfl, rfl, rfl, rfl, rfl, rfl, rfl, rfl, rfl, rfl, rfl⟩)

theorem same_landAll : ∀ (l : List InFlight) (c : Core), Same c (l.foldl (fun c f => c.land f.write f.old) c)
  | [], _ => ⟨rfl, rfl, rfl, rfl, rfl, rfl, rfl, rfl, rfl, rfl, rfl, rfl, rfl, rfl, rfl⟩
  | f :: l, c => (same_land c f.write f.old).trans (same_landAll l _)

theorem same_advance (c : Core) : Same c c.advance := by
  unfold Core.advance
  have h := same_landAll ((c.flight.map fun f => { f with left := f.left - 1 }).filter fun f => f.left = 0) c
  exact ⟨h.1, h.2, h.3, h.4, h.5, h.6, h.7, h.8, h.9, h.10, h.11, h.12, h.13, h.14, h.15⟩

/-- What a core that has passed a mark or a boundary keeps. -/
theorem Passed.kept {c d : Core} (h : Passed c d) : d.acc = c.acc ∧ d.trapRec = c.trapRec ∧ d.caps = c.caps ∧ d.strm = c.strm ∧
    d.cfgModes = c.cfgModes ∧ d.dfaults = c.dfaults ∧ d.keys = c.keys ∧ d.fpcr = c.fpcr ∧ d.accMap = c.accMap ∧ d.accOwn = c.accOwn ∧
    d.modes = c.modes ∧ d.nps = c.nps := by
  rw [h.eq]; exact ⟨rfl, rfl, rfl, rfl, rfl, rfl, rfl, rfl, rfl, rfl, rfl, rfl⟩

/-- The frame of a group that issues. -/
structure Framed (l : List Effect) (c d : Core) : Prop where
  regs     : ∀ x, (∀ e ∈ l, e.touches ≠ some x) → (∀ f ∈ c.flight, f.write.dest ≠ x) → c.agrees d x
  acc      : d.acc = c.acc
  trapRec  : d.trapRec = c.trapRec
  caps     : d.caps = c.caps
  strm     : d.strm = c.strm
  cfgModes : d.cfgModes = c.cfgModes
  dfaults  : d.dfaults = c.dfaults
  keys     : (∀ k x, Effect.setKey k x ∉ l) → d.keys = c.keys
  fpcr     : (∀ x, Effect.setFpcr x ∉ l) → (∀ f, Effect.flags f ∉ l) → d.fpcr = c.fpcr
  mode     : (∀ x, Effect.setFpcr x ∉ l) → field d.fpcr 7 0 = field c.fpcr 7 0
  accMap   : (∀ x, Effect.accMap x ∉ l) → d.accMap = c.accMap
  accOwn   : (∀ x, Effect.accOwn x ∉ l) → d.accOwn = c.accOwn
  modes    : (∀ b m, Effect.bankmode b m ∉ l) → d.modes = c.modes
  nps      : (∀ b, Effect.nps b ∉ l) → d.nps = c.nps
  bytes    : (∀ g, Effect.gate g ∈ l → ∃ a b n x h, g.store = .global a b n x h) → c.spad.wf = true → ∀ a, d.localByte a = c.localByte a

/-- The bytes the LS slot reads depend on the gate's bytes and the scratchpad. -/
theorem localByte_congr {c d : Core} {a : Nat} (h : gatedByte d.gate a = gatedByte c.gate a) (k : d.spad = c.spad) :
    d.localByte a = c.localByte a := by rw [localByte_eq, localByte_eq, h, k]

/-- A group that issues without a software trap keeps everything its effects do not name. -/
theorem issueGroup_framed {c : Core} (hs : c.issue.soft = none) (he : ∀ k x, Effect.soft k x ∉ c.issue.effects) :
    Framed c.issue.effects c c.issueGroup.1 := by
  have hb : Passed c (if c.issue.closing || c.issue.release then c.releaseMark else (c, [])).1.waited ∧
      ((if c.issue.closing || c.issue.release then c.releaseMark else (c, [])).1.waited).issue.soft = none := by
    split
    · refine ⟨(releaseMark_passed c).trans (waited_passed _), ?_⟩
      have : c.releaseMark.1.issue = c.issue := by
        have h := (releaseAll_core c.gate c []).1
        have h2 : c.releaseMark.1.issue = (releaseAll c.gate (c, [])).1.issue := rfl
        rw [h2, h]
      show c.releaseMark.1.issue.soft = none
      rw [this, hs]
    · exact ⟨waited_passed c, hs⟩
  have hd : c.issueGroup.1 = ((((if c.issue.closing || c.issue.release then c.releaseMark else (c, [])).1.waited).commitGroup
      c.issue.effects).1.advance.afterGroup (c.issue.closing || c.issue.markNext)).1 := rfl
  rw [hd]
  generalize (if c.issue.closing || c.issue.release then c.releaseMark else (c, [])).1.waited = c1 at *
  obtain ⟨hp, hs1⟩ := hb
  have hk := commitGroup_kept c.issue.effects c1
  have hr := commitGroup_agrees c.issue.effects c1
  generalize (c1.commitGroup c.issue.effects).1 = c2 at *
  have ha := same_advance c2
  have hv := fun x => advance_agrees (x := x) (c := c2)
  generalize c2.advance = c3 at *
  have hf := afterGroup_passed (c := c3) (c.issue.closing || c.issue.markNext) (by rw [ha.soft, hk.soft he, hs1])
  generalize (c3.afterGroup (c.issue.closing || c.issue.markNext)).1 = d at *
  obtain ⟨p1, p2, p3, p4, p5, p6, p7, p8, p9, p10, p11, p12⟩ := hp.kept
  obtain ⟨f1, f2, f3, f4, f5, f6, f7, f8, f9, f10, f11, f12⟩ := hf.kept
  refine ⟨fun x h1 h2 => ?_, by rw [f1, ha.acc, hk.acc, p1], by rw [f2, ha.trapRec, hk.trapRec, p2], by rw [f3, ha.caps, hk.caps, p3],
    by rw [f4, ha.strm, hk.strm, p4], by rw [f5, ha.cfgModes, hk.cfgModes, p5], by rw [f6, ha.dfaults, hk.dfaults, p6],
    fun n => by rw [f7, ha.keys, hk.keys n, p7], fun n m => by rw [f8, ha.fpcr, hk.fpcr n m, p8], fun n => by rw [f8, ha.fpcr, hk.mode n, p8],
    fun n => by rw [f9, ha.accMap, hk.accMap n, p9], fun n => by rw [f10, ha.accOwn, hk.accOwn n, p10],
    fun n => by rw [f11, ha.modes, hk.modes n, p11], fun n => by rw [f12, ha.nps, hk.nps n, p12], fun n hw a => ?_⟩
  · obtain ⟨h3, k, h4, h5⟩ := hr
    refine agrees_trans (hp.agrees x) (agrees_trans (h3 x h1) (agrees_trans (hv x fun f hf => ?_) (hf.agrees x)))
    rw [h4] at hf
    rcases List.mem_append.mp hf with hf | hf
    · have hm : ∃ g ∈ c.flight, g.write = f.write := by
        have h6 : (f.write, f.left) ∈ c1.flight.map fun f => (f.write, f.left) := List.mem_map.mpr ⟨f, hf, rfl⟩
        rw [hp.flight] at h6
        obtain ⟨g, hg, h7⟩ := List.mem_map.mp h6
        exact ⟨g, hg, congrArg Prod.fst h7⟩
      obtain ⟨g, hg, h7⟩ := hm
      rw [← h7]; exact h2 g hg
    · obtain ⟨e, hm, h6⟩ := h5 f hf
      exact fun h => h1 e hm (by rw [h6, h])
  · obtain ⟨w1, b1⟩ := hp.bytes hw
    have w2 : c3.spad.wf = true := by rw [ha.spad, hk.spad]; exact w1
    rw [(hf.bytes w2).2 a, localByte_congr (c := c2) (by rw [ha.gate]) ha.spad, localByte_congr (c := c1) (hk.gate n a) hk.spad, b1 a]

end Sys2Proof.Machine
end

