-- ==== Sys2Proof/Laws/Effects.lean ====
section
/-! SUPPORT. Sys2Proof/Laws/Effects.lean: what the effects of each slot form may be: they write no register but the one it names, and touch the other
state of the core only in the forms that name it. -/

set_option Elab.async false

namespace Sys2Proof.Machine

/-- The effects of an answer. -/
def SlotResult.effects : SlotResult → List Effect
  | .go es => es
  | .goRelease es => es
  | .hold => []
  | .trap _ => []

/-- An effect that an instruction of a class may have. -/
def Effect.mayBe (x : Effect) (i : Instr) (k : SlotClass) : Prop :=
  (x.touches = none ∨ x.touches = i.dest) ∧
  match x with
  | .setFpcr _ => ∃ p f, i = .swr p f
  | .setKey _ _ => ∃ p f, i = .swr p f
  | .flags _ => k = .vector
  | .accMap _ => (∃ p f, i = .aalloc p f) ∨ ∃ p f, i = .afree p f
  | .accOwn _ => (∃ p f, i = .aown p f) ∨ ∃ p f, i = .aownRel p f
  | .bankmode _ _ => ∃ p f, i = .bankmode p f
  | .nps _ => (∃ p, i = .npsBegin p) ∨ ∃ p, i = .npsEnd p
  | .soft _ _ => (∃ p f, i = .trap p f) ∨ ∃ p f, i = .brk p f
  | .gate g => (∃ a b c d h, g.store = .global a b c d h) ∨ (∃ p f, i = .st p f) ∨ (∃ p f, i = .stExt p f) ∨ (∃ p f, i = .vst p f) ∨
      (∃ p f, i = .vstExt p f) ∨ (∃ p f, i = .vstm p f) ∨ ∃ p f, i = .vstmExt p f
  | _ => True

/-- Every effect of an answer has a property. -/
def Allowed (P : Effect → Prop) (r : SlotResult) : Prop := ∀ x ∈ r.effects, P x
theorem allowed_checked {P : Effect → Prop} {t : Option TrapInfo} {r : SlotResult} (h : Allowed P r) : Allowed P (checked t r) := by
  cases t with
  | none => exact h
  | some t => intro x hx; cases hx
theorem allowed_trap {P : Effect → Prop} {t : TrapInfo} : Allowed P (.trap t) := by intro x hx; cases hx
theorem allowed_hold {P : Effect → Prop} : Allowed P .hold := by intro x hx; cases hx
theorem allowed_nil {P : Effect → Prop} : Allowed P (.go []) := by intro x hx; cases hx
theorem allowed_nilR {P : Effect → Prop} : Allowed P (.goRelease []) := by intro x hx; cases hx
theorem allowed_cons {P : Effect → Prop} {e : Effect} {es : List Effect} (h : P e) (k : Allowed P (.go es)) : Allowed P (.go (e :: es)) := by
  intro x hx
  rcases List.mem_cons.mp hx with rfl | hx
  · exact h
  · exact k x hx
theorem allowed_consR {P : Effect → Prop} {e : Effect} {es : List Effect} (h : P e) (k : Allowed P (.goRelease es)) : Allowed P (.goRelease (e :: es)) := by
  intro x hx
  rcases List.mem_cons.mp hx with rfl | hx
  · exact h
  · exact k x hx

/-- The instruction is a slot form whose effects are those it may have. -/
def MayDo (i : Instr) : Prop := ∀ e, encode i = some e → ∃ f, (∀ s, exec i s = slot (closesOp e.cls e.op) e.pred f s) ∧
  ∀ env c pos, Allowed (fun x => x.mayBe i e.cls) (f env c pos).result

theorem may_add : ∀ x0 x1 , MayDo (.add x0 x1) := fun x0 x1  _ h => Option.some.inj h ▸ ⟨_, fun _ => rfl, by
  intro env c pos
  dsimp only [alu2, aluReq]
  repeat' first | exact allowed_nil | refine allowed_checked ?_ | refine allowed_cons ⟨?_, ?_⟩ ?_ | exact Or.inl rfl | exact Or.inr rfl | trivial | rfl | split⟩
theorem may_sub : ∀ x0 x1 , MayDo (.sub x0 x1) := fun x0 x1  _ h => Option.some.inj h ▸ ⟨_, fun _ => rfl, by
  intro env c pos
  dsimp only [alu2, aluReq]
  repeat' first | exact allowed_nil | refine allowed_checked ?_ | refine allowed_cons ⟨?_, ?_⟩ ?_ | exact Or.inl rfl | exact Or.inr rfl | trivial | rfl | split⟩
theorem may_addi : ∀ x0 x1 , MayDo (.addi x0 x1) := fun x0 x1  _ h => Option.some.inj h ▸ ⟨_, fun _ => rfl, by
  intro env c pos
  dsimp only [alu1, aluReq]
  repeat' first | exact allowed_nil | refine allowed_checked ?_ | refine allowed_cons ⟨?_, ?_⟩ ?_ | exact Or.inl rfl | exact Or.inr rfl | trivial | rfl | split⟩
theorem may_addiExt : ∀ x0 x1 , MayDo (.addiExt x0 x1) := fun x0 x1  _ h => Option.some.inj h ▸ ⟨_, fun _ => rfl, by
  intro env c pos
  dsimp only [alu1, aluReq]
  repeat' first | exact allowed_nil | refine allowed_checked ?_ | refine allowed_cons ⟨?_, ?_⟩ ?_ | exact Or.inl rfl | exact Or.inr rfl | trivial | rfl | split⟩
theorem may_and : ∀ x0 x1 , MayDo (.and x0 x1) := fun x0 x1  _ h => Option.some.inj h ▸ ⟨_, fun _ => rfl, by
  intro env c pos
  dsimp only [alu2, aluReq]
  repeat' first | exact allowed_nil | refine allowed_checked ?_ | refine allowed_cons ⟨?_, ?_⟩ ?_ | exact Or.inl rfl | exact Or.inr rfl | trivial | rfl | split⟩
theorem may_or : ∀ x0 x1 , MayDo (.or x0 x1) := fun x0 x1  _ h => Option.some.inj h ▸ ⟨_, fun _ => rfl, by
  intro env c pos
  dsimp only [alu2, aluReq]
  repeat' first | exact allowed_nil | refine allowed_checked ?_ | refine allowed_cons ⟨?_, ?_⟩ ?_ | exact Or.inl rfl | exact Or.inr rfl | trivial | rfl | split⟩
theorem may_xor : ∀ x0 x1 , MayDo (.xor x0 x1) := fun x0 x1  _ h => Option.some.inj h ▸ ⟨_, fun _ => rfl, by
  intro env c pos
  dsimp only [alu2, aluReq]
  repeat' first | exact allowed_nil | refine allowed_checked ?_ | refine allowed_cons ⟨?_, ?_⟩ ?_ | exact Or.inl rfl | exact Or.inr rfl | trivial | rfl | split⟩
theorem may_andn : ∀ x0 x1 , MayDo (.andn x0 x1) := fun x0 x1  _ h => Option.some.inj h ▸ ⟨_, fun _ => rfl, by
  intro env c pos
  dsimp only [alu2, aluReq]
  repeat' first | exact allowed_nil | refine allowed_checked ?_ | refine allowed_cons ⟨?_, ?_⟩ ?_ | exact Or.inl rfl | exact Or.inr rfl | trivial | rfl | split⟩
theorem may_shl : ∀ x0 x1 , MayDo (.shl x0 x1) := fun x0 x1  _ h => Option.some.inj h ▸ ⟨_, fun _ => rfl, by
  intro env c pos
  dsimp only [alu2, aluReq]
  repeat' first | exact allowed_nil | refine allowed_checked ?_ | refine allowed_cons ⟨?_, ?_⟩ ?_ | exact Or.inl rfl | exact Or.inr rfl | trivial | rfl | split⟩
theorem may_shr : ∀ x0 x1 , MayDo (.shr x0 x1) := fun x0 x1  _ h => Option.some.inj h ▸ ⟨_, fun _ => rfl, by
  intro env c pos
  dsimp only [alu2, aluReq]
  repeat' first | exact allowed_nil | refine allowed_checked ?_ | refine allowed_cons ⟨?_, ?_⟩ ?_ | exact Or.inl rfl | exact Or.inr rfl | trivial | rfl | split⟩
theorem may_sra : ∀ x0 x1 , MayDo (.sra x0 x1) := fun x0 x1  _ h => Option.some.inj h ▸ ⟨_, fun _ => rfl, by
  intro env c pos
  dsimp only [alu2, aluReq]
  repeat' first | exact allowed_nil | refine allowed_checked ?_ | refine allowed_cons ⟨?_, ?_⟩ ?_ | exact Or.inl rfl | exact Or.inr rfl | trivial | rfl | split⟩
theorem may_shli : ∀ x0 x1 , MayDo (.shli x0 x1) := fun x0 x1  _ h => Option.some.inj h ▸ ⟨_, fun _ => rfl, by
  intro env c pos
  dsimp only [alu1, aluReq]
  repeat' first | exact allowed_nil | refine allowed_checked ?_ | refine allowed_cons ⟨?_, ?_⟩ ?_ | exact Or.inl rfl | exact Or.inr rfl | trivial | rfl | split⟩
theorem may_shri : ∀ x0 x1 , MayDo (.shri x0 x1) := fun x0 x1  _ h => Option.some.inj h ▸ ⟨_, fun _ => rfl, by
  intro env c pos
  dsimp only [alu1, aluReq]
  repeat' first | exact allowed_nil | refine allowed_checked ?_ | refine allowed_cons ⟨?_, ?_⟩ ?_ | exact Or.inl rfl | exact Or.inr rfl | trivial | rfl | split⟩
theorem may_srai : ∀ x0 x1 , MayDo (.srai x0 x1) := fun x0 x1  _ h => Option.some.inj h ▸ ⟨_, fun _ => rfl, by
  intro env c pos
  dsimp only [alu1, aluReq]
  repeat' first | exact allowed_nil | refine allowed_checked ?_ | refine allowed_cons ⟨?_, ?_⟩ ?_ | exact Or.inl rfl | exact Or.inr rfl | trivial | rfl | split⟩
theorem may_mul : ∀ x0 x1 , MayDo (.mul x0 x1) := fun x0 x1  _ h => Option.some.inj h ▸ ⟨_, fun _ => rfl, by
  intro env c pos
  dsimp only [alu2, aluReq]
  repeat' first | exact allowed_nil | refine allowed_checked ?_ | refine allowed_cons ⟨?_, ?_⟩ ?_ | exact Or.inl rfl | exact Or.inr rfl | trivial | rfl | split⟩
theorem may_mulh : ∀ x0 x1 , MayDo (.mulh x0 x1) := fun x0 x1  _ h => Option.some.inj h ▸ ⟨_, fun _ => rfl, by
  intro env c pos
  dsimp only [alu2, aluReq]
  repeat' first | exact allowed_nil | refine allowed_checked ?_ | refine allowed_cons ⟨?_, ?_⟩ ?_ | exact Or.inl rfl | exact Or.inr rfl | trivial | rfl | split⟩
theorem may_div : ∀ x0 x1 , MayDo (.div x0 x1) := fun x0 x1  _ h => Option.some.inj h ▸ ⟨_, fun _ => rfl, by
  intro env c pos
  dsimp only [alu2, aluReq]
  repeat' first | exact allowed_nil | refine allowed_checked ?_ | refine allowed_cons ⟨?_, ?_⟩ ?_ | exact Or.inl rfl | exact Or.inr rfl | trivial | rfl | split⟩
theorem may_rem : ∀ x0 x1 , MayDo (.rem x0 x1) := fun x0 x1  _ h => Option.some.inj h ▸ ⟨_, fun _ => rfl, by
  intro env c pos
  dsimp only [alu2, aluReq]
  repeat' first | exact allowed_nil | refine allowed_checked ?_ | refine allowed_cons ⟨?_, ?_⟩ ?_ | exact Or.inl rfl | exact Or.inr rfl | trivial | rfl | split⟩
theorem may_min : ∀ x0 x1 , MayDo (.min x0 x1) := fun x0 x1  _ h => Option.some.inj h ▸ ⟨_, fun _ => rfl, by
  intro env c pos
  dsimp only [alu2, aluReq]
  repeat' first | exact allowed_nil | refine allowed_checked ?_ | refine allowed_cons ⟨?_, ?_⟩ ?_ | exact Or.inl rfl | exact Or.inr rfl | trivial | rfl | split⟩
theorem may_max : ∀ x0 x1 , MayDo (.max x0 x1) := fun x0 x1  _ h => Option.some.inj h ▸ ⟨_, fun _ => rfl, by
  intro env c pos
  dsimp only [alu2, aluReq]
  repeat' first | exact allowed_nil | refine allowed_checked ?_ | refine allowed_cons ⟨?_, ?_⟩ ?_ | exact Or.inl rfl | exact Or.inr rfl | trivial | rfl | split⟩
theorem may_clz : ∀ x0 x1 , MayDo (.clz x0 x1) := fun x0 x1  _ h => Option.some.inj h ▸ ⟨_, fun _ => rfl, by
  intro env c pos
  dsimp only [alu1, aluReq]
  repeat' first | exact allowed_nil | refine allowed_checked ?_ | refine allowed_cons ⟨?_, ?_⟩ ?_ | exact Or.inl rfl | exact Or.inr rfl | trivial | rfl | split⟩
theorem may_ctz : ∀ x0 x1 , MayDo (.ctz x0 x1) := fun x0 x1  _ h => Option.some.inj h ▸ ⟨_, fun _ => rfl, by
  intro env c pos
  dsimp only [alu1, aluReq]
  repeat' first | exact allowed_nil | refine allowed_checked ?_ | refine allowed_cons ⟨?_, ?_⟩ ?_ | exact Or.inl rfl | exact Or.inr rfl | trivial | rfl | split⟩
theorem may_popc : ∀ x0 x1 , MayDo (.popc x0 x1) := fun x0 x1  _ h => Option.some.inj h ▸ ⟨_, fun _ => rfl, by
  intro env c pos
  dsimp only [alu1, aluReq]
  repeat' first | exact allowed_nil | refine allowed_checked ?_ | refine allowed_cons ⟨?_, ?_⟩ ?_ | exact Or.inl rfl | exact Or.inr rfl | trivial | rfl | split⟩
theorem may_bswap : ∀ x0 x1 , MayDo (.bswap x0 x1) := fun x0 x1  _ h => Option.some.inj h ▸ ⟨_, fun _ => rfl, by
  intro env c pos
  dsimp only [alu1, aluReq]
  repeat' first | exact allowed_nil | refine allowed_checked ?_ | refine allowed_cons ⟨?_, ?_⟩ ?_ | exact Or.inl rfl | exact Or.inr rfl | trivial | rfl | split⟩
theorem may_ext : ∀ x0 x1 , MayDo (.ext x0 x1) := fun x0 x1  _ h => Option.some.inj h ▸ ⟨_, fun _ => rfl, by
  intro env c pos
  dsimp only [alu1, aluReq]
  repeat' first | exact allowed_nil | refine allowed_checked ?_ | refine allowed_cons ⟨?_, ?_⟩ ?_ | exact Or.inl rfl | exact Or.inr rfl | trivial | rfl | split⟩
theorem may_ins : ∀ x0 x1 , MayDo (.ins x0 x1) := fun x0 x1  _ h => Option.some.inj h ▸ ⟨_, fun _ => rfl, by
  intro env c pos
  dsimp only [alu2, aluReq]
  repeat' first | exact allowed_nil | refine allowed_checked ?_ | refine allowed_cons ⟨?_, ?_⟩ ?_ | exact Or.inl rfl | exact Or.inr rfl | trivial | rfl | split⟩
theorem may_li : ∀ x0 x1 , MayDo (.li x0 x1) := fun x0 x1  _ h => Option.some.inj h ▸ ⟨_, fun _ => rfl, by
  intro env c pos
  dsimp only [aluReq]
  repeat' first | exact allowed_nil | refine allowed_checked ?_ | refine allowed_cons ⟨?_, ?_⟩ ?_ | exact Or.inl rfl | exact Or.inr rfl | trivial | rfl | split⟩
theorem may_liExt : ∀ x0 x1 , MayDo (.liExt x0 x1) := fun x0 x1  _ h => Option.some.inj h ▸ ⟨_, fun _ => rfl, by
  intro env c pos
  dsimp only [aluReq]
  repeat' first | exact allowed_nil | refine allowed_checked ?_ | refine allowed_cons ⟨?_, ?_⟩ ?_ | exact Or.inl rfl | exact Or.inr rfl | trivial | rfl | split⟩
theorem may_lih : ∀ x0 x1 , MayDo (.lih x0 x1) := fun x0 x1  _ h => Option.some.inj h ▸ ⟨_, fun _ => rfl, by
  intro env c pos
  dsimp only [alu1, aluReq]
  repeat' first | exact allowed_nil | refine allowed_checked ?_ | refine allowed_cons ⟨?_, ?_⟩ ?_ | exact Or.inl rfl | exact Or.inr rfl | trivial | rfl | split⟩
theorem may_lihExt : ∀ x0 x1 , MayDo (.lihExt x0 x1) := fun x0 x1  _ h => Option.some.inj h ▸ ⟨_, fun _ => rfl, by
  intro env c pos
  dsimp only [alu1, aluReq]
  repeat' first | exact allowed_nil | refine allowed_checked ?_ | refine allowed_cons ⟨?_, ?_⟩ ?_ | exact Or.inl rfl | exact Or.inr rfl | trivial | rfl | split⟩
theorem may_mov : ∀ x0 x1 , MayDo (.mov x0 x1) := fun x0 x1  _ h => Option.some.inj h ▸ ⟨_, fun _ => rfl, by
  intro env c pos
  dsimp only [alu1, aluReq]
  repeat' first | exact allowed_nil | refine allowed_checked ?_ | refine allowed_cons ⟨?_, ?_⟩ ?_ | exact Or.inl rfl | exact Or.inr rfl | trivial | rfl | split⟩
theorem may_sel : ∀ x0 x1 , MayDo (.sel x0 x1) := fun x0 x1  _ h => Option.some.inj h ▸ ⟨_, fun _ => rfl, by
  intro env c pos
  dsimp only [alu2, aluReq]
  repeat' first | exact allowed_nil | refine allowed_checked ?_ | refine allowed_cons ⟨?_, ?_⟩ ?_ | exact Or.inl rfl | exact Or.inr rfl | trivial | rfl | split⟩
theorem may_lea : ∀ x0 x1 , MayDo (.lea x0 x1) := fun x0 x1  _ h => Option.some.inj h ▸ ⟨_, fun _ => rfl, by
  intro env c pos
  dsimp only [alu2, aluReq]
  repeat' first | exact allowed_nil | refine allowed_checked ?_ | refine allowed_cons ⟨?_, ?_⟩ ?_ | exact Or.inl rfl | exact Or.inr rfl | trivial | rfl | split⟩
theorem may_madd : ∀ x0 x1 , MayDo (.madd x0 x1) := fun x0 x1  _ h => Option.some.inj h ▸ ⟨_, fun _ => rfl, by
  intro env c pos
  repeat' first | exact allowed_nil | refine allowed_checked ?_ | refine allowed_cons ⟨?_, ?_⟩ ?_ | exact Or.inl rfl | exact Or.inr rfl | trivial | rfl | split⟩
theorem may_clamp : ∀ x0 x1 , MayDo (.clamp x0 x1) := fun x0 x1  _ h => Option.some.inj h ▸ ⟨_, fun _ => rfl, by
  intro env c pos
  repeat' first | exact allowed_nil | refine allowed_checked ?_ | refine allowed_cons ⟨?_, ?_⟩ ?_ | exact Or.inl rfl | exact Or.inr rfl | trivial | rfl | split⟩
theorem may_cmpEq : ∀ x0 x1 , MayDo (.cmpEq x0 x1) := fun x0 x1  _ h => Option.some.inj h ▸ ⟨_, fun _ => rfl, by
  intro env c pos
  dsimp only [predReq]
  repeat' first | exact allowed_nil | refine allowed_checked ?_ | refine allowed_cons ⟨?_, ?_⟩ ?_ | exact Or.inl rfl | exact Or.inr rfl | trivial | rfl | split⟩
theorem may_cmpNe : ∀ x0 x1 , MayDo (.cmpNe x0 x1) := fun x0 x1  _ h => Option.some.inj h ▸ ⟨_, fun _ => rfl, by
  intro env c pos
  dsimp only [predReq]
  repeat' first | exact allowed_nil | refine allowed_checked ?_ | refine allowed_cons ⟨?_, ?_⟩ ?_ | exact Or.inl rfl | exact Or.inr rfl | trivial | rfl | split⟩
theorem may_cmpLt : ∀ x0 x1 , MayDo (.cmpLt x0 x1) := fun x0 x1  _ h => Option.some.inj h ▸ ⟨_, fun _ => rfl, by
  intro env c pos
  dsimp only [predReq]
  repeat' first | exact allowed_nil | refine allowed_checked ?_ | refine allowed_cons ⟨?_, ?_⟩ ?_ | exact Or.inl rfl | exact Or.inr rfl | trivial | rfl | split⟩
theorem may_cmpLe : ∀ x0 x1 , MayDo (.cmpLe x0 x1) := fun x0 x1  _ h => Option.some.inj h ▸ ⟨_, fun _ => rfl, by
  intro env c pos
  dsimp only [predReq]
  repeat' first | exact allowed_nil | refine allowed_checked ?_ | refine allowed_cons ⟨?_, ?_⟩ ?_ | exact Or.inl rfl | exact Or.inr rfl | trivial | rfl | split⟩
theorem may_cmpiEq : ∀ x0 x1 , MayDo (.cmpiEq x0 x1) := fun x0 x1  _ h => Option.some.inj h ▸ ⟨_, fun _ => rfl, by
  intro env c pos
  dsimp only [predReq]
  repeat' first | exact allowed_nil | refine allowed_checked ?_ | refine allowed_cons ⟨?_, ?_⟩ ?_ | exact Or.inl rfl | exact Or.inr rfl | trivial | rfl | split⟩
theorem may_cmpiEqExt : ∀ x0 x1 , MayDo (.cmpiEqExt x0 x1) := fun x0 x1  _ h => Option.some.inj h ▸ ⟨_, fun _ => rfl, by
  intro env c pos
  dsimp only [predReq]
  repeat' first | exact allowed_nil | refine allowed_checked ?_ | refine allowed_cons ⟨?_, ?_⟩ ?_ | exact Or.inl rfl | exact Or.inr rfl | trivial | rfl | split⟩
theorem may_cmpiNe : ∀ x0 x1 , MayDo (.cmpiNe x0 x1) := fun x0 x1  _ h => Option.some.inj h ▸ ⟨_, fun _ => rfl, by
  intro env c pos
  dsimp only [predReq]
  repeat' first | exact allowed_nil | refine allowed_checked ?_ | refine allowed_cons ⟨?_, ?_⟩ ?_ | exact Or.inl rfl | exact Or.inr rfl | trivial | rfl | split⟩
theorem may_cmpiNeExt : ∀ x0 x1 , MayDo (.cmpiNeExt x0 x1) := fun x0 x1  _ h => Option.some.inj h ▸ ⟨_, fun _ => rfl, by
  intro env c pos
  dsimp only [predReq]
  repeat' first | exact allowed_nil | refine allowed_checked ?_ | refine allowed_cons ⟨?_, ?_⟩ ?_ | exact Or.inl rfl | exact Or.inr rfl | trivial | rfl | split⟩
theorem may_cmpiLt : ∀ x0 x1 , MayDo (.cmpiLt x0 x1) := fun x0 x1  _ h => Option.some.inj h ▸ ⟨_, fun _ => rfl, by
  intro env c pos
  dsimp only [predReq]
  repeat' first | exact allowed_nil | refine allowed_checked ?_ | refine allowed_cons ⟨?_, ?_⟩ ?_ | exact Or.inl rfl | exact Or.inr rfl | trivial | rfl | split⟩
theorem may_cmpiLtExt : ∀ x0 x1 , MayDo (.cmpiLtExt x0 x1) := fun x0 x1  _ h => Option.some.inj h ▸ ⟨_, fun _ => rfl, by
  intro env c pos
  dsimp only [predReq]
  repeat' first | exact allowed_nil | refine allowed_checked ?_ | refine allowed_cons ⟨?_, ?_⟩ ?_ | exact Or.inl rfl | exact Or.inr rfl | trivial | rfl | split⟩
theorem may_cmpiLe : ∀ x0 x1 , MayDo (.cmpiLe x0 x1) := fun x0 x1  _ h => Option.some.inj h ▸ ⟨_, fun _ => rfl, by
  intro env c pos
  dsimp only [predReq]
  repeat' first | exact allowed_nil | refine allowed_checked ?_ | refine allowed_cons ⟨?_, ?_⟩ ?_ | exact Or.inl rfl | exact Or.inr rfl | trivial | rfl | split⟩
theorem may_cmpiLeExt : ∀ x0 x1 , MayDo (.cmpiLeExt x0 x1) := fun x0 x1  _ h => Option.some.inj h ▸ ⟨_, fun _ => rfl, by
  intro env c pos
  dsimp only [predReq]
  repeat' first | exact allowed_nil | refine allowed_checked ?_ | refine allowed_cons ⟨?_, ?_⟩ ?_ | exact Or.inl rfl | exact Or.inr rfl | trivial | rfl | split⟩
theorem may_pand : ∀ x0 x1 , MayDo (.pand x0 x1) := fun x0 x1  _ h => Option.some.inj h ▸ ⟨_, fun _ => rfl, by
  intro env c pos
  dsimp only [predReq]
  repeat' first | exact allowed_nil | refine allowed_checked ?_ | refine allowed_cons ⟨?_, ?_⟩ ?_ | exact Or.inl rfl | exact Or.inr rfl | trivial | rfl | split⟩
theorem may_por : ∀ x0 x1 , MayDo (.por x0 x1) := fun x0 x1  _ h => Option.some.inj h ▸ ⟨_, fun _ => rfl, by
  intro env c pos
  dsimp only [predReq]
  repeat' first | exact allowed_nil | refine allowed_checked ?_ | refine allowed_cons ⟨?_, ?_⟩ ?_ | exact Or.inl rfl | exact Or.inr rfl | trivial | rfl | split⟩
theorem may_pxor : ∀ x0 x1 , MayDo (.pxor x0 x1) := fun x0 x1  _ h => Option.some.inj h ▸ ⟨_, fun _ => rfl, by
  intro env c pos
  dsimp only [predReq]
  repeat' first | exact allowed_nil | refine allowed_checked ?_ | refine allowed_cons ⟨?_, ?_⟩ ?_ | exact Or.inl rfl | exact Or.inr rfl | trivial | rfl | split⟩
theorem may_pnot : ∀ x0 x1 , MayDo (.pnot x0 x1) := fun x0 x1  _ h => Option.some.inj h ▸ ⟨_, fun _ => rfl, by
  intro env c pos
  dsimp only [predReq]
  repeat' first | exact allowed_nil | refine allowed_checked ?_ | refine allowed_cons ⟨?_, ?_⟩ ?_ | exact Or.inl rfl | exact Or.inr rfl | trivial | rfl | split⟩
theorem may_pmov : ∀ x0 x1 , MayDo (.pmov x0 x1) := fun x0 x1  _ h => Option.some.inj h ▸ ⟨_, fun _ => rfl, by
  intro env c pos
  dsimp only [predReq]
  repeat' first | exact allowed_nil | refine allowed_checked ?_ | refine allowed_cons ⟨?_, ?_⟩ ?_ | exact Or.inl rfl | exact Or.inr rfl | trivial | rfl | split⟩
theorem may_br : ∀ x0 x1 , MayDo (.br x0 x1) := fun x0 x1  _ h => Option.some.inj h ▸ ⟨_, fun _ => rfl, by
  intro env c pos
  dsimp only [jumpTo, plainReq]
  repeat' first | exact allowed_nil | refine allowed_checked ?_ | refine allowed_cons ⟨?_, ?_⟩ ?_ | exact Or.inl rfl | exact Or.inr rfl | trivial | rfl | exact allowed_trap | split⟩
theorem may_brc : ∀ x0 x1 , MayDo (.brc x0 x1) := fun x0 x1  _ h => Option.some.inj h ▸ ⟨_, fun _ => rfl, by
  intro env c pos
  dsimp only [brcReq, jumpTo, plainReq]
  repeat' first | exact allowed_nil | refine allowed_checked ?_ | refine allowed_cons ⟨?_, ?_⟩ ?_ | exact Or.inl rfl | exact Or.inr rfl | trivial | rfl | exact allowed_trap | split⟩
theorem may_brcExt : ∀ x0 x1 , MayDo (.brcExt x0 x1) := fun x0 x1  _ h => Option.some.inj h ▸ ⟨_, fun _ => rfl, by
  intro env c pos
  dsimp only [brcReq, jumpTo, plainReq]
  repeat' first | exact allowed_nil | refine allowed_checked ?_ | refine allowed_cons ⟨?_, ?_⟩ ?_ | exact Or.inl rfl | exact Or.inr rfl | trivial | rfl | exact allowed_trap | split⟩
theorem may_jr : ∀ x0 x1 , MayDo (.jr x0 x1) := fun x0 x1  _ h => Option.some.inj h ▸ ⟨_, fun _ => rfl, by
  intro env c pos
  dsimp only [jumpTo, plainReq]
  repeat' first | exact allowed_nil | refine allowed_checked ?_ | refine allowed_cons ⟨?_, ?_⟩ ?_ | exact Or.inl rfl | exact Or.inr rfl | trivial | rfl | exact allowed_trap | split⟩
theorem may_call : ∀ x0 x1 , MayDo (.call x0 x1) := fun x0 x1  _ h => Option.some.inj h ▸ ⟨_, fun _ => rfl, by
  intro env c pos
  dsimp only [jumpTo]
  repeat' first | exact allowed_nil | refine allowed_checked ?_ | refine allowed_cons ⟨?_, ?_⟩ ?_ | exact Or.inl rfl | exact Or.inr rfl | trivial | rfl | exact allowed_trap | split⟩
theorem may_ret : ∀ x0 , MayDo (.ret x0) := fun x0  _ h => Option.some.inj h ▸ ⟨_, fun _ => rfl, by
  intro env c pos
  dsimp only [jumpTo, plainReq]
  repeat' first | exact allowed_nil | refine allowed_checked ?_ | refine allowed_cons ⟨?_, ?_⟩ ?_ | exact Or.inl rfl | exact Or.inr rfl | trivial | rfl | exact allowed_trap | split⟩
theorem may_lp : ∀ x0 x1 , MayDo (.lp x0 x1) := fun x0 x1  _ h => Option.some.inj h ▸ ⟨_, fun _ => rfl, by
  intro env c pos
  dsimp only [jumpTo, loopResult, plainReq]
  repeat' first | exact allowed_nil | refine allowed_checked ?_ | refine allowed_cons ⟨?_, ?_⟩ ?_ | exact Or.inl rfl | exact Or.inr rfl | trivial | rfl | exact allowed_trap | split⟩
theorem may_lpx : ∀ x0 x1 , MayDo (.lpx x0 x1) := fun x0 x1  _ h => Option.some.inj h ▸ ⟨_, fun _ => rfl, by
  intro env c pos
  dsimp only [jumpTo, loopResult, plainReq]
  repeat' first | exact allowed_nil | refine allowed_checked ?_ | refine allowed_cons ⟨?_, ?_⟩ ?_ | exact Or.inl rfl | exact Or.inr rfl | trivial | rfl | exact allowed_trap | split⟩
theorem may_xwait : ∀ x0 x1 , MayDo (.xwait x0 x1) := fun x0 x1  _ h => Option.some.inj h ▸ ⟨_, fun _ => rfl, by
  intro env c pos
  dsimp only [plainReq]
  repeat' first | exact allowed_nil | refine allowed_checked ?_ | refine allowed_cons ⟨?_, ?_⟩ ?_ | exact Or.inl rfl | exact Or.inr rfl | trivial | rfl | split⟩
theorem may_twait : ∀ x0 x1 , MayDo (.twait x0 x1) := fun x0 x1  _ h => Option.some.inj h ▸ ⟨_, fun _ => rfl, by
  intro env c pos
  dsimp only [plainReq]
  repeat' first | exact allowed_nil | refine allowed_checked ?_ | refine allowed_cons ⟨?_, ?_⟩ ?_ | exact Or.inl rfl | exact Or.inr rfl | trivial | rfl | split⟩
theorem may_retire : ∀ x0 , MayDo (.retire x0) := fun x0  _ h => Option.some.inj h ▸ ⟨_, fun _ => rfl, by
  intro env c pos
  dsimp only [plainReq]
  repeat' first | exact allowed_nil | refine allowed_checked ?_ | refine allowed_cons ⟨?_, ?_⟩ ?_ | exact Or.inl rfl | exact Or.inr rfl | trivial | rfl | split⟩
theorem may_trigger : ∀ x0 , MayDo (.trigger x0) := fun x0  _ h => Option.some.inj h ▸ ⟨_, fun _ => rfl, by
  intro env c pos
  dsimp only [plainReq]
  repeat' first | exact allowed_nil | refine allowed_checked ?_ | refine allowed_cons ⟨?_, ?_⟩ ?_ | exact Or.inl rfl | exact Or.inr rfl | trivial | rfl | split⟩
theorem may_trap : ∀ x0 x1 , MayDo (.trap x0 x1) := fun x0 x1  _ h => Option.some.inj h ▸ ⟨_, fun _ => rfl, by
  intro env c pos
  dsimp only [plainReq]
  repeat' first | exact allowed_nil | refine allowed_checked ?_ | refine allowed_cons ⟨?_, ?_⟩ ?_ | exact Or.inl rfl | exact Or.inr rfl | trivial | rfl | exact Or.inl ⟨_, _, rfl⟩ | split⟩
theorem may_brk : ∀ x0 x1 , MayDo (.brk x0 x1) := fun x0 x1  _ h => Option.some.inj h ▸ ⟨_, fun _ => rfl, by
  intro env c pos
  dsimp only [plainReq]
  repeat' first | exact allowed_nil | refine allowed_checked ?_ | refine allowed_cons ⟨?_, ?_⟩ ?_ | exact Or.inl rfl | exact Or.inr rfl | trivial | rfl | exact Or.inr ⟨_, _, rfl⟩ | split⟩
theorem may_npsBegin : ∀ x0 , MayDo (.npsBegin x0) := fun x0  _ h => Option.some.inj h ▸ ⟨_, fun _ => rfl, by
  intro env c pos
  dsimp only [plainReq]
  repeat' first | exact allowed_nil | refine allowed_checked ?_ | refine allowed_cons ⟨?_, ?_⟩ ?_ | exact Or.inl rfl | exact Or.inr rfl | trivial | rfl | exact Or.inl ⟨_, rfl⟩ | split⟩
theorem may_npsEnd : ∀ x0 , MayDo (.npsEnd x0) := fun x0  _ h => Option.some.inj h ▸ ⟨_, fun _ => rfl, by
  intro env c pos
  dsimp only [plainReq]
  repeat' first | exact allowed_nil | refine allowed_checked ?_ | refine allowed_cons ⟨?_, ?_⟩ ?_ | exact Or.inl rfl | exact Or.inr rfl | trivial | rfl | exact Or.inr ⟨_, rfl⟩ | split⟩
theorem may_srd : ∀ x0 x1 , MayDo (.srd x0 x1) := fun x0 x1  _ h => Option.some.inj h ▸ ⟨_, fun _ => rfl, by
  intro env c pos
  repeat' first | exact allowed_nil | refine allowed_checked ?_ | refine allowed_cons ⟨?_, ?_⟩ ?_ | exact Or.inl rfl | exact Or.inr rfl | trivial | rfl | split⟩
theorem may_swr : ∀ x0 x1 , MayDo (.swr x0 x1) := fun x0 x1  _ h => Option.some.inj h ▸ ⟨_, fun _ => rfl, by
  intro env c pos
  dsimp only [plainReq]
  repeat' first | exact allowed_nil | refine allowed_checked ?_ | refine allowed_cons ⟨?_, ?_⟩ ?_ | exact Or.inl rfl | exact Or.inr rfl | trivial | rfl | exact ⟨_, _, rfl⟩ | exact allowed_trap | split⟩
theorem may_cfgq : ∀ x0 x1 , MayDo (.cfgq x0 x1) := fun x0 x1  _ h => Option.some.inj h ▸ ⟨_, fun _ => rfl, by
  intro env c pos
  dsimp only [aluReq]
  repeat' first | exact allowed_nil | refine allowed_checked ?_ | refine allowed_cons ⟨?_, ?_⟩ ?_ | exact Or.inl rfl | exact Or.inr rfl | trivial | rfl | split⟩
theorem may_wccr : ∀ x0 x1 , MayDo (.wccr x0 x1) := fun x0 x1  _ h => Option.some.inj h ▸ ⟨_, fun _ => rfl, by
  intro env c pos
  dsimp only [aluReq]
  repeat' first | exact allowed_nil | refine allowed_checked ?_ | refine allowed_cons ⟨?_, ?_⟩ ?_ | exact Or.inl rfl | exact Or.inr rfl | trivial | rfl | split⟩
theorem may_vadd : ∀ x0 x1 , MayDo (.vadd x0 x1) := fun x0 x1  _ h => Option.some.inj h ▸ ⟨_, fun _ => rfl, by
  intro env c pos
  dsimp only [vec2, vecR, vecReq, vectorEffects]
  repeat' first | exact allowed_nil | refine allowed_checked ?_ | refine allowed_cons ⟨?_, ?_⟩ ?_ | exact Or.inl rfl | exact Or.inr rfl | trivial | rfl | split⟩
theorem may_vaddMsk : ∀ x0 x1 x2 , MayDo (.vaddMsk x0 x1 x2) := fun x0 x1 x2  _ h => Option.some.inj h ▸ ⟨_, fun _ => rfl, by
  intro env c pos
  dsimp only [vec2, vecR, vecReq, vectorEffects]
  repeat' first | exact allowed_nil | refine allowed_checked ?_ | refine allowed_cons ⟨?_, ?_⟩ ?_ | exact Or.inl rfl | exact Or.inr rfl | trivial | rfl | split⟩
theorem may_vsub : ∀ x0 x1 , MayDo (.vsub x0 x1) := fun x0 x1  _ h => Option.some.inj h ▸ ⟨_, fun _ => rfl, by
  intro env c pos
  dsimp only [vec2, vecR, vecReq, vectorEffects]
  repeat' first | exact allowed_nil | refine allowed_checked ?_ | refine allowed_cons ⟨?_, ?_⟩ ?_ | exact Or.inl rfl | exact Or.inr rfl | trivial | rfl | split⟩
theorem may_vsubMsk : ∀ x0 x1 x2 , MayDo (.vsubMsk x0 x1 x2) := fun x0 x1 x2  _ h => Option.some.inj h ▸ ⟨_, fun _ => rfl, by
  intro env c pos
  dsimp only [vec2, vecR, vecReq, vectorEffects]
  repeat' first | exact allowed_nil | refine allowed_checked ?_ | refine allowed_cons ⟨?_, ?_⟩ ?_ | exact Or.inl rfl | exact Or.inr rfl | trivial | rfl | split⟩
theorem may_vmul : ∀ x0 x1 , MayDo (.vmul x0 x1) := fun x0 x1  _ h => Option.some.inj h ▸ ⟨_, fun _ => rfl, by
  intro env c pos
  dsimp only [vec2, vecR, vecReq, vectorEffects]
  repeat' first | exact allowed_nil | refine allowed_checked ?_ | refine allowed_cons ⟨?_, ?_⟩ ?_ | exact Or.inl rfl | exact Or.inr rfl | trivial | rfl | split⟩
theorem may_vmulMsk : ∀ x0 x1 x2 , MayDo (.vmulMsk x0 x1 x2) := fun x0 x1 x2  _ h => Option.some.inj h ▸ ⟨_, fun _ => rfl, by
  intro env c pos
  dsimp only [vec2, vecR, vecReq, vectorEffects]
  repeat' first | exact allowed_nil | refine allowed_checked ?_ | refine allowed_cons ⟨?_, ?_⟩ ?_ | exact Or.inl rfl | exact Or.inr rfl | trivial | rfl | split⟩
theorem may_vfma : ∀ x0 x1 , MayDo (.vfma x0 x1) := fun x0 x1  _ h => Option.some.inj h ▸ ⟨_, fun _ => rfl, by
  intro env c pos
  dsimp only [vecFma, vecReq, vectorEffects]
  repeat' first | exact allowed_nil | refine allowed_checked ?_ | refine allowed_cons ⟨?_, ?_⟩ ?_ | exact Or.inl rfl | exact Or.inr rfl | trivial | rfl | split⟩
theorem may_vfms : ∀ x0 x1 , MayDo (.vfms x0 x1) := fun x0 x1  _ h => Option.some.inj h ▸ ⟨_, fun _ => rfl, by
  intro env c pos
  dsimp only [vecFma, vecReq, vectorEffects]
  repeat' first | exact allowed_nil | refine allowed_checked ?_ | refine allowed_cons ⟨?_, ?_⟩ ?_ | exact Or.inl rfl | exact Or.inr rfl | trivial | rfl | split⟩
theorem may_vfnma : ∀ x0 x1 , MayDo (.vfnma x0 x1) := fun x0 x1  _ h => Option.some.inj h ▸ ⟨_, fun _ => rfl, by
  intro env c pos
  dsimp only [vecFma, vecReq, vectorEffects]
  repeat' first | exact allowed_nil | refine allowed_checked ?_ | refine allowed_cons ⟨?_, ?_⟩ ?_ | exact Or.inl rfl | exact Or.inr rfl | trivial | rfl | split⟩
theorem may_vmin : ∀ x0 x1 , MayDo (.vmin x0 x1) := fun x0 x1  _ h => Option.some.inj h ▸ ⟨_, fun _ => rfl, by
  intro env c pos
  dsimp only [vec2, vecReq, vectorEffects]
  repeat' first | exact allowed_nil | refine allowed_checked ?_ | refine allowed_cons ⟨?_, ?_⟩ ?_ | exact Or.inl rfl | exact Or.inr rfl | trivial | rfl | split⟩
theorem may_vminMsk : ∀ x0 x1 x2 , MayDo (.vminMsk x0 x1 x2) := fun x0 x1 x2  _ h => Option.some.inj h ▸ ⟨_, fun _ => rfl, by
  intro env c pos
  dsimp only [vec2, vecReq, vectorEffects]
  repeat' first | exact allowed_nil | refine allowed_checked ?_ | refine allowed_cons ⟨?_, ?_⟩ ?_ | exact Or.inl rfl | exact Or.inr rfl | trivial | rfl | split⟩
theorem may_vmax : ∀ x0 x1 , MayDo (.vmax x0 x1) := fun x0 x1  _ h => Option.some.inj h ▸ ⟨_, fun _ => rfl, by
  intro env c pos
  dsimp only [vec2, vecReq, vectorEffects]
  repeat' first | exact allowed_nil | refine allowed_checked ?_ | refine allowed_cons ⟨?_, ?_⟩ ?_ | exact Or.inl rfl | exact Or.inr rfl | trivial | rfl | split⟩
theorem may_vmaxMsk : ∀ x0 x1 x2 , MayDo (.vmaxMsk x0 x1 x2) := fun x0 x1 x2  _ h => Option.some.inj h ▸ ⟨_, fun _ => rfl, by
  intro env c pos
  dsimp only [vec2, vecReq, vectorEffects]
  repeat' first | exact allowed_nil | refine allowed_checked ?_ | refine allowed_cons ⟨?_, ?_⟩ ?_ | exact Or.inl rfl | exact Or.inr rfl | trivial | rfl | split⟩
theorem may_vabs : ∀ x0 x1 , MayDo (.vabs x0 x1) := fun x0 x1  _ h => Option.some.inj h ▸ ⟨_, fun _ => rfl, by
  intro env c pos
  dsimp only [vec1, vecReq, vectorEffects]
  repeat' first | exact allowed_nil | refine allowed_checked ?_ | refine allowed_cons ⟨?_, ?_⟩ ?_ | exact Or.inl rfl | exact Or.inr rfl | trivial | rfl | split⟩
theorem may_vabsMsk : ∀ x0 x1 x2 , MayDo (.vabsMsk x0 x1 x2) := fun x0 x1 x2  _ h => Option.some.inj h ▸ ⟨_, fun _ => rfl, by
  intro env c pos
  dsimp only [vec1, vecReq, vectorEffects]
  repeat' first | exact allowed_nil | refine allowed_checked ?_ | refine allowed_cons ⟨?_, ?_⟩ ?_ | exact Or.inl rfl | exact Or.inr rfl | trivial | rfl | split⟩
theorem may_vneg : ∀ x0 x1 , MayDo (.vneg x0 x1) := fun x0 x1  _ h => Option.some.inj h ▸ ⟨_, fun _ => rfl, by
  intro env c pos
  dsimp only [vec1, vecReq, vectorEffects]
  repeat' first | exact allowed_nil | refine allowed_checked ?_ | refine allowed_cons ⟨?_, ?_⟩ ?_ | exact Or.inl rfl | exact Or.inr rfl | trivial | rfl | split⟩
theorem may_vnegMsk : ∀ x0 x1 x2 , MayDo (.vnegMsk x0 x1 x2) := fun x0 x1 x2  _ h => Option.some.inj h ▸ ⟨_, fun _ => rfl, by
  intro env c pos
  dsimp only [vec1, vecReq, vectorEffects]
  repeat' first | exact allowed_nil | refine allowed_checked ?_ | refine allowed_cons ⟨?_, ?_⟩ ?_ | exact Or.inl rfl | exact Or.inr rfl | trivial | rfl | split⟩
theorem may_vcmpEq : ∀ x0 x1 , MayDo (.vcmpEq x0 x1) := fun x0 x1  _ h => Option.some.inj h ▸ ⟨_, fun _ => rfl, by
  intro env c pos
  repeat' first | exact allowed_nil | refine allowed_checked ?_ | refine allowed_cons ⟨?_, ?_⟩ ?_ | exact Or.inl rfl | exact Or.inr rfl | trivial | rfl | split⟩
theorem may_vcmpEqMsk : ∀ x0 x1 x2 , MayDo (.vcmpEqMsk x0 x1 x2) := fun x0 x1 x2  _ h => Option.some.inj h ▸ ⟨_, fun _ => rfl, by
  intro env c pos
  repeat' first | exact allowed_nil | refine allowed_checked ?_ | refine allowed_cons ⟨?_, ?_⟩ ?_ | exact Or.inl rfl | exact Or.inr rfl | trivial | rfl | split⟩
theorem may_vcmpLt : ∀ x0 x1 , MayDo (.vcmpLt x0 x1) := fun x0 x1  _ h => Option.some.inj h ▸ ⟨_, fun _ => rfl, by
  intro env c pos
  repeat' first | exact allowed_nil | refine allowed_checked ?_ | refine allowed_cons ⟨?_, ?_⟩ ?_ | exact Or.inl rfl | exact Or.inr rfl | trivial | rfl | split⟩
theorem may_vcmpLtMsk : ∀ x0 x1 x2 , MayDo (.vcmpLtMsk x0 x1 x2) := fun x0 x1 x2  _ h => Option.some.inj h ▸ ⟨_, fun _ => rfl, by
  intro env c pos
  repeat' first | exact allowed_nil | refine allowed_checked ?_ | refine allowed_cons ⟨?_, ?_⟩ ?_ | exact Or.inl rfl | exact Or.inr rfl | trivial | rfl | split⟩
theorem may_vcmpLe : ∀ x0 x1 , MayDo (.vcmpLe x0 x1) := fun x0 x1  _ h => Option.some.inj h ▸ ⟨_, fun _ => rfl, by
  intro env c pos
  repeat' first | exact allowed_nil | refine allowed_checked ?_ | refine allowed_cons ⟨?_, ?_⟩ ?_ | exact Or.inl rfl | exact Or.inr rfl | trivial | rfl | split⟩
theorem may_vcmpLeMsk : ∀ x0 x1 x2 , MayDo (.vcmpLeMsk x0 x1 x2) := fun x0 x1 x2  _ h => Option.some.inj h ▸ ⟨_, fun _ => rfl, by
  intro env c pos
  repeat' first | exact allowed_nil | refine allowed_checked ?_ | refine allowed_cons ⟨?_, ?_⟩ ?_ | exact Or.inl rfl | exact Or.inr rfl | trivial | rfl | split⟩
theorem may_vcmpUn : ∀ x0 x1 , MayDo (.vcmpUn x0 x1) := fun x0 x1  _ h => Option.some.inj h ▸ ⟨_, fun _ => rfl, by
  intro env c pos
  repeat' first | exact allowed_nil | refine allowed_checked ?_ | refine allowed_cons ⟨?_, ?_⟩ ?_ | exact Or.inl rfl | exact Or.inr rfl | trivial | rfl | split⟩
theorem may_vcmpUnMsk : ∀ x0 x1 x2 , MayDo (.vcmpUnMsk x0 x1 x2) := fun x0 x1 x2  _ h => Option.some.inj h ▸ ⟨_, fun _ => rfl, by
  intro env c pos
  repeat' first | exact allowed_nil | refine allowed_checked ?_ | refine allowed_cons ⟨?_, ?_⟩ ?_ | exact Or.inl rfl | exact Or.inr rfl | trivial | rfl | split⟩
theorem may_vsel : ∀ x0 x1 , MayDo (.vsel x0 x1) := fun x0 x1  _ h => Option.some.inj h ▸ ⟨_, fun _ => rfl, by
  intro env c pos
  dsimp only [vecReq, vectorEffects]
  repeat' first | exact allowed_nil | refine allowed_checked ?_ | refine allowed_cons ⟨?_, ?_⟩ ?_ | exact Or.inl rfl | exact Or.inr rfl | trivial | rfl | split⟩
theorem may_vselMsk : ∀ x0 x1 x2 , MayDo (.vselMsk x0 x1 x2) := fun x0 x1 x2  _ h => Option.some.inj h ▸ ⟨_, fun _ => rfl, by
  intro env c pos
  dsimp only [vecReq, vectorEffects]
  repeat' first | exact allowed_nil | refine allowed_checked ?_ | refine allowed_cons ⟨?_, ?_⟩ ?_ | exact Or.inl rfl | exact Or.inr rfl | trivial | rfl | split⟩
theorem may_vclamp : ∀ x0 x1 , MayDo (.vclamp x0 x1) := fun x0 x1  _ h => Option.some.inj h ▸ ⟨_, fun _ => rfl, by
  intro env c pos
  dsimp only [vecReq, vectorEffects]
  repeat' first | exact allowed_nil | refine allowed_checked ?_ | refine allowed_cons ⟨?_, ?_⟩ ?_ | exact Or.inl rfl | exact Or.inr rfl | trivial | rfl | split⟩
theorem may_viadd : ∀ x0 x1 , MayDo (.viadd x0 x1) := fun x0 x1  _ h => Option.some.inj h ▸ ⟨_, fun _ => rfl, by
  intro env c pos
  dsimp only [vec2, vecReq, vectorEffects]
  repeat' first | exact allowed_nil | refine allowed_checked ?_ | refine allowed_cons ⟨?_, ?_⟩ ?_ | exact Or.inl rfl | exact Or.inr rfl | trivial | rfl | split⟩
theorem may_viaddMsk : ∀ x0 x1 x2 , MayDo (.viaddMsk x0 x1 x2) := fun x0 x1 x2  _ h => Option.some.inj h ▸ ⟨_, fun _ => rfl, by
  intro env c pos
  dsimp only [vec2, vecReq, vectorEffects]
  repeat' first | exact allowed_nil | refine allowed_checked ?_ | refine allowed_cons ⟨?_, ?_⟩ ?_ | exact Or.inl rfl | exact Or.inr rfl | trivial | rfl | split⟩
theorem may_visub : ∀ x0 x1 , MayDo (.visub x0 x1) := fun x0 x1  _ h => Option.some.inj h ▸ ⟨_, fun _ => rfl, by
  intro env c pos
  dsimp only [vec2, vecReq, vectorEffects]
  repeat' first | exact allowed_nil | refine allowed_checked ?_ | refine allowed_cons ⟨?_, ?_⟩ ?_ | exact Or.inl rfl | exact Or.inr rfl | trivial | rfl | split⟩
theorem may_visubMsk : ∀ x0 x1 x2 , MayDo (.visubMsk x0 x1 x2) := fun x0 x1 x2  _ h => Option.some.inj h ▸ ⟨_, fun _ => rfl, by
  intro env c pos
  dsimp only [vec2, vecReq, vectorEffects]
  repeat' first | exact allowed_nil | refine allowed_checked ?_ | refine allowed_cons ⟨?_, ?_⟩ ?_ | exact Or.inl rfl | exact Or.inr rfl | trivial | rfl | split⟩
theorem may_vimul : ∀ x0 x1 , MayDo (.vimul x0 x1) := fun x0 x1  _ h => Option.some.inj h ▸ ⟨_, fun _ => rfl, by
  intro env c pos
  dsimp only [vec2, vecReq, vectorEffects]
  repeat' first | exact allowed_nil | refine allowed_checked ?_ | refine allowed_cons ⟨?_, ?_⟩ ?_ | exact Or.inl rfl | exact Or.inr rfl | trivial | rfl | split⟩
theorem may_vimulMsk : ∀ x0 x1 x2 , MayDo (.vimulMsk x0 x1 x2) := fun x0 x1 x2  _ h => Option.some.inj h ▸ ⟨_, fun _ => rfl, by
  intro env c pos
  dsimp only [vec2, vecReq, vectorEffects]
  repeat' first | exact allowed_nil | refine allowed_checked ?_ | refine allowed_cons ⟨?_, ?_⟩ ?_ | exact Or.inl rfl | exact Or.inr rfl | trivial | rfl | split⟩
theorem may_vimin : ∀ x0 x1 , MayDo (.vimin x0 x1) := fun x0 x1  _ h => Option.some.inj h ▸ ⟨_, fun _ => rfl, by
  intro env c pos
  dsimp only [vec2, vecReq, vectorEffects]
  repeat' first | exact allowed_nil | refine allowed_checked ?_ | refine allowed_cons ⟨?_, ?_⟩ ?_ | exact Or.inl rfl | exact Or.inr rfl | trivial | rfl | split⟩
theorem may_viminMsk : ∀ x0 x1 x2 , MayDo (.viminMsk x0 x1 x2) := fun x0 x1 x2  _ h => Option.some.inj h ▸ ⟨_, fun _ => rfl, by
  intro env c pos
  dsimp only [vec2, vecReq, vectorEffects]
  repeat' first | exact allowed_nil | refine allowed_checked ?_ | refine allowed_cons ⟨?_, ?_⟩ ?_ | exact Or.inl rfl | exact Or.inr rfl | trivial | rfl | split⟩
theorem may_vimax : ∀ x0 x1 , MayDo (.vimax x0 x1) := fun x0 x1  _ h => Option.some.inj h ▸ ⟨_, fun _ => rfl, by
  intro env c pos
  dsimp only [vec2, vecReq, vectorEffects]
  repeat' first | exact allowed_nil | refine allowed_checked ?_ | refine allowed_cons ⟨?_, ?_⟩ ?_ | exact Or.inl rfl | exact Or.inr rfl | trivial | rfl | split⟩
theorem may_vimaxMsk : ∀ x0 x1 x2 , MayDo (.vimaxMsk x0 x1 x2) := fun x0 x1 x2  _ h => Option.some.inj h ▸ ⟨_, fun _ => rfl, by
  intro env c pos
  dsimp only [vec2, vecReq, vectorEffects]
  repeat' first | exact allowed_nil | refine allowed_checked ?_ | refine allowed_cons ⟨?_, ?_⟩ ?_ | exact Or.inl rfl | exact Or.inr rfl | trivial | rfl | split⟩
theorem may_vand : ∀ x0 x1 , MayDo (.vand x0 x1) := fun x0 x1  _ h => Option.some.inj h ▸ ⟨_, fun _ => rfl, by
  intro env c pos
  dsimp only [vec2, vecReq, vectorEffects]
  repeat' first | exact allowed_nil | refine allowed_checked ?_ | refine allowed_cons ⟨?_, ?_⟩ ?_ | exact Or.inl rfl | exact Or.inr rfl | trivial | rfl | split⟩
theorem may_vandMsk : ∀ x0 x1 x2 , MayDo (.vandMsk x0 x1 x2) := fun x0 x1 x2  _ h => Option.some.inj h ▸ ⟨_, fun _ => rfl, by
  intro env c pos
  dsimp only [vec2, vecReq, vectorEffects]
  repeat' first | exact allowed_nil | refine allowed_checked ?_ | refine allowed_cons ⟨?_, ?_⟩ ?_ | exact Or.inl rfl | exact Or.inr rfl | trivial | rfl | split⟩
theorem may_vor : ∀ x0 x1 , MayDo (.vor x0 x1) := fun x0 x1  _ h => Option.some.inj h ▸ ⟨_, fun _ => rfl, by
  intro env c pos
  dsimp only [vec2, vecReq, vectorEffects]
  repeat' first | exact allowed_nil | refine allowed_checked ?_ | refine allowed_cons ⟨?_, ?_⟩ ?_ | exact Or.inl rfl | exact Or.inr rfl | trivial | rfl | split⟩
theorem may_vorMsk : ∀ x0 x1 x2 , MayDo (.vorMsk x0 x1 x2) := fun x0 x1 x2  _ h => Option.some.inj h ▸ ⟨_, fun _ => rfl, by
  intro env c pos
  dsimp only [vec2, vecReq, vectorEffects]
  repeat' first | exact allowed_nil | refine allowed_checked ?_ | refine allowed_cons ⟨?_, ?_⟩ ?_ | exact Or.inl rfl | exact Or.inr rfl | trivial | rfl | split⟩
theorem may_vxor : ∀ x0 x1 , MayDo (.vxor x0 x1) := fun x0 x1  _ h => Option.some.inj h ▸ ⟨_, fun _ => rfl, by
  intro env c pos
  dsimp only [vec2, vecReq, vectorEffects]
  repeat' first | exact allowed_nil | refine allowed_checked ?_ | refine allowed_cons ⟨?_, ?_⟩ ?_ | exact Or.inl rfl | exact Or.inr rfl | trivial | rfl | split⟩
theorem may_vxorMsk : ∀ x0 x1 x2 , MayDo (.vxorMsk x0 x1 x2) := fun x0 x1 x2  _ h => Option.some.inj h ▸ ⟨_, fun _ => rfl, by
  intro env c pos
  dsimp only [vec2, vecReq, vectorEffects]
  repeat' first | exact allowed_nil | refine allowed_checked ?_ | refine allowed_cons ⟨?_, ?_⟩ ?_ | exact Or.inl rfl | exact Or.inr rfl | trivial | rfl | split⟩
theorem may_vandn : ∀ x0 x1 , MayDo (.vandn x0 x1) := fun x0 x1  _ h => Option.some.inj h ▸ ⟨_, fun _ => rfl, by
  intro env c pos
  dsimp only [vec2, vecReq, vectorEffects]
  repeat' first | exact allowed_nil | refine allowed_checked ?_ | refine allowed_cons ⟨?_, ?_⟩ ?_ | exact Or.inl rfl | exact Or.inr rfl | trivial | rfl | split⟩
theorem may_vandnMsk : ∀ x0 x1 x2 , MayDo (.vandnMsk x0 x1 x2) := fun x0 x1 x2  _ h => Option.some.inj h ▸ ⟨_, fun _ => rfl, by
  intro env c pos
  dsimp only [vec2, vecReq, vectorEffects]
  repeat' first | exact allowed_nil | refine allowed_checked ?_ | refine allowed_cons ⟨?_, ?_⟩ ?_ | exact Or.inl rfl | exact Or.inr rfl | trivial | rfl | split⟩
theorem may_vshl : ∀ x0 x1 , MayDo (.vshl x0 x1) := fun x0 x1  _ h => Option.some.inj h ▸ ⟨_, fun _ => rfl, by
  intro env c pos
  dsimp only [vec2, vecReq, vectorEffects]
  repeat' first | exact allowed_nil | refine allowed_checked ?_ | refine allowed_cons ⟨?_, ?_⟩ ?_ | exact Or.inl rfl | exact Or.inr rfl | trivial | rfl | split⟩
theorem may_vshlMsk : ∀ x0 x1 x2 , MayDo (.vshlMsk x0 x1 x2) := fun x0 x1 x2  _ h => Option.some.inj h ▸ ⟨_, fun _ => rfl, by
  intro env c pos
  dsimp only [vec2, vecReq, vectorEffects]
  repeat' first | exact allowed_nil | refine allowed_checked ?_ | refine allowed_cons ⟨?_, ?_⟩ ?_ | exact Or.inl rfl | exact Or.inr rfl | trivial | rfl | split⟩
theorem may_vshr : ∀ x0 x1 , MayDo (.vshr x0 x1) := fun x0 x1  _ h => Option.some.inj h ▸ ⟨_, fun _ => rfl, by
  intro env c pos
  dsimp only [vec2, vecReq, vectorEffects]
  repeat' first | exact allowed_nil | refine allowed_checked ?_ | refine allowed_cons ⟨?_, ?_⟩ ?_ | exact Or.inl rfl | exact Or.inr rfl | trivial | rfl | split⟩
theorem may_vshrMsk : ∀ x0 x1 x2 , MayDo (.vshrMsk x0 x1 x2) := fun x0 x1 x2  _ h => Option.some.inj h ▸ ⟨_, fun _ => rfl, by
  intro env c pos
  dsimp only [vec2, vecReq, vectorEffects]
  repeat' first | exact allowed_nil | refine allowed_checked ?_ | refine allowed_cons ⟨?_, ?_⟩ ?_ | exact Or.inl rfl | exact Or.inr rfl | trivial | rfl | split⟩
theorem may_vsra : ∀ x0 x1 , MayDo (.vsra x0 x1) := fun x0 x1  _ h => Option.some.inj h ▸ ⟨_, fun _ => rfl, by
  intro env c pos
  dsimp only [vec2, vecReq, vectorEffects]
  repeat' first | exact allowed_nil | refine allowed_checked ?_ | refine allowed_cons ⟨?_, ?_⟩ ?_ | exact Or.inl rfl | exact Or.inr rfl | trivial | rfl | split⟩
theorem may_vsraMsk : ∀ x0 x1 x2 , MayDo (.vsraMsk x0 x1 x2) := fun x0 x1 x2  _ h => Option.some.inj h ▸ ⟨_, fun _ => rfl, by
  intro env c pos
  dsimp only [vec2, vecReq, vectorEffects]
  repeat' first | exact allowed_nil | refine allowed_checked ?_ | refine allowed_cons ⟨?_, ?_⟩ ?_ | exact Or.inl rfl | exact Or.inr rfl | trivial | rfl | split⟩
theorem may_vicmpEq : ∀ x0 x1 , MayDo (.vicmpEq x0 x1) := fun x0 x1  _ h => Option.some.inj h ▸ ⟨_, fun _ => rfl, by
  intro env c pos
  repeat' first | exact allowed_nil | refine allowed_checked ?_ | refine allowed_cons ⟨?_, ?_⟩ ?_ | exact Or.inl rfl | exact Or.inr rfl | trivial | rfl | split⟩
theorem may_vicmpEqMsk : ∀ x0 x1 x2 , MayDo (.vicmpEqMsk x0 x1 x2) := fun x0 x1 x2  _ h => Option.some.inj h ▸ ⟨_, fun _ => rfl, by
  intro env c pos
  repeat' first | exact allowed_nil | refine allowed_checked ?_ | refine allowed_cons ⟨?_, ?_⟩ ?_ | exact Or.inl rfl | exact Or.inr rfl | trivial | rfl | split⟩
theorem may_vicmpLt : ∀ x0 x1 , MayDo (.vicmpLt x0 x1) := fun x0 x1  _ h => Option.some.inj h ▸ ⟨_, fun _ => rfl, by
  intro env c pos
  repeat' first | exact allowed_nil | refine allowed_checked ?_ | refine allowed_cons ⟨?_, ?_⟩ ?_ | exact Or.inl rfl | exact Or.inr rfl | trivial | rfl | split⟩
theorem may_vicmpLtMsk : ∀ x0 x1 x2 , MayDo (.vicmpLtMsk x0 x1 x2) := fun x0 x1 x2  _ h => Option.some.inj h ▸ ⟨_, fun _ => rfl, by
  intro env c pos
  repeat' first | exact allowed_nil | refine allowed_checked ?_ | refine allowed_cons ⟨?_, ?_⟩ ?_ | exact Or.inl rfl | exact Or.inr rfl | trivial | rfl | split⟩
theorem may_vicmpLe : ∀ x0 x1 , MayDo (.vicmpLe x0 x1) := fun x0 x1  _ h => Option.some.inj h ▸ ⟨_, fun _ => rfl, by
  intro env c pos
  repeat' first | exact allowed_nil | refine allowed_checked ?_ | refine allowed_cons ⟨?_, ?_⟩ ?_ | exact Or.inl rfl | exact Or.inr rfl | trivial | rfl | split⟩
theorem may_vicmpLeMsk : ∀ x0 x1 x2 , MayDo (.vicmpLeMsk x0 x1 x2) := fun x0 x1 x2  _ h => Option.some.inj h ▸ ⟨_, fun _ => rfl, by
  intro env c pos
  repeat' first | exact allowed_nil | refine allowed_checked ?_ | refine allowed_cons ⟨?_, ?_⟩ ?_ | exact Or.inl rfl | exact Or.inr rfl | trivial | rfl | split⟩
theorem may_vbcast : ∀ x0 x1 , MayDo (.vbcast x0 x1) := fun x0 x1  _ h => Option.some.inj h ▸ ⟨_, fun _ => rfl, by
  intro env c pos
  dsimp only [vecReq, vectorEffects]
  repeat' first | exact allowed_nil | refine allowed_checked ?_ | refine allowed_cons ⟨?_, ?_⟩ ?_ | exact Or.inl rfl | exact Or.inr rfl | trivial | rfl | split⟩
theorem may_vbcastMsk : ∀ x0 x1 x2 , MayDo (.vbcastMsk x0 x1 x2) := fun x0 x1 x2  _ h => Option.some.inj h ▸ ⟨_, fun _ => rfl, by
  intro env c pos
  dsimp only [vecReq, vectorEffects]
  repeat' first | exact allowed_nil | refine allowed_checked ?_ | refine allowed_cons ⟨?_, ?_⟩ ?_ | exact Or.inl rfl | exact Or.inr rfl | trivial | rfl | split⟩
theorem may_vext : ∀ x0 x1 , MayDo (.vext x0 x1) := fun x0 x1  _ h => Option.some.inj h ▸ ⟨_, fun _ => rfl, by
  intro env c pos
  dsimp only [scalarReq]
  repeat' first | exact allowed_nil | refine allowed_checked ?_ | refine allowed_cons ⟨?_, ?_⟩ ?_ | exact Or.inl rfl | exact Or.inr rfl | trivial | rfl | split⟩
theorem may_vins : ∀ x0 x1 , MayDo (.vins x0 x1) := fun x0 x1  _ h => Option.some.inj h ▸ ⟨_, fun _ => rfl, by
  intro env c pos
  repeat' first | exact allowed_nil | refine allowed_checked ?_ | refine allowed_cons ⟨?_, ?_⟩ ?_ | exact Or.inl rfl | exact Or.inr rfl | trivial | rfl | split⟩
theorem may_vperm : ∀ x0 x1 , MayDo (.vperm x0 x1) := fun x0 x1  _ h => Option.some.inj h ▸ ⟨_, fun _ => rfl, by
  intro env c pos
  dsimp only [vecReq, vectorEffects]
  repeat' first | exact allowed_nil | refine allowed_checked ?_ | refine allowed_cons ⟨?_, ?_⟩ ?_ | exact Or.inl rfl | exact Or.inr rfl | trivial | rfl | split⟩
theorem may_vpermMsk : ∀ x0 x1 x2 , MayDo (.vpermMsk x0 x1 x2) := fun x0 x1 x2  _ h => Option.some.inj h ▸ ⟨_, fun _ => rfl, by
  intro env c pos
  dsimp only [vecReq, vectorEffects]
  repeat' first | exact allowed_nil | refine allowed_checked ?_ | refine allowed_cons ⟨?_, ?_⟩ ?_ | exact Or.inl rfl | exact Or.inr rfl | trivial | rfl | split⟩
theorem may_vshift : ∀ x0 x1 , MayDo (.vshift x0 x1) := fun x0 x1  _ h => Option.some.inj h ▸ ⟨_, fun _ => rfl, by
  intro env c pos
  dsimp only [vecReq, vectorEffects]
  repeat' first | exact allowed_nil | refine allowed_checked ?_ | refine allowed_cons ⟨?_, ?_⟩ ?_ | exact Or.inl rfl | exact Or.inr rfl | trivial | rfl | split⟩
theorem may_vshiftMsk : ∀ x0 x1 x2 , MayDo (.vshiftMsk x0 x1 x2) := fun x0 x1 x2  _ h => Option.some.inj h ▸ ⟨_, fun _ => rfl, by
  intro env c pos
  dsimp only [vecReq, vectorEffects]
  repeat' first | exact allowed_nil | refine allowed_checked ?_ | refine allowed_cons ⟨?_, ?_⟩ ?_ | exact Or.inl rfl | exact Or.inr rfl | trivial | rfl | split⟩
theorem may_vrot : ∀ x0 x1 , MayDo (.vrot x0 x1) := fun x0 x1  _ h => Option.some.inj h ▸ ⟨_, fun _ => rfl, by
  intro env c pos
  dsimp only [vecReq, vectorEffects]
  repeat' first | exact allowed_nil | refine allowed_checked ?_ | refine allowed_cons ⟨?_, ?_⟩ ?_ | exact Or.inl rfl | exact Or.inr rfl | trivial | rfl | split⟩
theorem may_vrotMsk : ∀ x0 x1 x2 , MayDo (.vrotMsk x0 x1 x2) := fun x0 x1 x2  _ h => Option.some.inj h ▸ ⟨_, fun _ => rfl, by
  intro env c pos
  dsimp only [vecReq, vectorEffects]
  repeat' first | exact allowed_nil | refine allowed_checked ?_ | refine allowed_cons ⟨?_, ?_⟩ ?_ | exact Or.inl rfl | exact Or.inr rfl | trivial | rfl | split⟩
theorem may_vsum : ∀ x0 x1 , MayDo (.vsum x0 x1) := fun x0 x1  _ h => Option.some.inj h ▸ ⟨_, fun _ => rfl, by
  intro env c pos
  dsimp only [reduceReq]
  repeat' first | exact allowed_nil | refine allowed_checked ?_ | refine allowed_cons ⟨?_, ?_⟩ ?_ | exact Or.inl rfl | exact Or.inr rfl | trivial | rfl | split⟩
theorem may_vsumMsk : ∀ x0 x1 x2 , MayDo (.vsumMsk x0 x1 x2) := fun x0 x1 x2  _ h => Option.some.inj h ▸ ⟨_, fun _ => rfl, by
  intro env c pos
  dsimp only [reduceReq]
  repeat' first | exact allowed_nil | refine allowed_checked ?_ | refine allowed_cons ⟨?_, ?_⟩ ?_ | exact Or.inl rfl | exact Or.inr rfl | trivial | rfl | split⟩
theorem may_vmaxr : ∀ x0 x1 , MayDo (.vmaxr x0 x1) := fun x0 x1  _ h => Option.some.inj h ▸ ⟨_, fun _ => rfl, by
  intro env c pos
  dsimp only [reduceReq]
  repeat' first | exact allowed_nil | refine allowed_checked ?_ | refine allowed_cons ⟨?_, ?_⟩ ?_ | exact Or.inl rfl | exact Or.inr rfl | trivial | rfl | split⟩
theorem may_vmaxrMsk : ∀ x0 x1 x2 , MayDo (.vmaxrMsk x0 x1 x2) := fun x0 x1 x2  _ h => Option.some.inj h ▸ ⟨_, fun _ => rfl, by
  intro env c pos
  dsimp only [reduceReq]
  repeat' first | exact allowed_nil | refine allowed_checked ?_ | refine allowed_cons ⟨?_, ?_⟩ ?_ | exact Or.inl rfl | exact Or.inr rfl | trivial | rfl | split⟩
theorem may_vminr : ∀ x0 x1 , MayDo (.vminr x0 x1) := fun x0 x1  _ h => Option.some.inj h ▸ ⟨_, fun _ => rfl, by
  intro env c pos
  dsimp only [reduceReq]
  repeat' first | exact allowed_nil | refine allowed_checked ?_ | refine allowed_cons ⟨?_, ?_⟩ ?_ | exact Or.inl rfl | exact Or.inr rfl | trivial | rfl | split⟩
theorem may_vminrMsk : ∀ x0 x1 x2 , MayDo (.vminrMsk x0 x1 x2) := fun x0 x1 x2  _ h => Option.some.inj h ▸ ⟨_, fun _ => rfl, by
  intro env c pos
  dsimp only [reduceReq]
  repeat' first | exact allowed_nil | refine allowed_checked ?_ | refine allowed_cons ⟨?_, ?_⟩ ?_ | exact Or.inl rfl | exact Or.inr rfl | trivial | rfl | split⟩
theorem may_mand : ∀ x0 x1 , MayDo (.mand x0 x1) := fun x0 x1  _ h => Option.some.inj h ▸ ⟨_, fun _ => rfl, by
  intro env c pos
  dsimp only [maskReq]
  repeat' first | exact allowed_nil | refine allowed_checked ?_ | refine allowed_cons ⟨?_, ?_⟩ ?_ | exact Or.inl rfl | exact Or.inr rfl | trivial | rfl | split⟩
theorem may_mor : ∀ x0 x1 , MayDo (.mor x0 x1) := fun x0 x1  _ h => Option.some.inj h ▸ ⟨_, fun _ => rfl, by
  intro env c pos
  dsimp only [maskReq]
  repeat' first | exact allowed_nil | refine allowed_checked ?_ | refine allowed_cons ⟨?_, ?_⟩ ?_ | exact Or.inl rfl | exact Or.inr rfl | trivial | rfl | split⟩
theorem may_mxor : ∀ x0 x1 , MayDo (.mxor x0 x1) := fun x0 x1  _ h => Option.some.inj h ▸ ⟨_, fun _ => rfl, by
  intro env c pos
  dsimp only [maskReq]
  repeat' first | exact allowed_nil | refine allowed_checked ?_ | refine allowed_cons ⟨?_, ?_⟩ ?_ | exact Or.inl rfl | exact Or.inr rfl | trivial | rfl | split⟩
theorem may_mnot : ∀ x0 x1 , MayDo (.mnot x0 x1) := fun x0 x1  _ h => Option.some.inj h ▸ ⟨_, fun _ => rfl, by
  intro env c pos
  dsimp only [maskReq]
  repeat' first | exact allowed_nil | refine allowed_checked ?_ | refine allowed_cons ⟨?_, ?_⟩ ?_ | exact Or.inl rfl | exact Or.inr rfl | trivial | rfl | split⟩
theorem may_mpop : ∀ x0 x1 , MayDo (.mpop x0 x1) := fun x0 x1  _ h => Option.some.inj h ▸ ⟨_, fun _ => rfl, by
  intro env c pos
  dsimp only [scalarReq]
  repeat' first | exact allowed_nil | refine allowed_checked ?_ | refine allowed_cons ⟨?_, ?_⟩ ?_ | exact Or.inl rfl | exact Or.inr rfl | trivial | rfl | split⟩
theorem may_mfirst : ∀ x0 x1 , MayDo (.mfirst x0 x1) := fun x0 x1  _ h => Option.some.inj h ▸ ⟨_, fun _ => rfl, by
  intro env c pos
  dsimp only [scalarReq]
  repeat' first | exact allowed_nil | refine allowed_checked ?_ | refine allowed_cons ⟨?_, ?_⟩ ?_ | exact Or.inl rfl | exact Or.inr rfl | trivial | rfl | split⟩
theorem may_vvalid : ∀ x0 x1 , MayDo (.vvalid x0 x1) := fun x0 x1  _ h => Option.some.inj h ▸ ⟨_, fun _ => rfl, by
  intro env c pos
  dsimp only [maskReq]
  repeat' first | exact allowed_nil | refine allowed_checked ?_ | refine allowed_cons ⟨?_, ?_⟩ ?_ | exact Or.inl rfl | exact Or.inr rfl | trivial | rfl | split⟩
theorem may_vmov : ∀ x0 x1 , MayDo (.vmov x0 x1) := fun x0 x1  _ h => Option.some.inj h ▸ ⟨_, fun _ => rfl, by
  intro env c pos
  dsimp only [vecReq, vectorEffects]
  repeat' first | exact allowed_nil | refine allowed_checked ?_ | refine allowed_cons ⟨?_, ?_⟩ ?_ | exact Or.inl rfl | exact Or.inr rfl | trivial | rfl | split⟩
theorem may_vmovMsk : ∀ x0 x1 x2 , MayDo (.vmovMsk x0 x1 x2) := fun x0 x1 x2  _ h => Option.some.inj h ▸ ⟨_, fun _ => rfl, by
  intro env c pos
  dsimp only [vecReq, vectorEffects]
  repeat' first | exact allowed_nil | refine allowed_checked ?_ | refine allowed_cons ⟨?_, ?_⟩ ?_ | exact Or.inl rfl | exact Or.inr rfl | trivial | rfl | split⟩
theorem may_vmovAnd : ∀ x0 x1 , MayDo (.vmovAnd x0 x1) := fun x0 x1  _ h => Option.some.inj h ▸ ⟨_, fun _ => rfl, by
  intro env c pos
  dsimp only [vecReq, vectorEffects]
  repeat' first | exact allowed_nil | refine allowed_checked ?_ | refine allowed_cons ⟨?_, ?_⟩ ?_ | exact Or.inl rfl | exact Or.inr rfl | trivial | rfl | split⟩
theorem may_vmovAndMsk : ∀ x0 x1 x2 , MayDo (.vmovAndMsk x0 x1 x2) := fun x0 x1 x2  _ h => Option.some.inj h ▸ ⟨_, fun _ => rfl, by
  intro env c pos
  dsimp only [vecReq, vectorEffects]
  repeat' first | exact allowed_nil | refine allowed_checked ?_ | refine allowed_cons ⟨?_, ?_⟩ ?_ | exact Or.inl rfl | exact Or.inr rfl | trivial | rfl | split⟩
theorem may_vmovSet : ∀ x0 x1 , MayDo (.vmovSet x0 x1) := fun x0 x1  _ h => Option.some.inj h ▸ ⟨_, fun _ => rfl, by
  intro env c pos
  dsimp only [vecReq, vectorEffects]
  repeat' first | exact allowed_nil | refine allowed_checked ?_ | refine allowed_cons ⟨?_, ?_⟩ ?_ | exact Or.inl rfl | exact Or.inr rfl | trivial | rfl | split⟩
theorem may_vmovSetMsk : ∀ x0 x1 x2 , MayDo (.vmovSetMsk x0 x1 x2) := fun x0 x1 x2  _ h => Option.some.inj h ▸ ⟨_, fun _ => rfl, by
  intro env c pos
  dsimp only [vecReq, vectorEffects]
  repeat' first | exact allowed_nil | refine allowed_checked ?_ | refine allowed_cons ⟨?_, ?_⟩ ?_ | exact Or.inl rfl | exact Or.inr rfl | trivial | rfl | split⟩
theorem may_vrcp : ∀ x0 x1 , MayDo (.vrcp x0 x1) := fun x0 x1  _ h => Option.some.inj h ▸ ⟨_, fun _ => rfl, by
  intro env c pos
  dsimp only [specialReq, vec1, vecReq, vectorEffects]
  repeat' first | exact allowed_nil | refine allowed_checked ?_ | refine allowed_cons ⟨?_, ?_⟩ ?_ | exact Or.inl rfl | exact Or.inr rfl | trivial | rfl | split⟩
theorem may_vrcpMsk : ∀ x0 x1 x2 , MayDo (.vrcpMsk x0 x1 x2) := fun x0 x1 x2  _ h => Option.some.inj h ▸ ⟨_, fun _ => rfl, by
  intro env c pos
  dsimp only [specialReq, vec1, vecReq, vectorEffects]
  repeat' first | exact allowed_nil | refine allowed_checked ?_ | refine allowed_cons ⟨?_, ?_⟩ ?_ | exact Or.inl rfl | exact Or.inr rfl | trivial | rfl | split⟩
theorem may_vrsqrt : ∀ x0 x1 , MayDo (.vrsqrt x0 x1) := fun x0 x1  _ h => Option.some.inj h ▸ ⟨_, fun _ => rfl, by
  intro env c pos
  dsimp only [specialReq, vec1, vecReq, vectorEffects]
  repeat' first | exact allowed_nil | refine allowed_checked ?_ | refine allowed_cons ⟨?_, ?_⟩ ?_ | exact Or.inl rfl | exact Or.inr rfl | trivial | rfl | split⟩
theorem may_vrsqrtMsk : ∀ x0 x1 x2 , MayDo (.vrsqrtMsk x0 x1 x2) := fun x0 x1 x2  _ h => Option.some.inj h ▸ ⟨_, fun _ => rfl, by
  intro env c pos
  dsimp only [specialReq, vec1, vecReq, vectorEffects]
  repeat' first | exact allowed_nil | refine allowed_checked ?_ | refine allowed_cons ⟨?_, ?_⟩ ?_ | exact Or.inl rfl | exact Or.inr rfl | trivial | rfl | split⟩
theorem may_vsqrt : ∀ x0 x1 , MayDo (.vsqrt x0 x1) := fun x0 x1  _ h => Option.some.inj h ▸ ⟨_, fun _ => rfl, by
  intro env c pos
  dsimp only [specialReq, vec1, vecReq, vectorEffects]
  repeat' first | exact allowed_nil | refine allowed_checked ?_ | refine allowed_cons ⟨?_, ?_⟩ ?_ | exact Or.inl rfl | exact Or.inr rfl | trivial | rfl | split⟩
theorem may_vsqrtMsk : ∀ x0 x1 x2 , MayDo (.vsqrtMsk x0 x1 x2) := fun x0 x1 x2  _ h => Option.some.inj h ▸ ⟨_, fun _ => rfl, by
  intro env c pos
  dsimp only [specialReq, vec1, vecReq, vectorEffects]
  repeat' first | exact allowed_nil | refine allowed_checked ?_ | refine allowed_cons ⟨?_, ?_⟩ ?_ | exact Or.inl rfl | exact Or.inr rfl | trivial | rfl | split⟩
theorem may_vexp2 : ∀ x0 x1 , MayDo (.vexp2 x0 x1) := fun x0 x1  _ h => Option.some.inj h ▸ ⟨_, fun _ => rfl, by
  intro env c pos
  dsimp only [specialReq, vec1, vecReq, vectorEffects]
  repeat' first | exact allowed_nil | refine allowed_checked ?_ | refine allowed_cons ⟨?_, ?_⟩ ?_ | exact Or.inl rfl | exact Or.inr rfl | trivial | rfl | split⟩
theorem may_vexp2Msk : ∀ x0 x1 x2 , MayDo (.vexp2Msk x0 x1 x2) := fun x0 x1 x2  _ h => Option.some.inj h ▸ ⟨_, fun _ => rfl, by
  intro env c pos
  dsimp only [specialReq, vec1, vecReq, vectorEffects]
  repeat' first | exact allowed_nil | refine allowed_checked ?_ | refine allowed_cons ⟨?_, ?_⟩ ?_ | exact Or.inl rfl | exact Or.inr rfl | trivial | rfl | split⟩
theorem may_vlog2 : ∀ x0 x1 , MayDo (.vlog2 x0 x1) := fun x0 x1  _ h => Option.some.inj h ▸ ⟨_, fun _ => rfl, by
  intro env c pos
  dsimp only [specialReq, vec1, vecReq, vectorEffects]
  repeat' first | exact allowed_nil | refine allowed_checked ?_ | refine allowed_cons ⟨?_, ?_⟩ ?_ | exact Or.inl rfl | exact Or.inr rfl | trivial | rfl | split⟩
theorem may_vlog2Msk : ∀ x0 x1 x2 , MayDo (.vlog2Msk x0 x1 x2) := fun x0 x1 x2  _ h => Option.some.inj h ▸ ⟨_, fun _ => rfl, by
  intro env c pos
  dsimp only [specialReq, vec1, vecReq, vectorEffects]
  repeat' first | exact allowed_nil | refine allowed_checked ?_ | refine allowed_cons ⟨?_, ?_⟩ ?_ | exact Or.inl rfl | exact Or.inr rfl | trivial | rfl | split⟩
theorem may_vtanh : ∀ x0 x1 , MayDo (.vtanh x0 x1) := fun x0 x1  _ h => Option.some.inj h ▸ ⟨_, fun _ => rfl, by
  intro env c pos
  dsimp only [specialReq, vec1, vecReq, vectorEffects]
  repeat' first | exact allowed_nil | refine allowed_checked ?_ | refine allowed_cons ⟨?_, ?_⟩ ?_ | exact Or.inl rfl | exact Or.inr rfl | trivial | rfl | split⟩
theorem may_vtanhMsk : ∀ x0 x1 x2 , MayDo (.vtanhMsk x0 x1 x2) := fun x0 x1 x2  _ h => Option.some.inj h ▸ ⟨_, fun _ => rfl, by
  intro env c pos
  dsimp only [specialReq, vec1, vecReq, vectorEffects]
  repeat' first | exact allowed_nil | refine allowed_checked ?_ | refine allowed_cons ⟨?_, ?_⟩ ?_ | exact Or.inl rfl | exact Or.inr rfl | trivial | rfl | split⟩
theorem may_vsigm : ∀ x0 x1 , MayDo (.vsigm x0 x1) := fun x0 x1  _ h => Option.some.inj h ▸ ⟨_, fun _ => rfl, by
  intro env c pos
  dsimp only [specialReq, vec1, vecReq, vectorEffects]
  repeat' first | exact allowed_nil | refine allowed_checked ?_ | refine allowed_cons ⟨?_, ?_⟩ ?_ | exact Or.inl rfl | exact Or.inr rfl | trivial | rfl | split⟩
theorem may_vsigmMsk : ∀ x0 x1 x2 , MayDo (.vsigmMsk x0 x1 x2) := fun x0 x1 x2  _ h => Option.some.inj h ▸ ⟨_, fun _ => rfl, by
  intro env c pos
  dsimp only [specialReq, vec1, vecReq, vectorEffects]
  repeat' first | exact allowed_nil | refine allowed_checked ?_ | refine allowed_cons ⟨?_, ?_⟩ ?_ | exact Or.inl rfl | exact Or.inr rfl | trivial | rfl | split⟩
theorem may_vrand : ∀ x0 x1 , MayDo (.vrand x0 x1) := fun x0 x1  _ h => Option.some.inj h ▸ ⟨_, fun _ => rfl, by
  intro env c pos
  dsimp only [randReq, vecReq, vectorEffects]
  repeat' first | exact allowed_nil | refine allowed_checked ?_ | refine allowed_cons ⟨?_, ?_⟩ ?_ | exact Or.inl rfl | exact Or.inr rfl | trivial | rfl | split⟩
theorem may_vrandMsk : ∀ x0 x1 x2 , MayDo (.vrandMsk x0 x1 x2) := fun x0 x1 x2  _ h => Option.some.inj h ▸ ⟨_, fun _ => rfl, by
  intro env c pos
  dsimp only [randReq, vecReq, vectorEffects]
  repeat' first | exact allowed_nil | refine allowed_checked ?_ | refine allowed_cons ⟨?_, ?_⟩ ?_ | exact Or.inl rfl | exact Or.inr rfl | trivial | rfl | split⟩
theorem may_vcvt : ∀ x0 x1 , MayDo (.vcvt x0 x1) := fun x0 x1  _ h => Option.some.inj h ▸ ⟨_, fun _ => rfl, by
  intro env c pos
  dsimp only [vectorEffects]
  repeat' first | exact allowed_nil | refine allowed_checked ?_ | refine allowed_cons ⟨?_, ?_⟩ ?_ | exact Or.inl rfl | exact Or.inr rfl | trivial | rfl | exact allowed_trap | split⟩
theorem may_vpack : ∀ x0 x1 , MayDo (.vpack x0 x1) := fun x0 x1  _ h => Option.some.inj h ▸ ⟨_, fun _ => rfl, by
  intro env c pos
  repeat' first | exact allowed_nil | refine allowed_checked ?_ | refine allowed_cons ⟨?_, ?_⟩ ?_ | exact Or.inl rfl | exact Or.inr rfl | trivial | rfl | exact allowed_trap | split⟩
theorem may_vunpack : ∀ x0 x1 , MayDo (.vunpack x0 x1) := fun x0 x1  _ h => Option.some.inj h ▸ ⟨_, fun _ => rfl, by
  intro env c pos
  dsimp only [vectorEffects]
  repeat' first | exact allowed_nil | refine allowed_checked ?_ | refine allowed_cons ⟨?_, ?_⟩ ?_ | exact Or.inl rfl | exact Or.inr rfl | trivial | rfl | exact allowed_trap | split⟩
theorem may_vscale : ∀ x0 x1 , MayDo (.vscale x0 x1) := fun x0 x1  _ h => Option.some.inj h ▸ ⟨_, fun _ => rfl, by
  intro env c pos
  dsimp only [vecReq, vectorEffects]
  repeat' first | exact allowed_nil | refine allowed_checked ?_ | refine allowed_cons ⟨?_, ?_⟩ ?_ | exact Or.inl rfl | exact Or.inr rfl | trivial | rfl | split⟩
theorem may_vscaleMsk : ∀ x0 x1 x2 , MayDo (.vscaleMsk x0 x1 x2) := fun x0 x1 x2  _ h => Option.some.inj h ▸ ⟨_, fun _ => rfl, by
  intro env c pos
  dsimp only [vecReq, vectorEffects]
  repeat' first | exact allowed_nil | refine allowed_checked ?_ | refine allowed_cons ⟨?_, ?_⟩ ?_ | exact Or.inl rfl | exact Or.inr rfl | trivial | rfl | split⟩
theorem may_ld : ∀ x0 x1 , MayDo (.ld x0 x1) := fun x0 x1  _ h => Option.some.inj h ▸ ⟨_, fun _ => rfl, by
  intro env c pos
  dsimp only [ldReq]
  repeat' first | exact allowed_nil | refine allowed_checked ?_ | refine allowed_cons ⟨?_, ?_⟩ ?_ | exact Or.inl rfl | exact Or.inr rfl | trivial | rfl | exact allowed_trap | split⟩
theorem may_ldExt : ∀ x0 x1 , MayDo (.ldExt x0 x1) := fun x0 x1  _ h => Option.some.inj h ▸ ⟨_, fun _ => rfl, by
  intro env c pos
  dsimp only [ldReq]
  repeat' first | exact allowed_nil | refine allowed_checked ?_ | refine allowed_cons ⟨?_, ?_⟩ ?_ | exact Or.inl rfl | exact Or.inr rfl | trivial | rfl | exact allowed_trap | split⟩
theorem may_st : ∀ x0 x1 , MayDo (.st x0 x1) := fun x0 x1  _ h => Option.some.inj h ▸ ⟨_, fun _ => rfl, by
  intro env c pos
  dsimp only [gatedStore, stReq]
  repeat' first | exact allowed_nil | refine allowed_checked ?_ | refine allowed_cons ⟨?_, ?_⟩ ?_ | exact Or.inl rfl | exact Or.inr rfl | trivial | rfl | exact Or.inr (Or.inl ⟨_, _, rfl⟩) | exact allowed_trap | split⟩
theorem may_stExt : ∀ x0 x1 , MayDo (.stExt x0 x1) := fun x0 x1  _ h => Option.some.inj h ▸ ⟨_, fun _ => rfl, by
  intro env c pos
  dsimp only [gatedStore, stReq]
  repeat' first | exact allowed_nil | refine allowed_checked ?_ | refine allowed_cons ⟨?_, ?_⟩ ?_ | exact Or.inl rfl | exact Or.inr rfl | trivial | rfl | exact Or.inr (Or.inr (Or.inl ⟨_, _, rfl⟩)) | exact allowed_trap | split⟩
theorem may_vld : ∀ x0 x1 , MayDo (.vld x0 x1) := fun x0 x1  _ h => Option.some.inj h ▸ ⟨_, fun _ => rfl, by
  intro env c pos
  dsimp only [vldReq]
  repeat' first | exact allowed_nil | refine allowed_checked ?_ | refine allowed_cons ⟨?_, ?_⟩ ?_ | exact Or.inl rfl | exact Or.inr rfl | trivial | rfl | exact allowed_trap | split⟩
theorem may_vldExt : ∀ x0 x1 , MayDo (.vldExt x0 x1) := fun x0 x1  _ h => Option.some.inj h ▸ ⟨_, fun _ => rfl, by
  intro env c pos
  dsimp only [vldReq]
  repeat' first | exact allowed_nil | refine allowed_checked ?_ | refine allowed_cons ⟨?_, ?_⟩ ?_ | exact Or.inl rfl | exact Or.inr rfl | trivial | rfl | exact allowed_trap | split⟩
theorem may_vst : ∀ x0 x1 , MayDo (.vst x0 x1) := fun x0 x1  _ h => Option.some.inj h ▸ ⟨_, fun _ => rfl, by
  intro env c pos
  dsimp only [gatedStore, vstReq]
  repeat' first | exact allowed_nil | refine allowed_checked ?_ | refine allowed_cons ⟨?_, ?_⟩ ?_ | exact Or.inl rfl | exact Or.inr rfl | trivial | rfl | exact Or.inr (Or.inr (Or.inr (Or.inl ⟨_, _, rfl⟩))) | exact allowed_trap | split⟩
theorem may_vstExt : ∀ x0 x1 , MayDo (.vstExt x0 x1) := fun x0 x1  _ h => Option.some.inj h ▸ ⟨_, fun _ => rfl, by
  intro env c pos
  dsimp only [gatedStore, vstReq]
  repeat' first | exact allowed_nil | refine allowed_checked ?_ | refine allowed_cons ⟨?_, ?_⟩ ?_ | exact Or.inl rfl | exact Or.inr rfl | trivial | rfl | exact Or.inr (Or.inr (Or.inr (Or.inr (Or.inl ⟨_, _, rfl⟩)))) | exact allowed_trap | split⟩
theorem may_vldm : ∀ x0 x1 , MayDo (.vldm x0 x1) := fun x0 x1  _ h => Option.some.inj h ▸ ⟨_, fun _ => rfl, by
  intro env c pos
  dsimp only [vldReq]
  repeat' first | exact allowed_nil | refine allowed_checked ?_ | refine allowed_cons ⟨?_, ?_⟩ ?_ | exact Or.inl rfl | exact Or.inr rfl | trivial | rfl | exact allowed_trap | split⟩
theorem may_vldmExt : ∀ x0 x1 , MayDo (.vldmExt x0 x1) := fun x0 x1  _ h => Option.some.inj h ▸ ⟨_, fun _ => rfl, by
  intro env c pos
  dsimp only [vldReq]
  repeat' first | exact allowed_nil | refine allowed_checked ?_ | refine allowed_cons ⟨?_, ?_⟩ ?_ | exact Or.inl rfl | exact Or.inr rfl | trivial | rfl | exact allowed_trap | split⟩
theorem may_vstm : ∀ x0 x1 , MayDo (.vstm x0 x1) := fun x0 x1  _ h => Option.some.inj h ▸ ⟨_, fun _ => rfl, by
  intro env c pos
  dsimp only [gatedStore, vstReq]
  repeat' first | exact allowed_nil | refine allowed_checked ?_ | refine allowed_cons ⟨?_, ?_⟩ ?_ | exact Or.inl rfl | exact Or.inr rfl | trivial | rfl | exact Or.inr (Or.inr (Or.inr (Or.inr (Or.inr (Or.inl ⟨_, _, rfl⟩))))) | exact allowed_trap | split⟩
theorem may_vstmExt : ∀ x0 x1 , MayDo (.vstmExt x0 x1) := fun x0 x1  _ h => Option.some.inj h ▸ ⟨_, fun _ => rfl, by
  intro env c pos
  dsimp only [gatedStore, vstReq]
  repeat' first | exact allowed_nil | refine allowed_checked ?_ | refine allowed_cons ⟨?_, ?_⟩ ?_ | exact Or.inl rfl | exact Or.inr rfl | trivial | rfl | exact Or.inr (Or.inr (Or.inr (Or.inr (Or.inr (Or.inr (⟨_, _, rfl⟩)))))) | exact allowed_trap | split⟩
theorem may_gld : ∀ x0 x1 , MayDo (.gld x0 x1) := fun x0 x1  _ h => Option.some.inj h ▸ ⟨_, fun _ => rfl, by
  intro env c pos
  repeat' first | exact allowed_nil | refine allowed_checked ?_ | refine allowed_cons ⟨?_, ?_⟩ ?_ | exact Or.inl rfl | exact Or.inr rfl | trivial | rfl | exact allowed_trap | exact allowed_nilR | refine allowed_consR ⟨?_, ?_⟩ ?_ | split⟩
theorem may_gst : ∀ x0 x1 , MayDo (.gst x0 x1) := fun x0 x1  _ h => Option.some.inj h ▸ ⟨_, fun _ => rfl, by
  intro env c pos
  repeat' first | exact allowed_nil | refine allowed_checked ?_ | refine allowed_cons ⟨?_, ?_⟩ ?_ | exact Or.inl rfl | exact Or.inr rfl | trivial | rfl | exact Or.inl ⟨_, _, _, _, _, rfl⟩ | exact allowed_trap | split⟩
theorem may_amoAdd : ∀ x0 x1 , MayDo (.amoAdd x0 x1) := fun x0 x1  _ h => Option.some.inj h ▸ ⟨_, fun _ => rfl, by
  intro env c pos
  dsimp only [amoReq]
  repeat' first | exact allowed_nil | refine allowed_checked ?_ | refine allowed_cons ⟨?_, ?_⟩ ?_ | exact Or.inl rfl | exact Or.inr rfl | trivial | rfl | exact allowed_trap | split⟩
theorem may_amoMin : ∀ x0 x1 , MayDo (.amoMin x0 x1) := fun x0 x1  _ h => Option.some.inj h ▸ ⟨_, fun _ => rfl, by
  intro env c pos
  dsimp only [amoReq]
  repeat' first | exact allowed_nil | refine allowed_checked ?_ | refine allowed_cons ⟨?_, ?_⟩ ?_ | exact Or.inl rfl | exact Or.inr rfl | trivial | rfl | exact allowed_trap | split⟩
theorem may_amoMax : ∀ x0 x1 , MayDo (.amoMax x0 x1) := fun x0 x1  _ h => Option.some.inj h ▸ ⟨_, fun _ => rfl, by
  intro env c pos
  dsimp only [amoReq]
  repeat' first | exact allowed_nil | refine allowed_checked ?_ | refine allowed_cons ⟨?_, ?_⟩ ?_ | exact Or.inl rfl | exact Or.inr rfl | trivial | rfl | exact allowed_trap | split⟩
theorem may_amoSwap : ∀ x0 x1 , MayDo (.amoSwap x0 x1) := fun x0 x1  _ h => Option.some.inj h ▸ ⟨_, fun _ => rfl, by
  intro env c pos
  dsimp only [amoReq]
  repeat' first | exact allowed_nil | refine allowed_checked ?_ | refine allowed_cons ⟨?_, ?_⟩ ?_ | exact Or.inl rfl | exact Or.inr rfl | trivial | rfl | exact allowed_trap | split⟩
theorem may_amoCas : ∀ x0 x1 , MayDo (.amoCas x0 x1) := fun x0 x1  _ h => Option.some.inj h ▸ ⟨_, fun _ => rfl, by
  intro env c pos
  dsimp only [amoReq]
  repeat' first | exact allowed_nil | refine allowed_checked ?_ | refine allowed_cons ⟨?_, ?_⟩ ?_ | exact Or.inl rfl | exact Or.inr rfl | trivial | rfl | exact allowed_trap | split⟩
theorem may_amoFadd : ∀ x0 x1 , MayDo (.amoFadd x0 x1) := fun x0 x1  _ h => Option.some.inj h ▸ ⟨_, fun _ => rfl, by
  intro env c pos
  dsimp only [amoReq]
  repeat' first | exact allowed_nil | refine allowed_checked ?_ | refine allowed_cons ⟨?_, ?_⟩ ?_ | exact Or.inl rfl | exact Or.inr rfl | trivial | rfl | exact allowed_trap | split⟩
theorem may_xlat : ∀ x0 x1 , MayDo (.xlat x0 x1) := fun x0 x1  _ h => Option.some.inj h ▸ ⟨_, fun _ => rfl, by
  intro env c pos
  repeat' first | exact allowed_nil | refine allowed_checked ?_ | refine allowed_cons ⟨?_, ?_⟩ ?_ | exact Or.inl rfl | exact Or.inr rfl | trivial | rfl | exact allowed_trap | split⟩
theorem may_hinv : ∀ x0 x1 , MayDo (.hinv x0 x1) := fun x0 x1  _ h => Option.some.inj h ▸ ⟨_, fun _ => rfl, by
  intro env c pos
  repeat' first | exact allowed_nil | refine allowed_checked ?_ | refine allowed_cons ⟨?_, ?_⟩ ?_ | exact Or.inl rfl | exact Or.inr rfl | trivial | rfl | split⟩
theorem may_tld : ∀ x0 x1 , MayDo (.tld x0 x1) := fun x0 x1  _ h => Option.some.inj h ▸ ⟨_, fun _ => rfl, by
  intro env c pos
  dsimp only [tileReq]
  repeat' first | exact allowed_nil | refine allowed_checked ?_ | refine allowed_cons ⟨?_, ?_⟩ ?_ | exact Or.inl rfl | exact Or.inr rfl | trivial | rfl | exact allowed_trap | split⟩
theorem may_tldTimed : ∀ x0 x1 , MayDo (.tldTimed x0 x1) := fun x0 x1  _ h => Option.some.inj h ▸ ⟨_, fun _ => rfl, by
  intro env c pos
  dsimp only [tileReq]
  repeat' first | exact allowed_nil | refine allowed_checked ?_ | refine allowed_cons ⟨?_, ?_⟩ ?_ | exact Or.inl rfl | exact Or.inr rfl | trivial | rfl | exact allowed_trap | split⟩
theorem may_tst : ∀ x0 x1 , MayDo (.tst x0 x1) := fun x0 x1  _ h => Option.some.inj h ▸ ⟨_, fun _ => rfl, by
  intro env c pos
  dsimp only [tileReq]
  repeat' first | exact allowed_nil | refine allowed_checked ?_ | refine allowed_cons ⟨?_, ?_⟩ ?_ | exact Or.inl rfl | exact Or.inr rfl | trivial | rfl | exact allowed_trap | split⟩
theorem may_tstTimed : ∀ x0 x1 , MayDo (.tstTimed x0 x1) := fun x0 x1  _ h => Option.some.inj h ▸ ⟨_, fun _ => rfl, by
  intro env c pos
  dsimp only [tileReq]
  repeat' first | exact allowed_nil | refine allowed_checked ?_ | refine allowed_cons ⟨?_, ?_⟩ ?_ | exact Or.inl rfl | exact Or.inr rfl | trivial | rfl | exact allowed_trap | split⟩
theorem may_pf : ∀ x0 x1 , MayDo (.pf x0 x1) := fun x0 x1  _ h => Option.some.inj h ▸ ⟨_, fun _ => rfl, by
  intro env c pos
  dsimp only
  repeat' first | exact allowed_nil | refine allowed_checked ?_ | refine allowed_cons ⟨?_, ?_⟩ ?_ | exact Or.inl rfl | exact Or.inr rfl | trivial | rfl | split⟩
theorem may_fenceG : ∀ x0 , MayDo (.fenceG x0) := fun x0  _ h => Option.some.inj h ▸ ⟨_, fun _ => rfl, by
  intro env c pos
  repeat' first | exact allowed_nil | refine allowed_checked ?_ | refine allowed_cons ⟨?_, ?_⟩ ?_ | exact Or.inl rfl | exact Or.inr rfl | trivial | rfl | split⟩
theorem may_fenceE : ∀ x0 , MayDo (.fenceE x0) := fun x0  _ h => Option.some.inj h ▸ ⟨_, fun _ => rfl, by
  intro env c pos
  repeat' first | exact allowed_nil | refine allowed_checked ?_ | refine allowed_cons ⟨?_, ?_⟩ ?_ | exact Or.inl rfl | exact Or.inr rfl | trivial | rfl | split⟩
theorem may_fenceN : ∀ x0 , MayDo (.fenceN x0) := fun x0  _ h => Option.some.inj h ▸ ⟨_, fun _ => rfl, by
  intro env c pos
  repeat' first | exact allowed_nil | refine allowed_checked ?_ | refine allowed_cons ⟨?_, ?_⟩ ?_ | exact Or.inl rfl | exact Or.inr rfl | trivial | rfl | split⟩
theorem may_fenceA : ∀ x0 , MayDo (.fenceA x0) := fun x0  _ h => Option.some.inj h ▸ ⟨_, fun _ => rfl, by
  intro env c pos
  repeat' first | exact allowed_nil | refine allowed_checked ?_ | refine allowed_cons ⟨?_, ?_⟩ ?_ | exact Or.inl rfl | exact Or.inr rfl | trivial | rfl | split⟩
theorem may_bankmode : ∀ x0 x1 , MayDo (.bankmode x0 x1) := fun x0 x1  _ h => Option.some.inj h ▸ ⟨_, fun _ => rfl, by
  intro env c pos
  repeat' first | exact allowed_nil | refine allowed_checked ?_ | refine allowed_cons ⟨?_, ?_⟩ ?_ | exact Or.inl rfl | exact Or.inr rfl | trivial | rfl | exact ⟨_, _, rfl⟩ | exact allowed_trap | split⟩
theorem may_cinv : ∀ x0 x1 , MayDo (.cinv x0 x1) := fun x0 x1  _ h => Option.some.inj h ▸ ⟨_, fun _ => rfl, by
  intro env c pos
  repeat' first | exact allowed_nil | refine allowed_checked ?_ | refine allowed_cons ⟨?_, ?_⟩ ?_ | exact Or.inl rfl | exact Or.inr rfl | trivial | rfl | exact allowed_trap | split⟩
theorem may_cinva : ∀ x0 , MayDo (.cinva x0) := fun x0  _ h => Option.some.inj h ▸ ⟨_, fun _ => rfl, by
  intro env c pos
  repeat' first | exact allowed_nil | refine allowed_checked ?_ | refine allowed_cons ⟨?_, ?_⟩ ?_ | exact Or.inl rfl | exact Or.inr rfl | trivial | rfl | split⟩
theorem may_qset : ∀ x0 x1 , MayDo (.qset x0 x1) := fun x0 x1  _ h => Option.some.inj h ▸ ⟨_, fun _ => rfl, by
  intro env c pos
  repeat' first | exact allowed_nil | refine allowed_checked ?_ | refine allowed_cons ⟨?_, ?_⟩ ?_ | exact Or.inl rfl | exact Or.inr rfl | trivial | rfl | exact allowed_trap | split⟩
theorem may_qget : ∀ x0 x1 , MayDo (.qget x0 x1) := fun x0 x1  _ h => Option.some.inj h ▸ ⟨_, fun _ => rfl, by
  intro env c pos
  repeat' first | exact allowed_nil | refine allowed_checked ?_ | refine allowed_cons ⟨?_, ?_⟩ ?_ | exact Or.inl rfl | exact Or.inr rfl | trivial | rfl | split⟩
theorem may_mma : ∀ x0 x1 , MayDo (.mma x0 x1) := fun x0 x1  _ h => Option.some.inj h ▸ ⟨_, fun _ => rfl, by
  intro env c pos
  repeat' first | exact allowed_nil | refine allowed_checked ?_ | refine allowed_cons ⟨?_, ?_⟩ ?_ | exact Or.inl rfl | exact Or.inr rfl | trivial | rfl | exact allowed_trap | split⟩
theorem may_mmag : ∀ x0 x1 , MayDo (.mmag x0 x1) := fun x0 x1  _ h => Option.some.inj h ▸ ⟨_, fun _ => rfl, by
  intro env c pos
  repeat' first | exact allowed_nil | refine allowed_checked ?_ | refine allowed_cons ⟨?_, ?_⟩ ?_ | exact Or.inl rfl | exact Or.inr rfl | trivial | rfl | exact allowed_trap | split⟩
theorem may_aalloc : ∀ x0 x1 , MayDo (.aalloc x0 x1) := fun x0 x1  _ h => Option.some.inj h ▸ ⟨_, fun _ => rfl, by
  intro env c pos
  dsimp only [bankReq]
  repeat' first | exact allowed_nil | refine allowed_checked ?_ | refine allowed_cons ⟨?_, ?_⟩ ?_ | exact Or.inl rfl | exact Or.inr rfl | trivial | rfl | exact Or.inl ⟨_, _, rfl⟩ | exact allowed_trap | split⟩
theorem may_afree : ∀ x0 x1 , MayDo (.afree x0 x1) := fun x0 x1  _ h => Option.some.inj h ▸ ⟨_, fun _ => rfl, by
  intro env c pos
  dsimp only [bankReq]
  repeat' first | exact allowed_nil | refine allowed_checked ?_ | refine allowed_cons ⟨?_, ?_⟩ ?_ | exact Or.inl rfl | exact Or.inr rfl | trivial | rfl | exact Or.inr ⟨_, _, rfl⟩ | exact allowed_trap | split⟩
theorem may_aown : ∀ x0 x1 , MayDo (.aown x0 x1) := fun x0 x1  _ h => Option.some.inj h ▸ ⟨_, fun _ => rfl, by
  intro env c pos
  dsimp only [bankReq]
  repeat' first | exact allowed_nil | refine allowed_checked ?_ | refine allowed_cons ⟨?_, ?_⟩ ?_ | exact Or.inl rfl | exact Or.inr rfl | trivial | rfl | exact Or.inl ⟨_, _, rfl⟩ | exact allowed_trap | split⟩
theorem may_aownRel : ∀ x0 x1 , MayDo (.aownRel x0 x1) := fun x0 x1  _ h => Option.some.inj h ▸ ⟨_, fun _ => rfl, by
  intro env c pos
  dsimp only [bankReq]
  repeat' first | exact allowed_nil | refine allowed_checked ?_ | refine allowed_cons ⟨?_, ?_⟩ ?_ | exact Or.inl rfl | exact Or.inr rfl | trivial | rfl | exact Or.inr ⟨_, _, rfl⟩ | exact allowed_trap | split⟩
theorem may_aclr : ∀ x0 x1 , MayDo (.aclr x0 x1) := fun x0 x1  _ h => Option.some.inj h ▸ ⟨_, fun _ => rfl, by
  intro env c pos
  dsimp only [bankReq]
  repeat' first | exact allowed_nil | refine allowed_checked ?_ | refine allowed_cons ⟨?_, ?_⟩ ?_ | exact Or.inl rfl | exact Or.inr rfl | trivial | rfl | exact allowed_trap | split⟩
theorem may_adrain : ∀ x0 x1 , MayDo (.adrain x0 x1) := fun x0 x1  _ h => Option.some.inj h ▸ ⟨_, fun _ => rfl, by
  intro env c pos
  repeat' first | exact allowed_nil | refine allowed_checked ?_ | refine allowed_cons ⟨?_, ?_⟩ ?_ | exact Or.inl rfl | exact Or.inr rfl | trivial | rfl | exact allowed_trap | split⟩
theorem may_aread : ∀ x0 x1 , MayDo (.aread x0 x1) := fun x0 x1  _ h => Option.some.inj h ▸ ⟨_, fun _ => rfl, by
  intro env c pos
  repeat' first | exact allowed_nil | refine allowed_checked ?_ | refine allowed_cons ⟨?_, ?_⟩ ?_ | exact Or.inl rfl | exact Or.inr rfl | trivial | rfl | exact allowed_trap | split⟩
theorem may_scanAdd : ∀ x0 x1 , MayDo (.scanAdd x0 x1) := fun x0 x1  _ h => Option.some.inj h ▸ ⟨_, fun _ => rfl, by
  intro env c pos
  dsimp only [scanReq]
  repeat' first | exact allowed_nil | refine allowed_checked ?_ | refine allowed_cons ⟨?_, ?_⟩ ?_ | exact Or.inl rfl | exact Or.inr rfl | trivial | rfl | exact allowed_trap | split⟩
theorem may_scanAddInit : ∀ x0 x1 , MayDo (.scanAddInit x0 x1) := fun x0 x1  _ h => Option.some.inj h ▸ ⟨_, fun _ => rfl, by
  intro env c pos
  dsimp only [scanReq]
  repeat' first | exact allowed_nil | refine allowed_checked ?_ | refine allowed_cons ⟨?_, ?_⟩ ?_ | exact Or.inl rfl | exact Or.inr rfl | trivial | rfl | exact allowed_trap | split⟩
theorem may_scanMul : ∀ x0 x1 , MayDo (.scanMul x0 x1) := fun x0 x1  _ h => Option.some.inj h ▸ ⟨_, fun _ => rfl, by
  intro env c pos
  dsimp only [scanReq]
  repeat' first | exact allowed_nil | refine allowed_checked ?_ | refine allowed_cons ⟨?_, ?_⟩ ?_ | exact Or.inl rfl | exact Or.inr rfl | trivial | rfl | exact allowed_trap | split⟩
theorem may_scanMulInit : ∀ x0 x1 , MayDo (.scanMulInit x0 x1) := fun x0 x1  _ h => Option.some.inj h ▸ ⟨_, fun _ => rfl, by
  intro env c pos
  dsimp only [scanReq]
  repeat' first | exact allowed_nil | refine allowed_checked ?_ | refine allowed_cons ⟨?_, ?_⟩ ?_ | exact Or.inl rfl | exact Or.inr rfl | trivial | rfl | exact allowed_trap | split⟩
theorem may_scanMax : ∀ x0 x1 , MayDo (.scanMax x0 x1) := fun x0 x1  _ h => Option.some.inj h ▸ ⟨_, fun _ => rfl, by
  intro env c pos
  dsimp only [scanReq]
  repeat' first | exact allowed_nil | refine allowed_checked ?_ | refine allowed_cons ⟨?_, ?_⟩ ?_ | exact Or.inl rfl | exact Or.inr rfl | trivial | rfl | exact allowed_trap | split⟩
theorem may_scanMaxInit : ∀ x0 x1 , MayDo (.scanMaxInit x0 x1) := fun x0 x1  _ h => Option.some.inj h ▸ ⟨_, fun _ => rfl, by
  intro env c pos
  dsimp only [scanReq]
  repeat' first | exact allowed_nil | refine allowed_checked ?_ | refine allowed_cons ⟨?_, ?_⟩ ?_ | exact Or.inl rfl | exact Or.inr rfl | trivial | rfl | exact allowed_trap | split⟩
theorem may_scanMin : ∀ x0 x1 , MayDo (.scanMin x0 x1) := fun x0 x1  _ h => Option.some.inj h ▸ ⟨_, fun _ => rfl, by
  intro env c pos
  dsimp only [scanReq]
  repeat' first | exact allowed_nil | refine allowed_checked ?_ | refine allowed_cons ⟨?_, ?_⟩ ?_ | exact Or.inl rfl | exact Or.inr rfl | trivial | rfl | exact allowed_trap | split⟩
theorem may_scanMinInit : ∀ x0 x1 , MayDo (.scanMinInit x0 x1) := fun x0 x1  _ h => Option.some.inj h ▸ ⟨_, fun _ => rfl, by
  intro env c pos
  dsimp only [scanReq]
  repeat' first | exact allowed_nil | refine allowed_checked ?_ | refine allowed_cons ⟨?_, ?_⟩ ?_ | exact Or.inl rfl | exact Or.inr rfl | trivial | rfl | exact allowed_trap | split⟩
theorem may_scanAffine : ∀ x0 x1 , MayDo (.scanAffine x0 x1) := fun x0 x1  _ h => Option.some.inj h ▸ ⟨_, fun _ => rfl, by
  intro env c pos
  dsimp only [scanReq]
  repeat' first | exact allowed_nil | refine allowed_checked ?_ | refine allowed_cons ⟨?_, ?_⟩ ?_ | exact Or.inl rfl | exact Or.inr rfl | trivial | rfl | exact allowed_trap | split⟩
theorem may_scanLse : ∀ x0 x1 , MayDo (.scanLse x0 x1) := fun x0 x1  _ h => Option.some.inj h ▸ ⟨_, fun _ => rfl, by
  intro env c pos
  dsimp only [scanReq]
  repeat' first | exact allowed_nil | refine allowed_checked ?_ | refine allowed_cons ⟨?_, ?_⟩ ?_ | exact Or.inl rfl | exact Or.inr rfl | trivial | rfl | exact allowed_trap | split⟩
theorem may_scanMoment : ∀ x0 x1 , MayDo (.scanMoment x0 x1) := fun x0 x1  _ h => Option.some.inj h ▸ ⟨_, fun _ => rfl, by
  intro env c pos
  dsimp only [scanReq]
  repeat' first | exact allowed_nil | refine allowed_checked ?_ | refine allowed_cons ⟨?_, ?_⟩ ?_ | exact Or.inl rfl | exact Or.inr rfl | trivial | rfl | exact allowed_trap | split⟩
theorem may_scanMomentInit : ∀ x0 x1 , MayDo (.scanMomentInit x0 x1) := fun x0 x1  _ h => Option.some.inj h ▸ ⟨_, fun _ => rfl, by
  intro env c pos
  dsimp only [scanReq]
  repeat' first | exact allowed_nil | refine allowed_checked ?_ | refine allowed_cons ⟨?_, ?_⟩ ?_ | exact Or.inl rfl | exact Or.inr rfl | trivial | rfl | exact allowed_trap | split⟩
theorem may_scanUser : ∀ x0 x1 , MayDo (.scanUser x0 x1) := fun x0 x1  _ h => Option.some.inj h ▸ ⟨_, fun _ => rfl, by
  intro env c pos
  dsimp only [scanReq]
  repeat' first | exact allowed_nil | refine allowed_checked ?_ | refine allowed_cons ⟨?_, ?_⟩ ?_ | exact Or.inl rfl | exact Or.inr rfl | trivial | rfl | exact allowed_trap | split⟩
theorem may_scanUserExt : ∀ x0 x1 , MayDo (.scanUserExt x0 x1) := fun x0 x1  _ h => Option.some.inj h ▸ ⟨_, fun _ => rfl, by
  intro env c pos
  dsimp only [scanReq]
  repeat' first | exact allowed_nil | refine allowed_checked ?_ | refine allowed_cons ⟨?_, ?_⟩ ?_ | exact Or.inl rfl | exact Or.inr rfl | trivial | rfl | exact allowed_trap | split⟩
theorem may_scdef : ∀ x0 x1 , MayDo (.scdef x0 x1) := fun x0 x1  _ h => Option.some.inj h ▸ ⟨_, fun _ => rfl, by
  intro env c pos
  repeat' first | exact allowed_nil | refine allowed_checked ?_ | refine allowed_cons ⟨?_, ?_⟩ ?_ | exact Or.inl rfl | exact Or.inr rfl | trivial | rfl | exact allowed_trap | split⟩
theorem may_mupd : ∀ x0 x1 , MayDo (.mupd x0 x1) := fun x0 x1  _ h => Option.some.inj h ▸ ⟨_, fun _ => rfl, by
  intro env c pos
  dsimp only [statReq]
  repeat' first | exact allowed_nil | refine allowed_checked ?_ | refine allowed_cons ⟨?_, ?_⟩ ?_ | exact Or.inl rfl | exact Or.inr rfl | trivial | rfl | exact allowed_trap | split⟩
theorem may_mupdw : ∀ x0 x1 , MayDo (.mupdw x0 x1) := fun x0 x1  _ h => Option.some.inj h ▸ ⟨_, fun _ => rfl, by
  intro env c pos
  dsimp only [statReq]
  repeat' first | exact allowed_nil | refine allowed_checked ?_ | refine allowed_cons ⟨?_, ?_⟩ ?_ | exact Or.inl rfl | exact Or.inr rfl | trivial | rfl | exact allowed_trap | split⟩
theorem may_mupdwStream : ∀ x0 x1 , MayDo (.mupdwStream x0 x1) := fun x0 x1  _ h => Option.some.inj h ▸ ⟨_, fun _ => rfl, by
  intro env c pos
  dsimp only [statReq]
  repeat' first | exact allowed_nil | refine allowed_checked ?_ | refine allowed_cons ⟨?_, ?_⟩ ?_ | exact Or.inl rfl | exact Or.inr rfl | trivial | rfl | exact allowed_trap | split⟩
theorem may_mmerge : ∀ x0 x1 , MayDo (.mmerge x0 x1) := fun x0 x1  _ h => Option.some.inj h ▸ ⟨_, fun _ => rfl, by
  intro env c pos
  dsimp only [statReq]
  repeat' first | exact allowed_nil | refine allowed_checked ?_ | refine allowed_cons ⟨?_, ?_⟩ ?_ | exact Or.inl rfl | exact Or.inr rfl | trivial | rfl | exact allowed_trap | split⟩
theorem may_mmergeLanes : ∀ x0 x1 , MayDo (.mmergeLanes x0 x1) := fun x0 x1  _ h => Option.some.inj h ▸ ⟨_, fun _ => rfl, by
  intro env c pos
  dsimp only [statReq]
  repeat' first | exact allowed_nil | refine allowed_checked ?_ | refine allowed_cons ⟨?_, ?_⟩ ?_ | exact Or.inl rfl | exact Or.inr rfl | trivial | rfl | exact allowed_trap | split⟩
theorem may_mclr : ∀ x0 x1 , MayDo (.mclr x0 x1) := fun x0 x1  _ h => Option.some.inj h ▸ ⟨_, fun _ => rfl, by
  intro env c pos
  dsimp only [statReq]
  repeat' first | exact allowed_nil | refine allowed_checked ?_ | refine allowed_cons ⟨?_, ?_⟩ ?_ | exact Or.inl rfl | exact Or.inr rfl | trivial | rfl | exact allowed_trap | split⟩
theorem may_mdrain : ∀ x0 x1 , MayDo (.mdrain x0 x1) := fun x0 x1  _ h => Option.some.inj h ▸ ⟨_, fun _ => rfl, by
  intro env c pos
  repeat' first | exact allowed_nil | refine allowed_checked ?_ | refine allowed_cons ⟨?_, ?_⟩ ?_ | exact Or.inl rfl | exact Or.inr rfl | trivial | rfl | split⟩
theorem may_mdrainNorm : ∀ x0 x1 , MayDo (.mdrainNorm x0 x1) := fun x0 x1  _ h => Option.some.inj h ▸ ⟨_, fun _ => rfl, by
  intro env c pos
  repeat' first | exact allowed_nil | refine allowed_checked ?_ | refine allowed_cons ⟨?_, ?_⟩ ?_ | exact Or.inl rfl | exact Or.inr rfl | trivial | rfl | exact allowed_trap | split⟩
theorem may_mld : ∀ x0 x1 , MayDo (.mld x0 x1) := fun x0 x1  _ h => Option.some.inj h ▸ ⟨_, fun _ => rfl, by
  intro env c pos
  dsimp only [statReq]
  repeat' first | exact allowed_nil | refine allowed_checked ?_ | refine allowed_cons ⟨?_, ?_⟩ ?_ | exact Or.inl rfl | exact Or.inr rfl | trivial | rfl | exact allowed_trap | split⟩
theorem may_mst : ∀ x0 x1 , MayDo (.mst x0 x1) := fun x0 x1  _ h => Option.some.inj h ▸ ⟨_, fun _ => rfl, by
  intro env c pos
  repeat' first | exact allowed_nil | refine allowed_checked ?_ | refine allowed_cons ⟨?_, ?_⟩ ?_ | exact Or.inl rfl | exact Or.inr rfl | trivial | rfl | exact allowed_trap | split⟩
theorem may_cpy : ∀ x0 x1 , MayDo (.cpy x0 x1) := fun x0 x1  _ h => Option.some.inj h ▸ ⟨_, fun _ => rfl, by
  intro env c pos
  repeat' first | exact allowed_nil | refine allowed_checked ?_ | refine allowed_cons ⟨?_, ?_⟩ ?_ | exact Or.inl rfl | exact Or.inr rfl | trivial | rfl | exact allowed_trap | split⟩
theorem may_cpy2d : ∀ x0 x1 , MayDo (.cpy2d x0 x1) := fun x0 x1  _ h => Option.some.inj h ▸ ⟨_, fun _ => rfl, by
  intro env c pos
  repeat' first | exact allowed_nil | refine allowed_checked ?_ | refine allowed_cons ⟨?_, ?_⟩ ?_ | exact Or.inl rfl | exact Or.inr rfl | trivial | rfl | exact allowed_trap | split⟩
theorem may_fill : ∀ x0 x1 , MayDo (.fill x0 x1) := fun x0 x1  _ h => Option.some.inj h ▸ ⟨_, fun _ => rfl, by
  intro env c pos
  repeat' first | exact allowed_nil | refine allowed_checked ?_ | refine allowed_cons ⟨?_, ?_⟩ ?_ | exact Or.inl rfl | exact Or.inr rfl | trivial | rfl | exact allowed_trap | split⟩
theorem may_pub : ∀ x0 x1 , MayDo (.pub x0 x1) := fun x0 x1  _ h => Option.some.inj h ▸ ⟨_, fun _ => rfl, by
  intro env c pos
  dsimp only [cfgTrap, pubResult]
  repeat' first | exact allowed_nil | refine allowed_checked ?_ | refine allowed_cons ⟨?_, ?_⟩ ?_ | exact Or.inl rfl | exact Or.inr rfl | trivial | rfl | exact allowed_trap | split⟩
theorem may_pubIndexed : ∀ x0 x1 , MayDo (.pubIndexed x0 x1) := fun x0 x1  _ h => Option.some.inj h ▸ ⟨_, fun _ => rfl, by
  intro env c pos
  dsimp only [cfgTrap, pubResult]
  repeat' first | exact allowed_nil | refine allowed_checked ?_ | refine allowed_cons ⟨?_, ?_⟩ ?_ | exact Or.inl rfl | exact Or.inr rfl | trivial | rfl | exact allowed_trap | split⟩
theorem may_pubeos : ∀ x0 x1 , MayDo (.pubeos x0 x1) := fun x0 x1  _ h => Option.some.inj h ▸ ⟨_, fun _ => rfl, by
  intro env c pos
  dsimp only [cfgTrap]
  repeat' first | exact allowed_nil | refine allowed_checked ?_ | refine allowed_cons ⟨?_, ?_⟩ ?_ | exact Or.inl rfl | exact Or.inr rfl | trivial | rfl | exact allowed_trap | split⟩
theorem may_fetch : ∀ x0 x1 , MayDo (.fetch x0 x1) := fun x0 x1  _ h => Option.some.inj h ▸ ⟨_, fun _ => rfl, by
  intro env c pos
  dsimp only [cfgTrap, fetchResult]
  repeat' first | exact allowed_nil | refine allowed_checked ?_ | refine allowed_cons ⟨?_, ?_⟩ ?_ | exact Or.inl rfl | exact Or.inr rfl | trivial | rfl | exact allowed_trap | split⟩
theorem may_fetchIndexed : ∀ x0 x1 , MayDo (.fetchIndexed x0 x1) := fun x0 x1  _ h => Option.some.inj h ▸ ⟨_, fun _ => rfl, by
  intro env c pos
  dsimp only [cfgTrap, fetchResult]
  repeat' first | exact allowed_nil | refine allowed_checked ?_ | refine allowed_cons ⟨?_, ?_⟩ ?_ | exact Or.inl rfl | exact Or.inr rfl | trivial | rfl | exact allowed_trap | split⟩
theorem may_subq : ∀ x0 x1 , MayDo (.subq x0 x1) := fun x0 x1  _ h => Option.some.inj h ▸ ⟨_, fun _ => rfl, by
  intro env c pos
  dsimp only [cfgTrap]
  repeat' first | exact allowed_nil | refine allowed_checked ?_ | refine allowed_cons ⟨?_, ?_⟩ ?_ | exact Or.inl rfl | exact Or.inr rfl | trivial | rfl | exact allowed_trap | split⟩
theorem may_hbar : ∀ x0 , MayDo (.hbar x0) := fun x0  _ h => Option.some.inj h ▸ ⟨_, fun _ => rfl, by
  intro env c pos
  repeat' first | exact allowed_nil | refine allowed_checked ?_ | refine allowed_cons ⟨?_, ?_⟩ ?_ | exact Or.inl rfl | exact Or.inr rfl | trivial | rfl | split⟩
theorem may_hbarArrive : ∀ x0 , MayDo (.hbarArrive x0) := fun x0  _ h => Option.some.inj h ▸ ⟨_, fun _ => rfl, by
  intro env c pos
  repeat' first | exact allowed_nil | refine allowed_checked ?_ | refine allowed_cons ⟨?_, ?_⟩ ?_ | exact Or.inl rfl | exact Or.inr rfl | trivial | rfl | split⟩
theorem may_hbarWait : ∀ x0 , MayDo (.hbarWait x0) := fun x0  _ h => Option.some.inj h ▸ ⟨_, fun _ => rfl, by
  intro env c pos
  repeat' first | exact allowed_nil | refine allowed_checked ?_ | refine allowed_cons ⟨?_, ?_⟩ ?_ | exact Or.inl rfl | exact Or.inr rfl | trivial | rfl | split⟩
theorem may_coll : ∀ x0 x1 , MayDo (.coll x0 x1) := fun x0 x1  _ h => Option.some.inj h ▸ ⟨_, fun _ => rfl, by
  intro env c pos
  repeat' first | exact allowed_nil | refine allowed_checked ?_ | refine allowed_cons ⟨?_, ?_⟩ ?_ | exact Or.inl rfl | exact Or.inr rfl | trivial | rfl | exact allowed_trap | split⟩
theorem may_collRecv : ∀ x0 x1 , MayDo (.collRecv x0 x1) := fun x0 x1  _ h => Option.some.inj h ▸ ⟨_, fun _ => rfl, by
  intro env c pos
  repeat' first | exact allowed_nil | refine allowed_checked ?_ | refine allowed_cons ⟨?_, ?_⟩ ?_ | exact Or.inl rfl | exact Or.inr rfl | trivial | rfl | exact allowed_trap | split⟩
theorem may_collW : ∀ x0 x1 , MayDo (.collW x0 x1) := fun x0 x1  _ h => Option.some.inj h ▸ ⟨_, fun _ => rfl, by
  intro env c pos
  repeat' first | exact allowed_nil | refine allowed_checked ?_ | refine allowed_cons ⟨?_, ?_⟩ ?_ | exact Or.inl rfl | exact Or.inr rfl | trivial | rfl | split⟩
theorem may_collRecvW : ∀ x0 x1 , MayDo (.collRecvW x0 x1) := fun x0 x1  _ h => Option.some.inj h ▸ ⟨_, fun _ => rfl, by
  intro env c pos
  repeat' first | exact allowed_nil | refine allowed_checked ?_ | refine allowed_cons ⟨?_, ?_⟩ ?_ | exact Or.inl rfl | exact Or.inr rfl | trivial | rfl | split⟩
theorem may_cmark : ∀ x0 x1 , MayDo (.cmark x0 x1) := fun x0 x1  _ h => Option.some.inj h ▸ ⟨_, fun _ => rfl, by
  intro env c pos
  repeat' first | exact allowed_nil | refine allowed_checked ?_ | refine allowed_cons ⟨?_, ?_⟩ ?_ | exact Or.inl rfl | exact Or.inr rfl | trivial | rfl | split⟩
theorem may_cmarkEnd : ∀ x0 x1 , MayDo (.cmarkEnd x0 x1) := fun x0 x1  _ h => Option.some.inj h ▸ ⟨_, fun _ => rfl, by
  intro env c pos
  repeat' first | exact allowed_nil | refine allowed_checked ?_ | refine allowed_cons ⟨?_, ?_⟩ ?_ | exact Or.inl rfl | exact Or.inr rfl | trivial | rfl | split⟩
theorem may_csend : ∀ x0 x1 , MayDo (.csend x0 x1) := fun x0 x1  _ h => Option.some.inj h ▸ ⟨_, fun _ => rfl, by
  intro env c pos
  repeat' first | exact allowed_nil | refine allowed_checked ?_ | refine allowed_cons ⟨?_, ?_⟩ ?_ | exact Or.inl rfl | exact Or.inr rfl | trivial | rfl | split⟩
theorem may_crecv : ∀ x0 x1 , MayDo (.crecv x0 x1) := fun x0 x1  _ h => Option.some.inj h ▸ ⟨_, fun _ => rfl, by
  intro env c pos
  repeat' first | exact allowed_nil | refine allowed_checked ?_ | refine allowed_cons ⟨?_, ?_⟩ ?_ | exact Or.inl rfl | exact Or.inr rfl | trivial | rfl | split⟩
theorem may_cbar : ∀ x0 , MayDo (.cbar x0) := fun x0  _ h => Option.some.inj h ▸ ⟨_, fun _ => rfl, by
  intro env c pos
  repeat' first | exact allowed_nil | refine allowed_checked ?_ | refine allowed_cons ⟨?_, ?_⟩ ?_ | exact Or.inl rfl | exact Or.inr rfl | trivial | rfl | split⟩

/-- The effects of every instruction that has a word. -/
theorem exec_mayDo : ∀ i, MayDo i
  | .powerGood _ => fun _ h => nomatch h
  | .enterP0 => fun _ h => nomatch h
  | .enterP1 => fun _ h => nomatch h
  | .enterS1 => fun _ h => nomatch h
  | .exitS1 => fun _ h => nomatch h
  | .enterS3 => fun _ h => nomatch h
  | .exitS3 _ => fun _ h => nomatch h
  | .powerRemoved => fun _ h => nomatch h
  | .auxPowerFail => fun _ h => nomatch h
  | .thermalThrottle => fun _ h => nomatch h
  | .thermalRecover => fun _ h => nomatch h
  | .wccSlew _ => fun _ h => nomatch h
  | .syncUnlocked => fun _ h => nomatch h
  | .peerDelayMeasure _ _ => fun _ h => nomatch h
  | .ltsFloor => fun _ h => nomatch h
  | .bloomAlternate => fun _ h => nomatch h
  | .scrubLine _ _ => fun _ h => nomatch h
  | .configEntryRewritten _ => fun _ h => nomatch h
  | .selftestWithdraw _ => fun _ h => nomatch h
  | .selftestStart _ => fun _ h => nomatch h
  | .selftestSkip _ => fun _ h => nomatch h
  | .selftestDone _ _ => fun _ h => nomatch h
  | .failedInService _ => fun _ h => nomatch h
  | .freezeTimeout _ => fun _ h => nomatch h
  | .retryRequest _ _ => fun _ h => nomatch h
  | .linkDead _ _ => fun _ h => nomatch h
  | .publicationArrival _ _ => fun _ h => nomatch h
  | .requestArrival _ _ => fun _ h => nomatch h
  | .requestResume _ => fun _ h => nomatch h
  | .gateTileArrival _ => fun _ h => nomatch h
  | .heldTileAccept _ => fun _ h => nomatch h
  | .missReplyArrival _ => fun _ h => nomatch h
  | .agentRequest _ => fun _ h => nomatch h
  | .agentFetchDone _ _ => fun _ h => nomatch h
  | .segmentVerify _ => fun _ h => nomatch h
  | .backWrite _ => fun _ h => nomatch h
  | .backCompletion _ => fun _ h => nomatch h
  | .configWrite _ => fun _ h => nomatch h
  | .collectiveChunkArrival _ _ => fun _ h => nomatch h
  | .chunkRefetch _ => fun _ h => nomatch h
  | .markerArrival _ _ => fun _ h => nomatch h
  | .carryMessageArrival _ _ => fun _ h => nomatch h
  | .drainWave _ => fun _ h => nomatch h
  | .cfgswap _ => fun _ h => nomatch h
  | .cfgswapForce _ => fun _ h => nomatch h
  | .planeSwap _ => fun _ h => nomatch h
  | .congestionTimeout _ _ => fun _ h => nomatch h
  | .probe _ => fun _ h => nomatch h
  | .probeWave _ => fun _ h => nomatch h
  | .verdictRead => fun _ h => nomatch h
  | .memoryRequestArrival _ => fun _ h => nomatch h
  | .spillReturn _ => fun _ h => nomatch h
  | .requestServe _ => fun _ h => nomatch h
  | .lineFill _ _ => fun _ h => nomatch h
  | .acceptanceToken _ => fun _ h => nomatch h
  | .completionToken _ => fun _ h => nomatch h
  | .cancellation _ => fun _ h => nomatch h
  | .tilePrepare _ => fun _ h => nomatch h
  | .tileCommit _ => fun _ h => nomatch h
  | .walkRequest _ => fun _ h => nomatch h
  | .walkComplete _ => fun _ h => nomatch h
  | .pagerFaultToken _ => fun _ h => nomatch h
  | .pagerResolve _ => fun _ h => nomatch h
  | .shootdown _ _ _ => fun _ h => nomatch h
  | .shootdownComplete => fun _ h => nomatch h
  | .frameReceive _ _ => fun _ h => nomatch h
  | .frameResendTimeout _ _ _ => fun _ h => nomatch h
  | .peerLost _ => fun _ h => nomatch h
  | .instructionFetch _ => fun _ h => nomatch h
  | .fixedResultLand _ => fun _ h => nomatch h
  | .registerFill _ _ => fun _ h => nomatch h
  | .queueOpStart _ _ => fun _ h => nomatch h
  | .engineOpComplete _ _ _ => fun _ h => nomatch h
  | .streamerStart _ => fun _ h => nomatch h
  | .streamerComplete _ _ => fun _ h => nomatch h
  | .landingStart _ => fun _ h => nomatch h
  | .landingComplete _ => fun _ h => nomatch h
  | .retireComplete _ => fun _ h => nomatch h
  | .walkerOpen _ => fun _ h => nomatch h
  | .dispatch _ => fun _ h => nomatch h
  | .herdDispatch _ => fun _ h => nomatch h
  | .triggerCount _ => fun _ h => nomatch h
  | .eosRequest _ => fun _ h => nomatch h
  | .eosEmit _ => fun _ h => nomatch h
  | .barrierArrival _ => fun _ h => nomatch h
  | .barrierTimeout _ => fun _ h => nomatch h
  | .npsOverrun _ => fun _ h => nomatch h
  | .deferredFault _ => fun _ h => nomatch h
  | .resume _ => fun _ h => nomatch h
  | .retranslate _ => fun _ h => nomatch h
  | .endFiring _ => fun _ h => nomatch h
  | .freezeRequest _ => fun _ h => nomatch h
  | .arm _ => fun _ h => nomatch h
  | .cancel _ => fun _ h => nomatch h
  | .switchCommit _ => fun _ h => nomatch h
  | .switchStart _ => fun _ h => nomatch h
  | .saveDone _ => fun _ h => nomatch h
  | .restoreDone _ => fun _ h => nomatch h
  | .switchOverdue _ => fun _ h => nomatch h
  | .openCfg _ => fun _ h => nomatch h
  | .arg _ => fun _ h => nomatch h
  | .inject _ => fun _ h => nomatch h
  | .go _ => fun _ h => nomatch h
  | .close _ => fun _ h => nomatch h
  | .invalidEntry _ => fun _ h => nomatch h
  | .heldEntryResume _ => fun _ h => nomatch h
  | .tailWrite _ _ => fun _ h => nomatch h
  | .ringWrite _ _ => fun _ h => nomatch h
  | .errClear _ => fun _ h => nomatch h
  | .registerWrite _ _ => fun _ h => nomatch h
  | .lockInterface _ _ => fun _ h => nomatch h
  | .keyDelivery _ _ => fun _ h => nomatch h
  | .startInterface _ => fun _ h => nomatch h
  | .stopInterface _ => fun _ h => nomatch h
  | .getDeviceInterfaceReport _ => fun _ h => nomatch h
  | .tdispUnsupported _ => fun _ h => nomatch h
  | .snapshotChange _ _ => fun _ h => nomatch h
  | .keyTableError _ => fun _ h => nomatch h
  | .debugAttachTrace _ => fun _ h => nomatch h
  | .debugAttachHalt _ => fun _ h => nomatch h
  | .debugSessionEnd _ => fun _ h => nomatch h
  | .attestationRequest _ => fun _ h => nomatch h
  | .add x0 x1 => may_add x0 x1
  | .sub x0 x1 => may_sub x0 x1
  | .addi x0 x1 => may_addi x0 x1
  | .addiExt x0 x1 => may_addiExt x0 x1
  | .and x0 x1 => may_and x0 x1
  | .or x0 x1 => may_or x0 x1
  | .xor x0 x1 => may_xor x0 x1
  | .andn x0 x1 => may_andn x0 x1
  | .shl x0 x1 => may_shl x0 x1
  | .shr x0 x1 => may_shr x0 x1
  | .sra x0 x1 => may_sra x0 x1
  | .shli x0 x1 => may_shli x0 x1
  | .shri x0 x1 => may_shri x0 x1
  | .srai x0 x1 => may_srai x0 x1
  | .mul x0 x1 => may_mul x0 x1
  | .mulh x0 x1 => may_mulh x0 x1
  | .div x0 x1 => may_div x0 x1
  | .rem x0 x1 => may_rem x0 x1
  | .min x0 x1 => may_min x0 x1
  | .max x0 x1 => may_max x0 x1
  | .clz x0 x1 => may_clz x0 x1
  | .ctz x0 x1 => may_ctz x0 x1
  | .popc x0 x1 => may_popc x0 x1
  | .bswap x0 x1 => may_bswap x0 x1
  | .ext x0 x1 => may_ext x0 x1
  | .ins x0 x1 => may_ins x0 x1
  | .li x0 x1 => may_li x0 x1
  | .liExt x0 x1 => may_liExt x0 x1
  | .lih x0 x1 => may_lih x0 x1
  | .lihExt x0 x1 => may_lihExt x0 x1
  | .mov x0 x1 => may_mov x0 x1
  | .sel x0 x1 => may_sel x0 x1
  | .lea x0 x1 => may_lea x0 x1
  | .madd x0 x1 => may_madd x0 x1
  | .clamp x0 x1 => may_clamp x0 x1
  | .cmpEq x0 x1 => may_cmpEq x0 x1
  | .cmpNe x0 x1 => may_cmpNe x0 x1
  | .cmpLt x0 x1 => may_cmpLt x0 x1
  | .cmpLe x0 x1 => may_cmpLe x0 x1
  | .cmpiEq x0 x1 => may_cmpiEq x0 x1
  | .cmpiEqExt x0 x1 => may_cmpiEqExt x0 x1
  | .cmpiNe x0 x1 => may_cmpiNe x0 x1
  | .cmpiNeExt x0 x1 => may_cmpiNeExt x0 x1
  | .cmpiLt x0 x1 => may_cmpiLt x0 x1
  | .cmpiLtExt x0 x1 => may_cmpiLtExt x0 x1
  | .cmpiLe x0 x1 => may_cmpiLe x0 x1
  | .cmpiLeExt x0 x1 => may_cmpiLeExt x0 x1
  | .pand x0 x1 => may_pand x0 x1
  | .por x0 x1 => may_por x0 x1
  | .pxor x0 x1 => may_pxor x0 x1
  | .pnot x0 x1 => may_pnot x0 x1
  | .pmov x0 x1 => may_pmov x0 x1
  | .br x0 x1 => may_br x0 x1
  | .brc x0 x1 => may_brc x0 x1
  | .brcExt x0 x1 => may_brcExt x0 x1
  | .jr x0 x1 => may_jr x0 x1
  | .call x0 x1 => may_call x0 x1
  | .ret x0 => may_ret x0
  | .lp x0 x1 => may_lp x0 x1
  | .lpx x0 x1 => may_lpx x0 x1
  | .xwait x0 x1 => may_xwait x0 x1
  | .twait x0 x1 => may_twait x0 x1
  | .retire x0 => may_retire x0
  | .trigger x0 => may_trigger x0
  | .trap x0 x1 => may_trap x0 x1
  | .brk x0 x1 => may_brk x0 x1
  | .npsBegin x0 => may_npsBegin x0
  | .npsEnd x0 => may_npsEnd x0
  | .srd x0 x1 => may_srd x0 x1
  | .swr x0 x1 => may_swr x0 x1
  | .cfgq x0 x1 => may_cfgq x0 x1
  | .wccr x0 x1 => may_wccr x0 x1
  | .vadd x0 x1 => may_vadd x0 x1
  | .vaddMsk x0 x1 x2 => may_vaddMsk x0 x1 x2
  | .vsub x0 x1 => may_vsub x0 x1
  | .vsubMsk x0 x1 x2 => may_vsubMsk x0 x1 x2
  | .vmul x0 x1 => may_vmul x0 x1
  | .vmulMsk x0 x1 x2 => may_vmulMsk x0 x1 x2
  | .vfma x0 x1 => may_vfma x0 x1
  | .vfms x0 x1 => may_vfms x0 x1
  | .vfnma x0 x1 => may_vfnma x0 x1
  | .vmin x0 x1 => may_vmin x0 x1
  | .vminMsk x0 x1 x2 => may_vminMsk x0 x1 x2
  | .vmax x0 x1 => may_vmax x0 x1
  | .vmaxMsk x0 x1 x2 => may_vmaxMsk x0 x1 x2
  | .vabs x0 x1 => may_vabs x0 x1
  | .vabsMsk x0 x1 x2 => may_vabsMsk x0 x1 x2
  | .vneg x0 x1 => may_vneg x0 x1
  | .vnegMsk x0 x1 x2 => may_vnegMsk x0 x1 x2
  | .vcmpEq x0 x1 => may_vcmpEq x0 x1
  | .vcmpEqMsk x0 x1 x2 => may_vcmpEqMsk x0 x1 x2
  | .vcmpLt x0 x1 => may_vcmpLt x0 x1
  | .vcmpLtMsk x0 x1 x2 => may_vcmpLtMsk x0 x1 x2
  | .vcmpLe x0 x1 => may_vcmpLe x0 x1
  | .vcmpLeMsk x0 x1 x2 => may_vcmpLeMsk x0 x1 x2
  | .vcmpUn x0 x1 => may_vcmpUn x0 x1
  | .vcmpUnMsk x0 x1 x2 => may_vcmpUnMsk x0 x1 x2
  | .vsel x0 x1 => may_vsel x0 x1
  | .vselMsk x0 x1 x2 => may_vselMsk x0 x1 x2
  | .vclamp x0 x1 => may_vclamp x0 x1
  | .viadd x0 x1 => may_viadd x0 x1
  | .viaddMsk x0 x1 x2 => may_viaddMsk x0 x1 x2
  | .visub x0 x1 => may_visub x0 x1
  | .visubMsk x0 x1 x2 => may_visubMsk x0 x1 x2
  | .vimul x0 x1 => may_vimul x0 x1
  | .vimulMsk x0 x1 x2 => may_vimulMsk x0 x1 x2
  | .vimin x0 x1 => may_vimin x0 x1
  | .viminMsk x0 x1 x2 => may_viminMsk x0 x1 x2
  | .vimax x0 x1 => may_vimax x0 x1
  | .vimaxMsk x0 x1 x2 => may_vimaxMsk x0 x1 x2
  | .vand x0 x1 => may_vand x0 x1
  | .vandMsk x0 x1 x2 => may_vandMsk x0 x1 x2
  | .vor x0 x1 => may_vor x0 x1
  | .vorMsk x0 x1 x2 => may_vorMsk x0 x1 x2
  | .vxor x0 x1 => may_vxor x0 x1
  | .vxorMsk x0 x1 x2 => may_vxorMsk x0 x1 x2
  | .vandn x0 x1 => may_vandn x0 x1
  | .vandnMsk x0 x1 x2 => may_vandnMsk x0 x1 x2
  | .vshl x0 x1 => may_vshl x0 x1
  | .vshlMsk x0 x1 x2 => may_vshlMsk x0 x1 x2
  | .vshr x0 x1 => may_vshr x0 x1
  | .vshrMsk x0 x1 x2 => may_vshrMsk x0 x1 x2
  | .vsra x0 x1 => may_vsra x0 x1
  | .vsraMsk x0 x1 x2 => may_vsraMsk x0 x1 x2
  | .vicmpEq x0 x1 => may_vicmpEq x0 x1
  | .vicmpEqMsk x0 x1 x2 => may_vicmpEqMsk x0 x1 x2
  | .vicmpLt x0 x1 => may_vicmpLt x0 x1
  | .vicmpLtMsk x0 x1 x2 => may_vicmpLtMsk x0 x1 x2
  | .vicmpLe x0 x1 => may_vicmpLe x0 x1
  | .vicmpLeMsk x0 x1 x2 => may_vicmpLeMsk x0 x1 x2
  | .vbcast x0 x1 => may_vbcast x0 x1
  | .vbcastMsk x0 x1 x2 => may_vbcastMsk x0 x1 x2
  | .vext x0 x1 => may_vext x0 x1
  | .vins x0 x1 => may_vins x0 x1
  | .vperm x0 x1 => may_vperm x0 x1
  | .vpermMsk x0 x1 x2 => may_vpermMsk x0 x1 x2
  | .vshift x0 x1 => may_vshift x0 x1
  | .vshiftMsk x0 x1 x2 => may_vshiftMsk x0 x1 x2
  | .vrot x0 x1 => may_vrot x0 x1
  | .vrotMsk x0 x1 x2 => may_vrotMsk x0 x1 x2
  | .vsum x0 x1 => may_vsum x0 x1
  | .vsumMsk x0 x1 x2 => may_vsumMsk x0 x1 x2
  | .vmaxr x0 x1 => may_vmaxr x0 x1
  | .vmaxrMsk x0 x1 x2 => may_vmaxrMsk x0 x1 x2
  | .vminr x0 x1 => may_vminr x0 x1
  | .vminrMsk x0 x1 x2 => may_vminrMsk x0 x1 x2
  | .mand x0 x1 => may_mand x0 x1
  | .mor x0 x1 => may_mor x0 x1
  | .mxor x0 x1 => may_mxor x0 x1
  | .mnot x0 x1 => may_mnot x0 x1
  | .mpop x0 x1 => may_mpop x0 x1
  | .mfirst x0 x1 => may_mfirst x0 x1
  | .vvalid x0 x1 => may_vvalid x0 x1
  | .vmov x0 x1 => may_vmov x0 x1
  | .vmovMsk x0 x1 x2 => may_vmovMsk x0 x1 x2
  | .vmovAnd x0 x1 => may_vmovAnd x0 x1
  | .vmovAndMsk x0 x1 x2 => may_vmovAndMsk x0 x1 x2
  | .vmovSet x0 x1 => may_vmovSet x0 x1
  | .vmovSetMsk x0 x1 x2 => may_vmovSetMsk x0 x1 x2
  | .vrcp x0 x1 => may_vrcp x0 x1
  | .vrcpMsk x0 x1 x2 => may_vrcpMsk x0 x1 x2
  | .vrsqrt x0 x1 => may_vrsqrt x0 x1
  | .vrsqrtMsk x0 x1 x2 => may_vrsqrtMsk x0 x1 x2
  | .vsqrt x0 x1 => may_vsqrt x0 x1
  | .vsqrtMsk x0 x1 x2 => may_vsqrtMsk x0 x1 x2
  | .vexp2 x0 x1 => may_vexp2 x0 x1
  | .vexp2Msk x0 x1 x2 => may_vexp2Msk x0 x1 x2
  | .vlog2 x0 x1 => may_vlog2 x0 x1
  | .vlog2Msk x0 x1 x2 => may_vlog2Msk x0 x1 x2
  | .vtanh x0 x1 => may_vtanh x0 x1
  | .vtanhMsk x0 x1 x2 => may_vtanhMsk x0 x1 x2
  | .vsigm x0 x1 => may_vsigm x0 x1
  | .vsigmMsk x0 x1 x2 => may_vsigmMsk x0 x1 x2
  | .vrand x0 x1 => may_vrand x0 x1
  | .vrandMsk x0 x1 x2 => may_vrandMsk x0 x1 x2
  | .vcvt x0 x1 => may_vcvt x0 x1
  | .vpack x0 x1 => may_vpack x0 x1
  | .vunpack x0 x1 => may_vunpack x0 x1
  | .vscale x0 x1 => may_vscale x0 x1
  | .vscaleMsk x0 x1 x2 => may_vscaleMsk x0 x1 x2
  | .ld x0 x1 => may_ld x0 x1
  | .ldExt x0 x1 => may_ldExt x0 x1
  | .st x0 x1 => may_st x0 x1
  | .stExt x0 x1 => may_stExt x0 x1
  | .vld x0 x1 => may_vld x0 x1
  | .vldExt x0 x1 => may_vldExt x0 x1
  | .vst x0 x1 => may_vst x0 x1
  | .vstExt x0 x1 => may_vstExt x0 x1
  | .vldm x0 x1 => may_vldm x0 x1
  | .vldmExt x0 x1 => may_vldmExt x0 x1
  | .vstm x0 x1 => may_vstm x0 x1
  | .vstmExt x0 x1 => may_vstmExt x0 x1
  | .gld x0 x1 => may_gld x0 x1
  | .gst x0 x1 => may_gst x0 x1
  | .amoAdd x0 x1 => may_amoAdd x0 x1
  | .amoMin x0 x1 => may_amoMin x0 x1
  | .amoMax x0 x1 => may_amoMax x0 x1
  | .amoSwap x0 x1 => may_amoSwap x0 x1
  | .amoCas x0 x1 => may_amoCas x0 x1
  | .amoFadd x0 x1 => may_amoFadd x0 x1
  | .xlat x0 x1 => may_xlat x0 x1
  | .hinv x0 x1 => may_hinv x0 x1
  | .tld x0 x1 => may_tld x0 x1
  | .tldTimed x0 x1 => may_tldTimed x0 x1
  | .tst x0 x1 => may_tst x0 x1
  | .tstTimed x0 x1 => may_tstTimed x0 x1
  | .pf x0 x1 => may_pf x0 x1
  | .fenceG x0 => may_fenceG x0
  | .fenceE x0 => may_fenceE x0
  | .fenceN x0 => may_fenceN x0
  | .fenceA x0 => may_fenceA x0
  | .bankmode x0 x1 => may_bankmode x0 x1
  | .cinv x0 x1 => may_cinv x0 x1
  | .cinva x0 => may_cinva x0
  | .qset x0 x1 => may_qset x0 x1
  | .qget x0 x1 => may_qget x0 x1
  | .mma x0 x1 => may_mma x0 x1
  | .mmag x0 x1 => may_mmag x0 x1
  | .aalloc x0 x1 => may_aalloc x0 x1
  | .afree x0 x1 => may_afree x0 x1
  | .aown x0 x1 => may_aown x0 x1
  | .aownRel x0 x1 => may_aownRel x0 x1
  | .aclr x0 x1 => may_aclr x0 x1
  | .adrain x0 x1 => may_adrain x0 x1
  | .aread x0 x1 => may_aread x0 x1
  | .scanAdd x0 x1 => may_scanAdd x0 x1
  | .scanAddInit x0 x1 => may_scanAddInit x0 x1
  | .scanMul x0 x1 => may_scanMul x0 x1
  | .scanMulInit x0 x1 => may_scanMulInit x0 x1
  | .scanMax x0 x1 => may_scanMax x0 x1
  | .scanMaxInit x0 x1 => may_scanMaxInit x0 x1
  | .scanMin x0 x1 => may_scanMin x0 x1
  | .scanMinInit x0 x1 => may_scanMinInit x0 x1
  | .scanAffine x0 x1 => may_scanAffine x0 x1
  | .scanLse x0 x1 => may_scanLse x0 x1
  | .scanMoment x0 x1 => may_scanMoment x0 x1
  | .scanMomentInit x0 x1 => may_scanMomentInit x0 x1
  | .scanUser x0 x1 => may_scanUser x0 x1
  | .scanUserExt x0 x1 => may_scanUserExt x0 x1
  | .scdef x0 x1 => may_scdef x0 x1
  | .mupd x0 x1 => may_mupd x0 x1
  | .mupdw x0 x1 => may_mupdw x0 x1
  | .mupdwStream x0 x1 => may_mupdwStream x0 x1
  | .mmerge x0 x1 => may_mmerge x0 x1
  | .mmergeLanes x0 x1 => may_mmergeLanes x0 x1
  | .mclr x0 x1 => may_mclr x0 x1
  | .mdrain x0 x1 => may_mdrain x0 x1
  | .mdrainNorm x0 x1 => may_mdrainNorm x0 x1
  | .mld x0 x1 => may_mld x0 x1
  | .mst x0 x1 => may_mst x0 x1
  | .cpy x0 x1 => may_cpy x0 x1
  | .cpy2d x0 x1 => may_cpy2d x0 x1
  | .fill x0 x1 => may_fill x0 x1
  | .pub x0 x1 => may_pub x0 x1
  | .pubIndexed x0 x1 => may_pubIndexed x0 x1
  | .pubeos x0 x1 => may_pubeos x0 x1
  | .fetch x0 x1 => may_fetch x0 x1
  | .fetchIndexed x0 x1 => may_fetchIndexed x0 x1
  | .subq x0 x1 => may_subq x0 x1
  | .hbar x0 => may_hbar x0
  | .hbarArrive x0 => may_hbarArrive x0
  | .hbarWait x0 => may_hbarWait x0
  | .coll x0 x1 => may_coll x0 x1
  | .collRecv x0 x1 => may_collRecv x0 x1
  | .collW x0 x1 => may_collW x0 x1
  | .collRecvW x0 x1 => may_collRecvW x0 x1
  | .cmark x0 x1 => may_cmark x0 x1
  | .cmarkEnd x0 x1 => may_cmarkEnd x0 x1
  | .csend x0 x1 => may_csend x0 x1
  | .crecv x0 x1 => may_crecv x0 x1
  | .cbar x0 => may_cbar x0
  | .configurationRestart => fun _ h => nomatch h
  | .deepTierLoss _ => fun _ h => nomatch h
  | .syncLocked => fun _ h => nomatch h
  | .emptyBundle _ => fun _ h => nomatch h
  | .unassignedOpcode _ _ => fun _ h => nomatch h
  | .rePlacement _ _ _ => fun _ h => nomatch h
  | .newHealthRecord _ => fun _ h => nomatch h
  | .stewardFrameFill _ _ => fun _ h => nomatch h

end Sys2Proof.Machine
end

