-- ==== Sys2Proof/Laws/Encode.lean ====
section
/-! SUPPORT. Sys2Proof/Laws/Encode.lean: the operand word of each format reads back as its fields, and lies below 2^20; the codes of the small
fields read back. -/

set_option Elab.async false

namespace Sys2Proof

theorem boolBit_le (b : Bool) : boolBit b ≤ 1 := by cases b <;> decide
theorem Ty.code_lt (x : Ty) : x.code < 8 := by cases x <;> decide
theorem Ty.ofCode_code (x : Ty) : Ty.ofCode x.code = x := by cases x <;> rfl
theorem Rms.code_lt (x : Rms) : x.code < 6 := by cases x <;> decide
theorem Rms.ofCode_code (x : Rms) : Rms.ofCode x.code = x := by cases x <;> rfl
theorem Fmt.code_lt (x : Fmt) : x.code < 11 := by cases x <;> decide
theorem Fmt.ofCode_code (x : Fmt) : Fmt.ofCode x.code = x := by cases x <;> rfl
theorem Cond.code_lt (x : Cond) : x.code < 6 := by cases x <;> decide
theorem Cond.ofCode_code (x : Cond) : Cond.ofCode x.code = x := by cases x <;> rfl
theorem SysReg.number_lt (x : SysReg) : x.number < 128 := by
  cases x <;> simp only [SysReg.number] <;> omega
theorem SysReg.listed_number (x : SysReg) : SysReg.listed x.number = true := by
  have h : ∀ k : Fin 4, SysReg.listed (SysReg.key k).number = true ∧ SysReg.listed (SysReg.xdone k).number = true ∧
      SysReg.listed (SysReg.xnext k).number = true ∧ SysReg.listed (SysReg.trapRec k).number = true := by decide
  cases x with
  | key k => exact (h k).1
  | xdone k => exact (h k).2.1
  | xnext k => exact (h k).2.2.1
  | trapRec k => exact (h k).2.2.2
  | _ => rfl
theorem SysReg.ofNumber_number (x : SysReg) : SysReg.ofNumber x.number = x := by
  have h : ∀ k : Fin 4, SysReg.ofNumber (SysReg.key k).number = .key k ∧ SysReg.ofNumber (SysReg.xdone k).number = .xdone k ∧
      SysReg.ofNumber (SysReg.xnext k).number = .xnext k ∧ SysReg.ofNumber (SysReg.trapRec k).number = .trapRec k := by decide
  cases x with
  | key k => exact (h k).1
  | xdone k => exact (h k).2.1
  | xnext k => exact (h k).2.2.1
  | trapRec k => exact (h k).2.2.2
  | _ => rfl

theorem Ty.ofCode_eq {n : Nat} {x : Ty} (e : n = x.code) : Ty.ofCode n = x := e ▸ x.ofCode_code
theorem Rms.ofCode_eq {n : Nat} {x : Rms} (e : n = x.code) : Rms.ofCode n = x := e ▸ x.ofCode_code
theorem Fmt.ofCode_eq {n : Nat} {x : Fmt} (e : n = x.code) : Fmt.ofCode n = x := e ▸ x.ofCode_code
theorem Cond.ofCode_eq {n : Nat} {x : Cond} (e : n = x.code) : Cond.ofCode n = x := e ▸ x.ofCode_code
theorem SysReg.ofNumber_eq {n : Nat} {x : SysReg} (e : n = x.number) : SysReg.ofNumber n = x := e ▸ x.ofNumber_number

/-- A bit of a word. -/
theorem bit_eq {a : Nat} {b : Bool} (e : a = boolBit b) : decide (a = 1) = b := by subst e; cases b <;> rfl
/-- A bit vector in a word. -/
theorem vec_eq {n a : Nat} {x : BitVec n} (e : a % 2 ^ n = x.toNat) : BitVec.ofNat n a = x := by
  apply BitVec.eq_of_toNat_eq; simpa using e

theorem Form.R3.ofWord_word (f : Form.R3) : Form.R3.ofWord f.word = some f := by
  obtain ⟨x_d, x_a, x_ta, x_b, x_tb⟩ := f
  have := x_d.isLt; have := x_a.isLt; have := boolBit_le x_ta; have := x_b.isLt; have := boolBit_le x_tb
  unfold Form.R3.ofWord Form.R3.word
  dsimp only
  rw [if_pos (by omega)]
  exact congrArg some ((Form.R3.mk.injEq ..).mpr ⟨Fin.ext (by dsimp only; omega), Fin.ext (by dsimp only; omega), bit_eq (by omega), Fin.ext (by dsimp only; omega), bit_eq (by omega)⟩)
theorem Form.R3.word_lt (f : Form.R3) : f.word < 1048576 := by
  obtain ⟨x_d, x_a, x_ta, x_b, x_tb⟩ := f
  have := x_d.isLt; have := x_a.isLt; have := boolBit_le x_ta; have := x_b.isLt; have := boolBit_le x_tb
  unfold Form.R3.word; dsimp only; omega

theorem Form.R3K.ofWord_word (f : Form.R3K) : Form.R3K.ofWord f.word = some f := by
  obtain ⟨x_d, x_a, x_ta, x_b, x_tb, x_k⟩ := f
  have := x_d.isLt; have := x_a.isLt; have := boolBit_le x_ta; have := x_b.isLt; have := boolBit_le x_tb; have := x_k.isLt
  unfold Form.R3K.ofWord Form.R3K.word
  dsimp only
  exact congrArg some ((Form.R3K.mk.injEq ..).mpr ⟨Fin.ext (by dsimp only; omega), Fin.ext (by dsimp only; omega), bit_eq (by omega), Fin.ext (by dsimp only; omega), bit_eq (by omega), Fin.ext (by dsimp only; omega)⟩)
theorem Form.R3K.word_lt (f : Form.R3K) : f.word < 1048576 := by
  obtain ⟨x_d, x_a, x_ta, x_b, x_tb, x_k⟩ := f
  have := x_d.isLt; have := x_a.isLt; have := boolBit_le x_ta; have := x_b.isLt; have := boolBit_le x_tb; have := x_k.isLt
  unfold Form.R3K.word; dsimp only; omega

theorem Form.R3Y.ofWord_word (f : Form.R3Y) : Form.R3Y.ofWord f.word = some f := by
  obtain ⟨x_d, x_a, x_ta, x_b, x_tb, x_ty⟩ := f
  have := x_d.isLt; have := x_a.isLt; have := boolBit_le x_ta; have := x_b.isLt; have := boolBit_le x_tb; have := x_ty.code_lt
  unfold Form.R3Y.ofWord Form.R3Y.word
  dsimp only
  exact congrArg some ((Form.R3Y.mk.injEq ..).mpr ⟨Fin.ext (by dsimp only; omega), Fin.ext (by dsimp only; omega), bit_eq (by omega), Fin.ext (by dsimp only; omega), bit_eq (by omega), Ty.ofCode_eq (by omega)⟩)
theorem Form.R3Y.word_lt (f : Form.R3Y) : f.word < 1048576 := by
  obtain ⟨x_d, x_a, x_ta, x_b, x_tb, x_ty⟩ := f
  have := x_d.isLt; have := x_a.isLt; have := boolBit_le x_ta; have := x_b.isLt; have := boolBit_le x_tb; have := x_ty.code_lt
  unfold Form.R3Y.word; dsimp only; omega

theorem Form.R3U.ofWord_word (f : Form.R3U) : Form.R3U.ofWord f.word = some f := by
  obtain ⟨x_d, x_a, x_ta, x_b, x_tb, x_uns⟩ := f
  have := x_d.isLt; have := x_a.isLt; have := boolBit_le x_ta; have := x_b.isLt; have := boolBit_le x_tb; have := boolBit_le x_uns
  unfold Form.R3U.ofWord Form.R3U.word
  dsimp only
  rw [if_pos (by omega)]
  exact congrArg some ((Form.R3U.mk.injEq ..).mpr ⟨Fin.ext (by dsimp only; omega), Fin.ext (by dsimp only; omega), bit_eq (by omega), Fin.ext (by dsimp only; omega), bit_eq (by omega), bit_eq (by omega)⟩)
theorem Form.R3U.word_lt (f : Form.R3U) : f.word < 1048576 := by
  obtain ⟨x_d, x_a, x_ta, x_b, x_tb, x_uns⟩ := f
  have := x_d.isLt; have := x_a.isLt; have := boolBit_le x_ta; have := x_b.isLt; have := boolBit_le x_tb; have := boolBit_le x_uns
  unfold Form.R3U.word; dsimp only; omega

theorem Form.R3R.ofWord_word (f : Form.R3R) : Form.R3R.ofWord f.word = some f := by
  obtain ⟨x_d, x_a, x_ta, x_b, x_tb, x_rms⟩ := f
  have := x_d.isLt; have := x_a.isLt; have := boolBit_le x_ta; have := x_b.isLt; have := boolBit_le x_tb; have := x_rms.code_lt
  unfold Form.R3R.ofWord Form.R3R.word
  dsimp only
  rw [if_pos (by omega)]
  exact congrArg some ((Form.R3R.mk.injEq ..).mpr ⟨Fin.ext (by dsimp only; omega), Fin.ext (by dsimp only; omega), bit_eq (by omega), Fin.ext (by dsimp only; omega), bit_eq (by omega), Rms.ofCode_eq (by omega)⟩)
theorem Form.R3R.word_lt (f : Form.R3R) : f.word < 1048576 := by
  obtain ⟨x_d, x_a, x_ta, x_b, x_tb, x_rms⟩ := f
  have := x_d.isLt; have := x_a.isLt; have := boolBit_le x_ta; have := x_b.isLt; have := boolBit_le x_tb; have := x_rms.code_lt
  unfold Form.R3R.word; dsimp only; omega

theorem Form.R2.ofWord_word (f : Form.R2) : Form.R2.ofWord f.word = some f := by
  obtain ⟨x_d, x_a, x_ta⟩ := f
  have := x_d.isLt; have := x_a.isLt; have := boolBit_le x_ta
  unfold Form.R2.ofWord Form.R2.word
  dsimp only
  rw [if_pos (by omega)]
  exact congrArg some ((Form.R2.mk.injEq ..).mpr ⟨Fin.ext (by dsimp only; omega), Fin.ext (by dsimp only; omega), bit_eq (by omega)⟩)
theorem Form.R2.word_lt (f : Form.R2) : f.word < 1048576 := by
  obtain ⟨x_d, x_a, x_ta⟩ := f
  have := x_d.isLt; have := x_a.isLt; have := boolBit_le x_ta
  unfold Form.R2.word; dsimp only; omega

theorem Form.R2R.ofWord_word (f : Form.R2R) : Form.R2R.ofWord f.word = some f := by
  obtain ⟨x_d, x_a, x_ta, x_rms⟩ := f
  have := x_d.isLt; have := x_a.isLt; have := boolBit_le x_ta; have := x_rms.code_lt
  unfold Form.R2R.ofWord Form.R2R.word
  dsimp only
  rw [if_pos (by omega)]
  exact congrArg some ((Form.R2R.mk.injEq ..).mpr ⟨Fin.ext (by dsimp only; omega), Fin.ext (by dsimp only; omega), bit_eq (by omega), Rms.ofCode_eq (by omega)⟩)
theorem Form.R2R.word_lt (f : Form.R2R) : f.word < 1048576 := by
  obtain ⟨x_d, x_a, x_ta, x_rms⟩ := f
  have := x_d.isLt; have := x_a.isLt; have := boolBit_le x_ta; have := x_rms.code_lt
  unfold Form.R2R.word; dsimp only; omega

theorem Form.R2K.ofWord_word (f : Form.R2K) : Form.R2K.ofWord f.word = some f := by
  obtain ⟨x_d, x_a, x_ta, x_k⟩ := f
  have := x_d.isLt; have := x_a.isLt; have := boolBit_le x_ta; have := x_k.isLt
  unfold Form.R2K.ofWord Form.R2K.word
  dsimp only
  rw [if_pos (by omega)]
  exact congrArg some ((Form.R2K.mk.injEq ..).mpr ⟨Fin.ext (by dsimp only; omega), Fin.ext (by dsimp only; omega), bit_eq (by omega), Fin.ext (by dsimp only; omega)⟩)
theorem Form.R2K.word_lt (f : Form.R2K) : f.word < 1048576 := by
  obtain ⟨x_d, x_a, x_ta, x_k⟩ := f
  have := x_d.isLt; have := x_a.isLt; have := boolBit_le x_ta; have := x_k.isLt
  unfold Form.R2K.word; dsimp only; omega

theorem Form.R4.ofWord_word (f : Form.R4) : Form.R4.ofWord f.word f.ext = some f := by
  obtain ⟨x_d, x_a, x_ta, x_b, x_tb, x_c, x_tc⟩ := f
  have := x_d.isLt; have := x_a.isLt; have := boolBit_le x_ta; have := x_b.isLt; have := boolBit_le x_tb; have := x_c.isLt; have := boolBit_le x_tc
  unfold Form.R4.ofWord Form.R4.word Form.R4.ext
  dsimp only
  rw [if_pos (by omega)]
  exact congrArg some ((Form.R4.mk.injEq ..).mpr ⟨Fin.ext (by dsimp only; omega), Fin.ext (by dsimp only; omega), bit_eq (by omega), Fin.ext (by dsimp only; omega), bit_eq (by omega), Fin.ext (by dsimp only; omega), bit_eq (by omega)⟩)
theorem Form.R4.word_lt (f : Form.R4) : f.word < 1048576 ∧ f.ext < 4294967296 := by
  obtain ⟨x_d, x_a, x_ta, x_b, x_tb, x_c, x_tc⟩ := f
  have := x_d.isLt; have := x_a.isLt; have := boolBit_le x_ta; have := x_b.isLt; have := boolBit_le x_tb; have := x_c.isLt; have := boolBit_le x_tc
  unfold Form.R4.word Form.R4.ext; dsimp only; omega

theorem Form.R4Y.ofWord_word (f : Form.R4Y) : Form.R4Y.ofWord f.word f.ext = some f := by
  obtain ⟨x_d, x_a, x_ta, x_b, x_tb, x_ty, x_c, x_tc⟩ := f
  have := x_d.isLt; have := x_a.isLt; have := boolBit_le x_ta; have := x_b.isLt; have := boolBit_le x_tb; have := x_ty.code_lt; have := x_c.isLt; have := boolBit_le x_tc
  unfold Form.R4Y.ofWord Form.R4Y.word Form.R4Y.ext
  dsimp only
  rw [if_pos (by omega)]
  exact congrArg some ((Form.R4Y.mk.injEq ..).mpr ⟨Fin.ext (by dsimp only; omega), Fin.ext (by dsimp only; omega), bit_eq (by omega), Fin.ext (by dsimp only; omega), bit_eq (by omega), Ty.ofCode_eq (by omega), Fin.ext (by dsimp only; omega), bit_eq (by omega)⟩)
theorem Form.R4Y.word_lt (f : Form.R4Y) : f.word < 1048576 ∧ f.ext < 4294967296 := by
  obtain ⟨x_d, x_a, x_ta, x_b, x_tb, x_ty, x_c, x_tc⟩ := f
  have := x_d.isLt; have := x_a.isLt; have := boolBit_le x_ta; have := x_b.isLt; have := boolBit_le x_tb; have := x_ty.code_lt; have := x_c.isLt; have := boolBit_le x_tc
  unfold Form.R4Y.word Form.R4Y.ext; dsimp only; omega

theorem Form.V4.ofWord_word (f : Form.V4) : Form.V4.ofWord f.word f.ext = some f := by
  obtain ⟨x_d, x_a, x_ta, x_b, x_tb, x_c, x_tc, x_msk⟩ := f
  have := x_d.isLt; have := x_a.isLt; have := boolBit_le x_ta; have := x_b.isLt; have := boolBit_le x_tb; have := x_c.isLt; have := boolBit_le x_tc; have := x_msk.isLt
  unfold Form.V4.ofWord Form.V4.word Form.V4.ext
  dsimp only
  rw [if_pos (by omega)]
  exact congrArg some ((Form.V4.mk.injEq ..).mpr ⟨Fin.ext (by dsimp only; omega), Fin.ext (by dsimp only; omega), bit_eq (by omega), Fin.ext (by dsimp only; omega), bit_eq (by omega), Fin.ext (by dsimp only; omega), bit_eq (by omega), Fin.ext (by dsimp only; omega)⟩)
theorem Form.V4.word_lt (f : Form.V4) : f.word < 1048576 ∧ f.ext < 4294967296 := by
  obtain ⟨x_d, x_a, x_ta, x_b, x_tb, x_c, x_tc, x_msk⟩ := f
  have := x_d.isLt; have := x_a.isLt; have := boolBit_le x_ta; have := x_b.isLt; have := boolBit_le x_tb; have := x_c.isLt; have := boolBit_le x_tc; have := x_msk.isLt
  unfold Form.V4.word Form.V4.ext; dsimp only; omega

theorem Form.V4R.ofWord_word (f : Form.V4R) : Form.V4R.ofWord f.word f.ext = some f := by
  obtain ⟨x_d, x_a, x_ta, x_b, x_tb, x_rms, x_c, x_tc, x_msk⟩ := f
  have := x_d.isLt; have := x_a.isLt; have := boolBit_le x_ta; have := x_b.isLt; have := boolBit_le x_tb; have := x_rms.code_lt; have := x_c.isLt; have := boolBit_le x_tc; have := x_msk.isLt
  unfold Form.V4R.ofWord Form.V4R.word Form.V4R.ext
  dsimp only
  rw [if_pos (by omega)]
  exact congrArg some ((Form.V4R.mk.injEq ..).mpr ⟨Fin.ext (by dsimp only; omega), Fin.ext (by dsimp only; omega), bit_eq (by omega), Fin.ext (by dsimp only; omega), bit_eq (by omega), Rms.ofCode_eq (by omega), Fin.ext (by dsimp only; omega), bit_eq (by omega), Fin.ext (by dsimp only; omega)⟩)
theorem Form.V4R.word_lt (f : Form.V4R) : f.word < 1048576 ∧ f.ext < 4294967296 := by
  obtain ⟨x_d, x_a, x_ta, x_b, x_tb, x_rms, x_c, x_tc, x_msk⟩ := f
  have := x_d.isLt; have := x_a.isLt; have := boolBit_le x_ta; have := x_b.isLt; have := boolBit_le x_tb; have := x_rms.code_lt; have := x_c.isLt; have := boolBit_le x_tc; have := x_msk.isLt
  unfold Form.V4R.word Form.V4R.ext; dsimp only; omega

theorem Form.Ri.ofWord_word (f : Form.Ri) : Form.Ri.ofWord f.word = some f := by
  obtain ⟨x_d, x_a, x_ta, x_imm⟩ := f
  have := x_d.isLt; have := x_a.isLt; have := boolBit_le x_ta; have := x_imm.isLt
  unfold Form.Ri.ofWord Form.Ri.word
  dsimp only
  exact congrArg some ((Form.Ri.mk.injEq ..).mpr ⟨Fin.ext (by dsimp only; omega), Fin.ext (by dsimp only; omega), bit_eq (by omega), vec_eq (by omega)⟩)
theorem Form.Ri.word_lt (f : Form.Ri) : f.word < 1048576 := by
  obtain ⟨x_d, x_a, x_ta, x_imm⟩ := f
  have := x_d.isLt; have := x_a.isLt; have := boolBit_le x_ta; have := x_imm.isLt
  unfold Form.Ri.word; dsimp only; omega

theorem Form.RiX.ofWord_word (f : Form.RiX) : Form.RiX.ofWord f.word f.ext = some f := by
  obtain ⟨x_d, x_a, x_ta, x_imm⟩ := f
  have := x_d.isLt; have := x_a.isLt; have := boolBit_le x_ta; have := x_imm.isLt
  unfold Form.RiX.ofWord Form.RiX.word Form.RiX.ext
  dsimp only
  exact congrArg some ((Form.RiX.mk.injEq ..).mpr ⟨Fin.ext (by dsimp only; omega), Fin.ext (by dsimp only; omega), bit_eq (by omega), vec_eq (by omega)⟩)
theorem Form.RiX.word_lt (f : Form.RiX) : f.word < 1048576 ∧ f.ext < 4294967296 := by
  obtain ⟨x_d, x_a, x_ta, x_imm⟩ := f
  have := x_d.isLt; have := x_a.isLt; have := boolBit_le x_ta; have := x_imm.isLt
  unfold Form.RiX.word Form.RiX.ext; dsimp only; omega

theorem Form.Rn.ofWord_word (f : Form.Rn) : Form.Rn.ofWord f.word = some f := by
  obtain ⟨x_d, x_a, x_ta, x_n⟩ := f
  have := x_d.isLt; have := x_a.isLt; have := boolBit_le x_ta; have := x_n.isLt
  unfold Form.Rn.ofWord Form.Rn.word
  dsimp only
  rw [if_pos (by omega)]
  exact congrArg some ((Form.Rn.mk.injEq ..).mpr ⟨Fin.ext (by dsimp only; omega), Fin.ext (by dsimp only; omega), bit_eq (by omega), Fin.ext (by dsimp only; omega)⟩)
theorem Form.Rn.word_lt (f : Form.Rn) : f.word < 1048576 := by
  obtain ⟨x_d, x_a, x_ta, x_n⟩ := f
  have := x_d.isLt; have := x_a.isLt; have := boolBit_le x_ta; have := x_n.isLt
  unfold Form.Rn.word; dsimp only; omega

theorem Form.Li.ofWord_word (f : Form.Li) : Form.Li.ofWord f.word = some f := by
  obtain ⟨x_d, x_imm⟩ := f
  have := x_d.isLt; have := x_imm.isLt
  unfold Form.Li.ofWord Form.Li.word
  dsimp only
  exact congrArg some ((Form.Li.mk.injEq ..).mpr ⟨Fin.ext (by dsimp only; omega), vec_eq (by omega)⟩)
theorem Form.Li.word_lt (f : Form.Li) : f.word < 1048576 := by
  obtain ⟨x_d, x_imm⟩ := f
  have := x_d.isLt; have := x_imm.isLt
  unfold Form.Li.word; dsimp only; omega

theorem Form.LiX.ofWord_word (f : Form.LiX) : Form.LiX.ofWord f.word f.ext = some f := by
  obtain ⟨x_d, x_imm⟩ := f
  have := x_d.isLt; have := x_imm.isLt
  unfold Form.LiX.ofWord Form.LiX.word Form.LiX.ext
  dsimp only
  exact congrArg some ((Form.LiX.mk.injEq ..).mpr ⟨Fin.ext (by dsimp only; omega), vec_eq (by omega)⟩)
theorem Form.LiX.word_lt (f : Form.LiX) : f.word < 1048576 ∧ f.ext < 4294967296 := by
  obtain ⟨x_d, x_imm⟩ := f
  have := x_d.isLt; have := x_imm.isLt
  unfold Form.LiX.word Form.LiX.ext; dsimp only; omega

theorem Form.Bf.ofWord_word (f : Form.Bf) : Form.Bf.ofWord f.word f.ext = some f := by
  obtain ⟨x_d, x_a, x_ta, x_pos, x_lenm1⟩ := f
  have := x_d.isLt; have := x_a.isLt; have := boolBit_le x_ta; have := x_pos.isLt; have := x_lenm1.isLt
  unfold Form.Bf.ofWord Form.Bf.word Form.Bf.ext
  dsimp only
  rw [if_pos (by omega)]
  exact congrArg some ((Form.Bf.mk.injEq ..).mpr ⟨Fin.ext (by dsimp only; omega), Fin.ext (by dsimp only; omega), bit_eq (by omega), Fin.ext (by dsimp only; omega), Fin.ext (by dsimp only; omega)⟩)
theorem Form.Bf.word_lt (f : Form.Bf) : f.word < 1048576 ∧ f.ext < 4294967296 := by
  obtain ⟨x_d, x_a, x_ta, x_pos, x_lenm1⟩ := f
  have := x_d.isLt; have := x_a.isLt; have := boolBit_le x_ta; have := x_pos.isLt; have := x_lenm1.isLt
  unfold Form.Bf.word Form.Bf.ext; dsimp only; omega

theorem Form.Cmp.ofWord_word (f : Form.Cmp) : Form.Cmp.ofWord f.word = some f := by
  obtain ⟨x_pd, x_a, x_ta, x_b, x_tb, x_uns⟩ := f
  have := x_pd.isLt; have := x_a.isLt; have := boolBit_le x_ta; have := x_b.isLt; have := boolBit_le x_tb; have := boolBit_le x_uns
  unfold Form.Cmp.ofWord Form.Cmp.word
  dsimp only
  rw [if_pos (by omega)]
  exact congrArg some ((Form.Cmp.mk.injEq ..).mpr ⟨Fin.ext (by dsimp only; omega), Fin.ext (by dsimp only; omega), bit_eq (by omega), Fin.ext (by dsimp only; omega), bit_eq (by omega), bit_eq (by omega)⟩)
theorem Form.Cmp.word_lt (f : Form.Cmp) : f.word < 1048576 := by
  obtain ⟨x_pd, x_a, x_ta, x_b, x_tb, x_uns⟩ := f
  have := x_pd.isLt; have := x_a.isLt; have := boolBit_le x_ta; have := x_b.isLt; have := boolBit_le x_tb; have := boolBit_le x_uns
  unfold Form.Cmp.word; dsimp only; omega

theorem Form.Cmpi.ofWord_word (f : Form.Cmpi) : Form.Cmpi.ofWord f.word = some f := by
  obtain ⟨x_pd, x_a, x_ta, x_uns, x_imm⟩ := f
  have := x_pd.isLt; have := x_a.isLt; have := boolBit_le x_ta; have := boolBit_le x_uns; have := x_imm.isLt
  unfold Form.Cmpi.ofWord Form.Cmpi.word
  dsimp only
  exact congrArg some ((Form.Cmpi.mk.injEq ..).mpr ⟨Fin.ext (by dsimp only; omega), Fin.ext (by dsimp only; omega), bit_eq (by omega), bit_eq (by omega), vec_eq (by omega)⟩)
theorem Form.Cmpi.word_lt (f : Form.Cmpi) : f.word < 1048576 := by
  obtain ⟨x_pd, x_a, x_ta, x_uns, x_imm⟩ := f
  have := x_pd.isLt; have := x_a.isLt; have := boolBit_le x_ta; have := boolBit_le x_uns; have := x_imm.isLt
  unfold Form.Cmpi.word; dsimp only; omega

theorem Form.CmpiX.ofWord_word (f : Form.CmpiX) : Form.CmpiX.ofWord f.word f.ext = some f := by
  obtain ⟨x_pd, x_a, x_ta, x_uns, x_imm⟩ := f
  have := x_pd.isLt; have := x_a.isLt; have := boolBit_le x_ta; have := boolBit_le x_uns; have := x_imm.isLt
  unfold Form.CmpiX.ofWord Form.CmpiX.word Form.CmpiX.ext
  dsimp only
  exact congrArg some ((Form.CmpiX.mk.injEq ..).mpr ⟨Fin.ext (by dsimp only; omega), Fin.ext (by dsimp only; omega), bit_eq (by omega), bit_eq (by omega), vec_eq (by omega)⟩)
theorem Form.CmpiX.word_lt (f : Form.CmpiX) : f.word < 1048576 ∧ f.ext < 4294967296 := by
  obtain ⟨x_pd, x_a, x_ta, x_uns, x_imm⟩ := f
  have := x_pd.isLt; have := x_a.isLt; have := boolBit_le x_ta; have := boolBit_le x_uns; have := x_imm.isLt
  unfold Form.CmpiX.word Form.CmpiX.ext; dsimp only; omega

theorem Form.P3.ofWord_word (f : Form.P3) : Form.P3.ofWord f.word = some f := by
  obtain ⟨x_pd, x_pa, x_pb⟩ := f
  have := x_pd.isLt; have := x_pa.isLt; have := x_pb.isLt
  unfold Form.P3.ofWord Form.P3.word
  dsimp only
  rw [if_pos (by omega)]
  exact congrArg some ((Form.P3.mk.injEq ..).mpr ⟨Fin.ext (by dsimp only; omega), Fin.ext (by dsimp only; omega), Fin.ext (by dsimp only; omega)⟩)
theorem Form.P3.word_lt (f : Form.P3) : f.word < 1048576 := by
  obtain ⟨x_pd, x_pa, x_pb⟩ := f
  have := x_pd.isLt; have := x_pa.isLt; have := x_pb.isLt
  unfold Form.P3.word; dsimp only; omega

theorem Form.P2.ofWord_word (f : Form.P2) : Form.P2.ofWord f.word = some f := by
  obtain ⟨x_pd, x_pa⟩ := f
  have := x_pd.isLt; have := x_pa.isLt
  unfold Form.P2.ofWord Form.P2.word
  dsimp only
  rw [if_pos (by omega)]
  exact congrArg some ((Form.P2.mk.injEq ..).mpr ⟨Fin.ext (by dsimp only; omega), Fin.ext (by dsimp only; omega)⟩)
theorem Form.P2.word_lt (f : Form.P2) : f.word < 1048576 := by
  obtain ⟨x_pd, x_pa⟩ := f
  have := x_pd.isLt; have := x_pa.isLt
  unfold Form.P2.word; dsimp only; omega

theorem Form.Jmp.ofWord_word (f : Form.Jmp) : Form.Jmp.ofWord f.word = some f := by
  obtain ⟨x_off⟩ := f
  have := x_off.isLt
  unfold Form.Jmp.ofWord Form.Jmp.word
  dsimp only
  exact congrArg some ((Form.Jmp.mk.injEq ..).mpr (vec_eq (by omega)))
theorem Form.Jmp.word_lt (f : Form.Jmp) : f.word < 1048576 := by
  obtain ⟨x_off⟩ := f
  have := x_off.isLt
  unfold Form.Jmp.word; dsimp only; omega

theorem Form.Brc.ofWord_word (f : Form.Brc) : Form.Brc.ofWord f.word = some f := by
  obtain ⟨x_a, x_ta, x_cond, x_off⟩ := f
  have := x_a.isLt; have := boolBit_le x_ta; have := x_cond.code_lt; have := x_off.isLt
  unfold Form.Brc.ofWord Form.Brc.word
  dsimp only
  rw [if_pos (by omega)]
  exact congrArg some ((Form.Brc.mk.injEq ..).mpr ⟨Fin.ext (by dsimp only; omega), bit_eq (by omega), Cond.ofCode_eq (by omega), vec_eq (by omega)⟩)
theorem Form.Brc.word_lt (f : Form.Brc) : f.word < 1048576 := by
  obtain ⟨x_a, x_ta, x_cond, x_off⟩ := f
  have := x_a.isLt; have := boolBit_le x_ta; have := x_cond.code_lt; have := x_off.isLt
  unfold Form.Brc.word; dsimp only; omega

theorem Form.BrcX.ofWord_word (f : Form.BrcX) : Form.BrcX.ofWord f.word f.ext = some f := by
  obtain ⟨x_a, x_ta, x_cond, x_off⟩ := f
  have := x_a.isLt; have := boolBit_le x_ta; have := x_cond.code_lt; have := x_off.isLt
  unfold Form.BrcX.ofWord Form.BrcX.word Form.BrcX.ext
  dsimp only
  rw [if_pos (by omega)]
  exact congrArg some ((Form.BrcX.mk.injEq ..).mpr ⟨Fin.ext (by dsimp only; omega), bit_eq (by omega), Cond.ofCode_eq (by omega), vec_eq (by omega)⟩)
theorem Form.BrcX.word_lt (f : Form.BrcX) : f.word < 1048576 ∧ f.ext < 4294967296 := by
  obtain ⟨x_a, x_ta, x_cond, x_off⟩ := f
  have := x_a.isLt; have := boolBit_le x_ta; have := x_cond.code_lt; have := x_off.isLt
  unfold Form.BrcX.word Form.BrcX.ext; dsimp only; omega

theorem Form.Ra.ofWord_word (f : Form.Ra) : Form.Ra.ofWord f.word = some f := by
  obtain ⟨x_a, x_ta⟩ := f
  have := x_a.isLt; have := boolBit_le x_ta
  unfold Form.Ra.ofWord Form.Ra.word
  dsimp only
  rw [if_pos (by omega)]
  exact congrArg some ((Form.Ra.mk.injEq ..).mpr ⟨Fin.ext (by dsimp only; omega), bit_eq (by omega)⟩)
theorem Form.Ra.word_lt (f : Form.Ra) : f.word < 1048576 := by
  obtain ⟨x_a, x_ta⟩ := f
  have := x_a.isLt; have := boolBit_le x_ta
  unfold Form.Ra.word; dsimp only; omega

theorem Form.Lp.ofWord_word (f : Form.Lp) : Form.Lp.ofWord f.word = some f := by
  obtain ⟨x_a, x_ta, x_stop⟩ := f
  have := x_a.isLt; have := boolBit_le x_ta; have := x_stop.isLt
  unfold Form.Lp.ofWord Form.Lp.word
  dsimp only
  exact congrArg some ((Form.Lp.mk.injEq ..).mpr ⟨Fin.ext (by dsimp only; omega), bit_eq (by omega), vec_eq (by omega)⟩)
theorem Form.Lp.word_lt (f : Form.Lp) : f.word < 1048576 := by
  obtain ⟨x_a, x_ta, x_stop⟩ := f
  have := x_a.isLt; have := boolBit_le x_ta; have := x_stop.isLt
  unfold Form.Lp.word; dsimp only; omega

theorem Form.Lpx.ofWord_word (f : Form.Lpx) : Form.Lpx.ofWord f.word = some f := by
  obtain ⟨x_cntm1, x_stop⟩ := f
  have := x_cntm1.isLt; have := x_stop.isLt
  unfold Form.Lpx.ofWord Form.Lpx.word
  dsimp only
  exact congrArg some ((Form.Lpx.mk.injEq ..).mpr ⟨vec_eq (by omega), vec_eq (by omega)⟩)
theorem Form.Lpx.word_lt (f : Form.Lpx) : f.word < 1048576 := by
  obtain ⟨x_cntm1, x_stop⟩ := f
  have := x_cntm1.isLt; have := x_stop.isLt
  unfold Form.Lpx.word; dsimp only; omega

theorem Form.Xw.ofWord_word (f : Form.Xw) : Form.Xw.ofWord f.word = some f := by
  obtain ⟨x_ch, x_a, x_ta⟩ := f
  have := x_ch.isLt; have := x_a.isLt; have := boolBit_le x_ta
  unfold Form.Xw.ofWord Form.Xw.word
  dsimp only
  rw [if_pos (by omega)]
  exact congrArg some ((Form.Xw.mk.injEq ..).mpr ⟨Fin.ext (by dsimp only; omega), Fin.ext (by dsimp only; omega), bit_eq (by omega)⟩)
theorem Form.Xw.word_lt (f : Form.Xw) : f.word < 1048576 := by
  obtain ⟨x_ch, x_a, x_ta⟩ := f
  have := x_ch.isLt; have := x_a.isLt; have := boolBit_le x_ta
  unfold Form.Xw.word; dsimp only; omega

theorem Form.N16.ofWord_word (f : Form.N16) : Form.N16.ofWord f.word = some f := by
  obtain ⟨x_imm⟩ := f
  have := x_imm.isLt
  unfold Form.N16.ofWord Form.N16.word
  dsimp only
  rw [if_pos (by omega)]
  exact congrArg some ((Form.N16.mk.injEq ..).mpr (vec_eq (by omega)))
theorem Form.N16.word_lt (f : Form.N16) : f.word < 1048576 := by
  obtain ⟨x_imm⟩ := f
  have := x_imm.isLt
  unfold Form.N16.word; dsimp only; omega

theorem Form.Srd.ofWord_word (f : Form.Srd) : Form.Srd.ofWord f.word = some f := by
  obtain ⟨x_d, x_reg⟩ := f
  have := x_d.isLt; have := x_reg.number_lt; have hl := x_reg.listed_number
  unfold Form.Srd.ofWord Form.Srd.word
  dsimp only
  rw [if_pos (by refine ⟨?_, by omega⟩; rw [show _ % 1024 = x_reg.number by omega]; exact hl)]
  exact congrArg some ((Form.Srd.mk.injEq ..).mpr ⟨Fin.ext (by dsimp only; omega), SysReg.ofNumber_eq (by omega)⟩)
theorem Form.Srd.word_lt (f : Form.Srd) : f.word < 1048576 := by
  obtain ⟨x_d, x_reg⟩ := f
  have := x_d.isLt; have := x_reg.number_lt; have hl := x_reg.listed_number
  unfold Form.Srd.word; dsimp only; omega

theorem Form.Swr.ofWord_word (f : Form.Swr) : Form.Swr.ofWord f.word = some f := by
  obtain ⟨x_a, x_ta, x_reg⟩ := f
  have := x_a.isLt; have := boolBit_le x_ta; have := x_reg.number_lt; have hl := x_reg.listed_number
  unfold Form.Swr.ofWord Form.Swr.word
  dsimp only
  rw [if_pos (by refine ⟨?_, by omega⟩; rw [show _ % 1024 = x_reg.number by omega]; exact hl)]
  exact congrArg some ((Form.Swr.mk.injEq ..).mpr ⟨Fin.ext (by dsimp only; omega), bit_eq (by omega), SysReg.ofNumber_eq (by omega)⟩)
theorem Form.Swr.word_lt (f : Form.Swr) : f.word < 1048576 := by
  obtain ⟨x_a, x_ta, x_reg⟩ := f
  have := x_a.isLt; have := boolBit_le x_ta; have := x_reg.number_lt; have hl := x_reg.listed_number
  unfold Form.Swr.word; dsimp only; omega

theorem Form.Cfgq.ofWord_word (f : Form.Cfgq) : Form.Cfgq.ofWord f.word = some f := by
  obtain ⟨x_d, x_item⟩ := f
  have := x_d.isLt; have := x_item.isLt
  unfold Form.Cfgq.ofWord Form.Cfgq.word
  dsimp only
  rw [if_pos (by omega)]
  exact congrArg some ((Form.Cfgq.mk.injEq ..).mpr ⟨Fin.ext (by dsimp only; omega), Fin.ext (by dsimp only; omega)⟩)
theorem Form.Cfgq.word_lt (f : Form.Cfgq) : f.word < 1048576 := by
  obtain ⟨x_d, x_item⟩ := f
  have := x_d.isLt; have := x_item.isLt
  unfold Form.Cfgq.word; dsimp only; omega

theorem Form.Rd.ofWord_word (f : Form.Rd) : Form.Rd.ofWord f.word = some f := by
  obtain ⟨x_d⟩ := f
  have := x_d.isLt
  unfold Form.Rd.ofWord Form.Rd.word
  dsimp only
  rw [if_pos (by omega)]
  exact congrArg some ((Form.Rd.mk.injEq ..).mpr (Fin.ext (by dsimp only; omega)))
theorem Form.Rd.word_lt (f : Form.Rd) : f.word < 1048576 := by
  obtain ⟨x_d⟩ := f
  have := x_d.isLt
  unfold Form.Rd.word; dsimp only; omega

theorem Form.Mc.ofWord_word (f : Form.Mc) : Form.Mc.ofWord f.word = some f := by
  obtain ⟨x_d, x_a, x_ta, x_b, x_tb⟩ := f
  have := x_d.isLt; have := x_a.isLt; have := boolBit_le x_ta; have := x_b.isLt; have := boolBit_le x_tb
  unfold Form.Mc.ofWord Form.Mc.word
  dsimp only
  rw [if_pos (by omega)]
  exact congrArg some ((Form.Mc.mk.injEq ..).mpr ⟨Fin.ext (by dsimp only; omega), Fin.ext (by dsimp only; omega), bit_eq (by omega), Fin.ext (by dsimp only; omega), bit_eq (by omega)⟩)
theorem Form.Mc.word_lt (f : Form.Mc) : f.word < 1048576 := by
  obtain ⟨x_d, x_a, x_ta, x_b, x_tb⟩ := f
  have := x_d.isLt; have := x_a.isLt; have := boolBit_le x_ta; have := x_b.isLt; have := boolBit_le x_tb
  unfold Form.Mc.word; dsimp only; omega

theorem Form.McY.ofWord_word (f : Form.McY) : Form.McY.ofWord f.word = some f := by
  obtain ⟨x_d, x_a, x_ta, x_b, x_tb, x_ty⟩ := f
  have := x_d.isLt; have := x_a.isLt; have := boolBit_le x_ta; have := x_b.isLt; have := boolBit_le x_tb; have := x_ty.code_lt
  unfold Form.McY.ofWord Form.McY.word
  dsimp only
  rw [if_pos (by omega)]
  exact congrArg some ((Form.McY.mk.injEq ..).mpr ⟨Fin.ext (by dsimp only; omega), Fin.ext (by dsimp only; omega), bit_eq (by omega), Fin.ext (by dsimp only; omega), bit_eq (by omega), Ty.ofCode_eq (by omega)⟩)
theorem Form.McY.word_lt (f : Form.McY) : f.word < 1048576 := by
  obtain ⟨x_d, x_a, x_ta, x_b, x_tb, x_ty⟩ := f
  have := x_d.isLt; have := x_a.isLt; have := boolBit_le x_ta; have := x_b.isLt; have := boolBit_le x_tb; have := x_ty.code_lt
  unfold Form.McY.word; dsimp only; omega

theorem Form.M3.ofWord_word (f : Form.M3) : Form.M3.ofWord f.word = some f := by
  obtain ⟨x_d, x_a, x_b⟩ := f
  have := x_d.isLt; have := x_a.isLt; have := x_b.isLt
  unfold Form.M3.ofWord Form.M3.word
  dsimp only
  rw [if_pos (by omega)]
  exact congrArg some ((Form.M3.mk.injEq ..).mpr ⟨Fin.ext (by dsimp only; omega), Fin.ext (by dsimp only; omega), Fin.ext (by dsimp only; omega)⟩)
theorem Form.M3.word_lt (f : Form.M3) : f.word < 1048576 := by
  obtain ⟨x_d, x_a, x_b⟩ := f
  have := x_d.isLt; have := x_a.isLt; have := x_b.isLt
  unfold Form.M3.word; dsimp only; omega

theorem Form.M2.ofWord_word (f : Form.M2) : Form.M2.ofWord f.word = some f := by
  obtain ⟨x_d, x_a⟩ := f
  have := x_d.isLt; have := x_a.isLt
  unfold Form.M2.ofWord Form.M2.word
  dsimp only
  rw [if_pos (by omega)]
  exact congrArg some ((Form.M2.mk.injEq ..).mpr ⟨Fin.ext (by dsimp only; omega), Fin.ext (by dsimp only; omega)⟩)
theorem Form.M2.word_lt (f : Form.M2) : f.word < 1048576 := by
  obtain ⟨x_d, x_a⟩ := f
  have := x_d.isLt; have := x_a.isLt
  unfold Form.M2.word; dsimp only; omega

theorem Form.Sm.ofWord_word (f : Form.Sm) : Form.Sm.ofWord f.word = some f := by
  obtain ⟨x_d, x_a⟩ := f
  have := x_d.isLt; have := x_a.isLt
  unfold Form.Sm.ofWord Form.Sm.word
  dsimp only
  rw [if_pos (by omega)]
  exact congrArg some ((Form.Sm.mk.injEq ..).mpr ⟨Fin.ext (by dsimp only; omega), Fin.ext (by dsimp only; omega)⟩)
theorem Form.Sm.word_lt (f : Form.Sm) : f.word < 1048576 := by
  obtain ⟨x_d, x_a⟩ := f
  have := x_d.isLt; have := x_a.isLt
  unfold Form.Sm.word; dsimp only; omega

theorem Form.Mv.ofWord_word (f : Form.Mv) : Form.Mv.ofWord f.word = some f := by
  obtain ⟨x_d, x_a, x_ta⟩ := f
  have := x_d.isLt; have := x_a.isLt; have := boolBit_le x_ta
  unfold Form.Mv.ofWord Form.Mv.word
  dsimp only
  rw [if_pos (by omega)]
  exact congrArg some ((Form.Mv.mk.injEq ..).mpr ⟨Fin.ext (by dsimp only; omega), Fin.ext (by dsimp only; omega), bit_eq (by omega)⟩)
theorem Form.Mv.word_lt (f : Form.Mv) : f.word < 1048576 := by
  obtain ⟨x_d, x_a, x_ta⟩ := f
  have := x_d.isLt; have := x_a.isLt; have := boolBit_le x_ta
  unfold Form.Mv.word; dsimp only; omega

theorem Form.Vcv.ofWord_word (f : Form.Vcv) : Form.Vcv.ofWord f.word f.ext = some f := by
  obtain ⟨x_d, x_a, x_ta, x_v, x_tv, x_rms, x_msk, x_sfmt, x_dfmt⟩ := f
  have := x_d.isLt; have := x_a.isLt; have := boolBit_le x_ta; have := x_v.isLt; have := boolBit_le x_tv; have := x_rms.code_lt; have := x_msk.isLt; have := x_sfmt.code_lt; have := x_dfmt.code_lt
  unfold Form.Vcv.ofWord Form.Vcv.word Form.Vcv.ext
  dsimp only
  rw [if_pos (by omega)]
  exact congrArg some ((Form.Vcv.mk.injEq ..).mpr ⟨Fin.ext (by dsimp only; omega), Fin.ext (by dsimp only; omega), bit_eq (by omega), Fin.ext (by dsimp only; omega), bit_eq (by omega), Rms.ofCode_eq (by omega), Fin.ext (by dsimp only; omega), Fmt.ofCode_eq (by omega), Fmt.ofCode_eq (by omega)⟩)
theorem Form.Vcv.word_lt (f : Form.Vcv) : f.word < 1048576 ∧ f.ext < 4294967296 := by
  obtain ⟨x_d, x_a, x_ta, x_v, x_tv, x_rms, x_msk, x_sfmt, x_dfmt⟩ := f
  have := x_d.isLt; have := x_a.isLt; have := boolBit_le x_ta; have := x_v.isLt; have := boolBit_le x_tv; have := x_rms.code_lt; have := x_msk.isLt; have := x_sfmt.code_lt; have := x_dfmt.code_lt
  unfold Form.Vcv.word Form.Vcv.ext; dsimp only; omega

theorem Form.Vpk.ofWord_word (f : Form.Vpk) : Form.Vpk.ofWord f.word f.ext = some f := by
  obtain ⟨x_d, x_a, x_ta, x_v, x_tv, x_rms, x_sfmt, x_dfmt⟩ := f
  have := x_d.isLt; have := x_a.isLt; have := boolBit_le x_ta; have := x_v.isLt; have := boolBit_le x_tv; have := x_rms.code_lt; have := x_sfmt.code_lt; have := x_dfmt.code_lt
  unfold Form.Vpk.ofWord Form.Vpk.word Form.Vpk.ext
  dsimp only
  rw [if_pos (by omega)]
  exact congrArg some ((Form.Vpk.mk.injEq ..).mpr ⟨Fin.ext (by dsimp only; omega), Fin.ext (by dsimp only; omega), bit_eq (by omega), Fin.ext (by dsimp only; omega), bit_eq (by omega), Rms.ofCode_eq (by omega), Fmt.ofCode_eq (by omega), Fmt.ofCode_eq (by omega)⟩)
theorem Form.Vpk.word_lt (f : Form.Vpk) : f.word < 1048576 ∧ f.ext < 4294967296 := by
  obtain ⟨x_d, x_a, x_ta, x_v, x_tv, x_rms, x_sfmt, x_dfmt⟩ := f
  have := x_d.isLt; have := x_a.isLt; have := boolBit_le x_ta; have := x_v.isLt; have := boolBit_le x_tv; have := x_rms.code_lt; have := x_sfmt.code_lt; have := x_dfmt.code_lt
  unfold Form.Vpk.word Form.Vpk.ext; dsimp only; omega

theorem Form.Ld.ofWord_word (f : Form.Ld) : Form.Ld.ofWord f.word = some f := by
  obtain ⟨x_d, x_a, x_ta, x_ty, x_off⟩ := f
  have := x_d.isLt; have := x_a.isLt; have := boolBit_le x_ta; have := x_ty.code_lt; have := x_off.isLt
  unfold Form.Ld.ofWord Form.Ld.word
  dsimp only
  rw [if_pos (by omega)]
  exact congrArg some ((Form.Ld.mk.injEq ..).mpr ⟨Fin.ext (by dsimp only; omega), Fin.ext (by dsimp only; omega), bit_eq (by omega), Ty.ofCode_eq (by omega), vec_eq (by omega)⟩)
theorem Form.Ld.word_lt (f : Form.Ld) : f.word < 1048576 := by
  obtain ⟨x_d, x_a, x_ta, x_ty, x_off⟩ := f
  have := x_d.isLt; have := x_a.isLt; have := boolBit_le x_ta; have := x_ty.code_lt; have := x_off.isLt
  unfold Form.Ld.word; dsimp only; omega

theorem Form.LdX.ofWord_word (f : Form.LdX) : Form.LdX.ofWord f.word f.ext = some f := by
  obtain ⟨x_d, x_a, x_ta, x_ty, x_off⟩ := f
  have := x_d.isLt; have := x_a.isLt; have := boolBit_le x_ta; have := x_ty.code_lt; have := x_off.isLt
  unfold Form.LdX.ofWord Form.LdX.word Form.LdX.ext
  dsimp only
  rw [if_pos (by omega)]
  exact congrArg some ((Form.LdX.mk.injEq ..).mpr ⟨Fin.ext (by dsimp only; omega), Fin.ext (by dsimp only; omega), bit_eq (by omega), Ty.ofCode_eq (by omega), vec_eq (by omega)⟩)
theorem Form.LdX.word_lt (f : Form.LdX) : f.word < 1048576 ∧ f.ext < 4294967296 := by
  obtain ⟨x_d, x_a, x_ta, x_ty, x_off⟩ := f
  have := x_d.isLt; have := x_a.isLt; have := boolBit_le x_ta; have := x_ty.code_lt; have := x_off.isLt
  unfold Form.LdX.word Form.LdX.ext; dsimp only; omega

theorem Form.St.ofWord_word (f : Form.St) : Form.St.ofWord f.word = some f := by
  obtain ⟨x_d, x_a, x_ta, x_td, x_ty, x_off⟩ := f
  have := x_d.isLt; have := x_a.isLt; have := boolBit_le x_ta; have := boolBit_le x_td; have := x_ty.code_lt; have := x_off.isLt
  unfold Form.St.ofWord Form.St.word
  dsimp only
  exact congrArg some ((Form.St.mk.injEq ..).mpr ⟨Fin.ext (by dsimp only; omega), Fin.ext (by dsimp only; omega), bit_eq (by omega), bit_eq (by omega), Ty.ofCode_eq (by omega), vec_eq (by omega)⟩)
theorem Form.St.word_lt (f : Form.St) : f.word < 1048576 := by
  obtain ⟨x_d, x_a, x_ta, x_td, x_ty, x_off⟩ := f
  have := x_d.isLt; have := x_a.isLt; have := boolBit_le x_ta; have := boolBit_le x_td; have := x_ty.code_lt; have := x_off.isLt
  unfold Form.St.word; dsimp only; omega

theorem Form.StX.ofWord_word (f : Form.StX) : Form.StX.ofWord f.word f.ext = some f := by
  obtain ⟨x_d, x_a, x_ta, x_td, x_ty, x_off⟩ := f
  have := x_d.isLt; have := x_a.isLt; have := boolBit_le x_ta; have := boolBit_le x_td; have := x_ty.code_lt; have := x_off.isLt
  unfold Form.StX.ofWord Form.StX.word Form.StX.ext
  dsimp only
  rw [if_pos (by omega)]
  exact congrArg some ((Form.StX.mk.injEq ..).mpr ⟨Fin.ext (by dsimp only; omega), Fin.ext (by dsimp only; omega), bit_eq (by omega), bit_eq (by omega), Ty.ofCode_eq (by omega), vec_eq (by omega)⟩)
theorem Form.StX.word_lt (f : Form.StX) : f.word < 1048576 ∧ f.ext < 4294967296 := by
  obtain ⟨x_d, x_a, x_ta, x_td, x_ty, x_off⟩ := f
  have := x_d.isLt; have := x_a.isLt; have := boolBit_le x_ta; have := boolBit_le x_td; have := x_ty.code_lt; have := x_off.isLt
  unfold Form.StX.word Form.StX.ext; dsimp only; omega

theorem Form.Vld.ofWord_word (f : Form.Vld) : Form.Vld.ofWord f.word = some f := by
  obtain ⟨x_d, x_a, x_ta, x_off⟩ := f
  have := x_d.isLt; have := x_a.isLt; have := boolBit_le x_ta; have := x_off.isLt
  unfold Form.Vld.ofWord Form.Vld.word
  dsimp only
  rw [if_pos (by omega)]
  exact congrArg some ((Form.Vld.mk.injEq ..).mpr ⟨Fin.ext (by dsimp only; omega), Fin.ext (by dsimp only; omega), bit_eq (by omega), vec_eq (by omega)⟩)
theorem Form.Vld.word_lt (f : Form.Vld) : f.word < 1048576 := by
  obtain ⟨x_d, x_a, x_ta, x_off⟩ := f
  have := x_d.isLt; have := x_a.isLt; have := boolBit_le x_ta; have := x_off.isLt
  unfold Form.Vld.word; dsimp only; omega

theorem Form.VldX.ofWord_word (f : Form.VldX) : Form.VldX.ofWord f.word f.ext = some f := by
  obtain ⟨x_d, x_a, x_ta, x_off⟩ := f
  have := x_d.isLt; have := x_a.isLt; have := boolBit_le x_ta; have := x_off.isLt
  unfold Form.VldX.ofWord Form.VldX.word Form.VldX.ext
  dsimp only
  rw [if_pos (by omega)]
  exact congrArg some ((Form.VldX.mk.injEq ..).mpr ⟨Fin.ext (by dsimp only; omega), Fin.ext (by dsimp only; omega), bit_eq (by omega), vec_eq (by omega)⟩)
theorem Form.VldX.word_lt (f : Form.VldX) : f.word < 1048576 ∧ f.ext < 4294967296 := by
  obtain ⟨x_d, x_a, x_ta, x_off⟩ := f
  have := x_d.isLt; have := x_a.isLt; have := boolBit_le x_ta; have := x_off.isLt
  unfold Form.VldX.word Form.VldX.ext; dsimp only; omega

theorem Form.Vst.ofWord_word (f : Form.Vst) : Form.Vst.ofWord f.word = some f := by
  obtain ⟨x_d, x_a, x_ta, x_td, x_off⟩ := f
  have := x_d.isLt; have := x_a.isLt; have := boolBit_le x_ta; have := boolBit_le x_td; have := x_off.isLt
  unfold Form.Vst.ofWord Form.Vst.word
  dsimp only
  rw [if_pos (by omega)]
  exact congrArg some ((Form.Vst.mk.injEq ..).mpr ⟨Fin.ext (by dsimp only; omega), Fin.ext (by dsimp only; omega), bit_eq (by omega), bit_eq (by omega), vec_eq (by omega)⟩)
theorem Form.Vst.word_lt (f : Form.Vst) : f.word < 1048576 := by
  obtain ⟨x_d, x_a, x_ta, x_td, x_off⟩ := f
  have := x_d.isLt; have := x_a.isLt; have := boolBit_le x_ta; have := boolBit_le x_td; have := x_off.isLt
  unfold Form.Vst.word; dsimp only; omega

theorem Form.VstX.ofWord_word (f : Form.VstX) : Form.VstX.ofWord f.word f.ext = some f := by
  obtain ⟨x_d, x_a, x_ta, x_td, x_off⟩ := f
  have := x_d.isLt; have := x_a.isLt; have := boolBit_le x_ta; have := boolBit_le x_td; have := x_off.isLt
  unfold Form.VstX.ofWord Form.VstX.word Form.VstX.ext
  dsimp only
  rw [if_pos (by omega)]
  exact congrArg some ((Form.VstX.mk.injEq ..).mpr ⟨Fin.ext (by dsimp only; omega), Fin.ext (by dsimp only; omega), bit_eq (by omega), bit_eq (by omega), vec_eq (by omega)⟩)
theorem Form.VstX.word_lt (f : Form.VstX) : f.word < 1048576 ∧ f.ext < 4294967296 := by
  obtain ⟨x_d, x_a, x_ta, x_td, x_off⟩ := f
  have := x_d.isLt; have := x_a.isLt; have := boolBit_le x_ta; have := boolBit_le x_td; have := x_off.isLt
  unfold Form.VstX.word Form.VstX.ext; dsimp only; omega

theorem Form.Vldm.ofWord_word (f : Form.Vldm) : Form.Vldm.ofWord f.word = some f := by
  obtain ⟨x_d, x_a, x_ta, x_msk, x_off⟩ := f
  have := x_d.isLt; have := x_a.isLt; have := boolBit_le x_ta; have := x_msk.isLt; have := x_off.isLt
  unfold Form.Vldm.ofWord Form.Vldm.word
  dsimp only
  rw [if_pos (by omega)]
  exact congrArg some ((Form.Vldm.mk.injEq ..).mpr ⟨Fin.ext (by dsimp only; omega), Fin.ext (by dsimp only; omega), bit_eq (by omega), Fin.ext (by dsimp only; omega), vec_eq (by omega)⟩)
theorem Form.Vldm.word_lt (f : Form.Vldm) : f.word < 1048576 := by
  obtain ⟨x_d, x_a, x_ta, x_msk, x_off⟩ := f
  have := x_d.isLt; have := x_a.isLt; have := boolBit_le x_ta; have := x_msk.isLt; have := x_off.isLt
  unfold Form.Vldm.word; dsimp only; omega

theorem Form.VldmX.ofWord_word (f : Form.VldmX) : Form.VldmX.ofWord f.word f.ext = some f := by
  obtain ⟨x_d, x_a, x_ta, x_msk, x_off⟩ := f
  have := x_d.isLt; have := x_a.isLt; have := boolBit_le x_ta; have := x_msk.isLt; have := x_off.isLt
  unfold Form.VldmX.ofWord Form.VldmX.word Form.VldmX.ext
  dsimp only
  rw [if_pos (by omega)]
  exact congrArg some ((Form.VldmX.mk.injEq ..).mpr ⟨Fin.ext (by dsimp only; omega), Fin.ext (by dsimp only; omega), bit_eq (by omega), Fin.ext (by dsimp only; omega), vec_eq (by omega)⟩)
theorem Form.VldmX.word_lt (f : Form.VldmX) : f.word < 1048576 ∧ f.ext < 4294967296 := by
  obtain ⟨x_d, x_a, x_ta, x_msk, x_off⟩ := f
  have := x_d.isLt; have := x_a.isLt; have := boolBit_le x_ta; have := x_msk.isLt; have := x_off.isLt
  unfold Form.VldmX.word Form.VldmX.ext; dsimp only; omega

theorem Form.Vstm.ofWord_word (f : Form.Vstm) : Form.Vstm.ofWord f.word = some f := by
  obtain ⟨x_d, x_a, x_ta, x_td, x_msk, x_off⟩ := f
  have := x_d.isLt; have := x_a.isLt; have := boolBit_le x_ta; have := boolBit_le x_td; have := x_msk.isLt; have := x_off.isLt
  unfold Form.Vstm.ofWord Form.Vstm.word
  dsimp only
  exact congrArg some ((Form.Vstm.mk.injEq ..).mpr ⟨Fin.ext (by dsimp only; omega), Fin.ext (by dsimp only; omega), bit_eq (by omega), bit_eq (by omega), Fin.ext (by dsimp only; omega), vec_eq (by omega)⟩)
theorem Form.Vstm.word_lt (f : Form.Vstm) : f.word < 1048576 := by
  obtain ⟨x_d, x_a, x_ta, x_td, x_msk, x_off⟩ := f
  have := x_d.isLt; have := x_a.isLt; have := boolBit_le x_ta; have := boolBit_le x_td; have := x_msk.isLt; have := x_off.isLt
  unfold Form.Vstm.word; dsimp only; omega

theorem Form.VstmX.ofWord_word (f : Form.VstmX) : Form.VstmX.ofWord f.word f.ext = some f := by
  obtain ⟨x_d, x_a, x_ta, x_td, x_msk, x_off⟩ := f
  have := x_d.isLt; have := x_a.isLt; have := boolBit_le x_ta; have := boolBit_le x_td; have := x_msk.isLt; have := x_off.isLt
  unfold Form.VstmX.ofWord Form.VstmX.word Form.VstmX.ext
  dsimp only
  rw [if_pos (by omega)]
  exact congrArg some ((Form.VstmX.mk.injEq ..).mpr ⟨Fin.ext (by dsimp only; omega), Fin.ext (by dsimp only; omega), bit_eq (by omega), bit_eq (by omega), Fin.ext (by dsimp only; omega), vec_eq (by omega)⟩)
theorem Form.VstmX.word_lt (f : Form.VstmX) : f.word < 1048576 ∧ f.ext < 4294967296 := by
  obtain ⟨x_d, x_a, x_ta, x_td, x_msk, x_off⟩ := f
  have := x_d.isLt; have := x_a.isLt; have := boolBit_le x_ta; have := boolBit_le x_td; have := x_msk.isLt; have := x_off.isLt
  unfold Form.VstmX.word Form.VstmX.ext; dsimp only; omega

theorem Form.Gld.ofWord_word (f : Form.Gld) : Form.Gld.ofWord f.word = some f := by
  obtain ⟨x_d, x_h, x_th, x_a, x_ta, x_ty⟩ := f
  have := x_d.isLt; have := x_h.isLt; have := boolBit_le x_th; have := x_a.isLt; have := boolBit_le x_ta; have := x_ty.code_lt
  unfold Form.Gld.ofWord Form.Gld.word
  dsimp only
  rw [if_pos (by omega)]
  exact congrArg some ((Form.Gld.mk.injEq ..).mpr ⟨Fin.ext (by dsimp only; omega), Fin.ext (by dsimp only; omega), bit_eq (by omega), Fin.ext (by dsimp only; omega), bit_eq (by omega), Ty.ofCode_eq (by omega)⟩)
theorem Form.Gld.word_lt (f : Form.Gld) : f.word < 1048576 := by
  obtain ⟨x_d, x_h, x_th, x_a, x_ta, x_ty⟩ := f
  have := x_d.isLt; have := x_h.isLt; have := boolBit_le x_th; have := x_a.isLt; have := boolBit_le x_ta; have := x_ty.code_lt
  unfold Form.Gld.word; dsimp only; omega

theorem Form.Gst.ofWord_word (f : Form.Gst) : Form.Gst.ofWord f.word = some f := by
  obtain ⟨x_d, x_h, x_th, x_a, x_ta, x_ty, x_td⟩ := f
  have := x_d.isLt; have := x_h.isLt; have := boolBit_le x_th; have := x_a.isLt; have := boolBit_le x_ta; have := x_ty.code_lt; have := boolBit_le x_td
  unfold Form.Gst.ofWord Form.Gst.word
  dsimp only
  exact congrArg some ((Form.Gst.mk.injEq ..).mpr ⟨Fin.ext (by dsimp only; omega), Fin.ext (by dsimp only; omega), bit_eq (by omega), Fin.ext (by dsimp only; omega), bit_eq (by omega), Ty.ofCode_eq (by omega), bit_eq (by omega)⟩)
theorem Form.Gst.word_lt (f : Form.Gst) : f.word < 1048576 := by
  obtain ⟨x_d, x_h, x_th, x_a, x_ta, x_ty, x_td⟩ := f
  have := x_d.isLt; have := x_h.isLt; have := boolBit_le x_th; have := x_a.isLt; have := boolBit_le x_ta; have := x_ty.code_lt; have := boolBit_le x_td
  unfold Form.Gst.word; dsimp only; omega

theorem Form.Amo.ofWord_word (f : Form.Amo) : Form.Amo.ofWord f.word f.ext = some f := by
  obtain ⟨x_d, x_h, x_th, x_a, x_ta, x_ty, x_b, x_tb⟩ := f
  have := x_d.isLt; have := x_h.isLt; have := boolBit_le x_th; have := x_a.isLt; have := boolBit_le x_ta; have := x_ty.code_lt; have := x_b.isLt; have := boolBit_le x_tb
  unfold Form.Amo.ofWord Form.Amo.word Form.Amo.ext
  dsimp only
  rw [if_pos (by omega)]
  exact congrArg some ((Form.Amo.mk.injEq ..).mpr ⟨Fin.ext (by dsimp only; omega), Fin.ext (by dsimp only; omega), bit_eq (by omega), Fin.ext (by dsimp only; omega), bit_eq (by omega), Ty.ofCode_eq (by omega), Fin.ext (by dsimp only; omega), bit_eq (by omega)⟩)
theorem Form.Amo.word_lt (f : Form.Amo) : f.word < 1048576 ∧ f.ext < 4294967296 := by
  obtain ⟨x_d, x_h, x_th, x_a, x_ta, x_ty, x_b, x_tb⟩ := f
  have := x_d.isLt; have := x_h.isLt; have := boolBit_le x_th; have := x_a.isLt; have := boolBit_le x_ta; have := x_ty.code_lt; have := x_b.isLt; have := boolBit_le x_tb
  unfold Form.Amo.word Form.Amo.ext; dsimp only; omega

theorem Form.AmoF.ofWord_word (f : Form.AmoF) : Form.AmoF.ofWord f.word f.ext = some f := by
  obtain ⟨x_d, x_h, x_th, x_a, x_ta, x_b, x_tb⟩ := f
  have := x_d.isLt; have := x_h.isLt; have := boolBit_le x_th; have := x_a.isLt; have := boolBit_le x_ta; have := x_b.isLt; have := boolBit_le x_tb
  unfold Form.AmoF.ofWord Form.AmoF.word Form.AmoF.ext
  dsimp only
  rw [if_pos (by omega)]
  exact congrArg some ((Form.AmoF.mk.injEq ..).mpr ⟨Fin.ext (by dsimp only; omega), Fin.ext (by dsimp only; omega), bit_eq (by omega), Fin.ext (by dsimp only; omega), bit_eq (by omega), Fin.ext (by dsimp only; omega), bit_eq (by omega)⟩)
theorem Form.AmoF.word_lt (f : Form.AmoF) : f.word < 1048576 ∧ f.ext < 4294967296 := by
  obtain ⟨x_d, x_h, x_th, x_a, x_ta, x_b, x_tb⟩ := f
  have := x_d.isLt; have := x_h.isLt; have := boolBit_le x_th; have := x_a.isLt; have := boolBit_le x_ta; have := x_b.isLt; have := boolBit_le x_tb
  unfold Form.AmoF.word Form.AmoF.ext; dsimp only; omega

theorem Form.AmoC.ofWord_word (f : Form.AmoC) : Form.AmoC.ofWord f.word f.ext = some f := by
  obtain ⟨x_d, x_h, x_th, x_a, x_ta, x_ty, x_b, x_tb, x_c, x_tc⟩ := f
  have := x_d.isLt; have := x_h.isLt; have := boolBit_le x_th; have := x_a.isLt; have := boolBit_le x_ta; have := x_ty.code_lt; have := x_b.isLt; have := boolBit_le x_tb; have := x_c.isLt; have := boolBit_le x_tc
  unfold Form.AmoC.ofWord Form.AmoC.word Form.AmoC.ext
  dsimp only
  rw [if_pos (by omega)]
  exact congrArg some ((Form.AmoC.mk.injEq ..).mpr ⟨Fin.ext (by dsimp only; omega), Fin.ext (by dsimp only; omega), bit_eq (by omega), Fin.ext (by dsimp only; omega), bit_eq (by omega), Ty.ofCode_eq (by omega), Fin.ext (by dsimp only; omega), bit_eq (by omega), Fin.ext (by dsimp only; omega), bit_eq (by omega)⟩)
theorem Form.AmoC.word_lt (f : Form.AmoC) : f.word < 1048576 ∧ f.ext < 4294967296 := by
  obtain ⟨x_d, x_h, x_th, x_a, x_ta, x_ty, x_b, x_tb, x_c, x_tc⟩ := f
  have := x_d.isLt; have := x_h.isLt; have := boolBit_le x_th; have := x_a.isLt; have := boolBit_le x_ta; have := x_ty.code_lt; have := x_b.isLt; have := boolBit_le x_tb; have := x_c.isLt; have := boolBit_le x_tc
  unfold Form.AmoC.word Form.AmoC.ext; dsimp only; omega

theorem Form.Hx.ofWord_word (f : Form.Hx) : Form.Hx.ofWord f.word = some f := by
  obtain ⟨x_h, x_a, x_ta⟩ := f
  have := x_h.isLt; have := x_a.isLt; have := boolBit_le x_ta
  unfold Form.Hx.ofWord Form.Hx.word
  dsimp only
  rw [if_pos (by omega)]
  exact congrArg some ((Form.Hx.mk.injEq ..).mpr ⟨Fin.ext (by dsimp only; omega), Fin.ext (by dsimp only; omega), bit_eq (by omega)⟩)
theorem Form.Hx.word_lt (f : Form.Hx) : f.word < 1048576 := by
  obtain ⟨x_h, x_a, x_ta⟩ := f
  have := x_h.isLt; have := x_a.isLt; have := boolBit_le x_ta
  unfold Form.Hx.word; dsimp only; omega

theorem Form.H1.ofWord_word (f : Form.H1) : Form.H1.ofWord f.word = some f := by
  obtain ⟨x_h⟩ := f
  have := x_h.isLt
  unfold Form.H1.ofWord Form.H1.word
  dsimp only
  rw [if_pos (by omega)]
  exact congrArg some ((Form.H1.mk.injEq ..).mpr (Fin.ext (by dsimp only; omega)))
theorem Form.H1.word_lt (f : Form.H1) : f.word < 1048576 := by
  obtain ⟨x_h⟩ := f
  have := x_h.isLt
  unfold Form.H1.word; dsimp only; omega

theorem Form.Tl.ofWord_word (f : Form.Tl) : Form.Tl.ofWord f.word = some f := by
  obtain ⟨x_q, x_h, x_th, x_a, x_ta⟩ := f
  have := x_q.isLt; have := x_h.isLt; have := boolBit_le x_th; have := x_a.isLt; have := boolBit_le x_ta
  unfold Form.Tl.ofWord Form.Tl.word
  dsimp only
  rw [if_pos (by omega)]
  exact congrArg some ((Form.Tl.mk.injEq ..).mpr ⟨Fin.ext (by dsimp only; omega), Fin.ext (by dsimp only; omega), bit_eq (by omega), Fin.ext (by dsimp only; omega), bit_eq (by omega)⟩)
theorem Form.Tl.word_lt (f : Form.Tl) : f.word < 1048576 := by
  obtain ⟨x_q, x_h, x_th, x_a, x_ta⟩ := f
  have := x_q.isLt; have := x_h.isLt; have := boolBit_le x_th; have := x_a.isLt; have := boolBit_le x_ta
  unfold Form.Tl.word; dsimp only; omega

theorem Form.TlT.ofWord_word (f : Form.TlT) : Form.TlT.ofWord f.word f.ext = some f := by
  obtain ⟨x_q, x_h, x_th, x_a, x_ta, x_e, x_te⟩ := f
  have := x_q.isLt; have := x_h.isLt; have := boolBit_le x_th; have := x_a.isLt; have := boolBit_le x_ta; have := x_e.isLt; have := boolBit_le x_te
  unfold Form.TlT.ofWord Form.TlT.word Form.TlT.ext
  dsimp only
  rw [if_pos (by omega)]
  exact congrArg some ((Form.TlT.mk.injEq ..).mpr ⟨Fin.ext (by dsimp only; omega), Fin.ext (by dsimp only; omega), bit_eq (by omega), Fin.ext (by dsimp only; omega), bit_eq (by omega), Fin.ext (by dsimp only; omega), bit_eq (by omega)⟩)
theorem Form.TlT.word_lt (f : Form.TlT) : f.word < 1048576 ∧ f.ext < 4294967296 := by
  obtain ⟨x_q, x_h, x_th, x_a, x_ta, x_e, x_te⟩ := f
  have := x_q.isLt; have := x_h.isLt; have := boolBit_le x_th; have := x_a.isLt; have := boolBit_le x_ta; have := x_e.isLt; have := boolBit_le x_te
  unfold Form.TlT.word Form.TlT.ext; dsimp only; omega

theorem Form.Bm.ofWord_word (f : Form.Bm) : Form.Bm.ofWord f.word = some f := by
  obtain ⟨x_bank, x_mode⟩ := f
  have := x_bank.isLt; have := x_mode.isLt
  unfold Form.Bm.ofWord Form.Bm.word
  dsimp only
  rw [if_pos (by omega)]
  exact congrArg some ((Form.Bm.mk.injEq ..).mpr ⟨Fin.ext (by dsimp only; omega), Fin.ext (by dsimp only; omega)⟩)
theorem Form.Bm.word_lt (f : Form.Bm) : f.word < 1048576 := by
  obtain ⟨x_bank, x_mode⟩ := f
  have := x_bank.isLt; have := x_mode.isLt
  unfold Form.Bm.word; dsimp only; omega

theorem Form.Qset.ofWord_word (f : Form.Qset) : Form.Qset.ofWord f.word f.ext = some f := by
  obtain ⟨x_q, x_a, x_ta, x_b, x_tb⟩ := f
  have := x_q.isLt; have := x_a.isLt; have := boolBit_le x_ta; have := x_b.isLt; have := boolBit_le x_tb
  unfold Form.Qset.ofWord Form.Qset.word Form.Qset.ext
  dsimp only
  rw [if_pos (by omega)]
  exact congrArg some ((Form.Qset.mk.injEq ..).mpr ⟨Fin.ext (by dsimp only; omega), Fin.ext (by dsimp only; omega), bit_eq (by omega), Fin.ext (by dsimp only; omega), bit_eq (by omega)⟩)
theorem Form.Qset.word_lt (f : Form.Qset) : f.word < 1048576 ∧ f.ext < 4294967296 := by
  obtain ⟨x_q, x_a, x_ta, x_b, x_tb⟩ := f
  have := x_q.isLt; have := x_a.isLt; have := boolBit_le x_ta; have := x_b.isLt; have := boolBit_le x_tb
  unfold Form.Qset.word Form.Qset.ext; dsimp only; omega

theorem Form.Qget.ofWord_word (f : Form.Qget) : Form.Qget.ofWord f.word f.ext = some f := by
  obtain ⟨x_q, x_hi, x_d⟩ := f
  have := x_q.isLt; have := boolBit_le x_hi; have := x_d.isLt
  unfold Form.Qget.ofWord Form.Qget.word Form.Qget.ext
  dsimp only
  rw [if_pos (by omega)]
  exact congrArg some ((Form.Qget.mk.injEq ..).mpr ⟨Fin.ext (by dsimp only; omega), bit_eq (by omega), Fin.ext (by dsimp only; omega)⟩)
theorem Form.Qget.word_lt (f : Form.Qget) : f.word < 1048576 ∧ f.ext < 4294967296 := by
  obtain ⟨x_q, x_hi, x_d⟩ := f
  have := x_q.isLt; have := boolBit_le x_hi; have := x_d.isLt
  unfold Form.Qget.word Form.Qget.ext; dsimp only; omega

theorem Form.Mma.ofWord_word (f : Form.Mma) : Form.Mma.ofWord f.word f.ext = some f := by
  obtain ⟨x_f, x_l, x_qa, x_ovw, x_qb⟩ := f
  have := x_f.isLt; have := x_l.isLt; have := x_qa.isLt; have := boolBit_le x_ovw; have := x_qb.isLt
  unfold Form.Mma.ofWord Form.Mma.word Form.Mma.ext
  dsimp only
  rw [if_pos (by omega)]
  exact congrArg some ((Form.Mma.mk.injEq ..).mpr ⟨Fin.ext (by dsimp only; omega), Fin.ext (by dsimp only; omega), Fin.ext (by dsimp only; omega), bit_eq (by omega), Fin.ext (by dsimp only; omega)⟩)
theorem Form.Mma.word_lt (f : Form.Mma) : f.word < 1048576 ∧ f.ext < 4294967296 := by
  obtain ⟨x_f, x_l, x_qa, x_ovw, x_qb⟩ := f
  have := x_f.isLt; have := x_l.isLt; have := x_qa.isLt; have := boolBit_le x_ovw; have := x_qb.isLt
  unfold Form.Mma.word Form.Mma.ext; dsimp only; omega

theorem Form.Mmag.ofWord_word (f : Form.Mmag) : Form.Mmag.ofWord f.word f.ext = some f := by
  obtain ⟨x_f, x_l, x_qa, x_ovw, x_qb, x_i, x_ti⟩ := f
  have := x_f.isLt; have := x_l.isLt; have := x_qa.isLt; have := boolBit_le x_ovw; have := x_qb.isLt; have := x_i.isLt; have := boolBit_le x_ti
  unfold Form.Mmag.ofWord Form.Mmag.word Form.Mmag.ext
  dsimp only
  rw [if_pos (by omega)]
  exact congrArg some ((Form.Mmag.mk.injEq ..).mpr ⟨Fin.ext (by dsimp only; omega), Fin.ext (by dsimp only; omega), Fin.ext (by dsimp only; omega), bit_eq (by omega), Fin.ext (by dsimp only; omega), Fin.ext (by dsimp only; omega), bit_eq (by omega)⟩)
theorem Form.Mmag.word_lt (f : Form.Mmag) : f.word < 1048576 ∧ f.ext < 4294967296 := by
  obtain ⟨x_f, x_l, x_qa, x_ovw, x_qb, x_i, x_ti⟩ := f
  have := x_f.isLt; have := x_l.isLt; have := x_qa.isLt; have := boolBit_le x_ovw; have := x_qb.isLt; have := x_i.isLt; have := boolBit_le x_ti
  unfold Form.Mmag.word Form.Mmag.ext; dsimp only; omega

theorem Form.Fl.ofWord_word (f : Form.Fl) : Form.Fl.ofWord f.word = some f := by
  obtain ⟨x_f, x_l⟩ := f
  have := x_f.isLt; have := x_l.isLt
  unfold Form.Fl.ofWord Form.Fl.word
  dsimp only
  rw [if_pos (by omega)]
  exact congrArg some ((Form.Fl.mk.injEq ..).mpr ⟨Fin.ext (by dsimp only; omega), Fin.ext (by dsimp only; omega)⟩)
theorem Form.Fl.word_lt (f : Form.Fl) : f.word < 1048576 := by
  obtain ⟨x_f, x_l⟩ := f
  have := x_f.isLt; have := x_l.isLt
  unfold Form.Fl.word; dsimp only; omega

theorem Form.Aown.ofWord_word (f : Form.Aown) : Form.Aown.ofWord f.word = some f := by
  obtain ⟨x_f, x_l, x_g⟩ := f
  have := x_f.isLt; have := x_l.isLt; have := x_g.isLt
  unfold Form.Aown.ofWord Form.Aown.word
  dsimp only
  rw [if_pos (by omega)]
  exact congrArg some ((Form.Aown.mk.injEq ..).mpr ⟨Fin.ext (by dsimp only; omega), Fin.ext (by dsimp only; omega), Fin.ext (by dsimp only; omega)⟩)
theorem Form.Aown.word_lt (f : Form.Aown) : f.word < 1048576 := by
  obtain ⟨x_f, x_l, x_g⟩ := f
  have := x_f.isLt; have := x_l.isLt; have := x_g.isLt
  unfold Form.Aown.word; dsimp only; omega

theorem Form.AownRel.ofWord_word (f : Form.AownRel) : Form.AownRel.ofWord f.word = some f := by
  obtain ⟨x_g⟩ := f
  have := x_g.isLt
  unfold Form.AownRel.ofWord Form.AownRel.word
  dsimp only
  rw [if_pos (by omega)]
  exact congrArg some ((Form.AownRel.mk.injEq ..).mpr (Fin.ext (by dsimp only; omega)))
theorem Form.AownRel.word_lt (f : Form.AownRel) : f.word < 1048576 := by
  obtain ⟨x_g⟩ := f
  have := x_g.isLt
  unfold Form.AownRel.word; dsimp only; omega

theorem Form.Adrain.ofWord_word (f : Form.Adrain) : Form.Adrain.ofWord f.word = some f := by
  obtain ⟨x_f, x_l, x_q, x_clr, x_g⟩ := f
  have := x_f.isLt; have := x_l.isLt; have := x_q.isLt; have := boolBit_le x_clr; have := x_g.isLt
  unfold Form.Adrain.ofWord Form.Adrain.word
  dsimp only
  rw [if_pos (by omega)]
  exact congrArg some ((Form.Adrain.mk.injEq ..).mpr ⟨Fin.ext (by dsimp only; omega), Fin.ext (by dsimp only; omega), Fin.ext (by dsimp only; omega), bit_eq (by omega), Fin.ext (by dsimp only; omega)⟩)
theorem Form.Adrain.word_lt (f : Form.Adrain) : f.word < 1048576 := by
  obtain ⟨x_f, x_l, x_q, x_clr, x_g⟩ := f
  have := x_f.isLt; have := x_l.isLt; have := x_q.isLt; have := boolBit_le x_clr; have := x_g.isLt
  unfold Form.Adrain.word; dsimp only; omega

theorem Form.Aread.ofWord_word (f : Form.Aread) : Form.Aread.ofWord f.word f.ext = some f := by
  obtain ⟨x_k, x_row, x_d⟩ := f
  have := x_k.isLt; have := x_row.isLt; have := x_d.isLt
  unfold Form.Aread.ofWord Form.Aread.word Form.Aread.ext
  dsimp only
  rw [if_pos (by omega)]
  exact congrArg some ((Form.Aread.mk.injEq ..).mpr ⟨Fin.ext (by dsimp only; omega), Fin.ext (by dsimp only; omega), Fin.ext (by dsimp only; omega)⟩)
theorem Form.Aread.word_lt (f : Form.Aread) : f.word < 1048576 ∧ f.ext < 4294967296 := by
  obtain ⟨x_k, x_row, x_d⟩ := f
  have := x_k.isLt; have := x_row.isLt; have := x_d.isLt
  unfold Form.Aread.word Form.Aread.ext; dsimp only; omega

theorem Form.Scan.ofWord_word (f : Form.Scan) : Form.Scan.ofWord f.word = some f := by
  obtain ⟨x_y, x_x, x_herd⟩ := f
  have := x_y.isLt; have := x_x.isLt; have := boolBit_le x_herd
  unfold Form.Scan.ofWord Form.Scan.word
  dsimp only
  rw [if_pos (by omega)]
  exact congrArg some ((Form.Scan.mk.injEq ..).mpr ⟨Fin.ext (by dsimp only; omega), Fin.ext (by dsimp only; omega), bit_eq (by omega)⟩)
theorem Form.Scan.word_lt (f : Form.Scan) : f.word < 1048576 := by
  obtain ⟨x_y, x_x, x_herd⟩ := f
  have := x_y.isLt; have := x_x.isLt; have := boolBit_le x_herd
  unfold Form.Scan.word; dsimp only; omega

theorem Form.ScanI.ofWord_word (f : Form.ScanI) : Form.ScanI.ofWord f.word f.ext = some f := by
  obtain ⟨x_y, x_x, x_herd, x_vi, x_tvi⟩ := f
  have := x_y.isLt; have := x_x.isLt; have := boolBit_le x_herd; have := x_vi.isLt; have := boolBit_le x_tvi
  unfold Form.ScanI.ofWord Form.ScanI.word Form.ScanI.ext
  dsimp only
  rw [if_pos (by omega)]
  exact congrArg some ((Form.ScanI.mk.injEq ..).mpr ⟨Fin.ext (by dsimp only; omega), Fin.ext (by dsimp only; omega), bit_eq (by omega), Fin.ext (by dsimp only; omega), bit_eq (by omega)⟩)
theorem Form.ScanI.word_lt (f : Form.ScanI) : f.word < 1048576 ∧ f.ext < 4294967296 := by
  obtain ⟨x_y, x_x, x_herd, x_vi, x_tvi⟩ := f
  have := x_y.isLt; have := x_x.isLt; have := boolBit_le x_herd; have := x_vi.isLt; have := boolBit_le x_tvi
  unfold Form.ScanI.word Form.ScanI.ext; dsimp only; omega

theorem Form.ScanM.ofWord_word (f : Form.ScanM) : Form.ScanM.ofWord f.word f.ext = some f := by
  obtain ⟨x_y, x_x, x_herd, x_vi, x_tvi⟩ := f
  have := x_y.isLt; have := x_x.isLt; have := boolBit_le x_herd; have := x_vi.isLt; have := boolBit_le x_tvi
  unfold Form.ScanM.ofWord Form.ScanM.word Form.ScanM.ext
  dsimp only
  rw [if_pos (by omega)]
  exact congrArg some ((Form.ScanM.mk.injEq ..).mpr ⟨Fin.ext (by dsimp only; omega), Fin.ext (by dsimp only; omega), bit_eq (by omega), Fin.ext (by dsimp only; omega), bit_eq (by omega)⟩)
theorem Form.ScanM.word_lt (f : Form.ScanM) : f.word < 1048576 ∧ f.ext < 4294967296 := by
  obtain ⟨x_y, x_x, x_herd, x_vi, x_tvi⟩ := f
  have := x_y.isLt; have := x_x.isLt; have := boolBit_le x_herd; have := x_vi.isLt; have := boolBit_le x_tvi
  unfold Form.ScanM.word Form.ScanM.ext; dsimp only; omega

theorem Form.Scan2.ofWord_word (f : Form.Scan2) : Form.Scan2.ofWord f.word f.ext = some f := by
  obtain ⟨x_y, x_x, x_x2, x_herd, x_init, x_y2, x_vi, x_tvi, x_vj, x_tvj⟩ := f
  have := x_y.isLt; have := x_x.isLt; have := x_x2.isLt; have := boolBit_le x_herd; have := boolBit_le x_init; have := x_y2.isLt; have := x_vi.isLt; have := boolBit_le x_tvi; have := x_vj.isLt; have := boolBit_le x_tvj
  unfold Form.Scan2.ofWord Form.Scan2.word Form.Scan2.ext
  dsimp only
  rw [if_pos (by omega)]
  exact congrArg some ((Form.Scan2.mk.injEq ..).mpr ⟨Fin.ext (by dsimp only; omega), Fin.ext (by dsimp only; omega), Fin.ext (by dsimp only; omega), bit_eq (by omega), bit_eq (by omega), Fin.ext (by dsimp only; omega), Fin.ext (by dsimp only; omega), bit_eq (by omega), Fin.ext (by dsimp only; omega), bit_eq (by omega)⟩)
theorem Form.Scan2.word_lt (f : Form.Scan2) : f.word < 1048576 ∧ f.ext < 4294967296 := by
  obtain ⟨x_y, x_x, x_x2, x_herd, x_init, x_y2, x_vi, x_tvi, x_vj, x_tvj⟩ := f
  have := x_y.isLt; have := x_x.isLt; have := x_x2.isLt; have := boolBit_le x_herd; have := boolBit_le x_init; have := x_y2.isLt; have := x_vi.isLt; have := boolBit_le x_tvi; have := x_vj.isLt; have := boolBit_le x_tvj
  unfold Form.Scan2.word Form.Scan2.ext; dsimp only; omega

theorem Form.ScanU.ofWord_word (f : Form.ScanU) : Form.ScanU.ofWord f.word f.ext = some f := by
  obtain ⟨x_y, x_x, x_x2, x_herd, x_init, x_pair, x_y2, x_vi, x_tvi, x_vj, x_tvj⟩ := f
  have := x_y.isLt; have := x_x.isLt; have := x_x2.isLt; have := boolBit_le x_herd; have := boolBit_le x_init; have := boolBit_le x_pair; have := x_y2.isLt; have := x_vi.isLt; have := boolBit_le x_tvi; have := x_vj.isLt; have := boolBit_le x_tvj
  unfold Form.ScanU.ofWord Form.ScanU.word Form.ScanU.ext
  dsimp only
  rw [if_pos (by omega)]
  exact congrArg some ((Form.ScanU.mk.injEq ..).mpr ⟨Fin.ext (by dsimp only; omega), Fin.ext (by dsimp only; omega), Fin.ext (by dsimp only; omega), bit_eq (by omega), bit_eq (by omega), bit_eq (by omega), Fin.ext (by dsimp only; omega), Fin.ext (by dsimp only; omega), bit_eq (by omega), Fin.ext (by dsimp only; omega), bit_eq (by omega)⟩)
theorem Form.ScanU.word_lt (f : Form.ScanU) : f.word < 1048576 ∧ f.ext < 4294967296 := by
  obtain ⟨x_y, x_x, x_x2, x_herd, x_init, x_pair, x_y2, x_vi, x_tvi, x_vj, x_tvj⟩ := f
  have := x_y.isLt; have := x_x.isLt; have := x_x2.isLt; have := boolBit_le x_herd; have := boolBit_le x_init; have := boolBit_le x_pair; have := x_y2.isLt; have := x_vi.isLt; have := boolBit_le x_tvi; have := x_vj.isLt; have := boolBit_le x_tvj
  unfold Form.ScanU.word Form.ScanU.ext; dsimp only; omega

theorem Form.Scdef.ofWord_word (f : Form.Scdef) : Form.Scdef.ofWord f.word f.ext = some f := by
  obtain ⟨x_n, x_a, x_ta⟩ := f
  have := x_n.isLt; have := x_a.isLt; have := boolBit_le x_ta
  unfold Form.Scdef.ofWord Form.Scdef.word Form.Scdef.ext
  dsimp only
  rw [if_pos (by omega)]
  exact congrArg some ((Form.Scdef.mk.injEq ..).mpr ⟨Fin.ext (by dsimp only; omega), Fin.ext (by dsimp only; omega), bit_eq (by omega)⟩)
theorem Form.Scdef.word_lt (f : Form.Scdef) : f.word < 1048576 ∧ f.ext < 4294967296 := by
  obtain ⟨x_n, x_a, x_ta⟩ := f
  have := x_n.isLt; have := x_a.isLt; have := boolBit_le x_ta
  unfold Form.Scdef.word Form.Scdef.ext; dsimp only; omega

theorem Form.Mupd.ofWord_word (f : Form.Mupd) : Form.Mupd.ofWord f.word = some f := by
  obtain ⟨x_w, x_q⟩ := f
  have := x_w.isLt; have := x_q.isLt
  unfold Form.Mupd.ofWord Form.Mupd.word
  dsimp only
  rw [if_pos (by omega)]
  exact congrArg some ((Form.Mupd.mk.injEq ..).mpr ⟨Fin.ext (by dsimp only; omega), Fin.ext (by dsimp only; omega)⟩)
theorem Form.Mupd.word_lt (f : Form.Mupd) : f.word < 1048576 := by
  obtain ⟨x_w, x_q⟩ := f
  have := x_w.isLt; have := x_q.isLt
  unfold Form.Mupd.word; dsimp only; omega

theorem Form.Mupdw.ofWord_word (f : Form.Mupdw) : Form.Mupdw.ofWord f.word = some f := by
  obtain ⟨x_w, x_q, x_s, x_ts⟩ := f
  have := x_w.isLt; have := x_q.isLt; have := x_s.isLt; have := boolBit_le x_ts
  unfold Form.Mupdw.ofWord Form.Mupdw.word
  dsimp only
  rw [if_pos (by omega)]
  exact congrArg some ((Form.Mupdw.mk.injEq ..).mpr ⟨Fin.ext (by dsimp only; omega), Fin.ext (by dsimp only; omega), Fin.ext (by dsimp only; omega), bit_eq (by omega)⟩)
theorem Form.Mupdw.word_lt (f : Form.Mupdw) : f.word < 1048576 := by
  obtain ⟨x_w, x_q, x_s, x_ts⟩ := f
  have := x_w.isLt; have := x_q.isLt; have := x_s.isLt; have := boolBit_le x_ts
  unfold Form.Mupdw.word; dsimp only; omega

theorem Form.MupdwQ.ofWord_word (f : Form.MupdwQ) : Form.MupdwQ.ofWord f.word f.ext = some f := by
  obtain ⟨x_w, x_q, x_qv⟩ := f
  have := x_w.isLt; have := x_q.isLt; have := x_qv.isLt
  unfold Form.MupdwQ.ofWord Form.MupdwQ.word Form.MupdwQ.ext
  dsimp only
  rw [if_pos (by omega)]
  exact congrArg some ((Form.MupdwQ.mk.injEq ..).mpr ⟨Fin.ext (by dsimp only; omega), Fin.ext (by dsimp only; omega), Fin.ext (by dsimp only; omega)⟩)
theorem Form.MupdwQ.word_lt (f : Form.MupdwQ) : f.word < 1048576 ∧ f.ext < 4294967296 := by
  obtain ⟨x_w, x_q, x_qv⟩ := f
  have := x_w.isLt; have := x_q.isLt; have := x_qv.isLt
  unfold Form.MupdwQ.word Form.MupdwQ.ext; dsimp only; omega

theorem Form.Mw2.ofWord_word (f : Form.Mw2) : Form.Mw2.ofWord f.word = some f := by
  obtain ⟨x_w, x_v⟩ := f
  have := x_w.isLt; have := x_v.isLt
  unfold Form.Mw2.ofWord Form.Mw2.word
  dsimp only
  rw [if_pos (by omega)]
  exact congrArg some ((Form.Mw2.mk.injEq ..).mpr ⟨Fin.ext (by dsimp only; omega), Fin.ext (by dsimp only; omega)⟩)
theorem Form.Mw2.word_lt (f : Form.Mw2) : f.word < 1048576 := by
  obtain ⟨x_w, x_v⟩ := f
  have := x_w.isLt; have := x_v.isLt
  unfold Form.Mw2.word; dsimp only; omega

theorem Form.Mw2L.ofWord_word (f : Form.Mw2L) : Form.Mw2L.ofWord f.word = some f := by
  obtain ⟨x_w, x_v⟩ := f
  have := x_w.isLt; have := x_v.isLt
  unfold Form.Mw2L.ofWord Form.Mw2L.word
  dsimp only
  rw [if_pos (by omega)]
  exact congrArg some ((Form.Mw2L.mk.injEq ..).mpr ⟨Fin.ext (by dsimp only; omega), Fin.ext (by dsimp only; omega)⟩)
theorem Form.Mw2L.word_lt (f : Form.Mw2L) : f.word < 1048576 := by
  obtain ⟨x_w, x_v⟩ := f
  have := x_w.isLt; have := x_v.isLt
  unfold Form.Mw2L.word; dsimp only; omega

theorem Form.W1.ofWord_word (f : Form.W1) : Form.W1.ofWord f.word = some f := by
  obtain ⟨x_w⟩ := f
  have := x_w.isLt
  unfold Form.W1.ofWord Form.W1.word
  dsimp only
  rw [if_pos (by omega)]
  exact congrArg some ((Form.W1.mk.injEq ..).mpr (Fin.ext (by dsimp only; omega)))
theorem Form.W1.word_lt (f : Form.W1) : f.word < 1048576 := by
  obtain ⟨x_w⟩ := f
  have := x_w.isLt
  unfold Form.W1.word; dsimp only; omega

theorem Form.Mdrain.ofWord_word (f : Form.Mdrain) : Form.Mdrain.ofWord f.word f.ext = some f := by
  obtain ⟨x_w, x_s, x_ts, x_kind, x_d⟩ := f
  have := x_w.isLt; have := x_s.isLt; have := boolBit_le x_ts; have := x_kind.isLt; have := x_d.isLt
  unfold Form.Mdrain.ofWord Form.Mdrain.word Form.Mdrain.ext
  dsimp only
  rw [if_pos (by omega)]
  exact congrArg some ((Form.Mdrain.mk.injEq ..).mpr ⟨Fin.ext (by dsimp only; omega), Fin.ext (by dsimp only; omega), bit_eq (by omega), Fin.ext (by dsimp only; omega), Fin.ext (by dsimp only; omega)⟩)
theorem Form.Mdrain.word_lt (f : Form.Mdrain) : f.word < 1048576 ∧ f.ext < 4294967296 := by
  obtain ⟨x_w, x_s, x_ts, x_kind, x_d⟩ := f
  have := x_w.isLt; have := x_s.isLt; have := boolBit_le x_ts; have := x_kind.isLt; have := x_d.isLt
  unfold Form.Mdrain.word Form.Mdrain.ext; dsimp only; omega

theorem Form.MdrainN.ofWord_word (f : Form.MdrainN) : Form.MdrainN.ofWord f.word f.ext = some f := by
  obtain ⟨x_w, x_q, x_s, x_ts, x_qy, x_g, x_tg, x_b, x_tb⟩ := f
  have := x_w.isLt; have := x_q.isLt; have := x_s.isLt; have := boolBit_le x_ts; have := x_qy.isLt; have := x_g.isLt; have := boolBit_le x_tg; have := x_b.isLt; have := boolBit_le x_tb
  unfold Form.MdrainN.ofWord Form.MdrainN.word Form.MdrainN.ext
  dsimp only
  rw [if_pos (by omega)]
  exact congrArg some ((Form.MdrainN.mk.injEq ..).mpr ⟨Fin.ext (by dsimp only; omega), Fin.ext (by dsimp only; omega), Fin.ext (by dsimp only; omega), bit_eq (by omega), Fin.ext (by dsimp only; omega), Fin.ext (by dsimp only; omega), bit_eq (by omega), Fin.ext (by dsimp only; omega), bit_eq (by omega)⟩)
theorem Form.MdrainN.word_lt (f : Form.MdrainN) : f.word < 1048576 ∧ f.ext < 4294967296 := by
  obtain ⟨x_w, x_q, x_s, x_ts, x_qy, x_g, x_tg, x_b, x_tb⟩ := f
  have := x_w.isLt; have := x_q.isLt; have := x_s.isLt; have := boolBit_le x_ts; have := x_qy.isLt; have := x_g.isLt; have := boolBit_le x_tg; have := x_b.isLt; have := boolBit_le x_tb
  unfold Form.MdrainN.word Form.MdrainN.ext; dsimp only; omega

theorem Form.Mls.ofWord_word (f : Form.Mls) : Form.Mls.ofWord f.word = some f := by
  obtain ⟨x_w, x_s, x_ts⟩ := f
  have := x_w.isLt; have := x_s.isLt; have := boolBit_le x_ts
  unfold Form.Mls.ofWord Form.Mls.word
  dsimp only
  rw [if_pos (by omega)]
  exact congrArg some ((Form.Mls.mk.injEq ..).mpr ⟨Fin.ext (by dsimp only; omega), Fin.ext (by dsimp only; omega), bit_eq (by omega)⟩)
theorem Form.Mls.word_lt (f : Form.Mls) : f.word < 1048576 := by
  obtain ⟨x_w, x_s, x_ts⟩ := f
  have := x_w.isLt; have := x_s.isLt; have := boolBit_le x_ts
  unfold Form.Mls.word; dsimp only; omega

theorem Form.Cpy.ofWord_word (f : Form.Cpy) : Form.Cpy.ofWord f.word f.ext = some f := by
  obtain ⟨x_d, x_td, x_a, x_ta, x_n, x_tn⟩ := f
  have := x_d.isLt; have := boolBit_le x_td; have := x_a.isLt; have := boolBit_le x_ta; have := x_n.isLt; have := boolBit_le x_tn
  unfold Form.Cpy.ofWord Form.Cpy.word Form.Cpy.ext
  dsimp only
  rw [if_pos (by omega)]
  exact congrArg some ((Form.Cpy.mk.injEq ..).mpr ⟨Fin.ext (by dsimp only; omega), bit_eq (by omega), Fin.ext (by dsimp only; omega), bit_eq (by omega), Fin.ext (by dsimp only; omega), bit_eq (by omega)⟩)
theorem Form.Cpy.word_lt (f : Form.Cpy) : f.word < 1048576 ∧ f.ext < 4294967296 := by
  obtain ⟨x_d, x_td, x_a, x_ta, x_n, x_tn⟩ := f
  have := x_d.isLt; have := boolBit_le x_td; have := x_a.isLt; have := boolBit_le x_ta; have := x_n.isLt; have := boolBit_le x_tn
  unfold Form.Cpy.word Form.Cpy.ext; dsimp only; omega

theorem Form.Cpy2d.ofWord_word (f : Form.Cpy2d) : Form.Cpy2d.ofWord f.word = some f := by
  obtain ⟨x_q, x_s⟩ := f
  have := x_q.isLt; have := x_s.isLt
  unfold Form.Cpy2d.ofWord Form.Cpy2d.word
  dsimp only
  rw [if_pos (by omega)]
  exact congrArg some ((Form.Cpy2d.mk.injEq ..).mpr ⟨Fin.ext (by dsimp only; omega), Fin.ext (by dsimp only; omega)⟩)
theorem Form.Cpy2d.word_lt (f : Form.Cpy2d) : f.word < 1048576 := by
  obtain ⟨x_q, x_s⟩ := f
  have := x_q.isLt; have := x_s.isLt
  unfold Form.Cpy2d.word; dsimp only; omega

theorem Form.Fill.ofWord_word (f : Form.Fill) : Form.Fill.ofWord f.word f.ext = some f := by
  obtain ⟨x_q, x_a, x_ta⟩ := f
  have := x_q.isLt; have := x_a.isLt; have := boolBit_le x_ta
  unfold Form.Fill.ofWord Form.Fill.word Form.Fill.ext
  dsimp only
  rw [if_pos (by omega)]
  exact congrArg some ((Form.Fill.mk.injEq ..).mpr ⟨Fin.ext (by dsimp only; omega), Fin.ext (by dsimp only; omega), bit_eq (by omega)⟩)
theorem Form.Fill.word_lt (f : Form.Fill) : f.word < 1048576 ∧ f.ext < 4294967296 := by
  obtain ⟨x_q, x_a, x_ta⟩ := f
  have := x_q.isLt; have := x_a.isLt; have := boolBit_le x_ta
  unfold Form.Fill.word Form.Fill.ext; dsimp only; omega

theorem Form.Pub.ofWord_word (f : Form.Pub) : Form.Pub.ofWord f.word = some f := by
  obtain ⟨x_q, x_k, x_a, x_ta, x_tagx, x_nolive, x_live, x_noback⟩ := f
  have := x_q.isLt; have := x_k.isLt; have := x_a.isLt; have := boolBit_le x_ta; have := boolBit_le x_tagx; have := boolBit_le x_nolive; have := boolBit_le x_live; have := boolBit_le x_noback
  unfold Form.Pub.ofWord Form.Pub.word
  dsimp only
  rw [if_pos (by omega)]
  exact congrArg some ((Form.Pub.mk.injEq ..).mpr ⟨Fin.ext (by dsimp only; omega), Fin.ext (by dsimp only; omega), Fin.ext (by dsimp only; omega), bit_eq (by omega), bit_eq (by omega), bit_eq (by omega), bit_eq (by omega), bit_eq (by omega)⟩)
theorem Form.Pub.word_lt (f : Form.Pub) : f.word < 1048576 := by
  obtain ⟨x_q, x_k, x_a, x_ta, x_tagx, x_nolive, x_live, x_noback⟩ := f
  have := x_q.isLt; have := x_k.isLt; have := x_a.isLt; have := boolBit_le x_ta; have := boolBit_le x_tagx; have := boolBit_le x_nolive; have := boolBit_le x_live; have := boolBit_le x_noback
  unfold Form.Pub.word; dsimp only; omega

theorem Form.PubX.ofWord_word (f : Form.PubX) : Form.PubX.ofWord f.word f.ext = some f := by
  obtain ⟨x_q, x_k, x_a, x_ta, x_tagx, x_nolive, x_live, x_noback, x_b, x_tb⟩ := f
  have := x_q.isLt; have := x_k.isLt; have := x_a.isLt; have := boolBit_le x_ta; have := boolBit_le x_tagx; have := boolBit_le x_nolive; have := boolBit_le x_live; have := boolBit_le x_noback; have := x_b.isLt; have := boolBit_le x_tb
  unfold Form.PubX.ofWord Form.PubX.word Form.PubX.ext
  dsimp only
  rw [if_pos (by omega)]
  exact congrArg some ((Form.PubX.mk.injEq ..).mpr ⟨Fin.ext (by dsimp only; omega), Fin.ext (by dsimp only; omega), Fin.ext (by dsimp only; omega), bit_eq (by omega), bit_eq (by omega), bit_eq (by omega), bit_eq (by omega), bit_eq (by omega), Fin.ext (by dsimp only; omega), bit_eq (by omega)⟩)
theorem Form.PubX.word_lt (f : Form.PubX) : f.word < 1048576 ∧ f.ext < 4294967296 := by
  obtain ⟨x_q, x_k, x_a, x_ta, x_tagx, x_nolive, x_live, x_noback, x_b, x_tb⟩ := f
  have := x_q.isLt; have := x_k.isLt; have := x_a.isLt; have := boolBit_le x_ta; have := boolBit_le x_tagx; have := boolBit_le x_nolive; have := boolBit_le x_live; have := boolBit_le x_noback; have := x_b.isLt; have := boolBit_le x_tb
  unfold Form.PubX.word Form.PubX.ext; dsimp only; omega

theorem Form.Pubeos.ofWord_word (f : Form.Pubeos) : Form.Pubeos.ofWord f.word = some f := by
  obtain ⟨x_k⟩ := f
  have := x_k.isLt
  unfold Form.Pubeos.ofWord Form.Pubeos.word
  dsimp only
  rw [if_pos (by omega)]
  exact congrArg some ((Form.Pubeos.mk.injEq ..).mpr (Fin.ext (by dsimp only; omega)))
theorem Form.Pubeos.word_lt (f : Form.Pubeos) : f.word < 1048576 := by
  obtain ⟨x_k⟩ := f
  have := x_k.isLt
  unfold Form.Pubeos.word; dsimp only; omega

theorem Form.Fetch.ofWord_word (f : Form.Fetch) : Form.Fetch.ofWord f.word = some f := by
  obtain ⟨x_q, x_k, x_a, x_ta, x_tagx⟩ := f
  have := x_q.isLt; have := x_k.isLt; have := x_a.isLt; have := boolBit_le x_ta; have := boolBit_le x_tagx
  unfold Form.Fetch.ofWord Form.Fetch.word
  dsimp only
  rw [if_pos (by omega)]
  exact congrArg some ((Form.Fetch.mk.injEq ..).mpr ⟨Fin.ext (by dsimp only; omega), Fin.ext (by dsimp only; omega), Fin.ext (by dsimp only; omega), bit_eq (by omega), bit_eq (by omega)⟩)
theorem Form.Fetch.word_lt (f : Form.Fetch) : f.word < 1048576 := by
  obtain ⟨x_q, x_k, x_a, x_ta, x_tagx⟩ := f
  have := x_q.isLt; have := x_k.isLt; have := x_a.isLt; have := boolBit_le x_ta; have := boolBit_le x_tagx
  unfold Form.Fetch.word; dsimp only; omega

theorem Form.FetchX.ofWord_word (f : Form.FetchX) : Form.FetchX.ofWord f.word f.ext = some f := by
  obtain ⟨x_q, x_k, x_a, x_ta, x_tagx, x_b, x_tb⟩ := f
  have := x_q.isLt; have := x_k.isLt; have := x_a.isLt; have := boolBit_le x_ta; have := boolBit_le x_tagx; have := x_b.isLt; have := boolBit_le x_tb
  unfold Form.FetchX.ofWord Form.FetchX.word Form.FetchX.ext
  dsimp only
  rw [if_pos (by omega)]
  exact congrArg some ((Form.FetchX.mk.injEq ..).mpr ⟨Fin.ext (by dsimp only; omega), Fin.ext (by dsimp only; omega), Fin.ext (by dsimp only; omega), bit_eq (by omega), bit_eq (by omega), Fin.ext (by dsimp only; omega), bit_eq (by omega)⟩)
theorem Form.FetchX.word_lt (f : Form.FetchX) : f.word < 1048576 ∧ f.ext < 4294967296 := by
  obtain ⟨x_q, x_k, x_a, x_ta, x_tagx, x_b, x_tb⟩ := f
  have := x_q.isLt; have := x_k.isLt; have := x_a.isLt; have := boolBit_le x_ta; have := boolBit_le x_tagx; have := x_b.isLt; have := boolBit_le x_tb
  unfold Form.FetchX.word Form.FetchX.ext; dsimp only; omega

theorem Form.Subq.ofWord_word (f : Form.Subq) : Form.Subq.ofWord f.word f.ext = some f := by
  obtain ⟨x_k, x_a, x_ta, x_tagx, x_idxx, x_b, x_tb, x_d⟩ := f
  have := x_k.isLt; have := x_a.isLt; have := boolBit_le x_ta; have := boolBit_le x_tagx; have := boolBit_le x_idxx; have := x_b.isLt; have := boolBit_le x_tb; have := x_d.isLt
  unfold Form.Subq.ofWord Form.Subq.word Form.Subq.ext
  dsimp only
  rw [if_pos (by omega)]
  exact congrArg some ((Form.Subq.mk.injEq ..).mpr ⟨Fin.ext (by dsimp only; omega), Fin.ext (by dsimp only; omega), bit_eq (by omega), bit_eq (by omega), bit_eq (by omega), Fin.ext (by dsimp only; omega), bit_eq (by omega), Fin.ext (by dsimp only; omega)⟩)
theorem Form.Subq.word_lt (f : Form.Subq) : f.word < 1048576 ∧ f.ext < 4294967296 := by
  obtain ⟨x_k, x_a, x_ta, x_tagx, x_idxx, x_b, x_tb, x_d⟩ := f
  have := x_k.isLt; have := x_a.isLt; have := boolBit_le x_ta; have := boolBit_le x_tagx; have := boolBit_le x_idxx; have := x_b.isLt; have := boolBit_le x_tb; have := x_d.isLt
  unfold Form.Subq.word Form.Subq.ext; dsimp only; omega

theorem Form.Coll.ofWord_word (f : Form.Coll) : Form.Coll.ofWord f.word = some f := by
  obtain ⟨x_vsn, x_q⟩ := f
  have := x_vsn.isLt; have := x_q.isLt
  unfold Form.Coll.ofWord Form.Coll.word
  dsimp only
  rw [if_pos (by omega)]
  exact congrArg some ((Form.Coll.mk.injEq ..).mpr ⟨Fin.ext (by dsimp only; omega), Fin.ext (by dsimp only; omega)⟩)
theorem Form.Coll.word_lt (f : Form.Coll) : f.word < 1048576 := by
  obtain ⟨x_vsn, x_q⟩ := f
  have := x_vsn.isLt; have := x_q.isLt
  unfold Form.Coll.word; dsimp only; omega

theorem Form.CollR.ofWord_word (f : Form.CollR) : Form.CollR.ofWord f.word = some f := by
  obtain ⟨x_vsn, x_q⟩ := f
  have := x_vsn.isLt; have := x_q.isLt
  unfold Form.CollR.ofWord Form.CollR.word
  dsimp only
  rw [if_pos (by omega)]
  exact congrArg some ((Form.CollR.mk.injEq ..).mpr ⟨Fin.ext (by dsimp only; omega), Fin.ext (by dsimp only; omega)⟩)
theorem Form.CollR.word_lt (f : Form.CollR) : f.word < 1048576 := by
  obtain ⟨x_vsn, x_q⟩ := f
  have := x_vsn.isLt; have := x_q.isLt
  unfold Form.CollR.word; dsimp only; omega

theorem Form.CollW.ofWord_word (f : Form.CollW) : Form.CollW.ofWord f.word = some f := by
  obtain ⟨x_vsn, x_a, x_ta⟩ := f
  have := x_vsn.isLt; have := x_a.isLt; have := boolBit_le x_ta
  unfold Form.CollW.ofWord Form.CollW.word
  dsimp only
  rw [if_pos (by omega)]
  exact congrArg some ((Form.CollW.mk.injEq ..).mpr ⟨Fin.ext (by dsimp only; omega), Fin.ext (by dsimp only; omega), bit_eq (by omega)⟩)
theorem Form.CollW.word_lt (f : Form.CollW) : f.word < 1048576 := by
  obtain ⟨x_vsn, x_a, x_ta⟩ := f
  have := x_vsn.isLt; have := x_a.isLt; have := boolBit_le x_ta
  unfold Form.CollW.word; dsimp only; omega

theorem Form.CollRW.ofWord_word (f : Form.CollRW) : Form.CollRW.ofWord f.word = some f := by
  obtain ⟨x_vsn, x_a⟩ := f
  have := x_vsn.isLt; have := x_a.isLt
  unfold Form.CollRW.ofWord Form.CollRW.word
  dsimp only
  rw [if_pos (by omega)]
  exact congrArg some ((Form.CollRW.mk.injEq ..).mpr ⟨Fin.ext (by dsimp only; omega), Fin.ext (by dsimp only; omega)⟩)
theorem Form.CollRW.word_lt (f : Form.CollRW) : f.word < 1048576 := by
  obtain ⟨x_vsn, x_a⟩ := f
  have := x_vsn.isLt; have := x_a.isLt
  unfold Form.CollRW.word; dsimp only; omega

theorem Form.Cmark.ofWord_word (f : Form.Cmark) : Form.Cmark.ofWord f.word = some f := by
  obtain ⟨x_vsn⟩ := f
  have := x_vsn.isLt
  unfold Form.Cmark.ofWord Form.Cmark.word
  dsimp only
  rw [if_pos (by omega)]
  exact congrArg some ((Form.Cmark.mk.injEq ..).mpr (Fin.ext (by dsimp only; omega)))
theorem Form.Cmark.word_lt (f : Form.Cmark) : f.word < 1048576 := by
  obtain ⟨x_vsn⟩ := f
  have := x_vsn.isLt
  unfold Form.Cmark.word; dsimp only; omega

theorem Form.CmarkE.ofWord_word (f : Form.CmarkE) : Form.CmarkE.ofWord f.word = some f := by
  obtain ⟨x_vsn⟩ := f
  have := x_vsn.isLt
  unfold Form.CmarkE.ofWord Form.CmarkE.word
  dsimp only
  rw [if_pos (by omega)]
  exact congrArg some ((Form.CmarkE.mk.injEq ..).mpr (Fin.ext (by dsimp only; omega)))
theorem Form.CmarkE.word_lt (f : Form.CmarkE) : f.word < 1048576 := by
  obtain ⟨x_vsn⟩ := f
  have := x_vsn.isLt
  unfold Form.CmarkE.word; dsimp only; omega

theorem Form.Csend.ofWord_word (f : Form.Csend) : Form.Csend.ofWord f.word = some f := by
  obtain ⟨x_v, x_tv, x_dn⟩ := f
  have := x_v.isLt; have := boolBit_le x_tv; have := boolBit_le x_dn
  unfold Form.Csend.ofWord Form.Csend.word
  dsimp only
  rw [if_pos (by omega)]
  exact congrArg some ((Form.Csend.mk.injEq ..).mpr ⟨Fin.ext (by dsimp only; omega), bit_eq (by omega), bit_eq (by omega)⟩)
theorem Form.Csend.word_lt (f : Form.Csend) : f.word < 1048576 := by
  obtain ⟨x_v, x_tv, x_dn⟩ := f
  have := x_v.isLt; have := boolBit_le x_tv; have := boolBit_le x_dn
  unfold Form.Csend.word; dsimp only; omega

theorem Form.Crecv.ofWord_word (f : Form.Crecv) : Form.Crecv.ofWord f.word = some f := by
  obtain ⟨x_v, x_dn⟩ := f
  have := x_v.isLt; have := boolBit_le x_dn
  unfold Form.Crecv.ofWord Form.Crecv.word
  dsimp only
  rw [if_pos (by omega)]
  exact congrArg some ((Form.Crecv.mk.injEq ..).mpr ⟨Fin.ext (by dsimp only; omega), bit_eq (by omega)⟩)
theorem Form.Crecv.word_lt (f : Form.Crecv) : f.word < 1048576 := by
  obtain ⟨x_v, x_dn⟩ := f
  have := x_v.isLt; have := boolBit_le x_dn
  unfold Form.Crecv.word; dsimp only; omega

theorem Form.VmmA.ofWord_word (f : Form.VmmA) : Form.VmmA.ofWord f.word = some f := by
  obtain ⟨x_d, x_a, x_ta, x_mb⟩ := f
  have := x_d.isLt; have := x_a.isLt; have := boolBit_le x_ta; have := x_mb.isLt
  unfold Form.VmmA.ofWord Form.VmmA.word
  dsimp only
  rw [if_pos (by omega)]
  exact congrArg some ((Form.VmmA.mk.injEq ..).mpr ⟨Fin.ext (by dsimp only; omega), Fin.ext (by dsimp only; omega), bit_eq (by omega), Fin.ext (by dsimp only; omega)⟩)
theorem Form.VmmA.word_lt (f : Form.VmmA) : f.word < 1048576 := by
  obtain ⟨x_d, x_a, x_ta, x_mb⟩ := f
  have := x_d.isLt; have := x_a.isLt; have := boolBit_le x_ta; have := x_mb.isLt
  unfold Form.VmmA.word; dsimp only; omega

theorem Form.VmmS.ofWord_word (f : Form.VmmS) : Form.VmmS.ofWord f.word = some f := by
  obtain ⟨x_d, x_a, x_ta, x_mb⟩ := f
  have := x_d.isLt; have := x_a.isLt; have := boolBit_le x_ta; have := x_mb.isLt
  unfold Form.VmmS.ofWord Form.VmmS.word
  dsimp only
  rw [if_pos (by omega)]
  exact congrArg some ((Form.VmmS.mk.injEq ..).mpr ⟨Fin.ext (by dsimp only; omega), Fin.ext (by dsimp only; omega), bit_eq (by omega), Fin.ext (by dsimp only; omega)⟩)
theorem Form.VmmS.word_lt (f : Form.VmmS) : f.word < 1048576 := by
  obtain ⟨x_d, x_a, x_ta, x_mb⟩ := f
  have := x_d.isLt; have := x_a.isLt; have := boolBit_le x_ta; have := x_mb.isLt
  unfold Form.VmmS.word; dsimp only; omega

end Sys2Proof
end

