-- ==== Sys2Proof/Laws/State.lean ====
section
/-! SUPPORT. Sys2Proof/Laws/State.lean: one lemma per field per update of the state and of a core: what an update leaves alone. -/

set_option Elab.async false

namespace Sys2Proof.Machine

/-! ## State.setCore -/

@[simp] theorem State.setCore_agenda (s : State) (n : Nat) (c : Core) : (s.setCore n c).agenda = s.agenda := rfl
@[simp] theorem State.setCore_focus (s : State) (n : Nat) (c : Core) : (s.setCore n c).focus = s.focus := rfl
@[simp] theorem State.setCore_ticket (s : State) (n : Nat) (c : Core) : (s.setCore n c).ticket = s.ticket := rfl
@[simp] theorem State.setCore_power (s : State) (n : Nat) (c : Core) : (s.setCore n c).power = s.power := rfl
@[simp] theorem State.setCore_throttled (s : State) (n : Nat) (c : Core) : (s.setCore n c).throttled = s.throttled := rfl
@[simp] theorem State.setCore_bringUp (s : State) (n : Nat) (c : Core) : (s.setCore n c).bringUp = s.bringUp := rfl
@[simp] theorem State.setCore_wcc (s : State) (n : Nat) (c : Core) : (s.setCore n c).wcc = s.wcc := rfl
@[simp] theorem State.setCore_locked (s : State) (n : Nat) (c : Core) : (s.setCore n c).locked = s.locked := rfl
@[simp] theorem State.setCore_lastSlew (s : State) (n : Nat) (c : Core) : (s.setCore n c).lastSlew = s.lastSlew := rfl
@[simp] theorem State.setCore_slew (s : State) (n : Nat) (c : Core) : (s.setCore n c).slew = s.slew := rfl
@[simp] theorem State.setCore_economy (s : State) (n : Nat) (c : Core) : (s.setCore n c).economy = s.economy := rfl
@[simp] theorem State.setCore_caps (s : State) (n : Nat) (c : Core) : (s.setCore n c).caps = s.caps := rfl
@[simp] theorem State.setCore_healthReg (s : State) (n : Nat) (c : Core) : (s.setCore n c).healthReg = s.healthReg := rfl
@[simp] theorem State.setCore_health (s : State) (n : Nat) (c : Core) : (s.setCore n c).health = s.health := rfl
@[simp] theorem State.setCore_inForce (s : State) (n : Nat) (c : Core) : (s.setCore n c).inForce = s.inForce := rfl
@[simp] theorem State.setCore_healthGen (s : State) (n : Nat) (c : Core) : (s.setCore n c).healthGen = s.healthGen := rfl
@[simp] theorem State.setCore_healthSeal (s : State) (n : Nat) (c : Core) : (s.setCore n c).healthSeal = s.healthSeal := rfl
@[simp] theorem State.setCore_defects (s : State) (n : Nat) (c : Core) : (s.setCore n c).defects = s.defects := rfl
@[simp] theorem State.setCore_identity (s : State) (n : Nat) (c : Core) : (s.setCore n c).identity = s.identity := rfl
@[simp] theorem State.setCore_asked (s : State) (n : Nat) (c : Core) : (s.setCore n c).asked = s.asked := rfl
@[simp] theorem State.setCore_errCounts (s : State) (n : Nat) (c : Core) : (s.setCore n c).errCounts = s.errCounts := rfl
@[simp] theorem State.setCore_errors (s : State) (n : Nat) (c : Core) : (s.setCore n c).errors = s.errors := rfl
@[simp] theorem State.setCore_throttles (s : State) (n : Nat) (c : Core) : (s.setCore n c).throttles = s.throttles := rfl
@[simp] theorem State.setCore_pager (s : State) (n : Nat) (c : Core) : (s.setCore n c).pager = s.pager := rfl
@[simp] theorem State.setCore_lostCxl (s : State) (n : Nat) (c : Core) : (s.setCore n c).lostCxl = s.lostCxl := rfl
@[simp] theorem State.setCore_holes (s : State) (n : Nat) (c : Core) : (s.setCore n c).holes = s.holes := rfl
@[simp] theorem State.setCore_spareTest (s : State) (n : Nat) (c : Core) : (s.setCore n c).spareTest = s.spareTest := rfl
@[simp] theorem State.setCore_withdrawals (s : State) (n : Nat) (c : Core) : (s.setCore n c).withdrawals = s.withdrawals := rfl
@[simp] theorem State.setCore_events (s : State) (n : Nat) (c : Core) : (s.setCore n c).events = s.events := rfl
@[simp] theorem State.setCore_mgmt (s : State) (n : Nat) (c : Core) : (s.setCore n c).mgmt = s.mgmt := rfl
@[simp] theorem State.setCore_answers (s : State) (n : Nat) (c : Core) : (s.setCore n c).answers = s.answers := rfl
@[simp] theorem State.setCore_regions (s : State) (n : Nat) (c : Core) : (s.setCore n c).regions = s.regions := rfl
@[simp] theorem State.setCore_keyTable (s : State) (n : Nat) (c : Core) : (s.setCore n c).keyTable = s.keyTable := rfl
@[simp] theorem State.setCore_sealed (s : State) (n : Nat) (c : Core) : (s.setCore n c).sealed = s.sealed := rfl
@[simp] theorem State.setCore_snapshots (s : State) (n : Nat) (c : Core) : (s.setCore n c).snapshots = s.snapshots := rfl
@[simp] theorem State.setCore_pmem (s : State) (n : Nat) (c : Core) : (s.setCore n c).pmem = s.pmem := rfl
@[simp] theorem State.setCore_smem (s : State) (n : Nat) (c : Core) : (s.setCore n c).smem = s.smem := rfl
@[simp] theorem State.setCore_slices (s : State) (n : Nat) (c : Core) : (s.setCore n c).slices = s.slices := rfl
@[simp] theorem State.setCore_reqs (s : State) (n : Nat) (c : Core) : (s.setCore n c).reqs = s.reqs := rfl
@[simp] theorem State.setCore_nextReq (s : State) (n : Nat) (c : Core) : (s.setCore n c).nextReq = s.nextReq := rfl
@[simp] theorem State.setCore_agentLts (s : State) (n : Nat) (c : Core) : (s.setCore n c).agentLts = s.agentLts := rfl
@[simp] theorem State.setCore_roots (s : State) (n : Nat) (c : Core) : (s.setCore n c).roots = s.roots := rfl
@[simp] theorem State.setCore_agentTlb (s : State) (n : Nat) (c : Core) : (s.setCore n c).agentTlb = s.agentTlb := rfl
@[simp] theorem State.setCore_walks (s : State) (n : Nat) (c : Core) : (s.setCore n c).walks = s.walks := rfl
@[simp] theorem State.setCore_shoot (s : State) (n : Nat) (c : Core) : (s.setCore n c).shoot = s.shoot := rfl
@[simp] theorem State.setCore_tokens (s : State) (n : Nat) (c : Core) : (s.setCore n c).tokens = s.tokens := rfl
@[simp] theorem State.setCore_jobs (s : State) (n : Nat) (c : Core) : (s.setCore n c).jobs = s.jobs := rfl
@[simp] theorem State.setCore_backDone (s : State) (n : Nat) (c : Core) : (s.setCore n c).backDone = s.backDone := rfl
@[simp] theorem State.setCore_eccBad (s : State) (n : Nat) (c : Core) : (s.setCore n c).eccBad = s.eccBad := rfl
@[simp] theorem State.setCore_parts (s : State) (n : Nat) (c : Core) : (s.setCore n c).parts = s.parts := rfl
@[simp] theorem State.setCore_routers (s : State) (n : Nat) (c : Core) : (s.setCore n c).routers = s.routers := rfl
@[simp] theorem State.setCore_msgs (s : State) (n : Nat) (c : Core) : (s.setCore n c).msgs = s.msgs := rfl
@[simp] theorem State.setCore_qdBase (s : State) (n : Nat) (c : Core) : (s.setCore n c).qdBase = s.qdBase := rfl
@[simp] theorem State.setCore_qdCount (s : State) (n : Nat) (c : Core) : (s.setCore n c).qdCount = s.qdCount := rfl
@[simp] theorem State.setCore_qdPart (s : State) (n : Nat) (c : Core) : (s.setCore n c).qdPart = s.qdPart := rfl
@[simp] theorem State.setCore_congExp (s : State) (n : Nat) (c : Core) : (s.setCore n c).congExp = s.congExp := rfl
@[simp] theorem State.setCore_verdict (s : State) (n : Nat) (c : Core) : (s.setCore n c).verdict = s.verdict := rfl
@[simp] theorem State.setCore_ing (s : State) (n : Nat) (c : Core) : (s.setCore n c).ing = s.ing := rfl
@[simp] theorem State.setCore_store (s : State) (n : Nat) (c : Core) : (s.setCore n c).store = s.store := rfl
@[simp] theorem State.setCore_mapCache (s : State) (n : Nat) (c : Core) : (s.setCore n c).mapCache = s.mapCache := rfl
@[simp] theorem State.setCore_ctxs (s : State) (n : Nat) (c : Core) : (s.setCore n c).ctxs = s.ctxs := rfl
@[simp] theorem State.setCore_preempt (s : State) (n : Nat) (c : Core) : (s.setCore n c).preempt = s.preempt := rfl
@[simp] theorem State.setCore_tdis (s : State) (n : Nat) (c : Core) : (s.setCore n c).tdis = s.tdis := rfl
@[simp] theorem State.setCore_stops (s : State) (n : Nat) (c : Core) : (s.setCore n c).stops = s.stops := rfl
@[simp] theorem State.setCore_meas (s : State) (n : Nat) (c : Core) : (s.setCore n c).meas = s.meas := rfl
@[simp] theorem State.setCore_bootFloor (s : State) (n : Nat) (c : Core) : (s.setCore n c).bootFloor = s.bootFloor := rfl
@[simp] theorem State.setCore_peers (s : State) (n : Nat) (c : Core) : (s.setCore n c).peers = s.peers := rfl
@[simp] theorem State.setCore_lostPeers (s : State) (n : Nat) (c : Core) : (s.setCore n c).lostPeers = s.lostPeers := rfl
@[simp] theorem State.setCore_delays (s : State) (n : Nat) (c : Core) : (s.setCore n c).delays = s.delays := rfl
@[simp] theorem State.setCore_bloomAt (s : State) (n : Nat) (c : Core) : (s.setCore n c).bloomAt = s.bloomAt := rfl
@[simp] theorem State.setCore_modNum (s : State) (n : Nat) (c : Core) : (s.setCore n c).modNum = s.modNum := rfl
@[simp] theorem State.setCore_started (s : State) (n : Nat) (c : Core) : (s.setCore n c).started = s.started := rfl

/-! ## State.setRouter -/

@[simp] theorem State.setRouter_agenda (s : State) (n : Nat) (r : Router) : (s.setRouter n r).agenda = s.agenda := rfl
@[simp] theorem State.setRouter_focus (s : State) (n : Nat) (r : Router) : (s.setRouter n r).focus = s.focus := rfl
@[simp] theorem State.setRouter_ticket (s : State) (n : Nat) (r : Router) : (s.setRouter n r).ticket = s.ticket := rfl
@[simp] theorem State.setRouter_power (s : State) (n : Nat) (r : Router) : (s.setRouter n r).power = s.power := rfl
@[simp] theorem State.setRouter_throttled (s : State) (n : Nat) (r : Router) : (s.setRouter n r).throttled = s.throttled := rfl
@[simp] theorem State.setRouter_bringUp (s : State) (n : Nat) (r : Router) : (s.setRouter n r).bringUp = s.bringUp := rfl
@[simp] theorem State.setRouter_wcc (s : State) (n : Nat) (r : Router) : (s.setRouter n r).wcc = s.wcc := rfl
@[simp] theorem State.setRouter_locked (s : State) (n : Nat) (r : Router) : (s.setRouter n r).locked = s.locked := rfl
@[simp] theorem State.setRouter_lastSlew (s : State) (n : Nat) (r : Router) : (s.setRouter n r).lastSlew = s.lastSlew := rfl
@[simp] theorem State.setRouter_slew (s : State) (n : Nat) (r : Router) : (s.setRouter n r).slew = s.slew := rfl
@[simp] theorem State.setRouter_economy (s : State) (n : Nat) (r : Router) : (s.setRouter n r).economy = s.economy := rfl
@[simp] theorem State.setRouter_caps (s : State) (n : Nat) (r : Router) : (s.setRouter n r).caps = s.caps := rfl
@[simp] theorem State.setRouter_healthReg (s : State) (n : Nat) (r : Router) : (s.setRouter n r).healthReg = s.healthReg := rfl
@[simp] theorem State.setRouter_health (s : State) (n : Nat) (r : Router) : (s.setRouter n r).health = s.health := rfl
@[simp] theorem State.setRouter_inForce (s : State) (n : Nat) (r : Router) : (s.setRouter n r).inForce = s.inForce := rfl
@[simp] theorem State.setRouter_healthGen (s : State) (n : Nat) (r : Router) : (s.setRouter n r).healthGen = s.healthGen := rfl
@[simp] theorem State.setRouter_healthSeal (s : State) (n : Nat) (r : Router) : (s.setRouter n r).healthSeal = s.healthSeal := rfl
@[simp] theorem State.setRouter_defects (s : State) (n : Nat) (r : Router) : (s.setRouter n r).defects = s.defects := rfl
@[simp] theorem State.setRouter_identity (s : State) (n : Nat) (r : Router) : (s.setRouter n r).identity = s.identity := rfl
@[simp] theorem State.setRouter_asked (s : State) (n : Nat) (r : Router) : (s.setRouter n r).asked = s.asked := rfl
@[simp] theorem State.setRouter_errCounts (s : State) (n : Nat) (r : Router) : (s.setRouter n r).errCounts = s.errCounts := rfl
@[simp] theorem State.setRouter_errors (s : State) (n : Nat) (r : Router) : (s.setRouter n r).errors = s.errors := rfl
@[simp] theorem State.setRouter_throttles (s : State) (n : Nat) (r : Router) : (s.setRouter n r).throttles = s.throttles := rfl
@[simp] theorem State.setRouter_pager (s : State) (n : Nat) (r : Router) : (s.setRouter n r).pager = s.pager := rfl
@[simp] theorem State.setRouter_lostCxl (s : State) (n : Nat) (r : Router) : (s.setRouter n r).lostCxl = s.lostCxl := rfl
@[simp] theorem State.setRouter_holes (s : State) (n : Nat) (r : Router) : (s.setRouter n r).holes = s.holes := rfl
@[simp] theorem State.setRouter_spareTest (s : State) (n : Nat) (r : Router) : (s.setRouter n r).spareTest = s.spareTest := rfl
@[simp] theorem State.setRouter_withdrawals (s : State) (n : Nat) (r : Router) : (s.setRouter n r).withdrawals = s.withdrawals := rfl
@[simp] theorem State.setRouter_events (s : State) (n : Nat) (r : Router) : (s.setRouter n r).events = s.events := rfl
@[simp] theorem State.setRouter_mgmt (s : State) (n : Nat) (r : Router) : (s.setRouter n r).mgmt = s.mgmt := rfl
@[simp] theorem State.setRouter_answers (s : State) (n : Nat) (r : Router) : (s.setRouter n r).answers = s.answers := rfl
@[simp] theorem State.setRouter_regions (s : State) (n : Nat) (r : Router) : (s.setRouter n r).regions = s.regions := rfl
@[simp] theorem State.setRouter_keyTable (s : State) (n : Nat) (r : Router) : (s.setRouter n r).keyTable = s.keyTable := rfl
@[simp] theorem State.setRouter_sealed (s : State) (n : Nat) (r : Router) : (s.setRouter n r).sealed = s.sealed := rfl
@[simp] theorem State.setRouter_snapshots (s : State) (n : Nat) (r : Router) : (s.setRouter n r).snapshots = s.snapshots := rfl
@[simp] theorem State.setRouter_pmem (s : State) (n : Nat) (r : Router) : (s.setRouter n r).pmem = s.pmem := rfl
@[simp] theorem State.setRouter_smem (s : State) (n : Nat) (r : Router) : (s.setRouter n r).smem = s.smem := rfl
@[simp] theorem State.setRouter_slices (s : State) (n : Nat) (r : Router) : (s.setRouter n r).slices = s.slices := rfl
@[simp] theorem State.setRouter_reqs (s : State) (n : Nat) (r : Router) : (s.setRouter n r).reqs = s.reqs := rfl
@[simp] theorem State.setRouter_nextReq (s : State) (n : Nat) (r : Router) : (s.setRouter n r).nextReq = s.nextReq := rfl
@[simp] theorem State.setRouter_agentLts (s : State) (n : Nat) (r : Router) : (s.setRouter n r).agentLts = s.agentLts := rfl
@[simp] theorem State.setRouter_roots (s : State) (n : Nat) (r : Router) : (s.setRouter n r).roots = s.roots := rfl
@[simp] theorem State.setRouter_agentTlb (s : State) (n : Nat) (r : Router) : (s.setRouter n r).agentTlb = s.agentTlb := rfl
@[simp] theorem State.setRouter_walks (s : State) (n : Nat) (r : Router) : (s.setRouter n r).walks = s.walks := rfl
@[simp] theorem State.setRouter_shoot (s : State) (n : Nat) (r : Router) : (s.setRouter n r).shoot = s.shoot := rfl
@[simp] theorem State.setRouter_tokens (s : State) (n : Nat) (r : Router) : (s.setRouter n r).tokens = s.tokens := rfl
@[simp] theorem State.setRouter_jobs (s : State) (n : Nat) (r : Router) : (s.setRouter n r).jobs = s.jobs := rfl
@[simp] theorem State.setRouter_backDone (s : State) (n : Nat) (r : Router) : (s.setRouter n r).backDone = s.backDone := rfl
@[simp] theorem State.setRouter_eccBad (s : State) (n : Nat) (r : Router) : (s.setRouter n r).eccBad = s.eccBad := rfl
@[simp] theorem State.setRouter_parts (s : State) (n : Nat) (r : Router) : (s.setRouter n r).parts = s.parts := rfl
@[simp] theorem State.setRouter_msgs (s : State) (n : Nat) (r : Router) : (s.setRouter n r).msgs = s.msgs := rfl
@[simp] theorem State.setRouter_qdBase (s : State) (n : Nat) (r : Router) : (s.setRouter n r).qdBase = s.qdBase := rfl
@[simp] theorem State.setRouter_qdCount (s : State) (n : Nat) (r : Router) : (s.setRouter n r).qdCount = s.qdCount := rfl
@[simp] theorem State.setRouter_qdPart (s : State) (n : Nat) (r : Router) : (s.setRouter n r).qdPart = s.qdPart := rfl
@[simp] theorem State.setRouter_congExp (s : State) (n : Nat) (r : Router) : (s.setRouter n r).congExp = s.congExp := rfl
@[simp] theorem State.setRouter_verdict (s : State) (n : Nat) (r : Router) : (s.setRouter n r).verdict = s.verdict := rfl
@[simp] theorem State.setRouter_ing (s : State) (n : Nat) (r : Router) : (s.setRouter n r).ing = s.ing := rfl
@[simp] theorem State.setRouter_store (s : State) (n : Nat) (r : Router) : (s.setRouter n r).store = s.store := rfl
@[simp] theorem State.setRouter_mapCache (s : State) (n : Nat) (r : Router) : (s.setRouter n r).mapCache = s.mapCache := rfl
@[simp] theorem State.setRouter_ctxs (s : State) (n : Nat) (r : Router) : (s.setRouter n r).ctxs = s.ctxs := rfl
@[simp] theorem State.setRouter_preempt (s : State) (n : Nat) (r : Router) : (s.setRouter n r).preempt = s.preempt := rfl
@[simp] theorem State.setRouter_tdis (s : State) (n : Nat) (r : Router) : (s.setRouter n r).tdis = s.tdis := rfl
@[simp] theorem State.setRouter_stops (s : State) (n : Nat) (r : Router) : (s.setRouter n r).stops = s.stops := rfl
@[simp] theorem State.setRouter_meas (s : State) (n : Nat) (r : Router) : (s.setRouter n r).meas = s.meas := rfl
@[simp] theorem State.setRouter_bootFloor (s : State) (n : Nat) (r : Router) : (s.setRouter n r).bootFloor = s.bootFloor := rfl
@[simp] theorem State.setRouter_peers (s : State) (n : Nat) (r : Router) : (s.setRouter n r).peers = s.peers := rfl
@[simp] theorem State.setRouter_lostPeers (s : State) (n : Nat) (r : Router) : (s.setRouter n r).lostPeers = s.lostPeers := rfl
@[simp] theorem State.setRouter_delays (s : State) (n : Nat) (r : Router) : (s.setRouter n r).delays = s.delays := rfl
@[simp] theorem State.setRouter_bloomAt (s : State) (n : Nat) (r : Router) : (s.setRouter n r).bloomAt = s.bloomAt := rfl
@[simp] theorem State.setRouter_modNum (s : State) (n : Nat) (r : Router) : (s.setRouter n r).modNum = s.modNum := rfl
@[simp] theorem State.setRouter_started (s : State) (n : Nat) (r : Router) : (s.setRouter n r).started = s.started := rfl
@[simp] theorem State.setRouter_cores (s : State) (n : Nat) (r : Router) : (s.setRouter n r).cores = s.cores := rfl

/-! ## State.post -/

@[simp] theorem State.post_agenda (s : State) (p : Place) (m : Msg) : (s.post p m).agenda = s.agenda := rfl
@[simp] theorem State.post_focus (s : State) (p : Place) (m : Msg) : (s.post p m).focus = s.focus := rfl
@[simp] theorem State.post_ticket (s : State) (p : Place) (m : Msg) : (s.post p m).ticket = s.ticket := rfl
@[simp] theorem State.post_power (s : State) (p : Place) (m : Msg) : (s.post p m).power = s.power := rfl
@[simp] theorem State.post_throttled (s : State) (p : Place) (m : Msg) : (s.post p m).throttled = s.throttled := rfl
@[simp] theorem State.post_bringUp (s : State) (p : Place) (m : Msg) : (s.post p m).bringUp = s.bringUp := rfl
@[simp] theorem State.post_wcc (s : State) (p : Place) (m : Msg) : (s.post p m).wcc = s.wcc := rfl
@[simp] theorem State.post_locked (s : State) (p : Place) (m : Msg) : (s.post p m).locked = s.locked := rfl
@[simp] theorem State.post_lastSlew (s : State) (p : Place) (m : Msg) : (s.post p m).lastSlew = s.lastSlew := rfl
@[simp] theorem State.post_slew (s : State) (p : Place) (m : Msg) : (s.post p m).slew = s.slew := rfl
@[simp] theorem State.post_economy (s : State) (p : Place) (m : Msg) : (s.post p m).economy = s.economy := rfl
@[simp] theorem State.post_caps (s : State) (p : Place) (m : Msg) : (s.post p m).caps = s.caps := rfl
@[simp] theorem State.post_healthReg (s : State) (p : Place) (m : Msg) : (s.post p m).healthReg = s.healthReg := rfl
@[simp] theorem State.post_health (s : State) (p : Place) (m : Msg) : (s.post p m).health = s.health := rfl
@[simp] theorem State.post_inForce (s : State) (p : Place) (m : Msg) : (s.post p m).inForce = s.inForce := rfl
@[simp] theorem State.post_healthGen (s : State) (p : Place) (m : Msg) : (s.post p m).healthGen = s.healthGen := rfl
@[simp] theorem State.post_healthSeal (s : State) (p : Place) (m : Msg) : (s.post p m).healthSeal = s.healthSeal := rfl
@[simp] theorem State.post_defects (s : State) (p : Place) (m : Msg) : (s.post p m).defects = s.defects := rfl
@[simp] theorem State.post_identity (s : State) (p : Place) (m : Msg) : (s.post p m).identity = s.identity := rfl
@[simp] theorem State.post_asked (s : State) (p : Place) (m : Msg) : (s.post p m).asked = s.asked := rfl
@[simp] theorem State.post_errCounts (s : State) (p : Place) (m : Msg) : (s.post p m).errCounts = s.errCounts := rfl
@[simp] theorem State.post_errors (s : State) (p : Place) (m : Msg) : (s.post p m).errors = s.errors := rfl
@[simp] theorem State.post_throttles (s : State) (p : Place) (m : Msg) : (s.post p m).throttles = s.throttles := rfl
@[simp] theorem State.post_pager (s : State) (p : Place) (m : Msg) : (s.post p m).pager = s.pager := rfl
@[simp] theorem State.post_lostCxl (s : State) (p : Place) (m : Msg) : (s.post p m).lostCxl = s.lostCxl := rfl
@[simp] theorem State.post_holes (s : State) (p : Place) (m : Msg) : (s.post p m).holes = s.holes := rfl
@[simp] theorem State.post_spareTest (s : State) (p : Place) (m : Msg) : (s.post p m).spareTest = s.spareTest := rfl
@[simp] theorem State.post_withdrawals (s : State) (p : Place) (m : Msg) : (s.post p m).withdrawals = s.withdrawals := rfl
@[simp] theorem State.post_events (s : State) (p : Place) (m : Msg) : (s.post p m).events = s.events := rfl
@[simp] theorem State.post_mgmt (s : State) (p : Place) (m : Msg) : (s.post p m).mgmt = s.mgmt := rfl
@[simp] theorem State.post_answers (s : State) (p : Place) (m : Msg) : (s.post p m).answers = s.answers := rfl
@[simp] theorem State.post_regions (s : State) (p : Place) (m : Msg) : (s.post p m).regions = s.regions := rfl
@[simp] theorem State.post_keyTable (s : State) (p : Place) (m : Msg) : (s.post p m).keyTable = s.keyTable := rfl
@[simp] theorem State.post_sealed (s : State) (p : Place) (m : Msg) : (s.post p m).sealed = s.sealed := rfl
@[simp] theorem State.post_snapshots (s : State) (p : Place) (m : Msg) : (s.post p m).snapshots = s.snapshots := rfl
@[simp] theorem State.post_pmem (s : State) (p : Place) (m : Msg) : (s.post p m).pmem = s.pmem := rfl
@[simp] theorem State.post_smem (s : State) (p : Place) (m : Msg) : (s.post p m).smem = s.smem := rfl
@[simp] theorem State.post_slices (s : State) (p : Place) (m : Msg) : (s.post p m).slices = s.slices := rfl
@[simp] theorem State.post_reqs (s : State) (p : Place) (m : Msg) : (s.post p m).reqs = s.reqs := rfl
@[simp] theorem State.post_nextReq (s : State) (p : Place) (m : Msg) : (s.post p m).nextReq = s.nextReq := rfl
@[simp] theorem State.post_agentLts (s : State) (p : Place) (m : Msg) : (s.post p m).agentLts = s.agentLts := rfl
@[simp] theorem State.post_roots (s : State) (p : Place) (m : Msg) : (s.post p m).roots = s.roots := rfl
@[simp] theorem State.post_agentTlb (s : State) (p : Place) (m : Msg) : (s.post p m).agentTlb = s.agentTlb := rfl
@[simp] theorem State.post_walks (s : State) (p : Place) (m : Msg) : (s.post p m).walks = s.walks := rfl
@[simp] theorem State.post_shoot (s : State) (p : Place) (m : Msg) : (s.post p m).shoot = s.shoot := rfl
@[simp] theorem State.post_tokens (s : State) (p : Place) (m : Msg) : (s.post p m).tokens = s.tokens := rfl
@[simp] theorem State.post_jobs (s : State) (p : Place) (m : Msg) : (s.post p m).jobs = s.jobs := rfl
@[simp] theorem State.post_backDone (s : State) (p : Place) (m : Msg) : (s.post p m).backDone = s.backDone := rfl
@[simp] theorem State.post_eccBad (s : State) (p : Place) (m : Msg) : (s.post p m).eccBad = s.eccBad := rfl
@[simp] theorem State.post_parts (s : State) (p : Place) (m : Msg) : (s.post p m).parts = s.parts := rfl
@[simp] theorem State.post_routers (s : State) (p : Place) (m : Msg) : (s.post p m).routers = s.routers := rfl
@[simp] theorem State.post_qdBase (s : State) (p : Place) (m : Msg) : (s.post p m).qdBase = s.qdBase := rfl
@[simp] theorem State.post_qdCount (s : State) (p : Place) (m : Msg) : (s.post p m).qdCount = s.qdCount := rfl
@[simp] theorem State.post_qdPart (s : State) (p : Place) (m : Msg) : (s.post p m).qdPart = s.qdPart := rfl
@[simp] theorem State.post_congExp (s : State) (p : Place) (m : Msg) : (s.post p m).congExp = s.congExp := rfl
@[simp] theorem State.post_verdict (s : State) (p : Place) (m : Msg) : (s.post p m).verdict = s.verdict := rfl
@[simp] theorem State.post_ing (s : State) (p : Place) (m : Msg) : (s.post p m).ing = s.ing := rfl
@[simp] theorem State.post_store (s : State) (p : Place) (m : Msg) : (s.post p m).store = s.store := rfl
@[simp] theorem State.post_mapCache (s : State) (p : Place) (m : Msg) : (s.post p m).mapCache = s.mapCache := rfl
@[simp] theorem State.post_ctxs (s : State) (p : Place) (m : Msg) : (s.post p m).ctxs = s.ctxs := rfl
@[simp] theorem State.post_preempt (s : State) (p : Place) (m : Msg) : (s.post p m).preempt = s.preempt := rfl
@[simp] theorem State.post_tdis (s : State) (p : Place) (m : Msg) : (s.post p m).tdis = s.tdis := rfl
@[simp] theorem State.post_stops (s : State) (p : Place) (m : Msg) : (s.post p m).stops = s.stops := rfl
@[simp] theorem State.post_meas (s : State) (p : Place) (m : Msg) : (s.post p m).meas = s.meas := rfl
@[simp] theorem State.post_bootFloor (s : State) (p : Place) (m : Msg) : (s.post p m).bootFloor = s.bootFloor := rfl
@[simp] theorem State.post_peers (s : State) (p : Place) (m : Msg) : (s.post p m).peers = s.peers := rfl
@[simp] theorem State.post_lostPeers (s : State) (p : Place) (m : Msg) : (s.post p m).lostPeers = s.lostPeers := rfl
@[simp] theorem State.post_delays (s : State) (p : Place) (m : Msg) : (s.post p m).delays = s.delays := rfl
@[simp] theorem State.post_bloomAt (s : State) (p : Place) (m : Msg) : (s.post p m).bloomAt = s.bloomAt := rfl
@[simp] theorem State.post_modNum (s : State) (p : Place) (m : Msg) : (s.post p m).modNum = s.modNum := rfl
@[simp] theorem State.post_started (s : State) (p : Place) (m : Msg) : (s.post p m).started = s.started := rfl
@[simp] theorem State.post_cores (s : State) (p : Place) (m : Msg) : (s.post p m).cores = s.cores := rfl

/-! ## State.onCtx -/

@[simp] theorem State.onCtx_agenda (s : State) (k : Fin 8) (f : Ctx → Ctx) : (s.onCtx k f).agenda = s.agenda := rfl
@[simp] theorem State.onCtx_focus (s : State) (k : Fin 8) (f : Ctx → Ctx) : (s.onCtx k f).focus = s.focus := rfl
@[simp] theorem State.onCtx_ticket (s : State) (k : Fin 8) (f : Ctx → Ctx) : (s.onCtx k f).ticket = s.ticket := rfl
@[simp] theorem State.onCtx_power (s : State) (k : Fin 8) (f : Ctx → Ctx) : (s.onCtx k f).power = s.power := rfl
@[simp] theorem State.onCtx_throttled (s : State) (k : Fin 8) (f : Ctx → Ctx) : (s.onCtx k f).throttled = s.throttled := rfl
@[simp] theorem State.onCtx_bringUp (s : State) (k : Fin 8) (f : Ctx → Ctx) : (s.onCtx k f).bringUp = s.bringUp := rfl
@[simp] theorem State.onCtx_wcc (s : State) (k : Fin 8) (f : Ctx → Ctx) : (s.onCtx k f).wcc = s.wcc := rfl
@[simp] theorem State.onCtx_locked (s : State) (k : Fin 8) (f : Ctx → Ctx) : (s.onCtx k f).locked = s.locked := rfl
@[simp] theorem State.onCtx_lastSlew (s : State) (k : Fin 8) (f : Ctx → Ctx) : (s.onCtx k f).lastSlew = s.lastSlew := rfl
@[simp] theorem State.onCtx_slew (s : State) (k : Fin 8) (f : Ctx → Ctx) : (s.onCtx k f).slew = s.slew := rfl
@[simp] theorem State.onCtx_economy (s : State) (k : Fin 8) (f : Ctx → Ctx) : (s.onCtx k f).economy = s.economy := rfl
@[simp] theorem State.onCtx_caps (s : State) (k : Fin 8) (f : Ctx → Ctx) : (s.onCtx k f).caps = s.caps := rfl
@[simp] theorem State.onCtx_healthReg (s : State) (k : Fin 8) (f : Ctx → Ctx) : (s.onCtx k f).healthReg = s.healthReg := rfl
@[simp] theorem State.onCtx_health (s : State) (k : Fin 8) (f : Ctx → Ctx) : (s.onCtx k f).health = s.health := rfl
@[simp] theorem State.onCtx_inForce (s : State) (k : Fin 8) (f : Ctx → Ctx) : (s.onCtx k f).inForce = s.inForce := rfl
@[simp] theorem State.onCtx_healthGen (s : State) (k : Fin 8) (f : Ctx → Ctx) : (s.onCtx k f).healthGen = s.healthGen := rfl
@[simp] theorem State.onCtx_healthSeal (s : State) (k : Fin 8) (f : Ctx → Ctx) : (s.onCtx k f).healthSeal = s.healthSeal := rfl
@[simp] theorem State.onCtx_defects (s : State) (k : Fin 8) (f : Ctx → Ctx) : (s.onCtx k f).defects = s.defects := rfl
@[simp] theorem State.onCtx_identity (s : State) (k : Fin 8) (f : Ctx → Ctx) : (s.onCtx k f).identity = s.identity := rfl
@[simp] theorem State.onCtx_asked (s : State) (k : Fin 8) (f : Ctx → Ctx) : (s.onCtx k f).asked = s.asked := rfl
@[simp] theorem State.onCtx_errCounts (s : State) (k : Fin 8) (f : Ctx → Ctx) : (s.onCtx k f).errCounts = s.errCounts := rfl
@[simp] theorem State.onCtx_errors (s : State) (k : Fin 8) (f : Ctx → Ctx) : (s.onCtx k f).errors = s.errors := rfl
@[simp] theorem State.onCtx_throttles (s : State) (k : Fin 8) (f : Ctx → Ctx) : (s.onCtx k f).throttles = s.throttles := rfl
@[simp] theorem State.onCtx_pager (s : State) (k : Fin 8) (f : Ctx → Ctx) : (s.onCtx k f).pager = s.pager := rfl
@[simp] theorem State.onCtx_lostCxl (s : State) (k : Fin 8) (f : Ctx → Ctx) : (s.onCtx k f).lostCxl = s.lostCxl := rfl
@[simp] theorem State.onCtx_holes (s : State) (k : Fin 8) (f : Ctx → Ctx) : (s.onCtx k f).holes = s.holes := rfl
@[simp] theorem State.onCtx_spareTest (s : State) (k : Fin 8) (f : Ctx → Ctx) : (s.onCtx k f).spareTest = s.spareTest := rfl
@[simp] theorem State.onCtx_withdrawals (s : State) (k : Fin 8) (f : Ctx → Ctx) : (s.onCtx k f).withdrawals = s.withdrawals := rfl
@[simp] theorem State.onCtx_events (s : State) (k : Fin 8) (f : Ctx → Ctx) : (s.onCtx k f).events = s.events := rfl
@[simp] theorem State.onCtx_mgmt (s : State) (k : Fin 8) (f : Ctx → Ctx) : (s.onCtx k f).mgmt = s.mgmt := rfl
@[simp] theorem State.onCtx_answers (s : State) (k : Fin 8) (f : Ctx → Ctx) : (s.onCtx k f).answers = s.answers := rfl
@[simp] theorem State.onCtx_regions (s : State) (k : Fin 8) (f : Ctx → Ctx) : (s.onCtx k f).regions = s.regions := rfl
@[simp] theorem State.onCtx_keyTable (s : State) (k : Fin 8) (f : Ctx → Ctx) : (s.onCtx k f).keyTable = s.keyTable := rfl
@[simp] theorem State.onCtx_sealed (s : State) (k : Fin 8) (f : Ctx → Ctx) : (s.onCtx k f).sealed = s.sealed := rfl
@[simp] theorem State.onCtx_snapshots (s : State) (k : Fin 8) (f : Ctx → Ctx) : (s.onCtx k f).snapshots = s.snapshots := rfl
@[simp] theorem State.onCtx_pmem (s : State) (k : Fin 8) (f : Ctx → Ctx) : (s.onCtx k f).pmem = s.pmem := rfl
@[simp] theorem State.onCtx_smem (s : State) (k : Fin 8) (f : Ctx → Ctx) : (s.onCtx k f).smem = s.smem := rfl
@[simp] theorem State.onCtx_slices (s : State) (k : Fin 8) (f : Ctx → Ctx) : (s.onCtx k f).slices = s.slices := rfl
@[simp] theorem State.onCtx_reqs (s : State) (k : Fin 8) (f : Ctx → Ctx) : (s.onCtx k f).reqs = s.reqs := rfl
@[simp] theorem State.onCtx_nextReq (s : State) (k : Fin 8) (f : Ctx → Ctx) : (s.onCtx k f).nextReq = s.nextReq := rfl
@[simp] theorem State.onCtx_agentLts (s : State) (k : Fin 8) (f : Ctx → Ctx) : (s.onCtx k f).agentLts = s.agentLts := rfl
@[simp] theorem State.onCtx_roots (s : State) (k : Fin 8) (f : Ctx → Ctx) : (s.onCtx k f).roots = s.roots := rfl
@[simp] theorem State.onCtx_agentTlb (s : State) (k : Fin 8) (f : Ctx → Ctx) : (s.onCtx k f).agentTlb = s.agentTlb := rfl
@[simp] theorem State.onCtx_walks (s : State) (k : Fin 8) (f : Ctx → Ctx) : (s.onCtx k f).walks = s.walks := rfl
@[simp] theorem State.onCtx_shoot (s : State) (k : Fin 8) (f : Ctx → Ctx) : (s.onCtx k f).shoot = s.shoot := rfl
@[simp] theorem State.onCtx_tokens (s : State) (k : Fin 8) (f : Ctx → Ctx) : (s.onCtx k f).tokens = s.tokens := rfl
@[simp] theorem State.onCtx_jobs (s : State) (k : Fin 8) (f : Ctx → Ctx) : (s.onCtx k f).jobs = s.jobs := rfl
@[simp] theorem State.onCtx_backDone (s : State) (k : Fin 8) (f : Ctx → Ctx) : (s.onCtx k f).backDone = s.backDone := rfl
@[simp] theorem State.onCtx_eccBad (s : State) (k : Fin 8) (f : Ctx → Ctx) : (s.onCtx k f).eccBad = s.eccBad := rfl
@[simp] theorem State.onCtx_parts (s : State) (k : Fin 8) (f : Ctx → Ctx) : (s.onCtx k f).parts = s.parts := rfl
@[simp] theorem State.onCtx_routers (s : State) (k : Fin 8) (f : Ctx → Ctx) : (s.onCtx k f).routers = s.routers := rfl
@[simp] theorem State.onCtx_msgs (s : State) (k : Fin 8) (f : Ctx → Ctx) : (s.onCtx k f).msgs = s.msgs := rfl
@[simp] theorem State.onCtx_qdBase (s : State) (k : Fin 8) (f : Ctx → Ctx) : (s.onCtx k f).qdBase = s.qdBase := rfl
@[simp] theorem State.onCtx_qdCount (s : State) (k : Fin 8) (f : Ctx → Ctx) : (s.onCtx k f).qdCount = s.qdCount := rfl
@[simp] theorem State.onCtx_qdPart (s : State) (k : Fin 8) (f : Ctx → Ctx) : (s.onCtx k f).qdPart = s.qdPart := rfl
@[simp] theorem State.onCtx_congExp (s : State) (k : Fin 8) (f : Ctx → Ctx) : (s.onCtx k f).congExp = s.congExp := rfl
@[simp] theorem State.onCtx_verdict (s : State) (k : Fin 8) (f : Ctx → Ctx) : (s.onCtx k f).verdict = s.verdict := rfl
@[simp] theorem State.onCtx_ing (s : State) (k : Fin 8) (f : Ctx → Ctx) : (s.onCtx k f).ing = s.ing := rfl
@[simp] theorem State.onCtx_store (s : State) (k : Fin 8) (f : Ctx → Ctx) : (s.onCtx k f).store = s.store := rfl
@[simp] theorem State.onCtx_mapCache (s : State) (k : Fin 8) (f : Ctx → Ctx) : (s.onCtx k f).mapCache = s.mapCache := rfl
@[simp] theorem State.onCtx_preempt (s : State) (k : Fin 8) (f : Ctx → Ctx) : (s.onCtx k f).preempt = s.preempt := rfl
@[simp] theorem State.onCtx_tdis (s : State) (k : Fin 8) (f : Ctx → Ctx) : (s.onCtx k f).tdis = s.tdis := rfl
@[simp] theorem State.onCtx_stops (s : State) (k : Fin 8) (f : Ctx → Ctx) : (s.onCtx k f).stops = s.stops := rfl
@[simp] theorem State.onCtx_meas (s : State) (k : Fin 8) (f : Ctx → Ctx) : (s.onCtx k f).meas = s.meas := rfl
@[simp] theorem State.onCtx_bootFloor (s : State) (k : Fin 8) (f : Ctx → Ctx) : (s.onCtx k f).bootFloor = s.bootFloor := rfl
@[simp] theorem State.onCtx_peers (s : State) (k : Fin 8) (f : Ctx → Ctx) : (s.onCtx k f).peers = s.peers := rfl
@[simp] theorem State.onCtx_lostPeers (s : State) (k : Fin 8) (f : Ctx → Ctx) : (s.onCtx k f).lostPeers = s.lostPeers := rfl
@[simp] theorem State.onCtx_delays (s : State) (k : Fin 8) (f : Ctx → Ctx) : (s.onCtx k f).delays = s.delays := rfl
@[simp] theorem State.onCtx_bloomAt (s : State) (k : Fin 8) (f : Ctx → Ctx) : (s.onCtx k f).bloomAt = s.bloomAt := rfl
@[simp] theorem State.onCtx_modNum (s : State) (k : Fin 8) (f : Ctx → Ctx) : (s.onCtx k f).modNum = s.modNum := rfl
@[simp] theorem State.onCtx_started (s : State) (k : Fin 8) (f : Ctx → Ctx) : (s.onCtx k f).started = s.started := rfl
@[simp] theorem State.onCtx_cores (s : State) (k : Fin 8) (f : Ctx → Ctx) : (s.onCtx k f).cores = s.cores := rfl

/-! ## State.onPart -/

@[simp] theorem State.onPart_agenda (s : State) (p : Fin 16) (f : Part → Part) : (s.onPart p f).agenda = s.agenda := rfl
@[simp] theorem State.onPart_focus (s : State) (p : Fin 16) (f : Part → Part) : (s.onPart p f).focus = s.focus := rfl
@[simp] theorem State.onPart_ticket (s : State) (p : Fin 16) (f : Part → Part) : (s.onPart p f).ticket = s.ticket := rfl
@[simp] theorem State.onPart_power (s : State) (p : Fin 16) (f : Part → Part) : (s.onPart p f).power = s.power := rfl
@[simp] theorem State.onPart_throttled (s : State) (p : Fin 16) (f : Part → Part) : (s.onPart p f).throttled = s.throttled := rfl
@[simp] theorem State.onPart_bringUp (s : State) (p : Fin 16) (f : Part → Part) : (s.onPart p f).bringUp = s.bringUp := rfl
@[simp] theorem State.onPart_wcc (s : State) (p : Fin 16) (f : Part → Part) : (s.onPart p f).wcc = s.wcc := rfl
@[simp] theorem State.onPart_locked (s : State) (p : Fin 16) (f : Part → Part) : (s.onPart p f).locked = s.locked := rfl
@[simp] theorem State.onPart_lastSlew (s : State) (p : Fin 16) (f : Part → Part) : (s.onPart p f).lastSlew = s.lastSlew := rfl
@[simp] theorem State.onPart_slew (s : State) (p : Fin 16) (f : Part → Part) : (s.onPart p f).slew = s.slew := rfl
@[simp] theorem State.onPart_economy (s : State) (p : Fin 16) (f : Part → Part) : (s.onPart p f).economy = s.economy := rfl
@[simp] theorem State.onPart_caps (s : State) (p : Fin 16) (f : Part → Part) : (s.onPart p f).caps = s.caps := rfl
@[simp] theorem State.onPart_healthReg (s : State) (p : Fin 16) (f : Part → Part) : (s.onPart p f).healthReg = s.healthReg := rfl
@[simp] theorem State.onPart_health (s : State) (p : Fin 16) (f : Part → Part) : (s.onPart p f).health = s.health := rfl
@[simp] theorem State.onPart_inForce (s : State) (p : Fin 16) (f : Part → Part) : (s.onPart p f).inForce = s.inForce := rfl
@[simp] theorem State.onPart_healthGen (s : State) (p : Fin 16) (f : Part → Part) : (s.onPart p f).healthGen = s.healthGen := rfl
@[simp] theorem State.onPart_healthSeal (s : State) (p : Fin 16) (f : Part → Part) : (s.onPart p f).healthSeal = s.healthSeal := rfl
@[simp] theorem State.onPart_defects (s : State) (p : Fin 16) (f : Part → Part) : (s.onPart p f).defects = s.defects := rfl
@[simp] theorem State.onPart_identity (s : State) (p : Fin 16) (f : Part → Part) : (s.onPart p f).identity = s.identity := rfl
@[simp] theorem State.onPart_asked (s : State) (p : Fin 16) (f : Part → Part) : (s.onPart p f).asked = s.asked := rfl
@[simp] theorem State.onPart_errCounts (s : State) (p : Fin 16) (f : Part → Part) : (s.onPart p f).errCounts = s.errCounts := rfl
@[simp] theorem State.onPart_errors (s : State) (p : Fin 16) (f : Part → Part) : (s.onPart p f).errors = s.errors := rfl
@[simp] theorem State.onPart_throttles (s : State) (p : Fin 16) (f : Part → Part) : (s.onPart p f).throttles = s.throttles := rfl
@[simp] theorem State.onPart_pager (s : State) (p : Fin 16) (f : Part → Part) : (s.onPart p f).pager = s.pager := rfl
@[simp] theorem State.onPart_lostCxl (s : State) (p : Fin 16) (f : Part → Part) : (s.onPart p f).lostCxl = s.lostCxl := rfl
@[simp] theorem State.onPart_holes (s : State) (p : Fin 16) (f : Part → Part) : (s.onPart p f).holes = s.holes := rfl
@[simp] theorem State.onPart_spareTest (s : State) (p : Fin 16) (f : Part → Part) : (s.onPart p f).spareTest = s.spareTest := rfl
@[simp] theorem State.onPart_withdrawals (s : State) (p : Fin 16) (f : Part → Part) : (s.onPart p f).withdrawals = s.withdrawals := rfl
@[simp] theorem State.onPart_events (s : State) (p : Fin 16) (f : Part → Part) : (s.onPart p f).events = s.events := rfl
@[simp] theorem State.onPart_mgmt (s : State) (p : Fin 16) (f : Part → Part) : (s.onPart p f).mgmt = s.mgmt := rfl
@[simp] theorem State.onPart_answers (s : State) (p : Fin 16) (f : Part → Part) : (s.onPart p f).answers = s.answers := rfl
@[simp] theorem State.onPart_regions (s : State) (p : Fin 16) (f : Part → Part) : (s.onPart p f).regions = s.regions := rfl
@[simp] theorem State.onPart_keyTable (s : State) (p : Fin 16) (f : Part → Part) : (s.onPart p f).keyTable = s.keyTable := rfl
@[simp] theorem State.onPart_sealed (s : State) (p : Fin 16) (f : Part → Part) : (s.onPart p f).sealed = s.sealed := rfl
@[simp] theorem State.onPart_snapshots (s : State) (p : Fin 16) (f : Part → Part) : (s.onPart p f).snapshots = s.snapshots := rfl
@[simp] theorem State.onPart_pmem (s : State) (p : Fin 16) (f : Part → Part) : (s.onPart p f).pmem = s.pmem := rfl
@[simp] theorem State.onPart_smem (s : State) (p : Fin 16) (f : Part → Part) : (s.onPart p f).smem = s.smem := rfl
@[simp] theorem State.onPart_slices (s : State) (p : Fin 16) (f : Part → Part) : (s.onPart p f).slices = s.slices := rfl
@[simp] theorem State.onPart_reqs (s : State) (p : Fin 16) (f : Part → Part) : (s.onPart p f).reqs = s.reqs := rfl
@[simp] theorem State.onPart_nextReq (s : State) (p : Fin 16) (f : Part → Part) : (s.onPart p f).nextReq = s.nextReq := rfl
@[simp] theorem State.onPart_agentLts (s : State) (p : Fin 16) (f : Part → Part) : (s.onPart p f).agentLts = s.agentLts := rfl
@[simp] theorem State.onPart_roots (s : State) (p : Fin 16) (f : Part → Part) : (s.onPart p f).roots = s.roots := rfl
@[simp] theorem State.onPart_agentTlb (s : State) (p : Fin 16) (f : Part → Part) : (s.onPart p f).agentTlb = s.agentTlb := rfl
@[simp] theorem State.onPart_walks (s : State) (p : Fin 16) (f : Part → Part) : (s.onPart p f).walks = s.walks := rfl
@[simp] theorem State.onPart_shoot (s : State) (p : Fin 16) (f : Part → Part) : (s.onPart p f).shoot = s.shoot := rfl
@[simp] theorem State.onPart_tokens (s : State) (p : Fin 16) (f : Part → Part) : (s.onPart p f).tokens = s.tokens := rfl
@[simp] theorem State.onPart_jobs (s : State) (p : Fin 16) (f : Part → Part) : (s.onPart p f).jobs = s.jobs := rfl
@[simp] theorem State.onPart_backDone (s : State) (p : Fin 16) (f : Part → Part) : (s.onPart p f).backDone = s.backDone := rfl
@[simp] theorem State.onPart_eccBad (s : State) (p : Fin 16) (f : Part → Part) : (s.onPart p f).eccBad = s.eccBad := rfl
@[simp] theorem State.onPart_routers (s : State) (p : Fin 16) (f : Part → Part) : (s.onPart p f).routers = s.routers := rfl
@[simp] theorem State.onPart_msgs (s : State) (p : Fin 16) (f : Part → Part) : (s.onPart p f).msgs = s.msgs := rfl
@[simp] theorem State.onPart_qdBase (s : State) (p : Fin 16) (f : Part → Part) : (s.onPart p f).qdBase = s.qdBase := rfl
@[simp] theorem State.onPart_qdCount (s : State) (p : Fin 16) (f : Part → Part) : (s.onPart p f).qdCount = s.qdCount := rfl
@[simp] theorem State.onPart_qdPart (s : State) (p : Fin 16) (f : Part → Part) : (s.onPart p f).qdPart = s.qdPart := rfl
@[simp] theorem State.onPart_congExp (s : State) (p : Fin 16) (f : Part → Part) : (s.onPart p f).congExp = s.congExp := rfl
@[simp] theorem State.onPart_verdict (s : State) (p : Fin 16) (f : Part → Part) : (s.onPart p f).verdict = s.verdict := rfl
@[simp] theorem State.onPart_ing (s : State) (p : Fin 16) (f : Part → Part) : (s.onPart p f).ing = s.ing := rfl
@[simp] theorem State.onPart_store (s : State) (p : Fin 16) (f : Part → Part) : (s.onPart p f).store = s.store := rfl
@[simp] theorem State.onPart_mapCache (s : State) (p : Fin 16) (f : Part → Part) : (s.onPart p f).mapCache = s.mapCache := rfl
@[simp] theorem State.onPart_ctxs (s : State) (p : Fin 16) (f : Part → Part) : (s.onPart p f).ctxs = s.ctxs := rfl
@[simp] theorem State.onPart_preempt (s : State) (p : Fin 16) (f : Part → Part) : (s.onPart p f).preempt = s.preempt := rfl
@[simp] theorem State.onPart_tdis (s : State) (p : Fin 16) (f : Part → Part) : (s.onPart p f).tdis = s.tdis := rfl
@[simp] theorem State.onPart_stops (s : State) (p : Fin 16) (f : Part → Part) : (s.onPart p f).stops = s.stops := rfl
@[simp] theorem State.onPart_meas (s : State) (p : Fin 16) (f : Part → Part) : (s.onPart p f).meas = s.meas := rfl
@[simp] theorem State.onPart_bootFloor (s : State) (p : Fin 16) (f : Part → Part) : (s.onPart p f).bootFloor = s.bootFloor := rfl
@[simp] theorem State.onPart_peers (s : State) (p : Fin 16) (f : Part → Part) : (s.onPart p f).peers = s.peers := rfl
@[simp] theorem State.onPart_lostPeers (s : State) (p : Fin 16) (f : Part → Part) : (s.onPart p f).lostPeers = s.lostPeers := rfl
@[simp] theorem State.onPart_delays (s : State) (p : Fin 16) (f : Part → Part) : (s.onPart p f).delays = s.delays := rfl
@[simp] theorem State.onPart_bloomAt (s : State) (p : Fin 16) (f : Part → Part) : (s.onPart p f).bloomAt = s.bloomAt := rfl
@[simp] theorem State.onPart_modNum (s : State) (p : Fin 16) (f : Part → Part) : (s.onPart p f).modNum = s.modNum := rfl
@[simp] theorem State.onPart_started (s : State) (p : Fin 16) (f : Part → Part) : (s.onPart p f).started = s.started := rfl
@[simp] theorem State.onPart_cores (s : State) (p : Fin 16) (f : Part → Part) : (s.onPart p f).cores = s.cores := rfl

/-! ## State.onIng -/

@[simp] theorem State.onIng_agenda (s : State) (n : Fin 16) (f : Ingress → Ingress) : (s.onIng n f).agenda = s.agenda := rfl
@[simp] theorem State.onIng_focus (s : State) (n : Fin 16) (f : Ingress → Ingress) : (s.onIng n f).focus = s.focus := rfl
@[simp] theorem State.onIng_ticket (s : State) (n : Fin 16) (f : Ingress → Ingress) : (s.onIng n f).ticket = s.ticket := rfl
@[simp] theorem State.onIng_power (s : State) (n : Fin 16) (f : Ingress → Ingress) : (s.onIng n f).power = s.power := rfl
@[simp] theorem State.onIng_throttled (s : State) (n : Fin 16) (f : Ingress → Ingress) : (s.onIng n f).throttled = s.throttled := rfl
@[simp] theorem State.onIng_bringUp (s : State) (n : Fin 16) (f : Ingress → Ingress) : (s.onIng n f).bringUp = s.bringUp := rfl
@[simp] theorem State.onIng_wcc (s : State) (n : Fin 16) (f : Ingress → Ingress) : (s.onIng n f).wcc = s.wcc := rfl
@[simp] theorem State.onIng_locked (s : State) (n : Fin 16) (f : Ingress → Ingress) : (s.onIng n f).locked = s.locked := rfl
@[simp] theorem State.onIng_lastSlew (s : State) (n : Fin 16) (f : Ingress → Ingress) : (s.onIng n f).lastSlew = s.lastSlew := rfl
@[simp] theorem State.onIng_slew (s : State) (n : Fin 16) (f : Ingress → Ingress) : (s.onIng n f).slew = s.slew := rfl
@[simp] theorem State.onIng_economy (s : State) (n : Fin 16) (f : Ingress → Ingress) : (s.onIng n f).economy = s.economy := rfl
@[simp] theorem State.onIng_caps (s : State) (n : Fin 16) (f : Ingress → Ingress) : (s.onIng n f).caps = s.caps := rfl
@[simp] theorem State.onIng_healthReg (s : State) (n : Fin 16) (f : Ingress → Ingress) : (s.onIng n f).healthReg = s.healthReg := rfl
@[simp] theorem State.onIng_health (s : State) (n : Fin 16) (f : Ingress → Ingress) : (s.onIng n f).health = s.health := rfl
@[simp] theorem State.onIng_inForce (s : State) (n : Fin 16) (f : Ingress → Ingress) : (s.onIng n f).inForce = s.inForce := rfl
@[simp] theorem State.onIng_healthGen (s : State) (n : Fin 16) (f : Ingress → Ingress) : (s.onIng n f).healthGen = s.healthGen := rfl
@[simp] theorem State.onIng_healthSeal (s : State) (n : Fin 16) (f : Ingress → Ingress) : (s.onIng n f).healthSeal = s.healthSeal := rfl
@[simp] theorem State.onIng_defects (s : State) (n : Fin 16) (f : Ingress → Ingress) : (s.onIng n f).defects = s.defects := rfl
@[simp] theorem State.onIng_identity (s : State) (n : Fin 16) (f : Ingress → Ingress) : (s.onIng n f).identity = s.identity := rfl
@[simp] theorem State.onIng_asked (s : State) (n : Fin 16) (f : Ingress → Ingress) : (s.onIng n f).asked = s.asked := rfl
@[simp] theorem State.onIng_errCounts (s : State) (n : Fin 16) (f : Ingress → Ingress) : (s.onIng n f).errCounts = s.errCounts := rfl
@[simp] theorem State.onIng_errors (s : State) (n : Fin 16) (f : Ingress → Ingress) : (s.onIng n f).errors = s.errors := rfl
@[simp] theorem State.onIng_throttles (s : State) (n : Fin 16) (f : Ingress → Ingress) : (s.onIng n f).throttles = s.throttles := rfl
@[simp] theorem State.onIng_pager (s : State) (n : Fin 16) (f : Ingress → Ingress) : (s.onIng n f).pager = s.pager := rfl
@[simp] theorem State.onIng_lostCxl (s : State) (n : Fin 16) (f : Ingress → Ingress) : (s.onIng n f).lostCxl = s.lostCxl := rfl
@[simp] theorem State.onIng_holes (s : State) (n : Fin 16) (f : Ingress → Ingress) : (s.onIng n f).holes = s.holes := rfl
@[simp] theorem State.onIng_spareTest (s : State) (n : Fin 16) (f : Ingress → Ingress) : (s.onIng n f).spareTest = s.spareTest := rfl
@[simp] theorem State.onIng_withdrawals (s : State) (n : Fin 16) (f : Ingress → Ingress) : (s.onIng n f).withdrawals = s.withdrawals := rfl
@[simp] theorem State.onIng_events (s : State) (n : Fin 16) (f : Ingress → Ingress) : (s.onIng n f).events = s.events := rfl
@[simp] theorem State.onIng_mgmt (s : State) (n : Fin 16) (f : Ingress → Ingress) : (s.onIng n f).mgmt = s.mgmt := rfl
@[simp] theorem State.onIng_answers (s : State) (n : Fin 16) (f : Ingress → Ingress) : (s.onIng n f).answers = s.answers := rfl
@[simp] theorem State.onIng_regions (s : State) (n : Fin 16) (f : Ingress → Ingress) : (s.onIng n f).regions = s.regions := rfl
@[simp] theorem State.onIng_keyTable (s : State) (n : Fin 16) (f : Ingress → Ingress) : (s.onIng n f).keyTable = s.keyTable := rfl
@[simp] theorem State.onIng_sealed (s : State) (n : Fin 16) (f : Ingress → Ingress) : (s.onIng n f).sealed = s.sealed := rfl
@[simp] theorem State.onIng_snapshots (s : State) (n : Fin 16) (f : Ingress → Ingress) : (s.onIng n f).snapshots = s.snapshots := rfl
@[simp] theorem State.onIng_pmem (s : State) (n : Fin 16) (f : Ingress → Ingress) : (s.onIng n f).pmem = s.pmem := rfl
@[simp] theorem State.onIng_smem (s : State) (n : Fin 16) (f : Ingress → Ingress) : (s.onIng n f).smem = s.smem := rfl
@[simp] theorem State.onIng_slices (s : State) (n : Fin 16) (f : Ingress → Ingress) : (s.onIng n f).slices = s.slices := rfl
@[simp] theorem State.onIng_reqs (s : State) (n : Fin 16) (f : Ingress → Ingress) : (s.onIng n f).reqs = s.reqs := rfl
@[simp] theorem State.onIng_nextReq (s : State) (n : Fin 16) (f : Ingress → Ingress) : (s.onIng n f).nextReq = s.nextReq := rfl
@[simp] theorem State.onIng_agentLts (s : State) (n : Fin 16) (f : Ingress → Ingress) : (s.onIng n f).agentLts = s.agentLts := rfl
@[simp] theorem State.onIng_roots (s : State) (n : Fin 16) (f : Ingress → Ingress) : (s.onIng n f).roots = s.roots := rfl
@[simp] theorem State.onIng_agentTlb (s : State) (n : Fin 16) (f : Ingress → Ingress) : (s.onIng n f).agentTlb = s.agentTlb := rfl
@[simp] theorem State.onIng_walks (s : State) (n : Fin 16) (f : Ingress → Ingress) : (s.onIng n f).walks = s.walks := rfl
@[simp] theorem State.onIng_shoot (s : State) (n : Fin 16) (f : Ingress → Ingress) : (s.onIng n f).shoot = s.shoot := rfl
@[simp] theorem State.onIng_tokens (s : State) (n : Fin 16) (f : Ingress → Ingress) : (s.onIng n f).tokens = s.tokens := rfl
@[simp] theorem State.onIng_jobs (s : State) (n : Fin 16) (f : Ingress → Ingress) : (s.onIng n f).jobs = s.jobs := rfl
@[simp] theorem State.onIng_backDone (s : State) (n : Fin 16) (f : Ingress → Ingress) : (s.onIng n f).backDone = s.backDone := rfl
@[simp] theorem State.onIng_eccBad (s : State) (n : Fin 16) (f : Ingress → Ingress) : (s.onIng n f).eccBad = s.eccBad := rfl
@[simp] theorem State.onIng_parts (s : State) (n : Fin 16) (f : Ingress → Ingress) : (s.onIng n f).parts = s.parts := rfl
@[simp] theorem State.onIng_routers (s : State) (n : Fin 16) (f : Ingress → Ingress) : (s.onIng n f).routers = s.routers := rfl
@[simp] theorem State.onIng_msgs (s : State) (n : Fin 16) (f : Ingress → Ingress) : (s.onIng n f).msgs = s.msgs := rfl
@[simp] theorem State.onIng_qdBase (s : State) (n : Fin 16) (f : Ingress → Ingress) : (s.onIng n f).qdBase = s.qdBase := rfl
@[simp] theorem State.onIng_qdCount (s : State) (n : Fin 16) (f : Ingress → Ingress) : (s.onIng n f).qdCount = s.qdCount := rfl
@[simp] theorem State.onIng_qdPart (s : State) (n : Fin 16) (f : Ingress → Ingress) : (s.onIng n f).qdPart = s.qdPart := rfl
@[simp] theorem State.onIng_congExp (s : State) (n : Fin 16) (f : Ingress → Ingress) : (s.onIng n f).congExp = s.congExp := rfl
@[simp] theorem State.onIng_verdict (s : State) (n : Fin 16) (f : Ingress → Ingress) : (s.onIng n f).verdict = s.verdict := rfl
@[simp] theorem State.onIng_store (s : State) (n : Fin 16) (f : Ingress → Ingress) : (s.onIng n f).store = s.store := rfl
@[simp] theorem State.onIng_mapCache (s : State) (n : Fin 16) (f : Ingress → Ingress) : (s.onIng n f).mapCache = s.mapCache := rfl
@[simp] theorem State.onIng_ctxs (s : State) (n : Fin 16) (f : Ingress → Ingress) : (s.onIng n f).ctxs = s.ctxs := rfl
@[simp] theorem State.onIng_preempt (s : State) (n : Fin 16) (f : Ingress → Ingress) : (s.onIng n f).preempt = s.preempt := rfl
@[simp] theorem State.onIng_tdis (s : State) (n : Fin 16) (f : Ingress → Ingress) : (s.onIng n f).tdis = s.tdis := rfl
@[simp] theorem State.onIng_stops (s : State) (n : Fin 16) (f : Ingress → Ingress) : (s.onIng n f).stops = s.stops := rfl
@[simp] theorem State.onIng_meas (s : State) (n : Fin 16) (f : Ingress → Ingress) : (s.onIng n f).meas = s.meas := rfl
@[simp] theorem State.onIng_bootFloor (s : State) (n : Fin 16) (f : Ingress → Ingress) : (s.onIng n f).bootFloor = s.bootFloor := rfl
@[simp] theorem State.onIng_peers (s : State) (n : Fin 16) (f : Ingress → Ingress) : (s.onIng n f).peers = s.peers := rfl
@[simp] theorem State.onIng_lostPeers (s : State) (n : Fin 16) (f : Ingress → Ingress) : (s.onIng n f).lostPeers = s.lostPeers := rfl
@[simp] theorem State.onIng_delays (s : State) (n : Fin 16) (f : Ingress → Ingress) : (s.onIng n f).delays = s.delays := rfl
@[simp] theorem State.onIng_bloomAt (s : State) (n : Fin 16) (f : Ingress → Ingress) : (s.onIng n f).bloomAt = s.bloomAt := rfl
@[simp] theorem State.onIng_modNum (s : State) (n : Fin 16) (f : Ingress → Ingress) : (s.onIng n f).modNum = s.modNum := rfl
@[simp] theorem State.onIng_started (s : State) (n : Fin 16) (f : Ingress → Ingress) : (s.onIng n f).started = s.started := rfl
@[simp] theorem State.onIng_cores (s : State) (n : Fin 16) (f : Ingress → Ingress) : (s.onIng n f).cores = s.cores := rfl

/-! ## State.onPreempt -/

@[simp] theorem State.onPreempt_agenda (s : State) (p : Fin 16) (f : Preempt → Preempt) : (s.onPreempt p f).agenda = s.agenda := rfl
@[simp] theorem State.onPreempt_focus (s : State) (p : Fin 16) (f : Preempt → Preempt) : (s.onPreempt p f).focus = s.focus := rfl
@[simp] theorem State.onPreempt_ticket (s : State) (p : Fin 16) (f : Preempt → Preempt) : (s.onPreempt p f).ticket = s.ticket := rfl
@[simp] theorem State.onPreempt_power (s : State) (p : Fin 16) (f : Preempt → Preempt) : (s.onPreempt p f).power = s.power := rfl
@[simp] theorem State.onPreempt_throttled (s : State) (p : Fin 16) (f : Preempt → Preempt) : (s.onPreempt p f).throttled = s.throttled := rfl
@[simp] theorem State.onPreempt_bringUp (s : State) (p : Fin 16) (f : Preempt → Preempt) : (s.onPreempt p f).bringUp = s.bringUp := rfl
@[simp] theorem State.onPreempt_wcc (s : State) (p : Fin 16) (f : Preempt → Preempt) : (s.onPreempt p f).wcc = s.wcc := rfl
@[simp] theorem State.onPreempt_locked (s : State) (p : Fin 16) (f : Preempt → Preempt) : (s.onPreempt p f).locked = s.locked := rfl
@[simp] theorem State.onPreempt_lastSlew (s : State) (p : Fin 16) (f : Preempt → Preempt) : (s.onPreempt p f).lastSlew = s.lastSlew := rfl
@[simp] theorem State.onPreempt_slew (s : State) (p : Fin 16) (f : Preempt → Preempt) : (s.onPreempt p f).slew = s.slew := rfl
@[simp] theorem State.onPreempt_economy (s : State) (p : Fin 16) (f : Preempt → Preempt) : (s.onPreempt p f).economy = s.economy := rfl
@[simp] theorem State.onPreempt_caps (s : State) (p : Fin 16) (f : Preempt → Preempt) : (s.onPreempt p f).caps = s.caps := rfl
@[simp] theorem State.onPreempt_healthReg (s : State) (p : Fin 16) (f : Preempt → Preempt) : (s.onPreempt p f).healthReg = s.healthReg := rfl
@[simp] theorem State.onPreempt_health (s : State) (p : Fin 16) (f : Preempt → Preempt) : (s.onPreempt p f).health = s.health := rfl
@[simp] theorem State.onPreempt_inForce (s : State) (p : Fin 16) (f : Preempt → Preempt) : (s.onPreempt p f).inForce = s.inForce := rfl
@[simp] theorem State.onPreempt_healthGen (s : State) (p : Fin 16) (f : Preempt → Preempt) : (s.onPreempt p f).healthGen = s.healthGen := rfl
@[simp] theorem State.onPreempt_healthSeal (s : State) (p : Fin 16) (f : Preempt → Preempt) : (s.onPreempt p f).healthSeal = s.healthSeal := rfl
@[simp] theorem State.onPreempt_defects (s : State) (p : Fin 16) (f : Preempt → Preempt) : (s.onPreempt p f).defects = s.defects := rfl
@[simp] theorem State.onPreempt_identity (s : State) (p : Fin 16) (f : Preempt → Preempt) : (s.onPreempt p f).identity = s.identity := rfl
@[simp] theorem State.onPreempt_asked (s : State) (p : Fin 16) (f : Preempt → Preempt) : (s.onPreempt p f).asked = s.asked := rfl
@[simp] theorem State.onPreempt_errCounts (s : State) (p : Fin 16) (f : Preempt → Preempt) : (s.onPreempt p f).errCounts = s.errCounts := rfl
@[simp] theorem State.onPreempt_errors (s : State) (p : Fin 16) (f : Preempt → Preempt) : (s.onPreempt p f).errors = s.errors := rfl
@[simp] theorem State.onPreempt_throttles (s : State) (p : Fin 16) (f : Preempt → Preempt) : (s.onPreempt p f).throttles = s.throttles := rfl
@[simp] theorem State.onPreempt_pager (s : State) (p : Fin 16) (f : Preempt → Preempt) : (s.onPreempt p f).pager = s.pager := rfl
@[simp] theorem State.onPreempt_lostCxl (s : State) (p : Fin 16) (f : Preempt → Preempt) : (s.onPreempt p f).lostCxl = s.lostCxl := rfl
@[simp] theorem State.onPreempt_holes (s : State) (p : Fin 16) (f : Preempt → Preempt) : (s.onPreempt p f).holes = s.holes := rfl
@[simp] theorem State.onPreempt_spareTest (s : State) (p : Fin 16) (f : Preempt → Preempt) : (s.onPreempt p f).spareTest = s.spareTest := rfl
@[simp] theorem State.onPreempt_withdrawals (s : State) (p : Fin 16) (f : Preempt → Preempt) : (s.onPreempt p f).withdrawals = s.withdrawals := rfl
@[simp] theorem State.onPreempt_events (s : State) (p : Fin 16) (f : Preempt → Preempt) : (s.onPreempt p f).events = s.events := rfl
@[simp] theorem State.onPreempt_mgmt (s : State) (p : Fin 16) (f : Preempt → Preempt) : (s.onPreempt p f).mgmt = s.mgmt := rfl
@[simp] theorem State.onPreempt_answers (s : State) (p : Fin 16) (f : Preempt → Preempt) : (s.onPreempt p f).answers = s.answers := rfl
@[simp] theorem State.onPreempt_regions (s : State) (p : Fin 16) (f : Preempt → Preempt) : (s.onPreempt p f).regions = s.regions := rfl
@[simp] theorem State.onPreempt_keyTable (s : State) (p : Fin 16) (f : Preempt → Preempt) : (s.onPreempt p f).keyTable = s.keyTable := rfl
@[simp] theorem State.onPreempt_sealed (s : State) (p : Fin 16) (f : Preempt → Preempt) : (s.onPreempt p f).sealed = s.sealed := rfl
@[simp] theorem State.onPreempt_snapshots (s : State) (p : Fin 16) (f : Preempt → Preempt) : (s.onPreempt p f).snapshots = s.snapshots := rfl
@[simp] theorem State.onPreempt_pmem (s : State) (p : Fin 16) (f : Preempt → Preempt) : (s.onPreempt p f).pmem = s.pmem := rfl
@[simp] theorem State.onPreempt_smem (s : State) (p : Fin 16) (f : Preempt → Preempt) : (s.onPreempt p f).smem = s.smem := rfl
@[simp] theorem State.onPreempt_slices (s : State) (p : Fin 16) (f : Preempt → Preempt) : (s.onPreempt p f).slices = s.slices := rfl
@[simp] theorem State.onPreempt_reqs (s : State) (p : Fin 16) (f : Preempt → Preempt) : (s.onPreempt p f).reqs = s.reqs := rfl
@[simp] theorem State.onPreempt_nextReq (s : State) (p : Fin 16) (f : Preempt → Preempt) : (s.onPreempt p f).nextReq = s.nextReq := rfl
@[simp] theorem State.onPreempt_agentLts (s : State) (p : Fin 16) (f : Preempt → Preempt) : (s.onPreempt p f).agentLts = s.agentLts := rfl
@[simp] theorem State.onPreempt_roots (s : State) (p : Fin 16) (f : Preempt → Preempt) : (s.onPreempt p f).roots = s.roots := rfl
@[simp] theorem State.onPreempt_agentTlb (s : State) (p : Fin 16) (f : Preempt → Preempt) : (s.onPreempt p f).agentTlb = s.agentTlb := rfl
@[simp] theorem State.onPreempt_walks (s : State) (p : Fin 16) (f : Preempt → Preempt) : (s.onPreempt p f).walks = s.walks := rfl
@[simp] theorem State.onPreempt_shoot (s : State) (p : Fin 16) (f : Preempt → Preempt) : (s.onPreempt p f).shoot = s.shoot := rfl
@[simp] theorem State.onPreempt_tokens (s : State) (p : Fin 16) (f : Preempt → Preempt) : (s.onPreempt p f).tokens = s.tokens := rfl
@[simp] theorem State.onPreempt_jobs (s : State) (p : Fin 16) (f : Preempt → Preempt) : (s.onPreempt p f).jobs = s.jobs := rfl
@[simp] theorem State.onPreempt_backDone (s : State) (p : Fin 16) (f : Preempt → Preempt) : (s.onPreempt p f).backDone = s.backDone := rfl
@[simp] theorem State.onPreempt_eccBad (s : State) (p : Fin 16) (f : Preempt → Preempt) : (s.onPreempt p f).eccBad = s.eccBad := rfl
@[simp] theorem State.onPreempt_parts (s : State) (p : Fin 16) (f : Preempt → Preempt) : (s.onPreempt p f).parts = s.parts := rfl
@[simp] theorem State.onPreempt_routers (s : State) (p : Fin 16) (f : Preempt → Preempt) : (s.onPreempt p f).routers = s.routers := rfl
@[simp] theorem State.onPreempt_msgs (s : State) (p : Fin 16) (f : Preempt → Preempt) : (s.onPreempt p f).msgs = s.msgs := rfl
@[simp] theorem State.onPreempt_qdBase (s : State) (p : Fin 16) (f : Preempt → Preempt) : (s.onPreempt p f).qdBase = s.qdBase := rfl
@[simp] theorem State.onPreempt_qdCount (s : State) (p : Fin 16) (f : Preempt → Preempt) : (s.onPreempt p f).qdCount = s.qdCount := rfl
@[simp] theorem State.onPreempt_qdPart (s : State) (p : Fin 16) (f : Preempt → Preempt) : (s.onPreempt p f).qdPart = s.qdPart := rfl
@[simp] theorem State.onPreempt_congExp (s : State) (p : Fin 16) (f : Preempt → Preempt) : (s.onPreempt p f).congExp = s.congExp := rfl
@[simp] theorem State.onPreempt_verdict (s : State) (p : Fin 16) (f : Preempt → Preempt) : (s.onPreempt p f).verdict = s.verdict := rfl
@[simp] theorem State.onPreempt_ing (s : State) (p : Fin 16) (f : Preempt → Preempt) : (s.onPreempt p f).ing = s.ing := rfl
@[simp] theorem State.onPreempt_store (s : State) (p : Fin 16) (f : Preempt → Preempt) : (s.onPreempt p f).store = s.store := rfl
@[simp] theorem State.onPreempt_mapCache (s : State) (p : Fin 16) (f : Preempt → Preempt) : (s.onPreempt p f).mapCache = s.mapCache := rfl
@[simp] theorem State.onPreempt_ctxs (s : State) (p : Fin 16) (f : Preempt → Preempt) : (s.onPreempt p f).ctxs = s.ctxs := rfl
@[simp] theorem State.onPreempt_tdis (s : State) (p : Fin 16) (f : Preempt → Preempt) : (s.onPreempt p f).tdis = s.tdis := rfl
@[simp] theorem State.onPreempt_stops (s : State) (p : Fin 16) (f : Preempt → Preempt) : (s.onPreempt p f).stops = s.stops := rfl
@[simp] theorem State.onPreempt_meas (s : State) (p : Fin 16) (f : Preempt → Preempt) : (s.onPreempt p f).meas = s.meas := rfl
@[simp] theorem State.onPreempt_bootFloor (s : State) (p : Fin 16) (f : Preempt → Preempt) : (s.onPreempt p f).bootFloor = s.bootFloor := rfl
@[simp] theorem State.onPreempt_peers (s : State) (p : Fin 16) (f : Preempt → Preempt) : (s.onPreempt p f).peers = s.peers := rfl
@[simp] theorem State.onPreempt_lostPeers (s : State) (p : Fin 16) (f : Preempt → Preempt) : (s.onPreempt p f).lostPeers = s.lostPeers := rfl
@[simp] theorem State.onPreempt_delays (s : State) (p : Fin 16) (f : Preempt → Preempt) : (s.onPreempt p f).delays = s.delays := rfl
@[simp] theorem State.onPreempt_bloomAt (s : State) (p : Fin 16) (f : Preempt → Preempt) : (s.onPreempt p f).bloomAt = s.bloomAt := rfl
@[simp] theorem State.onPreempt_modNum (s : State) (p : Fin 16) (f : Preempt → Preempt) : (s.onPreempt p f).modNum = s.modNum := rfl
@[simp] theorem State.onPreempt_started (s : State) (p : Fin 16) (f : Preempt → Preempt) : (s.onPreempt p f).started = s.started := rfl
@[simp] theorem State.onPreempt_cores (s : State) (p : Fin 16) (f : Preempt → Preempt) : (s.onPreempt p f).cores = s.cores := rfl

/-! ## State.onTdi -/

@[simp] theorem State.onTdi_agenda (s : State) (i : Fin 16) (f : Tdi → Tdi) : (s.onTdi i f).agenda = s.agenda := rfl
@[simp] theorem State.onTdi_focus (s : State) (i : Fin 16) (f : Tdi → Tdi) : (s.onTdi i f).focus = s.focus := rfl
@[simp] theorem State.onTdi_ticket (s : State) (i : Fin 16) (f : Tdi → Tdi) : (s.onTdi i f).ticket = s.ticket := rfl
@[simp] theorem State.onTdi_power (s : State) (i : Fin 16) (f : Tdi → Tdi) : (s.onTdi i f).power = s.power := rfl
@[simp] theorem State.onTdi_throttled (s : State) (i : Fin 16) (f : Tdi → Tdi) : (s.onTdi i f).throttled = s.throttled := rfl
@[simp] theorem State.onTdi_bringUp (s : State) (i : Fin 16) (f : Tdi → Tdi) : (s.onTdi i f).bringUp = s.bringUp := rfl
@[simp] theorem State.onTdi_wcc (s : State) (i : Fin 16) (f : Tdi → Tdi) : (s.onTdi i f).wcc = s.wcc := rfl
@[simp] theorem State.onTdi_locked (s : State) (i : Fin 16) (f : Tdi → Tdi) : (s.onTdi i f).locked = s.locked := rfl
@[simp] theorem State.onTdi_lastSlew (s : State) (i : Fin 16) (f : Tdi → Tdi) : (s.onTdi i f).lastSlew = s.lastSlew := rfl
@[simp] theorem State.onTdi_slew (s : State) (i : Fin 16) (f : Tdi → Tdi) : (s.onTdi i f).slew = s.slew := rfl
@[simp] theorem State.onTdi_economy (s : State) (i : Fin 16) (f : Tdi → Tdi) : (s.onTdi i f).economy = s.economy := rfl
@[simp] theorem State.onTdi_caps (s : State) (i : Fin 16) (f : Tdi → Tdi) : (s.onTdi i f).caps = s.caps := rfl
@[simp] theorem State.onTdi_healthReg (s : State) (i : Fin 16) (f : Tdi → Tdi) : (s.onTdi i f).healthReg = s.healthReg := rfl
@[simp] theorem State.onTdi_health (s : State) (i : Fin 16) (f : Tdi → Tdi) : (s.onTdi i f).health = s.health := rfl
@[simp] theorem State.onTdi_inForce (s : State) (i : Fin 16) (f : Tdi → Tdi) : (s.onTdi i f).inForce = s.inForce := rfl
@[simp] theorem State.onTdi_healthGen (s : State) (i : Fin 16) (f : Tdi → Tdi) : (s.onTdi i f).healthGen = s.healthGen := rfl
@[simp] theorem State.onTdi_healthSeal (s : State) (i : Fin 16) (f : Tdi → Tdi) : (s.onTdi i f).healthSeal = s.healthSeal := rfl
@[simp] theorem State.onTdi_defects (s : State) (i : Fin 16) (f : Tdi → Tdi) : (s.onTdi i f).defects = s.defects := rfl
@[simp] theorem State.onTdi_identity (s : State) (i : Fin 16) (f : Tdi → Tdi) : (s.onTdi i f).identity = s.identity := rfl
@[simp] theorem State.onTdi_asked (s : State) (i : Fin 16) (f : Tdi → Tdi) : (s.onTdi i f).asked = s.asked := rfl
@[simp] theorem State.onTdi_errCounts (s : State) (i : Fin 16) (f : Tdi → Tdi) : (s.onTdi i f).errCounts = s.errCounts := rfl
@[simp] theorem State.onTdi_errors (s : State) (i : Fin 16) (f : Tdi → Tdi) : (s.onTdi i f).errors = s.errors := rfl
@[simp] theorem State.onTdi_throttles (s : State) (i : Fin 16) (f : Tdi → Tdi) : (s.onTdi i f).throttles = s.throttles := rfl
@[simp] theorem State.onTdi_pager (s : State) (i : Fin 16) (f : Tdi → Tdi) : (s.onTdi i f).pager = s.pager := rfl
@[simp] theorem State.onTdi_lostCxl (s : State) (i : Fin 16) (f : Tdi → Tdi) : (s.onTdi i f).lostCxl = s.lostCxl := rfl
@[simp] theorem State.onTdi_holes (s : State) (i : Fin 16) (f : Tdi → Tdi) : (s.onTdi i f).holes = s.holes := rfl
@[simp] theorem State.onTdi_spareTest (s : State) (i : Fin 16) (f : Tdi → Tdi) : (s.onTdi i f).spareTest = s.spareTest := rfl
@[simp] theorem State.onTdi_withdrawals (s : State) (i : Fin 16) (f : Tdi → Tdi) : (s.onTdi i f).withdrawals = s.withdrawals := rfl
@[simp] theorem State.onTdi_events (s : State) (i : Fin 16) (f : Tdi → Tdi) : (s.onTdi i f).events = s.events := rfl
@[simp] theorem State.onTdi_mgmt (s : State) (i : Fin 16) (f : Tdi → Tdi) : (s.onTdi i f).mgmt = s.mgmt := rfl
@[simp] theorem State.onTdi_answers (s : State) (i : Fin 16) (f : Tdi → Tdi) : (s.onTdi i f).answers = s.answers := rfl
@[simp] theorem State.onTdi_regions (s : State) (i : Fin 16) (f : Tdi → Tdi) : (s.onTdi i f).regions = s.regions := rfl
@[simp] theorem State.onTdi_keyTable (s : State) (i : Fin 16) (f : Tdi → Tdi) : (s.onTdi i f).keyTable = s.keyTable := rfl
@[simp] theorem State.onTdi_sealed (s : State) (i : Fin 16) (f : Tdi → Tdi) : (s.onTdi i f).sealed = s.sealed := rfl
@[simp] theorem State.onTdi_snapshots (s : State) (i : Fin 16) (f : Tdi → Tdi) : (s.onTdi i f).snapshots = s.snapshots := rfl
@[simp] theorem State.onTdi_pmem (s : State) (i : Fin 16) (f : Tdi → Tdi) : (s.onTdi i f).pmem = s.pmem := rfl
@[simp] theorem State.onTdi_smem (s : State) (i : Fin 16) (f : Tdi → Tdi) : (s.onTdi i f).smem = s.smem := rfl
@[simp] theorem State.onTdi_slices (s : State) (i : Fin 16) (f : Tdi → Tdi) : (s.onTdi i f).slices = s.slices := rfl
@[simp] theorem State.onTdi_reqs (s : State) (i : Fin 16) (f : Tdi → Tdi) : (s.onTdi i f).reqs = s.reqs := rfl
@[simp] theorem State.onTdi_nextReq (s : State) (i : Fin 16) (f : Tdi → Tdi) : (s.onTdi i f).nextReq = s.nextReq := rfl
@[simp] theorem State.onTdi_agentLts (s : State) (i : Fin 16) (f : Tdi → Tdi) : (s.onTdi i f).agentLts = s.agentLts := rfl
@[simp] theorem State.onTdi_roots (s : State) (i : Fin 16) (f : Tdi → Tdi) : (s.onTdi i f).roots = s.roots := rfl
@[simp] theorem State.onTdi_agentTlb (s : State) (i : Fin 16) (f : Tdi → Tdi) : (s.onTdi i f).agentTlb = s.agentTlb := rfl
@[simp] theorem State.onTdi_walks (s : State) (i : Fin 16) (f : Tdi → Tdi) : (s.onTdi i f).walks = s.walks := rfl
@[simp] theorem State.onTdi_shoot (s : State) (i : Fin 16) (f : Tdi → Tdi) : (s.onTdi i f).shoot = s.shoot := rfl
@[simp] theorem State.onTdi_tokens (s : State) (i : Fin 16) (f : Tdi → Tdi) : (s.onTdi i f).tokens = s.tokens := rfl
@[simp] theorem State.onTdi_jobs (s : State) (i : Fin 16) (f : Tdi → Tdi) : (s.onTdi i f).jobs = s.jobs := rfl
@[simp] theorem State.onTdi_backDone (s : State) (i : Fin 16) (f : Tdi → Tdi) : (s.onTdi i f).backDone = s.backDone := rfl
@[simp] theorem State.onTdi_eccBad (s : State) (i : Fin 16) (f : Tdi → Tdi) : (s.onTdi i f).eccBad = s.eccBad := rfl
@[simp] theorem State.onTdi_parts (s : State) (i : Fin 16) (f : Tdi → Tdi) : (s.onTdi i f).parts = s.parts := rfl
@[simp] theorem State.onTdi_routers (s : State) (i : Fin 16) (f : Tdi → Tdi) : (s.onTdi i f).routers = s.routers := rfl
@[simp] theorem State.onTdi_msgs (s : State) (i : Fin 16) (f : Tdi → Tdi) : (s.onTdi i f).msgs = s.msgs := rfl
@[simp] theorem State.onTdi_qdBase (s : State) (i : Fin 16) (f : Tdi → Tdi) : (s.onTdi i f).qdBase = s.qdBase := rfl
@[simp] theorem State.onTdi_qdCount (s : State) (i : Fin 16) (f : Tdi → Tdi) : (s.onTdi i f).qdCount = s.qdCount := rfl
@[simp] theorem State.onTdi_qdPart (s : State) (i : Fin 16) (f : Tdi → Tdi) : (s.onTdi i f).qdPart = s.qdPart := rfl
@[simp] theorem State.onTdi_congExp (s : State) (i : Fin 16) (f : Tdi → Tdi) : (s.onTdi i f).congExp = s.congExp := rfl
@[simp] theorem State.onTdi_verdict (s : State) (i : Fin 16) (f : Tdi → Tdi) : (s.onTdi i f).verdict = s.verdict := rfl
@[simp] theorem State.onTdi_ing (s : State) (i : Fin 16) (f : Tdi → Tdi) : (s.onTdi i f).ing = s.ing := rfl
@[simp] theorem State.onTdi_store (s : State) (i : Fin 16) (f : Tdi → Tdi) : (s.onTdi i f).store = s.store := rfl
@[simp] theorem State.onTdi_mapCache (s : State) (i : Fin 16) (f : Tdi → Tdi) : (s.onTdi i f).mapCache = s.mapCache := rfl
@[simp] theorem State.onTdi_ctxs (s : State) (i : Fin 16) (f : Tdi → Tdi) : (s.onTdi i f).ctxs = s.ctxs := rfl
@[simp] theorem State.onTdi_preempt (s : State) (i : Fin 16) (f : Tdi → Tdi) : (s.onTdi i f).preempt = s.preempt := rfl
@[simp] theorem State.onTdi_stops (s : State) (i : Fin 16) (f : Tdi → Tdi) : (s.onTdi i f).stops = s.stops := rfl
@[simp] theorem State.onTdi_meas (s : State) (i : Fin 16) (f : Tdi → Tdi) : (s.onTdi i f).meas = s.meas := rfl
@[simp] theorem State.onTdi_bootFloor (s : State) (i : Fin 16) (f : Tdi → Tdi) : (s.onTdi i f).bootFloor = s.bootFloor := rfl
@[simp] theorem State.onTdi_peers (s : State) (i : Fin 16) (f : Tdi → Tdi) : (s.onTdi i f).peers = s.peers := rfl
@[simp] theorem State.onTdi_lostPeers (s : State) (i : Fin 16) (f : Tdi → Tdi) : (s.onTdi i f).lostPeers = s.lostPeers := rfl
@[simp] theorem State.onTdi_delays (s : State) (i : Fin 16) (f : Tdi → Tdi) : (s.onTdi i f).delays = s.delays := rfl
@[simp] theorem State.onTdi_bloomAt (s : State) (i : Fin 16) (f : Tdi → Tdi) : (s.onTdi i f).bloomAt = s.bloomAt := rfl
@[simp] theorem State.onTdi_modNum (s : State) (i : Fin 16) (f : Tdi → Tdi) : (s.onTdi i f).modNum = s.modNum := rfl
@[simp] theorem State.onTdi_started (s : State) (i : Fin 16) (f : Tdi → Tdi) : (s.onTdi i f).started = s.started := rfl
@[simp] theorem State.onTdi_cores (s : State) (i : Fin 16) (f : Tdi → Tdi) : (s.onTdi i f).cores = s.cores := rfl

/-! ## State.onReq -/

@[simp] theorem State.onReq_agenda (s : State) (i : Nat) (f : MemReq → MemReq) : (s.onReq i f).agenda = s.agenda := rfl
@[simp] theorem State.onReq_focus (s : State) (i : Nat) (f : MemReq → MemReq) : (s.onReq i f).focus = s.focus := rfl
@[simp] theorem State.onReq_ticket (s : State) (i : Nat) (f : MemReq → MemReq) : (s.onReq i f).ticket = s.ticket := rfl
@[simp] theorem State.onReq_power (s : State) (i : Nat) (f : MemReq → MemReq) : (s.onReq i f).power = s.power := rfl
@[simp] theorem State.onReq_throttled (s : State) (i : Nat) (f : MemReq → MemReq) : (s.onReq i f).throttled = s.throttled := rfl
@[simp] theorem State.onReq_bringUp (s : State) (i : Nat) (f : MemReq → MemReq) : (s.onReq i f).bringUp = s.bringUp := rfl
@[simp] theorem State.onReq_wcc (s : State) (i : Nat) (f : MemReq → MemReq) : (s.onReq i f).wcc = s.wcc := rfl
@[simp] theorem State.onReq_locked (s : State) (i : Nat) (f : MemReq → MemReq) : (s.onReq i f).locked = s.locked := rfl
@[simp] theorem State.onReq_lastSlew (s : State) (i : Nat) (f : MemReq → MemReq) : (s.onReq i f).lastSlew = s.lastSlew := rfl
@[simp] theorem State.onReq_slew (s : State) (i : Nat) (f : MemReq → MemReq) : (s.onReq i f).slew = s.slew := rfl
@[simp] theorem State.onReq_economy (s : State) (i : Nat) (f : MemReq → MemReq) : (s.onReq i f).economy = s.economy := rfl
@[simp] theorem State.onReq_caps (s : State) (i : Nat) (f : MemReq → MemReq) : (s.onReq i f).caps = s.caps := rfl
@[simp] theorem State.onReq_healthReg (s : State) (i : Nat) (f : MemReq → MemReq) : (s.onReq i f).healthReg = s.healthReg := rfl
@[simp] theorem State.onReq_health (s : State) (i : Nat) (f : MemReq → MemReq) : (s.onReq i f).health = s.health := rfl
@[simp] theorem State.onReq_inForce (s : State) (i : Nat) (f : MemReq → MemReq) : (s.onReq i f).inForce = s.inForce := rfl
@[simp] theorem State.onReq_healthGen (s : State) (i : Nat) (f : MemReq → MemReq) : (s.onReq i f).healthGen = s.healthGen := rfl
@[simp] theorem State.onReq_healthSeal (s : State) (i : Nat) (f : MemReq → MemReq) : (s.onReq i f).healthSeal = s.healthSeal := rfl
@[simp] theorem State.onReq_defects (s : State) (i : Nat) (f : MemReq → MemReq) : (s.onReq i f).defects = s.defects := rfl
@[simp] theorem State.onReq_identity (s : State) (i : Nat) (f : MemReq → MemReq) : (s.onReq i f).identity = s.identity := rfl
@[simp] theorem State.onReq_asked (s : State) (i : Nat) (f : MemReq → MemReq) : (s.onReq i f).asked = s.asked := rfl
@[simp] theorem State.onReq_errCounts (s : State) (i : Nat) (f : MemReq → MemReq) : (s.onReq i f).errCounts = s.errCounts := rfl
@[simp] theorem State.onReq_errors (s : State) (i : Nat) (f : MemReq → MemReq) : (s.onReq i f).errors = s.errors := rfl
@[simp] theorem State.onReq_throttles (s : State) (i : Nat) (f : MemReq → MemReq) : (s.onReq i f).throttles = s.throttles := rfl
@[simp] theorem State.onReq_pager (s : State) (i : Nat) (f : MemReq → MemReq) : (s.onReq i f).pager = s.pager := rfl
@[simp] theorem State.onReq_lostCxl (s : State) (i : Nat) (f : MemReq → MemReq) : (s.onReq i f).lostCxl = s.lostCxl := rfl
@[simp] theorem State.onReq_holes (s : State) (i : Nat) (f : MemReq → MemReq) : (s.onReq i f).holes = s.holes := rfl
@[simp] theorem State.onReq_spareTest (s : State) (i : Nat) (f : MemReq → MemReq) : (s.onReq i f).spareTest = s.spareTest := rfl
@[simp] theorem State.onReq_withdrawals (s : State) (i : Nat) (f : MemReq → MemReq) : (s.onReq i f).withdrawals = s.withdrawals := rfl
@[simp] theorem State.onReq_events (s : State) (i : Nat) (f : MemReq → MemReq) : (s.onReq i f).events = s.events := rfl
@[simp] theorem State.onReq_mgmt (s : State) (i : Nat) (f : MemReq → MemReq) : (s.onReq i f).mgmt = s.mgmt := rfl
@[simp] theorem State.onReq_answers (s : State) (i : Nat) (f : MemReq → MemReq) : (s.onReq i f).answers = s.answers := rfl
@[simp] theorem State.onReq_regions (s : State) (i : Nat) (f : MemReq → MemReq) : (s.onReq i f).regions = s.regions := rfl
@[simp] theorem State.onReq_keyTable (s : State) (i : Nat) (f : MemReq → MemReq) : (s.onReq i f).keyTable = s.keyTable := rfl
@[simp] theorem State.onReq_sealed (s : State) (i : Nat) (f : MemReq → MemReq) : (s.onReq i f).sealed = s.sealed := rfl
@[simp] theorem State.onReq_snapshots (s : State) (i : Nat) (f : MemReq → MemReq) : (s.onReq i f).snapshots = s.snapshots := rfl
@[simp] theorem State.onReq_pmem (s : State) (i : Nat) (f : MemReq → MemReq) : (s.onReq i f).pmem = s.pmem := rfl
@[simp] theorem State.onReq_smem (s : State) (i : Nat) (f : MemReq → MemReq) : (s.onReq i f).smem = s.smem := rfl
@[simp] theorem State.onReq_slices (s : State) (i : Nat) (f : MemReq → MemReq) : (s.onReq i f).slices = s.slices := rfl
@[simp] theorem State.onReq_nextReq (s : State) (i : Nat) (f : MemReq → MemReq) : (s.onReq i f).nextReq = s.nextReq := rfl
@[simp] theorem State.onReq_agentLts (s : State) (i : Nat) (f : MemReq → MemReq) : (s.onReq i f).agentLts = s.agentLts := rfl
@[simp] theorem State.onReq_roots (s : State) (i : Nat) (f : MemReq → MemReq) : (s.onReq i f).roots = s.roots := rfl
@[simp] theorem State.onReq_agentTlb (s : State) (i : Nat) (f : MemReq → MemReq) : (s.onReq i f).agentTlb = s.agentTlb := rfl
@[simp] theorem State.onReq_walks (s : State) (i : Nat) (f : MemReq → MemReq) : (s.onReq i f).walks = s.walks := rfl
@[simp] theorem State.onReq_shoot (s : State) (i : Nat) (f : MemReq → MemReq) : (s.onReq i f).shoot = s.shoot := rfl
@[simp] theorem State.onReq_tokens (s : State) (i : Nat) (f : MemReq → MemReq) : (s.onReq i f).tokens = s.tokens := rfl
@[simp] theorem State.onReq_jobs (s : State) (i : Nat) (f : MemReq → MemReq) : (s.onReq i f).jobs = s.jobs := rfl
@[simp] theorem State.onReq_backDone (s : State) (i : Nat) (f : MemReq → MemReq) : (s.onReq i f).backDone = s.backDone := rfl
@[simp] theorem State.onReq_eccBad (s : State) (i : Nat) (f : MemReq → MemReq) : (s.onReq i f).eccBad = s.eccBad := rfl
@[simp] theorem State.onReq_parts (s : State) (i : Nat) (f : MemReq → MemReq) : (s.onReq i f).parts = s.parts := rfl
@[simp] theorem State.onReq_routers (s : State) (i : Nat) (f : MemReq → MemReq) : (s.onReq i f).routers = s.routers := rfl
@[simp] theorem State.onReq_msgs (s : State) (i : Nat) (f : MemReq → MemReq) : (s.onReq i f).msgs = s.msgs := rfl
@[simp] theorem State.onReq_qdBase (s : State) (i : Nat) (f : MemReq → MemReq) : (s.onReq i f).qdBase = s.qdBase := rfl
@[simp] theorem State.onReq_qdCount (s : State) (i : Nat) (f : MemReq → MemReq) : (s.onReq i f).qdCount = s.qdCount := rfl
@[simp] theorem State.onReq_qdPart (s : State) (i : Nat) (f : MemReq → MemReq) : (s.onReq i f).qdPart = s.qdPart := rfl
@[simp] theorem State.onReq_congExp (s : State) (i : Nat) (f : MemReq → MemReq) : (s.onReq i f).congExp = s.congExp := rfl
@[simp] theorem State.onReq_verdict (s : State) (i : Nat) (f : MemReq → MemReq) : (s.onReq i f).verdict = s.verdict := rfl
@[simp] theorem State.onReq_ing (s : State) (i : Nat) (f : MemReq → MemReq) : (s.onReq i f).ing = s.ing := rfl
@[simp] theorem State.onReq_store (s : State) (i : Nat) (f : MemReq → MemReq) : (s.onReq i f).store = s.store := rfl
@[simp] theorem State.onReq_mapCache (s : State) (i : Nat) (f : MemReq → MemReq) : (s.onReq i f).mapCache = s.mapCache := rfl
@[simp] theorem State.onReq_ctxs (s : State) (i : Nat) (f : MemReq → MemReq) : (s.onReq i f).ctxs = s.ctxs := rfl
@[simp] theorem State.onReq_preempt (s : State) (i : Nat) (f : MemReq → MemReq) : (s.onReq i f).preempt = s.preempt := rfl
@[simp] theorem State.onReq_tdis (s : State) (i : Nat) (f : MemReq → MemReq) : (s.onReq i f).tdis = s.tdis := rfl
@[simp] theorem State.onReq_stops (s : State) (i : Nat) (f : MemReq → MemReq) : (s.onReq i f).stops = s.stops := rfl
@[simp] theorem State.onReq_meas (s : State) (i : Nat) (f : MemReq → MemReq) : (s.onReq i f).meas = s.meas := rfl
@[simp] theorem State.onReq_bootFloor (s : State) (i : Nat) (f : MemReq → MemReq) : (s.onReq i f).bootFloor = s.bootFloor := rfl
@[simp] theorem State.onReq_peers (s : State) (i : Nat) (f : MemReq → MemReq) : (s.onReq i f).peers = s.peers := rfl
@[simp] theorem State.onReq_lostPeers (s : State) (i : Nat) (f : MemReq → MemReq) : (s.onReq i f).lostPeers = s.lostPeers := rfl
@[simp] theorem State.onReq_delays (s : State) (i : Nat) (f : MemReq → MemReq) : (s.onReq i f).delays = s.delays := rfl
@[simp] theorem State.onReq_bloomAt (s : State) (i : Nat) (f : MemReq → MemReq) : (s.onReq i f).bloomAt = s.bloomAt := rfl
@[simp] theorem State.onReq_modNum (s : State) (i : Nat) (f : MemReq → MemReq) : (s.onReq i f).modNum = s.modNum := rfl
@[simp] theorem State.onReq_started (s : State) (i : Nat) (f : MemReq → MemReq) : (s.onReq i f).started = s.started := rfl
@[simp] theorem State.onReq_cores (s : State) (i : Nat) (f : MemReq → MemReq) : (s.onReq i f).cores = s.cores := rfl

/-! ## State.onWalk -/

@[simp] theorem State.onWalk_agenda (s : State) (i : Nat) (f : Walk → Walk) : (s.onWalk i f).agenda = s.agenda := rfl
@[simp] theorem State.onWalk_focus (s : State) (i : Nat) (f : Walk → Walk) : (s.onWalk i f).focus = s.focus := rfl
@[simp] theorem State.onWalk_ticket (s : State) (i : Nat) (f : Walk → Walk) : (s.onWalk i f).ticket = s.ticket := rfl
@[simp] theorem State.onWalk_power (s : State) (i : Nat) (f : Walk → Walk) : (s.onWalk i f).power = s.power := rfl
@[simp] theorem State.onWalk_throttled (s : State) (i : Nat) (f : Walk → Walk) : (s.onWalk i f).throttled = s.throttled := rfl
@[simp] theorem State.onWalk_bringUp (s : State) (i : Nat) (f : Walk → Walk) : (s.onWalk i f).bringUp = s.bringUp := rfl
@[simp] theorem State.onWalk_wcc (s : State) (i : Nat) (f : Walk → Walk) : (s.onWalk i f).wcc = s.wcc := rfl
@[simp] theorem State.onWalk_locked (s : State) (i : Nat) (f : Walk → Walk) : (s.onWalk i f).locked = s.locked := rfl
@[simp] theorem State.onWalk_lastSlew (s : State) (i : Nat) (f : Walk → Walk) : (s.onWalk i f).lastSlew = s.lastSlew := rfl
@[simp] theorem State.onWalk_slew (s : State) (i : Nat) (f : Walk → Walk) : (s.onWalk i f).slew = s.slew := rfl
@[simp] theorem State.onWalk_economy (s : State) (i : Nat) (f : Walk → Walk) : (s.onWalk i f).economy = s.economy := rfl
@[simp] theorem State.onWalk_caps (s : State) (i : Nat) (f : Walk → Walk) : (s.onWalk i f).caps = s.caps := rfl
@[simp] theorem State.onWalk_healthReg (s : State) (i : Nat) (f : Walk → Walk) : (s.onWalk i f).healthReg = s.healthReg := rfl
@[simp] theorem State.onWalk_health (s : State) (i : Nat) (f : Walk → Walk) : (s.onWalk i f).health = s.health := rfl
@[simp] theorem State.onWalk_inForce (s : State) (i : Nat) (f : Walk → Walk) : (s.onWalk i f).inForce = s.inForce := rfl
@[simp] theorem State.onWalk_healthGen (s : State) (i : Nat) (f : Walk → Walk) : (s.onWalk i f).healthGen = s.healthGen := rfl
@[simp] theorem State.onWalk_healthSeal (s : State) (i : Nat) (f : Walk → Walk) : (s.onWalk i f).healthSeal = s.healthSeal := rfl
@[simp] theorem State.onWalk_defects (s : State) (i : Nat) (f : Walk → Walk) : (s.onWalk i f).defects = s.defects := rfl
@[simp] theorem State.onWalk_identity (s : State) (i : Nat) (f : Walk → Walk) : (s.onWalk i f).identity = s.identity := rfl
@[simp] theorem State.onWalk_asked (s : State) (i : Nat) (f : Walk → Walk) : (s.onWalk i f).asked = s.asked := rfl
@[simp] theorem State.onWalk_errCounts (s : State) (i : Nat) (f : Walk → Walk) : (s.onWalk i f).errCounts = s.errCounts := rfl
@[simp] theorem State.onWalk_errors (s : State) (i : Nat) (f : Walk → Walk) : (s.onWalk i f).errors = s.errors := rfl
@[simp] theorem State.onWalk_throttles (s : State) (i : Nat) (f : Walk → Walk) : (s.onWalk i f).throttles = s.throttles := rfl
@[simp] theorem State.onWalk_pager (s : State) (i : Nat) (f : Walk → Walk) : (s.onWalk i f).pager = s.pager := rfl
@[simp] theorem State.onWalk_lostCxl (s : State) (i : Nat) (f : Walk → Walk) : (s.onWalk i f).lostCxl = s.lostCxl := rfl
@[simp] theorem State.onWalk_holes (s : State) (i : Nat) (f : Walk → Walk) : (s.onWalk i f).holes = s.holes := rfl
@[simp] theorem State.onWalk_spareTest (s : State) (i : Nat) (f : Walk → Walk) : (s.onWalk i f).spareTest = s.spareTest := rfl
@[simp] theorem State.onWalk_withdrawals (s : State) (i : Nat) (f : Walk → Walk) : (s.onWalk i f).withdrawals = s.withdrawals := rfl
@[simp] theorem State.onWalk_events (s : State) (i : Nat) (f : Walk → Walk) : (s.onWalk i f).events = s.events := rfl
@[simp] theorem State.onWalk_mgmt (s : State) (i : Nat) (f : Walk → Walk) : (s.onWalk i f).mgmt = s.mgmt := rfl
@[simp] theorem State.onWalk_answers (s : State) (i : Nat) (f : Walk → Walk) : (s.onWalk i f).answers = s.answers := rfl
@[simp] theorem State.onWalk_regions (s : State) (i : Nat) (f : Walk → Walk) : (s.onWalk i f).regions = s.regions := rfl
@[simp] theorem State.onWalk_keyTable (s : State) (i : Nat) (f : Walk → Walk) : (s.onWalk i f).keyTable = s.keyTable := rfl
@[simp] theorem State.onWalk_sealed (s : State) (i : Nat) (f : Walk → Walk) : (s.onWalk i f).sealed = s.sealed := rfl
@[simp] theorem State.onWalk_snapshots (s : State) (i : Nat) (f : Walk → Walk) : (s.onWalk i f).snapshots = s.snapshots := rfl
@[simp] theorem State.onWalk_pmem (s : State) (i : Nat) (f : Walk → Walk) : (s.onWalk i f).pmem = s.pmem := rfl
@[simp] theorem State.onWalk_smem (s : State) (i : Nat) (f : Walk → Walk) : (s.onWalk i f).smem = s.smem := rfl
@[simp] theorem State.onWalk_slices (s : State) (i : Nat) (f : Walk → Walk) : (s.onWalk i f).slices = s.slices := rfl
@[simp] theorem State.onWalk_reqs (s : State) (i : Nat) (f : Walk → Walk) : (s.onWalk i f).reqs = s.reqs := rfl
@[simp] theorem State.onWalk_nextReq (s : State) (i : Nat) (f : Walk → Walk) : (s.onWalk i f).nextReq = s.nextReq := rfl
@[simp] theorem State.onWalk_agentLts (s : State) (i : Nat) (f : Walk → Walk) : (s.onWalk i f).agentLts = s.agentLts := rfl
@[simp] theorem State.onWalk_roots (s : State) (i : Nat) (f : Walk → Walk) : (s.onWalk i f).roots = s.roots := rfl
@[simp] theorem State.onWalk_agentTlb (s : State) (i : Nat) (f : Walk → Walk) : (s.onWalk i f).agentTlb = s.agentTlb := rfl
@[simp] theorem State.onWalk_shoot (s : State) (i : Nat) (f : Walk → Walk) : (s.onWalk i f).shoot = s.shoot := rfl
@[simp] theorem State.onWalk_tokens (s : State) (i : Nat) (f : Walk → Walk) : (s.onWalk i f).tokens = s.tokens := rfl
@[simp] theorem State.onWalk_jobs (s : State) (i : Nat) (f : Walk → Walk) : (s.onWalk i f).jobs = s.jobs := rfl
@[simp] theorem State.onWalk_backDone (s : State) (i : Nat) (f : Walk → Walk) : (s.onWalk i f).backDone = s.backDone := rfl
@[simp] theorem State.onWalk_eccBad (s : State) (i : Nat) (f : Walk → Walk) : (s.onWalk i f).eccBad = s.eccBad := rfl
@[simp] theorem State.onWalk_parts (s : State) (i : Nat) (f : Walk → Walk) : (s.onWalk i f).parts = s.parts := rfl
@[simp] theorem State.onWalk_routers (s : State) (i : Nat) (f : Walk → Walk) : (s.onWalk i f).routers = s.routers := rfl
@[simp] theorem State.onWalk_msgs (s : State) (i : Nat) (f : Walk → Walk) : (s.onWalk i f).msgs = s.msgs := rfl
@[simp] theorem State.onWalk_qdBase (s : State) (i : Nat) (f : Walk → Walk) : (s.onWalk i f).qdBase = s.qdBase := rfl
@[simp] theorem State.onWalk_qdCount (s : State) (i : Nat) (f : Walk → Walk) : (s.onWalk i f).qdCount = s.qdCount := rfl
@[simp] theorem State.onWalk_qdPart (s : State) (i : Nat) (f : Walk → Walk) : (s.onWalk i f).qdPart = s.qdPart := rfl
@[simp] theorem State.onWalk_congExp (s : State) (i : Nat) (f : Walk → Walk) : (s.onWalk i f).congExp = s.congExp := rfl
@[simp] theorem State.onWalk_verdict (s : State) (i : Nat) (f : Walk → Walk) : (s.onWalk i f).verdict = s.verdict := rfl
@[simp] theorem State.onWalk_ing (s : State) (i : Nat) (f : Walk → Walk) : (s.onWalk i f).ing = s.ing := rfl
@[simp] theorem State.onWalk_store (s : State) (i : Nat) (f : Walk → Walk) : (s.onWalk i f).store = s.store := rfl
@[simp] theorem State.onWalk_mapCache (s : State) (i : Nat) (f : Walk → Walk) : (s.onWalk i f).mapCache = s.mapCache := rfl
@[simp] theorem State.onWalk_ctxs (s : State) (i : Nat) (f : Walk → Walk) : (s.onWalk i f).ctxs = s.ctxs := rfl
@[simp] theorem State.onWalk_preempt (s : State) (i : Nat) (f : Walk → Walk) : (s.onWalk i f).preempt = s.preempt := rfl
@[simp] theorem State.onWalk_tdis (s : State) (i : Nat) (f : Walk → Walk) : (s.onWalk i f).tdis = s.tdis := rfl
@[simp] theorem State.onWalk_stops (s : State) (i : Nat) (f : Walk → Walk) : (s.onWalk i f).stops = s.stops := rfl
@[simp] theorem State.onWalk_meas (s : State) (i : Nat) (f : Walk → Walk) : (s.onWalk i f).meas = s.meas := rfl
@[simp] theorem State.onWalk_bootFloor (s : State) (i : Nat) (f : Walk → Walk) : (s.onWalk i f).bootFloor = s.bootFloor := rfl
@[simp] theorem State.onWalk_peers (s : State) (i : Nat) (f : Walk → Walk) : (s.onWalk i f).peers = s.peers := rfl
@[simp] theorem State.onWalk_lostPeers (s : State) (i : Nat) (f : Walk → Walk) : (s.onWalk i f).lostPeers = s.lostPeers := rfl
@[simp] theorem State.onWalk_delays (s : State) (i : Nat) (f : Walk → Walk) : (s.onWalk i f).delays = s.delays := rfl
@[simp] theorem State.onWalk_bloomAt (s : State) (i : Nat) (f : Walk → Walk) : (s.onWalk i f).bloomAt = s.bloomAt := rfl
@[simp] theorem State.onWalk_modNum (s : State) (i : Nat) (f : Walk → Walk) : (s.onWalk i f).modNum = s.modNum := rfl
@[simp] theorem State.onWalk_started (s : State) (i : Nat) (f : Walk → Walk) : (s.onWalk i f).started = s.started := rfl
@[simp] theorem State.onWalk_cores (s : State) (i : Nat) (f : Walk → Walk) : (s.onWalk i f).cores = s.cores := rfl

/-! ## State.setSlice -/

@[simp] theorem State.setSlice_agenda (s : State) (k : Nat) (x : Slice) : (s.setSlice k x).agenda = s.agenda := rfl
@[simp] theorem State.setSlice_focus (s : State) (k : Nat) (x : Slice) : (s.setSlice k x).focus = s.focus := rfl
@[simp] theorem State.setSlice_ticket (s : State) (k : Nat) (x : Slice) : (s.setSlice k x).ticket = s.ticket := rfl
@[simp] theorem State.setSlice_power (s : State) (k : Nat) (x : Slice) : (s.setSlice k x).power = s.power := rfl
@[simp] theorem State.setSlice_throttled (s : State) (k : Nat) (x : Slice) : (s.setSlice k x).throttled = s.throttled := rfl
@[simp] theorem State.setSlice_bringUp (s : State) (k : Nat) (x : Slice) : (s.setSlice k x).bringUp = s.bringUp := rfl
@[simp] theorem State.setSlice_wcc (s : State) (k : Nat) (x : Slice) : (s.setSlice k x).wcc = s.wcc := rfl
@[simp] theorem State.setSlice_locked (s : State) (k : Nat) (x : Slice) : (s.setSlice k x).locked = s.locked := rfl
@[simp] theorem State.setSlice_lastSlew (s : State) (k : Nat) (x : Slice) : (s.setSlice k x).lastSlew = s.lastSlew := rfl
@[simp] theorem State.setSlice_slew (s : State) (k : Nat) (x : Slice) : (s.setSlice k x).slew = s.slew := rfl
@[simp] theorem State.setSlice_economy (s : State) (k : Nat) (x : Slice) : (s.setSlice k x).economy = s.economy := rfl
@[simp] theorem State.setSlice_caps (s : State) (k : Nat) (x : Slice) : (s.setSlice k x).caps = s.caps := rfl
@[simp] theorem State.setSlice_healthReg (s : State) (k : Nat) (x : Slice) : (s.setSlice k x).healthReg = s.healthReg := rfl
@[simp] theorem State.setSlice_health (s : State) (k : Nat) (x : Slice) : (s.setSlice k x).health = s.health := rfl
@[simp] theorem State.setSlice_inForce (s : State) (k : Nat) (x : Slice) : (s.setSlice k x).inForce = s.inForce := rfl
@[simp] theorem State.setSlice_healthGen (s : State) (k : Nat) (x : Slice) : (s.setSlice k x).healthGen = s.healthGen := rfl
@[simp] theorem State.setSlice_healthSeal (s : State) (k : Nat) (x : Slice) : (s.setSlice k x).healthSeal = s.healthSeal := rfl
@[simp] theorem State.setSlice_defects (s : State) (k : Nat) (x : Slice) : (s.setSlice k x).defects = s.defects := rfl
@[simp] theorem State.setSlice_identity (s : State) (k : Nat) (x : Slice) : (s.setSlice k x).identity = s.identity := rfl
@[simp] theorem State.setSlice_asked (s : State) (k : Nat) (x : Slice) : (s.setSlice k x).asked = s.asked := rfl
@[simp] theorem State.setSlice_errCounts (s : State) (k : Nat) (x : Slice) : (s.setSlice k x).errCounts = s.errCounts := rfl
@[simp] theorem State.setSlice_errors (s : State) (k : Nat) (x : Slice) : (s.setSlice k x).errors = s.errors := rfl
@[simp] theorem State.setSlice_throttles (s : State) (k : Nat) (x : Slice) : (s.setSlice k x).throttles = s.throttles := rfl
@[simp] theorem State.setSlice_pager (s : State) (k : Nat) (x : Slice) : (s.setSlice k x).pager = s.pager := rfl
@[simp] theorem State.setSlice_lostCxl (s : State) (k : Nat) (x : Slice) : (s.setSlice k x).lostCxl = s.lostCxl := rfl
@[simp] theorem State.setSlice_holes (s : State) (k : Nat) (x : Slice) : (s.setSlice k x).holes = s.holes := rfl
@[simp] theorem State.setSlice_spareTest (s : State) (k : Nat) (x : Slice) : (s.setSlice k x).spareTest = s.spareTest := rfl
@[simp] theorem State.setSlice_withdrawals (s : State) (k : Nat) (x : Slice) : (s.setSlice k x).withdrawals = s.withdrawals := rfl
@[simp] theorem State.setSlice_events (s : State) (k : Nat) (x : Slice) : (s.setSlice k x).events = s.events := rfl
@[simp] theorem State.setSlice_mgmt (s : State) (k : Nat) (x : Slice) : (s.setSlice k x).mgmt = s.mgmt := rfl
@[simp] theorem State.setSlice_answers (s : State) (k : Nat) (x : Slice) : (s.setSlice k x).answers = s.answers := rfl
@[simp] theorem State.setSlice_regions (s : State) (k : Nat) (x : Slice) : (s.setSlice k x).regions = s.regions := rfl
@[simp] theorem State.setSlice_keyTable (s : State) (k : Nat) (x : Slice) : (s.setSlice k x).keyTable = s.keyTable := rfl
@[simp] theorem State.setSlice_sealed (s : State) (k : Nat) (x : Slice) : (s.setSlice k x).sealed = s.sealed := rfl
@[simp] theorem State.setSlice_snapshots (s : State) (k : Nat) (x : Slice) : (s.setSlice k x).snapshots = s.snapshots := rfl
@[simp] theorem State.setSlice_pmem (s : State) (k : Nat) (x : Slice) : (s.setSlice k x).pmem = s.pmem := rfl
@[simp] theorem State.setSlice_smem (s : State) (k : Nat) (x : Slice) : (s.setSlice k x).smem = s.smem := rfl
@[simp] theorem State.setSlice_reqs (s : State) (k : Nat) (x : Slice) : (s.setSlice k x).reqs = s.reqs := rfl
@[simp] theorem State.setSlice_nextReq (s : State) (k : Nat) (x : Slice) : (s.setSlice k x).nextReq = s.nextReq := rfl
@[simp] theorem State.setSlice_agentLts (s : State) (k : Nat) (x : Slice) : (s.setSlice k x).agentLts = s.agentLts := rfl
@[simp] theorem State.setSlice_roots (s : State) (k : Nat) (x : Slice) : (s.setSlice k x).roots = s.roots := rfl
@[simp] theorem State.setSlice_agentTlb (s : State) (k : Nat) (x : Slice) : (s.setSlice k x).agentTlb = s.agentTlb := rfl
@[simp] theorem State.setSlice_walks (s : State) (k : Nat) (x : Slice) : (s.setSlice k x).walks = s.walks := rfl
@[simp] theorem State.setSlice_shoot (s : State) (k : Nat) (x : Slice) : (s.setSlice k x).shoot = s.shoot := rfl
@[simp] theorem State.setSlice_tokens (s : State) (k : Nat) (x : Slice) : (s.setSlice k x).tokens = s.tokens := rfl
@[simp] theorem State.setSlice_jobs (s : State) (k : Nat) (x : Slice) : (s.setSlice k x).jobs = s.jobs := rfl
@[simp] theorem State.setSlice_backDone (s : State) (k : Nat) (x : Slice) : (s.setSlice k x).backDone = s.backDone := rfl
@[simp] theorem State.setSlice_eccBad (s : State) (k : Nat) (x : Slice) : (s.setSlice k x).eccBad = s.eccBad := rfl
@[simp] theorem State.setSlice_parts (s : State) (k : Nat) (x : Slice) : (s.setSlice k x).parts = s.parts := rfl
@[simp] theorem State.setSlice_routers (s : State) (k : Nat) (x : Slice) : (s.setSlice k x).routers = s.routers := rfl
@[simp] theorem State.setSlice_msgs (s : State) (k : Nat) (x : Slice) : (s.setSlice k x).msgs = s.msgs := rfl
@[simp] theorem State.setSlice_qdBase (s : State) (k : Nat) (x : Slice) : (s.setSlice k x).qdBase = s.qdBase := rfl
@[simp] theorem State.setSlice_qdCount (s : State) (k : Nat) (x : Slice) : (s.setSlice k x).qdCount = s.qdCount := rfl
@[simp] theorem State.setSlice_qdPart (s : State) (k : Nat) (x : Slice) : (s.setSlice k x).qdPart = s.qdPart := rfl
@[simp] theorem State.setSlice_congExp (s : State) (k : Nat) (x : Slice) : (s.setSlice k x).congExp = s.congExp := rfl
@[simp] theorem State.setSlice_verdict (s : State) (k : Nat) (x : Slice) : (s.setSlice k x).verdict = s.verdict := rfl
@[simp] theorem State.setSlice_ing (s : State) (k : Nat) (x : Slice) : (s.setSlice k x).ing = s.ing := rfl
@[simp] theorem State.setSlice_store (s : State) (k : Nat) (x : Slice) : (s.setSlice k x).store = s.store := rfl
@[simp] theorem State.setSlice_mapCache (s : State) (k : Nat) (x : Slice) : (s.setSlice k x).mapCache = s.mapCache := rfl
@[simp] theorem State.setSlice_ctxs (s : State) (k : Nat) (x : Slice) : (s.setSlice k x).ctxs = s.ctxs := rfl
@[simp] theorem State.setSlice_preempt (s : State) (k : Nat) (x : Slice) : (s.setSlice k x).preempt = s.preempt := rfl
@[simp] theorem State.setSlice_tdis (s : State) (k : Nat) (x : Slice) : (s.setSlice k x).tdis = s.tdis := rfl
@[simp] theorem State.setSlice_stops (s : State) (k : Nat) (x : Slice) : (s.setSlice k x).stops = s.stops := rfl
@[simp] theorem State.setSlice_meas (s : State) (k : Nat) (x : Slice) : (s.setSlice k x).meas = s.meas := rfl
@[simp] theorem State.setSlice_bootFloor (s : State) (k : Nat) (x : Slice) : (s.setSlice k x).bootFloor = s.bootFloor := rfl
@[simp] theorem State.setSlice_peers (s : State) (k : Nat) (x : Slice) : (s.setSlice k x).peers = s.peers := rfl
@[simp] theorem State.setSlice_lostPeers (s : State) (k : Nat) (x : Slice) : (s.setSlice k x).lostPeers = s.lostPeers := rfl
@[simp] theorem State.setSlice_delays (s : State) (k : Nat) (x : Slice) : (s.setSlice k x).delays = s.delays := rfl
@[simp] theorem State.setSlice_bloomAt (s : State) (k : Nat) (x : Slice) : (s.setSlice k x).bloomAt = s.bloomAt := rfl
@[simp] theorem State.setSlice_modNum (s : State) (k : Nat) (x : Slice) : (s.setSlice k x).modNum = s.modNum := rfl
@[simp] theorem State.setSlice_started (s : State) (k : Nat) (x : Slice) : (s.setSlice k x).started = s.started := rfl
@[simp] theorem State.setSlice_cores (s : State) (k : Nat) (x : Slice) : (s.setSlice k x).cores = s.cores := rfl

/-! ## State.onGate -/

@[simp] theorem State.onGate_agenda (s : State) (g : GateId) (f : Gate → Gate) : (s.onGate g f).agenda = s.agenda := rfl
@[simp] theorem State.onGate_focus (s : State) (g : GateId) (f : Gate → Gate) : (s.onGate g f).focus = s.focus := rfl
@[simp] theorem State.onGate_ticket (s : State) (g : GateId) (f : Gate → Gate) : (s.onGate g f).ticket = s.ticket := rfl
@[simp] theorem State.onGate_power (s : State) (g : GateId) (f : Gate → Gate) : (s.onGate g f).power = s.power := rfl
@[simp] theorem State.onGate_throttled (s : State) (g : GateId) (f : Gate → Gate) : (s.onGate g f).throttled = s.throttled := rfl
@[simp] theorem State.onGate_bringUp (s : State) (g : GateId) (f : Gate → Gate) : (s.onGate g f).bringUp = s.bringUp := rfl
@[simp] theorem State.onGate_wcc (s : State) (g : GateId) (f : Gate → Gate) : (s.onGate g f).wcc = s.wcc := rfl
@[simp] theorem State.onGate_locked (s : State) (g : GateId) (f : Gate → Gate) : (s.onGate g f).locked = s.locked := rfl
@[simp] theorem State.onGate_lastSlew (s : State) (g : GateId) (f : Gate → Gate) : (s.onGate g f).lastSlew = s.lastSlew := rfl
@[simp] theorem State.onGate_slew (s : State) (g : GateId) (f : Gate → Gate) : (s.onGate g f).slew = s.slew := rfl
@[simp] theorem State.onGate_economy (s : State) (g : GateId) (f : Gate → Gate) : (s.onGate g f).economy = s.economy := rfl
@[simp] theorem State.onGate_caps (s : State) (g : GateId) (f : Gate → Gate) : (s.onGate g f).caps = s.caps := rfl
@[simp] theorem State.onGate_healthReg (s : State) (g : GateId) (f : Gate → Gate) : (s.onGate g f).healthReg = s.healthReg := rfl
@[simp] theorem State.onGate_health (s : State) (g : GateId) (f : Gate → Gate) : (s.onGate g f).health = s.health := rfl
@[simp] theorem State.onGate_inForce (s : State) (g : GateId) (f : Gate → Gate) : (s.onGate g f).inForce = s.inForce := rfl
@[simp] theorem State.onGate_healthGen (s : State) (g : GateId) (f : Gate → Gate) : (s.onGate g f).healthGen = s.healthGen := rfl
@[simp] theorem State.onGate_healthSeal (s : State) (g : GateId) (f : Gate → Gate) : (s.onGate g f).healthSeal = s.healthSeal := rfl
@[simp] theorem State.onGate_defects (s : State) (g : GateId) (f : Gate → Gate) : (s.onGate g f).defects = s.defects := rfl
@[simp] theorem State.onGate_identity (s : State) (g : GateId) (f : Gate → Gate) : (s.onGate g f).identity = s.identity := rfl
@[simp] theorem State.onGate_asked (s : State) (g : GateId) (f : Gate → Gate) : (s.onGate g f).asked = s.asked := rfl
@[simp] theorem State.onGate_errCounts (s : State) (g : GateId) (f : Gate → Gate) : (s.onGate g f).errCounts = s.errCounts := rfl
@[simp] theorem State.onGate_errors (s : State) (g : GateId) (f : Gate → Gate) : (s.onGate g f).errors = s.errors := rfl
@[simp] theorem State.onGate_throttles (s : State) (g : GateId) (f : Gate → Gate) : (s.onGate g f).throttles = s.throttles := rfl
@[simp] theorem State.onGate_pager (s : State) (g : GateId) (f : Gate → Gate) : (s.onGate g f).pager = s.pager := rfl
@[simp] theorem State.onGate_lostCxl (s : State) (g : GateId) (f : Gate → Gate) : (s.onGate g f).lostCxl = s.lostCxl := rfl
@[simp] theorem State.onGate_holes (s : State) (g : GateId) (f : Gate → Gate) : (s.onGate g f).holes = s.holes := rfl
@[simp] theorem State.onGate_spareTest (s : State) (g : GateId) (f : Gate → Gate) : (s.onGate g f).spareTest = s.spareTest := rfl
@[simp] theorem State.onGate_withdrawals (s : State) (g : GateId) (f : Gate → Gate) : (s.onGate g f).withdrawals = s.withdrawals := rfl
@[simp] theorem State.onGate_events (s : State) (g : GateId) (f : Gate → Gate) : (s.onGate g f).events = s.events := rfl
@[simp] theorem State.onGate_mgmt (s : State) (g : GateId) (f : Gate → Gate) : (s.onGate g f).mgmt = s.mgmt := rfl
@[simp] theorem State.onGate_answers (s : State) (g : GateId) (f : Gate → Gate) : (s.onGate g f).answers = s.answers := rfl
@[simp] theorem State.onGate_regions (s : State) (g : GateId) (f : Gate → Gate) : (s.onGate g f).regions = s.regions := rfl
@[simp] theorem State.onGate_keyTable (s : State) (g : GateId) (f : Gate → Gate) : (s.onGate g f).keyTable = s.keyTable := rfl
@[simp] theorem State.onGate_sealed (s : State) (g : GateId) (f : Gate → Gate) : (s.onGate g f).sealed = s.sealed := rfl
@[simp] theorem State.onGate_snapshots (s : State) (g : GateId) (f : Gate → Gate) : (s.onGate g f).snapshots = s.snapshots := rfl
@[simp] theorem State.onGate_pmem (s : State) (g : GateId) (f : Gate → Gate) : (s.onGate g f).pmem = s.pmem := rfl
@[simp] theorem State.onGate_smem (s : State) (g : GateId) (f : Gate → Gate) : (s.onGate g f).smem = s.smem := rfl
@[simp] theorem State.onGate_slices (s : State) (g : GateId) (f : Gate → Gate) : (s.onGate g f).slices = s.slices := rfl
@[simp] theorem State.onGate_reqs (s : State) (g : GateId) (f : Gate → Gate) : (s.onGate g f).reqs = s.reqs := rfl
@[simp] theorem State.onGate_nextReq (s : State) (g : GateId) (f : Gate → Gate) : (s.onGate g f).nextReq = s.nextReq := rfl
@[simp] theorem State.onGate_agentLts (s : State) (g : GateId) (f : Gate → Gate) : (s.onGate g f).agentLts = s.agentLts := rfl
@[simp] theorem State.onGate_roots (s : State) (g : GateId) (f : Gate → Gate) : (s.onGate g f).roots = s.roots := rfl
@[simp] theorem State.onGate_agentTlb (s : State) (g : GateId) (f : Gate → Gate) : (s.onGate g f).agentTlb = s.agentTlb := rfl
@[simp] theorem State.onGate_walks (s : State) (g : GateId) (f : Gate → Gate) : (s.onGate g f).walks = s.walks := rfl
@[simp] theorem State.onGate_shoot (s : State) (g : GateId) (f : Gate → Gate) : (s.onGate g f).shoot = s.shoot := rfl
@[simp] theorem State.onGate_tokens (s : State) (g : GateId) (f : Gate → Gate) : (s.onGate g f).tokens = s.tokens := rfl
@[simp] theorem State.onGate_jobs (s : State) (g : GateId) (f : Gate → Gate) : (s.onGate g f).jobs = s.jobs := rfl
@[simp] theorem State.onGate_backDone (s : State) (g : GateId) (f : Gate → Gate) : (s.onGate g f).backDone = s.backDone := rfl
@[simp] theorem State.onGate_eccBad (s : State) (g : GateId) (f : Gate → Gate) : (s.onGate g f).eccBad = s.eccBad := rfl
@[simp] theorem State.onGate_parts (s : State) (g : GateId) (f : Gate → Gate) : (s.onGate g f).parts = s.parts := rfl
@[simp] theorem State.onGate_routers (s : State) (g : GateId) (f : Gate → Gate) : (s.onGate g f).routers = s.routers := rfl
@[simp] theorem State.onGate_msgs (s : State) (g : GateId) (f : Gate → Gate) : (s.onGate g f).msgs = s.msgs := rfl
@[simp] theorem State.onGate_qdBase (s : State) (g : GateId) (f : Gate → Gate) : (s.onGate g f).qdBase = s.qdBase := rfl
@[simp] theorem State.onGate_qdCount (s : State) (g : GateId) (f : Gate → Gate) : (s.onGate g f).qdCount = s.qdCount := rfl
@[simp] theorem State.onGate_qdPart (s : State) (g : GateId) (f : Gate → Gate) : (s.onGate g f).qdPart = s.qdPart := rfl
@[simp] theorem State.onGate_congExp (s : State) (g : GateId) (f : Gate → Gate) : (s.onGate g f).congExp = s.congExp := rfl
@[simp] theorem State.onGate_verdict (s : State) (g : GateId) (f : Gate → Gate) : (s.onGate g f).verdict = s.verdict := rfl
@[simp] theorem State.onGate_ing (s : State) (g : GateId) (f : Gate → Gate) : (s.onGate g f).ing = s.ing := rfl
@[simp] theorem State.onGate_store (s : State) (g : GateId) (f : Gate → Gate) : (s.onGate g f).store = s.store := rfl
@[simp] theorem State.onGate_mapCache (s : State) (g : GateId) (f : Gate → Gate) : (s.onGate g f).mapCache = s.mapCache := rfl
@[simp] theorem State.onGate_preempt (s : State) (g : GateId) (f : Gate → Gate) : (s.onGate g f).preempt = s.preempt := rfl
@[simp] theorem State.onGate_tdis (s : State) (g : GateId) (f : Gate → Gate) : (s.onGate g f).tdis = s.tdis := rfl
@[simp] theorem State.onGate_stops (s : State) (g : GateId) (f : Gate → Gate) : (s.onGate g f).stops = s.stops := rfl
@[simp] theorem State.onGate_meas (s : State) (g : GateId) (f : Gate → Gate) : (s.onGate g f).meas = s.meas := rfl
@[simp] theorem State.onGate_bootFloor (s : State) (g : GateId) (f : Gate → Gate) : (s.onGate g f).bootFloor = s.bootFloor := rfl
@[simp] theorem State.onGate_peers (s : State) (g : GateId) (f : Gate → Gate) : (s.onGate g f).peers = s.peers := rfl
@[simp] theorem State.onGate_lostPeers (s : State) (g : GateId) (f : Gate → Gate) : (s.onGate g f).lostPeers = s.lostPeers := rfl
@[simp] theorem State.onGate_delays (s : State) (g : GateId) (f : Gate → Gate) : (s.onGate g f).delays = s.delays := rfl
@[simp] theorem State.onGate_bloomAt (s : State) (g : GateId) (f : Gate → Gate) : (s.onGate g f).bloomAt = s.bloomAt := rfl
@[simp] theorem State.onGate_modNum (s : State) (g : GateId) (f : Gate → Gate) : (s.onGate g f).modNum = s.modNum := rfl
@[simp] theorem State.onGate_started (s : State) (g : GateId) (f : Gate → Gate) : (s.onGate g f).started = s.started := rfl
@[simp] theorem State.onGate_cores (s : State) (g : GateId) (f : Gate → Gate) : (s.onGate g f).cores = s.cores := rfl

/-! ## State.raise -/

@[simp] theorem State.raise_agenda (s : State) (w : Word) (name : BitVec 64) (tag : BitVec 16) (d : Nat) : (s.raise w name tag d).agenda = s.agenda := rfl
@[simp] theorem State.raise_focus (s : State) (w : Word) (name : BitVec 64) (tag : BitVec 16) (d : Nat) : (s.raise w name tag d).focus = s.focus := rfl
@[simp] theorem State.raise_ticket (s : State) (w : Word) (name : BitVec 64) (tag : BitVec 16) (d : Nat) : (s.raise w name tag d).ticket = s.ticket := rfl
@[simp] theorem State.raise_power (s : State) (w : Word) (name : BitVec 64) (tag : BitVec 16) (d : Nat) : (s.raise w name tag d).power = s.power := rfl
@[simp] theorem State.raise_throttled (s : State) (w : Word) (name : BitVec 64) (tag : BitVec 16) (d : Nat) : (s.raise w name tag d).throttled = s.throttled := rfl
@[simp] theorem State.raise_bringUp (s : State) (w : Word) (name : BitVec 64) (tag : BitVec 16) (d : Nat) : (s.raise w name tag d).bringUp = s.bringUp := rfl
@[simp] theorem State.raise_wcc (s : State) (w : Word) (name : BitVec 64) (tag : BitVec 16) (d : Nat) : (s.raise w name tag d).wcc = s.wcc := rfl
@[simp] theorem State.raise_locked (s : State) (w : Word) (name : BitVec 64) (tag : BitVec 16) (d : Nat) : (s.raise w name tag d).locked = s.locked := rfl
@[simp] theorem State.raise_lastSlew (s : State) (w : Word) (name : BitVec 64) (tag : BitVec 16) (d : Nat) : (s.raise w name tag d).lastSlew = s.lastSlew := rfl
@[simp] theorem State.raise_slew (s : State) (w : Word) (name : BitVec 64) (tag : BitVec 16) (d : Nat) : (s.raise w name tag d).slew = s.slew := rfl
@[simp] theorem State.raise_economy (s : State) (w : Word) (name : BitVec 64) (tag : BitVec 16) (d : Nat) : (s.raise w name tag d).economy = s.economy := rfl
@[simp] theorem State.raise_caps (s : State) (w : Word) (name : BitVec 64) (tag : BitVec 16) (d : Nat) : (s.raise w name tag d).caps = s.caps := rfl
@[simp] theorem State.raise_healthReg (s : State) (w : Word) (name : BitVec 64) (tag : BitVec 16) (d : Nat) : (s.raise w name tag d).healthReg = s.healthReg := rfl
@[simp] theorem State.raise_health (s : State) (w : Word) (name : BitVec 64) (tag : BitVec 16) (d : Nat) : (s.raise w name tag d).health = s.health := rfl
@[simp] theorem State.raise_inForce (s : State) (w : Word) (name : BitVec 64) (tag : BitVec 16) (d : Nat) : (s.raise w name tag d).inForce = s.inForce := rfl
@[simp] theorem State.raise_healthGen (s : State) (w : Word) (name : BitVec 64) (tag : BitVec 16) (d : Nat) : (s.raise w name tag d).healthGen = s.healthGen := rfl
@[simp] theorem State.raise_healthSeal (s : State) (w : Word) (name : BitVec 64) (tag : BitVec 16) (d : Nat) : (s.raise w name tag d).healthSeal = s.healthSeal := rfl
@[simp] theorem State.raise_defects (s : State) (w : Word) (name : BitVec 64) (tag : BitVec 16) (d : Nat) : (s.raise w name tag d).defects = s.defects := rfl
@[simp] theorem State.raise_identity (s : State) (w : Word) (name : BitVec 64) (tag : BitVec 16) (d : Nat) : (s.raise w name tag d).identity = s.identity := rfl
@[simp] theorem State.raise_asked (s : State) (w : Word) (name : BitVec 64) (tag : BitVec 16) (d : Nat) : (s.raise w name tag d).asked = s.asked := rfl
@[simp] theorem State.raise_errCounts (s : State) (w : Word) (name : BitVec 64) (tag : BitVec 16) (d : Nat) : (s.raise w name tag d).errCounts = s.errCounts := rfl
@[simp] theorem State.raise_errors (s : State) (w : Word) (name : BitVec 64) (tag : BitVec 16) (d : Nat) : (s.raise w name tag d).errors = s.errors := rfl
@[simp] theorem State.raise_throttles (s : State) (w : Word) (name : BitVec 64) (tag : BitVec 16) (d : Nat) : (s.raise w name tag d).throttles = s.throttles := rfl
@[simp] theorem State.raise_pager (s : State) (w : Word) (name : BitVec 64) (tag : BitVec 16) (d : Nat) : (s.raise w name tag d).pager = s.pager := rfl
@[simp] theorem State.raise_lostCxl (s : State) (w : Word) (name : BitVec 64) (tag : BitVec 16) (d : Nat) : (s.raise w name tag d).lostCxl = s.lostCxl := rfl
@[simp] theorem State.raise_holes (s : State) (w : Word) (name : BitVec 64) (tag : BitVec 16) (d : Nat) : (s.raise w name tag d).holes = s.holes := rfl
@[simp] theorem State.raise_spareTest (s : State) (w : Word) (name : BitVec 64) (tag : BitVec 16) (d : Nat) : (s.raise w name tag d).spareTest = s.spareTest := rfl
@[simp] theorem State.raise_withdrawals (s : State) (w : Word) (name : BitVec 64) (tag : BitVec 16) (d : Nat) : (s.raise w name tag d).withdrawals = s.withdrawals := rfl
@[simp] theorem State.raise_mgmt (s : State) (w : Word) (name : BitVec 64) (tag : BitVec 16) (d : Nat) : (s.raise w name tag d).mgmt = s.mgmt := rfl
@[simp] theorem State.raise_answers (s : State) (w : Word) (name : BitVec 64) (tag : BitVec 16) (d : Nat) : (s.raise w name tag d).answers = s.answers := rfl
@[simp] theorem State.raise_regions (s : State) (w : Word) (name : BitVec 64) (tag : BitVec 16) (d : Nat) : (s.raise w name tag d).regions = s.regions := rfl
@[simp] theorem State.raise_keyTable (s : State) (w : Word) (name : BitVec 64) (tag : BitVec 16) (d : Nat) : (s.raise w name tag d).keyTable = s.keyTable := rfl
@[simp] theorem State.raise_sealed (s : State) (w : Word) (name : BitVec 64) (tag : BitVec 16) (d : Nat) : (s.raise w name tag d).sealed = s.sealed := rfl
@[simp] theorem State.raise_snapshots (s : State) (w : Word) (name : BitVec 64) (tag : BitVec 16) (d : Nat) : (s.raise w name tag d).snapshots = s.snapshots := rfl
@[simp] theorem State.raise_pmem (s : State) (w : Word) (name : BitVec 64) (tag : BitVec 16) (d : Nat) : (s.raise w name tag d).pmem = s.pmem := rfl
@[simp] theorem State.raise_smem (s : State) (w : Word) (name : BitVec 64) (tag : BitVec 16) (d : Nat) : (s.raise w name tag d).smem = s.smem := rfl
@[simp] theorem State.raise_slices (s : State) (w : Word) (name : BitVec 64) (tag : BitVec 16) (d : Nat) : (s.raise w name tag d).slices = s.slices := rfl
@[simp] theorem State.raise_reqs (s : State) (w : Word) (name : BitVec 64) (tag : BitVec 16) (d : Nat) : (s.raise w name tag d).reqs = s.reqs := rfl
@[simp] theorem State.raise_nextReq (s : State) (w : Word) (name : BitVec 64) (tag : BitVec 16) (d : Nat) : (s.raise w name tag d).nextReq = s.nextReq := rfl
@[simp] theorem State.raise_agentLts (s : State) (w : Word) (name : BitVec 64) (tag : BitVec 16) (d : Nat) : (s.raise w name tag d).agentLts = s.agentLts := rfl
@[simp] theorem State.raise_roots (s : State) (w : Word) (name : BitVec 64) (tag : BitVec 16) (d : Nat) : (s.raise w name tag d).roots = s.roots := rfl
@[simp] theorem State.raise_agentTlb (s : State) (w : Word) (name : BitVec 64) (tag : BitVec 16) (d : Nat) : (s.raise w name tag d).agentTlb = s.agentTlb := rfl
@[simp] theorem State.raise_walks (s : State) (w : Word) (name : BitVec 64) (tag : BitVec 16) (d : Nat) : (s.raise w name tag d).walks = s.walks := rfl
@[simp] theorem State.raise_shoot (s : State) (w : Word) (name : BitVec 64) (tag : BitVec 16) (d : Nat) : (s.raise w name tag d).shoot = s.shoot := rfl
@[simp] theorem State.raise_tokens (s : State) (w : Word) (name : BitVec 64) (tag : BitVec 16) (d : Nat) : (s.raise w name tag d).tokens = s.tokens := rfl
@[simp] theorem State.raise_jobs (s : State) (w : Word) (name : BitVec 64) (tag : BitVec 16) (d : Nat) : (s.raise w name tag d).jobs = s.jobs := rfl
@[simp] theorem State.raise_backDone (s : State) (w : Word) (name : BitVec 64) (tag : BitVec 16) (d : Nat) : (s.raise w name tag d).backDone = s.backDone := rfl
@[simp] theorem State.raise_eccBad (s : State) (w : Word) (name : BitVec 64) (tag : BitVec 16) (d : Nat) : (s.raise w name tag d).eccBad = s.eccBad := rfl
@[simp] theorem State.raise_parts (s : State) (w : Word) (name : BitVec 64) (tag : BitVec 16) (d : Nat) : (s.raise w name tag d).parts = s.parts := rfl
@[simp] theorem State.raise_routers (s : State) (w : Word) (name : BitVec 64) (tag : BitVec 16) (d : Nat) : (s.raise w name tag d).routers = s.routers := rfl
@[simp] theorem State.raise_msgs (s : State) (w : Word) (name : BitVec 64) (tag : BitVec 16) (d : Nat) : (s.raise w name tag d).msgs = s.msgs := rfl
@[simp] theorem State.raise_qdBase (s : State) (w : Word) (name : BitVec 64) (tag : BitVec 16) (d : Nat) : (s.raise w name tag d).qdBase = s.qdBase := rfl
@[simp] theorem State.raise_qdCount (s : State) (w : Word) (name : BitVec 64) (tag : BitVec 16) (d : Nat) : (s.raise w name tag d).qdCount = s.qdCount := rfl
@[simp] theorem State.raise_qdPart (s : State) (w : Word) (name : BitVec 64) (tag : BitVec 16) (d : Nat) : (s.raise w name tag d).qdPart = s.qdPart := rfl
@[simp] theorem State.raise_congExp (s : State) (w : Word) (name : BitVec 64) (tag : BitVec 16) (d : Nat) : (s.raise w name tag d).congExp = s.congExp := rfl
@[simp] theorem State.raise_verdict (s : State) (w : Word) (name : BitVec 64) (tag : BitVec 16) (d : Nat) : (s.raise w name tag d).verdict = s.verdict := rfl
@[simp] theorem State.raise_ing (s : State) (w : Word) (name : BitVec 64) (tag : BitVec 16) (d : Nat) : (s.raise w name tag d).ing = s.ing := rfl
@[simp] theorem State.raise_store (s : State) (w : Word) (name : BitVec 64) (tag : BitVec 16) (d : Nat) : (s.raise w name tag d).store = s.store := rfl
@[simp] theorem State.raise_mapCache (s : State) (w : Word) (name : BitVec 64) (tag : BitVec 16) (d : Nat) : (s.raise w name tag d).mapCache = s.mapCache := rfl
@[simp] theorem State.raise_ctxs (s : State) (w : Word) (name : BitVec 64) (tag : BitVec 16) (d : Nat) : (s.raise w name tag d).ctxs = s.ctxs := rfl
@[simp] theorem State.raise_preempt (s : State) (w : Word) (name : BitVec 64) (tag : BitVec 16) (d : Nat) : (s.raise w name tag d).preempt = s.preempt := rfl
@[simp] theorem State.raise_tdis (s : State) (w : Word) (name : BitVec 64) (tag : BitVec 16) (d : Nat) : (s.raise w name tag d).tdis = s.tdis := rfl
@[simp] theorem State.raise_stops (s : State) (w : Word) (name : BitVec 64) (tag : BitVec 16) (d : Nat) : (s.raise w name tag d).stops = s.stops := rfl
@[simp] theorem State.raise_meas (s : State) (w : Word) (name : BitVec 64) (tag : BitVec 16) (d : Nat) : (s.raise w name tag d).meas = s.meas := rfl
@[simp] theorem State.raise_bootFloor (s : State) (w : Word) (name : BitVec 64) (tag : BitVec 16) (d : Nat) : (s.raise w name tag d).bootFloor = s.bootFloor := rfl
@[simp] theorem State.raise_peers (s : State) (w : Word) (name : BitVec 64) (tag : BitVec 16) (d : Nat) : (s.raise w name tag d).peers = s.peers := rfl
@[simp] theorem State.raise_lostPeers (s : State) (w : Word) (name : BitVec 64) (tag : BitVec 16) (d : Nat) : (s.raise w name tag d).lostPeers = s.lostPeers := rfl
@[simp] theorem State.raise_delays (s : State) (w : Word) (name : BitVec 64) (tag : BitVec 16) (d : Nat) : (s.raise w name tag d).delays = s.delays := rfl
@[simp] theorem State.raise_bloomAt (s : State) (w : Word) (name : BitVec 64) (tag : BitVec 16) (d : Nat) : (s.raise w name tag d).bloomAt = s.bloomAt := rfl
@[simp] theorem State.raise_modNum (s : State) (w : Word) (name : BitVec 64) (tag : BitVec 16) (d : Nat) : (s.raise w name tag d).modNum = s.modNum := rfl
@[simp] theorem State.raise_started (s : State) (w : Word) (name : BitVec 64) (tag : BitVec 16) (d : Nat) : (s.raise w name tag d).started = s.started := rfl
@[simp] theorem State.raise_cores (s : State) (w : Word) (name : BitVec 64) (tag : BitVec 16) (d : Nat) : (s.raise w name tag d).cores = s.cores := rfl

/-! ## State.setPeer -/

@[simp] theorem State.setPeer_agenda (s : State) (l : PeerLink) : (s.setPeer l).agenda = s.agenda := rfl
@[simp] theorem State.setPeer_focus (s : State) (l : PeerLink) : (s.setPeer l).focus = s.focus := rfl
@[simp] theorem State.setPeer_ticket (s : State) (l : PeerLink) : (s.setPeer l).ticket = s.ticket := rfl
@[simp] theorem State.setPeer_power (s : State) (l : PeerLink) : (s.setPeer l).power = s.power := rfl
@[simp] theorem State.setPeer_throttled (s : State) (l : PeerLink) : (s.setPeer l).throttled = s.throttled := rfl
@[simp] theorem State.setPeer_bringUp (s : State) (l : PeerLink) : (s.setPeer l).bringUp = s.bringUp := rfl
@[simp] theorem State.setPeer_wcc (s : State) (l : PeerLink) : (s.setPeer l).wcc = s.wcc := rfl
@[simp] theorem State.setPeer_locked (s : State) (l : PeerLink) : (s.setPeer l).locked = s.locked := rfl
@[simp] theorem State.setPeer_lastSlew (s : State) (l : PeerLink) : (s.setPeer l).lastSlew = s.lastSlew := rfl
@[simp] theorem State.setPeer_slew (s : State) (l : PeerLink) : (s.setPeer l).slew = s.slew := rfl
@[simp] theorem State.setPeer_economy (s : State) (l : PeerLink) : (s.setPeer l).economy = s.economy := rfl
@[simp] theorem State.setPeer_caps (s : State) (l : PeerLink) : (s.setPeer l).caps = s.caps := rfl
@[simp] theorem State.setPeer_healthReg (s : State) (l : PeerLink) : (s.setPeer l).healthReg = s.healthReg := rfl
@[simp] theorem State.setPeer_health (s : State) (l : PeerLink) : (s.setPeer l).health = s.health := rfl
@[simp] theorem State.setPeer_inForce (s : State) (l : PeerLink) : (s.setPeer l).inForce = s.inForce := rfl
@[simp] theorem State.setPeer_healthGen (s : State) (l : PeerLink) : (s.setPeer l).healthGen = s.healthGen := rfl
@[simp] theorem State.setPeer_healthSeal (s : State) (l : PeerLink) : (s.setPeer l).healthSeal = s.healthSeal := rfl
@[simp] theorem State.setPeer_defects (s : State) (l : PeerLink) : (s.setPeer l).defects = s.defects := rfl
@[simp] theorem State.setPeer_identity (s : State) (l : PeerLink) : (s.setPeer l).identity = s.identity := rfl
@[simp] theorem State.setPeer_asked (s : State) (l : PeerLink) : (s.setPeer l).asked = s.asked := rfl
@[simp] theorem State.setPeer_errCounts (s : State) (l : PeerLink) : (s.setPeer l).errCounts = s.errCounts := rfl
@[simp] theorem State.setPeer_errors (s : State) (l : PeerLink) : (s.setPeer l).errors = s.errors := rfl
@[simp] theorem State.setPeer_throttles (s : State) (l : PeerLink) : (s.setPeer l).throttles = s.throttles := rfl
@[simp] theorem State.setPeer_pager (s : State) (l : PeerLink) : (s.setPeer l).pager = s.pager := rfl
@[simp] theorem State.setPeer_lostCxl (s : State) (l : PeerLink) : (s.setPeer l).lostCxl = s.lostCxl := rfl
@[simp] theorem State.setPeer_holes (s : State) (l : PeerLink) : (s.setPeer l).holes = s.holes := rfl
@[simp] theorem State.setPeer_spareTest (s : State) (l : PeerLink) : (s.setPeer l).spareTest = s.spareTest := rfl
@[simp] theorem State.setPeer_withdrawals (s : State) (l : PeerLink) : (s.setPeer l).withdrawals = s.withdrawals := rfl
@[simp] theorem State.setPeer_events (s : State) (l : PeerLink) : (s.setPeer l).events = s.events := rfl
@[simp] theorem State.setPeer_mgmt (s : State) (l : PeerLink) : (s.setPeer l).mgmt = s.mgmt := rfl
@[simp] theorem State.setPeer_answers (s : State) (l : PeerLink) : (s.setPeer l).answers = s.answers := rfl
@[simp] theorem State.setPeer_regions (s : State) (l : PeerLink) : (s.setPeer l).regions = s.regions := rfl
@[simp] theorem State.setPeer_keyTable (s : State) (l : PeerLink) : (s.setPeer l).keyTable = s.keyTable := rfl
@[simp] theorem State.setPeer_sealed (s : State) (l : PeerLink) : (s.setPeer l).sealed = s.sealed := rfl
@[simp] theorem State.setPeer_snapshots (s : State) (l : PeerLink) : (s.setPeer l).snapshots = s.snapshots := rfl
@[simp] theorem State.setPeer_pmem (s : State) (l : PeerLink) : (s.setPeer l).pmem = s.pmem := rfl
@[simp] theorem State.setPeer_smem (s : State) (l : PeerLink) : (s.setPeer l).smem = s.smem := rfl
@[simp] theorem State.setPeer_slices (s : State) (l : PeerLink) : (s.setPeer l).slices = s.slices := rfl
@[simp] theorem State.setPeer_reqs (s : State) (l : PeerLink) : (s.setPeer l).reqs = s.reqs := rfl
@[simp] theorem State.setPeer_nextReq (s : State) (l : PeerLink) : (s.setPeer l).nextReq = s.nextReq := rfl
@[simp] theorem State.setPeer_agentLts (s : State) (l : PeerLink) : (s.setPeer l).agentLts = s.agentLts := rfl
@[simp] theorem State.setPeer_roots (s : State) (l : PeerLink) : (s.setPeer l).roots = s.roots := rfl
@[simp] theorem State.setPeer_agentTlb (s : State) (l : PeerLink) : (s.setPeer l).agentTlb = s.agentTlb := rfl
@[simp] theorem State.setPeer_walks (s : State) (l : PeerLink) : (s.setPeer l).walks = s.walks := rfl
@[simp] theorem State.setPeer_shoot (s : State) (l : PeerLink) : (s.setPeer l).shoot = s.shoot := rfl
@[simp] theorem State.setPeer_tokens (s : State) (l : PeerLink) : (s.setPeer l).tokens = s.tokens := rfl
@[simp] theorem State.setPeer_jobs (s : State) (l : PeerLink) : (s.setPeer l).jobs = s.jobs := rfl
@[simp] theorem State.setPeer_backDone (s : State) (l : PeerLink) : (s.setPeer l).backDone = s.backDone := rfl
@[simp] theorem State.setPeer_eccBad (s : State) (l : PeerLink) : (s.setPeer l).eccBad = s.eccBad := rfl
@[simp] theorem State.setPeer_parts (s : State) (l : PeerLink) : (s.setPeer l).parts = s.parts := rfl
@[simp] theorem State.setPeer_routers (s : State) (l : PeerLink) : (s.setPeer l).routers = s.routers := rfl
@[simp] theorem State.setPeer_msgs (s : State) (l : PeerLink) : (s.setPeer l).msgs = s.msgs := rfl
@[simp] theorem State.setPeer_qdBase (s : State) (l : PeerLink) : (s.setPeer l).qdBase = s.qdBase := rfl
@[simp] theorem State.setPeer_qdCount (s : State) (l : PeerLink) : (s.setPeer l).qdCount = s.qdCount := rfl
@[simp] theorem State.setPeer_qdPart (s : State) (l : PeerLink) : (s.setPeer l).qdPart = s.qdPart := rfl
@[simp] theorem State.setPeer_congExp (s : State) (l : PeerLink) : (s.setPeer l).congExp = s.congExp := rfl
@[simp] theorem State.setPeer_verdict (s : State) (l : PeerLink) : (s.setPeer l).verdict = s.verdict := rfl
@[simp] theorem State.setPeer_ing (s : State) (l : PeerLink) : (s.setPeer l).ing = s.ing := rfl
@[simp] theorem State.setPeer_store (s : State) (l : PeerLink) : (s.setPeer l).store = s.store := rfl
@[simp] theorem State.setPeer_mapCache (s : State) (l : PeerLink) : (s.setPeer l).mapCache = s.mapCache := rfl
@[simp] theorem State.setPeer_ctxs (s : State) (l : PeerLink) : (s.setPeer l).ctxs = s.ctxs := rfl
@[simp] theorem State.setPeer_preempt (s : State) (l : PeerLink) : (s.setPeer l).preempt = s.preempt := rfl
@[simp] theorem State.setPeer_tdis (s : State) (l : PeerLink) : (s.setPeer l).tdis = s.tdis := rfl
@[simp] theorem State.setPeer_stops (s : State) (l : PeerLink) : (s.setPeer l).stops = s.stops := rfl
@[simp] theorem State.setPeer_meas (s : State) (l : PeerLink) : (s.setPeer l).meas = s.meas := rfl
@[simp] theorem State.setPeer_bootFloor (s : State) (l : PeerLink) : (s.setPeer l).bootFloor = s.bootFloor := rfl
@[simp] theorem State.setPeer_lostPeers (s : State) (l : PeerLink) : (s.setPeer l).lostPeers = s.lostPeers := rfl
@[simp] theorem State.setPeer_delays (s : State) (l : PeerLink) : (s.setPeer l).delays = s.delays := rfl
@[simp] theorem State.setPeer_bloomAt (s : State) (l : PeerLink) : (s.setPeer l).bloomAt = s.bloomAt := rfl
@[simp] theorem State.setPeer_modNum (s : State) (l : PeerLink) : (s.setPeer l).modNum = s.modNum := rfl
@[simp] theorem State.setPeer_started (s : State) (l : PeerLink) : (s.setPeer l).started = s.started := rfl
@[simp] theorem State.setPeer_cores (s : State) (l : PeerLink) : (s.setPeer l).cores = s.cores := rfl

/-! ## Core.send -/

@[simp] theorem Core.send_regs (c : Core) (w : RegWrite) (n : Nat) : (c.send w n).regs = c.regs := rfl
@[simp] theorem Core.send_q (c : Core) (w : RegWrite) (n : Nat) : (c.send w n).q = c.q := rfl
@[simp] theorem Core.send_fpcr (c : Core) (w : RegWrite) (n : Nat) : (c.send w n).fpcr = c.fpcr := rfl
@[simp] theorem Core.send_keys (c : Core) (w : RegWrite) (n : Nat) : (c.send w n).keys = c.keys := rfl
@[simp] theorem Core.send_xnext (c : Core) (w : RegWrite) (n : Nat) : (c.send w n).xnext = c.xnext := rfl
@[simp] theorem Core.send_xdone (c : Core) (w : RegWrite) (n : Nat) : (c.send w n).xdone = c.xdone := rfl
@[simp] theorem Core.send_xopen (c : Core) (w : RegWrite) (n : Nat) : (c.send w n).xopen = c.xopen := rfl
@[simp] theorem Core.send_pbnext (c : Core) (w : RegWrite) (n : Nat) : (c.send w n).pbnext = c.pbnext := rfl
@[simp] theorem Core.send_pbdone (c : Core) (w : RegWrite) (n : Nat) : (c.send w n).pbdone = c.pbdone := rfl
@[simp] theorem Core.send_pbopen (c : Core) (w : RegWrite) (n : Nat) : (c.send w n).pbopen = c.pbopen := rfl
@[simp] theorem Core.send_accMap (c : Core) (w : RegWrite) (n : Nat) : (c.send w n).accMap = c.accMap := rfl
@[simp] theorem Core.send_accOwn (c : Core) (w : RegWrite) (n : Nat) : (c.send w n).accOwn = c.accOwn := rfl
@[simp] theorem Core.send_acc (c : Core) (w : RegWrite) (n : Nat) : (c.send w n).acc = c.acc := rfl
@[simp] theorem Core.send_spad (c : Core) (w : RegWrite) (n : Nat) : (c.send w n).spad = c.spad := rfl
@[simp] theorem Core.send_rsb (c : Core) (w : RegWrite) (n : Nat) : (c.send w n).rsb = c.rsb := rfl
@[simp] theorem Core.send_rsbNext (c : Core) (w : RegWrite) (n : Nat) : (c.send w n).rsbNext = c.rsbNext := rfl
@[simp] theorem Core.send_cfgModes (c : Core) (w : RegWrite) (n : Nat) : (c.send w n).cfgModes = c.cfgModes := rfl
@[simp] theorem Core.send_modes (c : Core) (w : RegWrite) (n : Nat) : (c.send w n).modes = c.modes := rfl
@[simp] theorem Core.send_strm (c : Core) (w : RegWrite) (n : Nat) : (c.send w n).strm = c.strm := rfl
@[simp] theorem Core.send_caps (c : Core) (w : RegWrite) (n : Nat) : (c.send w n).caps = c.caps := rfl
@[simp] theorem Core.send_trapRec (c : Core) (w : RegWrite) (n : Nat) : (c.send w n).trapRec = c.trapRec := rfl
@[simp] theorem Core.send_loops (c : Core) (w : RegWrite) (n : Nat) : (c.send w n).loops = c.loops := rfl
@[simp] theorem Core.send_issue (c : Core) (w : RegWrite) (n : Nat) : (c.send w n).issue = c.issue := rfl
@[simp] theorem Core.send_fetched (c : Core) (w : RegWrite) (n : Nat) : (c.send w n).fetched = c.fetched := rfl
@[simp] theorem Core.send_fills (c : Core) (w : RegWrite) (n : Nat) : (c.send w n).fills = c.fills := rfl
@[simp] theorem Core.send_gate (c : Core) (w : RegWrite) (n : Nat) : (c.send w n).gate = c.gate := rfl
@[simp] theorem Core.send_shadow (c : Core) (w : RegWrite) (n : Nat) : (c.send w n).shadow = c.shadow := rfl
@[simp] theorem Core.send_dfaults (c : Core) (w : RegWrite) (n : Nat) : (c.send w n).dfaults = c.dfaults := rfl
@[simp] theorem Core.send_nps (c : Core) (w : RegWrite) (n : Nat) : (c.send w n).nps = c.nps := rfl
@[simp] theorem Core.send_tlb (c : Core) (w : RegWrite) (n : Nat) : (c.send w n).tlb = c.tlb := rfl
@[simp] theorem Core.send_cache (c : Core) (w : RegWrite) (n : Nat) : (c.send w n).cache = c.cache := rfl
@[simp] theorem Core.send_lts (c : Core) (w : RegWrite) (n : Nat) : (c.send w n).lts = c.lts := rfl
@[simp] theorem Core.send_seq (c : Core) (w : RegWrite) (n : Nat) : (c.send w n).seq = c.seq := rfl
@[simp] theorem Core.send_matQ (c : Core) (w : RegWrite) (n : Nat) : (c.send w n).matQ = c.matQ := rfl
@[simp] theorem Core.send_scanQ (c : Core) (w : RegWrite) (n : Nat) : (c.send w n).scanQ = c.scanQ := rfl
@[simp] theorem Core.send_statQ (c : Core) (w : RegWrite) (n : Nat) : (c.send w n).statQ = c.statQ := rfl
@[simp] theorem Core.send_bankQ (c : Core) (w : RegWrite) (n : Nat) : (c.send w n).bankQ = c.bankQ := rfl
@[simp] theorem Core.send_copies (c : Core) (w : RegWrite) (n : Nat) : (c.send w n).copies = c.copies := rfl
@[simp] theorem Core.send_userOp (c : Core) (w : RegWrite) (n : Nat) : (c.send w n).userOp = c.userOp := rfl
@[simp] theorem Core.send_userNext (c : Core) (w : RegWrite) (n : Nat) : (c.send w n).userNext = c.userNext := rfl
@[simp] theorem Core.send_sendCnt (c : Core) (w : RegWrite) (n : Nat) : (c.send w n).sendCnt = c.sendCnt := rfl
@[simp] theorem Core.send_recvCnt (c : Core) (w : RegWrite) (n : Nat) : (c.send w n).recvCnt = c.recvCnt := rfl
@[simp] theorem Core.send_recvs (c : Core) (w : RegWrite) (n : Nat) : (c.send w n).recvs = c.recvs := rfl
@[simp] theorem Core.send_fetches (c : Core) (w : RegWrite) (n : Nat) : (c.send w n).fetches = c.fetches := rfl
@[simp] theorem Core.send_fifoUp (c : Core) (w : RegWrite) (n : Nat) : (c.send w n).fifoUp = c.fifoUp := rfl
@[simp] theorem Core.send_fifoDown (c : Core) (w : RegWrite) (n : Nat) : (c.send w n).fifoDown = c.fifoDown := rfl
@[simp] theorem Core.send_barArr (c : Core) (w : RegWrite) (n : Nat) : (c.send w n).barArr = c.barArr := rfl
@[simp] theorem Core.send_barRel (c : Core) (w : RegWrite) (n : Nat) : (c.send w n).barRel = c.barRel := rfl
@[simp] theorem Core.send_barWait (c : Core) (w : RegWrite) (n : Nat) : (c.send w n).barWait = c.barWait := rfl
@[simp] theorem Core.send_cbars (c : Core) (w : RegWrite) (n : Nat) : (c.send w n).cbars = c.cbars := rfl
@[simp] theorem Core.send_port (c : Core) (w : RegWrite) (n : Nat) : (c.send w n).port = c.port := rfl
@[simp] theorem Core.send_firing (c : Core) (w : RegWrite) (n : Nat) : (c.send w n).firing = c.firing := rfl
@[simp] theorem Core.send_stagedF (c : Core) (w : RegWrite) (n : Nat) : (c.send w n).stagedF = c.stagedF := rfl
@[simp] theorem Core.send_credits (c : Core) (w : RegWrite) (n : Nat) : (c.send w n).credits = c.credits := rfl
@[simp] theorem Core.send_picked (c : Core) (w : RegWrite) (n : Nat) : (c.send w n).picked = c.picked := rfl
@[simp] theorem Core.send_slotCnt (c : Core) (w : RegWrite) (n : Nat) : (c.send w n).slotCnt = c.slotCnt := rfl
@[simp] theorem Core.send_frozen (c : Core) (w : RegWrite) (n : Nat) : (c.send w n).frozen = c.frozen := rfl
@[simp] theorem Core.send_freezeReq (c : Core) (w : RegWrite) (n : Nat) : (c.send w n).freezeReq = c.freezeReq := rfl
@[simp] theorem Core.send_halted (c : Core) (w : RegWrite) (n : Nat) : (c.send w n).halted = c.halted := rfl
@[simp] theorem Core.send_traced (c : Core) (w : RegWrite) (n : Nat) : (c.send w n).traced = c.traced := rfl
@[simp] theorem Core.send_reply (c : Core) (w : RegWrite) (n : Nat) : (c.send w n).reply = c.reply := rfl
@[simp] theorem Core.send_withdrawn (c : Core) (w : RegWrite) (n : Nat) : (c.send w n).withdrawn = c.withdrawn := rfl
@[simp] theorem Core.send_testing (c : Core) (w : RegWrite) (n : Nat) : (c.send w n).testing = c.testing := rfl
@[simp] theorem Core.send_holding (c : Core) (w : RegWrite) (n : Nat) : (c.send w n).holding = c.holding := rfl
@[simp] theorem Core.send_skips (c : Core) (w : RegWrite) (n : Nat) : (c.send w n).skips = c.skips := rfl
@[simp] theorem Core.send_bundles (c : Core) (w : RegWrite) (n : Nat) : (c.send w n).bundles = c.bundles := rfl
@[simp] theorem Core.send_out (c : Core) (w : RegWrite) (n : Nat) : (c.send w n).out = c.out := rfl
@[simp] theorem Core.send_badWords (c : Core) (w : RegWrite) (n : Nat) : (c.send w n).badWords = c.badWords := rfl
@[simp] theorem Core.send_swaps (c : Core) (w : RegWrite) (n : Nat) : (c.send w n).swaps = c.swaps := rfl
@[simp] theorem Core.send_failed (c : Core) (w : RegWrite) (n : Nat) : (c.send w n).failed = c.failed := rfl

/-! ## Core.markEmpty -/

@[simp] theorem Core.markEmpty_q (c : Core) (r : FullReg) (v : Option RegWrite) : (c.markEmpty r v).q = c.q := rfl
@[simp] theorem Core.markEmpty_fpcr (c : Core) (r : FullReg) (v : Option RegWrite) : (c.markEmpty r v).fpcr = c.fpcr := rfl
@[simp] theorem Core.markEmpty_keys (c : Core) (r : FullReg) (v : Option RegWrite) : (c.markEmpty r v).keys = c.keys := rfl
@[simp] theorem Core.markEmpty_xnext (c : Core) (r : FullReg) (v : Option RegWrite) : (c.markEmpty r v).xnext = c.xnext := rfl
@[simp] theorem Core.markEmpty_xdone (c : Core) (r : FullReg) (v : Option RegWrite) : (c.markEmpty r v).xdone = c.xdone := rfl
@[simp] theorem Core.markEmpty_xopen (c : Core) (r : FullReg) (v : Option RegWrite) : (c.markEmpty r v).xopen = c.xopen := rfl
@[simp] theorem Core.markEmpty_pbnext (c : Core) (r : FullReg) (v : Option RegWrite) : (c.markEmpty r v).pbnext = c.pbnext := rfl
@[simp] theorem Core.markEmpty_pbdone (c : Core) (r : FullReg) (v : Option RegWrite) : (c.markEmpty r v).pbdone = c.pbdone := rfl
@[simp] theorem Core.markEmpty_pbopen (c : Core) (r : FullReg) (v : Option RegWrite) : (c.markEmpty r v).pbopen = c.pbopen := rfl
@[simp] theorem Core.markEmpty_accMap (c : Core) (r : FullReg) (v : Option RegWrite) : (c.markEmpty r v).accMap = c.accMap := rfl
@[simp] theorem Core.markEmpty_accOwn (c : Core) (r : FullReg) (v : Option RegWrite) : (c.markEmpty r v).accOwn = c.accOwn := rfl
@[simp] theorem Core.markEmpty_acc (c : Core) (r : FullReg) (v : Option RegWrite) : (c.markEmpty r v).acc = c.acc := rfl
@[simp] theorem Core.markEmpty_spad (c : Core) (r : FullReg) (v : Option RegWrite) : (c.markEmpty r v).spad = c.spad := rfl
@[simp] theorem Core.markEmpty_rsb (c : Core) (r : FullReg) (v : Option RegWrite) : (c.markEmpty r v).rsb = c.rsb := rfl
@[simp] theorem Core.markEmpty_rsbNext (c : Core) (r : FullReg) (v : Option RegWrite) : (c.markEmpty r v).rsbNext = c.rsbNext := rfl
@[simp] theorem Core.markEmpty_cfgModes (c : Core) (r : FullReg) (v : Option RegWrite) : (c.markEmpty r v).cfgModes = c.cfgModes := rfl
@[simp] theorem Core.markEmpty_modes (c : Core) (r : FullReg) (v : Option RegWrite) : (c.markEmpty r v).modes = c.modes := rfl
@[simp] theorem Core.markEmpty_strm (c : Core) (r : FullReg) (v : Option RegWrite) : (c.markEmpty r v).strm = c.strm := rfl
@[simp] theorem Core.markEmpty_caps (c : Core) (r : FullReg) (v : Option RegWrite) : (c.markEmpty r v).caps = c.caps := rfl
@[simp] theorem Core.markEmpty_trapRec (c : Core) (r : FullReg) (v : Option RegWrite) : (c.markEmpty r v).trapRec = c.trapRec := rfl
@[simp] theorem Core.markEmpty_loops (c : Core) (r : FullReg) (v : Option RegWrite) : (c.markEmpty r v).loops = c.loops := rfl
@[simp] theorem Core.markEmpty_issue (c : Core) (r : FullReg) (v : Option RegWrite) : (c.markEmpty r v).issue = c.issue := rfl
@[simp] theorem Core.markEmpty_fetched (c : Core) (r : FullReg) (v : Option RegWrite) : (c.markEmpty r v).fetched = c.fetched := rfl
@[simp] theorem Core.markEmpty_flight (c : Core) (r : FullReg) (v : Option RegWrite) : (c.markEmpty r v).flight = c.flight := rfl
@[simp] theorem Core.markEmpty_gate (c : Core) (r : FullReg) (v : Option RegWrite) : (c.markEmpty r v).gate = c.gate := rfl
@[simp] theorem Core.markEmpty_shadow (c : Core) (r : FullReg) (v : Option RegWrite) : (c.markEmpty r v).shadow = c.shadow := rfl
@[simp] theorem Core.markEmpty_dfaults (c : Core) (r : FullReg) (v : Option RegWrite) : (c.markEmpty r v).dfaults = c.dfaults := rfl
@[simp] theorem Core.markEmpty_nps (c : Core) (r : FullReg) (v : Option RegWrite) : (c.markEmpty r v).nps = c.nps := rfl
@[simp] theorem Core.markEmpty_tlb (c : Core) (r : FullReg) (v : Option RegWrite) : (c.markEmpty r v).tlb = c.tlb := rfl
@[simp] theorem Core.markEmpty_cache (c : Core) (r : FullReg) (v : Option RegWrite) : (c.markEmpty r v).cache = c.cache := rfl
@[simp] theorem Core.markEmpty_lts (c : Core) (r : FullReg) (v : Option RegWrite) : (c.markEmpty r v).lts = c.lts := rfl
@[simp] theorem Core.markEmpty_seq (c : Core) (r : FullReg) (v : Option RegWrite) : (c.markEmpty r v).seq = c.seq := rfl
@[simp] theorem Core.markEmpty_matQ (c : Core) (r : FullReg) (v : Option RegWrite) : (c.markEmpty r v).matQ = c.matQ := rfl
@[simp] theorem Core.markEmpty_scanQ (c : Core) (r : FullReg) (v : Option RegWrite) : (c.markEmpty r v).scanQ = c.scanQ := rfl
@[simp] theorem Core.markEmpty_statQ (c : Core) (r : FullReg) (v : Option RegWrite) : (c.markEmpty r v).statQ = c.statQ := rfl
@[simp] theorem Core.markEmpty_bankQ (c : Core) (r : FullReg) (v : Option RegWrite) : (c.markEmpty r v).bankQ = c.bankQ := rfl
@[simp] theorem Core.markEmpty_copies (c : Core) (r : FullReg) (v : Option RegWrite) : (c.markEmpty r v).copies = c.copies := rfl
@[simp] theorem Core.markEmpty_userOp (c : Core) (r : FullReg) (v : Option RegWrite) : (c.markEmpty r v).userOp = c.userOp := rfl
@[simp] theorem Core.markEmpty_userNext (c : Core) (r : FullReg) (v : Option RegWrite) : (c.markEmpty r v).userNext = c.userNext := rfl
@[simp] theorem Core.markEmpty_sendCnt (c : Core) (r : FullReg) (v : Option RegWrite) : (c.markEmpty r v).sendCnt = c.sendCnt := rfl
@[simp] theorem Core.markEmpty_recvCnt (c : Core) (r : FullReg) (v : Option RegWrite) : (c.markEmpty r v).recvCnt = c.recvCnt := rfl
@[simp] theorem Core.markEmpty_recvs (c : Core) (r : FullReg) (v : Option RegWrite) : (c.markEmpty r v).recvs = c.recvs := rfl
@[simp] theorem Core.markEmpty_fetches (c : Core) (r : FullReg) (v : Option RegWrite) : (c.markEmpty r v).fetches = c.fetches := rfl
@[simp] theorem Core.markEmpty_fifoUp (c : Core) (r : FullReg) (v : Option RegWrite) : (c.markEmpty r v).fifoUp = c.fifoUp := rfl
@[simp] theorem Core.markEmpty_fifoDown (c : Core) (r : FullReg) (v : Option RegWrite) : (c.markEmpty r v).fifoDown = c.fifoDown := rfl
@[simp] theorem Core.markEmpty_barArr (c : Core) (r : FullReg) (v : Option RegWrite) : (c.markEmpty r v).barArr = c.barArr := rfl
@[simp] theorem Core.markEmpty_barRel (c : Core) (r : FullReg) (v : Option RegWrite) : (c.markEmpty r v).barRel = c.barRel := rfl
@[simp] theorem Core.markEmpty_barWait (c : Core) (r : FullReg) (v : Option RegWrite) : (c.markEmpty r v).barWait = c.barWait := rfl
@[simp] theorem Core.markEmpty_cbars (c : Core) (r : FullReg) (v : Option RegWrite) : (c.markEmpty r v).cbars = c.cbars := rfl
@[simp] theorem Core.markEmpty_port (c : Core) (r : FullReg) (v : Option RegWrite) : (c.markEmpty r v).port = c.port := rfl
@[simp] theorem Core.markEmpty_firing (c : Core) (r : FullReg) (v : Option RegWrite) : (c.markEmpty r v).firing = c.firing := rfl
@[simp] theorem Core.markEmpty_stagedF (c : Core) (r : FullReg) (v : Option RegWrite) : (c.markEmpty r v).stagedF = c.stagedF := rfl
@[simp] theorem Core.markEmpty_credits (c : Core) (r : FullReg) (v : Option RegWrite) : (c.markEmpty r v).credits = c.credits := rfl
@[simp] theorem Core.markEmpty_picked (c : Core) (r : FullReg) (v : Option RegWrite) : (c.markEmpty r v).picked = c.picked := rfl
@[simp] theorem Core.markEmpty_slotCnt (c : Core) (r : FullReg) (v : Option RegWrite) : (c.markEmpty r v).slotCnt = c.slotCnt := rfl
@[simp] theorem Core.markEmpty_frozen (c : Core) (r : FullReg) (v : Option RegWrite) : (c.markEmpty r v).frozen = c.frozen := rfl
@[simp] theorem Core.markEmpty_freezeReq (c : Core) (r : FullReg) (v : Option RegWrite) : (c.markEmpty r v).freezeReq = c.freezeReq := rfl
@[simp] theorem Core.markEmpty_halted (c : Core) (r : FullReg) (v : Option RegWrite) : (c.markEmpty r v).halted = c.halted := rfl
@[simp] theorem Core.markEmpty_traced (c : Core) (r : FullReg) (v : Option RegWrite) : (c.markEmpty r v).traced = c.traced := rfl
@[simp] theorem Core.markEmpty_reply (c : Core) (r : FullReg) (v : Option RegWrite) : (c.markEmpty r v).reply = c.reply := rfl
@[simp] theorem Core.markEmpty_withdrawn (c : Core) (r : FullReg) (v : Option RegWrite) : (c.markEmpty r v).withdrawn = c.withdrawn := rfl
@[simp] theorem Core.markEmpty_testing (c : Core) (r : FullReg) (v : Option RegWrite) : (c.markEmpty r v).testing = c.testing := rfl
@[simp] theorem Core.markEmpty_holding (c : Core) (r : FullReg) (v : Option RegWrite) : (c.markEmpty r v).holding = c.holding := rfl
@[simp] theorem Core.markEmpty_skips (c : Core) (r : FullReg) (v : Option RegWrite) : (c.markEmpty r v).skips = c.skips := rfl
@[simp] theorem Core.markEmpty_bundles (c : Core) (r : FullReg) (v : Option RegWrite) : (c.markEmpty r v).bundles = c.bundles := rfl
@[simp] theorem Core.markEmpty_out (c : Core) (r : FullReg) (v : Option RegWrite) : (c.markEmpty r v).out = c.out := rfl
@[simp] theorem Core.markEmpty_badWords (c : Core) (r : FullReg) (v : Option RegWrite) : (c.markEmpty r v).badWords = c.badWords := rfl
@[simp] theorem Core.markEmpty_swaps (c : Core) (r : FullReg) (v : Option RegWrite) : (c.markEmpty r v).swaps = c.swaps := rfl
@[simp] theorem Core.markEmpty_failed (c : Core) (r : FullReg) (v : Option RegWrite) : (c.markEmpty r v).failed = c.failed := rfl

/-! ## Core.give -/

@[simp] theorem Core.give_regs (c : Core) (r : FullReg) (w : RegWrite) : (c.give r w).regs = c.regs := rfl
@[simp] theorem Core.give_q (c : Core) (r : FullReg) (w : RegWrite) : (c.give r w).q = c.q := rfl
@[simp] theorem Core.give_fpcr (c : Core) (r : FullReg) (w : RegWrite) : (c.give r w).fpcr = c.fpcr := rfl
@[simp] theorem Core.give_keys (c : Core) (r : FullReg) (w : RegWrite) : (c.give r w).keys = c.keys := rfl
@[simp] theorem Core.give_xnext (c : Core) (r : FullReg) (w : RegWrite) : (c.give r w).xnext = c.xnext := rfl
@[simp] theorem Core.give_xdone (c : Core) (r : FullReg) (w : RegWrite) : (c.give r w).xdone = c.xdone := rfl
@[simp] theorem Core.give_xopen (c : Core) (r : FullReg) (w : RegWrite) : (c.give r w).xopen = c.xopen := rfl
@[simp] theorem Core.give_pbnext (c : Core) (r : FullReg) (w : RegWrite) : (c.give r w).pbnext = c.pbnext := rfl
@[simp] theorem Core.give_pbdone (c : Core) (r : FullReg) (w : RegWrite) : (c.give r w).pbdone = c.pbdone := rfl
@[simp] theorem Core.give_pbopen (c : Core) (r : FullReg) (w : RegWrite) : (c.give r w).pbopen = c.pbopen := rfl
@[simp] theorem Core.give_accMap (c : Core) (r : FullReg) (w : RegWrite) : (c.give r w).accMap = c.accMap := rfl
@[simp] theorem Core.give_accOwn (c : Core) (r : FullReg) (w : RegWrite) : (c.give r w).accOwn = c.accOwn := rfl
@[simp] theorem Core.give_acc (c : Core) (r : FullReg) (w : RegWrite) : (c.give r w).acc = c.acc := rfl
@[simp] theorem Core.give_spad (c : Core) (r : FullReg) (w : RegWrite) : (c.give r w).spad = c.spad := rfl
@[simp] theorem Core.give_rsb (c : Core) (r : FullReg) (w : RegWrite) : (c.give r w).rsb = c.rsb := rfl
@[simp] theorem Core.give_rsbNext (c : Core) (r : FullReg) (w : RegWrite) : (c.give r w).rsbNext = c.rsbNext := rfl
@[simp] theorem Core.give_cfgModes (c : Core) (r : FullReg) (w : RegWrite) : (c.give r w).cfgModes = c.cfgModes := rfl
@[simp] theorem Core.give_modes (c : Core) (r : FullReg) (w : RegWrite) : (c.give r w).modes = c.modes := rfl
@[simp] theorem Core.give_strm (c : Core) (r : FullReg) (w : RegWrite) : (c.give r w).strm = c.strm := rfl
@[simp] theorem Core.give_caps (c : Core) (r : FullReg) (w : RegWrite) : (c.give r w).caps = c.caps := rfl
@[simp] theorem Core.give_trapRec (c : Core) (r : FullReg) (w : RegWrite) : (c.give r w).trapRec = c.trapRec := rfl
@[simp] theorem Core.give_loops (c : Core) (r : FullReg) (w : RegWrite) : (c.give r w).loops = c.loops := rfl
@[simp] theorem Core.give_issue (c : Core) (r : FullReg) (w : RegWrite) : (c.give r w).issue = c.issue := rfl
@[simp] theorem Core.give_fetched (c : Core) (r : FullReg) (w : RegWrite) : (c.give r w).fetched = c.fetched := rfl
@[simp] theorem Core.give_flight (c : Core) (r : FullReg) (w : RegWrite) : (c.give r w).flight = c.flight := rfl
@[simp] theorem Core.give_gate (c : Core) (r : FullReg) (w : RegWrite) : (c.give r w).gate = c.gate := rfl
@[simp] theorem Core.give_shadow (c : Core) (r : FullReg) (w : RegWrite) : (c.give r w).shadow = c.shadow := rfl
@[simp] theorem Core.give_dfaults (c : Core) (r : FullReg) (w : RegWrite) : (c.give r w).dfaults = c.dfaults := rfl
@[simp] theorem Core.give_nps (c : Core) (r : FullReg) (w : RegWrite) : (c.give r w).nps = c.nps := rfl
@[simp] theorem Core.give_tlb (c : Core) (r : FullReg) (w : RegWrite) : (c.give r w).tlb = c.tlb := rfl
@[simp] theorem Core.give_cache (c : Core) (r : FullReg) (w : RegWrite) : (c.give r w).cache = c.cache := rfl
@[simp] theorem Core.give_lts (c : Core) (r : FullReg) (w : RegWrite) : (c.give r w).lts = c.lts := rfl
@[simp] theorem Core.give_seq (c : Core) (r : FullReg) (w : RegWrite) : (c.give r w).seq = c.seq := rfl
@[simp] theorem Core.give_matQ (c : Core) (r : FullReg) (w : RegWrite) : (c.give r w).matQ = c.matQ := rfl
@[simp] theorem Core.give_scanQ (c : Core) (r : FullReg) (w : RegWrite) : (c.give r w).scanQ = c.scanQ := rfl
@[simp] theorem Core.give_statQ (c : Core) (r : FullReg) (w : RegWrite) : (c.give r w).statQ = c.statQ := rfl
@[simp] theorem Core.give_bankQ (c : Core) (r : FullReg) (w : RegWrite) : (c.give r w).bankQ = c.bankQ := rfl
@[simp] theorem Core.give_copies (c : Core) (r : FullReg) (w : RegWrite) : (c.give r w).copies = c.copies := rfl
@[simp] theorem Core.give_userOp (c : Core) (r : FullReg) (w : RegWrite) : (c.give r w).userOp = c.userOp := rfl
@[simp] theorem Core.give_userNext (c : Core) (r : FullReg) (w : RegWrite) : (c.give r w).userNext = c.userNext := rfl
@[simp] theorem Core.give_sendCnt (c : Core) (r : FullReg) (w : RegWrite) : (c.give r w).sendCnt = c.sendCnt := rfl
@[simp] theorem Core.give_recvCnt (c : Core) (r : FullReg) (w : RegWrite) : (c.give r w).recvCnt = c.recvCnt := rfl
@[simp] theorem Core.give_recvs (c : Core) (r : FullReg) (w : RegWrite) : (c.give r w).recvs = c.recvs := rfl
@[simp] theorem Core.give_fetches (c : Core) (r : FullReg) (w : RegWrite) : (c.give r w).fetches = c.fetches := rfl
@[simp] theorem Core.give_fifoUp (c : Core) (r : FullReg) (w : RegWrite) : (c.give r w).fifoUp = c.fifoUp := rfl
@[simp] theorem Core.give_fifoDown (c : Core) (r : FullReg) (w : RegWrite) : (c.give r w).fifoDown = c.fifoDown := rfl
@[simp] theorem Core.give_barArr (c : Core) (r : FullReg) (w : RegWrite) : (c.give r w).barArr = c.barArr := rfl
@[simp] theorem Core.give_barRel (c : Core) (r : FullReg) (w : RegWrite) : (c.give r w).barRel = c.barRel := rfl
@[simp] theorem Core.give_barWait (c : Core) (r : FullReg) (w : RegWrite) : (c.give r w).barWait = c.barWait := rfl
@[simp] theorem Core.give_cbars (c : Core) (r : FullReg) (w : RegWrite) : (c.give r w).cbars = c.cbars := rfl
@[simp] theorem Core.give_port (c : Core) (r : FullReg) (w : RegWrite) : (c.give r w).port = c.port := rfl
@[simp] theorem Core.give_firing (c : Core) (r : FullReg) (w : RegWrite) : (c.give r w).firing = c.firing := rfl
@[simp] theorem Core.give_stagedF (c : Core) (r : FullReg) (w : RegWrite) : (c.give r w).stagedF = c.stagedF := rfl
@[simp] theorem Core.give_credits (c : Core) (r : FullReg) (w : RegWrite) : (c.give r w).credits = c.credits := rfl
@[simp] theorem Core.give_picked (c : Core) (r : FullReg) (w : RegWrite) : (c.give r w).picked = c.picked := rfl
@[simp] theorem Core.give_slotCnt (c : Core) (r : FullReg) (w : RegWrite) : (c.give r w).slotCnt = c.slotCnt := rfl
@[simp] theorem Core.give_frozen (c : Core) (r : FullReg) (w : RegWrite) : (c.give r w).frozen = c.frozen := rfl
@[simp] theorem Core.give_freezeReq (c : Core) (r : FullReg) (w : RegWrite) : (c.give r w).freezeReq = c.freezeReq := rfl
@[simp] theorem Core.give_halted (c : Core) (r : FullReg) (w : RegWrite) : (c.give r w).halted = c.halted := rfl
@[simp] theorem Core.give_traced (c : Core) (r : FullReg) (w : RegWrite) : (c.give r w).traced = c.traced := rfl
@[simp] theorem Core.give_reply (c : Core) (r : FullReg) (w : RegWrite) : (c.give r w).reply = c.reply := rfl
@[simp] theorem Core.give_withdrawn (c : Core) (r : FullReg) (w : RegWrite) : (c.give r w).withdrawn = c.withdrawn := rfl
@[simp] theorem Core.give_testing (c : Core) (r : FullReg) (w : RegWrite) : (c.give r w).testing = c.testing := rfl
@[simp] theorem Core.give_holding (c : Core) (r : FullReg) (w : RegWrite) : (c.give r w).holding = c.holding := rfl
@[simp] theorem Core.give_skips (c : Core) (r : FullReg) (w : RegWrite) : (c.give r w).skips = c.skips := rfl
@[simp] theorem Core.give_bundles (c : Core) (r : FullReg) (w : RegWrite) : (c.give r w).bundles = c.bundles := rfl
@[simp] theorem Core.give_out (c : Core) (r : FullReg) (w : RegWrite) : (c.give r w).out = c.out := rfl
@[simp] theorem Core.give_badWords (c : Core) (r : FullReg) (w : RegWrite) : (c.give r w).badWords = c.badWords := rfl
@[simp] theorem Core.give_swaps (c : Core) (r : FullReg) (w : RegWrite) : (c.give r w).swaps = c.swaps := rfl
@[simp] theorem Core.give_failed (c : Core) (r : FullReg) (w : RegWrite) : (c.give r w).failed = c.failed := rfl

/-! ## Core.waited -/

@[simp] theorem Core.waited_regs (c : Core) : (c.waited).regs = c.regs := rfl
@[simp] theorem Core.waited_q (c : Core) : (c.waited).q = c.q := rfl
@[simp] theorem Core.waited_fpcr (c : Core) : (c.waited).fpcr = c.fpcr := rfl
@[simp] theorem Core.waited_keys (c : Core) : (c.waited).keys = c.keys := rfl
@[simp] theorem Core.waited_xnext (c : Core) : (c.waited).xnext = c.xnext := rfl
@[simp] theorem Core.waited_xdone (c : Core) : (c.waited).xdone = c.xdone := rfl
@[simp] theorem Core.waited_xopen (c : Core) : (c.waited).xopen = c.xopen := rfl
@[simp] theorem Core.waited_pbnext (c : Core) : (c.waited).pbnext = c.pbnext := rfl
@[simp] theorem Core.waited_pbdone (c : Core) : (c.waited).pbdone = c.pbdone := rfl
@[simp] theorem Core.waited_pbopen (c : Core) : (c.waited).pbopen = c.pbopen := rfl
@[simp] theorem Core.waited_accMap (c : Core) : (c.waited).accMap = c.accMap := rfl
@[simp] theorem Core.waited_accOwn (c : Core) : (c.waited).accOwn = c.accOwn := rfl
@[simp] theorem Core.waited_acc (c : Core) : (c.waited).acc = c.acc := rfl
@[simp] theorem Core.waited_spad (c : Core) : (c.waited).spad = c.spad := rfl
@[simp] theorem Core.waited_rsb (c : Core) : (c.waited).rsb = c.rsb := rfl
@[simp] theorem Core.waited_rsbNext (c : Core) : (c.waited).rsbNext = c.rsbNext := rfl
@[simp] theorem Core.waited_cfgModes (c : Core) : (c.waited).cfgModes = c.cfgModes := rfl
@[simp] theorem Core.waited_modes (c : Core) : (c.waited).modes = c.modes := rfl
@[simp] theorem Core.waited_strm (c : Core) : (c.waited).strm = c.strm := rfl
@[simp] theorem Core.waited_caps (c : Core) : (c.waited).caps = c.caps := rfl
@[simp] theorem Core.waited_trapRec (c : Core) : (c.waited).trapRec = c.trapRec := rfl
@[simp] theorem Core.waited_loops (c : Core) : (c.waited).loops = c.loops := rfl
@[simp] theorem Core.waited_fetched (c : Core) : (c.waited).fetched = c.fetched := rfl
@[simp] theorem Core.waited_flight (c : Core) : (c.waited).flight = c.flight := rfl
@[simp] theorem Core.waited_fills (c : Core) : (c.waited).fills = c.fills := rfl
@[simp] theorem Core.waited_gate (c : Core) : (c.waited).gate = c.gate := rfl
@[simp] theorem Core.waited_shadow (c : Core) : (c.waited).shadow = c.shadow := rfl
@[simp] theorem Core.waited_dfaults (c : Core) : (c.waited).dfaults = c.dfaults := rfl
@[simp] theorem Core.waited_nps (c : Core) : (c.waited).nps = c.nps := rfl
@[simp] theorem Core.waited_tlb (c : Core) : (c.waited).tlb = c.tlb := rfl
@[simp] theorem Core.waited_lts (c : Core) : (c.waited).lts = c.lts := rfl
@[simp] theorem Core.waited_seq (c : Core) : (c.waited).seq = c.seq := rfl
@[simp] theorem Core.waited_matQ (c : Core) : (c.waited).matQ = c.matQ := rfl
@[simp] theorem Core.waited_scanQ (c : Core) : (c.waited).scanQ = c.scanQ := rfl
@[simp] theorem Core.waited_statQ (c : Core) : (c.waited).statQ = c.statQ := rfl
@[simp] theorem Core.waited_bankQ (c : Core) : (c.waited).bankQ = c.bankQ := rfl
@[simp] theorem Core.waited_copies (c : Core) : (c.waited).copies = c.copies := rfl
@[simp] theorem Core.waited_userOp (c : Core) : (c.waited).userOp = c.userOp := rfl
@[simp] theorem Core.waited_userNext (c : Core) : (c.waited).userNext = c.userNext := rfl
@[simp] theorem Core.waited_sendCnt (c : Core) : (c.waited).sendCnt = c.sendCnt := rfl
@[simp] theorem Core.waited_recvCnt (c : Core) : (c.waited).recvCnt = c.recvCnt := rfl
@[simp] theorem Core.waited_recvs (c : Core) : (c.waited).recvs = c.recvs := rfl
@[simp] theorem Core.waited_fetches (c : Core) : (c.waited).fetches = c.fetches := rfl
@[simp] theorem Core.waited_fifoUp (c : Core) : (c.waited).fifoUp = c.fifoUp := rfl
@[simp] theorem Core.waited_fifoDown (c : Core) : (c.waited).fifoDown = c.fifoDown := rfl
@[simp] theorem Core.waited_barArr (c : Core) : (c.waited).barArr = c.barArr := rfl
@[simp] theorem Core.waited_barRel (c : Core) : (c.waited).barRel = c.barRel := rfl
@[simp] theorem Core.waited_barWait (c : Core) : (c.waited).barWait = c.barWait := rfl
@[simp] theorem Core.waited_cbars (c : Core) : (c.waited).cbars = c.cbars := rfl
@[simp] theorem Core.waited_port (c : Core) : (c.waited).port = c.port := rfl
@[simp] theorem Core.waited_firing (c : Core) : (c.waited).firing = c.firing := rfl
@[simp] theorem Core.waited_stagedF (c : Core) : (c.waited).stagedF = c.stagedF := rfl
@[simp] theorem Core.waited_credits (c : Core) : (c.waited).credits = c.credits := rfl
@[simp] theorem Core.waited_picked (c : Core) : (c.waited).picked = c.picked := rfl
@[simp] theorem Core.waited_slotCnt (c : Core) : (c.waited).slotCnt = c.slotCnt := rfl
@[simp] theorem Core.waited_frozen (c : Core) : (c.waited).frozen = c.frozen := rfl
@[simp] theorem Core.waited_freezeReq (c : Core) : (c.waited).freezeReq = c.freezeReq := rfl
@[simp] theorem Core.waited_halted (c : Core) : (c.waited).halted = c.halted := rfl
@[simp] theorem Core.waited_traced (c : Core) : (c.waited).traced = c.traced := rfl
@[simp] theorem Core.waited_reply (c : Core) : (c.waited).reply = c.reply := rfl
@[simp] theorem Core.waited_withdrawn (c : Core) : (c.waited).withdrawn = c.withdrawn := rfl
@[simp] theorem Core.waited_testing (c : Core) : (c.waited).testing = c.testing := rfl
@[simp] theorem Core.waited_holding (c : Core) : (c.waited).holding = c.holding := rfl
@[simp] theorem Core.waited_skips (c : Core) : (c.waited).skips = c.skips := rfl
@[simp] theorem Core.waited_bundles (c : Core) : (c.waited).bundles = c.bundles := rfl
@[simp] theorem Core.waited_out (c : Core) : (c.waited).out = c.out := rfl
@[simp] theorem Core.waited_badWords (c : Core) : (c.waited).badWords = c.badWords := rfl
@[simp] theorem Core.waited_swaps (c : Core) : (c.waited).swaps = c.swaps := rfl
@[simp] theorem Core.waited_failed (c : Core) : (c.waited).failed = c.failed := rfl

end Sys2Proof.Machine
end

