-- ==== Sys2Proof/Tests/Slice0.lean ====
section
/-! SUPPORT. Sys2Proof/Tests/Slice0.lean: the model's own tests: words of the manual and what they decode to, an ill-formed term for each check,
worked examples of the manual, and for every statement a state and operands that meet its hypotheses. -/
set_option Elab.async false

open Sys2Proof Sys2Proof.Machine

namespace Sys2Proof.Tests

/-! ## Words written out from the manual's tables and worked examples, one per family at least -/

/-- Always: PRED = 0, PSENSE = 0 (10 R286). -/
abbrev always : Pred := ⟨0, false⟩

/-- 10, worked example; 11 R312: addi with its extension word. -/
theorem test_word_addi : decodeSlot 0 0xA03212A0 (some 0xC3) = .ok (.addiExt ⟨2, false⟩ { d := 4, a := 4, ta := true, imm := 100000 }) := rfl
/-- 11 R336: li s10, 0 and li s11, 1. -/
theorem test_word_li : decodeSlot 0 0x01A50000 none = .ok (.li always { d := 10, imm := 0 }) := rfl
theorem test_word_li_one : decodeSlot 1 0x01A58001 none = .ok (.li always { d := 11, imm := 1 }) := rfl
/-- 11 R336: add s10, s10, s11 and addi s11, s11, 1. -/
theorem test_word_add : decodeSlot 0 0x001528B0 none = .ok (.add always { d := 10, a := 10, ta := false, b := 11, tb := false }) := rfl
theorem test_word_addi_one : decodeSlot 1 0x0035AC01 none = .ok (.addi always { d := 11, a := 11, ta := false, imm := 1 }) := rfl
/-- 11 R336: lpx 5 whose END lies 16 bytes on, and retire. -/
theorem test_word_lpx : decodeSlot 7 0x00701008 none = .ok (.lpx always { cntm1 := 4, stop := 8 }) := rfl
theorem test_word_retire : decodeSlot 7 0x00A00000 none = .ok (.retire always) := rfl
/-- 12 R349: vcvt.f32.t6.rsto v6, v4, v9 and vcvt.i32.f32 v2, v1, in VB only. -/
theorem test_word_vcvt : decodeSlot 3 0x84831095 (some 0x7)
    = .ok (.vcvt always { d := 6, a := 4, ta := false, v := 9, tv := false, rms := .rsto, msk := 0, sfmt := .f32, dfmt := .t6 }) := rfl
theorem test_word_vcvt_int : decodeSlot 3 0x84810400 (some 0x30)
    = .ok (.vcvt always { d := 2, a := 1, ta := false, v := 0, tv := false, rms := .fpcr, msk := 0, sfmt := .i32, dfmt := .f32 }) := rfl
/-- 15: qset, mma.ovw, aown, adrain and aread of its program. -/
theorem test_word_mma : decodeSlot 5 0x80100B01 (some 0x10000000) = .ok (.mma always { f := 0, l := 11, qa := 0, ovw := true, qb := 1 }) := rfl
theorem test_word_aown : decodeSlot 5 0x00A10701 none = .ok (.aown always { f := 4, l := 7, g := 1 }) := rfl
theorem test_word_adrain : decodeSlot 5 0x00C10751 none = .ok (.adrain always { f := 4, l := 7, q := 5, clr := false, g := 1 }) := rfl
theorem test_word_aread : decodeSlot 5 0x80D00000 (some 0x08000000) = .ok (.aread always { k := 0, row := 0, d := 1 }) := rfl
/-- 13: qset q0, s2, s3; scan.affine with init in a herd; mdrain.norm. -/
theorem test_word_qset : decodeSlot 5 0x83800000 (some 0x10600000)
    = .ok (.qset always { q := 0, a := 2, ta := false, b := 3, tb := false }) := rfl
theorem test_word_scan : decodeSlot 5 0x81420103 (some 0x320A0000)
    = .ok (.scanAffine always { y := 2, x := 0, x2 := 1, herd := true, init := true, y2 := 3, vi := 4, tvi := false, vj := 5, tvj := false }) := rfl
theorem test_word_mdrain : decodeSlot 5 0x82480C04 (some 0x430E0000)
    = .ok (.mdrainNorm always { w := 4, q := 3, s := 0, ts := false, qy := 4, g := 6, tg := false, b := 7, tb := false }) := rfl
/-- 14: pf h1, s13; pub q3 under record 0; coll.w and coll.recv.w. -/
theorem test_word_pf : decodeSlot 4 0x01C16800 none = .ok (.pf always { h := 1, a := 13, ta := false }) := rfl
theorem test_word_pub : decodeSlot 6 0x00130000 none
    = .ok (.pub always { q := 3, k := 0, a := 0, ta := false, tagx := false, nolive := false, live := false, noback := false }) := rfl
theorem test_word_coll : decodeSlot 6 0x00801012 none = .ok (.collW always { vsn := 1, a := 2, ta := false }) := rfl
theorem test_word_coll_recv : decodeSlot 6 0x00802023 none = .ok (.collRecvW always { vsn := 2, a := 4 }) := rfl

/-- 10 R294: words that are no instruction: an opcode of no row, a reserved field, a missing and an idle extension word. -/
theorem test_word_unassigned : decodeSlot 0 0x00000000 none = .error .unassigned := rfl
theorem test_word_never : decodeSlot 2 0x08118420 none = .error .predNever := rfl

/-- 10 R281 to R284, 11 R336: the bundle of `lpx`: its header, its slot word, six bytes. -/
theorem test_bundle : decodeBundle [0x80, 0x00, 0x08, 0x10, 0x70, 0x00, 0, 0, 0, 0, 0, 0, 0, 0, 0, 0]
    = .ok { nopc := 0, rmark := false, split := 0, len := 6, slots := [(7, .lpx always { cntm1 := 4, stop := 8 })] } := rfl

/-! ## WellFormed: an ill-formed term for each check -/

theorem test_wf_pred : Instr.wf (.ret ⟨0, true⟩) = false := rfl
theorem test_wf_bits : Instr.wf (.ext always { d := 1, a := 1, ta := false, pos := 60, lenm1 := 4 }) = false := rfl
theorem test_wf_system : Instr.wf (.swr always { reg := .wcc, a := 1, ta := false }) = false := rfl
theorem test_wf_rounding : Instr.wf (.vadd always { d := 1, a := 1, ta := false, b := 1, tb := false, rms := .rsto }) = false := rfl
theorem test_wf_lane_type : Instr.wf (.viadd always { d := 1, a := 1, ta := false, b := 1, tb := false, ty := .i64 }) = false := rfl
theorem test_wf_vcvt : Instr.wf (.vcvt always
    { d := 1, a := 1, ta := false, v := 0, tv := false, rms := .fpcr, msk := 0, sfmt := .f16, dfmt := .f16 }) = false := rfl
theorem test_wf_source : Instr.wf (.vcvt always
    { d := 1, a := 1, ta := false, v := 3, tv := false, rms := .rtz, msk := 0, sfmt := .f32, dfmt := .f16 }) = false := rfl
theorem test_wf_vpack : Instr.wf (.vpack always
    { d := 1, a := 1, ta := false, v := 0, tv := false, rms := .fpcr, sfmt := .f16, dfmt := .i8 }) = false := rfl
theorem test_wf_vunpack : Instr.wf (.vunpack always
    { d := 1, a := 1, ta := false, v := 0, tv := false, rms := .fpcr, sfmt := .f32, dfmt := .i32 }) = false := rfl
theorem test_wf_amo : Instr.wf (.amoAdd always { d := 1, h := 1, th := false, a := 1, ta := false, b := 1, tb := false, ty := .i8 }) = false := rfl
theorem test_wf_banks : Instr.wf (.aalloc always { f := 5, l := 4 }) = false := rfl
theorem test_wf_scan_init : Instr.wf (.scanLse always
    { y := 0, x := 1, x2 := 2, herd := false, init := false, y2 := 3, vi := 1, tvi := false, vj := 0, tvj := false }) = false := rfl
theorem test_wf_scan_user : Instr.wf (.scanUserExt always
    { y := 0, x := 1, x2 := 0, herd := false, pair := false, init := false, y2 := 0, vi := 0, tvi := false, vj := 0, tvj := false }) = false := rfl
theorem test_wf_mdrain : Instr.wf (.mdrain always { d := 1, w := 1, kind := 0, s := 2, ts := false }) = false := rfl
theorem test_wf_live : Instr.wf (.pub always
    { q := 0, k := 0, a := 0, ta := false, tagx := false, nolive := true, live := true, noback := false }) = false := rfl
theorem test_wf_tag : Instr.wf (.fetch always { q := 0, k := 0, a := 4, ta := false, tagx := false }) = false := rfl
theorem test_wf_index : Instr.wf (.subq always
    { d := 1, k := 0, a := 0, ta := false, tagx := false, idxx := false, b := 1, tb := false }) = false := rfl
theorem test_wf_core : Instr.wf (.dispatch 13000) = false := rfl

/-! ## Worked examples of the manual -/

/-- 15 Table 15-3: ACC_OWN after the bands and after `aown.rel 2`. -/
theorem test_owner : ownSet (ownSet (ownSet 0 0 (2 ^ 15 + 0 * 64 + 3)) 1 (2 ^ 15 + 4 * 64 + 7)) 2 (2 ^ 15 + 8 * 64 + 11) = 0x0000820B81078003 := by decide
/-- 11 R315, its example. -/
theorem test_min_i8 : minWord .i8 0x80 0x01 = 0xFFFFFFFFFFFFFF80 := by decide
theorem test_min_n8 : minWord .n8 0x80 0x01 = 1 := by decide
/-- 12 R341: vmax of a signalling NaN. -/
theorem test_vmax_nan : fpMax 0x7FA00000 0x3F800000 = (0x7FC00000, 16) := by decide
/-- 12 R344, its example: the sum of the tree. -/
theorem test_tree : fpAdd .rne 0x4B800000 0x3F800000 = (0x4B800000, 1) := by decide
/-- 12 R347, its example: reciprocals that are normal, and flushed. -/
theorem test_rcp : sfRcp .rne 0x7E800000 = (0x00800000, 0) := by decide
theorem test_rcp_tiny : (sfRcp .rne 0x7F000000).1 = 0 := by decide
/-- 09 R266: the T8 byte 0xB5 is -0.65625 = -21/32. -/
theorem test_t8 : (elemEncode .f32 .rne (elemDecode .t8 0xB5)).1 = 0xBF280000 := by decide
/-- 12 R349: 100.0 to T6 by RSTO with u = 0xA0000000; 3.2 with either u. -/
theorem test_sto : (elemEncode .t6 (.sto 0xA0000000) (elemDecode .f32 0x42C80000)).1 = 0x1E := by decide
theorem test_sto_up : (elemEncode .t6 (.sto 0xA0000000) (elemDecode .f32 0x404CCCCD)).1 = 0x17 := by decide
theorem test_sto_down : (elemEncode .t6 (.sto 0x12345678) (elemDecode .f32 0x404CCCCD)).1 = 0x16 := by decide
/-- 09 R275, R276, their example: 4 into the lane (2, 1.5, 0.5), by an update and by a merge. -/
theorem test_moment_update : (momentUpdate { n := 0x40000000, mean := 0x3FC00000, m2 := 0x3F000000 } 0x40800000 0x3F800000).1
    = { n := 0x40400000, mean := 0x40155555, m2 := 0x40955556 } := by decide
theorem test_moment_merge : (momentMerge { n := 0x40000000, mean := 0x3FC00000, m2 := 0x3F000000 } { n := 0x3F800000, mean := 0x40800000, m2 := 0 }).1
    = { n := 0x40400000, mean := 0x40155555, m2 := 0x40955556 } := by decide
/-- 14 R394's name flit: tensor 0x00012 and index 0xC2 in namespace 5. -/
theorem test_name : nameOf 0x05 0x00012 0xC2 = 0x05000120000000C2 := by decide
/-- 13 Table 13-1: the HI word of 14's example: SBASE 0x2_0400, SLOG 6, row order, EN. -/
theorem test_desc : (Desc.mk 0x20000004000001F2 0x2040062000000000).tokens = 32 ∧ (Desc.mk 0x20000004000001F2 0x2040062000000000).en = true ∧
    (Desc.mk 0x20000004000001F2 0x2040062000000000).slog = 6 ∧ (Desc.mk 0x20000004000001F2 0x2040062000000000).fmt = .bf16 := by decide

/-! ## States that meet the hypotheses of the statements: one slot in issue

A core that has nothing else before it, in a module that is up; what a row asks for is shown of a core of its own. -/

/-- The core with a slot in issue at address 0x100. -/
def slotCore (c : Core) (pos : Fin 8) (i : Instr) : Core := { c with issue := { Issue.at_ 0x100 with todo := [(pos, i)] } }

/-- The module with one core. -/
def module (c : Core) : State := { State.reset with bringUp := .up, cores := [(0, c)] }

/-- What its slots see. -/
def view : Env :=
  { core := 0, wcc := 0, caps := 0x0032A01860880002, hop := 0, plane := false, shadow := false, draining := false, part := 0
    outstanding := 0, globalsDone := true, shared := 32, taken := 0, landings := [] }

theorem reset_ctx (k : Fin 8) : State.reset.ctxs[k] = Ctx.reset := Vector.getElem_replicate _

theorem module_env (c : Core) : (module c).env 0 = { view with outstanding := c.gatedGlobals } := by
  unfold State.env module
  cases hf : c.firing <;>
    simp [State.core, assoc, hf, State.reset, view, State.part, State.planeOf, Ctx.reset, State.partHop, boolBit, quadOf, quadCores, State.commands,
      beyondShare, findFin, coreX, coreY, coreNum, Sys2Proof.Config.cols]

theorem module_view (c : Core) (h : c.gatedGlobals = 0) : (module c).env (module c).focus = view := by
  rw [show (module c).focus = 0 from rfl, module_env, h]; rfl

theorem module_last (c : Core) (pos : Fin 8) (i : Instr) : LastSlot (module (slotCore c pos i)) (slotCore c pos i) pos i :=
  ⟨rfl, rfl, rfl, rfl, rfl⟩

/-- Every register of the core is full, no fill is pending, the gate and the scratchpad are empty, nothing is in flight. -/
structure Ready (c : Core) : Prop where
  s : c.regs.sFull = BitVec.allOnes 32
  v : c.regs.vFull = BitVec.allOnes 32
  h : c.regs.hFull = BitVec.allOnes 16
  w : c.regs.wFull = BitVec.allOnes 8
  good : c.regs.bad = []
  fills : c.fills = []
  gate : c.gate = []
  spad : c.spad = []
  flight : c.flight = []

theorem ready_full {c : Core} (h : Ready c) (r : FullReg) : c.regs.full r = true := by
  cases r with
  | s r => simp only [Regs.full, h.s, BitVec.getLsbD_allOnes, r.isLt, decide_true, Bool.or_true]
  | v r => simp only [Regs.full, h.v, BitVec.getLsbD_allOnes, r.isLt, decide_true]
  | h r => simp only [Regs.full, h.h, BitVec.getLsbD_allOnes, r.isLt, decide_true]
  | w r => simp only [Regs.full, h.w, BitVec.getLsbD_allOnes, r.isLt, decide_true]

/-- Some state, core and position meet what `Completes i r` assumes, and what `Stores i r` does. -/
def Met (i : Instr) (r : SlotRow) : Prop :=
  ∃ s c pos, LastSlot s c pos i ∧ Quiet c ∧ c.spad.wf = true ∧ (r (s.env s.focus) c pos).ok ∧
    CanRun c (r (s.env s.focus) c pos).pred (r (s.env s.focus) c pos).srcs (r (s.env s.focus) c pos).dests (r (s.env s.focus) c pos).effects

/-- A core that is ready meets it, where the row asks for nothing else, runs always, and stores at most what the gate holds. -/
theorem met {i : Instr} {r : SlotRow} (c : Core) (pos : Fin 8) (hc : Ready c) (ho : (r view (slotCore c pos i) pos).ok)
    (hp : (r view (slotCore c pos i) pos).pred = always) (he : rowsTaken (r view (slotCore c pos i) pos).effects ≤ 32) : Met i r := by
  have e : (module (slotCore c pos i)).env (module (slotCore c pos i)).focus = view :=
    module_view _ (by simp [Core.gatedGlobals, slotCore, hc.gate])
  refine ⟨module (slotCore c pos i), slotCore c pos i, pos, module_last c pos i, ⟨rfl, rfl, rfl, rfl, hc.flight⟩, ?_, ?_, ?_⟩
  · show c.spad.wf = true
    rw [hc.spad]; rfl
  · rw [e]; exact ho
  · rw [e]
    refine ⟨?_, fun x _ => ready_full (c := slotCore c pos i) ⟨hc.s, hc.v, hc.h, hc.w, hc.good, hc.fills, hc.gate, hc.spad, hc.flight⟩ x.1, fun d _ => ?_, fun x _ => ?_, ?_⟩
    · rw [hp]; rfl
    · simp [Core.pending, slotCore, hc.fills]
    · simp [slotCore, hc.good]
    · have : (slotCore c pos i).issue.effects = [] := rfl
      rw [this]
      simpa [slotCore, hc.gate, gateRows] using he

theorem reset_ready : Ready Core.reset := ⟨rfl, rfl, rfl, rfl, rfl, rfl, rfl, rfl, rfl⟩

/-- A row that asks for nothing is met at reset. -/
theorem met_plain {i : Instr} {r : SlotRow} (ho : (r view (slotCore Core.reset 0 i) 0).ok) (hp : (r view (slotCore Core.reset 0 i) 0).pred = always)
    (he : rowsTaken (r view (slotCore Core.reset 0 i) 0).effects = 0) : Met i r :=
  met Core.reset 0 reset_ready ho hp (by omega)

/-- Every clause of `ScalarRegisterForms` and of `ScalarImmediateForms`, at any operands. -/
theorem met_scalar (i : Instr) (d : Fin 32) (srcs : List Src) (lat : Nat) (x : Regs → Word) : Met i (scalarRow always d srcs lat x) :=
  met_plain trivial rfl rfl

/-- Every clause of `CompareAndPredicateForms`. -/
theorem met_predicate (i : Instr) (pd : Fin 8) (srcs : List Src) (x : Regs → Bool) : Met i (predRow always pd srcs x) :=
  met_plain trivial rfl rfl

/-- The clauses of `VectorFloatForms`, `LaneMoveForms` and the special functions of `SpecialAndConversionForms`. -/
theorem met_lanes (i : Instr) (d : Fin 32) (msk : Fin 8) (srcs : List Src) (lat : Nat) (f : Core → Fin 16 → LaneOut) :
    Met i (laneRow always d msk srcs lat f) :=
  met_plain trivial rfl rfl

/-- The compares of `VectorIntegerAndCompareForms`. -/
theorem met_mask (i : Instr) (d msk : Fin 8) (a : Fin 32) (ta : Bool) (b : Fin 32) (tb : Bool) (lat : Nat) (g : Lane → Lane → Bool × FpFlags) :
    Met i (maskRow always d msk a ta b tb lat g) :=
  met_plain trivial rfl rfl

/-- The reductions of `ReductionAndMaskForms`. -/
theorem met_reduce (i : Instr) (d a : Fin 32) (ta : Bool) (msk : Fin 8) (g : Core → Lane → Lane → Lane × FpFlags) :
    Met i (reduceRow always d a ta msk g) :=
  met_plain trivial rfl rfl

/-- A row of an always slot, as the statements write theirs. -/
abbrev row (closing : Bool) (srcs : List Src) (dests : List FullReg) (ok : Env → Core → Prop) (es : Env → Core → List Effect) : SlotRow :=
  fun env c _ => { pred := always, srcs, dests, ok := ok env c, closing, effects := es env c }

/-- A row that asks for nothing and stores nothing: the mask forms, `srd`, `cfgq`, `wccr`, `vext`, `vins`, `hinv`, the waits, the fences,
`qget`, `coll.recv.w` and their like. -/
theorem met_row (i : Instr) (closing : Bool) (srcs : List Src) (dests : List FullReg) (es : Env → Core → List Effect)
    (h : rowsTaken (es view (slotCore Core.reset 0 i)) = 0) : Met i (row closing srcs dests (fun _ _ => True) es) :=
  met_plain trivial rfl h

/-- A record of tensor 0x12 with a rate of 256 tokens, and a task of CODE region 0 to 0x200 whose records it is. -/
def record : NameRec :=
  { tensor := 0x12, pull := false, tagrule := 0, tagoff := 0, rate := 256, scales := false, coords := [], widths := [], lbase := 0x1000, lsize := 64
    sbase := 0, back := false, live := false, ends := false }
def task : Task :=
  { num := 3, prio := 0, weight := 1, herd := false, hsize := 1, graph := 0, strict := true, codeBase := 0, codeEnd := 0x200, entry := 0, levels := []
    order := 0, subs := [record], pubs := [record], window := 1, slots := 1, lstride := 0, after := [], tagbase := 0, btmo := 20, live := none
    members := [0], gate := 0, psblk := 64, preblk := 0, modes := [], sweight := 0, carry := false, vsns := [], code := [], data := [] }
def firing : Firing :=
  { ctx := 0, task, ns := 5, ordinal := 0, indices := [], tag := 7, rank := 0, member := 0, slot := 0, voids := [], failed := none, landings := []
    state := .running, trig := false, pubs := [] }
/-- 16 rows of one token of BF16 at 0x1000, EN = 1; a page of 64 KiB that may be read and written; bank 0 of the accumulators lent to group 0,
bank 1 allocated; 16 rows of one triple at 0x8000. -/
def stream : Desc := { lo := 0x010000004000F002, hi := 0x2000000000 }
def triples : Desc := { lo := 0x08000000C000F00A, hi := 0x2000000000 }
def page : Handle := { valid := true, size := .k64, rd := true, wr := true, pbase := 0x30000, vpage := 0x50000 }
/-- A core with every stream and handle set so, at reset else: s1 is the last address of the window that holds eight bytes, s2 the last of the
page, s3 and s6 the last that hold a token and three; v2 holds micro-operations e0 + l0. -/
def base : Core :=
  let g : Regs := { Regs.start with
    h := Vector.replicate 16 page,
    s := (((Regs.start.s.set 1 0xBFFF8).set 2 0xFFF8).set 3 0xBFFC0).set 6 0xBFF40,
    v := Regs.start.v.set 2 { elem := Vector.replicate 16 0x03004000, valid := BitVec.allOnes 16 } }
  { Core.reset with q := Vector.replicate 16 stream, accMap := 3, accOwn := 0x8000, regs := g, userNext := true }
/-- The same with a firing. -/
def fired : Core := { base with firing := some firing }

/-- The same with streams of triples. -/
def tripled : Core := { base with q := Vector.replicate 16 triples }

theorem tripled_ready : Ready tripled := ⟨rfl, rfl, rfl, rfl, rfl, rfl, rfl, rfl, rfl⟩
theorem base_ready : Ready base := ⟨rfl, rfl, rfl, rfl, rfl, rfl, rfl, rfl, rfl⟩
theorem fired_ready : Ready fired := ⟨rfl, rfl, rfl, rfl, rfl, rfl, rfl, rfl, rfl⟩

/-- An even target in the window (11 R321). -/
abbrev Target (t : Int) : Prop := 0 ≤ t ∧ t < (windowEnd : Int) ∧ t % 2 = 0

/-- `TransferForms`: to address 0, the lowest; a `brc` that is taken and one that is not; to a register's address. -/
theorem met_transfers :
    Met (.br always { off := -128 }) (row false [] [] (fun _ c => Target ((c.issue.pc : Int) + 2 * (-128 : BitVec 20).toInt))
      fun _ c => [.jump ((c.issue.pc : Int) + 2 * (-128 : BitVec 20).toInt).toNat true]) ∧
    Met (.brc always { off := -1, a := 0, ta := false, cond := .z }) (row false [(.s 0, false)] []
      (fun _ c => condHolds .z (c.regs.gets 0) = true → Target ((c.issue.pc : Int) - 2)) fun _ _ => [.jump 0xFE true]) ∧
    Met (.brcExt always { off := -1, a := 0, ta := false, cond := .nz }) (row false [(.s 0, false)] []
      (fun _ c => condHolds .nz (c.regs.gets 0) = true → Target ((c.issue.pc : Int) - 2)) fun _ _ => []) ∧
    Met (.jr always { a := 1, ta := false }) (row false [(.s 1, false)] [] (fun _ c => Target (c.regs.gets 1).toNat)
      fun _ c => [.jump (c.regs.gets 1).toNat true]) ∧
    Met (.call always { off := 0 }) (row false [] [.s 31] (fun _ c => Target (c.issue.pc : Int))
      fun _ c => [.jump c.issue.pc false, .result (.s 31 (BitVec.ofNat 64 (c.issue.pc + c.bundleLen))) 1]) ∧
    Met (.ret always) (row false [(.s 31, false)] [] (fun _ c => Target (c.regs.gets 31).toNat) fun _ c => [.jump (c.regs.gets 31).toNat false]) :=
  ⟨met base 7 base_ready (by decide) rfl (by decide), met base 7 base_ready (by decide) rfl (by decide), met base 7 base_ready (by decide) rfl (by decide),
    met base 7 base_ready (by decide) rfl (by decide), met base 7 base_ready (by decide) rfl (by decide), met base 7 base_ready (by decide) rfl (by decide)⟩

/-- `LoopForms`: an END at the end of the CODE region; a count, a count of zero. -/
theorem met_loops :
    Met (.lp always { a := 1, ta := false, stop := 128 }) (row false [(.s 1, false)] []
      (fun _ c => c.issue.pc + 2 * 128 ≤ c.codeEnd ∧ c.regs.gets 1 ≠ 0 ∧ c.loops.length < 4)
      fun _ c => [.loopPush (c.issue.pc + c.bundleLen) (c.issue.pc + 256) (c.regs.gets 1)]) ∧
    Met (.lp always { a := 4, ta := false, stop := 128 }) (row false [(.s 4, false)] []
      (fun _ c => c.issue.pc + 2 * 128 ≤ c.codeEnd ∧ c.regs.gets 4 = 0 ∧ c.issue.pc + 2 * 128 < windowEnd ∧ c.issue.pc % 2 = 0)
      fun _ c => [.jump (c.issue.pc + 256) true]) ∧
    Met (.lpx always { cntm1 := 0, stop := 128 }) (row false [] [] (fun _ c => c.issue.pc + 2 * 128 ≤ c.codeEnd ∧ c.loops.length < 4)
      fun _ c => [.loopPush (c.issue.pc + c.bundleLen) (c.issue.pc + 256) 1]) :=
  ⟨met fired 7 fired_ready (by decide) rfl (by decide), met fired 7 fired_ready (by decide) rfl (by decide), met fired 7 fired_ready (by decide) rfl (by decide)⟩

/-- `SystemRegisterForms`: FPCR and a key written without a reserved bit, and with one, where the slot traps. -/
theorem met_swr :
    Met (.swr always { reg := .fpcr, a := 0, ta := false }) (row true [(.s 0, false)] [] (fun _ c => c.regs.gets 0 &&& ~~~0x1F07 = 0)
      fun _ c => [.setFpcr (c.regs.gets 0)]) ∧
    (∀ k, Met (.swr always { reg := .key k, a := 1, ta := false }) (row true [(.s 1, false)] [] (fun _ c => (c.regs.gets 1).toNat < 2 ^ 32)
      fun _ c => [.setKey k (c.regs.gets 1)])) :=
  ⟨met base 7 base_ready (by decide) rfl (by decide), fun _ => met base 7 base_ready (by show (0xBFFF8 : Nat) < 2 ^ 32; decide) rfl (Nat.zero_le _)⟩
theorem met_swr_trap : ∃ s c, LastSlot s c 7 (.swr always { reg := .fpcr, a := 1, ta := false }) ∧ c.executes always = true ∧
    c.regs.full (.s 1) = true ∧ FullReg.s 1 ∉ c.regs.bad ∧ gateRows c.gate + rowsTaken c.issue.effects ≤ 32 ∧ c.regs.gets 1 &&& ~~~0x1F07 ≠ 0 :=
  ⟨_, _, module_last base 7 _, rfl, rfl, by decide, by decide, by decide⟩

/-- `SpecialAndConversionForms`: a tapered format, while the wafer has the decoders, by RSTO. -/
theorem met_conversions :
    Met (.vcvt always { d := 6, a := 4, ta := false, v := 9, tv := false, rms := .rsto, msk := 0, sfmt := .f32, dfmt := .t6 })
      (row false [(.v 4, false), (.v 9, false)] [.v 6] (fun e _ => e.caps.toNat / 2 % 2 = 1) fun _ _ => []) ∧
    Met (.vpack always { d := 6, a := 4, ta := false, v := 9, tv := false, rms := .rsto, sfmt := .f32, dfmt := .t6 })
      (row false [(.v 4, false), (.v 9, false)] [.v 6] (fun e _ => e.caps.toNat / 2 % 2 = 1) fun _ _ => []) ∧
    Met (.vunpack always { d := 6, a := 4, ta := false, v := 9, tv := false, rms := .rsto, sfmt := .t8, dfmt := .f32 })
      (row false [(.v 4, false), (.v 9, false)] [.v 6] (fun e _ => e.caps.toNat / 2 % 2 = 1) fun _ _ => []) :=
  ⟨met base 3 base_ready (by decide) rfl (by decide), met base 3 base_ready (by decide) rfl (by decide), met base 3 base_ready (by decide) rfl (by decide)⟩

/-- `ScratchpadForms`, `StoreFrame`: a word at the last address of the window that holds it, a token at the last that holds it. -/
theorem met_loads :
    Met (.ld always { d := 4, a := 1, ta := false, off := 0, ty := .i64 }) (loadRow always 4 1 false .i64 fun a => a + (0 : BitVec 5).signExtend 64 * 8) ∧
    Met (.ldExt always { d := 4, a := 0, ta := false, off := 0xBFFF8, ty := .i64 })
      (loadRow always 4 0 false .i64 fun a => a + (0xBFFF8 : BitVec 32).signExtend 64) ∧
    Met (.vld always { d := 4, a := 3, ta := false, off := 0 }) (vloadRow always 4 3 false (fun _ => BitVec.allOnes 16) fun a => a + (0 : BitVec 5).signExtend 64 * 64) ∧
    Met (.vldExt always { d := 4, a := 3, ta := false, off := 0 })
      (vloadRow always 4 3 false (fun _ => BitVec.allOnes 16) fun a => a + (0 : BitVec 32).signExtend 64) ∧
    Met (.vldm always { d := 4, a := 3, ta := false, off := 0, msk := 1 }) (vloadRow always 4 3 false (fun g => g.m[(1 : Fin 8)]) fun a => a + (0 : BitVec 5).signExtend 64 * 64) ∧
    Met (.vldmExt always { d := 4, a := 3, ta := false, off := 0, msk := 1 }) (vloadRow always 4 3 false (fun g => g.m[(1 : Fin 8)]) fun a => a + (0 : BitVec 32).signExtend 64) :=
  ⟨met base 4 base_ready ⟨⟨by decide, by decide, by decide⟩, by decide⟩ rfl (by decide), met base 4 base_ready ⟨⟨by decide, by decide, by decide⟩, by decide⟩ rfl (by decide),
    met base 4 base_ready ⟨by decide, ⟨by decide, by decide, by decide⟩, by decide⟩ rfl (by decide),
    met base 4 base_ready ⟨by decide, ⟨by decide, by decide, by decide⟩, by decide⟩ rfl (by decide),
    met base 4 base_ready ⟨by decide, ⟨by decide, by decide, by decide⟩, by decide⟩ rfl (by decide),
    met base 4 base_ready ⟨by decide, ⟨by decide, by decide, by decide⟩, by decide⟩ rfl (by decide)⟩

theorem met_stores :
    Met (.st always { d := 4, a := 1, ta := false, td := false, off := 0, ty := .i64 })
      (storeRow always 4 1 false false .i64 fun a => a + (0 : BitVec 5).signExtend 64 * 8) ∧
    Met (.stExt always { d := 4, a := 0, ta := false, td := false, off := 0xBFFF8, ty := .i64 })
      (storeRow always 4 0 false false .i64 fun a => a + (0xBFFF8 : BitVec 32).signExtend 64) ∧
    Met (.vst always { d := 4, a := 3, ta := false, td := false, off := 0 })
      (vstoreRow always 4 3 false false (fun _ => BitVec.allOnes 16) fun a => a + (0 : BitVec 5).signExtend 64 * 64) ∧
    Met (.vstExt always { d := 4, a := 3, ta := false, td := false, off := 0 })
      (vstoreRow always 4 3 false false (fun _ => BitVec.allOnes 16) fun a => a + (0 : BitVec 32).signExtend 64) ∧
    Met (.vstm always { d := 4, a := 3, ta := false, td := false, off := 0, msk := 1 })
      (vstoreRow always 4 3 false false (fun g => g.m[(1 : Fin 8)]) fun a => a + (0 : BitVec 5).signExtend 64 * 64) ∧
    Met (.vstmExt always { d := 4, a := 3, ta := false, td := false, off := 0, msk := 1 })
      (vstoreRow always 4 3 false false (fun g => g.m[(1 : Fin 8)]) fun a => a + (0 : BitVec 32).signExtend 64) :=
  ⟨met base 4 base_ready ⟨by decide, by decide, by decide, by decide⟩ rfl (by decide),
    met base 4 base_ready ⟨by decide, by decide, by decide, by decide⟩ rfl (by decide),
    met base 4 base_ready ⟨by decide, ⟨by decide, by decide, by decide, by decide⟩⟩ rfl (by decide),
    met base 4 base_ready ⟨by decide, ⟨by decide, by decide, by decide, by decide⟩⟩ rfl (by decide),
    met base 4 base_ready ⟨by decide, ⟨by decide, by decide, by decide, by decide⟩⟩ rfl (by decide),
    met base 4 base_ready ⟨by decide, ⟨by decide, by decide, by decide, by decide⟩⟩ rfl (by decide)⟩

/-- An AMO on the last word of a page. -/
abbrev amo : Form.Amo := { d := 4, h := 1, th := false, a := 2, ta := false, b := 1, tb := false, ty := .i64 }

/-- `GlobalForms`: the last word of a page; a `gld` behind a gated `gst`. -/
theorem met_globals :
    Met (.gld always { d := 4, h := 1, th := false, a := 2, ta := false, ty := .i64 }) (row false [(.h 1, false), (.s 2, false)] [.s 4]
      (fun e c => Reaches c.regs.h[(1 : Fin 16)] (c.regs.gets 2) 8 0 ∧ e.requestsFull = false ∧ c.gatedGlobal = false) fun _ _ => []) ∧
    Met (.gst always { d := 4, td := false, h := 1, th := false, a := 2, ta := false, ty := .i64 }) (row false [(.h 1, false), (.s 2, false), (.s 4, false)] []
      (fun e c => Reaches c.regs.h[(1 : Fin 16)] (c.regs.gets 2) 8 1 ∧ e.requestsFull = false)
      fun _ _ => [.gate { store := .global 0x5FFF8 0x3FFF8 8 0 page, rows := 1 }]) ∧
    (∀ i ∈ ([.amoAdd always amo, .amoMin always amo, .amoMax always amo, .amoSwap always amo] : List Instr), ∀ op x y, Met i
      (amoRow always op .i64 4 1 false 2 false [(.s 1, false)] x y)) ∧
    (∀ x y, Met (.amoCas always { d := 4, h := 1, th := false, a := 2, ta := false, b := 1, tb := false, c := 3, tc := false, ty := .n64 })
      (amoRow always 4 .n64 4 1 false 2 false [(.s 1, false), (.s 3, false)] x y)) ∧
    (∀ x y, Met (.amoFadd always { d := 4, h := 1, th := false, a := 2, ta := false, b := 1, tb := false })
      (amoRow always 5 .i32 4 1 false 2 false [(.s 1, false)] x y)) :=
  ⟨met base 4 base_ready ⟨⟨by decide, by decide, by decide, by decide⟩, by decide, by decide⟩ rfl (by decide),
    met base 4 base_ready ⟨⟨by decide, by decide, by decide, by decide⟩, by decide⟩ rfl (by decide),
    by
      intro i hi op x y
      rcases List.mem_cons.1 hi with rfl | hi
      · exact met base 4 base_ready ⟨⟨by decide, by decide, by decide, by decide⟩, by decide⟩ rfl (Nat.zero_le _)
      · simp only [List.mem_cons, List.not_mem_nil, or_false] at hi
        rcases hi with rfl | rfl | rfl <;>
          exact met base 4 base_ready ⟨⟨by decide, by decide, by decide, by decide⟩, by decide⟩ rfl (Nat.zero_le _),
    fun _ _ => met base 4 base_ready ⟨⟨by decide, by decide, by decide, by decide⟩, by decide⟩ rfl (Nat.zero_le _),
    fun _ _ => met base 4 base_ready ⟨⟨by decide, by decide, by decide, by decide⟩, by decide⟩ rfl (Nat.zero_le _)⟩
/-- The core with a `gst` in its gate. -/
def gated : Core := { base with gate := [{ store := .global 0x5FFF8 0x3FFF8 8 0 page, rows := 1 }] }
theorem met_gld_release : ∃ s c, LastSlot s c 4 (.gld always { d := 4, h := 1, th := false, a := 2, ta := false, ty := .i64 }) ∧
    Reaches c.regs.h[(1 : Fin 16)] (c.regs.gets 2) 8 0 ∧ (s.env s.focus).requestsFull = false ∧ c.gatedGlobal = true ∧
    CanRun c always [(.h 1, false), (.s 2, false)] [.s 4] [.load 4 .i64 0x5FFF8 0x3FFF8 page] :=
  ⟨_, _, module_last gated 4 _, ⟨by decide, by decide, by decide, by decide⟩, by rw [show (module (slotCore gated 4 _)).focus = 0 from rfl, module_env]; rfl, rfl,
    ⟨rfl, by decide, by decide, by decide, by decide⟩⟩

/-- `HandleCacheAndFenceForms`: the last address a translation takes, the last line of a page, a bank that may change its mode; `pf` that does
something. -/
theorem met_handles :
    Met (.xlat always { h := 2, a := 1, ta := false }) (row false [(.s 1, false)] [.h 2] (fun _ c => (c.regs.gets 1).toNat < 2 ^ 52)
      fun _ c => [.xlat 2 (c.regs.gets 1).toNat]) ∧
    Met (.cinv always { h := 1, a := 2, ta := false }) (row false [(.h 1, false), (.s 2, false)] []
      (fun _ c => c.regs.h[(1 : Fin 16)].valid = true ∧ (c.regs.gets 2).toNat < c.regs.h[(1 : Fin 16)].size.bytes) fun _ _ => [.drop 0x7FF]) ∧
    Met (.bankmode always { bank := 3, mode := 1 }) (row true [] []
      (fun e c => QueueOk c .bank ∧ (1 : Fin 4).val < 2 ∧ c.meetsCode (bankSpan 3) = false ∧ c.cfgModes[(3 : Fin 16)] ≠ fifoMode ∧
        ∀ x ∈ e.landings, x.meets (bankSpan 3) = false) fun _ _ => [.bankmode 3 1]) :=
  ⟨met base 4 base_ready (by decide) rfl (by decide), met base 4 base_ready (by decide) rfl (by decide),
    met fired 4 fired_ready ⟨⟨by decide, by decide⟩, by decide, by decide, by decide, by decide⟩ rfl (by decide)⟩

/-- `StreamerForms`: a tile in a page, a copy of one byte, of none, between streams, and a fill. -/
theorem met_copies :
    (∀ time, Met (.tld always { q := 1, h := 1, th := false, a := 4, ta := false }) (tileRow always true 1 1 false 4 false [] time)) ∧
    (∀ time, Met (.tldTimed always { q := 1, h := 1, th := false, a := 4, ta := false, e := 5, te := false })
      (tileRow always true 1 1 false 4 false [(.s 5, false)] time)) ∧
    (∀ time, Met (.tst always { q := 1, h := 1, th := false, a := 4, ta := false }) (tileRow always false 1 1 false 4 false [] time)) ∧
    (∀ time, Met (.tstTimed always { q := 1, h := 1, th := false, a := 4, ta := false, e := 5, te := false })
      (tileRow always false 1 1 false 4 false [(.s 5, false)] time)) ∧
    Met (.cpy always { d := 1, td := false, a := 4, ta := false, n := 5, tn := false }) (row true [(.s 1, false), (.s 4, false), (.s 5, false)] []
      (fun e c => ((c.regs.gets 5).toNat ≠ 0 → StreamerOk c e) ∧ c.cpyTrap 4 (c.regs.gets 1).toNat (c.regs.gets 4).toNat (c.regs.gets 5).toNat = none)
      fun _ _ => [.copy (.cpy 0xBFFF8 0 0) 0 (spanOf 0 0) (spanOf 0xBFFF8 0)]) ∧
    Met (.cpy2d always { q := 1, s := 2 }) (row true [] []
      (fun e c => StreamerOk c e ∧ StreamOk c c.q[(2 : Fin 16)] false ∧ StreamOk c c.q[(1 : Fin 16)] true ∧ c.q[(2 : Fin 16)].rows = c.q[(1 : Fin 16)].rows ∧
        c.q[(2 : Fin 16)].cols = c.q[(1 : Fin 16)].cols ∧ (c.q[(1 : Fin 16)].fmt = .triple ↔ c.q[(2 : Fin 16)].fmt = .triple) ∧
        (c.q[(1 : Fin 16)].fmt = c.q[(2 : Fin 16)].fmt ∧ c.q[(1 : Fin 16)].slog = c.q[(2 : Fin 16)].slog ∨ c.q[(1 : Fin 16)].slog = 0)) fun _ _ => []) ∧
    Met (.fill always { q := 1, a := 2, ta := false }) (row true [(.s 2, false)] [] (fun e c => StreamerOk c e ∧ StreamOk c c.q[(1 : Fin 16)] true) fun _ _ => []) :=
  ⟨fun _ => met base 4 base_ready ⟨⟨by decide, by decide⟩, by decide, by decide⟩ rfl (Nat.zero_le _),
    fun _ => met base 4 base_ready ⟨⟨by decide, by decide⟩, by decide, by decide⟩ rfl (Nat.zero_le _),
    fun _ => met base 4 base_ready ⟨⟨by decide, by decide⟩, by decide, by decide⟩ rfl (Nat.zero_le _),
    fun _ => met base 4 base_ready ⟨⟨by decide, by decide⟩, by decide, by decide⟩ rfl (Nat.zero_le _),
    met base 4 base_ready ⟨fun h => absurd rfl h, by decide⟩ rfl (by decide),
    met base 4 base_ready ⟨⟨by decide, by decide⟩, ⟨by decide, by decide, by decide⟩, ⟨by decide, by decide, by decide⟩, by decide⟩ rfl (by decide),
    met fired 4 fired_ready ⟨⟨by decide, by decide⟩, by decide, by decide, by decide⟩ rfl (by decide)⟩

/-- `StreamAndBankForms`: a descriptor that is enabled; banks that are free, lent, allocated; a product, a drain, a gather of 16 rows. -/
theorem met_banks :
    Met (.qset always { q := 0, a := 4, ta := false, b := 5, tb := false }) (row true [(.s 4, false), (.s 5, false)] []
      (fun e _ => Core.qsetTrap e 5 stream = none) fun _ _ => [.result (.q 0 stream) 1]) ∧
    Met (.aalloc always { f := 2, l := 63 }) (row true [] [] (fun _ c => c.queueFull .matrix = false ∧ c.someAlloc 2 63 = false) fun _ _ => []) ∧
    Met (.afree always { f := 1, l := 1 }) (row true [] []
      (fun _ c => c.queueFull .matrix = false ∧ c.allAlloc 1 1 = true ∧ c.bandMeets none 1 1 = false) fun _ _ => []) ∧
    Met (.aown always { f := 0, l := 1, g := 0 }) (row true [] []
      (fun _ c => c.queueFull .matrix = false ∧ c.allAlloc 0 1 = true ∧ c.bandMeets (some 0) 0 1 = false) fun _ _ => []) ∧
    Met (.aclr always { f := 0, l := 1 }) (row true [] [] (fun _ c => c.queueFull .matrix = false ∧ c.allAlloc 0 1 = true) fun _ _ => []) ∧
    Met (.adrain always { f := 0, l := 0, q := 1, clr := true, g := 0 }) (row true [] []
      (fun _ c => QueueOk c .matrix ∧ StreamOk c c.q[(1 : Fin 16)] true ∧ c.q[(1 : Fin 16)].fmt ≠ .triple ∧ c.q[(1 : Fin 16)].rows % 16 = 0 ∧
        c.q[(1 : Fin 16)].rows / 16 * c.q[(1 : Fin 16)].cols = 1 ∧ c.q[(1 : Fin 16)].slog = 0 ∧ c.allAlloc 0 0 = true ∧
        ∃ a b, c.band 0 = some (a, b) ∧ a ≤ 0 ∧ 0 ≤ b) fun _ _ => []) ∧
    Met (.aread always { k := 1, row := 15, d := 1 }) (row true [] [.v 1] (fun _ c => c.queueFull .matrix = false ∧ c.allAlloc 1 1 = true) fun _ _ => []) ∧
    Met (.mmag always { f := 0, l := 0, qa := 0, ovw := true, qb := 1, i := 1, ti := false }) (row true [(.v 1, false)] []
      (fun e c => QueueOk c .matrix ∧ StreamOk c c.q[(0 : Fin 16)] false ∧ StreamOk c c.q[(1 : Fin 16)] false ∧ c.q[(0 : Fin 16)].fmt ≠ .triple ∧
        c.q[(1 : Fin 16)].fmt ≠ .triple ∧ e.caps.toNat / 2 % 2 = 1 ∧ c.q[(0 : Fin 16)].rows % 16 = 0 ∧ c.q[(1 : Fin 16)].rows = c.q[(0 : Fin 16)].width ∧
        c.q[(0 : Fin 16)].rows / 16 * c.q[(1 : Fin 16)].cols = 1 ∧ c.q[(1 : Fin 16)].cols = 1 ∧ kstep c.q[(0 : Fin 16)].fmt c.q[(1 : Fin 16)].fmt ≠ none ∧
        c.allAlloc 0 0 = true ∧
        ∀ j : Fin 16, (c.regs.v[(1 : Fin 32)]).valid.getLsbD j.val = true → (c.regs.v[(1 : Fin 32)]).elem[j].toNat < c.q[(0 : Fin 16)].rows) fun _ _ => []) :=
  ⟨met base 5 base_ready (by decide) rfl (by decide), met base 5 base_ready (by decide) rfl (by decide), met base 5 base_ready (by decide) rfl (by decide),
    met base 5 base_ready (by decide) rfl (by decide), met base 5 base_ready (by decide) rfl (by decide),
    met base 5 base_ready ⟨⟨by decide, by decide⟩, ⟨by decide, by decide, by decide⟩, by decide, by decide, by decide, by decide, by decide, 0, 0, by decide, by decide, by decide⟩
      rfl (by decide),
    met base 5 base_ready (by decide) rfl (by decide),
    met base 5 base_ready ⟨⟨by decide, by decide⟩, ⟨by decide, by decide, by decide⟩, ⟨by decide, by decide, by decide⟩, by decide, by decide, by decide,
      by decide, by decide, by decide, by decide, by decide, by decide, by decide⟩ rfl (by decide)⟩

/-- `ScanForms`: scans over streams of one shape, of triples where the operator is `moment`; a list of one micro-operation. -/
theorem met_scans :
    (∀ init, Met (.scanAdd always { y := 2, x := 1, herd := true }) (scanRow always .add 2 1 none none true [] init)) ∧
    (∀ init, Met (.scanMaxInit always { y := 2, x := 1, herd := false, vi := 1, tvi := false }) (scanRow always .max 2 1 none none false [(.v 1, false)] init)) ∧
    (∀ init, Met (.scanAffine always { y := 2, x := 1, x2 := 3, herd := true, init := true, y2 := 4, vi := 1, tvi := false, vj := 2, tvj := false })
      (scanRow always .affine 2 1 (some 3) (some 4) true [(.v 1, false), (.v 2, false)] init)) ∧
    (∀ init, Met (.scanLse always { y := 2, x := 1, x2 := 3, herd := false, init := false, y2 := 4, vi := 0, tvi := false, vj := 0, tvj := false })
      (scanRow always .lse 2 1 (some 3) (some 4) false [] init)) ∧
    (∀ init, Met (.scanMoment always { y := 2, x := 1, herd := false }) (scanRow always .moment 2 1 none none false [] init)) ∧
    (∀ init, Met (.scanMomentInit always { y := 2, x := 1, herd := false, vi := 3, tvi := false })
      (scanRow always .moment 2 1 none none false [(.w 3, false)] init)) ∧
    (∀ init, Met (.scanUser always { y := 2, x := 1, herd := false }) (scanRow always .user 2 1 none none false [] init)) ∧
    (∀ init, Met (.scanUserExt always { y := 2, x := 1, x2 := 3, herd := false, init := true, pair := true, y2 := 4, vi := 1, tvi := false, vj := 2, tvj := false })
      (scanRow always .user 2 1 (some 3) (some 4) false [(.v 1, false), (.v 2, false)] init)) ∧
    Met (.scdef always { n := 0, a := 2, ta := false }) (row true [(.v 2, false)] []
      (fun _ c => c.queueFull .scan = false ∧ microList c.regs.v[(2 : Fin 32)] 1 = some [{ op := 1, dst := 8, sa := 0, sb := 2, sc := 0 }]) fun _ _ => []) ∧
    Met (.csend always { v := 1, tv := false, dn := true }) (row true [(.v 1, false)] [] (fun _ c => c.queueFull .scan = false) fun _ _ => []) ∧
    Met (.crecv always { v := 1, dn := true }) (row true [] [.v 1] (fun _ c => c.queueFull .scan = false) fun _ _ => []) ∧
    Met (.cbar always) (row true [] [] (fun _ c => c.queueFull .scan = false) fun _ _ => []) :=
  ⟨fun _ => met base 5 base_ready ⟨⟨by decide, by decide⟩, by decide⟩ rfl (Nat.zero_le _), fun _ => met base 5 base_ready ⟨⟨by decide, by decide⟩, by decide⟩ rfl (Nat.zero_le _),
    fun _ => met base 5 base_ready ⟨⟨by decide, by decide⟩, by decide⟩ rfl (Nat.zero_le _), fun _ => met base 5 base_ready ⟨⟨by decide, by decide⟩, by decide⟩ rfl (Nat.zero_le _),
    fun _ => met tripled 5 tripled_ready ⟨⟨by decide, by decide⟩, by decide⟩ rfl (Nat.zero_le _),
    fun _ => met tripled 5 tripled_ready ⟨⟨by decide, by decide⟩, by decide⟩ rfl (Nat.zero_le _),
    fun _ => met base 5 base_ready ⟨⟨by decide, by decide⟩, by decide⟩ rfl (Nat.zero_le _), fun _ => met base 5 base_ready ⟨⟨by decide, by decide⟩, by decide⟩ rfl (Nat.zero_le _),
    met base 5 base_ready (by decide) rfl (by decide), met base 5 base_ready (by decide) rfl (by decide), met base 5 base_ready (by decide) rfl (by decide),
    met base 5 base_ready (by decide) rfl (by decide)⟩

/-- `StatisticsForms`: streams of one shape, and the last 192 bytes of the window. -/
theorem met_statistics :
    Met (.mupd always { w := 1, q := 1 }) (statRow always 1 [(.w 1, false)] (fun c _ => StreamOk c c.q[(1 : Fin 16)] false ∧ c.q[(1 : Fin 16)].fmt ≠ .triple)
      (fun c => .mupd 1 c.regs.w[(1 : Fin 8)] c.q[(1 : Fin 16)] none 1) (fun c => some c.q[(1 : Fin 16)].hull) fun _ => none) ∧
    Met (.mupdwStream always { w := 1, q := 1, qv := 2 }) (statRow always 1 [(.w 1, false)]
      (fun c _ => StreamOk c c.q[(1 : Fin 16)] false ∧ StreamOk c c.q[(2 : Fin 16)] false ∧ c.q[(1 : Fin 16)].fmt ≠ .triple ∧ c.q[(2 : Fin 16)].fmt ≠ .triple ∧
        c.q[(1 : Fin 16)].rows = c.q[(2 : Fin 16)].rows ∧ c.q[(1 : Fin 16)].cols = c.q[(2 : Fin 16)].cols)
      (fun c => .mupd 1 c.regs.w[(1 : Fin 8)] c.q[(1 : Fin 16)] (some c.q[(2 : Fin 16)]) 1) (fun c => some c.q[(1 : Fin 16)].hull)
      fun c => some c.q[(2 : Fin 16)].hull) ∧
    Met (.mmerge always { w := 1, v := 2 }) (statRow always 1 [(.w 1, false), (.w 2, false)] (fun _ _ => True)
      (fun c => .mmerge 1 c.regs.w[(1 : Fin 8)] c.regs.w[(2 : Fin 8)]) (fun _ => none) fun _ => none) ∧
    Met (.mdrain always { w := 1, s := 2, ts := false, kind := 3, d := 1 }) (row true [(.w 1, false), (.s 2, false)] [.v 1]
      (fun _ c => c.queueFull .stats = false) fun _ _ => []) ∧
    Met (.mdrainNorm always { w := 1, q := 1, s := 2, ts := false, qy := 2, g := 1, tg := false, b := 2, tb := false })
      (row true [(.w 1, false), (.s 2, false), (.v 1, false), (.v 2, false)] []
        (fun _ c => QueueOk c .stats ∧ StreamOk c c.q[(1 : Fin 16)] false ∧ StreamOk c c.q[(2 : Fin 16)] true ∧ c.q[(1 : Fin 16)].fmt ≠ .triple ∧
          c.q[(2 : Fin 16)].fmt ≠ .triple ∧ c.q[(1 : Fin 16)].rows = c.q[(2 : Fin 16)].rows ∧ c.q[(1 : Fin 16)].cols = c.q[(2 : Fin 16)].cols) fun _ _ => []) ∧
    Met (.mld always { w := 1, s := 6, ts := false }) (statRow always 1 [(.s 6, false)]
      (fun c _ => (c.regs.gets 6).toNat + 192 ≤ windowEnd ∧ c.scratchOnly { lo := (c.regs.gets 6).toNat, hi := (c.regs.gets 6).toNat + 191 } = true)
      (fun c => .mld 1 (c.regs.gets 6).toNat) (fun c => some { lo := (c.regs.gets 6).toNat, hi := (c.regs.gets 6).toNat + 191 }) fun _ => none) ∧
    Met (.mst always { w := 1, s := 6, ts := false }) (row true [(.w 1, false), (.s 6, false)] []
      (fun _ c => QueueOk c .stats ∧ (c.regs.gets 6).toNat + 191 < windowEnd ∧
        c.scratchOnly { lo := (c.regs.gets 6).toNat, hi := (c.regs.gets 6).toNat + 191 } = true ∧
        c.meetsCode { lo := (c.regs.gets 6).toNat, hi := (c.regs.gets 6).toNat + 191 } = false) fun _ _ => []) :=
  ⟨met base 5 base_ready ⟨by decide, by decide, ⟨by decide, by decide, by decide⟩, by decide⟩ rfl (by decide),
    met base 5 base_ready ⟨by decide, by decide, ⟨by decide, by decide, by decide⟩, ⟨by decide, by decide, by decide⟩, by decide⟩ rfl (by decide),
    met base 5 base_ready ⟨by decide, by decide, trivial⟩ rfl (by decide), met base 5 base_ready (by decide) rfl (by decide),
    met base 5 base_ready ⟨⟨by decide, by decide⟩, ⟨by decide, by decide, by decide⟩, ⟨by decide, by decide, by decide⟩, by decide⟩ rfl (by decide),
    met base 5 base_ready ⟨by decide, by decide, by decide⟩ rfl (by decide),
    met fired 5 fired_ready ⟨⟨by decide, by decide⟩, by decide⟩ rfl (by decide)⟩

/-- `FabricForms`: record 0 of the firing, with and without its overrides; the largest index; a stream of 16 tokens within the rate. -/
theorem met_fabric :
    Met (.pub always { q := 1, k := 0, a := 0, ta := false, tagx := false, nolive := false, live := false, noback := false })
      (pubRow always 1 0 [] (fun _ => none) (fun _ => none) false false false firing record 0 7) ∧
    Met (.pubIndexed always { q := 1, k := 0, a := 1, ta := false, tagx := true, nolive := false, live := true, noback := true, b := 2, tb := false })
      (pubRow always 1 0 [(.s 1, false), (.s 2, false)] (fun g => some (g.gets 1)) (fun g => some (g.gets 2)) true true false firing record 0xFFF8 0xFFF8) ∧
    Met (.pubeos always { k := 0 }) (row true [] [] (fun _ c => c.portFull = false ∧ c.pubRec 0 = some (firing, record)) fun _ _ => []) ∧
    Met (.fetch always { q := 1, k := 0, a := 0, ta := false, tagx := false })
      (fetchFormRow always 1 0 [] (fun _ => none) (fun _ => none) firing record (some 0) 7) ∧
    Met (.fetchIndexed always { q := 1, k := 0, a := 1, ta := false, tagx := true, b := 2, tb := false })
      (fetchFormRow always 1 0 [(.s 1, false), (.s 2, false)] (fun g => some (g.gets 1)) (fun g => some (g.gets 2)) firing record (some 0xFFF8) 0xFFF8) ∧
    Met (.subq always { k := 0, a := 0, ta := false, tagx := false, idxx := true, b := 2, tb := false, d := 3 }) (row true [(.s 2, false)] [.s 3]
      (fun _ c => c.portFull = false ∧ c.subRec 0 = some (firing, record) ∧ (c.regs.gets 2).toNat < 2 ^ 36 ∧
        record.resolve firing none (some (c.regs.gets 2)) = (some 0xFFF8, 7) ∧ (0xFFF8 : Nat) ≠ eosIndex) fun _ _ => []) :=
  ⟨met fired 6 fired_ready ⟨⟨by decide, by decide⟩, by decide, by decide, by decide, fun _ h => (by cases h), ⟨by decide, by decide, by decide⟩, by decide, by decide, by decide⟩
      rfl (by decide),
    met fired 6 fired_ready ⟨⟨by decide, by decide⟩, by decide, by decide, by decide, fun x h => (by cases h; decide), ⟨by decide, by decide, by decide⟩, by decide, by decide, by decide⟩
      rfl (by decide),
    met fired 6 fired_ready (by decide) rfl (by decide),
    met fired 6 fired_ready ⟨⟨by decide, by decide⟩, by decide, by decide, fun _ h => (by cases h), ⟨by decide, by decide, by decide⟩, by decide⟩ rfl (by decide),
    met fired 6 fired_ready ⟨⟨by decide, by decide⟩, by decide, by decide, fun x h => (by cases h; decide), ⟨by decide, by decide, by decide⟩, by decide⟩ rfl (by decide),
    met fired 6 fired_ready (by decide) rfl (by decide)⟩

/-- `BarrierAndCollectiveForms`: the port has room, the stream is allowed. -/
theorem met_collectives :
    Met (.hbarArrive always) (row true [] [] (fun _ c => c.portFull = false) fun _ c => arrivalEffects c) ∧
    Met (.hbar always) (row true [] [] (fun _ c => c.portFull = false) fun _ c => arrivalEffects c ++ [.wait .phase]) ∧
    Met (.coll always { vsn := 1, q := 1 }) (row true [] []
      (fun _ c => PortOk c ∧ StreamOk c c.q[(1 : Fin 16)] false ∧ c.q[(1 : Fin 16)].slog = 0 ∧ c.q[(1 : Fin 16)].fmt ≠ .triple) fun _ _ => []) ∧
    Met (.collRecv always { vsn := 1, q := 1 }) (row true [] []
      (fun _ c => c.rsbFull = false ∧ StreamOk c c.q[(1 : Fin 16)] true ∧ c.q[(1 : Fin 16)].fmt ≠ .triple) fun _ _ => []) ∧
    Met (.collW always { vsn := 1, a := 2, ta := false }) (row true [(.w 2, false)] [] (fun _ c => c.portFull = false) fun _ _ => []) ∧
    Met (.cmark always { vsn := 1 }) (row true [] [] (fun _ c => c.portFull = false) fun _ _ => []) :=
  ⟨met fired 6 fired_ready (by decide) rfl (by decide), met fired 6 fired_ready (by decide) rfl (by decide),
    met fired 6 fired_ready ⟨⟨by decide, by decide⟩, ⟨by decide, by decide, by decide⟩, by decide⟩ rfl (by decide),
    met fired 6 fired_ready ⟨by decide, ⟨by decide, by decide, by decide⟩, by decide⟩ rfl (by decide),
    met fired 6 fired_ready (by decide) rfl (by decide), met fired 6 fired_ready (by decide) rfl (by decide)⟩

/-! ## The general statements -/

/-- The firing's core at a bundle at 0x0 whose bytes are the cells, its row in the fetch buffer. -/
def bundled (m : Memory) : Core := { fired with issue := Issue.at_ 0, spad := m, fetched := [0] }

theorem bundled_at (m : Memory) (h : (bundled m).fetchState firing = .ready) : AtBundle (module (bundled m)) (bundled m) firing :=
  ⟨rfl, rfl, rfl, rfl, rfl, rfl, rfl, rfl, rfl, rfl, rfl, h⟩

/-- `StepRunsDecoded`: an offered step; a stopped clock; a slot in issue; a bundle of `lpx`, an empty one, one of an opcode that is none. -/
theorem met_offered : ∃ (s : State) (i : Instr) (rest : List Instr), s.agenda = i :: rest := ⟨{ State.reset with agenda := [.ltsFloor] }, _, _, rfl⟩
theorem met_stopped : ∃ s : State, s.agenda = [] ∧ s.clocked = false := ⟨{ State.reset with power := .s3 }, rfl, rfl⟩
theorem met_issue : ∃ (s : State) (c : Core) (f : Firing) (pos : Fin 8) (i : Instr) (rest : List (Fin 8 × Instr)), s.agenda = [] ∧ s.clocked = true ∧
    s.core s.focus = some c ∧ c.firing = some f ∧ c.issues = true ∧ c.issue.todo = (pos, i) :: rest ∧
    (c.between = true → c.dfaults = [] ∧ c.stopping = false ∧ c.waitsOk (s.env s.focus) = true) :=
  ⟨module (slotCore fired 7 (.retire always)), slotCore fired 7 (.retire always), _, _, _, _, rfl, rfl, rfl, rfl, rfl, rfl, fun _ => ⟨rfl, rfl, rfl⟩⟩
theorem met_bundle : ∃ b pos i rest, AtBundle (module (bundled [(0, 0x80), (2, 8), (3, 0x10), (4, 0x70)])) (bundled [(0, 0x80), (2, 8), (3, 0x10), (4, 0x70)]) firing ∧
    decodeBundle ((bundled [(0, 0x80), (2, 8), (3, 0x10), (4, 0x70)]).codeBytes firing 0) = .ok b ∧
    (bundled [(0, 0x80), (2, 8), (3, 0x10), (4, 0x70)]).firstGroup b = (pos, i) :: rest :=
  ⟨_, _, _, _, bundled_at _ (by decide), rfl, rfl⟩
theorem met_empty : ∃ b, AtBundle (module (bundled [])) (bundled []) firing ∧ decodeBundle ((bundled []).codeBytes firing 0) = .ok b ∧
    (bundled []).firstGroup b = [] :=
  ⟨_, bundled_at _ (by decide), rfl, rfl⟩
theorem met_fault : ∃ e, AtBundle (module (bundled [(0, 1)])) (bundled [(0, 1)]) firing ∧
    decodeBundle ((bundled [(0, 1)]).codeBytes firing 0) = .error e :=
  ⟨_, bundled_at _ (by decide), rfl⟩

/-- `SlotRoundTrip`: an instruction with an extension word. -/
theorem met_encode : ∃ (i : Instr) (e : SlotWord) (pos : Fin 8), i.wf = true ∧ encode i = some e ∧ slotClass pos = e.cls ∧ slotHas pos e.op = true :=
  ⟨.addiExt always { d := 4, a := 4, ta := true, imm := 100000 }, _, 1, rfl, rfl, rfl, rfl⟩

/-- `StepKeepsMemory`, `StepKeepsScratchpads`: memories that list bytes. -/
theorem met_memory : ({ State.reset with pmem := [(0, 1), (7, 2)] } : State).memOk := ⟨rfl, rfl⟩
theorem met_scratchpads : (module { base with spad := [(0, 1)], holding := some ([(3, 4)], []) }).scratchOk := by
  refine ⟨fun x hx => ?_, fun k i h => ?_⟩
  · cases List.mem_singleton.1 hx
    exact ⟨rfl, fun y hy => by cases hy; rfl⟩
  · exact absurd h (by show (State.reset.ctxs[k]).image ≠ _; rw [reset_ctx]; exact nofun)

/-- `PredicateOff`: p1 is false; a bundle in issue. -/
theorem met_off : ∃ s c e, encode (.mov ⟨1, false⟩ { d := 1, a := 2, ta := true }) = some e ∧ LastSlot s c 0 (.mov ⟨1, false⟩ { d := 1, a := 2, ta := true }) ∧
    c.executes e.pred = false ∧ gateRows c.gate + rowsTaken c.issue.effects ≤ 32 :=
  ⟨_, _, _, rfl, module_last base 0 _, rfl, by decide⟩
/-- The bundle of one `lpx`. -/
def bundle : Bundle := { nopc := 2, rmark := false, split := 0, len := 6, slots := [(7, .lpx always { cntm1 := 4, stop := 8 })] }
/-- A core that has issued all of it but what stands at its boundary. -/
def boundary : Core := { fired with issue := { Issue.at_ 0x100 with bundle := some bundle } }
theorem met_boundary : ∃ (s : State) (c : Core) (b : Bundle), s.core s.focus = some c ∧ Quiet c ∧ c.issue.bundle = some b ∧ c.issue.retiring = false ∧ AtBoundary c b :=
  ⟨module boundary, _, _, rfl, ⟨rfl, rfl, rfl, rfl, rfl⟩, rfl, rfl, ⟨rfl, Or.inr rfl, rfl⟩⟩

/-- `EmptySources`: no scalar register is full, or a fill of w1 is pending. -/
def hungry : Core := { base with regs := { base.regs with sFull := 0, vFull := 0 } }
theorem met_stall : ∃ s c pos, LastSlot s c pos (.add always { d := 1, a := 2, ta := false, b := 3, tb := false }) ∧ c.executes always = true ∧
    c.regs.full (.s 2) = false :=
  ⟨_, _, _, module_last hungry 0 _, rfl, rfl⟩
theorem met_stall_store : ∃ s c pos, LastSlot s c pos (.st always { d := 1, a := 2, ta := false, td := false, off := 0, ty := .i8 }) ∧
    c.executes always = true ∧ c.regs.full (.s 2) = false :=
  ⟨_, _, _, module_last hungry 4 _, rfl, rfl⟩
theorem met_stall_fill : ∃ s c pos, LastSlot s c pos (.mclr always { w := 1 }) ∧ c.executes always = true ∧ c.pending (.w 1) = true :=
  ⟨_, _, _, module_last { base with fills := [{ reg := .w 1, value := none, old := false }] } 5 _, rfl, rfl⟩
theorem met_empty_read : ∃ s c pos, LastSlot s c pos (.vmin always { d := 1, a := 2, ta := true, b := 3, tb := true }) ∧ c.executes always = true ∧
    gateRows c.gate + rowsTaken c.issue.effects ≤ 32 ∧ c.regs.full (.v 2) = false ∧ c.pending (.v 1) = false :=
  ⟨_, _, _, module_last hungry 2 _, rfl, by decide, rfl, rfl⟩

/-- `SlotsReadBeforeWriting`: two slots of a group. -/
theorem met_two : ∃ (s : State) (c : Core) (e : SlotWord), encode (.mov always { d := 1, a := 2, ta := false }) = some e ∧ s.core s.focus = some c ∧
    c.issue.todo = [(0, .mov always { d := 1, a := 2, ta := false }), (7, .retire always)] :=
  ⟨module { base with issue := { Issue.at_ 0 with todo := [(0, .mov always { d := 1, a := 2, ta := false }), (7, .retire always)] } }, _, _, rfl, rfl, rfl⟩

/-- The frames (`DestinationFrame`, `SpecialRegisterFrame`, `ScratchpadFrame`, `SlotModuleFrame`): a slot that has run alone. -/
theorem met_alone : ∃ s c e d, RanAlone s c 0 (.mov always { d := 1, a := 2, ta := false }) e d ∧ c.spad.wf = true :=
  have hs : exec (.mov always { d := 1, a := 2, ta := false }) (module (slotCore fired 0 (.mov always { d := 1, a := 2, ta := false })))
    = .next ((module (slotCore fired 0 (.mov always { d := 1, a := 2, ta := false }))).issued (slotCore fired 0 (.mov always { d := 1, a := 2, ta := false }))
        false (.go [.result (.s 1 0xFFF8) 1])) := rfl
  ⟨_, _, _, _, ⟨rfl, module_last fired 0 _, ⟨rfl, rfl, rfl, rfl, rfl⟩, ⟨fun _ _ => nofun, fun _ _ => nofun⟩, ⟨_, hs, rfl⟩, ⟨_, rfl, by decide⟩⟩, rfl⟩

/-- `MarkTakes`: a store in the gate, a byte below it. -/
theorem met_release : ({ base with gate := [{ store := .scratch [(8, 1)], rows := 1 }], spad := [(8, 3)] } : Core).spad.wf = true := rfl

/-- `TrapEntry`: a firing, and a trap that is no breakpoint. -/
theorem met_trap : ∃ (c : Core) (t : TrapInfo), c.firing = some firing ∧ c.issue.closing = false ∧ c.issue.release = false ∧ t.code ≠ trapBreak :=
  ⟨fired, trapOf trapEmptyRead 0, rfl, rfl, rfl, by decide⟩

/-- `StoreGateFull`: 32 rows in the gate. -/
def full : Core := { base with gate := [{ store := .scratch [(8, 1)], rows := 32 }] }
theorem met_gate_full : ∃ s c, LastSlot s c 4 (.st always { d := 4, a := 1, ta := false, td := false, off := 0, ty := .i64 }) ∧ Quiet c ∧
    c.executes always = true ∧ (∀ x ∈ ([(.s 1, false), (.s 4, false)] : List Src), c.regs.full x.1 = true ∧ x.1 ∉ c.regs.bad) ∧
    (storeRow always 4 1 false false .i64 (fun a => a + (0 : BitVec 5).signExtend 64 * 8) (s.env s.focus) c 4).ok ∧
    32 < gateRows c.gate + rowsTaken (storeRow always 4 1 false false .i64 (fun a => a + (0 : BitVec 5).signExtend 64 * 8) (s.env s.focus) c 4).effects :=
  ⟨_, _, module_last full 4 _, ⟨rfl, rfl, rfl, rfl, rfl⟩, rfl, by decide, ⟨by decide, by decide, by decide, by decide⟩, by decide⟩

/-- `SoftTraps`: `brk` as the last slot of its bundle, with no loop. -/
def soft : Core := { fired with issue := { Issue.at_ 0x100 with bundle := some bundle, todo := [(7, .brk always { imm := 0xFFFF })] } }
theorem met_soft : ∃ (s : State) (c : Core) (b : Bundle), LastSlot s c 7 (.brk always { imm := 0xFFFF }) ∧ Quiet c ∧ AtBoundary c b ∧
    c.firing = some firing ∧ CanRun c always [] [] [] ∧ c.loops = [] :=
  ⟨module soft, soft, bundle, ⟨rfl, rfl, rfl, rfl, rfl⟩, ⟨rfl, rfl, rfl, rfl, rfl⟩, ⟨rfl, Or.inr rfl, rfl⟩, rfl,
    ⟨rfl, by decide, by decide, by decide, by decide⟩, rfl⟩

/-- `LoopBoundary`: entries that end at the next bundle, of one round and of two, and not there; a target inside and outside. -/
theorem met_entries : ∃ e f g : LoopEntry, e.stop = boundary.issue.pc + bundle.len ∧ e.count.toNat ≤ 1 ∧ f.stop = boundary.issue.pc + bundle.len ∧
    1 < f.count.toNat ∧ g.stop ≠ boundary.issue.pc + bundle.len ∧ (e.start ≤ 0x80 ∧ (0x80 : Nat) < e.stop) ∧ ¬ (e.start ≤ 0x106 ∧ (0x106 : Nat) < e.stop) :=
  ⟨{ start := 0x80, stop := 0x106, count := 1 }, { start := 0x80, stop := 0x106, count := 2 }, { start := 0x80, stop := 0x108, count := 2 }, by decide⟩
theorem met_loop_end : ∃ d, ((module boundary).issued { boundary with loops := [] } false (.go [])).core 0 = some d ∧ d.issue.pc = 0x106 ∧ d.loops = [] ∧
    d.issue.owed = 2 :=
  ⟨_, rfl, rfl, rfl, rfl⟩

/-- `DivisionRule`: operands of every case. -/
theorem met_division : ∃ a b : Word, b ≠ 0 ∧ ¬ (a = 0x8000000000000000 ∧ b = -1) ∧ a.toInt ≤ 0 ∧ (-7 : Word) ≠ 0 ∧ (0 : Int) ≤ (5 : Word).toInt ∧
    always.wf = true :=
  ⟨0x8000000000000000, 2, by decide⟩

/-- `BitInstructions`: the least and the largest count of each; a reserved bit. -/
theorem met_bits : (2 ^ (63 - 0) ≤ (0x8000000000000000 : Word).toNat ∧ (0x8000000000000000 : Word).toNat < 2 ^ (64 - 0)) ∧
    (2 ^ (63 - 63) ≤ (1 : Word).toNat ∧ (1 : Word).toNat < 2 ^ (64 - 63)) ∧
    ((1 : Word).toNat % 2 ^ 0 = 0 ∧ (1 : Word).getLsbD 0 = true) ∧
    ((0x8000000000000000 : Word).toNat % 2 ^ 63 = 0 ∧ (0x8000000000000000 : Word).getLsbD 63 = true) ∧ (0 < 511 ∧ 511 < 2 ^ 9) := by decide

/-- `FpSpecials`: a signalling and a quiet NaN, and a number that is neither zero nor infinite. -/
theorem met_nan : ((0x7FA00000 : Lane).toNat / 2 ^ 23 % 2 ^ 8 = 255 ∧ (0x7FA00000 : Lane).toNat % 2 ^ 23 ≠ 0 ∧ (0x7FA00000 : Lane).toNat % 2 ^ 23 < 2 ^ 22) ∧
    ((0x7FC00000 : Lane).toNat % 2 ^ 23 ≠ 0 ∧ ¬ (0x7FC00000 : Lane).toNat % 2 ^ 23 < 2 ^ 22) ∧
    ((0x00000001 : Lane).toNat / 2 ^ 23 % 2 ^ 8 ≠ 255 ∧ (0x00000001 : Lane).toNat % 2 ^ 31 ≠ 0) := by decide

/-! ## The module's events: for every clause a state that meets its hypotheses -/

/-- The module after bring-up, and with its core 0 given. -/
abbrev up : State := { State.reset with bringUp := .up }
/-- An outcome of bring-up at the lowest version the floor allows. -/
def outcome : BringUpOutcome :=
  { stages := Vector.replicate 7 (3, true), failed := none, floor := 3, found := none, time := some { port := some 31, time := 5 } }
/-- Preemption register 0 replaced. -/
abbrev withPre (s : State) (f : Preempt → Preempt) : State := { s with preempt := s.preempt.set 0 (f s.preempt[(0 : Fin 16)]) }

/-- `PowerStates`. -/
theorem met_power_up : ∃ s : State, s.bringUp = .notStarted ∧ outcome.failed = none ∧
    ∀ k : Fin 7, outcome.stages[k].2 = true ∧ max s.bootFloor outcome.floor ≤ outcome.stages[k].1 :=
  ⟨State.reset, by decide⟩
theorem met_power_held : (∃ (s : State) (o : BringUpOutcome), s.bringUp = .notStarted ∧
      ∃ k : Fin 7, (o.stages[k].2 = false ∨ o.stages[k].1 < max s.bootFloor o.floor) ∧
        ∀ j : Fin 7, j < k → o.stages[j].2 = true ∧ max s.bootFloor o.floor ≤ o.stages[j].1) ∧
    ∃ (s : State) (o : BringUpOutcome), s.bringUp = .notStarted ∧
      (∀ k : Fin 7, o.stages[k].2 = true ∧ max s.bootFloor o.floor ≤ o.stages[k].1) ∧ o.failed = some 2 :=
  ⟨⟨State.reset, { outcome with stages := outcome.stages.set 6 (2, true) }, rfl, 6, by decide, by decide⟩,
    ⟨State.reset, { outcome with failed := some 2 }, by decide⟩⟩
theorem met_power : (∃ s : State, s.power = .p1 ∧ s.throttled = false) ∧ (∃ s : State, s.power = .p0 ∧ s.clocked = true ∧ s.throttled = false) ∧
    (∃ s : State, s.clocked = true ∧ s.switchStands = false ∧ ∀ x ∈ s.cores, x.2.running = false) ∧ (∃ s : State, s.power = .s1) ∧
    (∃ s : State, s.power = .s1 ∧ s.switchStands = false) ∧ (∃ s : State, s.power = .s3) ∧ (∃ s : State, s.power ≠ .s5) ∧ ∃ s : State, s.throttled = true :=
  ⟨⟨{ up with power := .p1 }, rfl, rfl⟩, ⟨up, rfl, rfl, rfl⟩, ⟨up, by decide, by decide, fun x h => nomatch (show x ∈ ([] : List (Nat × Core)) from h)⟩, ⟨{ up with power := .s1 }, rfl⟩,
    ⟨{ up with power := .s1 }, rfl, by decide⟩, ⟨{ up with power := .s3 }, rfl⟩, ⟨up, by decide⟩, ⟨{ up with throttled := true }, rfl⟩⟩

/-- `Clocks`: 1,024 cycles after the last increment, in S1 too; a time of a port; clocks below the floor of 1. -/
theorem met_clocks : (∃ (s : State) (x : SyncTime), (s.clocked = true ∨ s.power = .s1) ∧ s.locked = true ∧ s.slew = none ∧
      (∀ y, s.lastSlew = some y → 1024 ≤ (s.wcc - y).toNat) ∧ s.wcc ≠ s.aligned x) ∧
    (∃ s : State, s.locked = true) ∧ (∃ s : State, s.locked = false) ∧
    (∃ s : State, s.clocked = true ∧ (0, base) ∈ s.cores ∧ base.lts < s.wcc.toNat / 128) ∧
    (∃ s : State, s.clocked = true ∧ s.bloomAt ≠ s.wcc.toNat / 65536) ∧ ∃ s : State, s.clocked = true ∧ s.economy = false ∧ (31 : Fin 32) ∉ s.health.ethOut :=
  ⟨⟨{ up with wcc := 1024, lastSlew := some 0, locked := true, power := .s1 }, { port := some 0, time := 1023 }, Or.inr rfl, rfl, rfl,
      fun y h => by cases h; decide, by decide⟩,
    ⟨{ up with locked := true }, rfl⟩, ⟨{ up with locked := false }, rfl⟩,
    ⟨{ module base with wcc := 128 }, rfl, List.mem_cons_self, by decide⟩, ⟨{ up with wcc := 65536 }, by decide, by decide⟩,
    ⟨up, rfl, rfl, by decide⟩⟩

/-- `HealthAndService`: a router with an entry in error, a core at every stage of its self-test, one that failed. -/
theorem met_scrub : up.clocked = true ∧ ({ up with routers := [(0, { Router.reset with badEntries := [.vsn 7] })] } : State).clocked = true ∧
    (({ up with routers := [(0, { Router.reset with badEntries := [.vsn 7] })] } : State).router 0).badEntries = [.vsn 7] := by decide
theorem met_withdraw : ∃ (s : State) (c : Core), s.clocked = true ∧ s.core 12959 = some c ∧ s.testable 12959 = true ∧ c.withdrawn = false ∧
    s.waitsTest 12959 = false :=
  ⟨{ up with cores := [(12959, base)] }, base, rfl, rfl, by decide, rfl, by decide⟩
theorem met_selftest : ∃ (s : State) (c : Core), s.clocked = true ∧ s.core 0 = some c ∧ s.testable 0 = true ∧ s.waitsTest 0 = true ∧
    s.anyTest = false ∧ s.idle 0 = true :=
  ⟨{ module { base with withdrawn := true } with withdrawals := [(0, 0)] }, _, rfl, rfl, by decide, by decide, by decide, by decide⟩
theorem met_skip : ∃ (s : State) (c : Core) (x : Word), s.clocked = true ∧ s.core 0 = some c ∧ s.testable 0 = true ∧ assoc s.withdrawals 0 = some x ∧
    100000000 ≤ (s.wcc - x).toNat ∧ s.idle 0 = false :=
  ⟨{ module { fired with withdrawn := true } with withdrawals := [(0, 0)], wcc := 100000000 }, _, 0, rfl, rfl, by decide, rfl, by decide, by decide⟩
theorem met_tested : ∃ (s : State) (c : Core), s.clocked = true ∧ s.core 0 = some c ∧ c.testing = true ∧ c.holding = some ([], []) :=
  ⟨module { base with testing := true, holding := some ([], []) }, _, rfl, rfl, rfl, rfl⟩
theorem met_failed : (∃ (s : State) (c : Core), s.clocked = true ∧ s.core 0 = some c ∧ c.failed = false ∧ c.frozen = false ∧ c.testing = false ∧ c.out = false ∧ s.islanded 0 = false) ∧
    (∃ (s : State) (c : Core), s.clocked = true ∧ s.core 0 = some c ∧ c.failed = true ∧ c.frozen = false ∧ c.out = false ∧ c.firing = none ∧ c.stagedF = []) ∧
    ∃ s : State, s.clocked = true ∧ s.economy = false ∧ (7 : Fin 8) ∉ s.health.cxlOut :=
  ⟨⟨module base, base, rfl, rfl, rfl, rfl, rfl, rfl, by decide⟩, ⟨module { base with failed := true }, _, rfl, rfl, rfl, rfl, rfl, rfl, rfl⟩,
    ⟨up, rfl, rfl, by decide⟩⟩

/-! ### A small module: partition 0 at the first sixteen routers, one task on core 0 -/

/-- The gate of the task in context 0, with nothing open. -/
def gid : GateId := { ctx := 0, task := 3 }
def idleGate : Gate :=
  { id := gid, runnable := true, nextOrd := 0, nextReady := 0, iters := [], store := [], copies := 0, released := [], asked := [], passed := 0, promoted := none
    live := [], closed := [], retired := 0, triggered := 0, eos := [], eosDone := [], ended := [], arrived := [], holdTags := [], cbar := [], completed := false }
/-- Tensor 0x12 of namespace 5 goes by port 2 and is kept; VSN 1 comes in by ports 2 and 3, VSN 2 by port 2 and stays, VSN 4 is added up. -/
def entry : MatchEntry := { value := 0x0500012000000000, mask := 0xFFFFFFF000000000, ports := [2], keep := true, fetch := none }
def routing : RouterCfg :=
  { table := [entry], dport := 0, target := 0
    vsns := [(1, [{ combine := none, inputs := [2, 3], out := [0] }]), (2, [{ combine := none, inputs := [2], out := [0] }]),
             (4, [{ combine := some 0, inputs := [2, 3], out := [0] }])]
    expect := 0, buffer := [] }
/-- The configuration, of one task over one iteration. -/
def planOf (t : Task) : Config :=
  { pfx := 1, ns := 5, uniform := true, hop := 3, tasks := [t], routers := [(0, routing)], dirs := [], seeds := [], args := [], globals := []
    remotes := [], cores := [0], replaces := [], graphs := []
    slices := { n := 0, list := Vector.replicate 64 0 } }
def single : Task := { task with levels := [{ lo := 0, step := 1, count := 1, blk := 1 }] }
def partition (t : Task) : Part :=
  { x0 := 0, y0 := 0, w := 4, h := 4, slices := { n := 0, list := Vector.replicate 64 0 }, planeA := some (planOf t), planeB := none, writes := [], complete := false, clean := none, drained := false
    swap := [], swapped := false, probe := none, frames := [1], pager := [], free := [], tables := none }
/-- The module with core, gate and messages. -/
def world (t : Task) (c : Core) (g : Gate) (msgs : List Flying) : State :=
  { up with parts := [(0, partition t)], routers := [(0, Router.reset)], cores := [(0, c)], msgs
            ctxs := State.reset.ctxs.set 0 { Ctx.reset with state := .running, ns := 5, cfg := some (planOf t), gates := [g] } }
/-- Messages of router 0: its name and tag, a tile of one token. -/
def tile : Tile := { name := 0x0500012000000000, tag := 7, back := false, live := false, bursts := [{ scale := 0x7F, fmt := .bf16, eos := false, tokens := [] }] }
def atPort (p : Fin 6) (cls : Fin 6) (b : Body) : Flying := { place := .input 0 p, msg := { cls, cpl := false, source := 5, body := b } }

theorem first_msg {s : State} {q : Flying → Prop} {f : Flying} {rest : List Flying} (h : s.msgs = f :: rest) (hq : q f) : FirstMsg s q f rest :=
  ⟨hq, [], rest, h, rfl, fun _ hx => nomatch hx⟩

/-- `LinksAndFrames`: links at the corner of the wafer, whose boxes lie one way; the expected frame, with a publication. -/
theorem met_links : (∃ (s : State) (k : Nat), s.clocked = true ∧ linkOf 0 2 = some k ∧ s.linkIsDead k = false) ∧
    (∃ (s : State) (k : Nat), s.boxFree k false = true) ∧ (∃ (s : State) (k : Nat), s.boxFree k false = false ∧ s.boxFree k true = true) ∧
    ∃ (s : State) (k : Nat), s.boxFree k false = false ∧ s.boxFree k true = false :=
  ⟨⟨up, 0, rfl, by decide, by decide⟩, ⟨up, 2 * Sys2Proof.Config.cols, by decide⟩, ⟨up, 0, by decide, by decide⟩,
    ⟨{ up with routers := [(0, { Router.reset with dead := [3] })] }, 0, by decide, by decide⟩⟩
/-- A frame of peer 9 with the first flits of the tile. -/
def frame : Frame :=
  { src := 9, dst := 0, cls := 0, nflit := 2, psn := 0, ack := 0, msg := { cls := 0, cpl := false, source := 5, body := .publication tile none }, behind := 0 }
theorem met_dead : (∃ (s : State) (k : Nat), s.clocked = true ∧ linkOf 0 2 = some k ∧ s.linkIsDead k = false ∧ 16 ≤ (s.router 0).retriesAt 2) ∧
    (∃ (s : State) (k : Nat), s.clocked = true ∧ linkOf 0 2 = some k ∧ s.linkIsDead k = false ∧
      10000 ≤ (s.wcc - (findFin (s.router 0).acked 2).getD 0).toNat) ∧
    ∃ s : State, (s.router 0).retriesAt 2 < 16 ∧ (s.wcc - (findFin (s.router 0).acked 2).getD 0).toNat < 10000 :=
  ⟨⟨{ up with routers := [(0, { Router.reset with retried := [(2, 16)] })] }, 0, by decide⟩, ⟨{ up with wcc := 10000 }, 0, by decide⟩, ⟨up, by decide⟩⟩
theorem met_frames : (∃ s : State, s.clocked = true ∧ s.economy = false ∧ (3 : Fin 32) ∉ s.health.ethOut ∧ frame.dst = s.modNum ∧ frame.cls = frame.msg.cls ∧
      1 ≤ frame.nflit ∧ frame.nflit ≤ 16 ∧ frame.behind + frame.nflit ≤ frame.msg.body.flits ∧
      frame.psn = (s.peerLink frame.src frame.cls).expected ∧ s.coming (.peer 3 frame.src) (fromPeer frame.src frame.msg) = none) ∧
    (∃ s : State, ({ frame with psn := 1 } : Frame).psn ≠ (s.peerLink frame.src frame.cls).expected) ∧
    (∃ s : State, s.clocked = true ∧ s.economy = false ∧ (3 : Fin 32) ∉ s.health.ethOut ∧ (s.peerLink 9 0).unacked ≠ []) ∧
    ∃ s : State, s.clocked = true ∧ (9 : Fin 4096) ∉ s.lostPeers :=
  ⟨⟨world single base idleGate [], by decide⟩, ⟨up, by decide⟩,
    ⟨{ up with peers := [{ peer := 9, cls := 0, expected := 0, next := 1, unacked := [frame] }] }, by decide⟩, ⟨up, by decide⟩⟩

/-- `NamesAtRouters`: a publication with an entry and without; one of a core; requests; configuration writes; misses; tiles at a gate. -/
def flow : State := world single base idleGate [atPort 4 0 (.publication tile none)]
theorem met_publication : ∃ f e, flow.clocked = true ∧ Heads flow 0 { port := 4, lane := 1 } 0 f ∧ f.msg.body = .publication tile none ∧
    flow.judgeEntry 0 (flow.entryFor 0 tile.name) f.msg.cpl = .pass ∧ ((flow.routerCfg 0).bind fun r => r.matchName tile.name) = some e ∧ e.ports = [2] ∧
    Clear flow 0 f.msg 2 1 ∧ (flow.router 0).mirror = [] ∧ tile.flits ≤ flow.mirrorBlocks 0 :=
  ⟨_, _, rfl, ⟨rfl, by decide, rfl, rfl, rfl, rfl⟩, rfl, by decide, rfl, rfl, ⟨by decide, rfl, by decide, rfl⟩, rfl, by decide⟩
/-- A name that no entry matches. -/
def lost : State := world single base idleGate [atPort 4 0 (.publication { tile with name := 0x0500013000000000 } none)]
theorem met_unmatched : ∃ f tl, lost.clocked = true ∧ Heads lost 0 { port := 4, lane := 1 } 0 f ∧ f.msg.body = .publication tl none ∧
    lost.judgeEntry 0 (lost.entryFor 0 tl.name) f.msg.cpl = .pass ∧ ((lost.routerCfg 0).bind fun r => r.matchName tl.name) = none ∧
    (4 : Fin 6) ≠ 0 ∧ f.msg.source ≠ ingressSource 0 :=
  ⟨_, _, rfl, ⟨rfl, by decide, rfl, rfl, rfl, rfl⟩, rfl, by decide, rfl, by decide, by decide⟩
/-- A core with a publication of a stream of one token at the head of its port. -/
def publisher : Core := { base with port := [{ op := .pub 0x0500012000000000 7 { lo := 0x0100000040000002, hi := 0x2000000000 } false false none, rsb := none }] }
def sending : State := world single publisher idleGate []
theorem met_own : ∃ c tl d, sending.clocked = true ∧ sending.firstIn 0 0 0 0 = none ∧ (∀ f ∈ sending.msgs, sending.atSource 0 0 f = false) ∧
    sending.core 0 = some c ∧ c.works = true ∧ c.portBad = none ∧ c.pubHead = some (tl, d) ∧ tl.back = false ∧
    sending.coming (.input 0 0) { cls := 0, cpl := (sending.router 0).plane, source := 0, body := .publication tl none } = none ∧
    tl.flits ≤ sending.space (.input 0 0) { cls := 0, cpl := (sending.router 0).plane, source := 0, body := .publication tl none } :=
  ⟨_, _, _, rfl, rfl, fun x h => absurd (show x ∈ ([] : List Flying) from h) List.not_mem_nil, rfl, rfl, rfl, rfl, rfl, rfl, by decide⟩
/-- A request that finds its tile in the mirror, one whose tile still comes, and one that finds none. -/
def asked (l : List MirrorTile) : State :=
  { world single base idleGate [atPort 4 1 (.request 0x0500012000000000 7 (.core 0 1) none)] with
      routers := [(0, { Router.reset with mirror := l
                                          waiting := [{ cls := 1, cpl := false, source := 5, body := .request 0x0500012000000000 7 (.core 0 1) none }] })] }
theorem met_request (l : List MirrorTile) : ∃ f m w, (asked l).clocked = true ∧ Heads (asked l) 0 { port := 4, lane := 1 } 1 f ∧
      f.msg.body = .request 0x0500012000000000 7 (.core 0 1) none ∧ (asked l).judgeEntry 0 ((asked l).entryFor 0 0x0500012000000000) f.msg.cpl = .pass ∧
      ((asked l).router 0).waiting = m :: w ∧ m.body = .request 0x0500012000000000 7 (.core 0 1) none :=
  ⟨_, _, _, rfl, ⟨rfl, by simp [asked, State.blockedByGate, world, atPort], rfl, rfl, rfl, rfl⟩, rfl, rfl, rfl, rfl⟩
theorem met_probe : (asked [{ tile, stored := true, got := tile.flits }]).probe 0 (0x0500012000000000, 7) = .served tile ∧
    (asked [{ tile, stored := false, got := 1 }]).probe 0 (0x0500012000000000, 7) = .arriving ∧ (asked []).probe 0 (0x0500012000000000, 7) = .absent :=
  ⟨rfl, rfl, rfl⟩
/-- One on its way to where an entry fetches it from. -/
def fetching : State :=
  { asked [] with parts := [(0, { partition single with planeA := some { planOf single with routers :=
    [(0, { routing with table := [{ entry with fetch := some 2 }] })] } })] }
theorem met_forward : ∃ f, Heads fetching 0 { port := 4, lane := 1 } 1 f ∧ fetching.judgeEntry 0 (fetching.entryFor 0 0x0500012000000000) f.msg.cpl = .pass ∧
    fetching.probe 0 (0x0500012000000000, 7) = .absent ∧ fetching.fetchPort 0 0x0500012000000000 = some 2 ∧ Clear fetching 0 f.msg 2 1 :=
  ⟨_, ⟨rfl, by decide, rfl, rfl, rfl, rfl⟩, by decide, rfl, by decide, by decide, rfl, by decide, rfl⟩
/-- Configuration writes to each plane, and miss replies to a core and to a gate. -/
def writing (pl : Bool) : State := world single base idleGate [atPort 4 1 (.configWrite pl 0)]
theorem met_write (pl : Bool) : ∃ f rest, (writing pl).clocked = true ∧ FirstMsg (writing pl) (fun x => writeAt 0 x = true) f rest ∧
    f.msg.body = .configWrite pl 0 ∧ (∃ q, (writing pl).parts = [(0, q)] ∧ q.has 0 = true) ∧ ((writing pl).router 0).plane = false :=
  ⟨_, _, rfl, first_msg rfl rfl, rfl, ⟨_, rfl, by decide⟩, rfl⟩
def missed (to_ : Requester) (p : Place) : State :=
  world single base idleGate [{ place := p, msg := { cls := 1, cpl := false, source := 5, body := .miss 0x0500012000000000 7 trapLateMiss to_ } }]
theorem met_miss : (∃ f rest, FirstMsg (missed (.core 0 1) (.core 0 5)) (fun y => missAt (.core 0 1) y = true) f rest ∧
      f.msg.body = .miss 0x0500012000000000 7 trapLateMiss (.core 0 1) ∧ (missed (.core 0 1) (.core 0 5)).judge 0 f.msg.cpl = .pass ∧
      (missed (.core 0 1) (.core 0 5)).core 0 = some base ∧ base.works = true) ∧
    ∃ f rest, FirstMsg (missed (.gate gid) (.gate gid 5)) (fun y => missAt (.gate gid) y = true) f rest ∧
      f.msg.body = .miss 0x0500012000000000 7 trapLateMiss (.gate gid) ∧
      (missed (.gate gid) (.gate gid 5)).judge ((missed (.gate gid) (.gate gid 5)).gateRouter gid) f.msg.cpl = .pass ∧
      (missed (.gate gid) (.gate gid 5)).gate gid = some idleGate :=
  ⟨⟨_, _, first_msg rfl (by decide), rfl, by decide, rfl, rfl⟩, ⟨_, _, first_msg rfl (by decide), rfl, by decide, rfl⟩⟩
/-- A tile at a gate that accepts it, at one whose store has no block, the end of a stream, and a tile the gate holds. -/
def arrived (t : Task) (p : Place) (x : Tile) : State :=
  world t base idleGate [{ place := p, msg := { cls := 0, cpl := false, source := 0, body := .publication x none } }]
def crowded : Task := { single with psblk := 0 }
def ending : Tile := { tile with bursts := [{ scale := 0x7F, fmt := .bf16, eos := true, tokens := [] }] }
theorem met_gate : (∃ f q rest d, (arrived single (.gate gid 2) tile).atGate gid = some (f, q, tile, rest) ∧
      (arrived single (.gate gid 2) tile).judge ((arrived single (.gate gid 2) tile).gateRouter gid) f.msg.cpl = .pass ∧ tile.eos = false ∧
      (arrived single (.gate gid 2) tile).lateTile idleGate f.msg tile = false ∧ (arrived single (.gate gid 2) tile).taskOf gid = some single ∧
      idleGate.accept single ((arrived single (.gate gid 2) tile).pins gid) tile = some d) ∧
    (∃ f q rest, (arrived crowded (.gate gid 2) tile).atGate gid = some (f, q, tile, rest) ∧
      (arrived crowded (.gate gid 2) tile).lateTile idleGate f.msg tile = false ∧ (arrived crowded (.gate gid 2) tile).taskOf gid = some crowded ∧
      idleGate.accept crowded ((arrived crowded (.gate gid 2) tile).pins gid) tile = none) ∧
    ∃ f rest d, FirstMsg (arrived single (.held gid 2) tile) (fun y => ∃ p, y.place = .held gid p) f rest ∧ f.place = .held gid 2 ∧
      bodyTile f.msg.body = some tile ∧ idleGate.accept single ((arrived single (.held gid 2) tile).pins gid) tile = some d :=
  ⟨⟨_, _, _, _, rfl, by decide, rfl, by decide, rfl, rfl⟩, ⟨_, _, _, rfl, by decide, rfl, by decide⟩, ⟨_, _, _, first_msg rfl ⟨_, rfl⟩, rfl, rfl, rfl⟩⟩
theorem met_end : ∃ f q rest, (arrived single (.gate gid 2) ending).atGate gid = some (f, q, ending, rest) ∧ ending.eos = true ∧
    (arrived single (.gate gid 2) ending).takesEnd idleGate (tensorOf ending.name, f.msg.source) = true :=
  ⟨_, _, _, rfl, rfl, by decide⟩

/-- `GatesAndFirings`: a gate that may open its last iteration, one with a ready iteration, a herd of one. -/
theorem met_open : (world single base idleGate []).taskOf gid = some single ∧ (world single base idleGate []).gate gid = some idleGate ∧
    (world single base idleGate []).ctxs[gid.ctx].state = .running ∧ idleGate.exhausted single = false ∧ idleGate.iters.length < single.window ∧
    (world single base idleGate []).afterOk gid.ctx single = true := ⟨rfl, rfl, rfl, by decide, by decide, by decide⟩
def readyIter : Iter := { ordinal := 0, subs := [], ready := some 0 }
def readyGate : Gate := { idleGate with nextOrd := 1, iters := [readyIter] }
theorem met_dispatch (c : Core) (h : c = base ∨ c = { fired with stagedF := [firing] }) : ∃ x k cr i, (world single c readyGate []).choose 0 c = some (x, k, cr) ∧
    (world single c readyGate []).gate x.id = some x ∧ x.head = some i ∧ k.herd = false ∧
    (∀ m ∈ k.members, m ≠ 0 → (world single c readyGate []).beats x.id k m 0 = false) ∧
    (x.firingOf k c.modes (world single c readyGate []).ctxs[x.id.ctx].ns i 0 (k.members.idxOf 0) (c.slotOf k)).failed = none := by
  rcases h with rfl | rfl <;> exact ⟨readyGate, single, _, readyIter, rfl, rfl, rfl, rfl, fun m hm h => absurd (List.mem_singleton.1 hm) h, rfl⟩
def herd : Task := { single with herd := true }
theorem met_herd : ∃ x i, (world herd base readyGate []).gate gid = some x ∧ (world herd base readyGate []).taskOf gid = some herd ∧ x.head = some i ∧
    (world herd base readyGate []).herdFree x herd = true ∧
    ∀ n ∈ herd.members, ∃ c h u cr, (world herd base readyGate []).core n = some c ∧ (world herd base readyGate []).choose n c = some (h, u, cr) ∧ h.id = gid :=
  ⟨readyGate, readyIter, rfl, rfl, rfl, by decide, fun n hn => (List.mem_singleton.1 hn) ▸ ⟨base, _, _, _, rfl, rfl, rfl⟩⟩
/-- A trigger on its way to the gate; a request for a stream's end; a stream that ends. -/
def triggering : State :=
  world single base idleGate [{ place := .gate gid 0, msg := { cls := 1, cpl := false, source := 5, body := .control gid (.trigger 7 0) } }]
theorem met_trigger : ∃ f rest, FirstMsg triggering (fun y => triggerAt gid y = true) f rest ∧
    f.msg.body = .control gid (.trigger 7 0) ∧ triggering.judge (triggering.gateRouter gid) f.msg.cpl = .pass :=
  ⟨_, _, first_msg rfl (by decide), rfl, by decide⟩
def porting (op : FxOp) : Core := { fired with port := [{ op, rsb := none }] }
theorem met_eos : (∃ n c e, firstMember ((world single (porting (.eosRequest 0x12)) idleGate []).eosOf gid) single.members = some (n, e) ∧
      (world single (porting (.eosRequest 0x12)) idleGate []).core n = some c) ∧
    ∃ x, (world single base { idleGate with nextOrd := 1, retired := 1, eos := [0x12] } []).gate gid = some x ∧ x.eos ≠ [] ∧ x.exhausted single = true ∧
      x.quiet single = true :=
  ⟨⟨0, _, 0x12, rfl, rfl⟩, ⟨_, rfl, by decide, by decide, by decide⟩⟩
/-- A barrier's last arrival, and one before the last; a rank that has waited too long. -/
theorem met_arrival (t : Task) (_ : t = herd ∨ t = { herd with hsize := 2 }) : ∃ n c a, firstMember ((world t (porting (.arrive 1)) idleGate []).arrivalOf gid) [0] = some (n, a) ∧
    (world t (porting (.arrive 1)) idleGate []).core n = some c :=
  ⟨0, _, (7, 1, 0), rfl, rfl⟩
theorem met_phase : herd.hsize ≤ ({ idleGate with arrived := idleGate.arrived ++ [(7, 1, 0)] } : Gate).arrivedAt 7 1 ∧
    ({ idleGate with arrived := idleGate.arrived ++ [(7, 1, 0)] } : Gate).arrivedAt 7 1 < ({ herd with hsize := 2 } : Task).hsize := by decide
def waiting : Core :=
  { base with firing := some { firing with task := herd }, barArr := 1, barWait := 2 ^ 20 + 1, issue := { Issue.at_ 0 with waits := [.phase] } }
theorem met_timeout : (world herd waiting idleGate []).timerRuns waiting = true ∧ waiting.running = true ∧ Wait.phase ∈ waiting.issue.waits ∧
    waiting.barRel < waiting.barArr ∧ 2 ^ herd.btmo < waiting.barWait ∧ ∀ d ∈ waiting.dfaults, d.code ≠ trapHerdAbort :=
  ⟨by decide, by decide, by decide, by decide, by decide, fun _ h => nomatch (show _ ∈ ([] : List DFault) from h)⟩
/-- A firing at its `retire`, alone and with another staged. -/
def leaving (l : List Firing) : Core := { fired with issue := { Issue.at_ 0 with retiring := true }, stagedF := l }
theorem met_retire (l : List Firing) (h : l = [] ∨ l = [firing]) : (world single (leaving l) idleGate []).core 0 = some (leaving l) ∧
    (leaving l).firing = some firing ∧ (leaving l).issue.retiring = true ∧ (leaving l).running = true ∧ (leaving l).works = true ∧
    (leaving l).waitsOk ((world single (leaving l) idleGate []).env 0) = true ∧ (leaving l).settled = true ∧
    (world single (leaving l) idleGate []).settledAt 0 = true ∧ (leaving l).issue.owed = 0 := by
  rcases h with rfl | rfl <;> exact ⟨rfl, rfl, rfl, rfl, rfl, rfl, by decide, by decide, rfl⟩

/-- `CollectivesAndPlanes`: chunks to a facet that forwards and to one that combines, with its partner there or not, its slots full or not; a spilled
chunk. -/
def chunked (v : Fin 256) (r : Router) : State := { world single base idleGate [atPort 2 2 (.chunk v 7 .f32 0 [])] with routers := [(0, r)] }
def held : HeldChunk := { vsn := 4, tag := 7, index := 0, fmt := .f32, data := [], from_ := 3 }
theorem met_chunk (v : Fin 256) (h : v = 2 ∨ v = 4) : ∃ f x, (chunked v Router.reset).clocked = true ∧
    Heads (chunked v Router.reset) 0 { port := 2, lane := 1 } 2 f ∧ f.msg.body = .chunk v 7 .f32 0 [] ∧
    (chunked v Router.reset).judgeEntry 0 (some (.vsn v)) f.msg.cpl = .pass ∧ (chunked v Router.reset).facet 0 v = some x ∧ (2 : Fin 6) ∈ x.inputs ∧
    ((chunked v Router.reset).router 0).marked v 2 = false ∧ ((chunked v Router.reset).router 0).sideOf 0 = none ∧ x.out = [0] ∧
    x.combine = (if v = 2 then none else some 0) ∧ Fmt.f32 = combineFmt 0 ∧ Router.reset.spilled = [] := by
  rcases h with rfl | rfl <;>
    exact ⟨_, _, rfl, ⟨rfl, by decide, rfl, rfl, rfl, rfl⟩, rfl, by decide, rfl, by decide, by decide, rfl, rfl, rfl, rfl, rfl⟩
theorem met_partners : partners { held with from_ := 2 } [] [2, 3] = none ∧ slotFlits [] + ({ held with from_ := 2 } : HeldChunk).data.length ≤ 64 ∧
    (64 < slotFlits [{ held with data := List.replicate 64 { ev := 0, bits := 0 } }] + 1) ∧
    partners { held with from_ := 2 } [held] [2, 3] = some [{ held with from_ := 2 }, held] := by decide
theorem met_refetch : ∃ x, (chunked 4 { Router.reset with spilled := [(held, true)] }).facet 0 4 = some x ∧ x.combine = some 0 ∧
    partners held ((chunked 4 { Router.reset with spilled := [(held, true)] }).router 0).slots x.inputs = none :=
  ⟨_, rfl, rfl, rfl⟩
/-- Markers to a facet of two inputs and to one of one. -/
def marking (v : Fin 256) : State := world single base idleGate [atPort 2 2 (.mark v 7 false)]
theorem met_marker (v : Fin 256) (h : v = 1 ∨ v = 2) : ∃ f fs x, Heads (marking v) 0 { port := 2, lane := 1 } 2 f ∧
    f.msg.body = .mark v 7 false ∧ (marking v).judgeEntry 0 (some (.vsn v)) f.msg.cpl = .pass ∧ (marking v).facets 0 v = some fs ∧ (marking v).facet 0 v = some x ∧
    (2 : Fin 6) ∈ x.inputs ∧ ((marking v).router 0).marked v 2 = false ∧ ((marking v).router 0).sideOf 0 = none ∧
    (v = 1 → ∃ q ∈ x.inputs, q ≠ 2 ∧ ((marking v).router 0).marked v q = false) ∧
    (v = 2 → x.inputs = [2] ∧ x.out = [0] ∧ ((marking v).router 0).spilled = []) := by
  rcases h with rfl | rfl
  · exact ⟨_, _, _, ⟨rfl, by decide, rfl, rfl, rfl, rfl⟩, rfl, by decide, rfl, rfl, by decide, by decide, rfl, fun _ => ⟨3, by decide, by decide, by decide⟩,
      fun h => absurd h (by decide)⟩
  · exact ⟨_, _, _, ⟨rfl, by decide, rfl, rfl, rfl, rfl⟩, rfl, by decide, rfl, rfl, by decide, by decide, rfl, fun h => absurd h (by decide),
      fun _ => ⟨rfl, rfl, rfl⟩⟩
/-- A carry for the firing's tag. -/
def carried : State :=
  world single fired idleGate [{ place := .core 0 4, msg := { cls := 3, cpl := false, source := 1, body := .carry { from_ := 1, rows := [], extra := [], tag := 7, epoch := 0 } 0 true } }]
theorem met_carry : ∃ x rest m, carried.core 0 = some fired ∧ fired.works = true ∧ carried.held firing = false ∧
    FirstMsg carried (fun y => carryAt 0 firing.tag true y = true) x rest ∧ x.msg.body = .carry m 0 true ∧ fired.scanQ = [] :=
  ⟨_, _, _, rfl, rfl, by decide, first_msg rfl (by decide), rfl, rfl⟩
/-- A partition whose other plane is complete: with no clean wave, with one 1,024 cycles ago, drained, under a swap, under a probe. -/
def parted (f : Part → Part) : State := { world single base idleGate [] with parts := [(0, f { partition single with planeB := some (planOf single), complete := true })], wcc := 65536 }
theorem met_drain : (parted id).cleanWave 0 { partition single with planeB := some (planOf single), complete := true } = true ∧
    (parted fun p => { p with clean := some 64512 }).cleanWave 0 { partition single with planeB := some (planOf single), complete := true, clean := some 64512 } = true ∧
    (64512 : Word) + 1024 ≤ 65536 := by decide
/-- A plane of a LOADING context, drained; a swap under way; a timer at its limit. -/
def loading : State := { parted (fun p => { p with drained := true }) with ctxs := State.reset.ctxs }
def timed : State := { parted id with routers := [(0, { Router.reset with timers := [((2, true), 2 ^ 20)] })] }
theorem met_swap : (∃ p, loading.part 0 = some p ∧ p.drained = true ∧ p.swapped = false ∧ loading.planeFree 0 = true) ∧
    (∃ p, (parted fun p => { p with swap := [0], swapped := true }).partOf 0 = some (0, p) ∧ 0 ∈ p.swap) ∧
    ∃ p, timed.partOf 0 = some (0, p) ∧ timed.part 0 = some p ∧ p.probe = none ∧ lookupD 0 (timed.router 0).timers (2, true) = timed.congLimit :=
  ⟨⟨_, rfl, rfl, rfl, by decide⟩, ⟨_, rfl, by decide⟩, ⟨_, rfl, rfl, rfl, by decide⟩⟩
/-- A probe of 65,536 cycles ago: something moved, all is done, nothing moved and no message waits, one waits. -/
def probed (d : Bool) (l : List (Nat × Chan × Fin 6)) (g : Gate) (m : List Flying) : State :=
  { world single base g m with parts := [(0, { partition single with probe := some { moved := 0, at_ := 0, asked := true, done := d, blocked := l } })], wcc := 65536 }
def jammed : State :=
  { probed false [(0, { port := 4, lane := 1 }, 0)] idleGate [atPort 4 0 (.publication tile none)] with routers := [(0, { Router.reset with held := [2] })] }
theorem met_waves : (∃ p r, (probed false [] idleGate []).part 0 = some p ∧ p.probe = some r ∧ r.at_ + 65536 ≤ (probed false [] idleGate []).wcc ∧
      (probed false [] idleGate []).movement p = r.moved ∧ r.done = false ∧ (probed false [] idleGate []).qdRecords p r.blocked = []) ∧
    (∃ p r, (probed true [] { idleGate with runnable := false } []).part 0 = some p ∧ p.probe = some r ∧ r.done = true ∧
      (probed true [] { idleGate with runnable := false } []).movement p = r.moved ∧ (probed true [] { idleGate with runnable := false } []).probeDone 0 p = true) ∧
    (∃ p r, ({ probed true [] idleGate [] with routers := [(0, { Router.reset with moved := 1 })] } : State).part 0 = some p ∧ p.probe = some r ∧
      ({ probed true [] idleGate [] with routers := [(0, { Router.reset with moved := 1 })] } : State).movement p ≠ r.moved) ∧
    ∃ p r, jammed.part 0 = some p ∧ p.probe = some r ∧ jammed.movement p = r.moved ∧ r.done = false ∧ jammed.qdRecords p r.blocked ≠ [] :=
  ⟨⟨_, _, rfl, rfl, by decide, by decide, rfl, by decide⟩, ⟨_, _, rfl, rfl, rfl, by decide, by decide⟩, ⟨_, _, rfl, rfl, by decide⟩,
    ⟨_, _, rfl, rfl, by decide, rfl, by decide⟩⟩
theorem met_start : ∃ p, (parted id).part 0 = some p ∧ p.probe = none := ⟨_, rfl, rfl⟩

/-! ### Requests at a slice, tiles and walks -/

/-- A load of core 0 of four bytes at physical address 0x200100, in the frame that partition 0 owns. -/
def load : MemReq :=
  { id := 1, agent := .core 0, kind := .load 1 .n32 true, ns := 5, part := 0, va := 0x50100, pa := 0x200100, size := 4, seq := 2, pred := none, lts := 3
    ts := 0, accepted := false, stage := .fresh, arr := 0, data := [], spots := [], at_ := 0, via := none, wts := 0, rts := 0, old := false }
def store : MemReq := { load with kind := .store 4 0x11223344 }
def owner : Part := partition single
def mem (c : Core) (reqs : List MemReq) : State := { world single c idleGate [] with parts := [(0, owner)], reqs, nextReq := 9 }
def queued : MemReq := { load with stage := .queued }
/-- The line of the load, in the partition's slice. -/
def lineHeld : SLine := { line := 0x4002, set_ := 0, way := 0, dirty := false, wts := 4, rts := 6, home := none }
def holding (s : State) : State := { s with slices := [(0, { Slice.reset with lines := [lineHeld] })] }
/-- A copy in a CACHE-mode bank. -/
def copy : CLine := { line := 0x4002, bank := 0, wts := 4, rts := 6, ended := false, bytes := [] }
/-- A message of the memory plane at a router of core 0's way. -/
def told (s : State) (m : Msg) (n : Nat) : State := { s with msgs := [{ place := .input n 4, msg := m }] }

/-- `MemoryRequests`: a request leaves its core, finds room at its slice, or not; it returns from the spill queue; it is accepted. -/
theorem met_request_leaves : ∃ (s : State) (r : MemReq), s.clocked = true ∧ s.req 1 = some r ∧ r.stage = .fresh ∧ r.isTile = false ∧ s.predOf r = none ∧
    s.injects r = true ∧ s.cacheHit r = none ∧ s.telling (.prepared 1) = false ∧
    s.coming (.input r.core 0) (memMsg (.request 1) r.core (s.sliceOf r.part r.pa) false 0) = none ∧
    1 ≤ s.space (.input r.core 0) (memMsg (.request 1) r.core (s.sliceOf r.part r.pa) false 0) :=
  ⟨mem base [load], _, rfl, rfl, rfl, rfl, rfl, rfl, rfl, rfl, rfl, by decide⟩
/-- The request's message where it is bound for. -/
def arriving (l : List MemReq) : State :=
  told (mem base ({ load with stage := .sent } :: l)) (memMsg (.request 1) 0 0 false 0) (sliceEdge 0 0)
theorem met_request_arrival : (∃ r, (arriving []).req 1 = some r ∧ r.stage = .sent ∧
      Arrives (arriving []) (.request 1) (memMsg (.request 1) r.core r.at_ false 0) (sliceEdge r.at_ r.core) 4 ∧
      (arriving []).queueLoad r.at_ < 64 ∧ (arriving []).atSlice r.at_ .spilled = []) ∧
    (∃ r, (arriving [{ queued with id := 2, stage := .spilled }]).req 1 = some r ∧
      Arrives (arriving [{ queued with id := 2, stage := .spilled }]) (.request 1) (memMsg (.request 1) r.core r.at_ false 0) (sliceEdge r.at_ r.core) 4 ∧
      (arriving [{ queued with id := 2, stage := .spilled }]).atSlice r.at_ .spilled ≠ [] ∧
      ((arriving [{ queued with id := 2, stage := .spilled }]).atSlice r.at_ .spilled).length < 4096) ∧
    (∃ (s : State) (r : MemReq), s.clocked = true ∧ s.queueLoad 0 < 64 ∧ bestOf (fun a b => decide (a.arr < b.arr)) (s.atSlice 0 .spilled) = some r) ∧
    ∃ (s : State) (r : MemReq), s.clocked = true ∧ s.req 1 = some r ∧ Arrives s (.accepted 1) (memMsg (.accepted 1) 0 0 true 0) 0 4 :=
  ⟨⟨_, rfl, rfl, ⟨rfl, rfl⟩, by decide, by decide⟩, ⟨_, rfl, ⟨rfl, rfl⟩, by decide, by decide⟩,
    ⟨mem base [{ load with stage := .spilled }], _, rfl, by decide, rfl⟩,
    ⟨told (mem base [queued]) (memMsg (.accepted 1) 0 0 true 0) 0, _, rfl, rfl, rfl, rfl⟩⟩
/-- It stands at the head of its line, which the slice holds or not; its page is not the partition's; a copy answers it. -/
theorem met_serve : (∃ (s : State) (r : MemReq), s.clocked = true ∧ s.req 1 = some r ∧ AtSlice s r ∧ s.refusesPa r.part r.pa = false ∧ s.fillOf r = none ∧
      (∃ l, (s.slice (s.sliceOf r.part r.pa)).find (r.pa / 128) = some l) ∧ s.badLine (r.pa / 128) = false) ∧
    (∃ (s : State) (r : MemReq), s.req 1 = some r ∧ AtSlice s r ∧ s.refusesPa r.part r.pa = false ∧ s.fillOf r = none ∧
      (s.slice (s.sliceOf r.part r.pa)).find (r.pa / 128) = none ∧ (s.slice (s.sliceOf r.part r.pa)).touched (r.pa / 128) = false ∧ r.isEvent = true) ∧
    (∃ (s : State) (r : MemReq), s.req 1 = some r ∧ AtSlice s r ∧ (s.slice (s.sliceOf r.part r.pa)).touched (r.pa / 128) = true ∧
      (s.slice (s.sliceOf r.part r.pa)).victim (setOf (r.pa / 128)) = some 0) ∧
    (∃ (s : State) (r : MemReq), s.req 1 = some r ∧ AtSlice s r ∧ s.refusesPa r.part r.pa = true ∧ r.isEvent = true ∧ r.agent = .core 0 ∧ s.core 0 = some base) ∧
    ∃ (s : State) (r : MemReq), s.clocked = true ∧ s.req 1 = some r ∧ r.stage = .fresh ∧ r.isTile = false ∧ s.injects r = true ∧ s.cacheHit r = some copy ∧
      s.predOf r = none :=
  ⟨⟨holding (mem base [queued]), _, rfl, rfl, ⟨rfl, rfl, by decide, rfl, by decide, .inl ⟨fun _ _ h => (nomatch h), fun _ _ _ _ _ h => (nomatch h)⟩⟩, by decide, rfl, ⟨_, rfl⟩, by decide⟩,
    ⟨mem base [{ store with stage := .queued }], _, rfl, ⟨rfl, rfl, by decide, rfl, by decide, .inr (by decide)⟩, by decide, rfl, rfl, by decide, rfl⟩,
    ⟨{ mem base [queued] with slices := [(0, { Slice.reset with filterA := bloomHashes 0x4002, filterB := bloomHashes 0x4002 })] }, _, rfl,
      ⟨rfl, rfl, by decide, rfl, by decide, .inl ⟨fun _ _ h => (nomatch h), fun _ _ _ _ _ h => (nomatch h)⟩⟩, by decide, by decide⟩,
    ⟨mem base [{ queued with pa := 0x400000 }], _, rfl, ⟨rfl, rfl, by decide, rfl, by decide, .inl ⟨fun _ _ h => (nomatch h), fun _ _ _ _ _ h => (nomatch h)⟩⟩, by decide, rfl, rfl, rfl⟩,
    ⟨mem { base with cache := [copy] } [load], _, rfl, rfl, rfl, rfl, rfl, rfl, rfl⟩⟩
/-- It is performed, filled, in error; its completion comes; what follows a faulted one is discarded. -/
theorem met_performed : (mem base [load]).req 1 = some load ∧ load.kind = .load 1 .n32 true ∧ (mem base [store]).req 1 = some store ∧
    store.kind = .store 4 0x11223344 ∧ (mem base [{ load with kind := .amo 0 1 .n32 1 2 }]).req 1 = some { load with kind := .amo 0 1 .n32 1 2 } ∧
    (mem base []).inClear 0x4002 = true := ⟨rfl, rfl, rfl, rfl, rfl, by decide⟩
theorem met_fill : (∃ (s : State) (r : MemReq), s.clocked = true ∧ s.req 1 = some r ∧ r.stage = .filling false ∧ s.badLine (r.pa / 128) = false) ∧
    (∃ (s : State) (r : MemReq), s.req 1 = some r ∧ r.stage = .filling true ∧ assoc (s.slice (s.sliceOf r.part r.pa)).fills (r.pa / 128) = some 3 ∧
      s.badLine (r.pa / 128) = false) ∧
    (∃ (s : State) (r : MemReq), s.req 1 = some r ∧ r.stage = .filling true ∧ s.badLine (r.pa / 128) = true ∧ r.isEvent = true ∧ r.agent = .core 0 ∧
      s.core 0 = some base) ∧
    (∃ (s : State) (r : MemReq), s.clocked = true ∧ s.req 1 = some r ∧ r.stage = .served ∧ r.agent = .core 0 ∧ s.core 0 = some base ∧ s.tileOpen r = false ∧
      Arrives s (.completed 1) (memMsg (.completed 1) 0 0 true 1) 0 4 ∧ r.isEvent = true ∧ r.kind = .load 1 .n32 true) ∧
    ∃ (s : State) (r : MemReq) (c : Core), s.clocked = true ∧ s.req 1 = some r ∧ r.agent = .core 0 ∧ s.core 0 = some c ∧ c.faulted = true ∧
      s.toCancel r = true ∧ ∀ q ∈ s.reqs, q.agent = r.agent → q.pred = some r.seq → s.toCancel q = false :=
  ⟨⟨mem base [{ load with stage := .filling false }], _, rfl, rfl, rfl, by decide⟩,
    ⟨{ mem base [{ load with stage := .filling true }] with slices := [(0, { Slice.reset with fills := [(0x4002, 3)] })] }, _, rfl, rfl, by decide, by decide⟩,
    ⟨{ mem base [{ load with stage := .filling true }] with eccBad := [0x4002] }, _, rfl, rfl, by decide, rfl, rfl, rfl⟩,
    ⟨told (mem base [{ load with stage := .served }]) (memMsg (.completed 1) 0 0 true 1) 0, _, rfl, rfl, rfl, rfl, rfl, rfl, ⟨rfl, rfl⟩, rfl, rfl⟩,
    ⟨mem { fired with firing := some { firing with state := .faulted } } [{ load with pred := some 1 }, { load with id := 2, seq := 1, stage := .faulted }], _, _, rfl,
      rfl, rfl, rfl, rfl, by decide, by decide⟩⟩

/-- A stream of one token of BF16 at 0x1000, its address 0x50000 in a page at 0x200000, and its transfer. -/
def token : Desc := { lo := 0x0100000040000002, hi := 0x2000000000 }
def wide : Handle := { page with pbase := 0x200000 }
def moves (op : CopyOp) : Core := { base with copies := [{ op, rsb := none, xid := 0, time := 0, started := true, done := false, req := some 1 }] }
def taking : Core := moves (.tld token 0x50000 0 wide)
def tileLoad : MemReq := { load with kind := .tileLoad }
/-- One translated, at slice 0. -/
def tileAt (st : Stage) : MemReq := { tileLoad with stage := st, spots := [(0x1000, 0x50100, 0x200100)] }
theorem met_tile : (∃ (s : State) (r : MemReq) (c : Core) (x : CopyJob × Desc × Nat × Handle) (l : List (Nat × Nat × Nat)), s.clocked = true ∧ s.req 1 = some r ∧
      r.isTile = true ∧ r.stage = .fresh ∧ r.agent = .core 0 ∧ s.core 0 = some c ∧ s.predOf r = none ∧ c.works = true ∧ c.tileJob 1 = some x ∧
      c.badRead x.1.rsb = none ∧ s.locateTile 0 c r x.2.1 x.2.2.1 x.2.2.2 = .at_ l ∧ s.tileHit c { r with spots := l } = none) ∧
    (∃ (s : State) (r : MemReq) (c : Core) (x : CopyJob × Desc × Nat × Handle), s.req 1 = some r ∧ s.core 0 = some c ∧ c.tileJob 1 = some x ∧
      s.locateTile 0 c r x.2.1 x.2.2.1 x.2.2.2 = .missing 0x70000 ∧ ∀ w ∈ s.walks, w.req ≠ some 1) ∧
    ∃ (s : State) (r : MemReq) (c : Core) (x : CopyJob × Desc × Nat × Handle), s.req 1 = some r ∧ s.core 0 = some c ∧ c.tileJob 1 = some x ∧
      s.locateTile 0 c r x.2.1 x.2.2.1 x.2.2.2 = .fault trapProtFault 0x50000 :=
  ⟨⟨mem taking [tileLoad], _, taking, _, _, rfl, rfl, rfl, rfl, rfl, rfl, rfl, rfl, rfl, rfl, rfl, rfl⟩,
    ⟨mem (moves (.tld token 0x70000 0 wide)) [tileLoad], _, _, _, rfl, rfl, rfl, rfl, fun _ h => nomatch (show _ ∈ ([] : List Walk) from h)⟩,
    ⟨mem (moves (.tst token 0x50000 0 { wide with wr := false })) [{ tileLoad with kind := .tileStore }], _, _, _, rfl, rfl, rfl, rfl⟩⟩
theorem met_tile_copies : ∃ (s : State) (r : MemReq) (c : Core) (ts : Nat) (data : List (Nat × Byte)), s.tileHit c { r with spots := [(0x1000, 0x50100, 0x200100)] } = some (ts, data) :=
  ⟨mem { taking with cache := [copy] } [tileLoad], tileLoad, { taking with cache := [copy] }, _, _, rfl⟩
theorem met_tile_waits : ∃ (s : State) (r : MemReq) (u : State), s.clocked = true ∧ s.req 1 = some r ∧ r.isTile = true ∧ r.stage = .queued ∧ s.predOf r = none ∧
    s.behind r = false ∧ s.filling r.part (s.reqLines r) = false ∧ s.readFree r.part (s.reqLines r) = true ∧ s.bringAll r.part (s.reqLines r) = some u :=
  ⟨holding (mem taking [tileAt .queued]), _, _, rfl, rfl, rfl, rfl, rfl, by decide, by decide, by decide, rfl⟩
theorem met_tile_answer : ∃ (s : State) (r : MemReq), s.req 1 = some r ∧ r.stage = .prepared 1 ∧
    Arrives s (.prepared 1) (memMsg (.prepared 1) r.core 0 true 0) r.core 4 :=
  ⟨told (mem taking [tileAt (.prepared 1)]) (memMsg (.prepared 1) 0 0 true 0) 0, _, rfl, rfl, rfl, rfl⟩
theorem met_commit : (∃ (s : State) (r : MemReq), s.clocked = true ∧ s.req 1 = some r ∧ r.stage = .prepared 1 ∧ s.core 0 = some taking ∧ s.nextSlice r 1 = none ∧
      r.spots ≠ [] ∧ s.telling (.prepared 1) = false ∧ s.tileBad r = none ∧ r.kind = .tileLoad) ∧
    ∃ (s : State) (r : MemReq), s.req 1 = some r ∧ r.stage = .prepared 1 ∧ s.nextSlice r 1 = none ∧ r.isTile = true ∧ s.tileBad r = some 0x50100 :=
  ⟨⟨mem taking [tileAt (.prepared 1)], _, rfl, rfl, rfl, rfl, by decide, by decide, rfl, by decide, rfl⟩,
    ⟨{ mem taking [tileAt (.prepared 1)] with eccBad := [0x4002] }, _, rfl, rfl, by decide, rfl, by decide⟩⟩

/-- A walk of core 0 for handle 3, and what answers it. -/
def walk : Walk := { id := 1, core := 0, ns := 5, va := 0x50000, handle := some 3, req := none, rim := none, stage := .asked, old := false }
def walks (l : List Walk) : State := { mem base [] with walks := l }
theorem met_walk : (∃ (s : State) (w : Walk), s.clocked = true ∧ s.walkOf 1 = some w ∧ w.stage = .asked ∧ s.agentPage (fieldOf w.core) w.ns w.va = some page) ∧
    (∃ (s : State) (w : Walk), s.walkOf 1 = some w ∧ w.stage = .asked ∧ s.agentPage (fieldOf w.core) w.ns w.va = none ∧ ∀ x ∈ s.roots, x.1 ≠ w.ns) ∧
    (∃ (s : State) (w : Walk), s.walkOf 1 = some w ∧ w.stage = .asked ∧ s.agentPage (fieldOf w.core) w.ns w.va = none ∧
      (s.roots.find? fun x => x.1 = w.ns) = some (w.ns, 0x1000000) ∧
      ∃ u, s.readAll (.walker (fieldOf w.core)) (s.partOfNs w.ns) (walkFrom s.pte w.va 3 0 0x1000000).2 = some u) ∧
    (∃ (s : State) (w : Walk), s.walkOf 1 = some w ∧ w.stage = .found page ∧ w.rim = none ∧ w.req = none ∧ w.handle = some 3 ∧ s.core w.core = some base) ∧
    ∃ (s : State) (w : Walk), s.walkOf 1 = some w ∧ w.stage = .refused ∧ w.rim = none ∧ w.req = none ∧ w.handle = some 3 ∧ s.core w.core = some base :=
  ⟨⟨{ walks [walk] with agentTlb := [(fieldOf 0, { ns := 5, page })] }, _, rfl, rfl, rfl, by decide⟩,
    ⟨walks [walk], _, rfl, rfl, rfl, fun _ h => nomatch (show _ ∈ ([] : List (BitVec 8 × Nat)) from h)⟩,
    ⟨{ walks [walk] with roots := [(5, 0x1000000)] }, _, rfl, rfl, rfl, rfl, _, rfl⟩,
    ⟨walks [{ walk with stage := .found page }], _, rfl, rfl, rfl, rfl, rfl, rfl⟩, ⟨walks [{ walk with stage := .refused }], _, rfl, rfl, rfl, rfl, rfl, rfl⟩⟩
theorem met_pager : (∃ (s : State) (w : Walk), s.clocked = true ∧ s.walkOf 1 = some w ∧ w.stage = .parked 0x1000 2 ∧ s.pagerHolds < 256) ∧
    (∃ (s : State) (w : Walk), s.walkOf 1 = some w ∧ w.stage = .pager 0x1000 2 ∧ s.freshPage (s.partOfNs w.ns) w.va 3 2 0x1000 = some none) ∧
    (∃ (s : State) (w : Walk), s.clocked = true ∧ s.walkOf 1 = some w ∧ w.stage = .steward 0x1000 2) ∧ (∃ s : State, s.clocked = true ∧ s.shoot = none) ∧
    ∃ (s : State) (x : Shootdown), s.clocked = true ∧ s.shoot = some x ∧ s.gatedLeft x.ns x.lo x.hi = false ∧ ∀ r ∈ s.reqs, r.id ∈ x.waits → r.isDone = true :=
  ⟨⟨walks [{ walk with stage := .parked 0x1000 2 }], _, rfl, rfl, rfl, by decide⟩,
    ⟨walks [{ walk with stage := .pager 0x1000 2 }], _, rfl, rfl, rfl⟩, ⟨walks [{ walk with stage := .steward 0x1000 2 }], _, rfl, rfl, rfl⟩, ⟨up, rfl, rfl⟩,
    ⟨{ up with shoot := some { ns := 5, lo := 0, hi := 1, waits := [1] } }, _, rfl, rfl, by decide, fun _ h => nomatch (show _ ∈ ([] : List MemReq) from h)⟩⟩
/-- The pager has a page of 64 KiB to give, and the entry at 0x200008 takes it; the steward gives a page without bytes. -/
def paging : State := { walks [{ walk with stage := .pager 0x200008 2 }] with parts := [(0, { owner with free := [(.k64, 0x210000)] })] }
theorem met_resolve : ∃ (w : Walk) (p q : Part), paging.clocked = true ∧ paging.walkOf 1 = some w ∧ w.stage = .pager 0x200008 2 ∧
    paging.part (paging.partOfNs w.ns) = some p ∧ p.takeFrame (levelSize 2) = some (0x210000, q) ∧
    (((paging.onPart (paging.partOfNs w.ns) fun _ => q).zeroFill (paging.partOfNs w.ns) 0x210000 (levelSize 2).bytes).storeEntry (paging.partOfNs w.ns) 0x200008
      (pageEntry 0x210000 true true)).isSome = true :=
  ⟨_, _, _, rfl, rfl, rfl, rfl, rfl, by decide +kernel⟩
theorem met_frame : ∃ (w : Walk) (v : State × Nat), paging.walkOf 1 = some w ∧ paging.writeEvent .steward (paging.partOfNs w.ns) [] = some v ∧
    (v.1.storeEntry (paging.partOfNs w.ns) 0x200008 (pageEntry 0x210000 true false)).isSome = true :=
  ⟨_, _, rfl, rfl, by decide +kernel⟩

/-! ### Rim agents -/

/-- The tensor of `tile`: one tile of one token of BF16 at 0x50000, in the directory of the configuration; signed, with a manifest. -/
def dir : DirEntry :=
  { ns := 5, tensor := 0x12, deep := false, signed := false, bad := false, valid := true, fmt := .bf16, tokm1 := 0, base := 0x50000, tstride := 64, widths := [], strides := []
    scale := 0, manifest := [], verified := [] }
def rimPlan (e : DirEntry) : Config := { planOf single with dirs := [e] }
/-- The module with that directory, partition 0 owning the frame at 0x200000, where the agents' page lies. -/
def rim (e : DirEntry) (jobs : List (Fin 24 × AgentJob)) (msgs : List Flying) : State :=
  { mem base [] with
    jobs, msgs, agentTlb := [(fieldOf (agentHome 0), { ns := 5, page := wide })]
    ctxs := State.reset.ctxs.set 0 { Ctx.reset with state := .running, ns := 5, cfg := some (rimPlan e) } }
def wanted : Flying := { place := .agent 0, msg := { cls := 1, cpl := false, source := 5, body := .request 0x0500012000000000 7 (.core 0 1) none } }
/-- The tile's bytes, at the page. -/
def rimSpots : List (Nat × Nat × Nat) := (List.range 32).map fun k => (k, 0x50000 + k, 0x200000 + k)
def signed : DirEntry := { dir with signed := true, manifest := [Sys2Proof.Config.sha384 ((rim dir [] []).segmentData rimSpots)] }

/-- `RimAgents`: a request without an entry, with one that is bad, with one; a segment that agrees with its manifest, and one that does not. -/
theorem met_agent : (∃ (s : State) (f : Flying), s.clocked = true ∧
      FirstMsg s (fun y => y.place = .agent 0 ∧ (∃ m g r o, y.msg.body = .request m g r o ∧ s.backing 0 m = false)) f [] ∧
      f.msg.body = .request 0x0500012000000000 7 (.core 0 1) none ∧ s.dirOf 0 0x0500012000000000 = none) ∧
    (∃ (s : State) (e : DirEntry), FirstMsg s (fun y => y.place = .agent 0 ∧ (∃ m g r o, y.msg.body = .request m g r o ∧ s.backing 0 m = false)) wanted [] ∧
      s.dirOf 0 0x0500012000000000 = some e ∧ e.bad = true) ∧
    ∃ (s : State) (e : DirEntry), FirstMsg s (fun y => y.place = .agent 0 ∧ (∃ m g r o, y.msg.body = .request m g r o ∧ s.backing 0 m = false)) wanted [] ∧
      s.dirOf 0 0x0500012000000000 = some e ∧ e.bad = false :=
  ⟨⟨{ up with msgs := [wanted] }, wanted, rfl, first_msg rfl ⟨rfl, _, _, _, _, rfl, by decide⟩, rfl, rfl⟩,
    ⟨rim { dir with bad := true } [] [wanted], _, first_msg rfl ⟨rfl, _, _, _, _, rfl, by decide⟩, rfl, rfl⟩,
    ⟨rim dir [] [wanted], _, first_msg rfl ⟨rfl, _, _, _, _, rfl, by decide⟩, rfl, rfl⟩⟩
def fetchJob : Fin 24 × AgentJob := (0, .fetch 0x0500012000000000 7 (.core 0 1) false)
theorem rim_ready {s : State} {a : Fin 24} {ns : BitVec 8} {w : Bool} {v : List (Nat × Nat)} {l : List (Nat × Nat × Nat)} (h : s.locateRim a ns w v = .at_ l)
    (hf : ((if w then s.writeFree (s.partOfNs ns) (spotLines l) else s.readFree (s.partOfNs ns) (spotLines l)) &&
      !s.lineBusy (s.partOfNs ns) (spotLines l)) = true) : s.rimAccess a ns w v = .ready l := by
  simp only [State.rimAccess, h]; rw [if_pos hf]
theorem met_segment : (∃ (s : State) (name : BitVec 64) (e : DirEntry) (g : Nat), s.clocked = true ∧ s.unchecked 0 = some (name, e, g) ∧
      s.rimAccess 0 e.ns false (e.segmentVas g) = .ready rimSpots ∧ s.spotsBad rimSpots = false ∧
      (∃ u, s.readEvent (.rim 0) (s.partOfNs e.ns) (rimSpots.map fun x => x.2.2) = some u) ∧
      e.manifest[g]? = some (Sys2Proof.Config.sha384 (s.segmentData rimSpots))) ∧
    (∃ (s : State) (name : BitVec 64) (e : DirEntry) (g : Nat), s.unchecked 0 = some (name, e, g) ∧
      s.rimAccess 0 e.ns false (e.segmentVas g) = .ready rimSpots ∧ e.manifest[g]? ≠ some (Sys2Proof.Config.sha384 (s.segmentData rimSpots))) ∧
    ∃ (s : State) (name : BitVec 64) (e : DirEntry) (g : Nat), s.unchecked 0 = some (name, e, g) ∧
      s.rimAccess 0 e.ns false (e.segmentVas g) = .ready rimSpots ∧ s.spotsBad rimSpots = true :=
  ⟨⟨rim signed [fetchJob] [], 0x0500012000000000, signed, 0, rfl, rfl, rim_ready rfl (by decide), by decide, ⟨_, rfl⟩, rfl⟩,
    ⟨rim { dir with signed := true } [fetchJob] [], 0x0500012000000000, { dir with signed := true }, 0, rfl, rim_ready rfl (by decide), fun h => nomatch h⟩,
    ⟨{ rim signed [fetchJob] [] with eccBad := [0x4000] }, 0x0500012000000000, signed, 0, rfl, rim_ready rfl (by decide), by decide⟩⟩
theorem met_segment_fails : ∃ (s : State) (name : BitVec 64) (e : DirEntry) (g : Nat) (code : Byte) (t : State), s.unchecked 0 = some (name, e, g) ∧
    s.rimAccess 0 e.ns false (e.segmentVas g) = .fails code t :=
  ⟨{ rim signed [fetchJob] [] with agentTlb := [(fieldOf (agentHome 0), { ns := 5, page := { wide with rd := false } })] }, 0x0500012000000000, signed, 0, _, _, rfl, rfl⟩
/-- A tile read, and one written back; its completion. -/
def backing : Tile := { tile with back := true, bursts := [{ scale := 0x7F, fmt := .bf16, eos := false, tokens := [{ ev := 0xFFFF, bits := 0x3F80 }] }] }
theorem met_fetched : ∃ (s : State) (e : DirEntry), s.clocked = true ∧ s.jobs = [] ++ fetchJob :: [] ∧ s.dirOf 0 0x0500012000000000 = some e ∧ e.bad = false ∧
    e.unverified (indexBits 0x0500012000000000) = none ∧
    s.rimAccess 0 e.ns false (e.tileVas (indexBits 0x0500012000000000) (e.tokm1 + 1)) = .ready rimSpots ∧ s.spotsBad rimSpots = false ∧
    ∃ u, s.readEvent (.rim 0) (s.partOfNs e.ns) (rimSpots.map fun x => x.2.2) = some u :=
  ⟨rim dir [fetchJob] [], dir, rfl, rfl, rfl, rfl, rfl, rim_ready rfl (by decide), by decide, _, rfl⟩
theorem met_backed : (∃ (s : State) (tl : Tile) (e : DirEntry), s.clocked = true ∧ s.backJob 0 = some (tl, 0) ∧ s.dirOf 0 tl.name = some e ∧
      s.rimAccess 0 e.ns true (e.tileVas (indexBits tl.name) (min tl.tokens (e.tokm1 + 1))) = .ready rimSpots ∧
      ∃ u, s.writeEvent (.rim 0) (s.partOfNs e.ns) (rimSpots.map fun x => (x.2.2, (cellAt (e.backBytes tl) x.1).getD 0)) = some u) ∧
    ∃ (s : State), s.clocked = true ∧ takeBackDone 0 s.backDone = some (4, 9, []) ∧ s.core 0 = some base :=
  ⟨⟨rim dir [(0, .back backing 0)] [], backing, dir, rfl, rfl, rfl, rim_ready rfl (by decide), _, rfl⟩, ⟨{ module base with backDone := [(0, 4, 9)] }, rfl, rfl, rfl⟩⟩

/-! ### Steps of a core beside its slots -/

/-- The module with one core that runs the firing, between groups. -/
theorem met_code : (∃ (s : State) (c : Core) (f : Firing), s.clocked = true ∧ s.core 0 = some c ∧ c.firing = some f ∧ c.issues = true ∧ c.issue.todo = [] ∧
      c.fetchState f = .row 0) ∧
    (∃ (s : State) (c : Core) (f : Firing), s.core 0 = some c ∧ c.firing = some f ∧ c.issues = true ∧ c.issue.todo = [] ∧ c.fetchState f = .outside) ∧
    (∃ (s : State) (c : Core) (f : Firing), s.core 0 = some c ∧ c.firing = some f ∧ c.issues = true ∧ c.issue.todo = [] ∧ ∃ a, c.fetchState f = .bad a) ∧
    (∃ (s : State) (c : Core), s.clocked = true ∧ s.core 0 = some c ∧ c.issue.todo = [] ∧ 0 < c.issue.owed) ∧
    ∃ (s : State) (c : Core), s.core 0 = some c ∧ c.issue.todo = [] ∧ c.issue.owed = 0 ∧ c.issue.retiring = true ∧ c.flight ≠ [] :=
  ⟨⟨module fired, _, _, rfl, rfl, rfl, rfl, rfl, by decide⟩, ⟨module { fired with issue := Issue.at_ 0x200 }, _, _, rfl, rfl, rfl, rfl, by decide⟩,
    ⟨module { fired with fetched := [0], badWords := [0] }, _, _, rfl, rfl, rfl, rfl, _, rfl⟩,
    ⟨module { fired with issue := { Issue.at_ 0 with owed := 2 } }, _, rfl, rfl, rfl, by decide⟩,
    ⟨module { fired with issue := { Issue.at_ 0 with retiring := true }, flight := [{ write := .s 1 5, left := 2, old := false }] }, _, rfl, rfl, rfl, rfl, by decide⟩⟩
/-- A value that has returned; the answer about a pair; each queue's head; what the streamer and the landings do. -/
def filled : Core := { base with fills := [{ reg := .s 3, value := some (.s 3 5), old := false }] }
def asking : Core := { fired with port := [{ op := .subq 3 0x0500012000000000 7 false, rsb := none }], fills := [{ reg := .s 3, value := none, old := false }] }
theorem met_register : (∃ (s : State) (c : Core) (w : RegWrite), s.clocked = true ∧ s.core 0 = some c ∧ takeFill (.s 3) c.fills = some (w, false, [])) ∧
    ∃ (s : State) (c : Core) (p : Pair) (f : Firing) (g : Gate) (d : Core), s.clocked = true ∧ s.core 0 = some c ∧ takeFill (.s 3) c.fills = none ∧
      c.subqHead (.s 3) = some (p, false) ∧ c.firing = some f ∧ s.gate f.gate = some g ∧
      ((c.portDone none).give (.s 3) (.s 3 (g.answer p false))).landFill (.s 3) = some d :=
  ⟨⟨module filled, _, _, rfl, rfl, rfl⟩, ⟨world single asking idleGate [], _, _, _, _, _, rfl, rfl, rfl, rfl, rfl, rfl, rfl⟩⟩
def job (started : Bool) : EngJob := { op := .mclr 3, rsb := none, started, faulted := false, stage := 0, q := [], g := [] }
def clearing (started : Bool) : Core := { fired with statQ := [job started] }
theorem met_queue : (∃ (s : State) (c : Core) (f : Firing) (j : EngJob) (t : State), s.clocked = true ∧ s.core 0 = some c ∧ c.firing = some f ∧
      c.headJob .stats false = some j ∧ c.works = true ∧ c.rsbClear j.rsb = true ∧
      (s.setCore 0 (c.setHead .stats { j with started := true })).startJob 0 (c.setHead .stats { j with started := true }) f j.op = some t ∧
      (∀ t d, j.op ≠ .csend t d) ∧ (∀ k x y x2 y2 h i, j.op ≠ .scan k x y x2 y2 h i) ∧ j.op ≠ .cbar) ∧
    ∃ (s : State) (c : Core) (f : Firing) (j : EngJob), s.clocked = true ∧ s.core 0 = some c ∧ c.firing = some f ∧ c.headJob .stats true = some j ∧
      c.works = true ∧ s.jobReady c f j = true ∧ c.jobBad j = none :=
  ⟨⟨module (clearing false), _, _, job false, _, rfl, rfl, rfl, rfl, rfl, rfl, rfl, fun _ _ h => (nomatch h), fun _ _ _ _ _ _ _ h => (nomatch h), fun h => (nomatch h)⟩,
    ⟨module (clearing true), _, _, job true, rfl, rfl, rfl, rfl, rfl, rfl, rfl⟩⟩
/-- The first word of an accumulator row cannot be corrected, and an operation reads the row. -/
def rowRead : EngJob := { op := .aread 1 2 0, rsb := none, started := true, faulted := false, stage := 0, q := [], g := [] }
theorem met_bad_row : ∃ (s : State) (c : Core) (f : Firing), s.clocked = true ∧ s.core 0 = some c ∧ c.firing = some f ∧ c.headJob .stats true = some rowRead ∧
      c.works = true ∧ s.jobReady c f rowRead = true ∧ c.jobBad rowRead = some (windowEnd + 64 * 18) :=
  ⟨module { fired with statQ := [rowRead], badWords := [windowEnd + 64 * 18] }, _, _, rfl, rfl, rfl, rfl, rfl, by decide, by decide⟩
def toCopy : Core := { base with copies := [{ op := .cpy 0x1000 0x2000 32, rsb := none, xid := 0, time := 0, started := false, done := false, req := none }] }
def moving (op : CopyOp) (req : Option Nat) : Core :=
  { base with copies := [{ op, rsb := some 5, xid := 0, time := 0, started := true, done := false, req }] }
theorem met_streamer : (∃ s : State, s.clocked = true ∧ s.core 0 = some toCopy ∧
      s.served ((quadCores 0).drop (s.round 0).1 ++ (quadCores 0).take ((s.round 0).1 + 1)) (s.round 0).2 = some 0) ∧
    (∃ (s : State) (c : Core) (j : CopyJob) (l : List (Nat × Byte)), s.clocked = true ∧ s.core 0 = some c ∧
      c.copies.find? (fun j => j.started && j.rsb == some 5) = some j ∧ c.works = true ∧ c.badRead j.rsb = none ∧ j.op = .tld token 0x50000 0 wide ∧
      s.tileData j = some l) ∧
    ∃ (s : State) (c : Core) (j : CopyJob), s.clocked = true ∧ s.core 0 = some c ∧ c.copies.find? (fun j => j.started && j.rsb == some 5) = some j ∧
      c.works = true ∧ c.badRead j.rsb = none ∧ (∀ d va h g, j.op ≠ .tld d va h g) ∧ ∀ d va h g, j.op ≠ .tst d va h g :=
  ⟨⟨module toCopy, rfl, rfl, by decide⟩,
    ⟨mem (moving (.tld token 0x50000 0 wide) (some 1)) [{ tileLoad with stage := .served, data := [(0x1000, 1)] }], _, _, _, rfl, rfl, rfl, rfl, rfl, rfl, rfl⟩,
    ⟨module (moving (.cpy 0x1000 0x2000 32) none), _, _, rfl, rfl, rfl, rfl, rfl, fun _ _ _ _ h => (nomatch h), fun _ _ _ _ h => (nomatch h)⟩⟩
def landing : Landing := { sub := 0, copy := 0, bytes := [(0x1000, 1)], span := some { lo := 0x1000, hi := 0x103F }, rsb := none, started := false, done := false }
def lands (l : Landing) : Core := { base with firing := some { firing with landings := [l] } }
theorem met_landing : (∃ (s : State) (c d : Core) (f g : Firing) (o : List Out), s.clocked = true ∧ s.core 0 = some c ∧ c.works = true ∧
      c.startAmong [] c.firings = some (d, f, g, o)) ∧
    ∃ (s : State) (c : Core) (f : Firing) (l : Landing), s.clocked = true ∧ s.core 0 = some c ∧ c.works = true ∧ c.firing = some f ∧ f.landings = l :: [] ∧
      l.started = true ∧ l.done = false :=
  ⟨⟨module (lands landing), _, _, _, _, _, rfl, rfl, rfl, rfl⟩, ⟨module (lands { landing with started := true }), _, _, _, rfl, rfl, rfl, rfl, rfl, rfl, rfl⟩⟩
/-- An empty bundle, one at fault, a section that overruns, a deferred fault, a freeze. -/
def empty : Bundle := { nopc := 0, rmark := false, split := 0, len := 2, slots := [] }
theorem met_boundaries : (∃ (s : State) (c : Core), s.clocked = true ∧ s.core 0 = some c ∧ c.issues = true ∧ c.issue.bundle = some empty ∧ empty.slots = []) ∧
    (∃ (s : State) (c : Core), s.clocked = true ∧ s.core 0 = some c ∧ c.issues = true ∧ c.issue.fault = some 2) ∧
    (∃ (s : State) (c : Core), s.clocked = true ∧ s.core 0 = some c ∧ c.nps = some 16384 ∧ c.running = true ∧ c.works = true ∧ c.between = true) ∧
    (∃ (s : State) (c : Core) (x : DFault), s.clocked = true ∧ s.core 0 = some c ∧ c.dfaults = x :: [] ∧ c.running = true ∧ c.works = true ∧ c.between = true) ∧
    ∃ (s : State) (c : Core), s.clocked = true ∧ s.core 0 = some c ∧ c.stopping = true ∧ c.frozen = false ∧ c.between = true :=
  ⟨⟨module { fired with issue := { Issue.at_ 0 with bundle := some empty } }, _, rfl, rfl, rfl, rfl, rfl⟩,
    ⟨module { fired with issue := { Issue.at_ 0 with fault := some 2 } }, _, rfl, rfl, rfl, rfl⟩,
    ⟨module { fired with nps := some 16384 }, _, rfl, rfl, rfl, rfl, rfl, rfl⟩, ⟨module { fired with dfaults := [walkFault 0x70000] }, _, _, rfl, rfl, rfl, rfl, rfl, rfl⟩,
    ⟨module { base with freezeReq := true }, _, rfl, rfl, rfl, rfl, rfl⟩⟩

/-! ### Replies and switches -/

/-- A core whose firing has faulted, its walked handle lost; the token of its fault; one frozen. -/
def faulted : Core := { fired with firing := some { firing with state := .faulted }, regs := { fired.regs with h := fired.regs.h.set 4 { page with valid := false } } }
def faultToken : FaultToken := { core := 0, ns := faulted.ns, pen := 3, rec_ := Vector.replicate 4 0, pager := true }
theorem met_reply : (∃ (s : State) (c : Core) (f : Firing), s.clocked = true ∧ s.core 0 = some c ∧ c.firing = some f ∧ f.state = .faulted ∧ c.frozen = false ∧
      s.cancelled 0 = true ∧ (∃ pre k post, s.tokens = pre ++ k :: post ∧ k.core = 0 ∧ k.pager = true ∧ k.ns = c.ns ∧ ∀ x ∈ pre, x.core = 0 → x.pager = false) ∧
      c.lostHandle = some 4) ∧
    ∃ (s : State) (c : Core) (f : Firing), s.clocked = true ∧ s.core 0 = some c ∧ c.firing = some f ∧ f.state = .faulted ∧ c.frozen = true :=
  ⟨⟨{ mem faulted [] with tokens := [faultToken] }, _, _, rfl, rfl, rfl, rfl, rfl, by decide,
      ⟨[], _, [], rfl, rfl, rfl, rfl, fun _ h => nomatch (show _ ∈ ([] : List FaultToken) from h)⟩, by decide⟩,
    ⟨mem { faulted with frozen := true } [], _, _, rfl, rfl, rfl, rfl, rfl⟩⟩
/-- Switches of partition 0 to context 0, at T = 1,000,000. -/
def switch (st : CtxState) (status : SwStatus) (wcc : Word) (out : Option (Fin 8)) : State :=
  withPre { mem base [] with wcc, ctxs := State.reset.ctxs.set 0 { Ctx.reset with state := st, ns := 5, cfg := some (planOf single) } }
    fun q => { q with at_ := 1000000, status, out }
theorem met_arm : (∃ s : State, s.clocked = true ∧ s.preempt[(0 : Fin 16)].open_ = true ∧ s.preempt[(0 : Fin 16)].at_.toNat < s.wcc.toNat + 100000) ∧
    (∃ s : State, s.preempt[(0 : Fin 16)].open_ = true ∧ s.wcc.toNat + 100000 ≤ s.preempt[(0 : Fin 16)].at_.toNat ∧
      s.ctxs[s.preempt[(0 : Fin 16)].next].part = 0 ∧ s.ctxs[s.preempt[(0 : Fin 16)].next].state = .parked) ∧
    (∃ s : State, s.preempt[(0 : Fin 16)].open_ = true ∧ s.wcc.toNat + 100000 ≤ s.preempt[(0 : Fin 16)].at_.toNat ∧
      s.ctxs[s.preempt[(0 : Fin 16)].next].state ≠ .parked ∧ s.ctxs[s.preempt[(0 : Fin 16)].next].state ≠ .running) ∧
    (∃ s : State, s.preempt[(0 : Fin 16)].status = .armed ∧ s.preempt[(0 : Fin 16)].at_.toNat ≤ s.wcc.toNat + 20000) ∧
    ∃ s : State, s.preempt[(0 : Fin 16)].status = .armed ∧ s.ctxIn 0 .running = some s.preempt[(0 : Fin 16)].next :=
  ⟨⟨switch .parked .idle 900001 none, by decide, by decide, by decide⟩, ⟨switch .parked .idle 900000 none, by decide⟩,
    ⟨switch .empty .idle 900000 none, by decide⟩, ⟨switch .parked .armed 980000 none, by decide⟩, ⟨switch .running .armed 0 none, by decide⟩⟩
theorem met_switch : (∃ s : State, s.clocked = true ∧ s.preempt[(0 : Fin 16)].status = .committed ∧ s.preempt[(0 : Fin 16)].at_.toNat ≤ s.wcc.toNat ∧
      s.ctxIn 0 .restoring = none ∧ s.ctxIn 0 .running = some 0) ∧
    (∃ s : State, s.preempt[(0 : Fin 16)].status = .committed ∧ s.preempt[(0 : Fin 16)].at_.toNat ≤ s.wcc.toNat ∧ s.ctxIn 0 .restoring = none ∧
      s.ctxIn 0 .running = none ∧ s.ctxIn 0 .saving ≠ none) ∧
    (∃ s : State, s.preempt[(0 : Fin 16)].status = .committed ∧ s.preempt[(0 : Fin 16)].at_.toNat ≤ s.wcc.toNat ∧ s.ctxIn 0 .restoring = none ∧
      s.ctxIn 0 .running = none ∧ s.ctxIn 0 .saving = none ∧ s.ctxs[s.preempt[(0 : Fin 16)].next].state = .parked ∧
      s.ctxs[s.preempt[(0 : Fin 16)].next].part = 0) ∧
    (∃ s : State, s.clocked = true ∧ s.part 0 = some owner ∧ s.preempt[(0 : Fin 16)].out = some 0 ∧ s.preempt[(0 : Fin 16)].saved = false ∧
      s.ctxs[(0 : Fin 8)].state = .saving ∧ s.savable 0 owner = true ∧ s.preempt[(0 : Fin 16)].status = .done ∧ s.ctxs[(0 : Fin 8)].wanted = false) ∧
    ∃ s : State, s.clocked = true ∧ s.preempt[(0 : Fin 16)].status = .switching ∧ s.preempt[(0 : Fin 16)].overdue = false ∧
      s.preempt[(0 : Fin 16)].at_.toNat + 4000000 ≤ s.wcc.toNat :=
  ⟨⟨switch .running .committed 1000000 none, by decide⟩, ⟨switch .saving .committed 1000000 none, by decide⟩, ⟨switch .parked .committed 1000000 none, by decide⟩,
    ⟨{ switch .saving .done 1000000 (some 0) with cores := [(0, { base with frozen := true })] }, by decide, rfl, by decide, by decide, by decide, by decide, by decide, by decide⟩,
    ⟨switch .saving .switching 5000000 (some 0), by decide⟩⟩
def saved : Image := { cores := [(0, base)], routers := [], msgs := [], reqs := [], walks := [], mib := 0 }
theorem met_restore : ∃ s : State, s.clocked = true ∧ s.part 0 = some owner ∧ s.ctxIn 0 .restoring = some 0 ∧ s.ctxs[(0 : Fin 8)].cfg = some (planOf single) ∧
    s.ctxs[(0 : Fin 8)].image = some saved ∧ (∀ j : Fin 16, s.ctxs[(0 : Fin 8)].itf = some j → s.tdis[j].bound = false ∨ s.tdis[j].consent = 2) ∧
    s.preempt[(0 : Fin 16)].status = .switching :=
  ⟨{ switch .restoring .switching 1000000 none with ctxs := State.reset.ctxs.set 0 { Ctx.reset with state := .restoring, cfg := some (planOf single), image := some saved } },
    by decide, rfl, by decide, rfl, rfl, by decide, by decide⟩

/-! ### Ingress ports -/

/-- Port 0 with an entry of the elements at its head and `n` entries to read. -/
def port (k : Ctx) (e : List Nat) (n : BitVec 32) (f : Ingress → Ingress) : State :=
  { world single base idleGate [] with
    parts := [(0, { owner with frames := [7, 8, 9, 10, 11, 12, 13, 14, 15] })], ctxs := State.reset.ctxs.set 0 k
    ing := State.reset.ing.set 0 (f { State.reset.ing[(0 : Fin 16)] with tail := n })
    smem := Memory.put [] (cellsAt 0 (e.flatMap (leBytes 4))) }
def ctx (st : CtxState) : Ctx := { Ctx.reset with state := st, ns := 5, cfg := some (planOf single), gates := [idleGate] }
/-- OPEN of prefix 1 into context 0 of partition 0, namespace 5; INJECT of a tile of one BF16 token; ARG, GO of graph 0 and CLOSE. -/
def openEntry : List Nat := [1, 0, 0, 0, 0, 5, 0, 0, 0, 0, 0, 0, 0, 0, 0, 1]
def argEntry : List Nat := [1, 0, 0, 0, 0, 5, 0, 0, 0, 0, 0, 0, 0, 0, 0, 2]
def injectEntry : List Nat := [0, 0x5000120, 0x20007, 0x7F00, 0, 0, 0, 0, 0, 0, 0, 0, 0, 0, 0, 3]
def goEntry : List Nat := [1, 0, 0, 0, 0, 0, 0, 0, 0, 0, 0, 0, 0, 0, 0, 4]
def closeEntry : List Nat := [0, 0, 0, 0, 0, 0, 0, 0, 0, 0, 0, 0, 0, 0, 0, 5]
theorem met_open_stream : (∃ s : State, s.clocked = true ∧ s.entryOf 0 1 = some openEntry ∧ s.ing[(0 : Fin 16)].skipping = false ∧
      s.ing[(0 : Fin 16)].report = none ∧
      s.ctxs[(openArgs openEntry).ctx].matches_ (openArgs openEntry) = true ∧ s.ctxs[(openArgs openEntry).ctx].resident = some (planOf single)) ∧
    (∃ s : State, s.entryOf 0 1 = some openEntry ∧ s.ing[(0 : Fin 16)].skipping = false ∧ s.ing[(0 : Fin 16)].report = none ∧
      s.ctxs[(openArgs openEntry).ctx].matches_ (openArgs openEntry) = false ∧ s.loaderWaits (openArgs openEntry) = true ∧ s.ing[(0 : Fin 16)].loading = false) ∧
    (∃ s : State, s.entryOf 0 1 = some openEntry ∧ s.ing[(0 : Fin 16)].skipping = false ∧ s.ing[(0 : Fin 16)].report = none ∧
      s.ctxs[(openArgs openEntry).ctx].matches_ (openArgs openEntry) = false ∧
      s.loaderWaits (openArgs openEntry) = false ∧ s.replaces (openArgs openEntry) = false ∧ s.store = []) ∧
    ∃ (s : State) (r : Fin 8 × Fin 16 × List Byte) (p : Part), s.clocked = true ∧ s.ing[(0 : Fin 16)].report = some r ∧ s.part r.2.1 = some p ∧ p.writes = [] :=
  ⟨⟨port (ctx .running) openEntry 1 id, rfl, by decide, by decide, by decide, by decide, rfl⟩,
    ⟨port { Ctx.reset with state := .saving } openEntry 1 id, by decide, by decide, by decide, by decide, by decide, by decide⟩,
    ⟨port Ctx.reset openEntry 1 id, by decide, by decide, by decide, by decide, by decide, by decide, rfl⟩,
    ⟨port (ctx .loading) openEntry 1 fun g => { g with report := some (0, 0, []) }, (0, 0, []), _, rfl, rfl, rfl, rfl⟩⟩
/-- A binary with one task of the records the example of 10 R305 gives, on one core: header, directory, descriptor, pen, loop nest, subscription,
directory entry (10 R306, R307, 05 Tables 5-2 to 5-5, 02 Table 2-4); and the same with a kind that Table 10-21 does not list. -/
def words (l : List Nat) : List Byte := l.flatMap (leBytes 8)
def dirEntries : Nat → List (Nat × List Byte) → List Byte
  | _, [] => []
  | off, r :: rs => leBytes 4 r.1 ++ leBytes 8 off ++ leBytes 4 r.2.length ++ dirEntries (off + r.2.length) rs
def file (rs : List (Nat × List Byte)) : List Byte :=
  let at_ := 64 + 16 * rs.length
  let body := dirEntries at_ rs ++ rs.flatMap (·.2)
  leBytes 4 0x5759434F ++ leBytes 4 3 ++ leBytes 4 rs.length ++ leBytes 4 64 ++ leBytes 8 (64 + body.length) ++ leBytes 2 1 ++ leBytes 2 1 ++ leBytes 36 1 ++ body
def descriptor : List Byte :=
  words [0x000000004C001000, 0x0000000006000000, 0x0000101DFFFFFFFF, 0x0100000200000000, 0x00000000FFFF0000, 0, 0, 0]
def pen : List Byte := words [0x0000400100000000] ++ leBytes 8 0
def nest : List Byte := words [0x0000000100040000, 0x0000000100040000, 0, 0, 4]
def subscription : List Byte := words [0x0000012000000000, 0x0008080000010000, 0x0028000005000000, 0x1000000800000186, 0]
def tensorEntry : List Byte := words [0x00000120487C0000, 0, 0x0000000002000186, 64, 4096, 0, 0, 0]
def stored : Binary :=
  { bytes := file [(1, descriptor), (2, pen), (3, nest), (4, subscription), (7, tensorEntry)], odd := none, sigBad := none, fbDeep := false, fbEth := none
    fbTaper := [], streams := [], buffers := [], seeds := [], places := [], cfg := { planOf { task with num := 0 } with routers := [] } }
def odd : Binary := { stored with bytes := file [(1, descriptor), (2, pen), (3, nest), (4, subscription), (0x13, [])] }
def onCore0 : Placement := { pens := [(0, [0])], gates := [(0, 0)] }
/-- What R305 says the loader installs. -/
theorem test_binary_task : (stored.config onCore0).tasks.map (fun t => [t.num, t.prio, t.weight, t.hsize, t.graph, t.codeBase, t.codeEnd, t.entry, t.window, t.slots,
      t.lstride, t.tagbase.toNat]) = [[0, 1, 3, 1, 0, 0, 6, 0, 8, 2, 0x800, 0x0100]] ∧
    (stored.config onCore0).tasks.map (fun t => t.levels) = [[{ lo := 0, step := 1, count := 4, blk := 0 }, { lo := 0, step := 1, count := 4, blk := 0 }]] := by
  decide +kernel
theorem test_binary_subscription : (stored.config onCore0).tasks.map (fun t => t.subs) =
    [[{ tensor := 0x12, pull := false, tagrule := 0, tagoff := 0, rate := 0, scales := false
        coords := [{ sel := 0, mul := 1, off := 0 }, { sel := 1, mul := 1, off := 0 }, { sel := 5, mul := 0, off := 0 }, { sel := 5, mul := 0, off := 0 }]
        widths := [6, 6, 0, 0], lbase := 0x10000, lsize := 2048, sbase := 0, back := false, live := false, ends := false }]] := by decide +kernel
/-! An OPEN of the binary that stands in the store under its own digest, whatever that is. -/

theorem leNat_cons (b : Byte) (l : List Byte) : leNat (b :: l) = b.toNat + 256 * leNat l := by rfl
theorem leNat_lt : ∀ l : List Byte, leNat l < 256 ^ l.length
  | [] => by simp [leNat]
  | b :: l => by
    have := leNat_lt l
    rw [leNat_cons, List.length_cons, Nat.pow_succ]; have := b.isLt; omega
/-- A byte of a number built from its bytes. -/
theorem byte_leNat : ∀ (l : List Byte) (k : Nat), leNat l / 256 ^ k % 256 = (l.getD k 0).toNat
  | [], k => by simp [leNat]
  | b :: l, 0 => by rw [leNat_cons]; have := b.isLt; simp; omega
  | b :: l, k + 1 => by
    rw [leNat_cons, Nat.pow_succ', ← Nat.div_div_eq_div_mul, show (b.toNat + 256 * leNat l) / 256 = leNat l by have := b.isLt; omega, byte_leNat l k]; simp
theorem leNat_bytes : ∀ (n x : Nat), leNat ((List.range n).map fun k => BitVec.ofNat 8 (x / 256 ^ k)) = x % 256 ^ n
  | 0, x => by simp [leNat, Nat.mod_one]
  | n + 1, x => by
    rw [List.range_succ_eq_map, List.map_cons, leNat_cons, List.map_map]
    have := leNat_bytes n (x / 256)
    simp only [Nat.div_div_eq_div_mul, ← Nat.pow_succ'] at this
    simp only [Function.comp_def, Nat.succ_eq_add_one] at this ⊢
    rw [this, Nat.pow_succ', Nat.mod_mul]
    simp
theorem digestPrefix_digestPrefix (x : BitVec 128) : digestPrefix (digestPrefix x) = x := by
  have e : ∀ (y : BitVec 128) (k : Nat), y.extractLsb' (8 * k) 8 = BitVec.ofNat 8 (y.toNat / 256 ^ k) := fun y k => by
    apply BitVec.eq_of_toNat_eq
    simp [Nat.shiftRight_eq_div_pow, Nat.pow_mul]
  have h : ∀ k < 16, (digestPrefix x).toNat / 256 ^ k % 256 = x.toNat / 256 ^ (15 - k) % 256 := by
    intro k hk
    have b := leNat_lt ((List.range 16).map fun k => x.extractLsb' (8 * (15 - k)) 8)
    simp only [List.length_map, List.length_range] at b
    rw [digestPrefix, BitVec.toNat_ofNat, Nat.mod_eq_of_lt (Nat.lt_of_lt_of_eq b (by rfl : 256 ^ 16 = 2 ^ 128)), byte_leNat]
    simp [List.getD_eq_getElem?_getD, hk, e]
  apply BitVec.eq_of_toNat_eq
  conv => lhs; rw [digestPrefix]
  have g : ((List.range 16).map fun k => (digestPrefix x).extractLsb' (8 * (15 - k)) 8) = (List.range 16).map fun k => BitVec.ofNat 8 (x.toNat / 256 ^ k) := by
    apply List.map_congr_left
    intro k hk
    have hk := List.mem_range.1 hk
    rw [e]
    apply BitVec.eq_of_toNat_eq
    simp only [BitVec.toNat_ofNat]
    have := h (15 - k) (by omega)
    rw [show 15 - (15 - k) = k by omega] at this
    simpa using this
  rw [g, leNat_bytes]
  have := x.isLt
  simp only [BitVec.toNat_ofNat]; omega

theorem bytes_put (l : List Byte) : ∀ (n a k : Nat), k + n = l.length → (Memory.put [] (cellsAt a l)).bytes (a + k) n = l.drop k
  | 0, a, k, h => by simp [Memory.bytes, ← h]
  | n + 1, a, k, h => by
    have hk : k < l.length := by omega
    rw [Memory.bytes, Nat.add_assoc, bytes_put l n a (k + 1) (by omega), Memory.get_put_cells l a (m := []) rfl (by omega), List.drop_eq_getElem_cons hk]
    simp
/-- OPEN of the binary whose digest begins so, into context 0 of partition 0, namespace 5. -/
def openFor (x : BitVec 128) : List Nat :=
  let p := (digestPrefix x).toNat
  [p % 2 ^ 32, p / 2 ^ 32 % 2 ^ 32, p / 2 ^ 64 % 2 ^ 32, p / 2 ^ 96, 0, 5, 0, 0, 0, 0, 0, 0, 0, 0, 0, 1]
theorem openArgs_openFor (x : BitVec 128) : openArgs (openFor x) = { pfx := digestPrefix x, ctx := 0, part := 0, ns := 5, tdi := 0 } := by
  have h := (digestPrefix x).isLt
  simp only [openArgs, openFor, el, List.getD_cons_zero, List.getD_cons_succ, OpenArgs.mk.injEq]
  refine ⟨?_, rfl, rfl, rfl, trivial⟩
  apply BitVec.eq_of_toNat_eq
  rw [BitVec.toNat_ofNat]; omega
theorem elements_openFor (x : BitVec 128) : elements ((openFor x).flatMap (leBytes 4)) = openFor x := by
  have h := (digestPrefix x).isLt
  simp [openFor, elements, List.range_succ_eq_map, leBytes, leNat]
  omega
theorem entryOk_openFor (x : BitVec 128) : entryOk (openFor x) false = true := by
  have h := (digestPrefix x).isLt
  have a : ∀ n < 2 ^ 32, n &&& 0xFFFFFFFF = n := fun n hn => by rw [show 0xFFFFFFFF = 2 ^ 32 - 1 from rfl, Nat.and_two_pow_sub_one_eq_mod, Nat.mod_eq_of_lt hn]
  have k : kindOf (openFor x) = 1 := rfl
  unfold entryOk
  simp only [k]
  simp [List.range_succ_eq_map, entryMask, el, openFor]
  refine ⟨?_, ?_, ?_, ?_⟩ <;> exact a _ (by omega)
theorem test_binary_malformed : stored.malformed = none ∧ odd.malformed = some 4 := by decide +kernel
/-- A port with an OPEN of a digest at its head, the binary in the store under it. -/
def opening (k : Ctx) (b : Binary) (x : BitVec 128) : State := { port k (openFor x) 1 id with store := [(digestPrefix x, b)] }
def digestOf (b : Binary) : BitVec 128 := (Sys2Proof.Config.sha384 b.bytes).extractLsb' 256 128
theorem ing_opening (k : Ctx) (b : Binary) (x : BitVec 128) : (opening k b x).ing = (port Ctx.reset [] 1 id).ing := rfl
theorem smem_opening (k : Ctx) (b : Binary) (x : BitVec 128) : (opening k b x).smem = Memory.put [] (cellsAt 0 ((openFor x).flatMap (leBytes 4))) := by
  simp only [opening, port]
theorem up_opening (k : Ctx) (b : Binary) (x : BitVec 128) : (opening k b x).bringUp = .up := rfl
theorem ctxs_opening (k : Ctx) (b : Binary) (x : BitVec 128) : (opening k b x).ctxs = State.reset.ctxs.set 0 k := rfl
theorem parts_opening (k : Ctx) (b : Binary) (x : BitVec 128) : (opening k b x).parts = [(0, { owner with frames := [7, 8, 9, 10, 11, 12, 13, 14, 15] })] := rfl
theorem head_port : (port Ctx.reset [] 1 id).ing[(0 : Fin 16)].stopped = false ∧ (port Ctx.reset [] 1 id).ing[(0 : Fin 16)].unread = 1 ∧
      (port Ctx.reset [] 1 id).ing[(0 : Fin 16)].entryAt 0 = 0 + 0 ∧ (port Ctx.reset [] 1 id).ing[(0 : Fin 16)].skipping = false ∧
      (port Ctx.reset [] 1 id).ing[(0 : Fin 16)].stream.isSome = false := by decide
theorem entry_opening (k : Ctx) (b : Binary) (x : BitVec 128) : (opening k b x).entry 0 = some (openFor x) := by
  unfold State.entry State.entryBytes
  rw [ing_opening, smem_opening, up_opening]
  dsimp only
  rw [head_port.1, head_port.2.1, head_port.2.2.1, bytes_put _ 64 0 0 rfl, List.drop_zero, elements_openFor]
  exact if_neg (by decide)
theorem entryOf_opening (k : Ctx) (b : Binary) (x : BitVec 128) : (opening k b x).entryOf 0 1 = some (openFor x) := by
  unfold State.entryOf
  rw [entry_opening, ing_opening]
  simp only [head_port, entryOk_openFor]
  exact if_pos ⟨rfl, by decide⟩
theorem match_opening (b : Binary) (x : BitVec 128) (a : OpenArgs) (c : Fin 8) : (opening Ctx.reset b x).ctxs[c].matches_ a = false := by
  have h : ∀ c : Fin 8, (State.reset.ctxs.set 0 Ctx.reset)[c].state = .empty := by decide
  rw [ctxs_opening]
  unfold Ctx.matches_
  rw [h]
  rfl
theorem waits_opening (b : Binary) (x : BitVec 128) : (opening Ctx.reset b x).loaderWaits (openArgs (openFor x)) = false := by
  have h : ∀ c : Fin 8, (State.reset.ctxs.set 0 Ctx.reset)[c].state = .empty := by decide
  have q : (opening Ctx.reset b x).part (openArgs (openFor x)).part = some { owner with frames := [7, 8, 9, 10, 11, 12, 13, 14, 15] } := by
    simp only [openArgs_openFor, State.part, parts_opening]
    rfl
  unfold State.loaderWaits
  rw [ctxs_opening, q]
  simp only [h]
  rw [show owner.swapped = false from rfl, show owner.writes = [] from rfl]
  simp
theorem replaces_opening (b : Binary) (x : BitVec 128) (a : OpenArgs) : (opening Ctx.reset b x).replaces a = false := by
  have h : ∀ c : Fin 8, (State.reset.ctxs.set 0 Ctx.reset)[c].state = .empty := by decide
  unfold State.replaces
  rw [ctxs_opening]
  dsimp only
  rw [h]
  rfl
/-- What every clause of the loader asks. -/
theorem loads_opening (b : Binary) (x : BitVec 128) : (opening Ctx.reset b x).clocked = true ∧ (opening Ctx.reset b x).entryOf 0 1 = some (openFor x) ∧
    (opening Ctx.reset b x).ing[(0 : Fin 16)].skipping = false ∧ (opening Ctx.reset b x).ing[(0 : Fin 16)].report = none ∧
    (opening Ctx.reset b x).ctxs[(openArgs (openFor x)).ctx].matches_ (openArgs (openFor x)) = false ∧
    (opening Ctx.reset b x).loaderWaits (openArgs (openFor x)) = false ∧ (opening Ctx.reset b x).replaces (openArgs (openFor x)) = false ∧
    ((opening Ctx.reset b x).store.find? fun y => y.1 = (openArgs (openFor x)).pfx) = some (digestPrefix x, b) :=
  ⟨rfl, entryOf_opening .., rfl, rfl, match_opening .., waits_opening .., replaces_opening .., by simp [opening, openArgs_openFor]⟩
theorem met_digest : (∃ x, digestOf stored ≠ digestPrefix (openArgs (openFor x)).pfx) ∧ (digestOf odd = digestPrefix (openArgs (openFor (digestOf odd))).pfx) ∧
    digestOf stored = digestPrefix (openArgs (openFor (digestOf stored))).pfx := by
  simp only [openArgs_openFor, digestPrefix_digestPrefix, and_true]
  exact ⟨digestOf stored + 1, by simp⟩
/-- A context whose graph runs, of no configuration: an OPEN neither finds nor replaces it. -/
def busy : Ctx := { Ctx.reset with state := .running, runnable := [0] }
theorem busy_at (c : Fin 8) (h : c = 0) : (State.reset.ctxs.set 0 busy)[c] = busy := by subst h; rfl
theorem busy_still : ∀ k : Fin 8, ((State.reset.ctxs.set 0 busy)[k].state == .saving) = false ∧ ((State.reset.ctxs.set 0 busy)[k].state == .restoring) = false ∧
    ((State.reset.ctxs.set 0 busy)[k].state == .loading) = false := by decide
theorem busy_opening (x : BitVec 128) : (opening busy stored x).ctxs[(openArgs (openFor x)).ctx].state ≠ .empty ∧
    (opening busy stored x).ctxs[(openArgs (openFor x)).ctx].matches_ (openArgs (openFor x)) = false ∧
    (opening busy stored x).loaderWaits (openArgs (openFor x)) = false ∧ (opening busy stored x).replaces (openArgs (openFor x)) = false ∧
    (opening busy stored x).entryOf 0 1 = some (openFor x) ∧
    ((opening busy stored x).store.find? fun y => y.1 = (openArgs (openFor x)).pfx) = some (digestPrefix x, stored) := by
  have c : (openArgs (openFor x)).ctx = 0 := by rw [openArgs_openFor]
  have e := busy_at _ c
  have r : ∀ f, busy.resident.any f = false := fun _ => rfl
  have q : (opening busy stored x).part (openArgs (openFor x)).part = some { owner with frames := [7, 8, 9, 10, 11, 12, 13, 14, 15] } := by
    simp only [openArgs_openFor, State.part, parts_opening]
    rfl
  refine ⟨?_, ?_, ?_, ?_, entryOf_opening .., by simp [opening, openArgs_openFor]⟩
  · rw [ctxs_opening, e]; decide
  · rw [ctxs_opening, e]; unfold Ctx.matches_; rw [r]; simp
  · unfold State.loaderWaits
    rw [ctxs_opening, q]
    simp only [busy_still]
    rw [show owner.swapped = false from rfl, show owner.writes = [] from rfl]
    simp
  · unfold State.replaces State.stopped
    rw [ctxs_opening, e, show (busy.runnable.all fun g => busy.doneG.contains g) = false from rfl]
    dsimp only
    rw [show (busy.state == .faulted) = false from rfl]
    simp
theorem met_refuse : stored.recordsBad = false ∧ stored.malformed = none ∧ odd.malformed = some 4 := ⟨by decide +kernel, test_binary_malformed⟩
def ready : State := opening Ctx.reset stored (digestOf stored)
def ns5 : OpenArgs := openArgs (openFor (digestOf stored))
def readyPart : Part := { owner with frames := [7, 8, 9, 10, 11, 12, 13, 14, 15] }
theorem placed_ready : (ready.placed readyPart stored ns5.pfx ns5.ns).isSome = true := by decide +kernel
def planned : Config × Placement × Bool := (ready.placed readyPart stored ns5.pfx ns5.ns).get placed_ready
def kept : State := ready.keepPlacement (ready.mapKey readyPart ns5.pfx (stored.config Placement.none_)) planned.2.1
theorem image_ready : kept.imageAt readyPart ns5.tdi planned.1 = some [7] := by decide +kernel
def tables : Option (Option State) := kept.buildTables ns5.part readyPart ns5.ns planned.1 [7]
theorem tables_ready : (tables.bind id).isSome = true := by decide +kernel
def built : State := (tables.bind id).get tables_ready
/-- A configuration's every test passes, where no context of its partition runs. -/
theorem met_load : ready.ctxs[ns5.ctx].state = .empty ∧ ready.tdiOk ns5.tdi = true ∧ ready.unitLacks stored (stored.config Placement.none_) = false ∧
    stored.sigBad = none ∧ ready.part ns5.part = some readyPart ∧ stored.needs ≤ ready.coresOf readyPart ∧ ready.slicesOf readyPart ≠ 0 ∧
    ready.placed readyPart stored ns5.pfx ns5.ns = some planned ∧ stored.placedBad readyPart planned.2.1 planned.1 = false ∧
    kept.overCapacity readyPart planned.1 = false ∧ planned.1.backBad = false ∧ planned.1.rateReject = false ∧ planned.1.unseeded = false ∧
    (∃ u, tables = some (some u) ∧ (u.part ns5.part).isSome = true) ∧ built.ctxIn ns5.part .running = none := by
  have h : tables = some (some built) := by
    have := Option.some_get tables_ready
    unfold built
    revert this
    generalize Option.get _ tables_ready = u
    intro this
    cases e : tables with
    | none => rw [e] at this; cases this
    | some y => rw [e] at this; exact congrArg some this.symm
  refine ⟨by decide +kernel, by decide +kernel, by decide +kernel, rfl, ?_, by decide +kernel, by decide +kernel, (Option.some_get _).symm, by decide +kernel,
    by decide +kernel, by decide +kernel, by decide +kernel, by decide +kernel, ⟨built, h, by decide +kernel⟩, by decide +kernel⟩
  have c : ns5.part = 0 := by unfold ns5; rw [openArgs_openFor]
  rw [c]; rfl
/-- The same where another context of the partition runs. -/
theorem met_park : ∃ u : State, u.ctxIn 0 .running ≠ none := ⟨port (ctx .running) openEntry 1 id, by decide⟩
theorem met_stream : (∃ s : State, s.clocked = true ∧ s.entryOf 0 2 = some argEntry ∧ s.ing[(0 : Fin 16)].skipping = false ∧ s.ing[(0 : Fin 16)].stream = some 0 ∧
      s.ctxs[(0 : Fin 8)].state ≠ .saving) ∧
    (∃ s : State, s.entryOf 0 3 = some injectEntry ∧ s.ing[(0 : Fin 16)].stream = some 0 ∧ s.ing[(0 : Fin 16)].holding = false ∧
      s.ctxs[(0 : Fin 8)].state = .running ∧ 1 + injectEntries injectEntry ≤ s.ing[(0 : Fin 16)].unread ∧
      (s.injected s.ing[(0 : Fin 16)] injectEntry).back = false) ∧
    (∃ s : State, s.entryOf 0 4 = some goEntry ∧ s.ing[(0 : Fin 16)].stream = some 0 ∧ s.ing[(0 : Fin 16)].holding = true ∧
      s.ctxs[(0 : Fin 8)].state = .running ∧ s.ctxs[(0 : Fin 8)].cfg = some (planOf single) ∧
      ∀ b ∈ (planOf single).bindings (((planOf single).graphsOf (el goEntry 0)).map (·.val)), s.ctxs[(0 : Fin 8)].badArg b = none) ∧
    (∃ s : State, s.ing[(0 : Fin 16)].skipping = false ∧ s.ing[(0 : Fin 16)].stream = some 0 ∧ s.ing[(0 : Fin 16)].holding = false ∧
      s.ctxs[(0 : Fin 8)].state = .loading ∧ s.entryOf 0 4 = some goEntry) ∧
    (∃ s : State, s.ing[(0 : Fin 16)].stream = some 0 ∧ s.ctxs[(0 : Fin 8)].state = .saving ∧ s.entryOf 0 3 = some injectEntry ∧
      1 + injectEntries injectEntry ≤ s.ing[(0 : Fin 16)].unread) ∧
    (∃ s : State, s.entryOf 0 4 = some goEntry ∧ s.ing[(0 : Fin 16)].stream = some 0 ∧ s.ing[(0 : Fin 16)].holding = false ∧
      s.ctxs[(0 : Fin 8)].state = .faulted) ∧
    (∃ s : State, s.clocked = true ∧ s.entryOf 0 5 = some closeEntry ∧ s.leaving 0 = false) ∧
    ∃ (s : State) (e : List Nat), s.entry 0 = some e ∧ s.ing[(0 : Fin 16)].skipping = false ∧ entryOk e s.ing[(0 : Fin 16)].stream.isSome = false ∧
      s.leaving 0 = false :=
  ⟨⟨port (ctx .running) argEntry 1 fun g => { g with stream := some 0 }, by decide, by decide, by decide, by decide, by decide⟩,
    ⟨port (ctx .running) injectEntry 2 fun g => { g with stream := some 0 }, by decide, by decide, by decide, by decide, by decide, by decide⟩,
    ⟨port (ctx .running) goEntry 1 fun g => { g with stream := some 0, holding := true }, by decide, by decide, by decide, by decide, rfl, by decide⟩,
    ⟨port (ctx .loading) goEntry 1 fun g => { g with stream := some 0 }, by decide⟩,
    ⟨port (ctx .saving) injectEntry 2 fun g => { g with stream := some 0 }, by decide⟩,
    ⟨port (ctx .faulted) goEntry 1 fun g => { g with stream := some 0 }, by decide⟩,
    ⟨port (ctx .running) closeEntry 1 fun g => { g with stream := some 0 }, by decide, by decide, by decide⟩,
    ⟨port (ctx .running) goEntry 1 id, goEntry, by decide⟩⟩
/-- The greatest TAIL a ring takes and the least it does not; a ring at rest and one in use; a switch whose T may be written. -/
theorem met_window : (∃ (s : State) (x : BitVec 32), (x - s.ing[(0 : Fin 16)].head).toNat ≤ s.ing[(0 : Fin 16)].size) ∧
    (∃ (s : State) (x : BitVec 32), s.ing[(0 : Fin 16)].size < (x - s.ing[(0 : Fin 16)].head).toNat) ∧
    (∃ (x : BitVec 32) (v : BitVec 64), v.setWidth 32 = x) ∧ (∃ s : State, s.clocked = true ∧ s.ing[(0 : Fin 16)].head = s.ing[(0 : Fin 16)].tail) ∧
    (∃ s : State, s.ing[(0 : Fin 16)].head ≠ s.ing[(0 : Fin 16)].tail) ∧ (∃ s : State, s.clocked = true ∧ s.preempt[(0 : Fin 16)].open_ = true) ∧
    ∃ o : BitVec 16, o.toNat = 0xFF ∧ (o.toNat < 0x100 ∨ 0x110 ≤ o.toNat ∧ o.toNat < 0x1000 ∨ 0x2100 ≤ o.toNat) :=
  ⟨⟨up, 64, by decide⟩, ⟨up, 65, by decide⟩, ⟨7, 7, by decide⟩, ⟨up, by decide⟩, ⟨port (ctx .running) goEntry 1 id, by decide⟩, ⟨up, by decide⟩, ⟨0xFF, by decide⟩⟩
/-- Offsets of the register window that lie between its registers. -/
theorem met_read : ∃ o : BitVec 16, o.toNat = 0xFFF ∧ (o.toNat % 8 ≠ 0 ∨ 0 < o.toNat ∧ o.toNat < 0x100 ∨ 0x110 ≤ o.toNat ∧ o.toNat < 0x1000) := ⟨0xFFF, by decide⟩

/-! ### Tenants and debug sessions -/

/-- Interface 0 in a state, its region at frame 1 with its key or not, and context 0 bound to it, snapshotted so; core 0 in partition 0. -/
def frame1 : RegionEntry := { base := 1, len := 1, itf := 0, slot := 3 }
def tenant (st : TdiState) (consent : Fin 3) (keyed : Bool) : State :=
  { mem base [] with
    tdis := State.reset.tdis.set 0 { State.reset.tdis[(0 : Fin 16)] with state := st, consent }, regions := [frame1]
    keyTable := if keyed then [(3, 7)] else [], snapshots := [{ itf := 0, regions := [frame1], ctxs := [0] }]
    ctxs := State.reset.ctxs.set 0 { ctx .running with tdi := 1 } }
theorem met_lock : (∃ s : State, s.tdis[(0 : Fin 16)].state = .unlocked ∧ s.debugAny ≤ 2) ∧ (∃ s : State, s.tdis[(0 : Fin 16)].state ≠ .unlocked) ∧
    (∃ s : State, (1 : Fin 3) < s.debugAny) ∧
    (∃ (s : State) (r : RegionEntry), s.regions[0]? = some r ∧ s.tdis[(0 : Fin 16)].state = .locked ∧ r.itf = 0) ∧
    (∃ (s : State) (r : RegionEntry), s.regions[0]? = some r ∧ r.itf ≠ 1) ∧
    (∃ s : State, s.tdis[(0 : Fin 16)].state = .locked ∧ ∀ r ∈ s.regions, r.itf = 0 → s.keyOf r ≠ none) ∧
    ∃ s : State, ∃ r ∈ s.regions, r.itf = 0 ∧ s.keyOf r = none :=
  ⟨⟨tenant .unlocked 0 false, by decide⟩, ⟨tenant .run 0 true, by decide⟩, ⟨{ tenant .unlocked 0 false with cores := [(0, { base with halted := true })] }, by decide⟩,
    ⟨tenant .locked 0 false, _, rfl, by decide, rfl⟩, ⟨tenant .locked 0 false, _, rfl, by decide⟩, ⟨tenant .locked 0 true, by decide, by decide⟩,
    ⟨tenant .locked 0 false, by decide⟩⟩
theorem met_stop : (∃ s : State, s.tdis[(0 : Fin 16)].state ≠ .unlocked ∧ (∀ k ∈ s.boundTo 0, s.ctxs[k].state ≠ .saving ∧ s.ctxs[k].state ≠ .restoring) ∧
      (0 : Fin 8) ∈ s.boundTo 0 ∧ s.tdis[(0 : Fin 16)].state ≠ .error) ∧
    (∃ s : State, s.tdis[(0 : Fin 16)].bound = true ∧ (∃ k ∈ s.boundTo 0, s.ctxs[k].state = .saving ∨ s.ctxs[k].state = .restoring) ∧ (0 : Fin 16) ∉ s.stops) ∧
    (∃ (s : State) (e : Option RegionEntry), ∀ i : Fin 16, s.tdis[i].bound = true → (s.setRegion 0 e).snapshotBroken i = false) ∧
    (∃ (s : State) (e : Option RegionEntry), s.tdis[(0 : Fin 16)].bound = true ∧ (s.setRegion 0 e).snapshotBroken 0 = true) ∧
    ∃ s : State, s.tdis[(0 : Fin 16)].bound = true :=
  ⟨⟨tenant .run 0 true, by decide, by decide, by decide, by decide⟩,
    ⟨{ tenant .run 0 true with ctxs := State.reset.ctxs.set 0 { ctx .saving with tdi := 1 } }, by decide, by decide, by decide⟩,
    ⟨tenant .run 0 true, some frame1, by decide⟩, ⟨tenant .run 0 true, some { frame1 with len := 2 }, by decide, by decide⟩, ⟨tenant .locked 0 true, by decide⟩⟩
theorem met_debug : (∃ s : State, s.core 0 = some base ∧ s.itfAt 0 = none ∧ (∀ i : Fin 16, s.tdis[i].bound = true → s.debugOf i ≤ s.tdis[i].consent) ∧
      s.power = .s1) ∧
    (∃ s : State, s.itfAt 0 = some 0 ∧ s.power = .p0 ∧ s.tdis[(0 : Fin 16)].bound = true ∧
      (∀ j : Fin 16, j ≠ 0 → s.tdis[j].bound = true → s.debugOf j ≤ s.tdis[j].consent) ∧ s.tdis[(0 : Fin 16)].consent < 1) ∧
    (∃ s : State, s.itfAt 0 = some 0 ∧ s.power = .p0 ∧ s.tdis[(0 : Fin 16)].bound = true ∧
      (∀ j : Fin 16, j ≠ 0 → s.tdis[j].bound = true → s.debugOf j ≤ s.tdis[j].consent) ∧
      ¬s.tdis[(0 : Fin 16)].consent < 1 ∧ s.tdis[(0 : Fin 16)].consent < 2) ∧
    (∃ s : State, s.power = .s3) ∧
    ∃ (s : State) (c : Core), s.core 0 = some c ∧ c.halted = true ∧ c.firing = none ∧ s.savingAt 0 = false ∧ c.failed = false :=
  ⟨⟨{ module base with power := .s1 }, rfl, rfl, by decide, rfl⟩, ⟨tenant .run 0 true, by decide, rfl, by decide, by decide, by decide⟩,
    ⟨tenant .locked 1 true, by decide, rfl, by decide, by decide, by decide, by decide⟩,
    ⟨{ up with power := .s3 }, rfl⟩, ⟨module { base with halted := true }, _, rfl, rfl, rfl, by decide, rfl⟩⟩

end Sys2Proof.Tests
end

section
/-! The rules of single scalar instructions: `div` and `rem` (11 R314), `clz`, `ctz`, `popc` and `bswap` (11 R316). -/

namespace Sys2Proof

/-! ## The word of a slot read back by its fields (10 Table 10-3) -/

section Fields
variable {p : Pred} {op w : Nat} (hop : op < 2 ^ 7) (hw : w < 2 ^ 20)

include hw in
theorem fieldsWord_operand : Machine.fieldsWord false p op w % 1048576 = w := by
  simp only [Machine.fieldsWord, boolBit]; omega

include hop hw in
theorem fieldsWord_opcode : Machine.fieldsWord false p op w / 1048576 % 128 = op := by
  have := boolBit_le p.sense
  simp only [Machine.fieldsWord, show boolBit false = 0 from rfl]; omega

include hop hw in
theorem predOf_fieldsWord : predOf (Machine.fieldsWord false p op w) = p := by
  obtain ⟨r, b⟩ := p
  have hr := r.isLt
  have hb := boolBit_le b
  refine (Pred.mk.injEq ..).mpr ⟨Fin.ext ?_, bit_eq ?_⟩ <;>
    simp only [Machine.fieldsWord, show boolBit false = 0 from rfl] <;> omega

include hop hw in
/-- A word decodes to the instruction that its class's map gives its fields, where the position has the opcode. -/
theorem decodeSlot_fieldsWord_ok {pos : Fin 8} {i : Instr} (hp : p.wf = true) (hs : slotHas pos op = true) (hi : i.wf = true)
    (hd : decodeClass (slotClass pos) op w none p = .ok i) : decodeSlot pos (Machine.fieldsWord false p op w) none = .ok i := by
  simp [decodeSlot, fieldsWord_opcode hop hw, fieldsWord_operand hw, predOf_fieldsWord hop hw, hp, hs, hd, hi]

include hop hw in
/-- Fields that the class's map rejects are the word's fault. -/
theorem decodeSlot_fieldsWord_error {pos : Fin 8} {e : DecodeError} (hp : p.wf = true) (hs : slotHas pos op = true)
    (hd : decodeClass (slotClass pos) op w none p = .error e) : decodeSlot pos (Machine.fieldsWord false p op w) none = .error e := by
  simp [decodeSlot, fieldsWord_opcode hop hw, fieldsWord_operand hw, predOf_fieldsWord hop hw, hp, hs, hd]

include hop hw in
theorem decodeSlot_fieldsWord_unassigned {pos : Fin 8} (hs : slotHas pos op = false) :
    decodeSlot pos (Machine.fieldsWord false p op w) none = .error .unassigned := by
  simp [decodeSlot, fieldsWord_opcode hop hw, hs]

end Fields

theorem slotClass_scalar {pos : Fin 8} (h : pos.val < 2) : slotClass pos = .scalar := if_pos (by omega)

/-- Both scalar slots have every opcode above that of `rem` (10 Table 10-10). -/
theorem slotHas_scalar {pos : Fin 8} {op : Nat} (h : pos.val < 2) (hop : 0x11 < op) : slotHas pos op = true := by
  have h2 : pos ≠ 2 := by rintro rfl; exact absurd h (by decide)
  have h16 : op ≠ 0x10 := by omega
  have h17 : op ≠ 0x11 := by omega
  simp [slotHas, h2, h16, h17]

/-- The bits below TA of a form of one source are reserved. -/
theorem Form.R2.ofWord_reserved (f : Form.R2) {k : Nat} (h0 : 0 < k) (hk : k < 2 ^ 9) : Form.R2.ofWord (f.word + k) = none := by
  unfold Form.R2.ofWord Form.R2.word
  exact if_neg (by omega)

theorem Form.R2.word_add_lt (f : Form.R2) {k : Nat} (hk : k < 2 ^ 9) : f.word + k < 2 ^ 20 := by
  obtain ⟨d, a, ta⟩ := f
  have := d.isLt; have := a.isLt; have := boolBit_le ta
  unfold Form.R2.word; dsimp only; omega

end Sys2Proof

namespace Sys2Proof.Machine

/-! ## Scalar forms complete (11 R310) -/

theorem completes_alu2 {i : Instr} {p : Pred} {lat : Nat} {g : Word → Word → Word} {d a b : Fin 32} {ta tb : Bool}
    (he : ∀ s, exec i s = slot false p (alu2 lat g d a ta b tb) s) :
    Completes i (scalarRow p d [(.s a, ta), (.s b, tb)] lat fun r => g (r.gets a) (r.gets b)) :=
  completes_of he fun _ _ _ _ => ⟨rfl, rfl, rfl, rfl, rfl, rfl⟩

theorem completes_alu1 {i : Instr} {p : Pred} {lat : Nat} {g : Word → Word} {d a : Fin 32} {ta : Bool}
    (he : ∀ s, exec i s = slot false p (alu1 lat g d a ta) s) :
    Completes i (scalarRow p d [(.s a, ta)] lat fun r => g (r.gets a)) :=
  completes_of he fun _ _ _ _ => ⟨rfl, rfl, rfl, rfl, rfl, rfl⟩

/-! ## Quotient and remainder (11 R314, Table 11-3) -/

@[simp] theorem divWord_by_zero (u : Bool) (a : Word) : divWord u a 0 = 0xFFFFFFFFFFFFFFFF := rfl

@[simp] theorem remWord_by_zero (u : Bool) (a : Word) : remWord u a 0 = a := rfl

/-- The unsigned quotient is the bit vectors' own. -/
theorem divWord_unsigned {a b : Word} (hb : b ≠ 0) : divWord true a b = a / b := by
  rw [divWord, if_neg hb, if_pos rfl, BitVec.udiv_def]

theorem remWord_unsigned {a b : Word} (hb : b ≠ 0) : remWord true a b = a % b := by
  rw [remWord, if_neg hb, if_pos rfl, BitVec.umod_def]

/-- The signed quotient is the bit vectors' own, which wraps. -/
theorem divWord_signed {a b : Word} (hb : b ≠ 0) : divWord false a b = a.sdiv b := by
  apply BitVec.eq_of_toInt_eq
  rw [divWord, if_neg hb, if_neg Bool.false_ne_true, BitVec.toInt_ofInt, BitVec.toInt_sdiv]

theorem remWord_signed {a b : Word} (hb : b ≠ 0) : remWord false a b = a.srem b := by
  rw [remWord, if_neg hb, if_neg Bool.false_ne_true, ← BitVec.toInt_srem, BitVec.ofInt_toInt]

/-- A number is its unsigned quotient times the divisor, and a remainder below the divisor. -/
theorem divWord_remWord_unsigned {a b : Word} (hb : b ≠ 0) :
    a.toNat = (divWord true a b).toNat * b.toNat + (remWord true a b).toNat ∧ (remWord true a b).toNat < b.toNat := by
  have hpos : 0 < b.toNat := Nat.pos_of_ne_zero fun h => hb (BitVec.eq_of_toNat_eq h)
  rw [divWord_unsigned hb, remWord_unsigned hb, BitVec.toNat_udiv, BitVec.toNat_umod]
  exact ⟨(Nat.div_add_mod' ..).symm, Nat.mod_lt _ hpos⟩

/-- But for the one overflow, the signed quotient is the exact one truncated toward zero. -/
theorem toInt_divWord_signed {a b : Word} (hb : b ≠ 0) (ho : ¬ (a = 0x8000000000000000 ∧ b = -1)) :
    (divWord false a b).toInt = a.toInt.tdiv b.toInt := by
  rw [divWord_signed hb]
  exact BitVec.toInt_sdiv_of_ne_or_ne a b (Decidable.not_and_iff_or_not.mp ho)

theorem toInt_remWord_signed {a b : Word} (hb : b ≠ 0) : (remWord false a b).toInt = a.toInt.tmod b.toInt := by
  rw [remWord_signed hb, BitVec.toInt_srem]

/-- The signed remainder is what the quotient leaves, takes the sign of A, and is smaller than B in magnitude. -/
theorem toInt_remWord_of_divWord {a b : Word} (hb : b ≠ 0) (ho : ¬ (a = 0x8000000000000000 ∧ b = -1)) :
    (remWord false a b).toInt = a.toInt - (divWord false a b).toInt * b.toInt := by
  rw [toInt_remWord_signed hb, toInt_divWord_signed hb ho, Int.tmod_def, Int.mul_comm]

theorem remWord_signed_nonneg {a b : Word} (hb : b ≠ 0) (ha : 0 ≤ a.toInt) : 0 ≤ (remWord false a b).toInt := by
  rw [toInt_remWord_signed hb]
  exact Int.tmod_nonneg _ ha

theorem remWord_signed_nonpos {a b : Word} (hb : b ≠ 0) (ha : a.toInt ≤ 0) : (remWord false a b).toInt ≤ 0 := by
  have h := Int.tmod_nonneg b.toInt (Int.neg_nonneg_of_nonpos ha)
  rw [Int.neg_tmod] at h
  rw [toInt_remWord_signed hb]
  exact Int.nonpos_of_neg_nonneg h

theorem natAbs_remWord_signed_lt {a b : Word} (hb : b ≠ 0) : (remWord false a b).toInt.natAbs < b.toInt.natAbs := by
  rw [toInt_remWord_signed hb, Int.natAbs_tmod]
  exact Nat.mod_lt _ (Int.natAbs_pos.mpr fun h => hb (BitVec.eq_of_toInt_eq h))

/-- The operand word of `div` and `rem` with SUB written out: TY 3 or TY 7 (11 Table 11-1). -/
theorem r3u_word_sub (f : Form.R3U) : f.word = f.d.val * 2 ^ 15 + f.a.val * 2 ^ 10 + boolBit f.ta * 2 ^ 9 + f.b.val * 2 ^ 4 +
    boolBit f.tb * 2 ^ 3 + (if f.uns then 7 else 3) := by
  unfold Form.R3U.word
  cases f.uns with
  | false => simp [boolBit]
  | true => simp [boolBit, Nat.add_assoc]

/-- `div` and `rem` stand in SA (10 Table 10-10). -/
theorem decodeSlot_div_rem {p : Pred} (hp : p.wf = true) (f : Form.R3U) :
    decodeSlot 0 (fieldsWord false p 0x10 f.word) none = .ok (.div p f) ∧
    decodeSlot 0 (fieldsWord false p 0x11 f.word) none = .ok (.rem p f) := by
  have hc : ∀ c, noExt none ((Form.R3U.ofWord f.word).map c) = .ok (c f) := fun c => by rw [f.ofWord_word]; rfl
  exact ⟨decodeSlot_fieldsWord_ok (by decide) f.word_lt hp rfl hp (hc _), decodeSlot_fieldsWord_ok (by decide) f.word_lt hp rfl hp (hc _)⟩

/-- Settles O44: forms and words by the laws of slots and words, values by the division of bit vectors. -/
theorem divisionRule : Obligations.DivisionRule := by
  unfold Obligations.DivisionRule
  refine ⟨fun p f => ⟨?div, ?rem, ⟨rfl, rfl⟩, fun hp => ?words⟩, r3u_word_sub, fun u a => ⟨divWord_by_zero u a, remWord_by_zero u a⟩,
    ?overflow, fun a b hb => divWord_remWord_unsigned hb, fun a b hb ho => ?signed, ?examples⟩
  case div => exact completes_alu2 fun _ => rfl
  case rem => exact completes_alu2 fun _ => rfl
  case words =>
    exact ⟨(decodeSlot_div_rem hp f).1, (decodeSlot_div_rem hp f).2, decodeSlot_fieldsWord_unassigned (by decide) f.word_lt rfl,
      decodeSlot_fieldsWord_unassigned (by decide) f.word_lt rfl⟩
  case signed =>
    exact ⟨toInt_divWord_signed hb ho, toInt_remWord_of_divWord hb ho, remWord_signed_nonneg hb, remWord_signed_nonpos hb,
      natAbs_remWord_signed_lt hb⟩
  case overflow => decide
  case examples => decide

/-! ## Counts of bits and the order of bytes (11 R316) -/

/-- The leading zeros of a number between two powers of two. -/
theorem clzWord_of_between {a : Word} {n : Nat} (hn : n < 64) (lo : 2 ^ (63 - n) ≤ a.toNat) (hi : a.toNat < 2 ^ (64 - n)) :
    clzWord a = BitVec.ofNat 64 n := by
  have hpos : a.toNat ≠ 0 := Nat.ne_of_gt (Nat.lt_of_lt_of_le (Nat.two_pow_pos _) lo)
  have ha : a ≠ 0 := fun h => hpos (by rw [h]; rfl)
  have hlog : a.toNat.log2 = 63 - n := (Nat.log2_eq_iff hpos).mpr ⟨lo, by rwa [show 63 - n + 1 = 64 - n by omega]⟩
  rw [clzWord, if_neg ha, hlog, show 63 - (63 - n) = n by omega]

/-- The count stops at the first one bit at or above `k` among the next `m`. -/
theorem ctzGo_of_first {x n : Nat} (h1 : x.testBit n = true) :
    ∀ {m k : Nat}, k ≤ n → n < k + m → (∀ j, k ≤ j → j < n → x.testBit j = false) → ctzGo x m k = n
  | 0, k, hk, hm, _ => by omega
  | m + 1, k, hk, hm, h0 => by
    have hbit : x.testBit k = decide (x / 2 ^ k % 2 = 1) := Nat.testBit_eq_decide_div_mod_eq
    rcases Nat.eq_or_lt_of_le hk with rfl | hlt
    · rw [ctzGo, if_pos (of_decide_eq_true (hbit ▸ h1))]
    · rw [ctzGo, if_neg (of_decide_eq_false (hbit ▸ h0 k (Nat.le_refl k) hlt))]
      exact ctzGo_of_first h1 hlt (by omega) fun j hj => h0 j (by omega)

/-- The trailing zeros of a number whose lowest one bit is `n`. -/
theorem ctzWord_of_lowest {a : Word} {n : Nat} (hn : n < 64) (h0 : a.toNat % 2 ^ n = 0) (h1 : a.getLsbD n = true) :
    ctzWord a = BitVec.ofNat 64 n := by
  have hlow : ∀ j, 0 ≤ j → j < n → a.toNat.testBit j = false := fun j _ hj => by
    have h := Nat.testBit_mod_two_pow a.toNat n j
    rw [h0, Nat.zero_testBit, decide_eq_true hj, Bool.true_and] at h
    exact h.symm
  rw [ctzWord, ctzGo_of_first ((BitVec.testBit_toNat a).trans h1) (Nat.zero_le n) (by omega) hlow]

theorem popGo_eq_length (x : Nat) : ∀ n, popGo x n = ((List.range n).filter x.testBit).length
  | 0 => rfl
  | n + 1 => by
    have hbit : x.testBit n = decide (x / 2 ^ n % 2 = 1) := Nat.testBit_eq_decide_div_mod_eq
    have hlast : ([n].filter x.testBit).length = x / 2 ^ n % 2 := by
      rw [List.filter_cons, List.filter_nil, hbit]
      rcases Nat.mod_two_eq_zero_or_one (x / 2 ^ n) with h | h <;> simp [h]
    rw [popGo, popGo_eq_length x n, List.range_succ, List.filter_append, List.length_append, hlast, Nat.add_comm]

theorem toNat_popcWord (a : Word) : (popcWord a).toNat = ((List.range 64).filter fun i => a.getLsbD i).length := by
  have hle := List.length_filter_le a.toNat.testBit (List.range 64)
  rw [List.length_range] at hle
  rw [popcWord, BitVec.toNat_ofNat, popGo_eq_length, Nat.mod_eq_of_lt (by omega)]
  rfl

/-- The bytes of a number, by place. -/
theorem leBytes_getElem? : ∀ {n k : Nat} (x : Nat), k < n → (leBytes n x)[k]? = some (BitVec.ofNat 8 (x / 256 ^ k))
  | n + 1, 0, x, _ => by simp [leBytes]
  | n + 1, k + 1, x, h => by
    rw [leBytes, List.getElem?_cons_succ, leBytes_getElem? (x / 256) (by omega), Nat.div_div_eq_div_mul, ← Nat.pow_succ']

@[simp] theorem length_leBytes : ∀ n x : Nat, (leBytes n x).length = n
  | 0, _ => rfl
  | n + 1, x => by rw [leBytes, List.length_cons, length_leBytes]

/-- A byte of the number that bytes make. -/
theorem leNat_byte : ∀ {l : List Byte} {k : Nat} {b : Byte}, l[k]? = some b → leNat l / 256 ^ k % 256 = b.toNat
  | c :: l, 0, b, h => by
    obtain rfl : c = b := by simpa using h
    have := c.isLt
    simp only [leNat]; omega
  | c :: l, k + 1, b, h => by
    have hc := c.isLt
    have hl : leNat (c :: l) / 256 = leNat l := by simp only [leNat]; omega
    rw [Nat.pow_succ', ← Nat.div_div_eq_div_mul, hl]
    exact leNat_byte (by simpa using h)

/-- Byte `i` of the reversed word is byte `7 - i` of the word. -/
theorem field_bswapWord (a : Word) {i : Nat} (hi : i < 8) :
    field (bswapWord a) (8 * i + 7) (8 * i) = field a (63 - 8 * i) (56 - 8 * i) := by
  have hbyte : (leBytes 8 a.toNat).reverse[i]? = some (BitVec.ofNat 8 (a.toNat / 256 ^ (7 - i))) := by
    rw [List.getElem?_reverse (by simpa using hi), length_leBytes, leBytes_getElem? _ (by omega)]
  have hval := leNat_byte hbyte
  have h256 : ∀ k, 256 ^ k = 2 ^ (8 * k) := fun k => by rw [Nat.pow_mul]
  have hcut : ∀ x : Nat, x % 2 ^ 64 / 2 ^ (8 * i) % 2 ^ 8 = x / 2 ^ (8 * i) % 2 ^ 8 := fun x => by
    rw [show 64 = 8 * i + (64 - 8 * i) by omega, Nat.pow_add, Nat.mod_mul_right_div_self,
      Nat.mod_mod_of_dvd _ (Nat.pow_dvd_pow 2 (by omega))]
  rw [h256, h256, BitVec.toNat_ofNat] at hval
  rw [field, field, bswapWord, BitVec.toNat_ofNat, show 8 * i + 7 - 8 * i + 1 = 8 by omega, hcut,
    show 63 - 8 * i - (56 - 8 * i) + 1 = 8 by omega, show 56 - 8 * i = 8 * (7 - i) by omega]
  exact hval

/-- A form of one source that both scalar slots have reads back from its word, and a reserved bit that is set is refused. -/
theorem decodeSlot_single {c : Pred → Form.R2 → Instr} {op : Nat} (hop : 0x11 < op ∧ op < 2 ^ 7)
    (hd : ∀ w p, decodeScalar op w none p = fits ((Form.R2.ofWord w).map (c p))) (hc : ∀ p f, (c p f).wf = p.wf) {p : Pred}
    (hp : p.wf = true) (f : Form.R2) {pos : Fin 8} (hpos : pos.val < 2) :
    decodeSlot pos (fieldsWord false p op f.word) none = .ok (c p f) ∧
    ∀ k, 0 < k → k < 2 ^ 9 → decodeSlot pos (fieldsWord false p op (f.word + k)) none = .error .field := by
  obtain ⟨hmin, hmax⟩ := hop
  have hs := slotHas_scalar hpos hmin
  have hcl : ∀ w, decodeClass (slotClass pos) op w none p = fits ((Form.R2.ofWord w).map (c p)) := fun w => by
    rw [slotClass_scalar hpos]; exact hd w p
  constructor
  · exact decodeSlot_fieldsWord_ok hmax f.word_lt hp hs ((hc p f).trans hp) (by rw [hcl, f.ofWord_word]; rfl)
  · intro k h0 hk
    exact decodeSlot_fieldsWord_error hmax (f.word_add_lt hk) hp hs (by rw [hcl, f.ofWord_reserved h0 hk]; rfl)

/-- What 11 R316 says of the form of one bit instruction: it completes in one cycle, and its word and its encoding agree. -/
def BitForm (x : Nat × (Pred → Form.R2 → Instr) × (Word → Word)) : Prop := ∀ p (f : Form.R2),
  Completes (x.2.1 p f) (scalarRow p f.d [(.s f.a, f.ta)] 1 fun g => x.2.2 (g.gets f.a)) ∧
  (encode (x.2.1 p f)).map SlotWord.word = some (fieldsWord false p x.1 f.word) ∧
  (p.wf = true → ∀ pos : Fin 8, pos.val < 2 → decodeSlot pos (fieldsWord false p x.1 f.word) none = .ok (x.2.1 p f) ∧
    ∀ k, 0 < k → k < 2 ^ 9 → decodeSlot pos (fieldsWord false p x.1 (f.word + k)) none = .error .field)

/-- An instruction has the form by its arm of `exec`, of `encode` and of the scalar map. -/
theorem bitForm_of {op : Nat} {c : Pred → Form.R2 → Instr} {g : Word → Word} (hop : 0x11 < op ∧ op < 2 ^ 7)
    (hx : ∀ p f s, exec (c p f) s = slot false p (alu1 1 g f.d f.a f.ta) s)
    (he : ∀ p f, encode (c p f) = some ⟨.scalar, p, op, f.word, none⟩)
    (hd : ∀ w p, decodeScalar op w none p = fits ((Form.R2.ofWord w).map (c p))) (hc : ∀ p f, (c p f).wf = p.wf) :
    BitForm (op, c, g) := fun p f =>
  ⟨completes_alu1 (hx p f), by rw [he]; rfl, fun hp _ hpos => decodeSlot_single hop hd hc hp f hpos⟩

theorem clz_bitForm : BitForm (0x14, .clz, clzWord) :=
  bitForm_of (by decide) (fun _ _ _ => rfl) (fun _ _ => rfl) (fun _ _ => rfl) fun _ _ => rfl

theorem ctz_bitForm : BitForm (0x15, .ctz, ctzWord) :=
  bitForm_of (by decide) (fun _ _ _ => rfl) (fun _ _ => rfl) (fun _ _ => rfl) fun _ _ => rfl

theorem popc_bitForm : BitForm (0x16, .popc, popcWord) :=
  bitForm_of (by decide) (fun _ _ _ => rfl) (fun _ _ => rfl) (fun _ _ => rfl) fun _ _ => rfl

theorem bswap_bitForm : BitForm (0x17, .bswap, bswapWord) :=
  bitForm_of (by decide) (fun _ _ _ => rfl) (fun _ _ => rfl) (fun _ _ => rfl) fun _ _ => rfl

/-- Settles O45: forms and words by the laws of slots and words, each value by the recursion that computes it. -/
theorem bitInstructions : Obligations.BitInstructions := by
  unfold Obligations.BitInstructions
  refine ⟨?forms, fun _ => rfl, rfl, rfl, fun _ _ => clzWord_of_between, fun _ _ => ctzWord_of_lowest, toNat_popcWord,
    fun a _ => field_bswapWord a⟩
  case forms =>
    simp only [List.forall_mem_cons, List.not_mem_nil, false_implies, implies_true, and_true]
    exact ⟨clz_bitForm, ctz_bitForm, popc_bitForm, bswap_bitForm⟩

end Sys2Proof.Machine
end

section
/-! The words of slot instructions read back (10 R285 to R294): each format's word by its own law, each map by its opcode. -/

namespace Sys2Proof

/-! ## Words of one alternative of an opcode are no words of the alternatives tried before it (10 R291) -/

theorem Form.VmmA.not_copy (f : Form.VmmA) : Form.R2.ofWord f.word = none := by
  unfold Form.R2.ofWord Form.VmmA.word
  exact if_neg (by omega)

theorem Form.VmmS.not_copy (f : Form.VmmS) : Form.R2.ofWord f.word = none := by
  unfold Form.R2.ofWord Form.VmmS.word
  exact if_neg (by omega)

theorem Form.VmmS.not_and (f : Form.VmmS) : Form.VmmA.ofWord f.word = none := by
  unfold Form.VmmA.ofWord Form.VmmS.word
  exact if_neg (by omega)

theorem Form.Mw2L.not_plain (f : Form.Mw2L) : Form.Mw2.ofWord f.word = none := by
  unfold Form.Mw2.ofWord Form.Mw2L.word
  exact if_neg (by omega)

theorem Form.MdrainN.not_plain (f : Form.MdrainN) : Form.Mdrain.ofWord f.word f.ext = none := by
  have := boolBit_le f.ts
  unfold Form.Mdrain.ofWord Form.MdrainN.word
  exact if_neg (by omega)

theorem Form.CollR.not_send (f : Form.CollR) : Form.Coll.ofWord f.word = none := by
  unfold Form.Coll.ofWord Form.CollR.word
  exact if_neg (by omega)

theorem Form.CollW.not_send (f : Form.CollW) : Form.Coll.ofWord f.word = none := by
  unfold Form.Coll.ofWord Form.CollW.word
  exact if_neg (by omega)

theorem Form.CollW.not_recv (f : Form.CollW) : Form.CollR.ofWord f.word = none := by
  unfold Form.CollR.ofWord Form.CollW.word
  exact if_neg (by omega)

theorem Form.CollRW.not_send (f : Form.CollRW) : Form.Coll.ofWord f.word = none := by
  unfold Form.Coll.ofWord Form.CollRW.word
  exact if_neg (by omega)

theorem Form.CollRW.not_recv (f : Form.CollRW) : Form.CollR.ofWord f.word = none := by
  unfold Form.CollR.ofWord Form.CollRW.word
  exact if_neg (by omega)

theorem Form.CollRW.not_sendW (f : Form.CollRW) : Form.CollW.ofWord f.word = none := by
  unfold Form.CollW.ofWord Form.CollRW.word
  exact if_neg (by omega)

theorem Form.CmarkE.not_begin (f : Form.CmarkE) : Form.Cmark.ofWord f.word = none := by
  unfold Form.Cmark.ofWord Form.CmarkE.word
  exact if_neg (by omega)

theorem Form.AownRel.not_claim (f : Form.AownRel) : Form.Aown.ofWord f.word = none := by
  unfold Form.Aown.ofWord Form.AownRel.word
  exact if_neg (by omega)

/-! ## A map's entry reads its format's word -/

section Entries
variable {F : Type} {o : Option F} {f : F} {i : Instr}

theorem map_word (h : o = some f) {mk : F → Instr} : o.map mk = some (mk f) := congrArg (Option.map mk) h

theorem map_none (h : o = none) {mk : F → Instr} : o.map mk = none := congrArg (Option.map mk) h

theorem maskOf_val (m : Fin 8) : maskOf m.val = some m := by
  rw [maskOf, if_pos (by omega)]
  exact congrArg some (Fin.ext (Nat.mod_eq_of_lt m.isLt))

theorem masked_word (h : o = some f) (m : Fin 8) {mk : F → Fin 8 → Instr} :
    (o.bind fun f => (maskOf m.val).map (mk f)) = some (mk f m) := by
  rw [h, maskOf_val]; rfl

theorem masked_none {m : Fin 8} (h : o = none) {mk : F → Fin 8 → Instr} : (o.bind fun f => (maskOf m.val).map (mk f)) = none := by
  rw [h]; rfl

theorem orElse_left {a b : Option Instr} (h : a = some i) : (a <|> b) = some i := by rw [h]; rfl

theorem orElse_right {a b : Option Instr} (h : a = none) (k : b = some i) : (a <|> b) = some i := by rw [h, k]; rfl

theorem fits_some {a : Option Instr} (h : a = some i) : fits a = .ok i := congrArg fits h

end Entries

/-! ## Every instruction with a word -/

/-- The fields of an instruction's word fit theirs, its predicate is one the manual allows, and its class's map gives it back. -/
def ReadsBack (i : Instr) : Prop := ∀ e, encode i = some e →
  (i.wf = true → e.pred.wf = true) ∧ e.op < 2 ^ 7 ∧ e.opnd < 2 ^ 20 ∧ decodeClass e.cls e.op e.opnd e.ext e.pred = .ok i

open Laws in
theorem readsBack {i : Instr} {c : SlotClass} {p : Pred} {op w : Nat} {x : Option Nat} (hp : SlotPred.Statement i) (he : encode i = some ⟨c, p, op, w, x⟩)
    (hop : op < 2 ^ 7) (hw : w < 2 ^ 20) (hd : decodeClass c op w x p = .ok i) : ReadsBack i := fun e h => by
  obtain rfl : ⟨c, p, op, w, x⟩ = e := Option.some.inj (he.symm.trans h)
  exact ⟨fun hi => hp _ hi he, hop, hw, hd⟩

open Laws in
/-- Each arm of the encoder is met by the entry of its opcode in its class's map. -/
theorem encode_readsBack (i : Instr) : ReadsBack i := by
  cases i with
  | add p f => exact readsBack (SlotPred.add p f) rfl (by decide) f.word_lt (fits_some (map_word f.ofWord_word))
  | sub p f => exact readsBack (SlotPred.sub p f) rfl (by decide) f.word_lt (fits_some (map_word f.ofWord_word))
  | addi p f => exact readsBack (SlotPred.addi p f) rfl (by decide) f.word_lt (fits_some (map_word f.ofWord_word))
  | addiExt p f => exact readsBack (SlotPred.addiExt p f) rfl (by decide) f.word_lt.1 (fits_some (map_word f.ofWord_word))
  | and p f => exact readsBack (SlotPred.and p f) rfl (by decide) f.word_lt (fits_some (map_word f.ofWord_word))
  | or p f => exact readsBack (SlotPred.or p f) rfl (by decide) f.word_lt (fits_some (map_word f.ofWord_word))
  | xor p f => exact readsBack (SlotPred.xor p f) rfl (by decide) f.word_lt (fits_some (map_word f.ofWord_word))
  | andn p f => exact readsBack (SlotPred.andn p f) rfl (by decide) f.word_lt (fits_some (map_word f.ofWord_word))
  | shl p f => exact readsBack (SlotPred.shl p f) rfl (by decide) f.word_lt (fits_some (map_word f.ofWord_word))
  | shr p f => exact readsBack (SlotPred.shr p f) rfl (by decide) f.word_lt (fits_some (map_word f.ofWord_word))
  | sra p f => exact readsBack (SlotPred.sra p f) rfl (by decide) f.word_lt (fits_some (map_word f.ofWord_word))
  | shli p f => exact readsBack (SlotPred.shli p f) rfl (by decide) f.word_lt (fits_some (map_word f.ofWord_word))
  | shri p f => exact readsBack (SlotPred.shri p f) rfl (by decide) f.word_lt (fits_some (map_word f.ofWord_word))
  | srai p f => exact readsBack (SlotPred.srai p f) rfl (by decide) f.word_lt (fits_some (map_word f.ofWord_word))
  | mul p f => exact readsBack (SlotPred.mul p f) rfl (by decide) f.word_lt (fits_some (map_word f.ofWord_word))
  | mulh p f => exact readsBack (SlotPred.mulh p f) rfl (by decide) f.word_lt (fits_some (map_word f.ofWord_word))
  | div p f => exact readsBack (SlotPred.div p f) rfl (by decide) f.word_lt (fits_some (map_word f.ofWord_word))
  | rem p f => exact readsBack (SlotPred.rem p f) rfl (by decide) f.word_lt (fits_some (map_word f.ofWord_word))
  | min p f => exact readsBack (SlotPred.min p f) rfl (by decide) f.word_lt (fits_some (map_word f.ofWord_word))
  | max p f => exact readsBack (SlotPred.max p f) rfl (by decide) f.word_lt (fits_some (map_word f.ofWord_word))
  | clz p f => exact readsBack (SlotPred.clz p f) rfl (by decide) f.word_lt (fits_some (map_word f.ofWord_word))
  | ctz p f => exact readsBack (SlotPred.ctz p f) rfl (by decide) f.word_lt (fits_some (map_word f.ofWord_word))
  | popc p f => exact readsBack (SlotPred.popc p f) rfl (by decide) f.word_lt (fits_some (map_word f.ofWord_word))
  | bswap p f => exact readsBack (SlotPred.bswap p f) rfl (by decide) f.word_lt (fits_some (map_word f.ofWord_word))
  | ext p f => exact readsBack (SlotPred.ext p f) rfl (by decide) f.word_lt.1 (fits_some (map_word f.ofWord_word))
  | ins p f => exact readsBack (SlotPred.ins p f) rfl (by decide) f.word_lt.1 (fits_some (map_word f.ofWord_word))
  | li p f => exact readsBack (SlotPred.li p f) rfl (by decide) f.word_lt (fits_some (map_word f.ofWord_word))
  | liExt p f => exact readsBack (SlotPred.liExt p f) rfl (by decide) f.word_lt.1 (fits_some (map_word f.ofWord_word))
  | lih p f => exact readsBack (SlotPred.lih p f) rfl (by decide) f.word_lt (fits_some (map_word f.ofWord_word))
  | lihExt p f => exact readsBack (SlotPred.lihExt p f) rfl (by decide) f.word_lt.1 (fits_some (map_word f.ofWord_word))
  | mov p f => exact readsBack (SlotPred.mov p f) rfl (by decide) f.word_lt (fits_some (map_word f.ofWord_word))
  | sel p f => exact readsBack (SlotPred.sel p f) rfl (by decide) f.word_lt (fits_some (map_word f.ofWord_word))
  | lea p f => exact readsBack (SlotPred.lea p f) rfl (by decide) f.word_lt (fits_some (map_word f.ofWord_word))
  | madd p f => exact readsBack (SlotPred.madd p f) rfl (by decide) f.word_lt.1 (fits_some (map_word f.ofWord_word))
  | clamp p f => exact readsBack (SlotPred.clamp p f) rfl (by decide) f.word_lt.1 (fits_some (map_word f.ofWord_word))
  | cmpEq p f => exact readsBack (SlotPred.cmpEq p f) rfl (by decide) f.word_lt (fits_some (map_word f.ofWord_word))
  | cmpNe p f => exact readsBack (SlotPred.cmpNe p f) rfl (by decide) f.word_lt (fits_some (map_word f.ofWord_word))
  | cmpLt p f => exact readsBack (SlotPred.cmpLt p f) rfl (by decide) f.word_lt (fits_some (map_word f.ofWord_word))
  | cmpLe p f => exact readsBack (SlotPred.cmpLe p f) rfl (by decide) f.word_lt (fits_some (map_word f.ofWord_word))
  | cmpiEq p f => exact readsBack (SlotPred.cmpiEq p f) rfl (by decide) f.word_lt (fits_some (map_word f.ofWord_word))
  | cmpiEqExt p f => exact readsBack (SlotPred.cmpiEqExt p f) rfl (by decide) f.word_lt.1 (fits_some (map_word f.ofWord_word))
  | cmpiNe p f => exact readsBack (SlotPred.cmpiNe p f) rfl (by decide) f.word_lt (fits_some (map_word f.ofWord_word))
  | cmpiNeExt p f => exact readsBack (SlotPred.cmpiNeExt p f) rfl (by decide) f.word_lt.1 (fits_some (map_word f.ofWord_word))
  | cmpiLt p f => exact readsBack (SlotPred.cmpiLt p f) rfl (by decide) f.word_lt (fits_some (map_word f.ofWord_word))
  | cmpiLtExt p f => exact readsBack (SlotPred.cmpiLtExt p f) rfl (by decide) f.word_lt.1 (fits_some (map_word f.ofWord_word))
  | cmpiLe p f => exact readsBack (SlotPred.cmpiLe p f) rfl (by decide) f.word_lt (fits_some (map_word f.ofWord_word))
  | cmpiLeExt p f => exact readsBack (SlotPred.cmpiLeExt p f) rfl (by decide) f.word_lt.1 (fits_some (map_word f.ofWord_word))
  | pand p f => exact readsBack (SlotPred.pand p f) rfl (by decide) f.word_lt (fits_some (map_word f.ofWord_word))
  | por p f => exact readsBack (SlotPred.por p f) rfl (by decide) f.word_lt (fits_some (map_word f.ofWord_word))
  | pxor p f => exact readsBack (SlotPred.pxor p f) rfl (by decide) f.word_lt (fits_some (map_word f.ofWord_word))
  | pnot p f => exact readsBack (SlotPred.pnot p f) rfl (by decide) f.word_lt (fits_some (map_word f.ofWord_word))
  | pmov p f => exact readsBack (SlotPred.pmov p f) rfl (by decide) f.word_lt (fits_some (map_word f.ofWord_word))
  | br p f => exact readsBack (SlotPred.br p f) rfl (by decide) f.word_lt (fits_some (map_word f.ofWord_word))
  | brc p f => exact readsBack (SlotPred.brc p f) rfl (by decide) f.word_lt (fits_some (map_word f.ofWord_word))
  | brcExt p f => exact readsBack (SlotPred.brcExt p f) rfl (by decide) f.word_lt.1 (fits_some (map_word f.ofWord_word))
  | jr p f => exact readsBack (SlotPred.jr p f) rfl (by decide) f.word_lt (fits_some (map_word f.ofWord_word))
  | call p f => exact readsBack (SlotPred.call p f) rfl (by decide) f.word_lt (fits_some (map_word f.ofWord_word))
  | ret p => exact readsBack (SlotPred.ret p) rfl (by decide) (by decide) rfl
  | lp p f => exact readsBack (SlotPred.lp p f) rfl (by decide) f.word_lt (fits_some (map_word f.ofWord_word))
  | lpx p f => exact readsBack (SlotPred.lpx p f) rfl (by decide) f.word_lt (fits_some (map_word f.ofWord_word))
  | xwait p f => exact readsBack (SlotPred.xwait p f) rfl (by decide) f.word_lt (fits_some (map_word f.ofWord_word))
  | twait p f => exact readsBack (SlotPred.twait p f) rfl (by decide) f.word_lt (fits_some (map_word f.ofWord_word))
  | retire p => exact readsBack (SlotPred.retire p) rfl (by decide) (by decide) rfl
  | trigger p => exact readsBack (SlotPred.trigger p) rfl (by decide) (by decide) rfl
  | trap p f => exact readsBack (SlotPred.trap p f) rfl (by decide) f.word_lt (fits_some (map_word f.ofWord_word))
  | brk p f => exact readsBack (SlotPred.brk p f) rfl (by decide) f.word_lt (fits_some (map_word f.ofWord_word))
  | npsBegin p => exact readsBack (SlotPred.npsBegin p) rfl (by decide) (by decide) rfl
  | npsEnd p => exact readsBack (SlotPred.npsEnd p) rfl (by decide) (by decide) rfl
  | srd p f => exact readsBack (SlotPred.srd p f) rfl (by decide) f.word_lt (fits_some (map_word f.ofWord_word))
  | swr p f => exact readsBack (SlotPred.swr p f) rfl (by decide) f.word_lt (fits_some (map_word f.ofWord_word))
  | cfgq p f => exact readsBack (SlotPred.cfgq p f) rfl (by decide) f.word_lt (fits_some (map_word f.ofWord_word))
  | wccr p f => exact readsBack (SlotPred.wccr p f) rfl (by decide) f.word_lt (fits_some (map_word f.ofWord_word))
  | vadd p f => exact readsBack (SlotPred.vadd p f) rfl (by decide) f.word_lt (fits_some (map_word f.ofWord_word))
  | vaddMsk p f m => exact readsBack (SlotPred.vaddMsk p f m) rfl (by decide) f.word_lt (fits_some (masked_word f.ofWord_word m))
  | vsub p f => exact readsBack (SlotPred.vsub p f) rfl (by decide) f.word_lt (fits_some (map_word f.ofWord_word))
  | vsubMsk p f m => exact readsBack (SlotPred.vsubMsk p f m) rfl (by decide) f.word_lt (fits_some (masked_word f.ofWord_word m))
  | vmul p f => exact readsBack (SlotPred.vmul p f) rfl (by decide) f.word_lt (fits_some (map_word f.ofWord_word))
  | vmulMsk p f m => exact readsBack (SlotPred.vmulMsk p f m) rfl (by decide) f.word_lt (fits_some (masked_word f.ofWord_word m))
  | vfma p f => exact readsBack (SlotPred.vfma p f) rfl (by decide) f.word_lt.1 (fits_some (map_word f.ofWord_word))
  | vfms p f => exact readsBack (SlotPred.vfms p f) rfl (by decide) f.word_lt.1 (fits_some (map_word f.ofWord_word))
  | vfnma p f => exact readsBack (SlotPred.vfnma p f) rfl (by decide) f.word_lt.1 (fits_some (map_word f.ofWord_word))
  | vmin p f => exact readsBack (SlotPred.vmin p f) rfl (by decide) f.word_lt (fits_some (map_word f.ofWord_word))
  | vminMsk p f m => exact readsBack (SlotPred.vminMsk p f m) rfl (by decide) f.word_lt (fits_some (masked_word f.ofWord_word m))
  | vmax p f => exact readsBack (SlotPred.vmax p f) rfl (by decide) f.word_lt (fits_some (map_word f.ofWord_word))
  | vmaxMsk p f m => exact readsBack (SlotPred.vmaxMsk p f m) rfl (by decide) f.word_lt (fits_some (masked_word f.ofWord_word m))
  | vabs p f => exact readsBack (SlotPred.vabs p f) rfl (by decide) f.word_lt (fits_some (map_word f.ofWord_word))
  | vabsMsk p f m => exact readsBack (SlotPred.vabsMsk p f m) rfl (by decide) f.word_lt (fits_some (masked_word f.ofWord_word m))
  | vneg p f => exact readsBack (SlotPred.vneg p f) rfl (by decide) f.word_lt (fits_some (map_word f.ofWord_word))
  | vnegMsk p f m => exact readsBack (SlotPred.vnegMsk p f m) rfl (by decide) f.word_lt (fits_some (masked_word f.ofWord_word m))
  | vcmpEq p f => exact readsBack (SlotPred.vcmpEq p f) rfl (by decide) f.word_lt (fits_some (map_word f.ofWord_word))
  | vcmpEqMsk p f m => exact readsBack (SlotPred.vcmpEqMsk p f m) rfl (by decide) f.word_lt (fits_some (masked_word f.ofWord_word m))
  | vcmpLt p f => exact readsBack (SlotPred.vcmpLt p f) rfl (by decide) f.word_lt (fits_some (map_word f.ofWord_word))
  | vcmpLtMsk p f m => exact readsBack (SlotPred.vcmpLtMsk p f m) rfl (by decide) f.word_lt (fits_some (masked_word f.ofWord_word m))
  | vcmpLe p f => exact readsBack (SlotPred.vcmpLe p f) rfl (by decide) f.word_lt (fits_some (map_word f.ofWord_word))
  | vcmpLeMsk p f m => exact readsBack (SlotPred.vcmpLeMsk p f m) rfl (by decide) f.word_lt (fits_some (masked_word f.ofWord_word m))
  | vcmpUn p f => exact readsBack (SlotPred.vcmpUn p f) rfl (by decide) f.word_lt (fits_some (map_word f.ofWord_word))
  | vcmpUnMsk p f m => exact readsBack (SlotPred.vcmpUnMsk p f m) rfl (by decide) f.word_lt (fits_some (masked_word f.ofWord_word m))
  | vsel p f => exact readsBack (SlotPred.vsel p f) rfl (by decide) f.word_lt (fits_some (map_word f.ofWord_word))
  | vselMsk p f m => exact readsBack (SlotPred.vselMsk p f m) rfl (by decide) f.word_lt (fits_some (masked_word f.ofWord_word m))
  | vclamp p f => exact readsBack (SlotPred.vclamp p f) rfl (by decide) f.word_lt.1 (fits_some (map_word f.ofWord_word))
  | viadd p f => exact readsBack (SlotPred.viadd p f) rfl (by decide) f.word_lt (fits_some (map_word f.ofWord_word))
  | viaddMsk p f m => exact readsBack (SlotPred.viaddMsk p f m) rfl (by decide) f.word_lt (fits_some (masked_word f.ofWord_word m))
  | visub p f => exact readsBack (SlotPred.visub p f) rfl (by decide) f.word_lt (fits_some (map_word f.ofWord_word))
  | visubMsk p f m => exact readsBack (SlotPred.visubMsk p f m) rfl (by decide) f.word_lt (fits_some (masked_word f.ofWord_word m))
  | vimul p f => exact readsBack (SlotPred.vimul p f) rfl (by decide) f.word_lt (fits_some (map_word f.ofWord_word))
  | vimulMsk p f m => exact readsBack (SlotPred.vimulMsk p f m) rfl (by decide) f.word_lt (fits_some (masked_word f.ofWord_word m))
  | vimin p f => exact readsBack (SlotPred.vimin p f) rfl (by decide) f.word_lt (fits_some (map_word f.ofWord_word))
  | viminMsk p f m => exact readsBack (SlotPred.viminMsk p f m) rfl (by decide) f.word_lt (fits_some (masked_word f.ofWord_word m))
  | vimax p f => exact readsBack (SlotPred.vimax p f) rfl (by decide) f.word_lt (fits_some (map_word f.ofWord_word))
  | vimaxMsk p f m => exact readsBack (SlotPred.vimaxMsk p f m) rfl (by decide) f.word_lt (fits_some (masked_word f.ofWord_word m))
  | vand p f => exact readsBack (SlotPred.vand p f) rfl (by decide) f.word_lt (fits_some (map_word f.ofWord_word))
  | vandMsk p f m => exact readsBack (SlotPred.vandMsk p f m) rfl (by decide) f.word_lt (fits_some (masked_word f.ofWord_word m))
  | vor p f => exact readsBack (SlotPred.vor p f) rfl (by decide) f.word_lt (fits_some (map_word f.ofWord_word))
  | vorMsk p f m => exact readsBack (SlotPred.vorMsk p f m) rfl (by decide) f.word_lt (fits_some (masked_word f.ofWord_word m))
  | vxor p f => exact readsBack (SlotPred.vxor p f) rfl (by decide) f.word_lt (fits_some (map_word f.ofWord_word))
  | vxorMsk p f m => exact readsBack (SlotPred.vxorMsk p f m) rfl (by decide) f.word_lt (fits_some (masked_word f.ofWord_word m))
  | vandn p f => exact readsBack (SlotPred.vandn p f) rfl (by decide) f.word_lt (fits_some (map_word f.ofWord_word))
  | vandnMsk p f m => exact readsBack (SlotPred.vandnMsk p f m) rfl (by decide) f.word_lt (fits_some (masked_word f.ofWord_word m))
  | vshl p f => exact readsBack (SlotPred.vshl p f) rfl (by decide) f.word_lt (fits_some (map_word f.ofWord_word))
  | vshlMsk p f m => exact readsBack (SlotPred.vshlMsk p f m) rfl (by decide) f.word_lt (fits_some (masked_word f.ofWord_word m))
  | vshr p f => exact readsBack (SlotPred.vshr p f) rfl (by decide) f.word_lt (fits_some (map_word f.ofWord_word))
  | vshrMsk p f m => exact readsBack (SlotPred.vshrMsk p f m) rfl (by decide) f.word_lt (fits_some (masked_word f.ofWord_word m))
  | vsra p f => exact readsBack (SlotPred.vsra p f) rfl (by decide) f.word_lt (fits_some (map_word f.ofWord_word))
  | vsraMsk p f m => exact readsBack (SlotPred.vsraMsk p f m) rfl (by decide) f.word_lt (fits_some (masked_word f.ofWord_word m))
  | vicmpEq p f => exact readsBack (SlotPred.vicmpEq p f) rfl (by decide) f.word_lt (fits_some (map_word f.ofWord_word))
  | vicmpEqMsk p f m => exact readsBack (SlotPred.vicmpEqMsk p f m) rfl (by decide) f.word_lt (fits_some (masked_word f.ofWord_word m))
  | vicmpLt p f => exact readsBack (SlotPred.vicmpLt p f) rfl (by decide) f.word_lt (fits_some (map_word f.ofWord_word))
  | vicmpLtMsk p f m => exact readsBack (SlotPred.vicmpLtMsk p f m) rfl (by decide) f.word_lt (fits_some (masked_word f.ofWord_word m))
  | vicmpLe p f => exact readsBack (SlotPred.vicmpLe p f) rfl (by decide) f.word_lt (fits_some (map_word f.ofWord_word))
  | vicmpLeMsk p f m => exact readsBack (SlotPred.vicmpLeMsk p f m) rfl (by decide) f.word_lt (fits_some (masked_word f.ofWord_word m))
  | vbcast p f => exact readsBack (SlotPred.vbcast p f) rfl (by decide) f.word_lt (fits_some (map_word f.ofWord_word))
  | vbcastMsk p f m => exact readsBack (SlotPred.vbcastMsk p f m) rfl (by decide) f.word_lt (fits_some (masked_word f.ofWord_word m))
  | vext p f => exact readsBack (SlotPred.vext p f) rfl (by decide) f.word_lt (fits_some (map_word f.ofWord_word))
  | vins p f => exact readsBack (SlotPred.vins p f) rfl (by decide) f.word_lt (fits_some (map_word f.ofWord_word))
  | vperm p f => exact readsBack (SlotPred.vperm p f) rfl (by decide) f.word_lt (fits_some (map_word f.ofWord_word))
  | vpermMsk p f m => exact readsBack (SlotPred.vpermMsk p f m) rfl (by decide) f.word_lt (fits_some (masked_word f.ofWord_word m))
  | vshift p f => exact readsBack (SlotPred.vshift p f) rfl (by decide) f.word_lt (fits_some (map_word f.ofWord_word))
  | vshiftMsk p f m => exact readsBack (SlotPred.vshiftMsk p f m) rfl (by decide) f.word_lt (fits_some (masked_word f.ofWord_word m))
  | vrot p f => exact readsBack (SlotPred.vrot p f) rfl (by decide) f.word_lt (fits_some (map_word f.ofWord_word))
  | vrotMsk p f m => exact readsBack (SlotPred.vrotMsk p f m) rfl (by decide) f.word_lt (fits_some (masked_word f.ofWord_word m))
  | vsum p f => exact readsBack (SlotPred.vsum p f) rfl (by decide) f.word_lt (fits_some (map_word f.ofWord_word))
  | vsumMsk p f m => exact readsBack (SlotPred.vsumMsk p f m) rfl (by decide) f.word_lt (fits_some (masked_word f.ofWord_word m))
  | vmaxr p f => exact readsBack (SlotPred.vmaxr p f) rfl (by decide) f.word_lt (fits_some (map_word f.ofWord_word))
  | vmaxrMsk p f m => exact readsBack (SlotPred.vmaxrMsk p f m) rfl (by decide) f.word_lt (fits_some (masked_word f.ofWord_word m))
  | vminr p f => exact readsBack (SlotPred.vminr p f) rfl (by decide) f.word_lt (fits_some (map_word f.ofWord_word))
  | vminrMsk p f m => exact readsBack (SlotPred.vminrMsk p f m) rfl (by decide) f.word_lt (fits_some (masked_word f.ofWord_word m))
  | mand p f => exact readsBack (SlotPred.mand p f) rfl (by decide) f.word_lt (fits_some (map_word f.ofWord_word))
  | mor p f => exact readsBack (SlotPred.mor p f) rfl (by decide) f.word_lt (fits_some (map_word f.ofWord_word))
  | mxor p f => exact readsBack (SlotPred.mxor p f) rfl (by decide) f.word_lt (fits_some (map_word f.ofWord_word))
  | mnot p f => exact readsBack (SlotPred.mnot p f) rfl (by decide) f.word_lt (fits_some (map_word f.ofWord_word))
  | mpop p f => exact readsBack (SlotPred.mpop p f) rfl (by decide) f.word_lt (fits_some (map_word f.ofWord_word))
  | mfirst p f => exact readsBack (SlotPred.mfirst p f) rfl (by decide) f.word_lt (fits_some (map_word f.ofWord_word))
  | vvalid p f => exact readsBack (SlotPred.vvalid p f) rfl (by decide) f.word_lt (fits_some (map_word f.ofWord_word))
  | vmov p f => exact readsBack (SlotPred.vmov p f) rfl (by decide) f.word_lt (fits_some (orElse_left (map_word f.ofWord_word)))
  | vmovMsk p f m => exact readsBack (SlotPred.vmovMsk p f m) rfl (by decide) f.word_lt (fits_some (orElse_left (masked_word f.ofWord_word m)))
  | vmovAnd p f => exact readsBack (SlotPred.vmovAnd p f) rfl (by decide) f.word_lt (fits_some (orElse_right (map_none f.not_copy) (orElse_left (map_word f.ofWord_word))))
  | vmovAndMsk p f m => exact readsBack (SlotPred.vmovAndMsk p f m) rfl (by decide) f.word_lt (fits_some (orElse_right (masked_none f.not_copy) (orElse_left (masked_word f.ofWord_word m))))
  | vmovSet p f => exact readsBack (SlotPred.vmovSet p f) rfl (by decide) f.word_lt (fits_some (orElse_right (map_none f.not_copy) (orElse_right (map_none f.not_and) (map_word f.ofWord_word))))
  | vmovSetMsk p f m => exact readsBack (SlotPred.vmovSetMsk p f m) rfl (by decide) f.word_lt (fits_some (orElse_right (masked_none f.not_copy) (orElse_right (masked_none f.not_and) (masked_word f.ofWord_word m))))
  | vrcp p f => exact readsBack (SlotPred.vrcp p f) rfl (by decide) f.word_lt (fits_some (map_word f.ofWord_word))
  | vrcpMsk p f m => exact readsBack (SlotPred.vrcpMsk p f m) rfl (by decide) f.word_lt (fits_some (masked_word f.ofWord_word m))
  | vrsqrt p f => exact readsBack (SlotPred.vrsqrt p f) rfl (by decide) f.word_lt (fits_some (map_word f.ofWord_word))
  | vrsqrtMsk p f m => exact readsBack (SlotPred.vrsqrtMsk p f m) rfl (by decide) f.word_lt (fits_some (masked_word f.ofWord_word m))
  | vsqrt p f => exact readsBack (SlotPred.vsqrt p f) rfl (by decide) f.word_lt (fits_some (map_word f.ofWord_word))
  | vsqrtMsk p f m => exact readsBack (SlotPred.vsqrtMsk p f m) rfl (by decide) f.word_lt (fits_some (masked_word f.ofWord_word m))
  | vexp2 p f => exact readsBack (SlotPred.vexp2 p f) rfl (by decide) f.word_lt (fits_some (map_word f.ofWord_word))
  | vexp2Msk p f m => exact readsBack (SlotPred.vexp2Msk p f m) rfl (by decide) f.word_lt (fits_some (masked_word f.ofWord_word m))
  | vlog2 p f => exact readsBack (SlotPred.vlog2 p f) rfl (by decide) f.word_lt (fits_some (map_word f.ofWord_word))
  | vlog2Msk p f m => exact readsBack (SlotPred.vlog2Msk p f m) rfl (by decide) f.word_lt (fits_some (masked_word f.ofWord_word m))
  | vtanh p f => exact readsBack (SlotPred.vtanh p f) rfl (by decide) f.word_lt (fits_some (map_word f.ofWord_word))
  | vtanhMsk p f m => exact readsBack (SlotPred.vtanhMsk p f m) rfl (by decide) f.word_lt (fits_some (masked_word f.ofWord_word m))
  | vsigm p f => exact readsBack (SlotPred.vsigm p f) rfl (by decide) f.word_lt (fits_some (map_word f.ofWord_word))
  | vsigmMsk p f m => exact readsBack (SlotPred.vsigmMsk p f m) rfl (by decide) f.word_lt (fits_some (masked_word f.ofWord_word m))
  | vrand p f => exact readsBack (SlotPred.vrand p f) rfl (by decide) f.word_lt (fits_some (map_word f.ofWord_word))
  | vrandMsk p f m => exact readsBack (SlotPred.vrandMsk p f m) rfl (by decide) f.word_lt (fits_some (masked_word f.ofWord_word m))
  | vcvt p f => exact readsBack (SlotPred.vcvt p f) rfl (by decide) f.word_lt.1 (fits_some (map_word f.ofWord_word))
  | vpack p f => exact readsBack (SlotPred.vpack p f) rfl (by decide) f.word_lt.1 (fits_some (map_word f.ofWord_word))
  | vunpack p f => exact readsBack (SlotPred.vunpack p f) rfl (by decide) f.word_lt.1 (fits_some (map_word f.ofWord_word))
  | vscale p f => exact readsBack (SlotPred.vscale p f) rfl (by decide) f.word_lt (fits_some (map_word f.ofWord_word))
  | vscaleMsk p f m => exact readsBack (SlotPred.vscaleMsk p f m) rfl (by decide) f.word_lt (fits_some (masked_word f.ofWord_word m))
  | ld p f => exact readsBack (SlotPred.ld p f) rfl (by decide) f.word_lt (fits_some (map_word f.ofWord_word))
  | ldExt p f => exact readsBack (SlotPred.ldExt p f) rfl (by decide) f.word_lt.1 (fits_some (map_word f.ofWord_word))
  | st p f => exact readsBack (SlotPred.st p f) rfl (by decide) f.word_lt (fits_some (map_word f.ofWord_word))
  | stExt p f => exact readsBack (SlotPred.stExt p f) rfl (by decide) f.word_lt.1 (fits_some (map_word f.ofWord_word))
  | vld p f => exact readsBack (SlotPred.vld p f) rfl (by decide) f.word_lt (fits_some (map_word f.ofWord_word))
  | vldExt p f => exact readsBack (SlotPred.vldExt p f) rfl (by decide) f.word_lt.1 (fits_some (map_word f.ofWord_word))
  | vst p f => exact readsBack (SlotPred.vst p f) rfl (by decide) f.word_lt (fits_some (map_word f.ofWord_word))
  | vstExt p f => exact readsBack (SlotPred.vstExt p f) rfl (by decide) f.word_lt.1 (fits_some (map_word f.ofWord_word))
  | vldm p f => exact readsBack (SlotPred.vldm p f) rfl (by decide) f.word_lt (fits_some (map_word f.ofWord_word))
  | vldmExt p f => exact readsBack (SlotPred.vldmExt p f) rfl (by decide) f.word_lt.1 (fits_some (map_word f.ofWord_word))
  | vstm p f => exact readsBack (SlotPred.vstm p f) rfl (by decide) f.word_lt (fits_some (map_word f.ofWord_word))
  | vstmExt p f => exact readsBack (SlotPred.vstmExt p f) rfl (by decide) f.word_lt.1 (fits_some (map_word f.ofWord_word))
  | gld p f => exact readsBack (SlotPred.gld p f) rfl (by decide) f.word_lt (fits_some (map_word f.ofWord_word))
  | gst p f => exact readsBack (SlotPred.gst p f) rfl (by decide) f.word_lt (fits_some (map_word f.ofWord_word))
  | amoAdd p f => exact readsBack (SlotPred.amoAdd p f) rfl (by decide) f.word_lt.1 (fits_some (map_word f.ofWord_word))
  | amoMin p f => exact readsBack (SlotPred.amoMin p f) rfl (by decide) f.word_lt.1 (fits_some (map_word f.ofWord_word))
  | amoMax p f => exact readsBack (SlotPred.amoMax p f) rfl (by decide) f.word_lt.1 (fits_some (map_word f.ofWord_word))
  | amoSwap p f => exact readsBack (SlotPred.amoSwap p f) rfl (by decide) f.word_lt.1 (fits_some (map_word f.ofWord_word))
  | amoCas p f => exact readsBack (SlotPred.amoCas p f) rfl (by decide) f.word_lt.1 (fits_some (map_word f.ofWord_word))
  | amoFadd p f => exact readsBack (SlotPred.amoFadd p f) rfl (by decide) f.word_lt.1 (fits_some (map_word f.ofWord_word))
  | xlat p f => exact readsBack (SlotPred.xlat p f) rfl (by decide) f.word_lt (fits_some (map_word f.ofWord_word))
  | hinv p f => exact readsBack (SlotPred.hinv p f) rfl (by decide) f.word_lt (fits_some (map_word f.ofWord_word))
  | tld p f => exact readsBack (SlotPred.tld p f) rfl (by decide) f.word_lt (fits_some (map_word f.ofWord_word))
  | tldTimed p f => exact readsBack (SlotPred.tldTimed p f) rfl (by decide) f.word_lt.1 (fits_some (map_word f.ofWord_word))
  | tst p f => exact readsBack (SlotPred.tst p f) rfl (by decide) f.word_lt (fits_some (map_word f.ofWord_word))
  | tstTimed p f => exact readsBack (SlotPred.tstTimed p f) rfl (by decide) f.word_lt.1 (fits_some (map_word f.ofWord_word))
  | pf p f => exact readsBack (SlotPred.pf p f) rfl (by decide) f.word_lt (fits_some (map_word f.ofWord_word))
  | fenceG p => exact readsBack (SlotPred.fenceG p) rfl (by decide) (by decide) rfl
  | fenceE p => exact readsBack (SlotPred.fenceE p) rfl (by decide) (by decide) rfl
  | fenceN p => exact readsBack (SlotPred.fenceN p) rfl (by decide) (by decide) rfl
  | fenceA p => exact readsBack (SlotPred.fenceA p) rfl (by decide) (by decide) rfl
  | bankmode p f => exact readsBack (SlotPred.bankmode p f) rfl (by decide) f.word_lt (fits_some (map_word f.ofWord_word))
  | cinv p f => exact readsBack (SlotPred.cinv p f) rfl (by decide) f.word_lt (fits_some (map_word f.ofWord_word))
  | cinva p => exact readsBack (SlotPred.cinva p) rfl (by decide) (by decide) rfl
  | qset p f => exact readsBack (SlotPred.qset p f) rfl (by decide) f.word_lt.1 (fits_some (map_word f.ofWord_word))
  | qget p f => exact readsBack (SlotPred.qget p f) rfl (by decide) f.word_lt.1 (fits_some (map_word f.ofWord_word))
  | mma p f => exact readsBack (SlotPred.mma p f) rfl (by decide) f.word_lt.1 (fits_some (map_word f.ofWord_word))
  | mmag p f => exact readsBack (SlotPred.mmag p f) rfl (by decide) f.word_lt.1 (fits_some (map_word f.ofWord_word))
  | aalloc p f => exact readsBack (SlotPred.aalloc p f) rfl (by decide) f.word_lt (fits_some (map_word f.ofWord_word))
  | afree p f => exact readsBack (SlotPred.afree p f) rfl (by decide) f.word_lt (fits_some (map_word f.ofWord_word))
  | aown p f => exact readsBack (SlotPred.aown p f) rfl (by decide) f.word_lt (fits_some (orElse_left (map_word f.ofWord_word)))
  | aownRel p f => exact readsBack (SlotPred.aownRel p f) rfl (by decide) f.word_lt (fits_some (orElse_right (map_none f.not_claim) (map_word f.ofWord_word)))
  | aclr p f => exact readsBack (SlotPred.aclr p f) rfl (by decide) f.word_lt (fits_some (map_word f.ofWord_word))
  | adrain p f => exact readsBack (SlotPred.adrain p f) rfl (by decide) f.word_lt (fits_some (map_word f.ofWord_word))
  | aread p f => exact readsBack (SlotPred.aread p f) rfl (by decide) f.word_lt.1 (fits_some (map_word f.ofWord_word))
  | scanAdd p f => exact readsBack (SlotPred.scanAdd p f) rfl (by decide) f.word_lt (fits_some (map_word f.ofWord_word))
  | scanAddInit p f => exact readsBack (SlotPred.scanAddInit p f) rfl (by decide) f.word_lt.1 (fits_some (map_word f.ofWord_word))
  | scanMul p f => exact readsBack (SlotPred.scanMul p f) rfl (by decide) f.word_lt (fits_some (map_word f.ofWord_word))
  | scanMulInit p f => exact readsBack (SlotPred.scanMulInit p f) rfl (by decide) f.word_lt.1 (fits_some (map_word f.ofWord_word))
  | scanMax p f => exact readsBack (SlotPred.scanMax p f) rfl (by decide) f.word_lt (fits_some (map_word f.ofWord_word))
  | scanMaxInit p f => exact readsBack (SlotPred.scanMaxInit p f) rfl (by decide) f.word_lt.1 (fits_some (map_word f.ofWord_word))
  | scanMin p f => exact readsBack (SlotPred.scanMin p f) rfl (by decide) f.word_lt (fits_some (map_word f.ofWord_word))
  | scanMinInit p f => exact readsBack (SlotPred.scanMinInit p f) rfl (by decide) f.word_lt.1 (fits_some (map_word f.ofWord_word))
  | scanAffine p f => exact readsBack (SlotPred.scanAffine p f) rfl (by decide) f.word_lt.1 (fits_some (map_word f.ofWord_word))
  | scanLse p f => exact readsBack (SlotPred.scanLse p f) rfl (by decide) f.word_lt.1 (fits_some (map_word f.ofWord_word))
  | scanMoment p f => exact readsBack (SlotPred.scanMoment p f) rfl (by decide) f.word_lt (fits_some (map_word f.ofWord_word))
  | scanMomentInit p f => exact readsBack (SlotPred.scanMomentInit p f) rfl (by decide) f.word_lt.1 (fits_some (map_word f.ofWord_word))
  | scanUser p f => exact readsBack (SlotPred.scanUser p f) rfl (by decide) f.word_lt (fits_some (map_word f.ofWord_word))
  | scanUserExt p f => exact readsBack (SlotPred.scanUserExt p f) rfl (by decide) f.word_lt.1 (fits_some (map_word f.ofWord_word))
  | scdef p f => exact readsBack (SlotPred.scdef p f) rfl (by decide) f.word_lt.1 (fits_some (map_word f.ofWord_word))
  | mupd p f => exact readsBack (SlotPred.mupd p f) rfl (by decide) f.word_lt (fits_some (map_word f.ofWord_word))
  | mupdw p f => exact readsBack (SlotPred.mupdw p f) rfl (by decide) f.word_lt (fits_some (map_word f.ofWord_word))
  | mupdwStream p f => exact readsBack (SlotPred.mupdwStream p f) rfl (by decide) f.word_lt.1 (fits_some (map_word f.ofWord_word))
  | mmerge p f => exact readsBack (SlotPred.mmerge p f) rfl (by decide) f.word_lt (fits_some (orElse_left (map_word f.ofWord_word)))
  | mmergeLanes p f => exact readsBack (SlotPred.mmergeLanes p f) rfl (by decide) f.word_lt (fits_some (orElse_right (map_none f.not_plain) (map_word f.ofWord_word)))
  | mclr p f => exact readsBack (SlotPred.mclr p f) rfl (by decide) f.word_lt (fits_some (map_word f.ofWord_word))
  | mdrain p f => exact readsBack (SlotPred.mdrain p f) rfl (by decide) f.word_lt.1 (fits_some (orElse_left (map_word f.ofWord_word)))
  | mdrainNorm p f => exact readsBack (SlotPred.mdrainNorm p f) rfl (by decide) f.word_lt.1 (fits_some (orElse_right (map_none f.not_plain) (map_word f.ofWord_word)))
  | mld p f => exact readsBack (SlotPred.mld p f) rfl (by decide) f.word_lt (fits_some (map_word f.ofWord_word))
  | mst p f => exact readsBack (SlotPred.mst p f) rfl (by decide) f.word_lt (fits_some (map_word f.ofWord_word))
  | cpy p f => exact readsBack (SlotPred.cpy p f) rfl (by decide) f.word_lt.1 (fits_some (map_word f.ofWord_word))
  | cpy2d p f => exact readsBack (SlotPred.cpy2d p f) rfl (by decide) f.word_lt (fits_some (map_word f.ofWord_word))
  | fill p f => exact readsBack (SlotPred.fill p f) rfl (by decide) f.word_lt.1 (fits_some (map_word f.ofWord_word))
  | pub p f => exact readsBack (SlotPred.pub p f) rfl (by decide) f.word_lt (fits_some (map_word f.ofWord_word))
  | pubIndexed p f => exact readsBack (SlotPred.pubIndexed p f) rfl (by decide) f.word_lt.1 (fits_some (map_word f.ofWord_word))
  | pubeos p f => exact readsBack (SlotPred.pubeos p f) rfl (by decide) f.word_lt (fits_some (map_word f.ofWord_word))
  | fetch p f => exact readsBack (SlotPred.fetch p f) rfl (by decide) f.word_lt (fits_some (map_word f.ofWord_word))
  | fetchIndexed p f => exact readsBack (SlotPred.fetchIndexed p f) rfl (by decide) f.word_lt.1 (fits_some (map_word f.ofWord_word))
  | subq p f => exact readsBack (SlotPred.subq p f) rfl (by decide) f.word_lt.1 (fits_some (map_word f.ofWord_word))
  | hbar p => exact readsBack (SlotPred.hbar p) rfl (by decide) (by decide) rfl
  | hbarArrive p => exact readsBack (SlotPred.hbarArrive p) rfl (by decide) (by decide) rfl
  | hbarWait p => exact readsBack (SlotPred.hbarWait p) rfl (by decide) (by decide) rfl
  | coll p f => exact readsBack (SlotPred.coll p f) rfl (by decide) f.word_lt (fits_some (orElse_left (map_word f.ofWord_word)))
  | collRecv p f => exact readsBack (SlotPred.collRecv p f) rfl (by decide) f.word_lt (fits_some (orElse_right (map_none f.not_send) (orElse_left (map_word f.ofWord_word))))
  | collW p f => exact readsBack (SlotPred.collW p f) rfl (by decide) f.word_lt (fits_some (orElse_right (map_none f.not_send) (orElse_right (map_none f.not_recv) (orElse_left (map_word f.ofWord_word)))))
  | collRecvW p f => exact readsBack (SlotPred.collRecvW p f) rfl (by decide) f.word_lt (fits_some (orElse_right (map_none f.not_send) (orElse_right (map_none f.not_recv) (orElse_right (map_none f.not_sendW) (map_word f.ofWord_word)))))
  | cmark p f => exact readsBack (SlotPred.cmark p f) rfl (by decide) f.word_lt (fits_some (orElse_left (map_word f.ofWord_word)))
  | cmarkEnd p f => exact readsBack (SlotPred.cmarkEnd p f) rfl (by decide) f.word_lt (fits_some (orElse_right (map_none f.not_begin) (map_word f.ofWord_word)))
  | csend p f => exact readsBack (SlotPred.csend p f) rfl (by decide) f.word_lt (fits_some (map_word f.ofWord_word))
  | crecv p f => exact readsBack (SlotPred.crecv p f) rfl (by decide) f.word_lt (fits_some (map_word f.ofWord_word))
  | cbar p => exact readsBack (SlotPred.cbar p) rfl (by decide) (by decide) rfl
  | _ => exact fun _ h => nomatch h

/-! ## A slot word decodes -/

/-- The word of a well-formed instruction decodes to it at each position of its class that has its opcode. -/
theorem decodeSlot_word {i : Instr} {e : SlotWord} {pos : Fin 8} (hi : i.wf = true) (he : encode i = some e)
    (hc : slotClass pos = e.cls) (hs : slotHas pos e.op = true) : decodeSlot pos e.word e.ext = .ok i := by
  obtain ⟨hwf, hop, hw, hd⟩ := encode_readsBack i e he
  have hp : e.pred.wf = true := hwf hi
  obtain ⟨c, ⟨r, b⟩, op, w, x⟩ := e
  have hr := r.isLt
  have hb := boolBit_le b
  have hx := boolBit_le x.isSome
  have hop' : SlotWord.word ⟨c, ⟨r, b⟩, op, w, x⟩ / 1048576 % 128 = op := by simp only [SlotWord.word] at *; omega
  have hw' : SlotWord.word ⟨c, ⟨r, b⟩, op, w, x⟩ % 1048576 = w := by simp only [SlotWord.word] at *; omega
  have hp' : predOf (SlotWord.word ⟨c, ⟨r, b⟩, op, w, x⟩) = ⟨r, b⟩ :=
    (Pred.mk.injEq ..).mpr ⟨Fin.ext (by simp only [SlotWord.word] at *; omega), bit_eq (by simp only [SlotWord.word] at *; omega)⟩
  simp only [decodeSlot, hop', hw', hp', hs, hp, hc, hd, hi]
  rfl

/-- Settles O26: the words' fields and the maps' entries agree, instruction by instruction. -/
theorem slotRoundTrip : Obligations.SlotRoundTrip := by
  unfold Obligations.SlotRoundTrip
  intro i e pos hi he hc hs
  obtain ⟨-, hop, hw, -⟩ := encode_readsBack i e he
  exact ⟨rfl, hop, hw, decodeSlot_word hi he hc hs⟩

end Sys2Proof
end

section
/-! The forms that write scalar and predicate registers complete (11 R310 to R320). -/

namespace Sys2Proof.Machine

/-- The request that does a row's work. -/
def SlotSpec.request (x : SlotSpec) : SlotReq := { srcs := x.srcs, dests := x.dests, busy := false, result := .go x.effects }

/-- A slot form whose request is its row's, where the row asks what holds, completes. -/
theorem completes_row {i : Instr} {r : SlotRow} {closing : Bool} {p : Pred} {f : Sem} (he : ∀ s, exec i s = slot closing p f s)
    (h : ∀ env c pos, (r env c pos).ok → (r env c pos).pred = p ∧ (r env c pos).closing = closing ∧ f env c pos = (r env c pos).request) :
    Completes i r :=
  completes_of he fun env c pos hk => by
    obtain ⟨hp, hc, hf⟩ := h env c pos hk
    exact ⟨hp, hc, hf ▸ ⟨rfl, rfl, rfl, rfl⟩⟩

/-- A form whose request is its row's by definition completes. -/
theorem completes_same {i : Instr} {r : SlotRow} {closing : Bool} {p : Pred} {f : Sem} (he : ∀ s, exec i s = slot closing p f s)
    (h : ∀ env c pos, ((r env c pos).pred, (r env c pos).closing, (r env c pos).request) = (p, closing, f env c pos)) : Completes i r :=
  completes_row he fun env c pos _ => by
    have := h env c pos
    simp only [Prod.mk.injEq] at this
    exact ⟨this.1, this.2.1, this.2.2.symm⟩

/-- Settles O1: each form's request is its row's, by the functions it names. -/
theorem scalarRegisterForms : Obligations.ScalarRegisterForms := by
  unfold Obligations.ScalarRegisterForms
  refine ⟨?pairs, ?wides, ?typed, ?singles, ?sel, ?lea, ?madd, ?clamp⟩
  case pairs =>
    simp only [scalarPairs, List.forall_mem_cons, List.not_mem_nil, false_implies, implies_true, and_true]
    refine ⟨?_, ?_, ?_, ?_, ?_, ?_, ?_, ?_, ?_, ?_⟩ <;> exact fun p f => completes_same (fun _ => rfl) fun _ _ _ => rfl
  case wides =>
    simp only [scalarWides, List.forall_mem_cons, List.not_mem_nil, false_implies, implies_true, and_true]
    refine ⟨?_, ?_, ?_⟩ <;> exact fun p f => completes_same (fun _ => rfl) fun _ _ _ => rfl
  case typed =>
    simp only [scalarTyped, List.forall_mem_cons, List.not_mem_nil, false_implies, implies_true, and_true]
    refine ⟨?_, ?_⟩ <;> exact fun p f => completes_same (fun _ => rfl) fun _ _ _ => rfl
  case singles =>
    simp only [scalarSingles, List.forall_mem_cons, List.not_mem_nil, false_implies, implies_true, and_true]
    refine ⟨?_, ?_, ?_, ?_, ?_⟩ <;> exact fun p f => completes_same (fun _ => rfl) fun _ _ _ => rfl
  case sel => exact fun p f => completes_same (fun _ => rfl) fun _ _ _ => rfl
  case lea => exact fun p f => completes_same (fun _ => rfl) fun _ _ _ => rfl
  case madd => exact fun p f => completes_same (fun _ => rfl) fun _ _ _ => rfl
  case clamp => exact fun p f => completes_same (fun _ => rfl) fun _ _ _ => rfl

/-- Settles O2: each form's request is its row's, by the functions it names. -/
theorem scalarImmediateForms : Obligations.ScalarImmediateForms := by
  unfold Obligations.ScalarImmediateForms
  refine ⟨?addi, ?addiExt, ?shifts, ?ext, ?ins, ?li, ?liExt, ?lih, ?lihExt⟩
  case shifts =>
    simp only [scalarShifts, List.forall_mem_cons, List.not_mem_nil, false_implies, implies_true, and_true]
    refine ⟨?_, ?_, ?_⟩ <;> exact fun p f => completes_same (fun _ => rfl) fun _ _ _ => rfl
  all_goals exact fun p f => completes_same (fun _ => rfl) fun _ _ _ => rfl

/-- Settles O3: each form's request is its row's, the order of words being that of their values. -/
theorem compareAndPredicateForms : Obligations.CompareAndPredicateForms := by
  unfold Obligations.CompareAndPredicateForms
  refine ⟨?compares, ?pairs, ?singles⟩
  case compares =>
    simp only [compareRel, List.forall_mem_cons, List.not_mem_nil, false_implies, implies_true, and_true]
    refine ⟨?_, ?_, ?_, ?_⟩ <;> exact fun p => ⟨fun f => completes_same (fun _ => rfl) fun _ _ _ => rfl,
      fun f => completes_same (fun _ => rfl) fun _ _ _ => rfl, fun f => completes_same (fun _ => rfl) fun _ _ _ => rfl⟩
  case pairs =>
    simp only [predPairs, List.forall_mem_cons, List.not_mem_nil, false_implies, implies_true, and_true]
    refine ⟨?_, ?_, ?_⟩ <;> exact fun p f => completes_same (fun _ => rfl) fun _ _ _ => rfl
  case singles =>
    simp only [predSingles, List.forall_mem_cons, List.not_mem_nil, false_implies, implies_true, and_true]
    refine ⟨?_, ?_⟩ <;> exact fun p f => completes_same (fun _ => rfl) fun _ _ _ => rfl

end Sys2Proof.Machine
end

section
/-! The BR forms complete (11 R321 to R336, 14 R402, R403). -/

namespace Sys2Proof.Machine

/-! ## Transfers and loops (11 R321 to R328) -/

/-- An even target inside the window is allowed. -/
theorem jumpTo_good {t : Int} {pops : Bool} {es : List Effect} (h : 0 ≤ t ∧ t < (windowEnd : Int) ∧ t % 2 = 0) :
    jumpTo t pops es = .go (.jump t.toNat pops :: es) := by
  obtain ⟨h0, h1, h2⟩ := h
  refine checked_none (trapIf_false ?_)
  simp only [Bool.or_eq_false_iff, decide_eq_false_iff_not]
  omega

/-- A branch that is not taken, or is taken to an allowed target. -/
theorem brcReq_good {c : Core} {a : Fin 32} {ta : Bool} {k : Cond} {t : Int}
    (h : condHolds k (c.regs.gets a) = true → 0 ≤ t ∧ t < (windowEnd : Int) ∧ t % 2 = 0) :
    brcReq c a ta k t = plainReq [(.s a, ta)] (.go (if condHolds k (c.regs.gets a) then [.jump t.toNat true] else [])) := by
  unfold brcReq
  cases hk : condHolds k (c.regs.gets a) with
  | false => rfl
  | true => exact congrArg (plainReq _) (jumpTo_good (h hk))

/-- Settles O4: an allowed target is no trap. -/
theorem transferForms : Obligations.TransferForms := by
  unfold Obligations.TransferForms
  refine ⟨?br, ?brc, ?brcExt, ?jr, ?call, ?ret⟩
  case brc => exact fun p f => completes_row (fun _ => rfl) fun _ _ _ h => ⟨rfl, rfl, brcReq_good h⟩
  case brcExt => exact fun p f => completes_row (fun _ => rfl) fun _ _ _ h => ⟨rfl, rfl, brcReq_good h⟩
  case br => exact fun p f => completes_row (fun _ => rfl) fun _ _ _ h => ⟨rfl, rfl, congrArg (plainReq _) (jumpTo_good h)⟩
  case jr => exact fun p f => completes_row (fun _ => rfl) fun _ _ _ h => ⟨rfl, rfl, congrArg (plainReq _) (jumpTo_good h)⟩
  case call => exact fun p f => completes_row (fun _ => rfl) fun _ _ _ h => ⟨rfl, rfl, congrArg (SlotReq.mk _ _ _) (jumpTo_good h)⟩
  case ret => exact fun p => completes_row (fun _ => rfl) fun _ _ _ h => ⟨rfl, rfl, congrArg (plainReq _) (jumpTo_good h)⟩

section Loop
variable {c : Core} {stop : Nat} {count : Word} (hstop : stop ≤ c.codeEnd)

include hstop in
theorem loopResult_push (hn : count ≠ 0) (hroom : c.loops.length < 4) :
    loopResult c stop count = .go [.loopPush (c.issue.pc + c.bundleLen) stop count] := by
  rw [loopResult, if_neg (by omega), if_neg hn, if_neg (by omega)]

include hstop in
theorem loopResult_none (hwin : stop < windowEnd) (heven : stop % 2 = 0) : loopResult c stop 0 = .go [.jump stop true] := by
  rw [loopResult, if_neg (by omega), if_pos rfl, jumpTo_good (by omega)]
  rfl

end Loop

/-- Settles O5: a loop pushes its entry, or transfers to its end. -/
theorem loopForms : Obligations.LoopForms := by
  unfold Obligations.LoopForms
  refine ⟨fun p f => ?push, fun p f => ?zero, fun p f => ?const⟩
  case push =>
    exact completes_row (fun _ => rfl) fun _ _ _ ⟨hs, hn, hr⟩ => ⟨rfl, rfl, congrArg (plainReq _) (loopResult_push hs hn hr)⟩
  case zero =>
    refine completes_row (fun _ => rfl) fun _ c _ ⟨hs, hn, hw, he⟩ => ⟨rfl, rfl, congrArg (plainReq _) ?_⟩
    rw [hn]
    exact loopResult_none hs hw (by omega)
  case const =>
    refine completes_row (fun _ => rfl) fun _ c _ ⟨hs, hr⟩ => ⟨rfl, rfl, congrArg (plainReq _) (loopResult_push hs ?_ hr)⟩
    intro h
    have := congrArg BitVec.toNat h
    rw [BitVec.toNat_ofNat, show (0 : Word).toNat = 0 from rfl] at this
    omega

/-! ## Waits, ends, sections and system registers (11 R329 to R336) -/

/-- Settles O6: each form's request is its row's, the order of words being that of their values. -/
theorem waitAndEndForms : Obligations.WaitAndEndForms := by
  unfold Obligations.WaitAndEndForms
  refine ⟨fun p f => ?xwait, fun p f => ?twait, ?retire, ?trigger, ?trap, ?brk, ?begin, ?stop⟩
  case xwait => exact completes_same (fun _ => rfl) fun _ _ _ => rfl
  case twait => exact completes_same (fun _ => rfl) fun _ _ _ => rfl
  case retire => exact fun p => completes_same (fun _ => rfl) fun _ _ _ => rfl
  case trigger => exact fun p => completes_same (fun _ => rfl) fun _ _ _ => rfl
  case trap => exact fun p f => completes_same (fun _ => rfl) fun _ _ _ => rfl
  case brk => exact fun p f => completes_same (fun _ => rfl) fun _ _ _ => rfl
  case begin => exact fun p => completes_same (fun _ => rfl) fun _ _ _ => rfl
  case stop => exact fun p => completes_same (fun _ => rfl) fun _ _ _ => rfl

theorem slow_iff (r : SysReg) : SysReg.slow r = true ↔ r = .waferCaps ∨ r = .partHop ∨ r = .wcc := by cases r <;> simp [SysReg.slow]

/-- A request whose sources are full and good, and whose destinations are free, comes to its own result. -/
theorem judge_ready {q : SlotReq} {c : Core} {pos : Fin 8} (hf : ∀ x ∈ q.srcs, c.regs.full x.1 = true) (hg : ∀ x ∈ q.srcs, x.1 ∉ c.regs.bad)
    (hd : ∀ r ∈ q.dests, c.pending r = false) (hb : q.busy = false) : q.judge c pos = q.result := by
  have hp : q.dests.any c.pending = false := List.any_eq_false.mpr fun r hr => by simp [hd r hr]
  have hbad : c.badSource q.srcs = false := List.any_eq_false.mpr fun x hx => by simp [hg x hx]
  simp [SlotReq.judge, stalls_full hf, hp, hb, hbad]

/-- Settles O7: a read's latency is by the register, a write of a reserved bit is the form's own trap. -/
theorem systemRegisterForms : Obligations.SystemRegisterForms := by
  unfold Obligations.SystemRegisterForms
  refine ⟨fun p f => ?srd, fun p f hr => ?fpcr, fun p f k hr => ?key, fun p f s c hl hp hf hg hroom hx => ?bad, ?cfgq, ?wccr⟩
  case srd =>
    refine completes_same (fun _ => rfl) fun env c pos => ?_
    simp only [SlotSpec.request, ← slow_iff]
  case fpcr =>
    refine completes_row (fun _ => rfl) fun _ c _ h => ⟨rfl, rfl, ?_⟩
    simp only [hr]
    exact congrArg (plainReq _) (if_neg (Classical.not_not.mpr h))
  case key =>
    refine completes_row (fun _ => rfl) fun _ c _ h => ⟨rfl, rfl, ?_⟩
    simp only [hr]
    exact congrArg (plainReq _) (if_neg (Nat.not_le.mpr h))
  case bad =>
    refine slot_traps hl hp ?_ hroom
    rw [judge_ready (by simpa [plainReq, srcS] using hf) (by simpa [plainReq, srcS] using hg) (by simp [plainReq]) rfl]
    rcases hx with ⟨hr, hx⟩ | ⟨⟨k, hr⟩, hx⟩
    · simp only [plainReq, hr]; exact if_pos hx
    · simp only [plainReq, hr]; exact if_pos hx
  case cfgq => exact fun p f => completes_same (fun _ => rfl) fun _ _ _ => rfl
  case wccr => exact fun p f => completes_same (fun _ => rfl) fun _ _ _ => rfl

end Sys2Proof.Machine
end

section
/-! The vector forms complete (12 R338 to R352). -/

namespace Sys2Proof.Machine

/-! ## Lanes (12 R338) -/

theorem eachLane_one (c : Core) (a : Fin 32) (g : Fin 16 → Lane × FpFlags) :
    eachLane c [a] g = fun l => if laneOk c.regs.v[a] l then .of (g l) else .invalid := by
  funext l
  simp only [eachLane, List.all_cons, List.all_nil, Bool.and_true]
  rfl

theorem eachLane_two (c : Core) (a b : Fin 32) (g : Fin 16 → Lane × FpFlags) :
    eachLane c [a, b] g = fun l => if laneOk c.regs.v[a] l && laneOk c.regs.v[b] l then .of (g l) else .invalid := by
  funext l
  simp only [eachLane, List.all_cons, List.all_nil, Bool.and_true]
  rfl

theorem eachLane_three (c : Core) (a b d : Fin 32) (g : Fin 16 → Lane × FpFlags) :
    eachLane c [a, b, d] g =
      fun l => if laneOk c.regs.v[a] l && laneOk c.regs.v[b] l && laneOk c.regs.v[d] l then .of (g l) else .invalid := by
  funext l
  simp only [eachLane, List.all_cons, List.all_nil, Bool.and_true, Bool.and_assoc]
  rfl

/-- A form whose selected lanes are a row's completes as the row does. -/
theorem completes_lanes {i : Instr} {p : Pred} {d : Fin 32} {m : Fin 8} {srcs : List Src} {lat : Nat} {f g : Core → Fin 16 → LaneOut}
    (he : ∀ s, exec i s = slot false p (fun _ c _ => vecReq c srcs d m lat (g c)) s) (hfg : ∀ c, f c = g c) :
    Completes i (laneRow p d m srcs lat f) :=
  completes_row he fun _ c _ _ => ⟨rfl, rfl, by rw [laneRow, SlotSpec.request, hfg]; rfl⟩

theorem completes_vec1 {i : Instr} {p : Pred} {d a : Fin 32} {ta : Bool} {m : Fin 8} {lat : Nat} {g : Lane → Lane × FpFlags}
    (he : ∀ s, exec i s = slot false p (vec1 lat g d a ta m) s) :
    Completes i (laneRow p d m [(.v a, ta)] lat fun c => eachLane c [a] fun l => g c.regs.v[a].elem[l]) :=
  completes_lanes he fun c => eachLane_one c a _

theorem completes_vec2 {i : Instr} {p : Pred} {f : Form.R3} {m : Fin 8} {lat : Nat} {g : Core → Lane → Lane → Lane × FpFlags}
    (he : ∀ s, exec i s = slot false p (fun env c => vec2 lat (g c) f.d f.a f.ta f.b f.tb m env c) s) :
    Completes i (pairLanes p f m lat g) :=
  completes_lanes he fun c => eachLane_two c f.a f.b _

theorem completes_vec3 {i : Instr} {p : Pred} {d a b k : Fin 32} {ta tb tk : Bool} {m : Fin 8} {lat : Nat}
    {g : Core → Lane → Lane → Lane → Lane × FpFlags}
    (he : ∀ s, exec i s = slot false p
      (fun _ c _ => vecReq c [srcV a ta, srcV b tb, srcV k tk] d m lat (lane3 c.regs.v[a] c.regs.v[b] c.regs.v[k] (g c))) s) :
    Completes i (laneRow p d m [(.v a, ta), (.v b, tb), (.v k, tk)] lat fun c => eachLane c [a, b, k] fun l =>
      g c c.regs.v[a].elem[l] c.regs.v[b].elem[l] c.regs.v[k].elem[l]) :=
  completes_lanes he fun c => eachLane_three c a b k _

theorem completes_cmpVec {i : Instr} {p : Pred} {d m : Fin 8} {a b : Fin 32} {ta tb : Bool} {lat : Nat} {g : Lane → Lane → Bool × FpFlags}
    (he : ∀ s, exec i s = slot false p (cmpVec lat g d a ta b tb m) s) : Completes i (maskRow p d m a ta b tb lat g) :=
  completes_row he fun _ c _ _ => ⟨rfl, rfl, by simp only [maskRow, SlotSpec.request, eachLane_two]; rfl⟩

/-- Settles O8: each form's lanes are its row's. -/
theorem vectorFloatForms : Obligations.VectorFloatForms := by
  unfold Obligations.VectorFloatForms
  refine ⟨?rounding, ?fused, ?exact2, ?exact1, ?clamp⟩
  case rounding =>
    simp only [roundPairs, List.forall_mem_cons, List.not_mem_nil, false_implies, implies_true, and_true]
    refine ⟨?_, ?_, ?_, ?_⟩ <;> exact fun p f => ⟨completes_vec2 fun _ => rfl, fun m => completes_vec2 fun _ => rfl⟩
  case fused =>
    simp only [fusedForms, List.forall_mem_cons, List.not_mem_nil, false_implies, implies_true, and_true]
    refine ⟨?_, ?_, ?_⟩ <;> exact fun p f => completes_vec3 (g := fun c => fpFma (arithMode f.rms c.fpcr) _ _) fun _ => rfl
  case exact2 =>
    simp only [exactPairs, List.forall_mem_cons, List.not_mem_nil, false_implies, implies_true, and_true]
    refine ⟨?_, ?_, ?_, ?_, ?_, ?_, ?_, ?_, ?_⟩ <;> exact fun p f => ⟨completes_vec2 fun _ => rfl, fun m => completes_vec2 fun _ => rfl⟩
  case exact1 =>
    simp only [exactSingles, List.forall_mem_cons, List.not_mem_nil, false_implies, implies_true, and_true]
    refine ⟨?_, ?_⟩ <;> exact fun p f => ⟨completes_vec1 fun _ => rfl, fun m => completes_vec1 fun _ => rfl⟩
  case clamp => exact fun p f => completes_vec3 (g := fun _ => fpClamp) fun _ => rfl

/-- Settles O9: each form's lanes are its row's. -/
theorem vectorIntegerAndCompareForms : Obligations.VectorIntegerAndCompareForms := by
  unfold Obligations.VectorIntegerAndCompareForms
  refine ⟨?integer, ?fp, ?int⟩
  case integer =>
    simp only [integerPairs, List.forall_mem_cons, List.not_mem_nil, false_implies, implies_true, and_true]
    refine ⟨?_, ?_, ?_, ?_, ?_⟩ <;> exact fun p f => ⟨completes_vec2 fun _ => rfl, fun m => completes_vec2 fun _ => rfl⟩
  case fp =>
    simp only [fpCompares, List.forall_mem_cons, List.not_mem_nil, false_implies, implies_true, and_true]
    refine ⟨?_, ?_, ?_, ?_⟩ <;> exact fun p f => ⟨completes_cmpVec fun _ => rfl, fun m => completes_cmpVec fun _ => rfl⟩
  case int =>
    simp only [intCompares, List.forall_mem_cons, List.not_mem_nil, false_implies, implies_true, and_true]
    refine ⟨?_, ?_, ?_⟩ <;> exact fun p f => ⟨completes_cmpVec fun _ => rfl, fun m => completes_cmpVec fun _ => rfl⟩

/-! ## Lane moves (12 R343, R346) -/

/-- A lane given as valid or not, its element kept where it is. -/
theorem validLane_eq (x : Token) (v : Bool) (l : Fin 16) : moveLane (if v then x.elem[l] else 0) v = validLane x v l := by
  cases v <;> rfl

/-- Settles O10: each form's lanes are its row's. -/
theorem laneMoveForms : Obligations.LaneMoveForms := by
  unfold Obligations.LaneMoveForms
  refine ⟨?vsel, ?vbcast, ?vext, ?vins, ?vperm, ?vshift, ?vrot, ?vmov, ?vmovAnd, ?vmovSet⟩
  case vext => exact fun p f => completes_same (fun _ => rfl) fun _ _ _ => rfl
  case vins => exact fun p f => completes_same (fun _ => rfl) fun _ _ _ => rfl
  case vmovAnd =>
    exact fun f => ⟨fun p => completes_lanes (fun _ => rfl) fun c => funext fun l => validLane_eq ..,
      fun p m => completes_lanes (fun _ => rfl) fun c => funext fun l => validLane_eq ..⟩
  case vmovSet =>
    exact fun f => ⟨fun p => completes_lanes (fun _ => rfl) fun c => funext fun l => validLane_eq ..,
      fun p m => completes_lanes (fun _ => rfl) fun c => funext fun l => validLane_eq ..⟩
  all_goals exact fun f => ⟨fun p => completes_lanes (fun _ => rfl) fun _ => rfl, fun p m => completes_lanes (fun _ => rfl) fun _ => rfl⟩

/-! ## Reductions and masks (12 R344, R345) -/

/-- A level of the manual's tree is a level of the model's. -/
theorem treeLevel_eq (g : Lane → Lane → Lane × FpFlags) :
    ∀ l : List (Option Lane × FpFlags), treeLevel g l = redLevel (redOp g) l
  | [] => rfl
  | [(some _, _)] => rfl
  | [(none, _)] => rfl
  | (some x, i) :: (some y, j) :: l => by rw [treeLevel, treeLevel_eq g l]; rfl
  | (some x, i) :: (none, j) :: l => by rw [treeLevel, treeLevel_eq g l]; rfl
  | (none, i) :: (y, j) :: l => by rw [treeLevel, treeLevel_eq g l]; rfl

theorem treeLeaves_eq (c : Core) (a : Fin 32) (m : Fin 8) :
    treeLeaves c a m = laneList.map fun l =>
      if (c.regs.selected m).getLsbD l.val && laneOk c.regs.v[a] l then (some c.regs.v[a].elem[l], (0 : FpFlags)) else (none, 0) := by
  unfold treeLeaves
  rw [show List.finRange 16 = laneList by decide]
  simp only [Bool.and_eq_true, laneOk]

theorem completes_reduce {i : Instr} {p : Pred} {d a : Fin 32} {ta : Bool} {m : Fin 8} {g : Core → Lane → Lane → Lane × FpFlags}
    (he : ∀ s, exec i s = slot false p (reduceReq g d a ta m) s) : Completes i (reduceRow p d a ta m g) :=
  completes_row he fun _ c _ _ => ⟨rfl, rfl, by
    simp only [reduceRow, SlotSpec.request, treeTop, treeLevel_eq, treeLeaves_eq]
    unfold reduceReq redTree
    simp only
    congr 5⟩

/-- The lowest one bit is as far up as the zero bits below it. -/
theorem firstBit_eq (x : BitVec 16) : ∀ (l : List (Fin 16)) (n : Nat), l.map Fin.val = List.range' n l.length → n + l.length = 16 →
    firstBit x l = n + (l.takeWhile fun k => !x.getLsbD k.val).length
  | [], n, _, h => by simp at h; simp [firstBit, h]
  | k :: l, n, hl, h => by
    simp only [List.map_cons, List.length_cons, List.range'_succ, List.cons.injEq] at hl h
    cases hk : x.getLsbD k.val with
    | true => rw [firstBit, if_pos hk, List.takeWhile_cons_of_neg (by simp only [hk]; decide), hl.1]; rfl
    | false =>
      rw [firstBit, if_neg (by simp only [hk]; decide), firstBit_eq x l (n + 1) hl.2 (by omega),
        List.takeWhile_cons_of_pos (by simp only [hk]; decide), List.length_cons]
      omega

/-- Settles O11: the tree of the reductions level by level, the masks by their bits. -/
theorem reductionAndMaskForms : Obligations.ReductionAndMaskForms := by
  unfold Obligations.ReductionAndMaskForms
  refine ⟨?sum, ?extreme, ?and, ?or, ?xor, ?not, ?valid, ?pop, ?first⟩
  case sum => exact fun p f => ⟨completes_reduce fun _ => rfl, fun m => completes_reduce fun _ => rfl⟩
  case extreme =>
    simp only [extremeForms, List.forall_mem_cons, List.not_mem_nil, false_implies, implies_true, and_true]
    refine ⟨?_, ?_⟩ <;> exact fun p f => ⟨completes_reduce fun _ => rfl, fun m => completes_reduce fun _ => rfl⟩
  case first =>
    refine fun p f => completes_row (fun _ => rfl) fun _ c _ _ => ⟨rfl, rfl, ?_⟩
    simp only [firstBit_eq c.regs.m[f.a] laneList 0 (by decide) (by decide), Nat.zero_add]
    rfl
  all_goals exact fun p f => completes_same (fun _ => rfl) fun _ _ _ => rfl

/-! ## Special functions and conversions (12 R347 to R351) -/

/-- The decoders are there where a format asks for them. -/
theorem taperTrap_none {env : Env} {pos : Fin 8} {a b : Fmt}
    (h : (a = .t8 ∨ a = .t6 ∨ b = .t8 ∨ b = .t6) → env.caps.toNat / 2 % 2 = 1) : taperTrap env pos a b = none := by
  refine trapIf_false ?_
  by_cases ht : a = .t8 ∨ a = .t6 ∨ b = .t8 ∨ b = .t6
  · simp [bits, h ht]
  · simp_all [isTapered]

/-- Settles O12: each form's lanes are its row's, and no tapered format lacks its decoders. -/
theorem specialAndConversionForms : Obligations.SpecialAndConversionForms := by
  unfold Obligations.SpecialAndConversionForms
  refine ⟨?special, ?rand, ?cvt, ?pack, ?unpack⟩
  case special =>
    simp only [specialForms, List.forall_mem_cons, List.not_mem_nil, false_implies, implies_true, and_true]
    refine ⟨?_, ?_, ?_, ?_, ?_, ?_, ?_⟩ <;>
      exact fun p f => ⟨completes_lanes (fun _ => rfl) fun c => eachLane_one c f.a _,
        fun m => completes_lanes (fun _ => rfl) fun c => eachLane_one c f.a _⟩
  case rand =>
    exact fun p f => ⟨completes_lanes (fun _ => rfl) fun c => eachLane_one c f.a _,
      fun m => completes_lanes (fun _ => rfl) fun c => eachLane_one c f.a _⟩
  case cvt =>
    refine fun p f => completes_row (fun _ => rfl) fun _ c _ h => ⟨rfl, rfl, ?_⟩
    simp only [taperTrap_none h, eachLane_one]
    rfl
  case pack =>
    refine fun p f => completes_row (fun _ => rfl) fun _ c _ h => ⟨rfl, rfl, ?_⟩
    simp only [taperTrap_none h]
    rfl
  case unpack =>
    refine fun p f => completes_row (fun _ => rfl) fun _ c _ h => ⟨rfl, rfl, ?_⟩
    simp only [taperTrap_none h]
    rfl

end Sys2Proof.Machine
end

section
/-! The LS forms and the copies complete (13 R377 to R379, 14 R382 to R392). -/

namespace Sys2Proof.Machine

/-! ## Checks that pass -/

/-- A request that nothing holds and no check refuses. -/
theorem request_checked {srcs : List Src} {dests : List FullReg} {b : Bool} {t : Option TrapInfo} {r : SlotResult} (hb : b = false)
    (ht : t = none) : (SlotReq.mk srcs dests b (checked t r)) = { srcs, dests, busy := false, result := r } := by
  rw [hb, ht]; rfl

@[simp] theorem trapIf_eq_none (b : Bool) (t : TrapInfo) : trapIf b t = none ↔ b = false := by cases b <;> simp [trapIf]

@[simp] theorem firstTrap_eq_none (l : List (Option TrapInfo)) : firstTrap l = none ↔ ∀ x ∈ l, x = none := by
  refine ⟨fun h => ?_, firstTrap_none⟩
  induction l with
  | nil => simp
  | cons x l ih =>
    cases x with
    | some t => cases h
    | none => simpa using ih h

section Window
variable {c : Core} {x : Span} {slot : Fin 8} {a : Nat}

theorem Readable.windowTrap (h : Readable c x) : c.windowTrap slot a x false = none := by
  simp [Core.windowTrap, h.inside, h.scratch]

theorem Writable.windowTrap (h : Writable c x) : c.windowTrap slot a x true = none := by
  simp [Core.windowTrap, h.inside, h.scratch, h.code]

end Window

/-- A load whose interval may be read and holds no word in error traps nothing. -/
theorem loadTrap_none {c : Core} {slot : Fin 8} {ea : Word} {size : Nat} {vec : Bool} (ha : vec = true → ea.toNat % 4 = 0)
    (h : Readable c (lsSpan ea size)) (hb : c.badIn (lsSpan ea size) = false) : c.loadTrap slot ea size vec = none := by
  simpa [Core.loadTrap, Core.lsTrap, h.windowTrap, hb] using ha

theorem lsTrap_write_none {c : Core} {slot : Fin 8} {ea : Word} {size : Nat} {vec : Bool} (ha : vec = true → ea.toNat % 4 = 0)
    (h : Writable c (lsSpan ea size)) : c.lsTrap slot ea size vec true = none := by
  simpa [Core.lsTrap, h.windowTrap] using ha

theorem pageTrap_none {h : Handle} {off : Word} {size : Nat} {t : Byte → TrapInfo} (hv : h.valid = true)
    (hp : off.toNat + size ≤ h.size.bytes) : pageTrap h off size t = none := by
  simp [pageTrap, hv, hp]

/-- An access that a handle allows traps nothing. -/
theorem Reaches.globalTrap {c : Core} {slot : Fin 8} {h : Handle} {off : Word} {size : Nat} {access : Fin 8}
    (hr : Reaches h off size access) : c.globalTrap slot h off size access = none := by
  simp [Core.globalTrap, pageTrap_none hr.valid hr.page, hr.aligned, hr.permit]

theorem streamsTrap_none {c : Core} {slot : Fin 8} {l : List (Desc × Bool)} (h : ∀ y ∈ l, StreamOk c y.1 y.2) :
    c.streamsTrap slot l = none := by
  have hen : l.any (fun x => !x.1.en) = false := List.any_eq_false.mpr fun y hy => by simp [(h y hy).en]
  have hs : firstStream l (fun x => !c.scratchOnly x.1.hull) = none := List.find?_eq_none.mpr fun y hy => by simp [(h y hy).scratch]
  have hc : firstStream l (fun x => x.2 && c.meetsCode x.1.hull) = none := List.find?_eq_none.mpr fun y hy => by
    cases hw : y.2 with
    | false => simp
    | true => simp [(h y hy).code hw]
  simp [Core.streamsTrap, hen, hs, hc]

/-! ## Loads and stores of the scratchpad (14 R382 to R384) -/

section Scratchpad
variable {i : Instr} {p : Pred} {d a : Fin 32} {ta td : Bool} {ty : Ty} {ea : Word → Word} {mask : Regs → BitVec 16}

theorem completes_ld (he : ∀ s, exec i s = slot false p (fun _ c k => ldReq c k d a ta ty (ea (c.regs.gets a))) s) :
    Completes i (loadRow p d a ta ty ea) :=
  completes_row he fun _ _ _ ⟨hr, hb⟩ => ⟨rfl, rfl, request_checked hr.clear (loadTrap_none nofun hr hb)⟩

theorem completes_vld (he : ∀ s, exec i s = slot false p (fun _ c k => vldReq c k d a ta (mask c.regs) (ea (c.regs.gets a))) s) :
    Completes i (vloadRow p d a ta mask ea) :=
  completes_row he fun _ _ _ ⟨ha, hr, hb⟩ => ⟨rfl, rfl, request_checked hr.clear (loadTrap_none (fun _ => ha) hr hb)⟩

theorem completes_st (he : ∀ s, exec i s = slot false p (fun _ c k => stReq c k d a ta td ty (ea (c.regs.gets a))) s) :
    Completes i (storeRow p d a ta td ty ea) :=
  completes_row he fun _ _ _ hw => ⟨rfl, rfl, request_checked hw.clear (lsTrap_write_none nofun hw)⟩

theorem completes_vst (he : ∀ s, exec i s = slot false p (fun _ c k => vstReq c k d a ta td (mask c.regs) (ea (c.regs.gets a))) s) :
    Completes i (vstoreRow p d a ta td mask ea) :=
  completes_row he fun _ _ _ ⟨ha, hw⟩ => ⟨rfl, rfl, request_checked hw.clear (lsTrap_write_none (fun _ => ha) hw)⟩

end Scratchpad

/-- Settles O13: each form is a load or a store at its own address. -/
theorem scratchpadForms : Obligations.ScratchpadForms := by
  unfold Obligations.ScratchpadForms
  refine ⟨?ld, ?ldExt, ?st, ?stExt, ?vld, ?vldExt, ?vst, ?vstExt, ?vldm, ?vldmExt, ?vstm, ?vstmExt⟩
  case ld => exact fun p f => completes_ld fun _ => rfl
  case ldExt => exact fun p f => completes_ld fun _ => rfl
  case st => exact fun p f => completes_st fun _ => rfl
  case stExt => exact fun p f => completes_st fun _ => rfl
  case vld => exact fun p f => completes_vld fun _ => rfl
  case vldExt => exact fun p f => completes_vld fun _ => rfl
  case vldm => exact fun p f => completes_vld fun _ => rfl
  case vldmExt => exact fun p f => completes_vld fun _ => rfl
  case vst => exact fun p f => completes_vst fun _ => rfl
  case vstExt => exact fun p f => completes_vst fun _ => rfl
  case vstm => exact fun p f => completes_vst fun _ => rfl
  case vstmExt => exact fun p f => completes_vst fun _ => rfl

/-! ## Global accesses (14 R385, R386) -/

theorem completes_amo {i : Instr} {p : Pred} {op : Nat} {ty : Ty} {d a : Fin 32} {h : Fin 16} {th ta : Bool} {srcs : List Src}
    {x y : Regs → Word} (he : ∀ s, exec i s = slot true p (fun env c k => amoReq env c k op ty d h th a ta srcs (x c.regs) (y c.regs)) s) :
    Completes i (amoRow p op ty d h th a ta srcs x y) :=
  completes_row he fun _ _ _ ⟨hr, hq⟩ => ⟨rfl, rfl, request_checked hq hr.globalTrap⟩

/-- A slot that releases the gate and can run issues with its group. -/
theorem slot_issues_release {s : State} {c : Core} {pos : Fin 8} {i : Instr} {closing : Bool} {p : Pred} {f : Sem} {srcs : List Src}
    {dests : List FullReg} {es : List Effect} (h : LastSlot s c pos i) (hc : CanRun c p srcs dests es)
    (hs : (f (s.env s.focus) c pos).srcs = srcs) (hd : (f (s.env s.focus) c pos).dests = dests)
    (hb : (f (s.env s.focus) c pos).busy = false) (hr : (f (s.env s.focus) c pos).result = .goRelease es) :
    slot closing p f s = .next (s.issued c closing (.goRelease es)) := by
  have hj : (f (s.env s.focus) c pos).judge c pos = .goRelease es := by
    rw [judge_ready (hs ▸ hc.full) (hs ▸ hc.good) (hd ▸ hc.free) hb, hr]
  rw [slot_at closing p f h.core, runSlot_last h.todo, hc.runs, if_pos rfl, hj,
    closeGroup_issues (d := c.joined closing (.goRelease es)) h.hold h.trap (by rw [waitsOk_joined]; exact h.waits) hc.room]
  rfl

/-- Settles O14: an access that its handle allows makes its request. -/
theorem globalForms : Obligations.GlobalForms := by
  unfold Obligations.GlobalForms
  refine ⟨fun p f => ?load, fun p f s c pos hl hr hq hg hc => ?gated, fun p f => ?store, ?add, ?min, ?max, ?swap, ?cas, ?fadd⟩
  case load =>
    refine completes_row (fun _ => rfl) fun _ c _ ⟨hr, hq, hg⟩ => ⟨rfl, rfl, ?_⟩
    simp only [hg, Bool.false_eq_true, if_false]
    exact request_checked hq hr.globalTrap
  case gated => exact slot_issues_release hl hc rfl rfl hq (by simp only [hg, if_true, hr.globalTrap]; rfl)
  case store => exact completes_row (fun _ => rfl) fun _ c _ ⟨hr, hq⟩ => ⟨rfl, rfl, request_checked hq hr.globalTrap⟩
  case cas => exact fun p f => completes_amo fun _ => rfl
  case fadd => exact fun p f => completes_amo fun _ => rfl
  all_goals exact fun p f => completes_amo fun _ => rfl

/-! ## Handles, the cache, fences (14 R387, R388, R391, R392) -/

/-- Settles O15: each form's checks pass where its row says so. -/
theorem handleCacheAndFenceForms : Obligations.HandleCacheAndFenceForms := by
  unfold Obligations.HandleCacheAndFenceForms
  refine ⟨fun p f => ?xlat, fun p f => ?hinv, fun p f => ?pf, fun p f => ?cinv, ?cinva, ?fenceG, ?fenceE, ?fenceN, ?fenceA, fun p f => ?bankmode⟩
  case xlat =>
    exact completes_row (fun _ => rfl) fun _ c _ h => ⟨rfl, rfl, request_checked rfl (trapIf_false (decide_eq_false (Nat.not_le.mpr h)))⟩
  case hinv => exact completes_same (fun _ => rfl) fun _ _ _ => rfl
  case pf =>
    refine completes_same (fun _ => rfl) fun env c _ => ?_
    simp only [plainRow, SlotSpec.request, Bool.and_eq_true, decide_eq_true_eq, Bool.not_eq_true', and_assoc]
  case cinv =>
    refine completes_row (fun _ => rfl) fun _ c _ ⟨hv, ho⟩ => ⟨rfl, rfl, request_checked rfl (pageTrap_none hv ho)⟩
  case bankmode =>
    refine completes_row (fun _ => rfl) fun env c _ ⟨hq, hm, hc, hf, hl⟩ => ⟨rfl, rfl, request_checked ?_ (trapIf_false ?_)⟩
    · rw [hq.entry, hq.place]; rfl
    · have hland : env.landings.any (fun x => x.meets (bankSpan f.bank)) = false := List.any_eq_false.mpr fun x hx => by simp [hl x hx]
      have hfifo : (c.cfgModes[f.bank] == fifoMode) = false := beq_eq_false_iff_ne.mpr hf
      rw [Core.bankRefused, decide_eq_false (Nat.not_le.mpr hm), hc, hfifo, hland]
      rfl
  all_goals exact fun p => completes_same (fun _ => rfl) fun _ _ _ => rfl

/-! ## The streamer (13 R377 to R379, 14 R389, R390) -/

theorem completes_tile {i : Instr} {p : Pred} {load : Bool} {q h : Fin 16} {th ta : Bool} {a : Fin 32} {srcs : List Src}
    {time : Env → Regs → Word} (he : ∀ s, exec i s = slot true p (fun env c k => tileReq env c k load q h th a ta srcs (time env c.regs)) s) :
    Completes i (tileRow p load q h th a ta srcs time) :=
  completes_row he fun _ _ _ ⟨hs, hq, ht⟩ => ⟨rfl, rfl, request_checked (by rw [hs.entry, hs.place, hq]; rfl) ht⟩

/-- A copy of tiles of one shape, from one stream to another that converts nothing or has no scales, traps nothing of its own (13 R378). -/
theorem copyTrap_none {k : Fin 8} {d x : Desc} {t : Option TrapInfo} (h : t = none) (hr : x.rows = d.rows) (hc : x.cols = d.cols)
    (ht : d.fmt = .triple ↔ x.fmt = .triple) (hf : d.fmt = x.fmt ∧ d.slog = x.slog ∨ d.slog = 0) :
    firstTrap [t, streamCfgIf k (!sameShape x d || (d.fmt == .triple) != (x.fmt == .triple)),
      streamCfgIf k ((d.fmt != x.fmt || d.slog != x.slog) && d.slog != 0)] = none := by
  have htriple : (d.fmt == .triple) = (x.fmt == .triple) := by rw [Bool.eq_iff_iff]; simpa using ht
  have hscale : ((d.fmt != x.fmt || d.slog != x.slog) && d.slog != 0) = false := by
    rcases hf with ⟨hf, hs⟩ | hs
    · simp [hf, hs]
    · simp [hs]
  simp [h, streamCfgIf, sameShape, hr, hc, htriple, hscale]

/-- Settles O16: each form's checks pass where its row says so. -/
theorem streamerForms : Obligations.StreamerForms := by
  unfold Obligations.StreamerForms
  refine ⟨?tld, ?tldTimed, ?tst, ?tstTimed, fun p f => ?cpy, fun p f => ?cpy2d, fun p f => ?fill⟩
  case cpy =>
    refine completes_row (fun _ => rfl) fun env c _ ⟨hs, ht⟩ => ⟨rfl, rfl, request_checked ?_ ht⟩
    by_cases hn : (c.regs.gets f.n).toNat = 0
    · simp [hn]
    · rw [(hs hn).entry, (hs hn).place]; simp
  case cpy2d =>
    refine completes_row (fun _ => rfl) fun env c k ⟨hs, hx, hd, hr, hc, ht, hf⟩ => ⟨rfl, rfl, request_checked ?_ ?_⟩
    · rw [hs.entry, hs.place]; rfl
    · have hcheck := streamsTrap_none (slot := k) (l := [(c.q[f.s], false), (c.q[f.q], true)]) (by simpa using ⟨hx, hd⟩)
      exact copyTrap_none hcheck hr hc ht hf
  case fill =>
    refine completes_row (fun _ => rfl) fun env c k ⟨hs, hd⟩ => ⟨rfl, rfl, request_checked ?_ ?_⟩
    · rw [hs.entry, hs.place]; rfl
    · exact streamsTrap_none (by simpa using hd)
  all_goals exact fun p f => completes_tile fun _ => rfl

end Sys2Proof.Machine
end

section
/-! The EN forms complete (13 R356 to R376). -/

namespace Sys2Proof.Machine

/-! ## Checks of streams and banks that pass (13 R358, R362) -/

theorem streamsTrap_one {c : Core} {slot : Fin 8} {d : Desc} {w : Bool} (h : StreamOk c d w) : c.streamsTrap slot [(d, w)] = none :=
  streamsTrap_none fun _ hy => List.mem_singleton.mp hy ▸ h

theorem streamsTrap_two {c : Core} {slot : Fin 8} {d e : Desc} {w v : Bool} (h : StreamOk c d w) (k : StreamOk c e v) :
    c.streamsTrap slot [(d, w), (e, v)] = none :=
  streamsTrap_none fun y hy => by
    simp only [List.mem_cons, List.not_mem_nil, or_false] at hy
    rcases hy with rfl | rfl
    · exact h
    · exact k

theorem tripleTrap_none {slot : Fin 8} {d : Desc} (h : d.fmt ≠ .triple) : tripleTrap slot d = none :=
  trapIf_false (beq_eq_false_iff_ne.mpr h)

theorem shapeTrap_none {slot : Fin 8} {x y : Desc} (hr : x.rows = y.rows) (hc : x.cols = y.cols) :
    streamCfgIf slot (!sameShape x y) = none := trapIf_false (by simp [sameShape, hr, hc])

theorem unallocTrap_none {c : Core} {slot : Fin 8} {f l : Fin 64} (h : c.allAlloc f l = true) : c.unallocTrap slot f l = none :=
  trapIf_false (by rw [h]; rfl)

theorem QueueOk.free {c : Core} {q : Queue} (h : QueueOk c q) : (c.rsbFull || c.queueFull q) = false := by rw [h.entry, h.place]; rfl

/-! ## Streams, banks and products (13 R356 to R366) -/

/-- A product of streams that fit each other traps nothing (13 R365, R366). -/
theorem mmaTrap_none {c : Core} {env : Env} {k : Fin 8} {a b : Desc} {f l : Fin 64} {rows : Option Token} (ha : StreamOk c a false)
    (hb : StreamOk c b false) (hta : a.fmt ≠ .triple) (htb : b.fmt ≠ .triple)
    (hdec : (a.fmt = .t8 ∨ a.fmt = .t6 ∨ b.fmt = .t8 ∨ b.fmt = .t6) → env.caps.toNat / 2 % 2 = 1)
    (hrows : rows = none → a.rows % 16 = 0) (hwidth : b.rows = a.width)
    (hbanks : (if rows = none then a.rows / 16 else 1) * b.cols = l.val + 1 - f.val) (hstep : kstep a.fmt b.fmt ≠ none)
    (hall : c.allAlloc f l = true)
    (hlanes : ∀ t, rows = some t → ∀ i : Fin 16, t.valid.getLsbD i.val = true → t.elem[i].toNat < a.rows) :
    c.mmaTrap env k a b f l rows = none := by
  have hstep' : (kstep a.fmt b.fmt == none) = false := beq_eq_false_iff_ne.mpr hstep
  have htaper : trapIf ((isTapered a.fmt || isTapered b.fmt) && bits env.caps.toNat 1 1 == 0) (trapOf trapUnitAbsent k) = none :=
    taperTrap_none hdec
  refine firstTrap_none ?_
  simp only [List.forall_mem_cons, List.not_mem_nil, false_implies, implies_true, and_true]
  refine ⟨streamsTrap_two ha hb, firstTrap_none (by simp [tripleTrap_none, hta, htb]), htaper, trapIf_false ?_, unallocTrap_none hall⟩
  cases rows with
  | none => simpa [hrows, hwidth, hstep'] using hbanks
  | some t =>
    have hany : (List.finRange 16).any (fun i => laneOk t i && decide (a.rows ≤ t.elem[i].toNat)) = false :=
      List.any_eq_false.mpr fun i _ => by
        simp only [Bool.and_eq_true, decide_eq_true_eq, not_and, Nat.not_le]
        exact hlanes t rfl i
    simp only [hany]
    simpa [hwidth, hstep'] using hbanks

/-- Settles O17: each form's checks pass where its row says so. -/
theorem streamAndBankForms : Obligations.StreamAndBankForms := by
  unfold Obligations.StreamAndBankForms
  refine ⟨fun p f => ?qset, fun p f => ?qget, fun p f => ?aalloc, fun p f => ?afree, fun p f => ?aown, fun p f => ?aownRel, fun p f => ?aclr,
    fun p f => ?adrain, fun p f => ?aread, fun p f => ?mma, fun p f => ?mmag⟩
  case qset => exact completes_row (fun _ => rfl) fun _ _ _ h => ⟨rfl, rfl, request_checked rfl h⟩
  case qget => exact completes_same (fun _ => rfl) fun _ _ _ => rfl
  case aalloc => exact completes_row (fun _ => rfl) fun _ _ _ ⟨hq, ha⟩ => ⟨rfl, rfl, request_checked hq (trapIf_false ha)⟩
  case afree =>
    exact completes_row (fun _ => rfl) fun _ _ _ ⟨hq, ha, hb⟩ =>
      ⟨rfl, rfl, request_checked hq (firstTrap_none (by simp [unallocTrap_none ha, hb]))⟩
  case aown =>
    exact completes_row (fun _ => rfl) fun _ _ _ ⟨hq, ha, hb⟩ =>
      ⟨rfl, rfl, request_checked hq (firstTrap_none (by simp [unallocTrap_none ha, hb]))⟩
  case aownRel => exact completes_row (fun _ => rfl) fun _ _ _ ⟨hq, _⟩ => ⟨rfl, rfl, request_checked hq rfl⟩
  case aclr => exact completes_row (fun _ => rfl) fun _ _ _ ⟨hq, ha⟩ => ⟨rfl, rfl, request_checked hq (unallocTrap_none ha)⟩
  case aread => exact completes_row (fun _ => rfl) fun _ _ _ ⟨hq, ha⟩ => ⟨rfl, rfl, request_checked hq (unallocTrap_none ha)⟩
  case adrain =>
    refine completes_row (fun _ => rfl) fun _ c k ⟨hq, hs, ht, hr, hn, hl, ha, b0, b1, hb, h0, h1⟩ => ⟨rfl, rfl, request_checked hq.free ?_⟩
    refine firstTrap_none ?_
    simp only [List.forall_mem_cons, List.not_mem_nil, false_implies, implies_true, and_true]
    refine ⟨streamsTrap_one hs, tripleTrap_none ht, trapIf_false ?_, unallocTrap_none ha, trapIf_false ?_⟩
    · simpa using (⟨⟨hr, hn⟩, hl⟩ : (_ ∧ _) ∧ _)
    · simpa [hb] using ⟨h0, h1⟩
  case mma =>
    refine completes_row (fun _ => rfl) fun env c k ⟨hq, ha, hb, hta, htb, hd, hr, hw, hn, hs, hl⟩ => ⟨rfl, rfl, request_checked hq.free ?_⟩
    exact mmaTrap_none ha hb hta htb hd (fun _ => hr) hw hn hs hl nofun
  case mmag =>
    refine completes_row (fun _ => rfl) fun env c k ⟨hq, ha, hb, hta, htb, hd, hw, hn, hs, hl, hi⟩ => ⟨rfl, rfl, request_checked hq.free ?_⟩
    refine mmaTrap_none ha hb hta htb hd nofun hw ?_ hs hl fun t ht => Option.some.inj ht ▸ hi
    rw [if_neg (by simp), Nat.one_mul]
    exact hn

/-! ## Scans (13 R367, R370 to R372) -/

theorem completes_scan {i : Instr} {p : Pred} {kind : ScanKind} {y x : Fin 16} {x2 y2 : Option (Fin 16)} {herd : Bool} {srcs : List Src}
    {init : Regs → ScanInit} (he : ∀ s, exec i s = slot true p (fun _ c k => scanReq c k kind y x x2 y2 herd srcs (init c.regs)) s) :
    Completes i (scanRow p kind y x x2 y2 herd srcs init) :=
  completes_row he fun _ c _ ⟨hq, ht⟩ => ⟨rfl, rfl, by
    refine (request_checked hq.free ht).trans ?_
    simp only [scanRow, SlotSpec.request, Option.map_map]
    cases y2 <;> rfl⟩

/-- Settles O18: each scan is one over its streams. -/
theorem scanForms : Obligations.ScanForms := by
  unfold Obligations.ScanForms
  refine ⟨?singles, ?affine, ?lse, ?moment, ?momentInit, ?user, ?userExt, fun p f l => ?scdef, fun p f => ?csend, fun p f => ?crecv, fun p => ?cbar⟩
  case singles =>
    simp only [scanSingles, List.forall_mem_cons, List.not_mem_nil, false_implies, implies_true, and_true]
    refine ⟨?_, ?_, ?_, ?_⟩ <;> exact ⟨fun p f => completes_scan fun _ => rfl, fun p f => completes_scan fun _ => rfl⟩
  case scdef =>
    refine completes_row (fun _ => rfl) fun _ c _ ⟨hq, hl⟩ => ⟨rfl, rfl, ?_⟩
    simp only [hq, hl]
    rfl
  case csend => exact completes_row (fun _ => rfl) fun _ _ _ hq => ⟨rfl, rfl, congrArg (SlotReq.mk _ _ · _) hq⟩
  case crecv => exact completes_row (fun _ => rfl) fun _ _ _ hq => ⟨rfl, rfl, congrArg (SlotReq.mk _ _ · _) hq⟩
  case cbar => exact completes_row (fun _ => rfl) fun _ _ _ hq => ⟨rfl, rfl, congrArg (SlotReq.mk _ _ · _) hq⟩
  all_goals exact fun p f => completes_scan fun _ => rfl

/-! ## Statistics (13 R373 to R376) -/

theorem completes_stat {i : Instr} {p : Pred} {w : Fin 8} {srcs : List Src} {ok : Core → Fin 8 → Prop} {op : Core → EngOp}
    {r0 r1 : Core → Option Span} {t : Core → Fin 8 → Option TrapInfo}
    (he : ∀ s, exec i s = slot true p (fun _ c k => statReq c w srcs (t c k) (op c) (r0 c) (r1 c)) s) (ht : ∀ c k, ok c k → t c k = none) :
    Completes i (statRow p w srcs ok op r0 r1) :=
  completes_row he fun _ c k ⟨hq, hr, hk⟩ => ⟨rfl, rfl, request_checked (by
    rw [hq, Bool.false_or, Bool.and_eq_false_imp, Bool.or_eq_true]
    exact hr) (ht c k hk)⟩

theorem windowTrap_read_none {c : Core} {slot : Fin 8} {a : Nat} {x : Span} (hw : x.hi < windowEnd) (hs : c.scratchOnly x = true) :
    c.windowTrap slot a x false = none := by
  simp [Core.windowTrap, hw, hs]

theorem windowTrap_write_none {c : Core} {slot : Fin 8} {a : Nat} {x : Span} (hw : x.hi < windowEnd) (hs : c.scratchOnly x = true)
    (hc : c.meetsCode x = false) : c.windowTrap slot a x true = none := by
  simp [Core.windowTrap, hw, hs, hc]

theorem updateTrap_none {c : Core} {k : Fin 8} {d : Desc} (h : StreamOk c d false ∧ d.fmt ≠ .triple) :
    firstTrap [c.streamsTrap k [(d, false)], tripleTrap k d] = none := by
  simp [streamsTrap_one h.1, tripleTrap_none h.2]

/-- Two streams of one shape, neither of triples. -/
theorem pairTrap_none {c : Core} {k : Fin 8} {x y : Desc} {w : Bool} (hx : StreamOk c x false) (hy : StreamOk c y w) (htx : x.fmt ≠ .triple)
    (hty : y.fmt ≠ .triple) (hr : x.rows = y.rows) (hc : x.cols = y.cols) :
    firstTrap [c.streamsTrap k [(x, false), (y, w)], tripleTrap k x, tripleTrap k y, streamCfgIf k (!sameShape x y)] = none := by
  simp [streamsTrap_two hx hy, tripleTrap_none htx, tripleTrap_none hty, shapeTrap_none hr hc]

/-- Settles O19: each form's checks pass where its row says so. -/
theorem statisticsForms : Obligations.StatisticsForms := by
  unfold Obligations.StatisticsForms
  refine ⟨fun p f => ?mupd, fun p f => ?mupdw, fun p f => ?mupdwStream, fun p f => ?mmerge, fun p f => ?lanes, fun p f => ?mclr,
    fun p f => ?mdrain, fun p f => ?norm, fun p f => ?mld, fun p f => ?mst⟩
  case mupd => exact completes_stat (fun _ => rfl) fun _ _ h => updateTrap_none h
  case mupdw => exact completes_stat (fun _ => rfl) fun _ _ h => updateTrap_none h
  case mupdwStream => exact completes_stat (fun _ => rfl) fun _ _ ⟨hx, hv, htx, htv, hr, hc⟩ => pairTrap_none hx hv htx htv hr hc
  case mmerge => exact completes_stat (t := fun _ _ => none) (fun _ => rfl) fun _ _ _ => rfl
  case lanes => exact completes_stat (t := fun _ _ => none) (fun _ => rfl) fun _ _ _ => rfl
  case mclr => exact completes_stat (t := fun _ _ => none) (fun _ => rfl) fun _ _ _ => rfl
  case mdrain => exact completes_row (fun _ => rfl) fun _ _ _ hq => ⟨rfl, rfl, congrArg (SlotReq.mk _ _ · _) hq⟩
  case norm =>
    exact completes_row (fun _ => rfl) fun _ _ _ ⟨hq, hx, hy, htx, hty, hr, hc⟩ =>
      ⟨rfl, rfl, request_checked hq.free (pairTrap_none hx hy htx hty hr hc)⟩
  case mld =>
    refine completes_stat (fun _ => rfl) fun c k ⟨hw, hs⟩ => windowTrap_read_none (Nat.lt_of_succ_le hw) hs
  case mst =>
    exact completes_row (fun _ => rfl) fun _ c _ ⟨hq, hw, hs, hc⟩ =>
      ⟨rfl, rfl, request_checked hq.free (windowTrap_write_none hw hs hc)⟩

end Sys2Proof.Machine
end

section
/-! The FX forms complete (14 R393 to R400). -/

namespace Sys2Proof.Machine

theorem streamTrap_none {c : Core} {slot : Fin 8} {d : Desc} {w : Bool} (h : StreamOk c d w) : c.streamTrap slot d w = none := by
  cases w <;> simp [Core.streamTrap, h.en, h.scratch, h.code]

theorem PortOk.free {c : Core} (h : PortOk c) : (c.portFull || c.rsbFull) = false := by rw [h.place, h.entry]; rfl

theorem indexTrap_none {slot : Fin 8} {idx : Option Word} (h : ∀ x, idx = some x → x.toNat < 2 ^ 36) : indexTrap slot idx = none := by
  cases idx with
  | none => rfl
  | some x => exact trapIf_false (decide_eq_false (Nat.not_le.mpr (h x rfl)))

theorem indexTrap_override_none {c : Core} {slot : Fin 8} {on : Bool} {r : Fin 32} {t : Bool}
    (h : on = true → (c.regs.gets r).toNat < 2 ^ 36) : indexTrap slot (override c on r t).2 = none :=
  indexTrap_none fun x hx => by
    cases on
    · nomatch hx
    · exact Option.some.inj hx ▸ h rfl

/-- An override's value, as the rows write it. -/
theorem override_value (c : Core) (on : Bool) (r : Fin 32) (t : Bool) :
    (override c on r t).2 = if on then some (c.regs.gets r) else none := by cases on <;> rfl

theorem override_srcs (c : Core) (on : Bool) (r : Fin 32) (t : Bool) :
    (override c on r t).1 = if on then [(.s r, t)] else [] := by cases on <;> rfl

/-- A publication whose record, overrides and stream its row allows goes out under the record's name (14 R394). -/
theorem pubResult_go {c : Core} {slot : Fin 8} {p : Pred} {q : Fin 16} {k : Fin 8} {srcs : List Src} {tagx idx : Regs → Option Word}
    {noback live nolive : Bool} {f : Firing} {r : NameRec} {n : Nat} {tag : BitVec 16} {env : Env}
    (h : (pubRow p q k srcs tagx idx noback live nolive f r n tag env c slot).ok) :
    pubResult c slot q k (tagx c.regs) (idx c.regs) noback live nolive =
      .go (pubRow p q k srcs tagx idx noback live nolive f r n tag env c slot).effects := by
  obtain ⟨-, hrec, hn, heos, hidx, hs, ht, htok, hrate⟩ := h
  simp only [pubResult, hrec, hn]
  refine checked_none (firstTrap_none ?_)
  simp only [List.forall_mem_cons, List.not_mem_nil, false_implies, implies_true, and_true]
  refine ⟨indexTrap_none hidx, streamTrap_none hs, trapIf_false ?_⟩
  simpa [heos] using (⟨⟨ht, htok⟩, hrate⟩ : (_ ∧ _) ∧ _)

/-- A fetch whose record, overrides and stream its row allows asks for the record's name, a void one for nothing (14 R396). -/
theorem fetchResult_go {c : Core} {slot : Fin 8} {p : Pred} {q : Fin 16} {k : Fin 8} {srcs : List Src} {tagx idx : Regs → Option Word}
    {f : Firing} {r : NameRec} {n : Option Nat} {tag : BitVec 16} {env : Env}
    (h : (fetchFormRow p q k srcs tagx idx f r n tag env c slot).ok) :
    fetchResult c slot q k (tagx c.regs) (idx c.regs) = .go (fetchFormRow p q k srcs tagx idx f r n tag env c slot).effects := by
  obtain ⟨-, hrec, hn, hidx, hs, ht⟩ := h
  have hchecks : firstTrap [indexTrap slot (idx c.regs), c.streamTrap slot c.q[q] true, tripleTrap slot c.q[q]] = none :=
    firstTrap_none (by simpa [indexTrap_none hidx] using ⟨streamTrap_none hs, tripleTrap_none ht⟩)
  simp only [fetchResult, hrec, subName, hn, checked_none hchecks, fetchFormRow]
  cases n with
  | none => rfl
  | some m => by_cases hm : m = eosIndex <;> simp [hm]

/-- Settles O20: a publication, a fetch and a query name what their record resolves to. -/
theorem fabricForms : Obligations.FabricForms := by
  unfold Obligations.FabricForms
  refine ⟨fun p f fr r n tag => ?pub, fun p f fr r n tag => ?pubIndexed, fun p f fr r => ?pubeos, fun p f fr r n tag => ?fetch,
    fun p f fr r n tag => ?fetchIndexed, fun p f fr r n tag => ?subq⟩
  case pub =>
    refine completes_row (fun _ => rfl) fun env c k h => ⟨rfl, rfl, ?_⟩
    have := pubResult_go h
    simp only [tagOver, override_srcs, override_value, this, h.1.free]
    rfl
  case pubIndexed =>
    refine completes_row (fun _ => rfl) fun env c k h => ⟨rfl, rfl, ?_⟩
    have := pubResult_go h
    simp only [tagOver, override_srcs, override_value, h.1.free]
    exact congrArg (SlotReq.mk _ _ _) this
  case pubeos =>
    refine completes_row (fun _ => rfl) fun _ _ _ ⟨hp, hr⟩ => ⟨rfl, rfl, ?_⟩
    simp only [hp, hr]
    rfl
  case fetch =>
    refine completes_row (fun _ => rfl) fun env c k h => ⟨rfl, rfl, ?_⟩
    have := fetchResult_go h
    simp only [tagOver, override_srcs, override_value, this, h.1.free]
    rfl
  case fetchIndexed =>
    refine completes_row (fun _ => rfl) fun env c k h => ⟨rfl, rfl, ?_⟩
    have := fetchResult_go h
    simp only [tagOver, override_srcs, override_value, h.1.free]
    exact congrArg (SlotReq.mk _ _ _) this
  case subq =>
    refine completes_row (fun _ => rfl) fun env c k ⟨hp, hr, hi, hn, heos⟩ => ⟨rfl, rfl, ?_⟩
    have hvoid : ((some n : Option Nat) == none || (some n : Option Nat) == some eosIndex) = false := by simpa using heos
    have hidx := indexTrap_override_none (slot := k) (t := f.tb) hi
    rw [override_value] at hidx
    simp only [tagOver, override_srcs, override_value, hp, hr, subName, hn, hvoid, checked_none hidx]
    rfl

theorem arriveEffects_eq (c : Core) : arriveEffects c = arrivalEffects c := by
  unfold arriveEffects arrivalEffects
  cases c.firing <;> rfl

/-- Settles O21: each form's request is its row's, where the port and the streams allow it. -/
theorem barrierAndCollectiveForms : Obligations.BarrierAndCollectiveForms := by
  unfold Obligations.BarrierAndCollectiveForms
  refine ⟨fun p => ?arrive, fun p => ?wait, fun p => ?bar, fun p f => ?coll, fun p f => ?recv, fun p f => ?collW, fun p f => ?recvW,
    fun p f => ?cmark, fun p f => ?cmarkEnd⟩
  case arrive => exact completes_row (fun _ => rfl) fun _ c _ hp => ⟨rfl, rfl, by rw [hp, arriveEffects_eq]; rfl⟩
  case wait => exact completes_same (fun _ => rfl) fun _ _ _ => rfl
  case bar => exact completes_row (fun _ => rfl) fun _ c _ hp => ⟨rfl, rfl, by rw [hp, arriveEffects_eq]; rfl⟩
  case coll =>
    exact completes_row (fun _ => rfl) fun _ c k ⟨hp, hs, hl, ht⟩ =>
      ⟨rfl, rfl, request_checked hp.free (firstTrap_none (by simpa using ⟨streamTrap_none hs, trapIf_false (by simpa using And.intro hl ht)⟩))⟩
  case recv =>
    exact completes_row (fun _ => rfl) fun _ c k ⟨hp, hs, ht⟩ =>
      ⟨rfl, rfl, request_checked hp (firstTrap_none (by simpa using ⟨streamTrap_none hs, tripleTrap_none ht⟩))⟩
  case recvW => exact completes_same (fun _ => rfl) fun _ _ _ => rfl
  all_goals exact completes_row (fun _ => rfl) fun _ _ _ hp => ⟨rfl, rfl, congrArg (SlotReq.mk _ _ · _) hp⟩

end Sys2Proof.Machine
end

section
/-! Reset, the step, and the words of the encoding tables (logs 1, 2, 3, 5, 6). -/

namespace Sys2Proof.Machine

/-! ## Reset -/

/-- A core after reset has an empty scratchpad, and no test holds one. -/
theorem memOk_reset : Core.reset.memOk := ⟨rfl, nofun⟩

/-- Settles O22: the memories of reset list nothing, its contexts have no image, and it has no core. -/
theorem resetMemory : Obligations.ResetMemory := by
  unfold Obligations.ResetMemory
  refine ⟨⟨rfl, rfl⟩, ⟨fun x hx => absurd hx List.not_mem_nil, fun k i h => ?_⟩, fun _ => rfl, memOk_reset⟩
  have hk : State.reset.ctxs[k] = Ctx.reset := by simp [State.reset]
  have himage : Ctx.reset.image = none := rfl
  rw [hk, himage] at h
  nomatch h

/-- Settles O23: each register's value stands in the definition of reset. -/
theorem resetValues : Obligations.ResetValues := by
  unfold Obligations.ResetValues
  refine ⟨⟨rfl, rfl, rfl, rfl⟩, fun k => ?ing, fun k => ?ctx, fun k => ?preempt, fun k => ?tdi, fun q => ?stream, rfl, rfl, fun k => ?trap, rfl, rfl⟩
  all_goals simp [State.reset, Core.reset, Ctx.reset]

/-! ## The step (logs 3, 5, 6) -/

theorem step_agenda {s : State} {i : Instr} {rest : List Instr} (h : s.agenda = i :: rest) : step s = exec i { s with agenda := rest } := by
  simp only [step, stepWith, h]

theorem step_stopped {s : State} (h : s.agenda = []) (hc : s.clocked = false) : step s = .next s.tick := by
  simp only [step, stepWith, h, hc]
  rfl

/-- A step at a core that is there, with nothing offered, is its turn. -/
theorem step_turn {s : State} {c : Core} (h : s.agenda = []) (hc : s.clocked = true) (hcore : s.core s.focus = some c) :
    step s = (match c.turn (s.env s.focus) s.focus with
      | .idle => .next s.pass
      | .event i => passIf true (exec i s)
      | .decode f => s.stepBundle exec c f
      | .slot i last => passIf last (exec i s)) := by
  simp only [step, stepWith, h, hc, hcore] <;> rfl

/-- The turn of a core with a group in issue, where nothing holds it, is the group's next slot. -/
theorem turn_slot {c : Core} {env : Env} {n : Nat} {f : Firing} {pos : Fin 8} {i : Instr} {rest : List (Fin 8 × Instr)}
    (hf : c.firing = some f) (hi : c.issues = true) (ht : c.issue.todo = (pos, i) :: rest)
    (hb : c.between = true → c.dfaults = [] ∧ c.stopping = false ∧ c.waitsOk env = true) : c.turn env n = .slot i rest.isEmpty := by
  simp only [Core.turn, hf, hi, ht]
  cases h : c.between with
  | false => rfl
  | true =>
    obtain ⟨hd, hs, hw⟩ := hb h
    simp [hd, hs, hw]

/-- The turn of a core between bundles, whose next bundle is in the buffer, is to decode it. -/
theorem AtBundle.turn {s : State} {c : Core} {f : Firing} (h : AtBundle s c f) : c.turn (s.env s.focus) s.focus = .decode f := by
  simp [Core.turn, h.firing, h.runs, h.todo, h.faults, h.owed, h.retire, h.freeze, h.waits, h.fetched]

theorem AtBundle.step {s : State} {c : Core} {f : Firing} (h : AtBundle s c f) : step s = s.stepBundle exec c f := by
  rw [step_turn h.idle h.clock h.core, h.turn]

theorem beginBundle_todo (c : Core) (b : Bundle) : (c.beginBundle b).1.issue.todo = c.firstGroup b := rfl

/-- A bundle that begins at a core leaves the core in its place, but for what it asks of its streamer. -/
theorem core_begin {s : State} {n : Nat} {c : Core} (b : Bundle) (h : s.core n = some c) :
    ∃ k q, (s.begin n b).core n = some { (c.beginBundle b).1 with copies := k, seq := q } := by
  obtain ⟨k, q, hd⟩ := core_set_applyAll s n (c.beginBundle b).1 (c.beginBundle b).2
  refine ⟨k, q, ?_⟩
  simp only [State.begin, State.onCore, h]
  exact hd

theorem firstSlot_begin_nil {s : State} {n : Nat} {c : Core} {b : Bundle} (h : s.core n = some c) (hg : c.firstGroup b = []) :
    (s.begin n b).firstSlot n = none := by
  obtain ⟨k, q, hd⟩ := core_begin b h
  simp only [State.firstSlot, hd, beginBundle_todo, hg]

theorem firstSlot_begin_cons {s : State} {n : Nat} {c : Core} {b : Bundle} {pos : Fin 8} {i : Instr} {rest : List (Fin 8 × Instr)}
    (h : s.core n = some c) (hg : c.firstGroup b = (pos, i) :: rest) : (s.begin n b).firstSlot n = some (i, rest.isEmpty) := by
  obtain ⟨k, q, hd⟩ := core_begin b h
  simp only [State.firstSlot, hd, beginBundle_todo, hg]

/-- Settles O24: each case is one branch of the turn. -/
theorem stepRunsDecoded : Obligations.StepRunsDecoded := by
  unfold Obligations.StepRunsDecoded
  refine ⟨fun s i rest h => step_agenda h, fun s h hc => step_stopped h hc, ?slot, ?bundle, ?empty, ?fault⟩
  case slot =>
    intro s c f pos i rest h hc hcore hf hi ht hb
    rw [step_turn h hc hcore, turn_slot hf hi ht hb]
  case bundle =>
    intro s c f b pos i rest h hdec hg
    simp only [h.step, State.stepBundle, Core.decoded, hdec, firstSlot_begin_cons h.core hg]
  case empty =>
    intro s c f b h hdec hg
    simp only [h.step, State.stepBundle, Core.decoded, hdec, firstSlot_begin_nil h.core hg]
  case fault =>
    intro s c f e h hdec
    simp only [h.step, State.stepBundle, Core.decoded, hdec]

/-! ## Words (10 R285 to R294) -/

/-- Settles O25: the decoder evaluates to each. -/
theorem specWords : Obligations.SpecWords := by
  unfold Obligations.SpecWords
  exact ⟨rfl, rfl, rfl, rfl, rfl, rfl, rfl, rfl, rfl, rfl, rfl⟩

end Sys2Proof.Machine
end

section
/-! What slots share: predicates off, slots before the last, registers, marks (06 R177 to R180, 08 R237, R238, 10 R286). -/

namespace Sys2Proof.Machine

/-! ## A mark and the gate's release -/

/-- The gate's release changes the scratchpad, the words in error and the gate. -/
theorem release_eq (c : Core) :
    c.release.1 = { c with spad := c.release.1.spad, badWords := c.release.1.badWords, gate := [] } := by
  have h := (releaseAll_core c.gate c []).1
  have hr : c.release.1 = { (releaseAll c.gate (c, [])).1 with gate := [] } := rfl
  rw [hr, h]

/-- A mark keeps the core but for what it releases, the shadow, and the age of what is in flight. -/
theorem releaseMark_eq (c : Core) :
    c.releaseMark.1 = { c with
      spad := c.release.1.spad, badWords := c.release.1.badWords, gate := []
      shadow := { regs := c.regs, flags := fpcrFlags c.fpcr, nps := c.nps.isSome, loops := c.loops, pc := c.issue.pc, group := c.issue.second }
      flight := c.flight.map fun f => { f with old := true }
      fills := c.fills.map fun f => { f with old := true } } := by
  have h : c.releaseMark.1 = c.release.1.mark := rfl
  rw [h, release_eq]
  rfl

/-! ## A group of one slot that issues -/

/-- The core after a group has issued is the issued core, but for the requests it made of the streamer. -/
theorem issued_core (s : State) (c : Core) (closing : Bool) (r : SlotResult) :
    ∃ k q, (s.issued c closing r).core s.focus = some { (c.joined closing r).issueGroup.1 with copies := k, seq := q } :=
  core_set_applyAll _ _ _ _

/-- With nothing in flight an advancing cycle changes nothing. -/
theorem advance_quiet {c : Core} (h : c.flight = []) : c.advance = c := by
  cases c
  simp only at h
  subst h
  rfl

/-- What comes after a group that closes its region, its firing not at its end, is a mark of the core, which keeps its registers. -/
theorem afterGroup_marks {c : Core} {b : Bundle} (hb : c.issue.bundle = some b) (hs : c.issue.soft = none) (hr : c.issue.retiring = false) :
    ∃ e : Core, (c.afterGroup true).1 = e.releaseMark.1 ∧ e.regs = c.regs := by
  by_cases hsecond : (!c.issue.second && !(groupSlots b true).isEmpty) = true
  · exact ⟨{ c with issue := { ({ c.issue with second := true } : Issue).restart with markNext := false } },
      by simp only [Core.afterGroup, hb, hsecond, if_true], rfl⟩
  · simp only [Core.afterGroup, hb, hsecond, Core.boundary, hs, hr]
    exact ⟨_, rfl, rfl⟩

/-- Settles O29: a slot whose predicate is off answers no effect, and its group, where the form closes its region, ends in a mark. -/
theorem predicateOff : Obligations.PredicateOff := by
  unfold Obligations.PredicateOff
  refine ⟨fun s c pos i e he hl hp hr => ?_, fun s c b hc hq hb hret => ?_⟩
  · obtain ⟨f, hf⟩ := exec_isSlot i e he
    rw [hf]
    exact slot_off hl hp hr
  · obtain ⟨k, q, hd⟩ := issued_core s c true (.go [])
    have heffects : (c.joined true (.go [])).issue.effects = [] := by simp [Core.joined, hq.effects]
    have hclosing : (c.joined true (.go [])).issue.closing = true := by simp [Core.joined, Issue.gather]
    have hflight : (c.joined true (.go [])).releaseMark.1.waited.flight = [] := by
      simp [Core.waited, releaseMark_eq, Core.joined, hq.flight]
    have hissue : (c.joined true (.go [])).issueGroup.1 = ((c.joined true (.go [])).releaseMark.1.waited.afterGroup true).1 := by
      simp only [Core.issueGroup, heffects, hclosing, Bool.true_or, if_true]
      exact congrArg (fun d : Core => (d.afterGroup true).1) (advance_quiet hflight)
    obtain ⟨e, hafter, hregs⟩ := afterGroup_marks (c := (c.joined true (.go [])).releaseMark.1.waited) (b := b)
      (by simp [Core.waited, releaseMark_eq, Core.joined, Issue.gather, hb])
      (by simp [Core.waited, releaseMark_eq, Core.joined, Issue.gather, hq.soft])
      (by simp [Core.waited, releaseMark_eq, Core.joined, Issue.gather, hret])
    have hkeep : e.regs = c.regs := hregs.trans (by simp [Core.waited, releaseMark_eq, Core.joined])
    rw [hissue, hafter, releaseMark_eq] at hd
    exact ⟨_, hd, rfl, rfl, rfl, rfl, rfl, hkeep⟩

/-- Settles O31: a slot that is not the last joins its group, whatever it answers. -/
theorem slotsReadBeforeWriting : Obligations.SlotsReadBeforeWriting := by
  unfold Obligations.SlotsReadBeforeWriting
  intro s c pos i e x rest he hc ht
  obtain ⟨f, hf⟩ := exec_isSlot i e he
  refine ⟨if c.executes e.pred then (f (s.env s.focus) c c.slotPos).judge c c.slotPos else .go [], ?_, fun hp => by simp [hp]⟩
  have hleft : ∀ r, (c.issue.gather (closesOp e.cls e.op) r).todo = x :: rest := fun r => by cases r <;> simp [Issue.gather, ht]
  rw [hf, slot_at _ _ _ hc]
  simp only [Core.runSlot, hleft]
  rfl

/-- Settles O38: a slot form changes the module by its own core and what it hands over. -/
theorem slotModuleFrame : Obligations.SlotModuleFrame := by
  unfold Obligations.SlotModuleFrame
  intro s t i e he ht
  obtain ⟨f, hf⟩ := exec_isSlot i e he
  have h := sameModule_slot ((hf s).symm.trans ht)
  exact ⟨h.pmem, h.smem, h.others, h.wcc, h.slices, h.routers, h.ing, h.preempt, h.tdis, h.caps, h.parts, h.power⟩

/-- Settles O39: the release writes the gate's bytes in order, and a mark is the release with the shadow taken. -/
theorem markTakes : Obligations.MarkTakes := by
  unfold Obligations.MarkTakes
  refine ⟨fun c hw => ?release, fun c => ?mark⟩
  case release =>
    obtain ⟨hwf, hbytes⟩ := (release_passed c).bytes hw
    have hspad : ∀ a, c.release.1.spad.get a = c.release.1.localByte a := fun a => rfl
    exact ⟨fun a => ⟨(hspad a).trans (hbytes a), hbytes a⟩, hwf, rfl⟩
  case mark =>
    rw [releaseMark_eq]
    refine ⟨rfl, rfl, rfl, rfl, rfl, rfl, rfl, fun f hf => ?_, fun f hf => ?_⟩
    · obtain ⟨g, -, rfl⟩ := List.mem_map.mp hf
      rfl
    · obtain ⟨g, -, rfl⟩ := List.mem_map.mp hf
      rfl

end Sys2Proof.Machine
end

section
/-! Results, registers, sources and the frame of a slot form that runs alone (06 R178 to R183, R207, 10 R289). -/

namespace Sys2Proof.Machine

/-! ## A quiet core's group that closes no region -/

/-- A group of one slot, at a quiet core, that closes no region: its effects, a cycle, and what comes after the group. -/
theorem issueGroup_open {c : Core} (h : Quiet c) (es : List Effect) :
    (c.joined false (.go es)).issueGroup.1
      = (((c.joined false (.go es)).waited.commitGroup es).1.advance.afterGroup c.issue.markNext).1 := by
  have heffects : (c.joined false (.go es)).issue.effects = es := by simp [Core.joined, h.effects]
  have hclosing : (c.joined false (.go es)).issue.closing = false := by simp [Core.joined, Issue.gather, h.closing]
  have hrelease : (c.joined false (.go es)).issue.release = false := by simp [Core.joined, Issue.gather, h.release]
  have hmark : (c.joined false (.go es)).issue.markNext = c.issue.markNext := rfl
  simp only [Core.issueGroup, heffects, hclosing, hrelease, hmark, Bool.false_or, Bool.false_eq_true, if_false]

/-- What comes after a group without a software trap keeps the registers, the streams, and the results in flight but for their age. -/
theorem afterGroup_keeps {c : Core} (m : Bool) (h : c.issue.soft = none) :
    (c.afterGroup m).1.regs = c.regs ∧ (c.afterGroup m).1.q = c.q ∧
      (c.afterGroup m).1.flight.map (fun f => (f.write, f.left)) = c.flight.map fun f => (f.write, f.left) :=
  have hp := afterGroup_passed (c := c) m h
  ⟨by rw [hp.eq], by rw [hp.eq], hp.flight⟩

theorem eq_nil_of_map_eq_nil {l : List InFlight} (h : l.map (fun f => (f.write, f.left)) = []) : l = [] := List.map_eq_nil_iff.mp h

theorem eq_single_of_map_eq {l : List InFlight} {w : RegWrite} {n : Nat} (h : l.map (fun f => (f.write, f.left)) = [(w, n)]) :
    ∃ o, l = [{ write := w, left := n, old := o }] := by
  obtain ⟨f, rfl, hf⟩ := List.map_eq_singleton_iff.mp h
  obtain ⟨rfl, rfl⟩ := Prod.mk.injEq .. ▸ hf
  exact ⟨f.old, rfl⟩

/-- A result of latency 1 lands in the cycle its group issues. -/
theorem land_regs (c : Core) (w : RegWrite) :
    (c.land w false).regs = c.regs.write w ∧ (∀ r x, w = .q r x → (c.land w false).q = c.q.set r x) ∧ (c.land w false).issue = c.issue := by
  refine ⟨?_, fun r x h => ?_, ?_⟩
  · cases w <;> rfl
  · subst h
    rfl
  · cases w <;> rfl

/-- A result sent at a core with nothing in flight, one cycle on. -/
theorem advance_send_one {c : Core} {w : RegWrite} (h : c.flight = []) : (c.send w 1).advance = { c.land w false with flight := [] } := by
  have hflight : (c.send w 1).flight = [{ write := w, left := 1, old := false }] := by simp [Core.send, h, lastLeft]
  simp only [Core.advance, hflight]
  cases w <;> rfl

theorem advance_send_more {c : Core} {w : RegWrite} {lat : Nat} (h : c.flight = []) (hl : 1 < lat) :
    (c.send w lat).advance = { c with flight := [{ write := w, left := lat - 1, old := false }] } := by
  have hmax : max lat 1 = lat := by omega
  have hflight : (c.send w lat).flight = [{ write := w, left := lat, old := false }] := by simp [Core.send, h, lastLeft, hmax]
  have hleft : lat - 1 ≠ 0 := by omega
  simp only [Core.advance, hflight, List.map_cons, List.map_nil, List.filter_cons, List.filter_nil, hleft, decide_false, decide_true,
    ne_eq, not_false_eq_true, Bool.false_eq_true, if_false, if_true, List.foldl_nil]
  rfl

/-- Settles O32: the cycle of the group's issue lands a result of latency 1 and counts a longer one down. -/
theorem resultLatency : Obligations.ResultLatency := by
  unfold Obligations.ResultLatency
  intro s c w lat b hc hq hb hlat
  obtain ⟨k, q, hd⟩ := issued_core s c false (.go [.result w lat])
  refine ⟨_, hd, fun h1 => ?one, fun h2 => ?more⟩
  all_goals
    simp only [issueGroup_open hq]
    have hflight : ((c.joined false (.go [.result w lat])).waited).flight = [] := hq.flight
    have hcommit : ((c.joined false (.go [.result w lat])).waited.commitGroup [.result w lat]).1
        = (c.joined false (.go [.result w lat])).waited.send w lat := rfl
    rw [hcommit]
  case one =>
    subst h1
    rw [advance_send_one hflight]
    obtain ⟨hregs, hq', hissue⟩ := land_regs (c.joined false (.go [.result w 1])).waited w
    obtain ⟨k1, k2, k3⟩ := afterGroup_keeps (c := { (c.joined false (.go [.result w 1])).waited.land w false with flight := [] })
      c.issue.markNext ((congrArg Issue.soft hissue).trans hq.soft)
    exact ⟨eq_nil_of_map_eq_nil k3, k1.trans hregs, fun r x hw => k2.trans (hq' r x hw)⟩
  case more =>
    rw [advance_send_more hflight h2]
    obtain ⟨k1, k2, k3⟩ := afterGroup_keeps
      (c := { (c.joined false (.go [.result w lat])).waited with flight := [{ write := w, left := lat - 1, old := false }] })
      c.issue.markNext hq.soft
    exact ⟨k1, k2, eq_single_of_map_eq k3⟩

/-! ## Writes of registers (06 R180, 12 R338) -/

theorem setBit_same {n : Nat} (x : BitVec n) {k : Nat} (b : Bool) (h : k < n) : (setBit x k b).getLsbD k = b := by
  have hp : (BitVec.ofNat n (2 ^ k)).getLsbD k = true := by
    simp only [BitVec.getLsbD_ofNat, Nat.testBit_two_pow_self, h, decide_true, Bool.and_self]
  cases b
  · simp only [setBit, Bool.false_eq_true, if_false, BitVec.getLsbD_and, BitVec.getLsbD_not, hp, Bool.not_true, Bool.and_false]
  · simp only [setBit, if_true, BitVec.getLsbD_or, hp, Bool.or_true]

theorem lanes_get {α : Type} (f : Fin 16 → α) (l : Fin 16) : (lanes f)[l] = f l := by
  have hof : lanes f = Vector.ofFn f := by
    rw [Vector.ofFn, lanes]
    rfl
  rw [hof]
  exact Vector.getElem_ofFn _

/-- A bit taken from one of two words under a mask. -/
theorem masked_bit (old new mask : BitVec 16) (l : Fin 16) :
    ((old &&& ~~~mask) ||| (new &&& mask)).getLsbD l.val = if mask.getLsbD l.val then new.getLsbD l.val else old.getLsbD l.val := by
  simp only [BitVec.getLsbD_or, BitVec.getLsbD_and, BitVec.getLsbD_not, l.isLt, decide_true, Bool.true_and]
  cases mask.getLsbD l.val
  · simp only [Bool.not_false, Bool.and_true, Bool.and_false, Bool.or_false, Bool.false_eq_true, if_false]
  · simp only [Bool.not_true, Bool.and_true, Bool.and_false, Bool.false_or, if_true]

theorem gets_write_s {g : Regs} {r : Fin 32} {x : Word} (hr : r ≠ 0) :
    (g.write (.s r x)).gets r = x ∧ ∀ q, q ≠ r → (g.write (.s r x)).gets q = g.gets q := by
  have hw : (g.write (.s r x)).s = g.s.set r x := by simp only [Regs.write, if_neg hr]
  refine ⟨by simp [Regs.gets, hr, hw], fun q hq => ?_⟩
  simp only [Regs.gets, hw, vec_set_ne _ _ hq]

theorem getp_write_p {g : Regs} {r : Fin 8} {x : Bool} (hr : r ≠ 0) :
    (g.write (.p r x)).getp r = x ∧ ∀ q, q ≠ r → (g.write (.p r x)).getp q = g.getp q := by
  have hw : (g.write (.p r x)).p = setBit g.p r.val x := by simp only [Regs.write, if_neg hr]
  refine ⟨by simp only [Regs.getp, if_neg hr, hw, setBit_same _ _ r.isLt], fun q hq => ?_⟩
  simp only [Regs.getp, hw, setBit_ne _ _ fun e => hq (Fin.ext e)]

/-- The lanes of a v register after a write of some of them. -/
theorem lane_write_v (g : Regs) (r : Fin 32) (msk : BitVec 16) (x : Token) (l : Fin 16) :
    (g.write (.v r msk x)).v[r].elem[l] = (if msk.getLsbD l.val then x.elem[l] else g.v[r].elem[l]) ∧
    (g.write (.v r msk x)).v[r].valid.getLsbD l.val = (if msk.getLsbD l.val then x.valid.getLsbD l.val else g.v[r].valid.getLsbD l.val) := by
  have hl : l.val < 16 := l.isLt
  by_cases hm : msk = BitVec.allOnes 16
  · have hv : (g.write (.v r msk x)).v[r] = x := by simp [Regs.write, hm]
    have hbit : msk.getLsbD l.val = true := by rw [hm, BitVec.getLsbD_allOnes, decide_eq_true hl]
    rw [hv, hbit]
    exact ⟨rfl, rfl⟩
  · have hv : (g.write (.v r msk x)).v[r] = Token.merge g.v[r] x msk := by
      simp only [Regs.write, if_neg hm]
      exact Vector.getElem_set_self ..
    rw [hv]
    exact ⟨lanes_get _ l, masked_bit _ _ _ l⟩

/-- Settles O33: the write of each kind of register. -/
theorem registerWrites : Obligations.RegisterWrites := by
  unfold Obligations.RegisterWrites
  refine ⟨fun g => ⟨?_, rfl, rfl, fun _ => rfl, fun _ => rfl⟩, fun g r x hr => gets_write_s hr, fun g r x hr => getp_write_p hr,
    lane_write_v, fun g r msk x l => ?_⟩
  · rfl
  · have hm : (g.write (.m r msk x)).m[r] = (g.m[r] &&& ~~~msk) ||| (x &&& msk) := by simp [Regs.write]
    rw [hm]
    exact masked_bit _ _ _ l

/-! ## Empty sources (06 R182, R183) -/

/-- A form that asks for its row's sources and destinations, and that nothing else holds, stalls and traps as its row says. -/
theorem operands_of {i : Instr} {r : SlotRow} {closing : Bool} {p : Pred} {f : Sem} (he : ∀ s, exec i s = slot closing p f s)
    (h : ∀ env c pos, (r env c pos).pred = p ∧ (r env c pos).closing = closing ∧ (f env c pos).srcs = (r env c pos).srcs ∧
      (f env c pos).dests = (r env c pos).dests ∧ (f env c pos).busy = false) : StallsOn i r ∧ TrapsEmpty i r :=
  ⟨stalls_of he fun env c pos => let ⟨hp, _, hs, hd, _⟩ := h env c pos; ⟨hp, hs, hd⟩, empty_of he h⟩

/-- Settles O30: each form asks for the sources and destinations of its row, and nothing else holds it. -/
theorem emptySources : Obligations.EmptySources := by
  unfold Obligations.EmptySources
  refine ⟨?pairs, ?singles, ?lanes, fun p f => ?st, fun p f => ?mclr⟩
  case pairs =>
    simp only [scalarPairs, List.forall_mem_cons, List.not_mem_nil, false_implies, implies_true, and_true]
    refine ⟨?_, ?_, ?_, ?_, ?_, ?_, ?_, ?_, ?_, ?_⟩ <;> exact fun p f => operands_of (fun _ => rfl) fun _ _ _ => ⟨rfl, rfl, rfl, rfl, rfl⟩
  case singles =>
    simp only [scalarSingles, List.forall_mem_cons, List.not_mem_nil, false_implies, implies_true, and_true]
    refine ⟨?_, ?_, ?_, ?_, ?_⟩ <;> exact fun p f => operands_of (fun _ => rfl) fun _ _ _ => ⟨rfl, rfl, rfl, rfl, rfl⟩
  case lanes =>
    simp only [exactPairs, List.forall_mem_cons, List.not_mem_nil, false_implies, implies_true, and_true]
    refine ⟨?_, ?_, ?_, ?_, ?_, ?_, ?_, ?_, ?_⟩ <;> exact fun p f => operands_of (fun _ => rfl) fun _ _ _ => ⟨rfl, rfl, rfl, rfl, rfl⟩
  case st => exact stalls_of (fun _ => rfl) fun _ _ _ => ⟨rfl, rfl, rfl⟩
  case mclr => exact stalls_of (fun _ => rfl) fun _ _ _ => ⟨rfl, rfl, rfl⟩

end Sys2Proof.Machine
end

section
/-! The frame of a slot form that runs alone (06 R180, R207, 07 R224, 10 R289). -/

namespace Sys2Proof.Machine

/-- A core compared with itself, where its group stands elsewhere. -/
theorem framed_issue (c : Core) (i : Issue) : Framed [] c { c with issue := i } :=
  ⟨fun x _ _ => agrees_of_regs rfl rfl x, rfl, rfl, rfl, rfl, rfl, rfl, fun _ => rfl, fun _ _ => rfl, fun _ => rfl, fun _ => rfl, fun _ => rfl,
   fun _ => rfl, fun _ => rfl, fun _ _ _ => rfl⟩

/-- The frame of a group holds of the core after it, whatever it asks of its streamer. -/
theorem Framed.apply {l : List Effect} {c d : Core} (h : Framed l c d) (k : List CopyJob) (q : BitVec 16) :
    Framed l c { d with copies := k, seq := q } :=
  ⟨fun x h1 h2 => agrees_trans (h.regs x h1 h2) (agrees_of_regs rfl rfl x), h.acc, h.trapRec, h.caps, h.strm, h.cfgModes, h.dfaults, h.keys,
   h.fpcr, h.mode, h.accMap, h.accOwn, h.modes, h.nps, h.bytes⟩

/-- The frame of a group holds where the group stands elsewhere before it. -/
theorem Framed.before {l : List Effect} {c d : Core} {i : Issue} (h : Framed l { c with issue := i } d) : Framed l c d :=
  ⟨fun x h1 h2 => agrees_trans (agrees_of_regs rfl rfl x) (h.regs x h1 h2), h.acc, h.trapRec, h.caps, h.strm, h.cfgModes, h.dfaults, h.keys,
   h.fpcr, h.mode, h.accMap, h.accOwn, h.modes, h.nps, h.bytes⟩

theorem takeTrap_faulted {c : Core} {t : TrapInfo} {n : Nat} {f : Firing} (h : (c.takeTrap t n).1.firing = some f) : f.state = .faulted := by
  obtain ⟨g, -, rfl⟩ := Option.map_eq_some_iff.mp h
  rfl

/-- The last slot of a group holds the group, takes its firing to FAULTED, or issues. -/
theorem closeGroup_cases (c : Core) (env : Env) :
    (c.closeGroup env).1 = { c with issue := c.issue.restart } ∨
    (∀ f, (c.closeGroup env).1.firing = some f → f.state = .faulted) ∨ (c.closeGroup env).1 = c.issueGroup.1 := by
  unfold Core.closeGroup
  split
  · exact .inl rfl
  · simp only
    split
    · exact .inr (.inl fun f hf => takeTrap_faulted hf)
    · exact .inr (.inr rfl)

/-- A slot form that has run alone framed its effects, each of which its instruction may have. -/
theorem RanAlone.framed {s : State} {c d : Core} {pos : Fin 8} {i : Instr} {e : SlotWord} (h : RanAlone s c pos i e d) :
    ∃ l, (∀ x ∈ l, x.mayBe i e.cls) ∧ Framed l c d := by
  obtain ⟨f, hf, hmay⟩ := exec_mayDo i e h.word
  obtain ⟨t, ht, hd⟩ := h.next
  obtain ⟨g, hg, halive⟩ := h.alive
  rw [hf, slot_at _ _ _ h.last.core, runSlot_last h.last.todo] at ht
  injection ht with ht
  have hallowed : ∀ x ∈ (if c.executes e.pred then (f (s.env s.focus) c pos).judge c pos else .go []).effects, x.mayBe i e.cls := by
    split
    · simp only [SlotReq.judge]
      split
      · exact allowed_hold
      · split
        · exact allowed_trap
        · split
          · exact allowed_trap
          · exact hmay _ _ _
    · exact allowed_nil
  generalize (if c.executes e.pred then (f (s.env s.focus) c pos).judge c pos else .go []) = r at ht hallowed
  obtain ⟨k, q, hcore⟩ := core_set_applyAll s s.focus ((c.joined (closesOp e.cls e.op) r).closeGroup (s.env s.focus)).1
    ((c.joined (closesOp e.cls e.op) r).closeGroup (s.env s.focus)).2
  rw [ht, hd] at hcore
  injection hcore with hcore
  subst hcore
  rcases closeGroup_cases (c.joined (closesOp e.cls e.op) r) (s.env s.focus) with hhold | hfault | hissue
  · rw [hhold]
    exact ⟨[], by simp, (framed_issue c _).apply k q⟩
  · exact absurd (hfault g hg) halive
  · rw [hissue]
    have heffects : (c.joined (closesOp e.cls e.op) r).issue.effects = r.effects := by
      cases r <;> simp [Core.joined, Issue.gather, h.quiet.effects, SlotResult.effects]
    have hsoft : (c.joined (closesOp e.cls e.op) r).issue.soft = none := by
      cases r <;> simp [Core.joined, Issue.gather, h.quiet.soft]
    have hno : ∀ k x, Effect.soft k x ∉ (c.joined (closesOp e.cls e.op) r).issue.effects := fun k x hx => by
      rw [heffects] at hx
      rcases (hallowed _ hx).2 with ⟨p, g, hi⟩ | ⟨p, g, hi⟩
      · exact h.hard.1 p g hi
      · exact h.hard.2 p g hi
    have hframed := issueGroup_framed hsoft hno
    rw [heffects] at hframed
    exact ⟨r.effects, hallowed, hframed.before.apply k q⟩

/-- Settles O34: an effect of the form touches no register but the destination. -/
theorem destinationFrame : Obligations.DestinationFrame := by
  unfold Obligations.DestinationFrame
  intro s c pos i e d h r hr
  obtain ⟨l, hmay, hf⟩ := h.framed
  refine hf.regs r (fun x hx htouch => ?_) (by simp [h.quiet.flight])
  rcases (hmay x hx).1 with hnone | hdest
  · rw [hnone] at htouch
    nomatch htouch
  · exact hr (hdest ▸ htouch)

/-- Settles O35: each field but its own forms' is kept by effects that the form may have. -/
theorem specialRegisterFrame : Obligations.SpecialRegisterFrame := by
  unfold Obligations.SpecialRegisterFrame
  intro s c pos i e d h
  obtain ⟨l, hmay, hf⟩ := h.framed
  refine ⟨hf.acc, hf.trapRec, hf.caps, hf.strm, hf.cfgModes, hf.dfaults, fun hswr => ⟨?keys, ?mode, fun hcls => ?fpcr⟩, fun ha hb => ?map,
    fun ha hb => ?own, fun ha => ?modes, fun ha hb => ?nps⟩
  case keys => exact hf.keys fun k x hx => let ⟨p, g, hi⟩ := (hmay _ hx).2; hswr p g hi
  case mode => exact hf.mode fun x hx => let ⟨p, g, hi⟩ := (hmay _ hx).2; hswr p g hi
  case fpcr => exact hf.fpcr (fun x hx => let ⟨p, g, hi⟩ := (hmay _ hx).2; hswr p g hi) fun x hx => hcls (hmay _ hx).2
  case map => exact hf.accMap fun x hx => (hmay _ hx).2.elim (fun ⟨p, g, hi⟩ => ha p g hi) fun ⟨p, g, hi⟩ => hb p g hi
  case own => exact hf.accOwn fun x hx => (hmay _ hx).2.elim (fun ⟨p, g, hi⟩ => ha p g hi) fun ⟨p, g, hi⟩ => hb p g hi
  case modes => exact hf.modes fun b m hx => let ⟨p, g, hi⟩ := (hmay _ hx).2; ha p g hi
  case nps => exact hf.nps fun b hx => (hmay _ hx).2.elim (fun ⟨p, hi⟩ => ha p hi) fun ⟨p, hi⟩ => hb p hi

/-- Settles O36: no effect of the form is a scratchpad store of the gate. -/
theorem scratchpadFrame : Obligations.ScratchpadFrame := by
  unfold Obligations.ScratchpadFrame
  intro s c pos i e d h hw h1 h2 h3 h4 h5 h6
  obtain ⟨l, hmay, hf⟩ := h.framed
  refine hf.bytes (fun g hg => ?_) hw
  rcases (hmay _ hg).2 with hglobal | ⟨p, f, hi⟩ | ⟨p, f, hi⟩ | ⟨p, f, hi⟩ | ⟨p, f, hi⟩ | ⟨p, f, hi⟩ | ⟨p, f, hi⟩
  · exact hglobal
  · exact absurd hi (h1 p f)
  · exact absurd hi (h2 p f)
  · exact absurd hi (h3 p f)
  · exact absurd hi (h4 p f)
  · exact absurd hi (h5 p f)
  · exact absurd hi (h6 p f)

end Sys2Proof.Machine
end

section
/-! Stores, traps and the boundary of a bundle (07 R224, 08 R239, R240, 11 R325 to R333). -/

namespace Sys2Proof.Machine

/-! ## The cells of a store -/

theorem cellAt_cons (a x : Nat) (b : Byte) (l : List (Nat × Byte)) :
    cellAt ((a, b) :: l) x = (cellAt l x).or (if a = x then some b else none) := by
  rw [cellAt]
  cases cellAt l x <;> rfl

theorem cellAt_append (l m : List (Nat × Byte)) (x : Nat) : cellAt (l ++ m) x = (cellAt m x).or (cellAt l x) := by
  induction l with
  | nil => simp [cellAt]
  | cons y l ih =>
    obtain ⟨a, b⟩ := y
    rw [List.cons_append, cellAt_cons, cellAt_cons, ih, Option.or_assoc]

/-- The bytes at an address up hold their own addresses. -/
theorem cellAt_cellsAt (l : List Byte) (a k : Nat) : cellAt (cellsAt a l) k = if a ≤ k then l[k - a]? else none := by
  induction l generalizing a with
  | nil => simp [cellsAt, cellAt]
  | cons b l ih =>
    rw [cellsAt, cellAt_cons, ih (a + 1)]
    rcases Nat.lt_trichotomy k a with h | rfl | h
    · simp [show ¬ a + 1 ≤ k by omega, show ¬ a ≤ k by omega, show a ≠ k by omega]
    · simp [show ¬ k + 1 ≤ k by omega]
    · obtain ⟨n, rfl⟩ : ∃ n, k = a + 1 + n := ⟨k - (a + 1), by omega⟩
      simp [show a + 1 + n - a = n + 1 by omega, show a ≤ a + 1 + n by omega, show a ≠ a + 1 + n by omega]

theorem cellAt_leBytes (a n x k : Nat) :
    cellAt (cellsAt a (leBytes n x)) k = if a ≤ k ∧ k < a + n then some (BitVec.ofNat 8 (x / 256 ^ (k - a))) else none := by
  rw [cellAt_cellsAt]
  by_cases ha : a ≤ k
  · by_cases hk : k < a + n
    · rw [if_pos ha, if_pos ⟨ha, hk⟩, leBytes_getElem? x (by omega)]
    · rw [if_pos ha, if_neg (by omega), List.getElem?_eq_none (by rw [length_leBytes]; omega)]
  · rw [if_neg ha, if_neg (by omega)]

theorem cellAt_flatMap_none {α : Type} {g : α → List (Nat × Byte)} {x : Nat} {L : List α} (h : ∀ j ∈ L, cellAt (g j) x = none) :
    cellAt (L.flatMap g) x = none := by
  induction L with
  | nil => rfl
  | cons j L ih =>
    rw [List.flatMap_cons, cellAt_append, ih fun k hk => h k (List.mem_cons_of_mem _ hk), h j (by simp)]
    rfl

/-- Where one member of a list holds an address, the cells of all of them hold its byte. -/
theorem cellAt_flatMap_unique {α : Type} {g : α → List (Nat × Byte)} {x : Nat} {L : List α} {l : α} (hl : l ∈ L)
    (h : ∀ j ∈ L, j ≠ l → cellAt (g j) x = none) : cellAt (L.flatMap g) x = cellAt (g l) x := by
  classical
  induction L with
  | nil => nomatch hl
  | cons j L ih =>
    rw [List.flatMap_cons, cellAt_append]
    by_cases hL : l ∈ L
    · rw [ih hL fun k hk => h k (List.mem_cons_of_mem _ hk)]
      by_cases hj : j = l
      · rw [hj, Option.or_self]
      · rw [h j (by simp) hj, Option.or_none]
    · obtain rfl : l = j := (List.mem_cons.mp hl).resolve_right hL
      rw [cellAt_flatMap_none fun k hk => h k (List.mem_cons_of_mem _ hk) fun hkl => hL (hkl ▸ hk), Option.none_or]

/-- The cells of one lane, where it is stored. -/
theorem laneCell (ea : Word) (t : Token) (msk : BitVec 16) (j : Fin 16) (x : Nat) :
    cellAt (if msk.getLsbD j.val then cellsAt (ea.toNat + 4 * j.val) (leBytes 4 t.elem[j].toNat) else []) x
      = if msk.getLsbD j.val ∧ ea.toNat + 4 * j.val ≤ x ∧ x < ea.toNat + 4 * j.val + 4
        then some (BitVec.ofNat 8 (t.elem[j].toNat / 256 ^ (x - (ea.toNat + 4 * j.val)))) else none := by
  cases msk.getLsbD j.val
  · simp [cellAt]
  · simp only [if_true, cellAt_leBytes, true_and]

theorem cellAt_laneCells {ea : Word} {t : Token} {msk : BitVec 16} {l : Fin 16} {k : Nat} (hk : k < 4) :
    cellAt (laneCells ea t msk) (ea.toNat + 4 * l.val + k)
      = if msk.getLsbD l.val then some (BitVec.ofNat 8 (t.elem[l].toNat / 256 ^ k)) else none := by
  rw [laneCells, cellAt_flatMap_unique (List.mem_finRange l) fun j _ hj => ?_, laneCell]
  · simp [hk]
  · have hne : j.val ≠ l.val := fun h => hj (Fin.ext h)
    rw [laneCell, if_neg (by omega)]

theorem cellAt_laneCells_outside {ea : Word} {t : Token} {msk : BitVec 16} {a : Nat} (h : a < ea.toNat ∨ ea.toNat + 64 ≤ a) :
    cellAt (laneCells ea t msk) a = none :=
  cellAt_flatMap_none fun j _ => by
    have := j.isLt
    rw [laneCell, if_neg (by omega)]

/-! ## Stores -/

theorem gatedByte_append_scratch (l : List GateEntry) (cells : List (Nat × Byte)) (n a : Nat) :
    gatedByte (l ++ [{ store := .scratch cells, rows := n }]) a = (cellAt cells a).or (gatedByte l a) := by
  induction l with
  | nil =>
    simp only [List.nil_append, gatedByte, Option.or_none]
  | cons e l ih =>
    rw [List.cons_append, gatedByte, ih, gatedByte]
    cases cellAt cells a <;> rfl

/-- A store's cells in the gate are what the LS slot then reads. -/
theorem localByte_gated {c d : Core} {cells : List (Nat × Byte)} {n a : Nat}
    (hg : d.gate = c.gate ++ [{ store := .scratch cells, rows := n }]) (hs : d.spad = c.spad) : d.localByte a = c.storedAt cells a := by
  rw [localByte_eq, hg, hs, gatedByte_append_scratch, Core.storedAt]
  cases cellAt cells a with
  | none => rw [Option.none_or, localByte_eq]
  | some b => rfl

/-- A form that completes with its cells in the gate stores them. -/
theorem stores_of {i : Instr} {r : SlotRow} {cells : Core → List (Nat × Byte)} (hi : Completes i r)
    (hr : ∀ env c pos, (r env c pos).closing = false ∧ ∃ n, (r env c pos).effects = [.gate { store := .scratch (cells c), rows := n }]) :
    Stores i r cells := by
  intro s c pos hl hq hw hok hrun
  obtain ⟨hclosing, n, heffects⟩ := hr (s.env s.focus) c pos
  have hexec := hi s c pos hl hok hrun
  rw [hclosing, heffects] at hexec
  obtain ⟨k, q, hd⟩ := issued_core s c false (.go [.gate { store := .scratch (cells c), rows := n }])
  refine ⟨_, _, hexec, hd, fun a => ?_⟩
  let g : Core := { (c.joined false (.go [.gate { store := .scratch (cells c), rows := n }])).waited with
    gate := c.gate ++ [{ store := .scratch (cells c), rows := n }] }
  have hissue : (c.joined false (.go [.gate { store := .scratch (cells c), rows := n }])).issueGroup.1 = (g.afterGroup c.issue.markNext).1 := by
    rw [issueGroup_open hq]
    exact congrArg (fun d : Core => (d.afterGroup c.issue.markNext).1) (advance_quiet (c := g) hq.flight)
  rw [hissue]
  have hbytes := ((afterGroup_passed (c := g) c.issue.markNext hq.soft).bytes hw).2 a
  exact hbytes.trans (localByte_gated rfl rfl)

/-- Settles O37: each store form completes with its cells in the gate, and each cell is at its byte's address. -/
theorem storeFrame : Obligations.StoreFrame := by
  unfold Obligations.StoreFrame
  refine ⟨fun p f => stores_of (completes_st fun _ => rfl) ?_, fun p f => stores_of (completes_st fun _ => rfl) ?_,
    fun p f => stores_of (completes_vst fun _ => rfl) ?_, fun p f => stores_of (completes_vst fun _ => rfl) ?_,
    fun p f => stores_of (completes_vst fun _ => rfl) ?_, fun p f => stores_of (completes_vst fun _ => rfl) ?_,
    cellAt_leBytes, fun ea t msk l k => cellAt_laneCells, fun ea t msk a => cellAt_laneCells_outside⟩
  all_goals exact fun env c pos => ⟨rfl, _, rfl⟩

/-- A slot whose operands are there gives its own answer. -/
theorem judge_result {r : SlotReq} {c : Core} {pos : Fin 8} (hb : r.busy = false) (hfull : ∀ x ∈ r.srcs, c.regs.full x.1 = true)
    (hgood : ∀ x ∈ r.srcs, x.1 ∉ c.regs.bad) (hd : r.dests = []) : r.judge c pos = r.result := by
  have hbad : c.badSource r.srcs = false := by
    rw [Core.badSource, List.any_eq_false]
    intro x hx
    simp [hgood x hx]
  simp [SlotReq.judge, stalls_full hfull, hd, hb, hbad]

/-- A group without a trap of its own, whose stores do not fit the gate, traps in the LS slot (08 R239). -/
theorem closeGroup_full {d : Core} {env : Env} (hh : d.issue.hold = false) (ht : d.issue.trap = none) (hw : d.waitsOk env = true)
    (hclosing : (d.issue.closing || d.issue.release) = false) (hroom : 32 < gateRows d.gate + rowsTaken d.issue.effects) :
    d.closeGroup env = d.takeTrap (trapOf trapStoreGateFull 4) d.issue.pc := by
  have hold : (d.issue.hold || !d.waitsOk env) = false := by rw [hh, hw]; rfl
  have htrap : d.groupTrap d.issue = some (trapOf trapStoreGateFull 4) := by
    rw [Core.groupTrap, if_pos hroom, ht]
  simp only [Core.closeGroup, hold, hclosing, Bool.false_eq_true, if_false, htrap, List.nil_append]

/-- Settles O41: the gate's room is the group's last check. -/
theorem storeGateFull : Obligations.StoreGateFull := by
  unfold Obligations.StoreGateFull
  intro p f s c pos r hl hq hp hfull hgood hok hroom
  have hreq : stReq c pos f.d f.a f.ta f.td f.ty (narrowAddr (c.regs.gets f.a) f.off (tySize f.ty)) = r.request :=
    request_checked hok.clear (lsTrap_write_none nofun hok)
  have hjudge := judge_result (r := r.request) (pos := pos) rfl hfull hgood rfl
  have hclosing : ((c.joined false (.go r.effects)).issue.closing || (c.joined false (.go r.effects)).issue.release) = false := by
    simp [Core.joined, Issue.gather, hq.closing, hq.release]
  have heffects : (c.joined false (.go r.effects)).issue.effects = r.effects := by simp [Core.joined, hq.effects]
  have hclose := closeGroup_full (d := c.joined false (.go r.effects)) (env := s.env s.focus) (by simp [Core.joined, hl.hold])
    (by simp [Core.joined, hl.trap]) (by rw [waitsOk_joined]; exact hl.waits) hclosing (by rw [heffects]; exact hroom)
  have hexec : exec (.st p f) s = slot false p (fun _ c k => stReq c k f.d f.a f.ta f.td f.ty
    (narrowAddr (c.regs.gets f.a) f.off (tySize f.ty))) s := rfl
  rw [hexec, slot_at _ _ _ hl.core, runSlot_last hl.todo, hp, if_pos rfl, hreq, hjudge]
  simp only [SlotSpec.request, hclose, State.trapsWith, hclosing]
  rfl

/-! ## Taking a trap (08 R240) -/

theorem fpcrFlags_putFlags (x : Word) (f : FpFlags) : fpcrFlags (putFlags x f) = f := by
  apply BitVec.eq_of_getLsbD_eq
  intro i hi
  have hmask : (0x1F00 : Word).getLsbD (8 + i) = true := (by decide : ∀ j < 5, (0x1F00 : Word).getLsbD (8 + j) = true) i hi
  have hin : 8 + i < 64 := by omega
  simp only [fpcrFlags, putFlags, BitVec.getLsbD_extractLsb', BitVec.getLsbD_or, BitVec.getLsbD_and, BitVec.getLsbD_not, hmask, hi, hin,
    BitVec.getLsbD_shiftLeft, BitVec.getLsbD_setWidth]
  simp [show i < 64 by omega]

theorem field_putFlags (x : Word) (f : FpFlags) : field (putFlags x f) 7 0 = field x 7 0 := by
  have hlow : (putFlags x f).extractLsb' 0 8 = x.extractLsb' 0 8 := by
    apply BitVec.eq_of_getLsbD_eq
    intro i hi
    have hmask : (0x1F00 : Word).getLsbD i = false := (by decide : ∀ j < 8, (0x1F00 : Word).getLsbD j = false) i hi
    simp only [putFlags, BitVec.getLsbD_extractLsb', BitVec.getLsbD_or, BitVec.getLsbD_and, BitVec.getLsbD_not, Nat.zero_add, hmask,
      BitVec.getLsbD_shiftLeft, hi, show i < 64 by omega]
    simp
  have hval := congrArg BitVec.toNat hlow
  simpa only [field, BitVec.extractLsb'_toNat, Nat.shiftRight_zero, Nat.pow_zero, Nat.div_one, Nat.sub_zero, Nat.reduceAdd] using hval

theorem field_trapRec0 (t : TrapInfo) (nps : Bool) (f : Firing) :
    field (trapRec0 t nps (some f)) 8 0 = t.code.toNat ∧ field (trapRec0 t nps (some f)) 9 9 = boolBit nps ∧
    field (trapRec0 t nps (some f)) 12 10 = t.kind.val ∧ field (trapRec0 t nps (some f)) 15 13 = t.slot.val ∧
    field (trapRec0 t nps (some f)) 35 20 = f.task.num % 2 ^ 16 ∧ field (trapRec0 t nps (some f)) 47 36 = f.rank % 2 ^ 12 ∧
    field (trapRec0 t nps (some f)) 63 48 = f.tag.toNat := by
  have h1 := t.code.isLt
  have h2 := t.kind.isLt
  have h3 := t.slot.isLt
  have h4 := f.tag.isLt
  have h5 := t.subidx.isLt
  have h6 : boolBit nps < 2 := by cases nps <;> decide
  simp only [field, trapRec0, BitVec.toNat_ofNat, Nat.reducePow, Nat.reduceSub, Nat.reduceAdd] at *
  refine ⟨?_, ?_, ?_, ?_, ?_, ?_, ?_⟩ <;> omega

theorem field_trapRec1 (a b : Nat) : field (trapRec1 a b) 63 44 = a % 2 ^ 20 ∧ field (trapRec1 a b) 43 24 = b % 2 ^ 20 := by
  simp only [field, trapRec1, BitVec.toNat_ofNat, Nat.reducePow, Nat.reduceSub, Nat.reduceAdd]
  constructor <;> omega

theorem field_trapRec3 (t : TrapInfo) :
    field (trapRec3 t) 63 62 = t.space.val ∧ field (trapRec3 t) 61 59 = t.access.val ∧ field (trapRec3 t) 58 56 = t.xch.val ∧
    field (trapRec3 t) 55 40 = t.seq.toNat ∧ field (trapRec3 t) 39 0 = t.xid.toNat % 2 ^ 40 := by
  have h1 := t.space.isLt
  have h2 := t.access.isLt
  have h3 := t.xch.isLt
  have h4 := t.seq.isLt
  simp only [field, trapRec3, BitVec.toNat_ofNat, Nat.reducePow, Nat.reduceSub, Nat.reduceAdd] at *
  refine ⟨?_, ?_, ?_, ?_, ?_⟩ <;> omega

/-- A trap that is not a breakpoint sends its token to the handler. -/
theorem trapped_tokens {s : State} {n : Nat} {t : TrapInfo} {c : Core} {f : Firing} (hc : s.core n = some c) (hf : c.firing = some f)
    (ht : t.code ≠ trapBreak) :
    (s.trapped n t).tokens = s.tokens ++ [{ core := n, ns := c.ns, pen := f.task.num, rec_ := c.trapRec, pager := t.code == trapHandleInvalid }] := by
  have hyoung : (s.dropYoung n).core n = some c := hc
  have hno : ¬ (t.code = trapBreak ∧ c.halted = true) := fun h => ht h.1
  simp only [State.trapped, hyoung, hf, if_neg hno]
  split <;> rfl

/-- A trap of a group that closes no region: the core's trap, and its token. -/
theorem trapsWith_open {s : State} {c : Core} {t : TrapInfo} (hclosing : c.issue.closing = false) (hrelease : c.issue.release = false) :
    s.trapsWith c false (.trap t) t
      = (s.setCore s.focus ((c.joined false (.trap t)).takeTrap t c.issue.pc).1).trapped s.focus t := by
  have hno : ((c.joined false (.trap t)).issue.closing || (c.joined false (.trap t)).issue.release) = false := by
    simp [Core.joined, Issue.gather, hclosing, hrelease]
  simp only [State.trapsWith, hno, Bool.false_eq_true, if_false, List.nil_append]
  rfl

/-- Settles O40: the record's fields, the rollback's, and the token. -/
theorem trapEntry : Obligations.TrapEntry := by
  unfold Obligations.TrapEntry
  intro s c f t hf hclosing hrelease hcode
  have hfiring : ((c.joined false (.trap t)).takeTrap t c.issue.pc).1.firing = some { f with state := .faulted } := by
    have hmap : ((c.joined false (.trap t)).takeTrap t c.issue.pc).1.firing = c.firing.map fun f => { f with state := .faulted } := rfl
    rw [hmap, hf]
    rfl
  have hcore := core_setCore s s.focus ((c.joined false (.trap t)).takeTrap t c.issue.pc).1
  have htokens := trapped_tokens (t := t) hcore hfiring hcode
  have hrec0 : ((c.joined false (.trap t)).takeTrap t c.issue.pc).1.trapRec[0] = trapRec0 t c.nps.isSome (some f) :=
    congrArg (trapRec0 t c.nps.isSome) hf
  obtain ⟨r1, r2, r3, r4, r5, r6, r7⟩ := field_trapRec0 t c.nps.isSome f
  obtain ⟨r8, r9⟩ := field_trapRec1 c.issue.pc c.shadow.pc
  obtain ⟨r10, r11, r12, r13, r14⟩ := field_trapRec3 t
  rw [trapsWith_open hclosing hrelease]
  refine ⟨_, (sameModule_trapped _ _ t).2.trans hcore, rfl, fpcrFlags_putFlags _ _, field_putFlags _ _, rfl, rfl, rfl, rfl, rfl, hfiring,
    fun x hx => ?_, fun x hx => ?_, rfl, hrec0 ▸ r1, hrec0 ▸ r2, hrec0 ▸ r3, hrec0 ▸ r4, hrec0 ▸ r5, hrec0 ▸ r6, hrec0 ▸ r7, r8, r9, rfl,
    r10, r11, r12, r13, r14, _, htokens, rfl, rfl, beq_iff_eq⟩
  · exact (List.mem_filter.mp hx).2
  · exact (List.mem_filter.mp hx).2

/-! ## The boundary of a bundle (11 R325 to R333) -/

/-- After the last group of a bundle comes its boundary. -/
theorem afterGroup_boundary {c : Core} {b : Bundle} (m : Bool) (hb : c.issue.bundle = some b)
    (hl : c.issue.second = true ∨ groupSlots b true = []) : c.afterGroup m = c.boundary b m := by
  have hlast : (!c.issue.second && !(groupSlots b true).isEmpty) = false := by
    rcases hl with h | h <;> simp [h]
  simp only [Core.afterGroup, hb, hlast, Bool.false_eq_true, if_false]

/-- A boundary without a software trap goes where the transfer or the loops send it. -/
theorem boundary_goes {c : Core} (b : Bundle) (m : Bool) (hs : c.issue.soft = none) :
    (c.boundary b m).1.issue.pc = (nextBundle (c.issue.pc + b.len) c.issue.transfer c.loops).1 ∧
    (c.boundary b m).1.loops = (nextBundle (c.issue.pc + b.len) c.issue.transfer c.loops).2.1 ∧ (c.boundary b m).1.issue.owed = b.nopc.val := by
  simp only [Core.boundary, hs]
  split
  · rw [releaseMark_eq]
    exact ⟨rfl, rfl, rfl⟩
  · exact ⟨rfl, rfl, rfl⟩

/-- A transfer stands at a core. -/
def Core.headed (c : Core) (tr : Option (Nat × Bool)) : Core := { c with issue := { c.issue with transfer := tr } }

/-- The last group of a bundle, whose effects set no more than its transfer: control goes where the transfer and the loops send it. -/
theorem issued_lands (s : State) {c : Core} {b : Bundle} {es : List Effect} {tr : Option (Nat × Bool)} (hq : Quiet c) (hb : AtBoundary c b)
    (hg : ((c.joined false (.go es)).waited.commitGroup es).1 = (c.joined false (.go es)).waited.headed tr) :
    ∃ d, (s.issued c false (.go es)).core s.focus = some d ∧ d.issue.pc = (nextBundle (c.issue.pc + b.len) tr c.loops).1 ∧
      d.loops = (nextBundle (c.issue.pc + b.len) tr c.loops).2.1 ∧ d.issue.owed = b.nopc.val := by
  obtain ⟨k, q, hd⟩ := issued_core s c false (.go es)
  rw [issueGroup_open hq, hg, advance_quiet (c := (c.joined false (.go es)).waited.headed tr) hq.flight,
    afterGroup_boundary (c := (c.joined false (.go es)).waited.headed tr) _ hb.bundle hb.lastHalf] at hd
  exact ⟨_, hd, boundary_goes (c := (c.joined false (.go es)).waited.headed tr) b c.issue.markNext hq.soft⟩

/-- Where a bundle's boundary lands, with a loop stack. -/
theorem lands_iff {s : State} {c : Core} {b : Bundle} {ls out : List LoopEntry} {es : List Effect} {tr : Option (Nat × Bool)} {pc : Nat}
    (hq : Quiet c) (hb : AtBoundary c b)
    (hg : ((({ c with loops := ls } : Core).joined false (.go es)).waited.commitGroup es).1
      = (({ c with loops := ls } : Core).joined false (.go es)).waited.headed tr) :
    (∃ d, (s.issued { c with loops := ls } false (.go es)).core s.focus = some d ∧ d.issue.pc = pc ∧ d.loops = out ∧ d.issue.owed = b.nopc.val) ↔
      (nextBundle (c.issue.pc + b.len) tr ls).1 = pc ∧ (nextBundle (c.issue.pc + b.len) tr ls).2.1 = out := by
  obtain ⟨d, hd, hpc, hloops, howed⟩ := issued_lands s (c := { c with loops := ls }) ⟨hq.effects, hq.closing, hq.release, hq.soft, hq.flight⟩
    ⟨hb.bundle, hb.lastHalf, hb.straight⟩ hg
  constructor
  · rintro ⟨e, he, rfl, rfl, -⟩
    obtain rfl : d = e := Option.some.inj (hd.symm.trans he)
    exact ⟨hpc.symm, hloops.symm⟩
  · rintro ⟨rfl, rfl⟩
    exact ⟨d, hd, hpc, hloops, howed⟩

/-- Settles O43: the boundary follows the loop stack, and a transfer pops it. -/
theorem loopBoundary : Obligations.LoopBoundary := by
  unfold Obligations.LoopBoundary
  refine ⟨fun s c b _ hq hb => ?straight, fun s c b t _ hq hb => ?jump⟩
  case straight =>
    have hnone : ∀ ls, ((({ c with loops := ls } : Core).joined false (.go [])).waited.commitGroup []).1
        = (({ c with loops := ls } : Core).joined false (.go [])).waited.headed none := fun ls => by
      have h := hb.straight
      cases c
      simp only at h
      simp only [Core.headed, ← h]
      rfl
    refine ⟨(lands_iff hq hb (hnone _)).mpr ⟨rfl, rfl⟩, fun e es h => (lands_iff hq hb (hnone _)).mpr ?_,
      fun e es h hn => (lands_iff hq hb (hnone _)).mpr ?_, fun e es pc out h hn hl => (lands_iff hq hb (hnone _)).mpr ?_⟩
    · simp [nextBundle, loopBack, h]
    · simp [nextBundle, loopBack, h, hn]
    · have hpop : loopBack (c.issue.pc + b.len) (e :: es) = loopBack (c.issue.pc + b.len) es := by
        simp [loopBack, h, Nat.not_lt.mpr hn]
      simpa only [nextBundle, hpop] using (lands_iff hq hb (hnone _)).mp hl
  case jump =>
    have hsome : ∀ pops ls, ((({ c with loops := ls } : Core).joined false (.go [.jump t pops])).waited.commitGroup [.jump t pops]).1
        = (({ c with loops := ls } : Core).joined false (.go [.jump t pops])).waited.headed (some (t, pops)) := fun _ _ => rfl
    refine ⟨(lands_iff hq hb (hsome _ _)).mpr ⟨rfl, rfl⟩, fun e es h => (lands_iff hq hb (hsome _ _)).mpr ?_,
      fun e es out h hl => (lands_iff hq hb (hsome _ _)).mpr ?_, fun ls => (lands_iff hq hb (hsome _ _)).mpr ⟨rfl, rfl⟩⟩
    · simp [nextBundle, popLoops, h]
    · simpa [nextBundle, popLoops, h] using (lands_iff hq hb (hsome _ _)).mp hl

/-- A software trap stands at a core. -/
def Core.softened (c : Core) (code : Byte) (imm : BitVec 16) : Core := { c with issue := { c.issue with soft := some (code, imm) } }

/-- A software trap at the last boundary of its bundle: a mark there, then the trap (11 R333). -/
theorem boundary_soft {c : Core} {b : Bundle} {m : Bool} {code : Byte} {imm : BitVec 16} (hs : c.issue.soft = some (code, imm))
    (ht : c.issue.transfer = none) (hl : c.loops = []) :
    (c.boundary b m).1.gate = [] ∧ (c.boundary b m).1.regs = c.regs ∧ (c.boundary b m).1.shadow.pc = c.issue.pc + b.len ∧
      (c.boundary b m).1.issue.pc = c.issue.pc + b.len ∧ (c.boundary b m).1.firing = (c.firing.map fun f => { f with state := .faulted }) ∧
      (c.boundary b m).1.trapRec = #v[trapRec0 (trapOf code 7) c.nps.isSome c.firing, trapRec1 c.issue.pc (c.issue.pc + b.len),
        imm.setWidth 64, trapRec3 (trapOf code 7)] := by
  have hnext : nextBundle (c.issue.pc + b.len) c.issue.transfer c.loops = (c.issue.pc + b.len, [], false) := by rw [ht, hl]; rfl
  simp only [Core.boundary, hs, hnext, releaseMark_eq]
  exact ⟨rfl, rfl, rfl, rfl, rfl, rfl⟩

/-- Settles O42: the group commits, and its boundary traps. -/
theorem softTraps : Obligations.SoftTraps := by
  unfold Obligations.SoftTraps
  intro code p f i hi s c fr b pos hl hq hb hf hrun hloops
  have hexec : exec i s = slot false p (fun _ _ _ => plainReq [] (.go [.soft code f.imm])) s := by
    rcases hi with ⟨rfl, rfl⟩ | ⟨rfl, rfl⟩ <;> rfl
  have hroom : CanRun c p [] [] [.soft code f.imm] :=
    ⟨hrun.runs, hrun.full, hrun.free, hrun.good, by simpa [hq.effects, rowsTaken] using hrun.room⟩
  have hissue := slot_issues (closing := false) (f := fun _ _ _ => plainReq [] (.go [.soft code f.imm])) hl hroom rfl rfl rfl rfl
  obtain ⟨k, q, hd⟩ := issued_core s c false (.go [.soft code f.imm])
  have hcommit : ((c.joined false (.go [.soft code f.imm])).waited.commitGroup [.soft code f.imm]).1
      = (c.joined false (.go [.soft code f.imm])).waited.softened code f.imm := rfl
  rw [issueGroup_open hq, hcommit, advance_quiet (c := (c.joined false (.go [.soft code f.imm])).waited.softened code f.imm) hq.flight,
    afterGroup_boundary (c := (c.joined false (.go [.soft code f.imm])).waited.softened code f.imm) _ hb.bundle hb.lastHalf] at hd
  obtain ⟨hgate, hregs, hshadow, hpc, hfiring, hrec⟩ :=
    boundary_soft (c := (c.joined false (.go [.soft code f.imm])).waited.softened code f.imm) (b := b) (m := c.issue.markNext) rfl hb.straight hloops
  obtain ⟨r1, -, r3, r4, -, -, -⟩ := field_trapRec0 (trapOf code 7) c.nps.isSome fr
  obtain ⟨r8, r9⟩ := field_trapRec1 c.issue.pc (c.issue.pc + b.len)
  have hrec0 : trapRec0 (trapOf code 7) c.nps.isSome c.firing = trapRec0 (trapOf code 7) c.nps.isSome (some fr) := by rw [hf]
  refine ⟨_, _, (hexec.trans hissue), hd, hgate, hregs, hshadow, hpc, hfiring.trans (congrArg (Option.map _) hf), ?_, ?_, ?_, ?_, ?_, ?_⟩
  all_goals simp only [hrec]
  · exact (congrArg (field · 8 0) hrec0).trans r1
  · exact (congrArg (field · 12 10) hrec0).trans r3
  · exact (congrArg (field · 15 13) hrec0).trans r4
  · exact r8
  · exact r9
  · rfl

end Sys2Proof.Machine
end

section
/-! NaN, infinity and zero operands of the floating-point operations (09 R263, 12 R340, R341). -/

namespace Sys2Proof.Machine

/-! ## The values of FP32 bits -/

/-- The value of FP32 bits, by their exponent and fraction. -/
theorem f32_eq (x : Lane) :
    f32 x = (if x.toNat / 2 ^ 23 % 2 ^ 8 = 255 then
        (if x.toNat % 2 ^ 23 = 0 then .inf (decide (x.toNat / 2 ^ 31 % 2 = 1)) else .nan (decide (x.toNat % 2 ^ 23 < 2 ^ 22)))
      else if x.toNat / 2 ^ 23 % 2 ^ 8 = 0 then .fin (decide (x.toNat / 2 ^ 31 % 2 = 1)) (x.toNat % 2 ^ 23) (-149)
      else .fin (decide (x.toNat / 2 ^ 31 % 2 = 1)) (2 ^ 23 + x.toNat % 2 ^ 23) (-149 + ((x.toNat / 2 ^ 23 % 2 ^ 8 : Nat) : Int) - 1)) := by
  have hexp : x.toNat % 2 ^ (8 + 23) / 2 ^ 23 = x.toNat / 2 ^ 23 % 2 ^ 8 := by omega
  have hfrac : x.toNat % 2 ^ (8 + 23) % 2 ^ 23 = x.toNat % 2 ^ 23 := by omega
  simp only [f32, IeeeFmt.decode, fp32, IeeeFmt.signCode, IeeeFmt.qmin, hexp, hfrac]
  simp only [Bool.true_and, beq_iff_eq, Bool.not_true, Bool.false_and, Bool.false_eq_true, if_false]
  rfl

theorem isNan_f32 (x : Lane) : (f32 x).isNan = true ↔ x.toNat / 2 ^ 23 % 2 ^ 8 = 255 ∧ x.toNat % 2 ^ 23 ≠ 0 := by
  rw [f32_eq]
  split
  · split <;> simp_all [Val.isNan]
  · split <;> simp_all [Val.isNan]

theorem sig_f32 (x : Lane) :
    (f32 x).sig = true ↔ (f32 x).isNan = true ∧ x.toNat % 2 ^ 23 < 2 ^ 22 := by
  rw [isNan_f32, f32_eq]
  split
  · split <;> simp_all [Val.sig]
  · split <;> simp_all [Val.sig]

/-! ## NaN operands -/

theorem add_nan {v w : Val} (r : Bool) (h : v.isNan = true ∨ w.isNan = true) : Val.add r v w = .nan (v.sig || w.sig) := by
  cases v <;> cases w <;> simp_all [Val.isNan, Val.sig, Val.add]

theorem mul_nan {v w : Val} (h : v.isNan = true ∨ w.isNan = true) : v.mul w = .nan (v.sig || w.sig) := by
  cases v <;> cases w <;> simp_all [Val.isNan, Val.sig, Val.mul]

@[simp] theorem isNan_neg (v : Val) : v.neg.isNan = v.isNan := by cases v <;> rfl

@[simp] theorem sig_neg (v : Val) : v.neg.sig = v.sig := by cases v <;> rfl

theorem toF32_nan (mode : Rounding) (s : Bool) : toF32 mode (.nan s) = (nan32, flagIf FpFlags.nv s) := rfl

theorem lt_nan {v w : Val} (h : v.isNan = true ∨ w.isNan = true) : v.lt w = false := by
  cases v <;> cases w <;> simp_all [Val.isNan, Val.lt]

theorem eq_nan {v w : Val} (h : v.isNan = true ∨ w.isNan = true) : v.eq_ w = false := by
  rcases h with h | h <;> simp [Val.eq_, h]

/-- The canonical NaN, with NV where an operand signals. -/
theorem nan_flags {a b : Lane} {r : Lane × FpFlags} (h : r = (nan32, flagIf FpFlags.nv ((f32 a).sig || (f32 b).sig))) :
    r.1 = 0x7FC00000 ∧ ((f32 a).sig = true ∨ (f32 b).sig = true → r.2 = 16) ∧ (¬ (f32 a).sig = true → ¬ (f32 b).sig = true → r.2 = 0) := by
  subst h
  refine ⟨rfl, fun hs => ?_, fun ha hb => ?_⟩
  · rw [(Bool.or_eq_true ..).mpr hs]
    rfl
  · rw [Bool.eq_false_iff.mpr ha, Bool.eq_false_iff.mpr hb]
    rfl

/-! ## Sums that cancel -/

theorem dyInt_cancel (neg : Bool) (m : Nat) (e q : Int) : dyInt neg m e q + dyInt (!neg) m e q = 0 := by
  cases neg <;> simp only [dyInt, Bool.not_false, Bool.not_true, Bool.false_eq_true, if_true, if_false] <;> omega

theorem add_neg_self {neg : Bool} {m : Nat} {e : Int} (r : Bool) (h : m ≠ 0) :
    Val.add r (.fin neg m e) (Val.fin neg m e).neg = .fin r 0 0 := by
  simp [Val.add, Val.neg, h, dyInt_cancel]

theorem toF32_zero (mode : Rounding) : toF32 mode (.fin (isRdn mode) 0 0) = (if mode = .rdn then 0x80000000 else 0, 0) := by
  cases mode <;> rfl

/-- A finite value that is not zero. -/
theorem f32_finite {x : Lane} (hexp : x.toNat / 2 ^ 23 % 2 ^ 8 ≠ 255) (hnz : x.toNat % 2 ^ 31 ≠ 0) :
    ∃ neg m e, f32 x = .fin neg m e ∧ m ≠ 0 := by
  rw [f32_eq, if_neg hexp]
  split
  · next h => exact ⟨_, _, _, rfl, by omega⟩
  · exact ⟨_, _, _, rfl, by omega⟩

/-- Settles O46: the arithmetic of NaN, infinities and zeros before the one rounding. -/
theorem fpSpecials : Obligations.FpSpecials := by
  unfold Obligations.FpSpecials
  simp only [← isNan_f32, ← sig_f32]
  refine ⟨?arith, ?order, ?compare, fun a b => ?unordered, fun mode => ?invalid, fun mode => ?zeros, fun mode x hexp hnz => ?cancel⟩
  case arith =>
    simp only [List.forall_mem_cons, List.not_mem_nil, false_implies, implies_true, and_true]
    refine ⟨fun mode a b h => nan_flags ?_, fun mode a b h => nan_flags ?_, fun mode a b h => nan_flags ?_⟩
    · rw [fpAdd, add_nan _ h, toF32_nan]
    · rw [fpSub, add_nan _ (by simpa using h), toF32_nan, sig_neg]
    · rw [fpMul, mul_nan h, toF32_nan]
  case order =>
    simp only [List.forall_mem_cons, List.not_mem_nil, false_implies, implies_true, and_true]
    refine ⟨fun a b h => nan_flags ?_, fun a b h => nan_flags ?_⟩
    · simp only [fpMin, (Bool.or_eq_true ..).mpr h, if_true]
    · simp only [fpMax, (Bool.or_eq_true ..).mpr h, if_true]
  case compare =>
    simp only [List.forall_mem_cons, List.not_mem_nil, false_implies, implies_true, and_true]
    refine ⟨fun a b h => eq_nan h, fun a b h => lt_nan h, fun a b h => ?_⟩
    simp only [fpCmpLe, lt_nan h, eq_nan h, Bool.or_self]
  case unordered => exact (Bool.or_eq_true ..).symm ▸ Iff.rfl
  case invalid => exact ⟨rfl, rfl, rfl, rfl⟩
  case zeros => cases mode <;> exact ⟨rfl, rfl, rfl⟩
  case cancel =>
    obtain ⟨neg, m, e, hx, hm⟩ := f32_finite hexp hnz
    rw [fpSub, hx, add_neg_self _ hm, toF32_zero]

end Sys2Proof.Machine
end

section
/-! The memories in canonical form, as far as a claim asks (log 2). -/

namespace Sys2Proof.Machine

/-- The memories are in canonical form, as far as a claim asks: the module's where `M`, the scratchpads where `K` (log 2). -/
def State.Sound (M K : Prop) (s : State) : Prop := (M → s.memOk) ∧ (K → s.scratchOk)

/-- A core's memories are. -/
def Core.Sound (K : Prop) (c : Core) : Prop := K → c.memOk

/-- An image's cores are. -/
def Image.Sound (K : Prop) (i : Image) : Prop := ∀ x ∈ i.cores, x.2.Sound K

/-- A context's image is. -/
def Ctx.Sound (K : Prop) (x : Ctx) : Prop := ∀ i, x.image = some i → i.Sound K

/-- What an option holds, if anything, has a property. -/
def Each {α : Type} (P : α → Prop) (o : Option α) : Prop := ∀ x, o = some x → P x

section Options
variable {α β : Type} {P : α → Prop} {Q : β → Prop}
theorem each_none : Each P none := nofun
theorem each_some {x : α} (h : P x) : Each P (some x) := fun _ e => Option.some.inj e ▸ h
theorem each_map {o : Option β} {g : β → α} (h : Each (fun x => P (g x)) o) : Each P (o.map g) := by
  cases o with
  | none => exact each_none
  | some x => exact each_some (h x rfl)
theorem each_bind {o : Option β} {g : β → Option α} (h : ∀ x, o = some x → Each P (g x)) : Each P (o.bind g) := by
  cases o with
  | none => exact each_none
  | some x => exact h x rfl
end Options

variable {M K : Prop}

theorem State.Sound.of {s t : State} (h : s.Sound M K) (hp : t.pmem = s.pmem) (hm : t.smem = s.smem) (hc : t.cores = s.cores)
    (hx : t.ctxs = s.ctxs) : t.Sound M K := by
  simp only [State.Sound, State.memOk, State.scratchOk, hp, hm, hc, hx]
  exact h

end Sys2Proof.Machine
end

section
/-! What each operation of a core does with its scratchpad and with what a self-test holds: it keeps their form (log 2). -/

namespace Sys2Proof.Machine
variable {M K : Prop}
open State

theorem withSpad_sound {c : Core} (h : c.Sound K) {m : Memory} (hm : K → m.wf = true) : ({ c with spad := m } : Core).Sound K :=
  fun hk => ⟨hm hk, (h hk).2⟩

/-- A fold keeps what each of its steps keeps. -/
theorem foldl_sound {α β : Type} {P : α → Prop} {g : α → β → α} {l : List β} {x : α} (h : P x) (hg : ∀ y b, P y → P (g y b)) :
    P (l.foldl g x) := by
  induction l generalizing x with
  | nil => exact h
  | cons b l ih => exact ih (hg x b h)

theorem commit_holding (c : Core) (e : Effect) : (c.commit e).1.holding = c.holding := by
  have hentry : ∀ (c : Core) o r0 r1 w, (c.takeEntry o r0 r1 w).1.holding = c.holding := fun c o r0 r1 w => by
    unfold Core.takeEntry
    split <;> rfl
  have hpush : ∀ (c : Core) q op r, (c.pushJob q op r).holding = c.holding := fun c q op r => by cases q <;> rfl
  unfold Core.commit
  split
  all_goals grind [Core.takeXid, Core.doneXid, Core.setDone, Core.takePb, Core.markEmpty, Core.send]

theorem Core.setDone_sound {c : Core} (h : c.Sound K) (ch : Fin 4) : (Core.setDone c ch).Sound K := h

theorem Core.doneXid_sound {c : Core} (h : c.Sound K) (ch : Fin 4) (id : Word) : (Core.doneXid c ch id).Sound K := h

theorem Core.endCopy_sound {c : Core} (h : c.Sound K) (j : CopyJob) : (Core.endCopy c j).Sound K := h

theorem Core.freeEntry_sound {c : Core} (h : c.Sound K) : ∀ r, (c.freeEntry r).Sound K
  | none => h
  | some _ => h

theorem Core.dropCopies_sound {c : Core} (h : c.Sound K) (gone : List Nat) : ∀ l, (c.dropCopies gone l).Sound K
  | [] => h
  | j :: js => by
    have hd := dropCopies_sound h gone js
    unfold Core.dropCopies
    split
    · split
      · exact endCopy_sound (freeEntry_sound hd _) _
      · exact hd
    · exact hd

theorem Core.dropFetches_sound {c : Core} (h : c.Sound K) : ∀ l, (c.dropFetches l).Sound K
  | [] => h
  | f :: fs => by
    have hd := dropFetches_sound h fs
    unfold Core.dropFetches
    extract_lets d
    have hm : ({ d with fetches := d.fetches.filter fun g => g ≠ f } : Core).Sound K := hd
    split
    · exact doneXid_sound (freeEntry_sound hm _) _ _
    · exact hd

theorem Core.setQueue_sound {c : Core} (h : c.Sound K) (q : Queue) (l : List EngJob) : (c.setQueue q l).Sound K := by
  cases q <;> exact h

theorem Core.dropJobs_sound {c : Core} (h : c.Sound K) (q : Queue) : (c.dropJobs q).Sound K := by
  unfold Core.dropJobs
  refine foldl_sound (P := Core.Sound K) h fun d j hd => ?_
  split
  · exact freeEntry_sound (setQueue_sound hd _ _) _
  · exact hd

theorem Core.portDone_sound {c : Core} (h : c.Sound K) (rsb : Option Nat) : (Core.portDone c rsb).Sound K := by
  grind [Core.portDone, Core.freeEntry_sound, Core.Sound, Core.memOk]

theorem Core.dropPort_sound {c : Core} (h : c.Sound K) : (Core.dropPort c).Sound K := by
  grind [Core.dropPort, Core.portDone_sound]

theorem Core.unissue_sound {c : Core} (h : c.Sound K) (f : Firing) : (c.unissue f).Sound K := by
  unfold Core.unissue
  refine foldl_sound (P := Core.Sound K) h fun d l hd => ?_
  split
  · exact hd
  · exact freeEntry_sound hd _

theorem Core.endFiring_sound {c : Core} (h : c.Sound K) (gone : List Nat) : (c.endFiring gone).Sound K := by
  have he := dropPort_sound (dropJobs_sound (dropJobs_sound (dropJobs_sound (dropFetches_sound (dropCopies_sound h gone c.copies) c.fetches)
    .matrix) .scan) .stats)
  unfold Core.endFiring
  cases c.firing with
  | none => exact he
  | some f => exact unissue_sound he f

theorem Core.resume_sound {c : Core} (h : c.Sound K) : (Core.resume c).Sound K := h

theorem Core.saved_sound {c : Core} (h : c.Sound K) : c.saved.Sound K := fun hk => by
  obtain ⟨hs, hh⟩ := h hk
  unfold Core.saved
  cases hc : c.holding with
  | none => exact ⟨Memory.keep_wf hs _, fun x hx => hh x (hc ▸ hx)⟩
  | some x => exact ⟨Memory.keep_wf (hh x hc) _, nofun⟩

theorem Core.unheld_sound {c : Core} (h : c.Sound K) : (Core.unheld c).Sound K := h

theorem Core.reset_sound : Core.reset.Sound K := fun _ => memOk_reset

theorem Core.send_sound {c : Core} (h : c.Sound K) (w : RegWrite) (lat : Nat) : (Core.send c w lat).Sound K := h

theorem Core.abort_sound {c : Core} (h : c.Sound K) (mine : Firing → Bool) : (c.abort mine).Sound K :=
  foldl_sound (P := Core.Sound K) (l := c.stagedF.filter mine) h fun _ f hd => unissue_sound hd f

theorem Core.returnBanks_sound {c : Core} (h : c.Sound K) : c.returnBanks.Sound K := fun hk =>
  ⟨foldl_sound (P := fun m : Memory => m.wf = true) (h hk).1 fun _ _ hm => Memory.clear_wf hm _ _, (h hk).2⟩

theorem Core.retired_sound {c : Core} (h : c.Sound K) : c.retired.Sound K := returnBanks_sound h

theorem Core.takeEntry_sound {c : Core} (h : c.Sound K) (o : RsbOwner) (r0 r1 w : Option Span) : (c.takeEntry o r0 r1 w).1.Sound K := by
  unfold Core.takeEntry
  split <;> exact h

theorem Core.entries_sound : ∀ {c : Core} (_ : c.Sound K) (l : List Landing), (c.entries l).1.Sound K
  | _, h, [] => h
  | _, h, l :: ls => by
    unfold Core.entries
    dsimp only
    refine entries_sound ?_ ls
    split
    · exact h
    · exact takeEntry_sound h _ _ _ _

theorem Core.mapFirings_sound {c : Core} (h : c.Sound K) (h : Firing → Firing) : (Core.mapFirings c h).Sound K := by
  grind [Core.mapFirings, Core.Sound, Core.memOk]

theorem Core.issueAmong_sound : ∀ {c : Core} (_ : c.Sound K) (before l : List Firing), (c.issueAmong before l).Sound K
  | _, h, _, [] => h
  | _, h, before, f :: fs => by
    unfold Core.issueAmong
    split
    · exact issueAmong_sound (mapFirings_sound (entries_sound h _) _) _ fs
    · exact issueAmong_sound h _ fs

theorem Core.issueLandings_sound {c : Core} (h : c.Sound K) : (Core.issueLandings c).Sound K := by
  grind [Core.issueLandings, Core.issueAmong_sound]

theorem Core.refetch_sound {c : Core} (h : c.Sound K) : (Core.refetch c).Sound K := h

theorem Core.markEmpty_sound {c : Core} (h : c.Sound K) (r : FullReg) (v : Option RegWrite) : (Core.markEmpty c r v).Sound K := h

theorem Core.emptyHandle_sound {c : Core} (h : c.Sound K) (r : Fin 16) : (c.emptyHandle r).Sound K := h

theorem Core.putSpad_sound {c : Core} (h : c.Sound K) (l : List (Nat × Byte)) : (c.putSpad l).Sound K :=
  fun hk => ⟨Memory.put_wf l (h hk).1, (h hk).2⟩

theorem Core.install_sound {c : Core} (h : c.Sound K) (g : Config) (n : Nat) : (c.install g n).Sound K := fun hk => by
  obtain ⟨hs, hh⟩ := h hk
  refine ⟨Memory.put_wf _ hs, fun x hx => ?_⟩
  obtain ⟨y, hy, rfl⟩ := Option.map_eq_some_iff.mp hx
  exact Memory.put_wf _ (hh y hy)

theorem Core.land_sound {c : Core} (h : c.Sound K) (w : RegWrite) (old : Bool) : (c.land w old).Sound K := by
  cases w <;> cases old <;> exact h

theorem Core.advance_sound {c : Core} (h : c.Sound K) : c.advance.Sound K := by
  unfold Core.advance
  extract_lets fl d
  have hd : d.Sound K := foldl_sound (P := Core.Sound K) h fun _ _ hc => land_sound hc _ _
  exact hd

theorem Core.mark_sound {c : Core} (h : c.Sound K) : (Core.mark c).Sound K := h

theorem Core.releaseOne_sound {c : Core} (h : c.Sound K) (e : GateEntry) : (c.releaseOne e).1.Sound K := by
  unfold Core.releaseOne
  split
  · exact putSpad_sound h _
  · exact h

theorem Core.release_sound {c : Core} (h : c.Sound K) : c.release.1.Sound K :=
  foldl_sound (P := fun r : Core × List Out => r.1.Sound K) (l := c.gate) h fun _ e hr => releaseOne_sound hr e

theorem Core.releaseMark_sound {c : Core} (h : c.Sound K) : c.releaseMark.1.Sound K := release_sound h

theorem Core.rollback_sound {c : Core} (h : c.Sound K) : (Core.rollback c).Sound K := h

theorem Core.writeRecord_sound {c : Core} (h : c.Sound K) (t : TrapInfo) (bpc : Nat) : (Core.writeRecord c t bpc).Sound K := h

theorem Core.takeTrap_sound {c : Core} (h : c.Sound K) (t : TrapInfo) (n : Nat) : (c.takeTrap t n).1.Sound K := h

theorem Core.boundary_sound {c : Core} (h : c.Sound K) (b : Bundle) (m : Bool) : (c.boundary b m).1.Sound K := by
  unfold Core.boundary
  extract_lets n _ d
  have hd : d.Sound K := h
  split
  · exact takeTrap_sound (releaseMark_sound hd) _ _
  · split
    · exact releaseMark_sound hd
    · exact hd

theorem Core.afterGroup_sound {c : Core} (h : c.Sound K) (m : Bool) : (c.afterGroup m).1.Sound K := by
  unfold Core.afterGroup
  split
  · exact h
  · split
    · dsimp only
      split
      · exact releaseMark_sound h
      · exact h
    · exact boundary_sound h _ _

theorem Core.pushJob_sound {c : Core} (h : c.Sound K) (q : Queue) (op : EngOp) (rsb : Option Nat) : (Core.pushJob c q op rsb).Sound K := by
  grind [Core.pushJob, Core.setQueue_sound]

theorem Core.takePb_sound {c : Core} (h : c.Sound K) : (Core.takePb c).1.Sound K := h

theorem Core.takeXid_sound {c : Core} (h : c.Sound K) (ch : Fin 4) : (Core.takeXid c ch).1.Sound K := h

/-- No effect of a group reaches the scratchpad or what a self-test holds. -/
theorem Core.commit_sound {c : Core} (h : c.Sound K) (e : Effect) : (c.commit e).1.Sound K := by
  have hs := (commit_kept c e).spad
  have hh : (c.commit e).1.holding = c.holding := commit_holding c e
  exact fun hk => ⟨hs ▸ (h hk).1, hh ▸ (h hk).2⟩

theorem Core.commitAll_sound : ∀ {c : Core} (_ : c.Sound K) (l : List Effect), (c.commitAll l).1.Sound K
  | _, h, [] => h
  | _, h, e :: es => commitAll_sound (commit_sound h e) es

theorem Core.commitGroup_sound {c : Core} (h : c.Sound K) (l : List Effect) : (c.commitGroup l).1.Sound K := commitAll_sound h _

theorem Core.waited_sound {c : Core} (h : c.Sound K) : c.waited.Sound K := h

theorem Core.issueGroup_sound {c : Core} (h : c.Sound K) : c.issueGroup.1.Sound K := by
  unfold Core.issueGroup
  extract_lets b m f
  have hb : b.1.Sound K := by
    unfold b
    split
    · exact releaseMark_sound h
    · exact h
  exact afterGroup_sound (advance_sound (commitGroup_sound (waited_sound hb) _)) _

theorem Core.closeGroup_sound {c : Core} (h : c.Sound K) (env : Env) : (c.closeGroup env).1.Sound K := by
  have hb : (if c.issue.closing || c.issue.release then c.releaseMark else (c, [])).1.Sound K := by
    split
    · exact releaseMark_sound h
    · exact h
  unfold Core.closeGroup
  split
  · exact h
  · dsimp only
    split
    · exact takeTrap_sound hb _ _
    · exact issueGroup_sound h

theorem Core.runSlot_sound {c : Core} (h : c.Sound K) (env : Env) (closing : Bool) (p : Pred) (f : Sem) :
    (c.runSlot env closing p f).1.Sound K := by
  unfold Core.runSlot
  extract_lets r d
  have hd : d.Sound K := h
  split
  · exact closeGroup_sound hd env
  · exact hd

theorem Core.enter_sound {c : Core} (h : c.Sound K) (f : Firing) : (Core.enter c f).Sound K := h

theorem Core.beginBundle_sound {c : Core} (h : c.Sound K) (b : Bundle) : (c.beginBundle b).1.Sound K := by
  unfold Core.beginBundle
  dsimp only
  split
  · exact releaseMark_sound h
  · exact h

theorem Core.begin_sound {c : Core} (h : c.Sound K) (f : Firing) : (Core.begin c f).1.Sound K := by
  unfold Core.begin
  split <;> exact h

theorem Core.take_sound {c : Core} (h : c.Sound K) (f : Firing) : (c.take f).1.Sound K := by
  unfold Core.take
  extract_lets idle d e
  have hd : d.Sound K := h
  have he : e.Sound K := issueLandings_sound hd
  split
  · next gs _ _ =>
    have hg : ({ e with stagedF := gs } : Core).Sound K := he
    exact begin_sound hg _
  · exact he

theorem Core.donePb_sound {c : Core} (h : c.Sound K) (id : Word) : (Core.donePb c id).Sound K := h

theorem scanStage_sound {f : Firing} {c : Core} (h : c.Sound K) (a : ScanArgs) (j : EngJob) :
    Each (fun x => x.1.Sound K) (scanStage c f a j) := by
  grind [scanStage, Core.Sound, Core.memOk, Each]

theorem scanExchange_sound (f : Firing) (a : ScanArgs) : ∀ (n : Nat) {c : Core} (_ : c.Sound K) (j : EngJob) (o : List CarryOut),
    (scanExchange f a n c j o).1.Sound K
  | 0, _, h, _, _ => h
  | n + 1, c, h, j, o => by
    unfold scanExchange
    split
    · exact h
    · next hs => exact scanExchange_sound f a n (scanStage_sound h a j _ hs) _ _

theorem Core.scanOn_sound {c : Core} (h : c.Sound K) : c.scanOn.1.Sound K := by
  unfold Core.scanOn
  split
  · split
    · split
      · exact scanExchange_sound _ _ 5 h _ _
      · exact h
    · exact h
  · exact h

theorem Core.collHead_sound {c : Core} (h : c.Sound K) : Each (fun x => x.2.Sound K) (Core.collHead c) := by
  grind [Core.collHead, Core.portDone_sound, Each, Core.Sound, Core.memOk]

theorem Core.eccFault_sound {c : Core} (h : c.Sound K) (addr : Nat) : Each (Core.Sound K) (Core.eccFault c addr) := by
  grind [Core.eccFault, Each, Core.Sound, Core.memOk]

theorem Core.cacheLine_sound {c : Core} (h : c.Sound K) (l : CLine) : (Core.cacheLine c l).Sound K := by
  unfold Core.cacheLine
  split <;> exact h

theorem Core.give_sound {c : Core} (h : c.Sound K) (r : FullReg) (w : RegWrite) : (Core.give c r w).Sound K := h

theorem Core.recent_sound {c : Core} (h : c.Sound K) (line : Nat) : (Core.recent c line).Sound K := h

theorem Core.complete_sound {c : Core} (h : c.Sound K) (r : MemReq) : (c.complete r).Sound K := by
  unfold Core.complete
  extract_lets keep value
  have hkeep : ∀ d : Core, d.Sound K → (keep d).Sound K := fun d hd => by
    unfold keep
    split
    · exact recent_sound hd _
    · exact cacheLine_sound hd _
  split
  · extract_lets d
    have hd : d.Sound K := give_sound h _ _
    split
    · exact hkeep d hd
    · exact hd
  · split
    · exact hkeep c h
    · exact h
  · exact give_sound h _ _
  · exact h
  · exact h
  · next d _ _ =>
    have hd : d.Sound K := by
      unfold d
      split
      · exact endCopy_sound h _
      · exact h
    exact hd

theorem Core.askFreeze_sound {c : Core} (h : c.Sound K) : (Core.askFreeze c).Sound K := by
  unfold Core.askFreeze
  split <;> exact h

theorem Core.released_sound {c : Core} (h : c.Sound K) (saving : Bool) : (Core.released c saving).Sound K := h

theorem Core.emptyEvent_sound {c : Core} (h : c.Sound K) : Each (fun x => x.1.Sound K) (Core.emptyEvent c) := by
  grind [Core.emptyEvent, Core.boundary_sound, Each]

theorem Core.setHead_sound {c : Core} (h : c.Sound K) (q : Queue) (j : EngJob) : (c.setHead q j).Sound K := setQueue_sound h _ _

theorem Core.faultJob_sound {c : Core} (h : c.Sound K) (q : Queue) (j : EngJob) (a : Nat) :
    (c.faultJob q j a).Sound K := setHead_sound h _ _

theorem Core.mended_sound {c : Core} (h : c.Sound K) (cells : List (Nat × Byte)) (acc : Nat → Nat → Bool) :
    (Core.mended c cells acc).Sound K := h

theorem Core.engineFlags_sound {c : Core} (h : c.Sound K) (f : FpFlags) : (Core.engineFlags c f).Sound K := h

theorem drainRun_wf {m : Memory} (h : m.wf = true) (d : Desc) (f : Nat) (acc : List (Nat × Lane)) (n : Nat) :
    (drainRun m d f acc n).1.wf = true :=
  foldl_sound (P := fun r : Memory × FpFlags => r.1.wf = true) h fun _ _ hr => Memory.put_wf _ hr

theorem Core.runMatrix_sound {c : Core} (h : c.Sound K) (op : EngOp) : (c.runMatrix op).Sound K := by
  unfold Core.runMatrix
  split
  · exact h
  · exact h
  · exact fun hk => ⟨drainRun_wf (h hk).1 _ _ _ _, (h hk).2⟩
  · exact h
  · exact h

theorem Desc.writeRow_wf {m : Memory} (h : m.wf = true) (d : Desc) (r : Nat) (l : List Lane) : (d.writeRow m r l).1.wf = true := by
  unfold Desc.writeRow
  exact foldl_sound (P := fun r : Memory × FpFlags => r.1.wf = true) h fun _ _ hr => Memory.put_wf _ hr

theorem Desc.writeTriples_wf {m : Memory} (h : m.wf = true) (d : Desc) (r : Nat) (row : ScanRow) : (d.writeTriples m r row).wf = true :=
  foldl_sound (P := fun m : Memory => m.wf = true) h fun _ _ hm =>
    foldl_sound (P := fun m : Memory => m.wf = true) hm fun _ _ hm => Memory.put_wf _ hm

theorem ScanArgs.write_wf {m : Memory} (h : m.wf = true) (a : ScanArgs) (r : Nat) (row : ScanRow) : (a.write m r row).1.wf = true := by
  unfold ScanArgs.write
  split
  · exact Desc.writeTriples_wf h _ _ _
  · dsimp only
    split
    · exact Desc.writeRow_wf h _ _ _
    · exact Desc.writeRow_wf (Desc.writeRow_wf h _ _ _) _ _ _

theorem ScanArgs.finish_wf {m : Memory} (h : m.wf = true) (a : ScanArgs) (carry : ScanRow) : (a.finish m carry).1.wf = true :=
  foldl_sound (P := fun r : Memory × FpFlags => r.1.wf = true) h fun _ _ hr => ScanArgs.write_wf hr _ _ _

theorem Core.runScan_sound {c : Core} (h : c.Sound K) (f : Firing) (j : EngJob) : (c.runScan f j).Sound K := by
  unfold Core.runScan
  split
  · exact h
  · exact fun hk => ⟨ScanArgs.finish_wf (h hk).1 _ _, (h hk).2⟩

theorem Core.giveW_sound {c : Core} (h : c.Sound K) (w : Fin 8) (r : Moments × FpFlags) : (Core.giveW c w r).Sound K := h

theorem normRun_wf {m : Memory} (h : m.wf = true) (y x : Desc) (w : Moments) (eps : Lane) (g b : Token) :
    (normRun m y x w eps g b).1.wf = true :=
  foldl_sound (P := fun r : Memory × FpFlags => r.1.wf = true) h fun _ _ hr => Memory.put_wf _ hr

theorem Core.runStats_sound {c : Core} (h : c.Sound K) (op : EngOp) : (c.runStats op).Sound K := by
  unfold Core.runStats
  split
  · exact giveW_sound h _ _
  · exact giveW_sound h _ _
  · exact giveW_sound h _ _
  · exact giveW_sound h _ _
  · exact engineFlags_sound (give_sound h _ _) _
  · exact engineFlags_sound (withSpad_sound h fun hk => normRun_wf (h hk).1 _ _ _ _ _ _) _
  · exact giveW_sound h _ _
  · exact withSpad_sound h fun hk => Memory.put_wf (momentCells _ _) (h hk).1
  · exact h

theorem Core.runJob_sound {c : Core} (h : c.Sound K) (f : Firing) (j : EngJob) : (c.runJob f j).Sound K := by
  unfold Core.runJob
  split
  case h_6 => exact runScan_sound h f j
  case h_9 =>
    split
    · exact h
    · split
      · exact h
      · dsimp only
        split <;> exact h
  case h_11 => exact fun hk => ⟨Memory.clear_wf (h hk).1 _ _, (h hk).2⟩
  case h_12 => exact runStats_sound h _
  case h_7 | h_8 | h_10 => exact h
  all_goals exact runMatrix_sound h _

theorem Core.offFrom_sound {fresh c : Core} (h_fresh : fresh.Sound K) (_ : c.Sound K) : (Core.offFrom fresh c).Sound K := h_fresh

theorem Core.landEvent_sound {c : Core} (h : c.Sound K) : Each (Core.Sound K) c.landEvent := by
  have ha := advance_sound h
  grind [Core.landEvent, Each, Core.Sound, Core.memOk]

theorem Core.freeze_sound {c : Core} (h : c.Sound K) : c.freeze.Sound K := by
  unfold Core.freeze
  dsimp only
  split <;> exact h

theorem Core.decodeTrap_sound {c : Core} (h : c.Sound K) (t : TrapInfo) : (Core.decodeTrap c t).1.Sound K := h

theorem Core.fetchEvent_sound {c : Core} (h : c.Sound K) : Each (fun x => x.1.Sound K) (Core.fetchEvent c) := by
  grind [Core.fetchEvent, Core.decodeTrap_sound, Each, Core.Sound, Core.memOk]

theorem Core.endLanding_sound {c : Core} (h : c.Sound K) : ∀ l, Each (Core.Sound K) (c.endLanding l)
  | [] => each_none
  | f :: fs => by
    unfold Core.endLanding
    split
    · exact each_some (mapFirings_sound (freeEntry_sound (putSpad_sound h _) _) _)
    · exact endLanding_sound h fs

theorem Core.takeChunk_sound {c : Core} (h : c.Sound K) (r : Recv) (f : Fmt) (data : List FlitToken) :
    Each (Core.Sound K) (c.takeChunk r f data) := by
  unfold Core.takeChunk
  split
  · exact each_some h
  · split
    · exact each_none
    · extract_lets e
      have he : e.Sound K := putSpad_sound h _
      have hr : ({ e with recvs := e.recvs.erase r } : Core).Sound K := he
      refine each_some ?_
      split
      · exact he
      · exact doneXid_sound (freeEntry_sound hr _) _ _

theorem Core.startLanding_sound {c : Core} (h : c.Sound K) (l : Landing) : Each (fun x => x.1.Sound K) (Core.startLanding c l) := by
  grind [Core.startLanding, Core.releaseMark_sound, Each]

theorem Core.startOf_sound {c : Core} (h : c.Sound K) : ∀ l, Each (fun x => x.1.Sound K) (c.startOf l)
  | [] => each_none
  | l :: ls => by
    have hnext : Each (fun x => x.1.Sound K) ((c.startOf ls).map fun r => (r.1, l :: r.2.1, r.2.2)) := each_map (startOf_sound h ls)
    unfold Core.startOf
    dsimp only
    split
    · exact hnext
    · split
      · next hs => exact each_some (startLanding_sound h l _ hs)
      · exact hnext

theorem Core.startAmong_sound {c : Core} (h : c.Sound K) : ∀ before l, Each (fun x => x.1.Sound K) (c.startAmong before l)
  | _, [] => each_none
  | before, f :: fs => by
    unfold Core.startAmong
    split
    · split
      · next hs => exact each_some (startOf_sound h f.landings _ hs)
      · exact startAmong_sound h _ fs
    · exact startAmong_sound h _ fs

theorem Core.missFetch_sound {c : Core} (h : c.Sound K) (xid : Word) (code : Byte) : (Core.missFetch c xid code).Sound K := h

theorem Core.pubHead_sound {c : Core} (h : c.Sound K) : Each (fun x => x.2.Sound K) (Core.pubHead c) := by
  grind [Core.pubHead, Core.portDone_sound, Each]

theorem Core.landFill_sound {c : Core} (h : c.Sound K) (r : FullReg) : Each (Core.Sound K) (c.landFill r) := by
  unfold Core.landFill
  split
  · exact each_none
  · next w old fs _ =>
    have hl := land_sound (c := { c with fills := fs, flight := c.flight.filter fun f => f.write.dest ≠ fullDest r }) h w old
    refine each_some ?_
    split <;> exact hl

theorem Core.fetchHead_sound {c : Core} (h : c.Sound K) : Each (fun x => x.2.2.Sound K) (Core.fetchHead c) := by
  grind [Core.fetchHead, Core.portDone_sound, Each]

theorem Core.restoredOver_sound {img c : Core} (h : img.Sound K) (g : Config) (n : Nat) (wcc : Word) :
    (img.restoredOver c g n wcc).Sound K := by
  have hp := putSpad_sound h ((g.tasks.filter fun t => t.members.contains n).flatMap (·.code))
  unfold Core.restoredOver
  dsimp only
  split
  · exact fun hk => ⟨(hp hk).1, fun x hx => Option.some.inj hx ▸ (hp hk).1⟩
  · exact hp

theorem Core.recordBad_sound {c : Core} (h : c.Sound K) (w : Nat) : (Core.recordBad c w).Sound K := h

theorem Core.recordBadReg_sound {c : Core} (h : c.Sound K) (r : FullReg) : (Core.recordBadReg c r).Sound K := by
  unfold Core.recordBadReg
  split <;> exact h

theorem Core.endTest_sound {c : Core} (h : c.Sound K) (stays : Bool) : (Core.endTest c stays).Sound K := by
  grind [Core.endTest, Core.Sound, Core.memOk]

theorem Core.beginTest_sound {c : Core} (h : c.Sound K) : (Core.beginTest c).Sound K := by
  grind [Core.beginTest, Core.Sound, Core.memOk]

theorem Core.shot_sound {c : Core} (h : c.Sound K) (ns : BitVec 8) (lo hi : Nat) : (Core.shot c ns lo hi).Sound K := by
  unfold Core.shot
  split <;> exact h

theorem Core.runCopy_sound {c : Core} (h : c.Sound K) : ∀ op, (c.runCopy op).Sound K
  | .cpy .. => fun hk => ⟨Memory.put_wf _ (h hk).1, (h hk).2⟩
  | .cpy2d .. => fun hk => ⟨Memory.put_wf _ (h hk).1, (h hk).2⟩
  | .fill .. => fun hk => ⟨Memory.put_wf _ (h hk).1, (h hk).2⟩
  | .tld .. => h
  | .tst .. => h

theorem Core.freeReads_sound {c : Core} (h : c.Sound K) : ∀ r, (c.freeReads r).Sound K
  | none => h
  | some _ => h

theorem Core.storeLeaves_sound {c : Core} (h : c.Sound K) (r : MemReq) : (Core.storeLeaves c r).Sound K := by
  grind [Core.storeLeaves, Core.freeReads_sound]

theorem Core.illegalEvent_sound {c : Core} (h : c.Sound K) (slot : Fin 8) : Each (fun x => x.1.Sound K) (Core.illegalEvent c slot) := by
  grind [Core.illegalEvent, Core.decodeTrap_sound, Each]

theorem Core.walked_sound {c : Core} (h : c.Sound K) (w : Walk) (page : Option Handle) : (c.walked w page).Sound K := by
  unfold Core.walked
  split <;> exact h

theorem Core.tick_sound {c : Core} (h : c.Sound K) (timer : Bool) : (Core.tick c timer).Sound K := h

end Sys2Proof.Machine
end

section
/-! What each operation of the module and each of its events does with the memories: it keeps their form (log 2). One lemma per
definition,
    in the order in which they use each other. -/

namespace Sys2Proof.Machine
variable {M K : Prop}
open State
theorem each_of {α : Type} {P : α → Prop} {o : Option α} {x : α} (h : Each P o) (e : o = some x) : P x := h x e

/-- A list that keeps a value per key, with another value at one of them. -/
theorem assocSet_all {α : Type} {P : α → Prop} {l : List (Nat × α)} {n : Nat} {c : α} (h : ∀ x ∈ l, P x.2) (hc : P c) :
    ∀ x ∈ assocSet l n c, P x.2 := by
  induction l with
  | nil => simpa [assocSet] using hc
  | cons a l ih =>
    simp only [List.forall_mem_cons] at h
    unfold assocSet
    split
    · exact List.forall_mem_cons.mpr ⟨hc, h.2⟩
    · split
      · exact List.forall_mem_cons.mpr ⟨hc, List.forall_mem_cons.mpr h⟩
      · exact List.forall_mem_cons.mpr ⟨h.1, ih h.2⟩

/-- Every core of a list is sound. -/
def CoresSound (K : Prop) (l : List (Nat × Core)) : Prop := ∀ x ∈ l, x.2.Sound K

theorem State.cores_sound {s : State} (h : s.Sound M K) : CoresSound K s.cores := fun x hx hk => (h.2 hk).1 x hx

theorem withCores_sound {s : State} (h : s.Sound M K) {l : List (Nat × Core)} (hl : CoresSound K l) :
    ({ s with cores := l } : State).Sound M K := ⟨h.1, fun hk => ⟨fun x hx => hl x hx hk, (h.2 hk).2⟩⟩

theorem CoresSound.map {l : List (Nat × Core)} (h : CoresSound K l) {g : Nat × Core → Nat × Core}
    (hg : ∀ x, x.2.Sound K → (g x).2.Sound K) : CoresSound K (l.map g) := fun x hx => by
  obtain ⟨y, hy, rfl⟩ := List.mem_map.mp hx
  exact hg y (h y hy)

theorem assoc_sound {l : List (Nat × Core)} (h : CoresSound K l) (n : Nat) : Each (Core.Sound K) (assoc l n) := by
  induction l with
  | nil => exact each_none
  | cons a l ih =>
    simp only [CoresSound, List.forall_mem_cons] at h
    unfold assoc
    split
    · exact each_some h.1
    · exact ih h.2

theorem State.ctx_sound {s : State} (h : s.Sound M K) (k : Fin 8) : s.ctxs[k].Sound K := fun i hi x hx hk => (h.2 hk).2 k i hi x hx

theorem sound_mk {t : State} (hm : M → t.memOk) (hc : CoresSound K t.cores) (hx : ∀ k : Fin 8, t.ctxs[k].Sound K) : t.Sound M K :=
  ⟨hm, fun hk => ⟨fun x hx => hc x hx hk, fun k i hi x hxi => hx k i hi x hxi hk⟩⟩

theorem withCtx_sound {s : State} (h : s.Sound M K) {k : Fin 8} {c : Ctx} (hc : c.Sound K) :
    ({ s with ctxs := s.ctxs.set k c } : State).Sound M K := by
  have hc' : CoresSound K s.cores := State.cores_sound h
  refine sound_mk h.1 hc' fun j => ?_
  have hj := State.ctx_sound h j
  by_cases e : k = j
  · subst e
    simpa using hc
  · have hne : (k : Nat) ≠ j := fun he => e (Fin.ext he)
    simpa [Vector.getElem_set, hne] using hj

theorem withPmem_sound {s : State} (h : s.Sound M K) {m : Memory} (hm : M → m.wf = true) :
    ({ s with pmem := m } : State).Sound M K := ⟨fun hM => ⟨hm hM, (h.1 hM).2⟩, h.2⟩

theorem withSmem_sound {s : State} (h : s.Sound M K) {m : Memory} (hm : M → m.wf = true) :
    ({ s with smem := m } : State).Sound M K := ⟨fun hM => ⟨(h.1 hM).1, hm hM⟩, h.2⟩

theorem State.view_wf {s : State} (h : s.pmem.wf = true) (lines : List Nat) : (s.view lines).wf = true := by
  refine foldl_sound (P := fun m : Memory => m.wf = true) h fun m l hm => ?_
  split
  · exact hm
  · exact Memory.put_wf _ hm

theorem mapCtxs_sound {s : State} (h : s.Sound M K) {f : Ctx → Ctx} (hf : ∀ k, k.Sound K → (f k).Sound K) :
    ({ s with ctxs := s.ctxs.map f } : State).Sound M K := by
  have hc : CoresSound K s.cores := State.cores_sound h
  refine sound_mk h.1 hc fun k => ?_
  have hk := hf _ (State.ctx_sound h k)
  simpa using hk

/-- A fold keeps what each of its steps over a member keeps. -/
theorem foldl_mem_sound {α β : Type} {P : α → Prop} {g : α → β → α} {l : List β} {x : α} (h : P x)
    (hg : ∀ y b, b ∈ l → P y → P (g y b)) : P (l.foldl g x) := by
  induction l generalizing x with
  | nil => exact h
  | cons b l ih => exact ih (hg x b List.mem_cons_self h) fun y c hc => hg y c (List.mem_cons_of_mem b hc)

theorem sound_ite {c : Prop} [Decidable c] {s t : State} (hs : s.Sound M K) (ht : t.Sound M K) : (if c then s else t).Sound M K := by
  split
  · exact hs
  · exact ht

theorem each_ite {α : Type} {P : α → Prop} {c : Prop} [Decidable c] {o p : Option α} (ho : Each P o) (hp : Each P p) :
    Each P (if c then o else p) := by
  split
  · exact ho
  · exact hp
theorem State.flow_sound {s : State} (h : s.Sound M K) (q : Place) (m : Msg) (gone x : Nat) : (State.flow s q m gone x).Sound M K := by
  unfold State.flow
  split <;> exact h

theorem State.setRouter_sound {s : State} (h : s.Sound M K) (n : Nat) (r : Router) : (State.setRouter s n r).Sound M K := h

theorem State.onRouter_sound {s : State} (h : s.Sound M K) (n : Nat) (f : Router → Router) : (State.onRouter s n f).Sound M K := h

theorem State.moved_sound {s : State} (h : s.Sound M K) (n : Nat) : (State.moved s n).Sound M K := h

theorem State.sourceIn_sound {s : State} (h : s.Sound M K) (n : Nat) (p : Fin 6) (cls : Fin 6) (lane : Fin 2) :
    Each (State.Sound M K) (State.sourceIn s n p cls lane) := by
  grind [State.sourceIn, State.flow_sound, State.moved_sound, Each, Option.bind_eq_some_iff, State.Sound, State.memOk, State.scratchOk]

theorem State.transit_sound {s : State} (h : s.Sound M K) (n : Nat) (p : Fin 6) (cls : Fin 6) (lane : Fin 2) :
    Each (State.Sound M K) (State.transit s n p cls lane) := by
  unfold State.transit
  refine each_bind fun f _ => ?_
  split
  · refine each_bind fun q _ => ?_
    extract_lets x t
    have ht : t.Sound M K := h
    split
    · exact each_none
    · exact each_some (moved_sound (flow_sound ht _ _ _ _) _)
  · exact each_none

theorem State.channel_sound {s : State} (h_s : s.Sound M K) (n : Nat) (ch : Chan) (cls : Fin 6) (queued enters : Option State)
    (h_queued : Each (State.Sound M K) queued) (h_enters : Each (State.Sound M K) enters) :
    Each (State.Sound M K) (State.channel s n ch cls queued enters) := by
  grind [State.channel, State.sourceIn_sound, State.transit_sound]

theorem State.setCore_sound {s : State} {c : Core} (h_s : s.Sound M K) (h_c : c.Sound K) (n : Nat) : (State.setCore s n c).Sound M K :=
  withCores_sound h_s (assocSet_all (State.cores_sound h_s) h_c)

theorem State.inject_sound {s : State} {d : Core} (h_s : s.Sound M K) (h_d : d.Sound K) (n : Nat) (m : Msg) :
    Each (fun x => x.1.Sound M K) (State.inject s n m d) := by
  grind [State.inject, State.flow_sound, State.setCore_sound, Each]

theorem State.onCtx_sound {s : State} (h : s.Sound M K) (k : Fin 8) (f : Ctx → Ctx) (hf : ∀ y, y.Sound K → (f y).Sound K) :
    (State.onCtx s k f).Sound M K := withCtx_sound h (hf _ (ctx_sound h k))

theorem State.beginRestore_sound {s : State} (h : s.Sound M K) (part : Fin 16) : (State.beginRestore s part).Sound M K := by
  grind [State.beginRestore, State.onCtx_sound, Ctx.Sound]

theorem Ctx.reset_sound : (Ctx.reset).Sound K := nofun

theorem State.reset_sound : (State.reset).Sound M K := by
  obtain ⟨hm, hs, _⟩ := resetMemory
  exact ⟨fun _ => hm, fun _ => hs⟩

theorem State.core_sound {s : State} (h : s.Sound M K) (n : Nat) : Each (Core.Sound K) (State.core s n) := assoc_sound (cores_sound h) n

theorem State.post_sound {s : State} (h : s.Sound M K) (p : Place) (m : Msg) : (State.post s p m).Sound M K := h

theorem State.atEdge_sound {s : State} (_ : s.Sound M K) (n : Nat) (f : Flying) (r : State × Nat × Bool) (h_r : r.1.Sound M K) :
    (State.atEdge s n f r).Sound M K := by
  grind [State.atEdge, State.post_sound]

theorem State.send_sound {s : State} (h : s.Sound M K) (n : Nat) (m : Msg) (gone x : Nat) (o : Fin 6) :
    (State.send s n m gone x o).Sound M K := by
  grind [State.send, State.flow_sound, State.onRouter_sound]

theorem State.sendAll_sound {s : State} (h : s.Sound M K) (n : Nat) (m : Msg) (gone x : Nat) (outs : List (Fin 6)) :
    (State.sendAll s n m gone x outs).Sound M K := foldl_sound h fun _ o ht => send_sound ht n m gone x o

theorem State.pour_sound {s : State} (h : s.Sound M K) (n : Nat) (f : Flying) (outs : List (Fin 6)) :
    Each (fun x => x.1.Sound M K) (State.pour s n f outs) := by
  grind [State.pour, State.sendAll_sound, Each, State.Sound, State.memOk, State.scratchOk]

theorem State.setPeer_sound {s : State} (h : s.Sound M K) (l : PeerLink) : (State.setPeer s l).Sound M K := h

theorem State.toPeer_sound {s : State} (h : s.Sound M K) (peer : Fin 4096) (m : Msg) (behind x : Nat) :
    (State.toPeer s peer m behind x).Sound M K := h

theorem State.goOn_sound {s : State} (h : s.Sound M K) (n : Nat) (f : Flying) (outs : List (Fin 6)) :
    Each (fun x => x.1.Sound M K) (State.goOn s n f outs) := by
  grind [State.goOn, State.moved_sound, State.pour_sound, State.toPeer_sound, Each, Option.map_eq_some_iff]

theorem State.byCoords_sound {s : State} (h : s.Sound M K) (n : Nat) (p : Fin 6) (f : Flying) :
    Each (State.Sound M K) (State.byCoords s n p f) := by
  grind [State.byCoords, State.goOn_sound, State.post_sound, Each, Option.bind_eq_some_iff, Option.map_eq_some_iff]

theorem State.forward_sound {s : State} (h : s.Sound M K) (n : Nat) (p : Fin 6) (f : Flying) (k : Pair) (to_ : Requester)
    (target : Option Nat) : Each (State.Sound M K) (State.forward s n p f k to_ target) := by
  unfold State.forward
  split
  · exact byCoords_sound h n p f
  · split
    · exact each_none
    · refine each_map fun r hr => ?_
      have hgo : r.1.Sound M K := goOn_sound h n f _ r hr
      split
      · exact atEdge_sound h n f r hgo
      · exact hgo
  · refine each_bind fun r _ => ?_
    extract_lets _ g
    have ht : ({ s with msgs := swapMsg f (some g) s.msgs } : State).Sound M K := h
    exact byCoords_sound ht n p g

theorem State.emit_sound {s : State} (h : s.Sound M K) (n : Nat) (p : Fin 6) (m : Msg) : (State.emit s n p m).Sound M K := h

theorem State.deliver_sound {s : State} (h : s.Sound M K) (from_ : Nat) (m : Msg) : (State.deliver s from_ m).Sound M K := h

theorem State.abortHerd_sound {s : State} (h : s.Sound M K) (g : GateId) (tag : BitVec 16) (but : Option Nat) :
    (State.abortHerd s g tag but).Sound M K :=
  withCores_sound h ((cores_sound h).map fun _ hx => Core.abort_sound hx _)

theorem State.raise_sound {s : State} (h : s.Sound M K) (w0 : Word) (name : BitVec 64) (tag : BitVec 16) (detail : Nat) :
    (State.raise s w0 name tag detail).Sound M K := h

theorem State.raisePart_sound {s : State} (h : s.Sound M K) (code : Nat) (part : Fin 16) (detail : Nat) :
    (State.raisePart s code part detail).Sound M K := h

theorem State.finishGraph_sound {s : State} (h : s.Sound M K) (ctx : Fin 8) (graph : Nat) : (State.finishGraph s ctx graph).Sound M K := by
  unfold State.finishGraph
  extract_lets k
  have hk : k.Sound K := ctx_sound h ctx
  split
  · split
    · refine raisePart_sound (withCtx_sound (k := ctx) h ?_) _ _ _
      exact hk
    · exact h
  · exact h

theorem State.onGate_sound {s : State} (h : s.Sound M K) (g : GateId) (f : Gate → Gate) : (State.onGate s g f).Sound M K := by
  have hk : s.ctxs[g.ctx].Sound K := ctx_sound h g.ctx
  exact withCtx_sound h hk

theorem State.closeHerd_sound {s : State} (h : s.Sound M K) (f : Firing) : (State.closeHerd s f).Sound M K := by
  grind [State.closeHerd, State.finishGraph_sound, State.onGate_sound]

theorem State.dropToken_sound {s : State} (h : s.Sound M K) (n : Nat) (ns : BitVec 8) : (State.dropToken s n ns).Sound M K := h

theorem State.endCore_sound {s : State} (h : s.Sound M K) (n : Nat) : (State.endCore s n).Sound M K := by
  unfold State.endCore
  split
  · exact h
  · next c hc =>
    split
    · exact h
    · next f _ =>
      extract_lets gone t
      have hr : ({ s with reqs := s.reqs.filter fun r => !r.pending n } : State).Sound M K := h
      have ht : t.Sound M K := dropToken_sound (setCore_sound hr (Core.endFiring_sound (core_sound h n c hc) gone) n) n f.ns
      split
      · exact closeHerd_sound (abortHerd_sound ht _ _ _) f
      · exact ht

theorem State.leaveHold_sound {s : State} (h : s.Sound M K) (n : Nat) (f : Firing) : (State.leaveHold s n f).Sound M K := by
  grind [State.leaveHold, State.onGate_sound]

theorem State.resumeCore_sound {s : State} (h : s.Sound M K) (n : Nat) : (State.resumeCore s n).Sound M K := by
  unfold State.resumeCore
  split
  · exact h
  · next c hc =>
    split
    · exact h
    · next f _ =>
      extract_lets _ d t
      have hd : d.Sound K := Core.refetch_sound (Core.issueLandings_sound (Core.resume_sound (core_sound h n c hc)))
      have ht : t.Sound M K := leaveHold_sound (setCore_sound h hd n) n f
      exact ht

theorem State.ageOf_sound {s : State} (h : s.Sound M K) (n : Nat) : (State.ageOf s n).Sound M K := h

theorem State.newRequest_sound {s : State} {c : Core} (h_s : s.Sound M K) (h_c : c.Sound K) (n : Nat) (kind : ReqKind)
    (va pa size : Nat) (via : Handle) (chained : Bool) : (State.newRequest s n c kind va pa size via chained).Sound M K := by
  unfold State.newRequest
  extract_lets part r
  exact withCores_sound (s := { s with reqs := s.reqs ++ [r], nextReq := s.nextReq + 1 }) h_s (assocSet_all (cores_sound h_s) h_c)

theorem State.postControl_sound {s : State} (h : s.Sound M K) (n : Nat) (g : GateId) (c : Control) :
    (State.postControl s n g c).Sound M K := h

theorem State.onIng_sound {s : State} (h : s.Sound M K) (n : Fin 16) (f : Ingress → Ingress) : (State.onIng s n f).Sound M K := h

theorem State.ingErr_sound {s : State} (h : s.Sound M K) (n : Fin 16) (code : Byte) : (State.ingErr s n code).Sound M K := h

theorem State.consume_sound {s : State} (h : s.Sound M K) (n : Fin 16) (k : Nat) : (State.consume s n k).Sound M K := h

theorem State.writeReport_sound {s : State} (h : s.Sound M K) (n : Fin 16) (b : List Byte) : (State.writeReport s n b).Sound M K :=
  consume_sound (withSmem_sound h fun hm => Memory.put_wf _ (h.1 hm).2) n 1

theorem State.refuseWith_sound {s : State} (h : s.Sound M K) (n : Fin 16) (part : Fin 16) (subst maphit code index : Nat) :
    (State.refuseWith s n part subst maphit code index).Sound M K := by
  grind [State.refuseWith, State.ingErr_sound, State.onIng_sound, State.raisePart_sound, State.writeReport_sound]

theorem State.refuse_sound {s : State} (h : s.Sound M K) (n : Fin 16) (part : Fin 16) (code index : Nat) :
    (State.refuse s n part code index).Sound M K := by
  grind [State.refuse, State.refuseWith_sound]

theorem State.onPart_sound {s : State} (h : s.Sound M K) (p : Fin 16) (f : Part → Part) : (State.onPart s p f).Sound M K := h

theorem State.setSlice_sound {s : State} (h : s.Sound M K) (k : Nat) (x : Slice) : (State.setSlice s k x).Sound M K := h

theorem State.install_sound {s : State} (h : s.Sound M K) (k line way : Nat) : (State.install s k line way).Sound M K :=
  setSlice_sound (withPmem_sound h fun hm => view_wf (h.1 hm).1 _) _ _

theorem State.evict_sound {s : State} (h : s.Sound M K) (k : Nat) (l : SLine) (back : Bool) : (State.evict s k l back).Sound M K := by
  unfold State.evict
  extract_lets x t
  have ht : t.Sound M K := setSlice_sound h _ _
  split
  · exact ht
  · split
    · exact withPmem_sound ht fun hm => Memory.put_wf _ (h.1 hm).1
    · exact ht

theorem State.beginFill_sound {s : State} (h : s.Sound M K) (k line way : Nat) : (State.beginFill s k line way).Sound M K := by
  grind [State.beginFill, State.evict_sound, State.setSlice_sound]

theorem State.bring_sound {s : State} (h : s.Sound M K) (part : Fin 16) (line : Nat) :
    Each (State.Sound M K) (State.bring s part line) := by
  grind [State.bring, State.beginFill_sound, State.install_sound, State.setSlice_sound, Each, Option.map_eq_some_iff]

theorem State.bringAll_sound : ∀ {s : State} (_ : s.Sound M K) (part : Fin 16) (l : List Nat), Each (State.Sound M K)
    (State.bringAll s part l)
  | _, h, _, [] => each_some h
  | _, h, part, l :: ls => each_bind fun t ht => bringAll_sound (bring_sound h part l t ht) part ls

theorem State.putMem_sound {s : State} (h : s.Sound M K) (cells : List (Nat × Byte)) : (State.putMem s cells).Sound M K :=
  withPmem_sound (s := { s with sealed := _, slices := _, eccBad := _ }) h fun hm => Memory.put_wf _ (view_wf (h.1 hm).1 _)

theorem State.raiseLts_sound {s : State} (h : s.Sound M K) (a : Agent) (t : Nat) : (State.raiseLts s a t).Sound M K := by
  unfold State.raiseLts
  split
  · next n =>
    split
    · next c hc =>
      have hd : ({ c with lts := max c.lts t } : Core).Sound K := core_sound h n c hc
      exact setCore_sound h hd n
    · exact h
  · exact h

theorem State.stampAll_sound : ∀ {s : State} (_ : s.Sound M K) (part : Fin 16) (ts : Nat) (write : Bool) (l : List Nat),
    (State.stampAll s part ts write l).Sound M K
  | _, h, _, _, _, [] => h
  | _, h, part, ts, write, _ :: ls => stampAll_sound (setSlice_sound h _ _) part ts write ls

theorem State.writeEvent_sound {s : State} (h : s.Sound M K) (a : Agent) (part : Fin 16) (cells : List (Nat × Byte)) :
    Each (fun x => x.1.Sound M K) (State.writeEvent s a part cells) := by
  unfold State.writeEvent
  extract_lets lines
  split
  · exact each_none
  · exact each_map fun t ht => raiseLts_sound (stampAll_sound (putMem_sound (bringAll_sound h part lines t ht) cells) _ _ _ _) _ _

theorem State.storeEntry_sound {s : State} (h : s.Sound M K) (part : Fin 16) (a e : Nat) :
    Each (State.Sound M K) (State.storeEntry s part a e) := by
  grind [State.storeEntry, State.writeEvent_sound, Each, Option.map_eq_some_iff]

theorem State.zeroFill_sound {s : State} (h : s.Sound M K) (part : Fin 16) (base n : Nat) : (State.zeroFill s part base n).Sound M K := by
  unfold State.zeroFill
  extract_lets mine ts t owned clean
  have ht : t.Sound M K := raiseLts_sound h _ _
  exact ⟨fun hm => ⟨Memory.clear_wf (ht.1 hm).1 _ _, (ht.1 hm).2⟩, ht.2⟩

theorem State.freshPage_sound (part : Fin 16) (va : Nat) : ∀ (fuel : Nat) {s : State} (_ : s.Sound M K) (level a : Nat),
    Each (Each (State.Sound M K)) (State.freshPage s part va fuel level a)
  | 0, _, _, _, _ => each_some each_none
  | fuel + 1, s, h, level, a => by
    have hentry : ∀ q base n e, Each (State.Sound M K) (((s.onPart part fun _ => q).zeroFill part base n).storeEntry part a e) :=
      fun q base n e => storeEntry_sound (zeroFill_sound (onPart_sound h part _) _ _ _) _ _ _
    unfold State.freshPage
    split
    · exact each_some each_none
    · split
      · dsimp only
        split
        · exact each_some each_none
        · exact each_map fun t ht => each_some (hentry _ _ _ _ t ht)
      · dsimp only
        split
        · exact each_some each_none
        · exact each_bind fun t ht => freshPage_sound part va fuel (hentry _ _ _ _ t ht) _ _

theorem State.mapPages_sound (part : Fin 16) (root : Nat) : ∀ {s : State} (_ : s.Sound M K) (l : List Nat),
    Each (Each (State.Sound M K)) (State.mapPages s part root l)
  | _, h, [] => each_some (each_some h)
  | s, h, va :: l => by
    unfold State.mapPages
    split
    · next a level _ =>
      refine each_bind fun r hr => ?_
      split
      · next t => exact mapPages_sound part root (freshPage_sound part va 3 h level a _ hr t rfl) l
      · exact each_some each_none
    · exact mapPages_sound part root h l

theorem State.writeGlobals_sound {s : State} (h : s.Sound M K) (part : Fin 16) (root : Nat) (g : Config) :
    Each (State.Sound M K) (State.writeGlobals s part root g) := by
  grind [State.writeGlobals, State.writeEvent_sound, Each, Option.map_eq_some_iff]

theorem State.buildTables_sound {s : State} (h : s.Sound M K) (part : Fin 16) (p : Part) (ns : BitVec 8) (g : Config) (taken : List Nat) :
    Each (Each (State.Sound M K)) (State.buildTables s part p ns g taken) := by
  unfold State.buildTables
  split
  · exact each_some each_none
  · extract_lets root _ t
    have hz : (s.zeroFill part root 0x1000000).Sound M K := zeroFill_sound h _ _ _
    have ht : t.Sound M K := hz
    refine each_bind fun r hr => ?_
    split
    · next u => exact each_map fun v hv => each_some (writeGlobals_sound (mapPages_sound part root ht _ _ hr u rfl) part root g v hv)
    · exact each_some each_none

theorem State.freshCore_sound (s : State) (n : Nat) : (State.freshCore s n).Sound K := Core.reset_sound

theorem State.firstImage_sound (s : State) (g : Config) : (State.firstImage s g).Sound K := fun x hx => by
  obtain ⟨n, _, rfl⟩ := List.mem_map.mp hx
  exact Core.install_sound (freshCore_sound s n) g n

theorem State.opened_sound {s : State} (h : s.Sound M K) (n : Fin 16) (k : Fin 8) (b : List Byte) : (State.opened s n k b).Sound M K := by
  grind [State.opened, State.onIng_sound, State.writeReport_sound]

theorem State.fromPort_sound {s : State} (h : s.Sound M K) (n : Fin 16) (m : Msg) : (State.fromPort s n m).Sound M K := h

theorem State.writePlane_sound {s : State} (h : s.Sound M K) (n : Fin 16) (plane : Bool) (l : List Nat) :
    (State.writePlane s n plane l).Sound M K := foldl_sound h fun _ _ ht => fromPort_sound ht n _

theorem State.installCfg_sound {s : State} (h : s.Sound M K) (n : Fin 16) (a : OpenArgs) (p : Part) (g : Config) (frames : List Nat)
    (keep : Option Config × List Gate) (rep : List Byte) : (State.installCfg s n a p g frames keep rep).Sound M K := by
  unfold State.installCfg
  extract_lets _ base t new _ t'
  split
  · have ht : t.Sound M K := onCtx_sound h a.ctx _ fun _ _ => each_some (firstImage_sound s g)
    have hn : ({ t with ticket := s.ticket + 1 } : State).Sound M K := ht
    exact opened_sound hn n a.ctx rep
  · have ht : t'.Sound M K := by
      refine onCtx_sound (onPart_sound h a.part _) a.ctx _ fun _ _ => ?_
      exact each_none
    exact onIng_sound (writePlane_sound ht n new _) n _

theorem State.keepPlacement_sound {s : State} (h : s.Sound M K) (key : BitVec 128 × Nat × BitVec 32 × Bool) (pl : Placement) :
    (State.keepPlacement s key pl).Sound M K := h

theorem State.takeIn_sound {s : State} (h : s.Sound M K) (n : Fin 16) (a : OpenArgs) (p : Part) (b : Binary)
    (m : Config × Placement × Bool) (keep : Option Config × List Gate) : Each (State.Sound M K) (State.takeIn s n a p b m keep) := by
  unfold State.takeIn
  extract_lets g key t no
  have ht : t.Sound M K := keepPlacement_sound h key _
  have hno : ∀ code index, Each (State.Sound M K) (no code index) := fun _ _ => each_some (refuseWith_sound ht _ _ _ _ _ _)
  split
  · exact hno _ _
  split
  · exact hno _ _
  split
  · exact hno _ _
  split
  · exact hno _ _
  split
  · exact hno _ _
  split
  · exact hno _ _
  · next frames _ =>
    refine each_bind fun r hr => ?_
    split
    · exact hno _ _
    · next v =>
      refine each_bind fun q _ => ?_
      extract_lets u
      have hu : u.Sound M K := installCfg_sound (buildTables_sound ht a.part p a.ns g frames _ hr v rfl) _ _ _ _ _ _ _
      exact each_some hu

theorem State.load_sound {s : State} (h : s.Sound M K) (n : Fin 16) (a : OpenArgs) (keep : Option Config × List Gate) :
    Each (State.Sound M K) (State.load s n a keep) := by
  unfold State.load
  extract_lets no
  have hno : ∀ code index, Each (State.Sound M K) (no code index) := fun _ _ => each_some (refuse_sound h _ _ _ _)
  split
  · exact hno _ _
  · extract_lets g
    split
    · exact hno _ _
    split
    · exact hno _ _
    split
    · exact hno _ _
    split
    · exact hno _ _
    split
    · exact hno _ _
    split
    · exact hno _ _
    split
    · exact hno _ _
    split
    · exact hno _ _
    · split
      · exact hno _ _
      · split
        · exact hno _ _
        · exact takeIn_sound h _ _ _ _ _ _

theorem State.dropYoung_sound {s : State} (h : s.Sound M K) (n : Nat) : (State.dropYoung s n).Sound M K := h

theorem State.trapped_sound {s : State} (h : s.Sound M K) (n : Nat) (t : TrapInfo) : (State.trapped s n t).Sound M K := by
  unfold State.trapped
  extract_lets s'
  have hs' : s'.Sound M K := dropYoung_sound h n
  split
  · exact hs'
  · extract_lets u
    have hu : u.Sound M K := by
      unfold u
      split
      · exact hs'
      · exact hs'
    split
    · split
      · exact onGate_sound hu _ _
      · exact hu
    · exact hu

theorem State.apply_sound {s : State} (h : s.Sound M K) (n : Nat) (o : Out) : (State.apply s n o).Sound M K := by
  unfold State.apply
  split
  · split
    · next c hc => exact newRequest_sound h (core_sound h n c hc) _ _ _ _ _ _ _
    · exact h
  · exact h
  · exact ageOf_sound h n
  · exact trapped_sound h n _
  · split
    · split
      · split
        · exact h
        · exact postControl_sound h _ _ _
      · exact h
    · exact h

theorem State.rewalk_sound {s : State} (h : s.Sound M K) (n : Nat) : (State.rewalk s n).Sound M K := by
  unfold State.rewalk
  split
  · exact h
  · next c hc =>
    split
    · exact h
    · exact ageOf_sound (apply_sound (setCore_sound h (Core.emptyHandle_sound (core_sound h n c hc) _) n) n _) n

theorem State.answer_sound {s : State} (h : s.Sound M K) (n : Nat) (r : Reply) : (State.answer s n r).Sound M K := by
  cases r with
  | resume => exact resumeCore_sound h n
  | retranslate => exact resumeCore_sound (rewalk_sound h n) n
  | end_ => exact endCore_sound h n

theorem State.image_sound {s : State} (h : s.Sound M K) (part : Fin 16) (p : Part) : (State.image s part p).Sound K := fun x hx => by
  obtain ⟨y, hy, rfl⟩ := List.mem_map.mp hx
  exact Core.saved_sound (cores_sound h y (List.mem_filter.mp hy).1)

theorem Ctx.keepReply_sound {k : Ctx} (h : k.Sound K) (n : Nat) (r : Reply) : Each (Ctx.Sound K) (Ctx.keepReply k n r) := by
  unfold Ctx.keepReply
  split
  · next i hi =>
    split
    · next c hc =>
      have hcs : CoresSound K i.cores := h i hi
      split
      · refine each_some (each_some (assocSet_all hcs ?_))
        exact assoc_sound hcs n c hc
      · exact each_none
    · exact each_none
  · exact each_none

theorem State.keepIn_sound {s : State} (h : s.Sound M K) (n : Nat) (r : Reply) : ∀ l, Each (State.Sound M K) (State.keepIn s n r l)
  | [] => each_none
  | k :: ks => by
    unfold State.keepIn
    split
    · next c hc => exact each_some (dropToken_sound (withCtx_sound h (Ctx.keepReply_sound (ctx_sound h k) n r c hc)) n _)
    · exact keepIn_sound h n r ks

theorem State.reply_sound {s : State} (h : s.Sound M K) (n : Nat) (r : Reply) : Each (State.Sound M K) (State.reply s n r) := by
  unfold State.reply
  split
  · next c hc =>
    have hr : ({ c with reply := some r.code } : Core).Sound K := core_sound h n c hc
    split
    · split
      · exact each_some (dropToken_sound (setCore_sound h hr n) n _)
      · split
        · exact each_some (answer_sound h n r)
        · exact each_none
    · exact keepIn_sound h n r _
  · exact keepIn_sound h n r _

theorem State.serve_sound {s : State} (h : s.Sound M K) (n : Nat) (p : Pair) (t : Tile) (to_ : Requester) :
    (State.serve s n p t to_).Sound M K := by
  grind [State.serve, State.deliver_sound, State.moved_sound, State.onRouter_sound]

theorem State.request_sound {s : State} (h : s.Sound M K) (n : Nat) (p : Fin 6) (f : Flying) (k : Pair) (to_ : Requester)
    (target : Option Nat) :
    Each (State.Sound M K) (State.request s n p f k to_ target) := by
  grind [State.request, State.forward_sound, State.moved_sound, State.onRouter_sound, State.serve_sound, Each, State.Sound, State.memOk,
      State.scratchOk]

theorem State.tidy_sound {s : State} (h : s.Sound M K) : (State.tidy s).Sound M K := h

theorem State.unreserve_sound {s : State} (h : s.Sound M K) (id : Nat) : (State.unreserve s id).Sound M K := h

theorem State.vacant_sound (s : State) (n : Nat) (c : Core) : (State.vacant s n c).Sound K := fun _ =>
  ⟨rfl, fun x hx => by
    have hx' : (if c.testing then some (([] : Memory), ([] : List (Nat × Lane))) else none) = some x := hx
    split at hx'
    · rw [← Option.some.inj hx']
      rfl
    · exact absurd hx' (by simp)⟩

theorem State.clearPart_sound {s : State} (h : s.Sound M K) (part : Fin 16) : (State.clearPart s part).Sound M K := by
  unfold State.clearPart
  split
  · exact h
  · extract_lets gone t
    have ht : t.Sound M K := foldl_sound h fun _ id hx => unreserve_sound hx id
    refine tidy_sound (withCores_sound (s := { t with .. }) ht ((cores_sound ht).map fun x hx => ?_))
    split
    · exact vacant_sound s x.1 x.2
    · exact hx

theorem State.onPreempt_sound {s : State} (h : s.Sound M K) (p : Fin 16) (f : Preempt → Preempt) : (State.onPreempt s p f).Sound M K := h

theorem State.saveDone_sound {s : State} (h : s.Sound M K) (part : Fin 16) : Each (State.Sound M K) (State.saveDone s part) := by
  unfold State.saveDone
  split
  · next k p _ _ =>
    split
    · extract_lets i t u
      have ht : t.Sound M K := onCtx_sound (clearPart_sound h part) k _ fun _ _ => each_some (image_sound h part p)
      have hu : u.Sound M K := withCores_sound ht ((cores_sound ht).map fun x hx => by split <;> exact hx)
      exact each_some (beginRestore_sound (onPreempt_sound hu part _) part)
    · exact each_none
  · exact each_none

theorem Ctx.release_sound {k : Ctx} (h : k.Sound K) (n : Nat) : (Ctx.release k n).Sound K := by
  grind [Ctx.release, Option.map_eq_some_iff, Core.Sound, Core.memOk, Ctx.Sound, Image.Sound]

theorem State.applyAll_sound : ∀ {s : State} (_ : s.Sound M K) (n : Nat) (l : List Out), (State.applyAll s n l).Sound M K
  | _, h, _, [] => h
  | _, h, n, o :: os => applyAll_sound (apply_sound h n o) n os

theorem State.onCore_sound {s : State} (h : s.Sound M K) (n : Nat) (f : Env → Core → Core × List Out)
    (hf : ∀ e c, c.Sound K → (f e c).1.Sound K) : (State.onCore s n f).Sound M K := by
  unfold State.onCore
  split
  · exact h
  · next c hc => exact applyAll_sound (setCore_sound h (hf _ c (core_sound h n c hc)) n) n _

theorem State.memHop_sound {s : State} (h : s.Sound M K) (tok : MemTok) : Each (fun x => x.1.Sound M K) (State.memHop s tok) := by
  unfold State.memHop
  refine each_bind fun f _ => ?_
  split
  · split
    · exact each_none
    · split
      · split
        · exact each_map fun r hr => moved_sound (pour_sound h _ f [] r hr) _
        · exact each_map fun r hr => goOn_sound h _ f _ r hr
      · exact each_none
  · exact each_map fun t ht => sourceIn_sound h _ _ _ _ t ht
  · refine each_map fun t ht => ?_
    obtain ⟨x, _, hx⟩ := Option.bind_eq_some_iff.mp ht
    exact transit_sound h _ _ _ _ t hx
  · exact each_none

theorem State.onReq_sound {s : State} (h : s.Sound M K) (id : Nat) (f : MemReq → MemReq) : (State.onReq s id f).Sound M K := h

theorem evAcceptanceToken_sound {s : State} (h : s.Sound M K) (req : Nat) : Each (State.Sound M K) (evAcceptanceToken req s) := by
  grind [evAcceptanceToken, State.memHop_sound, State.onReq_sound, Each, Option.map_eq_some_iff]

theorem State.agentReply_sound {s : State} (h : s.Sound M K) (a : Fin 24) (cpl : Bool) (cls : Fin 6) (b : Body) :
    (State.agentReply s a cpl cls b).Sound M K := h

theorem State.miss_sound {s : State} (h : s.Sound M K) (r : MemReq) (k : Nat) (alloc : Bool) :
    Each (State.Sound M K) (State.miss s r k alloc) := by
  grind [State.miss, State.beginFill_sound, State.onReq_sound, State.setSlice_sound, Each, Option.map_eq_some_iff]

theorem State.agentMiss_sound {s : State} (h : s.Sound M K) (a : Fin 24) (name : BitVec 64) (tag : BitVec 16) (to_ : Requester) (cpl : Bool)
    (code : Byte) :
    (State.agentMiss s a name tag to_ cpl code).Sound M K := h

theorem State.askWalk_sound {s : State} (h : s.Sound M K) (a : Fin 24) (ns : BitVec 8) (va : Nat) : (State.askWalk s a ns va).Sound M K := h

/-- The state an agent's access goes on from is sound. -/
def Access.Sound (M K : Prop) : Access → Prop
  | .asks s | .fails _ s => s.Sound M K
  | .waits | .ready _ => True

theorem State.rimAccess_sound {s : State} (h : s.Sound M K) (a : Fin 24) (ns : BitVec 8) (write : Bool) (l : List (Nat × Nat)) :
    (State.rimAccess s a ns write l).Sound M K := by
  unfold State.rimAccess
  extract_lets part
  split
  · exact h
  · split
    · exact askWalk_sound h a ns _
    · split
      · exact h
      · exact True.intro
  · extract_lets lines
    split <;> split <;> exact True.intro

theorem State.fetchRead_sound {s : State} (h : s.Sound M K) (a : Fin 24) (e : DirEntry) (vas : List (Nat × Nat)) (uncorrectable : Bool)
    (fail : State → Byte → State) (ok : List (Nat × Nat × Nat) → Option State) (hfail : ∀ t code, t.Sound M K → (fail t code).Sound M K)
    (hok : ∀ l, Each (State.Sound M K) (ok l)) : Each (State.Sound M K) (State.fetchRead s a e vas uncorrectable fail ok) := by
  have ha := rimAccess_sound h a e.ns false vas
  unfold State.fetchRead
  split
  · exact each_none
  · next t ht => exact each_some (by rw [ht] at ha; exact ha)
  · next code t ht => exact each_some (hfail t code (by rw [ht] at ha; exact ha))
  · split
    · exact each_some (hfail s _ h)
    · exact hok _

theorem State.readEvent_sound {s : State} (h : s.Sound M K) (a : Agent) (part : Fin 16) (addrs : List Nat) :
    Each (fun x => x.1.Sound M K) (State.readEvent s a part addrs) := by
  unfold State.readEvent
  extract_lets lines
  split
  · exact each_none
  · exact each_map fun t ht => raiseLts_sound (stampAll_sound (bringAll_sound h part lines t ht) _ _ _ _) _ _

theorem State.fetchOutcome_sound {s : State} (h : s.Sound M K) (a : Fin 24) (uncorrectable : Bool) (name : BitVec 64) (tag : BitVec 16)
    (to_ : Requester) (cpl : Bool) : Each (State.Sound M K) (State.fetchOutcome s a uncorrectable name tag to_ cpl) := by
  unfold State.fetchOutcome
  extract_lets drop fail
  have hdrop : ∀ t : State, t.Sound M K → (drop t).Sound M K := fun _ ht => ht
  have hfail : ∀ (t : State) code, t.Sound M K → (fail t code).Sound M K := fun t _ ht => agentMiss_sound (hdrop t ht) _ _ _ _ _ _
  split
  · exact each_some (hfail s _ h)
  · split
    · exact each_some (hfail s _ h)
    · split
      · exact fetchRead_sound h _ _ _ _ _ _ hfail fun _ => each_none
      · exact fetchRead_sound h _ _ _ _ _ _ hfail fun l => each_map fun r hr =>
          agentReply_sound (hdrop r.1 (readEvent_sound h _ _ _ r hr)) _ _ _ _

theorem State.fetchFirst_sound {s : State} (h : s.Sound M K) (a : Fin 24) (uncorrectable : Bool) : ∀ l,
    Each (State.Sound M K) (State.fetchFirst s a uncorrectable l)
  | [] => each_none
  | j :: js => by
    have hnext := fetchFirst_sound h a uncorrectable js
    unfold State.fetchFirst
    split
    · split
      · split
        · next t ht => exact each_some (fetchOutcome_sound h _ _ _ _ _ _ t ht)
        · exact hnext
      · exact hnext
    · exact hnext

theorem evAgentFetchDone_sound {s : State} (h : s.Sound M K) (agent : Fin 24) (uncorrectable : Bool) :
    Each (State.Sound M K) (evAgentFetchDone agent uncorrectable s) := by
  grind [evAgentFetchDone, State.fetchFirst_sound]

theorem evAgentRequest_sound {s : State} (h : s.Sound M K) (agent : Fin 24) : Each (State.Sound M K) (evAgentRequest agent s) := by
  unfold evAgentRequest
  split
  · exact each_none
  · split
    · extract_lets t
      have ht : t.Sound M K := h
      refine each_some ?_
      split
      · exact agentMiss_sound ht _ _ _ _ _ _
      · split
        · exact agentMiss_sound ht _ _ _ _ _ _
        · exact ht
    · exact each_none

theorem State.begin_sound {s : State} (h : s.Sound M K) (n : Nat) (b : Bundle) : (State.begin s n b).Sound M K := by
  grind [State.begin, Core.beginBundle_sound, State.onCore_sound]

theorem evArg_sound {s : State} (h : s.Sound M K) (port : Fin 16) : Each (State.Sound M K) (evArg port s) := by
  unfold evArg
  split
  · exact each_none
  · split
    · split
      · exact each_none
      · refine each_some (consume_sound (onCtx_sound h _ _ fun _ hy => ?_) _ _)
        exact hy
    · exact each_some (consume_sound h _ _)

theorem evArm_sound {s : State} (h : s.Sound M K) (part : Fin 16) : Each (State.Sound M K) (evArm part s) := by
  grind [evArm, State.onPreempt_sound, Each]

theorem evAttestationRequest_sound {s : State} (h : s.Sound M K) (nonce : BitVec 384) :
    Each (State.Sound M K) (evAttestationRequest nonce s) := by
  grind [evAttestationRequest, Each, State.Sound, State.memOk, State.scratchOk]

theorem State.unpowered_sound (s : State) : (State.unpowered s).Sound M K := reset_sound.of rfl rfl rfl rfl

theorem evAuxPowerFail_sound {s : State} (_ : s.Sound M K) : Each (State.Sound M K) (evAuxPowerFail s) := by
  grind [evAuxPowerFail, State.unpowered_sound, Each]

theorem evBackCompletion_sound {s : State} (h : s.Sound M K) (core : Nat) : Each (State.Sound M K) (evBackCompletion core s) := by
  unfold evBackCompletion
  split
  · next id ts rest c _ hc =>
    have hd : ({ c.donePb id with lts := max c.lts ts } : Core).Sound K := Core.donePb_sound (core_sound h core c hc) id
    have ht := setCore_sound h hd core
    exact each_some ht
  · exact each_none

theorem State.backOn_sound {s : State} (h : s.Sound M K) (a : Fin 24) (t : Tile) (source : Nat) :
    Each (State.Sound M K) (State.backOn s a t source) := by
  unfold State.backOn
  extract_lets drop
  have hdrop : ∀ x : State, x.Sound M K → (drop x).Sound M K := fun _ hx => hx
  split
  · exact each_some (hdrop s h)
  · next e _ =>
    have ha := rimAccess_sound h a e.ns true (e.tileVas (indexBits t.name) (min t.tokens (e.tokm1 + 1)))
    split
    · exact each_none
    · next x hx => exact each_some (by rw [hx] at ha; exact ha)
    · next x hx => exact each_some (hdrop x (by rw [hx] at ha; exact ha))
    · extract_lets bytes
      refine each_map fun r hr => ?_
      have hr1 : r.1.Sound M K := writeEvent_sound h _ _ _ r hr
      split
      · exact hr1
      · exact hr1

theorem State.takeBack_sound {s : State} (h : s.Sound M K) (a : Fin 24) : Each (fun x => x.2.2.Sound M K) (State.takeBack s a) := by
  grind [State.takeBack, Each, State.Sound, State.memOk, State.scratchOk]

theorem evBackWrite_sound {s : State} (h : s.Sound M K) (agent : Fin 24) : Each (State.Sound M K) (evBackWrite agent s) := by
  unfold evBackWrite
  split
  · exact backOn_sound h _ _ _
  · split
    · exact each_none
    · next t source x hx =>
      have hxs : x.Sound M K := takeBack_sound h agent _ hx
      split
      · exact each_some hxs
      · refine each_some ?_
        cases hb : x.backOn agent t source with
        | none => exact hxs
        | some y => exact backOn_sound hxs _ _ _ y hb

theorem State.coreEvent_sound {s : State} (h : s.Sound M K) (n : Nat) (f : Core → Option (Core × List Out))
    (hf : ∀ c, c.Sound K → Each (fun r => r.1.Sound K) (f c)) : Each (State.Sound M K) (State.coreEvent s n f) := by
  unfold State.coreEvent
  split
  · exact each_none
  · next c hc =>
    split
    · exact each_none
    · next r hr => exact each_some (applyAll_sound (setCore_sound h (hf c (core_sound h n c hc) r hr) n) n _)

theorem State.releasePhase_sound {s : State} (h : s.Sound M K) (g : GateId) (tag : BitVec 16) (phase : Nat) :
    (State.releasePhase s g tag phase).Sound M K := by
  unfold State.releasePhase
  refine foldl_sound (onGate_sound h g _) fun t n ht => ?_
  split
  · next c hc =>
    have hd : ({ c with barRel := max c.barRel phase } : Core).Sound K := core_sound ht n c hc
    exact setCore_sound ht hd n
  · exact ht

theorem State.releaseDue_sound (g : GateId) (hsize : Nat) : ∀ {s : State} (_ : s.Sound M K) (l : List (BitVec 16 × Nat × Nat)),
    (State.releaseDue s g hsize l).Sound M K
  | _, h, [] => h
  | s, h, x :: xs => by
    unfold State.releaseDue
    extract_lets t
    have ht : t.Sound M K := by
      unfold t
      split
      · split
        · exact releasePhase_sound h _ _ _
        · exact h
      · exact h
    exact releaseDue_sound g hsize ht xs

theorem State.releases_sound {s : State} (h : s.Sound M K) (g : GateId) : (State.releases s g).Sound M K := by
  grind [State.releases, State.releaseDue_sound]

theorem evBarrierArrival_sound {s : State} (h : s.Sound M K) (gate : GateId) : Each (State.Sound M K) (evBarrierArrival gate s) := by
  unfold evBarrierArrival
  split
  · exact each_none
  · split
    · exact each_none
    · refine each_map fun x hx => releases_sound (onGate_sound ?_ _ _) _
      exact coreEvent_sound h _ _ (fun _ hc => each_some (Core.portDone_sound hc _)) x hx

theorem evBarrierTimeout_sound {s : State} (h : s.Sound M K) (core : Nat) : Each (State.Sound M K) (evBarrierTimeout core s) := by
  grind [evBarrierTimeout, State.abortHerd_sound, Each]

theorem evBloomAlternate_sound {s : State} (h : s.Sound M K) : Each (State.Sound M K) (evBloomAlternate s) := by
  grind [evBloomAlternate, Each, State.Sound, State.memOk, State.scratchOk]

theorem evCancel_sound {s : State} (h : s.Sound M K) (part : Fin 16) : Each (State.Sound M K) (evCancel part s) := by
  grind [evCancel, State.onPreempt_sound, Each]

theorem evCancellation_sound {s : State} (h : s.Sound M K) (req : Nat) : Each (State.Sound M K) (evCancellation req s) := by
  unfold evCancellation
  split
  · exact each_none
  · split
    · split
      · split
        · refine each_some (tidy_sound ?_)
          split
          · exact onReq_sound h _ _
          · exact h
        · exact each_none
      · exact each_none
    · exact each_none

theorem State.carryHop_sound {s : State} (h : s.Sound M K) (core : Nat) (down : Bool) : ∀ l,
    Each (State.Sound M K) (State.carryHop s core down l)
  | [] => each_none
  | f :: fs => by
    unfold State.carryHop
    extract_lets go
    have hgo : Each (State.Sound M K) go := by
      unfold go
      split
      · split
        · exact byCoords_sound h _ _ f
        · exact each_none
      · split
        · exact sourceIn_sound h _ _ _ _
        · exact each_none
      · split
        · exact each_bind fun x _ => transit_sound h _ _ _ _
        · exact each_none
      · exact each_none
    clear_value go
    split
    · exact each_some (hgo _ rfl)
    · exact carryHop_sound h core down fs

theorem State.sendCarries_sound (n : Nat) (f : Firing) : ∀ {s : State} (_ : s.Sound M K) (l : List CarryOut),
    (State.sendCarries s n f l).Sound M K
  | _, h, [] => h
  | s, h, o :: os => by
    unfold State.sendCarries
    refine sendCarries_sound n f ?_ os
    split
    · dsimp only
      split
      · exact post_sound h _ _
      · exact emit_sound h _ _ _
    · exact h

theorem State.scanOn_sound {s : State} (h : s.Sound M K) (n : Nat) : (State.scanOn s n).Sound M K := by
  unfold State.scanOn
  split
  · exact h
  · next c hc =>
    extract_lets r
    split
    · exact sendCarries_sound _ _ (setCore_sound h (Core.scanOn_sound (core_sound h n c hc)) n) _
    · exact h

theorem State.carryLands_sound {s : State} (h : s.Sound M K) (core : Nat) (down : Bool) :
    Each (State.Sound M K) (State.carryLands s core down) := by
  unfold State.carryLands
  refine each_bind fun c hc => each_bind fun f _ => ?_
  split
  · exact each_none
  · refine each_bind fun x _ => ?_
    split
    · extract_lets d
      have hd : d.Sound K := by
        unfold d
        split
        · exact core_sound h core c hc
        · exact core_sound h core c hc
      have hx : ({ s with msgs := x.2 } : State).Sound M K := h
      exact each_some (moved_sound (scanOn_sound (setCore_sound hx hd core) core) core)
    · exact each_none

theorem evCarryMessageArrival_sound {s : State} (h : s.Sound M K) (core : Nat) (down : Bool) :
    Each (State.Sound M K) (evCarryMessageArrival core down s) := by
  grind [evCarryMessageArrival, State.carryHop_sound, State.carryLands_sound]

theorem State.beginSwap_sound {s : State} (h : s.Sound M K) (part : Fin 16) (p : Part) : (State.beginSwap s part p).Sound M K := h

theorem evCfgswap_sound {s : State} (h : s.Sound M K) (part : Fin 16) : Each (State.Sound M K) (evCfgswap part s) := by
  grind [evCfgswap, State.beginSwap_sound, Each]

theorem evCfgswapForce_sound {s : State} (h : s.Sound M K) (part : Fin 16) : Each (State.Sound M K) (evCfgswapForce part s) := by
  grind [evCfgswapForce, State.beginSwap_sound, Each]

theorem State.sendOut_sound {s : State} (h : s.Sound M K) (n : Nat) (m : Msg) (outs : List (Fin 6)) :
    (State.sendOut s n m outs).Sound M K := by
  grind [State.sendOut, State.post_sound, State.sendAll_sound]

theorem State.offerChunk_sound {s : State} (h_s : s.Sound M K) (n : Nat) (f : Facet) (op : Fin 4) (h : HeldChunk) (full : Option State)
    (h_full : Each (State.Sound M K) full) :
    Each (State.Sound M K) (State.offerChunk s n f op h full) := by
  grind [State.offerChunk, State.onRouter_sound, State.sendOut_sound, Each]

theorem evChunkRefetch_sound {s : State} (h : s.Sound M K) (router : Nat) : Each (State.Sound M K) (evChunkRefetch router s) := by
  unfold evChunkRefetch
  split
  · exact each_none
  · extract_lets t
    have ht : t.Sound M K := onRouter_sound h router _
    split
    · exact each_bind fun op _ => each_map fun x hx => moved_sound (offerChunk_sound ht _ _ _ _ _ each_none x hx) _
    · exact each_none

theorem evClose_sound {s : State} (h : s.Sound M K) (port : Fin 16) : Each (State.Sound M K) (evClose port s) := by
  grind [evClose, State.consume_sound, State.onIng_sound, Each]

theorem State.raiseAt_sound {s : State} (h : s.Sound M K) (code n : Nat) (port cls : Nat) (cpl : Bool) (name : BitVec 64) (tag : BitVec 16)
    (detail : Nat) :
    (State.raiseAt s code n port cls cpl name tag detail).Sound M K := h

theorem State.stray_sound {s : State} (h : s.Sound M K) (n : Nat) (p : Fin 6) (m : Msg) : (State.stray s n p m).Sound M K := h

theorem State.combineAt_sound {s : State} (h : s.Sound M K) (n : Nat) (p : Fin 6) (f : Flying) (x : Facet) (op : Fin 4) (h : HeldChunk) :
    Each (State.Sound M K) (State.combineAt s n p f x op h) := by
  grind [State.combineAt, State.offerChunk_sound, State.onRouter_sound, State.stray_sound, Each, State.Sound, State.memOk, State.scratchOk]

theorem State.discard_sound {s : State} (h : s.Sound M K) (f : Flying) : (State.discard s f).Sound M K := h

theorem State.forwardChunk_sound {s : State} (h : s.Sound M K) (n : Nat) (p : Fin 6) (f : Flying) (outs : List (Fin 6)) :
    Each (State.Sound M K) (State.forwardChunk s n p f outs) := by
  grind [State.forwardChunk, State.goOn_sound, State.post_sound, Each, Option.map_eq_some_iff]

theorem State.chunkAt_sound {s : State} (h : s.Sound M K) (n : Nat) (p : Fin 6) (f : Flying) (c : HeldChunk) :
    Each (State.Sound M K) (State.chunkAt s n p f c) := by
  unfold State.chunkAt
  split
  · exact each_some (stray_sound (discard_sound h f) _ _ _)
  · split
    · exact each_none
    · split
      · exact forwardChunk_sound h _ _ _ _
      · split
        · exact each_map fun t ht => moved_sound (combineAt_sound h _ _ _ _ _ _ t ht) _
        · exact each_none

theorem State.pass_sound {s : State} (h : s.Sound M K) : (State.pass s).Sound M K := h

theorem State.chunkStep_sound {s : State} (h : s.Sound M K) (n : Nat) (p : Fin 6) (lane : Fin 2) :
    Each (State.Sound M K) (State.chunkStep s n p lane) := by
  grind [State.chunkStep, State.chunkAt_sound, State.discard_sound, State.forwardChunk_sound, State.stray_sound, Each,
      Option.bind_eq_some_iff]

theorem State.collEnters_sound {s : State} (h : s.Sound M K) (n : Nat) (q : Body → Bool) : Each (State.Sound M K)
    (State.collEnters s n q) := by
  unfold State.collEnters
  split
  · next c hc =>
    split
    · refine each_bind fun x hx => ?_
      split
      · exact each_map fun y hy => moved_sound (inject_sound h (Core.collHead_sound (core_sound h n c hc) x hx) _ _ y hy) _
      · exact each_none
    · exact each_none
  · exact each_none

theorem State.portFault_sound {s : State} (h : s.Sound M K) (n : Nat) : Each (State.Sound M K) (State.portFault s n) :=
  coreEvent_sound h n _ fun _ hc => each_bind fun a _ => each_map fun d hd => Core.eccFault_sound hc a d hd

theorem State.collFault_sound {s : State} (h : s.Sound M K) (n : Nat) : Each (State.Sound M K) (State.collFault s n) := by
  grind [State.collFault, State.portFault_sound, Each]

theorem evCollectiveChunkArrival_sound {s : State} (h : s.Sound M K) (router : Nat) (ch : Chan) :
    Each (State.Sound M K) (evCollectiveChunkArrival router ch s) := by
  grind [evCollectiveChunkArrival, State.channel_sound, State.chunkStep_sound, State.collEnters_sound, State.collFault_sound]

theorem State.give_sound {s : State} (h : s.Sound M K) (g : Gate) (t : Task) (i : Iter) (rank : Nat) (n member : Nat) :
    (State.give s g t i rank n member).Sound M K := by
  grind [State.give, Core.take_sound, State.moved_sound, State.onCore_sound]

theorem State.completeReq_sound {s : State} (h : s.Sound M K) (r : MemReq) : (State.completeReq s r).Sound M K := by
  unfold State.completeReq
  extract_lets t u reqs
  have ht : t.Sound M K := raiseLts_sound h _ _
  have hu : u.Sound M K := by
    unfold u
    split
    · next c hc => exact setCore_sound ht (Core.complete_sound (core_sound ht _ c hc) r) _
    · exact ht
  split
  · exact hu
  · exact hu

theorem evCompletionToken_sound {s : State} (h : s.Sound M K) (req : Nat) : Each (State.Sound M K) (evCompletionToken req s) := by
  grind [evCompletionToken, State.completeReq_sound, State.memHop_sound, Each, Option.bind_eq_some_iff, Option.map_eq_some_iff]

theorem evConfigEntryRewritten_sound {s : State} (h : s.Sound M K) (router : Nat) :
    Each (State.Sound M K) (evConfigEntryRewritten router s) := by
  unfold evConfigEntryRewritten
  split
  · exact each_none
  · extract_lets t
    have ht : t.Sound M K := onRouter_sound h router _
    exact each_some ht

theorem evConfigWrite_sound {s : State} (h : s.Sound M K) (router : Nat) : Each (State.Sound M K) (evConfigWrite router s) := by
  unfold evConfigWrite
  refine each_bind fun x _ => ?_
  split
  · extract_lets t
    have hx : ({ s with msgs := x.2 } : State).Sound M K := h
    have ht : t.Sound M K := moved_sound hx router
    refine each_some ?_
    split
    · exact stray_sound ht _ _ _
    · split
      · exact onPart_sound ht _ _
      · exact ht
  · exact each_none

theorem State.dropRoot_sound {s : State} (h : s.Sound M K) (ns : BitVec 8) : (State.dropRoot s ns).Sound M K := by
  unfold State.dropRoot
  split <;> exact h

theorem State.dropRoots_sound {s : State} (h : s.Sound M K) :
    (State.dropRoots s).Sound M K := foldl_sound h fun _ ns ht => dropRoot_sound ht ns

theorem State.flash_sound {s : State} (h : s.Sound M K) (h : HealthRecord) : (State.flash s h).Sound M K := by
  grind [State.flash, State.Sound, State.memOk, State.scratchOk]

theorem State.remap_sound {s : State} (h : s.Sound M K) : (State.remap s).Sound M K := by
  unfold State.remap
  extract_lets hr m w _ t
  have ht : t.Sound M K := by
    unfold t
    split
    · exact h
    · exact flash_sound h _
  have hu : ({ t with cores := s.cores.map fun x => (x.1, { x.2 with caps := coreCapsOf hr m s.economy x.1 }) } : State).Sound M K :=
    withCores_sound ht ((cores_sound h).map fun _ hx => hx)
  exact hu.of rfl rfl rfl rfl

theorem State.holdPort_sound {s : State} (h : s.Sound M K) (e : Nat × Fin 6) : (State.holdPort s e).Sound M K := h

theorem State.bypass_sound {s : State} (h : s.Sound M K) (k : Nat) : (State.bypass s k).Sound M K := by
  unfold State.bypass
  extract_lets box
  clear_value box
  split
  · exact foldl_sound h fun _ e ht => onRouter_sound ht e.1 _
  · exact foldl_sound h fun _ e ht => holdPort_sound (onRouter_sound ht e.1 _) e

theorem State.reroute_sound {s : State} (h : s.Sound M K) : (State.reroute s).Sound M K := by
  have ht : ({ s with routers := s.routers.map fun r => (r.1, { r.2 with boxed := [], held := [] }) } : State).Sound M K := h
  exact foldl_sound ht fun _ k hx => bypass_sound hx k

theorem Ctx.restarted_sound {k : Ctx} (h : k.Sound K) : (Ctx.restarted k).Sound K := by
  grind [Ctx.restarted, Ctx.Sound]

theorem State.flushed_sound {s : State} (h : s.Sound M K) :
    (State.flushed s).Sound M K := foldl_sound h fun _ x ht => evict_sound ht x.1 x.2 true

theorem State.restartCore_sound (s : State) (n : Nat) (c : Core) : (State.restartCore s n c).Sound K := freshCore_sound s n

theorem State.restartWork_sound {s : State} (h : s.Sound M K) : (State.restartWork s).Sound M K := by
  have hf := flushed_sound h
  have hc : CoresSound K (s.flushed.cores.map fun x => (x.1, s.flushed.restartCore x.1 x.2)) :=
    (cores_sound hf).map fun x _ => restartCore_sound _ _ _
  refine sound_mk hf.1 hc fun k => ?_
  have hk : (s.flushed.ctxs.map Ctx.restarted)[k].Sound K := by
    have hr := Ctx.restarted_sound (ctx_sound hf k)
    simpa using hr
  exact hk

theorem evConfigurationRestart_sound {s : State} (h : s.Sound M K) : Each (State.Sound M K) (evConfigurationRestart s) := by
  grind [evConfigurationRestart, State.dropRoots_sound, State.remap_sound, State.reroute_sound, State.restartWork_sound, Each]

theorem State.startProbe_sound {s : State} (h : s.Sound M K) (part : Fin 16) (asked : Bool) :
    Each (State.Sound M K) (State.startProbe s part asked) := by
  grind [State.startProbe, State.onPart_sound, Each]

theorem State.timers_sound {s : State} (h : s.Sound M K) : (State.timers s).Sound M K := h

theorem evCongestionTimeout_sound {s : State} (h : s.Sound M K) (router : Nat) (port : Fin 6) :
    Each (State.Sound M K) (evCongestionTimeout router port s) := by
  grind [evCongestionTimeout, State.startProbe_sound, Each]

theorem State.coreOr_sound {s : State} (h : s.Sound M K) (n : Nat) : (State.coreOr s n).Sound K := by
  unfold State.coreOr
  cases hc : s.core n with
  | none => exact freshCore_sound s n
  | some c => exact core_sound h n c hc

theorem State.dropFill_sound {s : State} (h : s.Sound M K) (r : MemReq) : (State.dropFill s r).Sound M K := by
  unfold State.dropFill
  split <;> exact h

theorem State.faultCore_sound {s : State} (h : s.Sound M K) (a : Agent) (d : DFault) : (State.faultCore s a d).Sound M K := by
  unfold State.faultCore
  split
  · next n =>
    split
    · next c hc =>
      have hd : ({ c with dfaults := c.dfaults ++ [d] } : Core).Sound K := core_sound h n c hc
      exact setCore_sound h hd n
    · exact h
  · exact h

theorem State.failReq_sound {s : State} (h : s.Sound M K) (r : MemReq) (code : Byte) (va : Nat) :
    (State.failReq s r code va).Sound M K := by
  unfold State.failReq
  extract_lets t
  have ht : t.Sound M K := dropFill_sound h r
  split
  · exact faultCore_sound (onReq_sound ht _ _) _ _
  · exact ht

theorem State.failTile_sound {s : State} (h : s.Sound M K) (r : MemReq) (code : Byte) (va : Nat) :
    (State.failTile s r code va).Sound M K := by
  grind [State.failTile, State.failReq_sound, State.onReq_sound, State.tidy_sound, State.unreserve_sound]

theorem State.failIn_sound {s : State} (h : s.Sound M K) (in_ : Nat → Bool) (r : MemReq) : (State.failIn in_ s r).Sound M K := by
  grind [State.failIn, State.failReq_sound, State.failTile_sound]

theorem State.destroyKeys_sound {s : State} (h : s.Sound M K) (i : Fin 16) : (State.destroyKeys s i).Sound M K := by
  unfold State.destroyKeys
  extract_lets mine in_ t gone u
  have ht : t.Sound M K := tidy_sound (foldl_sound h fun _ r hx => failIn_sound hx in_ r)
  have hu : u.Sound M K := foldl_sound ht fun _ l hx => evict_sound hx l.1 l.2 false
  exact hu

theorem State.clearCtx_sound {s : State} (h : s.Sound M K) (k : Fin 8) : (State.clearCtx s k).Sound M K := by
  grind [State.clearCtx, State.clearPart_sound]

theorem State.dropSwitch_sound {s : State} (h : s.Sound M K) (part : Fin 16) : (State.dropSwitch s part).Sound M K := h

theorem State.leftSet_sound {s : State} (h : s.Sound M K) (k : Fin 8) : (State.leftSet s k).Sound M K := by
  unfold State.leftSet
  extract_lets t
  have ht : t.Sound M K := foldl_sound h fun x p hx => by
    split
    · exact dropSwitch_sound hx p
    · exact hx
  refine foldl_sound ht fun x p hx => ?_
  split
  · exact beginRestore_sound (onPreempt_sound hx p _) p
  · exact beginRestore_sound hx p

theorem State.faultCtx_sound {s : State} (h : s.Sound M K) (k : Fin 8) : (State.faultCtx s k).Sound M K := by
  grind [State.faultCtx, State.clearCtx_sound, State.leftSet_sound, State.onCtx_sound, Ctx.Sound]

theorem State.onTdi_sound {s : State} (h : s.Sound M K) (i : Fin 16) (f : Tdi → Tdi) : (State.onTdi s i f).Sound M K := h

theorem State.enterError_sound {s : State} (h : s.Sound M K) (i : Fin 16) (cause : Fin 5) : (State.enterError s i cause).Sound M K :=
  foldl_sound (destroyKeys_sound (onTdi_sound h i _) i) fun _ k hx => faultCtx_sound hx k

theorem State.redebug_sound {s : State} (h : s.Sound M K) : (State.redebug s).Sound M K := by
  grind [State.redebug, State.Sound, State.memOk, State.scratchOk]

theorem State.judged_sound {s : State} (h : s.Sound M K) : (State.judged s).Sound M K := by
  refine redebug_sound (foldl_sound h fun x i hx => ?_)
  split
  · exact enterError_sound hx i 1
  · exact hx

theorem State.attach_sound {s : State} (h : s.Sound M K) (n : Nat) (kind : Fin 3) : (State.attach s n kind).Sound M K := by
  unfold State.attach
  extract_lets c
  have hc : c.Sound K := coreOr_sound h n
  have hh : ({ c with halted := true } : Core).Sound K := hc
  refine judged_sound (setCore_sound h ?_ n)
  split
  · exact Core.askFreeze_sound hh
  · exact hc

theorem State.askDebug_sound {s : State} (h : s.Sound M K) (n : Nat) (kind : Fin 3) : Each (State.Sound M K) (State.askDebug s n kind) := by
  grind [State.askDebug, State.attach_sound, Each, State.Sound, State.memOk, State.scratchOk]

theorem evDebugAttachHalt_sound {s : State} (h : s.Sound M K) (core : Nat) : Each (State.Sound M K) (evDebugAttachHalt core s) := by
  grind [evDebugAttachHalt, State.askDebug_sound]

theorem evDebugAttachTrace_sound {s : State} (h : s.Sound M K) (core : Nat) : Each (State.Sound M K) (evDebugAttachTrace core s) := by
  grind [evDebugAttachTrace, State.askDebug_sound]

theorem State.answerKept_sound {s : State} (h : s.Sound M K) (n : Nat) : (State.answerKept s n).Sound M K := by
  unfold State.answerKept
  split
  · next c hc =>
    extract_lets t
    have hd : ({ c with reply := none } : Core).Sound K := core_sound h n c hc
    have ht : t.Sound M K := setCore_sound h hd n
    split
    · exact answer_sound ht n _
    · exact answer_sound ht n _
    · exact answer_sound ht n _
    · exact h
  · exact h

theorem State.endSession_sound {s : State} (h : s.Sound M K) (n : Nat) : (State.endSession s n).Sound M K := by
  unfold State.endSession
  extract_lets t
  have ht : t.Sound M K := by
    unfold t
    split
    · next c hc =>
      extract_lets d u
      have hu : u.Sound M K := setCore_sound h (Core.released_sound (core_sound h n c hc) _) n
      split
      · exact answerKept_sound hu n
      · exact hu
    · exact h
  exact mapCtxs_sound ht fun _ hk => Ctx.release_sound hk n

theorem evDebugSessionEnd_sound {s : State} (h : s.Sound M K) (core : Nat) : Each (State.Sound M K) (evDebugSessionEnd core s) := by
  grind [evDebugSessionEnd, State.endSession_sound, State.redebug_sound, Each]

theorem State.record_sound {s : State} (h : s.Sound M K) (r : HealthRecord) : (State.record s r).Sound M K := by
  unfold State.record
  extract_lets ce r' m
  exact (flash_sound h r').of rfl rfl rfl rfl

theorem evDeepTierLoss_sound {s : State} (h : s.Sound M K) (link : Fin 8) : Each (State.Sound M K) (evDeepTierLoss link s) := by
  unfold evDeepTierLoss
  split
  · exact each_none
  · exact each_some ((record_sound h { s.health with cxlOut := s.health.cxlOut ++ [link] }).of rfl rfl rfl rfl)

theorem evDeferredFault_sound {s : State} (h : s.Sound M K) (core : Nat) : Each (State.Sound M K) (evDeferredFault core s) := by
  refine coreEvent_sound h core _ fun c hc => ?_
  split
  · exact each_none
  · next d ds _ =>
    have hd : ({ c with dfaults := ds } : Core).Sound K := hc
    split
    · exact each_some (Core.takeTrap_sound hd _ _)
    · exact each_none

theorem State.dispatched_sound {s : State} (h : s.Sound M K) (g : Gate) (i : Iter) : (State.dispatched s g i).Sound M K := by
  grind [State.dispatched, State.onGate_sound]

theorem State.passOver_sound {s : State} (h : s.Sound M K) (g : GateId) : (State.passOver s g).Sound M K := by
  grind [State.passOver, State.onGate_sound]

theorem State.passOthers_sound (g : GateId) : ∀ {s : State} (_ : s.Sound M K) (l : List (Gate × Task)), (State.passOthers s g l).Sound M K
  | _, h, [] => h
  | s, h, x :: xs => by
    unfold State.passOthers
    refine passOthers_sound g ?_ xs
    split
    · exact h
    · exact passOver_sound h _

theorem State.pickedBy_sound {s : State} (h : s.Sound M K) (l : List Nat) : (State.pickedBy s l).Sound M K := by
  refine foldl_sound h fun t n ht => ?_
  split
  · next c hc =>
    have hd : ({ c with picked := some s.wcc } : Core).Sound K := core_sound ht n c hc
    exact setCore_sound ht hd n
  · exact ht

theorem evDispatch_sound {s : State} (h : s.Sound M K) (core : Nat) : Each (State.Sound M K) (evDispatch core s) := by
  unfold evDispatch
  split
  · exact each_none
  · next c hc =>
    split
    · exact each_none
    · next g t cr _ =>
      split
      · exact each_none
      · split
        · exact each_none
        · extract_lets off u
          have hd : ({ c with credits := cr, picked := some s.wcc } : Core).Sound K := core_sound h core c hc
          have hu : u.Sound M K := pickedBy_sound (setCore_sound h hd core) _
          exact each_some (passOthers_sound _ (dispatched_sound (give_sound hu _ _ _ _ _ _) _ _) _)

theorem evDrainWave_sound {s : State} (h : s.Sound M K) (part : Fin 16) : Each (State.Sound M K) (evDrainWave part s) := by
  unfold evDrainWave
  split
  · exact each_none
  · split
    · exact each_none
    · extract_lets clean u
      have hu : u.Sound M K := onPart_sound h _ _
      split
      · split
        · exact each_some (onPart_sound h _ _)
        · exact each_none
      · split
        · exact each_none
        · split
          · exact each_some hu
          · exact each_some (onPart_sound h _ _)

theorem evEmptyBundle_sound {s : State} (h : s.Sound M K) (core : Nat) : Each (State.Sound M K) (evEmptyBundle core s) := by
  grind [evEmptyBundle, Core.emptyEvent_sound, State.coreEvent_sound]

theorem evEnd_sound {s : State} (h : s.Sound M K) (core : Nat) : Each (State.Sound M K) (evEnd core s) := by
  grind [evEnd, State.reply_sound]

theorem State.dropCarries_sound {s : State} (h : s.Sound M K) (n : Nat) (f : Firing) (epoch : Nat) :
    (State.dropCarries s n f epoch).Sound M K := h

theorem evEngineOpComplete_sound {s : State} (h : s.Sound M K) (core : Nat) (q : Queue) (uncorrectable : Bool) :
    Each (State.Sound M K) (evEngineOpComplete core q uncorrectable s) := by
  unfold evEngineOpComplete
  split
  · exact each_none
  · next c hc =>
    have hcs := core_sound h core c hc
    split
    · next j f _ _ =>
      split
      · exact each_none
      · split
        · exact each_some (setCore_sound h (Core.faultJob_sound hcs _ _ _) core)
        · split
          · exact each_some (setCore_sound h (Core.faultJob_sound hcs _ _ _) core)
          · extract_lets d t
            have hd : d.Sound K := Core.freeEntry_sound (Core.mended_sound (Core.runJob_sound hcs f j) _ _) _
            have ht : t.Sound M K := setCore_sound h (Core.setQueue_sound hd _ _) core
            refine each_some ?_
            split
            · exact dropCarries_sound ht _ _ _
            · exact ht
    · exact each_none

theorem evEnterP0_sound {s : State} (h : s.Sound M K) : Each (State.Sound M K) (evEnterP0 s) := by
  grind [evEnterP0, Each, State.Sound, State.memOk, State.scratchOk]

theorem evEnterP1_sound {s : State} (h : s.Sound M K) : Each (State.Sound M K) (evEnterP1 s) := by
  grind [evEnterP1, Each, State.Sound, State.memOk, State.scratchOk]

theorem Ctx.releaseAll_sound {k : Ctx} (h : k.Sound K) : (Ctx.releaseAll k).Sound K := by
  grind [Ctx.releaseAll, Option.map_eq_some_iff, Core.Sound, Core.memOk, Ctx.Sound, Image.Sound]

theorem State.endSessions_sound {s : State} (h : s.Sound M K) : (State.endSessions s).Sound M K :=
  redebug_sound (mapCtxs_sound (foldl_sound h fun _ n hx => endSession_sound hx n) fun _ hk => Ctx.releaseAll_sound hk)

theorem evEnterS1_sound {s : State} (h : s.Sound M K) : Each (State.Sound M K) (evEnterS1 s) := by
  unfold evEnterS1
  split
  · exact each_some (endSessions_sound h)
  · exact each_none

theorem State.asleep_sound {s : State} (h : s.Sound M K) : (State.asleep s).Sound M K := by
  unfold State.asleep
  extract_lets t
  have ht : t.Sound M K := dropRoots_sound (restartWork_sound h)
  have hp : ({ t with power := .s3, lostCxl := s.lostCxl } : State).Sound M K := ht
  exact withCores_sound hp ((cores_sound h).map fun x hx => Core.offFrom_sound (restartCore_sound s x.1 x.2) hx)

theorem evEnterS3_sound {s : State} (h : s.Sound M K) : Each (State.Sound M K) (evEnterS3 s) := by
  grind [evEnterS3, State.asleep_sound, State.endSessions_sound, Each]

theorem evEosEmit_sound {s : State} (h : s.Sound M K) (gate : GateId) : Each (State.Sound M K) (evEosEmit gate s) := by
  unfold evEosEmit
  split
  · split
    · extract_lets ns t
      have ht : t.Sound M K := onGate_sound h gate _
      exact each_some (foldl_sound ht fun _ m hx => foldl_sound hx fun _ e hy => post_sound hy _ _)
    · exact each_none
  · exact each_none

theorem evEosRequest_sound {s : State} (h : s.Sound M K) (gate : GateId) : Each (State.Sound M K) (evEosRequest gate s) := by
  unfold evEosRequest
  split
  · exact each_none
  · split
    · exact each_none
    · refine each_map fun x hx => onGate_sound ?_ _ _
      exact coreEvent_sound h _ _ (fun _ hc => each_some (Core.portDone_sound hc _)) x hx

theorem evErrClear_sound {s : State} (h : s.Sound M K) (port : Fin 16) : Each (State.Sound M K) (evErrClear port s) := by
  grind [evErrClear, State.onIng_sound, Each]

theorem evExitS1_sound {s : State} (h : s.Sound M K) : Each (State.Sound M K) (evExitS1 s) := by
  grind [evExitS1, Each, State.Sound, State.memOk, State.scratchOk]

theorem State.setTime_sound {s : State} (h : s.Sound M K) (time : Option SyncTime) : (State.setTime s time).Sound M K := by
  unfold State.setTime
  split <;> exact h

theorem evExitS3_sound {s : State} (h : s.Sound M K) (time : Option SyncTime) : Each (State.Sound M K) (evExitS3 time s) := by
  grind [evExitS3, State.setTime_sound, Each, State.Sound, State.memOk, State.scratchOk]

theorem State.gateRequest_sound {s : State} (h : s.Sound M K) (g : GateId) (p : Pair) : (State.gateRequest s g p).Sound M K := by
  grind [State.gateRequest, State.emit_sound, State.onGate_sound]

theorem State.loseTiles_sound {s : State} (h : s.Sound M K) (n : Nat) : (State.loseTiles s n).Sound M K := by
  unfold State.loseTiles
  extract_lets t
  have ht : t.Sound M K := onRouter_sound h n _
  refine foldl_sound ht fun x p hx => ?_
  extract_lets l need y
  have hy : y.Sound M K := onGate_sound hx _ _
  have hz : ({ y with ticket := y.ticket + p.1.store.length } : State).Sound M K := hy
  exact foldl_sound hz fun _ q hw => gateRequest_sound hw _ _

theorem State.onCores_sound {s : State} (h : s.Sound M K) (l : List Nat) (f : Nat → Core → Core) (hf : ∀ n c, c.Sound K → (f n c).Sound K) :
    (State.onCores s l f).Sound M K := foldl_sound h fun _ n ht => setCore_sound ht (hf n _ (coreOr_sound ht n)) n

theorem State.recordDead_sound {s : State} (h : s.Sound M K) (p : Nat) : (State.recordDead s p).Sound M K := by
  grind [State.recordDead, State.record_sound]

theorem evFailedInService_sound {s : State} (h : s.Sound M K) (core : Nat) : Each (State.Sound M K) (evFailedInService core s) := by
  grind [evFailedInService, Core.askFreeze_sound, State.loseTiles_sound, State.onCores_sound, State.recordDead_sound, Each, Core.Sound,
      Core.memOk]

theorem evFixedResultLand_sound {s : State} (h : s.Sound M K) (core : Nat) : Each (State.Sound M K) (evFixedResultLand core s) :=
  coreEvent_sound h core _ fun _ hc => each_map fun d hd => Core.landEvent_sound hc d hd

theorem evFrameReceive_sound {s : State} (h : s.Sound M K) (port : Fin 32) (frame : Frame) :
    Each (State.Sound M K) (evFrameReceive port frame s) := by
  grind [evFrameReceive, State.flow_sound, State.setPeer_sound, Each]

theorem evFrameResendTimeout_sound {s : State} (h : s.Sound M K) (port : Fin 32) (peer : Fin 4096) (cls : Fin 6) :
    Each (State.Sound M K) (evFrameResendTimeout port peer cls s) := by
  grind [evFrameResendTimeout, State.setPeer_sound, Each]

theorem evFreezeRequest_sound {s : State} (h : s.Sound M K) (core : Nat) : Each (State.Sound M K) (evFreezeRequest core s) := by
  refine coreEvent_sound h core _ fun c hc => ?_
  split
  · exact each_some (Core.freeze_sound hc)
  · exact each_none

theorem State.cancelAll_sound {s : State} (h : s.Sound M K) (n : Nat) : (State.cancelAll s n).Sound M K := by
  unfold State.cancelAll
  extract_lets mine t
  have ht : t.Sound M K := foldl_sound h fun _ r hx => dropFill_sound (unreserve_sound hx _) r
  refine tidy_sound ?_
  exact ht

theorem State.dropHerdCarries_sound {s : State} (h : s.Sound M K) (g : GateId) (f : Firing) : (State.dropHerdCarries s g f).Sound M K := by
  grind [State.dropHerdCarries, State.Sound, State.memOk, State.scratchOk]

theorem State.countRetired_sound {s : State} (h : s.Sound M K) (f : Firing) : (State.countRetired s f).Sound M K := by
  grind [State.countRetired, State.dropHerdCarries_sound, State.finishGraph_sound, State.onGate_sound, State.releases_sound]

theorem State.loseFiring_sound {s : State} (h : s.Sound M K) (n : Nat) (f : Firing) : (State.loseFiring s n f).Sound M K := by
  grind [State.loseFiring, State.abortHerd_sound, State.closeHerd_sound, State.countRetired_sound, State.raiseAt_sound]

theorem evFreezeTimeout_sound {s : State} (h : s.Sound M K) (core : Nat) : Each (State.Sound M K) (evFreezeTimeout core s) := by
  unfold evFreezeTimeout
  split
  · exact each_none
  · next c hc =>
    split
    · extract_lets _ t
      have hd : ({ s.vacant core c with withdrawn := true, failed := true, out := true } : Core).Sound K := vacant_sound s core c
      have ht : t.Sound M K := setCore_sound (cancelAll_sound h core) hd core
      exact each_some (foldl_sound ht fun _ f hx => loseFiring_sound hx core f)
    · exact each_none

theorem State.acceptTile_sound {s : State} (h : s.Sound M K) (g : Gate) (t : Tile) : Each (State.Sound M K) (State.acceptTile s g t) := by
  grind [State.acceptTile, State.onGate_sound, Each, Option.map_eq_some_iff]

theorem State.countEnd_sound {s : State} (h : s.Sound M K) (g : Gate) (n : Nat) (p : Fin 6) (m : Msg) (t : Tile) :
    (State.countEnd s g n p m t).Sound M K := by
  grind [State.countEnd, State.onGate_sound, State.stray_sound]

theorem evGateTileArrival_sound {s : State} (h : s.Sound M K) (gate : GateId) : Each (State.Sound M K) (evGateTileArrival gate s) := by
  unfold evGateTileArrival
  split
  · extract_lets n s'
    have hs' : s'.Sound M K := h
    split
    · exact each_none
    · exact each_some (stray_sound hs' _ _ _)
    · split
      · exact each_some (moved_sound (countEnd_sound hs' _ _ _ _ _) _)
      · split
        · exact each_some (stray_sound hs' _ _ _)
        · split
          · next x hx => exact each_some (moved_sound (acceptTile_sound hs' _ _ x hx) _)
          · exact each_some (post_sound hs' _ _)
  · exact each_none

theorem evGetDeviceInterfaceReport_sound {s : State} (h : s.Sound M K) (itf : Fin 16) :
    Each (State.Sound M K) (evGetDeviceInterfaceReport itf s) := by
  grind [evGetDeviceInterfaceReport, Each, State.Sound, State.memOk, State.scratchOk]

theorem State.restoreIdle_sound {s : State} (h : s.Sound M K) (k : Fin 8) : (State.restoreIdle s k).Sound M K := by
  grind [State.restoreIdle, State.beginRestore_sound, State.onCtx_sound, Ctx.Sound]

theorem State.runGraphs_sound {s : State} (h : s.Sound M K) (k : Fin 8) (g : Config) (l : List (Fin 16)) :
    (State.runGraphs s k g l).Sound M K := by
  have hk := ctx_sound h k
  unfold State.runGraphs
  extract_lets c nums cfg mine d seeds u t
  have hd : d.Sound K := hk
  have hu : u.Sound M K := h
  have ht : t.Sound M K := by
    unfold t
    split
    · split
      · exact onCtx_sound (onPart_sound hu _ _) k _ fun _ _ => hd
      · exact onCtx_sound hu k _ fun _ _ => hd
    · refine onCtx_sound h k _ fun _ _ => ?_
      exact each_map fun i hi => hk i hi
  exact foldl_sound ht fun _ i hx => finishGraph_sound hx k i.val

theorem State.goWith_sound {s : State} (h : s.Sound M K) (k : Fin 8) (mask : Nat) : (State.goWith s k mask).Sound M K := by
  grind [State.goWith, State.faultCtx_sound, State.raisePart_sound, State.restoreIdle_sound, State.runGraphs_sound]

theorem State.holdEntry_sound {s : State} (h : s.Sound M K) (n : Fin 16) : Each (State.Sound M K) (State.holdEntry s n) := by
  grind [State.holdEntry, State.onIng_sound, Each]

theorem State.goAt_sound {s : State} (h : s.Sound M K) (n : Fin 16) (k : Fin 8) (e : List Nat) :
    Each (State.Sound M K) (State.goAt s n k e) := by
  grind [State.goAt, State.consume_sound, State.goWith_sound, State.holdEntry_sound, State.ingErr_sound, Each]

theorem evGo_sound {s : State} (h : s.Sound M K) (port : Fin 16) : Each (State.Sound M K) (evGo port s) := by
  grind [evGo, State.consume_sound, State.goAt_sound, Each]

theorem State.backCopy_sound {s : State} (h : s.Sound M K) (n : Nat) (m : Msg) (t : Tile) : (State.backCopy s n m t).Sound M K := by
  unfold State.backCopy
  split <;> exact h

theorem State.publishAt_sound {s : State} (h : s.Sound M K) (p : Fin 16) (t : Tile) : (State.publishAt s p t).Sound M K := by
  grind [State.publishAt, State.backCopy_sound, State.fromPort_sound]

theorem State.injectAt_sound {s : State} (h : s.Sound M K) (n : Fin 16) (k : Fin 8) (e : List Nat) :
    Each (State.Sound M K) (State.injectAt s n k e) := by
  grind [State.injectAt, State.consume_sound, State.holdEntry_sound, State.ingErr_sound, State.publishAt_sound, Each]

theorem evHeldEntryResume_sound {s : State} (h : s.Sound M K) (port : Fin 16) : Each (State.Sound M K) (evHeldEntryResume port s) := by
  grind [evHeldEntryResume, State.goAt_sound, State.injectAt_sound, Each]

theorem State.acceptHeld_sound {s : State} (h : s.Sound M K) (g : Gate) : ∀ l, Each (State.Sound M K) (State.acceptHeld s g l)
  | [] => each_none
  | f :: fs => by
    have hs : ({ s with msgs := s.msgs.erase f } : State).Sound M K := h
    have hnext := acceptHeld_sound h g fs
    unfold State.acceptHeld
    split
    · split
      · split
        · next x hx => exact each_some (moved_sound (acceptTile_sound hs g _ x hx) _)
        · exact hnext
      · exact hnext
    · exact hnext

theorem evHeldTileAccept_sound {s : State} (h : s.Sound M K) (gate : GateId) : Each (State.Sound M K) (evHeldTileAccept gate s) := by
  grind [evHeldTileAccept, State.acceptHeld_sound, Each]

theorem State.acceptHerd_sound {s : State} (h : s.Sound M K) (g : GateId) : ∀ (l : List Nat) {t : State} (_ : t.Sound M K),
    (State.acceptHerd s g l t).Sound M K
  | [], _, ht => ht
  | n :: ns, t, ht => by
    unfold State.acceptHerd
    refine acceptHerd_sound h g ns ?_
    split
    · next c hc =>
      split
      · next cr _ =>
        have hd : ({ c with credits := cr, picked := some s.wcc } : Core).Sound K := core_sound h n c hc
        exact passOthers_sound g (setCore_sound ht hd n) _
      · exact ht
    · exact ht

theorem State.giveRanks_sound (g : Gate) (t : Task) (i : Iter) : ∀ {s : State} (_ : s.Sound M K) (k : Nat) (l : List Nat),
    (State.giveRanks s g t i k l).Sound M K
  | _, h, _, [] => h
  | _, h, k, n :: ns => giveRanks_sound g t i (give_sound h g t i k n k) (k + 1) ns

theorem evHerdDispatch_sound {s : State} (h : s.Sound M K) (gate : GateId) : Each (State.Sound M K) (evHerdDispatch gate s) := by
  unfold evHerdDispatch
  split
  · split
    · exact each_none
    · split
      · exact each_some (onGate_sound (dispatched_sound (giveRanks_sound _ _ _ (acceptHerd_sound h gate _ h) _ _) _ _) gate _)
      · exact each_none
  · exact each_none

theorem State.passInject_sound {s : State} (h : s.Sound M K) (n : Fin 16) (e : List Nat) :
    Each (State.Sound M K) (State.passInject s n e) := by
  grind [State.passInject, State.consume_sound, Each]

theorem evInject_sound {s : State} (h : s.Sound M K) (port : Fin 16) : Each (State.Sound M K) (evInject port s) := by
  grind [evInject, State.injectAt_sound, State.passInject_sound, Each]

theorem evInstructionFetch_sound {s : State} (h : s.Sound M K) (core : Nat) : Each (State.Sound M K) (evInstructionFetch core s) := by
  grind [evInstructionFetch, Core.fetchEvent_sound, State.coreEvent_sound]

theorem evInvalidEntry_sound {s : State} (h : s.Sound M K) (port : Fin 16) : Each (State.Sound M K) (evInvalidEntry port s) := by
  grind [evInvalidEntry, State.consume_sound, State.ingErr_sound, State.onIng_sound, Each]

theorem State.answerError_sound {s : State} (h : s.Sound M K) (i : Fin 16) : (State.answerError s i).Sound M K := h

theorem evKeyDelivery_sound {s : State} (h : s.Sound M K) (itf : Fin 16) (region : KeyMessage) :
    Each (State.Sound M K) (evKeyDelivery itf region s) := by
  grind [evKeyDelivery, State.answerError_sound, Each, State.Sound, State.memOk, State.scratchOk]

theorem evKeyTableError_sound {s : State} (h : s.Sound M K) (itf : Fin 16) : Each (State.Sound M K) (evKeyTableError itf s) := by
  grind [evKeyTableError, State.enterError_sound, State.redebug_sound, Each]

theorem State.landChunk_sound {s : State} (h : s.Sound M K) (n : Nat) : Each (State.Sound M K) (State.landChunk s n) := by
  unfold State.landChunk
  split
  · exact each_none
  · split
    · exact each_none
    · extract_lets s'
      have hs' : s'.Sound M K := h
      split
      · exact each_some (stray_sound hs' _ _ _)
      · exact each_none
      · refine each_map fun t ht => moved_sound (coreEvent_sound hs' n _ (fun c hc => ?_) t ht) n
        exact each_bind fun r _ => each_map fun d hd => Core.takeChunk_sound hc r _ _ d hd
      · exact each_none

theorem State.landFetch_sound {s : State} (h : s.Sound M K) (n : Nat) : Each (State.Sound M K) (State.landFetch s n) := by
  unfold State.landFetch
  split
  · exact each_none
  · split
    · exact each_none
    · extract_lets s'
      have hs' : s'.Sound M K := h
      split
      · exact each_some (stray_sound hs' _ _ _)
      · exact each_none
      · next t xid _ _ =>
        refine each_map fun u hu => moved_sound (coreEvent_sound hs' n _ (fun c hc => ?_) u hu) n
        refine each_map fun f _ => Core.doneXid_sound (Core.freeEntry_sound ?_ _) _ _
        exact Core.putSpad_sound hc _
      · exact each_none

theorem evLandingComplete_sound {s : State} (h : s.Sound M K) (core : Nat) : Each (State.Sound M K) (evLandingComplete core s) := by
  have hend : Each (State.Sound M K) (s.coreEvent core fun c => if c.works then (c.endLanding c.firings).map fun d => (d,
      []) else none) := by
    refine coreEvent_sound h core _ fun c hc => ?_
    split
    · exact each_map fun d hd => Core.endLanding_sound hc _ d hd
    · exact each_none
  unfold evLandingComplete
  split
  · next t ht => exact each_some (hend t ht)
  · split
    · next t ht => exact each_some (landFetch_sound h core t ht)
    · exact landChunk_sound h core

theorem evLandingStart_sound {s : State} (h : s.Sound M K) (core : Nat) : Each (State.Sound M K) (evLandingStart core s) := by
  refine coreEvent_sound h core _ fun c hc => ?_
  split
  · exact each_none
  · exact each_map fun x hx => Core.mapFirings_sound (Core.startAmong_sound hc _ _ x hx) _

theorem State.sliceAnswer_sound {s : State} (h : s.Sound M K) (tok : MemTok) (r : MemReq) (k lines : Nat) :
    (State.sliceAnswer s tok r k lines).Sound M K := h

theorem State.performed_sound {s : State} (h : s.Sound M K) (r : MemReq) (k ts : Nat) (data : List (Nat × Byte)) :
    (State.performed s r k ts data).Sound M K := h

theorem State.stampAt_sound {s : State} (h : s.Sound M K) (k line wts rts : Nat) (write : Bool) :
    (State.stampAt s k line wts rts write).Sound M K := h

theorem State.perform_sound {s : State} (h : s.Sound M K) (r : MemReq) : (State.perform s r).Sound M K := by
  grind [State.perform, State.performed_sound, State.putMem_sound, State.stampAt_sound]

theorem evLineFill_sound {s : State} (h : s.Sound M K) (req : Nat) (uncorrectable : Bool) :
    Each (State.Sound M K) (evLineFill req uncorrectable s) := by
  grind [evLineFill, State.failReq_sound, State.install_sound, State.perform_sound, Each, Option.map_eq_some_iff]

theorem State.rebypass_sound {s : State} (h : s.Sound M K) (k : Nat) : (State.rebypass s k).Sound M K := by
  unfold State.rebypass
  extract_lets lost t
  have ht : t.Sound M K := foldl_sound h fun _ b hx => foldl_sound hx fun _ e hy => onRouter_sound hy e.1 _
  exact foldl_sound ht fun _ b hx => bypass_sound hx b.1

theorem State.killLink_sound {s : State} (h : s.Sound M K) (k : Nat) : (State.killLink s k).Sound M K := by
  unfold State.killLink
  refine rebypass_sound (bypass_sound ?_ k) k
  exact foldl_sound h fun _ e hx => onRouter_sound hx e.1 _

theorem State.recordLink_sound {s : State} (h : s.Sound M K) (e : Nat × Fin 6) : (State.recordLink s e).Sound M K := by
  grind [State.recordLink, State.record_sound]

theorem evLinkDead_sound {s : State} (h : s.Sound M K) (router : Nat) (port : Fin 6) :
    Each (State.Sound M K) (evLinkDead router port s) := by
  grind [evLinkDead, State.killLink_sound, State.raiseAt_sound, State.recordLink_sound, Each]

theorem evLockInterface_sound {s : State} (h : s.Sound M K) (itf : Fin 16) (consent : Fin 3) :
    Each (State.Sound M K) (evLockInterface itf consent s) := by
  unfold evLockInterface
  split
  · have ht := onTdi_sound h itf fun x => { x with state := .locked, live := true, consent }
    exact each_some ht
  · exact each_some (answerError_sound h itf)

theorem evLtsFloor_sound {s : State} (h : s.Sound M K) : Each (State.Sound M K) (evLtsFloor s) := by
  grind [evLtsFloor, Each, State.Sound, State.memOk, State.scratchOk, Core.memOk]

theorem State.stepFacet_sound {s : State} (h : s.Sound M K) (n : Nat) (v : Fin 256) (tag : BitVec 16) (f : Facet) (count : Nat) :
    Each (State.Sound M K) (State.stepFacet s n v tag f count) := by
  grind [State.stepFacet, State.onRouter_sound, State.sendOut_sound, Each]

theorem State.markStep_sound {s : State} (h : s.Sound M K) (n : Nat) (p : Fin 6) (lane : Fin 2) :
    Each (State.Sound M K) (State.markStep s n p lane) := by
  unfold State.markStep
  refine each_bind fun f _ => ?_
  split
  · extract_lets t
    have ht : t.Sound M K := h
    split
    · exact each_none
    · exact each_some (stray_sound ht _ _ _)
    · split
      · split
        · exact each_none
        · extract_lets u
          have hu : u.Sound M K := onRouter_sound ht n _
          exact each_map fun y hy => moved_sound (stepFacet_sound hu _ _ _ _ _ y hy) _
      · exact each_some (stray_sound ht _ _ _)
  · exact each_none

theorem evMarkerArrival_sound {s : State} (h : s.Sound M K) (router : Nat) (ch : Chan) :
    Each (State.Sound M K) (evMarkerArrival router ch s) := by
  grind [evMarkerArrival, State.channel_sound, State.collEnters_sound, State.markStep_sound]

theorem State.enterSlice_sound {s : State} (h : s.Sound M K) (r : MemReq) : Each (State.Sound M K) (State.enterSlice s r) := by
  unfold State.enterSlice
  extract_lets k spill to_
  refine each_map fun st _ => ?_
  dsimp -zeta only
  extract_lets _ t
  have ho := onReq_sound h r.id fun q => { q with stage := st, arr := s.nextReq }
  have ht : t.Sound M K := ho
  split
  · exact ht
  · exact sliceAnswer_sound ht _ _ _ _

theorem State.injectReq_sound {s : State} (h : s.Sound M K) (r : MemReq) : Each (State.Sound M K) (State.injectReq s r) := by
  grind [State.injectReq, State.flow_sound, State.onReq_sound, Each, Option.bind_eq_some_iff]

theorem evMemoryRequestArrival_sound {s : State} (h : s.Sound M K) (req : Nat) : Each (State.Sound M K) (evMemoryRequestArrival req s) := by
  grind [evMemoryRequestArrival, State.enterSlice_sound, State.injectReq_sound, State.memHop_sound, Each, Option.bind_eq_some_iff]

theorem evMissReplyArrival_sound {s : State} (h : s.Sound M K) (to_ : Requester) : Each (State.Sound M K) (evMissReplyArrival to_ s) := by
  unfold evMissReplyArrival
  split
  · exact each_none
  · extract_lets s'
    have hs' : s'.Sound M K := h
    split
    · split
      · exact each_none
      · exact each_some (stray_sound hs' _ _ _)
      · split
        · refine each_map fun t ht => moved_sound (coreEvent_sound hs' _ _ (fun c hc => ?_) t ht) _
          split
          · exact each_some (Core.missFetch_sound hc _ _)
          · exact each_none
        · exact each_some (moved_sound (onGate_sound hs' _ _) _)
        · exact each_some hs'
    · exact each_none

theorem evNewHealthRecord_sound {s : State} (h : s.Sound M K) (rec_ : HealthRecord) : Each (State.Sound M K)
    (evNewHealthRecord rec_ s) := by
  unfold evNewHealthRecord
  extract_lets t m
  have ht : t.Sound M K := h
  exact each_some ((flash_sound ht rec_).of rfl rfl rfl rfl)

theorem evNpsOverrun_sound {s : State} (h : s.Sound M K) (core : Nat) : Each (State.Sound M K) (evNpsOverrun core s) := by
  refine coreEvent_sound h core _ fun c hc => ?_
  split
  · split
    · exact each_some (Core.takeTrap_sound hc _ _)
    · exact each_none
  · exact each_none

theorem State.finishOpen_sound {s : State} (h : s.Sound M K) (n : Fin 16) (r : Fin 8 × Fin 16 × List Byte) :
    Each (State.Sound M K) (State.finishOpen s n r) := by
  grind [State.finishOpen, State.opened_sound, Each]

theorem State.emptyCtx_sound {s : State} (h : s.Sound M K) (k : Fin 8) : (State.emptyCtx s k).Sound M K := by
  grind [State.emptyCtx, Ctx.reset_sound, State.clearCtx_sound, State.dropRoot_sound, State.onCtx_sound]

theorem State.noShadow_sound {s : State} (h : s.Sound M K) (part : Fin 16) : (State.noShadow s part).Sound M K := h

theorem State.openAt_sound {s : State} (h : s.Sound M K) (n : Fin 16) (a : OpenArgs) : Each (State.Sound M K) (State.openAt s n a) := by
  unfold State.openAt
  extract_lets k
  split
  · exact each_some (opened_sound h _ _ _)
  · split
    · split
      · refine each_map fun t ht => ?_
        have hl : t.Sound M K := load_sound (dropRoot_sound (onCtx_sound h a.ctx _ fun _ _ => Ctx.reset_sound) k.ns) n a _ t ht
        dsimp -zeta only
        split
        · exact noShadow_sound (clearPart_sound hl _) _
        · exact hl
      · refine load_sound (emptyCtx_sound ?_ _) n a _
        split
        · exact noShadow_sound h _
        · exact h
    · exact load_sound h n a _

theorem evOpenCfg_sound {s : State} (h : s.Sound M K) (port : Fin 16) : Each (State.Sound M K) (evOpenCfg port s) := by
  grind [evOpenCfg, State.consume_sound, State.finishOpen_sound, State.onIng_sound, State.openAt_sound, Each, Option.bind_eq_some_iff]

theorem State.onWalk_sound {s : State} (h : s.Sound M K) (id : Nat) (f : Walk → Walk) : (State.onWalk s id f).Sound M K := h

theorem evPagerFaultToken_sound {s : State} (h : s.Sound M K) (walk : Nat) : Each (State.Sound M K) (evPagerFaultToken walk s) := by
  grind [evPagerFaultToken, State.onWalk_sound, Each]

theorem State.restartWalks_sound {s : State} (h : s.Sound M K) (ns : BitVec 8) (lo hi : Nat) :
    (State.restartWalks s ns lo hi).Sound M K := h

theorem evPagerResolve_sound {s : State} (h : s.Sound M K) (walk : Nat) : Each (State.Sound M K) (evPagerResolve walk s) := by
  unfold evPagerResolve
  split
  · exact each_none
  · split
    · refine each_map fun r hr => ?_
      dsimp -zeta only
      split
      · next t => exact restartWalks_sound (freshPage_sound _ _ _ h _ _ _ hr t rfl) _ _ _
      · exact onWalk_sound h _ _
    · exact each_none

theorem evPeerDelayMeasure_sound {s : State} (h : s.Sound M K) (port : Fin 32) (delay : BitVec 64) :
    Each (State.Sound M K) (evPeerDelayMeasure port delay s) := by
  grind [evPeerDelayMeasure, Each, State.Sound, State.memOk, State.scratchOk]

theorem evPeerLost_sound {s : State} (h : s.Sound M K) (peer : Fin 4096) : Each (State.Sound M K) (evPeerLost peer s) := by
  grind [evPeerLost, Each, State.Sound, State.memOk, State.scratchOk]

theorem Ctx.afterSwap_sound {k : Ctx} (h : k.Sound K) (ctx : Fin 8) (part : Fin 16) : (Ctx.afterSwap k ctx part).Sound K := by
  grind [Ctx.afterSwap, Ctx.Sound]

theorem State.endSwap_sound {s : State} (h : s.Sound M K) (part : Fin 16) : (State.endSwap s part).Sound M K := by
  unfold State.endSwap
  split
  · exact h
  · extract_lets t
    have ht : t.Sound M K := onPart_sound h part _
    have hc : CoresSound K t.cores := cores_sound ht
    refine sound_mk ht.1 hc fun k => ?_
    have hk := Ctx.afterSwap_sound (ctx_sound ht k) k part
    simpa using hk

theorem State.entered_sound {s : State} (h : s.Sound M K) (n : Nat) : (State.entered s n).Sound M K := h

theorem State.strays_sound (n : Nat) : ∀ {s : State} (_ : s.Sound M K) (seen : List (Fin 6 × Msg)) (l : List Flying),
    (State.strays s n seen l).Sound M K
  | _, h, _, [] => h
  | s, h, seen, f :: fs => by
    unfold State.strays
    dsimp only
    split
    · exact strays_sound n h _ fs
    · exact strays_sound n (stray_sound h _ _ _) _ fs

theorem State.swapRouter_sound {s : State} (h : s.Sound M K) (n : Nat) (p : Part) : (State.swapRouter s n p).Sound M K := by
  unfold State.swapRouter
  extract_lets new s' old waiting t t₁ t₂
  have hs' : s'.Sound M K := entered_sound h n
  have ht : t.Sound M K := foldl_sound hs' fun _ f hx => discard_sound hx f
  have ht₁ : t₁.Sound M K := strays_sound n (strays_sound n ht _ _) _ _
  have ht₂ : t₂.Sound M K := onRouter_sound ht₁ n _
  have hfresh := freshCore_sound (K := K) t₂ n
  split
  · next c g hc _ =>
    have hcs : c.Sound K := core_sound ht₂ n c hc
    refine setCore_sound ht₂ ?_ n
    have hi : (if g.cores.contains n then c.install g n else c).Sound K := by
      split
      · exact Core.install_sound hcs g n
      · exact hcs
    exact hi
  · next c hc _ =>
    have hd : ({ c with swaps := c.swaps + 1 } : Core).Sound K := core_sound ht₂ n c hc
    exact setCore_sound ht₂ hd n
  · next g _ _ =>
    split
    · have hi := Core.install_sound hfresh g n
      have hd : ({ ((t₂.freshCore n).install g n) with swaps := 1 } : Core).Sound K := hi
      exact setCore_sound ht₂ hd n
    · exact ht₂
  · exact ht₂

theorem State.swapAt_sound {s : State} (h : s.Sound M K) (router : Nat) : Each (State.Sound M K) (State.swapAt s router) := by
  grind [State.swapAt, State.endSwap_sound, State.onPart_sound, State.swapRouter_sound, Each]

theorem evPlaneSwap_sound {s : State} (h : s.Sound M K) (router : Nat) : Each (State.Sound M K) (evPlaneSwap router s) :=
  each_map fun t ht => judged_sound (swapAt_sound h router t ht)

theorem State.deadFromRecord_sound {s : State} (h : s.Sound M K) : (State.deadFromRecord s).Sound M K := by
  refine foldl_sound h fun t e ht => ?_
  split
  · split
    · exact ht
    · exact killLink_sound ht _
  · exact ht

theorem State.bringUpLate_sound {s : State} (h : s.Sound M K) (o : BringUpOutcome) : (State.bringUpLate s o).Sound M K := by
  unfold State.bringUpLate
  extract_lets t u
  have ht : t.Sound M K := by
    unfold t
    split
    · exact record_sound h _
    · exact h
  have hu : u.Sound M K := deadFromRecord_sound (setTime_sound (remap_sound ht) _)
  exact hu

theorem evPowerGood_sound {s : State} (h : s.Sound M K) (o : BringUpOutcome) : Each (State.Sound M K) (evPowerGood o s) := by
  grind [evPowerGood, State.bringUpLate_sound, Each, State.Sound, State.memOk, State.scratchOk]

theorem evPowerRemoved_sound {s : State} (_ : s.Sound M K) : Each (State.Sound M K) (evPowerRemoved s) := by
  grind [evPowerRemoved, State.unpowered_sound, Each]

theorem evProbe_sound {s : State} (h : s.Sound M K) (part : Fin 16) : Each (State.Sound M K) (evProbe part s) := by
  refine each_map fun t ht => ?_
  have hp : t.Sound M K := startProbe_sound h part true t ht
  exact hp

theorem State.decided_sound {s : State} (h : s.Sound M K) (part : Fin 16) (asked : Bool) (v : Fin 8) :
    (State.decided s part asked v).Sound M K := by
  unfold State.decided
  split <;> exact h

theorem State.writeQd_sound {s : State} (h : s.Sound M K) (l : List (List Word)) : (State.writeQd s l).Sound M K :=
  withSmem_sound (s := { s with qdCount := BitVec.ofNat 7 l.length }) h fun hm => Memory.put_wf _ (h.1 hm).2

theorem evProbeWave_sound {s : State} (h : s.Sound M K) (part : Fin 16) : Each (State.Sound M K) (evProbeWave part s) := by
  grind [evProbeWave, State.decided_sound, State.raisePart_sound, State.writeQd_sound, Each]

theorem State.pubOfCore_sound {s : State} (h : s.Sound M K) (n : Nat) : Each (fun x => x.2.2.Sound K) (State.pubOfCore s n) := by
  unfold State.pubOfCore
  split
  · next c hc =>
    split
    · exact each_map fun x hx => Core.pubHead_sound (core_sound h n c hc) x hx
    · exact each_none
  · exact each_none

theorem State.pubEnters_sound {s : State} (h : s.Sound M K) (n : Nat) : Each (State.Sound M K) (State.pubEnters s n) := by
  grind [State.pubEnters, State.backCopy_sound, State.inject_sound, State.moved_sound, State.portFault_sound, State.pubOfCore_sound, Each,
      Option.map_eq_some_iff]

theorem State.keepFlits_sound {s : State} (h : s.Sound M K) (n : Nat) (x : Tile) (head : Bool) (k : Nat) (last : Bool) :
    (State.keepFlits s n x head k last).Sound M K := h

theorem State.toGates_sound {s : State} (h : s.Sound M K) (n : Nat) (p : Fin 6) (m : Msg) (name : BitVec 64) :
    (State.toGates s n p m name).Sound M K := foldl_sound h fun _ _ ht => post_sound ht _ m

theorem State.pubStep_sound {s : State} (h : s.Sound M K) (n : Nat) (p : Fin 6) (f : Flying) (t : Tile) :
    Each (State.Sound M K) (State.pubStep s n p f t) := by
  grind [State.pubStep, State.goOn_sound, State.keepFlits_sound, State.toGates_sound, Each, Option.map_eq_some_iff]

theorem State.pubQueued_sound {s : State} (h : s.Sound M K) (n : Nat) (p : Fin 6) (lane : Fin 2) :
    Each (State.Sound M K) (State.pubQueued s n p lane) := by
  grind [State.pubQueued, State.byCoords_sound, State.discard_sound, State.pubStep_sound, State.stray_sound, Each, Option.bind_eq_some_iff]

theorem evPublicationArrival_sound {s : State} (h : s.Sound M K) (router : Nat) (ch : Chan) :
    Each (State.Sound M K) (evPublicationArrival router ch s) := by
  grind [evPublicationArrival, State.channel_sound, State.pubEnters_sound, State.pubQueued_sound]

theorem State.startJob_sound {s : State} (h : s.Sound M K) (n : Nat) (c : Core) (f : Firing) (op : EngOp) :
    Each (State.Sound M K) (State.startJob s n c f op) := by
  unfold State.startJob
  split
  · extract_lets m
    split
    · exact each_some h
    · split
      · exact each_some (sendCarries_sound n f h _)
      · exact each_none
  · exact each_some (scanOn_sound h n)
  · refine each_some ?_
    split
    · exact onGate_sound h _ _
    · exact h
  · exact each_some h

theorem evQueueOpStart_sound {s : State} (h : s.Sound M K) (core : Nat) (q : Queue) : Each (State.Sound M K) (evQueueOpStart core q s) := by
  unfold evQueueOpStart
  split
  · exact each_none
  · next c hc =>
    split
    · split
      · extract_lets d
        have hd : d.Sound K := Core.setHead_sound (core_sound h core c hc) _ _
        exact startJob_sound (setCore_sound h hd core) _ _ _ _
      · exact each_none
    · exact each_none

theorem evRePlacement_sound {s : State} (h : s.Sound M K) (part : Fin 16) (avoid : List Nat) (placed : Option Nat) :
    Each (State.Sound M K) (evRePlacement part avoid placed s) := by
  grind [evRePlacement, State.onPreempt_sound, Each]

theorem State.answerSubq_sound {s : State} (h : s.Sound M K) (n : Nat) (r : FullReg) : Each (State.Sound M K) (State.answerSubq s n r) := by
  refine coreEvent_sound h n _ fun c hc => ?_
  split
  · split
    · exact each_map fun x hx => Core.landFill_sound (Core.give_sound (Core.portDone_sound hc _) _ _) _ x hx
    · exact each_none
  · exact each_none

theorem evRegisterFill_sound {s : State} (h : s.Sound M K) (core : Nat) (reg : FullReg) : Each (State.Sound M K)
    (evRegisterFill core reg s) := by
  have hfill : Each (State.Sound M K) (s.coreEvent core fun c => (c.landFill reg).map fun d => (d, [])) :=
    coreEvent_sound h core _ fun _ hc => each_map fun d hd => Core.landFill_sound hc reg d hd
  unfold evRegisterFill
  split
  · next t ht => exact each_some (hfill t ht)
  · exact answerSubq_sound h core reg

theorem State.writePreempt_sound {s : State} (h : s.Sound M K) (p : Fin 16) (v : Nat) : (State.writePreempt s p v).Sound M K := by
  have hgetD : ∀ {o : Option State} {t : State}, Each (State.Sound M K) o → t.Sound M K → (o.getD t).Sound M K := fun {o t} ho ht => by
    cases o with
    | none => exact ht
    | some x => exact ho x rfl
  unfold State.writePreempt
  extract_lets t u
  have ht : t.Sound M K := by
    unfold t
    split
    · exact onPreempt_sound h p _
    · exact h
  have hu : u.Sound M K := by
    unfold u
    split
    · exact hgetD (evCancel_sound ht p) ht
    · exact ht
  split
  · exact hgetD (evArm_sound hu p) hu
  · exact hu

theorem State.writeQdCtl_sound {s : State} (h : s.Sound M K) (v : Nat) : (State.writeQdCtl s v).Sound M K := by
  unfold State.writeQdCtl
  extract_lets t
  have ht : t.Sound M K := h
  split
  · cases hp : t.startProbe ⟨bits v 16 4, Nat.mod_lt _ (by decide)⟩ true with
    | none => exact ht
    | some u => exact startProbe_sound ht _ _ u hp
  · exact ht

theorem evRingWrite_sound {s : State} (h : s.Sound M K) (port : Fin 16) (value : BitVec 64) :
    Each (State.Sound M K) (evRingWrite port value s) := by
  grind [evRingWrite, State.ingErr_sound, State.onIng_sound, Each]

theorem evTailWrite_sound {s : State} (h : s.Sound M K) (port : Fin 16) (tail : BitVec 32) :
    Each (State.Sound M K) (evTailWrite port tail s) := by
  grind [evTailWrite, State.ingErr_sound, State.onIng_sound, Each]

theorem evRegisterWrite_sound {s : State} (h : s.Sound M K) (offset : BitVec 16) (value : BitVec 64) :
    Each (State.Sound M K) (evRegisterWrite offset value s) := by
  grind [evRegisterWrite, State.onPreempt_sound, State.writePreempt_sound, State.writeQdCtl_sound, evErrClear_sound, evRingWrite_sound,
      evTailWrite_sound, Each, State.Sound, State.memOk, State.scratchOk]

theorem State.requestEnters_sound {s : State} (h : s.Sound M K) (n : Nat) : Each (State.Sound M K) (State.requestEnters s n) := by
  unfold State.requestEnters
  split
  · next c hc =>
    split
    · refine each_bind fun x hx => each_map fun y hy => moved_sound ?_ _
      exact inject_sound h (Core.fetchHead_sound (core_sound h n c hc) x hx) _ _ y hy
    · exact each_none
  · exact each_none

theorem State.requestQueued_sound {s : State} (h : s.Sound M K) (n : Nat) (p : Fin 6) (lane : Fin 2) :
    Each (State.Sound M K) (State.requestQueued s n p lane) := by
  grind [State.requestQueued, State.byCoords_sound, State.discard_sound, State.request_sound, State.stray_sound, Each,
      Option.bind_eq_some_iff]

theorem evRequestArrival_sound {s : State} (h : s.Sound M K) (router : Nat) (ch : Chan) :
    Each (State.Sound M K) (evRequestArrival router ch s) := by
  grind [evRequestArrival, State.channel_sound, State.requestEnters_sound, State.requestQueued_sound]

theorem evRequestResume_sound {s : State} (h : s.Sound M K) (router : Nat) : Each (State.Sound M K) (evRequestResume router s) := by
  grind [evRequestResume, State.emit_sound, State.moved_sound, State.onRouter_sound, State.serve_sound, Each]

theorem State.hitCache_sound {s : State} (h : s.Sound M K) (r : MemReq) : Each (State.Sound M K) (State.hitCache s r) := by
  grind [State.hitCache, State.onReq_sound, Each]

theorem evRequestServe_sound {s : State} (h : s.Sound M K) (req : Nat) : Each (State.Sound M K) (evRequestServe req s) := by
  grind [evRequestServe, State.beginFill_sound, State.failReq_sound, State.hitCache_sound, State.miss_sound, State.onReq_sound,
      State.perform_sound, Each, Option.map_eq_some_iff]

theorem Image.moveTo_sound {i : Image} (h : i.Sound K) (old new : Config) (ctx : Fin 8) : (Image.moveTo i old new ctx).Sound K := by
  grind [Image.moveTo, Core.mapFirings_sound, Image.Sound]

theorem State.noneWanted_sound {s : State} (h : s.Sound M K) (part : Fin 16) : (State.noneWanted s part).Sound M K :=
  mapCtxs_sound h fun _ hk => by split <;> exact hk

theorem State.putImage_sound {s : State} {i : Image} (h : s.Sound M K) (hi : i.Sound K) (p : Part) (g : Config) :
    (State.putImage s p g i).Sound M K := by
  unfold State.putImage
  extract_lets t u v
  have ht : t.Sound M K := by
    refine foldl_mem_sound h fun x c hc hx => setCore_sound hx (Core.restoredOver_sound (hi c hc) _ _ _) _
  have hu : u.Sound M K := foldl_sound ht fun x n hx => by
    split
    · exact hx
    · exact setCore_sound hx (Core.install_sound (coreOr_sound hx n) g n) n
  have hv : v.Sound M K := foldl_sound hu fun x r hx => setRouter_sound hx _ _
  exact hv

theorem State.restored_sound {s : State} (h : s.Sound M K) (part : Fin 16) (k : Fin 8) : Each (State.Sound M K)
    (State.restored s part k) := by
  unfold State.restored
  split
  · next p g i _ _ hi =>
    have his : i.Sound K := ctx_sound h k i hi
    extract_lets r x t t₁ t₂ t₃ t₄ ns t₅
    have hx : x.Sound K := by
      unfold x
      split
      · exact Image.moveTo_sound his _ _ _
      · exact his
    have ht : t.Sound M K := putImage_sound (onPart_sound h part _) hx _ _
    have ht₁ : t₁.Sound M K := noneWanted_sound ht part
    have ht₂ : t₂.Sound M K := onCtx_sound ht₁ k _ fun _ _ => each_none
    have ht₃ : t₃.Sound M K := foldl_sound ht₂ fun y c hy => by
      split
      · exact hy
      · exact answerKept_sound hy _
    have ht₄ : t₄.Sound M K := by
      unfold t₄
      split
      · exact raisePart_sound ht₃ _ _ _
      · exact ht₃
    have ht₅ : t₅.Sound M K := ht₄
    exact each_some (onPreempt_sound ht₅ part _)
  · exact each_none

theorem evRestoreDone_sound {s : State} (h : s.Sound M K) (part : Fin 16) : Each (State.Sound M K) (evRestoreDone part s) :=
  each_bind fun k _ => each_map fun t ht => judged_sound (restored_sound h part k t ht)

theorem evResume_sound {s : State} (h : s.Sound M K) (core : Nat) : Each (State.Sound M K) (evResume core s) := by
  grind [evResume, State.reply_sound]

theorem State.nextFiring_sound {s : State} (h : s.Sound M K) (n : Nat) : (State.nextFiring s n).Sound M K := by
  unfold State.nextFiring
  split
  · exact h
  · next c hc =>
    extract_lets d
    have hd : d.Sound K := Core.issueLandings_sound (core_sound h n c hc)
    split
    · next fs _ _ =>
      refine onCore_sound (setCore_sound h hd n) n _ fun _ e he => ?_
      have hf : ({ e with stagedF := fs } : Core).Sound K := he
      exact Core.begin_sound hf _
    · exact setCore_sound h hd n

theorem evRetireComplete_sound {s : State} (h : s.Sound M K) (core : Nat) : Each (State.Sound M K) (evRetireComplete core s) := by
  unfold evRetireComplete
  split
  · exact each_none
  · next c hc =>
    split
    · exact each_none
    · split
      · exact each_some (nextFiring_sound (countRetired_sound (moved_sound (setCore_sound h (Core.retired_sound
          (core_sound h core c hc)) core)
          core) _) core)
      · exact each_none

theorem State.keepFor_sound {s : State} (h : s.Sound M K) (n : Nat) (ns : BitVec 8) : Each (State.Sound M K) (State.keepFor s n ns) := by
  grind [State.keepFor, State.keepIn_sound]

theorem evRetranslate_sound {s : State} (h : s.Sound M K) (core : Nat) : Each (State.Sound M K) (evRetranslate core s) := fun t ht => by
  obtain ⟨tok, _, htok⟩ := List.exists_of_findSome?_eq_some ht
  revert htok
  split
  · split
    · split
      · exact reply_sound h core _ t
      · exact keepFor_sound h core _ t
    · exact keepFor_sound h core _ t
  · exact nofun

theorem evRetryRequest_sound {s : State} (h : s.Sound M K) (router : Nat) (port : Fin 6) :
    Each (State.Sound M K) (evRetryRequest router port s) := by
  grind [evRetryRequest, State.onRouter_sound, Each]

theorem evSaveDone_sound {s : State} (h : s.Sound M K) (part : Fin 16) : Each (State.Sound M K) (evSaveDone part s) :=
  each_map fun t ht => redebug_sound (saveDone_sound h part t ht)

theorem State.corrected_sound {s : State} (h : s.Sound M K) (u : ErrUnit) : (State.corrected s u).Sound M K := h

theorem State.uncorrectable_sound {s : State} (h : s.Sound M K) (a : ScrubSite) : (State.uncorrectable s a).Sound M K := by
  unfold State.uncorrectable
  split
  · split
    · next c hc =>
      split
      · exact setCore_sound h (Core.recordBad_sound (core_sound h _ c hc) _) _
      · exact h
    · exact h
  · split
    · next c hc => exact setCore_sound h (Core.recordBad_sound (core_sound h _ c hc) _) _
    · exact h
  · split
    · next c hc => exact setCore_sound h (Core.recordBadReg_sound (core_sound h _ c hc) _) _
    · exact h
  · exact onRouter_sound h _ _
  · exact onRouter_sound h _ _
  · exact h

theorem evScrubLine_sound {s : State} (h : s.Sound M K) (at_ : ScrubSite) (bad : Bool) :
    Each (State.Sound M K) (evScrubLine at_ bad s) := by
  grind [evScrubLine, State.corrected_sound, State.uncorrectable_sound, Each]

theorem State.onDir_sound {s : State} (h : s.Sound M K) (name : BitVec 64) (f : DirEntry → DirEntry) : (State.onDir s name f).Sound M K :=
  mapCtxs_sound h fun _ hk => hk

theorem State.markBad_sound {s : State} (h : s.Sound M K) (a : Fin 24) (name : BitVec 64) : (State.markBad s a name).Sound M K := by
  have ht := onDir_sound h name fun e => { e with bad := true }
  exact ht

theorem evSegmentVerify_sound {s : State} (h : s.Sound M K) (agent : Fin 24) : Each (State.Sound M K) (evSegmentVerify agent s) := by
  have ha := fun e g => rimAccess_sound h agent (DirEntry.ns e) false (e.segmentVas g)
  fun_cases evSegmentVerify agent s
  · exact each_none
  · exact each_none
  · next name e g _ t ht =>
    have hg := ha e g
    rw [ht] at hg
    exact each_some hg
  · exact each_none
  · exact each_none
  · refine each_map fun r hr => ?_
    have hr1 : r.1.Sound M K := readEvent_sound h _ _ _ r hr
    exact sound_ite (onDir_sound hr1 _ _) (markBad_sound hr1 _ _)

theorem evSelftestDone_sound {s : State} (h : s.Sound M K) (core : Nat) (pass : Bool) : Each (State.Sound M K)
    (evSelftestDone core pass s) := by
  unfold evSelftestDone
  extract_lets n t u
  split
  · have ht : t.Sound M K := by
      unfold t
      split
      · exact h
      · exact recordDead_sound h _
    have hu : u.Sound M K := onCores_sound ht _ _ fun _ _ hc => Core.endTest_sound hc _
    exact each_some hu
  · exact each_none

theorem State.readmit_sound {s : State} (h : s.Sound M K) (n : Nat) : (State.readmit s n).Sound M K := by
  unfold State.readmit
  extract_lets t
  have ht : t.Sound M K := onCores_sound h _ _ fun _ _ hc => hc
  exact ht

theorem evSelftestSkip_sound {s : State} (h : s.Sound M K) (core : Nat) : Each (State.Sound M K) (evSelftestSkip core s) := by
  unfold evSelftestSkip
  extract_lets n k m t u
  split
  · have ht : t.Sound M K := readmit_sound h n
    have hu : u.Sound M K := by
      unfold u
      split
      · exact ht
      · exact onCores_sound ht _ _ fun _ _ hc => hc
    exact each_some (sound_ite hu hu)
  · exact each_none

theorem evSelftestStart_sound {s : State} (h : s.Sound M K) (core : Nat) : Each (State.Sound M K) (evSelftestStart core s) := by
  unfold evSelftestStart
  extract_lets n t u
  split
  · have ht : t.Sound M K := onCores_sound h _ _ fun _ _ hc => Core.beginTest_sound hc
    have hu : u.Sound M K := ht
    refine each_some ?_
    split
    · exact hu
    · exact hu
  · exact each_none

theorem State.withdraw_sound {s : State} (h : s.Sound M K) (n : Nat) : (State.withdraw s n).Sound M K := by
  unfold State.withdraw
  extract_lets t
  have ht : t.Sound M K := onCores_sound h _ _ fun _ _ hc => hc
  exact ht

theorem evSelftestWithdraw_sound {s : State} (h : s.Sound M K) (core : Nat) : Each (State.Sound M K) (evSelftestWithdraw core s) := by
  unfold evSelftestWithdraw
  extract_lets n
  have hw : (s.withdraw n).Sound M K := withdraw_sound h n
  split
  · exact each_none
  · split
    · split
      · exact each_none
      · exact each_some hw
    · split
      · exact each_none
      · exact each_some hw

theorem Ctx.shot_sound {k : Ctx} (h : k.Sound K) (ns : BitVec 8) (lo hi : Nat) : (Ctx.shot k ns lo hi).Sound K := by
  grind [Ctx.shot, Core.shot_sound, Option.map_eq_some_iff, Ctx.Sound, Image.Sound]

theorem State.shootAll_sound {s : State} (h : s.Sound M K) (ns : BitVec 8) (lo hi : Nat) : (State.shootAll s ns lo hi).Sound M K := by
  have hc : CoresSound K (s.cores.map fun x => (x.1, x.2.shot ns lo hi)) := (cores_sound h).map fun _ hx => Core.shot_sound hx _ _ _
  have ht := mapCtxs_sound (withCores_sound h hc) fun _ hk => Ctx.shot_sound hk ns lo hi
  exact ht

theorem State.shootGates_sound (ns : BitVec 8) (lo hi : Nat) : ∀ {s : State} (_ : s.Sound M K) (l : List Nat),
    (State.shootGates s ns lo hi l).Sound M K
  | _, h, [] => h
  | s, h, n :: l => by
    unfold State.shootGates
    refine shootGates_sound ns lo hi ?_ l
    split
    · split
      · exact onCore_sound h n _ fun _ _ hc => Core.releaseMark_sound hc
      · exact h
    · exact h

theorem evShootdown_sound {s : State} (h : s.Sound M K) (ns : BitVec 8) (lo hi : Nat) : Each (State.Sound M K)
    (evShootdown ns lo hi s) := by
  unfold evShootdown
  split
  · exact each_none
  · extract_lets u
    have hu : u.Sound M K := shootGates_sound ns lo hi (shootAll_sound h ns lo hi) _
    exact each_some hu

theorem evShootdownComplete_sound {s : State} (h : s.Sound M K) : Each (State.Sound M K) (evShootdownComplete s) := by
  unfold evShootdownComplete
  split
  · exact each_none
  · split
    · extract_lets u late
      have hu : u.Sound M K := shootGates_sound _ _ _ h _
      exact each_some hu
    · split
      · exact each_none
      · exact each_some h

theorem State.setRegion_sound {s : State} (h : s.Sound M K) (region : Nat) (entry : Option RegionEntry) :
    (State.setRegion s region entry).Sound M K := by
  unfold State.setRegion
  split
  · split
    · exact h
    · split
      · exact h
      · exact h
  · exact h

theorem evSnapshotChange_sound {s : State} (h : s.Sound M K) (region : Nat) (entry : Option RegionEntry) :
    Each (State.Sound M K) (evSnapshotChange region entry s) := by
  refine each_some (redebug_sound (foldl_sound (setRegion_sound h region entry) fun x i hx => ?_))
  split
  · exact enterError_sound hx i 2
  · exact hx

theorem evSpillReturn_sound {s : State} (h : s.Sound M K) (slice : Fin 96) : Each (State.Sound M K) (evSpillReturn slice s) := by
  grind [evSpillReturn, State.onReq_sound, Each]

theorem evStartInterface_sound {s : State} (h : s.Sound M K) (itf : Fin 16) : Each (State.Sound M K) (evStartInterface itf s) := by
  grind [evStartInterface, State.answerError_sound, State.onTdi_sound, Each]

theorem evStewardFrameFill_sound {s : State} (h : s.Sound M K) (walk : Nat) (fill : Option FrameFill) :
    Each (State.Sound M K) (evStewardFrameFill walk fill s) := by
  unfold evStewardFrameFill
  split
  · exact each_none
  · split
    · exact each_some (onWalk_sound h _ _)
    · exact each_bind fun t ht => each_map fun u hu =>
        restartWalks_sound (storeEntry_sound (writeEvent_sound h _ _ _ t ht) _ _ _ u hu) _ _ _
    · exact each_none

theorem State.stopCtx_sound {s : State} (h : s.Sound M K) (k : Fin 8) : (State.stopCtx s k).Sound M K := by
  grind [State.stopCtx, State.emptyCtx_sound, State.leftSet_sound]

theorem State.unlock_sound {s : State} (h : s.Sound M K) (i : Fin 16) : (State.unlock s i).Sound M K := by
  unfold State.unlock
  extract_lets t u
  have ht : t.Sound M K := foldl_sound h fun _ k hx => stopCtx_sound hx k
  have hu : u.Sound M K := by
    unfold u
    split
    · exact ht
    · exact destroyKeys_sound ht i
  have ho := onTdi_sound hu i fun x => { x with state := .unlocked, live := false }
  refine redebug_sound ?_
  exact ho

theorem evStopInterface_sound {s : State} (h : s.Sound M K) (itf : Fin 16) : Each (State.Sound M K) (evStopInterface itf s) := by
  grind [evStopInterface, State.answerError_sound, State.unlock_sound, Each, State.Sound, State.memOk, State.scratchOk]

theorem State.dropDone_sound {s : State} (h : s.Sound M K) (n : Nat) : (State.dropDone s n).Sound M K := h

theorem State.endCommand_sound {s : State} (h : s.Sound M K) (core : Nat) (rsb : Nat) : Each (State.Sound M K)
    (State.endCommand s core rsb) := by
  refine coreEvent_sound h core _ fun c hc => ?_
  split
  · exact each_none
  · next j _ =>
    split
    · exact each_none
    · split
      · exact each_map fun d hd => Core.eccFault_sound hc _ d hd
      · split
        · exact each_map fun l _ => Core.endCopy_sound (Core.freeEntry_sound (Core.putSpad_sound hc l) _) j
        · exact each_none
        · exact each_some (Core.endCopy_sound (Core.freeEntry_sound (Core.mended_sound (Core.runCopy_sound hc _) _ _) _) j)

theorem evStreamerComplete_sound {s : State} (h : s.Sound M K) (core : Nat) (rsb : Nat) :
    Each (State.Sound M K) (evStreamerComplete core rsb s) := each_map fun t ht => dropDone_sound (endCommand_sound h core rsb t ht) core

theorem evStreamerStart_sound {s : State} (h : s.Sound M K) (core : Nat) : Each (State.Sound M K) (evStreamerStart core s) := by
  unfold evStreamerStart
  dsimp only
  split
  · refine each_map fun t ht => ?_
    have hc := coreEvent_sound h core _ (fun c hc => each_some (P := fun r : Core × List Out => r.1.Sound K) hc) t ht
    exact hc
  · exact each_none

theorem evSwitchCommit_sound {s : State} (h : s.Sound M K) (part : Fin 16) : Each (State.Sound M K) (evSwitchCommit part s) := by
  grind [evSwitchCommit, State.onPreempt_sound, Each]

theorem evSwitchOverdue_sound {s : State} (h : s.Sound M K) (part : Fin 16) : Each (State.Sound M K) (evSwitchOverdue part s) := by
  grind [evSwitchOverdue, State.onPreempt_sound, State.raisePart_sound, Each]

theorem evSwitchStart_sound {s : State} (h : s.Sound M K) (part : Fin 16) : Each (State.Sound M K) (evSwitchStart part s) := by
  unfold evSwitchStart
  extract_lets q t
  split
  · have ht : t.Sound M K := onPreempt_sound h part _
    split
    · next k _ =>
      extract_lets u
      have hu : u.Sound M K := by
        refine onPreempt_sound (onCtx_sound ht k _ fun _ hk => ?_) part _
        exact hk
      refine each_some (withCores_sound hu ((cores_sound hu).map fun x hx => ?_))
      split
      · exact Core.askFreeze_sound hx
      · exact hx
    · split
      · exact each_some ht
      · exact each_some (beginRestore_sound (onPreempt_sound ht part _) part)
  · exact each_none

theorem evSyncLocked_sound {s : State} (h : s.Sound M K) : Each (State.Sound M K) (evSyncLocked s) := by
  grind [evSyncLocked, Each, State.Sound, State.memOk, State.scratchOk]

theorem evSyncUnlocked_sound {s : State} (h : s.Sound M K) : Each (State.Sound M K) (evSyncUnlocked s) := by
  grind [evSyncUnlocked, Each, State.Sound, State.memOk, State.scratchOk]

theorem evTdispUnsupported_sound {s : State} (h : s.Sound M K) (itf : Fin 16) : Each (State.Sound M K) (evTdispUnsupported itf s) := by
  grind [evTdispUnsupported, Each, State.Sound, State.memOk, State.scratchOk]

theorem evThermalRecover_sound {s : State} (h : s.Sound M K) : Each (State.Sound M K) (evThermalRecover s) := by
  grind [evThermalRecover, Each, State.Sound, State.memOk, State.scratchOk]

theorem evThermalThrottle_sound {s : State} (h : s.Sound M K) : Each (State.Sound M K) (evThermalThrottle s) := by
  grind [evThermalThrottle, Each, State.Sound, State.memOk, State.scratchOk]

theorem evTileCommit_sound {s : State} (h : s.Sound M K) (req : Nat) : Each (State.Sound M K) (evTileCommit req s) := by
  unfold evTileCommit
  refine each_bind fun r _ => ?_
  split
  · next c _ hc =>
    split
    · exact each_none
    · split
      · exact each_some (failTile_sound h _ _ _)
      · extract_lets write lines data t
        have ht : t.Sound M K := by
          unfold t
          split
          · exact setCore_sound (putMem_sound h _) (Core.storeLeaves_sound (core_sound h _ c hc) r) _
          · exact h
        exact each_some (sliceAnswer_sound (onReq_sound (unreserve_sound (stampAll_sound ht _ _ _ _) _) _ _) _ _ _ _)
  · exact each_none

theorem State.tileReady_sound {s : State} {c : Core} (h : s.Sound M K) (hc : c.Sound K) (n : Nat) (r : MemReq) :
    (State.tileReady s n c r).Sound M K := by
  unfold State.tileReady
  split
  · exact setCore_sound (onReq_sound h _ _) (foldl_sound hc fun _ l hx => Core.recent_sound hx l) n
  · exact onReq_sound h _ _

theorem State.walkFor_sound {s : State} (h : s.Sound M K) (n : Nat) (r : MemReq) (va : Nat) :
    Each (State.Sound M K) (State.walkFor s n r va) := by
  grind [State.walkFor, Each, State.Sound, State.memOk, State.scratchOk]

theorem State.beginTile_sound {s : State} {c : Core} (h : s.Sound M K) (hc : c.Sound K) (n : Nat) (r : MemReq)
    (x : CopyJob × Desc × Nat × Handle) : Each (State.Sound M K) (State.beginTile s n c r x) := by
  unfold State.beginTile
  split
  · exact each_map fun d hd => setCore_sound h (Core.eccFault_sound hc _ d hd) n
  · extract_lets vas d
    have hd : d.Sound K := hc
    split
    · exact each_some (onCore_sound (failTile_sound h _ _ _) n _ fun _ _ he => he)
    · exact walkFor_sound h n r _
    · exact each_some (tileReady_sound (setCore_sound h hd n) hd n _)

theorem State.prepareAt_sound {s : State} (h : s.Sound M K) (r : MemReq) : Each (State.Sound M K) (State.prepareAt s r) := by
  unfold State.prepareAt
  extract_lets k lines write
  exact each_ite each_none (each_map fun t ht => sliceAnswer_sound (onReq_sound (setSlice_sound
      (bringAll_sound h _ _ t ht) _ _) _ _) _ _ _ _)

theorem evTilePrepare_sound {s : State} (h : s.Sound M K) (req : Nat) : Each (State.Sound M K) (evTilePrepare req s) := by
  unfold evTilePrepare
  refine each_bind fun r _ => ?_
  split
  · next c _ hc =>
    split
    · exact each_none
    · exact each_bind fun x _ => beginTile_sound h (core_sound h _ c hc) _ _ _
  · split
    · exact prepareAt_sound h r
    · exact each_none
  · exact each_map fun x hx => memHop_sound h _ x hx
  · exact each_none

theorem evTriggerCount_sound {s : State} (h : s.Sound M K) (gate : GateId) : Each (State.Sound M K) (evTriggerCount gate s) := by
  grind [evTriggerCount, State.moved_sound, State.onGate_sound, State.stray_sound, Each, State.Sound, State.memOk, State.scratchOk]

theorem evUnassignedOpcode_sound {s : State} (h : s.Sound M K) (core : Nat) (slot : Fin 8) :
    Each (State.Sound M K) (evUnassignedOpcode core slot s) := by
  grind [evUnassignedOpcode, Core.illegalEvent_sound, State.coreEvent_sound]

theorem evVerdictRead_sound {s : State} (h : s.Sound M K) : Each (State.Sound M K) (evVerdictRead s) := by
  grind [evVerdictRead, Each, State.Sound, State.memOk, State.scratchOk]

theorem State.refuseTile_sound {s : State} (h : s.Sound M K) (w : Walk) : (State.refuseTile s w).Sound M K := by
  grind [State.refuseTile, State.failTile_sound]

theorem evWalkComplete_sound {s : State} (h : s.Sound M K) (walk : Nat) : Each (State.Sound M K) (evWalkComplete walk s) := by
  unfold evWalkComplete
  split
  · exact each_none
  · extract_lets t reach
    have ht : t.Sound M K := h
    have hreach : ∀ page (u : State), u.Sound M K → (reach page u).Sound M K := fun page u hu => by
      unfold reach
      split
      · exact hu
      · split
        · next c hc => exact setCore_sound hu (Core.walked_sound (core_sound hu _ c hc) _ _) _
        · exact hu
    split
    · exact each_some (hreach _ t ht)
    · split
      · exact each_none
      · exact each_some (hreach _ _ (refuseTile_sound ht _))
    · exact each_none

theorem State.readAll_sound : ∀ {s : State} (_ : s.Sound M K) (a : Agent) (part : Fin 16) (l : List Nat),
    Each (State.Sound M K) (State.readAll s a part l)
  | _, h, _, _, [] => each_some h
  | _, h, a, part, x :: xs => each_bind fun t ht => readAll_sound (readEvent_sound h a part [x] t ht) a part xs

theorem evWalkRequest_sound {s : State} (h : s.Sound M K) (walk : Nat) : Each (State.Sound M K) (evWalkRequest walk s) := by
  unfold evWalkRequest
  split
  · exact each_none
  · split
    · exact each_none
    · extract_lets f
      split
      · exact each_some (onWalk_sound h _ _)
      · split
        · exact each_some (onWalk_sound h _ _)
        · refine each_map fun y hy => ?_
          dsimp -zeta only
          extract_lets t
          have ht : t.Sound M K := onWalk_sound (readAll_sound h _ _ _ y hy) walk _
          split
          · exact ht
          · exact ht

theorem evWalkerOpen_sound {s : State} (h : s.Sound M K) (gate : GateId) : Each (State.Sound M K) (evWalkerOpen gate s) := by
  unfold evWalkerOpen
  split
  · extract_lets k l iter d s'
    split
    · have hs' : s'.Sound M K := onGate_sound h gate _
      exact each_some (foldl_sound hs' fun _ p hx => gateRequest_sound hx gate p)
    · exact each_none
  · exact each_none

theorem evWccSlew_sound {s : State} (h : s.Sound M K) (time : SyncTime) : Each (State.Sound M K) (evWccSlew time s) := by
  grind [evWccSlew, Each, State.Sound, State.memOk, State.scratchOk]

theorem State.tick_sound {s : State} (h : s.Sound M K) : (State.tick s).Sound M K := by
  have hc : CoresSound K s.tickCores := (cores_sound h).map fun _ hx => Core.tick_sound hx _
  have ht := withCores_sound h hc
  unfold State.tick
  split
  · exact ht
  · exact ht
  · exact h
  · exact h
  · exact h

theorem State.beginFault_sound {s : State} (h : s.Sound M K) (n : Nat) (p : Fin 8) : (State.beginFault s n p).Sound M K :=
  onCore_sound h n _ fun _ _ hc => hc

theorem firstEvent_sound {s : State} (h : s.Sound M K) : ∀ (l : List Event) (_ : ∀ e ∈ l, Each (State.Sound M K) (e s)),
    Each (State.Sound M K) (firstEvent s l)
  | [], _ => each_none
  | e :: es, hl => by
    unfold firstEvent
    split
    · next t ht => exact each_some (hl e List.mem_cons_self t ht)
    · exact firstEvent_sound h es fun x hx => hl x (List.mem_cons_of_mem _ hx)

end Sys2Proof.Machine
end

section
/-! Every step keeps the memories in canonical form (log 2): what an instruction does, the module's own events, the turn. -/

namespace Sys2Proof.Machine
variable {M K : Prop}
open State

/-! ## What an instruction does -/

theorem outside_sound {s : State} {r : Option State} (h : s.Sound M K) (hr : Each (State.Sound M K) r) :
    Keeps (State.Sound M K) (outside r s) := by
  unfold outside
  split
  · next t => exact hr t rfl
  · exact h

theorem event_sound {s : State} {r : Option State} (h : s.Sound M K) (hr : Each (State.Sound M K) r) :
    Keeps (State.Sound M K) (event r s) := by
  unfold event
  split
  · exact outside_sound h hr
  · exact h

/-- A slot form changes its own core only, by running it in its slot. -/
theorem exec_slot_sound {s : State} (h : s.Sound M K) {i : Instr} {e : SlotWord} (he : encode i = some e) :
    Keeps (State.Sound M K) (exec i s) := by
  obtain ⟨f, hf⟩ := exec_isSlot i e he
  rw [hf]
  exact onCore_sound h s.focus _ fun env c hc => Core.runSlot_sound hc env _ _ f

/-- An event goes on from the state its definition gives; every other instruction has a word. -/
theorem exec_sound {s : State} (h : s.Sound M K) (i : Instr) : Keeps (State.Sound M K) (exec i s) := by
  cases i
  case powerGood o => exact outside_sound h (evPowerGood_sound h o)
  case enterP0 => exact outside_sound h (evEnterP0_sound h)
  case enterP1 => exact outside_sound h (evEnterP1_sound h)
  case enterS1 => exact outside_sound h (evEnterS1_sound h)
  case exitS1 => exact outside_sound h (evExitS1_sound h)
  case enterS3 => exact outside_sound h (evEnterS3_sound h)
  case exitS3 time => exact outside_sound h (evExitS3_sound h time)
  case powerRemoved => exact outside_sound h (evPowerRemoved_sound h)
  case auxPowerFail => exact outside_sound h (evAuxPowerFail_sound h)
  case thermalThrottle => exact outside_sound h (evThermalThrottle_sound h)
  case thermalRecover => exact outside_sound h (evThermalRecover_sound h)
  case wccSlew time => exact outside_sound h (evWccSlew_sound h time)
  case syncUnlocked => exact outside_sound h (evSyncUnlocked_sound h)
  case peerDelayMeasure port delay => exact event_sound h (evPeerDelayMeasure_sound h port delay)
  case ltsFloor => exact event_sound h (evLtsFloor_sound h)
  case bloomAlternate => exact event_sound h (evBloomAlternate_sound h)
  case scrubLine at_ bad => exact event_sound h (evScrubLine_sound h at_ bad)
  case configEntryRewritten router => exact event_sound h (evConfigEntryRewritten_sound h router)
  case selftestWithdraw core => exact event_sound h (evSelftestWithdraw_sound h core)
  case selftestStart core => exact event_sound h (evSelftestStart_sound h core)
  case selftestSkip core => exact event_sound h (evSelftestSkip_sound h core)
  case selftestDone core pass => exact event_sound h (evSelftestDone_sound h core pass)
  case failedInService core => exact event_sound h (evFailedInService_sound h core)
  case freezeTimeout core => exact event_sound h (evFreezeTimeout_sound h core)
  case retryRequest router port => exact event_sound h (evRetryRequest_sound h router port)
  case linkDead router port => exact event_sound h (evLinkDead_sound h router port)
  case publicationArrival router ch => exact event_sound h (evPublicationArrival_sound h router ch)
  case requestArrival router ch => exact event_sound h (evRequestArrival_sound h router ch)
  case requestResume router => exact event_sound h (evRequestResume_sound h router)
  case gateTileArrival gate => exact event_sound h (evGateTileArrival_sound h gate)
  case heldTileAccept gate => exact event_sound h (evHeldTileAccept_sound h gate)
  case missReplyArrival to_ => exact event_sound h (evMissReplyArrival_sound h to_)
  case agentRequest agent => exact event_sound h (evAgentRequest_sound h agent)
  case agentFetchDone agent uncorrectable => exact event_sound h (evAgentFetchDone_sound h agent uncorrectable)
  case segmentVerify agent => exact event_sound h (evSegmentVerify_sound h agent)
  case backWrite agent => exact event_sound h (evBackWrite_sound h agent)
  case backCompletion core => exact event_sound h (evBackCompletion_sound h core)
  case configWrite router => exact event_sound h (evConfigWrite_sound h router)
  case collectiveChunkArrival router ch => exact event_sound h (evCollectiveChunkArrival_sound h router ch)
  case chunkRefetch router => exact event_sound h (evChunkRefetch_sound h router)
  case markerArrival router ch => exact event_sound h (evMarkerArrival_sound h router ch)
  case carryMessageArrival core down => exact event_sound h (evCarryMessageArrival_sound h core down)
  case drainWave part => exact event_sound h (evDrainWave_sound h part)
  case cfgswap part => exact event_sound h (evCfgswap_sound h part)
  case cfgswapForce part => exact event_sound h (evCfgswapForce_sound h part)
  case planeSwap router => exact event_sound h (evPlaneSwap_sound h router)
  case congestionTimeout router port => exact event_sound h (evCongestionTimeout_sound h router port)
  case probe part => exact event_sound h (evProbe_sound h part)
  case probeWave part => exact event_sound h (evProbeWave_sound h part)
  case verdictRead => exact event_sound h (evVerdictRead_sound h)
  case memoryRequestArrival req => exact event_sound h (evMemoryRequestArrival_sound h req)
  case spillReturn slice => exact event_sound h (evSpillReturn_sound h slice)
  case requestServe req => exact event_sound h (evRequestServe_sound h req)
  case lineFill req uncorrectable => exact event_sound h (evLineFill_sound h req uncorrectable)
  case acceptanceToken req => exact event_sound h (evAcceptanceToken_sound h req)
  case completionToken req => exact event_sound h (evCompletionToken_sound h req)
  case cancellation req => exact event_sound h (evCancellation_sound h req)
  case tilePrepare req => exact event_sound h (evTilePrepare_sound h req)
  case tileCommit req => exact event_sound h (evTileCommit_sound h req)
  case walkRequest walk => exact event_sound h (evWalkRequest_sound h walk)
  case walkComplete walk => exact event_sound h (evWalkComplete_sound h walk)
  case pagerFaultToken walk => exact event_sound h (evPagerFaultToken_sound h walk)
  case pagerResolve walk => exact event_sound h (evPagerResolve_sound h walk)
  case shootdown ns lo hi => exact event_sound h (evShootdown_sound h ns lo hi)
  case shootdownComplete => exact event_sound h (evShootdownComplete_sound h)
  case frameReceive port frame => exact event_sound h (evFrameReceive_sound h port frame)
  case frameResendTimeout port peer cls => exact event_sound h (evFrameResendTimeout_sound h port peer cls)
  case peerLost peer => exact event_sound h (evPeerLost_sound h peer)
  case instructionFetch core => exact event_sound h (evInstructionFetch_sound h core)
  case fixedResultLand core => exact event_sound h (evFixedResultLand_sound h core)
  case registerFill core reg => exact event_sound h (evRegisterFill_sound h core reg)
  case queueOpStart core q => exact event_sound h (evQueueOpStart_sound h core q)
  case engineOpComplete core q uncorrectable => exact event_sound h (evEngineOpComplete_sound h core q uncorrectable)
  case streamerStart core => exact event_sound h (evStreamerStart_sound h core)
  case streamerComplete core rsb => exact event_sound h (evStreamerComplete_sound h core rsb)
  case landingStart core => exact event_sound h (evLandingStart_sound h core)
  case landingComplete core => exact event_sound h (evLandingComplete_sound h core)
  case retireComplete core => exact event_sound h (evRetireComplete_sound h core)
  case walkerOpen gate => exact event_sound h (evWalkerOpen_sound h gate)
  case dispatch core => exact event_sound h (evDispatch_sound h core)
  case herdDispatch gate => exact event_sound h (evHerdDispatch_sound h gate)
  case triggerCount gate => exact event_sound h (evTriggerCount_sound h gate)
  case eosRequest gate => exact event_sound h (evEosRequest_sound h gate)
  case eosEmit gate => exact event_sound h (evEosEmit_sound h gate)
  case barrierArrival gate => exact event_sound h (evBarrierArrival_sound h gate)
  case barrierTimeout core => exact event_sound h (evBarrierTimeout_sound h core)
  case npsOverrun core => exact event_sound h (evNpsOverrun_sound h core)
  case deferredFault core => exact event_sound h (evDeferredFault_sound h core)
  case resume core => exact event_sound h (evResume_sound h core)
  case retranslate core => exact event_sound h (evRetranslate_sound h core)
  case endFiring core => exact event_sound h (evEnd_sound h core)
  case freezeRequest core => exact event_sound h (evFreezeRequest_sound h core)
  case arm part => exact event_sound h (evArm_sound h part)
  case cancel part => exact event_sound h (evCancel_sound h part)
  case switchCommit part => exact event_sound h (evSwitchCommit_sound h part)
  case switchStart part => exact event_sound h (evSwitchStart_sound h part)
  case saveDone part => exact event_sound h (evSaveDone_sound h part)
  case restoreDone part => exact event_sound h (evRestoreDone_sound h part)
  case switchOverdue part => exact event_sound h (evSwitchOverdue_sound h part)
  case openCfg port => exact event_sound h (evOpenCfg_sound h port)
  case arg port => exact event_sound h (evArg_sound h port)
  case inject port => exact event_sound h (evInject_sound h port)
  case go port => exact event_sound h (evGo_sound h port)
  case close port => exact event_sound h (evClose_sound h port)
  case invalidEntry port => exact event_sound h (evInvalidEntry_sound h port)
  case heldEntryResume port => exact event_sound h (evHeldEntryResume_sound h port)
  case tailWrite port tail => exact event_sound h (evTailWrite_sound h port tail)
  case ringWrite port value => exact event_sound h (evRingWrite_sound h port value)
  case errClear port => exact event_sound h (evErrClear_sound h port)
  case registerWrite offset value => exact event_sound h (evRegisterWrite_sound h offset value)
  case lockInterface itf consent => exact outside_sound h (evLockInterface_sound h itf consent)
  case keyDelivery itf region => exact outside_sound h (evKeyDelivery_sound h itf region)
  case startInterface itf => exact outside_sound h (evStartInterface_sound h itf)
  case stopInterface itf => exact outside_sound h (evStopInterface_sound h itf)
  case getDeviceInterfaceReport itf => exact outside_sound h (evGetDeviceInterfaceReport_sound h itf)
  case tdispUnsupported itf => exact outside_sound h (evTdispUnsupported_sound h itf)
  case snapshotChange region entry => exact outside_sound h (evSnapshotChange_sound h region entry)
  case keyTableError itf => exact outside_sound h (evKeyTableError_sound h itf)
  case debugAttachTrace core => exact outside_sound h (evDebugAttachTrace_sound h core)
  case debugAttachHalt core => exact outside_sound h (evDebugAttachHalt_sound h core)
  case debugSessionEnd core => exact outside_sound h (evDebugSessionEnd_sound h core)
  case attestationRequest nonce => exact outside_sound h (evAttestationRequest_sound h nonce)
  case configurationRestart => exact event_sound h (evConfigurationRestart_sound h)
  case deepTierLoss link => exact event_sound h (evDeepTierLoss_sound h link)
  case syncLocked => exact outside_sound h (evSyncLocked_sound h)
  case emptyBundle core => exact event_sound h (evEmptyBundle_sound h core)
  case unassignedOpcode core slot => exact event_sound h (evUnassignedOpcode_sound h core slot)
  case rePlacement part avoid placed => exact event_sound h (evRePlacement_sound h part avoid placed)
  case newHealthRecord rec_ => exact outside_sound h (evNewHealthRecord_sound h rec_)
  case stewardFrameFill walk fill => exact event_sound h (evStewardFrameFill_sound h walk fill)
  all_goals exact exec_slot_sound h rfl

/-! ## The module's own events (log 3) -/

/-- Each event of a list keeps the memories in canonical form. -/
def EventsSound (M K : Prop) (l : List Event) : Prop := ∀ e ∈ l, ∀ s : State, s.Sound M K → Each (State.Sound M K) (e s)

theorem EventsSound.nil : EventsSound M K [] := nofun
theorem EventsSound.cons {e : Event} {l : List Event} (he : ∀ s : State, s.Sound M K → Each (State.Sound M K) (e s))
    (hl : EventsSound M K l) : EventsSound M K (e :: l) := List.forall_mem_cons.mpr ⟨he, hl⟩
theorem EventsSound.append {l₁ l₂ : List Event} (h₁ : EventsSound M K l₁) (h₂ : EventsSound M K l₂) : EventsSound M K (l₁ ++ l₂) :=
  List.forall_mem_append.mpr ⟨h₁, h₂⟩
theorem EventsSound.map {α : Type} {f : α → Event} (hf : ∀ a (s : State), s.Sound M K → Each (State.Sound M K) (f a s)) (l : List α) :
    EventsSound M K (l.map f) := List.forall_mem_map.mpr fun a _ => hf a
theorem EventsSound.flatMap {α : Type} {f : α → List Event} (hf : ∀ a, EventsSound M K (f a)) (l : List α) :
    EventsSound M K (l.flatMap f) := fun e he s hs => by
  obtain ⟨a, _, ha⟩ := List.mem_flatMap.mp he
  exact hf a e ha s hs
theorem EventsSound.filterMap {α : Type} {f : α → Option Event}
    (hf : ∀ a, Each (fun e : Event => ∀ s : State, s.Sound M K → Each (State.Sound M K) (e s)) (f a)) (l : List α) :
    EventsSound M K (l.filterMap f) := fun e he => by
  obtain ⟨a, _, ha⟩ := List.mem_filterMap.mp he
  exact hf a e ha

theorem clockEvents_sound : EventsSound M K clockEvents :=
  .cons (fun _ h => evLtsFloor_sound h) (.cons (fun _ h => evBloomAlternate_sound h) .nil)
theorem partEvents_sound (p : Fin 16) : EventsSound M K (partEvents p) :=
    .cons (fun _ h => evSwitchCommit_sound h p) (
    .cons (fun _ h => evSwitchStart_sound h p) (
    .cons (fun _ h => evSaveDone_sound h p) (
    .cons (fun _ h => evRestoreDone_sound h p) (
    .cons (fun _ h => evSwitchOverdue_sound h p) (
    .cons (fun _ h => evDrainWave_sound h p) (
    .cons (fun _ h => evCfgswap_sound h p) (
    .cons (fun _ h => evProbeWave_sound h p) (
    .nil))))))))

theorem portEvents_sound (p : Fin 16) : EventsSound M K (portEvents p) :=
    .cons (fun _ h => evHeldEntryResume_sound h p) (
    .cons (fun _ h => evOpenCfg_sound h p) (
    .cons (fun _ h => evArg_sound h p) (
    .cons (fun _ h => evInject_sound h p) (
    .cons (fun _ h => evGo_sound h p) (
    .cons (fun _ h => evClose_sound h p) (
    .cons (fun _ h => evInvalidEntry_sound h p) (
    .nil)))))))

theorem reqEvents_sound (id : Nat) : EventsSound M K (reqEvents id) :=
    .cons (fun _ h => evCancellation_sound h id) (
    .cons (fun _ h => evMemoryRequestArrival_sound h id) (
    .cons (fun _ h => evAcceptanceToken_sound h id) (
    .cons (fun _ h => evRequestServe_sound h id) (
    .cons (fun _ h => evLineFill_sound h id false) (
    .cons (fun _ h => evTilePrepare_sound h id) (
    .cons (fun _ h => evTileCommit_sound h id) (
    .cons (fun _ h => evCompletionToken_sound h id) (
    .nil))))))))

theorem walkEvents_sound (id : Nat) : EventsSound M K (walkEvents id) :=
    .cons (fun _ h => evWalkRequest_sound h id) (
    .cons (fun _ h => evWalkComplete_sound h id) (
    .cons (fun _ h => evPagerFaultToken_sound h id) (
    .cons (fun _ h => evPagerResolve_sound h id) (
    .nil))))

theorem gateEvents_sound (g : GateId) : EventsSound M K (gateEvents g) :=
    .cons (fun _ h => evHeldTileAccept_sound h g) (
    .cons (fun _ h => evGateTileArrival_sound h g) (
    .cons (fun _ h => evTriggerCount_sound h g) (
    .cons (fun _ h => evWalkerOpen_sound h g) (
    .cons (fun _ h => evEosRequest_sound h g) (
    .cons (fun _ h => evEosEmit_sound h g) (
    .cons (fun _ h => evBarrierArrival_sound h g) (
    .cons (fun _ h => evHerdDispatch_sound h g) (
    .nil))))))))

theorem agentEvents_sound (a : Fin 24) : EventsSound M K (agentEvents a) :=
    .cons (fun _ h => evAgentRequest_sound h a) (
    .cons (fun _ h => evSegmentVerify_sound h a) (
    .cons (fun _ h => evAgentFetchDone_sound h a false) (
    .cons (fun _ h => evBackWrite_sound h a) (
    .nil))))

theorem coreEvents_sound (n : Nat) (c : Core) : EventsSound M K (coreEvents n c) := by
  have hissue : EventsSound M K [evFreezeRequest n, evNpsOverrun n, evBarrierTimeout n] :=
      .cons (fun _ h => evFreezeRequest_sound h n) <|
      .cons (fun _ h => evNpsOverrun_sound h n) <|
      .cons (fun _ h => evBarrierTimeout_sound h n) <|
      .nil
  have hqueues : EventsSound M K [evEngineOpComplete n .matrix false, evEngineOpComplete n .scan false, evEngineOpComplete n .stats false,
      evEngineOpComplete n .bank false, evQueueOpStart n .matrix, evQueueOpStart n .scan, evQueueOpStart n .stats,
          evQueueOpStart n .bank] :=
      .cons (fun _ h => evEngineOpComplete_sound h n .matrix false) <|
      .cons (fun _ h => evEngineOpComplete_sound h n .scan false) <|
      .cons (fun _ h => evEngineOpComplete_sound h n .stats false) <|
      .cons (fun _ h => evEngineOpComplete_sound h n .bank false) <|
      .cons (fun _ h => evQueueOpStart_sound h n .matrix) <|
      .cons (fun _ h => evQueueOpStart_sound h n .scan) <|
      .cons (fun _ h => evQueueOpStart_sound h n .stats) <|
      .cons (fun _ h => evQueueOpStart_sound h n .bank) <|
      .nil
  have hrest : EventsSound M K [evStreamerStart n, evLandingComplete n, evLandingStart n, evCarryMessageArrival n false,
      evCarryMessageArrival n true, evBackCompletion n, evRetireComplete n, evRetranslate n] :=
      .cons (fun _ h => evStreamerStart_sound h n) <|
      .cons (fun _ h => evLandingComplete_sound h n) <|
      .cons (fun _ h => evLandingStart_sound h n) <|
      .cons (fun _ h => evCarryMessageArrival_sound h n false) <|
      .cons (fun _ h => evCarryMessageArrival_sound h n true) <|
      .cons (fun _ h => evBackCompletion_sound h n) <|
      .cons (fun _ h => evRetireComplete_sound h n) <|
      .cons (fun _ h => evRetranslate_sound h n) <|
      .nil
  have hcopies : EventsSound M K (c.copies.filterMap fun j => j.rsb.map (evStreamerComplete n)) :=
    .filterMap (fun j => each_map fun r _ _ h => evStreamerComplete_sound h n r) _
  exact .append (.append (.append (.append hissue (.map (fun f _ h => evRegisterFill_sound h n f.reg) _)) hqueues) hcopies) hrest

theorem routerEvents_sound (n : Nat) : EventsSound M K (routerEvents n) := by
  have hrouter : EventsSound M K [evRequestResume n, evChunkRefetch n, evConfigWrite n] :=
      .cons (fun _ h => evRequestResume_sound h n) <|
      .cons (fun _ h => evChunkRefetch_sound h n) <|
      .cons (fun _ h => evConfigWrite_sound h n) <|
      .nil
  have hchannel : ∀ c, EventsSound M K [evPublicationArrival n c, evRequestArrival n c, evCollectiveChunkArrival n c,
      evMarkerArrival n c] :=
    fun c =>
      .cons (fun _ h => evPublicationArrival_sound h n c) <|
      .cons (fun _ h => evRequestArrival_sound h n c) <|
      .cons (fun _ h => evCollectiveChunkArrival_sound h n c) <|
      .cons (fun _ h => evMarkerArrival_sound h n c) <|
      .nil
  exact .append (.append hrouter (.flatMap hchannel _)) (.map (fun p _ h => evCongestionTimeout_sound h n p) _)

theorem State.waveEvents_sound (s : State) : EventsSound M K s.waveEvents :=
  .append (.append (.flatMap (fun _ => .map (fun n _ h => evPlaneSwap_sound h n) _) _) (.map (fun i _ h => evStopInterface_sound h i) _))
    (.cons (fun _ h => evShootdownComplete_sound h) .nil)

theorem State.ownEvents_sound (s : State) : EventsSound M K s.ownEvents := by
  have hparts : EventsSound M K ((List.finRange 16).flatMap partEvents) := .flatMap partEvents_sound _
  have hports : EventsSound M K ((List.finRange 16).flatMap portEvents) := .flatMap portEvents_sound _
  have hcores : EventsSound M K (s.cores.flatMap fun x => coreEvents x.1 x.2) := .flatMap (fun
      (x : Nat × Core) => coreEvents_sound x.1 x.2) _
  have hreqs : EventsSound M K (s.reqs.flatMap fun r => reqEvents r.id) := .flatMap (fun (r : MemReq) => reqEvents_sound r.id) _
  have hspills : EventsSound M K ((List.finRange 96).map evSpillReturn) := .map (fun k _ h => evSpillReturn_sound h k) _
  have hwalks : EventsSound M K (s.walks.flatMap fun w => walkEvents w.id) := .flatMap (fun (w : Walk) => walkEvents_sound w.id) _
  have hrouters : EventsSound M K (s.routersInUse.flatMap routerEvents) := .flatMap routerEvents_sound _
  have hmissed : EventsSound M K (s.missed.map evMissReplyArrival) := .map (fun r _ h => evMissReplyArrival_sound h r) _
  have hgates : EventsSound M K (s.gates.flatMap fun g => gateEvents g.id) := .flatMap (fun (g : Gate) => gateEvents_sound g.id) _
  have hagents : EventsSound M K ((List.finRange 24).flatMap agentEvents) := .flatMap agentEvents_sound _
  have hdispatch : EventsSound M K (s.cores.map fun x => evDispatch x.1) := .map (fun (x : Nat × Core) _ h => evDispatch_sound h x.1) _
  exact .append (.append (.append (.append (.append (.append (.append (.append (.append (.append (.append (.append clockEvents_sound hparts)
    (waveEvents_sound s)) hports) hcores) hreqs) hspills) hwalks) hrouters) hmissed) hgates) hagents) hdispatch

theorem State.nextEvent_sound {s : State} (h : s.Sound M K) : Each (State.Sound M K) s.nextEvent :=
  firstEvent_sound h _ fun e he => ownEvents_sound s e he s h

/-! ## The step (logs 3, 5, 6) -/

theorem passIf_sound (last : Bool) {o : Host.Outcome State Fault Refusal} (h : Keeps (State.Sound M K) o) :
    Keeps (State.Sound M K) (passIf last o) := by
  cases o with
  | next s => exact sound_ite (pass_sound h) h
  | fault _ => exact True.intro
  | refused _ => exact True.intro

theorem State.stepModule_sound {s : State} (h : s.Sound M K) : Keeps (State.Sound M K) s.stepModule := by
  unfold State.stepModule
  split
  · next t ht => exact nextEvent_sound h t ht
  · exact tick_sound (timers_sound h)

theorem State.stepBundle_sound {s : State} (h : s.Sound M K) (c : Core) (f : Firing) : Keeps (State.Sound M K) (s.stepBundle exec c f) := by
  unfold State.stepBundle
  split
  · exact passIf_sound true (exec_sound (beginFault_sound h _ _) _)
  · extract_lets t
    have ht : t.Sound M K := begin_sound h _ _
    split
    · exact passIf_sound true (exec_sound ht _)
    · exact passIf_sound _ (exec_sound ht _)

/-- A step keeps what is asked of the memories. -/
theorem step_sound {s : State} (h : s.Sound M K) : Keeps (State.Sound M K) (step s) := by
  unfold step stepWith
  split
  · next i rest _ =>
    have ha : ({ s with agenda := rest } : State).Sound M K := h
    exact exec_sound ha i
  · split
    · exact tick_sound h
    · split
      · exact stepModule_sound h
      · split
        · exact pass_sound h
        · exact passIf_sound true (exec_sound h _)
        · exact stepBundle_sound h _ _
        · exact passIf_sound _ (exec_sound h _)

theorem Keeps.imp {P Q : State → Prop} {o : Host.Outcome State Fault Refusal} (h : Keeps P o) (hpq : ∀ s, P s → Q s) : Keeps Q o := by
  cases o with
  | next s => exact hpq s h
  | fault _ => exact True.intro
  | refused _ => exact True.intro

/-- Settles O27: what a step stores to the module's memories it stores by `put` and `clear`, which keep the form. -/
theorem stepKeepsMemory : Obligations.StepKeepsMemory := by
  unfold Obligations.StepKeepsMemory
  intro s h
  have hs : s.Sound True False := ⟨fun _ => h, False.elim⟩
  exact (step_sound hs).imp fun _ ht => ht.1 trivial

/-- Settles O28: what a step stores to a scratchpad it stores by `put`, `clear` and `keep`,
    and a parked image holds scratchpads of cores. -/
theorem stepKeepsScratchpads : Obligations.StepKeepsScratchpads := by
  unfold Obligations.StepKeepsScratchpads
  intro s h
  have hs : s.Sound False True := ⟨False.elim, fun _ => h⟩
  exact (step_sound hs).imp fun _ ht => ht.2 trivial

end Sys2Proof.Machine
end

section
/-! What an event that can happen answers, and the clocks (01 R28, 02 R55, R74, 07 R215). -/

namespace Sys2Proof.Machine

/-! ## An event that can happen -/

theorem outside_some {s t : State} {r : Option State} (h : r = some t) : outside r s = .next t := by rw [h]; rfl

theorem event_some {s t : State} {r : Option State} (hc : s.clocked = true) (h : r = some t) : event r s = .next t := by
  rw [event, if_pos hc, outside_some h]

/-- An event of the outside that can happen makes what its state has. -/
theorem makes_outside {i : Instr} {s t : State} {r : Option State} {P : State → Prop} (hi : exec i s = outside r s) (hr : r = some t) (hp : P t) :
    Makes i s P := ⟨t, hi.trans (outside_some hr), hp⟩

/-- An event of the wafer that can happen makes what its state has, while the clock runs. -/
theorem makes_event {i : Instr} {s t : State} {r : Option State} {P : State → Prop} (hi : exec i s = event r s) (hc : s.clocked = true)
    (hr : r = some t) (hp : P t) : Makes i s P := ⟨t, hi.trans (event_some hc hr), hp⟩

/-! ## The clocks -/

theorem lookupD_filter_append {κ α : Type} [DecidableEq κ] (d : α) (l : List (κ × α)) (k : κ) (x : α) :
    lookupD d (l.filter (fun y => y.1 ≠ k) ++ [(k, x)]) k = x := by
  induction l with
  | nil => simp [lookupD]
  | cons a l ih =>
    by_cases h : a.1 = k
    · simpa [List.filter_cons, h] using ih
    · simpa [List.filter_cons, h, lookupD] using ih

/-- Settles O48: each event's guard holds under the hypotheses, and its state is written out. -/
theorem clocks : Obligations.Clocks := by
  unfold Obligations.Clocks
  refine ⟨fun s x hrun hl hs hy hne => ?slew, fun s t => ?none, fun s p t => rfl, fun s hl => ?unlocked, fun s hl => ?locked,
    fun s n c hc hmem hlt => ?floor, fun s hc hne => ?bloom, fun s p x hc he hp => ?delay⟩
  case slew =>
    have hfree : s.slewFree = true := by
      unfold State.slewFree
      cases h : s.lastSlew with
      | none => rfl
      | some y => exact decide_eq_true (hy y h)
    have hruns : (s.runs || s.power == .s1) = true := by simpa [State.runs] using hrun
    exact outside_some (by simp [evWccSlew, hruns, hl, hs, hfree, hne])
  case none => simp [State.aligned]
  case unlocked => exact outside_some (by simp [evSyncUnlocked, hl])
  case locked => exact outside_some (by simp [evSyncLocked, hl])
  case floor =>
    have hany : (s.cores.any fun x => decide (x.2.lts < s.floor)) = true :=
      List.any_eq_true.mpr ⟨(n, c), hmem, decide_eq_true hlt⟩
    refine makes_event rfl hc (by simp only [evLtsFloor, hany, Bool.true_or, if_true]; rfl) ?_
    exact ⟨rfl, rfl, rfl⟩
  case bloom =>
    refine makes_event rfl hc (by rw [evBloomAlternate, if_neg (Ne.symm hne)]) ?_
    exact ⟨rfl, rfl⟩
  case delay =>
    have hup : s.portUp p = true := by simp [State.portUp, he, hp]
    refine makes_event rfl hc (by rw [evPeerDelayMeasure, if_pos hup]) ?_
    exact ⟨rfl, lookupD_filter_append 0 s.delays p x, rfl⟩

end Sys2Proof.Machine
end

section
/-! Bring-up, the power states and the throttle (01 R28 to R32, 04 R131, R135, R136, R143): what links, sessions, the flush and the roots leave. -/

namespace Sys2Proof.Machine

/-! ## Folds -/

/-- A fold of steps related by a preorder relates its start to its end. -/
theorem foldl_rel {α β : Type} {R : α → α → Prop} (hrefl : ∀ x, R x x) (htrans : ∀ {x y z}, R x y → R y z → R x z) {g : α → β → α}
    (hg : ∀ x b, R x (g x b)) (l : List β) (x : α) : R x (l.foldl g x) := by
  induction l generalizing x with
  | nil => exact hrefl x
  | cons b l ih => exact htrans (hg x b) (ih _)

/-! ## Links: only routers and events change (03 R109, R111) -/

/-- One state differs from another in its routers and its events only. -/
def LinksOnly (s t : State) : Prop := ∃ rs es, t = { s with routers := rs, events := es }

theorem LinksOnly.refl (s : State) : LinksOnly s s := ⟨s.routers, s.events, rfl⟩
theorem LinksOnly.trans {s t u : State} (h : LinksOnly s t) (h' : LinksOnly t u) : LinksOnly s u := by
  obtain ⟨rs, es, rfl⟩ := h
  obtain ⟨rs', es', rfl⟩ := h'
  exact ⟨rs', es', rfl⟩
theorem LinksOnly.foldl {β : Type} {g : State → β → State} (hg : ∀ t b, LinksOnly t (g t b)) (l : List β) (s : State) :
    LinksOnly s (l.foldl g s) := foldl_rel LinksOnly.refl LinksOnly.trans hg l s

theorem linksOnly_onRouter (s : State) (n : Nat) (f : Router → Router) : LinksOnly s (s.onRouter n f) := ⟨_, s.events, rfl⟩
theorem linksOnly_holdPort (s : State) (e : Nat × Fin 6) : LinksOnly s (s.holdPort e) := ⟨_, _, rfl⟩
theorem linksOnly_bypass (s : State) (k : Nat) : LinksOnly s (s.bypass k) := by
  fun_cases State.bypass s k
  · exact .foldl (fun t (e : Nat × Fin 6) => linksOnly_onRouter t e.1 _) _ s
  · exact .foldl (fun t (e : Nat × Fin 6) => (linksOnly_onRouter t e.1 _).trans (linksOnly_holdPort _ e)) _ s
theorem linksOnly_rebypass (s : State) (k : Nat) : LinksOnly s (s.rebypass k) := by
  unfold State.rebypass
  extract_lets lost t
  have ht : LinksOnly s t := .foldl (fun u _ => .foldl (fun v (e : Nat × Fin 6) => linksOnly_onRouter v e.1 _) _ u) lost s
  exact ht.trans (.foldl (fun u b => linksOnly_bypass u b.1) lost t)
theorem linksOnly_killLink (s : State) (k : Nat) : LinksOnly s (s.killLink k) := by
  have hdead : LinksOnly s ((linkEnds k).foldl (fun t e => t.onRouter e.1 fun r => { r with dead := withPort r.dead e.2 }) s) :=
    .foldl (fun t (e : Nat × Fin 6) => linksOnly_onRouter t e.1 _) _ s
  unfold State.killLink
  exact (hdead.trans (linksOnly_bypass _ k)).trans (linksOnly_rebypass _ k)
theorem linksOnly_reroute (s : State) : LinksOnly s s.reroute :=
  LinksOnly.trans ⟨_, s.events, rfl⟩ (.foldl (fun t k => linksOnly_bypass t k) _ _)
theorem linksOnly_deadFromRecord (s : State) : LinksOnly s s.deadFromRecord := by
  refine .foldl (fun t e => ?_) _ _
  split
  · split
    · exact .refl t
    · exact linksOnly_killLink t _
  · exact .refl t

/-! ## The record and the map (01 R33 to R43) -/

/-- One state differs from another in the record, in what is made from it and in its cores only. -/
def RecordOnly (s t : State) : Prop := ∃ h g e f ho pa ca a w co, t = { s with
  health := h, healthGen := g, healthSeal := e, inForce := f, holes := ho, pager := pa, caps := ca, asked := a, healthReg := w, cores := co }

theorem RecordOnly.refl (s : State) : RecordOnly s s := ⟨_, _, _, _, _, _, _, _, _, _, rfl⟩
theorem RecordOnly.trans {s t u : State} (h : RecordOnly s t) (h' : RecordOnly t u) : RecordOnly s u := by
  obtain ⟨_, _, _, _, _, _, _, _, _, _, rfl⟩ := h
  obtain ⟨_, _, _, _, _, _, _, _, _, _, rfl⟩ := h'
  exact ⟨_, _, _, _, _, _, _, _, _, _, rfl⟩

theorem recordOnly_record (s : State) (h : HealthRecord) : RecordOnly s (s.record h) := ⟨_, _, _, _, _, _, _, _, _, _, rfl⟩
theorem recordOnly_remap (s : State) : RecordOnly s s.remap := by
  unfold State.remap
  extract_lets h m w _ t
  have ht : RecordOnly s t := by
    unfold t
    split
    · exact .refl s
    · exact ⟨_, _, _, _, _, _, _, _, _, _, rfl⟩
  exact ht.trans ⟨_, _, _, _, _, _, _, _, _, _, rfl⟩

/-! ## Sessions that hold no reply (04 R142) -/

/-- One state differs from another in its cores, its contexts and its interfaces' debug bits only, and no core of either holds a reply. -/
def SessionsOnly (s t : State) : Prop := ∃ co cs td, t = { s with cores := co, ctxs := cs, tdis := td } ∧ ∀ x ∈ co, x.2.reply = none

theorem assoc_mem {α : Type} {l : List (Nat × α)} {n : Nat} {x : α} (h : assoc l n = some x) : (n, x) ∈ l := by
  induction l with
  | nil => nomatch h
  | cons a l ih =>
    unfold assoc at h
    split at h
    · next hk =>
      obtain ⟨k, y⟩ := a
      rw [← Option.some.inj h, ← hk]
      exact List.mem_cons_self
    · exact List.mem_cons_of_mem a (ih h)

/-- The end of the session of a core with no reply releases the core. -/
theorem endSession_eq {s : State} {n : Nat} {c : Core} (hc : s.core n = some c) (hr : c.reply = none) : s.endSession n =
    { s.setCore n (c.released (s.savingAt n)) with ctxs := s.ctxs.map fun k => k.release n } := by
  have hcore : (s.setCore n (c.released (s.savingAt n))).core n = some (c.released (s.savingAt n)) := assoc_set_self _ _ _
  have hd : (c.released (s.savingAt n)).reply = none := hr
  have hkept : (s.setCore n (c.released (s.savingAt n))).answerKept n = s.setCore n (c.released (s.savingAt n)) := by
    simp only [State.answerKept, hcore, hd]
  simp only [State.endSession, hc, hkept, ite_self]
  rfl

theorem endSession_only {s : State} (h : ∀ x ∈ s.cores, x.2.reply = none) (n : Nat) : SessionsOnly s (s.endSession n) := by
  cases hc : s.core n with
  | none =>
    unfold State.endSession
    rw [hc]
    exact ⟨s.cores, _, s.tdis, rfl, h⟩
  | some c =>
    have hr : c.reply = none := h (n, c) (assoc_mem hc)
    have hd : (c.released (s.savingAt n)).reply = none := hr
    exact ⟨_, _, s.tdis, endSession_eq hc hr, assocSet_all (P := fun d : Core => d.reply = none) h hd⟩

theorem SessionsOnly.trans {s t u : State} (h : SessionsOnly s t) (h' : SessionsOnly t u) : SessionsOnly s u := by
  obtain ⟨_, _, _, rfl, _⟩ := h
  obtain ⟨_, _, _, rfl, hr⟩ := h'
  exact ⟨_, _, _, rfl, hr⟩

theorem endSessions_only {s : State} (h : ∀ x ∈ s.cores, x.2.reply = none) : SessionsOnly s s.endSessions := by
  have hfold : ∀ l : List Nat, SessionsOnly s (l.foldl (fun x n => x.endSession n) s) := fun l => by
    refine foldl_sound (P := SessionsOnly s) ⟨s.cores, s.ctxs, s.tdis, rfl, h⟩ fun t n ht => ?_
    obtain ⟨co, cs, td, rfl, hr⟩ := ht
    exact SessionsOnly.trans ⟨co, cs, td, rfl, hr⟩ (endSession_only hr n)
  obtain ⟨co, cs, td, ht, hr⟩ := hfold (s.cores.map (·.1))
  unfold State.endSessions
  rw [ht]
  exact ⟨co, _, _, rfl, hr⟩

/-! ## The flush and the roots -/

/-- A line that is dirty, or that home memory equals, leaves home memory as it is when it is evicted. -/
theorem evict_pmem {s : State} {k : Nat} {l : SLine} (h : l.dirty = true ∨ l.home = none) : ∃ sl se, s.evict k l true = { s with slices := sl, sealed := se } := by
  unfold State.evict
  rcases h with h | h
  · simp only [h, Bool.and_self, if_true]
    exact ⟨_, _, rfl⟩
  · simp only [h]
    split
    · exact ⟨_, _, rfl⟩
    · exact ⟨_, s.sealed, rfl⟩

theorem flushed_pmem {s : State} (h : ∀ x ∈ s.slices, ∀ l ∈ x.2.lines, l.dirty = true ∨ l.home = none) : s.flushed.pmem = s.pmem := by
  unfold State.flushed
  refine foldl_mem_sound (P := fun t : State => t.pmem = s.pmem) rfl fun t x hx ht => ?_
  obtain ⟨y, hy, hxy⟩ := List.mem_flatMap.mp hx
  obtain ⟨l, hl, rfl⟩ := List.mem_map.mp hxy
  obtain ⟨sl, se, he⟩ := evict_pmem (s := t) (k := y.1) (h y hy l hl)
  rw [he]
  exact ht

/-- What the restart leaves of the state beside the slices and the seals: the agents, the work and the routers are gone. -/
theorem dropRoots_only (s : State) : ∃ rs ts, s.dropRoots = { s with roots := rs, tokens := ts } := by
  refine foldl_sound (P := fun t : State => ∃ rs ts, t = { s with roots := rs, tokens := ts }) ⟨s.roots, s.tokens, rfl⟩ fun t ns ht => ?_
  obtain ⟨rs, ts, rfl⟩ := ht
  unfold State.dropRoot
  split
  · exact ⟨rs, ts, rfl⟩
  · exact ⟨_, _, rfl⟩

theorem flushed_only (s : State) : ∃ pm sl se, s.flushed = { s with pmem := pm, slices := sl, sealed := se } := by
  refine foldl_sound (P := fun t : State => ∃ pm sl se, t = { s with pmem := pm, slices := sl, sealed := se }) ⟨s.pmem, s.slices, s.sealed, rfl⟩
    fun t x ht => ?_
  obtain ⟨pm, sl, se, rfl⟩ := ht
  unfold State.evict
  dsimp only
  split
  · exact ⟨_, _, _, rfl⟩
  · split
    · exact ⟨_, _, _, rfl⟩
    · exact ⟨_, _, _, rfl⟩

/-- What S3 leaves. -/
theorem asleep_of (s : State) : s.asleep.power = .s3 ∧ s.asleep.msgs = [] ∧ s.asleep.reqs = [] ∧ s.asleep.walks = [] ∧
    s.asleep.pmem = s.flushed.pmem ∧ s.asleep.regions = s.regions ∧ s.asleep.wcc = s.wcc ∧
    s.asleep.cores = s.cores.map fun x => (x.1, (s.restartCore x.1 x.2).offFrom x.2) := by
  obtain ⟨rs, ts, hr⟩ := dropRoots_only s.restartWork
  obtain ⟨pm, sl, se, hf⟩ := flushed_only s
  unfold State.asleep
  rw [hr]
  refine ⟨rfl, rfl, rfl, rfl, rfl, ?_, ?_, rfl⟩
  · simp only [State.restartWork, hf]
  · simp only [State.restartWork, hf]

/-! ## Bring-up (01 R32, 04 R136) -/

theorem takeWhile_length {α : Type} {p : α → Bool} {l : List α} {n : Nat} (hn : n ≤ l.length) (hp : ∀ j (hj : j < n), p (l[j]'(by omega)) = true)
    (hf : ∀ h : n < l.length, p l[n] = false) : (l.takeWhile p).length = n := by
  induction l generalizing n with
  | nil => exact (Nat.le_zero.mp hn).symm
  | cons a l ih =>
    cases n with
    | zero =>
      have ha : p a = false := hf (by simp)
      simp [ha]
    | succ n =>
      have ha : p a = true := hp 0 (by omega)
      have hl := ih (n := n) (by simpa using hn) (fun j hj => hp (j + 1) (by omega)) (fun h => hf (by simpa using h))
      simp [ha, hl]

/-- The first stage that does not verify, or whose version is below the floor, ends the count. -/
theorem stagesPassed_eq {floor : Nat} {v : Vector (Nat × Bool) 7} {n : Nat} (hn : n ≤ 7) (hp : ∀ j : Fin 7, j.val < n → v[j].2 = true ∧ floor ≤ v[j].1)
    (hf : ∀ j : Fin 7, j.val = n → v[j].2 = false ∨ v[j].1 < floor) : stagesPassed floor v.toList = n := by
  refine takeWhile_length (by simpa using hn) (fun j hj => ?_) (fun h => ?_)
  · have hj' := hp ⟨j, by omega⟩ hj
    simpa using hj'
  · have hj' := hf ⟨n, by simpa using h⟩ rfl
    rcases hj' with h1 | h1
    · simp only [Fin.getElem_fin] at h1
      simp [h1]
    · simp only [Fin.getElem_fin] at h1
      simp [Nat.not_le.mpr h1]

/-- The module with its identity key, its floor and the measurements of the stages that verified. -/
def State.measured (s : State) (o : BringUpOutcome) : State :=
  { s with
    power := .p0, bootFloor := max s.bootFloor o.floor, identity := some Sys2Proof.Config.identityKey
    errors := s.health.errors, throttles := s.health.throttles
    healthReg := s.healthReg - BitVec.ofNat 64 (bits s.healthReg.toNat 12 16 * 2 ^ 12)
    meas := bootMeasured s.meas (stagesPassed (max s.bootFloor o.floor) o.stages.toList) }

theorem evPowerGood_stage {s : State} {o : BringUpOutcome} (hb : s.bringUp = .notStarted)
    (hk : stagesPassed (max s.bootFloor o.floor) o.stages.toList < 7) : evPowerGood o s = some { s.measured o with bringUp := .heldInReset 0 } := by
  simp only [evPowerGood, hb, ne_eq, not_true_eq_false, if_false, hk, if_true]
  rfl

theorem evPowerGood_step {s : State} {o : BringUpOutcome} {k : Fin 3} (hb : s.bringUp = .notStarted)
    (hk : stagesPassed (max s.bootFloor o.floor) o.stages.toList = 7) (ho : o.failed = some k) :
    evPowerGood o s = some { s.measured o with bringUp := .heldInReset k } := by
  simp only [evPowerGood, hb, ne_eq, not_true_eq_false, if_false, hk, Nat.lt_irrefl, ho, State.measured]

theorem evPowerGood_late {s : State} {o : BringUpOutcome} (hb : s.bringUp = .notStarted)
    (hk : stagesPassed (max s.bootFloor o.floor) o.stages.toList = 7) (ho : o.failed = none) :
    evPowerGood o s = some ((s.measured o).bringUpLate o) := by
  simp only [evPowerGood, hb, ne_eq, not_true_eq_false, if_false, hk, Nat.lt_irrefl, ho, State.measured]

/-- The late steps change the record and the map, the time, and the links of the record. -/
theorem bringUpLate_eq (s : State) (o : BringUpOutcome) : ∃ u v, RecordOnly s u ∧ LinksOnly (u.setTime o.time) v ∧
    s.bringUpLate o = { v with bringUp := .up, tdis := v.tdis.map Tdi.boot } := by
  unfold State.bringUpLate
  extract_lets t v
  have ht : RecordOnly s t := by
    unfold t
    split
    · exact recordOnly_record s _
    · exact .refl s
  exact ⟨t.remap, v, ht.trans (recordOnly_remap t), linksOnly_deadFromRecord _, rfl⟩

theorem bootMeasured_get (m : Vector (BitVec 384) 8) (k : Nat) (j : Fin 8) :
    (bootMeasured m k)[j] = if j.val < k then Sys2Proof.Config.measure m[j] (Sys2Proof.Config.stageDigest j.val) else m[j] := by
  simp [bootMeasured]

theorem tdis_boot_get (v : Vector Tdi 16) (k : Fin 16) : (v.map Tdi.boot)[k].state = if v[k].live then .error else .unlocked := by
  simp [Tdi.boot]

/-- What the late steps keep, and what they do to the interfaces and the counter. -/
theorem bringUpLate_keeps (s : State) (o : BringUpOutcome) : (s.bringUpLate o).bringUp = .up ∧ (s.bringUpLate o).power = s.power ∧
    (s.bringUpLate o).bootFloor = s.bootFloor ∧ (s.bringUpLate o).identity = s.identity ∧ (s.bringUpLate o).meas = s.meas ∧
    (∀ k : Fin 16, (s.bringUpLate o).tdis[k].state = if s.tdis[k].live then .error else .unlocked) ∧
    (∀ x, o.time = some x → (s.bringUpLate o).wcc = (if s.wcc < s.aligned x then s.aligned x else s.wcc) ∧ (s.bringUpLate o).locked = true) ∧
    (o.time = none → (s.bringUpLate o).wcc = s.wcc ∧ (s.bringUpLate o).locked = false) := by
  obtain ⟨u, v, hu, hv, hlate⟩ := bringUpLate_eq s o
  obtain ⟨_, _, _, _, _, _, _, _, _, _, rfl⟩ := hu
  obtain ⟨rs, es, rfl⟩ := hv
  rw [hlate]
  cases o.time with
  | none => exact ⟨rfl, rfl, rfl, rfl, rfl, fun k => tdis_boot_get s.tdis k, nofun, fun _ => ⟨rfl, rfl⟩⟩
  | some x =>
    refine ⟨rfl, rfl, rfl, rfl, rfl, fun k => tdis_boot_get s.tdis k, fun y hy => ?_, nofun⟩
    rw [← Option.some.inj hy]
    exact ⟨rfl, rfl⟩

/-- Settles O47: each event's guard holds under the hypotheses; what the sessions, the flush and the late steps leave gives the rest. -/
theorem powerStates : Obligations.PowerStates := by
  unfold Obligations.PowerStates
  refine ⟨fun s o hb ho hall => ?late, fun s o hb hk => ?stage, fun s o k hb hall ho => ?step, fun s hp ht => ?p0, fun s hp => ?p1,
    fun s hc hs hr => ?s1, fun s hp => ?exit1, fun s hc hs => ?s3, fun s x hp => ?exit3, fun s hp => ?exitNone, fun s i hi => ?off,
    fun s hc ht => ?throttle, fun s ht => ?recover⟩
  case late =>
    have hk := stagesPassed_eq (Nat.le_refl 7) (fun j _ => hall j) (fun j hj => absurd j.isLt (by omega))
    obtain ⟨hup, hpower, hfloor, hid, hm, htdis, hsome, hnone⟩ := bringUpLate_keeps (s.measured o) o
    refine makes_outside rfl (evPowerGood_late hb hk ho) ⟨hup, hpower, hfloor, hid, fun j => ?_, htdis, hsome, hnone⟩
    have hmeas := bootMeasured_get s.meas 7 j
    rw [← hk] at hmeas
    rw [hm]
    exact hmeas.trans (by rw [hk])
  case stage =>
    obtain ⟨k, hbad, hgood⟩ := hk
    have hn : ∀ k : Fin 7, (o.stages[k].2 = false ∨ o.stages[k].1 < max s.bootFloor o.floor) →
        (∀ j : Fin 7, j < k → o.stages[j].2 = true ∧ max s.bootFloor o.floor ≤ o.stages[j].1) →
        stagesPassed (max s.bootFloor o.floor) o.stages.toList = k := fun k hbad hgood =>
      stagesPassed_eq (by omega) hgood fun j hj => Fin.ext hj ▸ hbad
    refine makes_outside rfl (evPowerGood_stage hb ((hn k hbad hgood).symm ▸ k.isLt)) ⟨rfl, rfl, rfl, fun k' hbad' hgood' j => ?_⟩
    rw [← hn k' hbad' hgood']
    exact bootMeasured_get _ _ j
  case step =>
    have hk := stagesPassed_eq (Nat.le_refl 7) (fun j _ => hall j) (fun j hj => absurd j.isLt (by omega))
    exact makes_outside rfl (evPowerGood_step hb hk ho) ⟨rfl, rfl, rfl⟩
  case p0 => exact outside_some (by simp [evEnterP0, hp, ht])
  case p1 => exact outside_some (by simp [evEnterP1, hp])
  case s1 =>
    have hidle : (s.cores.all fun x => !x.2.running) = true := List.all_eq_true.mpr fun x hx => by simp [hr x hx]
    refine makes_outside (t := { s.endSessions with power := .s1 }) rfl (by simp [evEnterS1, State.runs, hc, hs, hidle]) ⟨rfl, fun hreply => ?_⟩
    obtain ⟨co, cs, td, he, _⟩ := endSessions_only hreply
    rw [he]
    exact ⟨rfl, rfl⟩
  case exit1 => exact outside_some (by simp [evExitS1, hp, State.runState])
  case s3 =>
    have hruns : (s.runs || s.power == .s1) = true := by simpa [State.runs] using hc
    obtain ⟨hpower, hmsgs, hreqs, hwalks, hpmem, hregions, hwcc, hcores⟩ := asleep_of s.endSessions
    refine makes_outside (t := s.endSessions.asleep) rfl (by simp [evEnterS3, hruns, hs])
      ⟨hpower, hmsgs, hreqs, hwalks, fun x hx => ?_, fun hreply hlines => ?_⟩
    · rw [hcores] at hx
      obtain ⟨y, _, rfl⟩ := List.mem_map.mp hx
      exact ⟨rfl, rfl, rfl⟩
    · obtain ⟨co, cs, td, he, _⟩ := endSessions_only hreply
      rw [he] at hpmem hregions hwcc ⊢
      have hflush : ({ s with cores := co, ctxs := cs, tdis := td } : State).flushed.pmem = s.pmem := flushed_pmem hlines
      exact ⟨hpmem.trans hflush, hregions, hwcc⟩
  case exit3 => exact makes_outside rfl (if_pos hp) ⟨rfl, rfl, rfl, rfl⟩
  case exitNone => exact makes_outside rfl (if_pos hp) ⟨rfl, rfl, rfl⟩
  case off =>
    have hoff : exec i s = .next s.unpowered := by
      rcases hi with ⟨rfl, hp⟩ | ⟨rfl, hp⟩
      · exact outside_some (if_neg hp)
      · exact outside_some (if_pos hp)
    refine ⟨s.unpowered, hoff, rfl, rfl, rfl, rfl, rfl, rfl, rfl, rfl, rfl, rfl, fun k => ?_⟩
    simp [State.unpowered]
  case throttle => exact outside_some (by simp [evThermalThrottle, State.runs, hc, ht])
  case recover => exact outside_some (by simp [evThermalRecover, ht])

end Sys2Proof.Machine
end

section
/-! Health and service (00 R4, 01 R33 to R43, 02 R69, 08 R250): scrubbing, tests and failures of one core, the record and the restart. -/

namespace Sys2Proof.Machine

/-! ## Maps, routers and cores -/

theorem lookupD_putKey {κ α : Type} [DecidableEq κ] (d : α) (l : List (κ × α)) (k : κ) (x : α) : lookupD d (putKey l k x) k = x := by
  induction l with
  | nil => simp [putKey, lookupD]
  | cons a l ih =>
    obtain ⟨j, y⟩ := a
    by_cases h : j = k
    · simp [putKey, lookupD, h]
    · simp [putKey, lookupD, h, ih]

theorem router_onRouter (s : State) (n : Nat) (f : Router → Router) : (s.onRouter n f).router n = f (s.router n) := by
  simp [State.router, State.onRouter, State.setRouter, assoc_set_self]

theorem coreOr_of {s : State} {n : Nat} {c : Core} (h : s.core n = some c) : s.coreOr n = c := by simp [State.coreOr, h]

theorem onCores_one {s : State} {n : Nat} {c : Core} (h : s.core n = some c) (f : Nat → Core → Core) : s.onCores [n] f = s.setCore n (f n c) := by
  simp [State.onCores, coreOr_of h]

/-- A core's own number is its test number: no spare stands behind it. -/
theorem spareRow_core {n : Nat} (h : n < 12960) : spareRow n = none := if_neg (by simp only [Sys2Proof.Config.cores]; omega)
theorem testNum_core (s : State) {n : Nat} (h : n < 12960) : s.testNum n = n := by simp only [State.testNum, spareRow_core h]
theorem tested_core (s : State) {n : Nat} (h : n < 12960) : s.tested n = [n] := by simp only [State.tested, spareRow_core h]
theorem physical_core (s : State) {n : Nat} (h : n < 12960) : s.physical n = s.inForce.map.physOf n := by simp only [State.physical, spareRow_core h]

/-! ## The record with a core dead -/

/-- A record with a core dead has the core dead, and changes nothing but the record and what is made from it. -/
theorem recordDead_only (s : State) (p : Nat) : ∃ h g e a w, s.recordDead p =
    { s with health := h, healthGen := g, healthSeal := e, asked := a, healthReg := w } ∧ h.dead.contains p = true := by
  fun_cases State.recordDead s p
  · exact ⟨_, _, _, _, _, rfl, ‹_›⟩
  · exact ⟨_, _, _, _, _, rfl, List.contains_iff_mem.mpr (List.mem_append_right _ (List.mem_singleton_self p))⟩

/-! ## A core that has not frozen in time -/

/-- Cancelling what a core has outstanding leaves it no request and no token. -/
theorem cancelAll_clears (s : State) (n : Nat) : (∀ r ∈ (s.cancelAll n).reqs, r.agent ≠ .core n) ∧ ∀ k ∈ (s.cancelAll n).tokens, k.core ≠ n := by
  unfold State.cancelAll
  refine ⟨fun r hr => ?_, fun k hk => ?_⟩
  · simpa using (List.mem_filter.mp hr).2
  · simpa using (List.mem_filter.mp hk).2

/-! ## A test that could not begin -/

/-- A core that is not idle 100 ms after its withdrawal is back in service with one more skip; the third in a row is an event. -/
theorem evSelftestSkip_core {s : State} {n : Nat} {c : Core} {x : Word} (hn : s.core n = some c) (hlt : n < 12960) (ht : s.testable n = true)
    (hx : assoc s.withdrawals n = some x) (hlong : 100000000 ≤ (s.wcc - x).toNat) (hidle : s.idle n = false) :
    ∃ co w, evSelftestSkip n s = some { s with cores := co, withdrawals := w, mgmt := s.mgmt ++ if c.skips = 2 then [.skipped n] else [] } ∧
      assoc co n = some { c with withdrawn := s.outForGood n c, skips := if c.skips = 2 then 0 else c.skips + 1 } := by
  have hlate : s.notIdleInTime n = true := by
    simp only [State.notIdleInTime, hx, Option.any_some, tested_core s hlt, List.all_cons, hidle, testPatience, hlong, decide_true]
    rfl
  have hback : s.readmit n = { s.setCore n { c with withdrawn := s.outForGood n c } with withdrawals := dropKey s.withdrawals n } := by
    simp only [State.readmit, tested_core s hlt, onCores_one hn]
    rfl
  have hcore : (s.readmit n).core n = some { c with withdrawn := s.outForGood n c } := by
    rw [hback]
    exact core_setCore s n _
  have hskips : ∀ k : Nat, (s.readmit n).onCores [n] (fun _ d => { d with skips := k }) =
      (s.readmit n).setCore n { c with withdrawn := s.outForGood n c, skips := k } := fun k => onCores_one hcore _
  simp only [evSelftestSkip, testNum_core s hlt, ht, hlate, spareRow_core hlt, State.skipsOf, coreOr_of hn, hskips, Bool.and_self, if_true,
    show (c.skips + 1 = 3) = (c.skips = 2) from propext (by omega)]
  rw [hback]
  by_cases h3 : c.skips = 2
  · simp only [h3, if_true]
    exact ⟨_, _, rfl, assoc_set_self _ n _⟩
  · simp only [h3, if_false, List.append_nil]
    exact ⟨_, _, rfl, assoc_set_self _ n _⟩

/-! ## A test that ends, and a core that fails -/

/-- A test's end gives the core its contents back; a core that fails it is recorded dead. -/
theorem evSelftestDone_core {s : State} {n : Nat} {c : Core} {m : Memory} {a : List (Nat × Lane)} (pass : Bool) (hn : s.core n = some c) (hlt : n < 12960)
    (ht : c.testing = true) (hh : c.holding = some (m, a)) : ∃ h g e k w co, evSelftestDone n pass s =
      some { s with health := h, healthGen := g, healthSeal := e, asked := k, healthReg := w, cores := co } ∧
      assoc co n = some { c with testing := false, holding := none, spad := m, acc := a, withdrawn := !pass || s.outForGood n c } ∧
      (pass = true → h = s.health) ∧ (pass = false → h.dead.contains (s.physical n) = true) := by
  have hunder : s.underTest n = true := by simp only [State.underTest, spareRow_core hlt, hn, Option.any_some, ht]
  simp only [evSelftestDone, testNum_core s hlt, hunder, if_true, spareRow_core hlt]
  cases pass with
  | true =>
    simp only [if_true, tested_core s hlt, onCores_one hn, Core.endTest, hh]
    exact ⟨_, _, _, _, _, _, rfl, assoc_set_self _ n _, fun _ => rfl, nofun⟩
  | false =>
    obtain ⟨h, g, e, k, w, hdead, hmem⟩ := recordDead_only s (s.physical n)
    have hout : (s.recordDead (s.physical n)).outForGood n c = true := by
      rw [hdead, State.outForGood, Bool.or_eq_true]
      exact .inr hmem
    have hnu : (s.recordDead (s.physical n)).core n = some c := by
      rw [hdead]
      exact hn
    simp only [Bool.false_eq_true, if_false, tested_core _ hlt, onCores_one hnu, Core.endTest, hh, hout]
    rw [hdead]
    exact ⟨_, _, _, _, _, _, rfl, assoc_set_self _ n _, nofun, fun _ => hmem⟩

theorem islanded_of_routers {s t : State} (h : t.routers = s.routers) (n : Nat) : t.islanded n = s.islanded n := by
  simp only [State.islanded, State.router, h]

/-- A core that fails in service, its router still linked, leaves dispatch, is asked to freeze and is recorded dead. -/
theorem evFailedInService_core {s : State} {n : Nat} {c : Core} (hn : s.core n = some c) (hlt : n < 12960) (hf : c.failed = false)
    (hz : c.frozen = false) (ht : c.testing = false) (ho : c.out = false) (hi : s.islanded n = false) : ∃ h g e k w co, evFailedInService n s =
      some { s with health := h, healthGen := g, healthSeal := e, asked := k, healthReg := w, cores := co } ∧
      assoc co n = some { c with withdrawn := true, failed := true, freezeReq := true } ∧ h.dead.contains (s.physical n) = true := by
  obtain ⟨h, g, e, k, w, hdead, hmem⟩ := recordDead_only s (s.physical n)
  have hguard : ¬ (Sys2Proof.Config.cores ≤ n ∨ (s.core n).any (fun c => c.failed) = true) := by
    rw [hn, Option.any_some, hf, show Sys2Proof.Config.cores = 12960 from rfl]
    simpa using hlt
  have hnu : (s.recordDead (s.physical n)).core n = some c := by
    rw [hdead]
    exact hn
  have hrouters : (s.recordDead (s.physical n)).routers = s.routers := by rw [hdead]
  have hask : ({ c with withdrawn := true, failed := true } : Core).askFreeze = { c with withdrawn := true, failed := true, freezeReq := true } := by
    simp only [Core.askFreeze, hz, ht, ho, Bool.or_self, Bool.false_eq_true, if_false]
  have hlinked : ∀ d, ¬ ((s.recordDead (s.physical n)).setCore n d).islanded n = true := fun d => by
    rw [islanded_of_routers (t := (s.recordDead (s.physical n)).setCore n d) hrouters, hi]
    exact Bool.false_ne_true
  simp only [evFailedInService, if_neg hguard, onCores_one hnu, hask, if_neg (hlinked _)]
  rw [hdead]
  exact ⟨_, _, _, _, _, _, rfl, assoc_set_self _ n _, hmem⟩

/-! ## The restart -/

/-- What the end of the module's work leaves: no traffic, its contexts and its cores as the restart makes them, and memory as the flush leaves it. -/
theorem restartWork_of (s : State) : s.restartWork.inForce = s.inForce ∧ s.restartWork.caps = s.caps ∧ s.restartWork.msgs = [] ∧
    s.restartWork.reqs = [] ∧ s.restartWork.walks = [] ∧ s.restartWork.pmem = s.flushed.pmem ∧ s.restartWork.ctxs = s.ctxs.map Ctx.restarted ∧
    ∀ x ∈ s.restartWork.cores, x.2.firing = none ∧ x.2.lts = s.wcc.toNat / 128 := by
  obtain ⟨pm, sl, se, hflush⟩ := flushed_only s
  unfold State.restartWork
  rw [hflush]
  refine ⟨rfl, rfl, rfl, rfl, rfl, rfl, rfl, fun x hx => ?_⟩
  obtain ⟨y, _, rfl⟩ := List.mem_map.mp hx
  exact ⟨rfl, rfl⟩

/-- Roots and links dropped change roots, tokens, routers and events only. -/
theorem dropRoots_reroute_only (s : State) : ∃ ro tk rs es, s.dropRoots.reroute = { s with roots := ro, tokens := tk, routers := rs, events := es } := by
  obtain ⟨rs, es, hroute⟩ := linksOnly_reroute s.dropRoots
  obtain ⟨ro, tk, hroots⟩ := dropRoots_only s
  rw [hroute, hroots]
  exact ⟨ro, tk, rs, es, rfl⟩

theorem remap_force (s : State) : s.remap.inForce = { s.health.with_ s.defects with map := healthMap (s.health.with_ s.defects) } ∧
    s.remap.caps = capsWord (s.health.with_ s.defects) (healthMap (s.health.with_ s.defects)) s.economy ∧ s.remap.slices = s.slices ∧
    s.remap.pmem = s.pmem ∧ s.remap.ctxs = s.ctxs ∧ s.remap.wcc = s.wcc := by
  obtain ⟨h, g, e, f, ho, pa, ca, a, w, co, hmap⟩ := recordOnly_remap s
  have hkeep : s.remap.slices = s.slices ∧ s.remap.pmem = s.pmem ∧ s.remap.ctxs = s.ctxs ∧ s.remap.wcc = s.wcc := by
    rw [hmap]
    exact ⟨rfl, rfl, rfl, rfl⟩
  refine ⟨?_, ?_, hkeep⟩
  · unfold State.remap
    extract_lets h m w _ t
    rfl
  · unfold State.remap
    extract_lets h m w _ t
    rfl

theorem ctx_restarted (k : Ctx) : (k.state = .parked → k.restarted.state = .parked) ∧ (k.state = .empty → k.restarted.state = .empty) ∧
    (k.state ≠ .parked → k.state ≠ .empty → k.restarted.state = .faulted) := by
  cases h : k.state <;> simp [Ctx.restarted, h]

/-- A restart is the map built anew and the end of the work; the roots and the links it drops change neither. -/
theorem restart_makes {s : State} (hc : s.clocked = true) : Makes .configurationRestart s fun t =>
    t.inForce = { s.health.with_ s.defects with map := healthMap (s.health.with_ s.defects) } ∧
    t.caps = capsWord (s.health.with_ s.defects) (healthMap (s.health.with_ s.defects)) s.economy ∧
    t.msgs = [] ∧ t.reqs = [] ∧ t.walks = [] ∧
    ((∀ x ∈ s.slices, ∀ l ∈ x.2.lines, l.dirty = true ∨ l.home = none) → t.pmem = s.pmem) ∧
    (∀ k : Fin 8, (s.ctxs[k].state = .parked → t.ctxs[k].state = .parked) ∧ (s.ctxs[k].state = .empty → t.ctxs[k].state = .empty) ∧
      (s.ctxs[k].state ≠ .parked → s.ctxs[k].state ≠ .empty → t.ctxs[k].state = .faulted)) ∧
    ∀ x ∈ t.cores, x.2.firing = none ∧ x.2.lts = s.wcc.toNat / 128 := by
  obtain ⟨hforce, hcaps, hslices, hpmem, hctxs, hwcc⟩ := remap_force s
  obtain ⟨h1, h2, h3, h4, h5, h6, h7, h8⟩ := restartWork_of s.remap
  obtain ⟨ro, tk, rs, es, hr⟩ := dropRoots_reroute_only s.remap.restartWork
  have hk : ∀ k : Fin 8, s.remap.restartWork.ctxs[k] = s.ctxs[k].restarted := fun k => by simp [h7, hctxs]
  rw [hforce] at h1
  rw [hcaps] at h2
  rw [hwcc] at h8
  have h6' : (∀ x ∈ s.slices, ∀ l ∈ x.2.lines, l.dirty = true ∨ l.home = none) → s.remap.restartWork.pmem = s.pmem := fun hl =>
    h6.trans ((flushed_pmem (hslices ▸ hl)).trans hpmem)
  clear hforce hcaps hslices hpmem hctxs hwcc h6 h7
  have hev : evConfigurationRestart s = some s.remap.restartWork.dropRoots.reroute := rfl
  rw [hr] at hev
  generalize s.remap.restartWork = u at *
  refine makes_event rfl hc hev ⟨h1, h2, h3, h4, h5, h6', fun k => ?_, h8⟩
  rw [show ({ u with roots := ro, tokens := tk, routers := rs, events := es } : State).ctxs[k] = s.ctxs[k].restarted from hk k]
  exact ctx_restarted s.ctxs[k]

/-! ## The record's two other writes -/

theorem newRecord_makes (s : State) (r : HealthRecord) : Makes (.newHealthRecord r) s fun t => t.health = r ∧ t.healthGen = s.healthGen + 1 ∧
    t.inForce = s.inForce ∧ t.caps = s.caps ∧ t.asked = r.reasons := by
  have h : ∃ e w er th, evNewHealthRecord r s = some { s with
      health := r, healthGen := s.healthGen + 1, healthSeal := e, healthReg := w, asked := r.reasons, errors := er, throttles := th } :=
    ⟨_, _, _, _, rfl⟩
  obtain ⟨e, w, er, th, hr⟩ := h
  exact makes_outside rfl hr ⟨rfl, rfl, rfl, rfl, rfl⟩

theorem record_only (s : State) (h : HealthRecord) : ∃ r e a w, s.record h =
    { s with health := r, healthGen := s.healthGen + 1, healthSeal := e, asked := a, healthReg := w } ∧ r.cxlOut = h.cxlOut ∧
      r.deadLinks = h.deadLinks := ⟨_, _, _, _, rfl, rfl, rfl⟩

theorem deepTierLoss_makes {s : State} {l : Fin 8} (hc : s.clocked = true) (he : s.economy = false) (hl : l ∉ s.health.cxlOut) :
    Makes (.deepTierLoss l) s fun t => t.lostCxl = s.lostCxl ++ [l] ∧ t.health.cxlOut = s.health.cxlOut ++ [l] ∧ t.healthGen = s.healthGen + 1 ∧
      t.caps = s.caps := by
  have hup : ¬ (s.economy || s.health.cxlOut.contains l) = true := by simp [he, hl]
  obtain ⟨r, e, a, w, hrec, hr, _⟩ := record_only s { s.health with cxlOut := s.health.cxlOut ++ [l] }
  have hev : evDeepTierLoss l s = some { s with
      health := r, healthGen := s.healthGen + 1, healthSeal := e, asked := a, healthReg := w, lostCxl := s.lostCxl ++ [l] } := by
    rw [evDeepTierLoss, if_neg hup, hrec]
  exact makes_event rfl hc hev ⟨rfl, hr, rfl, rfl⟩

/-- Settles O49: each event's guard holds under the hypotheses; a core's own number stands for itself alone, and the restart is what its parts leave. -/
theorem healthAndService : Obligations.HealthAndService := by
  unfold Obligations.HealthAndService
  refine ⟨fun s x hc => ?scrub, fun s a hc => ?memory, fun s n e l hc hb => ?entry, fun s n c hc hn hlt ht hw hwait => ?withdraw,
    fun s n c hc hn hlt ht hw hany hidle => ?start, fun s n c x hc hn hlt ht hx hlong hidle => ?skip, fun s n c m a pass hc hn hlt ht hh => ?done,
    fun s n c hc hn hlt hf hz ht ho hi => ?failed, fun s n c hc hn hf hz ho hfi hst => ?timeout, fun s r => ?record,
    fun s l hc he hl => ?deep, fun s hc => ?restart⟩
  case scrub => exact makes_event rfl hc rfl ⟨lookupD_putKey 0 s.errCounts _ _, rfl, rfl⟩
  case memory => exact makes_event rfl hc rfl ⟨fun l => by simp [State.uncorrectable, joined], rfl⟩
  case entry =>
    refine makes_event rfl hc (by rw [evConfigEntryRewritten, hb]; rfl) ⟨?_, rfl⟩
    rw [show ∀ t : State, ({ t with mgmt := t.mgmt ++ [.configEntry n] } : State).router n = t.router n from fun _ => rfl, router_onRouter, hb]
    rfl
  case withdraw =>
    refine event_some hc ?_
    simp only [evSelftestWithdraw, testNum_core s hlt, ht, hwait, spareRow_core hlt, hn, Option.any_some, hw, State.withdraw, tested_core s hlt,
      onCores_one hn]
    rfl
  case start =>
    refine event_some hc ?_
    simp only [evSelftestStart, testNum_core s hlt, ht, hw, hany, spareRow_core hlt, tested_core s hlt, List.all_cons, List.all_nil, hidle,
      onCores_one hn]
    rfl
  case skip =>
    obtain ⟨co, w, hr, hco⟩ := evSelftestSkip_core hn hlt ht hx hlong hidle
    exact makes_event rfl hc hr ⟨hco, rfl⟩
  case done =>
    obtain ⟨h, g, e, k, w, co, hr, hco, hpass, hdead⟩ := evSelftestDone_core pass hn hlt ht hh
    exact makes_event rfl hc hr ⟨hco, hpass, hdead⟩
  case failed =>
    obtain ⟨h, g, e, k, w, co, hr, hco, hdead⟩ := evFailedInService_core hn hlt hf hz ht ho hi
    exact makes_event rfl hc hr ⟨hco, hdead⟩
  case timeout =>
    have hguard : (c.failed && !c.frozen && !c.out) = true := by simp [hf, hz, ho]
    refine makes_event rfl hc (by simp only [evFreezeTimeout, hn, hguard, if_true, hfi, hst, Option.toList, List.nil_append, List.foldl]; rfl) ?_
    obtain ⟨hreqs, htokens⟩ := cancelAll_clears s n
    exact ⟨⟨_, core_setCore _ n _, rfl, rfl⟩, hreqs, htokens⟩
  case record => exact newRecord_makes s r
  case deep => exact deepTierLoss_makes hc he hl
  case restart => exact restart_makes hc

end Sys2Proof.Machine
end

section
/-! Links and frames (02 R71, R72, 03 R79, R108 to R111): what a dead link's ends and boxes hold, and what a peer's link keeps. -/

namespace Sys2Proof.Machine

/-! ## Keyed lists -/

theorem findFin_filter_append {n : Nat} {α : Type} (l : List (Fin n × α)) (p : Fin n) (x : α) :
    findFin (l.filter (fun y => y.1 ≠ p) ++ [(p, x)]) p = some x := by
  induction l with
  | nil => simp [findFin]
  | cons a l ih =>
    by_cases h : a.1 = p
    · simpa [List.filter_cons, h] using ih
    · simpa [List.filter_cons, h, findFin] using ih

/-! ## The ends of a link -/

theorem router_onRouter_ne (s : State) {n m : Nat} (f : Router → Router) (h : m ≠ n) : (s.onRouter n f).router m = s.router m := by
  simp only [State.router, State.onRouter, State.setRouter, assoc_set_ne _ _ h]

theorem router_onRouter_eq (s : State) (n m : Nat) (f : Router → Router) :
    (s.onRouter n f).router m = if m = n then f (s.router m) else s.router m := by
  by_cases h : m = n
  · rw [if_pos h, h, router_onRouter]
  · rw [if_neg h, router_onRouter_ne s f h]

/-- A change of each end of a link is what each end's router has: the two ends lie at different routers. -/
theorem ends_router {g : State → Nat × Fin 6 → State} {F : Nat × Fin 6 → Router → Router}
    (hg : ∀ t e n, (g t e).router n = if n = e.1 then F e (t.router n) else t.router n) (s : State) {k : Nat} {e : Nat × Fin 6}
    (he : e ∈ linkEnds k) : ((linkEnds k).foldl g s).router e.1 = F e (s.router e.1) := by
  have hends : ∃ a b, linkEnds k = [a, b] ∧ a.1 ≠ b.1 := by
    unfold linkEnds
    split
    · exact ⟨_, _, rfl, by simp⟩
    · exact ⟨_, _, rfl, by simp [Sys2Proof.Config.cols]⟩
  obtain ⟨a, b, hab, hne⟩ := hends
  rw [hab] at he ⊢
  simp only [List.mem_cons, List.not_mem_nil, or_false] at he
  rcases he with rfl | rfl
  · simp [hg, hne]
  · simp [hg, Ne.symm hne]

/-- A link's end with the box it uses. -/
def boxedAt (second : Bool) (e : Nat × Fin 6) (r : Router) : Router :=
  { r with boxed := r.boxed.filter (fun x => x.1 ≠ e.2) ++ [(e.2, second)], held := r.held.filter (· ≠ e.2) }

/-- A link with a box: each of its ends uses the box. -/
theorem bypass_box {s : State} {k : Nat} {b : Bool}
    (h : (if s.boxFree k false then some false else if s.boxFree k true then some true else none) = some b) {e : Nat × Fin 6} (he : e ∈ linkEnds k) :
    (e.2, b) ∈ ((s.bypass k).router e.1).boxed := by
  have hby : s.bypass k = (linkEnds k).foldl (fun t e => t.onRouter e.1 (boxedAt b e)) s := by
    simp only [State.bypass, h]
    rfl
  rw [hby, ends_router (F := boxedAt b) (fun t e n => router_onRouter_eq t e.1 n _) s he]
  simp [boxedAt]

/-! ## Ports that are dead stay so -/

/-- No router loses or gains a dead port. -/
def DeadKept (s t : State) : Prop := ∀ n, (t.router n).dead = (s.router n).dead

theorem DeadKept.refl (s : State) : DeadKept s s := fun _ => rfl
theorem DeadKept.trans {s t u : State} (h : DeadKept s t) (h' : DeadKept t u) : DeadKept s u := fun n => (h' n).trans (h n)
theorem DeadKept.foldl {β : Type} {g : State → β → State} (hg : ∀ t b, DeadKept t (g t b)) (l : List β) (s : State) :
    DeadKept s (l.foldl g s) := foldl_rel DeadKept.refl DeadKept.trans hg l s

theorem deadKept_onRouter (s : State) (n : Nat) {f : Router → Router} (hf : ∀ r, (f r).dead = r.dead) : DeadKept s (s.onRouter n f) := fun m => by
  rw [router_onRouter_eq]
  split
  · exact hf _
  · rfl

theorem holdPort_router (s : State) (e : Nat × Fin 6) (n : Nat) :
    (s.holdPort e).router n = if n = e.1 then { s.router n with held := withPort (s.router n).held e.2 } else s.router n :=
  router_onRouter_eq s e.1 n fun q => { q with held := withPort q.held e.2 }

theorem deadKept_holdPort (s : State) (e : Nat × Fin 6) : DeadKept s (s.holdPort e) := fun n => by
  rw [holdPort_router]
  split
  · rfl
  · rfl

theorem deadKept_bypass (s : State) (k : Nat) : DeadKept s (s.bypass k) := by
  fun_cases State.bypass s k
  · exact .foldl (fun t (e : Nat × Fin 6) => deadKept_onRouter t e.1 (by intro r; rfl)) _ s
  · exact .foldl (fun t (e : Nat × Fin 6) => (deadKept_onRouter t e.1 (by intro r; rfl)).trans (deadKept_holdPort _ e)) _ s

theorem deadKept_rebypass (s : State) (k : Nat) : DeadKept s (s.rebypass k) := by
  unfold State.rebypass
  extract_lets lost t
  have ht : DeadKept s t := .foldl (fun u _ => .foldl (fun v (e : Nat × Fin 6) => deadKept_onRouter v e.1 (by intro r; rfl)) _ u) lost s
  exact ht.trans (.foldl (fun u b => deadKept_bypass u b.1) lost t)

theorem contains_withPort (l : List (Fin 6)) (p : Fin 6) : (withPort l p).contains p = true := by
  unfold withPort
  split
  · assumption
  · simp

/-- A link that is killed is dead at both its ends. -/
theorem killLink_dead (s : State) {k : Nat} {e : Nat × Fin 6} (he : e ∈ linkEnds k) : ((s.killLink k).router e.1).dead.contains e.2 = true := by
  unfold State.killLink
  rw [(deadKept_bypass _ k).trans (deadKept_rebypass _ k) e.1, ends_router (F := fun e r => { r with dead := withPort r.dead e.2 })
    (fun t e n => router_onRouter_eq t e.1 n _) s he]
  exact contains_withPort _ _

/-- A link's death changes the record by its port, routers and events, and kills the link. -/
theorem evLinkDead_only {s : State} {n : Nat} {p : Fin 6} {k : Nat} (hk : linkOf n p = some k) (hd : s.linkIsDead k = false)
    (hf : s.linkFails n p = true) : ∃ u h e a w es, evLinkDead n p s = some (u.killLink k) ∧ h.deadLinks = joined s.health.deadLinks [(n, p)] ∧
      u = { s with health := h, healthGen := s.healthGen + 1, healthSeal := e, asked := a, healthReg := w, events := es } := by
  obtain ⟨r, e, a, w, hrec, _, hr⟩ := record_only s { s.health with deadLinks := joined s.health.deadLinks [(n, p)] }
  simp only [evLinkDead, hk, hd, hf, Bool.not_true, Bool.or_self, Bool.false_eq_true, if_false, State.recordLink, hrec]
  exact ⟨_, r, e, a, w, _, rfl, hr, rfl⟩

/-! ## Links of peers -/

theorem peerLink_names (s : State) (peer : Fin 4096) (cls : Fin 6) : (s.peerLink peer cls).peer = peer ∧ (s.peerLink peer cls).cls = cls := by
  unfold State.peerLink
  cases h : s.peers.find? fun l => decide (l.peer = peer ∧ l.cls = cls) with
  | none => exact ⟨rfl, rfl⟩
  | some l => simpa using List.find?_some h

theorem peerLink_setPeer (s : State) (l : PeerLink) : (s.setPeer l).peerLink l.peer l.cls = l := by
  have hnone : (s.peers.filter fun x => !(decide (x.peer = l.peer ∧ x.cls = l.cls))).find? (fun x => decide (x.peer = l.peer ∧ x.cls = l.cls)) =
      none := List.find?_eq_none.mpr fun x hx => by simpa [Decidable.imp_iff_not_or] using (List.mem_filter.mp hx).2
  simp only [State.peerLink, State.setPeer, List.find?_append, hnone]
  simp

theorem peerLink_set {s : State} {l : PeerLink} {peer : Fin 4096} {cls : Fin 6} (hp : l.peer = peer) (hc : l.cls = cls) :
    (s.setPeer l).peerLink peer cls = l := by
  rw [← hp, ← hc, peerLink_setPeer]

/-- What stands at a place after flits have come in changes the messages only. -/
theorem flow_only (s : State) (q : Place) (m : Msg) (gone x : Nat) : ∃ ms, s.flow q m gone x = { s with msgs := ms } := by
  unfold State.flow
  split
  · exact ⟨_, rfl⟩
  · exact ⟨_, rfl⟩

theorem flow_new {s : State} {q : Place} {m : Msg} (gone x : Nat) (h : s.coming q m = none) :
    (s.flow q m gone x).msgs = s.msgs ++ [{ place := q, msg := m, lacks := m.body.flits - gone - x, gone }] := by
  unfold State.flow
  rw [h]

/-- A message that comes from a peer, its link set, leaves the link and memory, and stands at its place where nothing of it stood there before. -/
theorem peerFlow {s : State} {l : PeerLink} {q : Place} {m : Msg} {peer : Fin 4096} {cls : Fin 6} (x : Nat) (hl : (s.setPeer l).peerLink peer cls = l) :
    ((s.setPeer l).flow q m 0 x).peerLink peer cls = l ∧ ((s.setPeer l).flow q m 0 x).pmem = s.pmem ∧
      (s.coming q m = none → ((s.setPeer l).flow q m 0 x).msgs = s.msgs ++ [{ place := q, msg := m, lacks := m.body.flits - x }]) := by
  obtain ⟨ms, hms⟩ := flow_only (s.setPeer l) q m 0 x
  refine ⟨?_, ?_, fun h => ?_⟩
  · rw [hms]
    exact hl
  · rw [hms]
    rfl
  · exact flow_new (s := s.setPeer l) 0 x h

theorem event_none {s : State} {r : Option State} (h : r = none) : event r s = .next s := by
  rw [event, h]
  exact ite_self _

/-- Settles O50: a dead link's ends lie at different routers, and what bypasses it leaves dead ports as they are; a peer's link is found by its
names. -/
theorem linksAndFrames : Obligations.LinksAndFrames := by
  unfold Obligations.LinksAndFrames
  refine ⟨fun s n p k hc hk hd => ?retry, fun s n p k hc hk hd hf => ?dead, fun s n p hr ha => ?lives, fun s k hb e he => ?north,
    fun s k hb hb' e he => ?south, fun s k hb hb' e he => ?hold, fun s p f hc he hp hdst hcls h1 h16 hall hpsn => ?frame,
    fun s p f hpsn => ?other, fun s p peer cls hc he hp hun => ?resend, fun s peer hc hl => ?lost⟩
  case retry =>
    refine makes_event rfl hc (by simp only [evRetryRequest, hk, hd]; rfl) ?_
    refine ⟨?_, rfl, rfl⟩
    rw [router_onRouter, Router.retriesAt, findFin_filter_append]
    rfl
  case dead =>
    have hfails : s.linkFails n p = true := by simpa [State.linkFails] using hf
    obtain ⟨u, h, e, a, w, es, hev, hlinks, hu⟩ := evLinkDead_only hk hd hfails
    obtain ⟨rs, es', hkill⟩ := linksOnly_killLink u k
    refine makes_event rfl hc hev ⟨fun e he => killLink_dead u he, ?_⟩
    rw [hkill, hu]
    exact ⟨fun e => by simp [hlinks, joined], rfl, rfl, rfl⟩
  case lives =>
    have hfails : s.linkFails n p = false := by simpa [State.linkFails] using ⟨hr, ha⟩
    refine event_none ?_
    rw [evLinkDead, hfails]
    split
    · rfl
    · simp
  case north => exact bypass_box (by rw [if_pos hb]) he
  case south => exact bypass_box (by rw [if_neg (by simp [hb]), if_pos hb']) he
  case hold =>
    simp only [State.bypass, hb, hb', Bool.false_eq_true, if_false]
    rw [ends_router (F := fun e r => { r with boxed := r.boxed.filter fun x => x.1 ≠ e.2, held := withPort r.held e.2 }) (fun t e n => ?_) s he]
    · exact List.contains_iff_mem.mp (contains_withPort _ _)
    · rw [holdPort_router, router_onRouter_eq]
      split
      · rfl
      · rfl
  case frame =>
    obtain ⟨hpeer, hcl⟩ := peerLink_names s f.src f.cls
    have hup : s.portUp p = true := by simp [State.portUp, he, hp]
    have hguard : (s.portUp p && f.dst == s.modNum && f.cls == f.msg.cls && frameWhole f && f.psn == (s.peerLink f.src f.cls).expected) = true := by
      simp [hup, hdst, ← hcls, frameWhole, h1, h16, hall, ← hpsn]
    refine makes_event rfl hc (by rw [evFrameReceive, if_pos hguard]) ?_
    obtain ⟨hlink, hpmem, hnew⟩ := peerFlow (s := s) (q := .peer p f.src) (m := fromPeer f.src f.msg) f.nflit
      (peerLink_set (l := { s.peerLink f.src f.cls with
        expected := (s.peerLink f.src f.cls).expected + 1, unacked := unackedAfter f.ack (s.peerLink f.src f.cls).unacked }) hpeer hcl)
    rw [hlink]
    exact ⟨by rw [hpsn], rfl, hpmem, hnew⟩
  case other =>
    refine event_none ?_
    have hguard : (f.psn == (s.peerLink f.src f.cls).expected) = false := by simpa using hpsn
    rw [evFrameReceive, hguard, Bool.and_false]
    rfl
  case resend =>
    obtain ⟨hpeer, hcl⟩ := peerLink_names s peer cls
    have hup : s.portUp p = true := by simp [State.portUp, he, hp]
    have hsome : (s.peerLink peer cls).unacked.isEmpty = false := by simpa using hun
    refine makes_event rfl hc (by rw [evFrameResendTimeout, hup, hsome]; rfl) ?_
    refine ⟨rfl, ?_⟩
    rw [peerLink_set]
    · exact hpeer
    · exact hcl
  case lost => exact event_some hc (by rw [evPeerLost, if_neg (by simpa using hl)])

end Sys2Proof.Machine
end

section
/-! Names at routers and gates (03 R82 to R92, R103, 05 R153, R154, 14 R394, R396): messages that go on whole, and tiles that a gate takes. -/

namespace Sys2Proof.Machine

/-! ## The first message with a property -/

theorem takeMsg_append {q : Flying → Bool} {pre post : List Flying} {f : Flying} (hf : q f = true) (hpre : ∀ x ∈ pre, ¬ q x = true) :
    takeMsg q (pre ++ f :: post) = some (f, pre ++ post) := by
  induction pre with
  | nil => simp [takeMsg, hf]
  | cons y pre ih =>
    have hy : ¬ q y = true := hpre y (by simp)
    simp [takeMsg, hy, ih fun x hx => hpre x (List.mem_cons_of_mem y hx)]

theorem takeMsg_of_first {s : State} {q : Flying → Bool} {f : Flying} {rest : List Flying} (h : FirstMsg s (fun x => q x = true) f rest) :
    takeMsg q s.msgs = some (f, rest) := by
  obtain ⟨hf, pre, post, hs, rfl, hpre⟩ := h
  rw [hs]
  exact takeMsg_append hf hpre

theorem mem_swapMsg_none {f x : Flying} {l : List Flying} (h : x ∈ swapMsg f none l) : x ∈ l := by
  induction l with
  | nil => exact h
  | cons y l ih =>
    unfold swapMsg at h
    split at h
    · exact List.mem_cons_of_mem y h
    · rcases List.mem_cons.mp h with rfl | h
      · exact List.mem_cons_self
      · exact List.mem_cons_of_mem y (ih h)

/-- A queue that no message comes into stays so where one goes. -/
theorem coming_swap {s : State} {q : Place} {m : Msg} (f : Flying) (h : s.coming q m = none) :
    ({ s with msgs := swapMsg f none s.msgs } : State).coming q m = none := by
  unfold State.coming at h ⊢
  rw [List.find?_eq_none] at h ⊢
  exact fun x hx => h x (mem_swapMsg_none hx)

/-! ## Messages that go on whole -/

theorem foldl_add_ge {α : Type} (w : α → Nat) (l : List α) (n : Nat) : n ≤ l.foldl (fun k x => k + w x) n := by
  induction l generalizing n with
  | nil => exact Nat.le_refl n
  | cons a l ih => exact Nat.le_trans (Nat.le_add_right n (w a)) (ih _)

theorem tile_flits_pos (t : Tile) : 0 < t.flits := foldl_add_ge (fun b : Burst => b.flits) t.bursts 1

/-- A message that stands whole, none of it gone, has all its flits where it is. -/
theorem flits_of_whole {f : Flying} (h : f.lacks = 0 ∧ f.gone = 0 ∧ f.drop = false) : f.flits = f.msg.body.flits := by
  obtain ⟨hl, hg, hd⟩ := h
  simp [Flying.flits, hl, hg, hd]

/-- What a router's output that leads straight to a neighbour takes lies beyond no other port. -/
theorem Clear.port {s : State} {n : Nat} {m : Msg} {o : Fin 6} {k : Nat} (h : Clear s n m o k) : o ≠ 0 ∧ o ≠ 5 := by
  have hn := h.next
  constructor
  · rintro rfl
    nomatch hn
  · rintro rfl
    nomatch hn

theorem Clear.beyond {s : State} {n : Nat} {m : Msg} {o : Fin 6} {k : Nat} (h : Clear s n m o k) : s.beyond n o = some (.input k (opposite o)) := by
  simp only [State.beyond, h.direct, h.next, Option.map_some]

/-- The module after a whole message has gone to a neighbour by a router's output. -/
def State.passed (s : State) (n : Nat) (f : Flying) (o : Fin 6) (k : Nat) : State :=
  (({ s with msgs := swapMsg f none s.msgs ++ [{ place := .input k (opposite o), msg := f.msg }] } : State).onRouter n
    fun r => r.crossed o s.wcc).moved n

theorem goOn_clear {s : State} {n : Nat} {f : Flying} {o : Fin 6} {k : Nat} (hw : f.lacks = 0 ∧ f.gone = 0 ∧ f.drop = false)
    (hpos : 0 < f.msg.body.flits) (hc : Clear s n f.msg o k) : s.goOn n f [o] = some (s.passed n f o k, f.msg.body.flits, true) := by
  obtain ⟨_, h5⟩ := hc.port
  have hno : ¬ ([o].contains 5) = true := by simpa using Ne.symm h5
  have hx : min f.msg.body.flits (s.credit n f.msg o) = f.msg.body.flits := Nat.min_eq_left hc.credit
  have hbeyond : ({ s with msgs := swapMsg f none s.msgs } : State).beyond n o = some (.input k (opposite o)) := hc.beyond
  have hcoming : (({ s with msgs := swapMsg f none s.msgs } : State).onRouter n fun r => r.crossed o s.wcc).coming (.input k (opposite o)) f.msg = none :=
    coming_swap f hc.fresh
  have hflits := flits_of_whole hw
  obtain ⟨hl, hg, _⟩ := hw
  simp only [State.goOn, if_neg hno, State.pour, List.foldl, hflits, hx, Nat.ne_of_gt hpos, if_false, hl, beq_self_eq_true, Bool.and_self,
    if_true, State.sendAll, State.send, hbeyond, State.flow, hcoming, Option.map_some, hg, Nat.sub_zero, Nat.sub_self]
  rfl

theorem passed_router (s : State) (n : Nat) (f : Flying) (o : Fin 6) (k : Nat) :
    (s.passed n f o k).router n = { (s.router n).crossed o s.wcc with moved := (s.router n).moved + 1 } := by
  rw [State.passed, State.moved, router_onRouter, router_onRouter]
  rfl

/-- A message that takes no output ends where it stands. -/
theorem goOn_nowhere {s : State} {n : Nat} {f : Flying} (hw : f.lacks = 0 ∧ f.gone = 0 ∧ f.drop = false) (hpos : 0 < f.msg.body.flits) :
    s.goOn n f [] = some (({ s with msgs := swapMsg f none s.msgs } : State).moved n, f.flits, true) := by
  have hflits : f.flits ≠ 0 := by
    rw [flits_of_whole hw]
    exact Nat.ne_of_gt hpos
  simp only [State.goOn, List.contains_nil, Bool.false_eq_true, if_false, State.pour, List.foldl, hflits, hw.1, beq_self_eq_true, Bool.and_self, if_true,
    State.sendAll, Option.map_some]

/-- A core's message that its router's local queue takes whole has left the core. -/
theorem inject_whole {s : State} {n : Nat} {m : Msg} (d : Core) (hcom : s.coming (.input n 0) m = none) (hroom : m.body.flits ≤ s.space (.input n 0) m)
    (hpos : 0 < m.body.flits) :
    s.inject n m d = some (({ s with msgs := s.msgs ++ [{ place := .input n 0, msg := m }] } : State).setCore n d, true) := by
  have hx : min (s.space (.input n 0) m) m.body.flits = m.body.flits := Nat.min_eq_right hroom
  simp only [State.inject, State.lacking, hcom, hx, Nat.ne_of_gt hpos, if_false, beq_self_eq_true, if_true, State.flow, Nat.sub_zero, Nat.sub_self]

/-- The router of a tile kept has it in its mirror, and nothing else changed. -/
theorem keepFlits_router (s : State) (n : Nat) (x : Tile) (head : Bool) (k : Nat) (last : Bool) : (s.keepFlits n x head k last).router n =
    { s.router n with mirror := (growMirror (s.mirrorKeeps n x) (s.mirrorBlocks n)
        (if head then openMirror (s.mirrorKeeps n x) (s.router n).mirror x else (s.router n).mirror) x k last) } := by
  rw [State.keepFlits, router_onRouter]

theorem serve_router (s : State) (n : Nat) (p : Pair) (t : Tile) (to_ : Requester) : ((s.serve n p t to_).router n).waiting = (s.router n).waiting := by
  show (((s.onRouter n fun r => { r with mirror := touchMirror r.mirror p }).moved n).router n).waiting = _
  rw [State.moved, router_onRouter, router_onRouter]

theorem serve_msgs (s : State) (n : Nat) (p : Pair) (t : Tile) (to_ : Requester) : (s.serve n p t to_).msgs = s.msgs ++
    [{ place := .source n 0, msg := { cls := 0, cpl := (s.router n).plane, source := n, body := .reply t to_ } }] := rfl

/-- A router that matches its configuration the same way has as many free blocks. -/
theorem mirrorBlocks_congr {s t : State} {n : Nat} (hparts : t.parts = s.parts) (hplane : (t.router n).plane = (s.router n).plane) :
    t.mirrorBlocks n = s.mirrorBlocks n := by
  simp only [State.mirrorBlocks, State.cfgAt, State.partOf, hparts, hplane]

/-! ## Channels -/

/-- The message at the head of an open channel goes first. -/
theorem channel_heads {s t : State} {n : Nat} {ch : Chan} {cls : Fin 6} {queued enters : Option State} (hd : ch.detour = false)
    (hb : s.blockedByGate n ch.port cls ch.lane = false) (hq : queued = some t) : s.channel n ch cls queued enters = some t := by
  rw [State.channel, hd, hb, hq]
  rfl

/-! ## Mirrors -/

/-- A tile whose flits all come at once into an empty mirror with room stands there, and in one that keeps nothing it does not. -/
theorem growMirror_whole {keep : MirrorTile → Bool} {cap : Nat} {x : Tile} (kept : Bool) (h : x.flits ≤ cap) :
    growMirror keep cap (if kept then openMirror keep [] x else []) x x.flits true =
      if kept then [{ tile := x, stored := true, got := x.flits }] else [] := by
  cases kept with
  | false => rfl
  | true => simp [openMirror, evict, growMirror, mirrorUsed, h]

theorem growMirror_empty {keep : MirrorTile → Bool} {cap : Nat} {x : Tile} {k : Nat} {last : Bool} : growMirror keep cap [] x k last = [] := rfl

/-! ## Gates -/

theorem gate_id {s : State} {g : GateId} {x : Gate} (h : s.gate g = some x) : x.id = g := by
  simpa using List.find?_some h

theorem find?_map_gate {g : GateId} {x : Gate} (f : Gate → Gate) {l : List Gate} (h : l.find? (fun y => y.id = g) = some x) (hid : (f x).id = g) :
    (l.map fun y => if y.id = g then f y else y).find? (fun y => y.id = g) = some (f x) := by
  induction l with
  | nil => nomatch h
  | cons y l ih =>
    by_cases hy : y.id = g
    · have hyx : y = x := by simpa [hy] using h
      simp [hyx ▸ hy, hyx, hid]
    · simpa [hy] using ih (by simpa [hy] using h)

theorem gate_onGate {s : State} {g : GateId} {x : Gate} (f : Gate → Gate) (h : s.gate g = some x) (hid : (f x).id = g) :
    (s.onGate g f).gate g = some (f x) := by
  simpa [State.gate, State.onGate] using find?_map_gate f h hid

theorem accept_id {g d : Gate} {t : Task} {pinned : PenTile → Bool} {x : Tile} (h : g.accept t pinned x = some d) : d.id = g.id := by
  unfold Gate.accept at h
  extract_lets h' d' at h
  split at h
  · split at h
    · rw [← Option.some.inj h]
      rfl
    · nomatch h
  · nomatch h

/-- The first tile that a gate holds, and takes, is taken. -/
theorem acceptHeld_first {s t : State} {g : Gate} {pre post : List Flying} {f : Flying} {q : Fin 6} {tl : Tile} (hpl : f.place = .held g.id q)
    (hb : bodyTile f.msg.body = some tl) (ht : ({ s with msgs := s.msgs.erase f } : State).acceptTile g tl = some t)
    (hpre : ∀ x ∈ pre, ∀ p, x.place ≠ .held g.id p) : s.acceptHeld g (pre ++ f :: post) = some (t.moved (s.gateRouter g.id)) := by
  induction pre with
  | nil => simp only [List.nil_append, State.acceptHeld, hpl, hb, if_true, ht]
  | cons y pre ih =>
    have hy := hpre y (by simp)
    have ih := ih fun x hx => hpre x (List.mem_cons_of_mem y hx)
    rw [List.cons_append, State.acceptHeld]
    split
    · next h _ _ hp _ =>
      have hne : h ≠ g.id := fun he => hy _ (he ▸ hp)
      rw [if_neg hne, ih]
    · exact ih

/-! ## Configuration writes -/

/-- The module once a router's write of the shadow plane has been taken. -/
def State.writeTaken (s : State) (n : Nat) (rest : List Flying) : State :=
  match s.partOf n with
  | some (i, _) => (({ s with msgs := rest } : State).moved n).onPart i fun q =>
      { q with writes := q.writes.filter (· ≠ n), complete := q.complete || (!q.writes.isEmpty && q.writes.all (· == n) && s.awaited i) }
  | none => ({ s with msgs := rest } : State).moved n

/-- A write taken leaves events and the plane, and no more waits for it in a partition that holds its router. -/
theorem writeTaken_of (s : State) (n : Nat) (rest : List Flying) : (s.writeTaken n rest).msgs = rest ∧ (s.writeTaken n rest).events = s.events ∧
    ((s.writeTaken n rest).router n).plane = (s.router n).plane ∧
    ∀ i q, s.parts = [(i, q)] → q.has n = true → ∃ x, (s.writeTaken n rest).parts = [(i, x)] ∧ x.writes = q.writes.filter (· ≠ n) := by
  have hplane : ((({ s with msgs := rest } : State).moved n).router n).plane = (s.router n).plane := by
    rw [State.moved, router_onRouter]
    rfl
  unfold State.writeTaken
  cases hp : s.partOf n with
  | none =>
    refine ⟨rfl, rfl, hplane, fun i q hparts hq => ?_⟩
    simp [State.partOf, hparts, hq] at hp
  | some p =>
    refine ⟨rfl, rfl, hplane, fun i q hparts hq => ?_⟩
    have hi : p.1 = i := by
      simp [State.partOf, hparts, hq] at hp
      rw [← hp]
    simp only [State.onPart, State.moved, State.onRouter, State.setRouter, hparts, List.map_cons, List.map_nil, hi, if_true]
    exact ⟨_, rfl, rfl⟩

theorem settle_subs (l : List Iter) (n : Nat) {i : Iter} (h : i ∈ (settle n l).2) : ∃ j ∈ l, i.subs = j.subs := by
  induction l generalizing n with
  | nil => nomatch h
  | cons j l ih =>
    unfold settle at h
    split at h
    all_goals
      rcases List.mem_cons.mp h with hij | h
      · exact ⟨j, List.mem_cons_self, by rw [hij]⟩
      · obtain ⟨j', hj, hs⟩ := ih _ h
        exact ⟨j', List.mem_cons_of_mem j hj, hs⟩

/-- A pair that failed is waited for no more, and what the gate asked for and its name stay. -/
theorem resolve_failed (g : Gate) (p : Pair) (code : Byte) : (g.resolve p (.failed code)).id = g.id ∧ (g.resolve p (.failed code)).asked = g.asked ∧
    (g.resolve p (.failed code)).needs p = false := by
  refine ⟨rfl, rfl, List.any_eq_false.mpr fun i hi hneeds => ?_⟩
  obtain ⟨j, hj, hsubs⟩ := settle_subs _ _ hi
  obtain ⟨j', _, rfl⟩ := List.mem_map.mp hj
  obtain ⟨x, hx, hwait⟩ := List.any_eq_true.mp hneeds
  rw [hsubs] at hx
  obtain ⟨y, _, rfl⟩ := List.mem_map.mp hx
  split at hwait
  · simp at hwait
  · next hne => exact hne (by simpa [and_assoc] using hwait)

/-- Settles O51: each message's judgement passes it to its case; a whole message goes on whole. -/
theorem namesAtRouters : Obligations.NamesAtRouters := by
  unfold Obligations.NamesAtRouters
  refine ⟨fun s n ch f tl e o k hc hh hb hj he hp hcl => ?goes, fun s n ch f tl hc hh hb hj he hp hsrc => ?ends,
    fun s n lane c tl d hc hf hsrc hn hw hbad hhead hback hcom hroom => ?own, fun s n ch f a b to_ tl hc hh hb hj hpr => ?served,
    fun s n ch f a b to_ hc hh hb hj hpr => ?waits, fun s n ch f a b to_ o k hc hh hb hj hpr hfp hcl => ?forward,
    fun s n m l a b to_ g tl hc hw hb hpr => ?resume, fun s n f rest pl r hc hf hb => ?write, fun s c x k f rest a b code hc hf hb hj hk hw => ?missCore,
    fun s g x f rest a b code hc hf hb hj hg => ?missGate, fun s g x f q tl rest k hc hg ha hj he hl ht => ?tile,
    fun s g x f q tl rest hc hg ha hj he ht => ?end_, fun s g x f q tl rest k d hc hg hf hpl hbt ht hacc => ?held⟩
  case goes =>
    have hpos : 0 < f.msg.body.flits := by
      rw [hb]
      exact tile_flits_pos tl
    have hgone : f.gone = 0 := hh.whole.2.1
    have houts : s.pubOuts n f tl = [o] := by simp only [State.pubOuts, hgone, ne_eq, not_true_eq_false, if_false, he, Option.elim, hp]
    have hkeeps : s.keeps n ch.port f.msg tl = e.keep := by simp only [State.keeps, he]
    have h0 : [o].contains 0 = false := by simpa using Ne.symm hcl.port.1
    have hq : s.pubQueued n ch.port ch.lane = some ((s.passed n f o k).keepFlits n tl e.keep f.msg.body.flits true) := by
      simp only [State.pubQueued, hh.first, Option.bind_some, hh.whole.2.2, hb, hgone, hj, State.pubStep, houts, goOn_clear hh.whole hpos hcl,
        Option.map_some, hkeeps, h0]
      rfl
    refine makes_event rfl hc (channel_heads hh.direct hh.open_ hq) ?_
    refine ⟨rfl, ?_, fun hm hroom => ?_⟩
    · rw [keepFlits_router, passed_router]
    · rw [keepFlits_router, passed_router]
      have hflits : f.msg.body.flits = tl.flits := by
        rw [hb]
        rfl
      have hcap : (s.passed n f o k).mirrorBlocks n = s.mirrorBlocks n := mirrorBlocks_congr rfl (by rw [passed_router]; rfl)
      rw [hflits, hcap, show ((s.router n).crossed o s.wcc).mirror = [] from hm]
      exact growMirror_whole e.keep hroom
  case ends =>
    have hgone : f.gone = 0 := hh.whole.2.1
    have houts : s.pubOuts n f tl = [] := by simp only [State.pubOuts, hgone, ne_eq, not_true_eq_false, if_false, he, Option.elim]
    have hkeeps : s.keeps n ch.port f.msg tl = false := by simp [State.keeps, he, hp, hsrc]
    have hq : s.pubQueued n ch.port ch.lane = some ((({ s with msgs := swapMsg f none s.msgs } : State).moved n).keepFlits n tl false f.flits true) := by
      simp only [State.pubQueued, hh.first, Option.bind_some, hh.whole.2.2, hb, hgone, hj, State.pubStep, houts, goOn_nowhere hh.whole (hb ▸ tile_flits_pos tl),
        Option.map_some, hkeeps]
      rfl
    refine makes_event rfl hc (channel_heads hh.direct hh.open_ hq) ?_
    refine ⟨rfl, fun hm => ?_⟩
    rw [keepFlits_router, State.moved, router_onRouter]
    simp only [show (({ s with msgs := swapMsg f none s.msgs } : State).router n).mirror = [] from hm]
    rfl
  case own =>
    have hq : s.pubQueued n 0 lane = none := by rw [State.pubQueued, hf]; rfl
    have hnone : s.sourceIn n 0 0 lane = none := by
      have hfind : (s.msgs.find? fun f => f.msg.cls == 0 && f.msg.lane == lane && s.atSource n 0 f) = none :=
        List.find?_eq_none.mpr fun f hmem => by simp [hsrc f hmem]
      rw [State.sourceIn, hfind]
      rfl
    have hpub : s.pubOfCore n = some ({ cls := 0, cpl := (s.router n).plane, source := n, body := .publication tl none }, tl, d) := by
      simp only [State.pubOfCore, hn, hw, hbad, hhead, Option.isNone_none, Bool.and_self, if_true, Option.map_some]
    have hin := inject_whole d hcom hroom (tile_flits_pos tl)
    have hev : evPublicationArrival n { port := 0, lane } s = some (State.moved (State.setCore { s with msgs := s.msgs ++
        [{ place := .input n 0, msg := { cls := 0, cpl := (s.router n).plane, source := n, body := .publication tl none } }] } n d) n) := by
      simp only [evPublicationArrival, State.channel, hq, hnone, State.pubEnters, hpub, hin, hback, ite_self, Option.map_some, Bool.and_false]
      rfl
    refine makes_event rfl hc hev ?_
    exact ⟨core_setCore _ n d, rfl⟩
  case served =>
    have hq : s.requestQueued n ch.port ch.lane = some (({ s with msgs := swapMsg f none s.msgs } : State).serve n (a, b) tl to_) := by
      simp only [State.requestQueued, hh.first, Option.bind_some, hb, hj, State.request, hpr]
      rfl
    refine makes_event rfl hc (channel_heads hh.direct hh.open_ hq) ?_
    rfl
  case waits =>
    have hq : s.requestQueued n ch.port ch.lane = some ((({ s with msgs := swapMsg f none s.msgs } : State).onRouter n fun r =>
        { r with waiting := r.waiting ++ [f.msg] }).moved n) := by
      simp only [State.requestQueued, hh.first, Option.bind_some, hb, hj, State.request, hpr]
      rfl
    refine makes_event rfl hc (channel_heads hh.direct hh.open_ hq) ?_
    refine ⟨rfl, ?_⟩
    rw [State.moved, router_onRouter, router_onRouter]
    rfl
  case forward =>
    obtain ⟨h0, h5⟩ := hcl.port
    have hpos : 0 < f.msg.body.flits := by
      rw [hb]
      exact Nat.one_pos
    have hout : ¬ (o = 0 ∨ (o ≠ 5 ∧ (neighbour n o).isNone = true)) := by simp [h0, hcl.next]
    have hq : s.requestQueued n ch.port ch.lane = some (s.passed n f o k) := by
      simp only [State.requestQueued, hh.first, Option.bind_some, hb, hj, State.request, hpr, State.forward, hfp, if_neg hout,
        goOn_clear hh.whole hpos hcl, Option.map_some, h5, if_false]
      rfl
    refine makes_event rfl hc (channel_heads hh.direct hh.open_ hq) ?_
    rfl
  case resume =>
    have hev : evRequestResume n s = some ((s.onRouter n fun r => { r with waiting := l }).serve n (a, b) tl to_) := by
      simp only [evRequestResume, hw, takeWaiting, hb, hpr, if_true]
    refine makes_event rfl hc hev ?_
    refine ⟨?_, ?_⟩
    · rw [serve_router, router_onRouter]
    · rw [serve_msgs, router_onRouter]
      rfl
  case write =>
    have htake := takeMsg_of_first hf
    refine ⟨fun hpl => ?_, fun hpl => ?_⟩
    · have hev : evConfigWrite n s = some (s.writeTaken n rest) := by
        simp only [evConfigWrite, htake, Option.bind_some, hb, if_neg hpl]
        rfl
      refine makes_event rfl hc hev ?_
      exact writeTaken_of s n rest
    · refine event_some hc ?_
      simp only [evConfigWrite, htake, Option.bind_some, hb, if_pos hpl]
  case missCore =>
    have hn : ({ s with msgs := rest } : State).core c = some k := hk
    have hev : evMissReplyArrival (.core c x) s = some (State.moved (State.setCore { s with msgs := rest } c (k.missFetch x code)) c) := by
      simp only [evMissReplyArrival, takeMsg_of_first hf, hb, hj, State.coreEvent, hn, hw, if_true, State.applyAll, Option.map_some]
    refine makes_event rfl hc hev ?_
    exact ⟨rfl, _, core_setCore _ c _, rfl⟩
  case missGate =>
    have htake := takeMsg_of_first hf
    have hev : evMissReplyArrival (.gate g) s = some (State.moved (State.onGate { s with msgs := rest } g fun x =>
        ({ x with asked := x.asked.filter (· ≠ (a, b)) } : Gate).resolve (a, b) (.failed code)) (s.gateRouter g)) := by
      simp only [evMissReplyArrival, htake, hb, hj]
    refine makes_event rfl hc hev ?_
    obtain ⟨hid, hasked, hneeds⟩ := resolve_failed { x with asked := x.asked.filter (· ≠ (a, b)) } (a, b) code
    refine ⟨rfl, _, gate_onGate (s := { s with msgs := rest }) _ hg (show Gate.id _ = g from hid.trans (show x.id = g from gate_id hg)), ?_, hneeds⟩
    rw [hasked]
    simp
  case tile =>
    have hid := gate_id hg
    have htask : ({ s with msgs := rest } : State).taskOf x.id = some k := by
      rw [hid]
      exact ht
    have hev : evGateTileArrival g s = (match ({ s with msgs := rest } : State).acceptTile x tl with
         | some y => some (y.moved (s.gateRouter g))
         | none => some (({ s with msgs := rest } : State).post (.held g q) f.msg)) := by
      simp only [evGateTileArrival, hg, ha, hj, he, hl]
      rfl
    have hpins : ({ s with msgs := rest } : State).pins x.id = s.pins g := by
      rw [hid]
      rfl
    rw [State.acceptTile, htask, hpins] at hev
    refine ⟨fun d hd => ?_, fun hnone => ?_⟩
    · simp only [hd, Option.map_some, hid] at hev
      refine makes_event rfl hc hev ?_
      exact ⟨rfl, gate_onGate (s := { s with msgs := rest }) _ hg ((accept_id hd).trans hid)⟩
    · simp only [hnone, Option.map_none] at hev
      exact event_some hc hev
  case end_ =>
    have hid := gate_id hg
    have htakes : ({ s with msgs := rest } : State).takesEnd x (tensorOf tl.name, f.msg.source) = true := ht
    have hev : evGateTileArrival g s = some ((({ s with msgs := rest } : State).onGate g fun x =>
        { x with ended := x.ended ++ [(tensorOf tl.name, f.msg.source)] }).moved (s.gateRouter g)) := by
      simp only [evGateTileArrival, hg, ha, hj, he, State.countEnd, htakes, hid]
      rfl
    refine makes_event rfl hc hev ?_
    exact ⟨rfl, _, gate_onGate (s := { s with msgs := rest }) _ hg hid, rfl⟩
  case held =>
    obtain ⟨_, pre, post, hs, rfl, hpre⟩ := hf
    have hid := gate_id hg
    have hmem : f ∉ pre := fun hf => hpre f hf ⟨q, hpl⟩
    have hrest : s.msgs.erase f = pre ++ post := by
      rw [hs, List.erase_append_right _ hmem, List.erase_cons_head]
    have htaken : ({ s with msgs := s.msgs.erase f } : State).acceptTile x tl = some (({ s with msgs := pre ++ post } : State).onGate x.id fun _ => d) := by
      have hacc' : x.accept k (({ s with msgs := pre ++ post } : State).pins x.id) tl = some d := by
        rw [hid]
        exact hacc
      have ht' : ({ s with msgs := pre ++ post } : State).taskOf x.id = some k := by
        rw [hid]
        exact ht
      simp only [hrest, State.acceptTile, ht', hacc', Option.map_some]
    have hev : evHeldTileAccept g s = some ((({ s with msgs := pre ++ post } : State).onGate x.id fun _ => d).moved (s.gateRouter x.id)) := by
      simp only [evHeldTileAccept, hg]
      rw [hs]
      exact acceptHeld_first (hid ▸ hpl) hbt htaken fun y hy p hp => hpre y hy ⟨p, hid ▸ hp⟩
    refine makes_event rfl hc hev ?_
    rw [hid]
    exact ⟨rfl, gate_onGate (s := { s with msgs := pre ++ post }) _ hg ((accept_id hacc).trans hid)⟩

end Sys2Proof.Machine
end

section
/-! Gates and firings (05 R149 to R168, 11 R331, 14 R395, R398): what the walker, the dispatch, the barriers and a retirement leave of a gate and of
a core. -/

namespace Sys2Proof.Machine

/-! ## Gates beside the one changed -/

theorem find?_map_other {g g' : GateId} (h : g ≠ g') (f : Gate → Gate) (hid : ∀ y, (f y).id = y.id) (l : List Gate) :
    (l.map fun y => if y.id = g' then f y else y).find? (fun y => y.id = g) = l.find? (fun y => y.id = g) := by
  induction l with
  | nil => rfl
  | cons y l ih =>
    by_cases hy : y.id = g'
    · have hne : ¬ g' = g := fun e => h e.symm
      simp [hy, hid, hne, ih]
    · by_cases hg : y.id = g
      · simp [hg, h]
      · simp [hy, hg, ih]

theorem gate_onGate_ne (s : State) {g g' : GateId} (h : g ≠ g') (f : Gate → Gate) (hid : ∀ y, (f y).id = y.id) : (s.onGate g' f).gate g = s.gate g := by
  by_cases hc : g'.ctx = g.ctx
  · obtain ⟨c, k⟩ := g
    obtain ⟨c', k'⟩ := g'
    obtain rfl : c' = c := hc
    simpa [State.gate, State.onGate] using find?_map_other h f hid s.ctxs[c'].gates
  · have hne : g'.ctx.val ≠ g.ctx.val := fun e => hc (Fin.ext e)
    simp [State.gate, State.onGate, Vector.getElem_set_ne _ _ hne]

/-- A gate is as it was, but for the herds it holds. -/
def GateHeld (g : GateId) (s t : State) : Prop := ∀ x, s.gate g = some x → ∃ h, t.gate g = some { x with holdTags := h }

theorem GateHeld.refl (g : GateId) (s : State) : GateHeld g s s := fun x hx => ⟨x.holdTags, hx⟩
theorem GateHeld.trans {g : GateId} {s t u : State} (h : GateHeld g s t) (h' : GateHeld g t u) : GateHeld g s u := fun x hx => by
  obtain ⟨a, ha⟩ := h x hx
  obtain ⟨b, hb⟩ := h' _ ha
  exact ⟨b, hb⟩
/-- What changes no context changes no gate. -/
theorem GateHeld.of_ctxs {g : GateId} {s t : State} (h : t.ctxs = s.ctxs) : GateHeld g s t := fun x hx => ⟨x.holdTags, by rw [State.gate, h]; exact hx⟩

theorem gateHeld_trapped (g : GateId) (s : State) (n : Nat) (t : TrapInfo) : GateHeld g s (s.trapped n t) := by
  unfold State.trapped
  extract_lets u
  have hu : u.ctxs = s.ctxs := rfl
  clear_value u
  split
  · exact .of_ctxs hu
  · extract_lets v
    have hv : v.ctxs = s.ctxs := by
      unfold v
      split
      · exact hu
      · exact hu
    clear_value v
    split
    · next f _ =>
      split
      · refine GateHeld.trans (.of_ctxs hv) fun x hx => ?_
        by_cases hg : g = f.gate
        · have hid := gate_id hx
          rw [← hg, gate_onGate _ hx hid]
          exact ⟨_, rfl⟩
        · rw [gate_onGate_ne v hg _ (by intros; rfl)]
          exact ⟨x.holdTags, hx⟩
      · exact .of_ctxs hv
    · exact .of_ctxs hv

theorem gateHeld_apply (g : GateId) (s : State) (n : Nat) (o : Out) : GateHeld g s (s.apply n o) := by
  fun_cases State.apply s n o
  · exact .of_ctxs rfl
  · exact .refl g s
  · exact .of_ctxs rfl
  · exact .of_ctxs rfl
  · exact gateHeld_trapped g s n _
  · exact .refl g s
  · exact .of_ctxs rfl
  · exact .refl g s
  · exact .refl g s

theorem gateHeld_applyAll (g : GateId) (n : Nat) (os : List Out) (s : State) : GateHeld g s (s.applyAll n os) := by
  induction os generalizing s with
  | nil => exact .refl g s
  | cons o os ih => exact (gateHeld_apply g s n o).trans (ih _)

/-! ## Landings that are issued -/

/-- A firing but for its landings. -/
def Firing.bare (f : Firing) : Firing := { f with landings := [] }

/-- One core is another with its landings issued: entries of the scoreboard, and firings that are the same but for their landings. -/
def Issued (c d : Core) : Prop := ∃ r k φ ψ, d = { c with rsb := r, rsbNext := k, firing := φ, stagedF := ψ } ∧
  φ.map Firing.bare = c.firing.map Firing.bare ∧ ψ.map Firing.bare = c.stagedF.map Firing.bare

theorem Issued.refl (c : Core) : Issued c c := ⟨_, _, _, _, rfl, rfl, rfl⟩
theorem Issued.trans {c d e : Core} (h : Issued c d) (h' : Issued d e) : Issued c e := by
  obtain ⟨_, _, _, _, rfl, h1, h2⟩ := h
  obtain ⟨_, _, _, _, rfl, h3, h4⟩ := h'
  exact ⟨_, _, _, _, rfl, h3.trans h1, h4.trans h2⟩

theorem entries_only (l : List Landing) (c : Core) : ∃ r k, (c.entries l).1 = { c with rsb := r, rsbNext := k } := by
  induction l generalizing c with
  | nil => exact ⟨_, _, rfl⟩
  | cons a l ih =>
    have hr : ∃ r k, (if a.done || a.rsb.isSome then (c, a.rsb) else c.takeEntry .landing none none a.span).1 = { c with rsb := r, rsbNext := k } := by
      split
      · exact ⟨_, _, rfl⟩
      · unfold Core.takeEntry
        split
        · exact ⟨_, _, rfl⟩
        · exact ⟨_, _, rfl⟩
    obtain ⟨r, k, hr⟩ := hr
    obtain ⟨r', k', hrest⟩ := ih { c with rsb := r, rsbNext := k }
    simp only [Core.entries, hr, hrest]
    exact ⟨r', k', rfl⟩

theorem issued_mapFirings {c : Core} {h : Firing → Firing} (hh : ∀ f, (h f).bare = f.bare) : Issued c (c.mapFirings h) := by
  refine ⟨_, _, _, _, rfl, ?_, ?_⟩
  · rw [Option.map_map]
    exact congrArg (fun φ => Option.map φ c.firing) (funext hh)
  · rw [List.map_map]
    exact congrArg (fun φ => List.map φ c.stagedF) (funext hh)

theorem issued_issueAmong (fs before : List Firing) (c : Core) : Issued c (c.issueAmong before fs) := by
  induction fs generalizing c before with
  | nil => exact .refl c
  | cons f fs ih =>
    unfold Core.issueAmong
    split
    · obtain ⟨r, k, hr⟩ := entries_only f.landings c
      have he : Issued c (c.entries f.landings).1 := hr ▸ ⟨_, _, _, _, rfl, rfl, rfl⟩
      refine (he.trans (issued_mapFirings fun x => ?_)).trans (ih _ _)
      split
      · next hx =>
        rw [hx]
        rfl
      · rfl
    · exact ih _ _

theorem issued_issueLandings (c : Core) : Issued c c.issueLandings := issued_issueAmong _ _ c

/-- A firing that begins runs at its ENTRY, in the configured modes. -/
theorem begin_of {f : Firing} (c : Core) (h : f.failed = none) : c.begin f = (c.enter f, [.marked]) := by
  unfold Core.begin
  extract_lets d
  rw [h]

theorem core_moved (s : State) (n m : Nat) : (s.moved n).core m = s.core m := rfl
theorem gate_moved (s : State) (n : Nat) (g : GateId) : (s.moved n).gate g = s.gate g := rfl

/-! ## The dispatch: what its parts leave -/

/-- Cores that have picked differ from what they were in that alone. -/
theorem pickedBy_only (l : List Nat) (s : State) : ∃ co, s.pickedBy l = { s with cores := co } := by
  unfold State.pickedBy
  refine foldl_sound (P := fun t : State => ∃ co, t = { s with cores := co }) ⟨s.cores, rfl⟩ fun t n ht => ?_
  obtain ⟨co, rfl⟩ := ht
  split
  · exact ⟨_, rfl⟩
  · exact ⟨co, rfl⟩

theorem pickedBy_core {l : List Nat} {n : Nat} (h : n ∉ l) (s : State) : (s.pickedBy l).core n = s.core n := by
  unfold State.pickedBy
  refine foldl_mem_sound (P := fun t : State => t.core n = s.core n) rfl fun t m hm ht => ?_
  split
  · exact (core_setCore_ne t _ (show n ≠ m from fun e => h (e ▸ hm))).trans ht
  · exact ht

theorem passOver_only (s : State) (g : GateId) : ∃ k, s.passOver g = { s with ctxs := k } := by
  unfold State.passOver
  split
  · exact ⟨_, rfl⟩
  · split
    · exact ⟨_, rfl⟩
    · split
      · exact ⟨_, rfl⟩
      · exact ⟨_, rfl⟩

theorem passOver_gate (s : State) {g h : GateId} (hne : g ≠ h) : (s.passOver h).gate g = s.gate g := by
  unfold State.passOver
  split
  · rfl
  · split
    · rfl
    · split
      · exact gate_onGate_ne s hne _ (by intros; rfl)
      · exact gate_onGate_ne s hne _ (by intros; rfl)

/-- Offers passed over change contexts only, and not the gate that was chosen. -/
theorem passOthers_only (l : List (Gate × Task)) (g : GateId) (s : State) : ∃ k, s.passOthers g l = { s with ctxs := k } := by
  induction l generalizing s with
  | nil => exact ⟨s.ctxs, rfl⟩
  | cons x l ih =>
    unfold State.passOthers
    split
    · exact ih s
    · obtain ⟨k, hk⟩ := passOver_only s x.1.id
      obtain ⟨k', hk'⟩ := ih (s.passOver x.1.id)
      exact ⟨k', by rw [hk', hk]⟩

theorem passOthers_gate (l : List (Gate × Task)) (g : GateId) (s : State) : (s.passOthers g l).gate g = s.gate g := by
  induction l generalizing s with
  | nil => rfl
  | cons x l ih =>
    unfold State.passOthers
    split
    · exact ih s
    · next h => exact (ih _).trans (passOver_gate s (Ne.symm h))

/-- A rank's firing goes to its core; what the core hands over leaves gates and other cores. -/
theorem give_core {s : State} {n : Nat} {c : Core} (h : s.core n = some c) (g : Gate) (t : Task) (i : Iter) (rank member : Nat) :
    ∃ k q, (s.give g t i rank n member).core n =
      some { (c.take (g.firingOf t c.modes s.ctxs[g.id.ctx].ns i rank member (c.slotOf t))).1 with copies := k, seq := q } := by
  simp only [State.give, State.onCore, h, core_moved]
  exact core_set_applyAll s n _ _

theorem gateHeld_onCore (g : GateId) (s : State) (n : Nat) (f : Env → Core → Core × List Out) : GateHeld g s (s.onCore n f) := by
  unfold State.onCore
  split
  · exact .refl g s
  · extract_lets r
    exact GateHeld.trans (.of_ctxs rfl) (gateHeld_applyAll g n r.2 (s.setCore n r.1))

theorem gateHeld_give (g' : GateId) (s : State) (g : Gate) (t : Task) (i : Iter) (rank n member : Nat) :
    GateHeld g' s (s.give g t i rank n member) := (gateHeld_onCore g' s n _).trans (.of_ctxs rfl)

/-- A core that has firings stages one more; what it runs stays. -/
theorem take_staged {c : Core} (f : Firing) (h : c.firing ≠ none ∨ c.stagedF ≠ []) : (c.take f).1.stagedF.length = c.stagedF.length + 1 ∧
    (c.take f).1.picked = c.picked ∧ (c.take f).1.firing.map Firing.bare = c.firing.map Firing.bare := by
  have hidle : (c.firing.isNone && c.stagedF.isEmpty) = false := by
    rcases h with h | h
    · cases hf : c.firing with
      | none => exact absurd hf h
      | some x => rfl
    · cases hs : c.stagedF with
      | nil => exact absurd hs h
      | cons x l => exact Bool.and_false _
  unfold Core.take
  extract_lets idle d e
  have hi : idle = false := hidle
  have he : Issued d e := issued_issueLandings d
  clear_value idle e
  obtain ⟨_, _, φ, ψ, rfl, h1, h2⟩ := he
  have hlen : ψ.length = c.stagedF.length + 1 := by simpa [d] using congrArg List.length h2
  rw [hi]
  exact ⟨hlen, rfl, h1⟩

/-- An idle core begins what it takes. -/
theorem take_begins {c : Core} {f : Firing} (hf : c.firing = none) (hs : c.stagedF = []) (h : f.failed = none) :
    ∃ e : Firing, (c.take f).1.firing = some { e with state := .running } ∧ e.bare = f.bare ∧ (c.take f).1.issue.pc = f.task.entry ∧
      (c.take f).1.modes = c.cfgModes := by
  unfold Core.take
  extract_lets idle d e
  have hi : idle = true := by simp [idle, hf, hs]
  have he : Issued d e := issued_issueLandings d
  clear_value idle e
  obtain ⟨_, _, φ, ψ, rfl, h1, h2⟩ := he
  have h2' : ψ.map Firing.bare = [f.bare] := by
    rw [h2]
    simp [d, hs]
  obtain ⟨x, rfl, hx⟩ := List.map_eq_singleton_iff.mp h2'
  have hfail : x.failed = none := (congrArg Firing.failed hx : x.bare.failed = f.bare.failed).trans h
  have htask : x.task = f.task := (congrArg Firing.task hx : x.bare.task = f.bare.task)
  simp only [hi, begin_of _ hfail]
  exact ⟨x, rfl, hx, congrArg Task.entry htask, rfl⟩

/-! ## Herds -/

theorem acceptHerd_gate (s : State) (g : GateId) (ns : List Nat) (t : State) : (s.acceptHerd g ns t).gate g = t.gate g := by
  induction ns generalizing t with
  | nil => rfl
  | cons n ns ih =>
    unfold State.acceptHerd
    refine (ih _).trans ?_
    split
    · split
      · exact passOthers_gate _ g _
      · rfl
    · rfl

theorem gateHeld_giveRanks (g' : GateId) (g : Gate) (t : Task) (i : Iter) (ns : List Nat) (k : Nat) (s : State) :
    GateHeld g' s (s.giveRanks g t i k ns) := by
  induction ns generalizing k s with
  | nil => exact .refl g' s
  | cons n ns ih => exact (gateHeld_give g' s g t i k n k).trans (ih _ _)

/-- An iteration that is dispatched has left its gate. -/
theorem dispatched_gate {s : State} {g : GateId} {x y : Gate} (hid : x.id = g) (hy : s.gate g = some y) (i : Iter) :
    (s.dispatched x i).gate g = some { y with iters := y.iters.filter (fun j => j.ordinal ≠ i.ordinal), passed := 0, promoted := none } := by
  rw [State.dispatched, hid]
  have hyid : y.id = g := gate_id hy
  exact gate_onGate _ hy hyid

/-! ## Ports of members -/

theorem firstMember_some {α : Type} {h : Nat → Option α} {l : List Nat} {n : Nat} {x : α} (hf : firstMember h l = some (n, x)) : h n = some x := by
  induction l with
  | nil => nomatch hf
  | cons m l ih =>
    unfold firstMember at hf
    split at hf
    · next y hy =>
      obtain ⟨rfl, rfl⟩ := Prod.mk.inj (Option.some.inj hf)
      exact hy
    · exact ih hf

theorem coreEvent_portDone {s : State} {n : Nat} {c : Core} (h : s.core n = some c) :
    s.coreEvent n (fun c => some (c.portDone none, [])) = some (s.setCore n { c with port := c.port.tail }) := by
  simp only [State.coreEvent, h, State.applyAll]
  rfl

/-! ## Barriers -/

/-- Cores are as they were, but for phases released to them. -/
def Released (s t : State) : Prop := ∀ m, (∀ c, s.core m = some c → ∃ b, c.barRel ≤ b ∧ t.core m = some { c with barRel := b }) ∧
  (s.core m = none → t.core m = none)

theorem Released.refl (s : State) : Released s s := fun _ => ⟨fun c h => ⟨c.barRel, Nat.le_refl _, h⟩, id⟩
theorem Released.trans {s t u : State} (h : Released s t) (h' : Released t u) : Released s u := fun m => by
  refine ⟨fun c hc => ?_, fun hn => (h' m).2 ((h m).2 hn)⟩
  obtain ⟨b, hb, ht⟩ := (h m).1 c hc
  obtain ⟨b', hb', hu⟩ := (h' m).1 _ ht
  exact ⟨b', Nat.le_trans hb hb', hu⟩
theorem Released.of_cores {s t : State} (h : t.cores = s.cores) : Released s t := fun m =>
  ⟨fun c hc => ⟨c.barRel, Nat.le_refl _, by rw [State.core, h]; exact hc⟩, fun hn => by rw [State.core, h]; exact hn⟩

/-- A phase that a core has got stays released. -/
theorem Released.keeps {s t : State} (h : Released s t) {m p : Nat} (hm : ∀ d, s.core m = some d → p ≤ d.barRel) :
    ∀ d, t.core m = some d → p ≤ d.barRel := fun d hd => by
  cases hc : s.core m with
  | none => nomatch hd.symm.trans ((h m).2 hc)
  | some c =>
    obtain ⟨b, hb, ht⟩ := (h m).1 c hc
    rw [← Option.some.inj (ht.symm.trans hd)]
    exact Nat.le_trans (hm c hc) hb

theorem released_setCore {s : State} {n p : Nat} {c : Core} (h : s.core n = some c) : Released s (s.setCore n { c with barRel := max c.barRel p }) :=
  fun m => by
  by_cases hm : m = n
  · rw [hm, h]
    refine ⟨fun d hd => ?_, nofun⟩
    rw [← Option.some.inj hd]
    exact ⟨_, Nat.le_max_left _ _, core_setCore s n _⟩
  · rw [core_setCore_ne s _ hm]
    exact ⟨fun d hd => ⟨d.barRel, Nat.le_refl _, hd⟩, id⟩

theorem mem_assocSet {α : Type} {l : List (Nat × α)} {n : Nat} {x : Nat × α} (y : α) (h : x ∈ l) :
    x ∈ assocSet l n y ∨ (x.1 = n ∧ assoc l n = some x.2 ∧ (n, y) ∈ assocSet l n y) := by
  induction l with
  | nil => nomatch h
  | cons a l ih =>
    obtain ⟨k, z⟩ := a
    by_cases hk : k = n
    · rcases List.mem_cons.mp h with rfl | h
      · exact .inr ⟨hk, by simp [assoc, hk], by simp [assocSet, hk]⟩
      · exact .inl (by simp [assocSet, hk, h])
    · by_cases hlt : n < k
      · exact .inl (by simp only [assocSet, if_neg hk, if_pos hlt]; exact List.mem_cons_of_mem _ h)
      · rcases List.mem_cons.mp h with rfl | h
        · exact .inl (by simp [assocSet, hk, hlt])
        · rcases ih h with h | ⟨h1, h2, h3⟩
          · exact .inl (by simp [assocSet, hk, hlt, h])
          · exact .inr ⟨h1, by simp [assoc, hk, h2], by simp [assocSet, hk, hlt, h3]⟩

/-- A core that runs what it ran keeps its rank. -/
theorem ranksOf_setCore {s : State} {g : GateId} {tag : BitVec 16} {n m : Nat} {c d : Core} (h : s.core n = some c) (hf : d.firing = c.firing)
    (hm : m ∈ s.ranksOf g tag) : m ∈ (s.setCore n d).ranksOf g tag := by
  unfold State.ranksOf at hm ⊢
  obtain ⟨x, hx, rfl⟩ := List.mem_map.mp hm
  obtain ⟨hx, hrank⟩ := List.mem_filter.mp hx
  rcases mem_assocSet (n := n) d hx with hin | ⟨hn, hc, hin⟩
  · exact List.mem_map.mpr ⟨x, List.mem_filter.mpr ⟨hin, hrank⟩, rfl⟩
  · have hcx : c = x.2 := Option.some.inj (h.symm.trans hc)
    refine List.mem_map.mpr ⟨(n, d), List.mem_filter.mpr ⟨hin, ?_⟩, hn.symm⟩
    rw [hf, hcx]
    exact hrank

theorem mem_ranksOf_core {s : State} {g : GateId} {tag : BitVec 16} {m : Nat} (h : m ∈ s.ranksOf g tag) : ∃ c, s.core m = some c := by
  obtain ⟨x, hx, rfl⟩ := List.mem_map.mp h
  obtain ⟨hx, _⟩ := List.mem_filter.mp hx
  unfold State.core
  generalize s.cores = l at hx
  induction l with
  | nil => nomatch hx
  | cons a l ih =>
    unfold assoc
    split
    · exact ⟨_, rfl⟩
    · next hne =>
      rcases List.mem_cons.mp hx with rfl | hx
      · exact absurd rfl hne
      · exact ih hx

/-- The arrivals of a phase released. -/
def Gate.clearPhase (g : Gate) (tag : BitVec 16) (phase : Nat) : Gate := { g with arrived := g.arrived.filter fun y => !(y.1 = tag ∧ y.2.1 = phase) }

/-- What is true of a state and kept as a phase is released to a core is true of the state with the phase released. -/
theorem releasePhase_keeps {P : State → Prop} {s : State} {g : GateId} {tag : BitVec 16} {phase : Nat}
    (h : P (s.onGate g fun x => x.clearPhase tag phase))
    (hset : ∀ t n c, P t → t.core n = some c → P (t.setCore n { c with barRel := max c.barRel phase })) : P (s.releasePhase g tag phase) := by
  unfold State.releasePhase
  refine foldl_sound h fun t n ht => ?_
  split
  · exact hset t n _ ht ‹_›
  · exact ht

theorem released_releasePhase (s : State) (g : GateId) (tag : BitVec 16) (phase : Nat) : Released s (s.releasePhase g tag phase) :=
  releasePhase_keeps (P := Released s) (Released.of_cores rfl) fun _ _ _ ht hc => ht.trans (released_setCore hc)

theorem releasePhase_gate {s : State} {g : GateId} {x : Gate} (h : s.gate g = some x) (tag : BitVec 16) (phase : Nat) :
    (s.releasePhase g tag phase).gate g = some (x.clearPhase tag phase) :=
  releasePhase_keeps (P := fun t : State => t.gate g = some (x.clearPhase tag phase)) (gate_onGate _ h (show x.id = g from gate_id h))
    fun _ _ _ ht _ => ht

theorem ranksOf_releasePhase {s : State} {g : GateId} {tag : BitVec 16} {m : Nat} (t : BitVec 16) (phase : Nat) (h : m ∈ s.ranksOf g tag) :
    m ∈ (s.releasePhase g t phase).ranksOf g tag :=
  releasePhase_keeps (P := fun u : State => m ∈ u.ranksOf g tag) h fun _ _ _ hu hc => ranksOf_setCore hc rfl hu

/-- A phase released reaches every core that runs a rank. -/
theorem releasePhase_reaches {s : State} {g : GateId} {tag : BitVec 16} {m : Nat} (phase : Nat) (h : m ∈ s.ranksOf g tag) :
    ∀ d, (s.releasePhase g tag phase).core m = some d → phase ≤ d.barRel := by
  unfold State.releasePhase
  extract_lets u
  have hm : m ∈ u.ranksOf g tag := h
  clear_value u
  obtain ⟨pre, post, hl⟩ := List.append_of_mem hm
  rw [hl, List.foldl_append, List.foldl_cons]
  refine foldl_sound (P := fun t : State => ∀ d, t.core m = some d → phase ≤ d.barRel) (fun d hd => ?_) fun t n ht => ?_
  · revert hd
    split
    · intro hd
      rw [← Option.some.inj ((core_setCore _ m _).symm.trans hd)]
      exact Nat.le_max_right _ _
    · next hnone => exact fun hd => nomatch hnone.symm.trans hd
  · split
    · next c hc => exact (released_setCore hc).keeps ht
    · exact ht

/-- Another phase's release leaves the count of a phase. -/
theorem arrivedAt_clearPhase {g : Gate} {tag tag' : BitVec 16} {phase phase' : Nat} (h : ¬ (tag = tag' ∧ phase = phase')) :
    (g.clearPhase tag' phase').arrivedAt tag phase = g.arrivedAt tag phase := by
  have hfilter : (g.clearPhase tag' phase').arrived.filter (fun x => x.1 = tag ∧ x.2.1 = phase) = g.arrived.filter (fun x => x.1 = tag ∧ x.2.1 = phase) := by
    rw [Gate.clearPhase, List.filter_filter]
    refine List.filter_congr fun x _ => ?_
    by_cases hx : x.1 = tag ∧ x.2.1 = phase
    · obtain ⟨rfl, rfl⟩ := hx
      simp [h]
    · simp [hx]
  have hmem : ∀ r, (g.clearPhase tag' phase').arrived.contains (tag, phase, r) = g.arrived.contains (tag, phase, r) := fun r => by
    rw [Bool.eq_iff_iff, List.contains_iff_mem, List.contains_iff_mem, Gate.clearPhase, List.mem_filter]
    simp [h]
  have hlive : (g.clearPhase tag' phase').live = g.live := rfl
  simp only [Gate.arrivedAt, hfilter, hlive, hmem]

/-- Releases change a gate's arrivals, and nothing of a core but what is released to it. -/
theorem releaseDue_only (g : GateId) (hsize : Nat) (l : List (BitVec 16 × Nat × Nat)) (s : State) : Released s (s.releaseDue g hsize l) ∧
    ∀ x, s.gate g = some x → ∃ a, (s.releaseDue g hsize l).gate g = some { x with arrived := a } := by
  induction l generalizing s with
  | nil => exact ⟨.refl s, fun x hx => ⟨x.arrived, hx⟩⟩
  | cons y l ih =>
    unfold State.releaseDue
    extract_lets t
    have ht : Released s t ∧ ∀ x, s.gate g = some x → ∃ a, t.gate g = some { x with arrived := a } := by
      unfold t
      split
      · next z hz =>
        split
        · exact ⟨released_releasePhase s g _ _, fun x hx => ⟨_, releasePhase_gate hx _ _⟩⟩
        · exact ⟨.refl s, fun x hx => ⟨x.arrived, hx⟩⟩
      · exact ⟨.refl s, fun x hx => ⟨x.arrived, hx⟩⟩
    obtain ⟨hrel, hgate⟩ := ht
    obtain ⟨hrel', hgate'⟩ := ih t
    refine ⟨hrel.trans hrel', fun x hx => ?_⟩
    obtain ⟨a, ha⟩ := hgate x hx
    obtain ⟨b, hb⟩ := hgate' _ ha
    exact ⟨b, hb⟩

/-- A phase that every rank has reached is released to the cores that run a rank. -/
theorem releaseDue_reaches {g : GateId} {hsize m : Nat} {a : BitVec 16 × Nat × Nat} (l : List (BitVec 16 × Nat × Nat)) {s : State} {x : Gate}
    (hx : s.gate g = some x) (hm : m ∈ s.ranksOf g a.1) (ha : a ∈ x.arrived) (hl : a ∈ l) (hall : hsize ≤ x.arrivedAt a.1 a.2.1) :
    ∀ d, (s.releaseDue g hsize l).core m = some d → a.2.1 ≤ d.barRel := by
  induction l generalizing s x with
  | nil => nomatch hl
  | cons y l ih =>
    unfold State.releaseDue
    rw [hx]
    by_cases hy : x.arrived.contains y = true ∧ hsize ≤ x.arrivedAt y.1 y.2.1
    · simp only [if_pos hy]
      by_cases hsame : a.1 = y.1 ∧ a.2.1 = y.2.1
      · obtain ⟨h1, h2⟩ := hsame
        have hreach := releasePhase_reaches (s := s) (g := g) y.2.1 (h1 ▸ hm)
        exact (releaseDue_only g hsize l _).1.keeps fun d hd => h2 ▸ hreach d hd
      · have hne : a ≠ y := fun e => hsame ⟨congrArg _ e, congrArg (·.2.1) e⟩
        refine ih (releasePhase_gate hx _ _) (ranksOf_releasePhase _ _ hm) ?_ ((List.mem_cons.mp hl).resolve_left hne) ?_
        · exact List.mem_filter.mpr ⟨ha, by simpa [Decidable.imp_iff_not_or] using hsame⟩
        · rw [arrivedAt_clearPhase hsame]
          exact hall
    · simp only [if_neg hy]
      have hne : a ≠ y := fun e => hy (e ▸ ⟨List.contains_iff_mem.mpr ha, hall⟩)
      exact ih hx hm ha ((List.mem_cons.mp hl).resolve_left hne) hall

/-- An arrival of a phase that some rank has not reached stays. -/
theorem releaseDue_waits {g : GateId} {hsize : Nat} {a : BitVec 16 × Nat × Nat} (l : List (BitVec 16 × Nat × Nat)) {s : State} {x : Gate}
    (hx : s.gate g = some x) (ha : a ∈ x.arrived) (hfew : x.arrivedAt a.1 a.2.1 < hsize) : ∃ d, (s.releaseDue g hsize l).gate g = some d ∧ a ∈ d.arrived := by
  induction l generalizing s x with
  | nil => exact ⟨x, hx, ha⟩
  | cons y l ih =>
    unfold State.releaseDue
    rw [hx]
    by_cases hy : x.arrived.contains y = true ∧ hsize ≤ x.arrivedAt y.1 y.2.1
    · simp only [if_pos hy]
      have hsame : ¬ (a.1 = y.1 ∧ a.2.1 = y.2.1) := by
        rintro ⟨h1, h2⟩
        rw [h1, h2] at hfew
        exact absurd hy.2 (Nat.not_le.mpr hfew)
      refine ih (releasePhase_gate hx _ _) (List.mem_filter.mpr ⟨ha, by simpa [Decidable.imp_iff_not_or] using hsame⟩) ?_
      rw [arrivedAt_clearPhase hsame]
      exact hfew
    · simp only [if_neg hy]
      exact ih hx ha hfew

end Sys2Proof.Machine
end

section
/-! Gates and firings, settled (05 R149 to R168, 11 R331, 14 R395, R398). -/

namespace Sys2Proof.Machine

/-! ## The walker -/

theorem settle_ordinals (l : List Iter) (n : Nat) : (settle n l).2.map (·.ordinal) = l.map (·.ordinal) := by
  induction l generalizing n with
  | nil => rfl
  | cons i l ih =>
    unfold settle
    split
    · exact congrArg (i.ordinal :: ·) (ih _)
    · exact congrArg (i.ordinal :: ·) (ih _)

/-- Tiles that are bound again change the order of the store alone. -/
theorem touches_only (l : List Pair) (g : Gate) : ∃ st, l.foldl (fun (x : Gate) p => if (x.find p).isSome then x.touch p else x) g = { g with store := st } := by
  refine foldl_sound (P := fun x : Gate => ∃ st, x = { g with store := st }) ⟨g.store, rfl⟩ fun x p hx => ?_
  obtain ⟨st, rfl⟩ := hx
  split
  · exact ⟨_, rfl⟩
  · exact ⟨st, rfl⟩

/-- A gate with its next iteration open. -/
def Gate.opened (g : Gate) (t : Task) (ns : BitVec 8) (store : List PenTile) : Gate :=
  ({ g with
     store, nextOrd := g.nextOrd + 1
     iters := g.iters ++ [{ ordinal := g.nextOrd, subs := (t.pairs g ns g.nextOrd).map fun x => g.openSub x.1, ready := none }] } : Gate).settled

/-- A request as it leaves a gate. -/
def askMsg (s : State) (g : GateId) (p : Pair) : Flying :=
  { place := .source (s.gateRouter g) 0
    msg := { cls := 1, cpl := (s.router (s.gateRouter g)).plane, source := s.gateRouter g, body := .request p.1 p.2 (.gate g) none } }

theorem taskOf_onGate (s : State) (g g' : GateId) (f : Gate → Gate) : (s.onGate g' f).taskOf g = s.taskOf g := by
  simp only [State.taskOf, State.onGate, Fin.getElem_fin, Vector.getElem_set]
  split
  · next h => simp [h]
  · rfl

/-- A gate's change leaves the tasks, so that its router and plane stay. -/
theorem askMsg_onGate (s : State) (g g' : GateId) (f : Gate → Gate) (p : Pair) : askMsg (s.onGate g' f) g p = askMsg s g p := by
  have hrouter : (s.onGate g' f).gateRouter g = s.gateRouter g := by simp only [State.gateRouter, taskOf_onGate]
  unfold askMsg
  rw [hrouter]
  rfl

/-- Requests of a gate leave it with what it has asked for, and stand at its router. -/
theorem gateRequests_of (l : List Pair) {g : GateId} {s : State} {d : Gate} (hd : s.gate g = some d) :
    (∃ a, (l.foldl (fun x p => x.gateRequest g p) s).gate g = some { d with asked := a }) ∧
      (l.foldl (fun x p => x.gateRequest g p) s).msgs = s.msgs ++ l.map (askMsg s g) := by
  induction l generalizing s d with
  | nil => exact ⟨⟨d.asked, hd⟩, by simp⟩
  | cons p l ih =>
    have hask := askMsg_onGate s g g (fun x => { x with asked := if x.asked.contains p then x.asked else x.asked ++ [p] })
    have hgate := gate_onGate (fun x => { x with asked := if x.asked.contains p then x.asked else x.asked ++ [p] }) hd (show d.id = g from gate_id hd)
    have hmsgs : (s.gateRequest g p).msgs = s.msgs ++ [askMsg s g p] := rfl
    have hnext : ∀ q, askMsg (s.gateRequest g p) g q = askMsg s g q := hask
    obtain ⟨⟨a, ha⟩, hm⟩ := ih (s := s.gateRequest g p) hgate
    refine ⟨⟨a, ha⟩, ?_⟩
    rw [List.foldl_cons, hm, hmsgs, List.map_cons, funext hnext]
    simp

/-! ## Ends of streams -/

/-- A gate that is asked for the end of a tensor's stream, once a run. -/
def Gate.askEnd (g : Gate) (e : BitVec 20) : Gate := if g.eos.contains e ∨ g.eosDone.contains e then g else { g with eos := g.eos ++ [e] }

theorem askEnd_of (g : Gate) (e : BitVec 20) : (g.askEnd e).id = g.id ∧ (e ∈ (g.askEnd e).eos ∨ e ∈ (g.askEnd e).eosDone) := by
  unfold Gate.askEnd
  split
  · next h => exact ⟨rfl, by simpa using h⟩
  · exact ⟨rfl, .inl (List.mem_append_right _ (List.mem_singleton_self e))⟩

/-- The end of a tensor's stream at the router of a member. -/
def endMsg (s : State) (ns : BitVec 8) (m : Nat) (e : BitVec 20) : Flying :=
  { place := .source m 0, msg := { cls := 0, cpl := (s.router m).plane, source := m, body := .publication (eosTile ns e) none } }

/-- A member injects the end of a tensor's stream. -/
def State.postEnd (s : State) (ns : BitVec 8) (m : Nat) (e : BitVec 20) : State := { s with msgs := s.msgs ++ [endMsg s ns m e] }

theorem postEnds_one (ns : BitVec 8) (m : Nat) (l : List (BitVec 20)) (s : State) :
    l.foldl (fun z e => z.postEnd ns m e) s = { s with msgs := s.msgs ++ l.map (endMsg s ns m) } := by
  induction l generalizing s with
  | nil => simp
  | cons e l ih =>
    rw [List.foldl_cons, ih, State.postEnd]
    simp only [List.map_cons, List.append_assoc, List.singleton_append]
    rfl

theorem postEnds_eq (ns : BitVec 8) (l : List (BitVec 20)) (ms : List Nat) (s : State) :
    ms.foldl (fun y m => l.foldl (fun z e => z.postEnd ns m e) y) s = { s with msgs := s.msgs ++ ms.flatMap fun m => l.map (endMsg s ns m) } := by
  induction ms generalizing s with
  | nil => simp
  | cons m ms ih =>
    rw [List.foldl_cons, postEnds_one, ih]
    simp only [List.flatMap_cons, List.append_assoc]
    rfl

/-! ## A herd's abort -/

theorem unissue_only (c : Core) (f : Firing) : ∃ r, c.unissue f = { c with rsb := r } := by
  refine foldl_sound (P := fun d : Core => ∃ r, d = { c with rsb := r }) ⟨c.rsb, rfl⟩ fun d l hd => ?_
  obtain ⟨r, rfl⟩ := hd
  split
  · exact ⟨r, rfl⟩
  · cases l.rsb with
    | none => exact ⟨r, rfl⟩
    | some k => exact ⟨_, rfl⟩

/-- A core whose firing is aborted runs it still, and has the fault. -/
theorem abort_of {c : Core} {mine : Firing → Bool} {h : Firing} (hf : (c.abort mine).firing = some h) (hm : mine h = true) :
    ∃ d ∈ (c.abort mine).dfaults, d.code = trapHerdAbort := by
  unfold Core.abort at hf ⊢
  extract_lets e at hf ⊢
  have he : ∃ r, e = { c with rsb := r } :=
    foldl_sound (P := fun d : Core => ∃ r, d = { c with rsb := r }) ⟨c.rsb, rfl⟩ fun d f hd => by
      obtain ⟨r, rfl⟩ := hd
      exact unissue_only _ f
  clear_value e
  obtain ⟨r, rfl⟩ := he
  have hfc : c.firing = some h := hf
  simp only [hfc, Option.elim, hm, Bool.true_and]
  split
  · exact ⟨_, List.mem_append_right _ (List.mem_singleton_self _), rfl⟩
  · next hany =>
    have hany : (c.dfaults.any fun d => d.code == trapHerdAbort) = true := by simpa using hany
    obtain ⟨d, hd, hcode⟩ := List.any_eq_true.mp hany
    exact ⟨d, hd, by simpa using hcode⟩

/-! ## A retirement -/

/-- A graph that finishes changes no gate and no core. -/
theorem finishGraph_keeps (s : State) (k : Fin 8) (n : Nat) : (s.finishGraph k n).cores = s.cores ∧ ∀ g, (s.finishGraph k n).gate g = s.gate g := by
  unfold State.finishGraph
  extract_lets c
  split
  · split
    · refine ⟨rfl, fun g => ?_⟩
      simp only [State.gate, State.raisePart, State.raise, Fin.getElem_fin, Vector.getElem_set]
      split
      · next h => simp [c, h]
      · rfl
    · exact ⟨rfl, fun _ => rfl⟩
  · exact ⟨rfl, fun _ => rfl⟩

theorem releases_only (s : State) (g : GateId) : Released s (s.releases g) ∧
    ∀ x, s.gate g = some x → ∃ a, (s.releases g).gate g = some { x with arrived := a } := by
  unfold State.releases
  split
  · exact releaseDue_only g _ _ s
  · exact ⟨.refl s, fun x hx => ⟨x.arrived, hx⟩⟩

theorem dropHerdCarries_only (s : State) (g : GateId) (f : Firing) : ∃ m, s.dropHerdCarries g f = { s with msgs := m } := by
  unfold State.dropHerdCarries
  split
  · split
    · exact ⟨_, rfl⟩
    · exact ⟨_, rfl⟩
  · exact ⟨_, rfl⟩

theorem dropRetired_keeps (g : Gate) (tag : BitVec 16) : (g.dropRetired tag).id = g.id ∧ (g.dropRetired tag).retired = g.retired := by
  unfold Gate.dropRetired
  split
  · exact ⟨rfl, rfl⟩
  · exact ⟨rfl, rfl⟩

/-- A gate with a rank counted as retired, unless it was already. -/
def Gate.counted (g : Gate) (f : Firing) : Gate :=
  let k := if g.closed.any fun x => x.1 == f.tag && x.2.1 == f.rank then 0 else 1
  let x : Gate := { g with retired := g.retired + k, triggered := if f.trig then g.triggered else g.triggered + k
                           live := g.live.map fun y => if y.1 = f.tag ∧ y.2.1 = f.rank then (y.1, y.2.1, true) else y }
  { x with completed := x.done f.task }

/-- A firing counted as retired: its gate's count, and of the cores no more than what a barrier releases. -/
theorem countRetired_of (s : State) (f : Firing) : Released s (s.countRetired f) ∧ ∀ x, s.gate f.gate = some x → ∃ d,
    (s.countRetired f).gate f.gate = some d ∧ d.retired = x.retired + if x.closed.any fun y => y.1 == f.tag && y.2.1 == f.rank then 0 else 1 := by
  have heq : s.countRetired f = ((((s.onGate f.gate fun g => g.counted f).releases f.gate).onGate f.gate fun g => g.dropRetired f.tag).dropHerdCarries
      f.gate f).finishGraph f.ctx f.task.graph := rfl
  obtain ⟨hrel, hgates⟩ := releases_only (s.onGate f.gate fun g => g.counted f) f.gate
  rw [heq]
  generalize hu : (s.onGate f.gate fun g => g.counted f).releases f.gate = u at *
  obtain ⟨m, hm⟩ := dropHerdCarries_only (u.onGate f.gate fun g => g.dropRetired f.tag) f.gate f
  rw [hm]
  obtain ⟨hcores, hgate⟩ := finishGraph_keeps { u.onGate f.gate (fun g => g.dropRetired f.tag) with msgs := m } f.ctx f.task.graph
  refine ⟨(Released.of_cores rfl).trans (hrel.trans (Released.of_cores hcores)), fun x hx => ?_⟩
  have hid : x.id = f.gate := gate_id hx
  obtain ⟨a, ha⟩ := hgates _ (gate_onGate (fun g => g.counted f) hx hid)
  obtain ⟨hid', hret⟩ := dropRetired_keeps { x.counted f with arrived := a } f.tag
  rw [hgate]
  exact ⟨_, gate_onGate (fun g => g.dropRetired f.tag) ha (hid'.trans hid), hret⟩

theorem begins_core {s : State} {n : Nat} {c : Core} {x : Firing} (hn : s.core n = some c) (l : List Firing) (h : x.failed = none) :
    ∃ k q, (s.onCore n fun _ e => ({ e with stagedF := l } : Core).begin x).core n =
      some { ({ c with stagedF := l } : Core).enter x with copies := k, seq := q } := by
  simp only [State.onCore, hn, begin_of _ h]
  exact core_set_applyAll s n _ _

/-- A core that runs nothing begins the first firing it has staged. -/
theorem nextFiring_core {s : State} {n : Nat} {c : Core} (hn : s.core n = some c) (hf : c.firing = none) :
    (c.stagedF = [] → ∃ d, (s.nextFiring n).core n = some d ∧ d.firing = none ∧ d.modes = c.modes) ∧
    (∀ h l, c.stagedF = h :: l → h.failed = none → ∃ d e, (s.nextFiring n).core n = some d ∧ d.firing = some e ∧ e.state = .running ∧ e.gate = h.gate ∧
      e.ordinal = h.ordinal ∧ e.rank = h.rank ∧ d.stagedF.length = l.length ∧ d.issue.pc = h.task.entry ∧ d.modes = c.cfgModes) := by
  have he : Issued c c.issueLandings := issued_issueLandings c
  simp only [State.nextFiring, hn]
  generalize c.issueLandings = e at he
  obtain ⟨r, k, φ, ψ, rfl, h1, h2⟩ := he
  obtain rfl : φ = none := by simpa [hf] using h1
  refine ⟨fun hs => ?_, fun h l hs hfail => ?_⟩
  · obtain rfl : ψ = [] := by simpa [hs] using h2
    exact ⟨_, core_setCore s n _, rfl, rfl⟩
  · rw [hs] at h2
    obtain ⟨x, l', rfl, hx, hl'⟩ := List.map_eq_cons_iff.mp h2
    have hfail' : x.failed = none := (congrArg Firing.failed hx : x.bare.failed = h.bare.failed).trans hfail
    have htask : x.task = h.task := (congrArg Firing.task hx : x.bare.task = h.bare.task)
    have hgate : x.gate = h.gate := (congrArg Firing.gate hx : x.bare.gate = h.bare.gate)
    have hord : x.ordinal = h.ordinal := (congrArg Firing.ordinal hx : x.bare.ordinal = h.bare.ordinal)
    have hrank : x.rank = h.rank := (congrArg Firing.rank hx : x.bare.rank = h.bare.rank)
    have hlen : l'.length = l.length := by simpa using congrArg List.length hl'
    obtain ⟨k', q, hcore⟩ := begins_core (core_setCore s n { c with rsb := r, rsbNext := k, firing := none, stagedF := x :: l' }) l' hfail'
    exact ⟨_, _, hcore, rfl, rfl, hgate, hord, hrank, hlen, congrArg Task.entry htask, rfl⟩

theorem gateHeld_nextFiring (g : GateId) (s : State) (n : Nat) : GateHeld g s (s.nextFiring n) := by
  unfold State.nextFiring
  split
  · exact .refl g s
  · extract_lets d
    split
    · exact GateHeld.trans (.of_ctxs (t := s.setCore n d) rfl) (gateHeld_onCore g (s.setCore n d) n _)
    · exact .of_ctxs rfl

/-- The members outbid have picked; the core that took the offer, the gates and the contexts are as they were. -/
theorem picked_of {s u : State} {n : Nat} {c : Core} {g : GateId} {k : Task} (hu : (s.setCore n c).pickedBy (s.outbid g k n) = u) :
    u.core n = some c ∧ u.gate g = s.gate g ∧ u.ctxs = s.ctxs := by
  have hout : n ∉ s.outbid g k n := fun h => by simpa [State.outbid] using (List.mem_filter.mp h).2
  obtain ⟨co, hco⟩ := pickedBy_only (s.outbid g k n) (s.setCore n c)
  have hctxs : u.ctxs = s.ctxs := by
    rw [← hu, hco]
    rfl
  refine ⟨?_, ?_, hctxs⟩
  · rw [← hu, pickedBy_core hout]
    exact core_setCore s n c
  · rw [State.gate, hctxs]
    rfl

/-- Settles O52: each event's guard holds under the hypotheses; gates and cores beside the ones an event names are kept by its parts. -/
theorem gatesAndFirings : Obligations.GatesAndFirings := by
  unfold Obligations.GatesAndFirings
  refine ⟨fun s g x k hc hg ht hrun hctx hex hwin hafter => ?open_, fun s n c x k cr i hc hn hch hg hhead hherd hbeat => ?dispatch,
    fun s g x k i hc hg ht hhead hherd hfree hmem => ?herd, fun s g x f rest a b hc hg hf hb hj => ?trigger,
    fun s g x k n c e hc hg ht hfm hn => ?eosAsked, fun s g x k hc hg ht heos hex hq hctx => ?eosSent,
    fun s g x k n c a hc hg ht hfm hn => ?barrier, fun s n c f hc hn hf hherd htimer hrun hwait hbar hlong hno => ?timeout,
    fun s n c f hc hn hf hret hrun hw hwaits hset hland hsat howed => ?retire⟩
  case open_ =>
    have hrouter : ∀ f p, askMsg (s.onGate g f) g p = askMsg s g p := askMsg_onGate s g g
    obtain ⟨st, hst⟩ := touches_only ((k.pairs x s.ctxs[g.ctx].ns x.nextOrd).filterMap (·.1)) x
    have hguard : (x.runnable && s.ctxs[g.ctx].state == .running && !x.exhausted k && decide (x.iters.length < k.window) && s.afterOk g.ctx k) = true := by
      rw [hrun, hctx, hex, hafter, decide_eq_true hwin]
      rfl
    have hev : evWalkerOpen g s = some ((x.wants (k.pairs x s.ctxs[g.ctx].ns x.nextOrd)).foldl (fun y p => y.gateRequest g p)
        (s.onGate g fun _ => x.opened k s.ctxs[g.ctx].ns st)) := by
      simp only [evWalkerOpen, hg, ht, if_pos hguard, hst]
      rfl
    have hid : x.id = g := gate_id hg
    have hopened := gate_onGate (fun _ => x.opened k s.ctxs[g.ctx].ns st) hg hid
    obtain ⟨⟨a, ha⟩, hm⟩ := gateRequests_of (x.wants (k.pairs x s.ctxs[g.ctx].ns x.nextOrd)) hopened
    refine makes_event rfl hc hev ⟨⟨_, ha, rfl, ?_⟩, ?_⟩
    · exact (settle_ordinals _ _).trans (List.map_append ..)
    · rw [hm, funext (hrouter _)]
      rfl
  case dispatch =>
    have hguard : ¬ (k.herd || k.members.any fun m => m != n && s.beats x.id k m n) = true := by
      simpa [hherd] using hbeat
    generalize hu : (s.setCore n { c with credits := cr, picked := some s.wcc }).pickedBy (s.outbid x.id k n) = u
    have hev : evDispatch n s = some (((u.give x k i 0 n (k.members.idxOf n)).dispatched x i).passOthers x.id (s.offers n)) := by
      simp only [evDispatch, hn, hch, hhead, if_neg hguard, hu]
    obtain ⟨hun, hug, hctxs⟩ := picked_of (c := { c with credits := cr, picked := some s.wcc }) (s := s) (k := k) (g := x.id) hu
    obtain ⟨h, hheld⟩ := gateHeld_give x.id u x k i 0 n (k.members.idxOf n) x (hug.trans hg)
    obtain ⟨k', q, hcore⟩ := give_core hun x k i 0 (k.members.idxOf n)
    obtain ⟨ct, hpass⟩ := passOthers_only (s.offers n) x.id ((u.give x k i 0 n (k.members.idxOf n)).dispatched x i)
    have hgate := (passOthers_gate (s.offers n) x.id ((u.give x k i 0 n (k.members.idxOf n)).dispatched x i)).trans (dispatched_gate rfl hheld i)
    have hkeep : (((u.give x k i 0 n (k.members.idxOf n)).dispatched x i).passOthers x.id (s.offers n)).core n =
        (u.give x k i 0 n (k.members.idxOf n)).core n := by
      rw [hpass]
      rfl
    have ht := hkeep.trans hcore
    refine makes_event rfl hc hev ⟨⟨_, hgate, rfl, rfl⟩, fun hbusy => ?_, fun hf hs hfail => ?_⟩
    · obtain ⟨hlen, hpick, hfir⟩ := take_staged (c := { c with credits := cr, picked := some s.wcc })
        (x.firingOf k c.modes u.ctxs[x.id.ctx].ns i 0 (k.members.idxOf n) (c.slotOf k)) hbusy
      refine ⟨_, ht, hlen, hpick, ?_⟩
      have hmap := congrArg (Option.map fun f : Firing => (f.gate, f.ordinal, f.rank)) hfir
      rw [Option.map_map, Option.map_map] at hmap
      exact hmap
    · rw [← hctxs] at hfail
      obtain ⟨e, hfir, hbare, hpc, hmodes⟩ := take_begins (c := { c with credits := cr, picked := some s.wcc }) hf hs hfail
      have hord : e.ordinal = i.ordinal := congrArg Firing.ordinal hbare
      exact ⟨_, _, ht, hfir, rfl, hord, hpc, hmodes⟩
  case herd =>
    have hev : evHerdDispatch g s = some ((((s.acceptHerd g k.members s).giveRanks x k i 0 k.members).dispatched x i).onGate g fun y =>
        { y with live := y.live ++ (List.range k.hsize).map fun r => (k.tagOf i.ordinal, r, false) }) := by
      simp only [evHerdDispatch, hg, ht, hhead]
      rw [if_pos]
      rw [hherd, hfree, Bool.and_self, Bool.true_and]
      refine List.all_eq_true.mpr fun n hn => ?_
      obtain ⟨c, h, u, cr, hcore, hch, hid⟩ := hmem n hn
      simp only [hcore, hch, hid, beq_self_eq_true]
    have hid : x.id = g := gate_id hg
    obtain ⟨h, hheld⟩ := gateHeld_giveRanks g x k i k.members 0 _ x ((acceptHerd_gate s g k.members s).trans hg)
    refine makes_event rfl hc hev ?_
    exact ⟨_, gate_onGate _ (dispatched_gate hid hheld i) hid, rfl, rfl, rfl⟩
  case trigger =>
    have hev : evTriggerCount g s = some ((({ s with msgs := rest } : State).moved (s.gateRouter g)).onGate g fun y =>
        { y with triggered := y.triggered + 1 }) := by
      simp only [evTriggerCount, takeMsg_of_first hf, hj]
    refine makes_event rfl hc hev ?_
    exact ⟨rfl, _, gate_onGate (s := ({ s with msgs := rest } : State).moved (s.gateRouter g)) _ hg (show x.id = g from gate_id hg), rfl⟩
  case eosAsked =>
    have hev : evEosRequest g s = some ((s.setCore n { c with port := c.port.tail }).onGate g fun y => y.askEnd e) := by
      simp only [evEosRequest, ht, hfm, coreEvent_portDone hn, Option.map_some]
      rfl
    obtain ⟨hid, hin⟩ := askEnd_of x e
    refine makes_event rfl hc hev ?_
    exact ⟨⟨_, gate_onGate (s := s.setCore n { c with port := c.port.tail }) _ hg (hid.trans (gate_id hg)), hin⟩, ⟨_, core_setCore s n _, rfl⟩⟩
  case eosSent =>
    have hsome : x.eos.isEmpty = false := by simpa using heos
    have hev : evEosEmit g s = some (k.members.foldl (fun y m => x.eos.foldl (fun z e => z.postEnd s.ctxs[g.ctx].ns m e) y)
        (s.onGate g fun y => { y with eos := [], eosDone := y.eosDone ++ x.eos })) := by
      simp only [evEosEmit, hg, ht, hsome, hex, hq, hctx, beq_self_eq_true, Bool.not_false, Bool.and_self, if_true]
      rfl
    have hid : x.id = g := gate_id hg
    refine makes_event rfl hc (hev.trans (congrArg some (postEnds_eq _ _ _ _))) ?_
    exact ⟨⟨_, gate_onGate (fun y => { y with eos := [], eosDone := y.eosDone ++ x.eos }) hg hid, rfl, rfl⟩, rfl⟩
  case barrier =>
    have hev : evBarrierArrival g s = some (((s.setCore n { c with port := c.port.tail }).onGate g fun y => { y with arrived := y.arrived ++ [a] }).releases g) := by
      simp only [evBarrierArrival, ht, hfm, coreEvent_portDone hn, Option.map_some]
    have hid : x.id = g := gate_id hg
    refine makes_event rfl hc hev ?_
    generalize hu : (s.setCore n { c with port := c.port.tail }).onGate g (fun y => { y with arrived := y.arrived ++ [a] }) = u
    have hug : u.gate g = some { x with arrived := x.arrived ++ [a] } := hu ▸ gate_onGate (s := s.setCore n { c with port := c.port.tail }) _ hg hid
    have hut : u.taskOf g = some k := by
      rw [← hu, taskOf_onGate]
      exact ht
    have hun : u.core n = some { c with port := c.port.tail } := hu ▸ core_setCore s n _
    have hranks : ∀ m ∈ s.ranksOf g a.1, m ∈ u.ranksOf g a.1 := fun m hm => hu ▸ ranksOf_setCore (d := { c with port := c.port.tail }) hn rfl hm
    have hrel : u.releases g = u.releaseDue g k.hsize (x.arrived ++ [a]) := by rw [State.releases, hug, hut]
    have hmem : a ∈ x.arrived ++ [a] := List.mem_append_right _ (List.mem_singleton_self a)
    rw [hrel]
    refine ⟨?_, fun hall m hm => releaseDue_reaches _ hug (hranks m hm) hmem hmem hall, fun hfew => releaseDue_waits _ hug hmem hfew⟩
    obtain ⟨b, _, hb⟩ := ((releaseDue_only g k.hsize (x.arrived ++ [a]) u).1 n).1 _ hun
    exact ⟨_, hb, rfl⟩
  case timeout =>
    have hno' : (c.dfaults.any fun d => d.code == trapHerdAbort) = false := List.any_eq_false.mpr fun d hd => by simpa using hno d hd
    have hw : c.issue.waits.contains .phase = true := List.contains_iff_mem.mpr hwait
    have hev : evBarrierTimeout n s = some (s.abortHerd f.gate f.tag none) := by
      simp only [evBarrierTimeout, hn, hf, hherd, htimer, hrun, hw, hbar, hlong, hno', decide_true, Bool.not_false, Bool.and_self, if_true]
    refine makes_event rfl hc hev ?_
    intro y hy h hyf hgate htag
    obtain ⟨z, _, rfl⟩ := List.mem_map.mp hy
    exact abort_of hyf (by simp [hgate, htag])
  case retire =>
    have hland' : (f.landings.all (·.done)) = true := List.all_eq_true.mpr hland
    have hev : evRetireComplete n s = some ((((s.setCore n c.retired).moved n).countRetired f).nextFiring n) := by
      simp only [evRetireComplete, hn, hf, hret, hrun, hw, hwaits, hset, hland', hsat, howed, beq_self_eq_true, Bool.and_self, if_true]
    obtain ⟨hrel, hgates⟩ := countRetired_of ((s.setCore n c.retired).moved n) f
    obtain ⟨b, _, hb⟩ := (hrel n).1 _ (core_setCore s n c.retired)
    obtain ⟨hnone, hsome⟩ := nextFiring_core hb rfl
    refine makes_event rfl hc hev ⟨fun x hx => ?_, hnone, hsome⟩
    obtain ⟨d, hd, hret'⟩ := hgates x hx
    obtain ⟨h, hh⟩ := gateHeld_nextFiring f.gate _ n d hd
    refine ⟨_, hh, fun hno => ?_, fun ⟨y, hy⟩ => ?_⟩
    · have hany : (x.closed.any fun y => y.1 == f.tag && y.2.1 == f.rank) = false := List.any_eq_false.mpr fun y hy => by
        simp only [Bool.and_eq_true, beq_iff_eq, not_and]
        intro htag hrank
        exact hno y.2.2 (by rw [← htag, ← hrank]; exact hy)
      exact hret'.trans (by rw [hany]; rfl)
    · have hany : (x.closed.any fun y => y.1 == f.tag && y.2.1 == f.rank) = true := List.any_eq_true.mpr ⟨_, hy, by simp⟩
      exact hret'.trans (by rw [hany]; rfl)

end Sys2Proof.Machine
end

section
/-! Collectives and the planes of a partition, settled (03 R97 to R107, R112 to R115, 13 R369, 16 R419). -/

namespace Sys2Proof.Machine

/-! ## The core's own output of a router -/

theorem beyond_core {s : State} {n : Nat} (h : (s.router n).sideOf 0 = none) : s.beyond n 0 = none := by
  rw [State.beyond, h]
  rfl

theorem credit_core {s : State} {n : Nat} (h : (s.router n).sideOf 0 = none) (m : Msg) : s.credit n m 0 = m.body.flits := by
  rw [State.credit, beyond_core h]

theorem outsOk_core {s : State} {n : Nat} (h : (s.router n).sideOf 0 = none) (m : Msg) : s.outsOk n m [0] = true := by
  simp [State.outsOk, State.outOk, credit_core h m]

theorem sendOut_core {s : State} {n : Nat} (h : (s.router n).sideOf 0 = none) (m : Msg) : s.sendOut n m [0] = s.post (.core n 0) m := by
  simp [State.sendOut, State.sendAll, State.send, beyond_core h]

/-- A message for the core at its router goes there whole. -/
theorem goOn_core {s : State} {n : Nat} {f : Flying} (hs : (s.router n).sideOf 0 = none) (hw : f.lacks = 0 ∧ f.gone = 0 ∧ f.drop = false)
    (hpos : 0 < f.msg.body.flits) :
    s.goOn n f [0] = some (({ s with msgs := swapMsg f none s.msgs } : State).moved n, f.msg.body.flits, true) := by
  have hno : ¬ ([0] : List (Fin 6)).contains 5 = true := by decide
  have hx : min f.msg.body.flits (s.credit n f.msg 0) = f.msg.body.flits := by rw [credit_core hs, Nat.min_self]
  have hbeyond : ({ s with msgs := swapMsg f none s.msgs } : State).beyond n 0 = none := beyond_core hs
  have hflits := flits_of_whole hw
  obtain ⟨hl, hg, _⟩ := hw
  simp only [State.goOn, if_neg hno, State.pour, List.foldl, hflits, hx, Nat.ne_of_gt hpos, if_false, hl, beq_self_eq_true, Bool.and_self,
    if_true, State.sendAll, State.send, hbeyond, Option.map_some]

theorem forwardChunk_core {s : State} {n : Nat} {p : Fin 6} {f : Flying} (hs : (s.router n).sideOf 0 = none)
    (hw : f.lacks = 0 ∧ f.gone = 0 ∧ f.drop = false) (hpos : 0 < f.msg.body.flits) :
    s.forwardChunk n p f [0] = some ((({ s with msgs := swapMsg f none s.msgs } : State).moved n).post (.core n p) f.msg) := by
  simp [State.forwardChunk, goOn_core hs hw hpos]

/-! ## Chunks -/

/-- A chunk that its VSN's entry takes is dealt with there. -/
theorem chunkArrival_at {s t : State} {n : Nat} {ch : Chan} {f : Flying} {v : Fin 256} {g : BitVec 16} {fmt : Fmt} {i : BitVec 16}
    {data : List FlitToken} (hc : s.clocked = true) (hh : Heads s n ch 2 f) (hb : f.msg.body = .chunk v g fmt i data)
    (hj : s.judgeEntry n (some (.vsn v)) f.msg.cpl = .pass)
    (ht : s.chunkAt n ch.port f { vsn := v, tag := g, index := i, fmt, data, from_ := ch.port } = some t) {P : State → Prop} (hp : P t) :
    Makes (.collectiveChunkArrival n ch) s P := by
  obtain ⟨hd, ho, hf, hl, hg, hdrop⟩ := hh
  have hstep : s.chunkStep n ch.port ch.lane = some t := by
    simp only [State.chunkStep, hf, Option.bind_some, hb, hdrop, Bool.false_eq_true, if_false, hg, ne_eq, not_true_eq_false, hj, ht]
  exact makes_event rfl hc (channel_heads hd ho hstep) hp

/-- An entry that combines, at an input that has not delivered its marker. -/
theorem chunkAt_combine {s : State} {n : Nat} {p : Fin 6} {f : Flying} {h : HeldChunk} {x : Facet} {op : Fin 4} (hx : s.facet n h.vsn = some x)
    (hin : p ∈ x.inputs) (hm : (s.router n).marked h.vsn p = false) (hop : x.combine = some op) (hl : f.lacks = 0) :
    s.chunkAt n p f h = (s.combineAt n p f x op h).map fun t => t.moved n := by
  simp only [State.chunkAt, hx, hm, List.contains_eq_mem, hin, decide_true, Bool.not_true, Bool.or_self, Bool.false_eq_true, if_false, hop, hl, if_true]

theorem combineAt_offers {s : State} {n : Nat} {p : Fin 6} {f : Flying} {h : HeldChunk} {x : Facet} {op : Fin 4} (hfmt : h.fmt = combineFmt op)
    (hsp : ∀ y ∈ (s.router n).spilled, y.1.from_ ≠ p) :
    s.combineAt n p f x op h = ({ s with msgs := swapMsg f none s.msgs } : State).offerChunk n x op h
      (some (({ s with msgs := swapMsg f none s.msgs } : State).onRouter n fun r => { r with spilled := r.spilled ++ [(h, decide (0 < s.deepLinks))] })) := by
  have hany : ((s.router n).spilled.any fun y => y.1.from_ == p) = false :=
    List.any_eq_false.mpr fun y hy => by simpa using hsp y hy
  simp only [State.combineAt, hfmt, ne_eq, not_true_eq_false, if_false, hany, Bool.false_eq_true]

theorem offerChunk_holds {s : State} {n : Nat} {x : Facet} {op : Fin 4} {h : HeldChunk} {full : Option State}
    (hp : partners h (s.router n).slots x.inputs = none) (hroom : slotFlits (s.router n).slots + h.data.length ≤ 64) :
    s.offerChunk n x op h full = some (s.onRouter n fun y => { y with slots := y.slots ++ [h] }) := by
  simp only [State.offerChunk, hp, hroom, if_true]

theorem offerChunk_full {s : State} {n : Nat} {x : Facet} {op : Fin 4} {h : HeldChunk} {full : Option State}
    (hp : partners h (s.router n).slots x.inputs = none) (hroom : 64 < slotFlits (s.router n).slots + h.data.length) :
    s.offerChunk n x op h full = full := by
  simp only [State.offerChunk, hp, Nat.not_le.mpr hroom, if_false]

/-- A chunk combined with its partners goes to the core at its router. -/
theorem offerChunk_core {s : State} {n : Nat} {x : Facet} {op : Fin 4} {h : HeldChunk} {full : Option State} {l : List HeldChunk}
    (hp : partners h (s.router n).slots x.inputs = some l) (ho : x.out = [0]) (hs : (s.router n).sideOf 0 = none) :
    s.offerChunk n x op h full = some ((s.onRouter n fun y => { y with slots := y.slots.filter fun z => !(l.contains z) }).post (.core n 0)
      { cls := 2, cpl := (s.router n).plane, source := n, body := .chunk h.vsn h.tag h.fmt h.index (combineChunks op (l.map (·.data))) }) := by
  have hs' : ((s.onRouter n fun y => { y with slots := y.slots.filter fun z => !(l.contains z) }).router n).sideOf 0 = none := by
    rw [router_onRouter]
    exact hs
  simp only [State.offerChunk, hp, ho, outsOk_core hs, if_true, sendOut_core hs']

theorem chunks_settled {s : State} {n : Nat} {ch : Chan} {f : Flying} {v : Fin 256} {g : BitVec 16} {fmt : Fmt} {i : BitVec 16}
    {data : List FlitToken} {x : Facet} {op : Fin 4} (hc : s.clocked = true) (hh : Heads s n ch 2 f) (hb : f.msg.body = .chunk v g fmt i data)
    (hj : s.judgeEntry n (some (.vsn v)) f.msg.cpl = .pass) (hx : s.facet n v = some x) (hin : ch.port ∈ x.inputs)
    (hm : (s.router n).marked v ch.port = false) (hop : x.combine = some op) (hfmt : fmt = combineFmt op)
    (hsp : ∀ y ∈ (s.router n).spilled, y.1.from_ ≠ ch.port) {t : State}
    (ht : ({ s with msgs := swapMsg f none s.msgs } : State).offerChunk n x op { vsn := v, tag := g, index := i, fmt, data, from_ := ch.port }
      (some (({ s with msgs := swapMsg f none s.msgs } : State).onRouter n fun r =>
        { r with spilled := r.spilled ++ [({ vsn := v, tag := g, index := i, fmt, data, from_ := ch.port }, decide (0 < s.deepLinks))] })) = some t)
    {P : State → Prop} (hp : P (t.moved n)) : Makes (.collectiveChunkArrival n ch) s P := by
  refine chunkArrival_at hc hh hb hj ?_ hp
  rw [chunkAt_combine hx hin hm hop hh.whole.1, combineAt_offers hfmt hsp, ht]
  rfl

theorem moved_router_slots (s : State) (n : Nat) : ((s.moved n).router n).slots = (s.router n).slots := by rw [State.moved, router_onRouter]
theorem moved_router_spilled (s : State) (n : Nat) : ((s.moved n).router n).spilled = (s.router n).spilled := by rw [State.moved, router_onRouter]

/-! ## Markers -/

theorem marked_append {r r' : Router} {v : Fin 256} {p q : Fin 6} {l : Bool} (h : r'.marks = r.marks ++ [(v, p, l)]) :
    r'.marked v q = (r.marked v q || p == q) := by
  simp [Router.marked, h]

theorem marked_filter {r : Router} {l : List (Fin 256 × Fin 6 × Bool)} {v : Fin 256} {q : Fin 6} (h : r.marks = l.filter fun y => y.1 ≠ v) :
    r.marked v q = false := by
  rw [Router.marked, h]
  refine List.any_eq_false.mpr fun m hm => ?_
  have hne : m.1 ≠ v := by simpa using (List.mem_filter.mp hm).2
  simp [hne]

theorem markerArrival_at {s t : State} {n : Nat} {ch : Chan} {f : Flying} {v : Fin 256} {g : BitVec 16} {last : Bool} {fs : List Facet} {x : Facet}
    (hc : s.clocked = true) (hh : Heads s n ch 2 f) (hb : f.msg.body = .mark v g last)
    (hj : s.judgeEntry n (some (.vsn v)) f.msg.cpl = .pass) (hfs : s.facets n v = some fs) (hx : s.facet n v = some x) (hin : ch.port ∈ x.inputs)
    (hm : (s.router n).marked v ch.port = false)
    (ht : (({ s with msgs := swapMsg f none s.msgs } : State).onRouter n fun r =>
      { r with marks := r.marks ++ [(v, ch.port, last)], ends := if last ∧ x.combine.isSome then r.ends + 1 else r.ends }).stepFacet n v g x fs.length = some t)
    {P : State → Prop} (hp : P (t.moved n)) : Makes (.markerArrival n ch) s P := by
  obtain ⟨hd, ho, hf, _⟩ := hh
  have hstep : s.markStep n ch.port ch.lane = some (t.moved n) := by
    simp only [State.markStep, hf, Option.bind_some, hb, hj, hfs, hx, hm, List.contains_eq_mem, hin, decide_true, Bool.not_true, Bool.or_self,
      Bool.false_eq_true, if_false, ht, Option.map_some]
  exact makes_event rfl hc (channel_heads hd ho hstep) hp

/-- An entry one of whose inputs has not delivered its marker does not step. -/
theorem stepFacet_waits {s : State} {n : Nat} {v : Fin 256} {g : BitVec 16} {x : Facet} {k : Nat} {q : Fin 6} (hq : q ∈ x.inputs)
    (hm : (s.router n).marked v q = false) : s.stepFacet n v g x k = some s := by
  have hall : x.inputs.all ((s.router n).marked v) = false := List.all_eq_false.mpr ⟨q, hq, by simp [hm]⟩
  simp only [State.stepFacet, hall, Bool.not_false, if_true]

/-- An entry that steps sends its marker to the core at its router. -/
theorem stepFacet_core {s : State} {n : Nat} {v : Fin 256} {g : BitVec 16} {x : Facet} {k : Nat} (hall : x.inputs.all ((s.router n).marked v) = true)
    (hsp : ∀ y ∈ (s.router n).spilled, y.1.vsn ≠ v) (ho : x.out = [0]) (hs : (s.router n).sideOf 0 = none) :
    ∃ e, s.stepFacet n v g x k = some (s.onRouter n fun r =>
      { r with marks := r.marks.filter fun y => y.1 ≠ v, cur := putKey r.cur v ((r.curOf v + 1) % k), ends := e }) := by
  have hany : ((s.router n).spilled.any fun y => y.1.vsn == v) = false :=
    List.any_eq_false.mpr fun y hy => by simpa using hsp y hy
  have hnone : ([0] : List (Fin 6)).filter (fun p => p ≠ 0) = [] := by decide
  have hsend : ∀ m, s.sendOut n m [] = s := fun m => rfl
  simp only [State.stepFacet, hall, Bool.not_true, Bool.false_eq_true, if_false, hany, ho, outsOk_core hs, if_true, hnone, hsend]
  exact ⟨_, rfl⟩

/-! ## The parts -/

theorem findFin_map_self {n : Nat} {α : Type} (i : Fin n) (f : α → α) (l : List (Fin n × α)) :
    findFin (l.map fun x => if x.1 = i then (x.1, f x.2) else x) i = (findFin l i).map f := by
  induction l with
  | nil => rfl
  | cons a l ih =>
    obtain ⟨k, x⟩ := a
    by_cases h : k = i
    · simp [findFin, h]
    · simpa [findFin, h] using ih

theorem part_onPart {s : State} {i : Fin 16} {p : Part} (f : Part → Part) (h : s.part i = some p) : (s.onPart i f).part i = some (f p) := by
  have hf := findFin_map_self i f s.parts
  rw [show findFin s.parts i = some p from h] at hf
  exact hf

/-! ## A swap wave: what a session's judgement leaves of routers and cores -/

/-- Every router is as it was, or emptied; every core keeps the count of its swaps. -/
def Calm (s t : State) : Prop := (∀ n, t.router n = s.router n ∨ t.router n = (s.router n).vacant) ∧
  ∀ n c, s.core n = some c → ∃ d, t.core n = some d ∧ d.swaps = c.swaps

theorem Calm.refl (s : State) : Calm s s := ⟨fun _ => .inl rfl, fun _ c h => ⟨c, h, rfl⟩⟩
theorem vacant_vacant (r : Router) : r.vacant.vacant = r.vacant := rfl
theorem Calm.trans {s t u : State} (h : Calm s t) (h' : Calm t u) : Calm s u := by
  refine ⟨fun n => ?_, fun n c hc => ?_⟩
  · obtain hu | hu := h'.1 n <;> obtain ht | ht := h.1 n <;> rw [ht] at hu
    · exact .inl hu
    · exact .inr hu
    · exact .inr hu
    · exact .inr (hu.trans (vacant_vacant _))
  · obtain ⟨d, hd, hds⟩ := h.2 n c hc
    obtain ⟨e, he, hes⟩ := h'.2 n d hd
    exact ⟨e, he, hes.trans hds⟩
theorem Calm.of {s t : State} (hr : t.routers = s.routers) (hc : t.cores = s.cores) : Calm s t :=
  ⟨fun n => .inl (by rw [State.router, hr]; rfl), fun n c h => ⟨c, by rw [State.core, hc]; exact h, rfl⟩⟩
theorem sameCores_foldl {β : Type} {g : State → β → State} (hg : ∀ s b, (g s b).routers = s.routers ∧ (g s b).cores = s.cores) (l : List β) (s : State) :
    (l.foldl g s).routers = s.routers ∧ (l.foldl g s).cores = s.cores :=
  foldl_rel (R := fun a b : State => b.routers = a.routers ∧ b.cores = a.cores) (fun _ => ⟨rfl, rfl⟩)
    (fun h h' => ⟨h'.1.trans h.1, h'.2.trans h.2⟩) hg l s
theorem Calm.foldl {β : Type} {g : State → β → State} (hg : ∀ t b, Calm t (g t b)) (l : List β) (s : State) : Calm s (l.foldl g s) :=
  foldl_rel Calm.refl Calm.trans hg l s

theorem assoc_map_snd {α : Type} (g : Nat → α → α) (l : List (Nat × α)) (n : Nat) :
    assoc (l.map fun x => (x.1, g x.1 x.2)) n = (assoc l n).map (g n) := by
  induction l with
  | nil => rfl
  | cons a l ih =>
    by_cases h : a.1 = n
    · simp [assoc, h]
    · simpa [assoc, h] using ih

theorem calm_setCore {s : State} {n : Nat} {c d : Core} (h : s.core n = some c) (hd : d.swaps = c.swaps) : Calm s (s.setCore n d) := by
  refine ⟨fun _ => .inl rfl, fun m e hm => ?_⟩
  by_cases hmn : m = n
  · subst hmn
    rw [h] at hm
    exact ⟨d, core_setCore _ _ _, by rw [hd, Option.some.inj hm]⟩
  · exact ⟨e, by rw [core_setCore_ne _ _ hmn, hm], rfl⟩

theorem calm_faultCore (s : State) (a : Agent) (d : DFault) : Calm s (s.faultCore a d) := by
  unfold State.faultCore
  split
  · split
    · next hc => exact calm_setCore hc rfl
    · exact .refl s
  · exact .refl s

theorem calm_failReq (s : State) (r : MemReq) (code : Byte) (va : Nat) : Calm s (s.failReq r code va) := by
  have hd : Calm s (s.dropFill r) := by
    unfold State.dropFill
    split
    · exact .of rfl rfl
    · exact .refl s
  unfold State.failReq
  extract_lets t
  split
  · exact hd.trans (.trans (.of rfl rfl) (calm_faultCore _ _ _))
  · exact hd.trans (.of rfl rfl)

theorem calm_tidy (s : State) : Calm s s.tidy := .of rfl rfl

theorem calm_failTile (s : State) (r : MemReq) (code : Byte) (va : Nat) : Calm s (s.failTile r code va) := by
  have h : Calm s ((s.unreserve r.id).onReq r.id fun q => { q with spots := [] }) := .of rfl rfl
  exact h.trans ((calm_failReq _ _ _ _).trans (calm_tidy _))

theorem calm_failIn (in_ : Nat → Bool) (s : State) (r : MemReq) : Calm s (s.failIn in_ r) := by
  unfold State.failIn
  split
  · exact .refl s
  · split
    · split
      · exact calm_failTile _ _ _ _
      · exact .refl s
    · split
      · exact calm_failReq _ _ _ _
      · exact .refl s

theorem calm_evict (s : State) (k : Nat) (l : SLine) (back : Bool) : Calm s (s.evict k l back) := by
  unfold State.evict
  extract_lets x t
  have ht : Calm s t := .of rfl rfl
  split
  · exact ht.trans (.of rfl rfl)
  · split
    · exact ht.trans (.of rfl rfl)
    · exact ht

theorem calm_destroyKeys (s : State) (i : Fin 16) : Calm s (s.destroyKeys i) := by
  unfold State.destroyKeys
  extract_lets mine in_ t gone u
  have ht : Calm s t := (Calm.foldl (calm_failIn in_) _ _).trans (calm_tidy _)
  have hu : Calm t u := .foldl (fun x (l : Nat × SLine) => calm_evict x l.1 l.2 false) _ _
  exact ht.trans (hu.trans (.of rfl rfl))

/-- The partition's cores are as at reset and its routers empty. -/
theorem calm_vacated (s : State) (q : Nat → Bool) : Calm s { s with
    cores := s.cores.map fun x => if q x.1 then (x.1, s.vacant x.1 x.2) else x
    routers := s.routers.map fun x => if q x.1 then (x.1, x.2.vacant) else x } := by
  have hr : (s.routers.map fun x => if q x.1 then (x.1, x.2.vacant) else x) =
      s.routers.map fun x => (x.1, if q x.1 then x.2.vacant else x.2) := List.map_congr_left fun x _ => by split <;> rfl
  have hc : (s.cores.map fun x => if q x.1 then (x.1, s.vacant x.1 x.2) else x) =
      s.cores.map fun x => (x.1, if q x.1 then s.vacant x.1 x.2 else x.2) := List.map_congr_left fun x _ => by split <;> rfl
  refine ⟨fun n => ?_, fun n c hn => ?_⟩
  · show (assoc (s.routers.map _) n).getD Router.reset = _ ∨ (assoc (s.routers.map _) n).getD Router.reset = _
    rw [hr, assoc_map_snd (fun k (r : Router) => if q k then r.vacant else r)]
    cases h : assoc s.routers n with
    | none => exact .inl (by rw [State.router, h]; rfl)
    | some r =>
      have hr : s.router n = r := by rw [State.router, h]; rfl
      cases hq : q n
      · exact .inl hr.symm
      · exact .inr (by rw [hr]; rfl)
  · have hs : assoc s.cores n = some c := hn
    refine ⟨if q n then s.vacant n c else c, ?_, by split <;> rfl⟩
    show assoc (s.cores.map _) n = _
    rw [hc, assoc_map_snd (fun k (c : Core) => if q k then s.vacant k c else c), hs]
    rfl

theorem calm_clearPart (s : State) (part : Fin 16) : Calm s (s.clearPart part) := by
  unfold State.clearPart
  split
  · exact .refl s
  · next p hp =>
    extract_lets gone t
    obtain ⟨hr, hc⟩ : t.routers = s.routers ∧ t.cores = s.cores := sameCores_foldl (g := State.unreserve) (fun _ _ => ⟨rfl, rfl⟩) gone s
    rw [hr, hc]
    exact (calm_vacated s p.has).trans (.of rfl rfl)

theorem calm_clearCtx (s : State) (k : Fin 8) : Calm s (s.clearCtx k) := by
  unfold State.clearCtx
  split
  · exact calm_clearPart _ _
  · exact .refl s

theorem calm_beginRestore (s : State) (part : Fin 16) : Calm s (s.beginRestore part) := by
  unfold State.beginRestore
  split
  · exact .refl s
  · split
    · exact .of rfl rfl
    · exact .refl s

theorem calm_leftSet (s : State) (k : Fin 8) : Calm s (s.leftSet k) := by
  unfold State.leftSet
  extract_lets t
  have ht : Calm s t := .foldl (fun x p => by
    split
    · exact .of rfl rfl
    · exact .refl x) _ _
  refine ht.trans (.foldl (fun x p => ?_) _ _)
  split
  · exact .trans (t := x.onPreempt p fun q => { q with out := none, saved := true }) (.of rfl rfl) (calm_beginRestore _ p)
  · exact calm_beginRestore x p

theorem calm_onCtx (s : State) (k : Fin 8) (f : Ctx → Ctx) : Calm s (s.onCtx k f) := .of rfl rfl

theorem calm_faultCtx (s : State) (k : Fin 8) : Calm s (s.faultCtx k) :=
  (calm_clearCtx s k).trans ((calm_onCtx _ k _).trans (calm_leftSet _ k))

theorem calm_onTdi (s : State) (i : Fin 16) (f : Tdi → Tdi) : Calm s (s.onTdi i f) := .of rfl rfl

theorem calm_enterError (s : State) (i : Fin 16) (cause : Fin 5) : Calm s (s.enterError i cause) := by
  unfold State.enterError
  extract_lets t
  exact ((calm_onTdi s i _).trans (calm_destroyKeys _ i)).trans (.foldl (fun x k => calm_faultCtx x k) _ _)

theorem calm_judged (s : State) : Calm s s.judged := by
  have hr : ∀ x : State, Calm x x.redebug := fun x => .of rfl rfl
  refine .trans (.foldl (fun x i => ?_) _ _) (hr _)
  split
  · exact calm_enterError x i 1
  · exact .refl x

/-! ## A swap wave: the router it reaches -/

theorem strays_only (n : Nat) (l : List Flying) (s : State) (seen : List (Fin 6 × Msg)) : ∃ e, s.strays n seen l = { s with events := e } := by
  induction l generalizing s seen with
  | nil => exact ⟨s.events, rfl⟩
  | cons f l ih =>
    unfold State.strays
    extract_lets k
    split
    · exact ih s seen
    · obtain ⟨e, he⟩ := ih (s.stray n k.1 k.2) (k :: seen)
      exact ⟨e, he⟩

theorem planeOf_router (s : State) (n : Nat) : s.planeOf n = (s.router n).plane := by
  rw [State.planeOf, State.router]
  split
  · next h => rw [h]; rfl
  · next h => rw [h]; rfl

/-- A router after its swap: the other plane is active, and its entries begin anew. -/
structure Router.Renewed (r r' : Router) : Prop where
  plane : r'.plane = !r.plane
  cur : r'.cur = []
  marks : r'.marks = []
  slots : r'.slots = []
  spilled : r'.spilled = []
  ends : r'.ends = 0

theorem Router.Renewed.vacant {r r' : Router} (h : r.Renewed r') : r.Renewed r'.vacant := ⟨h.plane, rfl, rfl, rfl, rfl, rfl⟩

/-- A router has been renewed and its core counts the swap. -/
def Swapped (n : Nat) (s t : State) : Prop := (s.router n).Renewed (t.router n) ∧
  ∀ c, s.core n = some c → ∃ d, t.core n = some d ∧ d.swaps = c.swaps + 1

theorem Swapped.calm {n : Nat} {s t u : State} (h : Swapped n s t) (hc : Calm t u) : Swapped n s u := by
  obtain ⟨hr, hcore⟩ := h
  refine ⟨?_, fun _ hs => ?_⟩
  · obtain hu | hu := hc.1 n <;> rw [hu]
    · exact hr
    · exact hr.vacant
  · obtain ⟨d, hd, hds⟩ := hcore _ hs
    obtain ⟨e, he, hes⟩ := hc.2 n d hd
    exact ⟨e, he, hes.trans hds⟩

/-- The core of a renewed router counts the swap, where there is one. -/
theorem swapped_setCore {n : Nat} {s t : State} {c d : Core} (hr : (s.router n).Renewed (t.router n)) (hst : t.core n = s.core n)
    (hc : t.core n = some c) (hd : d.swaps = c.swaps + 1) : Swapped n s (t.setCore n d) := by
  refine ⟨hr, fun c' hc' => ⟨d, core_setCore _ _ _, ?_⟩⟩
  rw [hst, hc'] at hc
  rw [hd, Option.some.inj hc]

theorem swapped_none {n : Nat} {s t : State} (hr : (s.router n).Renewed (t.router n)) (hst : s.core n = none) : Swapped n s t :=
  ⟨hr, fun _ hc => nomatch hst.symm.trans hc⟩

theorem swapped_swapRouter (s : State) (n : Nat) (p : Part) : Swapped n s (s.swapRouter n p) := by
  unfold State.swapRouter
  extract_lets new u old waiting t1 t2 t
  have hc1 : t1.cores = s.cores := (sameCores_foldl (g := State.discard) (fun _ _ => ⟨rfl, rfl⟩) old u).2
  have hc2 : t2.cores = s.cores := by
    obtain ⟨e, he⟩ := strays_only n ((old.filter fun f => f.place.isHeld) ++ old.filter fun f => !f.place.isHeld) t1 []
    obtain ⟨e', he'⟩ := strays_only n (waiting.map fun m => { place := .input n 0, msg := m }) { t1 with events := e } []
    have h2 : t2 = { t1 with events := e' } := by
      show State.strays (State.strays t1 n [] _) n [] _ = _
      rw [he, he']
    rw [h2]
    exact hc1
  have hcore : t.core n = s.core n := congrArg (fun l => assoc l n) hc2
  have hr : (s.router n).Renewed (t.router n) := by
    show Router.Renewed _ (State.router (t2.onRouter n _) n)
    rw [router_onRouter]
    exact ⟨by rw [← planeOf_router], rfl, rfl, rfl, rfl, rfl⟩
  split
  · next h _ => exact swapped_setCore hr hcore h rfl
  · next _ h _ => exact swapped_setCore hr hcore h rfl
  · next _ h _ =>
    split
    · exact swapped_none hr (hcore.symm.trans h)
    · exact swapped_none hr (hcore.symm.trans h)
  · next h _ => exact swapped_none hr (hcore.symm.trans h)

theorem calm_endSwap (s : State) (i : Fin 16) : Calm s (s.endSwap i) := by
  unfold State.endSwap
  split
  · exact .refl s
  · exact .of rfl rfl

theorem planeSwap_makes {s : State} {n : Nat} {i : Fin 16} {p : Part} (hc : s.clocked = true) (hp : s.partOf n = some (i, p)) (hn : n ∈ p.swap) :
    Makes (.planeSwap n) s (Swapped n s) := by
  have hcon : p.swap.contains n = true := by simpa using hn
  have hon : ∀ (x : State) f, Calm x (x.onPart i f) := fun _ _ => .of rfl rfl
  have hat : ∃ t, s.swapAt n = some t ∧ Swapped n s t := by
    simp only [State.swapAt, hp, hcon, if_true]
    refine ⟨_, rfl, ?_⟩
    split
    · exact (swapped_swapRouter s n p).calm ((hon _ _).trans (calm_endSwap _ i))
    · exact (swapped_swapRouter s n p).calm (hon _ _)
  obtain ⟨t, ht, hs⟩ := hat
  have hev : evPlaneSwap n s = some t.judged := by rw [evPlaneSwap, ht]; rfl
  exact makes_event rfl hc hev (hs.calm (calm_judged t))

/-! ## Probes -/

theorem startProbe_of {s : State} {i : Fin 16} {p : Part} (asked : Bool) (hp : s.part i = some p) (hn : p.probe = none) :
    s.startProbe i asked = some (s.onPart i fun q => { q with probe := some {
      moved := s.movement p, at_ := s.wcc, asked, done := s.probeDone i p, blocked := (s.blockedIn p).map fun b => (b.1, b.2.1) } }) := by
  simp only [State.startProbe, hp, hn, Option.isSome_none, Bool.false_eq_true, if_false]

theorem decided_of {s : State} {i : Fin 16} {p : Part} (asked : Bool) (v : Fin 8) (hp : s.part i = some p) :
    (∃ q, (s.decided i asked v).part i = some q ∧ q.probe = none) ∧ (asked = false → (s.decided i asked v).verdict = s.verdict) ∧
    (asked = true → (s.decided i asked v).verdict = v) ∧ (s.decided i asked v).events = s.events ∧ (s.decided i asked v).qdCount = s.qdCount := by
  have hq : (s.onPart i fun q => { q with probe := none }).part i = some { p with probe := none } := part_onPart _ hp
  cases asked
  · exact ⟨⟨_, hq, rfl⟩, fun _ => rfl, fun h => (nomatch h), rfl, rfl⟩
  · exact ⟨⟨_, hq, rfl⟩, fun h => (nomatch h), fun _ => rfl, rfl, rfl⟩

/-- A probe's second wave ends it, whatever it decides. -/
theorem probeWave_settled {s : State} {i : Fin 16} {p : Part} {r : ProbeRec} (hc : s.clocked = true) (hp : s.part i = some p) (hr : p.probe = some r)
    (hat : r.at_ + 65536 ≤ s.wcc) :
    Makes (.probeWave i) s fun t => (∃ q, t.part i = some q ∧ q.probe = none) ∧ (r.asked = false → t.verdict = s.verdict) ∧
      (s.movement p ≠ r.moved → t.events = s.events ∧ (r.asked = true → t.verdict = 1)) ∧
      (s.movement p = r.moved → r.done = true → s.probeDone i p = true → t.events.length = s.events.length + 1 ∧ (r.asked = true → t.verdict = 3)) ∧
      (s.movement p = r.moved → (r.done = false ∨ s.probeDone i p = false) → s.qdRecords p r.blocked = [] →
        t.events = s.events ∧ (r.asked = true → t.verdict = 2)) ∧
      (s.movement p = r.moved → (r.done = false ∨ s.probeDone i p = false) → s.qdRecords p r.blocked ≠ [] →
        t.qdCount = BitVec.ofNat 7 (s.qdRecords p r.blocked).length ∧ t.events.length = s.events.length + 1 ∧ (r.asked = true → t.verdict = 4)) := by
  have hlate : ¬ s.wcc < r.at_ + 65536 := BitVec.not_lt.mpr hat
  by_cases hm : s.movement p = r.moved
  · by_cases hd : (r.done && s.probeDone i p) = true
    · have hev : evProbeWave i s = some ((s.decided i r.asked 3).raisePart 0x44 i 0) := by
        simp only [evProbeWave, hp, hr, hlate, if_false, hm, ne_eq, not_true_eq_false, hd, if_true]
      obtain ⟨hpart, hun, hv, he, _⟩ := decided_of r.asked 3 hp
      have hnot : ¬ (r.done = false ∨ s.probeDone i p = false) := by simpa using hd
      refine makes_event rfl hc hev ⟨hpart, hun, fun h => absurd hm h, fun _ _ _ => ⟨?_, hv⟩, fun _ h => absurd h hnot, fun _ h => absurd h hnot⟩
      rw [← he]
      exact List.length_append
    · have hnot : ¬ (r.done = true ∧ s.probeDone i p = true) := by simpa using hd
      by_cases hl : s.qdRecords p r.blocked = []
      · have hev : evProbeWave i s = some (s.decided i r.asked 2) := by
          simp only [evProbeWave, hp, hr, hlate, if_false, hm, ne_eq, not_true_eq_false, hd, hl, List.isEmpty_nil, if_true]
          rfl
        obtain ⟨hpart, hun, hv, he, _⟩ := decided_of r.asked 2 hp
        exact makes_event rfl hc hev ⟨hpart, hun, fun h => absurd hm h, fun _ h h' => absurd ⟨h, h'⟩ hnot, fun _ _ _ => ⟨he, hv⟩,
          fun _ _ h => absurd hl h⟩
      · have hemp : (s.qdRecords p r.blocked).isEmpty = false := by simpa using hl
        have hev : evProbeWave i s = some (((s.writeQd (s.qdRecords p r.blocked)).decided i r.asked 4).raisePart 0x43 i
            (s.qdRecords p r.blocked).length) := by
          simp only [evProbeWave, hp, hr, hlate, if_false, hm, ne_eq, not_true_eq_false, hd, hemp, Bool.false_eq_true]
        obtain ⟨hpart, hun, hv, he, hq⟩ := decided_of (s := s.writeQd (s.qdRecords p r.blocked)) r.asked 4 hp
        refine makes_event rfl hc hev ⟨hpart, hun, fun h => absurd hm h, fun _ h h' => absurd ⟨h, h'⟩ hnot, fun _ _ h => absurd h hl,
          fun _ _ _ => ⟨hq, ?_, hv⟩⟩
        rw [← show _ = s.events from he]
        exact List.length_append
  · have hev : evProbeWave i s = some (s.decided i r.asked 1) := by
      simp only [evProbeWave, hp, hr, hlate, if_false, hm, ne_eq, not_false_eq_true, if_true]
    obtain ⟨hpart, hun, hv, he, _⟩ := decided_of r.asked 1 hp
    exact makes_event rfl hc hev ⟨hpart, hun, fun _ => ⟨he, hv⟩, fun h => absurd h hm, fun h => absurd h hm, fun h => absurd h hm⟩

/-- Settles O53: chunks and markers by what their entry does, a wave by the state it leaves. -/
theorem collectivesAndPlanes : Obligations.CollectivesAndPlanes := by
  unfold Obligations.CollectivesAndPlanes
  refine ⟨?chunk, ?refetch, ?marker, ?carry, ?drain, ?swap, ?wave, ?timer, ?probe, fun s i p r hc hp hr hat => probeWave_settled hc hp hr hat,
    fun s hc => event_some hc rfl⟩
  case chunk =>
    intro s n ch f v g fmt i data x hc hh hb hj hx hin hm hs
    have hpos : 0 < f.msg.body.flits := by rw [hb]; exact Nat.lt_of_lt_of_le Nat.zero_lt_one (Nat.le_add_right 1 _)
    refine ⟨fun hcomb ho => ?_, fun op hop hfmt hsp => ⟨fun hp => ⟨fun hroom => ?_, fun hroom => ?_⟩, fun l hp ho => ?_⟩⟩
    · have hat : s.chunkAt n ch.port f { vsn := v, tag := g, index := i, fmt, data, from_ := ch.port } =
          some ((({ s with msgs := swapMsg f none s.msgs } : State).moved n).post (.core n ch.port) f.msg) := by
        simp only [State.chunkAt, hx, hm, List.contains_eq_mem, hin, decide_true, Bool.not_true, Bool.or_self, Bool.false_eq_true, if_false, hcomb,
          ho, forwardChunk_core hs hh.whole hpos]
      exact chunkArrival_at hc hh hb hj hat rfl
    · refine chunks_settled hc hh hb hj hx hin hm hop hfmt hsp (offerChunk_holds hp hroom) ⟨rfl, ?_⟩
      rw [moved_router_slots, router_onRouter]
      rfl
    · refine chunks_settled hc hh hb hj hx hin hm hop hfmt hsp (offerChunk_full hp hroom) ⟨rfl, ?_⟩
      rw [moved_router_spilled, router_onRouter]
      rfl
    · refine chunks_settled hc hh hb hj hx hin hm hop hfmt hsp (offerChunk_core hp ho hs) ⟨fun y hy => ?_, rfl⟩
      rw [moved_router_slots, State.post] at hy
      have hy' : y ∈ ((({ s with msgs := swapMsg f none s.msgs } : State).onRouter n fun y =>
        { y with slots := y.slots.filter fun z => !(l.contains z) }).router n).slots := hy
      rw [router_onRouter] at hy'
      simpa using (List.mem_filter.mp hy').2
  case refetch =>
    intro s n h d l x op hc hsp hx hop hp hroom
    have hq : ∀ r, (s.onRouter n fun y => { y with spilled := r }).router n = { s.router n with spilled := r } := fun r => router_onRouter _ _ _
    have hev : evChunkRefetch n s = some (((s.onRouter n fun y => { y with spilled := l }).onRouter n fun y => { y with slots := y.slots ++ [h] }).moved n) := by
      simp only [evChunkRefetch, hsp, hx, hop, Option.bind_some]
      rw [offerChunk_holds (by rw [hq]; exact hp) (by rw [hq]; exact hroom)]
      rfl
    refine makes_event rfl hc hev ⟨?_, ?_⟩
    · rw [moved_router_spilled, router_onRouter, router_onRouter]
    · rw [moved_router_slots, router_onRouter, router_onRouter]
  case marker =>
    intro s n ch f v g last fs x hc hh hb hj hfs hx hin hm hs
    refine ⟨fun ⟨q, hq, hne, hqm⟩ => ?_, fun hins ho hsp => ?_⟩
    · have hwait : ((({ s with msgs := swapMsg f none s.msgs } : State).onRouter n fun r => { r with
          marks := r.marks ++ [(v, ch.port, last)], ends := if last ∧ x.combine.isSome then r.ends + 1 else r.ends }).router n).marked v q = false := by
        rw [router_onRouter, marked_append (r := s.router n) (p := ch.port) (l := last) rfl, hqm]
        simpa using Ne.symm hne
      refine markerArrival_at hc hh hb hj hfs hx hin hm (stepFacet_waits hq hwait) ⟨rfl, ?_, ?_⟩
      · rw [State.moved, router_onRouter, router_onRouter]
        rfl
      · rw [State.moved, router_onRouter, router_onRouter]
        rfl
    · have hr := router_onRouter { s with msgs := swapMsg f none s.msgs } n fun r => { r with
          marks := r.marks ++ [(v, ch.port, last)], ends := if last ∧ x.combine.isSome then r.ends + 1 else r.ends }
      obtain ⟨e, he⟩ := stepFacet_core (s := ({ s with msgs := swapMsg f none s.msgs } : State).onRouter n fun r => { r with
          marks := r.marks ++ [(v, ch.port, last)], ends := if last ∧ x.combine.isSome then r.ends + 1 else r.ends }) (v := v) (g := g) (x := x)
          (k := fs.length) (by rw [hr, hins]; simp [Router.marked]) (by rw [hr]; exact hsp) ho (by rw [hr]; exact hs)
      refine markerArrival_at hc hh hb hj hfs hx hin hm he ⟨rfl, ?_, ?_⟩
      · rw [State.moved, router_onRouter, router_onRouter]
        exact marked_filter rfl
      · rw [State.moved, router_onRouter, router_onRouter, hr]
        exact lookupD_putKey _ _ _ _
  case carry =>
    intro s n down c f x rest m a b hc hn hf hw hh hfirst hb hq
    have htake := takeMsg_of_first hfirst
    have hscan : ∀ d : Core, d.firing = c.firing → d.scanQ = c.scanQ → (({ s with msgs := rest } : State).setCore n d).scanOn n =
        (({ s with msgs := rest } : State).setCore n d).setCore n d := fun d hdf hdq => by
      have hd : d.scanOn = (d, []) := by simp only [Core.scanOn, hdq, hq]
      simp only [State.scanOn, core_setCore, hd, hdf, hf, State.sendCarries]
    have hlands : s.carryLands n down = some (((({ s with msgs := rest } : State).setCore n
        (if down then { c with fifoDown := c.fifoDown ++ [m] } else { c with fifoUp := c.fifoUp ++ [m] })).scanOn n).moved n) := by
      simp only [State.carryLands, hn, Option.bind_some, hf, hw, hh, Bool.not_true, Bool.or_self, Bool.false_eq_true, if_false, htake, hb]
    rw [hscan _ (by cases down <;> rfl) (by cases down <;> rfl)] at hlands
    refine makes_event rfl hc (show evCarryMessageArrival n down s = _ by rw [evCarryMessageArrival, hlands]) ?_
    exact ⟨rfl, by rw [core_moved, core_setCore]⟩
  case drain =>
    intro s i p hc hp hcomp hd hs hcl
    refine ⟨fun hn => event_some hc ?_, fun t0 hn ht => ?_⟩
    · simp [evDrainWave, hp, hcomp, hd, hs, hn, hcl]
    · have hlate : ¬ s.wcc < t0 + 1024 := BitVec.not_lt.mpr ht
      have hev : evDrainWave i s = some { s.onPart i fun q => { q with drained := true } with mgmt := s.mgmt ++ [.drained i] } := by
        simp only [evDrainWave, hp, hcomp, hd, hs, hn, hcl, hlate, Bool.not_true, Bool.or_self, Bool.false_eq_true, if_false, if_true]
        rfl
      exact makes_event rfl hc hev ⟨⟨{ p with drained := true }, part_onPart (fun q => { q with drained := true }) hp, rfl⟩, rfl⟩
  case swap =>
    intro s i p hc hp hs hfree
    refine ⟨fun hd => event_some hc ?_, event_some hc ?_⟩
    · simp [evCfgswap, hp, hd, hs, hfree, State.beginSwap]
    · simp [evCfgswapForce, hp, hs, hfree, State.beginSwap]
  case wave =>
    intro s n i p hc hp hn
    obtain ⟨t, ht, ⟨hpl, hcur, hmk, hsl, hsp, he⟩, hcore⟩ := planeSwap_makes hc hp hn
    exact ⟨t, ht, hpl, hcur, hmk, hsl, hsp, he, hcore⟩
  case timer =>
    intro s n port k i p q hc ht ho hp hn
    have hany : ([false, true].any fun k => lookupD 0 (s.router n).timers (port, k) == s.congLimit) = true :=
      List.any_eq_true.mpr ⟨k, by cases k <;> simp, by simp [ht]⟩
    refine event_some hc ?_
    simp only [evCongestionTimeout, ho, hany, if_true, startProbe_of false hp hn]
  case probe =>
    intro s i p hc hp hn
    refine makes_event rfl hc (show evProbe i s = _ by rw [evProbe, startProbe_of true hp hn]; rfl) ⟨rfl, ?_⟩
    have hq := part_onPart (fun q => { q with probe := some {
      moved := s.movement p, at_ := s.wcc, asked := true, done := s.probeDone i p, blocked := (s.blockedIn p).map fun b => (b.1, b.2.1) } }) hp
    exact ⟨_, hq, rfl⟩

end Sys2Proof.Machine
end

section
/-! Memory requests, settled (02 R46 to R60, 07 R215 to R217, Table 7-3, 14 R385, R386). -/

namespace Sys2Proof.Machine

/-! ## The memory plane -/

/-- A message at the router it is bound for is taken there. -/
theorem memHop_arrives {s : State} {tok : MemTok} {m : Msg} {n : Nat} {p : Fin 6} {e : Bool} {k : Nat} (h : Arrives s tok m n p)
    (hb : m.body = .mem tok n e (1 + k)) :
    s.memHop tok = some (({ s with msgs := swapMsg { place := .input n p, msg := m } none s.msgs } : State).moved n, true) := by
  obtain ⟨hfound, hfirst⟩ := h
  have hway : s.wayOf n m.body = some (if e then 5 else 0) := by simp [State.wayOf, hb, State.bound]
  have hend : (if e then (5 : Fin 6) else 0) = 0 ∨ (if e then (5 : Fin 6) else 0) = 5 := by cases e <;> simp
  have hflits : ({ place := .input n p, msg := m } : Flying).flits = 1 + k := by
    rw [flits_of_whole ⟨rfl, rfl, rfl⟩, hb]
    rfl
  have hpos : ({ place := .input n p, msg := m } : Flying).flits ≠ 0 := by omega
  simp only [State.memHop, hfound, Option.bind_some, hfirst, ne_eq, not_true_eq_false, if_false, hway, hend, if_true, State.pour, List.foldl, hpos,
    beq_self_eq_true, Bool.and_self, State.sendAll, Option.map_some]

/-- The state after a message of the memory plane has been taken at its end. -/
def State.took (s : State) (n : Nat) (p : Fin 6) (m : Msg) : State :=
  ({ s with msgs := swapMsg { place := .input n p, msg := m } none s.msgs } : State).moved n

theorem sliceOf_congr {s t : State} (hparts : t.parts = s.parts) (hplane : ∀ n, (t.router n).plane = (s.router n).plane) (part : Fin 16) (pa : Nat) :
    t.sliceOf part pa = s.sliceOf part pa := by
  have hp : ∀ q, t.part q = s.part q := fun q => by rw [State.part, hparts]; rfl
  have hl : t.sliceList part = s.sliceList part := by
    simp only [State.sliceList, hp, planeOf_router, hplane]
  simp only [State.sliceOf, hl]

theorem took_plane (s : State) (n : Nat) (p : Fin 6) (m : Msg) (k : Nat) : ((s.took n p m).router k).plane = (s.router k).plane := by
  rw [State.took, State.moved, router_onRouter_eq]
  split
  · next h => subst h; rfl
  · rfl

theorem took_sliceOf (s : State) (n : Nat) (p : Fin 6) (m : Msg) (part : Fin 16) (pa : Nat) : (s.took n p m).sliceOf part pa = s.sliceOf part pa :=
  sliceOf_congr (s := s) (t := s.took n p m) rfl (took_plane s n p m) part pa

theorem took_reqSlice (s : State) (n : Nat) (p : Fin 6) (m : Msg) (r : MemReq) : (s.took n p m).reqSlice r = s.reqSlice r := by
  simp only [State.reqSlice, took_sliceOf]

theorem took_atSlice (s : State) (n : Nat) (p : Fin 6) (m : Msg) (k : Nat) (st : Stage) : (s.took n p m).atSlice k st = s.atSlice k st := by
  simp only [State.atSlice, took_reqSlice]
  rfl

theorem took_queueLoad (s : State) (n : Nat) (p : Fin 6) (m : Msg) (k : Nat) : (s.took n p m).queueLoad k = s.queueLoad k := by
  simp only [State.queueLoad, took_reqSlice]
  rfl

/-! ## Requests -/

theorem req_id {s : State} {i : Nat} {r : MemReq} (h : s.req i = some r) : r.id = i := by simpa using List.find?_some h

theorem find?_map_req {i : Nat} {r : MemReq} (f : MemReq → MemReq) {l : List MemReq} (h : l.find? (fun q => q.id = i) = some r) (hid : (f r).id = i) :
    (l.map fun q => if q.id = i then f q else q).find? (fun q => q.id = i) = some (f r) := by
  induction l with
  | nil => nomatch h
  | cons a l ih =>
    by_cases ha : a.id = i
    · have har : a = r := by simpa [ha] using h
      subst har
      simp [ha, hid]
    · simpa [ha] using ih (by simpa [ha] using h)

/-- A request changed is read back so. -/
theorem req_onReq {s : State} {i : Nat} {r : MemReq} (f : MemReq → MemReq) (h : s.req i = some r) (hid : (f r).id = i) : (s.onReq i f).req i = some (f r) :=
  find?_map_req f h hid

theorem tells_post (s : State) (q : Place) (tok : MemTok) (m : Msg) {n k : Nat} {e : Bool} (h : m.body = .mem tok n e k) :
    (s.post q m).telling tok = true := by
  refine List.any_eq_true.mpr ⟨{ place := q, msg := m }, List.mem_append_right _ List.mem_cons_self, ?_⟩
  simp [Flying.tells, h]

theorem enterSlice_full {s : State} (r : MemReq) (h : 4096 ≤ (s.atSlice r.at_ .spilled).length) : s.enterSlice r = none := by
  have h0 : ¬ (s.queueLoad r.at_ < 64 ∧ (s.atSlice r.at_ .spilled).length = 0) := by omega
  simp only [State.enterSlice, if_neg h0, if_neg (Nat.not_lt.mpr h), Option.map_none]

/-- A request that a queue of its slice takes stands there, and its acceptance leaves. -/
theorem enterSlice_of {s : State} {i : Nat} {r : MemReq} {st : Stage} (hr : s.req i = some r)
    (h : (s.queueLoad r.at_ < 64 ∧ s.atSlice r.at_ .spilled = [] ∧ st = .queued) ∨
      ((64 ≤ s.queueLoad r.at_ ∨ s.atSlice r.at_ .spilled ≠ []) ∧ (s.atSlice r.at_ .spilled).length < 4096 ∧ st = .spilled)) :
    ∃ t, s.enterSlice r = some t ∧ (∃ q, t.req i = some q ∧ q.stage = st ∧ q.arr = s.nextReq) ∧ (r.isTile = false → t.telling (.accepted i) = true) := by
  have hid := req_id hr
  have hst : (if s.queueLoad r.at_ < 64 ∧ (s.atSlice r.at_ .spilled).length = 0 then some .queued
      else if (s.atSlice r.at_ .spilled).length < 4096 then some .spilled else none) = some st := by
    rcases h with ⟨hq, hs, rfl⟩ | ⟨hq, hs, rfl⟩
    · rw [if_pos ⟨hq, by rw [hs]; rfl⟩]
    · rw [if_neg (fun h => hq.elim (fun h' => absurd h.1 (Nat.not_lt.mpr h')) fun h' => h' (List.length_eq_zero_iff.mp h.2)), if_pos hs]
  have hq := req_onReq (fun q => { q with stage := st, arr := s.nextReq }) hr hid
  simp only [State.enterSlice, hst, Option.map_some, hid]
  refine ⟨_, rfl, ?_, fun ht => ?_⟩
  · split
    · exact ⟨_, hq, rfl, rfl⟩
    · exact ⟨_, hq, rfl, rfl⟩
  · rw [ht, Bool.false_and, if_neg Bool.false_ne_true]
    exact tells_post _ _ _ _ rfl

/-! ## Faults -/

theorem dropFill_only (s : State) (r : MemReq) : ∃ x, s.dropFill r = { s with slices := x } := by
  unfold State.dropFill
  split
  · exact ⟨_, rfl⟩
  · exact ⟨s.slices, rfl⟩

/-- An event that faults writes nothing, and its fault joins its core's. -/
theorem failReq_event {s : State} {i n : Nat} {r : MemReq} (h : s.req i = some r) (he : r.isEvent = true) (ha : r.agent = .core n) (code : Byte) (va : Nat) :
    (s.failReq r code va).pmem = s.pmem ∧ (∃ q, (s.failReq r code va).req i = some q ∧ q.stage = .faulted) ∧
      s.deferred (s.failReq r code va) n code (BitVec.ofNat 64 va) := by
  obtain ⟨x, hx⟩ := dropFill_only s r
  have hid := req_id h
  have hq : (({ s with slices := x } : State).onReq i fun q => { q with stage := .faulted }).req i = some { r with stage := .faulted } := req_onReq _ h hid
  have hf : s.failReq r code va = (({ s with slices := x } : State).onReq i fun q => { q with stage := .faulted }).faultCore (.core n)
      (({ s with slices := x } : State).reqFault r code va) := by
    simp only [State.failReq, hx, he, if_true, ha, hid]
  rw [hf, State.faultCore]
  split
  · next c hc =>
    have hs : s.core n = some c := hc
    refine ⟨rfl, ⟨_, hq, rfl⟩, fun d hd => ?_⟩
    rw [hs] at hd
    cases hd
    exact ⟨_, _, core_setCore _ _ _, rfl, rfl, rfl, rfl⟩
  · next hc => exact ⟨rfl, ⟨_, hq, rfl⟩, fun d hd => nomatch (show s.core n = none from hc).symm.trans hd⟩

/-! ## Slices and the stamps of their lines -/

theorem slice_setSlice (s : State) (k : Nat) (x : Slice) : (s.setSlice k x).slice k = x := by
  simp [State.slice, State.setSlice, assoc_set_self]

theorem slice_onReq (s : State) (i k : Nat) (f : MemReq → MemReq) : (s.onReq i f).slice k = s.slice k := rfl

theorem evict_reqs (s : State) (k : Nat) (l : SLine) (back : Bool) : (s.evict k l back).reqs = s.reqs := by
  unfold State.evict
  extract_lets x t
  split
  · rfl
  · split <;> rfl

/-- A fill that begins takes its way. -/
theorem beginFill_of (s : State) (k line way : Nat) : (line, way) ∈ ((s.beginFill k line way).slice k).fills ∧ (s.beginFill k line way).reqs = s.reqs := by
  unfold State.beginFill
  extract_lets t
  have ht : t.reqs = s.reqs := by
    unfold t
    split
    · exact evict_reqs s k _ true
    · rfl
  rw [slice_setSlice]
  exact ⟨List.mem_append_right _ List.mem_cons_self, ht⟩

theorem touched_remember (x : Slice) (line : Nat) : (x.remember line).touched line = true := by
  have hadd : ∀ f : List Nat, inBloom (f ++ (bloomHashes line).filter fun h => !f.contains h) line = true := fun f => by
    refine List.all_eq_true.mpr fun h hh => ?_
    by_cases hf : f.contains h = true
    · simpa using Or.inl (by simpa using hf)
    · simpa using Or.inr ⟨hh, by simpa using hf⟩
  unfold Slice.remember Slice.touched
  split
  · exact Bool.or_eq_true_iff.mpr (.inr (hadd _))
  · exact Bool.or_eq_true_iff.mpr (.inl (hadd _))

theorem find_map_line {l : List SLine} {line : Nat} {y : SLine} (g : SLine → SLine) (h : l.find? (fun x => x.line = line) = some y)
    (hg : ∀ x, (g x).line = x.line) : (l.map g).find? (fun x => x.line = line) = some (g y) := by
  induction l with
  | nil => nomatch h
  | cons a l ih =>
    by_cases ha : a.line = line
    · have hay : a = y := by simpa [ha] using h
      subst hay
      simp [hg, ha]
    · simpa [hg, ha] using ih (by simpa [ha] using h)

theorem stamps_stamp {x : Slice} {line : Nat} {l : SLine} (h : x.find line = some l) (wts rts : Nat) (write : Bool) :
    (x.stamp line wts rts write).stamps line = (wts, rts) := by
  have hl : l.line = line := by simpa using List.find?_some h
  have hf : ((x.lines.map fun y => if y.line = line then { y with wts, rts, dirty := y.dirty || write } else y).find? fun y => y.line = line) =
      some { l with wts, rts, dirty := l.dirty || write } := by
    have hg := find_map_line (fun y => if y.line = line then { y with wts, rts, dirty := y.dirty || write } else y) h
      (fun y => by split <;> rfl)
    rw [hg]
    simp [hl]
  unfold Slice.stamp
  rw [h]
  show Slice.stamps { x with lines := _, tree := _ } line = _
  simp only [Slice.stamps, Slice.find, hf]

theorem stamps_stampAt {s : State} {k line : Nat} {l : SLine} (h : (s.slice k).find line = some l) (wts rts : Nat) (write : Bool) :
    ((s.stampAt k line wts rts write).slice k).stamps line = (wts, rts) := by
  rw [State.stampAt, slice_setSlice]
  exact stamps_stamp h wts rts write

/-- What is written leaves every line a slice holds there. -/
theorem find_putMem {s : State} {k line : Nat} {l : SLine} (h : (s.slice k).find line = some l) (cells : List (Nat × Byte)) :
    ∃ y, ((s.putMem cells).slice k).find line = some y := by
  have hs : ∃ x, assoc s.slices k = some x ∧ x.find line = some l := by
    unfold State.slice at h
    cases hk : assoc s.slices k with
    | none =>
      rw [hk] at h
      nomatch h
    | some x => exact ⟨x, rfl, by rw [hk] at h; exact h⟩
  obtain ⟨x, hx, hxl⟩ := hs
  have hp : assoc (s.putMem cells).slices k = some (x.unlike (linesOf (cells.map (·.1))) s.pmem) := by
    show assoc (s.slices.map fun x => (x.1, x.2.unlike (linesOf (cells.map (·.1))) s.pmem)) k = _
    rw [assoc_map_snd (fun _ (y : Slice) => y.unlike (linesOf (cells.map (·.1))) s.pmem), hx]
    rfl
  rw [State.slice, hp]
  exact ⟨_, find_map_line _ hxl fun y => by split <;> rfl⟩

/-! ## What a performed request leaves -/

theorem performed_of {s : State} {i : Nat} {r : MemReq} (h : s.req i = some r) (k ts : Nat) (data : List (Nat × Byte)) :
    (s.performed r k ts data).pmem = s.pmem ∧ (s.performed r k ts data).slices = s.slices ∧
      ∃ q, (s.performed r k ts data).req i = some q ∧ q.stage = .served ∧ q.ts = ts ∧ q.data = data := by
  have hid := req_id h
  have hq := req_onReq (fun q => { q with stage := .served, ts, data, wts := ((s.slice k).stamps (r.pa / 128)).1,
                                           rts := ((s.slice k).stamps (r.pa / 128)).2 }) h hid
  rw [← hid] at hq
  exact ⟨rfl, rfl, _, by rw [← hid]; exact hq, rfl, rfl, rfl⟩

theorem view_clear {s : State} {l : List Nat} (h : ∀ x ∈ l, s.inClear x = true) : s.view l = s.pmem := by
  unfold State.view
  generalize s.pmem = m
  induction l generalizing m with
  | nil => rfl
  | cons a l ih =>
    simp only [List.foldl_cons, h a List.mem_cons_self, if_true]
    exact ih (fun x hx => h x (List.mem_cons_of_mem a hx)) m

/-- What a slice performs: a read stamps its line, a write puts its bytes and stamps it past every read. -/
theorem perform_of {s : State} {i : Nat} {r : MemReq} (hr : s.req i = some r) :
    let k := s.sliceOf r.part r.pa
    let st := (s.slice k).stamps (r.pa / 128)
    let m := s.view [r.pa / 128]
    (∀ reg ty lease, r.kind = .load reg ty lease → (s.perform r).pmem = s.pmem ∧ (∃ q, (s.perform r).req i = some q ∧ q.stage = .served ∧
      q.ts = max r.lts st.1 ∧ q.data = lineCells m (r.pa / 128)) ∧ ∀ l, (s.slice k).find (r.pa / 128) = some l →
        ((s.perform r).slice k).stamps (r.pa / 128) = (st.1, max st.2 (if lease then max r.lts st.1 + 64 else max r.lts st.1))) ∧
    (∀ n v, r.kind = .store n v → (s.perform r).pmem = (s.view (linesOf ((cellsAt r.pa (leBytes n v.toNat)).map (·.1)))).put (cellsAt r.pa (leBytes n v.toNat)) ∧
      (∃ q, (s.perform r).req i = some q ∧ q.stage = .served ∧ q.ts = max r.lts (st.2 + 1)) ∧ ∀ l, (s.slice k).find (r.pa / 128) = some l →
        ((s.perform r).slice k).stamps (r.pa / 128) = (max r.lts (st.2 + 1), max r.lts (st.2 + 1))) ∧
    (∀ op reg ty b c cells, r.kind = .amo op reg ty b c →
      cells = cellsAt r.pa (leBytes (tySize ty) (amoValue op ty (m.nat r.pa r.size) b.toNat c.toNat)) →
      (s.perform r).pmem = (s.view (linesOf (cells.map (·.1)))).put cells ∧
      ∃ q, (s.perform r).req i = some q ∧ q.stage = .served ∧ q.ts = max r.lts (st.2 + 1) ∧
        q.data = cellsAt r.pa (leBytes (tySize ty) (m.nat r.pa r.size))) := by
  intro k st m
  have hstamps : ∀ (u : State) (ts : Nat) (data : List (Nat × Byte)), ((u.performed r k ts data).slice k) = u.slice k := fun _ _ _ => rfl
  refine ⟨fun reg ty lease hk => ?_, fun n v hk => ?_, fun op reg ty b c cells hk hcells => ?_⟩
  · have hp : s.perform r = (s.stampAt k (r.pa / 128) st.1 (max st.2 (if lease then max r.lts st.1 + 64 else max r.lts st.1)) false).performed r k
        (max r.lts st.1) (lineCells m (r.pa / 128)) := by
      unfold State.perform
      rw [hk]
    obtain ⟨hmem, _, hq⟩ := performed_of (s := s.stampAt k (r.pa / 128) st.1 (max st.2 (if lease then max r.lts st.1 + 64 else max r.lts st.1)) false)
      hr k (max r.lts st.1) (lineCells m (r.pa / 128))
    rw [hp]
    exact ⟨hmem, hq, fun l hl => by rw [hstamps, stamps_stampAt hl]⟩
  · have hp : s.perform r = ((s.putMem (cellsAt r.pa (leBytes n v.toNat))).stampAt k (r.pa / 128) (max r.lts (st.2 + 1)) (max r.lts (st.2 + 1))
        true).performed r k (max r.lts (st.2 + 1)) [] := by
      unfold State.perform
      rw [hk]
    obtain ⟨hmem, _, q, hq, hst, hts, _⟩ := performed_of (s := (s.putMem (cellsAt r.pa (leBytes n v.toNat))).stampAt k (r.pa / 128)
      (max r.lts (st.2 + 1)) (max r.lts (st.2 + 1)) true) hr k (max r.lts (st.2 + 1)) []
    rw [hp]
    refine ⟨hmem, ⟨q, hq, hst, hts⟩, fun l hl => ?_⟩
    obtain ⟨y, hy⟩ := find_putMem hl (cellsAt r.pa (leBytes n v.toNat))
    rw [hstamps, stamps_stampAt hy]
  · have hp : s.perform r = ((s.putMem cells).stampAt k (r.pa / 128) (max r.lts (st.2 + 1)) (max r.lts (st.2 + 1)) true).performed r k
        (max r.lts (st.2 + 1)) (cellsAt r.pa (leBytes (tySize ty) (m.nat r.pa r.size))) := by
      unfold State.perform
      rw [hk, hcells]
    obtain ⟨hmem, _, hq⟩ := performed_of (s := (s.putMem cells).stampAt k (r.pa / 128) (max r.lts (st.2 + 1)) (max r.lts (st.2 + 1)) true)
      hr k (max r.lts (st.2 + 1)) (cellsAt r.pa (leBytes (tySize ty) (m.nat r.pa r.size)))
    rw [hp]
    exact ⟨hmem, hq⟩

/-! ## Serving -/

/-- A request at the head of its line is refused for its page; else it is performed where its slice holds the line, and misses where it does not. -/
theorem requestServe_eq {s : State} {i : Nat} {r : MemReq} (hr : s.req i = some r) (h : AtSlice s r)
    (hf : s.refusesPa r.part r.pa = false → s.fillOf r = none) :
    evRequestServe i s = if s.refusesPa r.part r.pa then some (s.failReq r trapProtFault r.va)
      else ((s.slice (s.sliceOf r.part r.pa)).find (r.pa / 128)).elim
        (s.miss r (s.sliceOf r.part r.pa) ((s.slice (s.sliceOf r.part r.pa)).touched (r.pa / 128) || !r.isEvent))
        fun _ => some (if s.badLine (r.pa / 128) then s.failReq r trapEccUncorr r.va else s.perform r) := by
  obtain ⟨hscalar, hstage, hfirst, hpred, hread, hwrite⟩ := h
  have hfresh : (r.stage == Stage.fresh) = false := by rw [hstage]; rfl
  have hqueued : (r.stage != Stage.queued) = false := by rw [hstage]; rfl
  unfold evRequestServe
  simp only [hr, hscalar, hfresh, hqueued, hfirst, hpred, hread, Option.isSome_none, Bool.or_self, Bool.false_or, Bool.false_eq_true, if_false]
  have hfree : ∀ w : Bool, (w = true → (s.slice (s.sliceOf r.part r.pa)).held (r.pa / 128) = false) →
      (w && (s.slice (s.sliceOf r.part r.pa)).held (r.pa / 128)) = false := fun w h => by
    cases w
    · rfl
    · exact h rfl
  rw [if_neg (Bool.eq_false_iff.mp (hfree _ fun hw => hwrite.elim (fun ⟨hs, ha⟩ => ?_) id))]
  · cases hp : s.refusesPa r.part r.pa with
    | true => rfl
    | false =>
      rw [hf hp]
      cases (s.slice (s.sliceOf r.part r.pa)).find (r.pa / 128) <;> rfl
  · split at hw
    · next hk => exact absurd hk (hs _ _)
    · next hk => exact absurd hk (ha _ _ _ _ _)
    · nomatch hw

/-! ## Completion -/

theorem cacheLine_only (c : Core) (l : CLine) : ∃ k, c.cacheLine l = { c with cache := k } := by
  unfold Core.cacheLine
  split
  · exact ⟨_, rfl⟩
  · exact ⟨c.cache, rfl⟩

/-- A load or a prefetch gives its value and keeps its line: in its core only fills and copies of lines change. -/
theorem complete_read {c : Core} {r : MemReq} (h : (∃ reg ty lease, r.kind = .load reg ty lease) ∨ ∃ lease, r.kind = .prefetch lease) :
    ∃ f k, c.complete r = { c with fills := f, cache := k } ∧ ∀ reg ty lease, r.kind = .load reg ty lease → f = giveFill (.s reg)
      (.s reg (tyWord ty (leNat ((List.range (tySize ty)).map fun j => (cellAt r.data (r.pa + j)).getD 0)))) c.fills := by
  have hkeep : ∀ (d : Core) (b : Bool) (l : CLine), ∃ k, (if b then d.recent l.line else d.cacheLine l) = { d with cache := k } := fun d b l => by
    cases b
    · exact cacheLine_only d l
    · exact ⟨_, rfl⟩
  obtain ⟨reg, ty, lease, hk⟩ | ⟨lease, hk⟩ := h
  · have hall : ∀ reg' ty' lease', r.kind = .load reg' ty' lease' → giveFill (.s reg)
        (.s reg (tyWord ty (leNat ((List.range (tySize ty)).map fun j => (cellAt r.data (r.pa + j)).getD 0)))) c.fills = giveFill (.s reg')
        (.s reg' (tyWord ty' (leNat ((List.range (tySize ty')).map fun j => (cellAt r.data (r.pa + j)).getD 0)))) c.fills := fun _ _ _ h => by
      obtain ⟨rfl, rfl, _⟩ := ReqKind.load.inj (hk.symm.trans h)
      rfl
    unfold Core.complete
    extract_lets keep value
    rw [hk] at hall ⊢
    dsimp only
    split
    · obtain ⟨k, hk⟩ := hkeep (c.give (.s reg) (.s reg (value ty))) _
        { line := r.pa / 128, bank := 0, wts := r.wts, rts := r.rts, ended := false, bytes := r.data.map (·.2) }
      exact ⟨_, k, hk, hall⟩
    · exact ⟨_, c.cache, rfl, hall⟩
  · have hall : ∀ reg ty lease', ReqKind.prefetch lease = .load reg ty lease' → c.fills = giveFill (.s reg)
        (.s reg (tyWord ty (leNat ((List.range (tySize ty)).map fun j => (cellAt r.data (r.pa + j)).getD 0)))) c.fills := fun _ _ _ h => nomatch h
    unfold Core.complete
    extract_lets keep value
    rw [hk]
    dsimp only
    split
    · obtain ⟨k, hk⟩ := hkeep c _ { line := r.pa / 128, bank := 0, wts := r.wts, rts := r.rts, ended := false, bytes := r.data.map (·.2) }
      exact ⟨_, k, hk, hall⟩
    · exact ⟨_, c.cache, rfl, hall⟩

theorem endCopy_lts (c : Core) (j : CopyJob) : (c.endCopy j).lts = c.lts := rfl

/-- A completion leaves its core's clock, and the streamer's commands but for a tile store's. -/
theorem complete_keeps (c : Core) (r : MemReq) : (c.complete r).lts = c.lts ∧ (r.kind = .tileLoad → c.complete r = c) := by
  cases hk : r.kind with
  | load reg ty lease =>
    obtain ⟨f, k, h, _⟩ := complete_read (c := c) (.inl ⟨reg, ty, lease, hk⟩)
    exact ⟨by rw [h], nofun⟩
  | prefetch lease =>
    obtain ⟨f, k, h, _⟩ := complete_read (c := c) (.inr ⟨lease, hk⟩)
    exact ⟨by rw [h], nofun⟩
  | store n v => exact ⟨by rw [Core.complete, hk], nofun⟩
  | amo op reg ty b d => exact ⟨by rw [Core.complete, hk]; rfl, nofun⟩
  | tileLoad => exact ⟨by rw [Core.complete, hk], fun _ => by rw [Core.complete, hk]⟩
  | tileStore =>
    refine ⟨?_, nofun⟩
    unfold Core.complete
    rw [hk]
    dsimp only
    split
    · rfl
    · rfl

/-- A request whose tile, if it is one, is written has gone with its completion, and its core has what it read. -/
theorem completeReq_core {s : State} {i n : Nat} {r : MemReq} {c : Core} (hr : s.req i = some r) (ha : r.agent = .core n) (hn : s.core n = some c)
    (ht : s.tileOpen r = false) : (s.completeReq r).pmem = s.pmem ∧ (∀ q ∈ (s.completeReq r).reqs, q.id ≠ i) ∧
      (r.isEvent = true → ∀ q ∈ (s.completeReq r).reqs, q.agent = r.agent → q.pred ≠ some r.seq) ∧
      (s.completeReq r).core n = some (({ c with lts := max c.lts r.ts } : Core).complete r) := by
  have hid := req_id hr
  have hcore : r.core = n := by rw [MemReq.core, ha]
  have hraise : s.raiseLts r.agent r.ts = s.setCore n { c with lts := max c.lts r.ts } := by simp only [State.raiseLts, ha, hn]
  have hopen : ((s.setCore n { c with lts := max c.lts r.ts }).setCore n (({ c with lts := max c.lts r.ts } : Core).complete r)).tileOpen r = false := by
    simp only [State.tileOpen, ha, hn] at ht
    simp only [State.tileOpen, ha, core_setCore]
    by_cases hk : r.kind = .tileLoad
    · rw [(complete_keeps _ r).2 hk]
      exact ht
    · simp [hk]
  have heq : s.completeReq r = { ((s.setCore n { c with lts := max c.lts r.ts }).setCore n (({ c with lts := max c.lts r.ts } : Core).complete r)) with
      reqs := (s.reqs.map fun q => if q.agent = r.agent ∧ q.pred = some r.seq ∧ r.isEvent then { q with pred := none, lts := max q.lts r.ts } else q).filter
        fun q => q.id ≠ r.id } := by
    simp only [State.completeReq, hraise, hcore, core_setCore, hopen, Bool.false_eq_true, if_false]
    rfl
  rw [heq]
  refine ⟨rfl, fun q hq => ?_, fun he q hq hqa => ?_, core_setCore _ _ _⟩
  · have hne := (List.mem_filter.mp hq).2
    rw [← hid]
    simpa using hne
  · obtain ⟨x, _, rfl⟩ := List.mem_map.mp (List.mem_filter.mp hq).1
    split at hqa
    · next h => rw [if_pos h]; exact nofun
    · next h => rw [if_neg h]; exact fun hp => h ⟨hqa, hp, he⟩

theorem completed_makes {s u : State} {i n : Nat} {r : MemReq} {c : Core} (hc : s.clocked = true) (hr : u.req i = some r) (ha : r.agent = .core n)
    (hn : u.core n = some c) (ho : u.tileOpen r = false) (hp : u.pmem = s.pmem) (hev : evCompletionToken i s = some (u.completeReq r)) :
    Makes (.completionToken i) s fun t => t.pmem = s.pmem ∧ (∀ q ∈ t.reqs, q.id ≠ i) ∧
      (r.isEvent = true → ∀ q ∈ t.reqs, q.agent = r.agent → q.pred ≠ some r.seq) ∧
      ∃ d, t.core n = some d ∧ d.lts = max c.lts r.ts ∧ ∀ reg ty lease, r.kind = .load reg ty lease →
        d.fills = giveFill (.s reg) (.s reg (tyWord ty (leNat ((List.range (tySize ty)).map fun j => (cellAt r.data (r.pa + j)).getD 0)))) c.fills := by
  obtain ⟨hmem, hgone, hpred, hcore⟩ := completeReq_core hr ha hn ho
  refine makes_event rfl hc hev ⟨hmem.trans hp, hgone, hpred, _, hcore, (complete_keeps _ r).1, fun reg ty lease hk => ?_⟩
  obtain ⟨f, k, hd, hf⟩ := complete_read (c := { c with lts := max c.lts r.ts }) (.inl ⟨reg, ty, lease, hk⟩)
  rw [hd]
  exact hf reg ty lease hk

/-- Settles O54: each event by the branch its hypotheses choose. -/
theorem memoryRequests : Obligations.MemoryRequests := by
  unfold Obligations.MemoryRequests
  refine ⟨?inject, ?arrive, ?back, ?accept, ?serve, ?hit, fun s i r hr => perform_of hr, fun s l h => view_clear h, ?fill, ?complete, ?cancel⟩
  case inject =>
    intro s i r k m hc hr hst htile hpred hinj hhit htell hk hm hcom hroom
    have hid := req_id hr
    have hflits : m.body.flits = 1 := by rw [hm]; rfl
    have hroom' : s.room (.input r.core 0) m = true := by simpa [State.room, State.lacking, hcom, hflits] using hroom
    have hev : s.injectReq r = some ((s.onReq i fun q => { q with stage := .sent, at_ := k, lts := max q.lts (s.lts q.agent) }).flow
        (.input r.core 0) m 0 m.body.flits) := by
      have hat : s.arrivesAt r = some k := by simp only [State.arrivesAt, hst, htile, hk, Bool.false_eq_true, if_false]
      unfold State.injectReq
      extract_lets pred
      have hp : pred = true := by
        unfold pred
        split
        · next h => exact hpred _ h
        · rfl
      simp only [hp, hinj, hhit, hid, htell, hat, Option.bind_some, Option.isSome_none, Bool.not_true, Bool.or_self, Bool.false_eq_true, if_false, ← hm,
        hroom', if_true]
    obtain ⟨ms, hms⟩ := flow_only (s.onReq i fun q => { q with stage := .sent, at_ := k, lts := max q.lts (s.lts q.agent) }) (.input r.core 0) m 0 m.body.flits
    have hflow := flow_new (s := s.onReq i fun q => { q with stage := .sent, at_ := k, lts := max q.lts (s.lts q.agent) }) (m := m) 0 m.body.flits hcom
    have hmake : evMemoryRequestArrival i s = s.injectReq r := by
      simp only [evMemoryRequestArrival, hr, Option.bind_some, hst, reduceCtorEq, if_false]
    refine makes_event rfl hc (hmake.trans hev) ⟨?_, ?_⟩
    · rw [hms]
      exact ⟨_, req_onReq (fun q => { q with stage := .sent, at_ := k, lts := max q.lts (s.lts q.agent) }) hr hid, rfl, rfl, rfl⟩
    · rw [hflow, hflits]
      rfl
  case arrive =>
    intro s i r p hc hr hst ha
    have hop := memHop_arrives ha (k := 0) rfl
    have hr' : (s.took (sliceEdge r.at_ r.core) p (memMsg (.request i) r.core r.at_ false 0)).req i = some r := hr
    have hev : evMemoryRequestArrival i s = (s.took (sliceEdge r.at_ r.core) p (memMsg (.request i) r.core r.at_ false 0)).enterSlice r := by
      simp only [evMemoryRequestArrival, hr, Option.bind_some, hst, if_true, hop]
      rfl
    refine ⟨fun hq hs => ?_, fun hq hs => ?_, fun hs => event_none ?_⟩
    · obtain ⟨t, ht, hp⟩ := enterSlice_of (st := .queued) hr' (.inl ⟨by rw [took_queueLoad]; exact hq, by rw [took_atSlice]; exact hs, rfl⟩)
      exact makes_event rfl hc (hev.trans ht) hp
    · obtain ⟨t, ht, hp⟩ := enterSlice_of (st := .spilled) hr' (.inr ⟨by rw [took_queueLoad, took_atSlice]; exact hq, by rw [took_atSlice]; exact hs, rfl⟩)
      exact makes_event rfl hc (hev.trans ht) hp
    · rw [hev]
      exact enterSlice_full r (by rw [took_atSlice]; exact hs)
  case back =>
    intro s k r hc hq hb
    exact event_some hc (by simp only [evSpillReturn, hb, hq, if_true])
  case accept =>
    intro s i r n k p hc hr ha
    have hop := memHop_arrives ha (k := 0) rfl
    have hev : evAcceptanceToken i s = some ((s.took n p (memMsg (.accepted i) n k true 0)).onReq i fun q => { q with accepted := true }) := by
      rw [evAcceptanceToken, hop]
      rfl
    have hid := req_id hr
    have hr' : (s.took n p (memMsg (.accepted i) n k true 0)).req i = some r := hr
    exact makes_event rfl hc hev ⟨_, req_onReq _ hr' hid, rfl, rfl⟩
  case serve =>
    intro s i r hc hr hat
    have hid := req_id hr
    refine ⟨fun hp hf ⟨l, hl⟩ => ⟨fun hb => event_some hc ?_, fun n hb he ha => ?_⟩, fun hp hf hl => ⟨fun ht he => ?_, fun w ht hw => ?_⟩,
      fun n hp he ha => ?_⟩
    · simp [requestServe_eq hr hat fun _ => hf, hp, hl, hb]
    · exact makes_event rfl hc (by simp [requestServe_eq hr hat fun _ => hf, hp, hl, hb]) (failReq_event hr he ha _ _)
    · have hev : evRequestServe i s = some ((s.setSlice (s.sliceOf r.part r.pa) ((s.slice (s.sliceOf r.part r.pa)).remember (r.pa / 128))).onReq i
          fun q => { q with stage := .filling false }) := by
        simp [requestServe_eq hr hat fun _ => hf, hp, hl, ht, he, State.miss, hid]
      refine makes_event rfl hc hev ⟨rfl, ?_, _, req_onReq _ hr hid, rfl⟩
      rw [slice_onReq, slice_setSlice]
      exact touched_remember _ _
    · have hor : ((s.slice (s.sliceOf r.part r.pa)).touched (r.pa / 128) || !r.isEvent) = true := by simpa using ht
      have hev : evRequestServe i s = some ((s.beginFill (s.sliceOf r.part r.pa) (r.pa / 128) w).onReq i fun q => { q with stage := .filling true }) := by
        simp only [requestServe_eq hr hat fun _ => hf, hp, hl, hor, State.miss, hw, hid, if_true, Option.elim_none, Option.map_some, Bool.false_eq_true,
          if_false]
      obtain ⟨hfill, hreqs⟩ := beginFill_of s (s.sliceOf r.part r.pa) (r.pa / 128) w
      have hr' : (s.beginFill (s.sliceOf r.part r.pa) (r.pa / 128) w).req i = some r := by rw [State.req, hreqs]; exact hr
      exact makes_event rfl hc hev ⟨hfill, _, req_onReq _ hr' hid, rfl⟩
    · exact makes_event rfl hc (by simp [requestServe_eq hr hat (fun h => nomatch hp.symm.trans h), hp]) (failReq_event hr he ha _ _)
  case hit =>
    intro s i r l hc hr hst htile hinj hhit hpred
    have hfresh : (r.stage == Stage.fresh) = true := by rw [hst]; rfl
    have hid := req_id hr
    have hev : evRequestServe i s = some (s.onReq i fun q => { q with
        stage := .served, accepted := true, ts := max (s.lts q.agent) l.wts, wts := l.wts, rts := l.rts, data := cellsAt (l.line * 128) l.bytes }) := by
      simp only [evRequestServe, hr, htile, hfresh, hinj, State.hitCache, hhit, hpred, hid, if_true, Bool.false_eq_true, if_false]
    exact makes_event rfl hc hev ⟨rfl, rfl, _, req_onReq _ hr hid, rfl, rfl, rfl, rfl, rfl⟩
  case fill =>
    intro s i r hc hr
    refine ⟨fun hst hb => event_some hc ?_, fun w hst hf hb => event_some hc ?_, fun n u ⟨a, hst⟩ hb he ha => ?_⟩
    · simp [evLineFill, hr, hst, hb]
    · simp [evLineFill, hr, hst, hb, hf]
    · have hor : (u || s.badLine (r.pa / 128)) = true := by simpa using hb
      exact makes_event rfl hc (by simp only [evLineFill, hr, hst, hor, if_true]) (failReq_event hr he ha _ _)
  case complete =>
    intro s i r n c hc hr hst ha hn hopen htell
    have hserved : ¬ r.stage ≠ .served := fun h => h hst
    by_cases htold : s.telling (.completed i) = true
    · obtain ⟨k, x, p, harr⟩ := htell.resolve_left (by simp [htold])
      have hop := memHop_arrives harr rfl
      refine completed_makes (u := s.took n p (memMsg (.completed i) n k true x)) hc hr ha hn hopen rfl ?_
      simp only [evCompletionToken, hr, Option.bind_some, hserved, if_false, htold, if_true, hop]
      rfl
    · refine completed_makes hc hr ha hn hopen rfl ?_
      simp only [evCompletionToken, hr, Option.bind_some, hserved, if_false, htold]
      rfl
  case cancel =>
    intro s i r n c hc hr ha hn hf hto hnone
    have hany : (s.reqs.any fun q => q.agent == r.agent && q.pred == some r.seq && s.toCancel q) = false := by
      refine List.any_eq_false.mpr fun q hq => ?_
      by_cases h : q.agent = r.agent ∧ q.pred = some r.seq
      · simp [hnone q hq h.1 h.2]
      · simpa using fun h1 h2 => absurd ⟨h1, h2⟩ h
    have hev : evCancellation i s = some (if r.old then s.onReq i fun q => { q with stage := .cancelled, accepted := false }
        else { s with reqs := s.reqs.filter fun q => q.id ≠ i } : State).tidy := by
      rw [ha] at hany
      simp only [evCancellation, hr, ha, hn, hf, hto, hany, Bool.not_false, Bool.and_self, if_true]
    refine makes_event rfl hc hev ⟨fun ho => ?_, fun ho q hq => ?_⟩
    · rw [if_pos ho]
      have hid := req_id hr
      exact ⟨_, req_onReq (fun q => { q with stage := .cancelled, accepted := false }) hr hid, rfl, rfl⟩
    · rw [if_neg (Bool.eq_false_iff.mp ho)] at hq
      simpa using (List.mem_filter.mp (show q ∈ s.reqs.filter fun q => q.id ≠ i from hq)).2

end Sys2Proof.Machine
end

section
/-! Tiles and walks, refuted: the clauses that read an entry back hold of a memory in canonical form only (log 2, 08 R247). -/

namespace Sys2Proof.Machine

/-- The steward holds a walk whose entry lies at address 0, under which a memory out of canonical form lists the byte 7 after address 8. -/
def hiddenEntry : State :=
  { State.reset with
    bringUp := .up, pmem := [(8, 1), (0, 7)]
    walks := [{ id := 1, core := 0, ns := 0, va := 0, handle := none, req := none, rim := none, stage := .steward 0 2, old := false }] }

/-- A page without bytes and without permissions. -/
def barePage : FrameFill := { base := 0, rd := false, wr := false, bytes := [] }

/-- The page's entry as it is stored there, its byte of value 0 not replacing the one listed late. -/
theorem hiddenEntry_stored : ∃ v u, hiddenEntry.writeEvent .steward (hiddenEntry.partOfNs 0) [] = some v ∧
    v.1.storeEntry (hiddenEntry.partOfNs 0) 0 (pageEntry 0 false false) = some u ∧ u.pmem.nat 0 8 ≠ pageEntry 0 false false % 2 ^ 64 := by
  refine ⟨_, _, rfl, rfl, ?_⟩
  decide +kernel

/-- Refutes O55: a memory out of canonical form can list an address after a greater one; a byte of value 0 stored there is then not read back, and the
entry of a page the steward fills reads as another. -/
theorem not_tilesAndWalks : ¬ Obligations.TilesAndWalks := by
  unfold Obligations.TilesAndWalks
  rintro ⟨_, _, _, _, _, _, _, _, _, _, _, hsteward, _⟩
  obtain ⟨v, u, hv, hu, hne⟩ := hiddenEntry_stored
  obtain ⟨t, _, hmem, hentry, _⟩ := (hsteward hiddenEntry 1 _ 0 2 rfl rfl rfl).2 barePage 0 v u rfl hv hu
  rw [hmem] at hentry
  exact hne hentry

end Sys2Proof.Machine
end

section
/-! Rim agents, refuted: the clause that reads a backed publication's bytes back holds of a memory in canonical form only (log 2, 02 R64). -/

namespace Sys2Proof.Machine

/-- A tensor of namespace 0: one tile of one token of BF16 at address 0. -/
def zeroTensor : DirEntry :=
  { ns := 0, tensor := 0, deep := false, signed := false, bad := false, valid := true, fmt := .bf16, tokm1 := 0, base := 0, tstride := 32, widths := []
    strides := [], scale := 0, manifest := [], verified := [] }

/-- A backed publication of its tile, every byte 0. -/
def zeroTile : Tile :=
  { name := 0, tag := 0, back := true, live := false
    bursts := [{ scale := 0x7F, fmt := .bf16, eos := false, tokens := [{ ev := 0xFFFF, bits := 0 }] }] }

/-- A configuration with that directory alone, all of whose lines lie in slice 0. -/
def zeroConfig : Config :=
  { pfx := 0, ns := 0, uniform := true, hop := 0, tasks := [], routers := [], dirs := [zeroTensor], seeds := [], args := [], globals := [], remotes := []
    cores := [], replaces := [], graphs := [], slices := { n := 0, list := Vector.replicate 64 0 } }

/-- Agent 0 has the publication as its job, its page lies at the frame of 0x200000, and memory lists that address after a greater one. -/
def hiddenByte : State :=
  { State.reset with
    bringUp := .up, pmem := [(0x200001, 1), (0x200000, 7)], jobs := [(0, .back zeroTile 0)]
    agentTlb := [(fieldOf (agentHome 0), { ns := 0, page := { valid := true, size := .k64, rd := true, wr := true, pbase := 0x200000, vpage := 0 } })]
    parts := [(0, { x0 := 0, y0 := 0, w := 1, h := 1, slices := zeroConfig.slices, planeA := none, planeB := none, writes := [], complete := false
                    clean := none, drained := false, swap := [], swapped := false, probe := none, frames := [1], pager := [], free := [], tables := none })]
    ctxs := State.reset.ctxs.set 0 { Ctx.reset with cfg := some zeroConfig } }

/-- Where the tile's bytes lie. -/
def zeroSpots : List (Nat × Nat × Nat) := (List.range 32).map fun k => (k, k, 0x200000 + k)

theorem hiddenByte_ready : hiddenByte.rimAccess 0 zeroTensor.ns true
    (zeroTensor.tileVas (indexBits zeroTile.name) (min zeroTile.tokens (zeroTensor.tokm1 + 1))) = .ready zeroSpots := by
  have hl : hiddenByte.locateRim 0 zeroTensor.ns true (zeroTensor.tileVas (indexBits zeroTile.name) (min zeroTile.tokens (zeroTensor.tokm1 + 1))) =
      .at_ zeroSpots := rfl
  have hf : (hiddenByte.writeFree (hiddenByte.partOfNs zeroTensor.ns) (spotLines zeroSpots) &&
      !hiddenByte.lineBusy (hiddenByte.partOfNs zeroTensor.ns) (spotLines zeroSpots)) = true := by decide
  simp only [State.rimAccess, hl, if_true, hf]

/-- The tile as it is stored there, its first byte not replacing the one listed late. -/
theorem hiddenByte_stored : ∃ u, hiddenByte.writeEvent (.rim 0) (hiddenByte.partOfNs zeroTensor.ns)
      (zeroSpots.map fun x => (x.2.2, (cellAt (zeroTensor.backBytes zeroTile) x.1).getD 0)) = some u ∧
    u.1.pmem.get 0x200000 ≠ (cellAt (zeroTensor.backBytes zeroTile) 0).getD 0 := by
  refine ⟨_, rfl, ?_⟩
  decide +kernel

/-- Refutes O56: a memory out of canonical form can list an address after a greater one; a byte of value 0 of a backed publication stored there is then
not read back. -/
theorem not_rimAgents : ¬ Obligations.RimAgents := by
  unfold Obligations.RimAgents
  rintro ⟨_, _, _, hback, _⟩
  obtain ⟨u, hu, hne⟩ := hiddenByte_stored
  obtain ⟨t, _, hmem, hbytes, _⟩ := hback hiddenByte 0 zeroTile 0 zeroTensor zeroSpots u rfl rfl rfl hiddenByte_ready hu
  have hdistinct : (zeroSpots.map fun x => x.2.2).Nodup := by decide
  have hread := hbytes hdistinct (0, 0, 0x200000) (by decide)
  rw [hmem] at hread
  exact hne hread

end Sys2Proof.Machine
end

section
/-! Steps of a core beside its slots, settled (01 R39, 05 R157, 06 R178 to R203, R435, 08 R243, R251, R257, 10 R281 to R294, 13 R360, R361). -/

namespace Sys2Proof.Machine

/-! ## A core's own event -/

/-- A core's event that hands over nothing changes the core alone. -/
theorem coreEvent_alone {s : State} {n : Nat} {c d : Core} {f : Core → Option (Core × List Out)} (hn : s.core n = some c) (h : f c = some (d, [])) :
    s.coreEvent n f = some (s.setCore n d) := by
  simp only [State.coreEvent, hn, h, State.applyAll]

theorem coreEvent_out {s : State} {n : Nat} {c : Core} {r : Core × List Out} {f : Core → Option (Core × List Out)} (hn : s.core n = some c)
    (h : f c = some r) : s.coreEvent n f = some ((s.setCore n r.1).applyAll n r.2) := by
  simp only [State.coreEvent, hn, h]

theorem coreEvent_none {s : State} {n : Nat} {c : Core} {f : Core → Option (Core × List Out)} (hn : s.core n = some c) (h : f c = none) :
    s.coreEvent n f = none := by
  simp only [State.coreEvent, hn, h]

/-- An event of a core that ends in a trap leaves the core as the trap has it. -/
theorem makes_trap {i : Instr} {s : State} {n : Nat} {c e : Core} {f : Core → Option (Core × List Out)} (t : TrapInfo) (pc : Nat) (hc : s.clocked = true)
    (hn : s.core n = some c) (hi : exec i s = event (s.coreEvent n f) s) (h : f c = some (e.takeTrap t pc)) :
    Makes i s fun u => u.core n = some (e.takeTrap t pc).1 :=
  makes_event hi hc (coreEvent_out hn h) ((sameModule_trapped (s.setCore n (e.takeTrap t pc).1) n t).2.trans (core_setCore _ _ _))

/-! ## Values that return -/

theorem full_setFull (g : Regs) (r : FullReg) : (g.setFull r true).full r = true := by
  cases r with
  | s r => exact Bool.or_eq_true_iff.mpr (.inr (setBit_same _ _ r.isLt))
  | v r => exact setBit_same _ _ r.isLt
  | h r => exact setBit_same _ _ r.isLt
  | w r => exact setBit_same _ _ r.isLt

theorem land_fills (c : Core) (w : RegWrite) (old : Bool) : (c.land w old).fills = c.fills := by
  unfold Core.land
  cases w <;> cases old <;> rfl

/-- A value that has returned lands in its register, which is full, and its fill is gone. -/
theorem landFill_of {c : Core} {r : FullReg} {w : RegWrite} {old : Bool} {fs : List Fill} (h : takeFill r c.fills = some (w, old, fs)) :
    ∃ d, c.landFill r = some d ∧ d.regs.full r = true ∧ d.fills = fs := by
  have hfs : ∀ x : Core, x.fills = fs → (x.land w old).fills = fs := fun x hx => (land_fills x w old).trans hx
  simp only [Core.landFill, h]
  refine ⟨_, rfl, ?_, ?_⟩
  · cases old <;> exact full_setFull _ _
  · cases old <;> exact hfs _ rfl

/-! ## Queues -/

theorem startJob_plain (s : State) (n : Nat) (c : Core) (f : Firing) (op : EngOp) (hs : ∀ t d, op ≠ .csend t d)
    (hscan : ∀ k x y x2 y2 h i, op ≠ .scan k x y x2 y2 h i) (hbar : op ≠ .cbar) : s.startJob n c f op = some s := by
  cases op
  case csend t d => exact absurd rfl (hs t d)
  case scan k x y x2 y2 h i => exact absurd rfl (hscan k x y x2 y2 h i)
  case cbar => exact absurd rfl hbar
  all_goals rfl

theorem runCopy_plain {s : State} {c : Core} {r : Nat} {j : CopyJob} (hf : c.copies.find? (fun j => j.started && j.rsb == some r) = some j)
    (hw : c.works = true) (hb : c.badRead j.rsb = none) {n : Nat} (hn : s.core n = some c) (hl : ∀ d va h g, j.op ≠ .tld d va h g)
    (hs : ∀ d va h g, j.op ≠ .tst d va h g) : s.endCommand n r =
      some (s.setCore n ((((c.runCopy j.op).mended (j.op.written (c.writeSpan j.rsb)) fun _ _ => false).freeEntry j.rsb).endCopy j)) := by
  refine coreEvent_alone hn ?_
  simp only [hf, hw, hb, Bool.not_true, Bool.false_eq_true, if_false]

theorem streamerComplete_makes {s : State} {n r : Nat} {d : Core} (hc : s.clocked = true) (h : s.endCommand n r = some (s.setCore n d)) :
    Makes (.streamerComplete n r) s fun t => t.core n = some d := by
  have hev : evStreamerComplete n r s = some ((s.setCore n d).dropDone n) := by rw [evStreamerComplete, h]; rfl
  exact makes_event rfl hc hev (core_setCore _ _ _)

/-- Settles O57: each event's guard holds under its hypotheses, and the core it makes is written out. -/
theorem coreEvents_hold : Obligations.CoreEvents := by
  unfold Obligations.CoreEvents
  refine ⟨?fetch, ?land, ?fill, ?subq, ?start, ?complete, ?streamer, ?copied, ?landing, ?landed, ?empty, ?illegal, ?overrun, ?deferred, ?freeze⟩
  case fetch =>
    intro s n c f hc hn hf hi ht
    have hemp : c.issue.todo.isEmpty = true := by rw [ht]; rfl
    refine ⟨fun r hr => event_some hc (coreEvent_alone hn ?_), fun hr => makes_trap _ _ hc hn rfl ?_, fun a hr => makes_trap _ _ hc hn rfl ?_⟩ <;>
      simp only [Core.fetchEvent, hf, hi, hemp, hr, Bool.not_true, Bool.or_self, Bool.false_eq_true, if_false] <;> rfl
  case land =>
    intro s n c hc hn ht
    have hemp : c.issue.todo.isEmpty = true := by rw [ht]; rfl
    refine ⟨fun ho => ?_, fun ho hr hfl => event_some hc (coreEvent_alone hn ?_)⟩
    · have hev : evFixedResultLand n s = some (s.setCore n { c.advance with issue := { c.issue with owed := c.issue.owed - 1 } }) :=
        coreEvent_alone hn (by simp [Core.landEvent, hemp, ho])
      exact makes_event rfl hc hev ⟨_, core_setCore _ _ _, rfl, rfl, rfl⟩
    · have hne : c.flight.isEmpty = false := by simpa using hfl
      simp [Core.landEvent, hemp, ho, hr, hne]
  case fill =>
    intro s n c r w old fs hc hn htake
    obtain ⟨d, hd, hfull, hfills⟩ := landFill_of htake
    have hev : evRegisterFill n r s = some (s.setCore n d) := by
      rw [evRegisterFill, coreEvent_alone (d := d) hn (by rw [hd]; rfl)]
    exact makes_event rfl hc hev ⟨d, core_setCore _ _ _, hfull, hfills, hd⟩
  case subq =>
    intro s n c q p v f g d hc hn htake hh hf hg hd
    refine event_some hc ?_
    have hnone : c.landFill (.s q) = none := by rw [Core.landFill, htake]
    rw [evRegisterFill, coreEvent_none hn (by rw [hnone]; rfl)]
    exact coreEvent_alone hn (by simp only [hh, hf, hg, hd, Option.map_some])
  case start =>
    intro s n q c f j t hc hn hf hj hw hr ht
    have hev : evQueueOpStart n q s = some t := by
      simp only [evQueueOpStart, hn, hj, hf, hw, hr, Bool.and_self, if_true, ht]
    exact ⟨event_some hc hev, fun hs hscan hbar => (Option.some.inj ((startJob_plain _ _ _ _ _ hs hscan hbar).symm.trans ht)).symm⟩
  case complete =>
    intro s n q c f j hc hn hf hj hw hr
    refine ⟨fun hb => ⟨?_, event_some hc ?_⟩, fun a u hb => event_some hc ?_⟩
    · intro d
      refine makes_event rfl hc (t := if j.op = .cbar then (s.setCore n (d.setQueue q (d.queue q).tail)).dropCarries n f d.cbars
        else s.setCore n (d.setQueue q (d.queue q).tail)) ?_ ?_
      · simp only [evEngineOpComplete, hn, hj, hf, hw, hr, hb, Bool.not_true, Bool.or_self, Bool.false_eq_true, if_false]
        rfl
      · split
        · exact core_setCore _ _ _
        · exact core_setCore _ _ _
    · simp [evEngineOpComplete, hn, hj, hf, hw, hr, hb]
    · simp [evEngineOpComplete, hn, hj, hf, hw, hr, hb]
  case streamer =>
    intro s n c hc hn hs
    have hcore : s.coreEvent n (fun c => some ({ c with copies := startFirst c.copies }, [])) = some (s.setCore n { c with copies := startFirst c.copies }) :=
      coreEvent_alone hn rfl
    have hev : ∃ x, evStreamerStart n s = some { s.setCore n { c with copies := startFirst c.copies } with started := x } := by
      simp only [evStreamerStart, hs, if_true, hcore, Option.map_some]
      exact ⟨_, rfl⟩
    obtain ⟨x, hx⟩ := hev
    exact makes_event rfl hc hx (core_setCore _ _ _)
  case copied =>
    intro s n c r j hc hn hf hw hb
    refine ⟨fun d va h g l hop hl => ?_, fun hl hs => ?_⟩
    · have hend : s.endCommand n r = some (s.setCore n (((c.putSpad l).freeEntry j.rsb).endCopy j)) := by
        refine coreEvent_alone hn ?_
        simp only [hf, hw, hb, hop, hl, Bool.not_true, Bool.false_eq_true, if_false, Option.map_some]
      exact streamerComplete_makes hc hend
    · exact streamerComplete_makes hc (runCopy_plain hf hw hb hn hl hs)
  case landing =>
    intro s n c d f g o hc hn hw hst
    exact event_some hc (coreEvent_out hn (r := (d.mapFirings fun x => if x = f then g else x, o))
      (by simp only [hw, Bool.not_true, Bool.false_eq_true, if_false, hst, Option.map_some]))
  case landed =>
    intro s n c f l ls hc hn hw hf hl hstart hdone
    have hone : landOne f.landings = some (l, { l with done := true } :: ls) := by
      rw [hl, landOne, if_pos ⟨hstart, hdone⟩]
    have hend : c.endLanding c.firings = some (((c.putSpad l.bytes).freeEntry l.rsb).mapFirings fun x =>
        if x = f then { f with landings := { l with done := true } :: ls } else x) := by
      simp only [Core.firings, hf, Option.toList_some, List.singleton_append, Core.endLanding, hone]
    have hcore : s.coreEvent n (fun c => if c.works then (c.endLanding c.firings).map fun d => (d, []) else none) = some (s.setCore n
        (((c.putSpad l.bytes).freeEntry l.rsb).mapFirings fun x => if x = f then { f with landings := { l with done := true } :: ls } else x)) :=
      coreEvent_alone hn (by rw [hend, hw]; rfl)
    have hev : evLandingComplete n s = some (s.setCore n
        (((c.putSpad l.bytes).freeEntry l.rsb).mapFirings fun x => if x = f then { f with landings := { l with done := true } :: ls } else x)) := by
      rw [evLandingComplete, hcore]
    refine makes_event rfl hc hev ⟨_, core_setCore _ _ _, ?_, ?_⟩
    · cases l.rsb <;> rfl
    · have hfir : ((c.putSpad l.bytes).freeEntry l.rsb).firing = some f := by cases l.rsb <;> exact hf
      simp only [Core.mapFirings, hfir, Option.map_some, if_true]
  case empty =>
    intro s n c b hc hn hi hb hs
    have hemp : b.slots.isEmpty = true := by rw [hs]; rfl
    have hev : evEmptyBundle n s = some _ := coreEvent_out (r := c.boundary b false) hn (by simp only [Core.emptyEvent, hb, hi, hemp, Bool.and_self, if_true])
    obtain ⟨k, q, h⟩ := core_set_applyAll s n (c.boundary b false).1 (c.boundary b false).2
    exact makes_event rfl hc hev ⟨_, h, rfl, rfl⟩
  case illegal =>
    intro s n c k hc hn hi hk
    exact makes_trap _ _ hc hn rfl (by simp [Core.illegalEvent, hi, hk, Core.decodeTrap])
  case overrun =>
    intro s n c m hc hn hm hlt hr hw hb
    exact makes_trap _ _ hc hn rfl (by simp only [hm, hlt, hr, hw, hb, and_self, if_true])
  case deferred =>
    intro s n c x xs hc hn hx hr hw hb
    exact makes_trap _ _ hc hn rfl (by simp only [hx, hr, hw, hb, Bool.and_self, if_true])
  case freeze =>
    intro s n c hc hn hs hfr hb
    exact ⟨event_some hc (coreEvent_alone hn (by simp [hs, hfr, hb])), rfl, rfl⟩

end Sys2Proof.Machine
end

section
/-! Replies to faulted firings, settled (08 R243 to R256). -/

namespace Sys2Proof.Machine

/-! ## A firing that goes on -/

/-- A core that resumes: its landings are issued anew, what faulted starts again, and nothing of its registers changes. -/
theorem resumed_of {c : Core} {f : Firing} (hf : c.firing = some f) : ∃ ls, (c.resume.issueLandings.refetch).firing =
      some { f with state := if f.trig then .triggered else .running, failed := none, landings := ls } ∧
    (c.resume.issueLandings.refetch).regs = c.regs := by
  obtain ⟨r, k, φ, ψ, he, hφ, _⟩ := issued_issueLandings c.resume
  have hr : c.resume.firing = some { f with state := if f.trig then .triggered else .running, failed := none } := by
    simp only [Core.resume, hf, Option.map_some]
  rw [hr] at hφ
  obtain ⟨x, hx, hbare⟩ := Option.map_eq_some_iff.mp (show φ.map Firing.bare = some _ from hφ)
  refine ⟨x.landings, ?_, ?_⟩
  · rw [he]
    refine hx.trans (congrArg some ?_)
    calc x = { x.bare with landings := x.landings } := rfl
      _ = _ := by rw [hbare]; rfl
  · rw [he]
    rfl

/-- What a reply that lets a firing run leaves of requests, tokens and the core. -/
theorem resumeCore_of {s : State} {n : Nat} {c : Core} {f : Firing} (hn : s.core n = some c) (hf : c.firing = some f) :
    (∀ r ∈ (s.resumeCore n).reqs, r.agent = .core n → r.stage ≠ .faulted ∧ r.stage ≠ .cancelled) ∧
    (∀ k ∈ (s.resumeCore n).tokens, k.core = n → k.ns ≠ f.ns) ∧
    ∃ d ls, (s.resumeCore n).core n = some d ∧ d.firing = some { f with state := if f.trig then .triggered else .running, failed := none, landings := ls } ∧
      d.regs = c.regs := by
  obtain ⟨ls, hfir, hregs⟩ := resumed_of hf
  have hhold : ∀ t : State, (t.leaveHold n f).cores = t.cores ∧ (t.leaveHold n f).reqs = t.reqs := fun t => by
    unfold State.leaveHold
    extract_lets other
    split <;> exact ⟨rfl, rfl⟩
  simp only [State.resumeCore, hn, hf]
  refine ⟨fun r hr ha => ?_, fun k hk hkn => ?_, ⟨{ c.resume.issueLandings.refetch with
    matQ := restartJobs c.matQ, scanQ := restartJobs c.scanQ, statQ := restartJobs c.statQ }, ls, ?_, hfir, hregs⟩⟩
  · obtain ⟨x, _, rfl⟩ := List.mem_map.mp (show r ∈ List.map _ _ from hr)
    by_cases hp : x.pending n = true
    · rw [if_pos hp]
      exact ⟨nofun, nofun⟩
    · rw [if_neg hp] at ha ⊢
      simp only [MemReq.pending, ha, beq_self_eq_true, Bool.true_and, Bool.or_eq_true, beq_iff_eq, not_or] at hp
      exact hp
  · have hne := (List.mem_filter.mp (show k ∈ List.filter _ _ from hk)).2
    simpa [hkn] using hne
  · show assoc (State.leaveHold _ n f).cores n = _
    rw [(hhold _).1]
    exact core_setCore _ _ _

/-- The handle that a reply names is empty, in the core and in its shadow, and its scalar registers stay. -/
theorem rewalk_of {s : State} {n : Nat} {c : Core} (hn : s.core n = some c) : ∃ d, (s.rewalk n).core n = some d ∧ d.firing = c.firing ∧
    d.regs.s = c.regs.s ∧ ∀ h, c.lostHandle = some h → d.regs.full (.h h) = false := by
  simp only [State.rewalk, hn]
  cases hl : c.lostHandle with
  | none => exact ⟨c, hn, rfl, rfl, nofun⟩
  | some h =>
    refine ⟨c.emptyHandle h, core_setCore _ _ _, rfl, rfl, fun h' hh => ?_⟩
    cases hh
    exact setBit_same _ _ h.isLt

/-! ## A firing that ends -/

theorem freeEntry_firing (c : Core) (r : Option Nat) : (c.freeEntry r).firing = c.firing := by cases r <;> rfl
theorem setQueue_firing (c : Core) (q : Queue) (l : List EngJob) : (c.setQueue q l).firing = c.firing := by cases q <;> rfl

theorem dropCopies_firing (c : Core) (gone : List Nat) (l : List CopyJob) : (c.dropCopies gone l).firing = c.firing := by
  induction l with
  | nil => rfl
  | cons j l ih =>
    unfold Core.dropCopies
    extract_lets d
    split
    · split
      · exact (freeEntry_firing d j.rsb).trans ih
      · exact ih
    · exact ih

theorem dropFetches_firing (c : Core) (l : List FetchJob) : (c.dropFetches l).firing = c.firing := by
  induction l with
  | nil => rfl
  | cons f l ih =>
    unfold Core.dropFetches
    extract_lets d
    split
    · exact (freeEntry_firing _ f.rsb).trans ih
    · exact ih

theorem dropJobs_firing (c : Core) (q : Queue) : (c.dropJobs q).firing = c.firing := by
  refine foldl_sound (P := fun d : Core => d.firing = c.firing) rfl fun d j hd => ?_
  split
  · rw [freeEntry_firing, setQueue_firing, hd]
  · exact hd

theorem dropPort_firing (c : Core) : c.dropPort.firing = c.firing := by
  unfold Core.dropPort
  split
  · split
    · exact freeEntry_firing _ _
    · rfl
  · rfl

/-- The firing that ends is of its gate, tag and rank still, and retires. -/
theorem endFiring_of {c : Core} {f : Firing} (hf : c.firing = some f) (gone : List Nat) : (c.endFiring gone).issue.retiring = true ∧
    (c.endFiring gone).fills = [] ∧ (c.endFiring gone).flight = [] ∧ (c.endFiring gone).dfaults = [] ∧
    ∃ g, (c.endFiring gone).firing = some g ∧ g.gate = f.gate ∧ g.tag = f.tag ∧ g.rank = f.rank := by
  have he : ∀ e : Core, e.firing = c.firing → (c.firing.elim e e.unissue).firing = some f := fun e h => by
    rw [hf]
    obtain ⟨r, hr⟩ := unissue_only e f
    exact (by rw [show Option.elim (some f) e e.unissue = e.unissue f from rfl, hr]; exact h.trans hf)
  refine ⟨rfl, rfl, rfl, rfl, ?_⟩
  unfold Core.endFiring
  extract_lets e d
  have hd : d.firing = some f := he e (by
    rw [dropPort_firing, dropJobs_firing, dropJobs_firing, dropJobs_firing, dropFetches_firing, dropCopies_firing])
  exact ⟨_, congrArg (Option.map _) hd, rfl, rfl, rfl⟩

/-- An abort spares a core whose firing is not of the herd's: its faults, results and issue stay. -/
theorem abort_spares {c : Core} {mine : Firing → Bool} {g : Firing} (hf : c.firing = some g) (hm : mine g = false) :
    (c.abort mine).issue = c.issue ∧ (c.abort mine).fills = c.fills ∧ (c.abort mine).flight = c.flight ∧ (c.abort mine).dfaults = c.dfaults := by
  unfold Core.abort
  extract_lets e
  have he : ∃ r, e = { c with rsb := r } :=
    foldl_sound (P := fun d : Core => ∃ r, d = { c with rsb := r }) ⟨c.rsb, rfl⟩ fun d f hd => by
      obtain ⟨r, rfl⟩ := hd
      exact unissue_only _ f
  clear_value e
  obtain ⟨r, rfl⟩ := he
  have hno : ((c.firing.elim false mine) && !c.dfaults.any fun d => d.code == trapHerdAbort) = false := by rw [hf]; simp [hm]
  exact ⟨rfl, rfl, rfl, if_neg (Bool.eq_false_iff.mp hno)⟩

theorem closeHerd_keeps (s : State) (f : Firing) : (s.closeHerd f).cores = s.cores ∧ (s.closeHerd f).reqs = s.reqs := by
  have hreq : ∀ (t : State) k n, (t.finishGraph k n).reqs = t.reqs := fun t k n => by
    unfold State.finishGraph
    extract_lets c
    split
    · split <;> rfl
    · rfl
  exact ⟨(finishGraph_keeps _ _ _).1, hreq _ _ _⟩

theorem endCore_of {s : State} {n : Nat} {c : Core} {f : Firing} (hn : s.core n = some c) (hf : c.firing = some f) :
    (∀ r ∈ (s.endCore n).reqs, r.agent = .core n → r.stage ≠ .faulted ∧ r.stage ≠ .cancelled) ∧
    ∃ d, (s.endCore n).core n = some d ∧ d.issue.retiring = true ∧ d.fills = [] ∧ d.flight = [] ∧ d.dfaults = [] := by
  have hreqs : ∀ r ∈ s.reqs.filter (fun r => !r.pending n), r.agent = .core n → r.stage ≠ .faulted ∧ r.stage ≠ .cancelled := fun r hr ha => by
    have hp : r.pending n = false := by simpa using (List.mem_filter.mp hr).2
    simpa [MemReq.pending, ha] using hp
  simp only [State.endCore, hn, hf]
  obtain ⟨hret, hfills, hflight, hdf, g, hg, hgate, htag, hrank⟩ := endFiring_of hf ((s.reqs.filter fun r => r.pending n).map (·.id))
  split
  · have hspare : (fun x : Firing => x.gate == f.gate && x.tag == f.tag && some x.rank != some f.rank) g = false := by simp [hrank]
    obtain ⟨hi, h1, h2, h3⟩ := abort_spares (mine := fun x => x.gate == f.gate && x.tag == f.tag && some x.rank != some f.rank) hg hspare
    refine ⟨?_, ?_⟩
    · rw [(closeHerd_keeps _ f).2]
      exact hreqs
    · refine ⟨_, ?_, by rw [hi]; exact hret, h1.trans hfills, h2.trans hflight, h3.trans hdf⟩
      show assoc (State.closeHerd _ f).cores n = _
      rw [(closeHerd_keeps _ f).1]
      show assoc (List.map (fun x : Nat × Core => (x.1, x.2.abort fun y => y.gate == f.gate && y.tag == f.tag && some y.rank != some f.rank)) _) n = _
      rw [assoc_map_snd (fun _ (x : Core) => x.abort fun y => y.gate == f.gate && y.tag == f.tag && some y.rank != some f.rank)]
      exact congrArg (Option.map _) (core_setCore _ _ _)
  · exact ⟨hreqs, _, core_setCore _ _ _, hret, hfills, hflight, hdf⟩

/-! ## Replies -/

theorem faulted_of {c : Core} {f : Firing} (hf : c.firing = some f) (hs : f.state = .faulted) : c.faulted = true := by
  simp [Core.faulted, hf, hs]

theorem reply_answers {s : State} {n : Nat} {c : Core} (hn : s.core n = some c) (hf : c.faulted = true) (hz : c.frozen = false)
    (hc : s.cancelled n = true) (r : Reply) : s.reply n r = some (s.answer n r) := by
  simp only [State.reply, hn, hf, hz, hc, Bool.false_eq_true, if_false, if_true]

theorem reply_kept {s : State} {n : Nat} {c : Core} (hn : s.core n = some c) (hf : c.faulted = true) (hz : c.frozen = true) (r : Reply) :
    s.reply n r = some ((s.setCore n { c with reply := some r.code }).dropToken n c.ns) := by
  simp only [State.reply, hn, hf, hz, if_true]

/-- The pager's first answer for a core reaches it. -/
theorem retranslate_replies {s : State} {n : Nat} {c : Core} {pre post : List FaultToken} {k : FaultToken} (hn : s.core n = some c)
    (hf : c.faulted = true) (ht : s.tokens = pre ++ k :: post) (hk : k.core = n) (hp : k.pager = true) (hns : k.ns = c.ns)
    (hpre : ∀ x ∈ pre, x.core = n → x.pager = false) {t : State} (hr : s.reply n .retranslate = some t) : evRetranslate n s = some t := by
  rw [evRetranslate, ht, List.findSome?_append, List.findSome?_eq_none_iff.mpr (fun x hx => if_neg ?_), List.findSome?_cons]
  · simp [hk, hp, hn, hf, hns, hr]
  · simpa using hpre x hx

end Sys2Proof.Machine
end

section
/-! Switches of a partition, settled (04 R130 to R134, 05 R174, 08 R243 to R256). -/

namespace Sys2Proof.Machine

/-! ## One element of a vector of the module -/

theorem vec_set_self {α : Type} {n : Nat} (v : Vector α n) (i : Fin n) (x : α) : (v.set i x)[i] = x := Vector.getElem_set_self ..

theorem ctx_onCtx (s : State) (k : Fin 8) (f : Ctx → Ctx) : (s.onCtx k f).ctxs[k] = f s.ctxs[k] := vec_set_self _ _ _
theorem ctx_onCtx_ne (s : State) {j k : Fin 8} (f : Ctx → Ctx) (h : k ≠ j) : (s.onCtx j f).ctxs[k] = s.ctxs[k] := vec_set_ne _ _ h
theorem preempt_onPreempt (s : State) (p : Fin 16) (f : Preempt → Preempt) : (s.onPreempt p f).preempt[p] = f s.preempt[p] := vec_set_self _ _ _
theorem preempt_onPreempt_ne (s : State) {p q : Fin 16} (f : Preempt → Preempt) (h : q ≠ p) : (s.onPreempt p f).preempt[q] = s.preempt[q] := vec_set_ne _ _ h

/-- A record of a switch that a change leaves as it was is as it was wherever the change is made. -/
theorem preempt_keeps {β : Type} (g : Preempt → β) (s : State) (p q : Fin 16) (f : Preempt → Preempt) (h : p = q → g (f s.preempt[p]) = g s.preempt[p]) :
    g (s.onPreempt p f).preempt[q] = g s.preempt[q] := by
  by_cases hq : q = p
  · subst hq
    rw [preempt_onPreempt, h rfl]
  · rw [preempt_onPreempt_ne s f hq]

theorem ctx_keeps {β : Type} (g : Ctx → β) (s : State) (j k : Fin 8) (f : Ctx → Ctx) (h : j = k → g (f s.ctxs[j]) = g s.ctxs[j]) :
    g (s.onCtx j f).ctxs[k] = g s.ctxs[k] := by
  by_cases hk : k = j
  · subst hk
    rw [ctx_onCtx, h rfl]
  · rw [ctx_onCtx_ne s f hk]

/-! ## A context that runs, whatever a session's judgement does to others -/

/-- A context runs, without an image; no session is beyond the consent of its interface; a partition's switch is where `v` says, if `w` asks for it. -/
structure Runs (k : Fin 8) (i : Fin 16) (w : Prop) (v : SwStatus) (s : State) : Prop where
  state : s.ctxs[k].state = .running
  image : s.ctxs[k].image = none
  consent : ∀ j : Fin 16, s.ctxs[k].itf = some j → s.tdis[j].bound = false ∨ s.tdis[j].consent = 2
  switch : w → s.preempt[i].status = v

section
variable {k : Fin 8} {i : Fin 16} {w : Prop} {v : SwStatus} {s : State}

/-- What is kept of a context's state, image and interface, of interfaces and of switches keeps it running. -/
theorem Runs.of {t : State} (h : Runs k i w v s) (hc : t.ctxs[k].state = s.ctxs[k].state ∧ t.ctxs[k].image = s.ctxs[k].image ∧ t.ctxs[k].tdi = s.ctxs[k].tdi)
    (ht : t.tdis = s.tdis) (hp : t.preempt[i].status = s.preempt[i].status) : Runs k i w v t := by
  obtain ⟨hstate, himage, htdi⟩ := hc
  refine ⟨hstate.trans h.state, himage.trans h.image, fun j hj => ?_, fun hw => hp.trans (h.switch hw)⟩
  have hitf : t.ctxs[k].itf = s.ctxs[k].itf := by simp only [Ctx.itf, htdi]
  rw [ht]
  exact h.consent j (hitf ▸ hj)

theorem Runs.same {t : State} (h : Runs k i w v s) (hc : t.ctxs = s.ctxs) (ht : t.tdis = s.tdis) (hp : t.preempt = s.preempt) : Runs k i w v t :=
  h.of (by rw [hc]; exact ⟨rfl, rfl, rfl⟩) ht (by rw [hp])

theorem Runs.onCtx (h : Runs k i w v s) {j : Fin 8} {f : Ctx → Ctx}
    (hf : j = k → (f s.ctxs[j]).state = s.ctxs[j].state ∧ (f s.ctxs[j]).image = s.ctxs[j].image ∧ (f s.ctxs[j]).tdi = s.ctxs[j].tdi) :
    Runs k i w v (s.onCtx j f) :=
  h.of ⟨ctx_keeps (·.state) s j k f fun e => (hf e).1, ctx_keeps (·.image) s j k f fun e => (hf e).2.1, ctx_keeps (·.tdi) s j k f fun e => (hf e).2.2⟩ rfl rfl

theorem Runs.onPreempt (h : Runs k i w v s) {p : Fin 16} {f : Preempt → Preempt} (hf : p = i → (f s.preempt[p]).status = s.preempt[p].status) :
    Runs k i w v (s.onPreempt p f) := h.of ⟨rfl, rfl, rfl⟩ rfl (preempt_keeps (·.status) s p i f hf)

theorem Runs.onGate (h : Runs k i w v s) (g : GateId) (f : Gate → Gate) : Runs k i w v (s.onGate g f) :=
  h.onCtx (f := fun c => { c with gates := c.gates.map fun x => if x.id = g then f x else x }) fun _ => ⟨rfl, rfl, rfl⟩

theorem Runs.finishGraph (h : Runs k i w v s) (c : Fin 8) (n : Nat) : Runs k i w v (s.finishGraph c n) := by
  unfold State.finishGraph
  extract_lets x
  split
  · next gr _ =>
    split
    · exact (h.onCtx (f := fun y => { y with doneG := y.doneG ++ [gr] }) fun _ => ⟨rfl, rfl, rfl⟩).same rfl rfl rfl
    · exact h
  · exact h

/-! ### Replies -/

theorem Runs.resumeCore (h : Runs k i w v s) (n : Nat) : Runs k i w v (s.resumeCore n) := by
  unfold State.resumeCore
  split
  · exact h
  · split
    · exact h
    · extract_lets src d t
      have ht : Runs k i w v t := by
        have hd : Runs k i w v (s.setCore n d) := h.same rfl rfl rfl
        unfold t State.leaveHold
        extract_lets other
        split
        · exact hd
        · exact hd.onGate _ _
      exact ht.same rfl rfl rfl

theorem Runs.rewalk (h : Runs k i w v s) (n : Nat) : Runs k i w v (s.rewalk n) := by
  unfold State.rewalk
  split
  · exact h
  · split
    · exact h
    · exact h.same rfl rfl rfl

theorem Runs.endCore (h : Runs k i w v s) (n : Nat) : Runs k i w v (s.endCore n) := by
  unfold State.endCore
  split
  · exact h
  · split
    · exact h
    · next f _ =>
      extract_lets gone t
      have ht : Runs k i w v t := h.same rfl rfl rfl
      split
      · have ha : Runs k i w v (t.abortHerd f.gate f.tag (some f.rank)) := ht.same rfl rfl rfl
        exact (ha.onGate _ _).finishGraph _ _
      · exact ht

theorem Runs.answer (h : Runs k i w v s) (n : Nat) (r : Reply) : Runs k i w v (s.answer n r) := by
  cases r with
  | resume => exact h.resumeCore n
  | retranslate => exact (h.rewalk n).resumeCore n
  | end_ => exact h.endCore n

theorem Runs.answerKept (h : Runs k i w v s) (n : Nat) : Runs k i w v (s.answerKept n) := by
  unfold State.answerKept
  split
  · extract_lets t
    have ht : Runs k i w v t := h.same rfl rfl rfl
    split
    · exact ht.answer n _
    · exact ht.answer n _
    · exact ht.answer n _
    · exact h
  · exact h

/-! ### Other contexts that fail -/

theorem Runs.dropSwitch (h : Runs k i w .done s) {p : Fin 16} (hp : s.preempt[p].open_ = false) : Runs k i w .done (s.dropSwitch p) := by
  have hdone : ∀ q : Preempt, q.status = .done → q.open_ = true := fun q hq => by rw [Preempt.open_, hq]; rfl
  refine ⟨h.state, h.image, h.consent, fun hw => ?_⟩
  have hne : i ≠ p := fun e => by
    subst e
    exact Bool.false_ne_true (hp.symm.trans (hdone _ (h.switch hw)))
  exact (congrArg (·.status) (preempt_onPreempt_ne s (fun x => { x with status := .notReady, avoid := none }) hne)).trans (h.switch hw)

/-- What a partition restores next is PARKED. -/
theorem restoreNext_parked {s : State} {p : Fin 16} {j : Fin 8} (hj : s.restoreNext p = some j) : s.ctxs[j].state = .parked := by
  unfold State.restoreNext at hj
  extract_lets q at hj
  split at hj
  · split at hj
    · next hq =>
      rw [← Option.some.inj hj]
      exact hq.1
    · nomatch hj
  · have hj := List.find?_some hj
    simp only [Bool.and_eq_true, beq_iff_eq] at hj
    exact hj.1.2

/-- A restore that begins is another's. -/
theorem Runs.beginRestore (h : Runs k i w .done s) (p : Fin 16) : Runs k i w .done (s.beginRestore p) := by
  unfold State.beginRestore
  split
  · exact h
  · split
    · next j hj =>
      have hne : j ≠ k := fun e => by
        subst e
        exact nomatch (restoreNext_parked hj).symm.trans h.state
      exact h.onCtx fun e => absurd e hne
    · exact h

theorem Runs.leftSet (h : Runs k i w .done s) (j : Fin 8) : Runs k i w .done (s.leftSet j) := by
  unfold State.leftSet
  extract_lets t
  have ht : Runs k i w .done t := foldl_sound h fun x p hx => by
    split
    · next hd =>
      simp only [Bool.and_eq_true, Bool.not_eq_true'] at hd
      exact hx.dropSwitch hd.1
    · exact hx
  refine foldl_sound ht fun x p hx => ?_
  split
  · exact (hx.onPreempt (f := fun q => { q with out := none, saved := true }) fun _ => rfl).beginRestore p
  · exact hx.beginRestore p

end

theorem unreserveAll_keeps (l : List Nat) (s : State) : ∃ x, l.foldl (fun x id => x.unreserve id) s = { s with slices := x } :=
  foldl_sound (P := fun t : State => ∃ x, t = { s with slices := x }) ⟨s.slices, rfl⟩ fun t id ⟨x, hx⟩ => by
    subst hx
    exact ⟨_, rfl⟩

theorem clearPart_keeps (s : State) (part : Fin 16) : (s.clearPart part).ctxs = s.ctxs ∧ (s.clearPart part).tdis = s.tdis ∧
    (s.clearPart part).preempt = s.preempt ∧ (s.clearPart part).pmem = s.pmem := by
  unfold State.clearPart
  split
  · exact ⟨rfl, rfl, rfl, rfl⟩
  · extract_lets gone t
    obtain ⟨x, hx⟩ : ∃ x, t = { s with slices := x } := unreserveAll_keeps gone s
    rw [hx]
    exact ⟨rfl, rfl, rfl, rfl⟩

section
variable {k : Fin 8} {i : Fin 16} {w : Prop} {s : State}

theorem Runs.clearCtx (h : Runs k i w .done s) (j : Fin 8) : Runs k i w .done (s.clearCtx j) := by
  unfold State.clearCtx
  split
  · obtain ⟨hc, ht, hp, _⟩ := clearPart_keeps s s.ctxs[j].part
    exact h.same hc ht hp
  · exact h

theorem Runs.faultCtx (h : Runs k i w .done s) {j : Fin 8} (hj : j ≠ k) : Runs k i w .done (s.faultCtx j) :=
  ((h.clearCtx j).onCtx fun e => absurd e hj).leftSet j

theorem failReq_only (s : State) (r : MemReq) (code : Byte) (va : Nat) : (s.failReq r code va).ctxs = s.ctxs ∧ (s.failReq r code va).tdis = s.tdis ∧
    (s.failReq r code va).preempt = s.preempt := by
  obtain ⟨x, hx⟩ := dropFill_only s r
  simp only [State.failReq, hx]
  split
  · unfold State.faultCore
    split
    · split <;> exact ⟨rfl, rfl, rfl⟩
    · exact ⟨rfl, rfl, rfl⟩
  · exact ⟨rfl, rfl, rfl⟩

theorem Runs.failIn (h : Runs k i w .done s) (in_ : Nat → Bool) (r : MemReq) : Runs k i w .done (s.failIn in_ r) := by
  unfold State.failIn
  split
  · exact h
  · split
    · split
      · have ht : Runs k i w .done ((s.unreserve r.id).onReq r.id fun q => { q with spots := [] }) := h.same rfl rfl rfl
        obtain ⟨hc, htd, hp⟩ := failReq_only ((s.unreserve r.id).onReq r.id fun q => { q with spots := [] }) { r with spots := [] } trapProtFault _
        exact (ht.same hc htd hp).same rfl rfl rfl
      · exact h
    · split
      · obtain ⟨hc, htd, hp⟩ := failReq_only s r trapProtFault r.va
        exact h.same hc htd hp
      · exact h

theorem Runs.evict (h : Runs k i w .done s) (n : Nat) (l : SLine) (back : Bool) : Runs k i w .done (s.evict n l back) := by
  unfold State.evict
  extract_lets x t
  have ht : Runs k i w .done t := h.same rfl rfl rfl
  split
  · exact ht.same rfl rfl rfl
  · split
    · exact ht.same rfl rfl rfl
    · exact ht

theorem Runs.destroyKeys (h : Runs k i w .done s) (j : Fin 16) : Runs k i w .done (s.destroyKeys j) := by
  unfold State.destroyKeys
  extract_lets mine in_ t gone u
  have ht : Runs k i w .done t := (foldl_sound h fun _ r hx => hx.failIn in_ r : Runs k i w .done (s.reqs.foldl (State.failIn in_) s)).same rfl rfl rfl
  have hu : Runs k i w .done u := foldl_sound ht fun _ l hx => hx.evict l.1 l.2 false
  exact hu.same rfl rfl rfl

/-- An interface in error takes its own contexts with it. -/
theorem Runs.enterError (h : Runs k i w .done s) {j : Fin 16} (hj : s.ctxs[k].itf ≠ some j) (cause : Fin 5) : Runs k i w .done (s.enterError j cause) := by
  unfold State.enterError
  extract_lets t
  have ht : Runs k i w .done t := by
    refine Runs.destroyKeys (s := s.onTdi j fun x => { x with state := .error, cause }) ⟨h.state, h.image, fun q hq => ?_, h.switch⟩ j
    have hne : q ≠ j := fun e => hj (e ▸ hq)
    have hkeep : (s.onTdi j fun x => { x with state := .error, cause }).tdis[q] = s.tdis[q] := vec_set_ne _ _ hne
    rw [hkeep]
    exact h.consent q hq
  refine foldl_mem_sound ht fun x c hc hx => hx.faultCtx fun e => hj ?_
  subst e
  have hb := (List.mem_filter.mp hc).2
  simp only [ne_eq, decide_eq_true_eq] at hb
  have hlt := hb.2
  simp only [Ctx.itf]
  rw [dif_pos (by omega)]
  exact congrArg some (Fin.ext (by simp only; omega))

theorem consent_max (x : Fin 3) : ¬ (2 : Fin 3) < x := by revert x; decide

/-- The debug fields change nothing that holds a session back. -/
theorem Runs.redebug (h : Runs k i w .done s) : Runs k i w .done s.redebug := by
  have hkeep : ∀ j : Fin 16, s.redebug.tdis[j] = { s.tdis[j] with debug := s.debugOf j } := fun j => Vector.getElem_ofFn _
  have hctxs : s.redebug.ctxs = s.ctxs := by
    unfold State.redebug
    rfl
  refine ⟨h.state, h.image, fun j hj => ?_, h.switch⟩
  rw [hctxs] at hj
  have hd : ∀ (x : Tdi) d, ({ x with debug := d } : Tdi).bound = x.bound ∧ ({ x with debug := d } : Tdi).consent = x.consent := fun _ _ => ⟨rfl, rfl⟩
  rw [hkeep, (hd _ _).1, (hd _ _).2]
  exact h.consent j hj

/-- An interface beyond its consent goes into error: its contexts are others. -/
theorem Runs.judgedOf (h : Runs k i w .done s) (l : List (Fin 16)) :
    Runs k i w .done (l.foldl (fun x j => if x.tdis[j].bound && decide (x.tdis[j].consent < x.debugOf j) then x.enterError j 1 else x) s) := by
  refine foldl_sound h fun x j hx => ?_
  split
  · next hb =>
    simp only [Bool.and_eq_true, decide_eq_true_eq] at hb
    refine hx.enterError (fun e => ?_) 1
    rcases hx.consent j e with hn | hn
    · exact Bool.false_ne_true (hn.symm.trans hb.1)
    · rw [hn] at hb
      exact consent_max _ hb.2
  · exact hx

theorem Runs.judged (h : Runs k i w .done s) : Runs k i w .done s.judged := (h.judgedOf (List.finRange 16)).redebug

end

end Sys2Proof.Machine
end

section
/-! Replies to faulted firings and switches of a partition, settled (04 R130 to R134, 05 R174, 08 R243 to R256). -/

namespace Sys2Proof.Machine

/-! ## Replies -/

/-- A reply that lets a firing run: its requests that faulted start again, its tokens are gone, and the core runs its firing with its scalar registers. -/
theorem resumes_firing {s : State} {n : Nat} {c : Core} {f : Firing} {i : Instr} (hclk : s.clocked = true) (hn : s.core n = some c)
    (hf : c.firing = some f) (hst : f.state = .faulted) (hz : c.frozen = false) (hcan : s.cancelled n = true)
    (hi : i = .resume n ∨ i = .retranslate n ∧ (∃ pre k post, s.tokens = pre ++ k :: post ∧ k.core = n ∧ k.pager = true ∧ k.ns = c.ns ∧
      ∀ x ∈ pre, x.core = n → x.pager = false)) :
    Makes i s fun t => (∀ r ∈ t.reqs, r.agent = .core n → r.stage ≠ .faulted ∧ r.stage ≠ .cancelled) ∧ (∀ k ∈ t.tokens, k.core = n → k.ns ≠ f.ns) ∧
      ∃ d ls, t.core n = some d ∧
        d.firing = some { f with state := if f.trig then .triggered else .running, failed := none, landings := ls } ∧ d.regs.s = c.regs.s ∧
        (∀ h, i = .retranslate n → c.lostHandle = some h → d.regs.full (.h h) = false) := by
  have hfault := faulted_of hf hst
  have hreply := reply_answers hn hfault hz hcan
  rcases hi with rfl | ⟨rfl, pre, k, post, ht, hk, hp, hns, hpre⟩
  · obtain ⟨hreqs, htok, d, ls, hd, hfir, hregs⟩ := resumeCore_of hn hf
    exact makes_event (r := evResume n s) rfl hclk (hreply .resume) ⟨hreqs, htok, d, ls, hd, hfir, by rw [hregs], nofun⟩
  · obtain ⟨e, he, hef, hes, hefull⟩ := rewalk_of hn
    obtain ⟨hreqs, htok, d, ls, hd, hfir, hregs⟩ := resumeCore_of he (hef.trans hf)
    have hev : evRetranslate n s = some (s.answer n .retranslate) := retranslate_replies hn hfault ht hk hp hns hpre (hreply .retranslate)
    exact makes_event rfl hclk hev ⟨hreqs, htok, d, ls, hd, hfir, by rw [hregs, hes], fun h _ hl => by rw [hregs]; exact hefull h hl⟩

theorem ends_firing {s : State} {n : Nat} {c : Core} {f : Firing} (hclk : s.clocked = true) (hn : s.core n = some c)
    (hf : c.firing = some f) (hst : f.state = .faulted) (hz : c.frozen = false) (hcan : s.cancelled n = true) :
    Makes (.endFiring n) s fun t => (∀ r ∈ t.reqs, r.agent = .core n → r.stage ≠ .faulted ∧ r.stage ≠ .cancelled) ∧
      ∃ d, t.core n = some d ∧ d.issue.retiring = true ∧ d.fills = [] ∧ d.flight = [] ∧ d.dfaults = [] :=
  makes_event (r := evEnd n s) rfl hclk (reply_answers hn (faulted_of hf hst) hz hcan .end_) (endCore_of hn hf)

theorem keeps_reply {s : State} {n : Nat} {c : Core} {f : Firing} (hclk : s.clocked = true) (hn : s.core n = some c)
    (hf : c.firing = some f) (hst : f.state = .faulted) (hz : c.frozen = true) :
    exec (.resume n) s = .next ((s.setCore n { c with reply := some 0 }).dropToken n c.ns) ∧
    exec (.endFiring n) s = .next ((s.setCore n { c with reply := some 2 }).dropToken n c.ns) :=
  ⟨event_some hclk (reply_kept hn (faulted_of hf hst) hz .resume), event_some hclk (reply_kept hn (faulted_of hf hst) hz .end_)⟩

/-! ## A switch before its time -/

/-- What arming a switch makes of it. -/
def State.armed (s : State) (p : Fin 16) : SwStatus :=
  let k := s.ctxs[s.preempt[p].next]
  if s.preempt[p].at_.toNat < s.wcc.toNat + 100000 then .late
  else if k.part = p ∧ (k.state = .parked ∨ k.state = .running) then .armed else .notReady

theorem arms_switch {s : State} {p : Fin 16} (hclk : s.clocked = true) (hopen : s.preempt[p].open_ = true) : Makes (.arm p) s fun t =>
    let k := s.ctxs[s.preempt[p].next]
    let at_ := s.preempt[p].at_.toNat
    t.ctxs = s.ctxs ∧ t.preempt[p].overdue = false ∧
    (at_ < s.wcc.toNat + 100000 → t.preempt[p].status = .late) ∧
    (s.wcc.toNat + 100000 ≤ at_ → k.part = p → (k.state = .parked ∨ k.state = .running) → t.preempt[p].status = .armed) ∧
    (s.wcc.toNat + 100000 ≤ at_ → (k.part ≠ p ∨ k.state ≠ .parked ∧ k.state ≠ .running) → t.preempt[p].status = .notReady) := by
  have hev : evArm p s = some (s.onPreempt p fun x => { x with status := s.armed p, overdue := false, avoid := none }) := by
    rw [evArm, if_pos hopen]
    rfl
  refine makes_event rfl hclk hev ⟨rfl, ?_⟩
  simp only [preempt_onPreempt]
  refine ⟨trivial, fun h => if_pos h, fun h hp hst => ?_, fun h hno => ?_⟩
  · rw [State.armed, if_neg (by omega), if_pos ⟨hp, hst⟩]
  · rw [State.armed, if_neg (by omega), if_neg]
    rintro ⟨hp, hst⟩
    rcases hno with hno | ⟨h1, h2⟩
    · exact hno hp
    · exact hst.elim h1 h2

theorem armed_switch {s : State} {p : Fin 16} (hclk : s.clocked = true) (harmed : s.preempt[p].status = .armed) :
    exec (.cancel p) s = .next (s.onPreempt p fun x => { x with status := .idle, avoid := none }) ∧
    (s.preempt[p].at_.toNat ≤ s.wcc.toNat + 20000 →
      exec (.switchCommit p) s = .next (s.onPreempt p fun x => { x with status := .committed })) :=
  ⟨event_some (r := evCancel p s) hclk (if_pos harmed), fun hat => event_some (r := evSwitchCommit p s) hclk (if_pos ⟨harmed, hat⟩)⟩

/-! ## A switch at its time -/

theorem beginRestore_keeps (s : State) (p : Fin 16) : (s.beginRestore p).preempt = s.preempt ∧ (s.beginRestore p).cores = s.cores ∧
    (s.beginRestore p).pmem = s.pmem := by
  unfold State.beginRestore
  split
  · exact ⟨rfl, rfl, rfl⟩
  · split <;> exact ⟨rfl, rfl, rfl⟩

/-- A partition that switches, with no context running, saving or restoring, restores the next one of its switch. -/
theorem beginRestore_next {s : State} {p : Fin 16} {j : Fin 8} (hrun : s.ctxIn p .running = none) (hsav : s.ctxIn p .saving = none)
    (hres : s.ctxIn p .restoring = none) (hsw : s.preempt[p].status = .switching) (hj : s.preempt[p].next = j) (hst : s.ctxs[j].state = .parked)
    (hp : s.ctxs[j].part = p) : (s.beginRestore p).ctxs[j].state = .restoring := by
  subst hj
  have hnext : s.restoreNext p = some s.preempt[p].next := (if_pos hsw).trans (if_pos ⟨hst, hp⟩)
  have hbegin : s.beginRestore p = s.onCtx s.preempt[p].next fun c => { c with state := .restoring } := by
    rw [State.beginRestore, hrun, hsav, hres, hnext]
    rfl
  rw [hbegin, ctx_onCtx]

/-- The running context of a partition leaves: it is saved once its cores have frozen. -/
def State.leaves (s : State) (p : Fin 16) (k : Fin 8) : State :=
  let u := ((s.onPreempt p fun x => { x with status := .switching }).onCtx k fun c => { c with state := .saving }).onPreempt p
    fun x => { x with out := some k, saved := false }
  { u with cores := u.cores.map fun x => if s.inPart p x.1 then (x.1, x.2.askFreeze) else x }

/-- A partition none of whose contexts runs switches at once. -/
def State.noneRuns (s : State) (p : Fin 16) : State :=
  (s.onPreempt p fun x => { x with status := .switching }).onPreempt p fun x => { x with out := none, saved := true }

theorem preempt_leaves (s : State) (p : Fin 16) (k : Fin 8) :
    (s.leaves p k).preempt[p] = { s.preempt[p] with status := .switching, out := some k, saved := false } := by
  show ((s.preempt.set p _).set p _)[p] = _
  rw [vec_set_self]
  exact congrArg (fun x : Preempt => { x with out := some k, saved := false }) (vec_set_self s.preempt p _)

theorem ctx_leaves (s : State) (p : Fin 16) (k : Fin 8) : (s.leaves p k).ctxs[k] = { s.ctxs[k] with state := .saving } :=
  vec_set_self s.ctxs k { s.ctxs[k] with state := .saving }

theorem preempt_noneRuns (s : State) (p : Fin 16) :
    (s.noneRuns p).preempt[p] = { s.preempt[p] with status := .switching, out := none, saved := true } := by
  rw [State.noneRuns, preempt_onPreempt, preempt_onPreempt]

theorem starts_switch {s : State} {p : Fin 16} (hclk : s.clocked = true) (hcom : s.preempt[p].status = .committed)
    (hat : s.preempt[p].at_.toNat ≤ s.wcc.toNat) (hres : s.ctxIn p .restoring = none) :
    (∀ k, s.ctxIn p .running = some k → Makes (.switchStart p) s fun t => t.ctxs[k].state = .saving ∧ t.preempt[p].status = .switching ∧
      t.preempt[p].out = some k ∧ t.preempt[p].saved = false ∧ t.cores = s.cores.map fun x => if s.inPart p x.1 then (x.1, x.2.askFreeze) else x) ∧
    (s.ctxIn p .running = none → s.ctxIn p .saving ≠ none →
      exec (.switchStart p) s = .next (s.onPreempt p fun x => { x with status := .switching })) ∧
    (s.ctxIn p .running = none → s.ctxIn p .saving = none → Makes (.switchStart p) s fun t => t.preempt[p].status = .switching ∧
      t.preempt[p].saved = true ∧ (s.ctxs[s.preempt[p].next].state = .parked → s.ctxs[s.preempt[p].next].part = p → t.ctxs[s.preempt[p].next].state = .restoring)) := by
  have hif : s.preempt[p].status = .committed ∧ s.preempt[p].at_.toNat ≤ s.wcc.toNat ∧ (s.ctxIn p .restoring).isNone = true := ⟨hcom, hat, by rw [hres]; rfl⟩
  refine ⟨fun k hk => ?_, fun hrun hsav => ?_, fun hrun hsav => ?_⟩
  · have hev : evSwitchStart p s = some (s.leaves p k) := by
      rw [evSwitchStart, if_pos hif, hk]
      rfl
    refine makes_event rfl hclk hev ?_
    rw [ctx_leaves, preempt_leaves]
    exact ⟨rfl, rfl, rfl, rfl, rfl⟩
  · refine event_some (r := evSwitchStart p s) hclk ?_
    rw [evSwitchStart, if_pos hif, hrun]
    exact if_pos (Option.isSome_iff_ne_none.mpr hsav)
  · have hev : evSwitchStart p s = some ((s.noneRuns p).beginRestore p) := by
      rw [evSwitchStart, if_pos hif, hrun, hsav]
      rfl
    refine makes_event rfl hclk hev ?_
    rw [(beginRestore_keeps _ _).1, preempt_noneRuns]
    exact ⟨rfl, rfl, fun hst hp => beginRestore_next (s := s.noneRuns p) hrun hsav hres (congrArg Preempt.status (preempt_noneRuns s p))
      (congrArg Preempt.next (preempt_noneRuns s p)) hst hp⟩

theorem late_switch {s : State} {p : Fin 16} (hclk : s.clocked = true) (hsw : s.preempt[p].status = .switching) (hover : s.preempt[p].overdue = false)
    (hat : s.preempt[p].at_.toNat + 4000000 ≤ s.wcc.toNat) :
    exec (.switchOverdue p) s = .next ((s.onPreempt p fun x => { x with overdue := true }).raisePart 0x48 p 0) :=
  event_some (r := evSwitchOverdue p s) hclk (if_pos ⟨hsw, hover, hat⟩)

theorem placed_again {s : State} {p : Fin 16} {l : List Nat} {x : Option Nat} (hclk : s.clocked = true)
    (hst : s.preempt[p].status = .armed ∨ s.preempt[p].status = .committed) (hrun : s.ctxIn p .running = some s.preempt[p].next) :
    exec (.rePlacement p l x) s = .next (s.onPreempt p fun q => { q with avoid := some (l, x) }) :=
  event_some (r := evRePlacement p l x s) hclk (if_pos ⟨hst, hrun⟩)

end Sys2Proof.Machine
end

section
/-! Saving and restoring at a switch, settled (05 R174, 08 R251 to R256). -/

namespace Sys2Proof.Machine

/-! ## Saving -/

theorem redebug_keeps (s : State) : s.redebug.ctxs = s.ctxs ∧ s.redebug.preempt = s.preempt ∧ s.redebug.pmem = s.pmem := by
  unfold State.redebug
  exact ⟨rfl, rfl, rfl⟩

theorem restoreNext_next {s : State} {p : Fin 16} {j : Fin 8} (hsw : s.preempt[p].status = .switching) (hj : s.restoreNext p = some j) :
    j = s.preempt[p].next := by
  have hif : s.restoreNext p = if s.ctxs[s.preempt[p].next].state = .parked ∧ s.ctxs[s.preempt[p].next].part = p then some s.preempt[p].next else none :=
    if_pos hsw
  rw [hif] at hj
  split at hj
  · exact (Option.some.inj hj).symm
  · nomatch hj

theorem restoreNext_wanted {s : State} {p : Fin 16} {j : Fin 8} (hsw : s.preempt[p].status ≠ .switching) (hj : s.restoreNext p = some j) :
    s.ctxs[j].wanted = true := by
  have hif : s.restoreNext p = (List.finRange 8).find? fun k => s.ctxs[k].part == p && s.ctxs[k].state == .parked && s.ctxs[k].wanted := if_neg hsw
  rw [hif] at hj
  have hj := List.find?_some hj
  simp only [Bool.and_eq_true] at hj
  exact hj.2

/-- A restore leaves a context that is not the next one as it is. -/
theorem ctx_beginRestore {s : State} {p : Fin 16} {k : Fin 8} (hk : s.restoreNext p ≠ some k) : (s.beginRestore p).ctxs[k] = s.ctxs[k] := by
  unfold State.beginRestore
  split
  · rfl
  · split
    · next j hj => exact ctx_onCtx_ne s _ fun e => hk (e ▸ hj)
    · rfl

theorem image_beginRestore (s : State) (p : Fin 16) (k : Fin 8) : (s.beginRestore p).ctxs[k].image = s.ctxs[k].image := by
  unfold State.beginRestore
  split
  · rfl
  · split
    · exact ctx_keeps (·.image) s _ k _ fun _ => rfl
    · rfl

/-- A partition whose context's image has been taken, before another is restored. -/
def State.imaged (s : State) (i : Fin 16) (p : Part) (k : Fin 8) : State :=
  let t := (s.clearPart i).onCtx k fun c => { c with state := .parked, image := some (s.image i p) }
  let t : State := { t with ticket := s.ticket + 1, tokens := s.tokens, cores := t.cores.map fun x => if p.has x.1 then (x.1, x.2.unheld) else x }
  t.onPreempt i fun x => { x with saved := true }

theorem ctx_imaged (s : State) (i : Fin 16) (p : Part) (k : Fin 8) :
    (s.imaged i p k).ctxs[k] = { s.ctxs[k] with state := .parked, image := some (s.image i p) } := by
  show ((s.clearPart i).ctxs.set k _)[k] = _
  rw [vec_set_self, (clearPart_keeps s i).1]

theorem preempt_imaged (s : State) (i : Fin 16) (p : Part) (k : Fin 8) : (s.imaged i p k).preempt[i] = { s.preempt[i] with saved := true } := by
  show ((s.clearPart i).preempt.set i _)[i] = _
  rw [vec_set_self]
  exact congrArg (fun x : Vector Preempt 16 => ({ x[i] with saved := true } : Preempt)) (clearPart_keeps s i).2.2.1

theorem saves_context {s : State} {i : Fin 16} {p : Part} {k : Fin 8} (hclk : s.clocked = true) (hp : s.part i = some p) (hout : s.preempt[i].out = some k)
    (hsaved : s.preempt[i].saved = false) (hst : s.ctxs[k].state = .saving) (hsavable : s.savable i p = true) :
    Makes (.saveDone i) s fun t => t.ctxs[k].image = some (s.image i p) ∧ t.preempt[i].saved = true ∧ t.pmem = s.pmem ∧
      ((if s.preempt[i].status = .switching then k ≠ s.preempt[i].next else s.ctxs[k].wanted = false) → t.ctxs[k].state = .parked) := by
  have hev : evSaveDone i s = some ((s.imaged i p k).beginRestore i).redebug := by
    simp only [evSaveDone, State.saveDone, hout, hp, hsaved, hst, hsavable]
    rfl
  obtain ⟨hctxs, hpre, hpmem⟩ := redebug_keeps ((s.imaged i p k).beginRestore i)
  obtain ⟨hbpre, _, hbpmem⟩ := beginRestore_keeps (s.imaged i p k) i
  refine makes_event rfl hclk hev ?_
  rw [hctxs, hpre, hpmem, hbpre, hbpmem, image_beginRestore, ctx_imaged, preempt_imaged]
  refine ⟨rfl, rfl, (clearPart_keeps s i).2.2.2, fun hnot => ?_⟩
  have hne : (s.imaged i p k).restoreNext i ≠ some k := fun hj => by
    by_cases hsw : s.preempt[i].status = .switching
    · rw [if_pos hsw] at hnot
      have hk := restoreNext_next (by rw [preempt_imaged]; exact hsw) hj
      rw [preempt_imaged] at hk
      exact hnot hk
    · rw [if_neg hsw] at hnot
      have hk := restoreNext_wanted (by rw [preempt_imaged]; exact hsw) hj
      rw [ctx_imaged] at hk
      exact Bool.false_ne_true (hnot.symm.trans hk)
  rw [ctx_beginRestore hne, ctx_imaged]

/-! ## Restoring -/

theorem putImage_keeps (s : State) (p : Part) (g : Config) (x : Image) : (s.putImage p g x).ctxs = s.ctxs ∧ (s.putImage p g x).tdis = s.tdis ∧
    (s.putImage p g x).preempt = s.preempt := by
  let P (t : State) : Prop := t.ctxs = s.ctxs ∧ t.tdis = s.tdis ∧ t.preempt = s.preempt
  have h1 : P (x.cores.foldl (fun y c => y.setCore c.1 (c.2.restoredOver (y.coreOr c.1) g c.1 y.wcc)) s) :=
    foldl_sound (P := P) ⟨rfl, rfl, rfl⟩ fun t c ht => ht
  have h2 := foldl_sound (P := P) (g := fun y n => if (assoc x.cores n).isSome then y else y.setCore n ((y.coreOr n).install g n)) (l := g.cores) h1
    fun t n ht => by
      split
      · exact ht
      · exact ht
  exact foldl_sound (P := P) (g := fun y r => y.setRouter r.1 (r.2.restoredOver (y.router r.1))) (l := x.routers) h2 fun t r ht => ht

/-- A context put to run with its configuration, before the replies it kept are answered. -/
theorem runs_restored {s t : State} {i : Fin 16} {k : Fin 8} (f : Ctx → Ctx) (hctxs : t.ctxs = s.ctxs) (htdis : t.tdis = s.tdis) (hpre : t.preempt = s.preempt)
    (hcons : ∀ j : Fin 16, s.ctxs[k].itf = some j → s.tdis[j].bound = false ∨ s.tdis[j].consent = 2)
    (hf : ∀ c, (f c).state = .running ∧ (f c).image = none ∧ (f c).tdi = c.tdi) :
    Runs k i (s.preempt[i].status = .switching) .switching ((t.noneWanted i).onCtx k f) := by
  have hctx : ((t.noneWanted i).onCtx k f).ctxs[k] = f (if s.ctxs[k].part = i then { s.ctxs[k] with wanted := false } else s.ctxs[k]) := by
    rw [ctx_onCtx, ← hctxs]
    exact congrArg f (Vector.getElem_map ..)
  obtain ⟨hst, him, htdi⟩ := hf (if s.ctxs[k].part = i then { s.ctxs[k] with wanted := false } else s.ctxs[k])
  have hitf : ((t.noneWanted i).onCtx k f).ctxs[k].itf = s.ctxs[k].itf := by
    have htdi' : (if s.ctxs[k].part = i then { s.ctxs[k] with wanted := false } else s.ctxs[k]).tdi = s.ctxs[k].tdi := by
      split <;> rfl
    simp only [Ctx.itf, hctx, htdi, htdi']
  refine ⟨by rw [hctx]; exact hst, by rw [hctx]; exact him, fun j hj => ?_, fun hw => ?_⟩
  · have hkeep : ((t.noneWanted i).onCtx k f).tdis = s.tdis := htdis
    rw [hkeep]
    exact hcons j (hitf ▸ hj)
  · have hkeep : ((t.noneWanted i).onCtx k f).preempt = s.preempt := hpre
    rw [hkeep]
    exact hw

/-- A switch that ends is done. -/
theorem Runs.ended {k : Fin 8} {i : Fin 16} {w : Prop} {s : State} (h : Runs k i w .switching s) :
    Runs k i w .done (s.onPreempt i fun q => if q.status = .switching then { q with status := .done, out := none, saved := false, avoid := none }
      else { q with avoid := none }) := by
  refine ⟨h.state, h.image, h.consent, fun hw => ?_⟩
  rw [preempt_onPreempt, if_pos (h.switch hw)]

theorem restores_context {s : State} {i : Fin 16} {p : Part} {k : Fin 8} {g : Config} {m : Image} (hclk : s.clocked = true) (hp : s.part i = some p)
    (hk : s.ctxIn i .restoring = some k) (hg : s.ctxs[k].cfg = some g) (hm : s.ctxs[k].image = some m)
    (hcons : ∀ j : Fin 16, s.ctxs[k].itf = some j → s.tdis[j].bound = false ∨ s.tdis[j].consent = 2) :
    Makes (.restoreDone i) s fun t => t.ctxs[k].state = .running ∧ t.ctxs[k].image = none ∧
      (s.preempt[i].status = .switching → t.preempt[i].status = .done) := by
  have answered : ∀ {x : State} {l : List (Nat × Core)}, Runs k i (s.preempt[i].status = .switching) .switching x →
      Runs k i (s.preempt[i].status = .switching) .switching (l.foldl (fun y c => if c.2.halted then y else y.answerKept c.1) x) := fun hx =>
    foldl_sound hx fun y c hy => by
      split
      · exact hy
      · exact hy.answerKept _
  obtain ⟨t, ht, hruns⟩ : ∃ t, s.restored i k = some t ∧ Runs k i (s.preempt[i].status = .switching) .done t := by
    simp only [State.restored, hp, hg, hm]
    refine ⟨_, rfl, Runs.ended ?_⟩
    obtain ⟨hctxs, htdis, hpre⟩ := putImage_keeps (s.onPart i fun q => q.setActive (s.activePlane p) (s.moveCfg i p g).1) p (s.moveCfg i p g).1
      (if (s.preempt[i].avoid.isSome && !(s.moveCfg i p g).2) = true then m.moveTo g (s.moveCfg i p g).1 k else m)
    have hput := runs_restored (k := k) (i := i) (fun c => { c with
      state := .running, cfg := some (s.moveCfg i p g).1, image := none, gates := c.gates.map fun x => x.replace (g.moved (s.moveCfg i p g).1) })
      hctxs htdis hpre hcons fun _ => ⟨rfl, rfl, rfl⟩
    refine Runs.same (s := if (s.moveCfg i p g).2 = true then State.raisePart _ 0x49 i 0 else _) ?_ rfl rfl rfl
    split
    · exact Runs.same (answered hput) rfl rfl rfl
    · exact answered hput
  have hev : evRestoreDone i s = some t.judged := by rw [evRestoreDone, hk, Option.bind_some, ht]; rfl
  have hj := hruns.judged
  exact makes_event rfl hclk hev ⟨hj.state, hj.image, hj.switch⟩

/-- Settles O58: a reply is answered where its core is faulted, not frozen, and its requests are cancelled; a switch goes through its states; and a
context that is restored outlasts the judgement of the sessions, for none of its interface's goes beyond its consent. -/
theorem repliesAndSwitch : Obligations.RepliesAndSwitch :=
  ⟨fun _ _ _ _ _ hclk hn hf hst hz hcan hi => resumes_firing hclk hn hf hst hz hcan hi,
    fun _ _ _ _ hclk hn hf hst hz hcan => ends_firing hclk hn hf hst hz hcan,
    fun _ _ _ _ hclk hn hf hst hz => keeps_reply hclk hn hf hst hz,
    fun _ _ hclk hopen => arms_switch hclk hopen,
    fun _ _ hclk harmed => armed_switch hclk harmed,
    fun _ _ hclk hcom hat hres => starts_switch hclk hcom hat hres,
    fun _ _ _ _ hclk hp hout hsaved hst hsavable => saves_context hclk hp hout hsaved hst hsavable,
    fun _ _ _ _ _ _ hclk hp hk hg hm hcons => restores_context hclk hp hk hg hm hcons,
    fun _ _ hclk hsw hover hat => late_switch hclk hsw hover hat,
    fun _ _ _ _ hclk hst hrun => placed_again hclk hst hrun⟩

end Sys2Proof.Machine
end

section
/-! Tables that the loader builds, and the ports that stay as they are meanwhile (04 R122, 07 R211). -/

namespace Sys2Proof.Machine

/-! ## Stores of the steward leave the ingress ports as they are -/

section
variable {q : Vector Ingress 16}

/-- The ingress ports stand at some value. -/
def State.Ports (q : Vector Ingress 16) (s : State) : Prop := s.ing = q

theorem ports_evict {s : State} (h : s.Ports q) (k : Nat) (l : SLine) (back : Bool) : (s.evict k l back).Ports q := by
  unfold State.evict
  extract_lets x t
  have ht : t.Ports q := h
  split
  · exact ht
  · split
    · exact ht
    · exact ht

theorem ports_bring {s : State} (h : s.Ports q) (part : Fin 16) (line : Nat) : Each (State.Ports q) (s.bring part line) := by
  unfold State.bring
  extract_lets k x
  split
  · exact each_some h
  · split
    · refine each_map fun w _ => ?_
      have hfill : (s.beginFill k line w).Ports q := by
        unfold State.beginFill
        extract_lets t
        have ht : t.Ports q := by
          unfold t
          split
          · exact ports_evict h k _ true
          · exact h
        exact ht
      exact hfill
    · exact each_some h

theorem ports_bringAll : ∀ {s : State} (_ : s.Ports q) (part : Fin 16) (l : List Nat), Each (State.Ports q) (s.bringAll part l)
  | _, h, _, [] => each_some h
  | _, h, part, l :: ls => each_bind fun t ht => ports_bringAll (ports_bring h part l t ht) part ls

theorem ports_raiseLts {s : State} (h : s.Ports q) (a : Agent) (t : Nat) : (s.raiseLts a t).Ports q := by
  unfold State.raiseLts
  split
  · split <;> exact h
  · exact h

theorem ports_stampAll : ∀ {s : State} (_ : s.Ports q) (part : Fin 16) (ts : Nat) (write : Bool) (l : List Nat), (s.stampAll part ts write l).Ports q
  | _, h, _, _, _, [] => h
  | s, h, part, ts, write, _ :: ls => ports_stampAll (s := s.setSlice _ _) h part ts write ls

theorem ports_writeEvent {s : State} (h : s.Ports q) (a : Agent) (part : Fin 16) (cells : List (Nat × Byte)) :
    Each (fun x => x.1.Ports q) (s.writeEvent a part cells) := by
  unfold State.writeEvent
  extract_lets lines
  split
  · exact each_none
  · refine each_map fun t ht => ?_
    have hput : (t.putMem cells).Ports q := ports_bringAll h part lines t ht
    exact ports_raiseLts (ports_stampAll hput part _ true lines) a _

theorem ports_storeEntry {s : State} (h : s.Ports q) (part : Fin 16) (a e : Nat) : Each (State.Ports q) (s.storeEntry part a e) :=
  each_map (ports_writeEvent h .steward part _)

theorem ports_zeroFill {s : State} (h : s.Ports q) (part : Fin 16) (base n : Nat) : (s.zeroFill part base n).Ports q := by
  unfold State.zeroFill
  extract_lets mine ts t owned clean
  have ht : t.Ports q := ports_raiseLts h _ _
  exact ht

theorem ports_freshPage (part : Fin 16) (va : Nat) : ∀ (fuel : Nat) {s : State} (_ : s.Ports q) (level a : Nat),
    Each (Each (State.Ports q)) (s.freshPage part va fuel level a)
  | 0, _, _, _, _ => each_some each_none
  | fuel + 1, s, h, level, a => by
    have hentry : ∀ p base n e, Each (State.Ports q) (((s.onPart part fun _ => p).zeroFill part base n).storeEntry part a e) := fun p base n e =>
      ports_storeEntry (ports_zeroFill (s := s.onPart part fun _ => p) h _ _ _) _ _ _
    unfold State.freshPage
    split
    · exact each_some each_none
    · split
      · extract_lets z
        split
        · exact each_some each_none
        · exact each_map fun t ht => each_some (hentry _ _ _ _ t ht)
      · extract_lets size
        split
        · exact each_some each_none
        · exact each_bind fun t ht => ports_freshPage part va fuel (hentry _ _ _ _ t ht) _ _

theorem ports_mapPages (part : Fin 16) (root : Nat) : ∀ {s : State} (_ : s.Ports q) (l : List Nat), Each (Each (State.Ports q)) (s.mapPages part root l)
  | _, h, [] => each_some (each_some h)
  | s, h, va :: l => by
    unfold State.mapPages
    split
    · next a level _ =>
      refine each_bind fun r hr => ?_
      split
      · next t => exact ports_mapPages part root (ports_freshPage part va 3 h level a _ hr t rfl) l
      · exact each_some each_none
    · exact ports_mapPages part root h l

theorem ports_writeGlobals {s : State} (h : s.Ports q) (part : Fin 16) (root : Nat) (g : Config) : Each (State.Ports q) (s.writeGlobals part root g) := by
  unfold State.writeGlobals
  extract_lets cells
  split
  · exact each_some h
  · exact each_map (ports_writeEvent h .steward part cells)

/-- A context's top-level table is built while the ports stand still. -/
theorem ports_buildTables {s : State} (h : s.Ports q) (part : Fin 16) (p : Part) (ns : BitVec 8) (g : Config) (taken : List Nat) :
    Each (Each (State.Ports q)) (s.buildTables part p ns g taken) := by
  unfold State.buildTables
  split
  · exact each_some each_none
  · extract_lets root _ t
    have ht : t.Ports q := ports_zeroFill h part root 0x1000000
    refine each_bind fun r hr => ?_
    split
    · next u => exact each_map fun v hv => each_some (ports_writeGlobals (ports_mapPages part root ht _ _ hr u rfl) part root g v hv)
    · exact each_some each_none

end

end Sys2Proof.Machine
end

section
/-! OPEN at an ingress port, settled (04 R122 to R129). -/

namespace Sys2Proof.Machine

theorem ing_onIng (s : State) (n : Fin 16) (f : Ingress → Ingress) : (s.onIng n f).ing[n] = f s.ing[n] := vec_set_self _ _ _

theorem onIng_only (s : State) (n : Fin 16) (f : Ingress → Ingress) : (s.onIng n f).ctxs = s.ctxs ∧ (s.onIng n f).smem = s.smem := ⟨rfl, rfl⟩

theorem writeReport_only (s : State) (n : Fin 16) (b : List Byte) : (s.writeReport n b).ctxs = s.ctxs ∧
    (s.writeReport n b).smem = s.smem.put (cellsAt (s.ing[n].entryAt 0) b) := by
  rw [State.writeReport, State.consume, (onIng_only _ _ _).1, (onIng_only _ _ _).2]
  exact ⟨rfl, rfl⟩

/-- An OPEN at the head of a port whose stream is not discarded: a resident context is found, or the loader is asked. -/
theorem evOpenCfg_of {s : State} {n : Fin 16} {e : List Nat} (he : s.entryOf n 1 = some e) (hskip : s.ing[n].skipping = false)
    (hrep : s.ing[n].report = none) : evOpenCfg n s =
      if s.ctxs[(openArgs e).ctx].matches_ (openArgs e) || !s.loaderWaits (openArgs e) then s.openAt n (openArgs e)
      else if s.ing[n].loading then none
      else some (s.onIng n fun g => { g with loading := true }) := by
  rw [evOpenCfg, hrep]
  simp only [he, Option.bind_some, hskip, Bool.false_eq_true, if_false]

theorem opened_keeps (s : State) (n : Fin 16) (k : Fin 8) (b : List Byte) : (s.opened n k b).ing[n].stream = some k ∧
    (s.opened n k b).ing[n].head = s.ing[n].head + 1 ∧ (s.opened n k b).ing[n].loading = false ∧ (s.opened n k b).ing[n].report = none ∧
    (s.opened n k b).ctxs = s.ctxs ∧ (s.opened n k b).smem = s.smem.put (cellsAt (s.ing[n].entryAt 0) b) := by
  have hing : (s.opened n k b).ing[n] = { s.ing[n] with
      head := s.ing[n].head + BitVec.ofNat 32 1, holding := false, stream := some k, loading := false, report := none } := by
    rw [State.opened, ing_onIng, State.writeReport, State.consume, ing_onIng]
  rw [hing]
  exact ⟨rfl, rfl, rfl, rfl, rfl, rfl⟩

/-! ## A context found -/

theorem open_finds {s : State} {n : Fin 16} {e : List Nat} {g : Config} (hclk : s.clocked = true) (he : s.entryOf n 1 = some e)
    (hskip : s.ing[n].skipping = false) (hrep : s.ing[n].report = none) (hm : s.ctxs[(openArgs e).ctx].matches_ (openArgs e) = true)
    (hg : s.ctxs[(openArgs e).ctx].resident = some g) : Makes (.openCfg n) s fun t => t.ing[n].stream = some (openArgs e).ctx ∧
      t.ing[n].head = s.ing[n].head + 1 ∧ t.ctxs = s.ctxs ∧
      t.smem = s.smem.put (cellsAt (s.ing[n].entryAt 0) (report 1 0 (s.subst g) 0 g.hopWord 0xFFFFFFFF g.cores.length)) := by
  have hev : evOpenCfg n s = some (s.opened n (openArgs e).ctx (s.reportOf g 1 0)) := by
    rw [evOpenCfg_of he hskip hrep, hm]
    simp only [Bool.true_or, if_true, State.openAt, hm, hg]
  obtain ⟨hstream, hhead, _, _, hctxs, hsmem⟩ := opened_keeps s n (openArgs e).ctx (s.reportOf g 1 0)
  exact makes_event rfl hclk hev ⟨hstream, hhead, hctxs, hsmem⟩

theorem open_waits {s : State} {n : Fin 16} {e : List Nat} (hclk : s.clocked = true) (he : s.entryOf n 1 = some e)
    (hskip : s.ing[n].skipping = false) (hrep : s.ing[n].report = none) (hm : s.ctxs[(openArgs e).ctx].matches_ (openArgs e) = false)
    (hwait : s.loaderWaits (openArgs e) = true) (hload : s.ing[n].loading = false) :
    exec (.openCfg n) s = .next (s.onIng n fun g => { g with loading := true }) := by
  refine event_some (r := evOpenCfg n s) hclk ?_
  rw [evOpenCfg_of he hskip hrep, hm, hwait, hload]
  rfl

/-! ## What the loader answers -/

/-- An OPEN that the loader takes: no context is found, none on its way is waited for, none is replaced. -/
structure Loads (s : State) (n : Fin 16) (e : List Nat) : Prop where
  clocked : s.clocked = true
  entry : s.entryOf n 1 = some e
  skipping : s.ing[n].skipping = false
  report : s.ing[n].report = none
  found : s.ctxs[(openArgs e).ctx].matches_ (openArgs e) = false
  waits : s.loaderWaits (openArgs e) = false
  replaces : s.replaces (openArgs e) = false

theorem Loads.event {s : State} {n : Fin 16} {e : List Nat} (h : Loads s n e) : evOpenCfg n s = s.load n (openArgs e) (none, []) := by
  have hopen : s.openAt n (openArgs e) = s.load n (openArgs e) (none, []) := by
    rw [State.openAt, h.found, h.replaces]
    rfl
  rw [evOpenCfg_of h.entry h.skipping h.report, h.found, h.waits]
  exact hopen

/-- A refusal that raises no event: the report stands over the entry, ERR is set, the rest of the stream is discarded. -/
theorem refuse_keeps (s : State) (n part : Fin 16) {code index : Nat} (hcode : ¬ (code = 6 ∨ code = 7)) :
    (s.refuse n part code index).ing[n].err = true ∧ (s.refuse n part code index).ing[n].code = BitVec.ofNat 8 code ∧
    (s.refuse n part code index).ing[n].skipping = true ∧ (s.refuse n part code index).ing[n].head = s.ing[n].head + 1 ∧
    (s.refuse n part code index).ctxs = s.ctxs ∧ (s.refuse n part code index).smem =
      s.smem.put (cellsAt (s.ing[n].entryAt 0) (report 2 code (boolBit (s.cxlLinks == 0)) 0 0 index 0)) := by
  have heq : s.refuse n part code index = ((s.writeReport n (report 2 code (boolBit (s.cxlLinks == 0)) 0 0 index 0)).ingErr n (BitVec.ofNat 8 code)).onIng n
      fun g => { g with skipping := true, loading := false } := if_neg hcode
  have hing : (s.refuse n part code index).ing[n] = { s.ing[n] with
      head := s.ing[n].head + BitVec.ofNat 32 1, holding := false, err := true, code := BitVec.ofNat 8 code, skipping := true, loading := false } := by
    rw [heq, ing_onIng, State.ingErr, ing_onIng, State.writeReport, State.consume, ing_onIng]
  obtain ⟨hctxs, hsmem⟩ := writeReport_only s n (report 2 code (boolBit (s.cxlLinks == 0)) 0 0 index 0)
  rw [hing, heq, (onIng_only _ _ _).1, (onIng_only _ _ _).2, State.ingErr, (onIng_only _ _ _).1, (onIng_only _ _ _).2, hctxs, hsmem]
  exact ⟨rfl, rfl, rfl, rfl, rfl, rfl⟩

theorem Loads.refused {s : State} {n : Fin 16} {e : List Nat} {code index : Nat} (h : Loads s n e) (hcode : ¬ (code = 6 ∨ code = 7))
    (hload : s.load n (openArgs e) (none, []) = some (s.refuse n (openArgs e).part code index)) : Makes (.openCfg n) s fun t =>
      t.ing[n].err = true ∧ t.ing[n].code = BitVec.ofNat 8 code ∧ t.ing[n].skipping = true ∧ t.ing[n].head = s.ing[n].head + 1 ∧ t.ctxs = s.ctxs ∧
        t.smem = s.smem.put (cellsAt (s.ing[n].entryAt 0) (Sys2Proof.Machine.report 2 code (boolBit (s.cxlLinks == 0)) 0 0 index 0)) :=
  makes_event (r := evOpenCfg n s) rfl h.clocked (h.event.trans hload) (refuse_keeps s n (openArgs e).part hcode)

theorem load_missing {s : State} {n : Fin 16} {a : OpenArgs} {keep : Option Config × List Gate} (h : ∀ x ∈ s.store, x.1 ≠ a.pfx) :
    s.load n a keep = some (s.refuse n a.part 1 noRecord) := by
  rw [State.load, List.find?_eq_none.mpr (by simpa using h)]

section
variable {s : State} {n : Fin 16} {a : OpenArgs} {b : Binary} {x : BitVec 128} {keep : Option Config × List Gate}
variable (hfind : (s.store.find? fun y => y.1 = a.pfx) = some (x, b))
include hfind

theorem load_broken (hw : (Sys2Proof.Config.sha384 b.bytes).extractLsb' 256 128 ≠ digestPrefix a.pfx) :
    s.load n a keep = some (s.refuse n a.part 2 noRecord) := by
  rw [State.load, hfind]
  exact if_pos hw

variable (hw : (Sys2Proof.Config.sha384 b.bytes).extractLsb' 256 128 = digestPrefix a.pfx)
include hw

theorem load_malformed {i : Nat} (hi : b.malformed = some i) : s.load n a keep = some (s.refuse n a.part 0x0A i) := by
  rw [State.load, hfind]
  simp only [hw, ne_eq, not_true_eq_false, if_false, hi, Option.isSome_some, if_true, Option.getD_some]

theorem load_occupied (hm : b.malformed = none) (hb : b.recordsBad = false) (hst : s.ctxs[a.ctx].state ≠ .empty) :
    s.load n a keep = some (s.refuse n a.part 9 noRecord) := by
  rw [State.load, hfind]
  simp only [hw, ne_eq, not_true_eq_false, if_false, hm, Option.isSome_none, Bool.false_eq_true, hb]
  exact if_pos hst

end

end Sys2Proof.Machine
end

section
/-! A configuration that an OPEN loads, settled (04 R122, 16 R419). -/

namespace Sys2Proof.Machine

/-! ## The loader takes a configuration in -/

section
variable {s u : State} {n : Fin 16} {a : OpenArgs} {b : Binary} {x : BitVec 128} {keep : Option Config × List Gate} {p q : Part}
variable {m : Config × Placement × Bool} {frames : List Nat}

theorem load_takes (hfind : (s.store.find? fun y => y.1 = a.pfx) = some (x, b))
    (hw : (Sys2Proof.Config.sha384 b.bytes).extractLsb' 256 128 = digestPrefix a.pfx) (hm : b.malformed = none) (hb : b.recordsBad = false)
    (hst : s.ctxs[a.ctx].state = .empty) (htdi : s.tdiOk a.tdi = true) (hunit : s.unitLacks b (b.config Placement.none_) = false) (hsig : b.sigBad = none)
    (hp : s.part a.part = some p) (hcores : b.needs ≤ s.coresOf p) (hslices : s.slicesOf p ≠ 0) (hplaced : s.placed p b a.pfx a.ns = some m) :
    s.load n a keep = s.takeIn n a p b m keep := by
  rw [State.load, hfind]
  simp only [hw, ne_eq, not_true_eq_false, if_false, hm, Option.isSome_none, Bool.false_eq_true, hb, hst, htdi, Bool.not_true, hunit, hsig, hp, hslices,
    or_false, Nat.not_lt.mpr hcores, hplaced]

/-- The module with a placement kept in its mapping cache. -/
def State.keeping (s : State) (p : Part) (a : OpenArgs) (b : Binary) (m : Config × Placement × Bool) : State :=
  s.keepPlacement (s.mapKey p a.pfx (b.config Placement.none_)) m.2.1

/-- A context whose configuration is installed, the binary measured. -/
def State.takes (u r : State) (n : Fin 16) (a : OpenArgs) (q : Part) (b : Binary) (m : Config × Placement × Bool) (frames : List Nat)
    (keep : Option Config × List Gate) : State :=
  let v := u.installCfg n a q m.1 frames keep (r.reportOf m.1 0 (boolBit m.2.2))
  { v with meas := v.meas.set 7 (Sys2Proof.Config.measure v.meas[7] (Sys2Proof.Config.sha384 b.bytes)) }

theorem takeIn_of (hbad : b.placedBad p m.2.1 m.1 = false) (hover : (s.keeping p a b m).overCapacity p m.1 = false) (hback : m.1.backBad = false)
    (hrate : m.1.rateReject = false) (hseed : m.1.unseeded = false) (himage : (s.keeping p a b m).imageAt p a.tdi m.1 = some frames)
    (hbuild : (s.keeping p a b m).buildTables a.part p a.ns m.1 frames = some (some u)) (hq : u.part a.part = some q) :
    s.takeIn n a p b m keep = some (u.takes (s.keeping p a b m) n a q b m frames keep) := by
  unfold State.keeping at *
  simp only [State.takeIn, hbad, hover, hback, hrate, hseed, himage, hbuild, hq, Bool.false_eq_true, if_false, Option.bind_some]
  rfl

/-! ## What stands after it -/

theorem writePlane_keeps (s : State) (n : Fin 16) (plane : Bool) (l : List Nat) : (s.writePlane n plane l).ctxs = s.ctxs ∧
    (s.writePlane n plane l).meas = s.meas :=
  foldl_sound (P := fun t : State => t.ctxs = s.ctxs ∧ t.meas = s.meas) ⟨rfl, rfl⟩ fun _ _ ht => ht

theorem installCfg_meas (rep : List Byte) (g : Config) : (u.installCfg n a q g frames keep rep).meas = u.meas := by
  unfold State.installCfg
  extract_lets src base parked new old shadow
  split
  · rfl
  · exact (writePlane_keeps shadow n new q.routers).2

theorem takes_meas (r : State) (n : Fin 16) (a : OpenArgs) (q : Part) (b : Binary) (m : Config × Placement × Bool) (frames : List Nat)
    (keep : Option Config × List Gate) :
    (u.takes r n a q b m frames keep).meas[7] = Sys2Proof.Config.measure u.meas[7] (Sys2Proof.Config.sha384 b.bytes) := by
  unfold State.takes
  extract_lets v
  have hv : v.meas = u.meas := installCfg_meas _ _
  refine (Vector.getElem_set_self ..).trans ?_
  rw [hv]

/-- No context of the partition runs: its configuration goes to the shadow plane by configuration writes. -/
theorem installCfg_shadow {rep : List Byte} {g : Config} (hrun : u.ctxIn a.part .running = none) :
    (u.installCfg n a q g frames keep rep).ctxs[a.ctx] = { Ctx.reset with
      part := a.part, ns := a.ns, tdi := ⟨a.tdi % 17, by omega⟩, frames, state := .loading, cfg := keep.1, gates := keep.2, next := some g } ∧
    (u.installCfg n a q g frames keep rep).ing[n].loading = true ∧
    (u.installCfg n a q g frames keep rep).ing[n].report = some (a.ctx, a.part, rep) := by
  unfold State.installCfg
  extract_lets src base parked new old shadow
  rw [hrun]
  rw [if_neg (by decide)]
  rw [(onIng_only _ _ _).1, (writePlane_keeps shadow n new q.routers).1, ing_onIng]
  exact ⟨ctx_onCtx _ _ _, rfl, rfl⟩

/-- A context of the partition runs: the configuration waits in an image. -/
theorem installCfg_parked {rep : List Byte} {g : Config} (hrun : u.ctxIn a.part .running ≠ none) :
    (u.installCfg n a q g frames keep rep).ctxs[a.ctx] = { Ctx.reset with
      part := a.part, ns := a.ns, tdi := ⟨a.tdi % 17, by omega⟩, frames, state := .parked, cfg := some g, gates := g.gates a.ctx,
      image := some (u.firstImage g) } ∧
    (u.installCfg n a q g frames keep rep).ing[n].stream = some a.ctx ∧
    (u.installCfg n a q g frames keep rep).ing[n].head = u.ing[n].head + 1 := by
  unfold State.installCfg
  extract_lets src base parked new old shadow
  rw [if_pos (Option.isSome_iff_ne_none.mpr hrun)]
  obtain ⟨hstream, hhead, _, _, hctxs, _⟩ := opened_keeps { parked with ticket := u.ticket + 1 } n a.ctx rep
  have hctx := ctx_onCtx u a.ctx fun _ => { base with
    state := .parked, cfg := some g, gates := g.gates a.ctx, image := some (u.firstImage g) }
  rw [hctxs]
  exact ⟨hctx, hstream, hhead⟩

end

theorem Loads.taken {s u : State} {n : Fin 16} {e : List Nat} {p q : Part} {b : Binary} {m : Config × Placement × Bool} {frames : List Nat} (h : Loads s n e)
    (hload : s.load n (openArgs e) (none, []) = s.takeIn n (openArgs e) p b m (none, []))
    (hbad : b.placedBad p m.2.1 m.1 = false) (hover : (s.keeping p (openArgs e) b m).overCapacity p m.1 = false) (hback : m.1.backBad = false)
    (hrate : m.1.rateReject = false) (hseed : m.1.unseeded = false) (himage : (s.keeping p (openArgs e) b m).imageAt p (openArgs e).tdi m.1 = some frames)
    (hbuild : (s.keeping p (openArgs e) b m).buildTables (openArgs e).part p (openArgs e).ns m.1 frames = some (some u))
    (hq : u.part (openArgs e).part = some q) : Makes (.openCfg n) s fun t =>
      t.ctxs[(openArgs e).ctx].part = (openArgs e).part ∧ t.ctxs[(openArgs e).ctx].ns = (openArgs e).ns ∧ t.ctxs[(openArgs e).ctx].frames = frames ∧
      t.meas[7] = Sys2Proof.Config.measure u.meas[7] (Sys2Proof.Config.sha384 b.bytes) ∧
      (u.ctxIn (openArgs e).part .running = none → t.ctxs[(openArgs e).ctx].state = .loading ∧ t.ctxs[(openArgs e).ctx].next = some m.1 ∧
        t.ing[n].loading = true ∧ t.ing[n].report = some ((openArgs e).ctx, (openArgs e).part, (s.keeping p (openArgs e) b m).reportOf m.1 0 (boolBit m.2.2))) ∧
      (u.ctxIn (openArgs e).part .running ≠ none → t.ctxs[(openArgs e).ctx].state = .parked ∧ t.ctxs[(openArgs e).ctx].cfg = some m.1 ∧
        t.ing[n].stream = some (openArgs e).ctx ∧ t.ing[n].head = s.ing[n].head + 1) := by
  have hev : evOpenCfg n s = some (u.takes (s.keeping p (openArgs e) b m) n (openArgs e) q b m frames (none, [])) :=
    (h.event.trans hload).trans (takeIn_of hbad hover hback hrate hseed himage hbuild hq)
  have hports : u.ing = s.ing := ports_buildTables (q := s.ing) (s := s.keeping p (openArgs e) b m) rfl _ _ _ _ _ _ hbuild u rfl
  have hmeas := takes_meas (u := u) (s.keeping p (openArgs e) b m) n (openArgs e) q b m frames (none, [])
  refine makes_event rfl h.clocked hev ?_
  by_cases hrun : u.ctxIn (openArgs e).part .running = none
  · obtain ⟨hctx, hloading, hreport⟩ := installCfg_shadow (n := n) (q := q) (frames := frames) (keep := (none, []))
      (rep := (s.keeping p (openArgs e) b m).reportOf m.1 0 (boolBit m.2.2)) (g := m.1) hrun
    refine ⟨congrArg Ctx.part hctx, congrArg Ctx.ns hctx, congrArg Ctx.frames hctx, hmeas, fun _ => ⟨congrArg Ctx.state hctx, congrArg Ctx.next hctx,
      hloading, hreport⟩, fun hne => absurd hrun hne⟩
  · obtain ⟨hctx, hstream, hhead⟩ := installCfg_parked (n := n) (q := q) (frames := frames) (keep := (none, []))
      (rep := (s.keeping p (openArgs e) b m).reportOf m.1 0 (boolBit m.2.2)) (g := m.1) hrun
    refine ⟨congrArg Ctx.part hctx, congrArg Ctx.ns hctx, congrArg Ctx.frames hctx, hmeas, fun he => absurd he hrun, fun _ => ⟨congrArg Ctx.state hctx,
      congrArg Ctx.cfg hctx, hstream, hhead.trans (by rw [hports])⟩⟩

end Sys2Proof.Machine
end

section
/-! GO at an ingress port, settled (04 R121, R431, 05 R168, R171, 10 R301). -/

namespace Sys2Proof.Machine

/-! ## Bindings leave a task's number and graph -/

theorem inGraphs_onTask (g : Config) (n : Nat) {f : Task → Task} (hf : ∀ t, (f t).num = t.num ∧ (f t).graph = t.graph) (l : List Nat) (task : Nat) :
    (g.onTask n f).inGraphs l task = g.inGraphs l task := by
  simp only [Config.inGraphs, Config.onTask, List.any_map]
  congr 1
  funext t
  obtain ⟨hnum, hgraph⟩ := hf t
  simp only [Function.comp]
  split
  · rw [hnum, hgraph]
  · rfl

theorem inGraphs_bindArg (g : Config) (k : Ctx) (b : Nat × ArgTarget) (l : List Nat) (task : Nat) : (g.bindArg k b).inGraphs l task = g.inGraphs l task := by
  obtain ⟨i, target⟩ := b
  cases target with
  | lo t v =>
    refine inGraphs_onTask g t ?_ l task
    exact fun _ => ⟨rfl, rfl⟩
  | step t v =>
    refine inGraphs_onTask g t ?_ l task
    exact fun _ => ⟨rfl, rfl⟩
  | count t v =>
    refine inGraphs_onTask g t ?_ l task
    exact fun _ => ⟨rfl, rfl⟩
  | subOff t r c =>
    refine inGraphs_onTask g t ?_ l task
    exact fun _ => ⟨rfl, rfl⟩
  | pubOff t r c =>
    refine inGraphs_onTask g t ?_ l task
    exact fun _ => ⟨rfl, rfl⟩
  | dirBase d => rfl
  | dirScale d => rfl

/-- A configuration with its arguments bound. -/
def Config.bound (g : Config) (c : Ctx) (nums : List Nat) : Config := (g.bindings nums).foldl (fun x b => x.bindArg c b) g

theorem inGraphs_bound (g : Config) (c : Ctx) (nums : List Nat) (l : List Nat) (task : Nat) : (g.bound c nums).inGraphs l task = g.inGraphs l task :=
  foldl_sound (P := fun h : Config => h.inGraphs l task = g.inGraphs l task) rfl fun h b hh => (inGraphs_bindArg h c b l task).trans hh

/-! ## Graphs marked runnable -/

/-- A context whose graphs are marked: it runs, they are runnable, and their gates stand reopened. -/
structure Marked (s : State) (k : Fin 8) (g : Config) (l : List (Fin 16)) (t : State) : Prop where
  ing : t.ing = s.ing
  state : t.ctxs[k].state = .running
  runnable : ∀ x ∈ l, x ∈ t.ctxs[k].runnable
  gates : ∀ x ∈ t.ctxs[k].gates, g.inGraphs (l.map (·.val)) x.id.task = true → ∃ y : Gate, x = y.reopened

theorem Marked.of {s t u : State} {k : Fin 8} {g : Config} {l : List (Fin 16)} (h : Marked s k g l t) (hing : u.ing = t.ing)
    (hctx : u.ctxs[k].state = t.ctxs[k].state ∧ u.ctxs[k].runnable = t.ctxs[k].runnable ∧ u.ctxs[k].gates = t.ctxs[k].gates) : Marked s k g l u := by
  obtain ⟨hst, hrun, hgates⟩ := hctx
  exact ⟨hing.trans h.ing, hst.trans h.state, by rw [hrun]; exact h.runnable, by rw [hgates]; exact h.gates⟩

theorem Marked.finishGraph {s t : State} {k : Fin 8} {g : Config} {l : List (Fin 16)} (h : Marked s k g l t) (n : Nat) : Marked s k g l (t.finishGraph k n) := by
  unfold State.finishGraph
  extract_lets c
  split
  · split
    · next gr _ _ =>
      exact h.of rfl ⟨ctx_keeps (·.state) t k k (fun c => { c with doneG := c.doneG ++ [gr] }) fun _ => rfl,
        ctx_keeps (·.runnable) t k k (fun c => { c with doneG := c.doneG ++ [gr] }) fun _ => rfl,
        ctx_keeps (·.gates) t k k (fun c => { c with doneG := c.doneG ++ [gr] }) fun _ => rfl⟩
    · exact h
  · exact h

theorem runGraphs_marked {s : State} {k : Fin 8} (g : Config) (l : List (Fin 16)) (hst : s.ctxs[k].state = .running) : Marked s k g l (s.runGraphs k g l) := by
  have hmark : ∀ (t : State) (d : Ctx), t.ing = s.ing → d.state = s.ctxs[k].state → d.runnable = s.ctxs[k].runnable ++ l.filter (fun x => !s.ctxs[k].runnable.contains x) →
      d.gates = s.ctxs[k].gates.map (fun x => if (g.bound s.ctxs[k] (l.map (·.val))).inGraphs (l.map (·.val)) x.id.task then x.reopened else x) →
      Marked s k g l (t.onCtx k fun _ => d) := fun t d hing hstate hrun hgates => by
    refine ⟨hing, ?_, ?_, ?_⟩ <;> rw [ctx_onCtx]
    · exact hstate.trans hst
    · intro x hx
      rw [hrun, List.mem_append, List.mem_filter]
      by_cases hc : x ∈ s.ctxs[k].runnable
      · exact .inl hc
      · exact .inr ⟨hx, by simpa using hc⟩
    · intro x hx hin
      rw [hgates] at hx
      obtain ⟨y, _, rfl⟩ := List.mem_map.mp hx
      rw [inGraphs_bound] at hin ⊢
      split at hin
      · next hy => exact ⟨y, if_pos hy⟩
      · next hy => exact absurd hin hy
  unfold State.runGraphs
  extract_lets c nums h mine d seeds u t
  have ht : Marked s k g l t := by
    unfold t
    rw [if_pos hst]
    split
    · exact hmark (u.onPart c.part fun q => q.setActive (s.activePlane _) h) d rfl rfl rfl rfl
    · exact hmark u d rfl rfl rfl rfl
  exact foldl_sound ht fun x i hx => hx.finishGraph i.val

/-- A well-formed entry of a kind is the port's. -/
theorem entryOf_entry {s : State} {n : Fin 16} {kind : Nat} {e : List Nat} (h : s.entryOf n kind = some e) : s.entry n = some e ∧ kindOf e = kind := by
  unfold State.entryOf at h
  split at h
  · next x hx =>
    split at h
    · next hk =>
      rw [← Option.some.inj h]
      exact ⟨hx, hk.1⟩
    · nomatch h
  · nomatch h

theorem go_runs {s : State} {n : Fin 16} {e : List Nat} {k : Fin 8} {g : Config} {i : Instr} (hclk : s.clocked = true) (he : s.entryOf n 4 = some e)
    (hskip : s.ing[n].skipping = false) (hstream : s.ing[n].stream = some k)
    (hi : i = .go n ∧ s.ing[n].holding = false ∨ i = .heldEntryResume n ∧ s.ing[n].holding = true) (hst : s.ctxs[k].state = .running)
    (hg : s.ctxs[k].cfg = some g) (hargs : ∀ b ∈ g.bindings ((g.graphsOf (el e 0)).map (·.val)), s.ctxs[k].badArg b = none) : Makes i s fun t =>
      t.ing[n].head = s.ing[n].head + 1 ∧ t.ing[n].holding = false ∧ t.ctxs[k].state = .running ∧
      (∀ x ∈ g.graphsOf (el e 0), x ∈ t.ctxs[k].runnable) ∧
      ∀ x ∈ t.ctxs[k].gates, g.inGraphs ((g.graphsOf (el e 0)).map (·.val)) x.id.task = true →
        x.runnable = true ∧ x.nextOrd = 0 ∧ x.iters = [] ∧ x.store = [] ∧ x.copies = 0 ∧ x.closed = [] ∧ x.retired = 0 := by
  have hbad : (g.bindings ((g.graphsOf (el e 0)).map (·.val))).findSome? s.ctxs[k].badArg = none := List.findSome?_eq_none_iff.mpr hargs
  have hm := runGraphs_marked g (g.graphsOf (el e 0)) hst
  have hgo : s.goWith k (el e 0) = s.runGraphs k g (g.graphsOf (el e 0)) := by
    simp only [State.goWith, hg, hbad, State.restoreIdle]
    rw [if_neg]
    rintro ⟨hp, _⟩
    exact nomatch hm.state.symm.trans hp
  have hat : s.goAt n k e = some ((s.runGraphs k g (g.graphsOf (el e 0))).consume n 1) := by
    rw [State.goAt, hst, hgo]
    rfl
  have hmake : Makes i s fun t => t = (s.runGraphs k g (g.graphsOf (el e 0))).consume n 1 := by
    rcases hi with ⟨rfl, hhold⟩ | ⟨rfl, hhold⟩
    · have hev : evGo n s = some ((s.runGraphs k g (g.graphsOf (el e 0))).consume n 1) := by
        simp only [evGo, he, hskip, hstream, hhold, Bool.false_eq_true, if_false, hat]
      exact makes_event rfl hclk hev rfl
    · obtain ⟨hentry, hkind⟩ := entryOf_entry he
      have hev : evHeldEntryResume n s = some ((s.runGraphs k g (g.graphsOf (el e 0))).consume n 1) := by
        simp only [evHeldEntryResume, hentry, hstream, hhold, hkind, hat]
        rfl
      exact makes_event rfl hclk hev rfl
  obtain ⟨t, hexec, rfl⟩ := hmake
  refine ⟨_, hexec, ?_⟩
  dsimp -zeta only
  rw [State.consume, ing_onIng, hm.ing, (onIng_only _ _ _).1]
  refine ⟨rfl, rfl, hm.state, hm.runnable, fun x hx hin => ?_⟩
  obtain ⟨y, rfl⟩ := hm.gates x hx hin
  exact ⟨rfl, rfl, rfl, rfl, rfl, rfl, rfl⟩

end Sys2Proof.Machine
end

section
/-! The other entries of an ingress port and the window's registers, settled (04 R117 to R121, R431, 00 R13). -/

namespace Sys2Proof.Machine

/-! ## Entries -/

section
variable {s : State} {n : Fin 16} {e : List Nat} {k : Fin 8}

theorem open_completes {r : Fin 8 × Fin 16 × List Byte} (hclk : s.clocked = true) (hr : s.ing[n].report = some r)
    (hw : ∀ p, s.part r.2.1 = some p → p.writes = []) : Makes (.openCfg n) s fun t =>
      t.ing[n].stream = some r.1 ∧ t.ing[n].head = s.ing[n].head + 1 ∧ t.ing[n].loading = false ∧ t.ing[n].report = none ∧ t.ctxs = s.ctxs ∧
        t.smem = s.smem.put (cellsAt (s.ing[n].entryAt 0) r.2.2) := by
  have hnone : ((s.part r.2.1).any fun p => !p.writes.isEmpty) = false := by
    cases hp : s.part r.2.1 with
    | none => rfl
    | some p => simp [hw p hp]
  have hev : evOpenCfg n s = some (s.opened n r.1 r.2.2) := by
    rw [evOpenCfg, hr]
    simp only [State.finishOpen, hnone, Bool.false_eq_true, if_false]
  exact makes_event rfl hclk hev (opened_keeps s n r.1 r.2.2)

theorem leaving_of (hstream : s.ing[n].stream = some k) (hst : s.ctxs[k].state ≠ .saving) : s.leaving n = false := by
  simp only [State.leaving, hstream, Option.any_some, Bool.and_eq_false_iff, beq_eq_false_iff_ne]
  exact .inr hst

theorem arg_writes (hclk : s.clocked = true) (he : s.entryOf n 2 = some e) (hskip : s.ing[n].skipping = false) (hstream : s.ing[n].stream = some k)
    (hst : s.ctxs[k].state ≠ .saving) : Makes (.arg n) s fun t =>
      t.ctxs[k].args = setArgs s.ctxs[k].args (el e 14) (e.take 14) ∧ t.ing[n].head = s.ing[n].head + 1 := by
  have hev : evArg n s = some ((s.onCtx k fun c => { c with args := setArgs c.args (el e 14) (e.take 14) }).consume n 1) := by
    simp only [evArg, he, hskip, hstream, leaving_of hstream hst, Bool.false_eq_true, if_false]
  refine makes_event rfl hclk hev ?_
  rw [State.consume, ing_onIng, (onIng_only _ _ _).1, ctx_onCtx]
  exact ⟨rfl, rfl⟩

/-- An INJECT that acts, offered or held: its tile stands at the port's router. -/
theorem inject_publishes {i : Instr} (hclk : s.clocked = true) (he : s.entryOf n 3 = some e) (hskip : s.ing[n].skipping = false)
    (hstream : s.ing[n].stream = some k) (hi : i = .inject n ∧ s.ing[n].holding = false ∨ i = .heldEntryResume n ∧ s.ing[n].holding = true)
    (hst : s.ctxs[k].state = .running) (hlen : 1 + injectEntries e ≤ s.ing[n].unread) (hback : (s.injected s.ing[n] e).back = false) :
    Makes i s fun t =>
      t.ing[n].head = s.ing[n].head + BitVec.ofNat 32 (1 + injectEntries e) ∧ t.ing[n].holding = false ∧
      t.msgs = s.msgs ++ [{ place := .source (ingressRouter n) 5, msg :=
        { cls := 0, cpl := (s.router (ingressRouter n)).plane, source := ingressSource (ingressRouter n)
          body := .publication (s.injected s.ing[n] e) none } }] := by
  have hat : s.injectAt n k e = some ((s.publishAt n (s.injected s.ing[n] e)).consume n (1 + injectEntries e)) := by
    simp only [State.injectAt, Nat.not_lt.mpr hlen, if_false, hst]
    rfl
  have hpub : s.publishAt n (s.injected s.ing[n] e) = s.fromPort n
      { cls := 0, cpl := (s.router (ingressRouter n)).plane, source := ingressSource (ingressRouter n),
        body := .publication (s.injected s.ing[n] e) none } := by
    rw [State.publishAt, hback]
    rfl
  rw [hpub] at hat
  have hkeep : ∀ u : State, u.ing = s.ing → (u.consume n (1 + injectEntries e)).ing[n].head = s.ing[n].head + BitVec.ofNat 32 (1 + injectEntries e) ∧
      (u.consume n (1 + injectEntries e)).ing[n].holding = false := fun u hu => by
    rw [State.consume, ing_onIng, hu]
    exact ⟨rfl, rfl⟩
  rcases hi with ⟨rfl, hhold⟩ | ⟨rfl, hhold⟩
  · have hev : evInject n s = s.injectAt n k e := by
      simp only [evInject, he, hskip, hstream, hhold, Bool.false_eq_true, if_false]
    exact makes_event rfl hclk (hev.trans hat) ⟨(hkeep _ rfl).1, (hkeep _ rfl).2, rfl⟩
  · obtain ⟨hentry, hkind⟩ := entryOf_entry he
    have hev : evHeldEntryResume n s = s.injectAt n k e := by
      simp only [evHeldEntryResume, hentry, hstream, hhold, hkind]
      rfl
    exact makes_event rfl hclk (hev.trans hat) ⟨(hkeep _ rfl).1, (hkeep _ rfl).2, rfl⟩

theorem go_discarded (hclk : s.clocked = true) (he : s.entryOf n 4 = some e) (hskip : s.ing[n].skipping = false) (hstream : s.ing[n].stream = some k)
    (hhold : s.ing[n].holding = false) (hst : s.ctxs[k].state = .faulted ∨ s.ctxs[k].state = .empty) :
    exec (.go n) s = .next ((s.consume n 1).ingErr n 0x0F) := by
  refine event_some (r := evGo n s) hclk ?_
  simp only [evGo, he, hskip, hstream, hhold, Bool.false_eq_true, if_false, State.goAt]
  rcases hst with hst | hst <;> rw [hst] <;> rfl

/-- A context on its way holds its entry at the port. -/
theorem entry_held (hclk : s.clocked = true) (hskip : s.ing[n].skipping = false) (hstream : s.ing[n].stream = some k) (hhold : s.ing[n].holding = false)
    (hst : s.ctxs[k].state = .loading ∨ s.ctxs[k].state = .saving ∨ s.ctxs[k].state = .restoring) :
    (s.entryOf n 4 = some e → exec (.go n) s = .next (s.onIng n fun g => { g with holding := true })) ∧
    (s.entryOf n 3 = some e → 1 + injectEntries e ≤ s.ing[n].unread → exec (.inject n) s = .next (s.onIng n fun g => { g with holding := true })) := by
  have hhe : s.holdEntry n = some (s.onIng n fun g => { g with holding := true }) := by
    rw [State.holdEntry, hhold]
    rfl
  refine ⟨fun he => event_some (r := evGo n s) hclk ?_, fun he hlen => event_some (r := evInject n s) hclk ?_⟩
  · simp only [evGo, he, hskip, hstream, hhold, Bool.false_eq_true, if_false, State.goAt, hhe]
    rcases hst with hst | hst | hst <;> rw [hst] <;> rfl
  · simp only [evInject, he, hskip, hstream, hhold, Bool.false_eq_true, if_false, State.injectAt, Nat.not_lt.mpr hlen, hhe]
    rcases hst with hst | hst | hst <;> rw [hst] <;> rfl

theorem close_ends (hclk : s.clocked = true) (he : s.entryOf n 5 = some e) (hleave : s.leaving n = false) : Makes (.close n) s fun t =>
    t.ing[n].stream = none ∧ t.ing[n].skipping = false ∧ t.ing[n].head = s.ing[n].head + 1 := by
  have hev : evClose n s = some ((s.consume n 1).onIng n fun g => { g with stream := none, skipping := false }) := by
    simp only [evClose, he, hleave, Bool.false_eq_true, if_false]
  refine makes_event rfl hclk hev ?_
  rw [ing_onIng, State.consume, ing_onIng]
  exact ⟨rfl, rfl, rfl⟩

theorem invalid_stops (hclk : s.clocked = true) (he : s.entry n = some e) (hskip : s.ing[n].skipping = false)
    (hok : entryOk e s.ing[n].stream.isSome = false) (hleave : s.leaving n = false) : Makes (.invalidEntry n) s fun t =>
      t.ing[n].err = true ∧ t.ing[n].code = 0x0D ∧ t.ing[n].stopped = true ∧ t.ing[n].head = s.ing[n].head + 1 := by
  have hev : evInvalidEntry n s = some (((s.consume n 1).ingErr n 0x0D).onIng n fun g => { g with stopped := true }) := by
    simp only [evInvalidEntry, he, hskip, hok, hleave, Bool.or_self, Bool.false_eq_true, if_false]
  refine makes_event rfl hclk hev ?_
  rw [ing_onIng, State.ingErr, ing_onIng, State.consume, ing_onIng]
  exact ⟨rfl, rfl, rfl, rfl⟩

end

/-! ## Registers of the window -/

/-- The register of an ingress port or a switch is at its row's offset. -/
theorem row_toNat {base step : Nat} (n : Fin 16) (h : base + step * 15 < 2 ^ 16) : (BitVec.ofNat 16 (base + step * n.val)).toNat = base + step * n.val := by
  have hn : step * n.val ≤ step * 15 := Nat.mul_le_mul_left _ (by omega)
  rw [BitVec.toNat_ofNat, Nat.mod_eq_of_lt (by omega)]

theorem registerWrite_tail (s : State) (n : Fin 16) (v : BitVec 64) :
    evRegisterWrite (BitVec.ofNat 16 (0x1008 + 0x20 * n.val)) v s = evTailWrite n (v.setWidth 32) s := by
  have hn : (⟨(0x1008 + 0x20 * n.val - 0x1000) / 0x20 % 16, Nat.mod_lt _ (by decide)⟩ : Fin 16) = n := Fin.ext (by simp only; omega)
  simp only [evRegisterWrite, row_toNat n (base := 0x1008) (step := 0x20) (by decide), hn]
  rw [if_neg (by omega), if_neg (by omega), if_pos (by omega), if_neg (by omega), if_pos (by omega)]

theorem registerWrite_ring (s : State) (n : Fin 16) (v : BitVec 64) :
    evRegisterWrite (BitVec.ofNat 16 (0x1000 + 0x20 * n.val)) v s = evRingWrite n v s := by
  have hn : (⟨(0x1000 + 0x20 * n.val - 0x1000) / 0x20 % 16, Nat.mod_lt _ (by decide)⟩ : Fin 16) = n := Fin.ext (by simp only; omega)
  simp only [evRegisterWrite, row_toNat n (base := 0x1000) (step := 0x20) (by decide), hn]
  rw [if_neg (by omega), if_neg (by omega), if_pos (by omega), if_pos (by omega)]

theorem registerWrite_switch (s : State) (p : Fin 16) (v : BitVec 64) (hopen : s.preempt[p].open_ = true) :
    evRegisterWrite (BitVec.ofNat 16 (0x2000 + 0x10 * p.val)) v s = some (s.onPreempt p fun q => { q with at_ := v }) := by
  have hp : (⟨(0x2000 + 0x10 * p.val - 0x2000) / 0x10 % 16, Nat.mod_lt _ (by decide)⟩ : Fin 16) = p := Fin.ext (by simp only; omega)
  simp only [evRegisterWrite, row_toNat p (base := 0x2000) (step := 0x10) (by decide), hp]
  rw [if_neg (by omega), if_neg (by omega), if_neg (by omega), if_pos (by omega), if_pos (by omega), if_pos hopen]

theorem registerWrite_other {s : State} {o : BitVec 16} (v : BitVec 64)
    (ho : o.toNat < 0x100 ∨ 0x110 ≤ o.toNat ∧ o.toNat < 0x1000 ∨ 0x2100 ≤ o.toNat) : evRegisterWrite o v s = some s := by
  simp only [evRegisterWrite]
  rw [if_neg (by omega), if_neg (by omega), if_neg (by omega), if_neg (by omega)]

theorem windowRead_other (s : State) {o : BitVec 16}
    (ho : o.toNat % 8 ≠ 0 ∨ 0 < o.toNat ∧ o.toNat < 0x100 ∨ 0x110 ≤ o.toNat ∧ o.toNat < 0x1000) : s.windowRead o = 0 := by
  unfold State.windowRead
  extract_lets x row
  have hx : x = o.toNat := rfl
  by_cases h8 : x % 8 = 0
  · rw [if_neg (by omega), if_neg (by omega), if_neg (by omega), if_neg (by omega), if_neg (by omega), if_neg (by omega), if_neg (by omega),
      if_neg (by omega), if_neg (by omega)]
    rfl
  · rw [if_pos h8]
    rfl

theorem tail_written {s : State} {n : Fin 16} {x : BitVec 32} {i : Instr} (hclk : s.clocked = true)
    (hi : i = .tailWrite n x ∨ ∃ v : BitVec 64, v.setWidth 32 = x ∧ i = .registerWrite (BitVec.ofNat 16 (0x1008 + 0x20 * n.val)) v) :
    ((x - s.ing[n].head).toNat ≤ s.ing[n].size → exec i s = .next (s.onIng n fun g => { g with tail := x })) ∧
    (s.ing[n].size < (x - s.ing[n].head).toNat → exec i s = .next (s.onIng n fun g => { g with err := true, code := 0x0E })) := by
  have hexec : exec i s = event (evTailWrite n x s) s := by
    rcases hi with rfl | ⟨v, rfl, rfl⟩
    · rfl
    · rw [← registerWrite_tail]
      rfl
  rw [hexec]
  exact ⟨fun h => event_some hclk (if_neg (Nat.not_lt.mpr h)), fun h => event_some hclk (if_pos h)⟩

theorem ring_written {s : State} {n : Fin 16} {v : BitVec 64} {i : Instr} (hclk : s.clocked = true)
    (hi : i = .ringWrite n v ∨ i = .registerWrite (BitVec.ofNat 16 (0x1000 + 0x20 * n.val)) v) :
    (s.ing[n].head = s.ing[n].tail →
      exec i s = .next (s.onIng n fun g => { g with base := v.extractLsb' 12 52, log2sz := v.extractLsb' 0 4 })) ∧
    (s.ing[n].head ≠ s.ing[n].tail → exec i s = .next (s.onIng n fun g => { g with err := true, code := 0x0C })) := by
  have hexec : exec i s = event (evRingWrite n v s) s := by
    rcases hi with rfl | rfl
    · rfl
    · rw [← registerWrite_ring]
      rfl
  rw [hexec]
  exact ⟨fun h => event_some hclk (if_neg (Classical.not_not.mpr h)), fun h => event_some hclk (if_pos h)⟩

/-- Settles O59: the loader takes a configuration in while the ports stand still, a GO keeps its context running, and each register of the window stands
at its row. -/
theorem ingressAndLoader : Obligations.IngressAndLoader := by
  unfold Obligations.IngressAndLoader
  extract_lets opens loads finds whole refused
  have hloads : ∀ {s n e}, loads s n e → Loads s n e := fun ⟨⟨hclk, he, hskip, hrep⟩, hm, hwait, hrepl⟩ => ⟨hclk, he, hskip, hrep, hm, hwait, hrepl⟩
  refine ⟨?_, ?_, ?_, ?_, ?_, ?_, ?_, ?_, ?_, ?_, ?_, ?_, ?_, ?_, ?_, ?_, ?_, ?_, ?_, ?_, ?_, ?_⟩
  · exact fun s n e g ⟨hclk, he, hskip, hrep⟩ hm hg => open_finds hclk he hskip hrep hm hg
  · exact fun s n e ⟨hclk, he, hskip, hrep⟩ hm hwait hload => open_waits hclk he hskip hrep hm hwait hload
  · exact fun s n e h hno => (hloads h).refused (by decide) (load_missing hno)
  · exact fun s n e b h ⟨x, hx⟩ hw => (hloads h).refused (by decide) (load_broken hx hw)
  · exact fun s n e b i h ⟨x, hx⟩ hw hi => (hloads h).refused (by decide) (load_malformed hx hw hi)
  · exact fun s n e b h ⟨x, hx⟩ hw hm hb hst => (hloads h).refused (by decide) (load_occupied hx hw hm hb hst)
  · exact fun s n e b p m frames u q h ⟨x, hx⟩ hw hm hb hst htdi hunit hsig hp hcores hslices hplaced hbad hover hback hrate hseed himage hbuild hq =>
      (hloads h).taken (load_takes hx hw hm hb hst htdi hunit hsig hp hcores hslices hplaced) hbad hover hback hrate hseed himage hbuild hq
  · exact fun s n r hclk hr hw => open_completes hclk hr hw
  · exact fun s n e k hclk he hskip hstream hst => arg_writes hclk he hskip hstream hst
  · exact fun s n e k i hclk he hskip hstream hi hst hlen hback => inject_publishes hclk he hskip hstream hi hst hlen hback
  · exact fun s n e k g i hclk he hskip hstream hi hst hg hargs => go_runs hclk he hskip hstream hi hst hg hargs
  · exact fun s n e k hclk he hskip hstream hhold hst => go_discarded hclk he hskip hstream hhold hst
  · exact fun s n e k hclk hskip hstream hhold hst => entry_held hclk hskip hstream hhold hst
  · exact fun s n e hclk he hleave => close_ends hclk he hleave
  · exact fun s n e hclk he hskip hok hleave => invalid_stops hclk he hskip hok hleave
  · exact fun s n x i hclk hi => tail_written hclk hi
  · exact fun s n v i hclk hi => ring_written hclk hi
  · exact fun s n hclk => event_some (r := evErrClear n s) hclk rfl
  · exact fun s v hclk => event_some (r := evRegisterWrite 0x100 v s) hclk rfl
  · exact fun s p v hclk hopen => event_some hclk (registerWrite_switch s p v hopen)
  · exact fun s o v hclk ho => event_some hclk (registerWrite_other v ho)
  · exact fun s o ho => windowRead_other s ho

end Sys2Proof.Machine
end

section
/-! Interfaces that go into error, and the contexts and keys they take with them (02 R67, 04 R139 to R143). -/

namespace Sys2Proof.Machine

/-! ## Contexts that begin to be restored -/

/-- Regions, snapshots, keys and interfaces are as they were, and contexts too, but for those that begin to be restored. -/
structure Left (s t : State) : Prop where
  regions : t.regions = s.regions
  snapshots : t.snapshots = s.snapshots
  keyTable : t.keyTable = s.keyTable
  tdis : t.tdis = s.tdis
  ctx : ∀ k : Fin 8, t.ctxs[k] = s.ctxs[k] ∨ s.ctxs[k].state = .parked ∧ t.ctxs[k] = { s.ctxs[k] with state := .restoring }

theorem Left.same {s t u : State} (h : Left s t) (hr : u.regions = t.regions) (hs : u.snapshots = t.snapshots) (hk : u.keyTable = t.keyTable)
    (ht : u.tdis = t.tdis) (hc : u.ctxs = t.ctxs) : Left s u :=
  ⟨hr.trans h.regions, hs.trans h.snapshots, hk.trans h.keyTable, ht.trans h.tdis, by rw [hc]; exact h.ctx⟩

theorem Left.refl (s : State) : Left s s := ⟨rfl, rfl, rfl, rfl, fun _ => .inl rfl⟩

/-- A context whose state is not PARKED stays as it is. -/
theorem Left.stays {s t : State} (h : Left s t) {k : Fin 8} (hk : s.ctxs[k].state ≠ .parked) : t.ctxs[k] = s.ctxs[k] :=
  (h.ctx k).elim id fun ⟨hp, _⟩ => absurd hp hk

theorem Left.beginRestore {s t : State} (h : Left s t) (p : Fin 16) : Left s (t.beginRestore p) := by
  unfold State.beginRestore
  split
  · exact h
  · split
    · next j hj =>
      refine ⟨h.regions, h.snapshots, h.keyTable, h.tdis, fun k => ?_⟩
      by_cases hk : k = j
      · subst hk
        have hparked := restoreNext_parked hj
        rw [ctx_onCtx]
        rcases h.ctx k with heq | ⟨_, heq⟩
        · exact .inr ⟨heq ▸ hparked, by rw [heq]⟩
        · exact nomatch (congrArg Ctx.state heq).symm.trans hparked
      · rw [ctx_onCtx_ne t _ hk]
        exact h.ctx k
    · exact h

theorem Left.leftSet {s t : State} (h : Left s t) (j : Fin 8) : Left s (t.leftSet j) := by
  unfold State.leftSet
  extract_lets u
  have hu : Left s u := foldl_sound h fun x p hx => by
    split
    · exact hx.same rfl rfl rfl rfl rfl
    · exact hx
  refine foldl_sound hu fun x p hx => ?_
  split
  · exact (hx.same (u := x.onPreempt p fun q => { q with out := none, saved := true }) rfl rfl rfl rfl rfl).beginRestore p
  · exact hx.beginRestore p

theorem clearCtx_left (s : State) (k : Fin 8) : Left s (s.clearCtx k) ∧ (s.clearCtx k).ctxs = s.ctxs := by
  unfold State.clearCtx
  split
  · unfold State.clearPart
    split
    · exact ⟨.refl s, rfl⟩
    · extract_lets gone t
      obtain ⟨x, hx⟩ : ∃ x, t = { s with slices := x } := unreserveAll_keeps gone s
      rw [hx]
      exact ⟨(Left.refl s).same rfl rfl rfl rfl rfl, rfl⟩
  · exact ⟨.refl s, rfl⟩

/-! ## Contexts that fail -/

/-- Contexts fail or begin to be restored; no key comes back. -/
structure Fails (s t : State) : Prop where
  regions : t.regions = s.regions
  snapshots : t.snapshots = s.snapshots
  keys : ∀ slot, findFin s.keyTable slot = none → findFin t.keyTable slot = none
  tdi : ∀ k : Fin 8, t.ctxs[k].tdi = s.ctxs[k].tdi
  empty : ∀ k : Fin 8, t.ctxs[k].state = .empty ↔ s.ctxs[k].state = .empty
  faulted : ∀ k : Fin 8, s.ctxs[k].state = .faulted → t.ctxs[k].state = .faulted

theorem Fails.refl (s : State) : Fails s s := ⟨rfl, rfl, fun _ => id, fun _ => rfl, fun _ => .rfl, fun _ => id⟩

theorem Fails.trans {s t u : State} (h : Fails s t) (h' : Fails t u) : Fails s u :=
  ⟨h'.regions.trans h.regions, h'.snapshots.trans h.snapshots, fun k hk => h'.keys k (h.keys k hk), fun k => (h'.tdi k).trans (h.tdi k),
    fun k => (h'.empty k).trans (h.empty k), fun k hk => h'.faulted k (h.faulted k hk)⟩

theorem Left.fails {s t : State} (h : Left s t) : Fails s t := by
  refine ⟨h.regions, h.snapshots, fun slot hs => by rw [h.keyTable]; exact hs, fun k => ?_, fun k => ?_, fun k hk => ?_⟩
  · rcases h.ctx k with he | ⟨_, he⟩ <;> rw [he]
  · rcases h.ctx k with he | ⟨hp, he⟩
    · rw [he]
    · rw [he, hp]
      exact ⟨nofun, nofun⟩
  · rw [h.stays (by rw [hk]; decide)]
    exact hk

theorem Fails.boundTo {s t : State} (h : Fails s t) (i : Fin 16) : t.boundTo i = s.boundTo i := by
  refine List.filter_congr fun k _ => ?_
  rw [h.tdi k]
  exact decide_eq_decide.mpr (and_congr (not_congr (h.empty k)) Iff.rfl)

/-- One context that was there becomes FAULTED. -/
theorem faultCtx_fails {s : State} {k : Fin 8} (hk : s.ctxs[k].state ≠ .empty) : Fails s (s.faultCtx k) ∧ (s.faultCtx k).tdis = s.tdis ∧
    (s.faultCtx k).ctxs[k].state = .faulted := by
  obtain ⟨hclear, hctxs⟩ := clearCtx_left s k
  have hleft : Left ((s.clearCtx k).onCtx k fun c => { c with state := .faulted, image := none, runnable := [] }) (s.faultCtx k) := (Left.refl _).leftSet k
  have hself : ((s.clearCtx k).onCtx k fun c => { c with state := .faulted, image := none, runnable := [] }).ctxs[k] =
      { s.ctxs[k] with state := .faulted, image := none, runnable := [] } := by
    rw [ctx_onCtx, hctxs]
  have hother : ∀ j, j ≠ k → ((s.clearCtx k).onCtx k fun c => { c with state := .faulted, image := none, runnable := [] }).ctxs[j] = s.ctxs[j] := fun j hj => by
    rw [ctx_onCtx_ne _ _ hj, hctxs]
  have hfail : Fails s ((s.clearCtx k).onCtx k fun c => { c with state := .faulted, image := none, runnable := [] }) := by
    refine ⟨hclear.regions, hclear.snapshots, hclear.fails.keys, fun j => ?_, fun j => ?_, fun j hj => ?_⟩ <;> by_cases he : j = k
    · subst he
      rw [hself]
    · rw [hother j he]
    · subst he
      rw [hself]
      exact ⟨nofun, fun h => absurd h hk⟩
    · rw [hother j he]
    · subst he
      rw [hself]
    · rw [hother j he]
      exact hj
  exact ⟨hfail.trans hleft.fails, hleft.tdis.trans hclear.tdis, hleft.fails.faulted k (by rw [hself])⟩

theorem faultAll_fails : ∀ (l : List (Fin 8)) {s : State} (_ : ∀ k ∈ l, s.ctxs[k].state ≠ .empty), Fails s (l.foldl (fun x k => x.faultCtx k) s) ∧
    (l.foldl (fun x k => x.faultCtx k) s).tdis = s.tdis ∧ ∀ k ∈ l, (l.foldl (fun x k => x.faultCtx k) s).ctxs[k].state = .faulted
  | [], s, _ => ⟨.refl s, rfl, nofun⟩
  | k :: l, s, h => by
    obtain ⟨hf, ht, hk⟩ := faultCtx_fails (h k List.mem_cons_self)
    obtain ⟨hf', ht', hl⟩ := faultAll_fails l (s := s.faultCtx k) fun j hj he => h j (List.mem_cons_of_mem _ hj) ((hf.empty j).mp he)
    rw [List.foldl_cons]
    refine ⟨hf.trans hf', ht'.trans ht, fun j hj => ?_⟩
    rcases List.mem_cons.mp hj with rfl | hj
    · exact hf'.faulted j hk
    · exact hl j hj

/-! ## Keys destroyed -/

theorem failReq_left {s t : State} (h : Left s t) (r : MemReq) (code : Byte) (va : Nat) : Left s (t.failReq r code va) := by
  obtain ⟨x, hx⟩ := dropFill_only t r
  simp only [State.failReq, hx]
  split
  · unfold State.faultCore
    split
    · split <;> exact h.same rfl rfl rfl rfl rfl
    · exact h.same rfl rfl rfl rfl rfl
  · exact h.same rfl rfl rfl rfl rfl

theorem failIn_left {s t : State} (h : Left s t) (in_ : Nat → Bool) (r : MemReq) : Left s (t.failIn in_ r) := by
  unfold State.failIn
  split
  · exact h
  · split
    · split
      · have hun : Left s ((t.unreserve r.id).onReq r.id fun q => { q with spots := [] }) := h.same rfl rfl rfl rfl rfl
        exact (failReq_left hun { r with spots := [] } trapProtFault _).same rfl rfl rfl rfl rfl
      · exact h
    · split
      · exact failReq_left h r trapProtFault r.va
      · exact h

theorem evict_left {s t : State} (h : Left s t) (n : Nat) (l : SLine) (back : Bool) : Left s (t.evict n l back) := by
  unfold State.evict
  extract_lets x u
  have hu : Left s u := h.same rfl rfl rfl rfl rfl
  split
  · exact hu.same rfl rfl rfl rfl rfl
  · split
    · exact hu.same rfl rfl rfl rfl rfl
    · exact hu

/-- No entry of a destroyed slot is left, and no other comes. -/
theorem findFin_filter {n : Nat} {α : Type} (l : List (Fin n × α)) (gone : Fin n → Bool) (k : Fin n) :
    findFin (l.filter fun x => !gone x.1) k = if gone k then none else findFin l k := by
  induction l with
  | nil => exact (ite_self _).symm
  | cons x l ih =>
    by_cases hx : gone x.1 = true
    · rw [List.filter_cons_of_neg (by simp [hx]), ih]
      by_cases hk : x.1 = k
      · rw [if_pos (hk ▸ hx), if_pos (hk ▸ hx)]
      · simp only [findFin, if_neg hk]
    · rw [List.filter_cons_of_pos (by simp [hx])]
      by_cases hk : x.1 = k
      · simp only [findFin, if_pos hk, if_neg (hk ▸ hx : ¬ gone k = true)]
      · simp only [findFin, if_neg hk]
        exact ih

theorem destroyKeys_of (s : State) (i : Fin 16) : Fails s (s.destroyKeys i) ∧ (s.destroyKeys i).tdis = s.tdis ∧ (∀ k : Fin 8, s.ctxs[k].state = .empty →
    (s.destroyKeys i).ctxs[k].state = .empty) ∧ ∀ r ∈ s.regions, r.itf = i → findFin (s.destroyKeys i).keyTable r.slot = none := by
  unfold State.destroyKeys
  extract_lets mine in_ t gone u
  have ht : Left s t := (foldl_sound (.refl s) fun _ r hx => failIn_left hx in_ r : Left s (s.reqs.foldl (State.failIn in_) s)).same rfl rfl rfl rfl rfl
  have hu : Left s u := foldl_sound ht fun _ l hx => evict_left hx l.1 l.2 false
  have hfind : ∀ slot, findFin (u.keyTable.filter fun k => !mine.any fun r => r.slot == k.1) slot =
      if (mine.any fun r => r.slot == slot) then none else findFin s.keyTable slot := fun slot => by
    rw [← hu.keyTable]
    exact findFin_filter u.keyTable (fun k => mine.any fun r => r.slot == k) slot
  refine ⟨⟨hu.regions, hu.snapshots, fun slot hs => ?_, hu.fails.tdi, hu.fails.empty, hu.fails.faulted⟩, hu.tdis, fun k hk => (hu.fails.empty k).mpr hk,
    fun r hr hi => ?_⟩
  · refine (hfind slot).trans ?_
    rw [hs, ite_self]
  · refine (hfind r.slot).trans (if_pos ?_)
    exact List.any_eq_true.mpr ⟨r, List.mem_filter.mpr ⟨hr, decide_eq_true hi⟩, beq_self_eq_true _⟩

/-! ## An interface in error -/

theorem enterError_of (s : State) (i : Fin 16) (cause : Fin 5) : Fails s (s.enterError i cause) ∧
    (s.enterError i cause).tdis[i] = { s.tdis[i] with state := .error, cause } ∧
    (∀ j, j ≠ i → (s.enterError i cause).tdis[j] = s.tdis[j]) ∧
    (∀ k ∈ s.boundTo i, (s.enterError i cause).ctxs[k].state = .faulted) ∧
    ∀ r ∈ s.regions, r.itf = i → findFin (s.enterError i cause).keyTable r.slot = none := by
  unfold State.enterError
  extract_lets t
  have hon : Fails s (s.onTdi i fun x => { x with state := .error, cause }) := ⟨rfl, rfl, fun _ => id, fun _ => rfl, fun _ => .rfl, fun _ => id⟩
  obtain ⟨hd, htd, _, hkeys⟩ := destroyKeys_of (s.onTdi i fun x => { x with state := .error, cause }) i
  have hthere : ∀ k ∈ s.boundTo i, t.ctxs[k].state ≠ .empty := fun k hk he => by
    have hb := (List.mem_filter.mp hk).2
    simp only [ne_eq, decide_eq_true_eq] at hb
    exact hb.1 ((hon.trans hd).empty k |>.mp he)
  obtain ⟨hf, htf, hall⟩ := faultAll_fails (s.boundTo i) hthere
  refine ⟨(hon.trans hd).trans hf, ?_, fun j hj => ?_, hall, fun r hr hi => hf.keys _ (hkeys r hr hi)⟩
  · rw [htf, htd]
    exact vec_set_self _ _ _
  · rw [htf, htd]
    exact vec_set_ne _ _ hj

end Sys2Proof.Machine
end

section
/-! Interfaces and their messages, settled (02 R66, R67, 04 R137 to R141). -/

namespace Sys2Proof.Machine

/-! ## Debug fields -/

theorem redebug_only (s : State) : s.redebug.regions = s.regions ∧ s.redebug.keyTable = s.keyTable ∧ s.redebug.ctxs = s.ctxs ∧ s.redebug.cores = s.cores ∧
    s.redebug.power = s.power := by
  unfold State.redebug
  exact ⟨rfl, rfl, rfl, rfl, rfl⟩

theorem redebug_tdi (s : State) (i : Fin 16) : s.redebug.tdis[i] = { s.tdis[i] with debug := s.debugOf i } := Vector.getElem_ofFn _

/-! ## Messages -/

theorem lock_answers (s : State) (i : Fin 16) (x : Fin 3) :
    (s.tdis[i].state = .unlocked → s.debugAny ≤ x → Makes (.lockInterface i x) s fun t =>
      t.tdis[i].state = .locked ∧ t.tdis[i].consent = x ∧ t.tdis[i].live = true ∧ ({ itf := i, regions := s.regionsOf i, ctxs := s.boundTo i } : Snapshot) ∈ t.snapshots) ∧
    ((s.tdis[i].state ≠ .unlocked ∨ x < s.debugAny) → exec (.lockInterface i x) s = .next { s with answers := s.answers ++ [.error i] }) := by
  refine ⟨fun hst hx => ?_, fun hno => outside_some (r := evLockInterface i x s) (if_neg ?_)⟩
  · have hev : evLockInterface i x s = some { (s.onTdi i fun y => { y with state := .locked, live := true, consent := x }) with
        snapshots := (s.snapshots.filter fun y => y.itf ≠ i) ++ [{ itf := i, regions := s.regionsOf i, ctxs := s.boundTo i }] } := if_pos ⟨hst, hx⟩
    have hself : (s.onTdi i fun y => { y with state := .locked, live := true, consent := x }).tdis[i] =
        { s.tdis[i] with state := .locked, live := true, consent := x } := vec_set_self _ _ _
    exact makes_outside rfl hev ⟨congrArg Tdi.state hself, congrArg Tdi.consent hself, congrArg Tdi.live hself,
      List.mem_append_right _ (List.mem_singleton.mpr rfl)⟩
  · rintro ⟨hst, hx⟩
    exact hno.elim (· hst) fun h => absurd hx (Fin.not_le.mpr h)

theorem key_answers (s : State) (i : Fin 16) (m : KeyMessage) (r : RegionEntry) (hr : s.regions[m.entry]? = some r) :
    (s.tdis[i].state = .locked → r.itf = i → exec (.keyDelivery i m) s = .next { s with keyTable := putKey s.keyTable r.slot m.key }) ∧
    ((s.tdis[i].state ≠ .locked ∨ r.itf ≠ i) → exec (.keyDelivery i m) s = .next { s with answers := s.answers ++ [.error i] }) := by
  refine ⟨fun hst hi => outside_some (r := evKeyDelivery i m s) ?_, fun hno => outside_some (r := evKeyDelivery i m s) ?_⟩ <;> rw [evKeyDelivery, hr]
  · exact if_pos ⟨hst, hi⟩
  · exact if_neg fun h => hno.elim (· h.1) (· h.2)

theorem start_answers (s : State) (i : Fin 16) : (s.tdis[i].state = .locked → (∀ r ∈ s.regions, r.itf = i → s.keyOf r ≠ none) →
      exec (.startInterface i) s = .next (s.onTdi i fun x => { x with state := .run })) ∧
    ((s.tdis[i].state ≠ .locked ∨ ∃ r ∈ s.regions, r.itf = i ∧ s.keyOf r = none) →
      exec (.startInterface i) s = .next { s with answers := s.answers ++ [.error i] }) := by
  have hall : ((s.regionsOf i).all fun r => (s.keyOf r).isSome) = true ↔ ∀ r ∈ s.regions, r.itf = i → s.keyOf r ≠ none := by
    simp [State.regionsOf, Option.isSome_iff_ne_none, Decidable.imp_iff_not_or]
  refine ⟨fun hst hkeys => outside_some (r := evStartInterface i s) (if_pos ⟨hst, hall.mpr hkeys⟩),
    fun hno => outside_some (r := evStartInterface i s) (if_neg ?_)⟩
  rintro ⟨hst, hkeys⟩
  rcases hno with hno | ⟨r, hr, hi, hnone⟩
  · exact hno hst
  · exact hall.mp hkeys r hr hi hnone

theorem stop_waits (s : State) (i : Fin 16) (hb : s.tdis[i].bound = true)
    (hk : ∃ k ∈ s.boundTo i, s.ctxs[k].state = .saving ∨ s.ctxs[k].state = .restoring) (hs : i ∉ s.stops) :
    exec (.stopInterface i) s = .next { s with stops := s.stops ++ [i] } := by
  have hun : s.tdis[i].state ≠ .unlocked := fun h => by
    rw [Tdi.bound, h] at hb
    exact nomatch hb
  have hany : ((s.boundTo i).any fun k => s.ctxs[k].state == .saving || s.ctxs[k].state == .restoring) = true := by
    obtain ⟨k, hk, hst⟩ := hk
    exact List.any_eq_true.mpr ⟨k, hk, by simpa using hst⟩
  refine outside_some (r := evStopInterface i s) ?_
  simp only [evStopInterface, hun, if_false, hb, hany, Bool.and_self, if_true]
  rw [if_neg (by simpa using hs)]

/-! ## A stop that takes effect -/

/-- Contexts are emptied or begin to be restored. -/
structure Stops (s t : State) : Prop where
  regions : t.regions = s.regions
  tdis : t.tdis = s.tdis
  empty : ∀ k : Fin 8, s.ctxs[k].state = .empty → t.ctxs[k].state = .empty

theorem stopCtx_stops (s : State) (k : Fin 8) : Stops s (s.stopCtx k) ∧ (s.stopCtx k).ctxs[k].state = .empty := by
  obtain ⟨hclear, hctxs⟩ := clearCtx_left s k
  have hdrop : ∀ (t : State) ns, Left t (t.dropRoot ns) ∧ (t.dropRoot ns).ctxs = t.ctxs := fun t ns => by
    unfold State.dropRoot
    split
    · exact ⟨.refl t, rfl⟩
    · exact ⟨(Left.refl t).same rfl rfl rfl rfl rfl, rfl⟩
  obtain ⟨hd, hdctxs⟩ := hdrop ((s.clearCtx k).onCtx k fun _ => Ctx.reset) s.ctxs[k].ns
  have hleft : Left ((s.clearCtx k).onCtx k fun _ => Ctx.reset) (s.stopCtx k) := hd.leftSet k
  have hself : ((s.clearCtx k).onCtx k fun _ => Ctx.reset).ctxs[k].state = .empty := congrArg Ctx.state (ctx_onCtx _ k fun _ => Ctx.reset)
  refine ⟨⟨hleft.regions.trans hclear.regions, hleft.tdis.trans hclear.tdis, fun j hj => ?_⟩, (hleft.fails.empty k).mpr hself⟩
  refine (hleft.fails.empty j).mpr ?_
  by_cases he : j = k
  · subst he
    exact hself
  · rw [ctx_onCtx_ne _ _ he, hctxs]
    exact hj

theorem stopAll_stops : ∀ (l : List (Fin 8)) (s : State), Stops s (l.foldl (fun x k => x.stopCtx k) s) ∧
    ∀ k ∈ l, (l.foldl (fun x k => x.stopCtx k) s).ctxs[k].state = .empty
  | [], _ => ⟨⟨rfl, rfl, fun _ => id⟩, nofun⟩
  | k :: l, s => by
    obtain ⟨hs, hk⟩ := stopCtx_stops s k
    obtain ⟨hs', hl⟩ := stopAll_stops l (s.stopCtx k)
    rw [List.foldl_cons]
    refine ⟨⟨hs'.regions.trans hs.regions, hs'.tdis.trans hs.tdis, fun j hj => hs'.empty j (hs.empty j hj)⟩, fun j hj => ?_⟩
    rcases List.mem_cons.mp hj with rfl | hj
    · exact hs'.empty j hk
    · exact hl j hj

theorem stop_unlocks (s : State) (i : Fin 16) (hun : s.tdis[i].state ≠ .unlocked)
    (hk : ∀ k ∈ s.boundTo i, s.ctxs[k].state ≠ .saving ∧ s.ctxs[k].state ≠ .restoring) :
    Makes (.stopInterface i) s fun t => t.tdis[i].state = .unlocked ∧ t.tdis[i].live = false ∧ (∀ k ∈ s.boundTo i, t.ctxs[k].state = .empty) ∧
      (s.tdis[i].state ≠ .error → ∀ r ∈ t.regions, r.itf = i → t.keyOf r = none) := by
  have hany : ((s.boundTo i).any fun k => s.ctxs[k].state == .saving || s.ctxs[k].state == .restoring) = false := by
    refine List.any_eq_false.mpr fun k hm => ?_
    simpa using hk k hm
  have hev : evStopInterface i s = some (s.unlock i) := by
    simp only [evStopInterface, hun, if_false, hany, Bool.and_false, Bool.false_eq_true]
  refine makes_outside rfl hev ?_
  unfold State.unlock
  extract_lets t u
  obtain ⟨_, hempty⟩ := stopAll_stops (s.boundTo i) s
  have hu : (∀ k ∈ s.boundTo i, u.ctxs[k].state = .empty) ∧ (s.tdis[i].state ≠ .error → ∀ r ∈ u.regions, r.itf = i → findFin u.keyTable r.slot = none) := by
    obtain ⟨hf, _, hkeep, hkeys⟩ := destroyKeys_of t i
    unfold u
    split
    · next he => exact ⟨hempty, fun h => absurd he h⟩
    · exact ⟨fun k hm => hkeep k (hempty k hm), fun _ r hr hi => hkeys r (hf.regions ▸ hr) hi⟩
  clear_value u
  obtain ⟨hctx, hkeys⟩ := hu
  have hself : (u.onTdi i fun x => { x with state := .unlocked, live := false }).tdis[i] = { u.tdis[i] with state := .unlocked, live := false } :=
    vec_set_self _ _ _
  obtain ⟨hregions, hkeyTable, hctxs, _, _⟩ := redebug_only { (u.onTdi i fun x => { x with state := .unlocked, live := false }) with
    stops := u.stops.filter (· ≠ i), snapshots := u.snapshots.filter fun y => y.itf ≠ i }
  refine ⟨?_, ?_, fun k hm => ?_, fun hne r hr hi => ?_⟩
  · rw [redebug_tdi]
    exact congrArg Tdi.state hself
  · rw [redebug_tdi]
    exact congrArg Tdi.live hself
  · rw [hctxs]
    exact hctx k hm
  · rw [hregions] at hr
    rw [State.keyOf, hkeyTable]
    exact hkeys hne r hr hi

/-! ## Interfaces in error -/

/-- What stands of an interface that is in error, and of its keys and contexts. -/
structure InError (s : State) (i : Fin 16) (cause : Fin 5) (t : State) : Prop where
  state : t.tdis[i].state = .error
  cause : t.tdis[i].cause = cause
  keys : ∀ r ∈ t.regions, r.itf = i → t.keyOf r = none
  ctxs : ∀ k ∈ s.boundTo i, t.ctxs[k].state = .faulted

theorem enterError_inError (s : State) (i : Fin 16) (cause : Fin 5) : InError s i cause (s.enterError i cause) := by
  obtain ⟨hf, hself, _, hctxs, hkeys⟩ := enterError_of s i cause
  exact ⟨congrArg Tdi.state hself, congrArg Tdi.cause hself, fun r hr hi => hkeys r (hf.regions ▸ hr) hi, hctxs⟩

theorem InError.fails {s t u : State} {i : Fin 16} {cause : Fin 5} (h : InError s i cause t) (hf : Fails t u) (ht : u.tdis[i] = t.tdis[i]) :
    InError s i cause u :=
  ⟨by rw [ht]; exact h.state, by rw [ht]; exact h.cause, fun r hr hi => hf.keys r.slot (h.keys r (hf.regions ▸ hr) hi),
    fun k hk => hf.faulted k (h.ctxs k hk)⟩

theorem InError.redebug {s t : State} {i : Fin 16} {cause : Fin 5} (h : InError s i cause t) : InError s i cause t.redebug := by
  obtain ⟨hregions, hkeyTable, hctxs, _, _⟩ := redebug_only t
  refine ⟨by rw [redebug_tdi]; exact h.state, by rw [redebug_tdi]; exact h.cause, fun r hr hi => ?_, by rw [hctxs]; exact h.ctxs⟩
  rw [hregions] at hr
  rw [State.keyOf, hkeyTable]
  exact h.keys r hr hi

/-- Errors of other interfaces leave an interface as it is. -/
theorem errors_others {cond : State → Fin 16 → Bool} {cause : Fin 5} {i : Fin 16} (l : List (Fin 16)) (hi : i ∉ l) (s : State) :
    Fails s (l.foldl (fun x j => if cond x j then x.enterError j cause else x) s) ∧
      (l.foldl (fun x j => if cond x j then x.enterError j cause else x) s).tdis[i] = s.tdis[i] :=
  foldl_mem_sound (P := fun t : State => Fails s t ∧ t.tdis[i] = s.tdis[i]) ⟨.refl s, rfl⟩ fun x j hj hx => by
    split
    · obtain ⟨hf, _, hothers, _, _⟩ := enterError_of x j cause
      exact ⟨hx.1.trans hf, (hothers i fun e => hi (e ▸ hj)).trans hx.2⟩
    · exact hx

theorem finRange_split (i : Fin 16) : ∃ pre post, List.finRange 16 = pre ++ i :: post ∧ i ∉ pre ∧ i ∉ post := by
  obtain ⟨pre, post, h⟩ := List.append_of_mem (List.mem_finRange i)
  have hnd := List.nodup_finRange 16
  rw [h, List.nodup_append] at hnd
  obtain ⟨_, hpost, hdisj⟩ := hnd
  exact ⟨pre, post, h, fun hm => hdisj i hm i List.mem_cons_self rfl, (List.nodup_cons.mp hpost).1⟩

/-- An interface that goes into error in its turn stays there. -/
theorem errors_of {cond : State → Fin 16 → Bool} {cause : Fin 5} {i : Fin 16} {pre post : List (Fin 16)} (hpost : i ∉ post) {s : State}
    (hpre : Fails s (pre.foldl (fun x j => if cond x j then x.enterError j cause else x) s))
    (hc : cond (pre.foldl (fun x j => if cond x j then x.enterError j cause else x) s) i = true) :
    InError s i cause ((pre ++ i :: post).foldl (fun x j => if cond x j then x.enterError j cause else x) s) := by
  rw [List.foldl_append, List.foldl_cons, if_pos hc]
  obtain ⟨hf, ht⟩ := errors_others (cond := cond) (cause := cause) post hpost
    ((pre.foldl (fun x j => if cond x j then x.enterError j cause else x) s).enterError i cause)
  obtain ⟨hst, hca, hkeys, hctxs⟩ := (enterError_inError _ i cause).fails hf ht
  exact ⟨hst, hca, hkeys, fun k hk => hctxs k (by rw [hpre.boundTo]; exact hk)⟩

/-- No error, no change. -/
theorem errors_none {cond : State → Fin 16 → Bool} {cause : Fin 5} {s : State} {l : List (Fin 16)} (h : ∀ j ∈ l, cond s j = false) :
    l.foldl (fun x j => if cond x j then x.enterError j cause else x) s = s :=
  foldl_mem_sound (P := (· = s)) rfl fun x j hj hx => by
    subst hx
    rw [if_neg (by rw [h j hj]; exact Bool.false_ne_true)]

theorem setRegion_keeps (s : State) (n : Nat) (e : Option RegionEntry) : (s.setRegion n e).tdis = s.tdis ∧
    ∀ i, (s.setRegion n e).boundTo i = s.boundTo i := by
  unfold State.setRegion
  split
  · split
    · exact ⟨rfl, fun _ => rfl⟩
    · split <;> exact ⟨rfl, fun _ => rfl⟩
  · exact ⟨rfl, fun _ => rfl⟩

theorem snapshot_breaks (s : State) (i : Fin 16) (n : Nat) (e : Option RegionEntry) (hb : s.tdis[i].bound = true)
    (hbroken : (s.setRegion n e).snapshotBroken i = true) : Makes (.snapshotChange n e) s fun t => t.tdis[i].state = .error ∧ t.tdis[i].cause = 2 ∧
      (∀ r ∈ t.regions, r.itf = i → t.keyOf r = none) ∧ ∀ k ∈ s.boundTo i, t.ctxs[k].state = .faulted := by
  have hset := setRegion_keeps s n e
  obtain ⟨pre, post, hsplit, hpre, hpost⟩ := finRange_split i
  obtain ⟨hf, ht⟩ := errors_others (cond := fun x j => x.tdis[j].bound && x.snapshotBroken j) (cause := 2) pre hpre (s.setRegion n e)
  have hsame : ∀ {x y : State}, Fails x y → y.snapshotBroken i = x.snapshotBroken i := fun h => by
    simp only [State.snapshotBroken, h.snapshots, h.boundTo i, State.regionsOf, h.regions]
    rfl
  have hin := errors_of (cond := fun x j => x.tdis[j].bound && x.snapshotBroken j) hpost hf (by
    simp only [ht, hset.1, hb, hsame hf, hbroken, Bool.and_self])
  rw [← hsplit] at hin
  obtain ⟨hst, hca, hkeys, hctxs⟩ := hin.redebug
  exact makes_outside (r := evSnapshotChange n e s) rfl rfl ⟨hst, hca, hkeys, fun k hk => hctxs k (by rw [hset.2 i]; exact hk)⟩

theorem snapshot_stands (s : State) (n : Nat) (e : Option RegionEntry)
    (hno : ∀ i : Fin 16, s.tdis[i].bound = true → (s.setRegion n e).snapshotBroken i = false) :
    exec (.snapshotChange n e) s = .next (s.setRegion n e).redebug := by
  have hnone := errors_none (cond := fun x j => x.tdis[j].bound && x.snapshotBroken j) (cause := 2) (s := s.setRegion n e) (l := List.finRange 16)
    fun j _ => by
      rw [(setRegion_keeps s n e).1, Bool.and_eq_false_imp]
      exact hno j
  have hev : evSnapshotChange n e s = some (s.setRegion n e).redebug := congrArg (fun x => some (State.redebug x)) hnone
  exact outside_some (s := s) hev

theorem keyTable_fails (s : State) (i : Fin 16) (hb : s.tdis[i].bound = true) : Makes (.keyTableError i) s fun t =>
    t.tdis[i].state = .error ∧ t.tdis[i].cause = 3 ∧ (∀ r ∈ t.regions, r.itf = i → t.keyOf r = none) ∧ ∀ k ∈ s.boundTo i, t.ctxs[k].state = .faulted := by
  have hev : evKeyTableError i s = some (s.enterError i 3).redebug := if_pos hb
  obtain ⟨hst, hca, hkeys, hctxs⟩ := (enterError_inError s i 3).redebug
  exact makes_outside rfl hev ⟨hst, hca, hkeys, hctxs⟩

end Sys2Proof.Machine
end

section
/-! Debug sessions, settled (04 R142, R143). -/

namespace Sys2Proof.Machine

/-! ## The sessions of a module -/

theorem le_strongest {x : Fin 3} {l : List (Fin 3)} (h : x ∈ l) : x ≤ strongest l := by
  have hacc : ∀ (l : List (Fin 3)) (a : Fin 3), a ≤ l.foldl (fun a b => if a < b then b else a) a ∧
      ∀ y ∈ l, y ≤ l.foldl (fun a b => if a < b then b else a) a := by
    intro l
    induction l with
    | nil => exact fun a => ⟨Fin.le_refl a, nofun⟩
    | cons b l ih =>
      intro a
      obtain ⟨hstart, hall⟩ := ih (if a < b then b else a)
      rw [List.foldl_cons]
      have hmax : a ≤ (if a < b then b else a) ∧ b ≤ if a < b then b else a := by
        split
        · next h => exact ⟨Fin.le_of_lt h, Fin.le_refl b⟩
        · next h => exact ⟨Fin.le_refl a, Fin.not_lt.mp h⟩
      refine ⟨Fin.le_trans hmax.1 hstart, fun y hy => ?_⟩
      rcases List.mem_cons.mp hy with rfl | hy
      · exact Fin.le_trans hmax.2 hstart
      · exact hall y hy
  exact (hacc l 0).2 x h

/-- A list of cores changed at one number has the same others. -/
theorem filter_assocSet {α : Type} {p : Nat × α → Bool} (n : Nat) (x : α) (hp : ∀ y, p (n, y) = false) (l : List (Nat × α)) :
    (assocSet l n x).filter p = l.filter p := by
  induction l with
  | nil => exact List.filter_cons_of_neg (by rw [hp]; exact Bool.false_ne_true)
  | cons a l ih =>
    obtain ⟨m, y⟩ := a
    have hn : ∀ z, ¬ p (n, z) = true := fun z => by rw [hp]; exact Bool.false_ne_true
    unfold assocSet
    split
    · next he =>
      subst he
      rw [List.filter_cons_of_neg (hn x), List.filter_cons_of_neg (hn y)]
    · split
      · rw [List.filter_cons_of_neg (hn x)]
      · rw [List.filter_cons, List.filter_cons, ih]

/-- A core of another interface has no part in an interface's sessions. -/
theorem debugOf_setCore {s : State} {n : Nat} {j : Fin 16} (d : Core) (h : s.itfAt n ≠ some j) : (s.setCore n d).debugOf j = s.debugOf j := by
  have hcores : (assocSet s.cores n d).filter (fun x => decide (s.itfAt x.1 = some j)) = s.cores.filter fun x => decide (s.itfAt x.1 = some j) :=
    filter_assocSet n d (fun _ => decide_eq_false h) s.cores
  exact congrArg (fun l => strongest (l.map (fun x => x.2.session) ++ (s.boundTo j).flatMap fun k => s.ctxs[k].sessions)) hcores

/-- A core's session is one of its interface's. -/
theorem session_le_debugOf {s : State} {n : Nat} {j : Fin 16} (d : Core) (h : s.itfAt n = some j) : d.session ≤ (s.setCore n d).debugOf j := by
  refine le_strongest (List.mem_append_left _ (List.mem_map.mpr ⟨(n, d), List.mem_filter.mpr ⟨?_, decide_eq_true h⟩, rfl⟩))
  exact assoc_mem (core_setCore s n d)

/-! ## A session attached -/

/-- The core that a session of some kind attaches to. -/
def Core.attached (c : Core) (kind : Fin 3) : Core := if kind = 2 then ({ c with halted := true } : Core).askFreeze else { c with traced := true }

/-- A session within every interface's consent puts none in error. -/
theorem attach_stands {s : State} {n : Nat} (kind : Fin 3) (hi : s.itfAt n = none)
    (hcons : ∀ i : Fin 16, s.tdis[i].bound = true → s.debugOf i ≤ s.tdis[i].consent) :
    s.attach n kind = (s.setCore n ((s.coreOr n).attached kind)).redebug := by
  have hnone := errors_none (cond := fun x j => x.tdis[j].bound && decide (x.tdis[j].consent < x.debugOf j)) (cause := 1)
    (s := s.setCore n ((s.coreOr n).attached kind)) (l := List.finRange 16) fun j _ => by
      rw [Bool.and_eq_false_imp, debugOf_setCore _ (by rw [hi]; exact nofun)]
      exact fun hb => decide_eq_false (Fin.not_lt.mpr (hcons j hb))
  exact congrArg State.redebug hnone

/-- A session beyond an interface's consent puts it in error. -/
theorem attach_fails {s : State} {n : Nat} {i : Fin 16} (kind : Fin 3) (hi : s.itfAt n = some i) (hb : s.tdis[i].bound = true)
    (hcons : ∀ j : Fin 16, j ≠ i → s.tdis[j].bound = true → s.debugOf j ≤ s.tdis[j].consent)
    (hbeyond : s.tdis[i].consent < ((s.coreOr n).attached kind).session) : InError s i 1 (s.attach n kind) := by
  obtain ⟨pre, post, hsplit, hpre, hpost⟩ := finRange_split i
  have hsame := errors_none (cond := fun x j => x.tdis[j].bound && decide (x.tdis[j].consent < x.debugOf j)) (cause := 1)
    (s := s.setCore n ((s.coreOr n).attached kind)) (l := pre) fun j hj => by
      have hne : j ≠ i := fun e => hpre (e ▸ hj)
      rw [Bool.and_eq_false_imp, debugOf_setCore _ (by rw [hi]; exact fun e => hne (Option.some.inj e).symm)]
      exact fun hb => decide_eq_false (Fin.not_lt.mpr (hcons j hne hb))
  have hcond : ((s.setCore n ((s.coreOr n).attached kind)).tdis[i].bound &&
      decide ((s.setCore n ((s.coreOr n).attached kind)).tdis[i].consent < (s.setCore n ((s.coreOr n).attached kind)).debugOf i)) = true := by
    rw [Bool.and_eq_true, decide_eq_true_eq]
    exact ⟨hb, Fin.lt_of_lt_of_le hbeyond (session_le_debugOf _ hi)⟩
  have hin := errors_of (cond := fun x j => x.tdis[j].bound && decide (x.tdis[j].consent < x.debugOf j)) (cause := 1) hpost
    (by rw [hsame]; exact .refl _) (by rw [hsame]; exact hcond)
  rw [← hsplit] at hin
  obtain ⟨hst, hca, hkeys, hctxs⟩ := hin.redebug
  exact ⟨hst, hca, hkeys, hctxs⟩

theorem attached_trace (c : Core) : c.attached 1 = { c with traced := true } := if_neg (by decide)
theorem attached_halt (c : Core) : c.attached 2 = ({ c with halted := true } : Core).askFreeze := if_pos rfl

theorem session_trace (c : Core) : 1 ≤ (c.attached 1).session := by
  rw [attached_trace, Core.session]
  split
  · decide
  · exact Fin.le_refl _

theorem session_halt (c : Core) : (c.attached 2).session = 2 := by
  have hhalted : (c.attached 2).halted = true := by
    rw [attached_halt, Core.askFreeze]
    split <;> rfl
  rw [Core.session, if_pos hhalted]

/-- A session asked for of a core without an interface: it attaches, and the module wakes from S1. -/
theorem askDebug_stands {s : State} {n : Nat} {c : Core} (kind : Fin 3) (hn : s.core n = some c) (hi : s.itfAt n = none)
    (hcons : ∀ i : Fin 16, s.tdis[i].bound = true → s.debugOf i ≤ s.tdis[i].consent) (hp : s.power = .p0 ∨ s.power = .p1 ∨ s.power = .s1) :
    ∃ t, s.askDebug n kind = some t ∧ t.core n = some (c.attached kind) ∧ (s.power = .s1 → t.power = .p0) := by
  have hcore : ∀ u : State, u.cores = s.cores → u.coreOr n = c := fun u hu => by
    rw [State.coreOr, State.core, hu, show assoc s.cores n = some c from hn]
    rfl
  have hat : ∀ u : State, u.cores = s.cores → u.attach n kind = (u.setCore n ((u.coreOr n).attached kind)).redebug →
      (u.attach n kind).core n = some (c.attached kind) ∧ (u.attach n kind).power = u.power := fun u hu ha => by
    obtain ⟨_, _, _, hcores, hpower⟩ := redebug_only (u.setCore n ((u.coreOr n).attached kind))
    rw [ha, hpower, State.core, hcores, hcore u hu]
    exact ⟨core_setCore u n _, rfl⟩
  rcases hp with hp | hp | hp
  · exact ⟨_, by rw [State.askDebug, hp], (hat s rfl (attach_stands kind hi hcons)).1, fun h => nomatch hp.symm.trans h⟩
  · exact ⟨_, by rw [State.askDebug, hp], (hat s rfl (attach_stands kind hi hcons)).1, fun h => nomatch hp.symm.trans h⟩
  · have hwoken := hat { s with power := .p0 } rfl (attach_stands kind hi hcons)
    exact ⟨_, by rw [State.askDebug, hp], hwoken.1, fun _ => hwoken.2⟩

theorem session_attaches {s : State} {n : Nat} {c : Core} (hn : s.core n = some c) (hi : s.itfAt n = none)
    (hcons : ∀ i : Fin 16, s.tdis[i].bound = true → s.debugOf i ≤ s.tdis[i].consent) (hp : s.power = .p0 ∨ s.power = .p1 ∨ s.power = .s1) :
    (Makes (.debugAttachTrace n) s fun t => t.core n = some { c with traced := true } ∧ (s.power = .s1 → t.power = .p0)) ∧
    (Makes (.debugAttachHalt n) s fun t => t.core n = some ({ c with halted := true } : Core).askFreeze ∧ (s.power = .s1 → t.power = .p0)) := by
  obtain ⟨t, ht, htrace, htp⟩ := askDebug_stands 1 hn hi hcons hp
  obtain ⟨u, hu, hhalt, hup⟩ := askDebug_stands 2 hn hi hcons hp
  rw [attached_trace] at htrace
  rw [attached_halt] at hhalt
  exact ⟨makes_outside (r := evDebugAttachTrace n s) rfl ht ⟨htrace, htp⟩, makes_outside (r := evDebugAttachHalt n s) rfl hu ⟨hhalt, hup⟩⟩

theorem session_fails {s : State} {n : Nat} {i : Fin 16} (hi : s.itfAt n = some i) (hp : s.power = .p0) (hb : s.tdis[i].bound = true)
    (hcons : ∀ j : Fin 16, j ≠ i → s.tdis[j].bound = true → s.debugOf j ≤ s.tdis[j].consent) :
    (s.tdis[i].consent < 1 → Makes (.debugAttachTrace n) s fun t => t.tdis[i].state = .error ∧ t.tdis[i].cause = 1 ∧
      ∀ k ∈ s.boundTo i, t.ctxs[k].state = .faulted) ∧
    (s.tdis[i].consent < 2 → Makes (.debugAttachHalt n) s fun t => t.tdis[i].state = .error ∧ t.tdis[i].cause = 1 ∧
      ∀ k ∈ s.boundTo i, t.ctxs[k].state = .faulted) := by
  have hask : ∀ kind, s.askDebug n kind = some (s.attach n kind) := fun kind => by rw [State.askDebug, hp]
  refine ⟨fun hc => ?_, fun hc => ?_⟩
  · have hin := attach_fails 1 hi hb hcons (Fin.lt_of_lt_of_le hc (session_trace _))
    exact makes_outside (r := evDebugAttachTrace n s) rfl (hask 1) ⟨hin.state, hin.cause, hin.ctxs⟩
  · have hin := attach_fails 2 hi hb hcons (by rw [session_halt]; exact hc)
    exact makes_outside (r := evDebugAttachHalt n s) rfl (hask 2) ⟨hin.state, hin.cause, hin.ctxs⟩

theorem session_refused {s : State} {n : Nat} (hp : s.power = .s3) :
    exec (.debugAttachTrace n) s = .next { s with mgmt := s.mgmt ++ [.debugRefused n] } ∧
    exec (.debugAttachHalt n) s = .next { s with mgmt := s.mgmt ++ [.debugRefused n] } := by
  have hask : ∀ kind, s.askDebug n kind = some { s with mgmt := s.mgmt ++ [.debugRefused n] } := fun kind => by rw [State.askDebug, hp]
  exact ⟨outside_some (r := evDebugAttachTrace n s) (hask 1), outside_some (r := evDebugAttachHalt n s) (hask 2)⟩

/-! ## A session that ends -/

/-- A walk of the handle a reply names leaves the core's firing and sessions. -/
theorem rewalk_sessions {s : State} {n : Nat} {c : Core} (hn : s.core n = some c) : ∃ d, (s.rewalk n).core n = some d ∧ d.firing = c.firing ∧
    d.traced = c.traced ∧ d.halted = c.halted ∧ d.frozen = c.frozen := by
  simp only [State.rewalk, hn]
  split
  · exact ⟨c, hn, rfl, rfl, rfl, rfl⟩
  · next h _ => exact ⟨c.emptyHandle h, core_setCore _ _ _, rfl, rfl, rfl, rfl⟩

/-- A kept reply to a core without a firing changes nothing of its sessions, and does not freeze it. -/
theorem answerKept_idle {s : State} {n : Nat} {c : Core} (hn : s.core n = some c) (hf : c.firing = none) : ∃ d, (s.answerKept n).core n = some d ∧
    d.traced = c.traced ∧ d.halted = c.halted ∧ d.frozen = c.frozen := by
  have hidle : ∀ (t : State) (d : Core), t.core n = some d → d.firing = none → t.resumeCore n = t ∧ t.endCore n = t := fun t d hd hdf => by
    simp only [State.resumeCore, State.endCore, hd, hdf]
    exact ⟨trivial, trivial⟩
  have hkept : (s.setCore n { c with reply := none }).core n = some { c with reply := none } := core_setCore _ _ _
  simp only [State.answerKept, hn]
  split
  · rw [State.answer, (hidle _ _ hkept hf).1]
    exact ⟨_, hkept, rfl, rfl, rfl⟩
  · obtain ⟨e, he, hef, ht, hh, hz⟩ := rewalk_sessions hkept
    rw [State.answer, (hidle _ _ he (hef.trans hf)).1]
    exact ⟨e, he, ht, hh, hz⟩
  · rw [State.answer, (hidle _ _ hkept hf).2]
    exact ⟨_, hkept, rfl, rfl, rfl⟩
  · exact ⟨c, hn, rfl, rfl, rfl⟩

theorem session_ends {s : State} {n : Nat} {c : Core} (hn : s.core n = some c) (hses : c.traced = true ∨ c.halted = true) (hf : c.firing = none) :
    Makes (.debugSessionEnd n) s fun t => ∃ d, t.core n = some d ∧ d.traced = false ∧ d.halted = false ∧
      (c.halted = true → s.savingAt n = false → c.failed = false → d.frozen = false) := by
  have hne : c.session ≠ 0 := by
    unfold Core.session
    split
    · decide
    · next h =>
      rw [if_pos (hses.resolve_right h)]
      decide
  have hhas : s.hasSession n = true := by
    refine Bool.or_eq_true_iff.mpr (.inl (List.any_eq_true.mpr ⟨(n, c), assoc_mem hn, ?_⟩))
    simpa using hne
  have hev : evDebugSessionEnd n s = some (s.endSession n).redebug := if_pos hhas
  have hthaw : c.halted = true → s.savingAt n = false → c.failed = false → (c.released (s.savingAt n)).frozen = false := fun hh hs hfail => by
    simp [Core.released, hh, hs, hfail]
  have hreleased : (s.setCore n (c.released (s.savingAt n))).core n = some (c.released (s.savingAt n)) := core_setCore _ _ _
  refine makes_outside rfl hev ?_
  rw [State.core, (redebug_only _).2.2.2.1]
  simp only [State.endSession, hn]
  split
  · obtain ⟨d, hd, ht, hh, hz⟩ := answerKept_idle hreleased hf
    exact ⟨d, hd, ht, hh, fun h1 h2 h3 => hz.trans (hthaw h1 h2 h3)⟩
  · exact ⟨_, hreleased, rfl, rfl, hthaw⟩

/-- Settles O60: an error of one interface leaves the others as they are, so that what puts one in error leaves it there, its keys destroyed and its
contexts FAULTED. -/
theorem tenantsAndDebug : Obligations.TenantsAndDebug :=
  ⟨lock_answers, key_answers, start_answers, stop_waits, stop_unlocks,
    fun s i => ⟨outside_some (s := s) (r := evGetDeviceInterfaceReport i s) rfl, outside_some (s := s) (r := evTdispUnsupported i s) rfl⟩,
    snapshot_stands, fun s i n e hb hbroken => snapshot_breaks s i n e hb hbroken, keyTable_fails,
    fun s nonce => outside_some (s := s) (r := evAttestationRequest nonce s) rfl,
    fun _ _ _ hn hi hcons hp => session_attaches hn hi hcons hp,
    fun _ _ _ hi hp hb hcons => session_fails hi hp hb hcons,
    fun _ _ hp => session_refused hp,
    fun _ _ _ hn hses hf => session_ends hn hses hf⟩

end Sys2Proof.Machine
end
